-- ==== Sys2Proof/Word.lean ====
section
/-! DEFINITION. The word types of the block: 32-bit registers (R3), bytes of device memory (R236), and the two
numbers a register field needs. -/

namespace Sys2Proof

/-- A register of the block (R3: every register is 32 bits wide). -/
abbrev Word := BitVec 32

/-- A byte of device memory (R236) or of a buffer. -/
abbrev Byte := BitVec 8

end Sys2Proof
end

