-- ==== Sys2Proof/Syntax.lean ====
section
/-! DEFINITION. The commands the block takes: one constructor of `Instr` per row of spec/opcode_table.json, with the
operands the rule of that row names. What a codec, a line, a sensor or a host memory yields is an operand: it comes
from outside the block's registers. -/

namespace Sys2Proof

/-- The two engine kinds of R13: encode engines (EE) and decode engines (DE). -/
inductive EngKind where
  | ee
  | de
  deriving DecidableEq, Repr

/-- A segment of one picture of one encode context (R158): context, picture number in coding order, segment. -/
structure SegId where
  ctx : Fin 256
  pic : Nat
  seg : Nat
  deriving DecidableEq, Repr

/-- One plane of samples in raster order. -/
structure Plane where
  w    : Nat
  h    : Nat
  data : Array Nat
  deriving DecidableEq, Repr

/-- A block with its list-0 motion vector, in sixteenths of a luma sample (R90, R143). A block without list-0 motion is
in no list of blocks. -/
structure Block where
  x : Nat
  y : Nat
  w : Nat
  h : Nat
  mvx : Int
  mvy : Int
  deriving DecidableEq, Repr

/-- A rectangle of luma samples. -/
structure Rect where
  x : Nat
  y : Nat
  w : Nat
  h : Nat
  deriving DecidableEq, Repr, Inhabited

/-- The samples of a picture of its cropped size, and the motion it stores (R144, R149). -/
structure Picture where
  depth10 : Bool
  c422    : Bool
  luma    : Plane
  cb      : Plane
  cr      : Plane
  motion  : List Block
  deriving DecidableEq, Repr

/-- The metadata of R153, each as its payload bytes, empty where there is none; `t35Here`: this picture's own access unit
carries the T.35 message. -/
structure HdrData where
  mdcv : List Byte
  cll  : List Byte
  t35  : List Byte
  t35Here : Bool
  deriving DecidableEq, Repr

/-- What else Quartz reads from a coded picture: PIC_TYPE, TFF and GRAIN of R150, the matrix code and range of its VUI or
color_config (R184), its metadata, and whether it begins a coded sequence (R153). -/
structure StreamInfo where
  ptype : Fin 6
  tff   : Bool
  grain : Bool
  matrix : Nat
  full  : Bool
  hdr   : HdrData
  newSeq : Bool
  deriving DecidableEq, Repr

/-- What lookahead takes from MICA on one picture (R119): the lowest L2 SAD code of each search unit, in raster order. -/
structure LaCodes where
  codes : List Nat
  deriving DecidableEq, Repr

/-- A layer that a PPU reads over the bus (R187): the eight words of its descriptor, and its pixels in raster order. -/
structure BusLayer where
  words  : List Word
  pixels : List Word
  deriving DecidableEq, Repr

/-- What lookahead measures on one submitted picture (R119): the sums of intra and inter costs, the complexity of each
search unit in raster order, and the sum of its L2 samples, which stands for its mean luma. -/
structure Lookahead where
  intra : Nat
  inter : Nat
  cplx  : List Nat
  luma  : Nat
  deriving DecidableEq, Repr

/-- A slice or tile of a coded picture (R137, R141): the tile that it lies in, in coding units (the picture, where there is
none), and its units, counted in raster order of that tile. -/
structure CodedRun where
  tile    : Rect
  first   : Nat
  count   : Nat
  /-- first byte in the access unit, bytes, and bytes of its header -/
  at_     : Nat
  len     : Nat
  head    : Nat
  /-- its header is damaged; the unit at which its data violates the syntax -/
  headBad : Bool
  bad     : Option Nat
  /-- entropy decoding restarts here (R137) -/
  starts  : Bool
  /-- which of the picture's references is RefPicList0[0], or LAST_FRAME (R143) -/
  list0   : Option Nat
  deriving DecidableEq, Repr

/-- What Quartz reads of one coded picture of an access unit of a decode context (R132–R135, R139–R145). A picture is named
by its output order: POC, or order hint. -/
structure AccessUnit where
  codec    : Nat
  profile  : Nat
  level    : Nat
  depth10  : Bool
  chroma422 : Bool
  /-- chroma format 4:4:4 or monochrome, or 12-bit samples (R133) -/
  exotic   : Bool
  /-- FMO, ASO or redundant slices, or large-scale tile (R133) -/
  barred   : Bool
  width    : Nat
  height   : Nat
  unit     : Nat
  /-- the content of the parameter set or sequence header that it refers to, whether an instance of it comes with the unit,
  and whether that set has come and is well formed (R134) -/
  params   : List Byte
  paramsHere : Bool
  wellFormed : Bool
  rap      : Bool
  /-- the standard outputs the picture; it is a RASL picture (R148); the frame that show_existing_frame shows (R149) -/
  shown    : Bool
  rasl     : Bool
  show_    : Option Int
  /-- two interleaved fields; a field picture: its parity, whether it is the second of its frame (R133) -/
  fields   : Bool
  field    : Option Bool
  second   : Bool
  /-- output order; the references that its lists or ref_frame_idx name, RefPicList0[0] or LAST_FRAME first; the pictures
  that stay references when it is decoded; whether it becomes one; how many pictures output may lag -/
  order    : Int
  refs     : List Int
  keep     : List Int
  isRef    : Bool
  reorder  : Nat
  /-- every slice is intra; a gradual refresh starts; its recovery completes (R147) -/
  intra    : Bool
  refreshStart : Bool
  recovers : Bool
  data     : List Byte
  runs     : List CodedRun
  info     : StreamInfo
  deriving DecidableEq, Repr

/-- Samples of a region for the CRC of R64: luma in raster order, then Cb, then Cr. -/
structure Samples where
  luma : List (BitVec 16)
  cb   : List (BitVec 16)
  cr   : List (BitVec 16)
  deriving DecidableEq, Repr

/-- What a coding unit becomes (R60): the bits that S7 codes, and the blocks of motion that it stores. -/
structure UnitCode where
  bits   : List Bool
  motion : List Block
  deriving DecidableEq, Repr, Inhabited

/-- A run that an undetected fault of its engine touched (R176): the bits that end the segment, and the samples that its
SEG_CRC is taken over. -/
structure SegUpset where
  endBits : List Bool
  samples : Samples
  deriving DecidableEq, Repr

/-- A verify job that an undetected fault of its engine touched (R176): the samples, and whether it found a syntax error. -/
structure DecUpset where
  samples   : Samples
  syntaxErr : Bool
  deriving DecidableEq, Repr

/-- The stage times of one coding unit (R347): ENG_CLK cycles from S0 entry to S1 … S7, to the exit from S7, and the
cause per stage. -/
structure TagTimes where
  cycles : List Nat
  causes : List Nat
  deriving DecidableEq, Repr

/-- The measures of one 100 ms window (R179) that slot classes give (R341). -/
structure Window where
  eeWork  : Nat
  eeSlots : Nat
  deWork  : Nat
  deSlots : Nat
  dramWait : Nat
  deriving DecidableEq, Repr

/-- What a received frame carries above the MAC (R198–R201). -/
inductive Payload where
  /-- TS over UDP or RTP: RTP header fields (version, sequence number, timestamp), number of bytes of the TS part -/
  | media (rtp : Bool) (version seq ts bytes : Nat)
  /-- a SMPTE ST 2022-1 FEC packet: first sequence number, offset L and count D, and the RTP timestamp and bytes of the
  media packet that it yields where it repairs one (R202) -/
  | fec (base l d ts bytes : Nat)
  /-- a PTP message, taken by the PTP agent (R213) -/
  | ptp
  /-- an ARP request or a neighbour solicitation for an address (R198) -/
  | resolve (addr : Nat)
  /-- an ICMP or ICMPv6 echo request to an address (R198) -/
  | echo (addr : Nat)
  /-- an IGMP or MLD query of a group, 0 for all (R215) -/
  | query (group : Nat)
  /-- other ARP, neighbour discovery, IGMP and MLD messages, taken by Bedrock (R198) -/
  | bedrock
  /-- PAUSE or priority flow control (R196) -/
  | pause
  /-- anything else -/
  | other
  deriving DecidableEq, Repr

/-- A received frame (R198, R199). -/
structure Frame where
  fcsOk    : Bool
  bytes    : Nat
  tags     : Nat
  vlan     : Nat
  dstMac   : Nat
  ipv6     : Bool
  /-- fragmented IPv4, IPv6 extension headers, or a wrong header checksum (R198) -/
  ipBad    : Bool
  /-- a nonzero UDP checksum that is wrong, or a zero one over IPv6 (R198) -/
  udpBad   : Bool
  dstAddr  : Nat
  srcAddr  : Nat
  dstPort  : Nat
  payload  : Payload
  deriving DecidableEq, Repr

/-- An entry of a PMT (R205). -/
structure PmtEntry where
  streamType  : Nat
  pid         : Nat
  descriptors : List Byte
  deriving DecidableEq, Repr

/-- A table that a TS packet completes (R205): a PAT, its programs with the PIDs of their PMTs; a PMT and its program. -/
inductive TsTable where
  | pat (programs : List (Nat × Nat))
  | pmt (program : Nat) (streams : List PmtEntry)
  deriving DecidableEq, Repr

/-- A TS packet of a released packet, as the demultiplexer sees it (R205): its PID, payload_unit_start_indicator,
continuity_counter and discontinuity_indicator, the table it completes, its payload, the PTS and DTS of a PES header that it
begins with, and, where that PES packet begins an access unit of the video, the frames of the access unit that it ends (none:
that one's start was lost). -/
structure TsIn where
  pid     : Nat
  start   : Bool
  cc      : Nat
  discont : Bool
  table   : Option TsTable
  data    : List Byte
  pts     : Nat
  dts     : Option Nat
  au      : Option (List AccessUnit)
  deriving DecidableEq, Repr

/-- What a PTP message names (R213): the port that took it, its transport and domain, the clock that sent it. -/
structure PtpFrom where
  port      : Nat
  transport : Nat
  domain    : Nat
  clock     : Nat
  deriving DecidableEq, Repr

/-- A PTP message (R213, R214): a Sync with the error in ns that its timestamps give, or an Announce with its data set in the
order in which the best master clock algorithm compares. -/
inductive PtpMessage where
  | sync (from_ : PtpFrom) (error : Int)
  | announce (from_ : PtpFrom) (rank : List Nat)
  deriving DecidableEq, Repr

/-- Where a mailbox command comes from (R330). -/
inductive MbxVia where
  | pf
  | mctp
  deriving DecidableEq, Repr

/-- The verdict of R329 on a package: valid, a check of key, signature or digest failed, or its SECURITY_VERSION lies
below the rollback counter. -/
inductive PackageCheck where
  | valid (version : Nat)
  | verifyFail
  | rollback
  deriving DecidableEq, Repr

/-- The four checks of Bedrock's ROM (R309 step 2, R313). -/
structure RomCheck where
  rom  : Bool
  fuse : Bool
  core : Bool
  sram : Bool
  deriving DecidableEq, Repr

/-- A failed burst (R269): a host access that failed, or poisoned device data. -/
inductive BurstErr where
  | hostErr
  | memPoison
  deriving DecidableEq, Repr

/-- One shaper node of Shale (R220): a queue, a service node, a traffic class of a port, or a port node. -/
inductive Node where
  | queue (q : Fin 32768)
  | service (n : Fin 1024)
  | tclass (port : Fin 8) (tc : Fin 8)
  | port (p : Fin 8)
  deriving DecidableEq, Repr

/-- A PCIe link state the endpoint moves between (R316). -/
inductive LinkState where
  | l0
  | l1
  | l12
  deriving DecidableEq, Repr

/-- One reading of the sensors (R334): 24 thermal readings (none: the sensor stopped), 12 voltages, 11 currents. -/
structure Sensors where
  temps : List (Option Int)
  volts : List Nat
  amps  : List Nat
  deriving DecidableEq, Repr

/-- The commands of the block: one constructor per row of spec/opcode_table.json. Each docstring names the row's rule. -/
inductive Instr where
  -- registers
  /-- REGISTER_WRITE (R3, R5, R6): an access of `size` bytes through function `fn`, or through the internal mapping of
  the network agent, owner 64 (R25), at its page and offset. -/
  | registerWrite (fn : Fin 65) (page off size : Nat) (val : BitVec 64)
  /-- EXPERT_KEY_WRITE (R9, R351). -/
  | expertKeyWrite (fn : Fin 65) (page : Nat) (val : Word)
  /-- RC_FIELD_READ (R3, R6, R7): a read of `size` bytes; `bump`: the bits by which hardware raises the register in the
  same cycle. -/
  | rcFieldRead (fn : Fin 65) (page off size : Nat) (bump : Word)
  /-- QUANTITY_LOW_WORD_READ (R3, R4): a read of `size` bytes. -/
  | quantityLowWordRead (fn : Fin 65) (page off size : Nat)
  /-- QUANTITY_LOWER_WORD_WRITE (R4). -/
  | quantityLowerWordWrite (fn : Fin 65) (page off : Nat) (val : Word)
  /-- QUANTITY_HIGHEST_WORD_WRITE (R4). -/
  | quantityHighestWordWrite (fn : Fin 65) (page off : Nat) (val : Word)
  -- rings
  /-- SQ_DOORBELL (R27). -/
  | sqDoorbell (fn : Fin 64) (ring : Fin 4) (val : Word)
  /-- CQ_DOORBELL (R27, R29). -/
  | cqDoorbell (fn : Fin 64) (ring : Fin 4) (val : Word)
  /-- RING_RESET (R27). -/
  | ringReset (fn : Fin 64) (ring : Fin 4)
  /-- RING_ENABLE (R27): a write of RING_CTL with ENABLE 1. -/
  | ringEnable (fn : Fin 64) (ring : Fin 4) (val : Word)
  /-- RING_DISABLE (R32): a write of RING_CTL with ENABLE 0. -/
  | ringDisable (fn : Fin 64) (ring : Fin 4) (val : Word)
  /-- COMMAND_FETCH (R28, R29); `host`: the sixteen words the bus returns when the SQ lies on the bus. -/
  | commandFetch (own : Fin 65) (ring : Fin 4) (host : List Word)
  /-- CQ_ENTRY_WRITE (R29, R30). -/
  | cqEntryWrite (own : Fin 65) (ring : Fin 4)
  /-- RING_HOLD_EXPIRY (R31). -/
  | ringHoldExpiry (fn : Fin 64) (ring : Fin 4)
  /-- RING_LINK_ERR (R32); `read`: an SQ read failed, otherwise a CQ write. -/
  | ringLinkErr (fn : Fin 64) (ring : Fin 4) (read : Bool)
  -- the opcodes of R38: the device begins the first fetched command of the ring, which carries that opcode
  /-- OPEN (R56). -/
  | opOpen (own : Fin 65) (ring : Fin 4)
  /-- CONFIGURE (R44). -/
  | opConfigure (own : Fin 65) (ring : Fin 4)
  /-- START (R42). -/
  | opStart (own : Fin 65) (ring : Fin 4)
  /-- SUBMIT (R45); what lookahead takes from MICA (encode, R119), or the coded pictures that Quartz finds in the access unit
  (decode). -/
  | opSubmit (own : Fin 65) (ring : Fin 4) (la : LaCodes) (au : List AccessUnit)
  /-- FLUSH (R47). -/
  | opFlush (own : Fin 65) (ring : Fin 4)
  /-- RECONFIG (R49). -/
  | opReconfig (own : Fin 65) (ring : Fin 4)
  /-- FORCE_KEY (R50). -/
  | opForceKey (own : Fin 65) (ring : Fin 4)
  /-- SET_RATE (R130). -/
  | opSetRate (own : Fin 65) (ring : Fin 4)
  /-- LINK (R52). -/
  | opLink (own : Fin 65) (ring : Fin 4)
  /-- BIND (R54). -/
  | opBind (own : Fin 65) (ring : Fin 4)
  /-- QUERY (R38). -/
  | opQuery (own : Fin 65) (ring : Fin 4)
  /-- CLOSE (R48). -/
  | opClose (own : Fin 65) (ring : Fin 4)
  /-- UNDEFINED_OPCODE (R40). -/
  | undefinedOpcode (own : Fin 65) (ring : Fin 4)
  -- encode
  /-- PICTURE_ENTER_CODING (R121). -/
  | pictureEnterCoding (ctx : Fin 256)
  -- owners
  /-- FUNCTION_LEVEL_RESET (R55). -/
  | functionLevelReset (fn : Fin 64)
  /-- LINK_DOWN (R55). -/
  | linkDown
  /-- VF_ENABLE_CHANGE (R256). -/
  | vfEnableChange (enable : Bool) (num : Fin 64)
  -- placement and coding
  /-- PLACE_WORK (R161). -/
  | placeWork (kind : EngKind)
  /-- SEGMENT_FIRST_CTU (R61). -/
  | segmentFirstCtu (ee : Fin 18)
  /-- CODING_UNIT_CODED (R60, R123): a unit leaves S7. `upset`: the normal form and the ration form of the unit as an
  undetected fault of the engine made them; none where it worked, and R63 gives both. -/
  | codingUnitCoded (ee : Fin 18) (upset : Option (UnitCode × UnitCode)) (tag : TagTimes)
  /-- CTU_ROW_COMPLETE (R170). -/
  | ctuRowComplete (ee : Fin 18)
  /-- SEGMENT_RETURN (R62, R63); `upset`: what an undetected fault of the engine made of the end of the segment. -/
  | segmentReturn (ee : Fin 18) (upset : Option SegUpset)
  /-- SEARCH_JOB_ISSUE (R98). -/
  | searchJobIssue (seg : SegId)
  /-- SEARCH_JOB_COMPLETE (R96); `codes`: the SAD code of each position evaluated, in the order of R93. -/
  | searchJobComplete (bank : Fin 4) (seg : SegId) (codes : List Nat)
  /-- SEARCH_WAIT_EXPIRY (R99, moment 2). -/
  | searchWaitExpiry (seg : SegId)
  /-- SEARCH_DEADLINE_FALLBACK (R99, moment 3). -/
  | searchDeadlineFallback (seg : SegId)
  /-- STAGE_WATCHDOG_EXPIRY (R87, R157, R193): BAR0 page of the unit, microseconds the stage held its unit. -/
  | stageWatchdogExpiry (page : Nat) (heldUs : Nat) (detail : Nat)
  /-- SELFTEST_START (R88, R156). -/
  | selftestStart (kind : EngKind) (n : Fin 18)
  /-- SELFTEST_END (R88). -/
  | selftestEnd (kind : EngKind) (n : Fin 18) (pass : Bool) (durationUs : Nat)
  /-- ENGINE_RETIRE (R168). -/
  | engineRetire (kind : EngKind) (n : Fin 18)
  /-- ENGINE_ADMIT (R168). -/
  | engineAdmit (kind : EngKind) (n : Fin 18)
  /-- ENGINE_DRAINED (R168). -/
  | engineDrained (kind : EngKind) (n : Fin 18)
  /-- CAPACITY_WRITE (R167): a write of CHIP.PLACE_CTL. -/
  | capacityWrite (val : Word)
  /-- VERIFY_JOB_COMPLETE (R154, R155); `upset`: what an undetected fault of the engine made of the job; `fault`: the engine
  raised a fault during it (VERIFIER_FAULT). -/
  | verifyJobComplete (de : Fin 18) (upset : Option DecUpset) (fault : Bool)
  /-- VERIFY_WAIVE (R173). -/
  | verifyWaive (seg : SegId)
  /-- BOUNDARY_JOB_COMPLETE (R178); `upset`: the samples that an undetected fault of the encode engine made it write. -/
  | boundaryJobComplete (seg : SegId) (upset : Option Samples)
  /-- OVERLOAD_WINDOW (R179). -/
  | overloadWindow (w : Window)
  /-- SHED_UNDO (R129). -/
  | shedUndo
  -- MICA
  /-- DRIFT_CHECK (R106): the next tile of the bank is reserved (none), or its check ends with a residual. -/
  | driftCheck (bank : Fin 4) (resid : Option Nat)
  /-- CAL_REQ (R106). -/
  | calReq (bank : Fin 4)
  /-- MICA_RETIRE (R374). -/
  | micaRetire (bank : Fin 4)
  /-- MICA_ADMIT (R374). -/
  | micaAdmit (bank : Fin 4)
  /-- CAL_DONE (R336): the residual of each tile and its trim codes. -/
  | calDone (bank : Fin 4) (resid : List Nat) (trim : List (List Nat))
  /-- TILE_MASK_WRITE (R105). -/
  | tileMaskWrite (bank : Fin 4) (val : Word)
  /-- MIN_TILES_WRITE (R105). -/
  | minTilesWrite (bank : Fin 4) (val : Word)
  -- decode
  /-- DECODE_PART_COMPLETE (R139). -/
  | decodePartComplete (de : Fin 18)
  /-- ACCESS_UNIT_TIMEOUT (R205): the coded pictures of the unit that the timeout completes. -/
  | accessUnitTimeout (ctx : Fin 256) (au : List AccessUnit)
  -- picture processing
  /-- PPU_JOB_ISSUE (R191): destination context; `bus`: the layers, where they lie at bus addresses (R187); `failed`: the
  entries whose descriptor or image a read of the job fails for (R189). -/
  | ppuJobIssue (dst : Fin 256) (bus : List BusLayer) (failed : List Nat)
  /-- PPU_JOB_COMPLETE (R192). -/
  | ppuJobComplete (ppu : Fin 8)
  /-- PP_LAYER_BASE_WRITE (R189): a write of the upper word. -/
  | ppLayerBaseWrite (fn : Fin 65) (page : Nat) (val : Word)
  -- network
  /-- NET_MODE_WRITE (R195). -/
  | netModeWrite (val : Word)
  /-- PORT_ENABLE (R195): a write of ETH.CTL with ENABLE 1, and the eye heights that calibration measures (R335). -/
  | portEnable (port : Fin 8) (val : Word) (eyes : List Nat)
  /-- LINK_CHANGE (R216). -/
  | linkChange (port : Fin 8) (up : Bool)
  /-- AN_DONE (R197): the FEC that auto-negotiation resolves. -/
  | anDone (port : Fin 8) (fec : Fin 4)
  /-- FRAME_RECEIVE (R198). -/
  | frameReceive (port : Fin 8) (f : Frame)
  /-- PACKET_RELEASE (R203). -/
  | packetRelease (flow : Fin 4096) (ts : List TsIn)
  /-- FLOW_READ (R217). -/
  | flowRead
  /-- FLOW_WRITE (R206). -/
  | flowWrite
  /-- FLOW_ENABLE (R217). -/
  | flowEnable
  /-- FLOW_DISABLE (R206). -/
  | flowDisable
  /-- SERVICE_READ (R218). -/
  | serviceRead
  /-- SERVICE_WRITE (R218). -/
  | serviceWrite
  /-- SERVICE_ENABLE (R218). -/
  | serviceEnable
  /-- SERVICE_DISABLE (R207). -/
  | serviceDisable
  /-- PSI_REPEAT (R208). -/
  | psiRepeat (svc : Fin 1024)
  /-- MUX_PACKET_SLOT (R208). -/
  | muxPacketSlot (svc : Fin 1024)
  /-- AUDIO_DROP (R208). -/
  | audioDrop (svc : Fin 1024)
  /-- DATAGRAM_FLUSH (R210). -/
  | datagramFlush (svc : Fin 1024)
  /-- STORE_MOVE (R212). -/
  | storeMove (svc : Fin 1024)
  /-- PTP_MESSAGE (R214). -/
  | ptpMessage (m : PtpMessage)
  /-- ANNOUNCE_RECEIPT_TIMEOUT (R214). -/
  | announceReceiptTimeout
  /-- MEMBERSHIP_REPORT (R215). -/
  | membershipReport (flow : Fin 4096)
  -- Shale
  /-- WIN_READ (R221). -/
  | winRead
  /-- WIN_WRITE (R221). -/
  | winWrite
  /-- QUEUE_ENABLE (R222). -/
  | queueEnable
  /-- QUEUE_DISABLE (R221). -/
  | queueDisable (flush : Bool)
  /-- QUEUE_ALLOC (R221). -/
  | queueAlloc
  /-- QUEUE_FREE (R221). -/
  | queueFree
  /-- QUEUE_DRAINED (R221). -/
  | queueDrained (q : Fin 32768)
  /-- AGE_DROP (R223). -/
  | ageDrop (q : Fin 32768)
  /-- REFILL_TICK (R225). -/
  | refillTick (node : Node)
  /-- SHAPER_WRITE (R226): port, shaper 0–8 (port node, then TC0–TC7), word 0–3 of the shaper. -/
  | shaperWrite (port : Fin 8) (shaper : Fin 9) (word : Fin 4) (val : Word)
  /-- PORT_FRAME_START (R227). -/
  | portFrameStart (port : Fin 8)
  /-- GATE_COMMIT (R231). -/
  | gateCommit (port : Fin 8)
  /-- GATE_CANCEL (R231). -/
  | gateCancel (port : Fin 8)
  /-- GATE_SWAP (R231). -/
  | gateSwap (port : Fin 8)
  /-- GATE_ENTRY_CHANGE (R229). -/
  | gateEntryChange (port : Fin 8)
  /-- SAMPLE_TICK (R232). -/
  | sampleTick (failed : List (Fin 32768))
  /-- SAMPLE_SWAP (R232). -/
  | sampleSwap
  -- memory
  /-- DRAM_REQUEST (R237): a request for one granule; `bar2`: it comes through BAR2 (R259); bytes written, none for a
  byte not enabled; the empty list is a read. -/
  | dramRequest (bar2 : Bool) (addr : Nat) (data : List (Option Byte))
  /-- DRAM_ISSUE (R238): channel, the granules of queued requests that lie in open rows, and the bit errors a read finds in each word (R243). -/
  | dramIssue (ch : Fin 24) (openRows : List Nat) (errs : List Nat)
  /-- REFRESH_INTERVAL (R241). -/
  | refreshInterval (ch : Fin 24) (rank : Fin 2)
  /-- REFRESH_ISSUE (R241). -/
  | refreshIssue (ch : Fin 24) (rank : Fin 2)
  /-- MR4_POLL (R240): the multiplier code 0–4 that MR4 reports, and whether it reports over-temperature. -/
  | mr4Poll (ch : Fin 24) (code : Fin 5) (hot : Bool)
  /-- REGION_ENABLE (R242). -/
  | regionEnable (r : Fin 16)
  /-- REGION_DISABLE (R242). -/
  | regionDisable (r : Fin 16)
  /-- INIT_DONE (R242). -/
  | initDone (r : Fin 16)
  /-- INTERLEAVE_TABLE_WRITE (R245): per channel the rate code it trained to (none: failed or unpopulated), and the
  eye widths of its lanes (R335). -/
  | interleaveTableWrite (rates : List (Option (Fin 5))) (eyes : List Nat)
  /-- TRAINING_RUN (R246): a write of DTRN.RUN. -/
  | trainingRun (ch : Fin 24) (val : Word)
  /-- RUN_DONE (R246): mismatched bits per signal. -/
  | runDone (ch : Fin 24) (errs : List Nat)
  /-- POOL_ENABLE (R248): a write of POOL_CTL with ENABLE 1. -/
  | poolEnable (p : Fin 8) (val : Word)
  /-- POOL_DISABLE (R248): a write of POOL_CTL with ENABLE 0. -/
  | poolDisable (p : Fin 8) (val : Word)
  /-- TALUS_ALLOC (R250). -/
  | talusAlloc (fn : Fin 64) (p : Fin 8)
  /-- TALUS_FREE (R251). -/
  | talusFree (fn : Fin 64) (handle : Word)
  -- DMA
  /-- CH_OWNER_WRITE (R261). -/
  | chOwnerWrite (ch : Fin 64) (val : Word)
  /-- ARM (R263): a write of CH_CMD through a function's path to the channel. -/
  | dmaArm (fn : Fin 64) (ch : Fin 64)
  /-- ABORT (R270). -/
  | dmaAbort (fn : Fin 64) (ch : Fin 64)
  /-- PROMOTION (R263). -/
  | promotion (ch : Fin 64)
  /-- DMA_BURST (R264): the bytes a host read returns, or the failure. -/
  | dmaBurst (ch : Fin 64) (host : List Byte) (err : Option BurstErr)
  /-- DMA_STATUS_WRITE (R269). -/
  | dmaStatusWrite (ch : Fin 64)
  -- interrupts
  /-- IRQ_DELIVERY (R278). -/
  | irqDelivery
  /-- CLAIM_READ (R285): the target, and the ID that Bedrock or a Quartz core has written through its internal port (R289). -/
  | claimRead (t : Fin 80) (port : Option (Fin 1024))
  /-- EOI (R286). -/
  | eoi (t : Fin 80) (val : Word)
  /-- PEND_WITHDRAW (R275): a write of IRQ.PENDk. -/
  | pendWithdraw (k : Fin 10) (val : Word)
  /-- SWI_TRIG (R276). -/
  | swiTrig (val : Word)
  /-- HOLDOFF_EXPIRY (R281). -/
  | holdoffExpiry (g : Fin 32)
  /-- MSIX_UNMASK (R282): a vector of a function, or the whole function, is unmasked. -/
  | msixUnmask (fn : Fin 64) (vector : Option (Fin 2048))
  -- power
  /-- POWER_DOWN (R299). -/
  | powerDown (d : Fin 64)
  /-- POWER_UP (R298). -/
  | powerUp (d : Fin 64)
  /-- DOMAIN_QUIET (R299). -/
  | domainQuiet (d : Fin 60)
  /-- RAMP_END (R299). -/
  | rampEnd (d : Fin 60)
  /-- PD_TIMEOUT_EXPIRY (R299). -/
  | pdTimeoutExpiry (d : Fin 60)
  /-- DOMAIN_WAKE (R301). -/
  | domainWake (d : Fin 60)
  /-- DOMAIN_ON (R301). -/
  | domainOn (d : Fin 60)
  /-- WAKE_FAIL (R301). -/
  | wakeFail (d : Fin 60)
  /-- IDLE_POWER_GATE (R303). -/
  | idlePowerGate (d : Fin 60)
  /-- OFF_PAGE_ACCESS (R304): a read, or a write of the value. -/
  | offPageAccess (fn : Fin 65) (page off : Nat) (write : Option Word)
  /-- OFF_PAGE_IDLE (R304). -/
  | offPageIdle (d : Fin 60)
  -- reset and bring-up
  /-- RAILS_GOOD (R292). -/
  | railsGood
  /-- CHIP_POWER_ON_RESET_RELEASE (R309): the levels of the straps, and the thermal offsets of R337. -/
  | chipPowerOnResetRelease (bootSrc : Fin 4) (smbAddr : Fin 8) (offsets : List Int)
  /-- AON_POWER_ON_RESET_RELEASE (R292). -/
  | aonPowerOnResetRelease
  /-- RAIL_FAIL (R293): the rail of R291, in table order. -/
  | railFail (rail : Fin 11)
  /-- AVS_ACK_WRITE (R294). -/
  | avsAckWrite
  /-- ENG_FREQ_WRITE (R307). -/
  | engFreqWrite (val : Word)
  /-- ENG_CLK_RELOCK (R307). -/
  | engClkRelock
  /-- RTC_LOSS (R305). -/
  | rtcLoss
  /-- PCIE_LINK_UP (R309): the speed code and the width negotiated. -/
  | pcieLinkUp (speed : Fin 6) (width : Fin 17)
  /-- FIRMWARE_VERIFIED (R309 step 4): the verdict on slot A and on slot B. -/
  | firmwareVerified (slotA slotB : PackageCheck)
  /-- PERST_N_ASSERT (R312). -/
  | perstNAssert
  /-- PERST_N_DEASSERT (R312). -/
  | perstNDeassert
  /-- CHIP_RESET (R315): a write of CHIP.RESET_CTL, and the strap levels at that moment (R367). -/
  | chipReset (val : Word) (bootSrc : Fin 4) (smbAddr : Fin 8)
  -- faults and log
  /-- FAULT_RAISE (R319): the page, the source class, the detector number. -/
  | faultRaise (page : Nat) (src : Fin 16) (detail : BitVec 16)
  /-- FAULT_FORCE (R321). -/
  | faultForce (page : Nat) (val : Word)
  /-- FAULT_FIRST_CLEAR (R322): a write of FAULT_FIRST. -/
  | faultFirstClear (page : Nat)
  /-- BLOCK_RESET_END (R322). -/
  | blockResetEnd (page : Nat)
  /-- SHADOW_CLOSE (R323): the block whose event opened the shadow. -/
  | shadowClose (page : Nat)
  /-- LOG_ENTRY_WRITE (R326). -/
  | logEntryWrite
  /-- LOG_ENTRY_CLOSE (R326). -/
  | logEntryClose
  /-- LOG_NOR_COPY (R327). -/
  | logNorCopy
  /-- HEARTBEAT_KICK (R328). -/
  | heartbeatKick
  /-- HEARTBEAT_TOGGLE (R328). -/
  | heartbeatToggle
  -- mailbox
  /-- UPD_BEGIN (R330). -/
  | updBegin (via : MbxVia) (tag : BitVec 16) (slot : Fin 2) (size : Word) (fails : Bool)
  /-- UPD_DATA (R330): the bytes of an MCTP message; through BDRK the data buffer holds them. -/
  | updData (via : MbxVia) (tag : BitVec 16) (offset len : Word) (msg : List Byte) (fails : Bool)
  /-- UPD_COMMIT (R330): the verdict of R329 on what the slot holds. -/
  | updCommit (via : MbxVia) (tag : BitVec 16) (check : PackageCheck)
  /-- UPD_ABORT (R330). -/
  | updAbort (via : MbxVia) (tag : BitVec 16)
  /-- UPDATE_LOCK_TIMEOUT (R330). -/
  | updateLockTimeout
  /-- RESTART_BEDROCK (R331): the verdicts on both slots. -/
  | restartBedrock (via : MbxVia) (tag : BitVec 16) (slotA slotB : PackageCheck)
  /-- QZ_UPDATE (R332): cluster, slot, and the verdict on the slot's Quartz image. -/
  | qzUpdate (via : MbxVia) (tag : BitVec 16) (cluster slot : Fin 2) (check : PackageCheck)
  /-- CONTEXT_MOVE (R332). -/
  | contextMove (ctx : Fin 256)
  /-- AVS_ACK (R330). -/
  | avsAck (via : MbxVia) (tag : BitVec 16)
  /-- AGENT (R330): a 64-byte descriptor of an MCTP message; through BDRK the data buffer holds it. -/
  | agent (via : MbxVia) (tag : BitVec 16) (msg : List Word)
  /-- AGENT_POLL (R330). -/
  | agentPoll (via : MbxVia) (tag : BitVec 16) (count : Word)
  /-- MCTP_CONTROL_MESSAGE (R330). -/
  | mctpControlMessage (code : Byte)
  /-- ALERT_RESPONSE_READ (R330). -/
  | alertResponseRead
  /-- SENSOR_SAMPLE (R334). -/
  | sensorSample (v : Sensors)
  -- performance counters
  /-- DUMP_TICK (R343). -/
  | dumpTick
  /-- CLEAR (R339). -/
  | perfClear
  /-- GPIO_INPUT_CHANGE (R353). -/
  | gpioInputChange (i : Fin 16) (level : Bool)
  /-- BEDROCK_ROM_CHECK (R313). -/
  | bedrockRomCheck (r : RomCheck)
  /-- QUARTZ_LOADED (R309, R333): the cluster, and whether its self-test passes. -/
  | quartzLoaded (cluster : Fin 2) (pass : Bool)
  /-- MSIX_ENABLE_CHANGE (R282). -/
  | msixEnableChange (fn : Fin 64) (msix busMaster : Bool)
  /-- ASPM_L1_TRANSITION (R316). -/
  | aspmL1Transition (dest : LinkState)
  /-- UART_CONSOLE_INPUT (R314). -/
  | uartConsoleInput (request : List Byte)
  /-- MAILBOX_BAD_CMD (R330). -/
  | mailboxBadCmd (via : MbxVia) (tag : BitVec 16)
  /-- DUMP_RECORD_WRITTEN (R345). -/
  | dumpRecordWritten
  deriving DecidableEq, Repr

end Sys2Proof
end

