-- ==== Sys2Proof/Config.lean ====
section
/-! DEFINITION. What the spec leaves open or takes from outside it: constants with no body, so that nothing can
evaluate them and a claim holds whatever they are. -/

namespace Sys2Proof

/-- The free values: one number per count of `State.free`, for a value that the spec does not state (log 1). -/
opaque Config.freeValue : Nat → Nat

/-- Sample (x, y) of the padding of a luma plane, beyond its right or bottom edge (R59): the spec gives no value. -/
opaque Config.padSample : Plane → Nat → Nat → Nat

/-- How the mean of an L2 block is rounded (R119), by the sum of its samples: the spec does not say. -/
opaque Config.meanRound : Nat → Nat

/-- One output of the polyphase filter of R183: chroma, ratio band, phase, the samples under the taps. The spec gives no
coefficients and no rounding. -/
opaque Config.polyphase : Bool → Nat → Nat → List Nat → Nat

/-- One sample of a picture that R184 converts: source and destination matrix and range, component, position. How chroma is
brought to the places of luma, and the depth of R'G'B', the spec does not say. -/
opaque Config.converted : Nat → Nat → Picture → Nat → Nat → Nat → Nat

/-- A chroma sample of a lost unit whose vector falls between chroma samples (R143): component and position. -/
opaque Config.betweenSamples : Picture → Nat → Nat → Nat → Nat

/-- A sample of a reference that is missing under FAIL (R145), and of a lost unit's reference where there is none (R143):
component and position. -/
opaque Config.noReference : Nat → Nat → Nat → Nat

/-- A sample of a picture by the standard's decoding process (R136), outside the areas that are concealed (R144): the picture,
its references, the lost units; component and position. And the list-0 motion that it stores. -/
opaque Config.decodedSample : AccessUnit → List Picture → List Rect → Nat → Nat → Nat → Nat
opaque Config.decodedMotion : AccessUnit → List Picture → List Block

/-- The unit of a slice or tile, by its number, at which decoding reaches a byte of it (R141). -/
opaque Config.unitAtByte : AccessUnit → Nat → Nat → Nat

/-- The sizes of the network agent's internal SQ and CQ (R26), of which the spec gives none: log2 of the slots is 4 to 12
as for every ring (R27). -/
opaque Config.agentSqLog : Nat
opaque Config.agentCqLog : Nat

/-- A byte of a stored picture of a decoded picture buffer in its embedded compressed form (R66): its layout is not
given. -/
opaque Config.storedForm : Picture → Nat → Nat

/-- What ISO/IEC 13818-1 leaves to the sender of a video PES packet, by codec and bytes of access unit (R208): its
stream_id, its PES_packet_length and the four low flag bits of its seventh byte. -/
opaque Config.pesOpen : Nat → Nat → Nat × Nat × Nat

/-- The version_number of a section, by its content (R208). -/
opaque Config.psiVersion : List Byte → Nat

/-- The random_access and priority indicators of a packet, by PID and payload_unit_start (R208). -/
opaque Config.tsIndicators : Nat → Bool → Nat

/-- A payload byte of a null packet (R208). -/
opaque Config.nullByte : Nat → Byte

end Sys2Proof
end

