-- ==== Sys2Proof/Machine/State.lean ====
section
/-! DEFINITION. The state of the block as plain data: the register file, the state behind the registers that the
rules give each unit, device memory, the outputs of the block and the queue of commands that wait. -/

namespace Sys2Proof.Machine

/-- A sparse table in canonical form: keys strictly rising, no entry equal to what an unlisted key reads as. -/
abbrev Tbl (α : Type) := List (Nat × α)

/-- Why the block stops with a fault. Every access from outside is answered (R5, R259, R304). -/
inductive Fault where
  /-- Raised by DRAM_REQUEST for a request from inside the device at an address that does not exist: at or above CAPACITY,
  or before the interleave table is written (R236). Safe: the spec gives such a request no effect. -/
  | noSuchAccess
  deriving DecidableEq, Repr

/-- Why the block refuses a command. -/
inductive Refusal where
  /-- The dispatcher's answer for a row that has no meaning in the model. Safe. -/
  | notModelled (mnemonic : String)
  deriving DecidableEq, Repr

/-- An IGMP or MLD report (R215): port, VLAN, source address, group; the filter is INCLUDE of one source, or EXCLUDE of none;
whether it joins or leaves. -/
structure Report where
  port    : Nat
  vlan    : Nat
  src     : Nat
  group   : Nat
  include_ : Option Nat
  join    : Bool
  deriving DecidableEq, Repr

/-- What leaves the block on its outputs, in order of time (newest first in `State.out`). -/
inductive Emit where
  /-- the value a register read returns to function `fn` (R3, R6) -/
  | readData (fn : Nat) (val : Nat)
  /-- bytes written to the bus address of a function (CQ entries, DMA, status words, dumps: R30, R264, R269, R345) -/
  | busWrite (fn addr : Nat) (bytes : List Byte)
  /-- an MSI-X message (R282) -/
  | msix (fn vector : Nat)
  /-- a delivery on an internal line (R277) -/
  | line (target : Nat)
  /-- a frame sent on a port: queue and datagram number, and its bytes from the destination MAC to the FCS (R224, R227) -/
  | frame (port queue dgram : Nat) (bytes : List Byte)
  /-- IGMP or MLD report or leave of a flow (R215) -/
  | membership (flow : Nat) (report : Report)
  /-- the answer of a port to an address resolution or an echo (R198) -/
  | answer (port addr : Nat) (echo : Bool)
  /-- a request handed to Bedrock by a port (R198) -/
  | toBedrock (port : Nat)
  /-- an MCTP response (R330) -/
  | mctp (result : Nat)
  /-- text on UART_TX: the Sentinel cause, or an answer to the console (R314) -/
  | uart (code : Nat)
  /-- a granule read returned to its requester (R237); poisoned under R243 -/
  | granule (addr : Nat) (bytes : List Byte) (poisoned : Bool)
  /-- committed bytes passed to the packet engines or the host (R171): context, segment, bytes -/
  | commit (ctx seg bytes : Nat)
  deriving DecidableEq, Repr

/-- A command the device has fetched: its sixteen words (R33), and the DEVTIME of its fetch (R159). -/
structure Desc where
  words : List Word
  at_   : Nat
  deriving DecidableEq, Repr

/-- What names a command that has begun and not completed (R28, R35): ring key, TAG, opcode, context, generation. -/
structure CmdRef where
  ring : Nat
  tag  : Nat
  op   : Nat
  ctx  : Nat
  gen  : Nat
  deriving DecidableEq, Repr

/-- What a SUBMIT completion follows: the completions of earlier submissions of its context, by the submission's number
(R45), and the outputs of its input, by the ring that receives them and their number (R29). -/
structure Turn where
  sub : Nat
  out : Option (Nat × Nat)
  deriving DecidableEq, Repr

/-- One CQ entry before it is written (R35). `part`: another part of the same access unit or image follows (R29);
`after`: what must be written first, of a SUBMIT completion (R29, R45). -/
structure CqEntry where
  status : Nat
  kind   : Nat
  tag    : Nat
  ctx    : Nat
  gen    : Nat
  op     : Nat
  stamp  : Nat
  info0  : Nat
  info1  : Nat
  info2  : Nat
  part   : Bool
  after  : Option Turn
  deriving DecidableEq, Repr

/-- A ring pair beyond its registers (R27–R32). -/
structure Ring where
  /-- commands fetched and not begun, oldest first (R28) -/
  fetched  : List Desc
  /-- commands begun and not completed (R33 FENCE) -/
  running  : List CmdRef
  /-- completion entries not written, oldest first; each holds a reserved slot (R29) -/
  comps    : List CqEntry
  /-- output and event entries not written, oldest first (R29) -/
  waiting  : List CqEntry
  /-- a part has been written whose next part has not (R29): context, generation and number of the output -/
  inParts  : Option (Nat × Nat × Nat)
  /-- entries not yet notified (R31) -/
  unnoted  : Nat
  /-- DEVTIME of the oldest entry not yet notified (R31) -/
  oldest   : Nat
  deriving DecidableEq, Repr

/-- The two decimated luma planes of a source picture (R89). -/
structure Planes where
  l1 : Plane
  l2 : Plane
  deriving DecidableEq, Repr

/-- A coding tool that a row of R71–R74 names. -/
inductive Tool where
  -- AVC (R71)
  | cabac | cavlc | intraBlocks | transform8 | bSlices | quarterMotion | spatialDirect | temporalDirect | explicitWp
  | implicitWp | deblock | slices | fields | scalingMatrices | fmo | bypass
  -- HEVC (R72)
  | ctu64 | smallCtu | amp | transformTree | transformSkip | signHiding | intra35 | merge | temporalMv | sao | tiles
  | dependentSlices | scalingLists | pcm | longTerm | rangeExtensions | screenContent
  -- VVC (R73)
  | ctu128 | dualTree | intra67 | isp | mts | lfnst | sbt | dependentQuant | jointChroma | hmvp | mmvd | sbTmvp | ciip | gpm
  | affine | bdof | dmvr | amvr | smvd | bcw | alf | lmcs | rectSlices | gdr | subpictures | resampling | ibc | palette | act
  -- AV1 (R74)
  | super64 | super128 | av1Intra | intraBlockCopy | compound | distanceCompound | otherCompound | warped | switchableFilter
  | dualFilter | eighthMotion | allTransforms | segmentation | cdef | wiener | selfGuided | superres | filmGrain | tileGroups
  | errorResilient
  deriving DecidableEq, Repr

/-- The HRD parameters of a stream (R117): the scales and values of bit rate and CPB size, and cbr_flag. -/
structure Hrd where
  rateScale : Nat
  rateValue : Nat
  sizeScale : Nat
  sizeValue : Nat
  cbr       : Bool
  deriving DecidableEq, Repr

/-- What the parameter sets or the sequence header of a stream say (R68, R69, R59, R79, R81–R83, R117). -/
structure ParamSet where
  codec   : Nat
  profile : Nat
  /-- level_idc and constraint_set3_flag of level 1b, or the level's code (R69); the tier -/
  level   : Nat
  set3    : Bool
  high    : Bool
  depth10 : Bool
  c422    : Bool
  /-- coded size, and what the conformance window removes at the right and at the bottom (R59); for AV1 the frame size -/
  width   : Nat
  height  : Nat
  cropR   : Nat
  cropB   : Nat
  /-- size of the coding unit and of the smallest block coded (R59) -/
  unit    : Nat
  smallest : Nat
  num     : Nat
  den     : Nat
  dpb     : Nat
  reorder : Nat
  numRef  : Nat
  /-- column strips and row bands, in coding units (R81) -/
  strips  : List Nat
  bands   : List Nat
  tools   : List Tool
  /-- loop filtering across segments and strips (R82) -/
  across  : Bool
  /-- the colour description of ENC_VUI, where it is written -/
  vui     : Option (List Nat)
  hrd     : Option Hrd
  /-- decoder_buffer_delay and encoder_buffer_delay of AV1 (R117) -/
  delays  : Option (Nat × Nat)
  deriving DecidableEq, Repr

/-- How a picture stands in its stream (R75, R77–R79). -/
inductive PicKind where
  | idr | cra | gdr | rasl | trail
  deriving DecidableEq, Repr

/-- The header of a slice, a tile group or a frame (R83): what Quartz writes before the data of segment `seg`. -/
structure SegHead where
  codec : Nat
  kind  : PicKind
  ptype : Nat
  isRef : Bool
  tid   : Nat
  order : Nat
  qp    : Nat
  seg   : Nat
  /-- slots of the references, and whether explicit weights are written (R119) -/
  slots : List Nat
  wp    : Bool
  /-- an AV1 frame that is not shown (R75) -/
  hidden : Bool
  deriving DecidableEq, Repr

/-- A message that Quartz places in an access unit (R84, R117). -/
inductive Sei where
  | mastering (bytes : List Byte)
  | contentLight (bytes : List Byte)
  /-- recovery point, with recovery_frame_cnt (R79) -/
  | recovery (count : Nat)
  | t35 (bytes : List Byte)
  /-- buffering period, with the initial CPB removal delay in 90 kHz ticks -/
  | buffering (delay : Nat)
  | timing
  /-- decoding unit information, before each segment -/
  | decodingUnit
  deriving DecidableEq, Repr

/-- What Quartz writes around the data of the segments (R83, R84, R171). -/
inductive StreamUnit where
  /-- the access unit delimiter, with the start code of its access unit, or the temporal delimiter OBU -/
  | delimiter (codec : Nat) (aud : Bool)
  | params (p : ParamSet)
  | message (codec : Nat) (m : Sei)
  | head (h : SegHead)
  /-- show_existing_frame of the frame in a slot (R75) -/
  | showFrame (slot : Nat)
  deriving DecidableEq, Repr

/-- The values with which the rate model of R115 runs: NUM, arrival and size scaled by NUM, signalled rate, CBR. -/
structure RateSet where
  num  : Nat
  fill : Nat
  bs   : Nat
  r    : Nat
  cbr  : Bool
  deriving DecidableEq, Repr

/-- What a segment descriptor holds beside the budget and the ration bound (R63, R67, R71–R74, R79, R104, R112–R114, R125). -/
structure SegDesc where
  codec   : Nat
  depth10 : Bool
  c422    : Bool
  profile : Nat
  level   : Nat
  /-- the segment's luma area within the cropped picture; size and columns of its coding units -/
  area    : Rect
  unit    : Nat
  cols    : Nat
  tools   : List Tool
  rdoq    : Bool
  intra   : Bool
  tid     : Nat
  /-- RC_XLAMBDA.SCALE -/
  scale   : Nat
  /-- QP of each unit, and which units are recovery units -/
  qps     : List Nat
  recover : List Bool
  /-- gradual refresh: the luma columns coded intra now, from and to; per reference, the columns refreshed in the cycle -/
  fresh   : Option (Nat × Nat)
  clean   : List Nat
  /-- explicit weighted prediction (R119) -/
  wp      : Bool
  deriving DecidableEq, Repr

/-- What the device keeps of a reference picture of an encode context (R89–R91): its number, submission number and
decoded-picture-buffer slot, its planes, its reconstruction with the motion it stores, and under gradual refresh its cycle
and the luma columns refreshed in it (R79). -/
structure EncRef where
  num    : Nat
  sub    : Nat
  slot   : Nat
  planes : Planes
  pix    : Picture
  /-- the buffers that hold it (R372) -/
  bufs   : List Nat
  cycle  : Nat
  clean  : Nat
  deriving DecidableEq, Repr

/-- A decoded picture that is kept as a reference (R139, R143, R145–R147): number, place in output order, PTS, samples; its
flags and concealed samples; its place in the decoded picture buffer. -/
structure DecRef where
  num    : Nat
  epoch  : Nat
  order  : Int
  pts    : Nat
  fields : Bool
  pix    : Picture
  contam : Bool
  failed : Bool
  subst  : Bool
  lc     : Nat
  /-- a field picture, and the frame of it and its pair (R133) -/
  field  : Bool
  frame  : Option Picture
  slot   : Option Nat
  deriving DecidableEq, Repr

/-- A reference picture of the decoded picture buffer as the stream stands after the latest access unit (R145): number, POC or
order hint, and whether it used a missing reference under FAIL. -/
structure DpbPic where
  num    : Nat
  order  : Int
  failed : Bool
  deriving DecidableEq, Repr

/-- What stands for a reference that a picture names (R145): a decoded picture by number, a substitute, the grey picture, or
under FAIL a picture of which nothing is known. -/
inductive RefPic where
  | pic (num : Nat)
  | subst (num : Nat)
  | grey
  | open_
  deriving DecidableEq, Repr

/-- What a submission's completion will carry (R38, R45): status, INFO words, and the ring and number of the output whose
entries precede it (R29). -/
structure Earned where
  status : Nat
  i0  : Nat
  i1  : Nat
  i2  : Nat
  out : Option (Nat × Nat)
  deriving DecidableEq, Repr

/-- A submitted input that has not completed (R45). -/
structure Submit where
  ref    : CmdRef
  num    : Nat
  pts    : Nat
  dts    : Nat
  /-- LUMA_ADDR or AU_ADDR, CHROMA_ADDR, STRIDE or AU_LEN (R38) -/
  addr   : Nat
  chroma : Nat
  stride : Nat
  /-- what lookahead took from MICA and what it measured (R119); the samples of the picture (R46) and its planes (R89); the
  metadata that came with it (R186) -/
  codes  : LaCodes
  la     : Lookahead
  pix    : Picture
  planes : Planes
  hdr    : HdrData
  /-- lookahead computed by an encode engine (R107): 0 none or over, 1 waits, 2 on an engine -/
  laWork : Nat
  /-- DEVTIME of the fetch of its SUBMIT, or at which it arrived over a link (R76, R159) -/
  at_    : Nat
  /-- the completion it has earned, waiting for its turn (R45) -/
  done   : Option Earned
  deriving DecidableEq, Repr

/-- Where a segment stands (R96, R160, R170, R171). -/
inductive SegPhase where
  | waitPlanes   -- not yet eligible: references or planes missing
  | searching    -- its search job is with a bank
  | waitRecord   -- its job was discarded, or no job is issued yet
  | eligible     -- may be placed
  | running      -- held by an encode engine
  | returned     -- returned, its verify result outstanding
  | cleared
  | committed
  deriving DecidableEq, Repr

/-- A run of a segment (R62, R176): engine, verifier, coded data, SEG_CRC, verdict. -/
structure Run where
  ee    : Nat
  de    : Nat
  code  : List Bool
  crc   : Nat
  match_ : Bool
  deriving DecidableEq, Repr

/-- One segment of a picture that is being coded (R95, R121, R158). -/
structure Seg where
  phase   : SegPhase
  /-- band, strip, coding units, luma samples, CTU rows (R81, R158) -/
  band    : Nat
  strip   : Nat
  units   : Nat
  px      : Nat
  rows    : Nat
  /-- budget and ration bound of the descriptor (R121, R122) -/
  budget  : Nat
  rbound  : Nat
  /-- segment and coding deadlines (R159) -/
  dS      : Nat
  cS      : Nat
  /-- digital fallback was chosen (R99); the record is COMPLETE and who made it (R95) -/
  digital : Bool
  record  : Bool
  recDigital : Bool
  bank    : Nat
  /-- DEVTIME of the first issue of its search job (R99) -/
  issued  : Option Nat
  /-- search units of its job (R93), and those whose entries the digital search has written (R100, R102) -/
  sunits  : Nat
  written : Nat
  /-- selected for verification (R172), verified before it clears (R170) -/
  verify  : Bool
  /-- verify job under way: none, waiting, or on a decode engine (R154) -/
  vwait   : Bool
  vdone   : Bool
  waived  : Bool
  /-- rows committed under GUARD OFF, bits committed (R170, R177) -/
  rowsOut : Nat
  bytesOut : Nat
  /-- CTU rows that S7 has completed in the run in force, and its coded bits (R62, R170) -/
  rowsDone : Nat
  bits    : Nat
  /-- SEG_CRC and bits of the latest run (R176), which differs from the run in force after a commit -/
  crc     : Nat
  runBits : Nat
  /-- its surplus has been counted (R121 step 5) -/
  ended   : Bool
  /-- coded data of the run in force and of the latest run; whether that one was free of undetected faults (R62, R63) -/
  code    : List Bool
  runCode : List Bool
  clean   : Bool
  /-- address of its candidate record (R372) -/
  recAt   : Option Nat
  /-- bits per CTU row of the run in force (R62) -/
  rowBits : List Nat
  /-- what the descriptor holds (R63), and what Quartz writes before the segment (R171) -/
  desc    : SegDesc
  head    : List StreamUnit
  /-- ration units of the run in force (R123): each as unit size, row and column in samples -/
  ration  : List Nat
  qpSum   : Nat
  qpMin   : Nat
  qpMax   : Nat
  /-- the engine of the run in force; a run after commit (R177): 0 none, 1 waits, 2 on an engine -/
  ee      : Nat
  redo    : Nat
  /-- the runs of R176, oldest first; engines that have discarded it or its verify job (R175) -/
  runs    : List Run
  avoid   : List Nat
  /-- counted in PLACE_CNT_UNMASKED (R176, R177); truncated after commit (R177) -/
  unmasked : Bool
  cut     : Bool
  /-- the boundary job of which it is the later segment: 0 none, 1 to do, 2 placed, 3 done, and its check: 4 to do, 5 placed
  (R173, R178); the engine, the CRC and the samples of its latest run -/
  edge    : Nat
  edgeEe  : Nat
  edgeCrc : Nat
  edgeOut : Samples
  /-- runs of that boundary job which R178 arbitrates, oldest first -/
  eruns   : List Run
  deriving DecidableEq, Repr

/-- One encode picture that has entered coding (R75–R80, R121). -/
structure Pic where
  num     : Nat
  /-- submission number of its source -/
  sub     : Nat
  pts     : Nat
  dts     : Nat
  /-- R85 PIC_TYPE, RAP, TID, SCENECUT, FORCED, PARAMS -/
  ptype   : Nat
  rap     : Bool
  idr     : Bool
  tid     : Nat
  sceneCut : Bool
  forced  : Bool
  params  : Bool
  /-- a reference for later pictures (R128) -/
  isRef   : Bool
  order   : Nat
  qp      : Nat
  /-- the active level of ration bound, and total lookahead complexity, that the descriptor holds (R113, R122) -/
  rbound  : Nat
  cplx    : Nat
  hdr     : Nat
  filler  : Nat
  budget  : Nat
  floor   : Nat
  deadline : Nat
  tEnter  : Nat
  /-- engine masks in force when it entered (R164) -/
  eeMask  : Nat
  deMask  : Nat
  guardLv : Nat
  verifyMd : Nat
  segs    : List Seg
  /-- every segment has committed, and the DEVTIME of the last commit -/
  done    : Bool
  doneAt  : Nat
  /-- its access unit has been delivered (R36) -/
  sent    : Bool
  bufLevel : Nat
  /-- ration units of earlier pictures that it recovers, as it entered coding (R125), and the effort it is coded at
  (R67, R126) -/
  recover : List Nat
  effort  : Nat
  /-- its samples and planes (R46, R89), the references that it may use (R75) and those that coarse search covers (R91) -/
  src     : Picture
  planes  : Planes
  /-- its reconstruction (R62) -/
  recon   : Picture
  lists   : List Nat
  refs    : List Nat
  intra   : Bool
  /-- what Quartz writes before the first segment and after the last (R83, R84, R171) -/
  lead    : List StreamUnit
  tail    : List StreamUnit
  /-- the rate model at this picture; a change of it begins here (R115, R131) -/
  rate    : RateSet
  carries : Bool
  /-- which set of record buffers it uses (R372) -/
  recSet  : Nat
  deriving DecidableEq, Repr

/-- A picture of the coding plan of a mini-GOP (R75, R78): submission number, RAP case bits, TID. -/
structure Plan where
  sub    : Nat
  tid    : Nat
  rap    : Bool
  idr    : Bool
  scene  : Bool
  forced : Bool
  isRef  : Bool
  /-- a leading picture of a CRA (R78) -/
  leading : Bool
  /-- earliest DEVTIME at which coding may start (R76) -/
  notBefore : Nat
  deriving DecidableEq, Repr

/-- A decode part (R137): luma samples, bits, the runs that it holds. -/
structure Part where
  px    : Nat
  bits  : Nat
  first : Nat
  count : Nat
  /-- 0 waiting, 1 on an engine, 2 done -/
  st    : Nat
  /-- engines that have discarded it (R139) -/
  avoid : List Nat
  deriving DecidableEq, Repr

/-- A decoded picture in progress or in the decoded picture buffer (R139, R149). -/
structure DecPic where
  num      : Nat
  /-- host SUBMIT number, none for NET input; number of the first picture of its access unit -/
  sub      : Option Nat
  unit     : Nat
  pts      : Nat
  dts      : Nat
  au       : AccessUnit
  tReady   : Nat
  deadline : Nat
  /-- bytes of a jitter buffer that its access unit keeps (R140, R204) -/
  jb       : Nat
  parts    : List Part
  /-- gaps of the access unit, as bytes from and to, equal where bytes are missing before one (R141); 64-byte units, and areas
  of a reference read, that have failed once (R140, R157); areas whose reference read stayed uncorrectable -/
  gaps     : List (Nat × Nat)
  failedOnce : List Nat
  hurt     : List Rect
  /-- its references (R145); its coded sequence in output order; the start of the gradual refresh in progress (R147) -/
  refs     : List RefPic
  epoch    : Nat
  since    : Option Nat
  /-- the frame that it shows (R149) -/
  shows    : Option Nat
  /-- a field picture: the other field, whether it is the second, whether its pair does not come; its samples (R133) -/
  mate     : Option Nat
  second   : Bool
  alone    : Bool
  half     : Option Picture
  available : Option Nat
  /-- concealed luma samples, references substituted (R145, R146) -/
  lc       : Nat
  substs   : Nat
  concFrac : Nat
  conc     : Bool
  contam   : Bool
  subst    : Bool
  failed   : Bool
  /-- withheld or not output (R148); output done, its place in output order (R150) and its output number -/
  withheld : Bool
  output   : Bool
  orderNo  : Nat
  seq      : Option Nat
  /-- destinations that have not read it yet (R191) -/
  readers  : List Nat
  eeMask   : Nat
  deMask   : Nat
  /-- its samples once it is available, with what was lost concealed (R142–R144), and its metadata (R153) -/
  pix      : Picture
  hdr      : HdrData
  /-- its place in the decoded picture buffer of R152, and the buffers there -/
  slot     : Option Nat
  bufs     : List Nat
  deriving DecidableEq, Repr

/-- One part of an output that waits for a Talus buffer or for delivery (R36, R86, R151). `split`: the output has more
than one part. -/
structure OutPart where
  split : Bool
  seq   : Nat
  bytes : Nat
  record : List Nat
  status : Nat
  info2 : Nat
  more  : Bool
  /-- the bytes that follow the record -/
  data  : List Byte
  deriving DecidableEq, Repr

/-- A pending SET_RATE (R130, R131). -/
structure RatePend where
  ref     : CmdRef
  capRate : Option Nat
  capBuf  : Option Nat
  qi      : Option Nat
  key     : Bool
  /-- pictures that have entered coding since it was accepted -/
  entered : Nat
  deriving DecidableEq, Repr

/-- A processed or source picture waiting at a linked destination (R53, R191); `dec`: the source's picture, and `prev` and
`next` the ones before and after it in output order (R190), which the destination reads though the source ends meanwhile. -/
structure LinkPic where
  pts   : Nat
  src   : Nat
  pic   : Nat
  rap   : Bool
  /-- its PPU job is issued; it has ended or none is needed (R180); a PPU that discarded it (R192) -/
  busy  : Bool
  ready : Bool
  avoid : Option Nat
  /-- the samples that the destination encodes, once its job is issued or none is needed (R180), and the metadata of the
  source picture (R186) -/
  pix   : Picture
  hdr   : HdrData
  dec   : Option DecPic
  prev  : Option Picture
  next  : Option Picture
  deriving DecidableEq, Repr

/-- A stream context beyond its CTX page (R24–R58, R115, R131). -/
structure Ctx where
  /-- accepted SUBMITs that have not completed, in submission order (R45) -/
  submits  : List Submit
  /-- submissions accepted since START -/
  subCount : Nat
  /-- PTS of the last accepted SUBMIT since START (R45) -/
  lastPts  : Option Nat
  /-- sources not yet planned, as submission numbers (R76, R119) -/
  queued   : List Nat
  /-- the rest of the running mini-GOP in coding order (R75) -/
  plan     : List Plan
  /-- pictures in coding (R121) -/
  pics     : List Pic
  picCount : Nat
  /-- decoded pictures (R139) -/
  decs     : List DecPic
  /-- an access unit has been a RAP since START (R135) -/
  started  : Bool
  /-- parameter-set contents seen before earlier RAPs, and since the last (R134); RASL pictures of the last CRA are not
  output (R148) -/
  psSeen   : List (List Byte)
  psNew    : List (List Byte)
  raslOut  : Bool
  /-- working memory handles and their size in KiB (R372); the pending reservation (R49) -/
  mem      : List Nat
  memKiB   : Nat
  /-- code of the level that an encode context selected with LEVEL = 0 (R69, R130) -/
  levelCode : Nat
  pendMem  : List Nat
  pendKiB  : Nat
  /-- buffers of the set before the last change, and the number of the first picture coded after it (R49) -/
  oldMem   : List Nat
  oldUpto  : Nat
  /-- a pending RECONFIG: its command, its snapshot of the staged set, KEY (R49) -/
  reconf   : Option CmdRef
  snapshot : Tbl Word
  /-- pending FORCE_KEY commands: PTS, or none for NEXT (R50) -/
  forced   : List (CmdRef × Option Nat)
  setRate  : Option RatePend
  flush    : Option (CmdRef × Nat)
  close    : List CmdRef
  /-- the next picture to enter coding is a RAP: with IDR form, forced flag (R77 cases 2, 5, 7) -/
  keyNext  : Bool
  keyForced : Bool
  /-- rate model: fullness scaled by NUM, filler owed in bits, surplus bits (R115, R118, R121) -/
  fill     : Int
  owed     : Nat
  surplus  : Nat
  /-- the rate model in force at the last picture delivered (R115), and at the last that entered coding; the next RAP
  carries the fullness over -/
  rateNow  : RateSet
  carries  : Bool
  /-- submission numbers of the last RAP and of the last IDR or key frame planned; of the RAP that begins the coded
  sequence; pictures coded since it (R76, R77, R85) -/
  lastRap  : Nat
  lastIdr  : Nat
  seqStart : Nat
  position : Nat
  /-- PTS of submissions since the coded sequence began (R76) -/
  ptsLog   : List (Nat × Nat)
  /-- the parameter sets last written (R83); AV1: the last coded frame was not shown, and frames that wait to be shown -/
  params   : Option ParamSet
  hidden   : Bool
  toShow   : List Nat
  /-- number of the last IDR picture or key frame; submission and coding number of the last CRA (R78, R89) -/
  refBase  : Nat
  craSub   : Nat
  craNum   : Nat
  /-- the planes of the three latest pictures of lookahead, newest first, and the luma sums of recent ones (R119) -/
  latest   : List Planes
  lumas    : List (Nat × Nat)
  /-- output sequence number from START (R35), and outputs that wait (R36, R86) -/
  outSeq   : Nat
  outWait  : List OutPart
  /-- recovery (R125): ration units of a delivered picture, and the number of the last picture that recovers them -/
  recov    : List (List Nat × Nat)
  /-- window slot of a VF's context (R56), 0 for the PF and the agent -/
  slot     : Nat
  /-- sampling of R172: LFSR, position in the run, chosen position, N of the run -/
  lfsr     : Nat
  runPos   : Nat
  runPick  : Nat
  runLen   : Nat
  /-- Quartz cluster that hosts it (R332); it waits to move -/
  cluster  : Nat
  moving   : Bool
  /-- linked source state: pictures offered and not yet coded, waiting for a RAP, group counter (R53) -/
  linkPics : List LinkPic
  linkOn   : Bool
  /-- numbers of the source's pictures that were decoded before the link existed and the context was RUNNING (R53) -/
  linkOld  : List Nat
  linkSkip : Nat
  /-- PPU jobs outstanding, oldest first: PTS of the picture and SEQ of the table (R189) -/
  ppJobs   : List (Nat × Nat)
  /-- NET multiplexer: offset Δ fixed at the first commit after START (R209) -/
  delta    : Option Nat
  /-- bytes held in the egress holding area (R212) -/
  heldBytes : Nat
  /-- GIR position in the refresh cycle, and the number of the cycle (R79) -/
  girPos   : Nat
  girCycle : Nat
  /-- per-context state of the shedding steps (R126): lookahead cut, effort steps -/
  laCut    : Bool
  effCut   : Nat
  /-- MODE of the last BIND (R54) -/
  bindMode : Nat
  /-- submission numbers that FORCE_KEY selected (R50), submissions dropped that are still in the coding order (R51), and PTS
  of pictures that entered coding -/
  keySubs  : List Nat
  shedSubs : List Submit
  entered  : List Nat
  /-- reference pictures, newest first: of an encode context (R91) and of a decode context (R143) -/
  encRefs  : List EncRef
  decRefs  : List DecRef
  /-- the reference pictures as the stream stands after the latest access unit (R145); its coded sequence; the start of the
  gradual refresh in progress, and pictures since then that were concealed or had a reference substituted (R147) -/
  dpb      : List DpbPic
  epoch    : Nat
  refresh  : Option Nat
  marred   : List Nat
  /-- pictures output since the last IDR picture or key frame (R150), and the last picture output -/
  outOrder : Nat
  lastOut  : Option DecRef
  /-- the latest metadata of the stream (R153) -/
  hdr      : HdrData
  /-- pages of the units that have retired work of the context, the latest first (R161) -/
  lastOn   : List Nat
  deriving DecidableEq, Repr

/-- Work an engine or PPU holds (R61, R137, R154, R178, R191). -/
inductive Job where
  | segment (s : SegId)
  | part (ctx pic idx : Nat)
  | verify (s : SegId)
  /-- a boundary job on an encode engine, or its check on a decode engine (R178) -/
  | boundary (s : SegId)
  /-- lookahead of a submission that an encode engine computes (R107) -/
  | lookahead (ctx sub : Nat)
  /-- destination context and PTS of its picture (R180) -/
  | ppu (dst pts : Nat)
  deriving DecidableEq, Repr

/-- The tracker of R123 over the units of a segment: bits left, units coded, ration mode, QP of the last unit. -/
structure Tracker where
  rem    : Int
  k      : Nat
  ration : Bool
  qp     : Nat
  deriving DecidableEq, Repr

/-- What the run in hand has coded: its units, and whether no undetected fault has touched it (R63, R176). -/
structure RunCode where
  units : List UnitCode
  clean : Bool
  deriving DecidableEq, Repr

/-- A job on an engine with its estimate (R161) and its start. -/
structure Held where
  job   : Job
  est   : Nat
  start : Nat
  /-- S0 has taken the first unit (R61, R163) -/
  begun : Bool
  /-- it runs at the fallback rate (R100, R375) -/
  fb    : Bool
  tr    : Tracker
  run   : RunCode
  deriving DecidableEq, Repr

/-- An engine or PPU beyond its page (R61, R88, R162, R165, R168, R169). -/
structure Engine where
  held     : List Held
  /-- retired by software or held out until ADMIT (R168, R169), draining (R167, R168), to become a standby when
  drained -/
  retired  : Bool
  draining : Bool
  toStandby : Bool
  /-- the last completed self-test passed; a test passed since it left service (R165, R168) -/
  tested   : Bool
  testedSince : Bool
  /-- a passing test admits it (R88, R169); a self-test starts when its block reset ends (R169) -/
  admitWait : Bool
  wantTest : Bool
  /-- DEVTIMEs at which it left service for a fault (R169) -/
  leaves   : List Nat
  /-- segments coded since it entered service (R172) -/
  coded    : Nat
  /-- estimates and actual times of the last 16 items (R162) -/
  ests     : List Nat
  actuals  : List Nat
  /-- times of the last 16 items at the nominal rate of R15 (RATE.FACTOR) -/
  ideals   : List Nat
  /-- coding-unit tagging: LFSR and units to the next tag (R346) -/
  tagLfsr  : Nat
  tagLeft  : Nat
  /-- waking into service (R166) -/
  waking   : Bool
  deriving DecidableEq, Repr

/-- The work of a search job (R93, R98): its deadline, passes and positions of a search unit, DEVTIME from which its units
may start, units not yet given to a tile, and DEVTIME at which the last of the others ends. -/
structure BankJob where
  seg    : SegId
  due    : Nat
  passes : Nat
  positions : Nat
  start  : Nat
  left   : Nat
  ends   : Nat
  deriving DecidableEq, Repr

/-- A MICA bank beyond its page (R98, R101, R106, R374). -/
structure Bank where
  jobs    : List SegId
  /-- the work of each job, and of each tile the DEVTIME at which its unit ends (R93, R98) -/
  work    : List BankJob
  tiles   : List Nat
  /-- the next tile of the drift checks, and DEVTIME of the last round (R106, R336) -/
  driftNext : Nat
  driftAt   : Nat
  /-- tiles failed since the last calibration (R105) -/
  failed  : Nat
  /-- a request to calibrate or retire is being drained -/
  wantCal : Bool
  wantOut : Bool
  leaves  : List Nat
  /-- returns to service by itself after calibration (R106, R374) -/
  autoBack : Bool
  trims   : Tbl (List Nat)
  deriving DecidableEq, Repr

/-- Dispatcher state of overload and shedding (R126–R129, R179). -/
structure Disp where
  /-- start of the window; jobs ended, and those at moments 2 or 3; late flags -/
  winStart : Nat
  jobsEnded : Nat
  jobsFell : Nat
  lateEe   : Bool
  lateDe   : Bool
  waivedDe : Bool
  /-- shedding step in force, class reached within it, DEVTIME of the last step, of the last overload -/
  step     : Nat
  cls      : Nat
  lastStep : Nat
  lastOvl  : Nat
  lastUndo : Nat
  /-- PLACE_CTL masks of stand-ins: (retired engine, standby) pairs (R164, R166) -/
  standIn  : List (Nat × Nat)
  deriving DecidableEq, Repr

/-- An allocated Talus buffer: owner tag and held flag (R250, R251). -/
structure Buf where
  tag  : Nat
  held : Bool
  deriving DecidableEq, Repr

/-- A queued granule request of a channel (R237): address, the bytes to write (empty: a read), DEVTIME. -/
structure DramReq where
  addr : Nat
  data : List (Option Byte)
  at_  : Nat
  deriving DecidableEq, Repr

/-- A DRAM channel beyond its page (R237–R241). -/
structure Dmc where
  reads   : List DramReq
  writes  : List DramReq
  /-- requests that found a queue full (R237) -/
  stalled : List DramReq
  /-- requests that wait for a region's zeroing or a sleeping group (R242, R259) -/
  parked  : List DramReq
  draining : Bool
  owed0   : Int
  owed1   : Int
  /-- the refresh multiplier code that governs the current interval, plus 8 under all-bank refresh (R240), and DEVTIME of
  the last interval of each rank and of the last poll -/
  mult    : Nat
  lastInt0 : Nat
  lastInt1 : Nat
  lastPoll : Nat
  /-- the channel's trained rate (none: failed or absent) -/
  rate    : Option Nat
  deriving DecidableEq, Repr

/-- A DMA status word that waits to be written (R269): code, SEQ, residue, whether STATUS_ADDR takes it, where it goes,
and whether DONE raises the cause. -/
structure StatWord where
  code    : Nat
  seq     : Nat
  residue : Nat
  ok      : Bool
  dev     : Bool
  addr    : Nat
  irq     : Bool
  deriving DecidableEq, Repr

/-- A DMA channel beyond its registers (R263–R270). -/
structure Chan where
  /-- the active set moves data, or waits for a DRAM group (R268) -/
  active : Bool
  waits  : Bool
  /-- copy order is descending (R266) -/
  desc   : Bool
  /-- bytes written, in copy order (R264) -/
  done   : Nat
  /-- transfers promoted (R269) -/
  seq    : Nat
  /-- status words of transfers that have ended, oldest first -/
  pend   : List StatWord
  deriving DecidableEq, Repr

/-- An interrupt source (R275–R281). -/
structure Src where
  pend      : Bool
  inSvc     : Bool
  asserted  : Bool
  delivered : Option Nat
  lastTgt   : Nat
  deriving DecidableEq, Repr

/-- An interrupt target (R277, R285, R286): stack of (source, priority), top first. -/
structure Tgt where
  stack    : List (Nat × Nat)
  claimId  : Nat
  mismatch : Bool
  full     : Bool
  runs     : Bool
  deriving DecidableEq, Repr

/-- A function's MSI-X and configuration state (R256, R282, R312, R316). -/
structure Func where
  msix     : Bool
  master   : Bool
  /-- the function is masked as a whole -/
  fmask    : Bool
  pba      : List Nat
  d3hot    : Bool
  pmeEn    : Bool
  deriving DecidableEq, Repr

/-- A waiting access to an off page (R304); `size`: the bytes that a read returns (R3). -/
structure PageAccess where
  fn    : Nat
  page  : Nat
  off   : Nat
  size  : Nat
  write : Option Word
  deriving DecidableEq, Repr

/-- A power domain beyond DOM_STAT (R298–R304). -/
structure Dom where
  /-- DEVTIME of the last state change, of the wake slot's start, of the last register access or work -/
  since   : Nat
  wakeAt  : Nat
  lastUse : Nat
  /-- DEVTIME of the DOM_CMD that waits on it -/
  cmdAt   : Nat
  /-- DOM_CMD waits on it -/
  byCmd   : Bool
  /-- that command is a POWER_DOWN -/
  down    : Bool
  /-- a wake is due once it is OFF -/
  wakeDue : Bool
  /-- woken by a register access: powers off again (R304) -/
  regWake : Bool
  accesses : List PageAccess
  deriving DecidableEq, Repr

/-- Reset, boot and link state (R292, R293, R305–R316, R370). -/
structure Chip where
  rails     : List Bool
  padsOn    : Bool
  por       : Bool
  aonUp     : Bool
  railsAt   : Nat
  porAt     : Nat
  trip      : Bool
  perst     : Bool
  linkState : LinkState
  /-- configuration requests are answered (R309) -/
  cfgOk     : Bool
  /-- the checks of the ROM have passed; Bedrock's core test failed (R309, R313, R314) -/
  romOk     : Bool
  coreFail  : Bool
  /-- firmware runs (R309, R331), and the SECURITY_VERSION of its package (R329) -/
  fwRuns    : Bool
  fwVer     : Nat
  /-- READY[62] conditions: interleave written, pools enabled (R311) -/
  memReady  : Bool
  /-- self-test waves started, and whether the retests of step 12 have been started (R309) -/
  wave      : Nat
  retried   : Bool
  /-- kinds of engine whose standbys have been chosen (R165) -/
  chosen    : List EngKind
  /-- DEVTIME of the last change of the throttle limit (R369) -/
  sinceChange : Nat
  /-- blown counter fuses (R329), offsets of the thermal sensors (R337), start of the last wake slot (R295) -/
  rollback  : Nat
  thermOff  : List Int
  lastWake  : Option Nat
  deriving DecidableEq, Repr

/-- A media packet position of a flow's jitter buffer (R201–R204). -/
structure Packet where
  seq   : Nat
  bytes : Nat
  rel   : Nat
  recovered : Bool
  deriving DecidableEq, Repr

/-- An ingest flow (R199–R206): its entry words, counters and jitter buffer. -/
structure Flow where
  enabled : Bool
  words   : List Word
  rx      : Nat
  recovered : Nat
  lost    : Nat
  late    : Nat
  dup     : Nat
  overflow : Nat
  resync  : Nat
  base    : Option (Nat × Nat)
  held    : List Packet
  /-- FEC packets held: the positions each covers, and the timestamp and bytes of the packet that it yields -/
  fec     : List (List Nat × Nat × Nat)
  /-- the next sequence number to release, and numbers released with a packet -/
  next    : Option Nat
  released : List Nat
  highest : Nat
  /-- bytes released of the access unit that is open, and the buffers reserved (R204) -/
  auBytes : Nat
  bufs    : List Nat
  /-- demultiplexer: an access unit is open: (PTS, DTS, DEVTIME of its last packet) -/
  openAu  : Option (Nat × Nat × Nat)
  /-- places in the open access unit before which bytes are missing (R141, R205) -/
  gaps    : List Nat
  /-- the last PAT and PMT of the program released, and one more than the last
  continuity counter of each PID (R205) -/
  pat     : List (Nat × Nat)
  pmt     : List PmtEntry
  ccs     : Tbl Nat
  joinAt  : Nat
  deriving DecidableEq, Repr

/-- A TS packet that the multiplexer builds (R208): PID, payload_unit_start_indicator, continuity counter, whether it
carries a PCR, and its payload. -/
structure TsPacket where
  pid   : Nat
  start : Bool
  cc    : Nat
  pcr   : Bool
  data  : List Byte
  deriving DecidableEq, Repr

/-- A datagram of the egress store or of a holding area (R210, R212): number, service, RTP header (none with FORM 0), TS
packets, DEVTIME written, RAP start, and the queues that still hold it. -/
structure Dgram where
  num   : Nat
  svc   : Nat
  head  : List Byte
  ts    : List TsPacket
  at_   : Nat
  rap   : Bool
  left  : Nat
  deriving DecidableEq, Repr

/-- What is left of a video PES packet (R208): its bytes, DTS + Δ, whether it starts a RAP, whether it is whole. -/
structure PesRest where
  data  : List Byte
  dts   : Nat
  rap   : Bool
  start : Bool
  deriving DecidableEq, Repr

/-- A payload of passed-through audio (R208): which retained PID, whether a PES packet begins, the bytes, DEVTIME of its
release. -/
structure AudioPart where
  index : Nat
  start : Bool
  data  : List Byte
  at_   : Nat
  deriving DecidableEq, Repr

/-- An egress service (R207–R212): its entry words, counters and multiplexer. -/
structure Svc where
  enabled : Bool
  words   : List Word
  dgrams  : Nat
  nulls   : Nat
  muxLate : Nat
  audioDrop : Nat
  /-- video PES packets not yet packed -/
  queue   : List PesRest
  /-- TS packets of the open datagram, DEVTIME of its first packet, whether it holds the start of a RAP -/
  pack    : List TsPacket
  packAt  : Nat
  packRap : Bool
  /-- packets of PAT and PMT due; DEVTIMEs of the last PSI, PCR and slot -/
  psi     : List TsPacket
  lastPsi : Nat
  lastPcr : Nat
  lastSlot : Nat
  rtpSeq  : Nat
  /-- next continuity counter of each PID -/
  ccs     : Tbl Nat
  audio   : List AudioPart
  /-- datagrams held in DRAM for want of room (R212) -/
  held    : List Dgram
  deriving DecidableEq, Repr

/-- A master that announces itself (R213): port, clock, data set, DEVTIME of its last Announce. -/
structure PtpMaster where
  port  : Nat
  clock : Nat
  rank  : List Nat
  last  : Nat
  deriving DecidableEq, Repr

/-- The PTP agent (R213, R214). -/
structure Ptp where
  good   : Nat
  everLocked : Bool
  /-- steps that wait for the first lock (R214, R229) -/
  acc    : Int
  masters : List PtpMaster
  /-- media and FEC taken by enabled flows in the last 1 ms (R204): DEVTIME and bytes -/
  taken : List (Nat × Nat)
  deriving DecidableEq, Repr

/-- The two buckets of a shaper node, their settings in force and the pending ones (R225, R226). Levels are
milli-bytes. -/
structure Shaper where
  k      : Nat
  rateC  : Nat
  rateP  : Nat
  burstC : Nat
  burstP : Nat
  levC   : Int
  levP   : Int
  pend   : Bool
  newK   : Nat
  newRateC : Nat
  newRateP : Nat
  newBurstC : Nat
  newBurstP : Nat
  forgive : Bool
  deriving DecidableEq, Repr

/-- A subscriber queue (R220–R223, R232, R233): its entry words and what it holds. -/
structure Queue where
  enabled : Bool
  draining : Bool
  words   : List Word
  shaper  : Shaper
  /-- datagram numbers it holds, head first -/
  holds   : List Nat
  waitRap : Bool
  sent    : Nat
  drops   : Nat
  /-- minima and maxima of depth and delay for tables 0 and 1 (R232) -/
  samples : List Nat
  deriving DecidableEq, Repr

/-- A service node of Shale (R220, R233). -/
structure SvcNode where
  words  : List Word
  shaper : Shaper
  sent   : Nat
  deriving DecidableEq, Repr

/-- A port node of Shale: shapers of the port and its classes, gate lists (R220, R229–R231). -/
structure PortNode where
  port   : Shaper
  tcs    : Tbl Shaper
  /-- admin entries that differ from their reset value: index ↦ (gates, interval) -/
  admin  : Tbl (Nat × Nat)
  oper   : List (Nat × Nat)
  operStart : Int
  operCycle : Nat
  lastS  : Tbl Nat
  lastQ  : Tbl Nat
  deriving DecidableEq, Repr

/-- A log entry (R325). -/
structure LogEntry where
  type   : Nat
  source : Nat
  react  : Nat
  secondary : Bool
  forced : Bool
  code   : Nat
  page   : Nat
  detail : Nat
  first  : Nat
  last   : Nat
  repeat_ : Nat
  seq    : Nat
  deriving DecidableEq, Repr

/-- A mailbox command that runs on: QZ_UPDATE waiting for its contexts to move (R332). -/
structure QzPend where
  via     : MbxVia
  tag     : Nat
  cluster : Nat
  check   : PackageCheck
  deriving DecidableEq, Repr

/-- Bedrock, the log and the update path (R325–R335). -/
structure Bdrk where
  /-- ring slots: slot ↦ entry (R325) -/
  log     : Tbl LogEntry
  /-- entries not yet written, oldest first (R326); open entries as (page, source, FIRST), oldest first -/
  queue   : List LogEntry
  openE   : List (Nat × Nat × Nat)
  lastWrite : Nat
  /-- dropped since the last GAP entry, times of the first and last drop -/
  dropped : Nat
  dropFirst : Nat
  dropLast : Nat
  /-- entries to copy to NOR (slots), the NOR log, its write index -/
  toNor   : List Nat
  nor     : Tbl LogEntry
  norNext : Nat
  /-- heartbeat: DEVTIME of the last kick (none: never), of the last level change -/
  kick    : Option Nat
  hbAt    : Option Nat
  /-- update lock: holder, DEVTIME of the last update command -/
  lock    : Option MbxVia
  lockAt  : Nat
  /-- NOR slots A and B (R329, R330): bytes that differ from the erased 0xFF, and the slot of the last UPD_BEGIN -/
  slots   : Tbl Byte
  slotOf  : Option Nat
  /-- the agent's ring: descriptors posted, the words of the entries written and not polled, and the counts of commands
  fetched and entries written, which its SQ head and its CQ tail with PHASE follow (R26, R30, R35, R330) -/
  agentSq : List Desc
  agentCq : List (List Nat)
  agentFetched : Nat
  agentWritten : Nat
  qz      : Option QzPend
  /-- clusters: in service; SECURITY_VERSION of the package of their image (R330, R332) -/
  qzUp    : List Bool
  qzVer   : List Nat
  /-- calibration records: item ↦ (count, last, qual, pass) (R335) -/
  cal     : Tbl (Nat × Nat × Nat × Bool)
  /-- open reset shadows: page ↦ DEVTIME at which the event ended, none while it lasts (R323) -/
  shadows : Tbl (Option Nat)
  /-- pages in block reset (R322) -/
  resets  : List Nat
  deriving DecidableEq, Repr

/-- Performance counters and dumps (R339–R347). -/
structure Perf where
  cnt     : Tbl (BitVec 48)
  /-- SEQ of the next tick; a record is being written; ticks dropped since the last record; the next record is CORRUPT -/
  ticks   : Nat
  writing : Bool
  dropped : Nat
  corrupt : Bool
  /-- records since the last DUMP, and DEVTIME of the last tick -/
  since   : Nat
  lastTick : Nat
  /-- work slots whose fate is not known: engine page, item, slots (R342); DEVTIME at which the slot counters were last read -/
  work    : List (Nat × Job × Nat)
  seen    : Nat
  deriving DecidableEq, Repr

/-- The output and strap pins (R314, R328, R353, R370). -/
structure Pins where
  heartbeat : Bool
  alertN    : Bool
  thermtrip : Bool
  wake      : Bool
  /-- external levels at the GPIO balls -/
  gpio      : BitVec 16
  /-- ports stop sending after FATAL (R324) -/
  stopped   : Bool
  deriving DecidableEq, Repr

/-- The state of the block. -/
structure State where
  /-- the commands that wait, first in first out (the model's queue) -/
  pending : List Instr
  /-- the model's own counter of free values, read and advanced where the spec leaves a value open -/
  free    : Nat
  /-- DEVTIME in ns (R10) -/
  devtime : Nat
  /-- the register file: register address ↦ value, where it differs from its reset value (R2, R3) -/
  regs    : Tbl Word
  /-- staged words of R4: (function, register address) ↦ word -/
  staged  : List ((Nat × Nat) × Word)
  /-- latched words of R4: (function, register address) ↦ word -/
  latched : List ((Nat × Nat) × Word)
  /-- device memory (R236), bytes that differ from 0 -/
  mem     : List Host.Cell
  /-- granules that hold an error ECC cannot correct (R243) -/
  poison  : List Nat
  rings   : Tbl Ring
  ctxs    : Tbl Ctx
  engines : Tbl Engine
  banks   : Tbl Bank
  disp    : Disp
  talus   : Tbl Buf
  dmcs    : Tbl Dmc
  chans   : Tbl Chan
  srcs    : Tbl Src
  tgts    : Tbl Tgt
  holdoff : Tbl Nat
  funcs   : Tbl Func
  doms    : Tbl Dom
  chip    : Chip
  flows   : Tbl Flow
  svcs    : Tbl Svc
  ptp     : Ptp
  queues  : Tbl Queue
  snodes  : Tbl SvcNode
  pnodes  : Tbl PortNode
  store   : List Dgram
  dgCount : Nat
  bdrk    : Bdrk
  perf    : Perf
  pins    : Pins
  /-- what has left the block, newest first -/
  out     : List Emit
  deriving DecidableEq, Repr

/-- The block right after power is applied and before any rail is good (R292): every domain off, every register at
its reset value (R8, R355), no context, ring, queue, flow or service in use, nothing listed in device memory. The
fields that are the model's own, and the values the spec leaves open, are named in the assumption log. -/
def State.reset : State where
  pending := []
  free    := 0
  devtime := 0
  regs    := []
  staged  := []
  latched := []
  mem     := []
  poison  := []
  rings   := []
  ctxs    := []
  engines := []
  banks   := []
  disp    := ⟨0, 0, 0, false, false, false, 0, 0, 0, 0, 0, []⟩
  talus   := []
  dmcs    := []
  chans   := []
  srcs    := []
  tgts    := []
  holdoff := []
  funcs   := []
  doms    := []
  chip    := ⟨List.replicate 11 false, false, true, false, 0, 0, false, true, .l0, false, false, false, false, 0, false, 0,
              false, [], 0, 0, [], none⟩
  flows   := []
  svcs    := []
  ptp     := ⟨0, false, 0, [], []⟩
  queues  := []
  snodes  := []
  pnodes  := []
  store   := []
  dgCount := 0
  bdrk    := ⟨[], [], [], 0, 0, 0, 0, [], [], 0, none, none, none, 0, [], none, [], [], 0, 0, none, [false, false], [0, 0], [],
              [], []⟩
  perf    := ⟨[], 0, false, 0, false, 0, 0, [], 0⟩
  pins    := ⟨false, false, false, false, 0, false⟩
  out     := []

end Sys2Proof.Machine
end

