-- ==== Sys2Proof/Machine/RegTable.lean ====
section
/-! DEFINITION. The register map of the block as a table: one named row per register field, taken from the field
tables of spec/00 to spec/17 (offset, stride and count of an array, bit position, width, access code of R6, reset
value), the rows of each page kind, the page map of R349 and the fault sources of every page. -/

namespace Sys2Proof.Machine

/-- The access codes of R6. -/
inductive Acc where
  | ro | rw | w1c | w1s | wo | rc | rwx
  deriving DecidableEq, Repr

/-- A register field: page offset of element 0, stride and number of elements, lowest bit, width, access, reset. -/
structure Row where
  off : Nat
  stride : Nat
  count : Nat
  lo : Nat
  width : Nat
  acc : Acc
  rst : Nat
  deriving DecidableEq, Repr

/-- The kinds of register page of R349 (the several page layouts of one block count apart; `fn` is the function area
of R258 and `msix` the MSI-X pages of R260). -/
inductive Kind where
  | ctx | ee | mica | de | chip | ppu | eth | dmc | pcie | pwr | clk | bdrk1 | bdrk2 | bdrkb | bdrk3 | bdrk8 | cal | irq0 | irqs | irqt | perf0 | perf1 | dma0 | dmac | talus | dmc0 | dtrn | pkt0 | pkt1 | pkt2 | shale0 | shalep | fn | msix | qz | hdronly | none
  deriving DecidableEq, Repr

namespace F

def CTX_CFG_STREAM_CODEC : Row := ⟨0x040, 0x0, 1, 0, 2, .rw, 0⟩
def CTX_CFG_STREAM_DEPTH10 : Row := ⟨0x040, 0x0, 1, 2, 1, .rw, 0⟩
def CTX_CFG_STREAM_CHROMA422 : Row := ⟨0x040, 0x0, 1, 3, 1, .rw, 0⟩
def CTX_CFG_STREAM_PROFILE : Row := ⟨0x040, 0x0, 1, 4, 8, .rw, 0⟩
def CTX_CFG_STREAM_LEVEL : Row := ⟨0x040, 0x0, 1, 12, 8, .rw, 0⟩
def CTX_CFG_SIZE_WIDTH : Row := ⟨0x044, 0x0, 1, 0, 16, .rw, 0⟩
def CTX_CFG_SIZE_HEIGHT : Row := ⟨0x044, 0x0, 1, 16, 16, .rw, 0⟩
def CTX_CFG_RATE_NUM : Row := ⟨0x048, 0x0, 1, 0, 16, .rw, 0⟩
def CTX_CFG_RATE_DEN : Row := ⟨0x048, 0x0, 1, 16, 16, .rw, 1⟩
def CTX_CFG_IO_INPUT : Row := ⟨0x04C, 0x0, 1, 0, 2, .rw, 0⟩
def CTX_CFG_IO_OUTPUT : Row := ⟨0x04C, 0x0, 1, 4, 2, .rw, 0⟩
def CTX_CFG_IO_IN_FLOW : Row := ⟨0x04C, 0x0, 1, 8, 12, .rw, 0⟩
def CTX_CFG_IO_OUT_NODE : Row := ⟨0x04C, 0x0, 1, 20, 10, .rw, 0⟩
def CTX_CFG_LATENCY_DEADLINE : Row := ⟨0x050, 0x0, 1, 0, 16, .rw, 0⟩
def CTX_CFG_GUARD_GUARD : Row := ⟨0x054, 0x0, 1, 0, 2, .rw, 0⟩
def CTX_CFG_GUARD_VERIFY : Row := ⟨0x054, 0x0, 1, 2, 2, .rw, 0⟩
def CTX_STATE_STATE : Row := ⟨0x200, 0x0, 1, 0, 3, .ro, 0⟩
def CTX_STATE_RECONFIG_PENDING : Row := ⟨0x200, 0x0, 1, 3, 1, .ro, 0⟩
def CTX_STATE_OUT_WAIT : Row := ⟨0x200, 0x0, 1, 4, 1, .ro, 0⟩
def CTX_STATE_RING : Row := ⟨0x200, 0x0, 1, 5, 2, .ro, 0⟩
def CTX_STATE_PINNED : Row := ⟨0x200, 0x0, 1, 7, 1, .ro, 0⟩
def CTX_STATE_CLASS : Row := ⟨0x200, 0x0, 1, 8, 3, .ro, 0⟩
def CTX_STATE_KIND : Row := ⟨0x200, 0x0, 1, 11, 2, .ro, 0⟩
def CTX_STATE_GEN : Row := ⟨0x200, 0x0, 1, 16, 8, .ro, 0⟩
def CTX_STATE_OWNER : Row := ⟨0x200, 0x0, 1, 24, 7, .ro, 127⟩
def CTX_HALT_CAUSE : Row := ⟨0x204, 0x0, 1, 0, 8, .ro, 0⟩
def CTX_CNT_IN_COUNT : Row := ⟨0x210, 0x0, 1, 0, 32, .ro, 0⟩
def CTX_CNT_OUT_COUNT : Row := ⟨0x214, 0x0, 1, 0, 32, .ro, 0⟩
def CTX_CNT_DEGRADED_COUNT : Row := ⟨0x218, 0x0, 1, 0, 32, .ro, 0⟩
def CTX_CNT_SHED_COUNT : Row := ⟨0x21C, 0x0, 1, 0, 32, .ro, 0⟩
def CTX_LINK_MAP0_DST : Row := ⟨0x220, 0x0, 1, 0, 32, .ro, 0⟩
def CTX_LINK_MAP1_DST : Row := ⟨0x224, 0x0, 1, 0, 32, .ro, 0⟩
def CTX_LINK_VALID_VALID : Row := ⟨0x228, 0x0, 1, 0, 8, .ro, 0⟩
def CTX_LINK_SRC_SRC : Row := ⟨0x22C, 0x0, 1, 0, 8, .ro, 0⟩
def CTX_LINK_SRC_VALID : Row := ⟨0x22C, 0x0, 1, 8, 1, .ro, 0⟩
def CTX_LINK_SRC_SLOT : Row := ⟨0x22C, 0x0, 1, 9, 3, .ro, 0⟩
def CTX_BIND_EE_MASK : Row := ⟨0x230, 0x0, 1, 0, 18, .ro, 0⟩
def CTX_BIND_DE_MASK : Row := ⟨0x234, 0x0, 1, 0, 18, .ro, 0⟩
def CTX_ENC_GOP_STRUCT : Row := ⟨0x120, 0x0, 1, 0, 2, .rw, 0⟩
def CTX_ENC_GOP_MINIGOP_LOG2 : Row := ⟨0x120, 0x0, 1, 2, 3, .rw, 3⟩
def CTX_ENC_GOP_NUM_REF : Row := ⟨0x120, 0x0, 1, 5, 3, .rw, 4⟩
def CTX_ENC_GOP_SCENECUT : Row := ⟨0x120, 0x0, 1, 8, 1, .rw, 1⟩
def CTX_ENC_GOP_RAP_TYPE : Row := ⟨0x120, 0x0, 1, 9, 2, .rw, 0⟩
def CTX_ENC_GOP_KEY_INT : Row := ⟨0x120, 0x0, 1, 16, 16, .rw, 0⟩
def CTX_ENC_GOP2_MIN_KEY_INT : Row := ⟨0x124, 0x0, 1, 0, 16, .rw, 0⟩
def CTX_ENC_GOP2_GIR_PERIOD : Row := ⟨0x124, 0x0, 1, 16, 16, .rw, 0⟩
def CTX_ENC_TOOLS_EFFORT : Row := ⟨0x128, 0x0, 1, 0, 2, .rw, 0⟩
def CTX_ENC_TOOLS_WP : Row := ⟨0x128, 0x0, 1, 2, 1, .rw, 1⟩
def CTX_ENC_TOOLS_HIGH_TIER : Row := ⟨0x128, 0x0, 1, 3, 1, .rw, 0⟩
def CTX_ENC_OUT_AUD : Row := ⟨0x12C, 0x0, 1, 0, 1, .rw, 1⟩
def CTX_ENC_OUT_PS_EVERY_RAP : Row := ⟨0x12C, 0x0, 1, 1, 1, .rw, 1⟩
def CTX_ENC_OUT_HDR_SRC : Row := ⟨0x12C, 0x0, 1, 2, 2, .rw, 0⟩
def CTX_ENC_OUT_RECOVERY_SEI : Row := ⟨0x12C, 0x0, 1, 4, 1, .rw, 1⟩
def CTX_ENC_OUT_T35_PASS : Row := ⟨0x12C, 0x0, 1, 5, 1, .rw, 0⟩
def CTX_ENC_VUI_PRIMARIES : Row := ⟨0x130, 0x0, 1, 0, 8, .rw, 2⟩
def CTX_ENC_VUI_TRANSFER : Row := ⟨0x130, 0x0, 1, 8, 8, .rw, 2⟩
def CTX_ENC_VUI_MATRIX : Row := ⟨0x130, 0x0, 1, 16, 8, .rw, 2⟩
def CTX_ENC_VUI_FULL_RANGE : Row := ⟨0x130, 0x0, 1, 24, 1, .rw, 0⟩
def CTX_ENC_VUI_PRESENT : Row := ⟨0x130, 0x0, 1, 25, 1, .rw, 0⟩
def CTX_ENC_CLL_MAX_CLL : Row := ⟨0x134, 0x0, 1, 0, 16, .rw, 0⟩
def CTX_ENC_CLL_MAX_FALL : Row := ⟨0x134, 0x0, 1, 16, 16, .rw, 0⟩
def CTX_ENC_STAT_COLS : Row := ⟨0x160, 0x0, 1, 0, 4, .ro, 0⟩
def CTX_ENC_STAT_DPB_PICS : Row := ⟨0x160, 0x0, 1, 4, 4, .ro, 0⟩
def CTX_ENC_STAT_GIR_ACTIVE : Row := ⟨0x160, 0x0, 1, 8, 1, .ro, 0⟩
def CTX_ENC_STAT_SINCE_RAP : Row := ⟨0x160, 0x0, 1, 16, 16, .ro, 0⟩
def CTX_ENC_XTOOLS_RDOQ_OFF : Row := ⟨0x520, 0x0, 1, 0, 1, .rwx, 0⟩
def CTX_ENC_XTOOLS_TSKIP_OFF : Row := ⟨0x520, 0x0, 1, 1, 1, .rwx, 0⟩
def CTX_ENC_XTOOLS_SDH_OFF : Row := ⟨0x520, 0x0, 1, 2, 1, .rwx, 0⟩
def CTX_ENC_XTOOLS_TMVP_OFF : Row := ⟨0x520, 0x0, 1, 3, 1, .rwx, 0⟩
def CTX_ENC_XTOOLS_DEBLOCK_OFF : Row := ⟨0x520, 0x0, 1, 4, 1, .rwx, 0⟩
def CTX_ENC_XTOOLS_SAO_OFF : Row := ⟨0x520, 0x0, 1, 5, 1, .rwx, 0⟩
def CTX_ENC_XTOOLS_ALF_OFF : Row := ⟨0x520, 0x0, 1, 6, 1, .rwx, 0⟩
def CTX_ENC_XTOOLS_CDEF_OFF : Row := ⟨0x520, 0x0, 1, 7, 1, .rwx, 0⟩
def CTX_ENC_XTOOLS_LR_OFF : Row := ⟨0x520, 0x0, 1, 8, 1, .rwx, 0⟩
def CTX_ENC_XTOOLS_AFFINE_OFF : Row := ⟨0x520, 0x0, 1, 9, 1, .rwx, 0⟩
def CTX_ENC_XTOOLS_GPM_OFF : Row := ⟨0x520, 0x0, 1, 10, 1, .rwx, 0⟩
def CTX_ENC_XTOOLS_LFNST_OFF : Row := ⟨0x520, 0x0, 1, 11, 1, .rwx, 0⟩
def CTX_ENC_XSPLIT_COLS : Row := ⟨0x524, 0x0, 1, 0, 4, .rwx, 0⟩
def CTX_ENC_XREF_REFCOMP_OFF : Row := ⟨0x528, 0x0, 1, 0, 1, .rwx, 0⟩
def CTX_ENC_XSEARCH_REPRO : Row := ⟨0x52C, 0x0, 1, 0, 1, .rwx, 0⟩
def CTX_ENC_XSEARCH_WAIT : Row := ⟨0x52C, 0x0, 1, 4, 8, .rwx, 20⟩
def CTX_RC_CTL_MODE : Row := ⟨0x0C0, 0x0, 1, 0, 2, .rw, 0⟩
def CTX_RC_CTL_QI : Row := ⟨0x0C0, 0x0, 1, 4, 7, .rw, 60⟩
def CTX_RC_CTL_LA_DEPTH : Row := ⟨0x0C0, 0x0, 1, 16, 7, .rw, 16⟩
def CTX_RC_CTL_HRD : Row := ⟨0x0C0, 0x0, 1, 24, 1, .rw, 1⟩
def CTX_RC_CTL_DU_HRD : Row := ⟨0x0C0, 0x0, 1, 25, 1, .rw, 0⟩
def CTX_RC_CTL_DROPPABLE : Row := ⟨0x0C0, 0x0, 1, 26, 1, .rw, 0⟩
def CTX_RC_CAP_CAP_RATE : Row := ⟨0x0C4, 0x0, 1, 0, 20, .rw, 0⟩
def CTX_RC_BUF_CAP_BUFFER : Row := ⟨0x0C8, 0x0, 1, 0, 14, .rw, 1000⟩
def CTX_RC_BUF_INIT : Row := ⟨0x0C8, 0x0, 1, 16, 7, .rw, 90⟩
def CTX_RC_QP_QP_MIN : Row := ⟨0x0CC, 0x0, 1, 0, 8, .rw, 0⟩
def CTX_RC_QP_QP_MAX : Row := ⟨0x0CC, 0x0, 1, 8, 8, .rw, 255⟩
def CTX_RC_QP_AQ : Row := ⟨0x0CC, 0x0, 1, 16, 3, .rw, 3⟩
def CTX_RC_RECOVER_PICS : Row := ⟨0x0D0, 0x0, 1, 0, 5, .rw, 4⟩
def CTX_RC_RECOVER_DQ : Row := ⟨0x0D0, 0x0, 1, 8, 4, .rw, 4⟩
def CTX_RC_STAT_STEP : Row := ⟨0x100, 0x0, 1, 0, 3, .ro, 0⟩
def CTX_RC_STAT_THROTTLED : Row := ⟨0x100, 0x0, 1, 3, 1, .ro, 0⟩
def CTX_RC_STAT_LA_CUT : Row := ⟨0x100, 0x0, 1, 4, 1, .ro, 0⟩
def CTX_RC_STAT_EFFORT_CUT : Row := ⟨0x100, 0x0, 1, 5, 1, .ro, 0⟩
def CTX_RC_STAT_EFFORT_NOW : Row := ⟨0x100, 0x0, 1, 6, 2, .ro, 0⟩
def CTX_RC_STAT_LA_NOW : Row := ⟨0x100, 0x0, 1, 8, 7, .ro, 0⟩
def CTX_RC_LEVEL_BYTES : Row := ⟨0x104, 0x0, 1, 0, 32, .ro, 0⟩
def CTX_RC_CNT_RATION_COUNT : Row := ⟨0x108, 0x0, 1, 0, 32, .ro, 0⟩
def CTX_RC_CNT_FILLER_COUNT : Row := ⟨0x10C, 0x0, 1, 0, 32, .ro, 0⟩
def CTX_RC_CNT_LATE_COUNT : Row := ⟨0x110, 0x0, 1, 0, 32, .ro, 0⟩
def CTX_RC_XLA_LA_MIN : Row := ⟨0x4C0, 0x0, 1, 0, 7, .rwx, 8⟩
def CTX_RC_XLA_SCENE_THRESH : Row := ⟨0x4C0, 0x0, 1, 8, 8, .rwx, 217⟩
def CTX_RC_XLAMBDA_SCALE : Row := ⟨0x4C4, 0x0, 1, 0, 16, .rwx, 256⟩
def CTX_DEC_CTL_REF_SUBST : Row := ⟨0x180, 0x0, 1, 0, 2, .rw, 0⟩
def CTX_DEC_CTL_MAX_PARTS : Row := ⟨0x180, 0x0, 1, 4, 4, .rw, 0⟩
def CTX_DEC_OUT_DROP_ABOVE : Row := ⟨0x184, 0x0, 1, 0, 11, .rw, 1024⟩
def CTX_DEC_STAT_PROFILE : Row := ⟨0x1C0, 0x0, 1, 0, 8, .ro, 0⟩
def CTX_DEC_STAT_LEVEL : Row := ⟨0x1C0, 0x0, 1, 8, 8, .ro, 0⟩
def CTX_DEC_STAT_DEPTH10 : Row := ⟨0x1C0, 0x0, 1, 16, 1, .ro, 0⟩
def CTX_DEC_STAT_CHROMA422 : Row := ⟨0x1C0, 0x0, 1, 17, 1, .ro, 0⟩
def CTX_DEC_STAT_CONTAMINATED : Row := ⟨0x1C0, 0x0, 1, 18, 1, .ro, 0⟩
def CTX_DEC_STAT_FIELDS : Row := ⟨0x1C0, 0x0, 1, 19, 1, .ro, 0⟩
def CTX_DEC_SIZE_WIDTH : Row := ⟨0x1C4, 0x0, 1, 0, 16, .ro, 0⟩
def CTX_DEC_SIZE_HEIGHT : Row := ⟨0x1C4, 0x0, 1, 16, 16, .ro, 0⟩
def CTX_DEC_CNT_ERR_COUNT : Row := ⟨0x1C8, 0x0, 1, 0, 32, .ro, 0⟩
def CTX_DEC_CNT_LOST_COUNT : Row := ⟨0x1CC, 0x0, 1, 0, 32, .ro, 0⟩
def CTX_DEC_CNT_CONC_COUNT : Row := ⟨0x1D0, 0x0, 1, 0, 32, .ro, 0⟩
def CTX_DEC_CNT_SUBST_COUNT : Row := ⟨0x1D4, 0x0, 1, 0, 32, .ro, 0⟩
def CTX_DEC_CNT_NOTOUT_COUNT : Row := ⟨0x1D8, 0x0, 1, 0, 32, .ro, 0⟩
def CTX_DEC_CNT_LATE_COUNT : Row := ⟨0x1DC, 0x0, 1, 0, 32, .ro, 0⟩
def CTX_DEC_XCONC_TEMPORAL_OFF : Row := ⟨0x580, 0x0, 1, 0, 1, .rwx, 0⟩
def CTX_DEC_XCONC_STRICT_HALT : Row := ⟨0x580, 0x0, 1, 1, 1, .rwx, 0⟩
def CTX_PLACE_XSEG_SEG_ROWS : Row := ⟨0x400, 0x0, 1, 0, 9, .rwx, 8⟩
def CTX_PLACE_XSEG_SAMPLE_N : Row := ⟨0x400, 0x0, 1, 16, 8, .rwx, 0⟩
def CTX_PLACE_XSTAT_UNPINNED : Row := ⟨0x420, 0x0, 1, 0, 1, .ro, 0⟩
def CTX_PLACE_XSTAT_SEGS : Row := ⟨0x420, 0x0, 1, 16, 16, .ro, 0⟩
def CTX_PP_CTL_DEINT : Row := ⟨0x1E0, 0x0, 1, 0, 2, .rw, 0⟩
def CTX_PP_CTL_FIT : Row := ⟨0x1E0, 0x0, 1, 2, 1, .rw, 0⟩
def CTX_PP_CTL_DITHER : Row := ⟨0x1E0, 0x0, 1, 3, 1, .rw, 1⟩
def CTX_PP_CTL_SRC_MATRIX : Row := ⟨0x1E0, 0x0, 1, 4, 2, .rw, 0⟩
def CTX_PP_CTL_SRC_RANGE : Row := ⟨0x1E0, 0x0, 1, 6, 2, .rw, 0⟩
def CTX_PP_LAYER_CTL_COUNT : Row := ⟨0x1F8, 0x0, 1, 0, 5, .rw, 0⟩
def CTX_PP_LAYER_CTL_LOC : Row := ⟨0x1F8, 0x0, 1, 5, 1, .rw, 0⟩
def CTX_PP_LAYER_CTL_SEQ : Row := ⟨0x1F8, 0x0, 1, 8, 8, .rw, 0⟩
def CTX_PP_STAT_OLDEST : Row := ⟨0x1FC, 0x0, 1, 0, 8, .ro, 0⟩
def CTX_PP_STAT_LAYER_ERR : Row := ⟨0x1FC, 0x0, 1, 8, 1, .w1c, 0⟩
def CTX_PP_STAT_PASSTHRU : Row := ⟨0x1FC, 0x0, 1, 9, 1, .ro, 0⟩
def CTX_PP_STAT_PASSES : Row := ⟨0x1FC, 0x0, 1, 10, 2, .ro, 0⟩
def CTX_PP_XDEINT_LOW : Row := ⟨0x5E0, 0x0, 1, 0, 10, .rwx, 8⟩
def CTX_PP_XDEINT_HIGH : Row := ⟨0x5E0, 0x0, 1, 16, 10, .rwx, 32⟩
def CTX_ENC_MDCV0_GX : Row := ⟨0x138, 0x0, 1, 0, 16, .rw, 0⟩
def CTX_ENC_MDCV0_GY : Row := ⟨0x138, 0x0, 1, 16, 16, .rw, 0⟩
def CTX_ENC_MDCV1_BX : Row := ⟨0x13C, 0x0, 1, 0, 16, .rw, 0⟩
def CTX_ENC_MDCV1_BY : Row := ⟨0x13C, 0x0, 1, 16, 16, .rw, 0⟩
def CTX_ENC_MDCV2_RX : Row := ⟨0x140, 0x0, 1, 0, 16, .rw, 0⟩
def CTX_ENC_MDCV2_RY : Row := ⟨0x140, 0x0, 1, 16, 16, .rw, 0⟩
def CTX_ENC_MDCV3_WX : Row := ⟨0x144, 0x0, 1, 0, 16, .rw, 0⟩
def CTX_ENC_MDCV3_WY : Row := ⟨0x144, 0x0, 1, 16, 16, .rw, 0⟩
def CTX_ENC_MDCV4_LMAX : Row := ⟨0x148, 0x0, 1, 0, 32, .rw, 0⟩
def CTX_ENC_MDCV5_LMIN : Row := ⟨0x14C, 0x0, 1, 0, 32, .rw, 0⟩
def CTX_PP_CROP0_X : Row := ⟨0x1E4, 0x0, 1, 0, 16, .rw, 0⟩
def CTX_PP_CROP0_Y : Row := ⟨0x1E4, 0x0, 1, 16, 16, .rw, 0⟩
def CTX_PP_CROP1_W : Row := ⟨0x1E8, 0x0, 1, 0, 16, .rw, 0⟩
def CTX_PP_CROP1_H : Row := ⟨0x1E8, 0x0, 1, 16, 16, .rw, 0⟩
def CTX_PP_LAYER_BASE_LO_LO : Row := ⟨0x1F0, 0x0, 1, 6, 26, .rw, 0⟩
def CTX_PP_LAYER_BASE_HI_HI : Row := ⟨0x1F4, 0x0, 1, 0, 32, .rw, 0⟩
def EE_STATUS_BUSY : Row := ⟨0x040, 0x0, 1, 0, 1, .ro, 0⟩
def EE_STATUS_FALLBACK : Row := ⟨0x040, 0x0, 1, 1, 1, .ro, 0⟩
def EE_STATUS_STANDBY : Row := ⟨0x040, 0x0, 1, 2, 1, .ro, 0⟩
def EE_STATUS_SELFTEST_RUN : Row := ⟨0x040, 0x0, 1, 3, 1, .ro, 0⟩
def EE_STATUS_CODEC : Row := ⟨0x040, 0x0, 1, 4, 2, .ro, 0⟩
def EE_STATUS_CTX : Row := ⟨0x040, 0x0, 1, 8, 8, .ro, 0⟩
def EE_RATE_FACTOR : Row := ⟨0x044, 0x0, 1, 0, 10, .ro, 512⟩
def EE_CNT_SEG_COUNT : Row := ⟨0x048, 0x0, 1, 0, 32, .ro, 0⟩
def EE_CNT_DISCARD_COUNT : Row := ⟨0x04C, 0x0, 1, 0, 32, .ro, 0⟩
def EE_CNT_FALLBACK_COUNT : Row := ⟨0x050, 0x0, 1, 0, 32, .ro, 0⟩
def EE_SVC_CTL_RETIRE : Row := ⟨0x054, 0x0, 1, 0, 1, .w1s, 0⟩
def EE_SVC_CTL_ADMIT : Row := ⟨0x054, 0x0, 1, 1, 1, .w1s, 0⟩
def EE_SELFTEST_START : Row := ⟨0x058, 0x0, 1, 0, 1, .wo, 0⟩
def EE_SELFTEST_DONE : Row := ⟨0x058, 0x0, 1, 1, 1, .ro, 0⟩
def EE_SELFTEST_PASS : Row := ⟨0x058, 0x0, 1, 2, 1, .ro, 0⟩
def EE_SELFTEST_REJECTED : Row := ⟨0x058, 0x0, 1, 3, 1, .w1c, 0⟩
def EE_SELFTEST_ABORTED : Row := ⟨0x058, 0x0, 1, 4, 1, .ro, 0⟩
def EE_SELFTEST_DURATION_US : Row := ⟨0x058, 0x0, 1, 16, 16, .ro, 0⟩
def EE_WATCHDOG_PERIOD_US : Row := ⟨0x400, 0x0, 1, 0, 6, .rwx, 50⟩
def EE_ECC_CNT_CORRECTED : Row := ⟨0x404, 0x0, 1, 0, 16, .rc, 0⟩
def EE_ECC_CNT_UNCORRECTED : Row := ⟨0x404, 0x0, 1, 16, 16, .rc, 0⟩
def EE_FORCE_DIGITAL_FORCE : Row := ⟨0x408, 0x0, 1, 0, 1, .rwx, 0⟩
def EE_STAGE_STALL_STAGE : Row := ⟨0x40C, 0x0, 1, 0, 8, .ro, 0⟩
def EE_SPEED_SIGMA : Row := ⟨0x410, 0x0, 1, 0, 10, .ro, 512⟩
def MICA_STATUS_STATE : Row := ⟨0x040, 0x0, 1, 0, 2, .ro, 0⟩
def MICA_STATUS_DRIFT_BUSY : Row := ⟨0x040, 0x0, 1, 2, 1, .ro, 0⟩
def MICA_STATUS_DRIFT_TILE : Row := ⟨0x040, 0x0, 1, 3, 5, .ro, 0⟩
def MICA_STATUS_TILES : Row := ⟨0x040, 0x0, 1, 8, 6, .ro, 0⟩
def MICA_STATUS_JOBS : Row := ⟨0x040, 0x0, 1, 16, 8, .ro, 0⟩
def MICA_TILE_EN_EN : Row := ⟨0x044, 0x0, 1, 0, 32, .ro, 0⟩
def MICA_TILE_FAIL_FAIL : Row := ⟨0x048, 0x0, 1, 0, 32, .ro, 0⟩
def MICA_RATE_FACTOR : Row := ⟨0x04C, 0x0, 1, 0, 10, .ro, 0⟩
def MICA_CNT_JOB_COUNT : Row := ⟨0x050, 0x0, 1, 0, 32, .ro, 0⟩
def MICA_CNT_ABORT_COUNT : Row := ⟨0x054, 0x0, 1, 0, 32, .ro, 0⟩
def MICA_SVC_CTL_RETIRE : Row := ⟨0x060, 0x0, 1, 0, 1, .w1s, 0⟩
def MICA_SVC_CTL_ADMIT : Row := ⟨0x060, 0x0, 1, 1, 1, .w1s, 0⟩
def MICA_SVC_CTL_CAL_REQ : Row := ⟨0x060, 0x0, 1, 2, 1, .w1s, 0⟩
def MICA_RESID_LIMIT_LIMIT : Row := ⟨0x400, 0x0, 1, 0, 8, .rwx, 15⟩
def MICA_TILE_MASK_MASK : Row := ⟨0x404, 0x0, 1, 0, 32, .rwx, 0⟩
def MICA_MIN_TILES_MIN : Row := ⟨0x408, 0x0, 1, 0, 6, .rwx, 8⟩
def MICA_TRIM_SEL_TILE : Row := ⟨0x40C, 0x0, 1, 0, 5, .rwx, 0⟩
def MICA_TRIM_SEL_TAP : Row := ⟨0x40C, 0x0, 1, 8, 6, .rwx, 0⟩
def MICA_TRIM_VAL_TRIM : Row := ⟨0x410, 0x0, 1, 0, 6, .ro, 0⟩
def MICA_CNT_PASS_LO_LO : Row := ⟨0x058, 0x0, 1, 0, 32, .ro, 0⟩
def MICA_CNT_PASS_HI_HI : Row := ⟨0x05C, 0x0, 1, 0, 32, .ro, 0⟩
def MICA_RESID_T0 : Row := ⟨0x080, 0x4, 8, 0, 8, .ro, 0⟩
def MICA_RESID_T1 : Row := ⟨0x080, 0x4, 8, 8, 8, .ro, 0⟩
def MICA_RESID_T2 : Row := ⟨0x080, 0x4, 8, 16, 8, .ro, 0⟩
def MICA_RESID_T3 : Row := ⟨0x080, 0x4, 8, 24, 8, .ro, 0⟩
def DE_STATUS_BUSY : Row := ⟨0x040, 0x0, 1, 0, 1, .ro, 0⟩
def DE_STATUS_VERIFY : Row := ⟨0x040, 0x0, 1, 1, 1, .ro, 0⟩
def DE_STATUS_STANDBY : Row := ⟨0x040, 0x0, 1, 2, 1, .ro, 0⟩
def DE_STATUS_SELFTEST_RUN : Row := ⟨0x040, 0x0, 1, 3, 1, .ro, 0⟩
def DE_STATUS_CODEC : Row := ⟨0x040, 0x0, 1, 4, 2, .ro, 0⟩
def DE_STATUS_CTX : Row := ⟨0x040, 0x0, 1, 8, 8, .ro, 0⟩
def DE_RATE_FACTOR : Row := ⟨0x044, 0x0, 1, 0, 10, .ro, 512⟩
def DE_CNT_PART_COUNT : Row := ⟨0x048, 0x0, 1, 0, 32, .ro, 0⟩
def DE_CNT_VERIFY_COUNT : Row := ⟨0x04C, 0x0, 1, 0, 32, .ro, 0⟩
def DE_CNT_MISMATCH_COUNT : Row := ⟨0x050, 0x0, 1, 0, 32, .ro, 0⟩
def DE_CNT_DISCARD_COUNT : Row := ⟨0x054, 0x0, 1, 0, 32, .ro, 0⟩
def DE_SVC_CTL_RETIRE : Row := ⟨0x058, 0x0, 1, 0, 1, .w1s, 0⟩
def DE_SVC_CTL_ADMIT : Row := ⟨0x058, 0x0, 1, 1, 1, .w1s, 0⟩
def DE_SELFTEST_START : Row := ⟨0x05C, 0x0, 1, 0, 1, .wo, 0⟩
def DE_SELFTEST_DONE : Row := ⟨0x05C, 0x0, 1, 1, 1, .ro, 0⟩
def DE_SELFTEST_PASS : Row := ⟨0x05C, 0x0, 1, 2, 1, .ro, 0⟩
def DE_SELFTEST_REJECTED : Row := ⟨0x05C, 0x0, 1, 3, 1, .w1c, 0⟩
def DE_SELFTEST_ABORTED : Row := ⟨0x05C, 0x0, 1, 4, 1, .ro, 0⟩
def DE_SELFTEST_DURATION_US : Row := ⟨0x05C, 0x0, 1, 16, 16, .ro, 0⟩
def DE_WATCHDOG_PERIOD_US : Row := ⟨0x400, 0x0, 1, 0, 6, .rwx, 50⟩
def DE_ECC_CNT_CORRECTED : Row := ⟨0x404, 0x0, 1, 0, 16, .rc, 0⟩
def DE_ECC_CNT_UNCORRECTED : Row := ⟨0x404, 0x0, 1, 16, 16, .rc, 0⟩
def DE_STAGE_STALL_STAGE : Row := ⟨0x408, 0x0, 1, 0, 5, .ro, 0⟩
def DE_SPEED_SIGMA : Row := ⟨0x40C, 0x0, 1, 0, 10, .ro, 512⟩
def CHIP_PLACE_CTL_PLACE : Row := ⟨0x100, 0x0, 1, 0, 1, .rw, 0⟩
def CHIP_PLACE_CTL_CAPACITY : Row := ⟨0x100, 0x0, 1, 1, 1, .rw, 0⟩
def CHIP_PLACE_CTL_GUARD : Row := ⟨0x100, 0x0, 1, 2, 2, .rw, 2⟩
def CHIP_PLACE_CTL_VERIFY : Row := ⟨0x100, 0x0, 1, 4, 2, .rw, 3⟩
def CHIP_PLACE_CTL_VERIFY_FIRST : Row := ⟨0x100, 0x0, 1, 6, 1, .rw, 0⟩
def CHIP_PLACE_CTL_SAMPLE_N : Row := ⟨0x100, 0x0, 1, 8, 8, .rw, 16⟩
def CHIP_PIN_EE_MASK : Row := ⟨0x104, 0x0, 1, 0, 18, .rw, 0⟩
def CHIP_PIN_DE_MASK : Row := ⟨0x108, 0x0, 1, 0, 18, .rw, 0⟩
def CHIP_PLACE_STAT_EE_IN : Row := ⟨0x10C, 0x0, 1, 0, 5, .ro, 0⟩
def CHIP_PLACE_STAT_EE_SB : Row := ⟨0x10C, 0x0, 1, 5, 2, .ro, 0⟩
def CHIP_PLACE_STAT_DE_IN : Row := ⟨0x10C, 0x0, 1, 8, 5, .ro, 0⟩
def CHIP_PLACE_STAT_DE_SB : Row := ⟨0x10C, 0x0, 1, 13, 2, .ro, 0⟩
def CHIP_PLACE_STAT_OVL_EE : Row := ⟨0x10C, 0x0, 1, 16, 1, .ro, 0⟩
def CHIP_PLACE_STAT_OVL_DE : Row := ⟨0x10C, 0x0, 1, 17, 1, .ro, 0⟩
def CHIP_PLACE_STAT_OVL_MICA : Row := ⟨0x10C, 0x0, 1, 18, 1, .ro, 0⟩
def CHIP_PLACE_STAT_OVL_DRAM : Row := ⟨0x10C, 0x0, 1, 19, 1, .ro, 0⟩
def CHIP_PLACE_CNT_RESTART_COUNT : Row := ⟨0x110, 0x0, 1, 0, 32, .ro, 0⟩
def CHIP_PLACE_CNT_WAIVED_COUNT : Row := ⟨0x114, 0x0, 1, 0, 32, .ro, 0⟩
def CHIP_PLACE_CNT_UNMASKED_COUNT : Row := ⟨0x118, 0x0, 1, 0, 32, .ro, 0⟩
def CHIP_PLACE_XCTL_LOCALITY_US : Row := ⟨0x400, 0x0, 1, 0, 8, .rwx, 50⟩
def CHIP_PLACE_XCTL_READMIT_MAX : Row := ⟨0x400, 0x0, 1, 8, 4, .rwx, 3⟩
def CHIP_PLACE_XCTL_BUSY_PCT : Row := ⟨0x400, 0x0, 1, 16, 7, .rwx, 95⟩
def CHIP_STATE_PHASE : Row := ⟨0x048, 0x0, 1, 0, 2, .ro, 0⟩
def CHIP_STATE_CAUSE : Row := ⟨0x048, 0x0, 1, 4, 4, .ro, 0⟩
def CHIP_STATE_BOOT_SRC : Row := ⟨0x048, 0x0, 1, 8, 2, .ro, 0⟩
def CHIP_STATE_SMB_ADDR : Row := ⟨0x048, 0x0, 1, 10, 3, .ro, 0⟩
def CHIP_STATE_SLOT : Row := ⟨0x048, 0x0, 1, 13, 1, .ro, 0⟩
def CHIP_STATE_SLOT_FALLBACK : Row := ⟨0x048, 0x0, 1, 14, 1, .ro, 0⟩
def CHIP_RESET_CTL_CHIP : Row := ⟨0x050, 0x0, 1, 0, 1, .wo, 0⟩
def CHIP_RESET_CTL_KEY : Row := ⟨0x050, 0x0, 1, 16, 16, .wo, 0⟩
def CHIP_READY_LO_LO : Row := ⟨0x040, 0x0, 1, 0, 32, .ro, 0⟩
def CHIP_READY_HI_HI : Row := ⟨0x044, 0x0, 1, 0, 32, .ro, 0⟩
def CHIP_ID_PART : Row := ⟨0x060, 0x0, 1, 0, 16, .ro, 37462⟩
def CHIP_ID_SILICON : Row := ⟨0x060, 0x0, 1, 24, 8, .ro, 161⟩
def CHIP_CAPS_EE : Row := ⟨0x064, 0x0, 1, 0, 5, .ro, 18⟩
def CHIP_CAPS_DE : Row := ⟨0x064, 0x0, 1, 5, 5, .ro, 18⟩
def CHIP_CAPS_MICA : Row := ⟨0x064, 0x0, 1, 10, 3, .ro, 4⟩
def CHIP_CAPS_DMC : Row := ⟨0x064, 0x0, 1, 13, 5, .ro, 24⟩
def CHIP_CAPS_CTX_LOG2 : Row := ⟨0x064, 0x0, 1, 18, 4, .ro, 8⟩
def CHIP_CAPS_TEMP_I : Row := ⟨0x064, 0x0, 1, 22, 1, .ro, 0⟩
def CHIP_GPIO_IN_IN : Row := ⟨0x070, 0x0, 1, 0, 16, .ro, 0⟩
def CHIP_GPIO_OUT_OUT : Row := ⟨0x074, 0x0, 1, 0, 16, .rw, 0⟩
def CHIP_GPIO_OE_OE : Row := ⟨0x078, 0x0, 1, 0, 16, .rw, 0⟩
def CHIP_GPIO_IRQ_MODE : Row := ⟨0x07C, 0x0, 1, 0, 32, .rw, 0⟩
def CHIP_GPIO_LATCH_LATCH : Row := ⟨0x080, 0x0, 1, 0, 16, .w1c, 0⟩
def PPU_STATUS_BUSY : Row := ⟨0x040, 0x0, 1, 0, 1, .ro, 0⟩
def PPU_STATUS_CTX : Row := ⟨0x040, 0x0, 1, 8, 8, .ro, 0⟩
def PPU_CNT_JOB_COUNT : Row := ⟨0x044, 0x0, 1, 0, 32, .ro, 0⟩
def PPU_CNT_DISCARD_COUNT : Row := ⟨0x048, 0x0, 1, 0, 32, .ro, 0⟩
def PPU_WATCHDOG_PERIOD_US : Row := ⟨0x400, 0x0, 1, 0, 6, .rwx, 50⟩
def ETH_CTL_ENABLE : Row := ⟨0x040, 0x0, 1, 0, 1, .rw, 0⟩
def ETH_CTL_AN : Row := ⟨0x040, 0x0, 1, 1, 1, .rw, 1⟩
def ETH_CTL_FEC : Row := ⟨0x040, 0x0, 1, 2, 2, .rw, 0⟩
def ETH_CTL_LOOPBACK : Row := ⟨0x040, 0x0, 1, 4, 1, .rw, 0⟩
def ETH_STATUS_LINK : Row := ⟨0x044, 0x0, 1, 0, 1, .ro, 0⟩
def ETH_STATUS_AN_DONE : Row := ⟨0x044, 0x0, 1, 1, 1, .ro, 0⟩
def ETH_STATUS_FEC_ACTIVE : Row := ⟨0x044, 0x0, 1, 2, 2, .ro, 0⟩
def ETH_STATUS_CFG_ERR : Row := ⟨0x044, 0x0, 1, 4, 1, .w1c, 0⟩
def ETH_MAX_FRAME_BYTES : Row := ⟨0x050, 0x0, 1, 0, 14, .rw, 1518⟩
def ETH_CNT_RX_COUNT : Row := ⟨0x080, 0x0, 1, 0, 32, .ro, 0⟩
def ETH_CNT_RX_ERR_COUNT : Row := ⟨0x084, 0x0, 1, 0, 32, .ro, 0⟩
def ETH_CNT_RX_DROP_COUNT : Row := ⟨0x088, 0x0, 1, 0, 32, .ro, 0⟩
def ETH_CNT_TX_COUNT : Row := ⟨0x08C, 0x0, 1, 0, 32, .ro, 0⟩
def ETH_MAC_ADDR_LO_LO : Row := ⟨0x048, 0x0, 1, 0, 32, .rw, 0⟩
def ETH_MAC_ADDR_HI_HI : Row := ⟨0x04C, 0x0, 1, 0, 16, .rw, 0⟩
def ETH_IP4_ADDR_ADDR : Row := ⟨0x054, 0x0, 1, 0, 32, .rw, 0⟩
def ETH_IP6_ADDR0_ADDR : Row := ⟨0x060, 0x0, 1, 0, 32, .rw, 0⟩
def ETH_IP6_ADDR1_ADDR : Row := ⟨0x064, 0x0, 1, 0, 32, .rw, 0⟩
def ETH_IP6_ADDR2_ADDR : Row := ⟨0x068, 0x0, 1, 0, 32, .rw, 0⟩
def ETH_IP6_ADDR3_ADDR : Row := ⟨0x06C, 0x0, 1, 0, 32, .rw, 0⟩
def DMC_STATUS_STATE : Row := ⟨0x040, 0x0, 1, 0, 3, .ro, 0⟩
def DMC_STATUS_RATE : Row := ⟨0x040, 0x0, 1, 4, 3, .ro, 0⟩
def DMC_STATUS_RANKS2 : Row := ⟨0x040, 0x0, 1, 7, 1, .ro, 0⟩
def DMC_STATUS_DENSITY : Row := ⟨0x040, 0x0, 1, 8, 3, .ro, 0⟩
def DMC_STATUS_REF_MULT : Row := ⟨0x040, 0x0, 1, 12, 3, .ro, 2⟩
def DMC_STATUS_OWED : Row := ⟨0x040, 0x0, 1, 16, 5, .ro, 0⟩
def DMC_QUEUE_RD : Row := ⟨0x044, 0x0, 1, 0, 7, .ro, 0⟩
def DMC_QUEUE_WR : Row := ⟨0x044, 0x0, 1, 8, 7, .ro, 0⟩
def DMC_ECC_CNT_CORRECTED : Row := ⟨0x05C, 0x0, 1, 0, 16, .rc, 0⟩
def DMC_ECC_CNT_UNCORRECTED : Row := ⟨0x05C, 0x0, 1, 16, 16, .rc, 0⟩
def DMC_SCHED_WR_HI : Row := ⟨0x400, 0x0, 1, 0, 7, .rwx, 48⟩
def DMC_SCHED_WR_LO : Row := ⟨0x400, 0x0, 1, 8, 7, .rwx, 16⟩
def DMC_SCHED_AGE_NS : Row := ⟨0x400, 0x0, 1, 16, 16, .rwx, 2000⟩
def DMC_REFRESH_MODE : Row := ⟨0x404, 0x0, 1, 0, 1, .rwx, 0⟩
def DMC_REFRESH_POSTPONE_MAX : Row := ⟨0x404, 0x0, 1, 4, 4, .rwx, 8⟩
def DMC_REFRESH_PULLIN_MAX : Row := ⟨0x404, 0x0, 1, 8, 4, .rwx, 8⟩
def DMC_CNT_RD_LO_LO : Row := ⟨0x048, 0x0, 1, 0, 32, .ro, 0⟩
def DMC_CNT_RD_HI_HI : Row := ⟨0x04C, 0x0, 1, 0, 32, .ro, 0⟩
def DMC_CNT_WR_LO_LO : Row := ⟨0x050, 0x0, 1, 0, 32, .ro, 0⟩
def DMC_CNT_WR_HI_HI : Row := ⟨0x054, 0x0, 1, 0, 32, .ro, 0⟩
def DMC_CNT_RAW_COUNT : Row := ⟨0x058, 0x0, 1, 0, 32, .ro, 0⟩
def DMC_ECC_ADDR_LO_LO : Row := ⟨0x060, 0x0, 1, 0, 32, .ro, 0⟩
def DMC_ECC_ADDR_HI_HI : Row := ⟨0x064, 0x0, 1, 0, 32, .ro, 0⟩
def PCIE_LINK_STAT_SPEED : Row := ⟨0x040, 0x0, 1, 0, 3, .ro, 0⟩
def PCIE_LINK_STAT_WIDTH : Row := ⟨0x040, 0x0, 1, 3, 5, .ro, 0⟩
def PCIE_LINK_STAT_UP : Row := ⟨0x040, 0x0, 1, 8, 1, .ro, 0⟩
def PCIE_LINK_STAT_L12 : Row := ⟨0x040, 0x0, 1, 9, 1, .ro, 0⟩
def PCIE_VF_STAT_NUM_VFS : Row := ⟨0x044, 0x0, 1, 0, 6, .ro, 0⟩
def PCIE_VF_STAT_VF_EN : Row := ⟨0x044, 0x0, 1, 6, 1, .ro, 0⟩
def PCIE_CNT_FLR_COUNT : Row := ⟨0x048, 0x0, 1, 0, 32, .ro, 0⟩
def PCIE_CNT_LINK_DOWN_COUNT : Row := ⟨0x04C, 0x0, 1, 0, 32, .ro, 0⟩
def PWR_DOM_CMD_DOMAIN : Row := ⟨0x040, 0x0, 1, 0, 6, .rw, 0⟩
def PWR_DOM_CMD_OP : Row := ⟨0x040, 0x0, 1, 8, 2, .wo, 0⟩
def PWR_DOM_CMD_BUSY : Row := ⟨0x040, 0x0, 1, 12, 1, .ro, 0⟩
def PWR_DOM_CMD_RESULT : Row := ⟨0x040, 0x0, 1, 16, 3, .ro, 0⟩
def PWR_PD_TIMEOUT_US : Row := ⟨0x044, 0x0, 1, 0, 20, .rw, 1000⟩
def PWR_GOV_SLEW : Row := ⟨0x048, 0x0, 1, 0, 5, .rw, 25⟩
def PWR_GOV_STAGGER_US : Row := ⟨0x048, 0x0, 1, 8, 8, .rw, 2⟩
def PWR_GOV_RAMP_US : Row := ⟨0x048, 0x0, 1, 16, 8, .rw, 8⟩
def PWR_IDLE_PG_US : Row := ⟨0x04C, 0x0, 1, 0, 16, .rw, 1000⟩
def PWR_AVS_TARGET_MV : Row := ⟨0x050, 0x0, 1, 0, 10, .ro, 0⟩
def PWR_AVS_ACK : Row := ⟨0x050, 0x0, 1, 16, 1, .w1s, 0⟩
def PWR_STAT_RAIL_OK : Row := ⟨0x054, 0x0, 1, 0, 11, .ro, 0⟩
def PWR_STAT_GOV_ERR : Row := ⟨0x054, 0x0, 1, 16, 1, .w1c, 0⟩
def PWR_STAT_CMD_ERR : Row := ⟨0x054, 0x0, 1, 17, 1, .w1c, 0⟩
def PWR_CNT_BUSY_COUNT : Row := ⟨0x058, 0x0, 1, 0, 32, .ro, 0⟩
def PWR_DOM_STAT_STATE : Row := ⟨0x100, 0x4, 60, 0, 3, .ro, 0⟩
def PWR_DOM_STAT_AUTO_OFF : Row := ⟨0x100, 0x4, 60, 3, 1, .ro, 0⟩
def PWR_DOM_STAT_WAKES : Row := ⟨0x100, 0x4, 60, 16, 16, .ro, 0⟩
def CLK_ENG_FREQ_STEP : Row := ⟨0x040, 0x0, 1, 0, 4, .rw, 11⟩
def CLK_ENG_NOW_STEP : Row := ⟨0x044, 0x0, 1, 0, 4, .ro, 5⟩
def CLK_SRC_RTC_SEL : Row := ⟨0x048, 0x0, 1, 0, 1, .rw, 0⟩
def CLK_SRC_RTC_OK : Row := ⟨0x048, 0x0, 1, 1, 1, .ro, 0⟩
def CLK_SRC_CORE_LOCK : Row := ⟨0x048, 0x0, 1, 2, 1, .ro, 0⟩
def CLK_SRC_REFCLK_OK : Row := ⟨0x048, 0x0, 1, 3, 1, .ro, 0⟩
def CLK_SRC_SERDES_REFCLK_OK : Row := ⟨0x048, 0x0, 1, 4, 1, .ro, 0⟩
def CLK_THROTTLE_LIMIT : Row := ⟨0x04C, 0x0, 1, 0, 4, .ro, 11⟩
def CLK_THROTTLE_ACTIVE : Row := ⟨0x04C, 0x0, 1, 4, 1, .ro, 0⟩
def CLK_THROTTLE_CNT : Row := ⟨0x04C, 0x0, 1, 16, 16, .ro, 0⟩
def CLK_DEVTIME_LO_LO : Row := ⟨0x060, 0x0, 1, 0, 32, .ro, 0⟩
def CLK_DEVTIME_HI_HI : Row := ⟨0x064, 0x0, 1, 0, 32, .ro, 0⟩
def HDR_BLK_ID_TYPE : Row := ⟨0x000, 0x0, 1, 0, 8, .ro, 0⟩
def HDR_BLK_ID_INSTANCE : Row := ⟨0x000, 0x0, 1, 8, 8, .ro, 0⟩
def HDR_BLK_ID_PAGE : Row := ⟨0x000, 0x0, 1, 16, 4, .ro, 0⟩
def HDR_BLK_READY_READY : Row := ⟨0x004, 0x0, 1, 0, 1, .ro, 0⟩
def HDR_BLK_READY_DEGRADED : Row := ⟨0x004, 0x0, 1, 1, 1, .ro, 0⟩
def HDR_BLK_READY_IN_SERVICE : Row := ⟨0x004, 0x0, 1, 2, 1, .ro, 0⟩
def HDR_BLK_READY_STATE : Row := ⟨0x004, 0x0, 1, 4, 4, .ro, 0⟩
def HDR_BLK_PWR_STATE : Row := ⟨0x008, 0x0, 1, 0, 3, .ro, 0⟩
def HDR_BLK_PWR_AUTO_OFF : Row := ⟨0x008, 0x0, 1, 3, 1, .ro, 0⟩
def HDR_BLK_PWR_DOMAIN : Row := ⟨0x008, 0x0, 1, 8, 6, .ro, 0⟩
def HDR_EXPERT_KEY_KEY : Row := ⟨0x00C, 0x0, 1, 0, 16, .wo, 0⟩
def HDR_EXPERT_KEY_UNLOCKED : Row := ⟨0x00C, 0x0, 1, 16, 1, .ro, 0⟩
def HDR_FAULT_STATUS_STATUS : Row := ⟨0x010, 0x0, 1, 0, 16, .w1c, 0⟩
def HDR_FAULT_ENABLE_ENABLE : Row := ⟨0x014, 0x0, 1, 0, 16, .rw, 0⟩
def HDR_FAULT_FORCE_FORCE : Row := ⟨0x018, 0x0, 1, 0, 16, .wo, 0⟩
def HDR_FAULT_REACT0_REACT : Row := ⟨0x01C, 0x0, 1, 0, 32, .rw, 0⟩
def HDR_FAULT_REACT1_REACT : Row := ⟨0x020, 0x0, 1, 0, 32, .rw, 0⟩
def HDR_FAULT_FIRST_SOURCE : Row := ⟨0x024, 0x0, 1, 0, 4, .ro, 0⟩
def HDR_FAULT_FIRST_SEVERITY : Row := ⟨0x024, 0x0, 1, 4, 2, .ro, 0⟩
def HDR_FAULT_FIRST_SECONDARY : Row := ⟨0x024, 0x0, 1, 6, 1, .ro, 0⟩
def HDR_FAULT_FIRST_FORCED : Row := ⟨0x024, 0x0, 1, 7, 1, .ro, 0⟩
def HDR_FAULT_FIRST_VALID : Row := ⟨0x024, 0x0, 1, 8, 1, .w1c, 0⟩
def HDR_FAULT_FIRST_DETAIL : Row := ⟨0x024, 0x0, 1, 16, 16, .ro, 0⟩
def HDR_FAULT_COUNT_COUNT : Row := ⟨0x028, 0x0, 1, 0, 16, .rc, 0⟩
def HDR_FAULT_COUNT_OVF : Row := ⟨0x028, 0x0, 1, 16, 1, .rc, 0⟩
def HDR_IRQ_STATUS_CAUSE : Row := ⟨0x02C, 0x0, 1, 0, 32, .w1c, 0⟩
def HDR_IRQ_ENABLE_ENABLE : Row := ⟨0x030, 0x0, 1, 0, 32, .rw, 0⟩
def HDR_IRQ_FORCE_FORCE : Row := ⟨0x034, 0x0, 1, 0, 32, .wo, 0⟩
def HDR_SCRATCH_VALUE : Row := ⟨0x03C, 0x0, 1, 0, 32, .rw, 0⟩
def BDRK1_STATUS_AWAKE : Row := ⟨0x040, 0x0, 1, 0, 1, .ro, 0⟩
def BDRK1_STATUS_ROM_ONLY : Row := ⟨0x040, 0x0, 1, 1, 1, .ro, 0⟩
def BDRK1_STATUS_UPD_LOCK : Row := ⟨0x040, 0x0, 1, 2, 1, .ro, 0⟩
def BDRK1_STATUS_UPD_MCTP : Row := ⟨0x040, 0x0, 1, 3, 1, .ro, 0⟩
def BDRK1_STATUS_HB_LEVEL : Row := ⟨0x040, 0x0, 1, 4, 1, .ro, 0⟩
def BDRK1_FATAL_PAGE : Row := ⟨0x044, 0x0, 1, 0, 16, .ro, 0⟩
def BDRK1_FATAL_SOURCE : Row := ⟨0x044, 0x0, 1, 16, 4, .ro, 0⟩
def BDRK1_FATAL_VALID : Row := ⟨0x044, 0x0, 1, 31, 1, .ro, 0⟩
def BDRK1_CNT_SECONDARY_COUNT : Row := ⟨0x048, 0x0, 1, 0, 32, .ro, 0⟩
def BDRK1_SHADOW_CYCLES : Row := ⟨0x400, 0x0, 1, 0, 16, .rwx, 256⟩
def BDRK2_MBX_CMD_WORD : Row := ⟨0x040, 0x4, 16, 0, 32, .rw, 0⟩
def BDRK2_MBX_GO_GO : Row := ⟨0x080, 0x0, 1, 0, 1, .wo, 0⟩
def BDRK2_MBX_STAT_BUSY : Row := ⟨0x084, 0x0, 1, 0, 1, .ro, 0⟩
def BDRK2_MBX_STAT_RESULT : Row := ⟨0x084, 0x0, 1, 8, 8, .ro, 0⟩
def BDRK2_MBX_STAT_TAG : Row := ⟨0x084, 0x0, 1, 16, 16, .ro, 0⟩
def BDRK2_MBX_RES_P0 : Row := ⟨0x088, 0x0, 1, 0, 32, .ro, 0⟩
def BDRKB_MBX_BUF_BYTES : Row := ⟨0x400, 0x4, 768, 0, 32, .rwx, 0⟩
def BDRK3_TEMP_VALUE : Row := ⟨0x040, 0x4, 24, 0, 16, .ro, 0⟩
def BDRK3_TEMP_VALID : Row := ⟨0x040, 0x4, 24, 16, 1, .ro, 0⟩
def BDRK3_TEMP_MAX_VALUE : Row := ⟨0x0A0, 0x0, 1, 0, 16, .ro, 0⟩
def BDRK3_VMON_MV : Row := ⟨0x100, 0x4, 12, 0, 16, .ro, 0⟩
def BDRK3_IEST_MA : Row := ⟨0x140, 0x4, 11, 0, 20, .ro, 0⟩
def BDRK8_LOG_HEAD_SEQ : Row := ⟨0x040, 0x0, 1, 0, 32, .ro, 0⟩
def BDRK8_LOG_SEL_INDEX : Row := ⟨0x044, 0x0, 1, 0, 12, .rw, 0⟩
def BDRK8_LOG_SEL_NOR : Row := ⟨0x044, 0x0, 1, 12, 1, .rw, 0⟩
def BDRK8_LOG_DATA_WORD : Row := ⟨0x060, 0x4, 8, 0, 32, .ro, 0⟩
def BDRK8_LOG_DROPPED_COUNT : Row := ⟨0x048, 0x0, 1, 0, 32, .ro, 0⟩
def CAL_CAL_SEL_ITEM : Row := ⟨0x040, 0x0, 1, 0, 8, .rw, 0⟩
def CAL_CAL_COUNT_COUNT : Row := ⟨0x044, 0x0, 1, 0, 16, .ro, 0⟩
def CAL_CAL_LAST_LO_LO : Row := ⟨0x048, 0x0, 1, 0, 32, .ro, 0⟩
def CAL_CAL_LAST_HI_HI : Row := ⟨0x04C, 0x0, 1, 0, 32, .ro, 0⟩
def CAL_CAL_QUAL_QUAL : Row := ⟨0x050, 0x0, 1, 0, 16, .ro, 0⟩
def CAL_CAL_QUAL_PASS : Row := ⟨0x050, 0x0, 1, 16, 1, .ro, 0⟩
def CAL_CAL_LIMIT_LIMIT : Row := ⟨0x054, 0x0, 1, 0, 16, .ro, 0⟩
def IRQ0_PEND_PEND : Row := ⟨0x040, 0x4, 10, 0, 32, .w1c, 0⟩
def IRQ0_INSVC_INSVC : Row := ⟨0x080, 0x4, 10, 0, 32, .ro, 0⟩
def IRQ0_HOLDOFF_US : Row := ⟨0x100, 0x4, 32, 0, 16, .rw, 0⟩
def IRQ0_HOLDOFF_RUNNING : Row := ⟨0x100, 0x4, 32, 16, 1, .ro, 0⟩
def IRQ0_SWI_TRIG_TRIG : Row := ⟨0x180, 0x0, 1, 0, 32, .wo, 0⟩
def IRQ0_CTX_SUM_CTX : Row := ⟨0x1C0, 0x4, 8, 0, 32, .ro, 0⟩
def IRQ0_CNT_SPURIOUS_COUNT : Row := ⟨0x1E0, 0x0, 1, 0, 32, .ro, 0⟩
def IRQ0_CNT_MISMATCH_COUNT : Row := ⟨0x1E4, 0x0, 1, 0, 32, .ro, 0⟩
def IRQS_SRC_CFG_PRIO : Row := ⟨0x040, 0x10, 48, 0, 4, .rw, 8⟩
def IRQS_SRC_CFG_GROUP : Row := ⟨0x040, 0x10, 48, 4, 5, .rw, 0⟩
def IRQS_SRC_CFG_EDGE : Row := ⟨0x040, 0x10, 48, 9, 1, .ro, 0⟩
def IRQS_SRC_CFG_MASK : Row := ⟨0x040, 0x10, 48, 10, 1, .rw, 0⟩
def IRQS_SRC_CFG_VECTOR : Row := ⟨0x040, 0x10, 48, 16, 11, .rw, 0⟩
def IRQS_SRC_TEN0_TEN : Row := ⟨0x044, 0x10, 48, 0, 32, .rw, 0⟩
def IRQS_SRC_TEN1_TEN : Row := ⟨0x048, 0x10, 48, 0, 32, .ro, 0⟩
def IRQS_SRC_TEN2_TEN : Row := ⟨0x04C, 0x10, 48, 0, 16, .rw, 0⟩
def IRQT_VIEW_VIEW : Row := ⟨0x040, 0x4, 10, 0, 32, .ro, 0⟩
def IRQT_CLAIM_ID : Row := ⟨0x068, 0x60, 10, 0, 10, .rw, 1023⟩
def IRQT_EOI_ID : Row := ⟨0x06C, 0x60, 10, 0, 9, .wo, 0⟩
def IRQT_TSTAT_RUN_PRIO : Row := ⟨0x070, 0x60, 10, 0, 4, .ro, 0⟩
def IRQT_TSTAT_IDLE : Row := ⟨0x070, 0x60, 10, 4, 1, .ro, 1⟩
def IRQT_TSTAT_DEPTH : Row := ⟨0x070, 0x60, 10, 5, 4, .ro, 0⟩
def IRQT_TSTAT_EOI_MISMATCH : Row := ⟨0x070, 0x60, 10, 9, 1, .w1c, 0⟩
def IRQT_TSTAT_CLAIM_FULL : Row := ⟨0x070, 0x60, 10, 10, 1, .w1c, 0⟩
def IRQT_TSTAT_QUALIFIED : Row := ⟨0x070, 0x60, 10, 11, 1, .ro, 0⟩
def IRQT_STACK_ID0 : Row := ⟨0x074, 0x4, 4, 0, 9, .ro, 0⟩
def IRQT_STACK_PRIO0 : Row := ⟨0x074, 0x4, 4, 9, 4, .ro, 0⟩
def IRQT_STACK_VALID0 : Row := ⟨0x074, 0x4, 4, 15, 1, .ro, 0⟩
def IRQT_STACK_ID1 : Row := ⟨0x074, 0x4, 4, 16, 9, .ro, 0⟩
def IRQT_STACK_PRIO1 : Row := ⟨0x074, 0x4, 4, 25, 4, .ro, 0⟩
def IRQT_STACK_VALID1 : Row := ⟨0x074, 0x4, 4, 31, 1, .ro, 0⟩
def PERF0_CTL_DUMP_EN : Row := ⟨0x040, 0x0, 1, 0, 1, .rw, 0⟩
def PERF0_CTL_CLEAR : Row := ⟨0x040, 0x0, 1, 1, 1, .wo, 0⟩
def PERF0_CTL_RING_LOC : Row := ⟨0x040, 0x0, 1, 2, 1, .rw, 0⟩
def PERF0_DUMP_PERIOD_US : Row := ⟨0x044, 0x0, 1, 0, 24, .rw, 1000⟩
def PERF0_GROUP_EN0_GROUPS : Row := ⟨0x048, 0x0, 1, 0, 32, .rw, 4294967295⟩
def PERF0_GROUP_EN1_GROUPS : Row := ⟨0x04C, 0x0, 1, 0, 8, .rw, 255⟩
def PERF0_RING_BASE_LO_LO : Row := ⟨0x050, 0x0, 1, 6, 26, .rw, 0⟩
def PERF0_RING_BASE_HI_HI : Row := ⟨0x054, 0x0, 1, 0, 32, .rw, 0⟩
def PERF0_RING_LOG2_LOG2 : Row := ⟨0x058, 0x0, 1, 0, 5, .rw, 4⟩
def PERF0_RING_WR_WR : Row := ⟨0x05C, 0x0, 1, 0, 16, .ro, 0⟩
def PERF0_RING_RD_RD : Row := ⟨0x060, 0x0, 1, 0, 16, .rw, 0⟩
def PERF0_DUMP_SEQ_SEQ : Row := ⟨0x064, 0x0, 1, 0, 32, .ro, 0⟩
def PERF0_CNT_DUMP_DROP_COUNT : Row := ⟨0x068, 0x0, 1, 0, 32, .ro, 0⟩
def PERF0_DUMP_IRQ_EVERY : Row := ⟨0x06C, 0x0, 1, 0, 8, .rw, 1⟩
def PERF0_CNT_SEL_INDEX : Row := ⟨0x070, 0x0, 1, 0, 10, .rw, 0⟩
def PERF0_CNT_VAL_LO_LO : Row := ⟨0x078, 0x0, 1, 0, 32, .ro, 0⟩
def PERF0_CNT_VAL_HI_HI : Row := ⟨0x07C, 0x0, 1, 0, 16, .ro, 0⟩
def PERF1_TAG_CTL_EN : Row := ⟨0x040, 0x0, 1, 0, 1, .rw, 0⟩
def PERF1_TAG_CTL_LOC : Row := ⟨0x040, 0x0, 1, 1, 1, .rw, 0⟩
def PERF1_TAG_CTL_K : Row := ⟨0x040, 0x0, 1, 8, 5, .rw, 12⟩
def PERF1_TAG_SEED_SEED : Row := ⟨0x044, 0x0, 1, 0, 32, .rw, 1⟩
def PERF1_TAG_BASE_LO_LO : Row := ⟨0x048, 0x0, 1, 6, 26, .rw, 0⟩
def PERF1_TAG_BASE_HI_HI : Row := ⟨0x04C, 0x0, 1, 0, 32, .rw, 0⟩
def PERF1_TAG_LOG2_LOG2 : Row := ⟨0x050, 0x0, 1, 0, 5, .rw, 4⟩
def PERF1_TAG_WR_INDEX : Row := ⟨0x054, 0x0, 1, 0, 16, .ro, 0⟩
def PERF1_TAG_RD_INDEX : Row := ⟨0x058, 0x0, 1, 0, 16, .rw, 0⟩
def PERF1_CNT_TAG_DROP_COUNT : Row := ⟨0x05C, 0x0, 1, 0, 32, .ro, 0⟩
def DMA0_CNT_DONE_COUNT : Row := ⟨0x040, 0x0, 1, 0, 32, .ro, 0⟩
def DMA0_CNT_ABORT_COUNT : Row := ⟨0x044, 0x0, 1, 0, 32, .ro, 0⟩
def DMA0_CNT_ERR_COUNT : Row := ⟨0x048, 0x0, 1, 0, 32, .ro, 0⟩
def DMA0_OWN_ERR_ERR : Row := ⟨0x04C, 0x0, 1, 0, 1, .w1c, 0⟩
def DMA0_CH_OWNER_OWNER : Row := ⟨0x100, 0x4, 64, 0, 6, .rw, 0⟩
def DMAC_CH_SRC_LO_LO : Row := ⟨0x040, 0x38, 16, 0, 32, .rw, 0⟩
def DMAC_CH_SRC_HI_HI : Row := ⟨0x044, 0x38, 16, 0, 32, .rw, 0⟩
def DMAC_CH_DST_LO_LO : Row := ⟨0x048, 0x38, 16, 0, 32, .rw, 0⟩
def DMAC_CH_DST_HI_HI : Row := ⟨0x04C, 0x38, 16, 0, 32, .rw, 0⟩
def DMAC_CH_LEN_BYTES : Row := ⟨0x050, 0x38, 16, 0, 32, .rw, 0⟩
def DMAC_CH_ROWS_ROWS : Row := ⟨0x054, 0x38, 16, 0, 16, .rw, 1⟩
def DMAC_CH_SSTRIDE_BYTES : Row := ⟨0x058, 0x38, 16, 0, 32, .rw, 0⟩
def DMAC_CH_DSTRIDE_BYTES : Row := ⟨0x05C, 0x38, 16, 0, 32, .rw, 0⟩
def DMAC_CH_CTL_SRC_LOC : Row := ⟨0x060, 0x38, 16, 0, 1, .rw, 0⟩
def DMAC_CH_CTL_DST_LOC : Row := ⟨0x060, 0x38, 16, 1, 1, .rw, 0⟩
def DMAC_CH_CTL_IRQ : Row := ⟨0x060, 0x38, 16, 2, 1, .rw, 1⟩
def DMAC_CH_CTL_AUTO_WAKE : Row := ⟨0x060, 0x38, 16, 3, 1, .rw, 1⟩
def DMAC_CH_STATUS_ADDR_LO_LOC : Row := ⟨0x064, 0x38, 16, 0, 1, .rw, 0⟩
def DMAC_CH_STATUS_ADDR_LO_ADDR : Row := ⟨0x064, 0x38, 16, 4, 28, .rw, 0⟩
def DMAC_CH_STATUS_ADDR_HI_HI : Row := ⟨0x068, 0x38, 16, 0, 32, .rw, 0⟩
def DMAC_CH_CMD_ARM : Row := ⟨0x06C, 0x38, 16, 0, 1, .w1s, 0⟩
def DMAC_CH_CMD_ABORT : Row := ⟨0x06C, 0x38, 16, 1, 1, .wo, 0⟩
def DMAC_CH_STAT_ACTIVE : Row := ⟨0x070, 0x38, 16, 0, 1, .ro, 0⟩
def DMAC_CH_STAT_ARMED : Row := ⟨0x070, 0x38, 16, 1, 1, .ro, 0⟩
def DMAC_CH_STAT_DONE : Row := ⟨0x070, 0x38, 16, 2, 1, .w1c, 0⟩
def DMAC_CH_STAT_ERR : Row := ⟨0x070, 0x38, 16, 3, 1, .w1c, 0⟩
def DMAC_CH_STAT_CFG_ERR : Row := ⟨0x070, 0x38, 16, 4, 1, .w1c, 0⟩
def DMAC_CH_STAT_LAST_CODE : Row := ⟨0x070, 0x38, 16, 8, 8, .ro, 0⟩
def DMAC_CH_STAT_SEQ : Row := ⟨0x070, 0x38, 16, 16, 16, .ro, 0⟩
def DMAC_CH_RESIDUE_BYTES : Row := ⟨0x074, 0x38, 16, 0, 32, .ro, 0⟩
def DMAC_ACT_SRC_LO_VALUE : Row := ⟨0x400, 0x38, 16, 0, 32, .ro, 0⟩
def DMAC_ACT_SRC_HI_VALUE : Row := ⟨0x404, 0x38, 16, 0, 32, .ro, 0⟩
def DMAC_ACT_DST_LO_VALUE : Row := ⟨0x408, 0x38, 16, 0, 32, .ro, 0⟩
def DMAC_ACT_DST_HI_VALUE : Row := ⟨0x40C, 0x38, 16, 0, 32, .ro, 0⟩
def DMAC_ACT_LEN_VALUE : Row := ⟨0x410, 0x38, 16, 0, 32, .ro, 0⟩
def DMAC_ACT_ROWS_VALUE : Row := ⟨0x414, 0x38, 16, 0, 32, .ro, 1⟩
def DMAC_ACT_SSTRIDE_VALUE : Row := ⟨0x418, 0x38, 16, 0, 32, .ro, 0⟩
def DMAC_ACT_DSTRIDE_VALUE : Row := ⟨0x41C, 0x38, 16, 0, 32, .ro, 0⟩
def DMAC_ACT_CTL_VALUE : Row := ⟨0x420, 0x38, 16, 0, 32, .ro, 12⟩
def DMAC_ACT_STATUS_ADDR_LO_VALUE : Row := ⟨0x424, 0x38, 16, 0, 32, .ro, 0⟩
def DMAC_ACT_STATUS_ADDR_HI_VALUE : Row := ⟨0x428, 0x38, 16, 0, 32, .ro, 0⟩
def TALUS_DBL_FREE_CNT_COUNT : Row := ⟨0x040, 0x0, 1, 0, 32, .ro, 0⟩
def TALUS_NONOWNER_CNT_COUNT : Row := ⟨0x044, 0x0, 1, 0, 32, .ro, 0⟩
def TALUS_INVALID_CNT_COUNT : Row := ⟨0x048, 0x0, 1, 0, 32, .ro, 0⟩
def TALUS_HELD_CNT_COUNT : Row := ⟨0x04C, 0x0, 1, 0, 32, .ro, 0⟩
def TALUS_LAST_REJECT_HANDLE : Row := ⟨0x050, 0x0, 1, 0, 32, .ro, 4294967295⟩
def TALUS_LAST_REJECT_INFO_OWNER : Row := ⟨0x054, 0x0, 1, 0, 8, .ro, 0⟩
def TALUS_LAST_REJECT_INFO_REASON : Row := ⟨0x054, 0x0, 1, 8, 2, .ro, 0⟩
def TALUS_POOL_BASE_LO_LO : Row := ⟨0x100, 0x10, 8, 22, 10, .rw, 0⟩
def TALUS_POOL_BASE_HI_HI : Row := ⟨0x104, 0x10, 8, 0, 32, .rw, 0⟩
def TALUS_POOL_CTL_COUNT : Row := ⟨0x108, 0x10, 8, 0, 17, .rw, 0⟩
def TALUS_POOL_CTL_ENABLE : Row := ⟨0x108, 0x10, 8, 24, 1, .rw, 0⟩
def TALUS_POOL_CTL_SPILL : Row := ⟨0x108, 0x10, 8, 25, 1, .rw, 0⟩
def TALUS_POOL_STAT_FREE : Row := ⟨0x10C, 0x10, 8, 0, 17, .ro, 0⟩
def TALUS_POOL_STAT_ECC : Row := ⟨0x10C, 0x10, 8, 24, 1, .ro, 0⟩
def DMC0_CAPACITY_LO_LO : Row := ⟨0x100, 0x0, 1, 0, 32, .ro, 0⟩
def DMC0_CAPACITY_HI_HI : Row := ⟨0x104, 0x0, 1, 0, 32, .ro, 0⟩
def DMC0_USABLE_LO_LO : Row := ⟨0x108, 0x0, 1, 0, 32, .ro, 0⟩
def DMC0_USABLE_HI_HI : Row := ⟨0x10C, 0x0, 1, 0, 32, .ro, 0⟩
def DMC0_CTRL_SIZE_BYTES : Row := ⟨0x110, 0x0, 1, 0, 32, .ro, 0⟩
def DMC0_ILV_S_S : Row := ⟨0x114, 0x0, 1, 0, 7, .ro, 0⟩
def DMC0_REGION_BASE_LO_LO : Row := ⟨0x200, 0x10, 16, 21, 11, .rw, 0⟩
def DMC0_REGION_BASE_HI_HI : Row := ⟨0x204, 0x10, 16, 0, 32, .rw, 0⟩
def DMC0_REGION_SIZE_SIZE : Row := ⟨0x208, 0x10, 16, 0, 32, .rw, 0⟩
def DMC0_REGION_CTL_ENABLE : Row := ⟨0x20C, 0x10, 16, 0, 1, .rw, 0⟩
def DMC0_REGION_CTL_INIT_DONE : Row := ⟨0x20C, 0x10, 16, 1, 1, .ro, 0⟩
def DMC0_REGION_CTL_ERR : Row := ⟨0x20C, 0x10, 16, 2, 1, .w1c, 0⟩
def DMC0_ILV_SLOT_CHANNEL : Row := ⟨0x600, 0x4, 96, 0, 5, .ro, 0⟩
def DMC0_ILV_SLOT_VALID : Row := ⟨0x600, 0x4, 96, 7, 1, .ro, 0⟩
def DTRN_PAT_SEL_IDX : Row := ⟨0x040, 0x0, 1, 0, 6, .rw, 0⟩
def DTRN_PAT_DATA_DATA : Row := ⟨0x044, 0x4, 8, 0, 32, .rw, 0⟩
def DTRN_RUN_START : Row := ⟨0x064, 0x0, 1, 0, 1, .wo, 0⟩
def DTRN_RUN_BUSY : Row := ⟨0x064, 0x0, 1, 1, 1, .ro, 0⟩
def DTRN_RUN_FIRST : Row := ⟨0x064, 0x0, 1, 8, 6, .rw, 0⟩
def DTRN_RUN_LAST : Row := ⟨0x064, 0x0, 1, 16, 6, .rw, 0⟩
def DTRN_RUN_LOOPS : Row := ⟨0x064, 0x0, 1, 24, 8, .rw, 0⟩
def DTRN_ERR_COUNT : Row := ⟨0x080, 0x4, 18, 0, 16, .rc, 0⟩
def DTRN_TAP_SEL_SIGNAL : Row := ⟨0x0D0, 0x0, 1, 0, 6, .rw, 0⟩
def DTRN_TAP_VAL_TAP : Row := ⟨0x0D4, 0x0, 1, 0, 10, .rw, 0⟩
def PKT0_NET_MODE_MODE : Row := ⟨0x040, 0x0, 1, 0, 3, .rw, 0⟩
def PKT0_NET_MODE_REJECT : Row := ⟨0x040, 0x0, 1, 3, 1, .w1c, 0⟩
def PKT0_FLOW_SEL_INDEX : Row := ⟨0x044, 0x0, 1, 0, 12, .rw, 0⟩
def PKT0_FLOW_CMD_OP : Row := ⟨0x048, 0x0, 1, 0, 2, .wo, 0⟩
def PKT0_FLOW_CMD_BUSY : Row := ⟨0x048, 0x0, 1, 4, 1, .ro, 0⟩
def PKT0_FLOW_CMD_RESULT : Row := ⟨0x048, 0x0, 1, 8, 3, .ro, 0⟩
def PKT0_CNT_ING_OVER_COUNT : Row := ⟨0x04C, 0x0, 1, 0, 32, .ro, 0⟩
def PKT0_FLOW_DATA_WORD : Row := ⟨0x080, 0x4, 12, 0, 32, .rw, 0⟩
def PKT0_FLOW_RO_WORD : Row := ⟨0x0B0, 0x4, 4, 0, 32, .ro, 0⟩
def PKT0_FLOW_STAT_COUNT : Row := ⟨0x0C0, 0x4, 3, 0, 32, .ro, 0⟩
def PKT1_SVC_SEL_INDEX : Row := ⟨0x044, 0x0, 1, 0, 12, .rw, 0⟩
def PKT1_SVC_CMD_OP : Row := ⟨0x048, 0x0, 1, 0, 2, .wo, 0⟩
def PKT1_SVC_CMD_BUSY : Row := ⟨0x048, 0x0, 1, 4, 1, .ro, 0⟩
def PKT1_SVC_CMD_RESULT : Row := ⟨0x048, 0x0, 1, 8, 3, .ro, 0⟩
def PKT1_CNT_STORE_WAIT_COUNT : Row := ⟨0x04C, 0x0, 1, 0, 32, .ro, 0⟩
def PKT1_STORE_UE_COUNT : Row := ⟨0x050, 0x0, 1, 0, 32, .ro, 0⟩
def PKT1_SVC_DATA_WORD : Row := ⟨0x080, 0x4, 8, 0, 32, .rw, 0⟩
def PKT1_SVC_RO_WORD : Row := ⟨0x0A0, 0x4, 4, 0, 32, .ro, 0⟩
def PKT2_PTP_CTL_ENABLE : Row := ⟨0x040, 0x0, 1, 0, 1, .rw, 0⟩
def PKT2_PTP_CTL_TRANSPORT : Row := ⟨0x040, 0x0, 1, 1, 2, .rw, 0⟩
def PKT2_PTP_CTL_PROFILE : Row := ⟨0x040, 0x0, 1, 3, 1, .rw, 0⟩
def PKT2_PTP_CTL_DOMAIN : Row := ⟨0x040, 0x0, 1, 4, 8, .rw, 0⟩
def PKT2_PTP_CTL_PORT_MASK : Row := ⟨0x040, 0x0, 1, 12, 8, .rw, 0⟩
def PKT2_PTP_STAT_LOCKED : Row := ⟨0x044, 0x0, 1, 0, 1, .ro, 0⟩
def PKT2_PTP_STAT_HOLDOVER : Row := ⟨0x044, 0x0, 1, 1, 1, .ro, 0⟩
def PKT2_PTP_STAT_STEPPED : Row := ⟨0x044, 0x0, 1, 2, 1, .w1c, 0⟩
def PKT2_PTP_STAT_PORT : Row := ⟨0x044, 0x0, 1, 4, 3, .ro, 0⟩
def PKT2_PTP_OFFSET_LO_LO : Row := ⟨0x048, 0x0, 1, 0, 32, .ro, 0⟩
def PKT2_PTP_OFFSET_HI_HI : Row := ⟨0x04C, 0x0, 1, 0, 32, .ro, 0⟩
def PKT2_PTP_RATE_RATE : Row := ⟨0x050, 0x0, 1, 0, 32, .ro, 0⟩
def SHALE0_WIN_SEL_INDEX : Row := ⟨0x040, 0x0, 1, 0, 15, .rw, 0⟩
def SHALE0_WIN_SEL_TABLE : Row := ⟨0x040, 0x0, 1, 16, 1, .rw, 0⟩
def SHALE0_WIN_CMD_OP : Row := ⟨0x044, 0x0, 1, 0, 3, .wo, 0⟩
def SHALE0_WIN_CMD_FLUSH : Row := ⟨0x044, 0x0, 1, 3, 1, .wo, 0⟩
def SHALE0_WIN_CMD_BUSY : Row := ⟨0x044, 0x0, 1, 4, 1, .ro, 0⟩
def SHALE0_WIN_CMD_RESULT : Row := ⟨0x044, 0x0, 1, 8, 3, .ro, 0⟩
def SHALE0_QUEUES_ALLOCATED : Row := ⟨0x048, 0x0, 1, 0, 16, .ro, 0⟩
def SHALE0_QUEUES_ENABLED : Row := ⟨0x048, 0x0, 1, 16, 16, .ro, 0⟩
def SHALE0_CNT_DROP_COUNT : Row := ⟨0x04C, 0x0, 1, 0, 32, .ro, 0⟩
def SHALE0_SAMPLE_BASE_LO_LO : Row := ⟨0x060, 0x0, 1, 12, 20, .rw, 0⟩
def SHALE0_SAMPLE_BASE_HI_HI : Row := ⟨0x064, 0x0, 1, 0, 32, .rw, 0⟩
def SHALE0_SAMPLE_CTL_PERIOD_MS : Row := ⟨0x068, 0x0, 1, 0, 10, .rw, 1⟩
def SHALE0_SAMPLE_CTL_ENABLE : Row := ⟨0x068, 0x0, 1, 16, 1, .rw, 0⟩
def SHALE0_SAMPLE_CTL_SWAP : Row := ⟨0x068, 0x0, 1, 17, 1, .w1s, 0⟩
def SHALE0_SAMPLE_CTL_ACTIVE : Row := ⟨0x068, 0x0, 1, 18, 1, .ro, 0⟩
def SHALE0_SAMPLE_SEQ_COUNT : Row := ⟨0x06C, 0x0, 1, 0, 32, .ro, 0⟩
def SHALE0_WIN_DATA_WORD : Row := ⟨0x080, 0x4, 14, 0, 32, .rw, 0⟩
def SHALE0_WIN_RO_WORD : Row := ⟨0x0B8, 0x4, 6, 0, 32, .ro, 0⟩
def SHALEP_SHAPE_C_RATE : Row := ⟨0x040, 0x10, 9, 0, 26, .rw, 50000000⟩
def SHALEP_SHAPE_C_K : Row := ⟨0x040, 0x10, 9, 26, 3, .rw, 0⟩
def SHALEP_SHAPE_P_RATE : Row := ⟨0x044, 0x10, 9, 0, 26, .rw, 50000000⟩
def SHALEP_BURST_C_BYTES : Row := ⟨0x048, 0x10, 9, 0, 24, .rw, 16777215⟩
def SHALEP_BURST_P_BYTES : Row := ⟨0x04C, 0x10, 9, 0, 24, .rw, 16777215⟩
def SHALEP_GATE_CTL_GATE_EN : Row := ⟨0x100, 0x0, 1, 0, 1, .rw, 0⟩
def SHALEP_GATE_CTL_SHAPE_ERR : Row := ⟨0x100, 0x0, 1, 1, 1, .w1c, 0⟩
def SHALEP_GATE_CTL_MIN_LEAD_US : Row := ⟨0x100, 0x0, 1, 8, 20, .rw, 10⟩
def SHALEP_GATE_BASE_LO_LO : Row := ⟨0x108, 0x0, 1, 0, 32, .rw, 0⟩
def SHALEP_GATE_BASE_HI_HI : Row := ⟨0x10C, 0x0, 1, 0, 32, .rw, 0⟩
def SHALEP_GATE_START_LO_LO : Row := ⟨0x130, 0x0, 1, 0, 32, .ro, 0⟩
def SHALEP_GATE_START_HI_HI : Row := ⟨0x134, 0x0, 1, 0, 32, .ro, 0⟩
def SHALEP_GATE_CYCLE_CYCLE : Row := ⟨0x110, 0x0, 1, 0, 30, .rw, 1000000000⟩
def SHALEP_GATE_LEN_LEN : Row := ⟨0x114, 0x0, 1, 0, 9, .rw, 1⟩
def SHALEP_GATE_CMD_OP : Row := ⟨0x118, 0x0, 1, 0, 2, .wo, 0⟩
def SHALEP_GATE_CMD_PENDING : Row := ⟨0x118, 0x0, 1, 4, 1, .ro, 0⟩
def SHALEP_GATE_CMD_LATE_START : Row := ⟨0x118, 0x0, 1, 5, 1, .w1c, 0⟩
def SHALEP_GATE_CMD_GATE_ERR : Row := ⟨0x118, 0x0, 1, 6, 1, .w1c, 0⟩
def SHALEP_GATE_IDX_IDX : Row := ⟨0x11C, 0x0, 1, 0, 8, .rw, 0⟩
def SHALEP_GATE_ENTRY0_GATES : Row := ⟨0x120, 0x0, 1, 0, 8, .rw, 255⟩
def SHALEP_GATE_ENTRY1_INTERVAL : Row := ⟨0x124, 0x0, 1, 0, 30, .rw, 1000000000⟩
def SHALEP_GATE_STAT_ENTRY : Row := ⟨0x128, 0x0, 1, 0, 8, .ro, 0⟩
def SHALEP_GATE_STAT_OPEN : Row := ⟨0x128, 0x0, 1, 8, 8, .ro, 255⟩
def SHALEP_GATE_STAT_OPER_LEN : Row := ⟨0x128, 0x0, 1, 16, 9, .ro, 0⟩
def FN_RING_SQ_BASE_LO_LO : Row := ⟨0x200, 0x40, 4, 6, 26, .rw, 0⟩
def FN_RING_SQ_BASE_HI_HI : Row := ⟨0x204, 0x40, 4, 0, 32, .rw, 0⟩
def FN_RING_CQ_BASE_LO_LO : Row := ⟨0x208, 0x40, 4, 6, 26, .rw, 0⟩
def FN_RING_CQ_BASE_HI_HI : Row := ⟨0x20C, 0x40, 4, 0, 32, .rw, 0⟩
def FN_RING_CTL_ENABLE : Row := ⟨0x210, 0x40, 4, 0, 1, .rw, 0⟩
def FN_RING_CTL_SQ_LOC : Row := ⟨0x210, 0x40, 4, 1, 1, .rw, 0⟩
def FN_RING_CTL_CQ_LOC : Row := ⟨0x210, 0x40, 4, 2, 1, .rw, 0⟩
def FN_RING_CTL_SQ_LOG2 : Row := ⟨0x210, 0x40, 4, 4, 4, .rw, 4⟩
def FN_RING_CTL_CQ_LOG2 : Row := ⟨0x210, 0x40, 4, 8, 4, .rw, 4⟩
def FN_RING_CTL_RESET : Row := ⟨0x210, 0x40, 4, 16, 1, .wo, 0⟩
def FN_RING_SQ_TAIL_TAIL : Row := ⟨0x214, 0x40, 4, 0, 12, .rw, 0⟩
def FN_RING_SQ_HEAD_HEAD : Row := ⟨0x218, 0x40, 4, 0, 12, .ro, 0⟩
def FN_RING_CQ_HEAD_HEAD : Row := ⟨0x21C, 0x40, 4, 0, 12, .rw, 0⟩
def FN_RING_CQ_TAIL_TAIL : Row := ⟨0x220, 0x40, 4, 0, 12, .ro, 0⟩
def FN_RING_CQ_TAIL_PHASE : Row := ⟨0x220, 0x40, 4, 16, 1, .ro, 1⟩
def FN_RING_IRQ_COUNT : Row := ⟨0x224, 0x40, 4, 0, 8, .rw, 1⟩
def FN_RING_IRQ_HOLD : Row := ⟨0x224, 0x40, 4, 8, 16, .rw, 0⟩
def FN_RING_STAT_CQ_WAIT : Row := ⟨0x228, 0x40, 4, 0, 1, .ro, 0⟩
def FN_RING_STAT_DB_ERR : Row := ⟨0x228, 0x40, 4, 1, 1, .w1c, 0⟩
def FN_RING_STAT_CFG_ERR : Row := ⟨0x228, 0x40, 4, 2, 1, .w1c, 0⟩
def FN_RING_STAT_LINK_ERR : Row := ⟨0x228, 0x40, 4, 3, 1, .w1c, 0⟩
def FN_RING_PEND_PEND : Row := ⟨0x2F0, 0x0, 1, 0, 4, .w1c, 0⟩
def FN_TALUS_ALLOC_HANDLE : Row := ⟨0x300, 0x4, 8, 0, 32, .ro, 4294967295⟩
def FN_TALUS_FREE_HANDLE : Row := ⟨0x320, 0x0, 1, 0, 32, .wo, 0⟩
def FN_TALUS_BASE_LO_LO : Row := ⟨0x340, 0x8, 8, 0, 32, .ro, 0⟩
def FN_TALUS_BASE_HI_HI : Row := ⟨0x344, 0x8, 8, 0, 32, .ro, 0⟩
def MSIX_ADDR_LO_LO : Row := ⟨0x000, 0x10, 256, 2, 30, .rw, 0⟩
def MSIX_ADDR_HI_HI : Row := ⟨0x004, 0x10, 256, 0, 32, .rw, 0⟩
def MSIX_MSG_DATA_DATA : Row := ⟨0x008, 0x10, 256, 0, 32, .rw, 0⟩
def MSIX_VEC_CTL_MASK : Row := ⟨0x00C, 0x10, 256, 0, 1, .rw, 1⟩
def VFM_ADDR_LO_LO : Row := ⟨0x800, 0x10, 64, 2, 30, .rw, 0⟩
def VFM_ADDR_HI_HI : Row := ⟨0x804, 0x10, 64, 0, 32, .rw, 0⟩
def VFM_MSG_DATA_DATA : Row := ⟨0x808, 0x10, 64, 0, 32, .rw, 0⟩
def VFM_VEC_CTL_MASK : Row := ⟨0x80C, 0x10, 64, 0, 1, .rw, 1⟩

end F

/-- Field rows of page kind CTX (02_contexts_commands.md, 03_encode_engines.md, 04_motion_search_mica.md, 05_rate_control.md, 06_decode_concealment.md, 07_placement_guard.md, 08_picture_processing.md). -/
def rowsCTX : List Row :=
  [F.CTX_CFG_STREAM_CODEC, F.CTX_CFG_STREAM_DEPTH10, F.CTX_CFG_STREAM_CHROMA422, F.CTX_CFG_STREAM_PROFILE,
   F.CTX_CFG_STREAM_LEVEL, F.CTX_CFG_SIZE_WIDTH, F.CTX_CFG_SIZE_HEIGHT, F.CTX_CFG_RATE_NUM, F.CTX_CFG_RATE_DEN,
   F.CTX_CFG_IO_INPUT, F.CTX_CFG_IO_OUTPUT, F.CTX_CFG_IO_IN_FLOW, F.CTX_CFG_IO_OUT_NODE,
   F.CTX_CFG_LATENCY_DEADLINE, F.CTX_CFG_GUARD_GUARD, F.CTX_CFG_GUARD_VERIFY, F.CTX_STATE_STATE,
   F.CTX_STATE_RECONFIG_PENDING, F.CTX_STATE_OUT_WAIT, F.CTX_STATE_RING, F.CTX_STATE_PINNED, F.CTX_STATE_CLASS,
   F.CTX_STATE_KIND, F.CTX_STATE_GEN] ++
  [F.CTX_STATE_OWNER, F.CTX_HALT_CAUSE, F.CTX_CNT_IN_COUNT, F.CTX_CNT_OUT_COUNT, F.CTX_CNT_DEGRADED_COUNT,
   F.CTX_CNT_SHED_COUNT, F.CTX_LINK_MAP0_DST, F.CTX_LINK_MAP1_DST, F.CTX_LINK_VALID_VALID, F.CTX_LINK_SRC_SRC,
   F.CTX_LINK_SRC_VALID, F.CTX_LINK_SRC_SLOT, F.CTX_BIND_EE_MASK, F.CTX_BIND_DE_MASK, F.CTX_ENC_GOP_STRUCT,
   F.CTX_ENC_GOP_MINIGOP_LOG2, F.CTX_ENC_GOP_NUM_REF, F.CTX_ENC_GOP_SCENECUT, F.CTX_ENC_GOP_RAP_TYPE,
   F.CTX_ENC_GOP_KEY_INT, F.CTX_ENC_GOP2_MIN_KEY_INT, F.CTX_ENC_GOP2_GIR_PERIOD, F.CTX_ENC_TOOLS_EFFORT,
   F.CTX_ENC_TOOLS_WP] ++
  [F.CTX_ENC_TOOLS_HIGH_TIER, F.CTX_ENC_OUT_AUD, F.CTX_ENC_OUT_PS_EVERY_RAP, F.CTX_ENC_OUT_HDR_SRC,
   F.CTX_ENC_OUT_RECOVERY_SEI, F.CTX_ENC_OUT_T35_PASS, F.CTX_ENC_VUI_PRIMARIES, F.CTX_ENC_VUI_TRANSFER,
   F.CTX_ENC_VUI_MATRIX, F.CTX_ENC_VUI_FULL_RANGE, F.CTX_ENC_VUI_PRESENT, F.CTX_ENC_CLL_MAX_CLL,
   F.CTX_ENC_CLL_MAX_FALL, F.CTX_ENC_STAT_COLS, F.CTX_ENC_STAT_DPB_PICS, F.CTX_ENC_STAT_GIR_ACTIVE,
   F.CTX_ENC_STAT_SINCE_RAP, F.CTX_ENC_XTOOLS_RDOQ_OFF, F.CTX_ENC_XTOOLS_TSKIP_OFF, F.CTX_ENC_XTOOLS_SDH_OFF,
   F.CTX_ENC_XTOOLS_TMVP_OFF, F.CTX_ENC_XTOOLS_DEBLOCK_OFF, F.CTX_ENC_XTOOLS_SAO_OFF, F.CTX_ENC_XTOOLS_ALF_OFF] ++
  [F.CTX_ENC_XTOOLS_CDEF_OFF, F.CTX_ENC_XTOOLS_LR_OFF, F.CTX_ENC_XTOOLS_AFFINE_OFF, F.CTX_ENC_XTOOLS_GPM_OFF,
   F.CTX_ENC_XTOOLS_LFNST_OFF, F.CTX_ENC_XSPLIT_COLS, F.CTX_ENC_XREF_REFCOMP_OFF, F.CTX_ENC_XSEARCH_REPRO,
   F.CTX_ENC_XSEARCH_WAIT, F.CTX_RC_CTL_MODE, F.CTX_RC_CTL_QI, F.CTX_RC_CTL_LA_DEPTH, F.CTX_RC_CTL_HRD,
   F.CTX_RC_CTL_DU_HRD, F.CTX_RC_CTL_DROPPABLE, F.CTX_RC_CAP_CAP_RATE, F.CTX_RC_BUF_CAP_BUFFER,
   F.CTX_RC_BUF_INIT, F.CTX_RC_QP_QP_MIN, F.CTX_RC_QP_QP_MAX, F.CTX_RC_QP_AQ, F.CTX_RC_RECOVER_PICS,
   F.CTX_RC_RECOVER_DQ, F.CTX_RC_STAT_STEP] ++
  [F.CTX_RC_STAT_THROTTLED, F.CTX_RC_STAT_LA_CUT, F.CTX_RC_STAT_EFFORT_CUT, F.CTX_RC_STAT_EFFORT_NOW,
   F.CTX_RC_STAT_LA_NOW, F.CTX_RC_LEVEL_BYTES, F.CTX_RC_CNT_RATION_COUNT, F.CTX_RC_CNT_FILLER_COUNT,
   F.CTX_RC_CNT_LATE_COUNT, F.CTX_RC_XLA_LA_MIN, F.CTX_RC_XLA_SCENE_THRESH, F.CTX_RC_XLAMBDA_SCALE,
   F.CTX_DEC_CTL_REF_SUBST, F.CTX_DEC_CTL_MAX_PARTS, F.CTX_DEC_OUT_DROP_ABOVE, F.CTX_DEC_STAT_PROFILE,
   F.CTX_DEC_STAT_LEVEL, F.CTX_DEC_STAT_DEPTH10, F.CTX_DEC_STAT_CHROMA422, F.CTX_DEC_STAT_CONTAMINATED,
   F.CTX_DEC_STAT_FIELDS, F.CTX_DEC_SIZE_WIDTH, F.CTX_DEC_SIZE_HEIGHT, F.CTX_DEC_CNT_ERR_COUNT] ++
  [F.CTX_DEC_CNT_LOST_COUNT, F.CTX_DEC_CNT_CONC_COUNT, F.CTX_DEC_CNT_SUBST_COUNT, F.CTX_DEC_CNT_NOTOUT_COUNT,
   F.CTX_DEC_CNT_LATE_COUNT, F.CTX_DEC_XCONC_TEMPORAL_OFF, F.CTX_DEC_XCONC_STRICT_HALT,
   F.CTX_PLACE_XSEG_SEG_ROWS, F.CTX_PLACE_XSEG_SAMPLE_N, F.CTX_PLACE_XSTAT_UNPINNED, F.CTX_PLACE_XSTAT_SEGS,
   F.CTX_PP_CTL_DEINT, F.CTX_PP_CTL_FIT, F.CTX_PP_CTL_DITHER, F.CTX_PP_CTL_SRC_MATRIX, F.CTX_PP_CTL_SRC_RANGE,
   F.CTX_PP_LAYER_CTL_COUNT, F.CTX_PP_LAYER_CTL_LOC, F.CTX_PP_LAYER_CTL_SEQ, F.CTX_PP_STAT_OLDEST,
   F.CTX_PP_STAT_LAYER_ERR, F.CTX_PP_STAT_PASSTHRU, F.CTX_PP_STAT_PASSES, F.CTX_PP_XDEINT_LOW] ++
  [F.CTX_PP_XDEINT_HIGH, F.CTX_ENC_MDCV0_GX, F.CTX_ENC_MDCV0_GY, F.CTX_ENC_MDCV1_BX, F.CTX_ENC_MDCV1_BY,
   F.CTX_ENC_MDCV2_RX, F.CTX_ENC_MDCV2_RY, F.CTX_ENC_MDCV3_WX, F.CTX_ENC_MDCV3_WY, F.CTX_ENC_MDCV4_LMAX,
   F.CTX_ENC_MDCV5_LMIN, F.CTX_PP_CROP0_X, F.CTX_PP_CROP0_Y, F.CTX_PP_CROP1_W, F.CTX_PP_CROP1_H,
   F.CTX_PP_LAYER_BASE_LO_LO, F.CTX_PP_LAYER_BASE_HI_HI]

/-- Field rows of page kind EE (03_encode_engines.md, 07_placement_guard.md). -/
def rowsEE : List Row :=
  [F.EE_STATUS_BUSY, F.EE_STATUS_FALLBACK, F.EE_STATUS_STANDBY, F.EE_STATUS_SELFTEST_RUN, F.EE_STATUS_CODEC,
   F.EE_STATUS_CTX, F.EE_RATE_FACTOR, F.EE_CNT_SEG_COUNT, F.EE_CNT_DISCARD_COUNT, F.EE_CNT_FALLBACK_COUNT,
   F.EE_SVC_CTL_RETIRE, F.EE_SVC_CTL_ADMIT, F.EE_SELFTEST_START, F.EE_SELFTEST_DONE, F.EE_SELFTEST_PASS,
   F.EE_SELFTEST_REJECTED, F.EE_SELFTEST_ABORTED, F.EE_SELFTEST_DURATION_US, F.EE_WATCHDOG_PERIOD_US,
   F.EE_ECC_CNT_CORRECTED, F.EE_ECC_CNT_UNCORRECTED, F.EE_FORCE_DIGITAL_FORCE, F.EE_STAGE_STALL_STAGE,
   F.EE_SPEED_SIGMA]

/-- Field rows of page kind MICA (04_motion_search_mica.md). -/
def rowsMICA : List Row :=
  [F.MICA_STATUS_STATE, F.MICA_STATUS_DRIFT_BUSY, F.MICA_STATUS_DRIFT_TILE, F.MICA_STATUS_TILES,
   F.MICA_STATUS_JOBS, F.MICA_TILE_EN_EN, F.MICA_TILE_FAIL_FAIL, F.MICA_RATE_FACTOR, F.MICA_CNT_JOB_COUNT,
   F.MICA_CNT_ABORT_COUNT, F.MICA_SVC_CTL_RETIRE, F.MICA_SVC_CTL_ADMIT, F.MICA_SVC_CTL_CAL_REQ,
   F.MICA_RESID_LIMIT_LIMIT, F.MICA_TILE_MASK_MASK, F.MICA_MIN_TILES_MIN, F.MICA_TRIM_SEL_TILE,
   F.MICA_TRIM_SEL_TAP, F.MICA_TRIM_VAL_TRIM, F.MICA_CNT_PASS_LO_LO, F.MICA_CNT_PASS_HI_HI, F.MICA_RESID_T0,
   F.MICA_RESID_T1, F.MICA_RESID_T2] ++
  [F.MICA_RESID_T3]

/-- Field rows of page kind DE (06_decode_concealment.md, 07_placement_guard.md). -/
def rowsDE : List Row :=
  [F.DE_STATUS_BUSY, F.DE_STATUS_VERIFY, F.DE_STATUS_STANDBY, F.DE_STATUS_SELFTEST_RUN, F.DE_STATUS_CODEC,
   F.DE_STATUS_CTX, F.DE_RATE_FACTOR, F.DE_CNT_PART_COUNT, F.DE_CNT_VERIFY_COUNT, F.DE_CNT_MISMATCH_COUNT,
   F.DE_CNT_DISCARD_COUNT, F.DE_SVC_CTL_RETIRE, F.DE_SVC_CTL_ADMIT, F.DE_SELFTEST_START, F.DE_SELFTEST_DONE,
   F.DE_SELFTEST_PASS, F.DE_SELFTEST_REJECTED, F.DE_SELFTEST_ABORTED, F.DE_SELFTEST_DURATION_US,
   F.DE_WATCHDOG_PERIOD_US, F.DE_ECC_CNT_CORRECTED, F.DE_ECC_CNT_UNCORRECTED, F.DE_STAGE_STALL_STAGE,
   F.DE_SPEED_SIGMA]

/-- Field rows of page kind CHIP (07_placement_guard.md, 14_power_bringup.md, 17_register_pages.md). -/
def rowsCHIP : List Row :=
  [F.CHIP_PLACE_CTL_PLACE, F.CHIP_PLACE_CTL_CAPACITY, F.CHIP_PLACE_CTL_GUARD, F.CHIP_PLACE_CTL_VERIFY,
   F.CHIP_PLACE_CTL_VERIFY_FIRST, F.CHIP_PLACE_CTL_SAMPLE_N, F.CHIP_PIN_EE_MASK, F.CHIP_PIN_DE_MASK,
   F.CHIP_PLACE_STAT_EE_IN, F.CHIP_PLACE_STAT_EE_SB, F.CHIP_PLACE_STAT_DE_IN, F.CHIP_PLACE_STAT_DE_SB,
   F.CHIP_PLACE_STAT_OVL_EE, F.CHIP_PLACE_STAT_OVL_DE, F.CHIP_PLACE_STAT_OVL_MICA, F.CHIP_PLACE_STAT_OVL_DRAM,
   F.CHIP_PLACE_CNT_RESTART_COUNT, F.CHIP_PLACE_CNT_WAIVED_COUNT, F.CHIP_PLACE_CNT_UNMASKED_COUNT,
   F.CHIP_PLACE_XCTL_LOCALITY_US, F.CHIP_PLACE_XCTL_READMIT_MAX, F.CHIP_PLACE_XCTL_BUSY_PCT, F.CHIP_STATE_PHASE,
   F.CHIP_STATE_CAUSE] ++
  [F.CHIP_STATE_BOOT_SRC, F.CHIP_STATE_SMB_ADDR, F.CHIP_STATE_SLOT, F.CHIP_STATE_SLOT_FALLBACK,
   F.CHIP_RESET_CTL_CHIP, F.CHIP_RESET_CTL_KEY, F.CHIP_READY_LO_LO, F.CHIP_READY_HI_HI, F.CHIP_ID_PART,
   F.CHIP_ID_SILICON, F.CHIP_CAPS_EE, F.CHIP_CAPS_DE, F.CHIP_CAPS_MICA, F.CHIP_CAPS_DMC, F.CHIP_CAPS_CTX_LOG2,
   F.CHIP_CAPS_TEMP_I, F.CHIP_GPIO_IN_IN, F.CHIP_GPIO_OUT_OUT, F.CHIP_GPIO_OE_OE, F.CHIP_GPIO_IRQ_MODE,
   F.CHIP_GPIO_LATCH_LATCH]

/-- Field rows of page kind PPU (08_picture_processing.md). -/
def rowsPPU : List Row :=
  [F.PPU_STATUS_BUSY, F.PPU_STATUS_CTX, F.PPU_CNT_JOB_COUNT, F.PPU_CNT_DISCARD_COUNT, F.PPU_WATCHDOG_PERIOD_US]

/-- Field rows of page kind ETH (09_network_ports.md). -/
def rowsETH : List Row :=
  [F.ETH_CTL_ENABLE, F.ETH_CTL_AN, F.ETH_CTL_FEC, F.ETH_CTL_LOOPBACK, F.ETH_STATUS_LINK, F.ETH_STATUS_AN_DONE,
   F.ETH_STATUS_FEC_ACTIVE, F.ETH_STATUS_CFG_ERR, F.ETH_MAX_FRAME_BYTES, F.ETH_CNT_RX_COUNT,
   F.ETH_CNT_RX_ERR_COUNT, F.ETH_CNT_RX_DROP_COUNT, F.ETH_CNT_TX_COUNT, F.ETH_MAC_ADDR_LO_LO,
   F.ETH_MAC_ADDR_HI_HI, F.ETH_IP4_ADDR_ADDR, F.ETH_IP6_ADDR0_ADDR, F.ETH_IP6_ADDR1_ADDR, F.ETH_IP6_ADDR2_ADDR,
   F.ETH_IP6_ADDR3_ADDR]

/-- Field rows of page kind DMC (11_memory_talus.md). -/
def rowsDMC : List Row :=
  [F.DMC_STATUS_STATE, F.DMC_STATUS_RATE, F.DMC_STATUS_RANKS2, F.DMC_STATUS_DENSITY, F.DMC_STATUS_REF_MULT,
   F.DMC_STATUS_OWED, F.DMC_QUEUE_RD, F.DMC_QUEUE_WR, F.DMC_ECC_CNT_CORRECTED, F.DMC_ECC_CNT_UNCORRECTED,
   F.DMC_SCHED_WR_HI, F.DMC_SCHED_WR_LO, F.DMC_SCHED_AGE_NS, F.DMC_REFRESH_MODE, F.DMC_REFRESH_POSTPONE_MAX,
   F.DMC_REFRESH_PULLIN_MAX, F.DMC_CNT_RD_LO_LO, F.DMC_CNT_RD_HI_HI, F.DMC_CNT_WR_LO_LO, F.DMC_CNT_WR_HI_HI,
   F.DMC_CNT_RAW_COUNT, F.DMC_ECC_ADDR_LO_LO, F.DMC_ECC_ADDR_HI_HI]

/-- Field rows of page kind PCIE (12_host_dma.md). -/
def rowsPCIE : List Row :=
  [F.PCIE_LINK_STAT_SPEED, F.PCIE_LINK_STAT_WIDTH, F.PCIE_LINK_STAT_UP, F.PCIE_LINK_STAT_L12,
   F.PCIE_VF_STAT_NUM_VFS, F.PCIE_VF_STAT_VF_EN, F.PCIE_CNT_FLR_COUNT, F.PCIE_CNT_LINK_DOWN_COUNT]

/-- Field rows of page kind PWR (14_power_bringup.md). -/
def rowsPWR : List Row :=
  [F.PWR_DOM_CMD_DOMAIN, F.PWR_DOM_CMD_OP, F.PWR_DOM_CMD_BUSY, F.PWR_DOM_CMD_RESULT, F.PWR_PD_TIMEOUT_US,
   F.PWR_GOV_SLEW, F.PWR_GOV_STAGGER_US, F.PWR_GOV_RAMP_US, F.PWR_IDLE_PG_US, F.PWR_AVS_TARGET_MV, F.PWR_AVS_ACK,
   F.PWR_STAT_RAIL_OK, F.PWR_STAT_GOV_ERR, F.PWR_STAT_CMD_ERR, F.PWR_CNT_BUSY_COUNT, F.PWR_DOM_STAT_STATE,
   F.PWR_DOM_STAT_AUTO_OFF, F.PWR_DOM_STAT_WAKES]

/-- Field rows of page kind CLK (14_power_bringup.md, 18_balls_electrical.md). -/
def rowsCLK : List Row :=
  [F.CLK_ENG_FREQ_STEP, F.CLK_ENG_NOW_STEP, F.CLK_SRC_RTC_SEL, F.CLK_SRC_RTC_OK, F.CLK_SRC_CORE_LOCK,
   F.CLK_SRC_REFCLK_OK, F.CLK_SRC_SERDES_REFCLK_OK, F.CLK_THROTTLE_LIMIT, F.CLK_THROTTLE_ACTIVE,
   F.CLK_THROTTLE_CNT, F.CLK_DEVTIME_LO_LO, F.CLK_DEVTIME_HI_HI]

/-- The common header of R350. -/
def rowsHDR : List Row :=
  [F.HDR_BLK_ID_TYPE, F.HDR_BLK_ID_INSTANCE, F.HDR_BLK_ID_PAGE, F.HDR_BLK_READY_READY, F.HDR_BLK_READY_DEGRADED,
   F.HDR_BLK_READY_IN_SERVICE, F.HDR_BLK_READY_STATE, F.HDR_BLK_PWR_STATE, F.HDR_BLK_PWR_AUTO_OFF,
   F.HDR_BLK_PWR_DOMAIN, F.HDR_EXPERT_KEY_KEY, F.HDR_EXPERT_KEY_UNLOCKED, F.HDR_FAULT_STATUS_STATUS,
   F.HDR_FAULT_ENABLE_ENABLE, F.HDR_FAULT_FORCE_FORCE, F.HDR_FAULT_REACT0_REACT, F.HDR_FAULT_REACT1_REACT,
   F.HDR_FAULT_FIRST_SOURCE, F.HDR_FAULT_FIRST_SEVERITY, F.HDR_FAULT_FIRST_SECONDARY, F.HDR_FAULT_FIRST_FORCED,
   F.HDR_FAULT_FIRST_VALID, F.HDR_FAULT_FIRST_DETAIL, F.HDR_FAULT_COUNT_COUNT] ++
  [F.HDR_FAULT_COUNT_OVF, F.HDR_IRQ_STATUS_CAUSE, F.HDR_IRQ_ENABLE_ENABLE, F.HDR_IRQ_FORCE_FORCE,
   F.HDR_SCRATCH_VALUE]

/-- Field rows of page kind BDRK1 (15_bedrock_faults_calibration.md). -/
def rowsBDRK1 : List Row :=
  [F.BDRK1_STATUS_AWAKE, F.BDRK1_STATUS_ROM_ONLY, F.BDRK1_STATUS_UPD_LOCK, F.BDRK1_STATUS_UPD_MCTP,
   F.BDRK1_STATUS_HB_LEVEL, F.BDRK1_FATAL_PAGE, F.BDRK1_FATAL_SOURCE, F.BDRK1_FATAL_VALID,
   F.BDRK1_CNT_SECONDARY_COUNT, F.BDRK1_SHADOW_CYCLES]

/-- Field rows of page kind BDRK2 (15_bedrock_faults_calibration.md). -/
def rowsBDRK2 : List Row :=
  [F.BDRK2_MBX_CMD_WORD, F.BDRK2_MBX_GO_GO, F.BDRK2_MBX_STAT_BUSY, F.BDRK2_MBX_STAT_RESULT, F.BDRK2_MBX_STAT_TAG,
   F.BDRK2_MBX_RES_P0]

/-- Field rows of page kind BDRKB (15_bedrock_faults_calibration.md). -/
def rowsBDRKB : List Row :=
  [F.BDRKB_MBX_BUF_BYTES]

/-- Field rows of page kind BDRK3 (15_bedrock_faults_calibration.md). -/
def rowsBDRK3 : List Row :=
  [F.BDRK3_TEMP_VALUE, F.BDRK3_TEMP_VALID, F.BDRK3_TEMP_MAX_VALUE, F.BDRK3_VMON_MV, F.BDRK3_IEST_MA]

/-- Field rows of page kind BDRK8 (15_bedrock_faults_calibration.md). -/
def rowsBDRK8 : List Row :=
  [F.BDRK8_LOG_HEAD_SEQ, F.BDRK8_LOG_SEL_INDEX, F.BDRK8_LOG_SEL_NOR, F.BDRK8_LOG_DATA_WORD,
   F.BDRK8_LOG_DROPPED_COUNT]

/-- Field rows of page kind CAL (15_bedrock_faults_calibration.md). -/
def rowsCAL : List Row :=
  [F.CAL_CAL_SEL_ITEM, F.CAL_CAL_COUNT_COUNT, F.CAL_CAL_LAST_LO_LO, F.CAL_CAL_LAST_HI_HI, F.CAL_CAL_QUAL_QUAL,
   F.CAL_CAL_QUAL_PASS, F.CAL_CAL_LIMIT_LIMIT]

/-- Field rows of page kind IRQ0 (13_interrupts.md). -/
def rowsIRQ0 : List Row :=
  [F.IRQ0_PEND_PEND, F.IRQ0_INSVC_INSVC, F.IRQ0_HOLDOFF_US, F.IRQ0_HOLDOFF_RUNNING, F.IRQ0_SWI_TRIG_TRIG,
   F.IRQ0_CTX_SUM_CTX, F.IRQ0_CNT_SPURIOUS_COUNT, F.IRQ0_CNT_MISMATCH_COUNT]

/-- Field rows of page kind IRQS (13_interrupts.md). -/
def rowsIRQS : List Row :=
  [F.IRQS_SRC_CFG_PRIO, F.IRQS_SRC_CFG_GROUP, F.IRQS_SRC_CFG_EDGE, F.IRQS_SRC_CFG_MASK, F.IRQS_SRC_CFG_VECTOR,
   F.IRQS_SRC_TEN0_TEN, F.IRQS_SRC_TEN1_TEN, F.IRQS_SRC_TEN2_TEN]

/-- Field rows of page kind IRQT (13_interrupts.md). -/
def rowsIRQT : List Row :=
  [F.IRQT_VIEW_VIEW, F.IRQT_CLAIM_ID, F.IRQT_EOI_ID, F.IRQT_TSTAT_RUN_PRIO, F.IRQT_TSTAT_IDLE,
   F.IRQT_TSTAT_DEPTH, F.IRQT_TSTAT_EOI_MISMATCH, F.IRQT_TSTAT_CLAIM_FULL, F.IRQT_TSTAT_QUALIFIED,
   F.IRQT_STACK_ID0, F.IRQT_STACK_PRIO0, F.IRQT_STACK_VALID0, F.IRQT_STACK_ID1, F.IRQT_STACK_PRIO1,
   F.IRQT_STACK_VALID1]

/-- Field rows of page kind PERF0 (16_performance_counters.md). -/
def rowsPERF0 : List Row :=
  [F.PERF0_CTL_DUMP_EN, F.PERF0_CTL_CLEAR, F.PERF0_CTL_RING_LOC, F.PERF0_DUMP_PERIOD_US,
   F.PERF0_GROUP_EN0_GROUPS, F.PERF0_GROUP_EN1_GROUPS, F.PERF0_RING_BASE_LO_LO, F.PERF0_RING_BASE_HI_HI,
   F.PERF0_RING_LOG2_LOG2, F.PERF0_RING_WR_WR, F.PERF0_RING_RD_RD, F.PERF0_DUMP_SEQ_SEQ,
   F.PERF0_CNT_DUMP_DROP_COUNT, F.PERF0_DUMP_IRQ_EVERY, F.PERF0_CNT_SEL_INDEX, F.PERF0_CNT_VAL_LO_LO,
   F.PERF0_CNT_VAL_HI_HI]

/-- Field rows of page kind PERF1 (16_performance_counters.md). -/
def rowsPERF1 : List Row :=
  [F.PERF1_TAG_CTL_EN, F.PERF1_TAG_CTL_LOC, F.PERF1_TAG_CTL_K, F.PERF1_TAG_SEED_SEED, F.PERF1_TAG_BASE_LO_LO,
   F.PERF1_TAG_BASE_HI_HI, F.PERF1_TAG_LOG2_LOG2, F.PERF1_TAG_WR_INDEX, F.PERF1_TAG_RD_INDEX,
   F.PERF1_CNT_TAG_DROP_COUNT]

/-- Field rows of page kind DMA0 (12_host_dma.md). -/
def rowsDMA0 : List Row :=
  [F.DMA0_CNT_DONE_COUNT, F.DMA0_CNT_ABORT_COUNT, F.DMA0_CNT_ERR_COUNT, F.DMA0_OWN_ERR_ERR, F.DMA0_CH_OWNER_OWNER]

/-- Field rows of page kind DMAC (12_host_dma.md). -/
def rowsDMAC : List Row :=
  [F.DMAC_CH_SRC_LO_LO, F.DMAC_CH_SRC_HI_HI, F.DMAC_CH_DST_LO_LO, F.DMAC_CH_DST_HI_HI, F.DMAC_CH_LEN_BYTES,
   F.DMAC_CH_ROWS_ROWS, F.DMAC_CH_SSTRIDE_BYTES, F.DMAC_CH_DSTRIDE_BYTES, F.DMAC_CH_CTL_SRC_LOC,
   F.DMAC_CH_CTL_DST_LOC, F.DMAC_CH_CTL_IRQ, F.DMAC_CH_CTL_AUTO_WAKE, F.DMAC_CH_STATUS_ADDR_LO_LOC,
   F.DMAC_CH_STATUS_ADDR_LO_ADDR, F.DMAC_CH_STATUS_ADDR_HI_HI, F.DMAC_CH_CMD_ARM, F.DMAC_CH_CMD_ABORT,
   F.DMAC_CH_STAT_ACTIVE, F.DMAC_CH_STAT_ARMED, F.DMAC_CH_STAT_DONE, F.DMAC_CH_STAT_ERR, F.DMAC_CH_STAT_CFG_ERR,
   F.DMAC_CH_STAT_LAST_CODE, F.DMAC_CH_STAT_SEQ] ++
  [F.DMAC_CH_RESIDUE_BYTES, F.DMAC_ACT_SRC_LO_VALUE, F.DMAC_ACT_SRC_HI_VALUE, F.DMAC_ACT_DST_LO_VALUE,
   F.DMAC_ACT_DST_HI_VALUE, F.DMAC_ACT_LEN_VALUE, F.DMAC_ACT_ROWS_VALUE, F.DMAC_ACT_SSTRIDE_VALUE,
   F.DMAC_ACT_DSTRIDE_VALUE, F.DMAC_ACT_CTL_VALUE, F.DMAC_ACT_STATUS_ADDR_LO_VALUE,
   F.DMAC_ACT_STATUS_ADDR_HI_VALUE]

/-- Field rows of page kind TALUS (11_memory_talus.md). -/
def rowsTALUS : List Row :=
  [F.TALUS_DBL_FREE_CNT_COUNT, F.TALUS_NONOWNER_CNT_COUNT, F.TALUS_INVALID_CNT_COUNT, F.TALUS_HELD_CNT_COUNT,
   F.TALUS_LAST_REJECT_HANDLE, F.TALUS_LAST_REJECT_INFO_OWNER, F.TALUS_LAST_REJECT_INFO_REASON,
   F.TALUS_POOL_BASE_LO_LO, F.TALUS_POOL_BASE_HI_HI, F.TALUS_POOL_CTL_COUNT, F.TALUS_POOL_CTL_ENABLE,
   F.TALUS_POOL_CTL_SPILL, F.TALUS_POOL_STAT_FREE, F.TALUS_POOL_STAT_ECC]

/-- Field rows of page kind DMC0 (11_memory_talus.md). -/
def rowsDMC0 : List Row :=
  [F.DMC0_CAPACITY_LO_LO, F.DMC0_CAPACITY_HI_HI, F.DMC0_USABLE_LO_LO, F.DMC0_USABLE_HI_HI,
   F.DMC0_CTRL_SIZE_BYTES, F.DMC0_ILV_S_S, F.DMC0_REGION_BASE_LO_LO, F.DMC0_REGION_BASE_HI_HI,
   F.DMC0_REGION_SIZE_SIZE, F.DMC0_REGION_CTL_ENABLE, F.DMC0_REGION_CTL_INIT_DONE, F.DMC0_REGION_CTL_ERR,
   F.DMC0_ILV_SLOT_CHANNEL, F.DMC0_ILV_SLOT_VALID]

/-- Field rows of page kind DTRN (11_memory_talus.md). -/
def rowsDTRN : List Row :=
  [F.DTRN_PAT_SEL_IDX, F.DTRN_PAT_DATA_DATA, F.DTRN_RUN_START, F.DTRN_RUN_BUSY, F.DTRN_RUN_FIRST,
   F.DTRN_RUN_LAST, F.DTRN_RUN_LOOPS, F.DTRN_ERR_COUNT, F.DTRN_TAP_SEL_SIGNAL, F.DTRN_TAP_VAL_TAP]

/-- Field rows of page kind PKT0 (09_network_ports.md). -/
def rowsPKT0 : List Row :=
  [F.PKT0_NET_MODE_MODE, F.PKT0_NET_MODE_REJECT, F.PKT0_FLOW_SEL_INDEX, F.PKT0_FLOW_CMD_OP, F.PKT0_FLOW_CMD_BUSY,
   F.PKT0_FLOW_CMD_RESULT, F.PKT0_CNT_ING_OVER_COUNT, F.PKT0_FLOW_DATA_WORD, F.PKT0_FLOW_RO_WORD,
   F.PKT0_FLOW_STAT_COUNT]

/-- Field rows of page kind PKT1 (09_network_ports.md). -/
def rowsPKT1 : List Row :=
  [F.PKT1_SVC_SEL_INDEX, F.PKT1_SVC_CMD_OP, F.PKT1_SVC_CMD_BUSY, F.PKT1_SVC_CMD_RESULT,
   F.PKT1_CNT_STORE_WAIT_COUNT, F.PKT1_STORE_UE_COUNT, F.PKT1_SVC_DATA_WORD, F.PKT1_SVC_RO_WORD]

/-- Field rows of page kind PKT2 (09_network_ports.md). -/
def rowsPKT2 : List Row :=
  [F.PKT2_PTP_CTL_ENABLE, F.PKT2_PTP_CTL_TRANSPORT, F.PKT2_PTP_CTL_PROFILE, F.PKT2_PTP_CTL_DOMAIN,
   F.PKT2_PTP_CTL_PORT_MASK, F.PKT2_PTP_STAT_LOCKED, F.PKT2_PTP_STAT_HOLDOVER, F.PKT2_PTP_STAT_STEPPED,
   F.PKT2_PTP_STAT_PORT, F.PKT2_PTP_OFFSET_LO_LO, F.PKT2_PTP_OFFSET_HI_HI, F.PKT2_PTP_RATE_RATE]

/-- Field rows of page kind SHALE0 (10_shale_scheduler.md). -/
def rowsSHALE0 : List Row :=
  [F.SHALE0_WIN_SEL_INDEX, F.SHALE0_WIN_SEL_TABLE, F.SHALE0_WIN_CMD_OP, F.SHALE0_WIN_CMD_FLUSH,
   F.SHALE0_WIN_CMD_BUSY, F.SHALE0_WIN_CMD_RESULT, F.SHALE0_QUEUES_ALLOCATED, F.SHALE0_QUEUES_ENABLED,
   F.SHALE0_CNT_DROP_COUNT, F.SHALE0_SAMPLE_BASE_LO_LO, F.SHALE0_SAMPLE_BASE_HI_HI,
   F.SHALE0_SAMPLE_CTL_PERIOD_MS, F.SHALE0_SAMPLE_CTL_ENABLE, F.SHALE0_SAMPLE_CTL_SWAP,
   F.SHALE0_SAMPLE_CTL_ACTIVE, F.SHALE0_SAMPLE_SEQ_COUNT, F.SHALE0_WIN_DATA_WORD, F.SHALE0_WIN_RO_WORD]

/-- Field rows of page kind SHALEP (10_shale_scheduler.md). -/
def rowsSHALEP : List Row :=
  [F.SHALEP_SHAPE_C_RATE, F.SHALEP_SHAPE_C_K, F.SHALEP_SHAPE_P_RATE, F.SHALEP_BURST_C_BYTES,
   F.SHALEP_BURST_P_BYTES, F.SHALEP_GATE_CTL_GATE_EN, F.SHALEP_GATE_CTL_SHAPE_ERR, F.SHALEP_GATE_CTL_MIN_LEAD_US,
   F.SHALEP_GATE_BASE_LO_LO, F.SHALEP_GATE_BASE_HI_HI, F.SHALEP_GATE_START_LO_LO, F.SHALEP_GATE_START_HI_HI,
   F.SHALEP_GATE_CYCLE_CYCLE, F.SHALEP_GATE_LEN_LEN, F.SHALEP_GATE_CMD_OP, F.SHALEP_GATE_CMD_PENDING,
   F.SHALEP_GATE_CMD_LATE_START, F.SHALEP_GATE_CMD_GATE_ERR, F.SHALEP_GATE_IDX_IDX, F.SHALEP_GATE_ENTRY0_GATES,
   F.SHALEP_GATE_ENTRY1_INTERVAL, F.SHALEP_GATE_STAT_ENTRY, F.SHALEP_GATE_STAT_OPEN, F.SHALEP_GATE_STAT_OPER_LEN]

/-- Field rows of page kind FN (02_contexts_commands.md, 11_memory_talus.md). -/
def rowsFN : List Row :=
  [F.FN_RING_SQ_BASE_LO_LO, F.FN_RING_SQ_BASE_HI_HI, F.FN_RING_CQ_BASE_LO_LO, F.FN_RING_CQ_BASE_HI_HI,
   F.FN_RING_CTL_ENABLE, F.FN_RING_CTL_SQ_LOC, F.FN_RING_CTL_CQ_LOC, F.FN_RING_CTL_SQ_LOG2,
   F.FN_RING_CTL_CQ_LOG2, F.FN_RING_CTL_RESET, F.FN_RING_SQ_TAIL_TAIL, F.FN_RING_SQ_HEAD_HEAD,
   F.FN_RING_CQ_HEAD_HEAD, F.FN_RING_CQ_TAIL_TAIL, F.FN_RING_CQ_TAIL_PHASE, F.FN_RING_IRQ_COUNT,
   F.FN_RING_IRQ_HOLD, F.FN_RING_STAT_CQ_WAIT, F.FN_RING_STAT_DB_ERR, F.FN_RING_STAT_CFG_ERR,
   F.FN_RING_STAT_LINK_ERR, F.FN_RING_PEND_PEND, F.FN_TALUS_ALLOC_HANDLE, F.FN_TALUS_FREE_HANDLE] ++
  [F.FN_TALUS_BASE_LO_LO, F.FN_TALUS_BASE_HI_HI]

/-- Field rows of page kind MSIX (12_host_dma.md). -/
def rowsMSIX : List Row :=
  [F.MSIX_ADDR_LO_LO, F.MSIX_ADDR_HI_HI, F.MSIX_MSG_DATA_DATA, F.MSIX_VEC_CTL_MASK]

/-- Field rows of page kind VFM (12_host_dma.md). -/
def rowsVFM : List Row :=
  [F.VFM_ADDR_LO_LO, F.VFM_ADDR_HI_HI, F.VFM_MSG_DATA_DATA, F.VFM_VEC_CTL_MASK]


/-- The rows of a page kind beyond the common header. -/
def kindRows : Kind → List Row
  | .ctx => rowsCTX
  | .ee => rowsEE
  | .mica => rowsMICA
  | .de => rowsDE
  | .chip => rowsCHIP
  | .ppu => rowsPPU
  | .eth => rowsETH
  | .dmc => rowsDMC
  | .pcie => rowsPCIE ++ rowsFN
  | .pwr => rowsPWR
  | .clk => rowsCLK
  | .bdrk1 => rowsBDRK1
  | .bdrk2 => rowsBDRK2
  | .bdrkb => rowsBDRKB
  | .bdrk3 => rowsBDRK3
  | .bdrk8 => rowsBDRK8
  | .cal => rowsCAL
  | .irq0 => rowsIRQ0
  | .irqs => rowsIRQS
  | .irqt => rowsIRQT
  | .perf0 => rowsPERF0
  | .perf1 => rowsPERF1
  | .dma0 => rowsDMA0
  | .dmac => rowsDMAC
  | .talus => rowsTALUS
  | .dmc0 => rowsDMC0
  | .dtrn => rowsDTRN
  | .pkt0 => rowsPKT0
  | .pkt1 => rowsPKT1
  | .pkt2 => rowsPKT2
  | .shale0 => rowsSHALE0
  | .shalep => rowsSHALEP
  | .fn => rowsFN ++ rowsVFM
  | .msix => rowsMSIX
  | .qz | .hdronly | .none => []

/-- Page of function f's area: the PCIE page for the PF, and a page number of the model's own, above BAR0's 16,384
pages, for VF f (R258). -/
def fnPage (f : Nat) : Nat := if f = 0 then 0x140 else 0x4000 + f

/-- The page map of R349. -/
def kindOf (page : Nat) : Kind :=
  if page = 0 then .chip
  else if page = 1 then .bdrk1 else if page = 2 then .bdrk2 else if page = 3 then .bdrk3
  else if page < 8 then .bdrkb else if page = 8 then .bdrk8 else if page < 0x10 then .hdronly
  else if page = 0x10 then .pwr else if page = 0x11 then .clk else if page = 0x12 then .cal
  else if page < 0x20 then .none
  else if page = 0x20 then .irq0 else if page < 0x28 then .irqs else if page < 0x30 then .irqt
  else if page = 0x30 then .perf0 else if page = 0x31 then .perf1 else if page < 0x34 then .hdronly
  else if page < 0x40 then .none
  else if page = 0x40 then .dma0 else if page < 0x45 then .dmac
  else if page = 0x50 then .talus
  else if page < 0x60 then .none
  else if page = 0x60 then .dmc0 else if page < 0x78 then .dmc
  else if page < 0x80 then .none else if page < 0x98 then .dtrn
  else if page < 0xA0 then .none else if page < 0xB2 then .ee
  else if page < 0xC0 then .none else if page < 0xD2 then .de
  else if page < 0xE0 then .none else if page < 0xE4 then .mica
  else if page < 0xE8 then .none else if page < 0xEA then .qz
  else if page < 0xF0 then .none else if page < 0xF8 then .ppu
  else if page < 0x100 then .none else if page < 0x108 then .eth
  else if page < 0x110 then .none
  else if page = 0x110 then .pkt0 else if page = 0x111 then .pkt1 else if page = 0x112 then .pkt2
  else if page = 0x113 then .hdronly
  else if page < 0x120 then .none
  else if page = 0x120 then .shale0 else if page < 0x129 then .shalep else if page < 0x140 then .hdronly
  else if page = 0x140 then .pcie
  else if page < 0x180 then .none else if page < 0x188 then .msix
  else if page < 0x400 then .none else if page < 0x500 then .ctx
  else if page < 0x4001 then .none else if page < 0x4040 then .fn else .none

/-- BLK_ID.TYPE of a page kind (R349); 0 for a page without a header. -/
def typeOf (page : Nat) : Nat :=
  match kindOf page with
  | .chip => 0x01 | .bdrk1 | .bdrk2 | .bdrk3 | .bdrkb | .bdrk8 => 0x02 | .pwr => 0x03 | .clk => 0x04 | .cal => 0x05
  | .irq0 | .irqs | .irqt => 0x06 | .perf0 | .perf1 => 0x07 | .dma0 | .dmac => 0x08 | .talus => 0x09
  | .dmc0 | .dmc => 0x0A | .dtrn => 0x0B | .ee => 0x0C | .de => 0x0D | .mica => 0x0E | .qz => 0x0F | .ppu => 0x10
  | .eth => 0x11 | .pkt0 | .pkt1 | .pkt2 => 0x12 | .shale0 | .shalep => 0x13 | .pcie => 0x14 | .ctx => 0x15
  | .hdronly => if page < 0x10 then 0x02 else if page < 0x34 then 0x07 else if page = 0x113 then 0x12 else 0x13
  | .fn | .msix | .none => 0

/-- First page of the block of a page (R349): single units are their own block. -/
def blockPage (page : Nat) : Nat :=
  match typeOf page with
  | 0x02 => 0x001 | 0x06 => 0x020 | 0x07 => 0x030 | 0x08 => 0x040 | 0x12 => 0x110 | 0x13 => 0x120
  | _ => page

/-- BLK_ID.INSTANCE (R350): the instance number of a unit of many, 0 for single blocks. -/
def instanceOf (page : Nat) : Nat :=
  match kindOf page with
  | .dmc0 | .dmc => page - 0x60 | .dtrn => page - 0x80 | .ee => page - 0xA0 | .de => page - 0xC0
  | .mica => page - 0xE0 | .qz => page - 0xE8 | .ppu => page - 0xF0 | .eth => page - 0x100 | .ctx => page - 0x400
  | _ => 0

/-- Power domains of R297 by page; 60 is AON (R13). -/
def domainOf (page : Nat) : Nat :=
  match kindOf page with
  | .ee => 1 + (page - 0xA0) | .de => 19 + (page - 0xC0) | .mica => 37 + (page - 0xE0) | .qz => 49 + (page - 0xE8)
  | .ppu => 41 + (page - 0xF0)
  | .dmc0 | .dmc => 51 + (page - 0x60) / 4 | .dtrn => 51 + (page - 0x80) / 4
  | _ =>
    match typeOf page with
    | 0x02 | 0x05 => 0
    | 0x11 | 0x12 => 57
    | 0x13 => 58
    | 0x06 | 0x07 | 0x08 | 0x09 | 0x14 | 0x15 => 59
    | _ => if page = 0x180 ∨ (0x180 ≤ page ∧ page < 0x189) ∨ 0x4000 < page then 59 else 60

/-- The fault sources of a page as (severity, reset reaction) in bit order (R87, R109, R157, R193, R216, R219, R234,
R254, R273, R274, R290, R317, R333, R338, R348). Reaction codes of R320: 1 LOG, 2 IRQ, 3 RESET_BLOCK,
4 OUT_OF_SERVICE, 5 FATAL. -/
def faultTab (page : Nat) : List (Nat × Nat) :=
  if blockPage page ≠ page then []
  else match typeOf page with
  | 0x0C => [(0, 1), (1, 4), (1, 4), (1, 4), (2, 1), (2, 1), (3, 4)]
  | 0x0D => [(0, 1), (1, 4), (1, 4), (1, 4), (2, 1), (3, 4)]
  | 0x0E => [(0, 1), (1, 4), (1, 4), (0, 1), (2, 1), (3, 4)]
  | 0x10 => [(0, 1), (1, 4), (1, 4), (2, 1)]
  | 0x11 => [(0, 1), (0, 1), (2, 1)]
  | 0x12 => [(0, 1), (2, 1), (2, 1), (0, 1)]
  | 0x13 => [(0, 1), (2, 1), (0, 1)]
  | 0x0A => [(0, 1), (2, 1), (0, 2), (3, 1), (3, 5)]
  | 0x08 => [(0, 1), (2, 1)]
  | 0x14 => [(0, 1), (3, 5), (0, 1), (0, 1), (0, 1)]
  | 0x06 => [(0, 1), (3, 5)]
  | 0x03 => [(1, 4), (3, 5), (0, 2)]
  | 0x04 => [(3, 5), (0, 1)]
  | 0x0F => [(0, 1), (1, 4), (1, 4)]
  | 0x02 => [(0, 1), (1, 3), (2, 1), (0, 1)]
  | 0x07 => [(0, 1), (2, 1)]
  | _ => []

/-- Whether a page begins with the common header (R349, R350). -/
def hasHeader (page : Nat) : Bool := typeOf page != 0

/-- Number of fault sources of a page. -/
def faultCount (page : Nat) : Nat := (faultTab page).length

/-- Row `r` has an element at page offset `off`. -/
def Row.covers (r : Row) (off : Nat) : Bool :=
  r.off ≤ off && (off - r.off) % r.stride == 0 && (off - r.off) / r.stride < r.count

/-- A field of the CTX page that CONFIGURE copies (R44, R57): the RW and RWX fields below the status area and in the
expert area, without the live registers of R189. -/
def stagedRow (r : Row) : Bool :=
  (r.acc == .rw || r.acc == .rwx) && !(0x1F0 ≤ r.off && r.off < 0x200)

/-- The interrupt source whose registers stand at an offset of IRQ pages 0x021–0x027 (R289 above): 320, of which there is
none, at an offset outside the 48 sources of the page. -/
def irqSrcAt (page off : Nat) : Nat :=
  if off < 0x40 ∨ 0x340 ≤ off then 320 else 48 * (page - 0x21) + (off - 0x40) / 0x10

/-- A source ID of R276 that is in use. -/
def srcExists (s : Nat) : Bool := s < 320 && !(141 ≤ s && s ≤ 143) && !(306 ≤ s)

/-- The field rows at a page offset (R349, R350, R57): none where the offset is reserved (R5). -/
def rowsAt (page off : Nat) : List Row :=
  if off < 0x40 ∧ hasHeader page then
    if 0x10 ≤ off ∧ off < 0x2C ∧ faultCount page = 0 then []
    else rowsHDR.filter (·.covers off)
  else
    match kindOf page with
    | .ctx =>
      let own := rowsCTX.filter (·.covers off)
      if own = [] ∧ 0x240 ≤ off then
        (rowsCTX.filter fun r => stagedRow r && r.covers (off - 0x200)).map ({ · with acc := .ro })
      else own
    | .irqs => if srcExists (irqSrcAt page off) then rowsIRQS.filter (·.covers off) else []
    | .dmc0 => (rowsDMC ++ rowsDMC0).filter (·.covers off)
    | k => (kindRows k).filter (·.covers off)

/-- The part of a register's reset value that the field tables mark "hw" and the text gives: BLK_ID (R350; of a page that
is more than fifteen above its block's first, its four-bit PAGE holds the low bits, log 84),
FAULT_ENABLE and FAULT_REACT (R320, R321), REGION_CTL[0] (R242), and the interrupt source registers (R276, R281,
R283). Every other "hw"
field starts at 0 (DESIGN CHOICE, log 2). -/
def hwReset (page off : Nat) : Nat :=
  if hasHeader page ∧ off = 0 then
    typeOf page + 2 ^ 8 * instanceOf page + 2 ^ 16 * ((page - blockPage page) % 16)
  else if off = 0x14 then 2 ^ faultCount page - 1
  else if off = 0x1C ∨ off = 0x20 then
    let tab := if off = 0x1C then (faultTab page).take 8 else (faultTab page).drop 8
    tab.foldr (fun p n => p.2 + 16 * n) 0
  else if page = 0x60 ∧ off = 0x20C then 3
  else if 0x21 ≤ page ∧ page < 0x28 ∧ 0x40 ≤ off then
    let s := irqSrcAt page off
    if !srcExists s then 0
    else match off % 0x10 with
    | 0x0 => 2 ^ 4 * (s / 10) + (if 274 ≤ s ∧ s ≤ 305 then 2 ^ 9 else 0) + (if s < 128 then 0 else 2 ^ 10) + 2 ^ 16 * s
    | 0x4 => if s < 32 then 2 ^ s else if s < 64 then 0 else 1
    | 0x8 => if 32 ≤ s ∧ s < 64 then 2 ^ (s - 32) else 0
    | _ => 0
  else 0

/-- The reset value of the register at a page offset (R8). -/
def resetWord (page off : Nat) : Nat :=
  (rowsAt page off).foldr (fun r n => n + r.rst * 2 ^ r.lo) (hwReset page off)

end Sys2Proof.Machine
end

