-- ==== Sys2Proof/Machine/Table.lean ====
section
/-! DEFINITION. Sparse tables in canonical form, the register file over them (R2, R3, R8), device memory, and the
outputs of the block. -/

namespace Sys2Proof.Machine

/-- The entry of key `q`, `d` where the table lists none. -/
def tget {α : Type} (d : α) : Tbl α → Nat → α
  | [], _ => d
  | (k, v) :: t, q => if q = k then v else tget d t q

/-- An entry put before the first entry of a greater key. -/
def tins {α : Type} (q : Nat) (v : α) : Tbl α → Tbl α
  | [] => [(q, v)]
  | (k, w) :: t => if q < k then (q, v) :: (k, w) :: t else (k, w) :: tins q v t

/-- The table with entry `v` at key `q`; `d` is what an unlisted `q` reads as, and is not listed. -/
def tput {α : Type} [DecidableEq α] (d : α) (t : Tbl α) (q : Nat) (v : α) : Tbl α :=
  let r := t.filter fun kv => kv.1 != q
  if v = d then r else tins q v r

/-- Keys strictly rising, all of them above `lo`. -/
def tsortedFrom {α : Type} (lo : Nat) : Tbl α → Bool
  | [] => true
  | (k, _) :: t => decide (lo < k) && tsortedFrom k t

/-- Canonical form: keys strictly rising, and no entry equal to what its key reads as when unlisted. -/
def twf {α : Type} [DecidableEq α] (d : Nat → α) : Tbl α → Bool
  | [] => true
  | (k, v) :: t => tsortedFrom k t && decide (v ≠ d k) && twf d t

/-! ### Registers -/

/-- Key of the register at a page offset: its BAR0 address (R2). -/
def regKey (page off : Nat) : Nat := page * 4096 + off

/-- The value a register holds when nothing has written it: its reset value (R8). -/
def regDefault (key : Nat) : Word := BitVec.ofNat 32 (resetWord (key / 4096) (key % 4096))

/-- The stored value of the register at a page offset. -/
def rget (s : State) (page off : Nat) : Nat :=
  (tget (regDefault (regKey page off)) s.regs (regKey page off)).toNat

/-- Store a register (R3: 32 bits). -/
def rset (s : State) (page off v : Nat) : State :=
  { s with regs := tput (regDefault (regKey page off)) s.regs (regKey page off) (BitVec.ofNat 32 v) }

/-- The field of `width` bits at bit `lo` of a register value. -/
def bitsOf (v lo width : Nat) : Nat := v / 2 ^ lo % 2 ^ width

/-- `old` with the field of `width` bits at bit `lo` replaced by `v`. -/
def splice (old lo width v : Nat) : Nat :=
  old % 2 ^ lo + 2 ^ lo * (v % 2 ^ width) + 2 ^ (lo + width) * (old / 2 ^ (lo + width))

/-- Page offset of element `i` of a row. -/
def Row.at (r : Row) (i : Nat) : Nat := r.off + r.stride * i

/-- Field `r` of element `i` on a page. -/
def fget (s : State) (page : Nat) (r : Row) (i : Nat := 0) : Nat := bitsOf (rget s page (r.at i)) r.lo r.width

/-- Set field `r` of element `i` on a page; hardware sets any field. -/
def fset (s : State) (page : Nat) (r : Row) (v : Nat) (i : Nat := 0) : State :=
  rset s page (r.at i) (splice (rget s page (r.at i)) r.lo r.width v)

/-- A field as a flag. -/
def fbit (s : State) (page : Nat) (r : Row) (i : Nat := 0) : Bool := fget s page r i == 1

/-- Set a flag. -/
def fsetb (s : State) (page : Nat) (r : Row) (b : Bool) (i : Nat := 0) : State := fset s page r (if b then 1 else 0) i

/-- Add to a counter field, modulo its width. -/
def fadd (s : State) (page : Nat) (r : Row) (n : Nat) (i : Nat := 0) : State :=
  fset s page r (fget s page r i + n) i

/-- Add to a counter field that saturates. -/
def faddSat (s : State) (page : Nat) (r : Row) (n : Nat) (i : Nat := 0) : State :=
  fset s page r (min (fget s page r i + n) (2 ^ r.width - 1)) i

/-- A 64-bit quantity whose lower word is row `r` (R4). -/
def qget (s : State) (page : Nat) (r : Row) (i : Nat := 0) : Nat :=
  rget s page (r.at i) + 2 ^ 32 * rget s page (r.at i + 4)

/-- Set a 64-bit quantity. -/
def qset (s : State) (page : Nat) (r : Row) (v : Nat) (i : Nat := 0) : State :=
  rset (rset s page (r.at i) (v % 2 ^ 32)) page (r.at i + 4) (v / 2 ^ 32 % 2 ^ 32)

/-- Registers of a block that a block reset does not reload (R322): FAULT_STATUS to FAULT_COUNT, SCRATCH, and those
whose reset is "hw". The states of the domains are not PWR's own state, the FATAL record lasts until a chip reset (R324),
and the log ring outlives a restart of Bedrock (R331), so those registers are kept too (DEDUCED, log 40). -/
def keptInReset (page off : Nat) : Bool :=
  (hasHeader page && ((0x10 ≤ off && off < 0x2C) || off == 0x3C)) ||
  match kindOf page with
  | .mica => off == 0x44 || off == 0x48 || off == 0x410 || (0x80 ≤ off && off < 0xA0)
  | .dmc => off == 0x40
  | .dmc0 => off == 0x40 || (0x100 ≤ off && off < 0x118) || 0x600 ≤ off
  | .pwr => off == 0x50 || off == 0x54 || 0x100 ≤ off
  | .dtrn => off == 0xD4
  | .eth => off == 0x48 || off == 0x4C
  | .bdrk1 => off == 0x44
  | .bdrk8 => 0x40 ≤ off
  | _ => false

/-- Reload the registers of a page to their reset values under R322, keeping what that rule keeps. -/
def resetPage (s : State) (page : Nat) : State :=
  { s with regs := s.regs.filter fun kv => kv.1 / 4096 ≠ page || keptInReset page (kv.1 % 4096) }

/-- Reload every register of a page to its reset value. -/
def clearPage (s : State) (page : Nat) (keep : Nat → Bool := fun _ => false) : State :=
  { s with regs := s.regs.filter fun kv => kv.1 / 4096 ≠ page || keep (kv.1 % 4096) }

/-! ### Memory -/

/-- One byte of device memory; a byte nothing has written reads 0 (DESIGN CHOICE, log 3). -/
def memRead (s : State) (a : Nat) : Byte := tget (0 : Byte) s.mem a

/-- Write one byte of device memory. -/
def memWrite (s : State) (a : Nat) (b : Byte) : State := { s with mem := tput (0 : Byte) s.mem a b }

/-- `n` bytes of device memory from address `a`. -/
def memReadN (s : State) (a n : Nat) : List Byte := (List.range n).map fun i => memRead s (a + i)

/-- Memory with bytes put from address `a` upward. -/
def memPut (m : List Host.Cell) (a : Nat) : List Byte → List Host.Cell
  | [] => m
  | b :: bs => memPut (tput (0 : Byte) m a b) (a + 1) bs

/-- Write bytes from address `a` upward. -/
def memWriteN (s : State) (a : Nat) (l : List Byte) : State := { s with mem := memPut s.mem a l }

/-- Little-endian value of a list of bytes (R33, R35). -/
def leVal : List Byte → Nat
  | [] => 0
  | b :: bs => b.toNat + 256 * leVal bs

/-- The `n` bytes of a value, little-endian. -/
def leBytes : Nat → Nat → List Byte
  | 0, _ => []
  | n + 1, v => BitVec.ofNat 8 v :: leBytes n (v / 256)

/-- Memory is in canonical form. -/
def Memory.wf (m : List Host.Cell) : Bool := twf (fun _ => (0 : Byte)) m

/-! ### Outputs and free values -/

/-- Performance counter `i` counts `n` events (R339). -/
def countEv (s : State) (i n : Nat) : State :=
  let v := (tget (0 : BitVec 48) s.perf.cnt i).toNat + n
  { s with perf := { s.perf with cnt := tput (0 : BitVec 48) s.perf.cnt i (BitVec.ofNat 48 v) } }

/-- Something leaves the block. -/
def emit (s : State) (e : Emit) : State := { s with out := e :: s.out }

end Sys2Proof.Machine
end

