-- ==== Sys2Proof/Machine/Init.lean ====
section
/-! DEFINITION. What the structured state of each unit is when nothing has used it, and the accessors of the unit
tables of State: one read and one update for each. -/

namespace Sys2Proof.Machine

def ring0 : Ring := ⟨[], [], [], [], none, 0, 0⟩

def noHdr : HdrData := ⟨[], [], [], false⟩

def noInfo : StreamInfo := ⟨0, false, false, 2, false, noHdr, false⟩

def noPlane : Plane := ⟨0, 0, #[]⟩

def noPlanes : Planes := ⟨noPlane, noPlane⟩

def noPicture : Picture := ⟨false, false, noPlane, noPlane, noPlane, []⟩

def noCodes : LaCodes := ⟨[]⟩

def noLookahead : Lookahead := ⟨0, 0, [], 0⟩

def noRate : RateSet := ⟨1, 0, 0, 0, false⟩

/-- A context that no owner holds, and that has no history. -/
def ctx0 : Ctx where
  submits := []
  subCount := 0
  lastPts := none
  queued := []
  plan := []
  pics := []
  picCount := 0
  decs := []
  started := false
  psSeen := []
  psNew := []
  raslOut := false
  mem := []
  memKiB := 0
  levelCode := 0
  pendMem := []
  pendKiB := 0
  oldMem := []
  oldUpto := 0
  reconf := none
  snapshot := []
  forced := []
  setRate := none
  flush := none
  close := []
  keyNext := false
  keyForced := false
  fill := 0
  owed := 0
  surplus := 0
  rateNow := noRate
  carries := false
  lastRap := 0
  lastIdr := 0
  seqStart := 0
  position := 0
  ptsLog := []
  params := none
  hidden := false
  toShow := []
  refBase := 0
  craSub := 0
  craNum := 0
  latest := []
  lumas := []
  outSeq := 0
  outWait := []
  recov := []
  slot := 0
  lfsr := 1
  runPos := 0
  runPick := 0
  runLen := 0
  cluster := 0
  moving := false
  linkPics := []
  linkOn := false
  linkOld := []
  linkSkip := 0
  ppJobs := []
  delta := none
  heldBytes := 0
  girPos := 0
  girCycle := 0
  laCut := false
  effCut := 0
  bindMode := 0
  keySubs := []
  shedSubs := []
  entered := []
  encRefs := []
  decRefs := []
  dpb := []
  epoch := 0
  refresh := none
  marred := []
  outOrder := 0
  lastOut := none
  hdr := noHdr
  lastOn := []

def tracker0 : Tracker := ⟨0, 0, false, 0⟩

def run0 : RunCode := ⟨[], true⟩

def engine0 : Engine where
  held := []
  retired := false
  draining := false
  toStandby := false
  tested := false
  testedSince := false
  admitWait := false
  wantTest := false
  leaves := []
  coded := 0
  ests := []
  actuals := []
  ideals := []
  tagLfsr := 1
  tagLeft := 0
  waking := false

def bank0 : Bank := ⟨[], [], [], 0, 0, 0, false, false, [], false, []⟩

def buf0 : Buf := ⟨255, false⟩

def dmc0 : Dmc := ⟨[], [], [], [], false, 0, 0, 2, 0, 0, 0, none⟩

def chan0 : Chan := ⟨false, false, false, 0, 0, []⟩

def src0 : Src := ⟨false, false, false, none, 79⟩

def tgt0 : Tgt := ⟨[], 0x3FF, false, false, false⟩

def func0 : Func := ⟨false, false, false, [], false, false⟩

def dom0 : Dom := ⟨0, 0, 0, 0, false, false, false, false, []⟩

def flow0 : Flow where
  enabled := false
  words := List.replicate 12 0
  rx := 0
  recovered := 0
  lost := 0
  late := 0
  dup := 0
  overflow := 0
  resync := 0
  base := none
  held := []
  fec := []
  next := none
  released := []
  highest := 0
  auBytes := 0
  bufs := []
  openAu := none
  gaps := []
  pat := []
  pmt := []
  ccs := []
  joinAt := 0

def svc0 : Svc where
  enabled := false
  words := List.replicate 8 0
  dgrams := 0
  nulls := 0
  muxLate := 0
  audioDrop := 0
  queue := []
  pack := []
  packAt := 0
  packRap := false
  psi := []
  lastPsi := 0
  lastPcr := 0
  lastSlot := 0
  rtpSeq := 0
  ccs := []
  audio := []
  held := []

/-- The shaper of R228 after reset or ALLOC, its levels at 0 (DESIGN CHOICE, log 6). -/
def shaper0 : Shaper where
  k := 0
  rateC := 50000000
  rateP := 50000000
  burstC := 16777215
  burstP := 16777215
  levC := 0
  levP := 0
  pend := false
  newK := 0
  newRateC := 50000000
  newRateP := 50000000
  newBurstC := 16777215
  newBurstP := 16777215
  forgive := false

/-- A free queue: it has no entry words. -/
def queue0 : Queue := ⟨false, false, [], shaper0, [], false, 0, 0, []⟩

/-- Words 0–13 of a service-node entry at reset (R228, R233). -/
def snodeWords0 : List Word :=
  [0, 50000000, 50000000, 16777215, 16777215, 0, 0, 0, 0, 0, 0, 0, 0, 0]

def snode0 : SvcNode := ⟨snodeWords0, shaper0, 0⟩

def pnode0 : PortNode := ⟨shaper0, [], [], [], 0, 0, [], []⟩

def logEntry0 : LogEntry := ⟨0, 0, 0, false, false, 0, 0, 0, 0, 0, 0, 0⟩

/-! ### Accessors: one read and one update per unit table -/

def getRing (s : State) (k : Nat) : Ring := tget ring0 s.rings k

def modRing (s : State) (k : Nat) (f : Ring → Ring) : State :=
  { s with rings := tput ring0 s.rings k (f (getRing s k)) }

def getCtx (s : State) (k : Nat) : Ctx := tget ctx0 s.ctxs k

def modCtx (s : State) (k : Nat) (f : Ctx → Ctx) : State :=
  { s with ctxs := tput ctx0 s.ctxs k (f (getCtx s k)) }

def getEng (s : State) (k : Nat) : Engine := tget engine0 s.engines k

def modEng (s : State) (k : Nat) (f : Engine → Engine) : State :=
  { s with engines := tput engine0 s.engines k (f (getEng s k)) }

def getBank (s : State) (k : Nat) : Bank := tget bank0 s.banks k

def modBank (s : State) (k : Nat) (f : Bank → Bank) : State :=
  { s with banks := tput bank0 s.banks k (f (getBank s k)) }

def getDmc (s : State) (k : Nat) : Dmc := tget dmc0 s.dmcs k

def modDmc (s : State) (k : Nat) (f : Dmc → Dmc) : State :=
  { s with dmcs := tput dmc0 s.dmcs k (f (getDmc s k)) }

def getChan (s : State) (k : Nat) : Chan := tget chan0 s.chans k

def modChan (s : State) (k : Nat) (f : Chan → Chan) : State :=
  { s with chans := tput chan0 s.chans k (f (getChan s k)) }

def getSrc (s : State) (k : Nat) : Src := tget src0 s.srcs k

def modSrc (s : State) (k : Nat) (f : Src → Src) : State :=
  { s with srcs := tput src0 s.srcs k (f (getSrc s k)) }

def getTgt (s : State) (k : Nat) : Tgt := tget tgt0 s.tgts k

def modTgt (s : State) (k : Nat) (f : Tgt → Tgt) : State :=
  { s with tgts := tput tgt0 s.tgts k (f (getTgt s k)) }

def getFunc (s : State) (k : Nat) : Func := tget func0 s.funcs k

def modFunc (s : State) (k : Nat) (f : Func → Func) : State :=
  { s with funcs := tput func0 s.funcs k (f (getFunc s k)) }

def getDom (s : State) (k : Nat) : Dom := tget dom0 s.doms k

def modDom (s : State) (k : Nat) (f : Dom → Dom) : State :=
  { s with doms := tput dom0 s.doms k (f (getDom s k)) }

def getFlow (s : State) (k : Nat) : Flow := tget flow0 s.flows k

def modFlow (s : State) (k : Nat) (f : Flow → Flow) : State :=
  { s with flows := tput flow0 s.flows k (f (getFlow s k)) }

def getSvc (s : State) (k : Nat) : Svc := tget svc0 s.svcs k

def modSvc (s : State) (k : Nat) (f : Svc → Svc) : State :=
  { s with svcs := tput svc0 s.svcs k (f (getSvc s k)) }

def getQueue (s : State) (k : Nat) : Queue := tget queue0 s.queues k

def modQueue (s : State) (k : Nat) (f : Queue → Queue) : State :=
  { s with queues := tput queue0 s.queues k (f (getQueue s k)) }

def getSnode (s : State) (k : Nat) : SvcNode := tget snode0 s.snodes k

def modSnode (s : State) (k : Nat) (f : SvcNode → SvcNode) : State :=
  { s with snodes := tput snode0 s.snodes k (f (getSnode s k)) }

def getPnode (s : State) (k : Nat) : PortNode := tget pnode0 s.pnodes k

def modPnode (s : State) (k : Nat) (f : PortNode → PortNode) : State :=
  { s with pnodes := tput pnode0 s.pnodes k (f (getPnode s k)) }

end Sys2Proof.Machine
end

