-- ==== Sys2Proof/Machine/Irq.lean ====
section
/-! DEFINITION. The interrupt controller (spec/13): sources and what asserts them, delivery, views, claim and EOI, and
the commands IRQ_DELIVERY to MSIX_UNMASK and MSIX_ENABLE_CHANGE. -/

namespace Sys2Proof.Machine

/-- State of a domain under R298; AON (60) is always ON. -/
def domState (s : State) (d : Nat) : Nat := if d < 60 then fget s 0x10 F.PWR_DOM_STAT_STATE d else 2

/-- The device is in the Sentinel state (R313). -/
def inSentinel (s : State) : Bool := fget s 0 F.CHIP_STATE_PHASE == 3

/-- The level at GPIO_IN[i]: an output shows its own level, and in the Sentinel state every GPIO is an input (R353). -/
def gpioLevel (s : State) (i : Nat) : Bool :=
  if !inSentinel s && (fget s 0 F.CHIP_GPIO_OE_OE).testBit i then (fget s 0 F.CHIP_GPIO_OUT_OUT).testBit i
  else s.pins.gpio.getLsbD i

/-- The source that bit `b` of the IRQ_STATUS of a page reaches (R276). -/
def srcOfBit (page b : Nat) : Nat :=
  match kindOf page with
  | .dmac => if 1 ≤ b ∧ b ≤ 16 then 64 + 16 * (page - 0x41) + (b - 1) else 135
  | .shalep => 250 + (page - 0x121)
  | _ =>
    match typeOf page with
    | 0x01 => 128 | 0x02 => 129 | 0x03 => 130 | 0x04 => 131 | 0x05 => 132 | 0x06 => 133 | 0x07 => 134 | 0x08 => 135
    | 0x09 => 136 | 0x14 => 137 | 0x12 => 138 | 0x13 => 139 | 0x15 => 140
    | 0x0A => 144 + (page - 0x60) | 0x0B => 168 + (page - 0x80) | 0x0C => 192 + (page - 0xA0)
    | 0x0D => 210 + (page - 0xC0) | 0x0E => 228 + (page - 0xE0) | 0x0F => 232 + (page - 0xE8)
    | 0x10 => 234 + (page - 0xF0) | 0x11 => 242 + (page - 0x100)
    | _ => 320

/-- The sources that a page's IRQ_STATUS reaches. -/
def srcsOfPage (page : Nat) : List Nat :=
  match kindOf page with
  | .dmac => ((List.range 16).map fun c => 64 + 16 * (page - 0x41) + c) ++ [135]
  | _ => [srcOfBit page 0]

/-- IRQ_STATUS of a page, as far as IRQ_ENABLE enables it. -/
def enabledCauses (s : State) (page : Nat) : Nat :=
  fget s page F.HDR_IRQ_STATUS_CAUSE &&& fget s page F.HDR_IRQ_ENABLE_ENABLE

/-- The request of a level source (R276); a block whose domain is off asserts none. -/
def srcRequest (s : State) (n : Nat) : Bool :=
  if n < 64 then fget s (fnPage n) F.FN_RING_PEND_PEND != 0
  else if 258 ≤ n ∧ n < 274 then
    match bitsOf (fget s 0 F.CHIP_GPIO_IRQ_MODE) (2 * (n - 258)) 2 with
    | 1 => gpioLevel s (n - 258)
    | 2 => !gpioLevel s (n - 258)
    | 3 => (fget s 0 F.CHIP_GPIO_LATCH_LATCH).testBit (n - 258)
    | _ => false
  else if 274 ≤ n then false
  else
    s.regs.any fun kv =>
      kv.1 % 4096 == 0x2C && (srcsOfPage (kv.1 / 4096)).contains n && domState s (domainOf (kv.1 / 4096)) != 0 &&
        (List.range 32).any fun b => (enabledCauses s (kv.1 / 4096)).testBit b && srcOfBit (kv.1 / 4096) b == n

/-- Let a level source follow its request (R275): pending at an assertion, withdrawn at a deassertion. -/
def syncSrc (s : State) (n : Nat) : State :=
  let now := srcRequest s n
  if now == (getSrc s n).asserted || !srcExists n then s
  else if now then modSrc s n ({ · with pend := true, asserted := true })
  else modSrc s n ({ · with pend := false, asserted := false, delivered := none })

/-- Let every source that a page reaches follow its request. -/
def syncPage (s : State) (page : Nat) : State := (srcsOfPage page).foldl syncSrc s

/-- Set bits of a page's IRQ_STATUS, as hardware does when their causes occur (R350). -/
def setIrq (s : State) (page mask : Nat) : State :=
  if hasHeader page then
    syncPage (fset s page F.HDR_IRQ_STATUS_CAUSE (fget s page F.HDR_IRQ_STATUS_CAUSE ||| mask)) page
  else s

/-- Let the sources of every page of a domain follow their requests, after the domain changed state. -/
def syncDomain (s : State) (d : Nat) : State :=
  s.regs.foldl (fun s kv =>
    if kv.1 % 4096 = 0x2C ∧ domainOf (kv.1 / 4096) = d then syncPage s (kv.1 / 4096) else s) s

/-- A ring pair of function `fn` notifies (R31): bit `n` of RING_PEND. -/
def setRingPend (s : State) (fn n : Nat) : State :=
  syncSrc (fset s (fnPage fn) F.FN_RING_PEND_PEND (fget s (fnPage fn) F.FN_RING_PEND_PEND ||| 2 ^ n)) fn

/-! ### Targets -/

/-- Page and field base of a source's registers (R276 registers). -/
def srcPage (n : Nat) : Nat := 0x21 + n / 48

def srcIdx (n : Nat) : Nat := n % 48

/-- The target-enable bit of a source (R283): fixed for sources 0–63, CH_OWNER for DMA channels, SRC_TEN otherwise. -/
def srcEnabledFor (s : State) (n t : Nat) : Bool :=
  if n < 64 then t == n
  else if n < 128 then t == fget s 0x40 F.DMA0_CH_OWNER_OWNER (n - 64)
  else if t < 32 then (fget s (srcPage n) F.IRQS_SRC_TEN0_TEN (srcIdx n)).testBit t
  else if t < 64 then false
  else (fget s (srcPage n) F.IRQS_SRC_TEN2_TEN (srcIdx n)).testBit (t - 64)

def srcPrio (s : State) (n : Nat) : Nat := fget s (srcPage n) F.IRQS_SRC_CFG_PRIO (srcIdx n)

/-- Running priority of a target plus one, 0 when it is idle (R277). -/
def runPrio1 (x : Tgt) : Nat := x.stack.foldl (fun m p => max m (p.2 + 1)) 0

/-- A source is in service while some target's stack holds it. -/
def inService (s : State) (n : Nat) : Bool := (getSrc s n).inSvc

/-- A target to which a delivery may be made (R282): a function with MSI-X and Bus Master enabled, outside the
Sentinel state (R314), or a processor core that runs. -/
def qualifies (s : State) (t : Nat) : Bool :=
  if t < 64 then (getFunc s t).msix && (getFunc s t).master && !inSentinel s
  else t < 73 && (getTgt s t).runs

/-- The k-th lowest-numbered DMA channel that a function owns, and the window index of a channel (R261). -/
def ownedChans (s : State) (fn : Nat) : List Nat :=
  (List.range 64).filter fun n => fget s 0x40 F.DMA0_CH_OWNER_OWNER n == fn

def chanSlot (s : State) (fn n : Nat) : Nat := ((ownedChans s fn).takeWhile (· != n)).length

/-- The MSI-X vector of a delivery (R282). -/
def vectorOf (s : State) (n t : Nat) : Nat :=
  if t = 0 then fget s (srcPage n) F.IRQS_SRC_CFG_VECTOR (srcIdx n)
  else if n < 64 then 0
  else 1 + chanSlot s t (n - 64)

/-- The mask bit of a vector in a function's MSI-X table (R260). -/
def vecMasked (s : State) (fn v : Nat) : Bool :=
  if fn = 0 then fbit s (0x180 + v / 256) F.MSIX_VEC_CTL_MASK (v % 256)
  else fbit s (fnPage fn) F.VFM_VEC_CTL_MASK v

/-- Drive WAKE_N (R316): while a function in D3hot with PME_En has something to deliver and the link is in neither L0
nor L1. -/
def wakeCheck (s : State) (fn : Nat) : State :=
  let x := getFunc s fn
  if x.d3hot && x.pmeEn && !(fbit s 0x140 F.PCIE_LINK_STAT_UP && s.chip.linkState != .l12) then
    { s with pins := { s.pins with wake := true } }
  else s

/-- One MSI-X write, or the PBA bit where the vector or the function is masked (R282). -/
def sendMsix (s : State) (fn v : Nat) : State :=
  let s := wakeCheck s fn
  if (getFunc s fn).fmask || vecMasked s fn v then
    modFunc s fn fun x => { x with pba := if x.pba.contains v then x.pba else x.pba ++ [v] }
  else emit s (.msix fn v)

/-- The hold-off group of a source (R281). -/
def srcGroup (s : State) (n : Nat) : Nat := fget s (srcPage n) F.IRQS_SRC_CFG_GROUP (srcIdx n)

/-- A source is eligible for delivery (R278). -/
def eligible (s : State) (n : Nat) : Bool :=
  let x := getSrc s n
  x.pend && !x.inSvc && !fbit s (srcPage n) F.IRQS_SRC_CFG_MASK (srcIdx n) && x.delivered.isNone &&
    !fbit s 0x20 F.IRQ0_HOLDOFF_RUNNING (srcGroup s n)

/-- The target that receives a source: the first after that of its last delivery that is enabled, qualifies and whose
running priority is below the source's priority (R278). -/
def targetFor (s : State) (n : Nat) : Option Nat :=
  ((List.range 80).map fun k => ((getSrc s n).lastTgt + 1 + k) % 80).find? fun t =>
    srcEnabledFor s n t && qualifies s t && runPrio1 (getTgt s t) ≤ srcPrio s n

/-- The source delivered next, with its target: highest priority first, then the lower ID (R278). -/
def nextDelivery (s : State) : Option (Nat × Nat) :=
  s.srcs.foldl (fun best kv =>
    if eligible s kv.1 then
      match targetFor s kv.1, best with
      | none, _ => best
      | some t, none => some (kv.1, t)
      | some t, some (m, u) => if srcPrio s m < srcPrio s kv.1 then some (kv.1, t) else some (m, u)
    else best) none

/-- Deliver a source to a target (R279, R281, R282). -/
def deliver (s : State) (n t : Nat) : State :=
  let s := modSrc s n ({ · with delivered := some t, lastTgt := t })
  let g := srcGroup s n
  let us := fget s 0x20 F.IRQ0_HOLDOFF_US g
  let s := if us = 0 then s
    else { fset s 0x20 F.IRQ0_HOLDOFF_RUNNING 1 g with holdoff := tput 0 s.holdoff g (s.devtime + us * 1000) }
  if t < 64 then sendMsix s t (vectorOf s n t) else emit s (.line t)

/-- A processor that answers at a target: a function by number, Bedrock and the Quartz cores by target. -/
def claimAllowed (s : State) (t n : Nat) : Bool :=
  let x := getSrc s n
  n < 320 && x.pend && !x.inSvc && (srcEnabledFor s n t || x.delivered == some t)

/-- The result of a claim read at a target (R285), and the state after it. -/
def claim (s : State) (t : Nat) : Nat × State :=
  let x := getTgt s t
  let n := x.claimId
  let s1 := modTgt s t ({ · with claimId := 0x3FF })
  if claimAllowed s t n then
    if x.stack.length < 8 then
      (n, modTgt (modSrc s1 n ({ · with pend := false, delivered := none, inSvc := true })) t
        fun y => { y with stack := (n, srcPrio s n) :: y.stack })
    else
      (0x3FF, fadd (setIrq (modTgt s1 t ({ · with full := true })) 0x20 4) 0x20 F.IRQ0_CNT_SPURIOUS_COUNT 1)
  else (0x3FF, fadd s1 0x20 F.IRQ0_CNT_SPURIOUS_COUNT 1)

/-- A mismatched EOI is recorded (R286). -/
def eoiMismatch (s : State) (t : Nat) : State :=
  fadd (setIrq (modTgt s t ({ · with mismatch := true })) 0x20 2) 0x20 F.IRQ0_CNT_MISMATCH_COUNT 1

/-- A source leaves service: it is pending again while its request is still asserted (R275). -/
def leaveSvc (s : State) (n : Nat) : State :=
  modSrc s n fun x => { x with inSvc := false, pend := x.pend || x.asserted }

/-- Clear the delivered marks to a target (R279). -/
def clearMarks (s : State) (t : Nat) : State :=
  s.srcs.foldl (fun s kv => if kv.2.delivered == some t then modSrc s kv.1 ({ · with delivered := none }) else s) s

/-- A write of EOI at a target (R286). -/
def writeEoi (s : State) (t id : Nat) : State :=
  let s := clearMarks s t
  match (getTgt s t).stack with
  | [] => eoiMismatch s t
  | (n, _) :: rest =>
    let s := leaveSvc (modTgt s t ({ · with stack := rest })) n
    if n = id then s else eoiMismatch s t

/-- A target leaves or its core restarts (R288). -/
def emptyTarget (s : State) (t : Nat) : State :=
  let st := (getTgt s t).stack
  let s := modTgt s t ({ · with stack := [], claimId := 0x3FF })
  clearMarks (st.foldl (fun s p => leaveSvc s p.1) s) t

/-- Withdraw an edge source (R275). -/
def withdrawEdge (s : State) (n : Nat) : State := modSrc s n ({ · with pend := false, delivered := none })

/-- Unmask a vector of a function, or a whole function: a message held in the PBA is sent (R282). -/
def unmask (s : State) (fn : Nat) (v : Option Nat) : State :=
  let s := match v with
    | some v =>
      if fn = 0 then fset s (0x180 + v / 256) F.MSIX_VEC_CTL_MASK 0 (v % 256)
      else if v < 64 then fset s (fnPage fn) F.VFM_VEC_CTL_MASK 0 v else s
    | none => modFunc s fn ({ · with fmask := false })
  let ready := (getFunc s fn).pba.filter fun v => !((getFunc s fn).fmask || vecMasked s fn v)
  let s := modFunc s fn fun x => { x with pba := x.pba.filter fun v => !ready.contains v }
  ready.foldl (fun s v => emit s (.msix fn v)) s

/-! ### Commands -/

/-- IRQ_DELIVERY (R278): the controller makes one delivery, or none where no source can be delivered. -/
def execIrqDelivery (s : State) : Host.Outcome State Fault Refusal :=
  match nextDelivery s with
  | some (n, t) => .next (deliver s n t)
  | none => .next s

/-- An internal target's processor writes CLAIM through its own port (R285, R289); a function writes its register. -/
def portClaim (s : State) (t : Nat) (port : Option (Fin 1024)) : State :=
  match port with
  | some n => if 64 ≤ t then modTgt s t ({ · with claimId := n.val }) else s
  | none => s

/-- CLAIM_READ (R285): the read returns its result to the processor of target `t`. -/
def execClaimRead (t : Fin 80) (port : Option (Fin 1024)) (s : State) : Host.Outcome State Fault Refusal :=
  let r := claim (portClaim s t.val port) t.val
  .next (emit r.2 (.readData t.val r.1))

/-- EOI (R286). -/
def execEoi (t : Fin 80) (val : Word) (s : State) : Host.Outcome State Fault Refusal :=
  .next (writeEoi s t.val (val.toNat % 512))

/-- PEND_WITHDRAW (R275): a 1 written to an edge source's bit of PENDk withdraws it; level sources ignore it. -/
def execPendWithdraw (k : Fin 10) (val : Word) (s : State) : Host.Outcome State Fault Refusal :=
  .next ((List.range 32).foldl (fun s b =>
    let n := 32 * k.val + b
    if val.getLsbD b && 274 ≤ n && n ≤ 305 then withdrawEdge s n else s) s)

/-- SWI_TRIG (R276): a 1 in bit i triggers source 274 + i. -/
def execSwiTrig (val : Word) (s : State) : Host.Outcome State Fault Refusal :=
  .next ((List.range 32).foldl (fun s i => if val.getLsbD i then modSrc s (274 + i) ({ · with pend := true }) else s) s)

/-- HOLDOFF_EXPIRY (R281): the timer of group `g` expires once its time has passed. -/
def execHoldoffExpiry (g : Fin 32) (s : State) : Host.Outcome State Fault Refusal :=
  if fbit s 0x20 F.IRQ0_HOLDOFF_RUNNING g.val && tget 0 s.holdoff g.val ≤ s.devtime then
    .next { fset s 0x20 F.IRQ0_HOLDOFF_RUNNING 0 g.val with holdoff := tput 0 s.holdoff g.val 0 }
  else .next s

/-- MSIX_UNMASK (R282). -/
def execMsixUnmask (fn : Fin 64) (vector : Option (Fin 2048)) (s : State) : Host.Outcome State Fault Refusal :=
  .next (unmask s fn.val (vector.map (·.val)))

/-- MSIX_ENABLE_CHANGE (R282): the function's MSI-X Enable and Bus Master Enable. -/
def execMsixEnableChange (fn : Fin 64) (msix busMaster : Bool) (s : State) : Host.Outcome State Fault Refusal :=
  .next (modFunc s fn.val ({ · with msix := msix, master := busMaster }))

end Sys2Proof.Machine
end

