-- ==== Sys2Proof/Machine/Log.lean ====
section
/-! DEFINITION. The fault log of Bedrock's log engine (R325–R327): the ring of entries, coalescing, the write queue,
the GAP entry and the NOR copy, with the commands LOG_ENTRY_WRITE, LOG_ENTRY_CLOSE and LOG_NOR_COPY. -/

namespace Sys2Proof.Machine

def modBdrk (s : State) (f : Bdrk → Bdrk) : State := { s with bdrk := f s.bdrk }

/-- A free value: the constant of Config at the model's counter, which advances (log 1). -/
def freeNat (s : State) : Nat := Config.freeValue s.free

def useFree (s : State) : State := { s with free := s.free + 1 }

/-- `n` free values at once, as bytes where `freeByte` gives the value of number `i`. -/
def useFrees (s : State) (n : Nat) : State := { s with free := s.free + n }

def freeByte (s : State) (i : Nat) : Nat := Config.freeValue (s.free + i) % 256

/-- Put a new entry into the queue of 64, or count it dropped (R326). -/
def logEnqueue (s : State) (e : LogEntry) : State :=
  if s.bdrk.queue.length < 64 then modBdrk s fun b => { b with queue := b.queue ++ [e] }
  else
    modBdrk (fadd s 8 F.BDRK8_LOG_DROPPED_COUNT 1) fun b =>
      { b with dropped := b.dropped + 1, dropLast := s.devtime,
               dropFirst := if b.dropped = 0 then s.devtime else b.dropFirst }

/-- Open an entry; the oldest open one closes if 16 are open (R326). -/
def logOpen (s : State) (page src first : Nat) : State :=
  modBdrk s fun b => { b with openE := (if b.openE.length < 16 then b.openE else b.openE.drop 1) ++ [(page, src, first)] }

/-- A coalesced occurrence (R326): REPEAT rises, LAST is updated. -/
def bump (now page src first : Nat) (e : LogEntry) : LogEntry :=
  if e.type = 1 ∧ e.page = page ∧ e.source = src ∧ e.first = first then
    { e with repeat_ := min (e.repeat_ + 1) (2 ^ 32 - 1), last := now }
  else e

/-- Record a fault in the log (R326). FATAL entries (REACT 5) never coalesce. -/
def logFault (s : State) (page src react detail : Nat) (secondary forced : Bool) : State :=
  let now := s.devtime
  match if react = 5 then none
        else s.bdrk.openE.find? fun x => x.1 == page && x.2.1 == src && now < x.2.2 + 1000000 with
  | some (_, _, first) =>
    modBdrk s fun b => { b with queue := b.queue.map (bump now page src first),
                                log := b.log.map fun kv => (kv.1, bump now page src first kv.2) }
  | none =>
    let e : LogEntry := { logEntry0 with
      type := 1, source := src, react := react, secondary := secondary, forced := forced, page := page,
      detail := detail, first := now, last := now, repeat_ := 1 }
    let full := decide (64 ≤ s.bdrk.queue.length)
    let s := logEnqueue s e
    if react = 5 || full then s else logOpen s page src now

/-- A BOOT, CAL or FW entry (R325, R327, R335). -/
def logEvent (s : State) (type code page detail : Nat) : State :=
  logEnqueue s { logEntry0 with type := type, code := code % 256, page := page % 65536, detail := detail % 65536,
                                first := s.devtime, last := s.devtime, repeat_ := 1 }

/-- A CAL entry (R335): the spec gives its CODE, PAGE and DETAIL no value, so they are free values. -/
def logCal (s : State) : State :=
  useFree (useFree (useFree
    (logEvent s 4 (freeNat s) (freeNat (useFree s)) (freeNat (useFree (useFree s))))))

/-- A calibration of an item (R335): its count, time, quality figure and verdict; a result that breaks its limit is
logged. -/
def calRecord (s : State) (item qual : Nat) (pass : Bool) : State :=
  let old := tget (0, 0, 0, false) s.bdrk.cal item
  let s := modBdrk s fun b => { b with
    cal := tput (0, 0, 0, false) b.cal item (min (old.1 + 1) 0xFFFF, s.devtime, qual % 2 ^ 16, pass) }
  if pass then s else logCal s

/-- PASS of an item. -/
def calPass (s : State) (item : Nat) : Bool := (tget (0, 0, 0, false) s.bdrk.cal item).2.2.2

/-- The kinds of entry that Bedrock copies to NOR (R327). -/
def toNorKind (e : LogEntry) : Bool := e.type != 1 || 2 ≤ e.react

/-- Write an entry at the slot of its SEQ (R325). -/
def logPut (s : State) (e : LogEntry) : State :=
  let n := fget s 8 F.BDRK8_LOG_HEAD_SEQ
  let s := fset s 8 F.BDRK8_LOG_HEAD_SEQ (n + 1)
  modBdrk s fun b =>
    { b with log := tput logEntry0 b.log (n % 4096) { e with seq := n }, lastWrite := s.devtime,
             toNor := if toNorKind e then b.toNor ++ [n % 4096] else b.toNor }

/-- Copy the entry of a slot to the NOR log (R327): at the start of a half, that half has been erased. -/
def norPut (s : State) (slot : Nat) : State :=
  modBdrk s fun b =>
    let i := b.norNext % 2048
    let kept := if i % 1024 = 0 then b.nor.filter fun kv => kv.1 / 1024 ≠ i / 1024 else b.nor
    { b with nor := tput logEntry0 kept i (tget logEntry0 b.log slot), norNext := (i + 1) % 2048 }

/-- Copy every entry that waits for NOR. -/
def norFlush (s : State) : State :=
  modBdrk (s.bdrk.toNor.foldl norPut s) ({ · with toNor := [] })

/-- The eight words of an entry (R325). -/
def logWords (e : LogEntry) : List Nat :=
  let w0 := e.type + 2 ^ 8 * e.source + 2 ^ 12 * e.react + (if e.secondary then 2 ^ 15 else 0) +
    (if e.forced then 2 ^ 16 else 0) + 2 ^ 24 * e.code
  [w0, e.page + 2 ^ 16 * e.detail, e.first % 2 ^ 32, e.first / 2 ^ 32 % 2 ^ 32, e.last % 2 ^ 32,
   e.last / 2 ^ 32 % 2 ^ 32, e.repeat_, e.seq % 2 ^ 32]

/-! ### Commands -/

/-- LOG_ENTRY_WRITE (R326): the next entry of the queue is written, at most one per microsecond; after a drop, the
GAP entry comes first. -/
def execLogEntryWrite (s : State) : Host.Outcome State Fault Refusal :=
  if s.devtime < s.bdrk.lastWrite + 1000 ∧ 0 < s.bdrk.lastWrite then .next s
  else if 0 < s.bdrk.dropped ∧ s.bdrk.queue.length < 64 then
    let b := s.bdrk
    let s := logPut s { logEntry0 with type := 2, first := b.dropFirst, last := b.dropLast, repeat_ := b.dropped }
    .next (setIrq (modBdrk s ({ · with dropped := 0 })) 1 4)
  else
    match s.bdrk.queue with
    | [] => .next s
    | e :: rest => .next (modBdrk (logPut s e) ({ · with queue := rest }))

/-- LOG_ENTRY_CLOSE (R326): an open entry closes 1 ms after its FIRST. -/
def execLogEntryClose (s : State) : Host.Outcome State Fault Refusal :=
  .next (modBdrk s fun b => { b with openE := b.openE.filter fun x => s.devtime < x.2.2 + 1000000 })

/-- LOG_NOR_COPY (R327): Bedrock copies the oldest entry that waits for NOR. -/
def execLogNorCopy (s : State) : Host.Outcome State Fault Refusal :=
  match s.bdrk.toNor with
  | [] => .next s
  | slot :: rest => .next (modBdrk (norPut s slot) ({ · with toNor := rest }))

end Sys2Proof.Machine
end

