-- ==== Sys2Proof/Machine/PowerOps.lean ====
section
/-! DEFINITION. Shared operations on power domains (R297–R304): what a request does to a domain that is not ON, the end
of a DOM_CMD command, and the READY map of R310. -/

namespace Sys2Proof.Machine

def setDomState (s : State) (d v : Nat) : State :=
  syncDomain (modDom (fset s 0x10 F.PWR_DOM_STAT_STATE v d) d ({ · with since := s.devtime })) d

/-- DOM_CMD completes with a result (R298): BUSY clears and DOM_CMD_DONE is raised. -/
def domCmdDone (s : State) (result : Nat) : State :=
  setIrq (fset (fset s 0x10 F.PWR_DOM_CMD_BUSY 0) 0x10 F.PWR_DOM_CMD_RESULT result) 0x10 2

/-- End the drain of a domain (R299, R300): it returns to ON, and a DOM_CMD that waits on it completes with `result`. -/
def endDrain (s : State) (d result : Nat) : State :=
  let byCmd := (getDom s d).byCmd
  let s := modDom (setDomState s d 2) d ({ · with byCmd := false, down := false })
  if byCmd then domCmdDone s result else s

/-- A wake of a domain is requested: its slot comes under R295; during RAMPING it takes effect once OFF (R300). The
domain is then held on by more than a register access (R304). -/
def requestWake (s : State) (d : Nat) : State :=
  let v := domState s d
  if d < 60 ∧ !inSentinel s then
    modDom s d fun x => { x with wakeDue := x.wakeDue || v == 0 || v == 4, regWake := false }
  else s

/-- A request from inside the device, or through BAR2, reaches a domain (R300). -/
def touchDomain (s : State) (d : Nat) : State :=
  match domState s d with
  | 3 => endDrain s d 3
  | _ => requestWake s d

/-- The domain serves now. -/
def domOn (s : State) (d : Nat) : Bool := domState s d == 2

/-- Set a bit of CHIP.READY (R310): READY_CHANGE is raised when it was 0. -/
def setReady (s : State) (b : Nat) : State :=
  let v := qget s 0 F.CHIP_READY_LO_LO
  if v.testBit b then s else setIrq (qset s 0 F.CHIP_READY_LO_LO (v + 2 ^ b)) 0 2

def readyBit (s : State) (b : Nat) : Bool := (qget s 0 F.CHIP_READY_LO_LO).testBit b

/-- CHIP.READY.CONTEXT is set once PCIE, one Quartz cluster and device memory are ready (R311). -/
def checkContextReady (s : State) : State :=
  if readyBit s 59 && (readyBit s 49 || readyBit s 50) && s.chip.memReady then setReady s 62 else s

/-- BLK_READY of a page (R350): READY, IN_SERVICE and STATE. -/
def setBlk (s : State) (page : Nat) (ready inService : Bool) (st : Nat) : State :=
  fset (fsetb (fsetb s page F.HDR_BLK_READY_READY ready) page F.HDR_BLK_READY_IN_SERVICE inService)
    page F.HDR_BLK_READY_STATE st

def blkReady (s : State) (page : Nat) : Bool := fbit s page F.HDR_BLK_READY_READY

def blkInService (s : State) (page : Nat) : Bool := fbit s page F.HDR_BLK_READY_IN_SERVICE

/-- A unit that placement may give work (R19). -/
def usable (s : State) (page : Nat) : Bool := blkReady s page && blkInService s page

/-- An event that opens the shadow of a page starts, or ends. -/
def openShadow (s : State) (page : Nat) : State :=
  modBdrk s fun b => { b with shadows := tput (some 0) b.shadows page none }

def endShadow (s : State) (page : Nat) : State :=
  modBdrk s fun b => { b with shadows := tput (some 0) b.shadows page (some s.devtime) }

def setChip (s : State) (f : Chip → Chip) : State := { s with chip := f s.chip }

end Sys2Proof.Machine
end

