-- ==== Sys2Proof/Machine/Talus.lean ====
section
/-! DEFINITION. The Talus pools (R247–R253) and the layout of device memory that they rest on: regions under ECC
(R242), USABLE, allocation, the checks of a free, and the commands POOL_ENABLE, POOL_DISABLE and TALUS_ALLOC. -/

namespace Sys2Proof.Machine

/-- Buffer size of a pool: 256 B × 4^p (R247). -/
def poolSize (p : Nat) : Nat := 256 * 4 ^ p

/-- Maximum buffers of a pool (R247). -/
def poolMax (p : Nat) : Nat :=
  match p with
  | 0 => 65536 | 1 => 65536 | 2 => 32768 | 3 => 16384 | 4 => 8192 | 5 => 4096 | 6 => 2048 | 7 => 1024 | _ => 0

def nullHandle : Nat := 0xFFFFFFFF

/-- A handle of R249. -/
def handleOf (p i : Nat) : Nat := p * 2 ^ 28 + i

def handlePool (h : Nat) : Nat := h / 2 ^ 28

def handleIdx (h : Nat) : Nat := h % 65536

def poolOn (s : State) (p : Nat) : Bool := p < 8 && fbit s 0x50 F.TALUS_POOL_CTL_ENABLE p

def poolCount (s : State) (p : Nat) : Nat := fget s 0x50 F.TALUS_POOL_CTL_COUNT p

def poolBase (s : State) (p : Nat) : Nat := qget s 0x50 F.TALUS_POOL_BASE_LO_LO p

/-- One past the last byte of a pool. -/
def poolEnd (s : State) (p : Nat) : Nat := poolBase s p + poolCount s p * poolSize p

/-- Address of a handle's buffer (R249). -/
def bufAddr (s : State) (h : Nat) : Nat := poolBase s (handlePool h) + handleIdx h * poolSize (handlePool h)

/-! ### Regions -/

def usableTop (s : State) : Nat := qget s 0x60 F.DMC0_USABLE_LO_LO

def capacity (s : State) : Nat := qget s 0x60 F.DMC0_CAPACITY_LO_LO

def ctrlSize (s : State) : Nat := fget s 0x60 F.DMC0_CTRL_SIZE_BYTES

def regionOn (s : State) (r : Nat) : Bool := fbit s 0x60 F.DMC0_REGION_CTL_ENABLE r

def regionBase (s : State) (r : Nat) : Nat := qget s 0x60 F.DMC0_REGION_BASE_LO_LO r

/-- Size of a region in bytes (units of 2 MiB). -/
def regionBytes (s : State) (r : Nat) : Nat := fget s 0x60 F.DMC0_REGION_SIZE_SIZE r * 2 ^ 21

def regionsOn (s : State) : List Nat := (List.range 16).filter (regionOn s)

def poolsOn (s : State) : List Nat := (List.range 8).filter (poolOn s)

/-- Two address ranges [a, b) and [c, d) share a byte. -/
def overlaps (a b c d : Nat) : Bool := decide (a < d) && decide (c < b) && decide (a < b) && decide (c < d)

/-- The byte at an address lies in an enabled ECC region (R242). -/
def isProtected (s : State) (a : Nat) : Bool :=
  (regionsOn s).any fun r => regionBase s r ≤ a && a < regionBase s r + regionBytes s r

/-- The range [a, b) lies within the union of the enabled regions: each enabled region trims what is left, in as many
rounds as there are regions. -/
def coveredBy (s : State) : Nat → Nat → Nat → Bool
  | 0, a, b => decide (b ≤ a)
  | n + 1, a, b =>
    if b ≤ a then true
    else
      match (regionsOn s).find? fun r => regionBase s r ≤ a && a < regionBase s r + regionBytes s r with
      | some r => coveredBy s n (regionBase s r + regionBytes s r) b
      | none => false

/-- An ECC pool (R248). -/
def poolEcc (s : State) (p : Nat) : Bool := poolOn s p && coveredBy s 16 (poolBase s p) (poolEnd s p)

/-- USABLE with the sum of enabled region sizes `sum`: CAPACITY less an eighth of it (R242). -/
def usableFor (s : State) (sum : Nat) : Nat := capacity s - sum / 8

def regionSum (s : State) : Nat := ((regionsOn s).map (regionBytes s)).sum

/-- The conditions of R242 under which ENABLE of region `r` sets ERR. -/
def regionRefused (s : State) (r : Nat) : Bool :=
  let base := regionBase s r
  let top := base + regionBytes s r
  let newTop := usableFor s (regionSum s + regionBytes s r)
  newTop < top ||
  (regionsOn s).any (fun q => overlaps base top (regionBase s q) (regionBase s q + regionBytes s q)) ||
  (poolsOn s).any (fun p => overlaps base top (poolBase s p) (poolEnd s p)) ||
  (regionsOn s).any (fun q => newTop < regionBase s q + regionBytes s q) ||
  (poolsOn s).any (fun p => newTop < poolEnd s p)

/-- The conditions of R248 under which ENABLE of pool `p` sets POOL_ERR; `base` and `count` are the values it would
have. -/
def poolRefused (s : State) (p base count : Nat) : Bool :=
  let top := base + count * poolSize p
  base % 2 ^ 22 != 0 || count == 0 || poolMax p < count || usableTop s < top || base < ctrlSize s ||
  (poolsOn s).any (fun q => q != p && overlaps base top (poolBase s q) (poolEnd s q))

/-! ### Buffers -/

def getBuf (s : State) (h : Nat) : Buf := tget buf0 s.talus h

def setBuf (s : State) (h : Nat) (b : Buf) : State := { s with talus := tput buf0 s.talus h b }

def bufUsed (s : State) (h : Nat) : Bool := getBuf s h != buf0

/-- Free the buffer of a handle. -/
def dropBuf (s : State) (h : Nat) : State := if bufUsed s h then countEv (setBuf s h buf0) 632 1 else s

/-- Allocated indices of a pool, rising. -/
def usedIdx (s : State) (p : Nat) : List Nat :=
  (s.talus.filter fun kv => handlePool kv.1 == p).map fun kv => handleIdx kv.1

/-- The lowest number from `i` upward that a rising list does not hold. -/
def firstGap : Nat → List Nat → Nat
  | i, [] => i
  | i, u :: us => if u = i then firstGap (i + 1) us else i

/-- Free buffers of a pool (POOL_STAT.FREE). -/
def poolFree (s : State) (p : Nat) : Nat := if poolOn s p then poolCount s p - (usedIdx s p).length else 0

/-- Take the lowest-numbered free buffer of a pool (R250), or none. -/
def poolTake (s : State) (p : Nat) : Option Nat :=
  let i := firstGap 0 (usedIdx s p)
  if poolOn s p ∧ i < poolCount s p then some (handleOf p i) else none

/-- How an allocation moves upward: by the SPILL bits, always, or always and among ECC pools only, or never (R250). -/
inductive Spill where
  | bits | always | ecc | never
  deriving DecidableEq, Repr

/-- An allocation for tag `tag` over the pools of a list in order (R250); `held` as R251 has it. -/
def allocFrom (s : State) (mode : Spill) (tag : Nat) (held : Bool) : List Nat → Nat × State
  | [] => (nullHandle, s)
  | p :: ps =>
    if mode = .ecc ∧ !poolEcc s p then allocFrom s mode tag held ps
    else
      match poolTake s p with
      | some h => (h, countEv (setBuf s h ⟨tag, held⟩) 631 1)
      | none =>
        let s := setIrq s 0x50 64
        let onward := match mode with
          | .bits => fbit s 0x50 F.TALUS_POOL_CTL_SPILL p
          | .always | .ecc => true
          | .never => false
        if onward then allocFrom s mode tag held ps else (nullHandle, s)

/-- Allocate from pool `p` upward. -/
def talusAlloc (s : State) (p : Nat) (mode : Spill) (tag : Nat) (held : Bool) : Nat × State :=
  allocFrom s mode tag held ((List.range 8).filter (p ≤ ·))

/-- The smallest pool whose buffer holds `n` bytes. -/
def poolFor (n : Nat) : Nat := ((List.range 8).find? fun p => n ≤ poolSize p).getD 7

/-- Record a rejected free (R251). -/
def rejectFree (s : State) (h owner reason : Nat) (cnt : Row) (irq : Nat) : State :=
  let s := fadd s 0x50 cnt 1
  let s := fset s 0x50 F.TALUS_LAST_REJECT_HANDLE h
  let s := fset (fset s 0x50 F.TALUS_LAST_REJECT_INFO_OWNER owner) 0x50 F.TALUS_LAST_REJECT_INFO_REASON reason
  setIrq s 0x50 irq

/-- A free of a handle by an owner (R251): the state, and whether a buffer was freed. -/
def freeHandle (s : State) (owner h : Nat) : State × Bool :=
  if h = nullHandle then (s, false)
  else if (h / 2 ^ 16 % 2 ^ 12 ≠ 0 ∨ !poolOn s (handlePool h)) ∨ poolCount s (handlePool h) ≤ handleIdx h then
    (rejectFree s h owner 0 F.TALUS_INVALID_CNT_COUNT 8, false)
  else if !bufUsed s h then (rejectFree s h owner 1 F.TALUS_DBL_FREE_CNT_COUNT 2, false)
  else if (getBuf s h).tag ≠ owner then (rejectFree s h owner 2 F.TALUS_NONOWNER_CNT_COUNT 4, false)
  else if (getBuf s h).held then (rejectFree s h owner 3 F.TALUS_HELD_CNT_COUNT 16, false)
  else (dropBuf s h, true)

/-- Free every buffer of a tag, held or not (R251, R55). -/
def freeTag (s : State) (tag : Nat) : State :=
  countEv { s with talus := s.talus.filter fun kv => kv.2.tag ≠ tag } 632 (s.talus.filter fun kv => kv.2.tag == tag).length

/-- Free a list of handles without a check (working memory, jitter buffers). -/
def freeAll (s : State) (hs : List Nat) : State := hs.foldl dropBuf s

/-- Deliver a buffer (R251): it is no longer held. -/
def unhold (s : State) (h : Nat) : State :=
  if bufUsed s h then setBuf s h { getBuf s h with held := false } else s

/-- Allocate a list of parts, each (bytes, ECC), as R372 says; `none` where a part cannot be had. A part above 4 MiB
takes P7 buffers. -/
def allocParts (s : State) (tag : Nat) : List (Nat × Bool) → Option (List Nat × State)
  | [] => some ([], s)
  | (n, ecc) :: ps =>
    let r := talusAlloc s (poolFor n) (if ecc then .ecc else .always) tag true
    if r.1 = nullHandle then none
    else (allocParts r.2 tag ps).map fun q => (r.1 :: q.1, q.2)

/-- Split parts above 4 MiB (R372). -/
def splitParts (parts : List (Nat × Bool)) : List (Nat × Bool) :=
  parts.flatMap fun x =>
    if x.1 ≤ 2 ^ 22 then [x] else List.replicate ((x.1 + 2 ^ 22 - 1) / 2 ^ 22) (2 ^ 22, x.2)

/-- Total size in KiB of the buffers of some handles (R372). A P0 buffer counts its quarter of a KiB in the sum. -/
def handlesKiB (hs : List Nat) : Nat := (hs.map fun h => poolSize (handlePool h)).sum / 1024

/-! ### Commands -/

/-- POOL_ENABLE (R248): a write of POOL_CTL with ENABLE 1. While the pool is enabled COUNT keeps its value. -/
def execPoolEnable (p : Fin 8) (val : Word) (s : State) : Host.Outcome State Fault Refusal :=
  let v := val.toNat
  let s := fset s 0x50 F.TALUS_POOL_CTL_SPILL (bitsOf v 25 1) p.val
  if poolOn s p.val then .next s
  else
    let s := fset s 0x50 F.TALUS_POOL_CTL_COUNT (bitsOf v 0 17) p.val
    if poolRefused s p.val (poolBase s p.val) (poolCount s p.val) then .next (setIrq s 0x50 32)
    else
      .next (fset { s with talus := s.talus.filter fun kv => handlePool kv.1 ≠ p.val } 0x50 F.TALUS_POOL_CTL_ENABLE 1
        p.val)

/-- POOL_DISABLE (R248): a write of POOL_CTL with ENABLE 0; ignored with POOL_ERR while a buffer is allocated. COUNT
takes the written value only where the pool was disabled before the write. -/
def execPoolDisable (p : Fin 8) (val : Word) (s : State) : Host.Outcome State Fault Refusal :=
  let v := val.toNat
  let s := fset s 0x50 F.TALUS_POOL_CTL_SPILL (bitsOf v 25 1) p.val
  if poolOn s p.val then
    if usedIdx s p.val ≠ [] then .next (setIrq s 0x50 32)
    else .next (fset s 0x50 F.TALUS_POOL_CTL_ENABLE 0 p.val)
  else .next (fset s 0x50 F.TALUS_POOL_CTL_COUNT (bitsOf v 0 17) p.val)

/-- TALUS_ALLOC (R250, R253): a read of TALUS_ALLOC[p] allocates for the reading function. -/
def execTalusAlloc (fn : Fin 64) (p : Fin 8) (s : State) : Host.Outcome State Fault Refusal :=
  let r := talusAlloc s p.val .bits fn.val false
  .next (emit r.2 (.readData fn.val r.1))

end Sys2Proof.Machine
end

