-- ==== Sys2Proof/Machine/Rings.lean ====
section
/-! DEFINITION. Ring pairs (R24–R37): keys and registers of a ring, completion, output and event entries, the order in
which they are written, and the ring commands SQ_DOORBELL to RING_LINK_ERR. -/

namespace Sys2Proof.Machine

/-- Page of a context (R349). -/
def ctxPage (c : Nat) : Nat := 0x400 + c

def ctxOwner (s : State) (c : Nat) : Nat := fget s (ctxPage c) F.CTX_STATE_OWNER

def ctxGen (s : State) (c : Nat) : Nat := fget s (ctxPage c) F.CTX_STATE_GEN

/-- Key of ring pair `n` of an owner; the agent (owner 64) has one internal ring pair (R26). -/
def ringKey (own n : Nat) : Nat := if own = 64 then 256 else 4 * own + n

def ringFn (k : Nat) : Nat := k / 4

def ringNo (k : Nat) : Nat := k % 4

/-- A field of a ring's registers; the agent's ring has none. -/
def rfield (s : State) (k : Nat) (r : Row) : Nat := fget s (fnPage (ringFn k)) r (ringNo k)

def rfieldSet (s : State) (k : Nat) (r : Row) (v : Nat) : State := fset s (fnPage (ringFn k)) r v (ringNo k)

def sqSlots (s : State) (k : Nat) : Nat := 2 ^ rfield s k F.FN_RING_CTL_SQ_LOG2

def cqSlots (s : State) (k : Nat) : Nat := 2 ^ rfield s k F.FN_RING_CTL_CQ_LOG2

/-- Distance from `a` to `b` around a ring of `n` slots. -/
def ringDist (n a b : Nat) : Nat := (b + n - a % n) % n

def sqCount (s : State) (k : Nat) : Nat :=
  ringDist (sqSlots s k) (rfield s k F.FN_RING_SQ_HEAD_HEAD) (rfield s k F.FN_RING_SQ_TAIL_TAIL)

def cqUsed (s : State) (k : Nat) : Nat :=
  ringDist (cqSlots s k) (rfield s k F.FN_RING_CQ_HEAD_HEAD) (rfield s k F.FN_RING_CQ_TAIL_TAIL)

/-- Free CQ slots: a ring of 2^k slots holds at most 2^k − 1 entries (R27). The agent's ring always has room. -/
def cqFree (s : State) (k : Nat) : Nat := if k = 256 then 2 ^ 16 else cqSlots s k - 1 - cqUsed s k

/-- Slots reserved for completion entries (R29): one for each command fetched and not answered. -/
def cqReserved (s : State) (k : Nat) : Nat :=
  let r := getRing s k
  r.fetched.length + r.running.length + r.comps.length

def ringEnabled (s : State) (k : Nat) : Bool := k == 256 || rfield s k F.FN_RING_CTL_ENABLE == 1

/-- CQ_WAIT (R29): entries are held for want of CQ space. -/
def syncCqWait (s : State) (k : Nat) : State :=
  if k = 256 then s
  else rfieldSet s k F.FN_RING_STAT_CQ_WAIT
    (if (getRing s k).waiting ≠ [] ∧ cqFree s k ≤ cqReserved s k then 1 else 0)

/-- Queue an output or event entry on a ring (R29). -/
def postEntry (s : State) (k : Nat) (e : CqEntry) : State :=
  syncCqWait (modRing s k fun r => { r with waiting := r.waiting ++ [e] }) k

/-- The ring that receives a context's outputs and events (R38 OPEN). -/
def ctxRing (s : State) (c : Nat) : Nat := ringKey (ctxOwner s c) (fget s (ctxPage c) F.CTX_STATE_RING)

/-- An event entry of a context (R37). -/
def postEvent (s : State) (c code status info0 : Nat) : State :=
  postEntry s (ctxRing s c) ⟨status, 2, code, c, ctxGen s c, 0, s.devtime, info0, 0, 0, false, none⟩

/-- A completion entry for a command that has begun (R35): it leaves the running commands. -/
def cmdDone (s : State) (ref : CmdRef) (status : Nat) (info0 : Nat := 0) (info1 : Nat := 0) (info2 : Nat := 0)
    (after : Option Turn := none) : State :=
  let e : CqEntry := ⟨status, 0, ref.tag, ref.ctx, ref.gen, ref.op, s.devtime, info0, info1, info2, false, after⟩
  modRing s ref.ring fun r => { r with running := r.running.erase ref, comps := r.comps ++ [e] }

/-! ### Statuses of R43 -/

def stOk : Nat := 0x00
def stDegraded : Nat := 0x01
def stBadParam : Nat := 0x10
def stConflict : Nat := 0x11
def stNoResource : Nat := 0x12
def stNotOwner : Nat := 0x13
def stAborted : Nat := 0x20
def stUnsupported : Nat := 0x21

/-! ### Beginning a command -/

def Desc.w (d : Desc) (i : Nat) : Nat := (d.words.getD i 0).toNat

def Desc.opcode (d : Desc) : Nat := bitsOf (d.w 0) 0 8
def Desc.fence (d : Desc) : Bool := bitsOf (d.w 0) 8 1 == 1
def Desc.tag (d : Desc) : Nat := bitsOf (d.w 0) 16 16
def Desc.ctx (d : Desc) : Nat := bitsOf (d.w 1) 0 8
def Desc.gen (d : Desc) : Nat := bitsOf (d.w 1) 8 8

/-- Parameter P i (R33). -/
def Desc.p (d : Desc) (i : Nat) : Nat := d.w (i + 2)

/-- Opcodes of R38. -/
def definedOpcode (op : Nat) : Bool := (1 ≤ op && op ≤ 0x0B) || op == 0x0F

/-- The reference under which a command runs; its completion names its context with that context's generation, and
0xFF where it names none (R35). -/
def refOf (s : State) (k : Nat) (d : Desc) : CmdRef :=
  if d.opcode = 1 then ⟨k, d.tag, 1, 0xFF, 0⟩
  else ⟨k, d.tag, d.opcode, d.ctx, ctxGen s d.ctx⟩

/-- The oldest fetched command of a ring begins, where its opcode passes `want` and no FENCE holds it (R28, R33). -/
def beginCmd (s : State) (k : Nat) (want : Nat → Bool) : Option (Desc × CmdRef × State) :=
  match (getRing s k).fetched with
  | [] => none
  | d :: rest =>
    let ref := refOf s k d
    let held := d.fence && d.opcode != 1 && (getRing s k).running.any fun r => r.ctx == d.ctx && r.op != 1
    if want d.opcode && !held then
      some (d, ref, modRing s k fun r => { r with fetched := rest, running := r.running ++ [ref] })
    else none

/-! ### Writing entries -/

/-- The output entries of number `num` of a context are all written on ring `k`, where they go (R29); outputs of a later
generation of the context are not meant. -/
def outputsWritten (s : State) (c gen k num : Nat) : Bool :=
  !((getRing s k).waiting.any fun e => e.kind == 1 && e.ctx == c && e.gen == gen && e.tag == num % 65536) &&
  !(ctxGen s c == gen && (getCtx s c).outWait.any fun p => p.seq % 65536 == num % 65536)

/-- No SUBMIT completion of an earlier submission of the same context waits, on any ring (R45). -/
def earlierWritten (s : State) (e : CqEntry) (sub : Nat) : Bool :=
  s.rings.all fun kr => !(kr.2.comps.any fun b =>
    b.op == 4 && b.ctx == e.ctx && b.gen == e.gen && b.after.any (decide <| ·.sub < sub))

/-- A completion entry may be written now (R29, R45): a SUBMIT completion follows the outputs of its input and the
earlier SUBMIT completions of its context, on whatever rings they go. -/
def compReady (s : State) (e : CqEntry) : Bool :=
  match e.after with
  | none => true
  | some t => (t.out.all fun o => outputsWritten s e.ctx e.gen o.1 o.2) && earlierWritten s e t.sub

/-- The first completion entry that may be written, and the list without it. -/
def pickComp (s : State) : List CqEntry → Option (CqEntry × List CqEntry)
  | [] => none
  | e :: es => if compReady s e then some (e, es) else (pickComp s es).map fun r => (r.1, e :: r.2)

/-- The first output or event entry that may be written, and the list without it: while parts of an output are out, the
next of its parts (R29). -/
def pickWaiting (parts : Option (Nat × Nat × Nat)) : List CqEntry → Option (CqEntry × List CqEntry)
  | [] => none
  | e :: es =>
    if parts.all fun p => e.kind == 1 && (e.ctx, e.gen, e.tag) == p then some (e, es)
    else (pickWaiting parts es).map fun r => (r.1, e :: r.2)

/-- The eight words of an entry (R35). -/
def entryWords (e : CqEntry) (phase sqHead : Nat) : List Nat :=
  [e.status + 2 ^ 8 * phase + 2 ^ 9 * e.kind + 2 ^ 16 * (e.tag % 65536), e.ctx + 2 ^ 8 * e.gen + 2 ^ 16 * sqHead,
   e.op, e.stamp % 2 ^ 32, e.stamp / 2 ^ 32 % 2 ^ 32, e.info0 % 2 ^ 32, e.info1 % 2 ^ 32, e.info2 % 2 ^ 32]

/-- A ring notifies (R31): RING_PEND, and both conditions restart. -/
def notify (s : State) (k : Nat) : State :=
  setRingPend (modRing s k ({ · with unnoted := 0 })) (ringFn k) (ringNo k)

/-- Bytes to device memory, or to the bus of a function. -/
def putBytes (s : State) (dev : Bool) (fn addr : Nat) (bytes : List Byte) : State :=
  if dev then memWriteN s addr bytes else emit s (.busWrite fn addr bytes)

/-- Slots of a queue of the agent's ring: 2^4 to 2^12 (R26, R27). -/
def agentSlots (log : Nat) : Nat := 2 ^ (4 + log % 9)

/-- An entry on the agent's CQ (R26, R30, R35): PHASE follows the passes over the queue, SQ_HEAD the commands fetched. -/
def agentEntry (s : State) (e : CqEntry) : List Nat :=
  entryWords e (1 - s.bdrk.agentWritten / agentSlots Config.agentCqLog % 2)
    (s.bdrk.agentFetched % agentSlots Config.agentSqLog)

/-- Write one entry at the CQ tail as a single 32-byte write (R30), and count it for R31. The agent takes its entries as
they are written, and AGENT_POLL reads them (log 35). -/
def writeEntry (s : State) (k : Nat) (e : CqEntry) : State :=
  if k = 256 then
    { s with bdrk := { s.bdrk with
        agentCq := s.bdrk.agentCq ++ [agentEntry s e], agentWritten := s.bdrk.agentWritten + 1 } }
  else
    let fn := ringFn k
    let tail := rfield s k F.FN_RING_CQ_TAIL_TAIL
    let phase := rfield s k F.FN_RING_CQ_TAIL_PHASE
    let bytes := (entryWords e phase (rfield s k F.FN_RING_SQ_HEAD_HEAD)).flatMap (leBytes 4)
    let addr := qget s (fnPage fn) F.FN_RING_CQ_BASE_LO_LO (ringNo k) + 32 * tail
    let s := putBytes s (rfield s k F.FN_RING_CTL_CQ_LOC == 1) fn addr bytes
    let next := (tail + 1) % cqSlots s k
    let s := rfieldSet s k F.FN_RING_CQ_TAIL_TAIL next
    let s := if next = 0 then rfieldSet s k F.FN_RING_CQ_TAIL_PHASE (1 - phase) else s
    let s := wakeCheck s fn
    let s := modRing s k fun r =>
      { r with unnoted := r.unnoted + 1, oldest := if r.unnoted = 0 then s.devtime else r.oldest }
    let count := rfield s k F.FN_RING_IRQ_COUNT
    if count ≠ 0 ∧ count ≤ (getRing s k).unnoted then notify s k else s

/-- The entry of a ring that is written next, with the ring without it (R29): a completion that may be written, else an
output or event entry where a free slot is not reserved. -/
def nextEntry (s : State) (k : Nat) : Option (CqEntry × Ring) :=
  let r := getRing s k
  if !ringEnabled s k then none
  else
    match if r.inParts.isSome then none else pickComp s r.comps with
    | some (e, rest) => some (e, { r with comps := rest })
    | none =>
      if cqReserved s k < cqFree s k then
        (pickWaiting r.inParts r.waiting).map fun (e, rest) =>
          (e, { r with waiting := rest, inParts := if e.part then some (e.ctx, e.gen, e.tag) else none })
      else none

/-- Write the next entry of a ring, if one may be written (R29); an output buffer is delivered with the writing of its
output entry (R251). -/
def writeNext (s : State) (k : Nat) : State :=
  match nextEntry s k with
  | none => s
  | some (e, r) =>
    let s := if e.kind = 1 then unhold s e.info0 else s
    syncCqWait (writeEntry (modRing s k fun _ => r) k e) k

/-! ### Commands -/

/-- SQ_DOORBELL (R27). -/
def execSqDoorbell (fn : Fin 64) (ring : Fin 4) (val : Word) (s : State) : Host.Outcome State Fault Refusal :=
  let k := ringKey fn.val ring.val
  let n := sqSlots s k
  let t := val.toNat % 4096
  let tail := rfield s k F.FN_RING_SQ_TAIL_TAIL
  if t < n ∧ ringDist n tail t ≤ n - 1 - sqCount s k then .next (rfieldSet s k F.FN_RING_SQ_TAIL_TAIL t)
  else .next (rfieldSet s k F.FN_RING_STAT_DB_ERR 1)

/-- CQ_DOORBELL (R27, R29): the head may not pass the tail. -/
def execCqDoorbell (fn : Fin 64) (ring : Fin 4) (val : Word) (s : State) : Host.Outcome State Fault Refusal :=
  let k := ringKey fn.val ring.val
  let n := cqSlots s k
  let h := val.toNat % 4096
  let head := rfield s k F.FN_RING_CQ_HEAD_HEAD
  if h < n ∧ ringDist n head h ≤ cqUsed s k then .next (syncCqWait (rfieldSet s k F.FN_RING_CQ_HEAD_HEAD h) k)
  else .next (rfieldSet s k F.FN_RING_STAT_DB_ERR 1)

/-- Every head and tail to 0 and PHASE to 1, while ENABLE is 0 (RING_CTL.RESET). -/
def resetRingPtrs (s : State) (k : Nat) : State :=
  if rfield s k F.FN_RING_CTL_ENABLE = 1 then s
  else
    let s := rfieldSet (rfieldSet s k F.FN_RING_SQ_TAIL_TAIL 0) k F.FN_RING_SQ_HEAD_HEAD 0
    let s := rfieldSet (rfieldSet s k F.FN_RING_CQ_HEAD_HEAD 0) k F.FN_RING_CQ_TAIL_TAIL 0
    syncCqWait (rfieldSet s k F.FN_RING_CQ_TAIL_PHASE 1) k

/-- RING_RESET (R27). -/
def execRingReset (fn : Fin 64) (ring : Fin 4) (s : State) : Host.Outcome State Fault Refusal :=
  .next (resetRingPtrs s (ringKey fn.val ring.val))

/-- The four location and size fields of a RING_CTL value. -/
def ringCfg (v : Nat) : Nat × Nat × Nat × Nat := (bitsOf v 1 1, bitsOf v 2 1, bitsOf v 4 4, bitsOf v 8 4)

/-- A write of RING_CTL (R27), RESET first where it is written. -/
def writeRingCtl (s : State) (k v : Nat) : State :=
  let old := rget s (fnPage (ringFn k)) (F.FN_RING_CTL_ENABLE.at (ringNo k))
  let enable := bitsOf v 0 1
  if bitsOf old 0 1 = 1 then
    let s := if ringCfg v = ringCfg old then s else rfieldSet s k F.FN_RING_STAT_CFG_ERR 1
    rfieldSet s k F.FN_RING_CTL_ENABLE enable
  else
    let s := if bitsOf v 16 1 = 1 then resetRingPtrs s k else s
    let s := rfieldSet (rfieldSet s k F.FN_RING_CTL_SQ_LOC (bitsOf v 1 1)) k F.FN_RING_CTL_CQ_LOC (bitsOf v 2 1)
    let s := rfieldSet (rfieldSet s k F.FN_RING_CTL_SQ_LOG2 (bitsOf v 4 4)) k F.FN_RING_CTL_CQ_LOG2 (bitsOf v 8 4)
    let bad (n : Nat) : Bool := n < 4 || 12 < n
    if enable = 1 ∧ (bad (bitsOf v 4 4) ∨ bad (bitsOf v 8 4)) then rfieldSet s k F.FN_RING_STAT_CFG_ERR 1
    else syncCqWait (rfieldSet s k F.FN_RING_CTL_ENABLE enable) k

/-- RING_ENABLE (R27): a write of RING_CTL that carries ENABLE 1. -/
def execRingEnable (fn : Fin 64) (ring : Fin 4) (val : Word) (s : State) : Host.Outcome State Fault Refusal :=
  .next (writeRingCtl s (ringKey fn.val ring.val) (splice val.toNat 0 1 1))

/-- RING_DISABLE (R32): a write of RING_CTL that carries ENABLE 0. -/
def execRingDisable (fn : Fin 64) (ring : Fin 4) (val : Word) (s : State) : Host.Outcome State Fault Refusal :=
  .next (writeRingCtl s (ringKey fn.val ring.val) (splice val.toNat 0 1 0))

/-- The sixteen words of the descriptor at the head of the SQ (R33). -/
def sqWords (s : State) (k : Nat) (host : List Word) : List Word :=
  if rfield s k F.FN_RING_CTL_SQ_LOC = 1 then
    let a := qget s (fnPage (ringFn k)) F.FN_RING_SQ_BASE_LO_LO (ringNo k) + 64 * rfield s k F.FN_RING_SQ_HEAD_HEAD
    (List.range 16).map fun i => BitVec.ofNat 32 (leVal (memReadN s (a + 4 * i) 4))
  else (List.range 16).map fun i => host.getD i 0

/-- COMMAND_FETCH (R28, R29): one command is fetched while the CQ has a free slot that is not reserved. -/
def execCommandFetch (own : Fin 65) (ring : Fin 4) (host : List Word) (s : State) :
    Host.Outcome State Fault Refusal :=
  let k := ringKey own.val ring.val
  if cqFree s k ≤ cqReserved s k then .next s
  else if k = 256 then
    match s.bdrk.agentSq with
    | [] => .next s
    | d :: rest =>
      let d := { d with at_ := s.devtime }
      let s := { s with bdrk := { s.bdrk with agentSq := rest, agentFetched := s.bdrk.agentFetched + 1 } }
      .next (modRing s k fun r => { r with fetched := r.fetched ++ [d] })
  else if ringEnabled s k && sqCount s k != 0 then
    let d : Desc := ⟨sqWords s k host, s.devtime⟩
    let s := modRing s k fun r => { r with fetched := r.fetched ++ [d] }
    .next (syncCqWait (rfieldSet s k F.FN_RING_SQ_HEAD_HEAD ((rfield s k F.FN_RING_SQ_HEAD_HEAD + 1) % sqSlots s k)) k)
  else .next s

/-- CQ_ENTRY_WRITE (R29, R30). -/
def execCqEntryWrite (own : Fin 65) (ring : Fin 4) (s : State) : Host.Outcome State Fault Refusal :=
  let k := ringKey own.val ring.val
  .next (writeNext s k)

/-- RING_HOLD_EXPIRY (R31). -/
def execRingHoldExpiry (fn : Fin 64) (ring : Fin 4) (s : State) : Host.Outcome State Fault Refusal :=
  let k := ringKey fn.val ring.val
  let hold := rfield s k F.FN_RING_IRQ_HOLD
  let r := getRing s k
  if hold ≠ 0 ∧ r.unnoted ≠ 0 ∧ r.oldest + hold * 1000 ≤ s.devtime then .next (notify s k) else .next s

/-- RING_LINK_ERR (R32): an SQ read or a CQ write failed; ENABLE clears and the entries are held. -/
def execRingLinkErr (fn : Fin 64) (ring : Fin 4) (_read : Bool) (s : State) : Host.Outcome State Fault Refusal :=
  let k := ringKey fn.val ring.val
  .next (rfieldSet (rfieldSet s k F.FN_RING_STAT_LINK_ERR 1) k F.FN_RING_CTL_ENABLE 0)

end Sys2Proof.Machine
end

