-- ==== Sys2Proof/Machine/Operands.lean ====
section
/-! DEFINITION. The arithmetic of the codec side: coding units and sizes (R59, R66, R81, R158), unit rates (R14, R15),
quantisers and λ (R111–R114), the signalled cap (R117), the leaky bucket (R115), budgets (R120–R123), SEG_CRC (R64),
and the level limits that R69 and R116 take from the codec standards. -/

namespace Sys2Proof.Machine

def ceilDiv (a b : Nat) : Nat := (a + b - 1) / b

/-- Coding-unit size of a codec (R59): AVC, HEVC, VVC, AV1. -/
def unitSize (codec : Nat) : Nat :=
  match codec with
  | 0 => 16 | 2 => 128 | _ => 64

def padUp (n u : Nat) : Nat := ceilDiv n u * u

/-- Bytes U of one stored picture (R66): padded luma × 1.5 or 2 × 1 or 1.25. -/
def picBytes (codec w h : Nat) (depth10 c422 : Bool) : Nat :=
  let u := unitSize codec
  padUp w u * padUp h u * (if c422 then 4 else 3) * (if depth10 then 5 else 4) / 8

/-- Bytes of an image under R149: its stride and its planes. -/
def imageStride (w : Nat) (depth10 : Bool) : Nat := padUp (if depth10 then 2 * w else w) 64

def imageBytes (w h : Nat) (depth10 c422 : Bool) : Nat :=
  imageStride w depth10 * (h + if c422 then h else ceilDiv h 2)

/-! ### Rates -/

/-- ENG_CLK in MHz for a step (R307). -/
def clkMHz (stp : Nat) : Nat := 550 + 50 * stp

/-- Encode rate in tenths of px/clk (R15): MICA candidates or digital coarse search. -/
def eeRate10 (codec : Nat) (digital : Bool) : Nat :=
  if codec ≤ 1 then (if digital then 6 else 10) else (if digital then 3 else 5)

/-- Decode rate in tenths of px/clk (R15). -/
def deRate10 (codec : Nat) : Nat := if codec = 2 then 10 else 15

/-- Nanoseconds that `px` samples take at a rate and a clock. -/
def pxTime (px rate10 mhz : Nat) : Nat := px * 10000 / (rate10 * mhz)

/-- ENG_CLK cycles of a part (R138), in sixths to stay exact: the larger of P / p and B / 6; as nanoseconds. -/
def partTime (px bits codec mhz : Nat) : Nat := max (pxTime px (deRate10 codec) mhz) (bits * 1000 / (6 * mhz))

/-- An estimate divided by an engine's speed σ in 1/512 (R161, R162). -/
def bySpeed (t sigma : Nat) : Nat := t * 512 / max 1 sigma

/-! ### Quantisers -/

/-- QP_base or qindex_base of a quality index (R111). -/
def qpBase (codec qi : Nat) : Nat :=
  if codec = 3 then 255 - (qi * 215 + 50) / 100 else 51 - (qi * 41 + 50) / 100

/-- Codec range of the quantiser (R112). -/
def qpLow (codec : Nat) : Nat := if codec = 3 then 1 else 0

def qpHigh (codec : Nat) : Nat :=
  match codec with
  | 2 => 63 | 3 => 255 | _ => 51

def clampQp (codec : Nat) (q : Int) : Nat := (max (qpLow codec : Int) (min q (qpHigh codec))).toNat

/-- One unit of R112: a QP step, or four qindex steps for AV1. -/
def qpUnit (codec : Nat) : Nat := if codec = 3 then 4 else 1

/-- The offset of R112 for a picture's type. -/
def qpOffset (rap intra : Bool) (tid : Nat) : Int := if rap then -3 else if intra then -2 else (tid : Int)

/-- The picture QP of R112, clamped to QP_MIN–QP_MAX, both clipped to the codec range. -/
def picQp (codec qi qmin qmax : Nat) (rap intra : Bool) (tid : Nat) : Nat :=
  let q : Int := (qpBase codec qi : Int) + qpOffset rap intra tid * (qpUnit codec : Int)
  clampQp codec (max (clampQp codec qmin : Int) (min q (clampQp codec qmax)))

/-- Largest `n` up to `fuel` with `p n`, for a monotone `p` that holds at 0. -/
def largest (p : Nat → Bool) : Nat → Nat
  | 0 => 0
  | n + 1 => if p (n + 1) then n + 1 else largest p n

/-- The delta of R113 for strength `a` and the ratio `num` / `den` of a unit's complexity to the mean:
round(a × log2(num / den)), halves away from zero, clamped to ±a. |x| rounds to at least n when 2^(2n−1) ≤ ratio^(2a). -/
def aqDelta (a num den : Nat) : Int :=
  if a = 0 ∨ den = 0 then 0
  else if num = 0 then -(a : Int)
  else if den ≤ num then (largest (fun n => 2 ^ (2 * n - 1) * den ^ (2 * a) ≤ num ^ (2 * a)) a : Nat)
  else -((largest (fun n => 2 ^ (2 * n - 1) * num ^ (2 * a) ≤ den ^ (2 * a)) a : Nat) : Int)

/-- Binary search for the largest number below 2^bits with `p`, for a monotone `p` that holds at 0. -/
def searchBits (p : Nat → Bool) : Nat → Nat → Nat
  | 0, acc => acc
  | b + 1, acc => if p (acc + 2 ^ b) then searchBits p b (acc + 2 ^ b) else searchBits p b acc

/-- K × 100 of R114 for a picture's type. -/
def lambdaK (intra : Bool) (tid : Nat) : Nat := if intra then 57 else if tid = 0 then 68 else 85

/-- T(K, Q) of R114 in 16.16 fixed point, rounded to nearest: the largest n with (2n − 1)³ ≤ (2 K 2^16)³ 2^(Q−12). -/
def lambdaT (k100 q : Nat) : Nat :=
  let top := (2 * k100 * 2 ^ 16) ^ 3 * 2 ^ q
  searchBits (fun n => (2 * n - 1) ^ 3 * 100 ^ 3 * 2 ^ 12 ≤ top) 40 0

/-- λ of R114 in 16.16 fixed point. -/
def lambda (k100 q scale : Nat) : Nat := (lambdaT k100 q * scale + 128) / 256

/-! ### The cap -/

/-- R rounded down to what bit_rate_scale 0 expresses, B to what cpb_size_scale 0 expresses (R117; PRESUMED units of
the HRD syntax, log 20); AV1 uses them exactly. -/
def signalR (codec r : Nat) : Nat := if codec = 3 then r else r / 64 * 64

def signalB (codec b : Nat) : Nat := if codec = 3 then b else b / 16 * 16

/-- One picture of the leaky bucket (R115), scaled by NUM: fullness after removal and arrival. -/
def bucketStep (f : Int) (bits num fill bs : Nat) : Int := min (f - (bits * num : Nat) + (fill : Nat)) (bs : Nat)

/-- The smallest scale of HRD syntax whose value field of 32 bits holds a value in units of 2^`shift` (R117). -/
def hrdScale (shift v : Nat) : Nat := ((List.range 16).find? fun k => v / 2 ^ (shift + k) ≤ 2 ^ 32 - 1).getD 15

/-- Filler owed in CBR when arrival overflows (R115), in bits. -/
def fillerOwed (f : Int) (bits num fill bs : Nat) : Nat :=
  let g := f - (bits * num : Nat) + (fill : Nat)
  if (bs : Int) < g ∧ num ≠ 0 then ((g - (bs : Nat)).toNat + num - 1) / num else 0

/-- Bytes of the filler unit for some owed bits (R118). -/
def fillerBytes (codec owed : Nat) : Nat :=
  if owed = 0 then 0 else max (ceilDiv owed 8) (match codec with | 0 => 6 | 3 => 2 | _ => 7)

/-- Ration bound r of R122. -/
def rationBound (codec : Nat) (intra : Bool) : Nat :=
  match codec, intra with
  | 0, _ => 8
  | 1, false => 24 | 1, true => 64
  | 2, false => 64 | 2, true => 160
  | _, false => 24 | _, true => 64

def endBound : Nat := 64

/-- One coding unit through the tracker of R123: `normal` and `ration` are the bits of its two forms. The result's
RATION says whether the unit is coded in ration form. -/
def trackUnit (t : Tracker) (n r normal ration : Nat) : Tracker :=
  let here := (n - t.k) * r + endBound
  let next := (n - t.k - 1) * r + endBound
  let rat := t.ration || decide (t.rem ≤ (here : Int)) || decide (t.rem - (normal : Int) < (next : Int))
  { rem := t.rem - (if rat then (ration : Int) else (normal : Int)), k := t.k + 1, ration := rat, qp := t.qp }

/-! ### Segmentation -/

/-- Column strips: `k` strips of `c` columns, the wider ones on the left (R81). -/
def stripCols (c k : Nat) : List Nat := (List.range k).map fun i => c / k + (if i < c % k then 1 else 0)

/-- Rows of each band (R158). -/
def bandRows (rows segRows : Nat) : List Nat :=
  if segRows = 0 ∨ rows ≤ segRows then [rows]
  else (List.range (ceilDiv rows segRows)).map fun b => min segRows (rows - b * segRows)

/-- K of R81. -/
def stripCount (w cols : Nat) : Nat := if cols = 0 then ceilDiv w 4096 else cols

/-! ### SEG_CRC -/

/-- One bit of the reflected CRC-32 of R64. -/
def crcBit (c : Nat) : Nat := if c % 2 = 1 then (c / 2) ^^^ 0xEDB88320 else c / 2

def crcByte (c b : Nat) : Nat := (List.range 8).foldl (fun c _ => crcBit c) (c ^^^ b)

/-- A sample enters as two bytes, least significant first (R64). -/
def crcSample (c : Nat) (x : BitVec 16) : Nat := crcByte (crcByte c (x.toNat % 256)) (x.toNat / 256)

/-- SEG_CRC (R64): CRC-32 over luma, then Cb, then Cr. -/
def segCrc (x : Samples) : Nat := (x.luma ++ x.cb ++ x.cr).foldl crcSample 0xFFFFFFFF ^^^ 0xFFFFFFFF

/-! ### Profiles and levels -/

/-- Whether an encode profile code of R68 carries a bit depth and chroma format; code 0 chooses. -/
def profileCarries (codec prof : Nat) (depth10 c422 : Bool) : Bool :=
  match codec, prof with
  | 0, 1 => !depth10 && !c422
  | 0, 2 => !depth10 && !c422
  | 0, 3 => !c422
  | 0, 4 => true
  | 1, 1 => !depth10 && !c422
  | 1, 2 => !c422
  | 1, 3 => true
  | 2, 1 => !c422
  | 3, 1 => !c422
  | _, _ => false

def profilesOf (codec : Nat) : List Nat :=
  match codec with
  | 0 => [1, 2, 3, 4] | 1 => [1, 2, 3] | _ => [1]

/-- The profile in use (R68): code 0 is High for AVC 8-bit 4:2:0, and else the lowest code that carries the format. -/
def profileUsed (codec prof : Nat) (depth10 c422 : Bool) : Nat :=
  if prof ≠ 0 then prof
  else if codec = 0 ∧ !depth10 ∧ !c422 then 2
  else ((profilesOf codec).find? fun p => profileCarries codec p depth10 c422).getD 0

/-- The limits of one level: largest picture and dimension bound (both in luma samples, or macroblocks × 256 for AVC),
largest luma rate, buffer memory for AVC in macroblocks, bit rates and buffers of the two tiers in units of 1,000 (AV1:
of 1,000 bit/s). PRESUMED: the tables of the codec standards, which R69 and R116 name (log 21). -/
structure Level where
  code : Nat
  pic  : Nat
  rate : Nat
  dpb  : Nat
  brMain : Nat
  brHigh : Nat
  cpbMain : Nat
  cpbHigh : Nat
  deriving DecidableEq, Repr

def avcLevels : List Level :=
  [⟨10, 99, 1485, 396, 64, 64, 175, 175⟩, ⟨9, 99, 1485, 396, 128, 128, 350, 350⟩,
   ⟨11, 396, 3000, 900, 192, 192, 500, 500⟩, ⟨12, 396, 6000, 2376, 384, 384, 1000, 1000⟩,
   ⟨13, 396, 11880, 2376, 768, 768, 2000, 2000⟩, ⟨20, 396, 11880, 2376, 2000, 2000, 2000, 2000⟩,
   ⟨21, 792, 19800, 4752, 4000, 4000, 4000, 4000⟩, ⟨22, 1620, 20250, 8100, 4000, 4000, 4000, 4000⟩,
   ⟨30, 1620, 40500, 8100, 10000, 10000, 10000, 10000⟩, ⟨31, 3600, 108000, 18000, 14000, 14000, 14000, 14000⟩,
   ⟨32, 5120, 216000, 20480, 20000, 20000, 20000, 20000⟩, ⟨40, 8192, 245760, 32768, 20000, 20000, 25000, 25000⟩,
   ⟨41, 8192, 245760, 32768, 50000, 50000, 62500, 62500⟩, ⟨42, 8704, 522240, 34816, 50000, 50000, 62500, 62500⟩,
   ⟨50, 22080, 589824, 110400, 135000, 135000, 135000, 135000⟩,
   ⟨51, 36864, 983040, 184320, 240000, 240000, 240000, 240000⟩,
   ⟨52, 36864, 2073600, 184320, 240000, 240000, 240000, 240000⟩,
   ⟨60, 139264, 4177920, 696320, 240000, 240000, 240000, 240000⟩,
   ⟨61, 139264, 8355840, 696320, 480000, 480000, 480000, 480000⟩,
   ⟨62, 139264, 16711680, 696320, 800000, 800000, 800000, 800000⟩]

def hevcLevels : List Level :=
  [⟨10, 36864, 552960, 6, 128, 128, 350, 350⟩, ⟨20, 122880, 3686400, 6, 1500, 1500, 1500, 1500⟩,
   ⟨21, 245760, 7372800, 6, 3000, 3000, 3000, 3000⟩, ⟨30, 552960, 16588800, 6, 6000, 6000, 6000, 6000⟩,
   ⟨31, 983040, 33177600, 6, 10000, 10000, 10000, 10000⟩, ⟨40, 2228224, 66846720, 6, 12000, 30000, 12000, 30000⟩,
   ⟨41, 2228224, 133693440, 6, 20000, 50000, 20000, 50000⟩,
   ⟨50, 8912896, 267386880, 6, 25000, 100000, 25000, 100000⟩,
   ⟨51, 8912896, 534773760, 6, 40000, 160000, 40000, 160000⟩,
   ⟨52, 8912896, 1069547520, 6, 60000, 240000, 60000, 240000⟩,
   ⟨60, 35651584, 1069547520, 6, 60000, 240000, 60000, 240000⟩,
   ⟨61, 35651584, 2139095040, 6, 120000, 480000, 120000, 480000⟩,
   ⟨62, 35651584, 4278190080, 6, 240000, 800000, 240000, 800000⟩]

def vvcLevels : List Level :=
  (hevcLevels.filter (·.code < 60)).map ({ · with dpb := 8 }) ++
  [⟨60, 35651584, 1069547520, 8, 60000, 240000, 80000, 240000⟩,
   ⟨61, 35651584, 2139095040, 8, 120000, 480000, 120000, 480000⟩,
   ⟨62, 35651584, 4278190080, 8, 240000, 800000, 180000, 800000⟩]

def av1Levels : List Level :=
  [⟨20, 147456, 4423680, 8, 1500, 1500, 1500, 1500⟩, ⟨21, 278784, 8363520, 8, 3000, 3000, 3000, 3000⟩,
   ⟨30, 665856, 19975680, 8, 6000, 6000, 6000, 6000⟩, ⟨31, 1065024, 31950720, 8, 10000, 10000, 10000, 10000⟩,
   ⟨40, 2359296, 70778880, 8, 12000, 30000, 12000, 30000⟩, ⟨41, 2359296, 141557760, 8, 20000, 50000, 20000, 50000⟩,
   ⟨50, 8912896, 267386880, 8, 30000, 100000, 30000, 100000⟩,
   ⟨51, 8912896, 534773760, 8, 40000, 160000, 40000, 160000⟩,
   ⟨52, 8912896, 1069547520, 8, 60000, 240000, 60000, 240000⟩,
   ⟨53, 8912896, 1069547520, 8, 60000, 240000, 60000, 240000⟩,
   ⟨60, 35651584, 1069547520, 8, 60000, 240000, 60000, 240000⟩,
   ⟨61, 35651584, 2139095040, 8, 100000, 480000, 100000, 480000⟩,
   ⟨62, 35651584, 4278190080, 8, 160000, 800000, 160000, 800000⟩,
   ⟨63, 35651584, 4278190080, 8, 160000, 800000, 160000, 800000⟩]

def levelsOf (codec : Nat) : List Level :=
  match codec with
  | 0 => avcLevels | 1 => hevcLevels | 2 => vvcLevels | _ => av1Levels

def levelNamed (codec code : Nat) : Option Level := (levelsOf codec).find? (·.code == code)

/-- Picture size in a level's unit: macroblocks for AVC, luma samples otherwise. -/
def levelSize (codec w h : Nat) : Nat :=
  if codec = 0 then ceilDiv w 16 * ceilDiv h 16 else w * h

/-- Pictures of the decoded picture buffer that a level allows at a size. -/
def levelDpb (codec : Nat) (l : Level) (w h : Nat) : Nat :=
  let n := levelSize codec w h
  match codec with
  | 0 => min 16 (l.dpb / max 1 n)
  | 3 => 8
  | 2 => if 2 * n ≤ l.pic then 16 else if 3 * n ≤ 2 * l.pic then 12 else if 4 * n ≤ 3 * l.pic then 10 else 8
  | _ => if 4 * n ≤ l.pic then 16 else if 2 * n ≤ l.pic then 12 else if 4 * n ≤ 3 * l.pic then 8 else 6

/-- Largest width and height of an AV1 level, by its code (PRESUMED from the AV1 specification, log 21). -/
def av1Sides (code : Nat) : Nat × Nat :=
  if code = 20 then (2048, 1152) else if code = 21 then (2816, 1584) else if code = 30 then (4352, 2448)
  else if code = 31 then (5504, 3096) else if code < 50 then (6144, 3456) else if code < 60 then (8192, 4352)
  else (16384, 8704)

/-- The sides of a picture lie within a level's: for AV1 its largest width and height, else their squares within eight
pictures of the largest size. -/
def sidesFit (codec : Nat) (l : Level) (w h : Nat) : Bool :=
  if codec = 3 then w ≤ (av1Sides l.code).1 && h ≤ (av1Sides l.code).2
  else
    let side := if codec = 0 then max (ceilDiv w 16) (ceilDiv h 16) else max w h
    side * side ≤ 8 * l.pic

/-- A level holds a picture size, a picture rate and a buffer of `p` pictures (R69). -/
def levelHolds (codec : Nat) (l : Level) (w h num den p : Nat) : Bool :=
  let n := levelSize codec w h
  n ≤ l.pic && sidesFit codec l w h && (den = 0 || n * num ≤ l.rate * den) && p ≤ levelDpb codec l w h

/-- The NAL factor of R116 for a profile. -/
def nalFactor (codec prof : Nat) : Nat :=
  match codec, prof with
  | 0, 3 => 3600 | 0, 4 => 4800 | 0, 1 => 1200 | 0, _ => 1500
  | 1, 3 => 1833 | 1, _ => 1100 | 2, _ => 1100 | _, _ => 1000

/-- Bit-rate and buffer limits of a level and tier (R116), in bit/s and bits. -/
def levelMaxR (codec prof : Nat) (l : Level) (high : Bool) : Nat :=
  (if high then l.brHigh else l.brMain) * nalFactor codec prof

def levelMaxB (codec prof : Nat) (l : Level) (high : Bool) : Nat :=
  (if high then l.cpbHigh else l.cpbMain) * nalFactor codec prof

end Sys2Proof.Machine
end

