-- ==== Sys2Proof/Machine/Settings.lean ====
section
/-! DEFINITION. The settings of a context: its staged, active and pending sets (R44, R49, R57), what follows from them
(R59, R66, R81, R116, R117, R158), the checks of R373 and the working memory of R372. -/

namespace Sys2Proof.Machine

/-- A set of settings, as the value of each field. -/
abbrev Get := Row → Nat

/-- The staged registers of a CTX page (R57). -/
def stagedOffs : List Nat :=
  [0x40, 0x44, 0x48, 0x4C, 0x50, 0x54, 0xC0, 0xC4, 0xC8, 0xCC, 0xD0, 0x120, 0x124, 0x128, 0x12C, 0x130, 0x134, 0x138,
   0x13C, 0x140, 0x144, 0x148, 0x14C, 0x180, 0x184, 0x1E0, 0x1E4, 0x1E8, 0x400, 0x4C0, 0x4C4, 0x520, 0x524, 0x528,
   0x52C, 0x580, 0x5E0]

def staged (s : State) (c : Nat) : Get := fun r => fget s (ctxPage c) r

/-- The fields of the active set as its registers hold them. -/
def activeRaw (s : State) (c : Nat) : Get := fun r => bitsOf (rget s (ctxPage c) (r.off + 0x200)) r.lo r.width

/-- The active set. With LEVEL = 0 the level of an encode context is the one selected when the set became active (R69,
R130). -/
def active (s : State) (c : Nat) : Get := fun r =>
  let v := activeRaw s c r
  if r = F.CTX_CFG_STREAM_LEVEL ∧ v = 0 then (getCtx s c).levelCode else v

/-- A pending set, held by register offset (R49). -/
def pendingSet (s : State) (c : Nat) : Get := fun r => bitsOf (tget 0 (getCtx s c).snapshot r.off).toNat r.lo r.width

/-- The words of the staged set. -/
def stagedWords (s : State) (c : Nat) : Tbl Word :=
  stagedOffs.foldl (fun t o => tput 0 t o (BitVec.ofNat 32 (rget s (ctxPage c) o))) []

/-- Copy words to the active set (R44, R49). -/
def setActive (s : State) (c : Nat) (t : Tbl Word) : State :=
  stagedOffs.foldl (fun s o => rset s (ctxPage c) (o + 0x200) (tget 0 t o).toNat) s

/-! ### What follows from a set -/

def Get.codec (g : Get) : Nat := g F.CTX_CFG_STREAM_CODEC
def Get.depth10 (g : Get) : Bool := g F.CTX_CFG_STREAM_DEPTH10 == 1
def Get.c422 (g : Get) : Bool := g F.CTX_CFG_STREAM_CHROMA422 == 1
def Get.w (g : Get) : Nat := g F.CTX_CFG_SIZE_WIDTH
def Get.h (g : Get) : Nat := g F.CTX_CFG_SIZE_HEIGHT
def Get.num (g : Get) : Nat := g F.CTX_CFG_RATE_NUM
def Get.den (g : Get) : Nat := g F.CTX_CFG_RATE_DEN
def Get.input (g : Get) : Nat := g F.CTX_CFG_IO_INPUT
def Get.output (g : Get) : Nat := g F.CTX_CFG_IO_OUTPUT
def Get.toHost (g : Get) : Bool := g.output == 0 || g.output == 2
def Get.toNet (g : Get) : Bool := g.output == 1 || g.output == 2
def Get.struct (g : Get) : Nat := g F.CTX_ENC_GOP_STRUCT
def Get.hierB (g : Get) : Bool := g.struct == 0
def Get.miniLog (g : Get) : Nat := g F.CTX_ENC_GOP_MINIGOP_LOG2
def Get.numRef (g : Get) : Nat := g F.CTX_ENC_GOP_NUM_REF
def Get.laDepth (g : Get) : Nat := g F.CTX_RC_CTL_LA_DEPTH
def Get.cbr (g : Get) : Bool := g F.CTX_RC_CTL_MODE == 1
def Get.highTier (g : Get) : Bool := g F.CTX_ENC_TOOLS_HIGH_TIER == 1
def Get.repro (g : Get) : Bool := g F.CTX_ENC_XSEARCH_REPRO == 1
def Get.unit (g : Get) : Nat := unitSize g.codec

def Get.profile (g : Get) : Nat := profileUsed g.codec (g F.CTX_CFG_STREAM_PROFILE) g.depth10 g.c422

/-- Pictures P of an encode context's decoded picture buffer (R66). -/
def Get.dpb (g : Get) : Nat :=
  match g.struct with
  | 0 => max g.numRef (g.miniLog + 1) + 1
  | 3 => 1
  | _ => g.numRef + 1

/-- Coding-unit columns and rows (R59). -/
def Get.cols (g : Get) : Nat := ceilDiv g.w g.unit
def Get.rows (g : Get) : Nat := ceilDiv g.h g.unit

/-- Columns of each strip (R81) and rows of each band (R158). -/
def Get.strips (g : Get) : List Nat := stripCols g.cols (stripCount g.w (g F.CTX_ENC_XSPLIT_COLS))
def Get.bands (g : Get) : List Nat := bandRows g.rows (g F.CTX_PLACE_XSEG_SEG_ROWS)

/-- S of R158. -/
def Get.segCount (g : Get) : Nat := g.strips.length * g.bands.length

/-- One segment's place: band, strip, coding units, luma samples (R16: padding not counted), rows. -/
structure Geom where
  band : Nat
  strip : Nat
  units : Nat
  px : Nat
  rows : Nat
  deriving DecidableEq, Repr

/-- Samples that `n` units from unit `first` cover in a dimension of `total` samples. -/
def cover (unit total first n : Nat) : Nat := min total ((first + n) * unit) - min total (first * unit)

/-- The segments of a picture in raster order of bands and strips (R158). -/
def Get.segments (g : Get) : List Geom :=
  let bands := g.bands
  let strips := g.strips
  (List.range bands.length).flatMap fun b =>
    (List.range strips.length).map fun k =>
      let br := bands.getD b 0
      let sc := strips.getD k 0
      ⟨b, k, br * sc,
       cover g.unit g.h (bands.take b).sum br * cover g.unit g.w (strips.take k).sum sc, br⟩

/-! ### Level and cap -/

/-- R and B in bit/s and bits at a level, as signalled (R116, R117). -/
def Get.capR (g : Get) (l : Level) : Nat :=
  let cap := g F.CTX_RC_CAP_CAP_RATE
  signalR g.codec (if cap = 0 then levelMaxR g.codec g.profile l g.highTier else cap * 1000)

def Get.capB (g : Get) (l : Level) : Nat :=
  let cap := g F.CTX_RC_CAP_CAP_RATE
  let buf := g F.CTX_RC_BUF_CAP_BUFFER
  signalB g.codec
    (if buf = 0 then levelMaxB g.codec g.profile l g.highTier
     else if cap = 0 then levelMaxR g.codec g.profile l g.highTier * buf / 1000
     else cap * buf)

/-- A level holds the picture size, the picture rate and the decoded picture buffer (R69), in its tier. -/
def Get.levelFits (g : Get) (l : Level) : Bool :=
  levelHolds g.codec l g.w g.h g.num g.den g.dpb && !(g.highTier && l.code < 40)

/-- A level admits the cap (R116). -/
def Get.rateFits (g : Get) (l : Level) : Bool := g.capR l ≤ levelMaxR g.codec g.profile l g.highTier
def Get.bufFits (g : Get) (l : Level) : Bool := g.capB l ≤ levelMaxB g.codec g.profile l g.highTier

/-- The level of an encode context: the one named, or the lowest that holds the stream and its cap (R69, R116). -/
def Get.level (g : Get) : Option Level :=
  let code := g F.CTX_CFG_STREAM_LEVEL
  if code ≠ 0 then levelNamed g.codec code
  else (levelsOf g.codec).find? fun l => g.levelFits l && g.rateFits l && g.bufFits l

def noLevel : Level := ⟨0, 0, 0, 0, 0, 0, 0, 0⟩

def Get.lvl (g : Get) : Level := g.level.getD noLevel

/-- Signalled R and B in use. -/
def Get.R (g : Get) : Nat := g.capR g.lvl
def Get.B (g : Get) : Nat := g.capB g.lvl

/-- Arrival per picture period and buffer size, scaled by NUM (R115). -/
def Get.fill (g : Get) : Nat := g.R * g.den
def Get.bs (g : Get) : Nat := g.B * g.num

/-- Fullness at START (R115). -/
def Get.startFill (g : Get) : Nat := g.B * g F.CTX_RC_BUF_INIT / 100 * g.num

/-- Φ_max (R116). -/
def Get.floorMax (g : Get) : Nat :=
  8192 + 512 * g.segCount + (g.segments.map fun x => x.units * rationBound g.codec true + endBound).sum

/-- Picture period in ns, and the latency L (R159). -/
def Get.period (g : Get) : Nat := 10 ^ 9 * g.den / g.num
def Get.latency (g : Get) : Nat :=
  let d := g F.CTX_CFG_LATENCY_DEADLINE
  if d = 0 then g.period else d * 100000

/-- The decode buffer D of R152. -/
def Get.decodeDpb (g : Get) : Nat :=
  let code := g F.CTX_CFG_STREAM_LEVEL
  let l := levelNamed g.codec (if code ≠ 0 then code else if g.codec = 3 then 63 else 62)
  levelDpb g.codec (l.getD noLevel) g.w g.h

/-! ### Flows and services that a context may name -/

def flowPage : Nat := 0x110

/-- A flow is a secondary path: word 1, MERGE_EN (R217). -/
def flowSecondary (f : Flow) : Bool := bitsOf (f.words.getD 1 0).toNat 31 1 == 1

/-- MUX_RATE of a service in kb/s (R218). -/
def svcMuxRate (x : Svc) : Nat := bitsOf (x.words.getD 2 0).toNat 0 20

/-- The sets of a context that name flows and services: its active set, and its pending one. -/
def setsOf (s : State) (c : Nat) : List Get :=
  active s c :: (if (getCtx s c).reconf.isSome then [pendingSet s c] else [])

/-- A context that is not FREE takes a flow as its input (R206). -/
def usesFlow (s : State) (f c : Nat) : Bool :=
  fget s (ctxPage c) F.CTX_STATE_STATE != 0 && fget s (ctxPage c) F.CTX_STATE_KIND != 0 &&
    (setsOf s c).any fun g => g.input == 1 && g F.CTX_CFG_IO_IN_FLOW == f

/-- A context that is not FREE sends to a service (R207). -/
def usesSvc (s : State) (n c : Nat) : Bool :=
  fget s (ctxPage c) F.CTX_STATE_STATE != 0 && fget s (ctxPage c) F.CTX_STATE_KIND == 0 &&
    (setsOf s c).any fun g => g.toNet && g F.CTX_CFG_IO_OUT_NODE == n

/-- Contexts with history: no other can be in use. -/
def ctxList : List Nat := List.range 256

def flowInUse (s : State) (f : Nat) (except : Nat := 256) : Bool := ctxList.any fun c => c != except && usesFlow s f c

def svcInUse (s : State) (n : Nat) (except : Nat := 256) : Bool := ctxList.any fun c => c != except && usesSvc s n c

/-! ### The checks of meaning (R373) -/

/-- A failing check names its field by register offset and lowest bit. -/
def failIf (b : Bool) (r : Row) : List (Nat × Nat) := if b then [(r.off, r.lo)] else []

/-- Fields of either kind outside their own encoding or range. -/
def sharedRange (g : Get) : List (Nat × Nat) :=
  failIf (g.w % 2 != 0 || g.w < 64 || 8192 < g.w) F.CTX_CFG_SIZE_WIDTH ++
  failIf (g.h % 2 != 0 || g.h < 64 || 4320 < g.h) F.CTX_CFG_SIZE_HEIGHT ++
  failIf (g.den == 0) F.CTX_CFG_RATE_DEN ++
  failIf (g.input == 3) F.CTX_CFG_IO_INPUT

/-- Fields of a decode or transcode context outside their own encoding or range. -/
def decodeRange (g : Get) : List (Nat × Nat) :=
  failIf (g F.CTX_DEC_CTL_REF_SUBST == 3) F.CTX_DEC_CTL_REF_SUBST ++
  failIf (8 < g F.CTX_DEC_CTL_MAX_PARTS) F.CTX_DEC_CTL_MAX_PARTS ++
  failIf (1024 < g F.CTX_DEC_OUT_DROP_ABOVE) F.CTX_DEC_OUT_DROP_ABOVE

/-- Fields of an encode context outside their own encoding or range. -/
def encodeRange (g : Get) : List (Nat × Nat) :=
  failIf (1 < g F.CTX_RC_CTL_MODE) F.CTX_RC_CTL_MODE ++
  failIf (100 < g F.CTX_RC_CTL_QI) F.CTX_RC_CTL_QI ++
  failIf (64 < g.laDepth) F.CTX_RC_CTL_LA_DEPTH ++
  failIf (let b := g F.CTX_RC_BUF_CAP_BUFFER; b != 0 && (b < 10 || 10000 < b)) F.CTX_RC_BUF_CAP_BUFFER ++
  failIf (let i := g F.CTX_RC_BUF_INIT; i < 10 || 100 < i) F.CTX_RC_BUF_INIT ++
  failIf (6 < g F.CTX_RC_QP_AQ) F.CTX_RC_QP_AQ ++
  failIf (16 < g F.CTX_RC_RECOVER_PICS) F.CTX_RC_RECOVER_PICS ++
  failIf (8 < g F.CTX_RC_RECOVER_DQ) F.CTX_RC_RECOVER_DQ ++
  failIf (g.hierB && (g.miniLog < 1 || 4 < g.miniLog)) F.CTX_ENC_GOP_MINIGOP_LOG2 ++
  failIf (g.numRef < 1 || 4 < g.numRef) F.CTX_ENC_GOP_NUM_REF ++
  failIf (1 < g F.CTX_ENC_GOP_RAP_TYPE) F.CTX_ENC_GOP_RAP_TYPE ++
  failIf (let n := g F.CTX_ENC_GOP2_GIR_PERIOD; n == 1 || 1024 < n) F.CTX_ENC_GOP2_GIR_PERIOD ++
  failIf (g F.CTX_ENC_OUT_HDR_SRC == 3) F.CTX_ENC_OUT_HDR_SRC ++
  failIf (g F.CTX_PP_CTL_DEINT == 3) F.CTX_PP_CTL_DEINT ++
  failIf (g F.CTX_PP_CTL_SRC_RANGE == 3) F.CTX_PP_CTL_SRC_RANGE ++
  failIf (g F.CTX_PP_CROP0_X % 2 == 1) F.CTX_PP_CROP0_X ++
  failIf (g F.CTX_PP_CROP0_Y % 2 == 1) F.CTX_PP_CROP0_Y ++
  failIf (g F.CTX_PP_CROP1_W % 2 == 1) F.CTX_PP_CROP1_W ++
  failIf (g F.CTX_PP_CROP1_H % 2 == 1) F.CTX_PP_CROP1_H ++
  failIf (270 < g F.CTX_PLACE_XSEG_SEG_ROWS) F.CTX_PLACE_XSEG_SEG_ROWS ++
  failIf (g F.CTX_PLACE_XSEG_SAMPLE_N == 1) F.CTX_PLACE_XSEG_SAMPLE_N ++
  failIf (let n := g F.CTX_RC_XLA_LA_MIN; n < 1 || 64 < n) F.CTX_RC_XLA_LA_MIN ++
  failIf (g F.CTX_RC_XLA_SCENE_THRESH == 0) F.CTX_RC_XLA_SCENE_THRESH ++
  failIf (g F.CTX_RC_XLAMBDA_SCALE == 0) F.CTX_RC_XLAMBDA_SCALE ++
  failIf (8 < g F.CTX_ENC_XSPLIT_COLS) F.CTX_ENC_XSPLIT_COLS ++
  failIf (g F.CTX_PP_XDEINT_HIGH ≤ g F.CTX_PP_XDEINT_LOW) F.CTX_PP_XDEINT_HIGH

/-- The checks of the cap at a level (R116), with a named level or the one selected. -/
def capFails (g : Get) (l : Level) : List (Nat × Nat) :=
  let r := g.capR l
  let b := g.capB l
  let phi := g.floorMax
  let init := g F.CTX_RC_BUF_INIT
  let initSmaller := b * init * g.num < 100 * r * g.den
  failIf (!g.rateFits l) F.CTX_RC_CAP_CAP_RATE ++
  failIf (!g.bufFits l) F.CTX_RC_BUF_CAP_BUFFER ++
  failIf (g.cbr && b * g.num < r * g.den + 512 * g.num) F.CTX_RC_BUF_CAP_BUFFER ++
  (if b * init < 100 * phi ∨ r * g.den < phi * g.num then
     failIf true (if initSmaller then F.CTX_RC_BUF_INIT else F.CTX_RC_CAP_CAP_RATE)
   else [])

/-- Largest luma rate of an encode context: 8 engines (R44), or 8 at 0.528 and 0.264 Gpx/s (R107). -/
def encodeLimit (g : Get) : Nat :=
  match decide (g.codec ≤ 1), g.repro with
  | true, false => 8800000000
  | false, false => 4400000000
  | true, true => 4224000000
  | false, true => 2112000000

def decodeLimit (g : Get) : Nat := if g.codec = 2 then 8800000000 else 13200000000

/-- Checks between fields that both kinds share. -/
def sharedFails (g : Get) (limit : Nat) : List (Nat × Nat) :=
  failIf (g.den != 0 && (g.num < g.den || 240 * g.den < g.num)) F.CTX_CFG_RATE_NUM ++
  failIf (g.den != 0 && limit * g.den < g.w * g.h * g.num) F.CTX_CFG_RATE_NUM ++
  failIf (g.c422 && 2 ≤ g.codec) F.CTX_CFG_STREAM_CHROMA422 ++
  failIf (let l := g F.CTX_CFG_STREAM_LEVEL; l != 0 && (levelNamed g.codec l).isNone) F.CTX_CFG_STREAM_LEVEL

/-- Checks between fields of an encode context. Where the picture rate has no value, since DEN is 0, the checks of it are
not made, and the others are. -/
def encodeFails (s : State) (g : Get) : List (Nat × Nat) :=
  let code := g F.CTX_CFG_STREAM_LEVEL
  let qc (q : Nat) : Nat := clampQp g.codec (q : Int)
  let cols := g F.CTX_ENC_XSPLIT_COLS
  let svc := getSvc s (g F.CTX_CFG_IO_OUT_NODE)
  sharedFails g (encodeLimit g) ++
  failIf (profileUsed g.codec (g F.CTX_CFG_STREAM_PROFILE) g.depth10 g.c422 == 0 ||
    !profileCarries g.codec g.profile g.depth10 g.c422) F.CTX_CFG_STREAM_PROFILE ++
  failIf (g.codec == 0 && 4096 < g.w) F.CTX_CFG_SIZE_WIDTH ++
  failIf (g.input == 1) F.CTX_CFG_IO_INPUT ++
  failIf (g.output == 3) F.CTX_CFG_IO_OUTPUT ++
  failIf (g.toNet && (!svc.enabled ||
    (svcMuxRate svc != 0 && svcMuxRate svc < ceilDiv (g F.CTX_RC_CAP_CAP_RATE * 105) 100 + 256)))
    F.CTX_CFG_IO_OUT_NODE ++
  failIf (qc (g F.CTX_RC_QP_QP_MAX) < qc (g F.CTX_RC_QP_QP_MIN)) F.CTX_RC_QP_QP_MAX ++
  failIf (g F.CTX_ENC_GOP_RAP_TYPE == 1 && (g.codec == 0 || g.codec == 3)) F.CTX_ENC_GOP_RAP_TYPE ++
  failIf (g F.CTX_ENC_GOP2_GIR_PERIOD != 0 && (g.struct == 0 || g.struct == 3)) F.CTX_ENC_GOP2_GIR_PERIOD ++
  failIf (g.highTier && g.codec == 0) F.CTX_ENC_TOOLS_HIGH_TIER ++
  failIf (cols != 0 && (cols < ceilDiv g.w 4096 || g.cols < cols || (g.codec == 0 && 1 < cols)))
    F.CTX_ENC_XSPLIT_COLS ++
  (if code = 0 then
     match g.level with
     | none => failIf true F.CTX_CFG_STREAM_LEVEL
     | some l => capFails g l
   else
     match levelNamed g.codec code with
     | none => []
     | some l => failIf (!g.levelFits l) F.CTX_CFG_STREAM_LEVEL ++ capFails g l)

/-- Checks between fields of a decode or transcode context. -/
def decodeFails (s : State) (g : Get) (kind : Nat) : List (Nat × Nat) :=
  let fl := getFlow s (g F.CTX_CFG_IO_IN_FLOW)
  sharedFails g (decodeLimit g) ++
  failIf (g.input == 2) F.CTX_CFG_IO_INPUT ++
  failIf (kind == 1 && g.output != 0) F.CTX_CFG_IO_OUTPUT ++
  failIf (g.input == 1 && (!fl.enabled || flowSecondary fl)) F.CTX_CFG_IO_IN_FLOW

/-- The lower of two failing fields: lowest offset first, then lowest bit. -/
def lowerField (a b : Nat × Nat) : Nat × Nat :=
  if b.1 < a.1 ∨ (b.1 = a.1 ∧ b.2 < a.2) then b else a

/-- The failing field that R373 reports, or none. -/
def firstFail : List (Nat × Nat) → Option (Nat × Nat)
  | [] => none
  | a :: l => some (l.foldl lowerField a)

/-- Every check of meaning of CONFIGURE on a set; a field that does not apply to the kind is not checked. -/
def settingsFails (s : State) (kind : Nat) (g : Get) : List (Nat × Nat) :=
  sharedRange g ++
    (if kind = 0 then encodeRange g ++ encodeFails s g else decodeRange g ++ decodeFails s g kind)

/-- A flow or service that the set needs and another context holds (R206, R207). -/
def settingsBusy (s : State) (c kind : Nat) (g : Get) : Bool :=
  if kind = 0 then g.toNet && svcInUse s (g F.CTX_CFG_IO_OUT_NODE) c
  else g.input == 1 && flowInUse s (g F.CTX_CFG_IO_IN_FLOW) c

/-! ### Working memory (R372) -/

/-- References searched per list at an effort (R67). -/
def refsAt (numRef effort : Nat) : Nat :=
  match effort with
  | 0 => numRef | 1 => min numRef 2 | _ => 1

/-- NR of R372. -/
def Get.recRefs (g : Get) (effort : Nat) : Nat :=
  min 4 (refsAt g.numRef effort * (match g.struct with | 1 => 1 | 3 => 0 | _ => 2))

/-- M of R372: pictures of the context that may hold candidate records. -/
def Get.recPics (g : Get) : Nat := if g.hierB then 2 ^ g.miniLog + 1 else 2

/-- Bytes of one candidate record (R95, R372): the segment's largest band in luma samples. -/
def Get.recBytes (g : Get) : Nat :=
  let w := cover g.unit g.w 0 (g.strips.headD 0)
  let h := cover g.unit g.h 0 (g.bands.headD 0)
  64 + 32 * g.recRefs (g F.CTX_ENC_TOOLS_EFFORT) * ceilDiv w 32 * ceilDiv h 32

/-- Pictures that the PPU path may hold (R191, R372). -/
def Get.linkRoom (g : Get) : Nat := g.laDepth + 2 ^ g.miniLog + 2

/-- Pictures whose search planes a context keeps (R372). -/
def Get.planePics (g : Get) : Nat := g.laDepth + (if g.hierB then 2 ^ g.miniLog else 1) + g.dpb

/-- The parts of a context's working memory, each with its ECC mark (R372). -/
def memParts (kind : Nat) (g : Get) : List (Nat × Bool) :=
  let u := picBytes g.codec g.w g.h g.depth10 g.c422
  let control := [(2 ^ 18, true)]
  if kind = 0 then
    List.replicate g.dpb (if g F.CTX_ENC_XREF_REFCOMP_OFF = 1 then u else ceilDiv (u * 33) 32, false) ++
    List.replicate g.planePics (ceilDiv (5 * padUp g.w g.unit * padUp g.h g.unit) 16, false) ++
    List.replicate (g.segCount * g.recPics) (g.recBytes, true) ++
    (if g.input = 2 then List.replicate g.linkRoom (imageBytes g.w g.h g.depth10 g.c422, false) else []) ++
    (if g.toNet then [(ceilDiv g.R 4, false)] else []) ++ control
  else List.replicate (g.decodeDpb + 2) (ceilDiv (u * 33) 32, false) ++ control

/-- The handles of part `i` of a working memory. -/
def partHandles (parts : List (Nat × Bool)) (i : Nat) (hs : List Nat) : List Nat :=
  (hs.drop (splitParts (parts.take i)).length).take (splitParts ((parts.drop i).take 1)).length

/-- Reserve the working memory of a set under the owner's tag: the handles and their size in KiB (R372). -/
def reserve (s : State) (owner kind : Nat) (g : Get) : Option (List Nat × Nat × State) :=
  (allocParts s owner (splitParts (memParts kind g))).map fun q => (q.1, handlesKiB q.1, q.2)

end Sys2Proof.Machine
end

