-- ==== Sys2Proof/Machine/Picture.lean ====
section
/-! DEFINITION. Samples of pictures: planes and their edges, the layout of an image (R46, R149), the decimated planes of a
source picture (R89), and the concealment of lost units (R142–R144). -/

namespace Sys2Proof.Machine

/-! ### Planes -/

/-- The nearest of 0 … n − 1 to a coordinate. -/
def nearest (n : Nat) (v : Int) : Nat := (max 0 (min v ((n : Int) - 1))).toNat

/-- A sample; beyond an edge, the nearest edge sample (R89, R183). -/
def planeAt (p : Plane) (x y : Int) : Nat := p.data.getD (nearest p.h y * p.w + nearest p.w x) 0

/-- The plane of `w` × `h` samples that `f` gives by column and row. -/
def planeOf (w h : Nat) (f : Nat → Nat → Nat) : Plane := 
  ⟨w, h, ((List.range (w * h)).map fun i => f (i % w) (i / w)).toArray⟩

/-- Width and height of the chroma planes of a picture (R149). -/
def chromaW (w : Nat) : Nat := ceilDiv w 2
def chromaH (h : Nat) (c422 : Bool) : Nat := if c422 then h else ceilDiv h 2

/-- Plane 0, 1 or 2 of a picture: luma, Cb, Cr. -/
def picPlane (p : Picture) (i : Nat) : Plane :=
  match i with
  | 0 => p.luma | 1 => p.cb | _ => p.cr

/-- Mid level of a sample (R142, R145). -/
def midLevel (depth10 : Bool) : Nat := if depth10 then 512 else 128

/-- A picture of one level (R145: the grey substitute). -/
def flatPicture (w h : Nat) (depth10 c422 : Bool) (v : Nat) : Picture :=
  let c := planeOf (chromaW w) (chromaH h c422) fun _ _ => v
  ⟨depth10, c422, planeOf w h fun _ _ => v, c, c, []⟩

/-- Signed value of 16 bits. -/
def signed16 (v : Nat) : Int := if v % 65536 < 32768 then ((v % 65536 : Nat) : Int) else ((v % 65536 : Nat) : Int) - 65536

/-! ### Images in memory -/

/-- The bytes of one sample (R149). -/
def sampleBytes (depth10 : Bool) (v : Nat) : List Byte :=
  if depth10 then leBytes 2 (v % 1024) else leBytes 1 v

/-- One row of an image: its samples, then bytes that no rule names, up to the stride. `pad` gives byte `i` of them. -/
def rowBytes (depth10 : Bool) (stride : Nat) (pad : Nat → Nat) (row : List Nat) : List Byte :=
  let b := row.flatMap (sampleBytes depth10)
  b ++ (List.range (stride - b.length)).map fun i => BitVec.ofNat 8 (pad i)

/-- A decoded picture as an image (R149): the luma rows, then the chroma rows with Cb and Cr interleaved. -/
def imageOf (p : Picture) (pad : Nat → Nat) : List Byte :=
  let stride := imageStride p.luma.w p.depth10
  let luma := (List.range p.luma.h).flatMap fun y =>
    rowBytes p.depth10 stride (fun i => pad (y * stride + i)) ((List.range p.luma.w).map fun x => planeAt p.luma x y)
  luma ++ (List.range p.cb.h).flatMap fun y =>
    rowBytes p.depth10 stride (fun i => pad ((p.luma.h + y) * stride + i))
      ((List.range p.cb.w).flatMap fun x => [planeAt p.cb x y, planeAt p.cr x y])

/-- The sample at a byte address (R46): bits [15:10] of a 10-bit sample are ignored. -/
def sampleAt (s : State) (depth10 : Bool) (a : Nat) : Nat :=
  if depth10 then leVal (memReadN s a 2) % 1024 else (memRead s a).toNat

/-- The source picture that a SUBMIT names (R46). -/
def readPicture (s : State) (w h : Nat) (depth10 c422 : Bool) (luma chroma stride : Nat) : Picture :=
  let n := if depth10 then 2 else 1
  let c (k : Nat) : Plane := planeOf (w / 2) (chromaH h c422) fun x y =>
    sampleAt s depth10 (chroma + y * stride + (2 * x + k) * n)
  ⟨depth10, c422, planeOf w h fun x y => sampleAt s depth10 (luma + y * stride + x * n), c 0, c 1, []⟩

/-! ### Decimated planes (R89) -/

/-- An 8-bit luma sample of the padded picture. What the padding holds is a free value. -/
def luma8 (p : Picture) (x y : Nat) : Nat :=
  let v := if x < p.luma.w ∧ y < p.luma.h then planeAt p.luma x y else Config.padSample p.luma x y
  if p.depth10 then min 255 ((v + 2) / 4) else v % 256

/-- Half of a plane in each dimension. -/
def decimate (w h : Nat) (f : Nat → Nat → Nat) : Plane :=
  planeOf (w / 2) (h / 2) fun x y =>
    (f (2 * x) (2 * y) + f (2 * x + 1) (2 * y) + f (2 * x) (2 * y + 1) + f (2 * x + 1) (2 * y + 1) + 2) / 4

/-- L1 and L2 of a source picture whose coding unit is `unit` samples. -/
def planesOf (unit : Nat) (p : Picture) : Planes :=
  let l1 := decimate (padUp p.luma.w unit) (padUp p.luma.h unit) (luma8 p)
  ⟨l1, decimate l1.w l1.h fun x y => planeAt l1 x y⟩

/-! ### Concealment (R142–R144) -/

def rectHas (r : Rect) (x y : Nat) : Bool := decide (r.x ≤ x) && decide (x < r.x + r.w) && decide (r.y ≤ y) && decide (y < r.y + r.h)

/-- Luma position of a sample of plane `i`. -/
def lumaX (i x : Nat) : Nat := if i = 0 then x else 2 * x
def lumaY (i y : Nat) (c422 : Bool) : Nat := if i = 0 ∨ c422 then y else 2 * y

/-- A sample of plane `i` of a picture lies in a lost unit. -/
def isLost (lost : List Rect) (c422 : Bool) (i x y : Nat) : Bool :=
  lost.any fun r => rectHas r (lumaX i x) (lumaY i y c422)

/-- What concealment starts from: size, format, the picture outside its lost units, and these. -/
structure Damaged where
  w : Nat
  h : Nat
  depth10 : Bool
  c422 : Bool
  base : Picture
  lost : List Rect
  deriving DecidableEq, Repr

def Damaged.planeW (d : Damaged) (i : Nat) : Nat := if i = 0 then d.w else chromaW d.w
def Damaged.planeH (d : Damaged) (i : Nat) : Nat := if i = 0 then d.h else chromaH d.h d.c422

/-- A sample that serves as a source: received, and not in a lost unit. -/
def Damaged.source (d : Damaged) (i x y : Nat) : Option Nat :=
  if isLost d.lost d.c422 i x y then none else some (planeAt (picPlane d.base i) x y)

/-- The nearest source sample on a line of positions, with its distance from 1 up. -/
def nearestSource (f : Nat → Option Nat) (n : Nat) : Option (Nat × Nat) :=
  (List.range n).findSome? fun k => (f k).map fun v => (k + 1, v)

/-- The sources of one lost sample up, down, left and right (R142), each as distance and value. -/
def Damaged.around (d : Damaged) (i x y : Nat) : List (Nat × Nat) :=
  [nearestSource (fun k => d.source i x (y - 1 - k)) y,
   nearestSource (fun k => d.source i x (y + 1 + k)) (d.planeH i - 1 - y),
   nearestSource (fun k => d.source i (x - 1 - k) y) x,
   nearestSource (fun k => d.source i (x + 1 + k) y) (d.planeW i - 1 - x)].filterMap id

/-- The mean of (distance, value) pairs with weights 1 / distance, rounded to nearest with ties upward (R142). -/
def inverseMean (l : List (Nat × Nat)) : Nat :=
  let all := (l.map (·.1)).prod
  let num := (l.map fun p => p.2 * (all / p.1)).sum
  let den := (l.map fun p => all / p.1).sum
  (2 * num + den) / (2 * max 1 den)

/-- One lost sample under R142. -/
def Damaged.spatial (d : Damaged) (i x y : Nat) : Nat :=
  match d.around i x y with
  | [] => midLevel d.depth10
  | l => inverseMean l

/-- The vector of the block that covers a luma sample. -/
def motionAt (l : List Block) (x y : Nat) : Option (Int × Int) :=
  (l.find? fun b => decide (b.x ≤ x) && decide (x < b.x + b.w) && decide (b.y ≤ y) && decide (y < b.y + b.h)).map
    fun b => (b.mvx, b.mvy)

/-- The vectors that the neighbours of a lost unit offer (R143 step 1): above, below, left, right, where received. Of an edge
of even length the later of the two middle samples is taken, as the centre of a unit is at (x + w / 2, y + h / 2) (DESIGN
CHOICE, log 100). -/
def Damaged.offers (d : Damaged) (motion : List Block) (r : Rect) : List (Int × Int) :=
  let at_ (ok : Bool) (x y : Nat) : Option (Int × Int) :=
    if ok && (d.source 0 x y).isSome then motionAt motion x y else none
  [at_ (0 < r.y) (r.x + r.w / 2) (r.y - 1), at_ (r.y + r.h < d.h) (r.x + r.w / 2) (r.y + r.h),
   at_ (0 < r.x) (r.x - 1) (r.y + r.h / 2), at_ (r.x + r.w < d.w) (r.x + r.w) (r.y + r.h / 2)].filterMap id

/-- Insert into a rising list. -/
def insertInt (v : Int) : List Int → List Int
  | [] => [v]
  | w :: l => if v ≤ w then v :: w :: l else w :: insertInt v l

/-- One component of R143 step 2: of three the median, of two or four the mean of the two middle values, rounded toward
zero. -/
def middleOf (l : List Int) : Int :=
  let s := l.foldr insertInt []
  match s with
  | [a] => a
  | [a, b] => (a + b).tdiv 2
  | [_, b, _] => b
  | [_, b, c, _] => (b + c).tdiv 2
  | _ => 0

/-- The vector of a lost unit in whole luma samples (R143). -/
def Damaged.vector (d : Damaged) (motion : List Block) (ref : Picture) (r : Rect) : Int × Int :=
  let o := d.offers motion r
  let v := if o = [] then (motionAt ref.motion (r.x + r.w / 2) (r.y + r.h / 2)).getD (0, 0)
    else (middleOf (o.map (·.1)), middleOf (o.map (·.2)))
  (v.1.tdiv 16, v.2.tdiv 16)

/-- One lost sample under R143: the reference sample that the vector points at. A chroma vector that falls between samples
leaves the value open: a free value. -/
def projected (ref : Picture) (c422 : Bool) (v : Int × Int) (i x y : Nat) : Nat :=
  if i = 0 then planeAt ref.luma (x + v.1) (y + v.2)
  else if v.1 % 2 = 0 ∧ (c422 || v.2 % 2 == 0) then
    planeAt (picPlane ref i) (x + v.1 / 2) (y + if c422 then v.2 else v.2 / 2)
  else Config.betweenSamples ref i x y % (2 * midLevel ref.depth10)

/-- What conceals a lost unit: R142, or R143 with the picture it is predicted from and its vector. -/
inductive Patch where
  | spatial
  | motion (ref : Picture) (v : Int × Int)
  deriving DecidableEq, Repr

/-- One lost sample of plane `i` under the patch of its unit. -/
def Damaged.patch (d : Damaged) (i x y : Nat) : Patch → Nat
  | .spatial => d.spatial i x y
  | .motion r v => projected r d.c422 v i x y

/-- The samples of plane `i` with what was lost concealed, unit by unit. -/
def Damaged.conceal (d : Damaged) (units : List (Rect × Patch)) (i : Nat) : Plane :=
  planeOf (d.planeW i) (d.planeH i) fun x y =>
    match d.source i x y with
    | some v => v
    | none =>
      match units.find? fun u => rectHas u.1 (lumaX i x) (lumaY i y d.c422) with
      | some u => d.patch i x y u.2
      | none => d.spatial i x y

/-- Two rectangles share a sample. -/
def rectsMeet (a b : Rect) : Bool :=
  decide (a.x < b.x + b.w) && decide (b.x < a.x + a.w) && decide (a.y < b.y + b.h) && decide (b.y < a.y + a.h)

/-- The picture after concealment; concealed units store no motion (R144). -/
def Damaged.picture (d : Damaged) (units : List (Rect × Patch)) (motion : List Block) : Picture :=
  ⟨d.depth10, d.c422, d.conceal units 0, d.conceal units 1, d.conceal units 2,
    motion.filter fun b => !d.lost.any (rectsMeet ⟨b.x, b.y, b.w, b.h⟩)⟩

/-- Concealed luma samples Lc within the cropped picture (R146): each once, whatever lost units hold it. -/
def lostSamples (w h : Nat) (lost : List Rect) : Nat :=
  ((List.range (w * h)).filter fun i => lost.any fun r => rectHas r (i % w) (i / w)).length

/-! ### Fields (R133) -/

/-- Two fields as one interleaved plane. -/
def weavePlane (top bottom : Plane) (h : Nat) : Plane :=
  planeOf top.w h fun x y => if y % 2 = 0 then planeAt top x (y / 2 : Nat) else planeAt bottom x (y / 2 : Nat)

/-- One field as a frame: the lines of the other are copies of the line above, or of the line below for the top line. -/
def fillPlane (f : Plane) (isTop : Bool) (h : Nat) : Plane :=
  planeOf f.w h fun x y =>
    if isTop then planeAt f x (y / 2 : Nat)
    else planeAt f x (if y % 2 = 1 then (y / 2 : Nat) else ((y / 2 : Nat) : Int) - 1)

/-- The frame of two fields of a picture of `h` rows. -/
def weave (top bottom : Picture) (h : Nat) : Picture :=
  let c := chromaH h top.c422
  { top with luma := weavePlane top.luma bottom.luma h, cb := weavePlane top.cb bottom.cb c
             cr := weavePlane top.cr bottom.cr c, motion := [] }

/-- The lines of one parity of a plane, and of a picture. -/
def fieldPlane (p : Plane) (isTop : Bool) : Plane :=
  planeOf p.w ((p.h + if isTop then 1 else 0) / 2) fun x y => planeAt p x (2 * y + if isTop then 0 else 1 : Nat)

def fieldOf (p : Picture) (isTop : Bool) : Picture :=
  { p with luma := fieldPlane p.luma isTop, cb := fieldPlane p.cb isTop, cr := fieldPlane p.cr isTop, motion := [] }

/-- The frame of one field. -/
def fillField (f : Picture) (isTop : Bool) (h : Nat) : Picture :=
  let c := chromaH h f.c422
  { f with luma := fillPlane f.luma isTop h, cb := fillPlane f.cb isTop c, cr := fillPlane f.cr isTop c, motion := [] }

end Sys2Proof.Machine
end

