-- ==== Sys2Proof/Machine/Search.lean ====
section
/-! DEFINITION. Coarse search as arithmetic (R90–R95, R100) and the measures of lookahead (R119): the positions, the SADs
and their codes, the four best candidates, and the candidate record. -/

namespace Sys2Proof.Machine

/-! ### Positions (R90) -/

/-- Offsets of a window in raster order. -/
def window (x0 y0 w h : Nat) : List (Int × Int) :=
  (List.range (w * h)).map fun (i : Nat) => (((i % w : Nat) : Int) - x0, ((i / w : Nat) : Int) - y0)

/-- One evaluated position of a block: the offset within its window, and the vector at the level. -/
abbrev Spot := (Int × Int) × (Int × Int)

/-- A window around a vector. -/
def around (v : Int × Int) (w : List (Int × Int)) : List Spot := w.map fun o => (o, (v.1 + o.1, v.2 + o.2))

/-- The L2 window of a search unit: ±64 by ±32. -/
def l2Spots : List Spot := around (0, 0) (window 64 32 129 65)

/-- The L1 windows of a region: around each of the four best L2 vectors of its unit, doubled; around the zero vector; and
the co-located temporal vector. -/
def l1Spots (best : List (Int × Int)) (temporal : Int × Int) : List Spot :=
  best.flatMap (fun v => around (2 * v.1, 2 * v.2) (window 8 8 16 16)) ++ around (0, 0) (window 2 2 5 5) ++
    [((0, 0), temporal)]

/-- Positions of a search unit with `n` references (R90). -/
def unitPositions (n : Nat) (l1 : Bool) : Nat := n * 8385 + if l1 then 4 * (n * 1050) else 0

/-! ### Candidates (R94) -/

/-- A candidate: its vector, its code or SAD, and |x| + |y| of its offset. -/
structure Cand where
  x : Int
  y : Int
  rank : Nat
  size : Nat
  deriving DecidableEq, Repr

def Cand.same (a b : Cand) : Bool := a.x == b.x && a.y == b.y

/-- Insert by rank, then size; the earlier of equals stays first; of one position the better stays (R94). -/
def insertCand (c : Cand) : List Cand → List Cand
  | [] => [c]
  | d :: l =>
    if c.rank < d.rank ∨ (c.rank = d.rank ∧ c.size < d.size) then c :: (d :: l).filter fun e => !c.same e
    else if c.same d then d :: l
    else d :: insertCand c l

/-- The four distinct positions with the lowest ranks, by the rank of each spot and its number. -/
def best4 (spots : List Spot) (rank : Nat → Int × Int → Nat) : List Cand :=
  (List.range spots.length).foldl (fun l i =>
    let p := spots.getD i ((0, 0), (0, 0))
    (insertCand ⟨p.2.1, p.2.2, rank i p.2, p.1.1.natAbs + p.1.2.natAbs⟩ l).take 4) []

/-! ### Exact SADs (R100) -/

/-- Sum of absolute differences of the 16 × 16 block at (bx, by) and the block that a vector points at. -/
def sad16 (cur ref : Plane) (bx by_ : Nat) (v : Int × Int) : Nat :=
  ((List.range 256).map fun i =>
    let x : Int := (bx + i % 16 : Nat)
    let y : Int := (by_ + i / 16 : Nat)
    ((planeAt cur x y : Int) - planeAt ref (x + v.1) (y + v.2)).natAbs).sum

/-- The code of an exact SAD. -/
def sadCode (d : Nat) : Nat := min 1023 ((d + 8) / 16)

/-! ### A segment's search -/

/-- What the search of a segment reads: its first luma sample and size, its planes, and per searched reference the slot,
the planes and the motion. -/
structure SearchJob where
  x : Nat
  y : Nat
  w : Nat
  h : Nat
  cur : Planes
  refs : List EncRef
  l1 : Bool

/-- Regions and search units per row, and region rows. -/
def SearchJob.regW (j : SearchJob) : Nat := ceilDiv j.w 32
def SearchJob.regH (j : SearchJob) : Nat := ceilDiv j.h 32
def SearchJob.unitW (j : SearchJob) : Nat := ceilDiv j.w 64

def noRefPic : EncRef := ⟨0, 0, 0, noPlanes, noPicture, [], 0, 0⟩

/-- The co-located temporal vector of a region in a reference, in L1 samples (R90). -/
def SearchJob.temporal (j : SearchJob) (rx ry : Nat) (r : EncRef) : Int × Int :=
  let v := (motionAt r.pix.motion (j.x + 32 * rx) (j.y + 32 * ry)).getD (0, 0)
  (v.1.tdiv 32, v.2.tdiv 32)

/-- Ranks of one block: by level (2 or 1), reference, number of the spot in its block and reference, and vector. -/
abbrev Ranks := (level ref : Nat) → (number : Nat) → Int × Int → Nat

/-- The candidates of region (rx, ry) and reference `k`, best first, in full-resolution samples (R95). -/
def SearchJob.region (j : SearchJob) (rank : Ranks) (rx ry k : Nat) : List Cand :=
  let top := best4 l2Spots (rank 2 k)
  if j.l1 then
    let r := j.refs.getD k noRefPic
    (best4 (l1Spots (top.map fun c => (c.x, c.y)) (j.temporal rx ry r)) (rank 1 k)).map fun c =>
      { c with x := 2 * c.x, y := 2 * c.y }
  else top.map fun c => { c with x := 4 * c.x, y := 4 * c.y }

/-- Ranks by exact SAD (R100). -/
def SearchJob.exact (j : SearchJob) (rx ry : Nat) : Ranks := fun level k _ v =>
  let r := (j.refs.getD k noRefPic).planes
  if level = 2 then sad16 j.cur.l2 r.l2 (j.x / 4 + 16 * (rx / 2)) (j.y / 4 + 16 * (ry / 2)) v
  else sad16 j.cur.l1 r.l1 (j.x / 2 + 16 * rx) (j.y / 2 + 16 * ry) v

/-- Ranks by the codes that a bank reports in the order of R93: unit by unit, its L2 codes reference by reference, then
its four regions. -/
def SearchJob.coded (j : SearchJob) (codes : List Nat) (rx ry : Nat) : Ranks := fun level k i _ =>
  let n := j.refs.length
  let unit := (ry / 2 * j.unitW + rx / 2) * unitPositions n j.l1
  let at_ := if level = 2 then k * 8385 + i else n * 8385 + ((ry % 2 * 2 + rx % 2) * n + k) * 1050 + i
  min 1023 (codes.getD (unit + at_) 1023)

/-- The two words of one candidate of an entry (R95). -/
def candWords (code : Nat → Nat) (c : Cand) : List Nat :=
  [(c.x % 65536).toNat + 65536 * (c.y % 65536).toNat, code c.rank + 2 ^ 15]

/-- One entry of 32 bytes: four candidates, unused slots 0. -/
def candEntry (code : Nat → Nat) (l : List Cand) : List Nat :=
  let w := l.flatMap (candWords code)
  w ++ List.replicate (8 - w.length) 0

/-- The entries of a record: raster order of regions, reference by reference within each. -/
def SearchJob.entries (j : SearchJob) (code : Nat → Nat) (rank : Nat → Nat → Ranks) : List Nat :=
  (List.range (j.regW * j.regH)).flatMap fun i =>
    let rx := i % max 1 j.regW
    let ry := i / max 1 j.regW
    (List.range j.refs.length).flatMap fun k => candEntry code (j.region (rank rx ry) rx ry k)

/-- The header of a record (R95): context, generation, segment, picture, flags and bank, the regions, the slots, DONE. -/
def SearchJob.header (j : SearchJob) (ctx gen seg pic : Nat) (digital repro : Bool) (bank done : Nat) : List Nat :=
  let bit (b : Bool) (n : Nat) : Nat := if b then 2 ^ n else 0
  let slot (k : Nat) : Nat := ((j.refs[k]?).map fun r => r.slot % 256).getD 255
  [2 + 2 ^ 8 + 64 * 2 ^ 16, ctx % 256 + 256 * (gen % 256) + 65536 * (seg % 65536), pic % 2 ^ 32,
   1 + bit digital 1 + bit (!j.l1) 2 + bit repro 3 + 16 * (if digital then 15 else bank) + 256 * j.refs.length,
   j.regW + 65536 * j.regH, slot 0 + 256 * slot 1 + 65536 * slot 2 + 2 ^ 24 * slot 3,
   done % 2 ^ 32, done / 2 ^ 32 % 2 ^ 32, 0, 0, 0, 0, 0, 0, 0, 0]

/-! ### Which references are searched (R75, R91) -/

/-- References before a picture in output order, nearest first, and those after it. -/
def insertBy (key : EncRef → Nat) (r : EncRef) : List EncRef → List EncRef
  | [] => [r]
  | q :: l => if key r ≤ key q then r :: q :: l else q :: insertBy key r l

def refsBefore (l : List EncRef) (sub : Nat) : List EncRef :=
  (l.filter fun r => decide (r.sub < sub)).foldr (insertBy fun r => sub - r.sub) []

def refsAfter (l : List EncRef) (sub : Nat) : List EncRef :=
  (l.filter fun r => decide (sub < r.sub)).foldr (insertBy fun r => r.sub - sub) []

/-- Alternately from two lists. -/
def takeTurns : List EncRef → List EncRef → List EncRef
  | [], l => l
  | a :: l, m =>
    match m with
    | [] => a :: l
    | b :: m => a :: b :: takeTurns l m

/-- The pictures that the lists of a picture hold, from the front and alternately (R75): as many per list as R67 allows.
Which pictures the lists hold is DEDUCED from R75 (log 75). -/
def usedRefs (g : Get) (l : List EncRef) (sub effort : Nat) : List Nat :=
  let n := refsAt g.numRef effort
  let l0 := refsBefore l sub
  let l1 := refsAfter l sub
  let b := if l1 = [] then l0 else l1
  let both := if g.struct = 1 then l0.take n else takeTurns (l0.take n) (b.take n)
  (both.map (·.num)).eraseDups

/-- The pictures that coarse search covers, by number (R91): at most four, each once. -/
def searchedRefs (g : Get) (l : List EncRef) (sub effort : Nat) : List Nat := (usedRefs g l sub effort).take 4

/-! ### Lookahead (R119) -/

/-- Intra cost of the L2 block at (bx, by): the sum of absolute deviations from its mean. How the mean is rounded is
free. -/
def intraCost (l2 : Plane) (bx by_ : Nat) : Nat :=
  let v := (List.range 256).map fun i => planeAt l2 ((bx + i % 16 : Nat) : Int) ((by_ + i / 16 : Nat) : Int)
  let mean := if v.sum % 256 = 0 then v.sum / 256 else v.sum / 256 + Config.meanRound v.sum % 2
  (v.map fun a => ((a : Int) - mean).natAbs).sum

/-- First luma sample and size of a segment. -/
def segRect (g : Get) (x : Geom) : Nat × Nat × Nat × Nat :=
  let c := (g.strips.take x.strip).sum
  let r := (g.bands.take x.band).sum
  (c * g.unit, r * g.unit, cover g.unit g.w c (g.strips.getD x.strip 0), cover g.unit g.h r (g.bands.getD x.band 0))

/-- Search units per row of a picture (R90). -/
def Get.unitsWide (g : Get) : Nat := ceilDiv g.w 64

/-- Search units of a picture. -/
def Get.searchUnits (g : Get) : Nat := g.unitsWide * ceilDiv g.h 64

/-- The L2 blocks of the search units of a picture, in raster order. -/
def Get.blocks (g : Get) : List (Nat × Nat) :=
  (List.range g.searchUnits).map fun i => (16 * (i % max 1 g.unitsWide), 16 * (i / max 1 g.unitsWide))

/-- The window of lookahead against the following picture: ±16 by ±8 (R119). -/
def followSpots : List (Int × Int) := window 16 8 33 17

/-- The code of a search unit by exact arithmetic (R107, R119): the lowest against the pictures before it over the window of
R90, and against the following picture. -/
def exactCode (cur : Plane) (before : List Plane) (after : Option Plane) (b : Nat × Nat) : Nat :=
  let least (r : Plane) (w : List (Int × Int)) : Nat := w.foldl (fun m v => min m (sadCode (sad16 cur r b.1 b.2 v))) 1023
  let m := before.foldl (fun m r => min m (least r (window 64 32 129 65))) 1023
  match after with
  | none => m
  | some r => min m (least r followSpots)

/-- The codes of a picture under REPRODUCIBLE_SEARCH (R107). -/
def exactCodes (g : Get) (pl : Planes) (before : List Planes) (after : Option Planes) : LaCodes :=
  ⟨g.blocks.map (exactCode pl.l2 (before.map (·.l2)) (after.map (·.l2)))⟩

/-- What lookahead measures on a picture. -/
def measure (g : Get) (pl : Planes) (c : LaCodes) : Lookahead :=
  let l := (List.range g.searchUnits).map fun i =>
    let b := g.blocks.getD i (0, 0)
    (intraCost pl.l2 b.1 b.2, 16 * min 1023 (c.codes.getD i 1023))
  ⟨(l.map (·.1)).sum, (l.map (·.2)).sum, l.map fun p => min p.1 p.2, pl.l2.data.toList.sum⟩

/-- The complexity of the coding unit at luma sample (x, y) (R113): the sum over its search units and their number. An AVC
macroblock has that of its search unit, a VVC CTU four. -/
def Get.unitCplx (g : Get) (cplx : List Nat) (x y : Nat) : Nat × Nat :=
  let per := max 1 (g.unit / 64)
  let l := (List.range (per * per)).filterMap fun i =>
    let cx := x / 64 + i % per
    let cy := y / 64 + i / per
    if cx < g.unitsWide ∧ cy < ceilDiv g.h 64 then some (cplx.getD (cy * g.unitsWide + cx) 0) else none
  (l.sum, l.length)

/-- Luma position of unit `k` of a segment (R59, R158). -/
def Get.unitXY (g : Get) (x : Geom) (k : Nat) : Nat × Nat :=
  let per := max 1 (g.strips.getD x.strip 0)
  (((g.strips.take x.strip).sum + k % per) * g.unit, ((g.bands.take x.band).sum + k / per) * g.unit)

/-- The summed complexity of a segment (R121 step 4), over its coding units (DEDUCED, log 47). -/
def Get.segCplx (g : Get) (cplx : List Nat) (x : Geom) : Nat :=
  ((List.range x.units).map fun k => (g.unitCplx cplx (g.unitXY x k).1 (g.unitXY x k).2).1).sum

/-- Four luma sums that move steadily in one direction. -/
def steady : List Nat → Bool
  | [a, b, c, d] => (a < b && b < c && c < d) || (d < c && c < b && b < a)
  | _ => false

/-- A picture lies in a fade (R119): a run of at least four pictures whose mean luma moves steadily in one direction. -/
def inFade (lumas : List (Nat × Nat)) (num : Nat) : Bool :=
  (List.range 4).any fun k =>
    decide (k ≤ num) && steady ((List.range 4).filterMap fun i => (lumas.find? (·.1 == num - k + i)).map (·.2))

/-- A picture enters lookahead (R89, R119): its samples and planes, and what lookahead measures. Under REPRODUCIBLE_SEARCH
the codes are exact, and the following picture counts for the one before it (R107). `cut`: one preceding picture instead of
two (R126). -/
def lookIn (g : Get) (cut : Bool) (num : Nat) (pix : Picture) (codes : LaCodes) (x : Ctx) : Ctx :=
  let pl := planesOf g.unit pix
  let n := if cut then 1 else 2
  let la := measure g pl (if g.repro then exactCodes g pl (x.latest.take n) none else codes)
  let redo (u : Submit) : Submit :=
    if u.num = num then { u with pix := pix, planes := pl, la := la, laWork := if g.repro then 1 else 0 }
    else if g.repro ∧ u.num + 1 = num ∧ 1 ≤ g.laDepth then
      { u with la := measure g u.planes (exactCodes g u.planes ((x.latest.drop 1).take n) (some pl)) }
    else u
  { x with submits := x.submits.map redo, queued := x.queued ++ [num], latest := (pl :: x.latest).take 3,
           lumas := ((num, la.luma) :: x.lumas).take 96 }

end Sys2Proof.Machine
end

