-- ==== Sys2Proof/Machine/Coder.lean ====
section
/-! DEFINITION. The coding of one unit (R60–R65): the tools (R71–R74), the search of S1 (R92, R103, R104), the candidates
and the decision of S3 (R65, R114), the ration form (R122) and the samples of a segment (R64, R154). The transforms, filters
and syntax of the codec standards are constants without a body, each a function of what R63 names and of nothing else. -/

namespace Sys2Proof

namespace Machine

/-- One mode of a coding unit that S3 screens (R65): a number of its own, the tools it uses, its vectors by reference (in
sixteenths), its SATD cost and its estimated bits. -/
structure Mode where
  id    : Nat
  intra : Bool
  tools : List Tool
  vecs  : List (Nat × Int × Int)
  satd  : Nat
  bits  : Nat
  deriving DecidableEq, Repr

/-- What the stages have before them for one unit (R63): descriptor, number of the unit, source, reference pictures, the
units of the segment coded before it. -/
structure UnitInput where
  d    : SegDesc
  k    : Nat
  src  : Picture
  refs : List Picture
  prev : List UnitCode

end Machine

open Machine

/-- The codec's first motion-vector predictor for an area and a reference, rounded to integer samples (R103). -/
opaque Config.predictor : UnitInput → Rect → Nat → Int × Int

/-- Motion-vector bits of a vector of an area and a reference (R103). -/
opaque Config.vectorBits : UnitInput → Rect → Nat → Int × Int → Nat

/-- The cost of a fractional position with the codec's own interpolation filters (R103). -/
opaque Config.fractionCost : UnitInput → Rect → Nat → Int × Int → Nat

/-- The partitions of a coding unit, as areas of the picture (R103). -/
opaque Config.partitions : UnitInput → List Rect

/-- A vector clipped to the reference area that the standard permits (R92). -/
opaque Config.permitted : SegDesc → Rect → Int × Int → Int × Int

/-- The inter modes of a unit, from the refined vectors of each partition and reference (S1), and the intra modes of every
partition (S2). -/
opaque Config.interModes : UnitInput → List (Rect × List (Nat × Int × Int)) → List Mode
opaque Config.intraModes : UnitInput → List Mode

/-- A mode coded in full (R65): its distortion, and what it codes. -/
opaque Config.fullCode : UnitInput → Mode → Nat × UnitCode

/-- The ration form of a unit (R122), and the bits that end a segment (R120). -/
opaque Config.rationCode : UnitInput → UnitCode
opaque Config.endBits : SegDesc → List UnitCode → List Bool

/-- A sample of a segment in the state of R64, as a decoder of its coded data finds it: plane, column, row. -/
opaque Config.segSample : SegDesc → List Bool → List Picture → Nat → Nat → Nat → Nat

/-- Data that an undetected fault changed still parses (R155). -/
opaque Config.parses : SegDesc → List Bool → Bool

/-- A sample that a boundary job writes in a picture (R178): the picture, the segment, plane, column, row; and the area that
it writes. -/
opaque Config.edgeSample : Picture → SegDesc → Nat → Nat → Nat → Nat
opaque Config.edgeArea : SegDesc → Rect

/-- The number of bytes of a unit that Quartz writes, and byte `i` of it (R83). -/
opaque Config.unitLength : StreamUnit → Nat
opaque Config.unitByte : StreamUnit → Nat → Byte

/-- Quartz's estimate of the slice data of a picture: codec, the complexities of lookahead, QP (R121). -/
opaque Config.estimate : Nat → List Nat → Nat → Nat

namespace Machine

/-! ### Tools (R71–R74) -/

/-- The tools marked Yes; `high`: an AVC profile with the 8 × 8 transform. -/
def codecTools (codec : Nat) (high : Bool) : List Tool :=
  match codec with
  | 0 => [.cabac, .intraBlocks, .bSlices, .quarterMotion, .spatialDirect, .explicitWp, .deblock, .slices] ++
      if high then [.transform8] else []
  | 1 => [.cabac, .ctu64, .amp, .transformTree, .transformSkip, .signHiding, .intra35, .merge, .temporalMv, .quarterMotion,
      .explicitWp, .deblock, .sao, .tiles, .slices]
  | 2 => [.cabac, .ctu128, .dualTree, .intra67, .mts, .lfnst, .dependentQuant, .jointChroma, .transformSkip, .hmvp, .mmvd,
      .temporalMv, .sbTmvp, .ciip, .gpm, .affine, .bdof, .dmvr, .amvr, .smvd, .bcw, .explicitWp, .deblock, .sao, .alf, .tiles,
      .rectSlices, .gdr]
  | _ => [.super64, .av1Intra, .compound, .temporalMv, .distanceCompound, .switchableFilter, .eighthMotion, .allTransforms,
      .segmentation, .deblock, .cdef, .wiener, .tiles, .tileGroups]

/-- The tools that bits 1 to 11 of ENC_XTOOLS turn off. -/
def expertOff (bits : Nat) : List Tool :=
  let t : List (Nat × List Tool) :=
    [(1, [.transformSkip]), (2, [.signHiding]), (3, [.temporalMv, .sbTmvp]), (4, [.deblock]), (5, [.sao]), (6, [.alf]),
     (7, [.cdef]), (8, [.wiener]), (9, [.affine]), (10, [.gpm]), (11, [.lfnst])]
  t.flatMap fun x => if bits.testBit x.1 then x.2 else []

/-- The tools of a context (R71–R74): with the GDR pictures of VVC only under gradual refresh, and weighted prediction only
where ENC_TOOLS.WP allows it. -/
def Get.tools (g : Get) : List Tool :=
  let off := expertOff (bitsOf (g { F.CTX_ENC_XTOOLS_RDOQ_OFF with width := 12 }) 0 12)
  (codecTools g.codec (2 ≤ g.profile)).filter fun t => !off.contains t &&
    !(t == .gdr && g F.CTX_ENC_GOP2_GIR_PERIOD == 0) && !(t == .explicitWp && g F.CTX_ENC_TOOLS_WP == 0)

/-- RDOQ (R67): off at MINIMAL, and with ENC_XTOOLS.RDOQ_OFF. -/
def Get.rdoq (g : Get) (effort : Nat) : Bool := effort != 3 && g F.CTX_ENC_XTOOLS_RDOQ_OFF == 0

/-! ### Vectors (R92, R104) -/

/-- The motion-vector range of a codec and level, in sixteenths: lowest and highest, horizontally and vertically (PRESUMED
from the codec standards, log 21). -/
def vectorRange (codec level : Nat) : (Int × Int) × (Int × Int) :=
  let avcV : Int := if level < 11 then 64 else if level ≤ 20 then 128 else if level ≤ 30 then 256 else 512
  match codec with
  | 0 => ((-2048 * 16, 2048 * 16 - 4), (-avcV * 16, avcV * 16 - 4))
  | 1 => ((-131072, 131068), (-131072, 131068))
  | 2 => ((-131072, 131071), (-131072, 131071))
  | _ => ((-32766, 32766), (-32766, 32766))

def clampInt (r : Int × Int) (v : Int) : Int := max r.1 (min v r.2)

/-- S1 clips a vector to the range and to the permitted reference area (R92). -/
def clipVector (d : SegDesc) (a : Rect) (v : Int × Int) : Int × Int :=
  let p := Config.permitted d a v
  let r := vectorRange d.codec d.level
  (clampInt r.1 p.1, clampInt r.2 p.2)

/-- A vector is within the range. -/
def inRange (d : SegDesc) (v : Int × Int) : Bool :=
  let r := vectorRange d.codec d.level
  decide (r.1.1 ≤ v.1) && decide (v.1 ≤ r.1.2) && decide (r.2.1 ≤ v.2) && decide (v.2 ≤ r.2.2)

/-- Steps of fractional refinement in sixteenths (R104); `affine`: a control point of VVC. -/
def fractionSteps (codec : Nat) (affine : Bool) : List Nat :=
  if codec = 3 then [8, 4, 2] else if affine then [8, 4, 2, 1] else [8, 4]

/-- The finest unit of the vectors that a codec stores, in sixteenths (R104). -/
def finest (codec : Nat) : Nat := match codec with | 2 => 1 | 3 => 2 | _ => 4

/-- A block of motion at the precision of its codec. -/
def roundBlock (codec : Nat) (b : Block) : Block :=
  let n : Int := finest codec
  { b with mvx := b.mvx.tdiv n * n, mvy := b.mvy.tdiv n * n }

/-- Under gradual refresh a vector of the refreshed area points only into the area refreshed in the same cycle (R79): the
block that it points at, with its fraction rounded up, lies there (DEDUCED, log 92). -/
def freshVector (d : SegDesc) (a : Rect) (ref : Nat) (v : Int × Int) : Bool :=
  match d.fresh with
  | none => true
  | some f => decide (f.1 ≤ a.x) || decide (((a.x + a.w : Nat) : Int) * 16 + v.1 ≤ ((d.clean.getD ref 0 : Nat) : Int) * 16)

/-! ### λ (R114) -/

/-- Q of R114: the QP, or a quarter of the qindex of AV1. -/
def lambdaQ (codec q : Nat) : Nat := if codec = 3 then q / 4 else q

/-- λ of a unit, in 16.16 fixed point. -/
def UnitInput.lambda (u : UnitInput) : Nat :=
  Machine.lambda (lambdaK u.d.intra u.d.tid) (lambdaQ u.d.codec (u.d.qps.getD u.k 0)) u.d.scale

/-- The luma area of a unit within the cropped picture (R59). -/
def UnitInput.area (u : UnitInput) : Rect :=
  let per := max 1 u.d.cols
  let x := u.d.area.x + u.k % per * u.d.unit
  let y := u.d.area.y + u.k / per * u.d.unit
  ⟨x, y, min (x + u.d.unit) (u.d.area.x + u.d.area.w) - x, min (y + u.d.unit) (u.d.area.y + u.d.area.h) - y⟩

/-! ### S1: integer and fractional refinement (R103) -/

/-- The exact SAD of an area at the source's bit depth against an integer position. -/
def areaSad (src ref : Picture) (a : Rect) (v : Int × Int) : Nat :=
  ((List.range (a.w * a.h)).map fun i =>
    let x : Int := (a.x + i % a.w : Nat)
    let y : Int := (a.y + i / a.w : Nat)
    ((planeAt src.luma x y : Int) - planeAt ref.luma (x + v.1) (y + v.2)).natAbs).sum

/-- The element of least cost; the first of equals. -/
def leastBy {α : Type} (cost : α → Nat) : List α → Option α
  | [] => none
  | a :: l => match leastBy cost l with
    | none => some a
    | some b => if cost b < cost a then some b else some a

/-- The two elements of least cost. -/
def bestTwo {α : Type} [DecidableEq α] (cost : α → Nat) (l : List α) : List α :=
  match leastBy cost l with
  | none => []
  | some a => a :: (leastBy cost (l.filter (· != a))).toList

/-- λ-weighted cost of an integer position, in 16.16 fixed point. -/
def UnitInput.integerCost (u : UnitInput) (a : Rect) (k : Nat) (v : Int × Int) : Nat :=
  areaSad u.src (u.refs.getD k noPicture) a v * 2 ^ 16 + u.lambda * Config.vectorBits u a k (16 * v.1, 16 * v.2)

/-- A whole vector clipped as its sixteenths are. -/
def clipWhole (d : SegDesc) (a : Rect) (v : Int × Int) : Int × Int :=
  let w := clipVector d a (16 * v.1, 16 * v.2)
  (w.1.tdiv 16, w.2.tdiv 16)

/-- The start set of a region and a reference (R103 step 1). `cands`: the record's valid candidates. -/
def UnitInput.startSet (u : UnitInput) (a : Rect) (k : Nat) (cands : List (Int × Int)) : List (Int × Int) :=
  ((cands ++ [Config.predictor u a k, (0, 0)]).map (clipWhole u.d a)).eraseDups

/-- Integer refinement (R103 step 2): the best of the 81 positions around each member. -/
def UnitInput.refine (u : UnitInput) (a : Rect) (k : Nat) (start : List (Int × Int)) : List (Int × Int) :=
  (start.filterMap fun v =>
    leastBy (u.integerCost a k) ((window 4 4 9 9).map fun o => clipWhole u.d a (v.1 + o.1, v.2 + o.2))).eraseDups

/-- Fractional refinement of a vector in sixteenths (R103 step 3): at each step the best of the centre and its eight
neighbours. -/
def UnitInput.fraction (u : UnitInput) (a : Rect) (k : Nat) (v : Int × Int) (steps : List Nat) : Int × Int :=
  steps.foldl (fun v n =>
    (leastBy (fun p => Config.fractionCost u a k p * 2 ^ 16 + u.lambda * Config.vectorBits u a k p)
      (v :: (window 1 1 3 3).map fun o => clipVector u.d a (v.1 + o.1 * n, v.2 + o.2 * n))).getD v) v

/-- The refined vectors of a region and a reference: translational, and for VVC those of affine control points. -/
def UnitInput.regionVectors (u : UnitInput) (a : Rect) (k : Nat) (cands : List (Int × Int)) : List (Int × Int) :=
  let best := (bestTwo (u.integerCost a k) (u.refine a k (u.startSet a k cands))).map fun v => (16 * v.1, 16 * v.2)
  let plain := best.map fun v => u.fraction a k v (fractionSteps u.d.codec false)
  let affine := if u.d.tools.contains .affine then best.map fun v => u.fraction a k v (fractionSteps 2 true) else []
  ((plain ++ affine).eraseDups).filter (freshVector u.d a k)

/-- The 32 × 32 region of a segment that holds a luma sample, as the part of it within the picture. -/
def regionAt (d : SegDesc) (x y : Nat) : (Nat × Nat) × Rect :=
  let rx := (x - d.area.x) / 32
  let ry := (y - d.area.y) / 32
  let x0 := d.area.x + 32 * rx
  let y0 := d.area.y + 32 * ry
  ((rx, ry), ⟨x0, y0, min (x0 + 32) (d.area.x + d.area.w) - x0, min (y0 + 32) (d.area.y + d.area.h) - y0⟩)

/-- The regions that a partition starts from (R103): its own, or those at its corners. -/
def startRegions (d : SegDesc) (p : Rect) : List ((Nat × Nat) × Rect) :=
  [regionAt d p.x p.y, regionAt d (p.x + p.w - 1) p.y, regionAt d p.x (p.y + p.h - 1),
   regionAt d (p.x + p.w - 1) (p.y + p.h - 1)].eraseDups

/-- The candidates of a record, by region of the segment and reference in use. -/
abbrev Cands := Nat → Nat → Nat → List (Int × Int)

/-- What S1 hands on: for each partition the vectors of each reference. -/
def UnitInput.search (u : UnitInput) (cands : Cands) : List (Rect × List (Nat × Int × Int)) :=
  (Config.partitions u).map fun p =>
    (p, (List.range u.refs.length).flatMap fun k =>
      ((startRegions u.d p).flatMap fun r => u.regionVectors r.2 k (cands r.1.1 r.1.2 k)).eraseDups.map fun v => (k, v))

/-! ### S2, S3: the decision (R65) -/

/-- The unit lies in the columns that gradual refresh codes intra now (R79). -/
def UnitInput.refreshed (u : UnitInput) : Bool :=
  u.d.fresh.any fun f => decide (f.1 ≤ u.area.x) && decide (u.area.x < f.2)

/-- A mode that the unit may take: it uses tools of the context only (R71–R74), and its vectors lie in their range (R92)
and, under gradual refresh, in the refreshed area (R79). -/
def UnitInput.allows (u : UnitInput) (m : Mode) : Bool :=
  m.tools.all u.d.tools.contains && m.vecs.all fun v => inRange u.d v.2 && freshVector u.d u.area v.1 v.2

/-- The candidates of S3: the intra modes always, the inter modes where the unit may predict from other pictures. -/
def UnitInput.modes (u : UnitInput) (cands : Cands) : List Mode :=
  ((if u.d.intra || u.refreshed then [] else Config.interModes u (u.search cands)) ++ Config.intraModes u).filter u.allows

/-- Insert by rank, behind equals. -/
def insertRank {α : Type} (rank : α → Nat) (a : α) : List α → List α
  | [] => [a]
  | b :: l => if rank a < rank b then a :: b :: l else b :: insertRank rank a l

/-- Screening (R65): SATD plus λ × estimated bits, in 16.16 fixed point. -/
def UnitInput.screenCost (u : UnitInput) (m : Mode) : Nat := m.satd * 2 ^ 16 + u.lambda * m.bits

/-- The modes that are coded in full: the best three, or all where there are fewer. -/
def UnitInput.shortlist (u : UnitInput) (l : List Mode) : List Mode :=
  (l.foldl (fun acc m => insertRank u.screenCost m acc) []).take 3

/-- Full cost (R65): distortion plus λ × bits. -/
def UnitInput.fullCost (u : UnitInput) (m : Mode) : Nat :=
  let c := Config.fullCode u m
  c.1 * 2 ^ 16 + u.lambda * c.2.bits.length

/-- The mode that S3 selects. -/
def UnitInput.select (u : UnitInput) (cands : Cands) : Option Mode := leastBy u.fullCost (u.shortlist (u.modes cands))

/-- A unit's code with its motion at the codec's precision (R104), and none of it in an intra picture. -/
def finishCode (d : SegDesc) (c : UnitCode) : UnitCode :=
  { c with motion := if d.intra then [] else c.motion.map (roundBlock d.codec) }

/-- The ration form (R122): at most the ration bound. -/
def UnitInput.ration (u : UnitInput) (bound : Nat) : UnitCode :=
  let c := Config.rationCode u
  finishCode u.d { c with bits := c.bits.take bound }

/-- The normal form: what S4 to S7 make of the mode selected. A unit for which no mode is left takes the ration form. -/
def UnitInput.normal (u : UnitInput) (cands : Cands) (bound : Nat) : UnitCode :=
  match u.select cands with
  | some m => finishCode u.d (Config.fullCode u m).2
  | none => u.ration bound

/-! ### Samples of a segment (R64, R154) -/

/-- Bits above the depth are 0 (R64). -/
def depthMask (d10 : Bool) (v : Nat) : BitVec 16 := BitVec.ofNat 16 (v % (2 * midLevel d10))

/-- The area of a segment in plane `i`. -/
def SegDesc.planeArea (d : SegDesc) (i : Nat) : Rect :=
  if i = 0 then d.area
  else if d.c422 then ⟨d.area.x / 2, d.area.y, chromaW d.area.w, d.area.h⟩
  else ⟨d.area.x / 2, d.area.y / 2, chromaW d.area.w, chromaH d.area.h false⟩

/-- The samples of plane `i` of an area in raster order. -/
def rasterOf (d10 : Bool) (r : Rect) (f : Nat → Nat → Nat) : List (BitVec 16) :=
  (List.range (r.w * r.h)).map fun i => depthMask d10 (f (r.x + i % r.w) (r.y + i / r.w))

/-- The samples that SEG_CRC runs over: those of the segment within the cropped picture. -/
def SegDesc.samples (d : SegDesc) (f : Nat → Nat → Nat → Nat) : Samples :=
  ⟨rasterOf d.depth10 (d.planeArea 0) (f 0), rasterOf d.depth10 (d.planeArea 1) (f 1), rasterOf d.depth10 (d.planeArea 2) (f 2)⟩

/-- A list of samples cut to an area: as many as it has, none above the depth. -/
def fitList (d10 : Bool) (r : Rect) (l : List (BitVec 16)) : List (BitVec 16) :=
  (List.range (r.w * r.h)).map fun i => depthMask d10 (l.getD i 0).toNat

/-- Samples that an undetected fault made, in the place of those of an area. -/
def SegDesc.fit (d : SegDesc) (s : Samples) : Samples :=
  ⟨fitList d.depth10 (d.planeArea 0) s.luma, fitList d.depth10 (d.planeArea 1) s.cb, fitList d.depth10 (d.planeArea 2) s.cr⟩

/-- The samples of a run (R64): what its coded data give, unless an undetected fault made others. -/
def SegDesc.result (d : SegDesc) (code : List Bool) (refs : List Picture) (upset : Option Samples) : Samples :=
  match upset with
  | some s => d.fit s
  | none => d.samples (Config.segSample d code refs)

/-- Put the samples of an area into a plane. -/
def putArea (p : Plane) (r : Rect) (l : List (BitVec 16)) : Plane :=
  planeOf p.w p.h fun x y =>
    if rectHas r x y then (l.getD ((y - r.y) * r.w + (x - r.x)) 0).toNat else planeAt p x y

/-- Put the samples of a segment into a reconstruction (R62). -/
def putSamples (p : Picture) (d : SegDesc) (s : Samples) : Picture :=
  { p with luma := putArea p.luma (d.planeArea 0) s.luma, cb := putArea p.cb (d.planeArea 1) s.cb,
           cr := putArea p.cr (d.planeArea 2) s.cr }

/-! ### Bytes -/

/-- Bits as bytes, the first bit the most significant; the last byte is filled with zeros (R62: byte-aligned). -/
def packBits : Nat → List Bool → List Byte
  | 0, _ => []
  | n + 1, l =>
    BitVec.ofNat 8 ((List.range 8).foldl (fun v i => 2 * v + (l.getD i false).toNat) 0) :: packBits n (l.drop 8)

def codeBytes (l : List Bool) : List Byte := packBits (ceilDiv l.length 8) l

/-- A unit with its fields of fixed length at 0, on which its size depends (R120: H(n) is exact when a picture enters
coding). -/
def StreamUnit.shape : StreamUnit → StreamUnit
  | .params p => .params { p with delays := p.delays.map fun _ => (0, 0) }
  | .message c (.buffering _) => .message c (.buffering 0)
  | u => u

/-- The bytes of a unit. Those of the delimiters are in the codec standards: a start code of four bytes, with an access unit
delimiter under AUD; for AV1 a temporal delimiter OBU (R83; PRESUMED headers, log 76). -/
def StreamUnit.bytes (u : StreamUnit) : List Byte :=
  let body := (List.range (Config.unitLength u.shape)).map (Config.unitByte u)
  match u with
  | .delimiter codec aud =>
    if codec = 3 then [0x12, 0]
    else [0, 0, 0, 1] ++
      if aud then (match codec with | 0 => [0x09] | 1 => [0x46, 0x01] | _ => [0x00, 0xA1]) ++ body else []
  | _ => body

/-- Size in bits of what Quartz writes (R120). -/
def unitsBits (l : List StreamUnit) : Nat := 8 * (l.flatMap (·.bytes)).length

/-- The length of a leb128 number. -/
def leb128 : Nat → Nat → List Byte
  | 0, _ => []
  | n + 1, v => if v < 128 then [BitVec.ofNat 8 v] else BitVec.ofNat 8 (128 + v % 128) :: leb128 n (v / 128)

/-- The filler unit of `n` bytes (R118): start code, header, 0xFF payload, trailing bits; or a padding OBU, whose payload the
spec does not give. -/
def fillerData (codec n : Nat) (free : Nat → Byte) : List Byte :=
  if n = 0 then []
  else
    let nal (hdr : List Byte) : List Byte := [0, 0, 0, 1] ++ hdr ++ List.replicate (n - 5 - hdr.length) 0xFF ++ [0x80]
    match codec with
    | 0 => nal [0x0C]
    | 1 => nal [0x4C, 0x01]
    | 2 => nal [0x00, 0x69]
    | _ =>
      let size := if n < 2 + 128 then 1 else if n < 3 + 2 ^ 14 then 2 else if n < 4 + 2 ^ 21 then 3 else 4
      let payload := n - 1 - size
      let len := leb128 8 payload
      let pad := if len.length < size then (len.dropLast ++ [len.getLastD 0 ||| 128]) ++ List.replicate (size - len.length - 1) 128 ++ [0]
        else len
      [0x7A] ++ pad ++ (List.range payload).map free

end Machine

end Sys2Proof
end

