-- ==== Sys2Proof/Machine/Banks.lean ====
section
/-! DEFINITION. The MICA banks as units (R93, R98, R101, R105, R106, R374): their tiles and the search units that these
take, the jobs they hold, and how they drain, calibrate and serve. -/

namespace Sys2Proof.Machine

/-- Pages of the encode engines, decode engines and PPUs. -/
def eePage (n : Nat) : Nat := 0xA0 + n
def dePage (n : Nat) : Nat := 0xC0 + n
def ppuPage (n : Nat) : Nat := 0xF0 + n
def micaPage (n : Nat) : Nat := 0xE0 + n
def qzPage (n : Nat) : Nat := 0xE8 + n

def eePages : List Nat := (List.range 18).map eePage
def dePages : List Nat := (List.range 18).map dePage
def ppuPages : List Nat := (List.range 8).map ppuPage

/-- UNIT_RETIRED and UNIT_ADMITTED in CHIP.IRQ_STATUS (R169). -/
def unitRetired (s : State) : State := setIrq s 0 (2 ^ 8)
def unitAdmitted (s : State) : State := setIrq s 0 (2 ^ 9)

/-- The unit of a domain has had work just now (R303). -/
def noteUse (s : State) (d : Nat) : State := modDom s d ({ · with lastUse := s.devtime })

/-- Set the search jobs a bank holds. -/
def setJobs (s : State) (b : Nat) (j : List SegId) : State :=
  fset (noteUse (modBank s b fun x => { x with jobs := j, work := x.work.filter fun w => j.contains w.seg }) (37 + b))
    (micaPage b) F.MICA_STATUS_JOBS j.length

/-- A bank that may take jobs (R98, R101). -/
def bankServes (s : State) (b : Nat) : Bool :=
  usable s (micaPage b) && !(getBank s b).wantCal && !(getBank s b).wantOut

/-- A bank is in service, though it may be draining or in a block reset (R99, R101, R320). -/
def anyBank (s : State) : Bool := (List.range 4).any fun b => blkInService s (micaPage b)

/-- Every segment that waits for a record, in digital fallback where no bank is in service (R99, R101). -/
def noBankFallback (s : State) : State :=
  if anyBank s then s
  else
    ctxList.foldl (fun s c => modCtx s c fun x => { x with
      pics := x.pics.map fun p => { p with
        segs := p.segs.map fun g => if g.phase = .waitRecord then { g with digital := true, phase := .eligible } else g } }) s

/-- Set bits of a 32-bit mask. -/
def popCount (v : Nat) : Nat := ((List.range 32).filter fun i => v.testBit i).length

def tilesOn (s : State) (b : Nat) : Nat := popCount (fget s (micaPage b) F.MICA_TILE_EN_EN)

def minTiles (s : State) (b : Nat) : Nat := fget s (micaPage b) F.MICA_MIN_TILES_MIN

def bankState (s : State) (b : Nat) : Nat := fget s (micaPage b) F.MICA_STATUS_STATE

/-- TILES, RATE.FACTOR and DEGRADED follow the enabled tiles and the state (R105). -/
def syncBank (s : State) (b : Nat) : State :=
  let p := micaPage b
  let n := tilesOn s b
  let st := bankState s b
  let reserved := fbit s p F.MICA_STATUS_DRIFT_BUSY &&
    (fget s p F.MICA_TILE_EN_EN).testBit (fget s p F.MICA_STATUS_DRIFT_TILE)
  let s := fset (fset s p F.MICA_STATUS_TILES n) p F.MICA_RATE_FACTOR
    (if st = 2 then 16 * (n - if reserved then 1 else 0) else 0)
  fsetb s p F.HDR_BLK_READY_DEGRADED (blkInService s p && n < 32)

/-- A bank enters state `st` of STATUS.STATE; `code` is the STATE of BLK_READY (R350). -/
def setBank (s : State) (b st code : Nat) : State :=
  let p := micaPage b
  let was := blkInService s p
  let now := st == 2 || st == 3
  let changed := bankState s b != st
  let s := fset (fset (fsetb s p F.HDR_BLK_READY_IN_SERVICE now) p F.HDR_BLK_READY_STATE code) p F.MICA_STATUS_STATE st
  let s := syncBank s b
  let s := if changed then setIrq s p 8 else s
  if was && !now then noBankFallback (unitRetired s) else if !was && now then unitAdmitted s else s

/-- A bank that drains and holds no job does what it drains for: it calibrates, or it is out (R101, R105, R106). -/
def bankDrained (s : State) (b : Nat) : State :=
  let x := getBank s b
  if x.jobs != [] then s
  else if x.wantCal then
    let s := modBank s b ({ · with wantCal := false, wantOut := false })
    setBank (requestWake (fset s (micaPage b) F.MICA_SVC_CTL_CAL_REQ 0) (domainOf (micaPage b))) b 1 1
  else if x.wantOut then setBank (modBank s b ({ · with wantOut := false })) b 0 5
  else s

/-- A bank drains: to calibrate, or to leave (R101). -/
def drainBank (s : State) (b : Nat) (cal : Bool) : State :=
  let s := modBank s b fun x => { x with wantCal := x.wantCal || cal, wantOut := x.wantOut || !cal }
  let s := if bankState s b = 2 then setBank s b 3 4 else s
  bankDrained s b

/-- CAL_REQ (R106): ignored while CALIBRATING. The bank returns to service by itself. -/
def requestCal (s : State) (b : Nat) : State :=
  if bankState s b = 1 then s else drainBank (modBank s b ({ · with autoBack := true })) b true

/-- RETIRE of a bank (R374). -/
def retireBank (s : State) (b : Nat) : State := if bankState s b = 2 then drainBank s b false else s

/-- ADMIT of a bank (R374): a bank whose domain is off wakes first (R298), and serves meanwhile as an idle bank does. -/
def admitBank (s : State) (b : Nat) : State :=
  if bankState s b = 0 ∧ blkReady s (micaPage b) ∧ minTiles s b ≤ tilesOn s b then
    setBank (requestWake s (domainOf (micaPage b))) b 2 2
  else s

/-- A bank in service with too few tiles leaves at that moment, and finishes the jobs in hand (R105). -/
def checkTiles (s : State) (b : Nat) : State :=
  let s := syncBank s b
  if tilesOn s b < minTiles s b && blkInService s (micaPage b) then
    let s := if bankState s b = 2 then drainBank s b false
      else if (getBank s b).wantCal then s else modBank s b ({ · with wantOut := true })
    if blkInService s (micaPage b) then
      noBankFallback (unitRetired (syncBank (fsetb s (micaPage b) F.HDR_BLK_READY_IN_SERVICE false) b))
    else s
  else s

/-- Take jobs from a bank; one that drains may then be done (R101). -/
def takeJobs (s : State) (b : Nat) (keep : List SegId) : State := bankDrained (setJobs s b keep) b

/-! ### Tiles (R93, R98) -/

/-- A tile that takes search units: enabled, and not reserved for a drift check (R105, R106). -/
def tileTakes (s : State) (b t : Nat) : Bool :=
  let p := micaPage b
  (fget s p F.MICA_TILE_EN_EN).testBit t &&
    !(fbit s p F.MICA_STATUS_DRIFT_BUSY && fget s p F.MICA_STATUS_DRIFT_TILE == t)

/-- DEVTIME at which the unit of a tile ends. -/
def tileEnd (x : Bank) (t : Nat) : Nat := x.tiles.getD t 0

/-- Tiles of a bank that are free now (R98). -/
def tilesFree (s : State) (b : Nat) : Nat :=
  ((List.range 32).filter fun t => tileTakes s b t && decide (tileEnd (getBank s b) t ≤ s.devtime)).length

/-- The job that a bank starts a unit of (R98): the nearest deadline, then the order of issue. -/
def workNext (l : List BankJob) : Option BankJob := leastBy (·.due) (l.filter (0 < ·.left))

/-- The tile that is free first. -/
def tileNext (s : State) (b : Nat) : Option Nat :=
  leastBy (tileEnd (getBank s b)) ((List.range 32).filter (tileTakes s b))

/-- Give one search unit to a tile, where one has become free by now; a pass takes 40 ns (R93). -/
def giveUnit (s : State) (b : Nat) : Option State :=
  let x := getBank s b
  match tileNext s b, workNext x.work with
  | some t, some w =>
    let start := max (max (tileEnd x t) w.start) (getDom s (37 + b)).since
    if s.devtime < start then none
    else
      let ends := start + 40 * w.passes
      let p := micaPage b
      let s := modBank s b fun x => { x with
        tiles := ((List.range 32).map (tileEnd x)).set t ends
        work := x.work.map fun y => if y.seg = w.seg then { y with left := y.left - 1, ends := max y.ends ends } else y }
      let s := qset s p F.MICA_CNT_PASS_LO_LO (qget s p F.MICA_CNT_PASS_LO_LO + w.passes)
      some (countEv (countEv s (432 + 8 * b) w.passes) (433 + 8 * b) w.positions)
  | _, _ => none

def giveUnits (b : Nat) : Nat → State → State
  | 0, s => s
  | n + 1, s => match giveUnit s b with
    | some t => giveUnits b n t
    | none => s

/-- The tiles of a bank take the units that they have had time for. -/
def bankTick (s : State) (b : Nat) : State :=
  if domOn s (37 + b) then giveUnits b ((getBank s b).work.map (·.left)).sum s else s

/-- Every unit of a job has ended. -/
def jobEnded (s : State) (b : Nat) (x : SegId) : Bool :=
  (getBank s b).work.all fun w => w.seg != x || (w.left == 0 && decide (w.ends ≤ s.devtime))

end Sys2Proof.Machine
end

