-- ==== Sys2Proof/Machine/Slots.lean ====
section
/-! DEFINITION. The pipeline slots of the engines (R341, R342): work slots held per item until its fate is known, and the
other classes. The model has no cycles: how many slots pass is a free value, put in where an item leaves its engine and where
a counter is read (log 60). -/

namespace Sys2Proof.Machine

def Job.ctx : Job → Nat
  | .segment x => x.ctx.val
  | .part c _ _ => c
  | .verify x => x.ctx.val
  | .boundary x => x.ctx.val
  | .lookahead c _ => c
  | .ppu d _ => d

/-- First counter of an engine (R340). -/
def slotBase (page : Nat) : Nat := if page < dePage 0 then 12 * (page - eePage 0) else 216 + 12 * (page - dePage 0)

/-- A counter falls by `n`, modulo 2^48. -/
def uncount (s : State) (i n : Nat) : State := countEv s i (2 ^ 48 - n % 2 ^ 48)

/-- Slots of class `j` of an engine pass (R341): they count in SLOTS too. -/
def passSlots (s : State) (page j n : Nat) : State := countEv (countEv s (slotBase page) n) (slotBase page + j) n

/-- An item works for `n` slots (R342): they are held in PENDING. -/
def workSlots (s : State) (page n : Nat) (j : Job) : State :=
  let s := passSlots s page 3 n
  { s with perf := { s.perf with work := (page, j, n) :: s.perf.work } }

/-- What an engine holds has worked. -/
def accrue (s : State) (page : Nat) : State :=
  let h := (getEng s page).held
  useFrees (((List.range h.length).zip h).foldl (fun s e => workSlots s page (Config.freeValue (s.free + e.1)) e.2.job) s)
    h.length

/-- The fate of one held entry is known: RETIRED, or WASTED. -/
def settleWork (good : Bool) (s : State) (e : Nat × Job × Nat) : State :=
  countEv (uncount s (slotBase e.1 + 3) e.2.2) (slotBase e.1 + if good then 1 else 2) e.2.2

/-- The fate of the items that `p` picks is known (R342). -/
def settleItems (s : State) (p : Job → Bool) (good : Bool) : State :=
  let s := (s.perf.work.filter fun e => p e.2.1).foldl (settleWork good) s
  { s with perf := { s.perf with work := s.perf.work.filter fun e => !p e.2.1 } }

def settleItem (s : State) (j : Job) (good : Bool) : State := settleItems s (fun k => decide (k = j)) good

/-- Slots of an item, which it has worked for just now, are wasted: it goes on (R342, ration form). -/
def wasteSlots (s : State) (page : Nat) : State := useFree (passSlots s page 2 (freeNat s))

/-- An engine's domain is up, or has been since the counters were last read (R339). -/
def ranSince (s : State) (page : Nat) : Bool :=
  let d := domainOf page
  domState s d == 2 || domState s d == 3 || s.perf.seen ≤ (getDom s d).since

/-- The slots of one engine since the counters were last read. -/
def observeOne (s : State) (page : Nat) : State :=
  if !ranSince s page then s
  else
    let s := accrue s page
    useFrees ((List.range 5).foldl (fun s i => passSlots s page (4 + i) (Config.freeValue (s.free + i))) s) 5

/-- The slots of every engine up to now: before a counter is read. -/
def observeSlots (s : State) : State :=
  let s := (eePages ++ dePages).foldl observeOne s
  { s with perf := { s.perf with seen := s.devtime } }

end Sys2Proof.Machine
end

