-- ==== Sys2Proof/Machine/CtxOps.lean ====
section
/-! DEFINITION. Shared operations on a context: its state, the jobs it has on units, its outputs and the buffers they
take (R36, R86, R151), the order of SUBMIT completions (R45), links (R52, R53), the change of settings (R44, R49), the
drain (R47), and becoming FREE (R48, R55). -/

namespace Sys2Proof.Machine

def ctxState (s : State) (c : Nat) : Nat := fget s (ctxPage c) F.CTX_STATE_STATE

def setCtxState (s : State) (c v : Nat) : State := fset s (ctxPage c) F.CTX_STATE_STATE v

def ctxKind (s : State) (c : Nat) : Nat := fget s (ctxPage c) F.CTX_STATE_KIND

def ctxClass (s : State) (c : Nat) : Nat := fget s (ctxPage c) F.CTX_STATE_CLASS

def isEncode (s : State) (c : Nat) : Bool := ctxKind s c == 0

/-! ### Jobs on units -/

/-- The work in the first stage of a unit: what it began last, or else the head of what it holds. -/
def frontJob (h : List Held) : Option Held := (h.reverse.find? (·.begun)) <|> h.head?

/-- STATUS.FALLBACK of an encode engine, with FALLBACK_ENTER and FALLBACK_EXIT (R100, R375). -/
def syncFallback (s : State) (page : Nat) (fb : Bool) : State :=
  if fbit s page F.EE_STATUS_FALLBACK = fb then s
  else setIrq (fsetb s page F.EE_STATUS_FALLBACK fb) page (if fb then 4 else 8)

/-- Busy, context and kind of work in a unit's STATUS register. -/
def syncUnit (s : State) (page : Nat) : State :=
  let h := (getEng s page).held
  let busy := h != []
  let c := ((frontJob h).map fun x => x.job.ctx).getD 0
  let ver := h.head?.any fun x => match x.job with
    | .verify _ | .boundary _ => true
    | _ => false
  let codec := active s c F.CTX_CFG_STREAM_CODEC
  match kindOf page with
  | .ee => syncFallback (fset (fset (fsetb s page F.EE_STATUS_BUSY busy) page F.EE_STATUS_CTX c) page F.EE_STATUS_CODEC
      (if busy then codec else 0)) page ((frontJob h).any fun x => x.begun && x.fb)
  | .de => fset (fset (fsetb (fsetb s page F.DE_STATUS_BUSY busy) page F.DE_STATUS_VERIFY ver) page F.DE_STATUS_CTX c)
      page F.DE_STATUS_CODEC (if busy then codec else 0)
  | .ppu => fset (fsetb s page F.PPU_STATUS_BUSY busy) page F.PPU_STATUS_CTX c
  | _ => s

/-- Set the work a unit holds. -/
def setHeld (s : State) (page : Nat) (h : List Held) : State :=
  syncUnit (noteUse (modEng s page ({ · with held := h })) (domainOf page)) page

/-- A unit has retired work of a context (R161). -/
def retiredOn (s : State) (c page : Nat) : State :=
  modCtx s c fun x => { x with lastOn := page :: x.lastOn.filter (· != page) }

/-- Work slots of a unit are held where it is an engine (R342). -/
def accrueOn (s : State) (page : Nat) : State := if page < ppuPage 0 then accrue s page else s

/-- Take every job of a context from the units that hold it. -/
def dropJobs (s : State) (c : Nat) : State :=
  let s := (eePages ++ dePages ++ ppuPages).foldl (fun s p =>
    let h := (getEng s p).held
    let keep := h.filter fun x => x.job.ctx != c
    if keep = h then s else setHeld (accrueOn s p) p keep) s
  let s := settleItems s (fun j => j.ctx == c) false
  (List.range 4).foldl (fun s b =>
    let j := (getBank s b).jobs
    let keep := j.filter fun x => x.ctx.val != c
    if keep = j then s else takeJobs s b keep) s

/-! ### Outputs -/

/-- Bytes of a list of words. -/
def wordBytes (ws : List Nat) : List Byte := ws.flatMap (leBytes 4)

/-- Outputs that wait for a Talus buffer take one each, in order, while one is free (R36); the parts of one output each
take a P7 buffer (R86, R151). -/
def pumpParts (s : State) (c : Nat) : List OutPart → State
  | [] => fset (modCtx s c ({ · with outWait := [] })) (ctxPage c) F.CTX_STATE_OUT_WAIT 0
  | p :: ps =>
    let r := talusAlloc s (if p.split then 7 else poolFor (64 + p.bytes)) .bits (ctxOwner s c) true
    if r.1 = nullHandle then
      let s := modCtx r.2 c ({ · with outWait := p :: ps })
      if fbit s (ctxPage c) F.CTX_STATE_OUT_WAIT then s
      else setIrq (fset s (ctxPage c) F.CTX_STATE_OUT_WAIT 1) (ctxPage c) 4
    else
      let s := memWriteN r.2 (bufAddr r.2 r.1) (wordBytes p.record ++ p.data)
      let e : CqEntry :=
        ⟨p.status, 1, p.seq % 65536, c, ctxGen s c, 0, s.devtime, r.1, 64 + p.bytes, p.info2, p.more, none⟩
      pumpParts (postEntry s (ctxRing s c) e) c ps

def pumpOut (s : State) (c : Nat) : State := pumpParts s c (getCtx s c).outWait

/-- Add the parts of one output to those that wait, and let them take buffers. -/
def putParts (s : State) (c : Nat) (ps : List OutPart) : State :=
  pumpOut (modCtx s c fun x => { x with outWait := x.outWait ++ ps }) c

/-- Shares of the parts of `n` payload bytes (R86, R151). -/
def partShares (n : Nat) : List Nat :=
  let most := 2 ^ 22 - 64
  if n ≤ most then [n]
  else List.replicate ((n - 1) / most) most ++ [n - (n - 1) / most * most]

/-- The share of part `i` in the bytes of an output (R86, R151). -/
def partData (data : List Byte) (shares : List Nat) (i : Nat) : List Byte :=
  (data.drop (shares.take i).sum).take (shares.getD i 0)

/-- Outputs that wait are retried at a free (R252). -/
def retryOutputs (s : State) : State :=
  ctxList.foldl (fun s c => if (getCtx s c).outWait = [] then s else pumpOut s c) s

/-! ### SUBMIT completions -/

/-- A completion counts as degraded (CNT_DEGRADED). -/
def countStatus (s : State) (c status : Nat) : State :=
  if status = stDegraded then fadd s (ctxPage c) F.CTX_CNT_DEGRADED_COUNT 1 else s

/-- Complete a command of a context, if one stands behind the reference (a picture of a link has none). -/
def refDone (s : State) (c : Nat) (ref : CmdRef) (status i0 i1 i2 : Nat) (after : Option Turn := none) : State :=
  if ref.op = 0 then s else countStatus (cmdDone s ref status i0 i1 i2 after) c status

/-- The reference of a picture that no SUBMIT carries. -/
def noRef : CmdRef := ⟨0, 0, 0, 0, 0⟩

/-- Write the SUBMIT completions that are due, in submission order (R45). -/
def flushSubmits (s : State) (c : Nat) : State :=
  let due := (getCtx s c).submits.takeWhile (·.done.isSome)
  let s := due.foldl (fun s x =>
    match x.done with
    | some e => refDone s c x.ref e.status e.i0 e.i1 e.i2 (some ⟨x.num, e.out⟩)
    | none => s) s
  modCtx s c fun x => { x with submits := x.submits.dropWhile (·.done.isSome) }

/-- A submission has earned its completion; `out`: the number of the output that its input gave, on the context's ring. -/
def submitDone (s : State) (c num status i0 i1 i2 : Nat) (out : Option Nat := none) : State :=
  let o := out.map fun n => (ctxRing s c, n)
  flushSubmits (modCtx s c fun x => { x with
    submits := x.submits.map fun y => if y.num = num then { y with done := some ⟨status, i0, i1, i2, o⟩ } else y }) c

/-- Every submission that has not earned a completion completes with `status` (R39, R48). -/
def failSubmits (s : State) (c status : Nat) : State :=
  flushSubmits (modCtx s c fun x => { x with
    submits := x.submits.map fun y => if y.done.isSome then y else { y with done := some ⟨status, 0, 0, 0, none⟩ } }) c

/-- Change one submission of a context. -/
def modSubmit (s : State) (c n : Nat) (f : Submit → Submit) : State :=
  modCtx s c fun x => { x with submits := x.submits.map fun u => if u.num = n then f u else u }

/-! ### Links -/

/-- Destination of slot `i` of a source, if it holds one (R52). -/
def linkDst (s : State) (c i : Nat) : Option Nat :=
  if (fget s (ctxPage c) F.CTX_LINK_VALID_VALID).testBit i then
    some (bitsOf (rget s (ctxPage c) (0x220 + 4 * (i / 4))) (8 * (i % 4)) 8)
  else none

/-- Source of a destination (R52). -/
def linkSrc (s : State) (c : Nat) : Option Nat :=
  if fbit s (ctxPage c) F.CTX_LINK_SRC_VALID then some (fget s (ctxPage c) F.CTX_LINK_SRC_SRC) else none

def linkDsts (s : State) (c : Nat) : List Nat := (List.range 8).filterMap (linkDst s c)

/-- Write a slot of a source's link map. -/
def setLinkSlot (s : State) (c i d : Nat) (valid : Bool) : State :=
  let o := 0x220 + 4 * (i / 4)
  let s := rset s (ctxPage c) o (splice (rget s (ctxPage c) o) (8 * (i % 4)) 8 d)
  fset s (ctxPage c) F.CTX_LINK_VALID_VALID
    (splice (fget s (ctxPage c) F.CTX_LINK_VALID_VALID) i 1 (if valid then 1 else 0))

/-- Free a slot of a source: the link of the destination ends. -/
def freeSlot (s : State) (c i : Nat) : State :=
  match linkDst s c i with
  | none => s
  | some d =>
    let s := setLinkSlot s c i 0 false
    modCtx (rset s (ctxPage d) F.CTX_LINK_SRC_SRC.off 0) d ({ · with linkOn := false, linkOld := [] })

/-- Remove every link that touches a context (R53, R55). -/
def unlinkAll (s : State) (c : Nat) : State :=
  let s := (List.range 8).foldl (fun s i => freeSlot s c i) s
  if fbit s (ctxPage c) F.CTX_LINK_SRC_VALID then
    freeSlot s (fget s (ctxPage c) F.CTX_LINK_SRC_SRC) (fget s (ctxPage c) F.CTX_LINK_SRC_SLOT)
  else s

/-- A source ends its stream (R53, R37, R58): every destination receives SOURCE_END and waits for a RAP; `quiet`: no
entry is written (R55). -/
def sourceEnd (s : State) (c : Nat) (quiet : Bool := false) : State :=
  (linkDsts s c).foldl (fun s d =>
    let s := setIrq (modCtx s d ({ · with linkOn := false, linkOld := [] })) (ctxPage d) 8
    if quiet then s else postEvent s d 2 stOk c) s

/-! ### Settings -/

/-- The status fields that follow the active set of an encode context. -/
def syncDerived (s : State) (c : Nat) : State :=
  if isEncode s c then
    let g := active s c
    let p := ctxPage c
    let s := fset (fset s p F.CTX_ENC_STAT_COLS g.strips.length) p F.CTX_ENC_STAT_DPB_PICS g.dpb
    let s := fset s p F.CTX_PLACE_XSTAT_SEGS g.segCount
    let s := fset s p F.CTX_RC_STAT_EFFORT_NOW (min 3 (g F.CTX_ENC_TOOLS_EFFORT + (getCtx s c).effCut))
    fset s p F.CTX_RC_STAT_LA_NOW
      (if (getCtx s c).laCut then min g.laDepth (g F.CTX_RC_XLA_LA_MIN) else g.laDepth)
  else s

/-- Make words the active set of a context, with the level that they select (R44, R49, R69). -/
def takeSet (s : State) (c : Nat) (words : Tbl Word) : State :=
  let s := setActive s c words
  modCtx s c ({ · with levelCode := if isEncode s c then (activeRaw s c).lvl.code else 0 })

/-- Replace the active set and the reservation as one act (R44), or nothing where the memory cannot be had. -/
def replaceSet (s : State) (c : Nat) (words : Tbl Word) (g : Get) : Option State :=
  let x := getCtx s c
  (reserve (freeAll s (x.mem ++ x.oldMem)) (ctxOwner s c) (ctxKind s c) g).map fun r =>
    syncDerived (takeSet (modCtx r.2.2 c ({ · with mem := r.1, memKiB := r.2.1, oldMem := [] })) c words) c

/-- The values of the rate model of a set (R115, R117). -/
def Get.rateSet (g : Get) : RateSet := ⟨g.num, g.fill, g.bs, g.R, g.cbr⟩

/-- Carry the fullness of the rate model over to new values of the cap and the rate (R115, R131). -/
def carryFill (old new : RateSet) (f : Int) : Int :=
  min (f / (max 1 old.num : Nat)) ((new.bs / max 1 new.num : Nat) : Int) * (new.num : Int)

/-- Fields whose change acts on the rate model: CFG_RATE, RC_CAP and RC_BUF (R115). -/
def rateOffs : List Nat := [0x48, 0xC4, 0xC8]

/-- A pending RECONFIG becomes the active set (R49). -/
def applyReconf (s : State) (c : Nat) : State :=
  let x := getCtx s c
  match x.reconf with
  | none => s
  | some ref =>
    let s0 := s
    let s := takeSet s c x.snapshot
    let changed := rateOffs.any fun o => rget s0 (ctxPage c) (o + 0x200) != rget s (ctxPage c) (o + 0x200)
    let s := modCtx s c fun y => { y with
      reconf := none, snapshot := [], carries := y.carries || changed,
      oldMem := if y.pendMem = [] then y.oldMem else y.oldMem ++ y.mem, oldUpto := if y.pendMem = [] then y.oldUpto else y.picCount,
      mem := if y.pendMem = [] then y.mem else y.pendMem,
      memKiB := if y.pendMem = [] then y.memKiB else y.pendKiB, pendMem := [], pendKiB := 0 }
    refDone (syncDerived (fset s (ctxPage c) F.CTX_STATE_RECONFIG_PENDING 0) c) c ref stOk 0 0 0

/-- A pending RECONFIG completes ABORTED and its reservation is released (R48, R49). -/
def abortReconf (s : State) (c : Nat) : State :=
  let x := getCtx s c
  match x.reconf with
  | none => s
  | some ref =>
    let s := freeAll s x.pendMem
    let s := modCtx s c ({ · with reconf := none, snapshot := [], pendMem := [], pendKiB := 0 })
    refDone (fset s (ctxPage c) F.CTX_STATE_RECONFIG_PENDING 0) c ref stAborted 0 0 0

/-- No picture that was coded or decoded before the last change of the settings is in the context. -/
def oldGone (x : Ctx) : Bool :=
  x.pics.all (x.oldUpto ≤ ·.num) && x.encRefs.all (x.oldUpto ≤ ·.num) && x.decs.all (x.oldUpto ≤ ·.num) &&
    x.decRefs.all (x.oldUpto ≤ ·.num)

/-- Buffers of an old set are released once no picture coded under it is in the context (R49). -/
def dropOldMem (s : State) (c : Nat) : State :=
  let x := getCtx s c
  if x.oldMem ≠ [] ∧ oldGone x then
    retryOutputs (modCtx (freeAll s x.oldMem) c ({ · with oldMem := [] }))
  else s

/-- Put the values of a SET_RATE into a set of settings, at register offsets moved by `d` (R130). -/
def writeRate (s : State) (c d : Nat) (r : RatePend) : State :=
  let put (s : State) (row : Row) (v : Option Nat) : State :=
    match v with
    | none => s
    | some v => rset s (ctxPage c) (row.off + d) (splice (rget s (ctxPage c) (row.off + d)) row.lo row.width v)
  put (put (put s F.CTX_RC_CAP_CAP_RATE r.capRate) F.CTX_RC_BUF_CAP_BUFFER r.capBuf) F.CTX_RC_CTL_QI r.qi

/-- A pending SET_RATE takes effect and completes with the picture's PTS, or all ones (R131). -/
def applyRate (s : State) (c i0 i1 : Nat) : State :=
  match (getCtx s c).setRate with
  | none => s
  | some r =>
    let s := writeRate s c 0x200 r
    let s := modCtx s c fun y => { y with
      setRate := none, carries := y.carries || r.capRate.isSome || r.capBuf.isSome }
    refDone s c r.ref stOk i0 i1 0

/-- A pending SET_RATE completes ABORTED. -/
def abortRate (s : State) (c : Nat) : State :=
  match (getCtx s c).setRate with
  | none => s
  | some r => refDone (modCtx s c ({ · with setRate := none })) c r.ref stAborted 0 0 0

/-- Every pending FORCE_KEY completes ABORTED (R47, R48). At the end of a FLUSH drain R47 names those whose PTS never
arrived; one with NEXT that found no picture is completed so too (DESIGN CHOICE, log 86). -/
def abortKeys (s : State) (c : Nat) : State :=
  (getCtx s c).forced.foldl (fun s r => refDone s c r.1 stAborted 0 0 0) (modCtx s c ({ · with forced := [] }))

/-! ### Leaving -/

/-- A context becomes FREE: its links, jobs and working memory go, and its expert area locks (R48, R251, R351). -/
def freeCtx (s : State) (c : Nat) (quiet : Bool := false) : State :=
  let s := unlinkAll (dropJobs (sourceEnd s c quiet) c) c
  let x := getCtx s c
  let s := freeAll s (x.mem ++ x.pendMem ++ x.oldMem)
  let s := fset { s with ctxs := tput ctx0 s.ctxs c ctx0 } (ctxPage c) F.HDR_EXPERT_KEY_UNLOCKED 0
  let s := fset (fset s (ctxPage c) F.CTX_STATE_OUT_WAIT 0) (ctxPage c) F.CTX_STATE_RECONFIG_PENDING 0
  let s := fset (fset (setCtxState s c 0) (ctxPage c) F.CTX_STATE_OWNER 0x7F) (ctxPage c) F.CTX_HALT_CAUSE 0
  retryOutputs s

/-- A drain has nothing left to code, to commit or to hand over (R47); a source keeps its pictures until its destinations
have read them (R53, R191). -/
def drained (s : State) (c : Nat) : Bool :=
  let x := getCtx s c
  x.submits == [] && x.queued == [] && x.plan == [] && x.outWait == [] && x.linkPics == [] &&
    (if isEncode s c then x.pics == [] else x.decs.all fun p => p.output && p.readers == [])

/-- What a drain leaves: nothing of the coded stream (R47). -/
def clearStream (x : Ctx) : Ctx :=
  { x with pics := [], decs := [], queued := [], plan := [], submits := [], encRefs := [], decRefs := [], dpb := [], hdr := noHdr,
           latest := [], lumas := [] }

/-- The drain of a context ends (R47, R48): FLUSH and CLOSE complete in their order. Under a CLOSE a pending RECONFIG is
aborted. -/
def endOfDrain (s : State) (c : Nat) : State :=
  let x := getCtx s c
  let out := fget s (ctxPage c) F.CTX_CNT_OUT_COUNT
  let s := match x.flush with
    | none => s
    | some (ref, n) =>
      let s := if x.close = [] then applyRate (applyReconf s c) c 0xFFFFFFFF 0xFFFFFFFF
        else abortRate (abortReconf s c) c
      let s := abortKeys s c
      let s := refDone (modCtx s c ({ · with flush := none })) c ref stOk ((out + 2 ^ 32 - n) % 2 ^ 32) 0 0
      let s := setCtxState (dropOldMem (modCtx s c clearStream) c) c 2
      if x.close = [] then sourceEnd s c else s
  if x.close = [] then s
  else
    let s := abortKeys (abortRate (abortReconf s c) c) c
    freeCtx (x.close.foldl (fun s ref => refDone s c ref stOk 0 0 0) s) c

/-- End the drain of a context if it is DRAINING and has nothing left. -/
def checkDrain (s : State) (c : Nat) : State :=
  if ctxState s c = 4 ∧ drained s c then endOfDrain s c else s

/-- `checkDrain` for every context. -/
def checkDrains (s : State) : State := ctxList.foldl checkDrain s

end Sys2Proof.Machine
end

