-- ==== Sys2Proof/Machine/Frame.lean ====
section
/-! DEFINITION. What leaves a port, byte for byte: PES headers (R208, R209), PAT and PMT (R208), TS packets with their PCR
(R208, R211), the RTP header (R210), and the frame that a queue's template and a datagram give (R224). The layouts are
those of ISO/IEC 13818-1, RFC 768, 791, 3550 and 8200 and IEEE 802.3 and 802.1Q (log 108). -/

namespace Sys2Proof.Machine

/-- A number as `n` bytes, most significant first. -/
def beBytes (n v : Nat) : List Byte := (leBytes n v).reverse

/-- The number that bytes spell, most significant first. -/
def beNat (l : List Byte) : Nat := l.foldl (fun v b => v * 256 + b.toNat) 0

/-! ### Clocks (R209) -/

/-- STC of a service in 27 MHz units at a time. -/
def stc27 (t : Nat) : Nat := t * 27 / 1000 % (2 ^ 33 * 300)

/-- STC of a service in 90 kHz units at a time. -/
def stc90 (t : Nat) : Nat := stc27 t / 300

/-- The PCR field of an STC: 33 bits of base, six reserved ones, nine bits of extension. -/
def pcrField (stc : Nat) : Nat := stc / 300 * 2 ^ 15 + 0x3F * 2 ^ 9 + stc % 300

/-! ### PES -/

/-- A time stamp of 33 bits behind its four-bit prefix, with its marker bits. -/
def stamp (prefix_ t : Nat) : List Byte :=
  beBytes 1 (prefix_ * 16 + t / 2 ^ 30 % 8 * 2 + 1) ++ beBytes 2 (t / 2 ^ 15 % 2 ^ 15 * 2 + 1) ++
    beBytes 2 (t % 2 ^ 15 * 2 + 1)

def readStamp (l : List Byte) : Nat :=
  beNat (l.take 1) / 2 % 8 * 2 ^ 30 + beNat ((l.drop 1).take 2) / 2 * 2 ^ 15 + beNat ((l.drop 3).take 2) / 2

/-- The header of a video PES packet of `n` bytes of access unit: a PTS, and a DTS where it differs (R208). -/
def pesHeader (codec n pts dts : Nat) : List Byte :=
  let o := Config.pesOpen codec n
  let both := pts != dts
  [0, 0, 1] ++ beBytes 1 o.1 ++ beBytes 2 o.2.1 ++ beBytes 1 (0x80 + o.2.2 % 16) ++
    (if both then [0xC0, 10] ++ stamp 3 pts ++ stamp 1 dts else [0x80, 5] ++ stamp 2 pts)

/-- Audio leaves with PTS + Δ and DTS + Δ (R209): the stamps of the PES header that begins these bytes. -/
def retime (delta : Nat) (l : List Byte) : List Byte :=
  let flags := (l.getD 7 0).toNat / 64
  let put (at_ : Nat) (l : List Byte) : List Byte :=
    let old := (l.drop at_).take 5
    l.take at_ ++ stamp ((old.getD 0 0).toNat / 16) ((readStamp old + delta) % 2 ^ 33) ++ l.drop (at_ + 5)
  if l.take 3 ≠ [0, 0, 1] ∨ flags < 2 ∨ l.length < 14 then l
  else if flags = 3 ∧ 19 ≤ l.length then put 14 (put 9 l)
  else put 9 l

/-! ### PSI -/

def mpegBit (c : Nat) : Nat := if 2 ^ 31 ≤ c then (2 * c % 2 ^ 32) ^^^ 0x04C11DB7 else 2 * c

/-- CRC_32 of a section. -/
def mpegCrc (l : List Byte) : Nat :=
  l.foldl (fun c b => (List.range 8).foldl (fun c _ => mpegBit c) (c ^^^ b.toNat * 2 ^ 24)) 0xFFFFFFFF

/-- A section: table_id, its id, and what follows last_section_number. -/
def section_ (table id : Nat) (rest : List Byte) : List Byte :=
  let l := beBytes 1 table ++ beBytes 2 (0xB000 + rest.length + 9) ++ beBytes 2 id ++
    beBytes 1 (0xC1 + Config.psiVersion rest % 32 * 2) ++ [0, 0] ++ rest
  l ++ beBytes 4 (mpegCrc l)

/-- The PAT of a single-program TS (R208, R218). -/
def patSection (tsid program pmtPid : Nat) : List Byte := section_ 0 tsid (beBytes 2 program ++ beBytes 2 (0xE000 + pmtPid))

/-- The PMT (R208): the video, then the audio PIDs with their source stream_type and descriptors. The PCR is on VIDEO_PID. -/
def pmtSection (program videoPid : Nat) (streams : List PmtEntry) : List Byte :=
  section_ 2 program (beBytes 2 (0xE000 + videoPid) ++ beBytes 2 0xF000 ++ streams.flatMap fun e =>
    beBytes 1 e.streamType ++ beBytes 2 (0xE000 + e.pid % 2 ^ 13) ++ beBytes 2 (0xF000 + e.descriptors.length) ++
      e.descriptors)

/-- Payloads of the packets that carry a section: a pointer_field of 0, then the section, filled up with 0xFF. -/
def chunks : Nat → List Byte → List (List Byte)
  | 0, _ => []
  | n + 1, l => (l.take 184 ++ List.replicate (184 - l.length) 0xFF) :: chunks n (l.drop 184)

def sectionPackets (l : List Byte) : List (List Byte) := chunks (ceilDiv (l.length + 1) 184) (0 :: l)

/-- stream_type of a codec (R205): AVC, HEVC, VVC, AV1. -/
def streamType (codec : Nat) : Nat :=
  match codec with
  | 0 => 0x1B | 1 => 0x24 | 2 => 0x33 | _ => 0x06

/-- The registration descriptor of AV1 (R205). -/
def av1Registration : List Byte := [5, 4, 0x41, 0x56, 0x30, 0x31]

/-- A descriptor loop holds a descriptor; `n` bounds its length. -/
def hasDescriptor (p : Nat → List Byte → Bool) : Nat → List Byte → Bool
  | n + 1, t :: len :: rest => p t.toNat (rest.take len.toNat) || hasDescriptor p n (rest.drop len.toNat)
  | _, _ => false

/-- A PMT entry is of a codec's video (R205). -/
def entryIsVideo (e : PmtEntry) (codec : Nat) : Bool :=
  e.streamType == streamType codec &&
    (codec != 3 || hasDescriptor (fun t l => t == 5 && l.take 4 == av1Registration.drop 2) e.descriptors.length e.descriptors)

/-- A PMT entry is audio that is retained (R205): by stream_type, or 0x06 with an audio descriptor of ISO/IEC 13818-1
(PRESUMED, log 108: tags 0x03, 0x1C and 0x2B). -/
def entryIsAudio (e : PmtEntry) : Bool :=
  [0x03, 0x04, 0x0F, 0x11, 0x81].contains e.streamType ||
    e.streamType == 0x06 &&
      hasDescriptor (fun t _ => t == 0x03 || t == 0x1C || t == 0x2B) e.descriptors.length e.descriptors

/-! ### TS packets -/

/-- The 188 bytes of a TS packet with a value for its PCR. What a payload leaves free is adaptation field. -/
def TsPacket.bytes (p : TsPacket) (pcr : Nat) : List Byte :=
  if p.pid = 0x1FFF then [0x47, 0x1F, 0xFF, 0x10] ++ (List.range 184).map Config.nullByte
  else
    let room := 184 - p.data.length
    let afc := (if p.data = [] then 0 else 1) + (if room = 0 then 0 else 2)
    let field := beBytes 1 ((if p.pcr then 0x10 else 0) + Config.tsIndicators p.pid p.start % 4 * 32) ++
      (if p.pcr then beBytes 6 (pcrField pcr) else [])
    [0x47] ++ beBytes 2 ((if p.start then 0x4000 else 0) + p.pid % 2 ^ 13) ++ beBytes 1 (afc * 16 + p.cc % 16) ++
      (if room = 0 then [] else if room = 1 then [0]
        else beBytes 1 (room - 1) ++ field ++ List.replicate (room - 1 - field.length) 0xFF) ++ p.data

/-- A null packet (R208). -/
def nullPacket : TsPacket := ⟨0x1FFF, false, 0, false, []⟩

/-- Bytes of a datagram (R210). -/
def Dgram.bytes (d : Dgram) : Nat := d.head.length + 188 * d.ts.length

/-- The RTP header of a datagram (R210): version 2, marker 0, payload type, sequence number, timestamp, SSRC. -/
def rtpHeader (pt seq ts ssrc : Nat) : List Byte :=
  [0x80] ++ beBytes 1 (pt % 128) ++ beBytes 2 seq ++ beBytes 4 ts ++ beBytes 4 ssrc

/-! ### Frames (R224) -/

/-- Ones' complement sum of 16-bit words, an odd last byte padded with 0. -/
def onesSum : List Byte → Nat → Nat
  | a :: b :: t, n => onesSum t (n + a.toNat * 256 + b.toNat)
  | [a], n => n + a.toNat * 256
  | [], n => n

/-- The Internet checksum of bytes. -/
def inetSum (l : List Byte) : Nat :=
  let n := onesSum l 0
  let n := n % 65536 + n / 65536
  let n := n % 65536 + n / 65536
  65535 - (n % 65536 + n / 65536)

/-- What the port gives a frame: its addresses. -/
structure PortAddr where
  mac : Nat
  ip4 : Nat
  ip6 : Nat
  deriving DecidableEq, Repr

/-- Number in bits `lo` up of word `i` of a template. -/
def tmpl (w : List Word) (i lo n : Nat) : Nat := bitsOf (w.getD i 0).toNat lo n

def tmplV6 (w : List Word) : Bool := tmpl w 8 6 1 == 1
def tmplTagged (w : List Word) : Bool := tmpl w 7 31 1 == 1

/-- The Ethernet header: destination, source, the 802.1Q tag where TAGGED, the type. -/
def etherHeader (a : PortAddr) (w : List Word) : List Byte :=
  beBytes 6 (tmpl w 7 0 16 * 2 ^ 32 + tmpl w 6 0 32) ++ beBytes 6 a.mac ++
    (if tmplTagged w then [0x81, 0x00] ++ beBytes 2 (tmpl w 7 28 3 * 2 ^ 13 + tmpl w 7 16 12) else []) ++
    beBytes 2 (if tmplV6 w then 0x86DD else 0x0800)

/-- The two addresses of the IP header. -/
def ipAddrs (a : PortAddr) (w : List Word) : List Byte :=
  if tmplV6 w then
    beBytes 16 a.ip6 ++ beBytes 4 (tmpl w 13 0 32) ++ beBytes 4 (tmpl w 12 0 32) ++ beBytes 4 (tmpl w 11 0 32) ++
      beBytes 4 (tmpl w 10 0 32)
  else beBytes 4 a.ip4 ++ beBytes 4 (tmpl w 10 0 32)

/-- The IP header over `n` bytes of UDP: IPv4 with DF and identification 0, or IPv6 with flow label 0. The traffic class
carries DSCP above two bits of 0. -/
def ipHeader (a : PortAddr) (w : List Word) (n : Nat) : List Byte :=
  let tos := tmpl w 8 0 6 * 4
  let ttl := tmpl w 8 8 8
  if tmplV6 w then beBytes 4 (6 * 2 ^ 28 + tos * 2 ^ 20) ++ beBytes 2 n ++ [17] ++ beBytes 1 ttl ++ ipAddrs a w
  else
    let h (sum : Nat) : List Byte :=
      [0x45] ++ beBytes 1 tos ++ beBytes 2 (20 + n) ++ [0, 0, 0x40, 0] ++ beBytes 1 ttl ++ [17] ++ beBytes 2 sum ++ ipAddrs a w
    h (inetSum (h 0))

/-- The UDP header with its checksum, which is over the pseudo-header, the header and the payload; 0 is sent as ones. -/
def udpHeader (a : PortAddr) (w : List Word) (payload : List Byte) : List Byte :=
  let n := 8 + payload.length
  let h (sum : Nat) : List Byte := beBytes 2 (tmpl w 8 16 16) ++ beBytes 2 (tmpl w 9 0 16) ++ beBytes 2 n ++ beBytes 2 sum
  let sum := inetSum (ipAddrs a w ++ beBytes 4 n ++ [0, 17] ++ h 0 ++ payload)
  h (if sum = 0 then 0xFFFF else sum)

/-- Bytes of a frame before its payload. -/
def frameHead (w : List Word) : Nat := 14 + (if tmplTagged w then 4 else 0) + (if tmplV6 w then 40 else 20) + 8

/-- The payload of a frame: the datagram, the PCR of TS packet `k` by `stc k`. -/
def Dgram.payload (d : Dgram) (stc : Nat → Nat) : List Byte :=
  d.head ++ ((List.range d.ts.length).zip d.ts).flatMap fun e => e.2.bytes (stc e.1)

/-- The FCS of a frame. -/
def fcs (l : List Byte) : List Byte :=
  leBytes 4 (l.foldl (fun c b => crcByte c b.toNat) 0xFFFFFFFF ^^^ 0xFFFFFFFF)

/-- A frame from the destination MAC to the FCS (R224), its UDP checksum over the copy's own PCR values (R211). -/
def frameBytes (a : PortAddr) (w : List Word) (d : Dgram) (stc : Nat → Nat) : List Byte :=
  let payload := d.payload stc
  let l := etherHeader a w ++ ipHeader a w (8 + payload.length) ++ udpHeader a w payload ++ payload
  l ++ fcs l

/-- Counted length of a frame (R224): to the FCS, and 20 bytes of preamble and gap. -/
def countedLen (w : List Word) (d : Dgram) : Nat := frameHead w + d.bytes + 4 + 20

/-- Bits that have left the MAC when the byte with the last bit of the PCR base of TS packet `k` has: the preamble, the
headers, the packets before, and eleven bytes of the packet (R211). -/
def bitsToPcr (w : List Word) (d : Dgram) (k : Nat) : Nat := 8 * (8 + frameHead w + d.head.length + 188 * k + 11)

end Sys2Proof.Machine
end

