-- ==== Sys2Proof/Machine/Encode.lean ====
section
/-! DEFINITION. Encode pictures: the coding plan (R75–R79), the budget of a picture and its segments (R119–R121), entry
into coding, commit (R170, R171), the rate model (R115, R118) and delivery (R36, R85, R86), with the command
PICTURE_ENTER_CODING. -/

namespace Sys2Proof.Machine

/-! ### Accessors -/

def findPic (s : State) (c n : Nat) : Option Pic := (getCtx s c).pics.find? fun p => p.num == n && p.segs != []

/-- Change one picture of a context. -/
def modPic (s : State) (c n : Nat) (f : Pic → Pic) : State :=
  modCtx s c fun x => { x with pics := x.pics.map fun p => if p.num == n && p.segs != [] then f p else p }

def findSeg (s : State) (x : SegId) : Option (Pic × Seg) :=
  match findPic s x.ctx.val x.pic with
  | none => none
  | some p => p.segs[x.seg]?.map fun g => (p, g)

/-- Change one segment. -/
def modSeg (s : State) (x : SegId) (f : Seg → Seg) : State :=
  modPic s x.ctx.val x.pic fun p => { p with segs := p.segs.modify x.seg f }

/-! ### Candidate records (R95) -/

/-- What the search of a segment reads. -/
def searchJobOf (s : State) (x : SegId) (p : Pic) (g : Seg) : SearchJob :=
  let known := (getCtx s x.ctx.val).encRefs
  let a := g.desc.area
  ⟨a.x, a.y, a.w, a.h, p.planes, p.refs.map fun n => (known.find? (·.num == n)).getD noRefPic, p.effort != 3⟩

/-- The SEQ that the output record of a picture will carry (R85): pictures before it that are still to be delivered. -/
def picSeq (x : Ctx) (n : Nat) : Nat :=
  x.outSeq + (x.pics.takeWhile fun p => !(p.num == n && p.segs != [])).countP fun p => !p.sent && p.segs != []

/-- The header of a segment's record; `bank`: none for digital search. -/
def recordHead (s : State) (x : SegId) (p : Pic) (g : Seg) (bank : Option Nat) : List Nat :=
  (searchJobOf s x p g).header x.ctx.val (ctxGen s x.ctx.val) x.seg (picSeq (getCtx s x.ctx.val) x.pic) bank.isNone
    (active s x.ctx.val).repro (bank.getD 0) s.devtime

/-- Write words of a record at a byte offset. -/
def putRecord (s : State) (g : Seg) (off : Nat) (words : List Nat) : State :=
  match g.recAt with
  | none => s
  | some a => memWriteN s (a + off) (words.flatMap (leBytes 4))

/-- The record that a bank makes of its codes (R95, R96). -/
def putBankRecord (s : State) (x : SegId) (p : Pic) (g : Seg) (bank : Nat) (codes : List Nat) : State :=
  let j := searchJobOf s x p g
  putRecord s g 0 (recordHead s x p g (some bank) ++ j.entries id (j.coded codes))

/-- The regions of search unit `n` of a segment. -/
def SearchJob.unitRegions (j : SearchJob) (n : Nat) : List (Nat × Nat) :=
  let ux := n % max 1 j.unitW
  let uy := n / max 1 j.unitW
  [(2 * ux, 2 * uy), (2 * ux + 1, 2 * uy), (2 * ux, 2 * uy + 1), (2 * ux + 1, 2 * uy + 1)].filter fun r =>
    decide (r.1 < j.regW) && decide (r.2 < j.regH)

/-- The digital search writes the entries of one search unit (R100). -/
def putUnit (x : SegId) (p : Pic) (g : Seg) (j : SearchJob) (s : State) (n : Nat) : State :=
  (j.unitRegions n).foldl (fun s r =>
    (List.range j.refs.length).foldl (fun s k =>
      putRecord s g (64 + 32 * ((r.2 * j.regW + r.1) * j.refs.length + k))
        (candEntry sadCode (j.region (j.exact r.1 r.2) r.1 r.2 k))) s) s

/-- The search units whose entries S0 reads up to unit `k` of a segment: a count in raster order. -/
def unitsRead (g : Seg) (k : Nat) : Nat :=
  let per := max 1 g.desc.cols
  let wide := ceilDiv g.desc.area.w 64
  let col := min (wide - 1) (((k % per + 1) * g.desc.unit - 1) / 64)
  min g.sunits (((k / per + 1) * g.desc.unit - 1) / 64 * wide + col + 1)

/-- In digital fallback the engine writes the entries of each search unit before S0 reads them; the record is COMPLETE with
the last (R100), and a new engine writes the missing ones only (R102). -/
def writeDigital (s : State) (x : SegId) (p : Pic) (g : Seg) (k : Nat) : State :=
  if !g.digital || g.record then s
  else
    let upto := max g.written (unitsRead g k)
    let j := searchJobOf s x p g
    let all := decide (g.sunits ≤ upto)
    let head := recordHead s x p g none
    let head := if all then head else (head.set 3 (head.getD 3 0 - head.getD 3 0 % 2)).set 6 0 |>.set 7 0
    let s := ((List.range (upto - g.written)).map (g.written + ·)).foldl (putUnit x p g j) (putRecord s g 0 head)
    modSeg s x ({ · with written := upto, record := all, recDigital := all || g.recDigital })

/-- A candidate of a record, where it is valid. -/
def readCand (s : State) (a : Nat) : Option (Int × Int) :=
  if (leVal (memReadN s (a + 4) 2)).testBit 15 then
    some (signed16 (leVal (memReadN s a 2)), signed16 (leVal (memReadN s (a + 2) 2)))
  else none

/-- The candidates that S0 reads for S1, by region and by reference of the picture's lists; a reference that coarse search
did not cover has none. -/
def readRecord (s : State) (x : SegId) (p : Pic) (g : Seg) : Cands := fun rx ry k =>
  let j := searchJobOf s x p g
  match g.recAt, p.refs.findIdx? (· == p.lists.getD k 0) with
  | some a, some i =>
    (List.range 4).filterMap fun c => readCand s (a + 64 + 32 * ((ry * j.regW + rx) * p.refs.length + i) + 8 * c)
  | _, _ => []

/-- ENG_CLK in MHz now (R307). -/
def engMHz (s : State) : Nat := clkMHz (fget s 0x11 F.CLK_ENG_NOW_STEP)

def clsLive (s : State) (c : Nat) : Bool := ctxClass s c < 4

/-! ### The coding plan -/

def findSub (x : Ctx) (n : Nat) : Option Submit := (x.submits ++ x.shedSubs).find? (·.num == n)

/-- A submission has been dropped (R51). -/
def isShed (x : Ctx) (n : Nat) : Bool := x.shedSubs.any (·.num == n)

/-- The input of a context is closed: it drains, or its linked source has ended (R47, R53, R76, R119). -/
def inputClosed (s : State) (c : Nat) : Bool :=
  ctxState s c == 4 || ((active s c).input == 2 && !(getCtx s c).linkOn)

/-- A scene cut under R119: inter costs above SCENE_THRESH / 256 of the intra costs. -/
def isScene (g : Get) (la : Lookahead) : Bool := g F.CTX_RC_XLA_SCENE_THRESH * la.intra < 256 * la.inter

/-- Cases 1 to 7 of R77 for a submission: whether it is a RAP, in IDR form, a scene cut, forced. `first`: it would be
the next picture to enter coding outside a running mini-GOP. -/
structure RapCase where
  rap : Bool
  idr : Bool
  scene : Bool
  forced : Bool
  deriving DecidableEq, Repr

/-- A RECONFIG under which R80 asks for a new coded sequence. -/
def reconfBreaks (s : State) (c : Nat) : Bool :=
  (getCtx s c).reconf.isSome &&
    (let a := active s c
     let p := pendingSet s c
     [0x40, 0x44, 0x48, 0x130].any (fun o => rget s (ctxPage c) (o + 0x200) != (tget 0 (getCtx s c).snapshot o).toNat) ||
     a.struct != p.struct || a.miniLog != p.miniLog || a.numRef != p.numRef || a.highTier != p.highTier)

/-- A SET_RATE that changes the cap, pending (R131). -/
def capPending (x : Ctx) : Bool := x.setRate.any fun r => r.capRate.isSome || r.capBuf.isSome

/-- Case 6 of R77: one second of pictures has entered coding since the SET_RATE (R131). -/
def capOverdue (g : Get) (x : Ctx) : Bool :=
  x.setRate.any fun r => (r.capRate.isSome || r.capBuf.isSome) && ceilDiv g.num (max 1 g.den) ≤ r.entered

def rapCase (s : State) (c : Nat) (x : Ctx) (u : Submit) (first : Bool) : RapCase :=
  let g := active s c
  let since := u.num - x.lastRap
  let start := x.position == 0 && u.num == x.seqStart && x.picCount == 0
  let keyed := x.keySubs.contains u.num || (first && x.keyForced)
  let gir := g F.CTX_ENC_GOP2_GIR_PERIOD != 0
  let key := g F.CTX_ENC_GOP_KEY_INT
  let periodic := !gir && key != 0 && key ≤ since
  let cut := isScene g u.la && g F.CTX_ENC_GOP_SCENECUT == 1 && g F.CTX_ENC_GOP2_MIN_KEY_INT ≤ since
  let cap := first && capOverdue g x
  let hard := start || keyed || (first && x.keyNext)
  let rap := hard || periodic || cut || cap
  { rap := rap
    idr := rap && (hard || g F.CTX_ENC_GOP_RAP_TYPE == 0 || reconfBreaks s c ||
      (capPending x && g F.CTX_RC_CTL_HRD == 1))
    scene := cut
    forced := keyed || (first && x.setRate.any (·.key)) }

/-- The dyadic pyramid between output positions `lo` and `hi`: (position, TID), the earlier half first. -/
def pyramid : Nat → Nat → Nat → Nat → List (Nat × Nat)
  | 0, _, _, _ => []
  | n + 1, lo, hi, tid =>
    if hi - lo < 2 then []
    else
      let mid := (lo + hi) / 2
      (mid, tid) :: pyramid n lo mid (tid + 1) ++ pyramid n mid hi (tid + 1)

/-- The plan of a mini-GOP of the submissions `subs` in output order (R75): the last is coded first. The others are
leading pictures where it is a CRA (R78). -/
def miniGop (subs : List Nat) (anchor : RapCase) (notBefore : Nat) : List Plan :=
  let n := subs.length
  let pyr := pyramid n 0 n 1
  let top := pyr.foldl (fun m p => max m p.2) 0
  ⟨subs.getD (n - 1) 0, 0, anchor.rap, anchor.idr, anchor.scene, anchor.forced, true, false, notBefore⟩ ::
    pyr.map fun p => ⟨subs.getD (p.1 - 1) 0, p.2, false, false, false, false, decide (p.2 < top), anchor.rap, notBefore⟩

/-- A picture is not held by lookahead (R119). -/
def laPassed (s : State) (c n : Nat) : Bool := inputClosed s c || n + (active s c).laDepth < (getCtx s c).subCount

/-- A plan of one picture on its own. -/
def onePlan (n : Nat) (r : RapCase) (isRef : Bool) : List Plan :=
  [⟨n, 0, r.rap, r.idr, r.scene, r.forced, isRef, false, 0⟩]

def noRap : RapCase := ⟨false, false, false, false⟩

/-- The first RAP among queued submissions 2, 3, …: its position (from 1) and its case. -/
def nextRap (s : State) (c : Nat) (x : Ctx) : Nat → List Nat → Option (Nat × RapCase)
  | _, [] => none
  | j, n :: ns =>
    match findSub x n with
    | none => nextRap s c x (j + 1) ns
    | some u =>
      let r := rapCase s c x u false
      if r.rap then some (j, r) else nextRap s c x (j + 1) ns

/-- One picture period in ns, from the truncated 90 kHz period of R76. -/
def Get.tickPeriod (g : Get) : Nat := 90000 * g.den / max 1 g.num * 100000 / 9

/-- A refresh cycle begins with the next picture (R79). -/
def cycleDue (g : Get) (x : Ctx) : Bool :=
  let n := g F.CTX_ENC_GOP2_GIR_PERIOD
  n != 0 && decide (n ≤ x.girPos + 1)

/-- The next mini-GOP of the queue of a context (R75–R78), each picture with the time before which it may not start (R76). -/
def nextPlan (s : State) (c : Nat) (x : Ctx) : List Plan :=
  let g := active s c
  match x.queued with
  | [] => []
  | n :: rest =>
    match findSub x n with
    | none => []
    | some u =>
      let r := rapCase s c x u true
      let odd := (n - x.lastRap) % 2 == 1
      if r.rap || !g.hierB then
        let isRef := r.rap || cycleDue g x || !(g F.CTX_RC_CTL_DROPPABLE == 1 && odd)
        onePlan n r (isRef && g.struct != 3)
      else
        let size := 2 ^ g.miniLog
        let plan (k : Nat) (a : RapCase) : List Plan :=
          miniGop (x.queued.take k) a (if inputClosed s c then 0 else u.at_ + (k - 1) * g.tickPeriod)
        match nextRap s c x 1 (rest.take (size - 1)) with
        | some (j, a) => if j + 1 = size ∧ !a.idr then plan size a else plan j noRap
        | none =>
          if size ≤ x.queued.length then plan size noRap
          else if inputClosed s c then plan x.queued.length noRap
          else []

/-- The engines have computed the lookahead of a submission (R107). -/
def laOver (x : Ctx) (n : Nat) : Bool := (findSub x n).all (·.laWork == 0)

/-- The next mini-GOP, once lookahead holds none of its pictures (R119). -/
def formPlan (s : State) (c : Nat) : List Plan :=
  let x := getCtx s c
  let l := nextPlan s c x
  if l.all fun p => laPassed s c p.sub && laOver x p.sub then l else []

/-- The picture of a running mini-GOP that is to be coded as a RAP: one that FORCE_KEY selected, or the next to enter coding
(R50, R77 cases 2, 5, 6 and 7). -/
def planKey (g : Get) (x : Ctx) : Option Nat :=
  match x.plan.find? fun p => x.keySubs.contains p.sub && !(p.idr && p.forced) with
  | some p => some p.sub
  | none =>
    if x.keyNext || x.keyForced || (capOverdue g x && !x.plan.any (·.rap)) then x.plan.head?.map (·.sub) else none

/-- A RAP cuts the running mini-GOP short (R78): the pictures before it in output order form a shorter mini-GOP that is coded
first, it is coded on its own, and what follows it belongs to the next mini-GOP. -/
def cutPlan (s : State) (c : Nat) (x : Ctx) : Ctx :=
  match planKey (active s c) x with
  | none => x
  | some n =>
    match findSub x n with
    | none => x
    | some u =>
      let subs := (x.plan.map (·.sub)).foldl (fun l n => insertRank id n l) []
      let before := subs.filter (· < n)
      { x with
        plan := (if before = [] then [] else miniGop before noRap 0) ++ onePlan n (rapCase s c x u true) true
        queued := subs.filter (n < ·) ++ x.queued
        keyNext := false, keyForced := false, keySubs := x.keySubs.filter (· != n) }

/-! ### The budget -/

/-- Bytes that a segment adds to its access unit: what it committed, if the rest was not committed (R177). -/
def segData (g : Seg) : List Byte := if g.cut then (codeBytes g.code).take g.bytesOut else codeBytes g.code

/-- Bits of a committed access unit before filler (R115). -/
def picBits (p : Pic) : Nat := p.hdr + 8 * (p.segs.map fun g => (segData g).length).sum

/-- The rate model before a picture: the values in force and the fullness, carried over where they change (R115, R131). -/
def modelAt (m : RateSet × Int) (rate : RateSet) (carries : Bool) : RateSet × Int :=
  (rate, if carries then carryFill m.1 rate m.2 else m.2)

/-- The rate model after a picture. -/
def modelStep (m : RateSet × Int) (rate : RateSet) (carries : Bool) (bits : Nat) : RateSet × Int :=
  (rate, bucketStep (modelAt m rate carries).2 bits rate.num rate.fill rate.bs)

/-- Pictures that have not been delivered pass the model with their bits if they have committed, and at their full budget
otherwise (R121 step 1). -/
def modelAhead (x : Ctx) : RateSet × Int :=
  (x.pics.filter fun p => !p.sent).foldl (fun m p =>
    modelStep m p.rate p.carries (if p.done then picBits p + 8 * p.filler else p.budget)) (x.rateNow, x.fill)

/-- A(n) in bits: the fullness before the removal of a picture with these values (R121 step 1). -/
def availBits (x : Ctx) (rate : RateSet) (carries : Bool) : Nat :=
  ((modelAt (modelAhead x) rate carries).2 / (max 1 rate.num : Nat)).toNat

/-- Steps by which the picture QP rises from `q0` (R121 step 2). -/
def raiseQp (est : Nat → Nat) (hdr avail q0 room : Nat) : Nat :=
  ((List.range room).find? fun k => est (q0 + k) + hdr ≤ avail).getD room

/-- Pictures that lookahead analyses ahead (R126 step 2). -/
def laNow (x : Ctx) (g : Get) : Nat := if x.laCut then min g.laDepth (g F.CTX_RC_XLA_LA_MIN) else g.laDepth

/-- Complexities of the pictures of the lookahead window after a picture: the rest of its mini-GOP, and the queue as far as
lookahead analyses it (R118). -/
def windowAhead (x : Ctx) (g : Get) (sub : Nat) : List Nat :=
  (x.plan.map (·.sub) ++ x.queued.filter (· ≤ sub + laNow x g)).filterMap fun n =>
    (findSub x n).map fun u => u.la.cplx.sum

/-- want(n) in CBR: the share of the window's fill that the picture's complexity takes (R118). With no complexity in the
window it is the fill of one picture (DESIGN CHOICE, log 95). -/
def cbrWant (x : Ctx) (g : Get) (sub own : Nat) : Nat :=
  let ahead := windowAhead x g sub
  let total := own + ahead.sum
  let fill := g.fill / max 1 g.num
  if total = 0 then fill else fill * (ahead.length + 1) * own / total

/-- Budgets of the segments (R121 step 4). Where every complexity is 0 the proportion has no value: all of the share is then
what truncation leaves, and goes to the last segment (DESIGN CHOICE, log 95). -/
def segBudgets (free r : Nat) (gs : List Geom) (cplx : List Nat) : List Nat :=
  let cs := (List.range gs.length).map fun i => cplx.getD i 0
  let total := cs.sum
  let shares := cs.map fun x => if total = 0 then 0 else free * x / total
  let spare := free - shares.sum
  (List.range gs.length).map fun i =>
    (gs.getD i ⟨0, 0, 0, 0, 0⟩).units * r + endBound + shares.getD i 0 + (if i + 1 = gs.length then spare else 0)

/-! ### Sampling of verification (R172) -/

/-- One step of the sampling LFSR, x^32 + x^22 + x^2 + x + 1 in Galois form. -/
def lfsrStep (v : Nat) : Nat := if v % 2 = 1 then (v / 2) ^^^ 0x80200003 else v / 2

def lfsrAdvance : Nat → Nat → Nat
  | 0, v => v
  | n + 1, v => lfsrAdvance n (lfsrStep v)

/-- Pass one segment through the runs of R172: is it the chosen one? -/
def samplePick (x : Ctx) (n : Nat) : Bool × Ctx :=
  let fresh := x.runLen = 0 ∨ x.runLen ≤ x.runPos
  let v := if fresh then lfsrAdvance 32 x.lfsr else x.lfsr
  let len := if fresh then n else x.runLen
  let pos := if fresh then 0 else x.runPos
  let pick := if fresh then v % max 1 n else x.runPick
  (decide (pos = pick), { x with lfsr := v, runLen := len, runPos := pos + 1, runPick := pick })

def samplePicks (n : Nat) : Nat → Ctx → List Bool × Ctx
  | 0, x => ([], x)
  | k + 1, x =>
    let a := samplePick x n
    let b := samplePicks n k a.2
    (a.1 :: b.1, b.2)

/-! ### Entry into coding -/

/-- Engine masks in force (R54, R164). -/
def masksNow (s : State) (c : Nat) : Nat × Nat :=
  if fbit s (ctxPage c) F.CTX_STATE_PINNED then
    (fget s (ctxPage c) F.CTX_BIND_EE_MASK, fget s (ctxPage c) F.CTX_BIND_DE_MASK)
  else if (getCtx s c).bindMode = 0 ∧ fget s 0 F.CHIP_PLACE_CTL_PLACE = 1 then
    (fget s 0 F.CHIP_PIN_EE_MASK, fget s 0 F.CHIP_PIN_DE_MASK)
  else (2 ^ 18 - 1, 2 ^ 18 - 1)

/-- Guard level and verify mode of a context (R170). -/
def guardOf (s : State) (g : Get) : Nat :=
  let v := g F.CTX_CFG_GUARD_GUARD
  if v = 0 then fget s 0 F.CHIP_PLACE_CTL_GUARD else v

def verifyOf (s : State) (g : Get) : Nat :=
  let v := g F.CTX_CFG_GUARD_VERIFY
  if v = 0 then fget s 0 F.CHIP_PLACE_CTL_VERIFY else v

def sampleN (s : State) (g : Get) : Nat :=
  let v := g F.CTX_PLACE_XSEG_SAMPLE_N
  if v = 0 then fget s 0 F.CHIP_PLACE_CTL_SAMPLE_N else v

/-- Effort in use (R126). -/
def effortNow (x : Ctx) (g : Get) : Nat := min 3 (g F.CTX_ENC_TOOLS_EFFORT + x.effCut)

/-- Search units of a segment: 64 × 64 areas (R90). -/
def searchUnits (g : Get) (x : Geom) : Nat :=
  let w := cover g.unit g.w ((g.strips.take x.strip).sum) (g.strips.getD x.strip 0)
  ceilDiv w 64 * ceilDiv (if w = 0 then 0 else x.px / w) 64

/-- Code of a ration unit: column, row and size in samples. -/
def unitCode (u : Nat × Nat × Nat) : Nat := u.1 + 2 ^ 16 * u.2.1 + 2 ^ 32 * u.2.2

/-- A unit overlaps a ration unit of an earlier picture (R125). -/
def unitsMeet (u : Nat × Nat × Nat) (code : Nat) : Bool :=
  let x := code % 2 ^ 16
  let y := code / 2 ^ 16 % 2 ^ 16
  let n := code / 2 ^ 32
  decide (u.1 < x + n) && decide (x < u.1 + u.2.2) && decide (u.2.1 < y + n) && decide (y < u.2.1 + u.2.2)

/-- A unit is a recovery unit (R125). -/
def isRecovery (recover : List Nat) (u : Nat × Nat × Nat) : Bool := recover.any (unitsMeet u)

/-- The QP of the unit at (x, y) (R112, R113, R125): the picture QP plus the adaptive delta, lowered in a recovery unit. The
mean complexity is over the search units of the picture (DEDUCED, log 47). -/
def unitQp (g : Get) (q : Nat) (cplx recover : List Nat) (x y : Nat) : Nat :=
  let own := g.unitCplx cplx x y
  let step : Int := (qpUnit g.codec : Nat)
  let base := clampQp g.codec ((q : Int) +
    aqDelta (g F.CTX_RC_QP_AQ) (own.1 * cplx.length) (cplx.sum * own.2) * step)
  if isRecovery recover (x, y, g.unit) then clampQp g.codec ((base : Int) - (g F.CTX_RC_RECOVER_DQ : Nat) * step) else base

/-- What the descriptors of a picture share (R63). -/
structure PicDesc where
  q       : Nat
  intra   : Bool
  tid     : Nat
  effort  : Nat
  cplx    : List Nat
  recover : List Nat
  fresh   : Option (Nat × Nat)
  clean   : List Nat
  wp      : Bool

/-- The descriptor of a segment (R63). -/
def segDesc (g : Get) (d : PicDesc) (x : Geom) : SegDesc :=
  let r := segRect g x
  let at_ (k : Nat) : Nat × Nat := g.unitXY x k
  { codec := g.codec, depth10 := g.depth10, c422 := g.c422, profile := g.profile, level := g.lvl.code
    area := ⟨r.1, r.2.1, r.2.2.1, r.2.2.2⟩, unit := g.unit, cols := g.strips.getD x.strip 0
    tools := g.tools, rdoq := g.rdoq d.effort, intra := d.intra, tid := d.tid, scale := g F.CTX_RC_XLAMBDA_SCALE
    qps := (List.range x.units).map fun k => unitQp g d.q d.cplx d.recover (at_ k).1 (at_ k).2
    recover := (List.range x.units).map fun k => isRecovery d.recover ((at_ k).1, (at_ k).2, g.unit)
    fresh := d.fresh, clean := d.clean, wp := d.wp }

/-- The address of the record of a segment in the reservation of R372. -/
def recordAt (s : State) (x : Ctx) (g : Get) (recSet seg : Nat) : Option Nat :=
  ((partHandles (memParts 0 g) (g.dpb + g.planePics + recSet * g.segCount + seg) x.mem).head?).map (bufAddr s)

/-- The segments of a picture that enters coding. -/
def newSegs (s : State) (c : Nat) (g : Get) (now guardLv verifyMd r recSet : Nat) (d : PicDesc) (budgets : List Nat)
    (picks : List Bool) (heads : List (List StreamUnit)) : List Seg :=
  let gs := g.segments
  let nb := g.bands.length
  let search := !d.intra && !g.repro && anyBank s
  (List.range gs.length).map fun i =>
    let x := gs.getD i ⟨0, 0, 0, 0, 0⟩
    let ver := verifyMd == 3 || (verifyMd == 2 && picks.getD i false)
    let dS := now + g.latency * (x.band + 1) / nb
    let v := if ver && guardLv != 1 then pxTime x.px (deRate10 g.codec) (engMHz s) else 0
    { phase := if search then .waitRecord else .eligible
      band := x.band, strip := x.strip, units := x.units, px := x.px, rows := x.rows
      budget := budgets.getD i 0, rbound := r, dS := dS, cS := dS - v
      digital := !d.intra && !search, record := d.intra, recDigital := false, bank := 0, issued := none
      sunits := searchUnits g x, written := 0, verify := ver, vwait := false, vdone := false, waived := false
      rowsOut := 0, bytesOut := 0, rowsDone := 0, bits := 0, crc := 0, runBits := 0, ended := false
      code := [], runCode := [], clean := true, recAt := recordAt s (getCtx s c) g recSet i, rowBits := []
      desc := segDesc g d x, head := heads.getD i [], ration := []
      qpSum := 0, qpMin := 255, qpMax := 0
      ee := 0, redo := 0, runs := [], avoid := []
      unmasked := false, cut := false, edge := if x.band = 0 ∧ x.strip = 0 then 0 else 1
      edgeEe := 0, edgeCrc := 0, edgeOut := ⟨[], [], []⟩, eruns := [] }

/-- PIC_TYPE of R85. -/
def picType (g : Get) (p : Plan) : Nat :=
  if p.idr then 0 else if p.rap then 1 else if g.struct = 3 then 2 else if g.struct = 1 then 3
  else if g.hierB && p.tid == 0 then 3 else if p.isRef then 4 else 5

/-- Ration units of a picture (R123), each as column + 2^16 × row + 2^32 × unit size, in samples. -/
def Pic.rationUnits (p : Pic) : List Nat := p.segs.flatMap (·.ration)

/-- Ration units that picture `n` recovers (R125): those known when it enters coding, of the PICS pictures before it
(DEDUCED: the QP of a unit belongs to the descriptor that Quartz writes then, log 43). -/
def recovering (x : Ctx) (n pics : Nat) : List Nat :=
  (x.recov.filter fun y => n ≤ y.2).flatMap (·.1) ++
    (x.pics.filter fun p => !p.sent && p.segs != [] && n ≤ p.num + pics).flatMap Pic.rationUnits

/-- Apply what a RAP lets apply: a pending RECONFIG and a pending change of the cap (R49, R131). -/
def atRap (s : State) (c pts : Nat) : State := applyRate (applyReconf s c) c (pts % 2 ^ 32) (pts / 2 ^ 32)

/-- What a picture that is no RAP lets apply: a change of QI alone. -/
def atPicture (s : State) (c pts : Nat) : State :=
  let x := getCtx s c
  if x.setRate.isSome && !capPending x then applyRate s c (pts % 2 ^ 32) (pts / 2 ^ 32)
  else modCtx s c fun y => { y with setRate := y.setRate.map fun r => { r with entered := r.entered + 1 } }

/-- FORCE_KEY with NEXT selects the picture that enters coding (R50). -/
def selectNext (s : State) (c pts : Nat) : State :=
  let sel := (getCtx s c).forced.filter (·.2.isNone)
  sel.foldl (fun s r => refDone s c r.1 stOk (pts % 2 ^ 32) (pts / 2 ^ 32) 0)
    (modCtx s c fun y => { y with forced := y.forced.filter (·.2.isSome) })

/-- What stands in the coding order for a picture that was dropped: it has no segments. -/
def shedPic (p : Plan) (rate : RateSet) (now : Nat) : Pic where
  num := 0
  sub := p.sub
  pts := 0
  dts := 0
  ptype := 0
  rap := false
  idr := false
  tid := p.tid
  sceneCut := false
  forced := false
  params := false
  isRef := false
  order := 0
  qp := 0
  rbound := 0
  cplx := 0
  hdr := 0
  filler := 0
  budget := 0
  floor := 0
  deadline := 0
  tEnter := 0
  eeMask := 0
  deMask := 0
  guardLv := 0
  verifyMd := 0
  segs := []
  done := true
  doneAt := now
  sent := false
  bufLevel := 0
  recover := []
  effort := 0
  src := noPicture
  planes := noPlanes
  recon := noPicture
  lists := []
  refs := []
  intra := false
  lead := []
  tail := []
  rate := rate
  carries := false
  recSet := 0

/-- A picture that was dropped passes through the rate model with no bits (R51, R115). -/
def enterShed (s : State) (c : Nat) (p : Plan) : State :=
  let rate := (active s c).rateSet
  modCtx s c fun x => { x with
    position := x.position + 1, shedSubs := x.shedSubs.filter (·.num != p.sub), pics := x.pics ++ [shedPic p rate s.devtime] }

/-- DTS of the picture at the next coding position (R76). -/
def dtsOf (x : Ctx) (g : Get) (own : Nat) : Nat :=
  let base := ((x.ptsLog.find? (·.1 == x.seqStart + x.position)).map (·.2)).getD own
  let d := if g.hierB then g.miniLog else 0
  (base + 2 ^ 33 - d * (90000 * g.den / max 1 g.num) % 2 ^ 33) % 2 ^ 33

/-! ### Messages of an access unit (R84, R117) -/

def roundDiv (a b : Nat) : Nat := (2 * a + b) / (2 * b)

/-- Payload of mastering display colour volume from the registers: the SEI of AVC, HEVC and VVC (primaries green, blue,
red), or for AV1 red, green, blue in the units of its metadata OBU, rounded to nearest. The layouts are those of the codec
standards (PRESUMED, log 76). -/
def masteringBytes (g : Get) : List Byte :=
  let f (r : Row) : List Byte :=
    if g.codec = 3 then beBytes 2 (min 65535 (roundDiv (g r * 65536) 50000)) else beBytes 2 (g r)
  let green := f F.CTX_ENC_MDCV0_GX ++ f F.CTX_ENC_MDCV0_GY
  let blue := f F.CTX_ENC_MDCV1_BX ++ f F.CTX_ENC_MDCV1_BY
  let red := f F.CTX_ENC_MDCV2_RX ++ f F.CTX_ENC_MDCV2_RY
  let white := f F.CTX_ENC_MDCV3_WX ++ f F.CTX_ENC_MDCV3_WY
  let hi := g F.CTX_ENC_MDCV4_LMAX
  let lo := g F.CTX_ENC_MDCV5_LMIN
  if g.codec = 3 then
    red ++ green ++ blue ++ white ++ beBytes 4 (roundDiv (hi * 256) 10000) ++ beBytes 4 (roundDiv (lo * 16384) 10000)
  else green ++ blue ++ red ++ white ++ beBytes 4 hi ++ beBytes 4 lo

def contentLightBytes (g : Get) : List Byte := beBytes 2 (g F.CTX_ENC_CLL_MAX_CLL) ++ beBytes 2 (g F.CTX_ENC_CLL_MAX_FALL)

/-- Messages that follow from the settings and the source (R79, R84): `rap`, `cycle`: the picture is a RAP, the first of a
refresh cycle; `linked`: it comes from a linked source. The bytes of a linked source go into an AV1 stream as they came: R84
states the conversion for register values only (DESIGN CHOICE, log 94). -/
def sourceSei (g : Get) (rap cycle linked : Bool) (hdr : HdrData) : List Sei :=
  let src := g F.CTX_ENC_OUT_HDR_SRC
  (if rap && src == 1 && linked && hdr.mdcv != [] then [.mastering hdr.mdcv] else []) ++
  (if rap && src == 1 && linked && hdr.cll != [] then [.contentLight hdr.cll] else []) ++
  (if rap && src == 2 then [.mastering (masteringBytes g), .contentLight (contentLightBytes g)] else []) ++
  (if cycle && g.codec ≤ 1 && g F.CTX_ENC_OUT_RECOVERY_SEI == 1 then
    [.recovery (g F.CTX_ENC_GOP2_GIR_PERIOD - 1)] else []) ++
  (if g F.CTX_ENC_OUT_T35_PASS == 1 && linked && hdr.t35Here then [.t35 hdr.t35] else [])

/-- The HRD parameters apply (R117). -/
def Get.hrdOn (g : Get) : Bool := g F.CTX_RC_CTL_HRD == 1

/-- Messages of the buffer model (R117). The delay is known when the picture is delivered. -/
def hrdSei (g : Get) (rap : Bool) : List Sei :=
  if g.hrdOn && g.codec != 3 then (if rap then [.buffering 0] else []) ++ [.timing] else []

/-- Each segment is a decoding unit with a message of its own (R117). -/
def duSei (g : Get) : List StreamUnit :=
  if g.hrdOn && g F.CTX_RC_CTL_DU_HRD == 1 && (g.codec == 1 || g.codec == 2) then [.message g.codec .decodingUnit] else []

/-! ### Parameter sets and headers (R83) -/

/-- The smallest block that a codec codes (R59). -/
def smallestBlock (codec : Nat) : Nat := if codec = 1 then 8 else 4

/-- The level as it is written (R69): level 1b is level_idc 11 with constraint_set3_flag in Main, level_idc 9 in the High
profiles. -/
def levelForm (codec profile code : Nat) : Nat × Bool :=
  if codec = 0 ∧ code = 9 ∧ profile ≤ 1 then (11, true) else (code, false)

/-- Scales and values of bit rate and CPB size (R117; PRESUMED units of the HRD syntax, log 20). -/
def hrdOf (g : Get) : Hrd :=
  let r := hrdScale 6 g.R
  let b := hrdScale 4 g.B
  ⟨r, g.R / 2 ^ (6 + r), b, g.B / 2 ^ (4 + b), g.cbr⟩

/-- The parameter sets of a stream (R83), with the delays of AV1 at 0 until they are known. -/
def paramSet (g : Get) : ParamSet :=
  let lv := levelForm g.codec g.profile g.lvl.code
  { codec := g.codec, profile := g.profile, level := lv.1, set3 := lv.2, high := g.highTier
    depth10 := g.depth10, c422 := g.c422
    width := if g.codec = 3 then g.w else padUp g.w g.unit, height := if g.codec = 3 then g.h else padUp g.h g.unit
    cropR := if g.codec = 3 then 0 else padUp g.w g.unit - g.w, cropB := if g.codec = 3 then 0 else padUp g.h g.unit - g.h
    unit := g.unit, smallest := smallestBlock g.codec, num := g.num, den := g.den
    dpb := g.dpb, reorder := if g.hierB then g.miniLog else 0, numRef := g.numRef
    strips := g.strips, bands := g.bands, tools := g.tools, across := true
    vui := if g F.CTX_ENC_VUI_PRESENT = 1 then some [g F.CTX_ENC_VUI_PRIMARIES, g F.CTX_ENC_VUI_TRANSFER,
      g F.CTX_ENC_VUI_MATRIX, g F.CTX_ENC_VUI_FULL_RANGE] else none
    hrd := if g.hrdOn && g.codec != 3 then some (hrdOf g) else none
    delays := if g.hrdOn && g.codec == 3 then some (0, 0) else none }

/-- How a picture stands in its stream (R77–R79); `cycle`: the first of a refresh cycle. -/
def picKind (codec : Nat) (p : Plan) (cycle : Bool) : PicKind :=
  if p.idr then .idr else if p.rap then .cra else if cycle && codec == 2 then .gdr else if p.leading then .rasl else .trail

/-! ### References -/

/-- The references that a picture may use: none from before the last IDR picture or key frame, and after a CRA in output order
none from before it (R78). -/
def validRefs (x : Ctx) (sub : Nat) : List EncRef :=
  x.encRefs.filter fun r => decide (x.refBase ≤ r.num) && (decide (sub ≤ x.craSub) || decide (x.craNum ≤ r.num))

/-- A reference stays in use: a picture in coding is it or predicts from it, or it is an AV1 frame that waits to be shown. -/
def refInUse (x : Ctx) (r : EncRef) : Bool :=
  x.toShow.contains r.sub || x.pics.any fun p => p.segs != [] && (p.num == r.num || p.lists.contains r.num)

/-- References that stay (R89): the `n` newest of the coded sequence, and those in use. -/
def keepRefs (n : Nat) (x : Ctx) : List EncRef :=
  let new := ((x.encRefs.filter fun r => x.refBase ≤ r.num).take n).map (·.num)
  x.encRefs.filter fun r => new.contains r.num || refInUse x r

/-- The least slot of the decoded picture buffer that no reference takes. -/
def dpbSlot (n : Nat) (l : List EncRef) : Option Nat := (List.range n).find? fun k => !l.any (·.slot == k)

/-- What a picture that enters coding does to the references: an IDR picture begins a coded sequence, a CRA a new past, and
the buffer makes room. -/
def startRefs (g : Get) (p : Plan) (x : Ctx) : Ctx :=
  let x := { x with
    refBase := if p.idr then x.picCount else x.refBase
    craSub := if p.rap then p.sub else x.craSub, craNum := if p.rap then x.picCount else x.craNum }
  { x with encRefs := keepRefs (g.dpb - 1) x }

/-- A reference picture finds a slot. -/
def slotReady (g : Get) (p : Plan) (x : Ctx) : Bool := !p.isRef || (dpbSlot g.dpb (startRefs g p x).encRefs).isSome

/-- The set of record buffers that no picture in coding uses (R372): the first (DESIGN CHOICE, log 93). -/
def freeRecords (g : Get) (x : Ctx) : Nat :=
  ((List.range g.recPics).find? fun k => !x.pics.any fun p => p.segs != [] && p.recSet == k).getD 0

/-! ### Gradual refresh (R79) -/

/-- A refresh cycle that begins where a change asks for a new coded sequence begins with an IDR picture (R77, R80). -/
def cycleRap (s : State) (c : Nat) (x : Ctx) (p : Plan) : Plan :=
  let g := active s c
  if cycleDue g x && (reconfBreaks s c || (capPending x && g.hrdOn)) then { p with rap := true, idr := true } else p

/-- The luma column where the columns of picture `i` of a cycle begin. -/
def freshFrom (g : Get) (i : Nat) : Nat := min g.cols (i * g.cols / max 1 (g F.CTX_ENC_GOP2_GIR_PERIOD)) * g.unit

/-- The columns of a reference that the present cycle has refreshed. -/
def cleanOf (x : Ctx) (n : Nat) : Nat :=
  ((x.encRefs.find? (·.num == n)).map fun r => if r.cycle = x.girCycle then r.clean else 0).getD 0

/-! ### Frames that are not shown (R75) -/

/-- An AV1 picture is not shown when it is coded if one before it in output order follows in coding order. -/
def isHidden (codec : Nat) (p : Plan) (rest : List Plan) : Bool := codec == 3 && rest.any (·.sub < p.sub)

/-- A frame in a slot shown on its own, in a temporal unit of its own. -/
def showUnits (codec : Nat) (x : Ctx) (l : List Nat) : List StreamUnit :=
  l.flatMap fun n => match x.encRefs.find? (·.sub == n) with
    | some r => [.delimiter codec false, .showFrame r.slot]
    | none => []

/-- Frames that wait to be shown and lie before all of `subs` in output order. -/
def showsBefore (x : Ctx) (subs : List Nat) : List Nat := (x.toShow.filter fun n => subs.all (n < ·)).foldl (fun l n => insertRank id n l) []

/-- What Quartz writes around the segments of a picture. -/
structure Around where
  lead  : List StreamUnit
  heads : List (List StreamUnit)
  tail  : List StreamUnit

def Around.units (a : Around) : List StreamUnit := a.lead ++ a.heads.flatten ++ a.tail

/-! ### A picture enters coding -/

/-- What the settings do at a picture: a RAP lets every change apply (R49, R131). -/
def settingsAt (s : State) (c : Nat) (p : Plan) (cycle : Bool) (pts : Nat) : State :=
  let s := if p.rap then selectNext s c pts else s
  if p.rap || cycle then atRap s c pts else atPicture s c pts

/-- What a picture that enters coding changes in the record of the stream (R76, R77, R79). -/
def startPic (g : Get) (p : Plan) (cycle : Bool) (x : Ctx) : Ctx :=
  let fresh := p.idr || cycle
  startRefs g p { x with
    keyNext := if p.rap then false else x.keyNext, keyForced := if p.rap then false else x.keyForced
    keySubs := x.keySubs.filter (· != p.sub)
    lastRap := if p.rap || cycle then p.sub else x.lastRap, lastIdr := if p.idr then p.sub else x.lastIdr
    seqStart := if p.idr then p.sub else x.seqStart, position := if p.idr then 0 else x.position
    ptsLog := x.ptsLog.filter ((if p.idr then p.sub else x.seqStart + x.position) ≤ ·.1)
    girPos := if fresh then 0 else x.girPos + 1, girCycle := if fresh then x.girCycle + 1 else x.girCycle }

/-- A picture enters coding (R121): its settings, budget, descriptors and segments. A refresh-cycle start counts as a RAP for
RECONFIG, flags and record (R79), and takes the offset of an inter picture (DESIGN CHOICE, log 96). -/
def enterCoding (s : State) (c : Nat) (p : Plan) (rest : List Plan) (u : Submit) : State :=
  let cycle := !p.idr && cycleDue (active s c) (getCtx s c)
  let rap := p.rap || cycle
  let s := settingsAt s c p cycle u.pts
  let g := active s c
  let gir := g F.CTX_ENC_GOP2_GIR_PERIOD != 0
  let s := modCtx s c (startPic g p cycle)
  let s := fsetb s (ctxPage c) F.CTX_ENC_STAT_GIR_ACTIVE gir
  let x := getCtx s c
  let intra := p.rap || g.struct == 3
  let effort := effortNow x g
  let lists := if intra then [] else usedRefs g (validRefs x p.sub) p.sub effort
  let hidden := isHidden g.codec p rest
  let wp := g.tools.contains .explicitWp && inFade x.lumas p.sub
  let q0 := picQp g.codec (g F.CTX_RC_CTL_QI) (g F.CTX_RC_QP_QP_MIN) (g F.CTX_RC_QP_QP_MAX) p.rap intra p.tid
  let ptype := if cycle && !p.rap then 1 else picType g p
  let first := showsBefore x (p.sub :: rest.map (·.sub))
  let after := if hidden then [] else showsBefore { x with toShow := x.toShow.filter (!first.contains ·) } (rest.map (·.sub))
  let params := rap && (g F.CTX_ENC_OUT_PS_EVERY_RAP == 1 || x.params != some (paramSet g))
  let around (q : Nat) : Around :=
    let msgs := sourceSei g rap cycle (g.input == 2) u.hdr ++ hrdSei g rap
    { lead := showUnits g.codec x first ++
        (if g.codec = 3 ∧ x.hidden ∧ first = [] then [] else [.delimiter g.codec (g F.CTX_ENC_OUT_AUD == 1)]) ++
        (if params then [.params (paramSet g)] else []) ++ msgs.map (.message g.codec)
      heads := (List.range g.segCount).map fun i => duSei g ++
        [.head ⟨g.codec, picKind g.codec p cycle, ptype, p.isRef, p.tid, p.sub - x.lastIdr, q, i,
          lists.map fun n => ((x.encRefs.find? (·.num == n)).map (·.slot)).getD 0, wp, hidden⟩]
      tail := showUnits g.codec x after }
  let hdr := unitsBits (around q0).units
  let r := rationBound g.codec intra
  let gs := g.segments
  let own := u.la.cplx.sum
  let rate := g.rateSet
  let avail := availBits x rate x.carries
  let est := Config.estimate g.codec u.la.cplx
  let q := q0 + raiseQp est hdr avail q0 (clampQp g.codec (g F.CTX_RC_QP_QP_MAX : Int) - q0)
  let want := (if g.cbr then cbrWant x g p.sub own else est q0 + hdr) + x.surplus
  let floor := hdr + (gs.map fun y => y.units * r + endBound).sum
  let budget := min avail (max want floor)
  let budgets := segBudgets (budget - floor) r gs (gs.map (g.segCplx u.la.cplx))
  let lv := guardOf s g
  let md := verifyOf s g
  let picks := samplePicks (sampleN s g) gs.length x
  let masks := masksNow s c
  let now := s.devtime
  let since := fget s (ctxPage c) F.CTX_ENC_STAT_SINCE_RAP
  let recover := recovering x x.picCount (g F.CTX_RC_RECOVER_PICS)
  let a := around q
  let d : PicDesc :=
    { q := q, intra := intra, tid := p.tid, effort := effort, cplx := u.la.cplx, recover := recover
      fresh := if gir && !intra then some (freshFrom g x.girPos, freshFrom g (x.girPos + 1)) else none
      clean := lists.map (cleanOf x), wp := wp }
  let blank := flatPicture g.w g.h g.depth10 g.c422 0
  let set := freeRecords g x
  let pic : Pic :=
    { num := x.picCount, sub := p.sub, pts := u.pts, dts := dtsOf x g u.pts
      ptype := ptype, rap := rap, idr := p.idr, tid := p.tid, sceneCut := p.scene, forced := p.forced, params := params
      isRef := p.isRef, order := p.sub - x.lastIdr, qp := q, rbound := r, cplx := own, hdr := hdr, filler := 0
      budget := budget, floor := floor, deadline := now + g.latency, tEnter := now, eeMask := masks.1, deMask := masks.2
      guardLv := lv, verifyMd := md
      segs := newSegs s c g now lv md r set d budgets picks.1 a.heads
      done := false, doneAt := 0, sent := false, bufLevel := 0
      recover := recover, effort := effort
      src := u.pix, planes := u.planes, recon := blank, lists := lists, refs := lists.take 4, intra := intra
      lead := a.lead, tail := a.tail, rate := rate, carries := x.carries, recSet := set }
  let slot := (dpbSlot g.dpb x.encRefs).getD 0
  let ref : EncRef :=
    ⟨x.picCount, p.sub, slot, u.planes, blank, partHandles (memParts 0 g) slot x.mem, x.girCycle,
      if p.idr then padUp g.w g.unit else freshFrom g (x.girPos + 1)⟩
  let s := modCtx s c fun _ => { picks.2 with
    surplus := 0, picCount := x.picCount + 1, position := x.position + 1, pics := x.pics ++ [pic]
    encRefs := if p.isRef then ref :: x.encRefs else x.encRefs
    entered := u.pts :: x.entered, recov := x.recov.filter fun y => x.picCount < y.2, carries := false
    params := if params then some (paramSet g) else x.params
    hidden := if g.codec = 3 then hidden else x.hidden
    toShow := (x.toShow.filter fun n => !first.contains n && !after.contains n) ++ if hidden then [p.sub] else [] }
  fset s (ctxPage c) F.CTX_ENC_STAT_SINCE_RAP (if rap then 0 else min (since + 1) 0xFFFF)

/-- Take pictures out of those not yet planned. -/
def takeQueued (s : State) (c : Nat) (plan : List Plan) : State :=
  modCtx s c fun x => { x with plan := plan, queued := x.queued.filter fun n => !plan.any (·.sub == n) }

/-! ### Commit and delivery -/

/-- Segment numbers of a picture in bitstream order (R171). -/
def bitstreamOrder (codec bands strips : Nat) : List Nat :=
  if codec = 3 ∨ strips ≤ 1 then List.range (bands * strips)
  else (List.range strips).flatMap fun k => (List.range bands).map fun b => b * strips + k

/-- The egress holding area of a context has no room (R212, R372). -/
def holdingFull (s : State) (g : Get) : Bool :=
  g.toNet && ceilDiv g.R 4 ≤ ((getSvc s (g F.CTX_CFG_IO_OUT_NODE)).held.map (·.bytes)).sum

/-- QP of an output record: an AV1 qindex is scaled to 0–63 (R85). -/
def recQp (codec q : Nat) : Nat := if codec = 3 then q / 4 else q

/-- RATION_ROWS of a picture (R124): its coding-unit rows that hold a ration unit. -/
def rationRows (p : Pic) : Nat := ((p.rationUnits.map fun u => u / 65536).eraseDups).length

/-- The sixteen words of an output record (R85). -/
def auRecord (g : Get) (p : Pic) (seq bytes : Nat) (cont : Bool) : List Nat :=
  let units := (p.segs.map (·.units)).sum
  let qpSum := (p.segs.map (·.qpSum)).sum
  let avg := if units = 0 then 0 else (2 * qpSum + units) / (2 * units)
  let lo := p.segs.foldl (fun m x => min m x.qpMin) 255
  let hi := p.segs.foldl (fun m x => max m x.qpMax) 0
  let rows := rationRows p
  let bit (b : Bool) (n : Nat) : Nat := if b then 2 ^ n else 0
  [1 + 2 ^ 8 + 64 * 2 ^ 16, bytes, p.pts % 2 ^ 32, p.pts / 2 ^ 32 % 2, p.dts % 2 ^ 32, p.dts / 2 ^ 32 % 2,
   p.ptype + bit p.rap 3 + p.tid * 16 + bit p.sceneCut 7 + bit p.forced 8 + bit p.params 9 +
     bit (p.rationUnits != []) 10 + bit cont 11,
   rows % 2 ^ 16 + 2 ^ 16 * p.segs.length, p.order,
   recQp g.codec avg + 2 ^ 8 * recQp g.codec lo + 2 ^ 16 * recQp g.codec hi,
   p.doneAt % 2 ^ 32, p.doneAt / 2 ^ 32 % 2 ^ 32, seq % 2 ^ 32, p.bufLevel, 0, 0]

/-- Values that are known when a picture is delivered: the delays of R117. -/
def StreamUnit.withDelays (d e : Nat) : StreamUnit → StreamUnit
  | .message c (.buffering _) => .message c (.buffering d)
  | .params p => .params { p with delays := p.delays.map fun _ => (d, e) }
  | u => u

/-- The initial delay of a RAP and what it leaves of the buffer, in 90 kHz ticks; `f`: the fullness before its removal, in
bits (R117). -/
def hrdDelays (g : Get) (f : Nat) : Nat × Nat :=
  let d := f * 90000 / max 1 g.R
  (d, g.B * 90000 / max 1 g.R - d)

/-- The coded data of an access unit (R83, R171): what leads the picture, each segment behind its header in bitstream order,
what ends it, and filler. -/
def picData (s : State) (g : Get) (order : List Nat) (p : Pic) (f fillB : Nat) : List Byte :=
  let d := hrdDelays g f
  p.lead.flatMap (fun u => (u.withDelays d.1 d.2).bytes) ++
    order.flatMap (fun i => match p.segs[i]? with
      | some x => x.head.flatMap (·.bytes) ++ segData x
      | none => []) ++
    p.tail.flatMap (·.bytes) ++ fillerData g.codec fillB (fun i => BitVec.ofNat 8 (freeByte s i))

/-- Pass an access unit to the packet engines (R207–R209), behind its PES header (log 31), with the offset Δ. -/
def toPackets (s : State) (c : Nat) (g : Get) (p : Pic) (data : List Byte) : State :=
  let delta := (getCtx s c).delta.getD 0
  let pts := (p.pts + delta) % 2 ^ 33
  let dts := (p.dts + delta) % 2 ^ 33
  modSvc s (g F.CTX_CFG_IO_OUT_NODE) fun y => { y with
    queue := y.queue ++ [⟨pesHeader g.codec data.length pts dts ++ data, dts, p.rap, true⟩] }

/-- A picture that will give an output follows: in coding, or among those not yet in it and not dropped. -/
def laterPic (x : Ctx) (p : Pic) : Bool := x.pics.any fun q => !q.sent && q.segs != [] && q.num != p.num

def morePics (x : Ctx) : Bool :=
  x.linkPics != [] || (x.plan.map (·.sub) ++ x.queued).any fun n => !isShed x n

/-- END: a drain, and no output after this picture's (R36). -/
def isLast (s : State) (c : Nat) (p : Pic) : Bool :=
  ctxState s c == 4 && !laterPic (getCtx s c) p && !morePics (getCtx s c)

/-- A committed picture may be delivered. In a drain its output to the host waits until it is known whether it is the last
(DESIGN CHOICE, log 88). -/
def mayDeliver (s : State) (c : Nat) (p : Pic) : Bool :=
  p.done && (p.segs == [] || ctxState s c != 4 || !(active s c).toHost || laterPic (getCtx s c) p || !morePics (getCtx s c))

/-- A dropped picture passes the rate model: filler owed changes only where arrival overflows (R115). -/
def deliverShed (s : State) (c : Nat) (p : Pic) : State :=
  modCtx s c fun x =>
    let m := modelAt (x.rateNow, x.fill) p.rate p.carries
    let owed := if p.rate.cbr then fillerOwed m.2 0 p.rate.num p.rate.fill p.rate.bs else 0
    { x with
      rateNow := p.rate, fill := (modelStep (x.rateNow, x.fill) p.rate p.carries 0).2
      owed := if owed = 0 then x.owed else owed, pics := x.pics.filter (· != p) }

/-- Deliver a committed picture: the rate model, filler, output and SUBMIT completion. A dropped picture passes the
rate model only. -/
def deliverPic (s : State) (c : Nat) (p : Pic) : State :=
  let g := active s c
  let x := getCtx s c
  if p.segs = [] then deliverShed s c p
  else
    let f := (modelAt (x.rateNow, x.fill) p.rate p.carries).2
    let fillB := if p.rate.cbr then fillerBytes g.codec x.owed else 0
    let bits := picBits p + 8 * fillB
    let num := max 1 p.rate.num
    let level := ((f - (bits * p.rate.num : Nat)) / (8 * num : Nat)).toNat
    let order := bitstreamOrder g.codec g.bands.length g.strips.length
    let data := picData s g order p (f / (num : Nat)).toNat fillB
    let p := { p with filler := fillB, bufLevel := level, sent := true }
    let bytes := data.length
    let rows := rationRows p
    let ration := p.rationUnits != []
    let seq := x.outSeq
    let last := isLast s c p
    let s := modPic s c p.num fun _ => p
    let s := modCtx s c fun y => { y with
      rateNow := p.rate, fill := (modelStep (x.rateNow, x.fill) p.rate p.carries bits).2
      owed := if p.rate.cbr then fillerOwed f bits p.rate.num p.rate.fill p.rate.bs else 0
      outSeq := y.outSeq + 1
      recov := if ration then y.recov ++ [(p.rationUnits, p.num + g F.CTX_RC_RECOVER_PICS)] else y.recov }
    let s := fadd (fset s (ctxPage c) F.CTX_RC_LEVEL_BYTES level) (ctxPage c) F.CTX_RC_CNT_FILLER_COUNT fillB
    let s := if ration then fadd s (ctxPage c) F.CTX_RC_CNT_RATION_COUNT 1 else s
    let s := if ration && (findSub x p.sub).any (·.ref.op == 0) then fadd s (ctxPage c) F.CTX_CNT_DEGRADED_COUNT 1 else s
    let s := if g.toNet then toPackets s c g p data else s
    let shares := partShares bytes
    let flags := if p.rap then 1 else 0
    let parts := (List.range shares.length).map fun i =>
      let n := shares.getD i 0
      let more := i + 1 < shares.length
      (⟨shares.length != 1, seq, n, auRecord g p seq n more, if ration then stDegraded else stOk,
        flags + (if last && !more then 8 else 0), more, partData data shares i⟩ : OutPart)
    let s := if g.toHost then putParts (useFrees s fillB) c parts else s
    submitDone s c p.sub (if ration then stDegraded else stOk) rows bytes (if p.rap then 1 else 0)
      (if g.toHost then some seq else none)

/-- Deliver pictures in coding order, as far as they have committed. -/
def deliverPics : Nat → State → Nat → State
  | 0, s, _ => s
  | n + 1, s, c =>
    match (getCtx s c).pics.find? fun p => !p.sent with
    | some p => if mayDeliver s c p then deliverPics n (deliverPic s c p) c else s
    | none => s

/-- A segment's verification, reruns and boundary job have all ended. -/
def segSettled (x : Seg) : Bool :=
  x.phase == .committed && x.redo == 0 && (!x.verify || x.vdone || x.waived) && (x.edge == 0 || x.edge == 3)

/-- Release pictures whose output, verification and boundary jobs are over (R96), and let a drain end. -/
def retirePics (s : State) (c : Nat) : State :=
  let x := getCtx s c
  let keep := x.pics.filter fun p => !(p.sent && p.segs.all segSettled)
  let s := if keep = x.pics then s else modCtx s c ({ · with pics := keep })
  checkDrain (dropOldMem s c) c

/-- Deliver and release what a context can. -/
def settleCtx (s : State) (c : Nat) : State :=
  retirePics (deliverPics ((getCtx s c).pics.length) s c) c

/-- A picture whose last segment has committed (CNT_OUT, R159). -/
def picCommitted (s : State) (c n : Nat) : State :=
  match findPic s c n with
  | none => s
  | some p =>
    let late := clsLive s c && p.deadline < s.devtime
    let s := modPic s c n ({ · with done := true, doneAt := s.devtime })
    let s := fadd s (ctxPage c) F.CTX_CNT_OUT_COUNT 1
    let s := if late then setIrq (fadd s (ctxPage c) F.CTX_RC_CNT_LATE_COUNT 1) (ctxPage c) 16 else s
    settleCtx s c

/-- Bytes of what Quartz writes before the data of a segment, which go with its first commit: its header, and what leads the
picture where it is the first in bitstream order (R171). -/
def headBytes (order : List Nat) (p : Pic) (i : Nat) (g : Seg) : Nat :=
  if g.rowsOut = 0 then
    (((if order.head? = some i then p.lead else []) ++ g.head).flatMap (·.bytes)).length
  else 0

/-- Bytes of what ends a picture, which go with its last segment. -/
def tailBytes (order : List Nat) (p : Pic) (i : Nat) : Nat :=
  if order.getLast? = some i then (p.tail.flatMap (·.bytes)).length else 0

/-- The first commit after START fixes the offset Δ of a stream to a service (R209). -/
def fixDelta (s : State) (c : Nat) (p : Pic) : State :=
  let g := active s c
  if !g.toNet || (getCtx s c).delta.isSome then s
  else
    let delay := bitsOf ((getSvc s (g F.CTX_CFG_IO_OUT_NODE)).words.getD 4 0).toNat 16 16
    modCtx s c ({ · with delta := some ((stc90 s.devtime + delay * 90 + 2 ^ 33 - p.dts % 2 ^ 33) % 2 ^ 33) })

/-- Commit the complete rows of a segment under GUARD OFF (R170, R177): whole bytes, past those that have committed. -/
def commitRows (s : State) (c n i head : Nat) (p : Pic) (g : Seg) : State :=
  let upto := max g.bytesOut (g.bits / 8)
  if p.guardLv == 1 && !g.cut && decide (g.rowsOut < g.rowsDone) then
    emit (modPic (fixDelta s c p) c n fun p => { p with
        segs := p.segs.modify i ({ · with rowsOut := g.rowsDone, bytesOut := upto }) })
      (.commit c i (head + (upto - g.bytesOut)))
  else s

/-- The bytes that a segment has committed once all of it has. -/
def wholeBytes (g : Seg) : Nat := if g.cut then g.bytesOut else ceilDiv g.bits 8

/-- Commit segments in bitstream order while the next one has cleared (R170, R171). -/
def commitOrder (c n : Nat) (order : List Nat) : List Nat → State → State
  | [], s => s
  | i :: is, s =>
    match findPic s c n with
    | none => s
    | some p =>
      match p.segs[i]? with
      | none => s
      | some g =>
        if g.phase = .committed then commitOrder c n order is s
        else if g.phase = .cleared then
          let s := modPic (fixDelta s c p) c n fun p => { p with
            segs := p.segs.modify i ({ · with phase := .committed, rowsOut := g.rows, bytesOut := wholeBytes g }) }
          let bytes := headBytes order p i g + (wholeBytes g - g.bytesOut) + tailBytes order p i
          commitOrder c n order is (countEv (emit s (.commit c i bytes)) 633 1)
        else commitRows s c n i (headBytes order p i g) p g

/-- Commit what a picture can commit; after FATAL nothing more is committed (R324). -/
def tryCommit (s : State) (c n : Nat) : State :=
  match findPic s c n with
  | none => s
  | some p =>
    let g := active s c
    let all := p.segs.all fun x => x.phase == .cleared || x.phase == .committed
    if s.pins.stopped || p.done || holdingFull s g || (p.guardLv == 3 && !all) then s
    else
      let order := bitstreamOrder g.codec g.bands.length g.strips.length
      let s := commitOrder c n order order s
      match findPic s c n with
      | some q => if q.segs.all (·.phase == .committed) then picCommitted s c n else s
      | none => s

/-- `tryCommit` for every picture of every context that sends to a service, after its holding area gained room. -/
def commitWaiting (s : State) (svc : Nat) : State :=
  ctxList.foldl (fun s c =>
    if usesSvc s svc c then (getCtx s c).pics.foldl (fun s p => tryCommit s c p.num) s else s) s

/-- A segment clears (R170). -/
def clearSeg (s : State) (x : SegId) : State :=
  tryCommit (modSeg (settleItem s (.segment x) true) x fun g => if g.phase = .committed then g else { g with phase := .cleared }) x.ctx.val x.pic

/-- A picture is available as a reference (R178). -/
def picAvailable (p : Pic) : Bool :=
  p.segs.all fun x => (x.phase == .committed || (p.guardLv == 1 && (x.phase == .returned || x.phase == .cleared))) &&
    (x.edge == 0 || x.edge == 3)

/-- The reference pictures of a picture are available (R160): those in its lists that are still in coding. -/
def refsReady (x : Ctx) (p : Pic) : Bool :=
  p.lists.all fun n => x.pics.all fun q => q.num != n || q.segs == [] || picAvailable q

/-- The next picture to enter coding is an IDR picture or key frame, counted once per segment (R176, R177). -/
def countUnmasked (s : State) (x : SegId) : State :=
  match findSeg s x with
  | none => s
  | some (_, g) =>
    if g.unmasked then s
    else
      let s := modSeg s x ({ · with unmasked := true })
      let s := modCtx s x.ctx.val ({ · with keyNext := true })
      setIrq (fadd s 0 F.CHIP_PLACE_CNT_UNMASKED_COUNT 1) 0 (2 ^ 11)

/-! ### Commands -/

/-- Lookahead that an engine has had its time for is over (R107). -/
def endLookahead (s : State) (page : Nat) : State :=
  (getEng s page).held.foldl (fun s h =>
    match h.job with
    | .lookahead c n =>
      if h.start + h.est ≤ s.devtime then
        modSubmit (setHeld (settleItem (accrue s page) h.job true) page ((getEng s page).held.filter (·.job != h.job))) c n ({ · with laWork := 0 })
      else s
    | _ => s) s

def endLookaheads (s : State) : State := eePages.foldl endLookahead s

/-- A picture finds what it needs to enter coding: its time (R76), record buffers (R372) and a slot. -/
def mayEnter (s : State) (c : Nat) (x : Ctx) (p : Plan) : Bool :=
  let g := active s c
  decide (p.notBefore ≤ s.devtime) && decide ((x.pics.filter fun q => q.segs != []).length < g.recPics) && slotReady g p x

/-- PICTURE_ENTER_CODING (R121): the next picture of an encode context enters coding, if one may (R76, R119, R372). -/
def execPictureEnterCoding (ctx : Fin 256) (s : State) : Host.Outcome State Fault Refusal :=
  let c := ctx.val
  let s := endLookaheads s
  if !(isEncode s c && (ctxState s c == 3 || ctxState s c == 4)) then .next s
  else
    let s := modCtx s c (cutPlan s c)
    let x := getCtx s c
    match (if x.plan = [] then formPlan s c else x.plan) with
    | [] => .next s
    | p :: rest =>
      let planned := modCtx (takeQueued s c (p :: rest)) c ({ · with plan := rest })
      if isShed x p.sub then .next (settleCtx (enterShed planned c p) c)
      else
        match findSub x p.sub with
        | none => .next s
        | some u =>
          let p := cycleRap s c x p
          if mayEnter s c x p then
            let t := enterCoding planned c p rest u
            .next (if ctxState t c = 4 then settleCtx t c else t)
          else .next s

end Sys2Proof.Machine
end

