-- ==== Sys2Proof/Machine/DecOps.lean ====
section
/-! DEFINITION. Decoded pictures: what an access unit does to its context (R132–R137, R145), what of it is lost (R141) and
concealed (R142–R144), when a picture is available, withheld and output (R133, R139, R140, R146–R151), and what it offers to
linked destinations (R53, R191). -/

namespace Sys2Proof.Machine

/-- Order of levels: level 1b (9) lies between 1 and 1.1 (R69). -/
def levelRank (l : Nat) : Nat := if l = 9 then 21 else 2 * l

/-- The bit depths and chroma formats of a profile (R132): whether it may have 10 bits, and 4:2:2. None: no such profile. -/
def decProfile (codec p : Nat) : Option (Bool × Bool) :=
  match codec, p with
  | 0, 1 | 0, 2 | 0, 5 | 0, 6 | 1, 1 | 1, 4 => some (false, false)
  | 0, 3 | 1, 2 | 2, 1 | 2, 2 | 3, 1 => some (true, false)
  | 0, 4 | 1, 3 => some (true, true)
  | _, _ => none

/-- Depth and chroma format lie outside R132. -/
def formatBad (a : AccessUnit) : Bool :=
  match decProfile a.codec a.profile with
  | some (ten, wide) => a.exotic || (a.depth10 && !ten) || (a.chroma422 && !wide)
  | none => true

/-- CTX.HALT.CAUSE of an access unit's parameter set, 0 where the context can decode it (R132–R134). -/
def haltCause (g : Get) (a : AccessUnit) : Nat :=
  if !a.wellFormed then 0
  else if a.codec ≠ g.codec then 5
  else if (decProfile a.codec a.profile).isNone || a.barred then 1
  else if formatBad a then 2
  else if (if a.codec = 3 then 63 else 62) < a.level ∨ a.width < 64 ∨ 8192 < a.width ∨ a.height < 64 ∨ 4320 < a.height
    then 3
  else
    let lim := g F.CTX_CFG_STREAM_LEVEL
    if g.w < a.width ∨ g.h < a.height ∨ (a.depth10 && !g.depth10) ∨ (a.chroma422 && !g.c422) ∨
        (lim ≠ 0 ∧ levelRank lim < levelRank a.level) then 4
    else 0

/-- A context halts (R39): its work is dropped, the SUBMIT that carried the unit completes UNSUPPORTED_STREAM and every
other open one ABORTED. A pending RECONFIG or SET_RATE stays pending until CONFIGURE or CLOSE (DESIGN CHOICE, log 87). -/
def haltCtx (s : State) (c cause : Nat) (sub : Option Nat) : State :=
  let s := setCtxState (fset s (ctxPage c) F.CTX_HALT_CAUSE cause) c 5
  let s := modCtx (dropJobs s c) c ({ · with decs := [], decRefs := [], dpb := [], lastOut := none })
  let s := match sub with
    | some n => submitDone s c n stUnsupported 0 0 0
    | none => s
  let s := failSubmits s c stAborted
  sourceEnd (postEvent (setIrq s (ctxPage c) 2) c 1 stUnsupported cause) c

/-! ### Units of a coded picture -/

/-- Rows of luma samples that the picture has: those of one field of a frame, where it is a field picture. -/
def auRows (a : AccessUnit) : Nat := if a.field.isSome then ceilDiv a.height 2 else a.height

/-- Coding units across and down. -/
def auAcross (a : AccessUnit) : Nat := ceilDiv a.width (max 1 a.unit)
def auDown (a : AccessUnit) : Nat := ceilDiv (auRows a) (max 1 a.unit)

/-- The luma samples of the unit at column `x` and row `y` within the cropped picture. -/
def unitRect (a : AccessUnit) (x y : Nat) : Rect :=
  ⟨x * a.unit, y * a.unit, min a.unit (a.width - x * a.unit), min a.unit (auRows a - y * a.unit)⟩

/-- Columns and rows of every unit in raster order. -/
def auUnits (a : AccessUnit) : List (Nat × Nat) :=
  (List.range (auAcross a * auDown a)).map fun i => (i % auAcross a, i / auAcross a)

/-- The number of a unit within the tile of a run. -/
def runIndex (r : CodedRun) (x y : Nat) : Nat := (y - r.tile.y) * r.tile.w + (x - r.tile.x)

/-- A run codes a unit. -/
def runHas (r : CodedRun) (x y : Nat) : Bool :=
  rectHas r.tile x y && decide (r.first ≤ runIndex r x y) && decide (runIndex r x y < r.first + r.count)

/-- Luma samples of a run. -/
def runArea (a : AccessUnit) (r : CodedRun) : Nat :=
  (((auUnits a).filter fun u => runHas r u.1 u.2).map fun u => (unitRect a u.1 u.2).w * (unitRect a u.1 u.2).h).sum

/-! ### Parts (R137) -/

/-- The runs of a picture from one place where entropy decoding restarts to the next: luma samples, bits, runs. -/
def runGroups (a : AccessUnit) : List CodedRun → List (Nat × Nat × Nat)
  | [] => []
  | r :: rs =>
    let own := (runArea a r, 8 * r.len, 1)
    match rs, runGroups a rs with
    | q :: _, g :: gs =>
      if q.starts then own :: g :: gs else (own.1 + g.1, own.2.1 + g.2.1, g.2.2 + 1) :: gs
    | _, l => own :: l

/-- The groups that the first `j` of `n` parts take: as many as come nearest to their share, while each part has one (DESIGN
CHOICE, log 101). `prev`: what the parts before take. -/
def partEnd (sizes : List Nat) (n j prev : Nat) : Nat :=
  let total := sizes.sum
  (leastBy (fun b => ((n * (sizes.take b).sum : Nat) - (j * total : Nat) : Int).natAbs)
    (((List.range (sizes.length + 1)).filter fun b => prev < b && b + (n - j) ≤ sizes.length))).getD prev

/-- How many groups each of the parts `j`, `j` + 1, … of `n` takes. -/
def partSizes (sizes : List Nat) (n : Nat) : Nat → Nat → Nat → List Nat
  | 0, _, _ => []
  | k + 1, j, prev => let e := partEnd sizes n j prev; (e - prev) :: partSizes sizes n k (j + 1) e

/-- Parts of that many groups each; `first`: the number of the first run. -/
def takeParts (l : List (Nat × Nat × Nat)) (first : Nat) : List Nat → List Part
  | [] => []
  | n :: ns =>
    let mine := l.take n
    let runs := (mine.map (·.2.2)).sum
    ⟨(mine.map (·.1)).sum, (mine.map (·.2.1)).sum, first, runs, 0, []⟩ :: takeParts (l.drop n) (first + runs) ns

/-- Parts of an access unit (R137): as nearly equal in luma area as its boundaries allow. -/
def makeParts (g : Get) (a : AccessUnit) : List Part :=
  let lim := g F.CTX_DEC_CTL_MAX_PARTS
  let l := runGroups a a.runs
  let n := min (if lim = 0 then 8 else min 8 lim) l.length
  if l = [] then [⟨a.width * auRows a, 0, 0, 0, 0, []⟩]
  else takeParts l 0 (partSizes (l.map (·.1)) n n 1 0)

/-! ### Lost units (R141) -/

/-- The first byte of run `r` that a gap takes, counted from the run's start. -/
def gapIn (r : CodedRun) (g : Nat × Nat) : Option Nat :=
  if r.at_ < g.2 ∧ (g.1 < r.at_ + r.len ∨ (g.1 = g.2 ∧ g.1 = r.at_ + r.len)) then some (g.1 - r.at_) else none

/-- From which unit of its tile the run number `i` is lost, if it is: all of it where its header is damaged or in a gap,
otherwise from the row in which damage is detected. -/
def runLoss (a : AccessUnit) (gaps : List (Nat × Nat)) (i : Nat) (r : CodedRun) : Option Nat :=
  let cuts := gaps.filterMap (gapIn r)
  if r.headBad || cuts.any (· < r.head) then some r.first
  else
    match (r.bad.toList ++ cuts.map fun b => min (Config.unitAtByte a i b) (r.count - 1)) with
    | [] => none
    | k :: ks =>
      let at_ := r.first + ks.foldl min k
      some (max r.first (at_ / max 1 r.tile.w * r.tile.w))

/-- The runs of a picture, each with the place from which it is lost. -/
def runLosses (a : AccessUnit) (gaps : List (Nat × Nat)) : List (CodedRun × Option Nat) :=
  (List.range a.runs.length).filterMap fun i => a.runs[i]?.map fun r => (r, runLoss a gaps i r)

/-- The run that a unit belongs to: the first that covers it, for the later cover is discarded. -/
def coverOf (l : List (CodedRun × Option Nat)) (x y : Nat) : Option (CodedRun × Option Nat) := l.find? fun r => runHas r.1 x y

/-- A unit is lost: its set is missing or damaged, no run covers it, or the run that does is lost there. -/
def unitLost (a : AccessUnit) (l : List (CodedRun × Option Nat)) (x y : Nat) : Bool :=
  !a.wellFormed || match coverOf l x y with
    | none => true
    | some (r, loss) => loss.any (· ≤ runIndex r x y)

/-- The lost units of a picture: those of R141, and those that read reference samples which stayed uncorrectable (R157). -/
def lostUnits (p : DecPic) : List (Nat × Nat) :=
  let l := runLosses p.au p.gaps
  (auUnits p.au).filter fun u => unitLost p.au l u.1 u.2 || p.hurt.any (rectsMeet (unitRect p.au u.1 u.2))

/-- Damage events of R141: a set that is missing or damaged; or each run that loses units, each run that covers units again,
and units that no run covers (DEDUCED, log 102). -/
def damageCount (p : DecPic) : Nat :=
  let a := p.au
  let l := runLosses a p.gaps
  if !a.wellFormed then 1
  else
    let again := (List.range l.length).filter fun i => (auUnits a).any fun u =>
      (l[i]?.any fun r => runHas r.1 u.1 u.2) && (l.take i).any fun r => runHas r.1 u.1 u.2
    (l.filter (·.2.isSome)).length + again.length +
      (if (auUnits a).any fun u => (coverOf l u.1 u.2).isNone then 1 else 0)

/-! ### References (R145) -/

/-- The reference picture whose output order is closest, the earlier on a tie. -/
def nearestRef (l : List DpbPic) (o : Int) : Option DpbPic :=
  leastBy (fun d => 2 * (d.order - o).natAbs + if o < d.order then 1 else 0) l

/-- What stands for the reference that a name means; `mode`: REF_SUBST. -/
def resolveRef (l : List DpbPic) (mode : Nat) (o : Int) : RefPic :=
  match l.reverse.find? (·.order == o) with
  | some d => .pic d.num
  | none =>
    match mode with
    | 0 => match nearestRef l o with
      | some d => .subst d.num
      | none => .grey
    | 1 => .grey
    | _ => .open_

def RefPic.missing : RefPic → Bool
  | .pic _ => false
  | _ => true

/-- A picture uses a missing reference under FAIL, directly or through another that does. -/
def refsFail (l : List DpbPic) (refs : List RefPic) : Bool :=
  refs.any fun r => match r with
    | .open_ => true
    | .pic n | .subst n => l.any fun d => d.num == n && d.failed
    | .grey => false

/-- Status registers of a stream being decoded (R132). -/
def decStat (s : State) (c : Nat) (a : AccessUnit) : State :=
  let p := ctxPage c
  let s := fset (fset s p F.CTX_DEC_STAT_PROFILE a.profile) p F.CTX_DEC_STAT_LEVEL a.level
  let s := fsetb (fsetb s p F.CTX_DEC_STAT_DEPTH10 a.depth10) p F.CTX_DEC_STAT_CHROMA422 a.chroma422
  fset (fset s p F.CTX_DEC_SIZE_WIDTH a.width) p F.CTX_DEC_SIZE_HEIGHT a.height

/-- INFO0 of a decode SUBMIT (R38). -/
def decInfo (frac : Nat) (conc contam notOut : Bool) : Nat :=
  frac + (if conc then 2 ^ 16 else 0) + (if contam then 2 ^ 17 else 0) + (if notOut then 2 ^ 18 else 0)

/-- The metadata that the stream carries after an access unit (R153): what it carries replaces what stood before, and a new
coded sequence begins with none. -/
def nextHdr (old : HdrData) (i : StreamInfo) : HdrData :=
  let o := if i.newSeq then noHdr else old
  let pick (a b : List Byte) : List Byte := if b = [] then a else b
  ⟨pick o.mdcv i.hdr.mdcv, pick o.cll i.hdr.cll, pick o.t35 i.hdr.t35, i.hdr.t35 != []⟩

/-- How an access unit came in: its SUBMIT, PTS and DTS, T_ready (R159), gaps, the jitter-buffer bytes that it keeps, and the
number of its first picture. -/
structure Arrival where
  sub  : Option Nat
  pts  : Nat
  dts  : Nat
  at_  : Nat
  gaps : List (Nat × Nat)
  jb   : Nat
  unit : Nat

/-- The parameter sets that the stream has shown (R134). -/
def notePs (a : AccessUnit) (x : Ctx) : Ctx :=
  let new := if a.paramsHere then a.params :: x.psNew else x.psNew
  if a.rap then { x with psSeen := (new ++ x.psSeen).eraseDups, psNew := [] } else { x with psNew := new }

/-- A network input may halt at this unit: the set stood before an earlier RAP, and stands before this one (R134). -/
def psTwice (x : Ctx) (a : AccessUnit) : Bool :=
  a.rap && x.psSeen.contains a.params && (a.paramsHere || x.psNew.contains a.params)

/-- The picture that shares its frame with a second field: the last one accepted, where it is the other field of a frame and
has no pair yet (R133). -/
def mateOf (x : Ctx) (a : AccessUnit) : Option Nat :=
  match x.decs.getLast? with
  | some p =>
    if a.second && a.field.isSome && p.au.field.isSome && p.au.field != a.field && !p.second && !p.alone then some p.num
    else none
  | none => none

/-- The reference pictures after a coded picture (R145): those that it keeps, and itself. -/
def nextDpb (n : Nat) (l : List DpbPic) (a : AccessUnit) (num : Nat) (failed : Bool) : List DpbPic :=
  let l := (l.filter fun d => a.keep.contains d.order) ++ if a.isRef then [⟨num, a.order, failed⟩] else []
  l.drop (l.length - n)

/-- A coded picture that can be decoded joins its context (R137, R145, R147, R159). -/
def addDec (s : State) (c : Nat) (k : Arrival) (a : AccessUnit) : State :=
  let x := getCtx s c
  let g := active s c
  let masks := masksNow s c
  let num := x.picCount
  let old := if a.info.newSeq then [] else x.dpb
  let refs := a.refs.map (resolveRef old (g F.CTX_DEC_CTL_REF_SUBST))
  let failed := refsFail old refs
  let mate := mateOf x a
  let start := if a.refreshStart then some num else x.refresh
  let hdr := nextHdr x.hdr a.info
  let pic : DecPic :=
    { num := num, sub := k.sub, unit := k.unit, pts := k.pts, dts := k.dts, au := a, tReady := k.at_
      deadline := k.at_ + g.latency, jb := if k.unit = num then k.jb else 0, parts := makeParts g a, gaps := k.gaps
      failedOnce := [], hurt := [], refs := refs, epoch := if a.info.newSeq then x.epoch + 1 else x.epoch
      since := start, shows := none, mate := mate, second := mate.isSome, alone := false, half := none, available := none
      lc := 0, substs := (refs.filter RefPic.missing).length, concFrac := 0, conc := false, contam := false
      subst := refs.any RefPic.missing, failed := failed, withheld := false, output := false, orderNo := 0, seq := none
      readers := [], eeMask := masks.1, deMask := masks.2, pix := noPicture, hdr := hdr, slot := none, bufs := [] }
  let s := if a.wellFormed then decStat s c a else s
  modCtx s c fun y => { y with
    started := true, picCount := num + 1, hdr := hdr, epoch := pic.epoch
    dpb := nextDpb g.decodeDpb old a num failed, refresh := if a.recovers then none else start
    raslOut := if a.rap then !y.started || a.info.newSeq else y.raslOut
    decs := (y.decs.map fun p => if some p.num = mate then { p with mate := some num } else p) ++ [pic] }

/-- The frame in a slot is shown (R149): it is output as a picture of this access unit. Nothing is known of a slot that holds
none: no picture comes of it (DESIGN CHOICE, log 103). -/
def addShow (s : State) (c : Nat) (k : Arrival) (a : AccessUnit) (o : Int) : State :=
  let x := getCtx s c
  let g := active s c
  match x.dpb.reverse.find? (·.order == o) with
  | none => s
  | some d =>
    let src := x.decs.find? (·.num == d.num)
    let au := match src with
      | some p => { p.au with show_ := a.show_, shown := true, rap := a.rap, info := a.info, runs := [] }
      | none => a
    let pic : DecPic :=
      { num := x.picCount, sub := k.sub, unit := k.unit, pts := k.pts, dts := k.dts, au := au, tReady := k.at_
        deadline := k.at_ + g.latency, jb := if k.unit = x.picCount then k.jb else 0, parts := [], gaps := []
        failedOnce := [], hurt := [], refs := [], epoch := if a.info.newSeq then x.epoch + 1 else x.epoch
        since := none, shows := some d.num, mate := none, second := false, alone := false, half := none, available := none
        lc := 0, substs := 0, concFrac := 0, conc := false, contam := false, subst := false, failed := d.failed
        withheld := false, output := false, orderNo := 0, seq := none, readers := [], eeMask := 0, deMask := 0
        pix := noPicture, hdr := ((src.map (·.hdr)).getD x.hdr), slot := none, bufs := [] }
    modCtx s c fun y => { y with
      picCount := y.picCount + 1, decs := y.decs ++ [pic], epoch := pic.epoch
      dpb := if a.keep = [] then y.dpb else y.dpb.filter fun e => a.keep.contains e.order || e.num == d.num }

/-- One coded picture of a complete access unit reaches its context (R134, R135). A pending RECONFIG becomes active at a RAP of
the input, which is then judged under it (R49). A RASL picture of a CRA that starts decoding is not output (R148), and is not
decoded (DEDUCED, log 104). -/
def acceptAu (s : State) (c : Nat) (k : Arrival) (a : AccessUnit) : State :=
  if ctxState s c ≠ 3 then s
  else
    let s := if a.rap && a.wellFormed then applyReconf s c else s
    let x := getCtx s c
    let g := active s c
    let cause := haltCause g a
    let net := k.sub.isNone
    if !x.started && !a.rap then s
    else if cause ≠ 0 ∧ net ∧ g F.CTX_DEC_XCONC_STRICT_HALT = 0 ∧ !psTwice x a then
      fadd (modCtx s c fun y => { notePs a y with started := true }) (ctxPage c) F.CTX_DEC_CNT_LOST_COUNT 1
    else if cause ≠ 0 then haltCtx s c cause k.sub
    else
      let s := modCtx s c (notePs a)
      match a.show_ with
      | some o => addShow s c k a o
      | none => if a.rasl && x.raslOut then s else addDec s c k a

/-- The pictures of a complete access unit reach their context in decoding order. A context keeps no picture of a unit before
the first RAP, and of a host unit of which it keeps none the SUBMIT completes (R135). -/
def acceptUnit (s : State) (c : Nat) (k : Arrival) (l : List AccessUnit) : State :=
  let unit := (getCtx s c).picCount
  let s := l.foldl (fun s a => acceptAu s c { k with unit := unit } a) s
  match k.sub with
  | some n =>
    if ctxState s c = 3 ∧ !((getCtx s c).decs.any fun p => p.sub == some n) then
      submitDone s c n stOk (decInfo 0 false false true) 0 0
    else s
  | none => s

/-- An access unit of a network input is complete (R205, R38 CNT_IN). Before the first RAP it is counted nowhere (R135). -/
def acceptNet (s : State) (c : Nat) (k : Arrival) (l : List AccessUnit) : State :=
  if ctxState s c = 3 ∧ ((getCtx s c).started || l.any (·.rap)) then
    acceptUnit (fadd s (ctxPage c) F.CTX_CNT_IN_COUNT 1) c k l
  else s

/-! ### Output -/

/-- `a` does not follow `b`, modulo 2^33 (R45). -/
def ptsLe (a b : Nat) : Bool := (b + 2 ^ 33 - a % 2 ^ 33) % 2 ^ 33 < 2 ^ 32

/-- FIELDS of R133: two interleaved fields. -/
def DecPic.hasFields (p : DecPic) : Bool := p.au.fields || p.au.field.isSome

/-- The sixteen words of an output record (R150). -/
def picRecord (p : DecPic) (seq bytes off : Nat) (cont : Bool) : List Nat :=
  let bit (b : Bool) (n : Nat) : Nat := if b then 2 ^ n else 0
  let i := p.au.info
  [3 + 2 ^ 8 + 64 * 2 ^ 16, bytes, p.pts % 2 ^ 32, p.pts / 2 ^ 32 % 2, p.dts % 2 ^ 32, p.dts / 2 ^ 32 % 2,
   i.ptype.val + bit p.au.rap 3 + bit p.conc 4 + bit p.contam 5 + bit p.subst 6 + bit p.au.depth10 7 + bit p.au.chroma422 8 +
     bit p.hasFields 9 + bit (p.hasFields && i.tff) 10 + bit cont 11 + bit i.grain 12,
   p.concFrac + 2 ^ 16 * p.parts.length, p.orderNo % 2 ^ 32, p.au.width + 2 ^ 16 * p.au.height,
   imageStride p.au.width p.au.depth10, imageStride p.au.width p.au.depth10 * p.au.height, off, seq % 2 ^ 32,
   p.available.getD 0 % 2 ^ 32, p.available.getD 0 / 2 ^ 32 % 2 ^ 32]

def modDec (s : State) (c n : Nat) (f : DecPic → DecPic) : State :=
  modCtx s c fun x => { x with decs := x.decs.map fun p => if p.num = n then f p else p }

/-- How many source pictures make one of a destination's (R52): 1 to 4. FIELD counts the source's rate twice (R190). -/
def linkRatio (src dst : Get) : Nat :=
  let k := if dst F.CTX_PP_CTL_DEINT = 2 then 2 else 1
  if dst.num * src.den = 0 then 1 else max 1 (k * src.num * dst.den / (dst.num * src.den))

/-- Offer a picture to one destination (R53, R191): it is taken from a RAP onward that was decoded after the link existed
and the destination ran, the first of each group. Under FIELD a source picture counts as two, and gives the pictures that
the groups leave (R190). -/
def offerTo (s : State) (c : Nat) (p : DecPic) (d : Nat) : State :=
  let x := getCtx s d
  let g := active s d
  if ctxState s d ≠ 3 ∨ (!x.linkOn && (!p.au.rap || x.linkOld.contains p.num)) then s
  else
    let skip := if x.linkOn then x.linkSkip else 0
    let ratio := linkRatio (active s c) g
    let field := g F.CTX_PP_CTL_DEINT = 2
    let half := 90000 * (active s c).den / (2 * max 1 (active s c).num)
    let prev := (getCtx s c).lastOut.map (·.pix)
    let one (pts : Nat) (rap : Bool) : LinkPic :=
      ⟨pts % 2 ^ 33, c, p.num, rap, false, false, none, noPicture, p.hdr, some p, prev, none⟩
    let cands := if field then [one p.pts p.au.rap, one (p.pts + half) false] else [one p.pts p.au.rap]
    let taken := (List.range cands.length).filterMap fun i => if (skip + i) % ratio = 0 then cands[i]? else none
    let s := modCtx s d fun y => { y with
      linkOn := true, linkSkip := (skip + cands.length) % ratio, linkPics := y.linkPics ++ taken }
    if taken = [] then s else modDec s c p.num fun q => { q with readers := q.readers ++ taken.map fun _ => d }

/-- A decoded picture as what is kept of it. -/
def DecPic.asRef (p : DecPic) : DecRef :=
  ⟨p.num, p.epoch, p.au.order, p.pts, p.hasFields, p.pix, p.contam, p.failed, p.subst, p.lc,
    false, none, p.slot⟩

/-- The output process takes one picture (R149): counted, delivered to the host, offered to linked destinations. A withheld
one keeps its place in output order (DEDUCED, log 105). -/
def outputPic (s : State) (c : Nat) (p : DecPic) (last : Bool) : State :=
  let host := ctxKind s c == 1
  let degraded := p.conc || p.contam || p.subst || p.withheld
  let st := if degraded then stDegraded else stOk
  let order := if p.au.info.newSeq then 0 else (getCtx s c).outOrder
  let p := { p with orderNo := order }
  let s := modCtx s c fun y => { y with outOrder := order + 1, lastOut := some p.asRef }
  let s := (linkDsts s c).foldl (fun s d => modCtx s d fun y => { y with
    linkPics := y.linkPics.map fun q => if q.src = c ∧ q.next.isNone then { q with next := some p.pix } else q }) s
  let same (q : DecPic) : Bool := q.num == p.num || some q.num == p.shows || (p.mate == some q.num && q.second)
  let mark (seq : Option Nat) (s : State) : State := modCtx s c fun y => { y with
    decs := y.decs.map fun q => if same q then { q with output := true, orderNo := order, seq := seq } else q }
  if p.withheld then fadd (mark none s) (ctxPage c) F.CTX_DEC_CNT_NOTOUT_COUNT 1
  else
    let seq := (getCtx s c).outSeq
    let s := mark (some seq) s
    let s := fsetb s (ctxPage c) F.CTX_DEC_STAT_CONTAMINATED p.contam
    let s := fsetb s (ctxPage c) F.CTX_DEC_STAT_FIELDS p.hasFields
    let s := fadd (modCtx s c fun y => { y with outSeq := seq + 1 }) (ctxPage c) F.CTX_CNT_OUT_COUNT 1
    let shares := partShares (imageBytes p.au.width p.au.height p.au.depth10 p.au.chroma422)
    let flags := (if p.au.rap then 1 else 0) + (if p.conc then 2 else 0) + (if p.contam then 4 else 0) +
      2 ^ 16 * p.concFrac
    let image := imageOf p.pix (freeByte s)
    let parts := (List.range shares.length).map fun i =>
      let more := i + 1 < shares.length
      (⟨shares.length != 1, seq, shares.getD i 0, picRecord p seq (shares.getD i 0) (shares.take i).sum more, st,
        flags + (if last && !more then 8 else 0), more, partData image shares i⟩ : OutPart)
    let s := (linkDsts s c).foldl (fun s d => offerTo s c p d) s
    if host then putParts (useFrees s shares.sum) c parts else s

/-- `a` comes before `b` in output order. AV1 shows its frames in the order in which they come. -/
def DecPic.before (a b : DecPic) : Bool :=
  if a.epoch ≠ b.epoch then a.epoch < b.epoch
  else if a.au.codec = 3 then a.num < b.num
  else a.au.order < b.au.order || (a.au.order == b.au.order && decide (a.num < b.num))

/-- A picture that the output process has still to take. -/
def DecPic.waits (p : DecPic) : Bool := !p.output && p.au.shown && !p.second

def waitingOut (x : Ctx) : List DecPic := x.decs.filter DecPic.waits

/-- The picture earliest in output order that is not output. -/
def firstOut : List DecPic → Option DecPic
  | [] => none
  | p :: ps =>
    match firstOut ps with
    | none => some p
    | some q => if p.before q then some p else some q

/-- A picture gives an output entry: it is output and not withheld. -/
def DecPic.gives (p : DecPic) : Bool := p.au.shown && !p.second && !p.withheld

/-- A picture gives no output entry any more. -/
def DecPic.silent (p : DecPic) : Bool :=
  p.output || p.second || !p.au.shown || (p.available.isSome && !p.gives)

/-- In a drain, END goes on the last output (R47): no other picture will still give one. -/
def lastDec (s : State) (c : Nat) (p : DecPic) : Bool :=
  ctxState s c == 4 && (getCtx s c).decs.all fun q => q.num == p.num || q.silent

/-- It is known whether the output of a picture is the last of a drain: a picture on which that hangs holds it back
(DESIGN CHOICE, log 88). -/
def endKnown (s : State) (c : Nat) (p : DecPic) : Bool :=
  ctxState s c != 4 || !p.gives || lastDec s c p ||
    (getCtx s c).decs.any fun q => !q.output && q.num != p.num && q.available.isSome && q.gives

/-! ### The decoded picture buffer (R66, R152, R372) -/

/-- The handles of place `k` in the decoded picture buffer of a decode context. -/
def decBufs (s : State) (c k : Nat) : List Nat := partHandles (memParts (ctxKind s c) (active s c)) k (getCtx s c).mem

/-- A picture lies in the reservation in force, not in the one before it (R49). -/
def inNewMem (x : Ctx) (num : Nat) : Bool := x.oldMem == [] || decide (x.oldUpto ≤ num)

/-- Places of the D + 2 that no picture takes. -/
def freeSlots (s : State) (c : Nat) : List Nat :=
  let x := getCtx s c
  (List.range ((active s c).decodeDpb + 2)).filter fun k =>
    !(x.decs.any (fun p => p.slot == some k && inNewMem x p.num) || x.decRefs.any fun r => r.slot == some k && inNewMem x r.num)

/-- Write a picture to its buffers, as it is stored there (R18, R66). -/
def storeBytes (s : State) (pix : Picture) (off total : Nat) : List Nat → State
  | [] => s
  | h :: hs =>
    let n := min (poolSize (handlePool h)) (total - off)
    storeBytes (memWriteN s (bufAddr s h) ((List.range n).map fun i => BitVec.ofNat 8 (Config.storedForm pix (off + i))))
      pix (off + n) total hs

/-- Bytes of a stored picture (R66, R152). -/
def storedBytes (g : Get) : Nat := ceilDiv (picBytes g.codec g.w g.h g.depth10 g.c422 * 33) 32

/-- The first picture in output order may be output: it is available, and the output process of the standard takes it now: the
input is closed, a later coded sequence has begun, more pictures wait than output may lag, or no buffer is free. -/
def outputDue (s : State) (c : Nat) (p : DecPic) : Bool :=
  let x := getCtx s c
  let lag := (x.decs.getLast?.map (·.au.reorder)).getD 0
  p.available.isSome && endKnown s c p &&
    (ctxState s c != 3 || p.au.codec == 3 || decide (p.epoch < x.epoch) || decide (lag < (waitingOut x).length) ||
      freeSlots s c == [])

/-- Output what is due (R149, R191). -/
def outputPics : Nat → State → Nat → State
  | 0, s, _ => s
  | n + 1, s, c =>
    match firstOut (waitingOut (getCtx s c)) with
    | none => s
    | some p => if outputDue s c p then outputPics n (outputPic s c p (lastDec s c p)) c else s

/-- A frame that is not shown is done with (R140, R148): in AV1 once it has left every reference slot and none is still to be
shown, or the stream has ended; elsewhere once it is decoded. -/
def hiddenOver (s : State) (c : Nat) (p : DecPic) : Bool :=
  let x := getCtx s c
  !p.au.shown && !p.output && p.available.isSome &&
    (p.au.codec != 3 || (!x.decs.any (fun q => q.shows == some p.num && !q.output) &&
      (ctxState s c != 3 || !x.dpb.any (·.num == p.num))))

def endHidden (s : State) (c : Nat) : State :=
  modCtx s c fun x => { x with decs := x.decs.map fun p => if hiddenOver s c p then { p with output := true } else p }

/-- Every picture of the access unit of a picture is output or declared not to be. -/
def unitOver (x : Ctx) (unit : Nat) : Bool := x.decs.all fun p => p.unit != unit || p.output

/-- What the SUBMIT of an access unit completes with (R38, R148): the figures of its picture that is output, or else of its
last. -/
def earnedBy (l : List DecPic) : Option (DecPic × Bool) :=
  match l.find? fun p => p.seq.isSome || p.withheld with
  | some p => some (p, p.withheld)
  | none => l.getLast?.map fun p => (p, true)

/-- SUBMITs whose access units are over complete (R38, R140, R148). -/
def subsEnd (ended : List DecPic → Bool) (s : State) (c : Nat) : State :=
  (getCtx s c).submits.foldl (fun s u =>
    if u.done.isSome then s
    else
      let x := getCtx s c
      let own := x.decs.filter fun p => p.sub == some u.num
      if !ended own then s
      else
        match earnedBy own with
        | none => s
        | some (p, notOut) =>
          let st := if p.withheld || (!notOut && (p.conc || p.contam || p.subst)) then stDegraded else stOk
          submitDone s c u.num st (decInfo p.concFrac p.conc p.contam notOut) 0 0
            (if ctxKind s c = 1 then p.seq else none)) s

def subsDone (s : State) (c : Nat) : State := subsEnd (fun l => l.all (·.output)) s c

/-- SUBMITs of which a picture has been output keep their completion, though the rest of the unit is discarded (R48). -/
def subsKeep (s : State) (c : Nat) : State := subsEnd (fun l => l.any fun p => p.seq.isSome || p.withheld && p.output) s c

/-- Let go of pictures that nobody reads any more (R140, R191), and of references that no picture needs. -/
def dropDecs (s : State) (c : Nat) : State :=
  modCtx s c fun x =>
    let decs := x.decs.filter fun p => !(p.output && p.readers == [] && unitOver x p.unit)
    let needs (n : Nat) : Bool := x.dpb.any (·.num == n) || decs.any fun p =>
      p.available.isNone && (p.shows == some n || p.mate == some n || p.refs.any fun r => r == .pic n || r == .subst n)
    let olds := decs.filterMap (·.since) ++ x.refresh.toList
    { x with
      decs := decs, decRefs := x.decRefs.filter fun r => needs r.num
      marred := x.marred.filter fun m => olds.any (· ≤ m) }

/-! ### Samples of a decoded picture (R136, R142–R145) -/

/-- A picture of which nothing is known. -/
def openPicture (a : AccessUnit) : Picture :=
  let f (i : Nat) : Nat → Nat → Nat := fun x y => Config.noReference i x y % (2 * midLevel a.depth10)
  let c := chromaH (auRows a) a.chroma422
  ⟨a.depth10, a.chroma422, planeOf a.width (auRows a) (f 0), planeOf (chromaW a.width) c (f 1), planeOf (chromaW a.width) c (f 2), []⟩

/-- A reference as a picture reads it: a frame reads the frame of two fields, a field the lines of its own parity (R133). -/
def DecRef.read (a : AccessUnit) (r : DecRef) : Picture :=
  match a.field with
  | none => r.frame.getD r.pix
  | some top => if r.field then r.pix else fieldOf r.pix top

/-- The samples of a reference (R145): a substitute stores no motion. -/
def refPicture (l : List DecRef) (a : AccessUnit) : RefPic → Picture
  | .pic n => ((l.find? (·.num == n)).map (·.read a)).getD (openPicture a)
  | .subst n => { ((l.find? (·.num == n)).map (·.read a)).getD (openPicture a) with motion := [] }
  | .grey => flatPicture a.width (auRows a) a.depth10 a.chroma422 (midLevel a.depth10)
  | .open_ => openPicture a

/-- The nearest preceding picture in output order that is available (R143), for a picture without list 0. -/
def precedingPicture (x : Ctx) (p : DecPic) : Picture :=
  let l := x.decRefs ++ (x.decs.filter (·.available.isSome)).map DecPic.asRef ++ x.lastOut.toList
  let before := l.filter fun r => decide (r.epoch < p.epoch) || (r.epoch == p.epoch && decide (r.order < p.au.order))
  ((before.foldl (fun best r =>
    match best with
    | none => some r
    | some b => if b.epoch < r.epoch ∨ (b.epoch = r.epoch ∧ b.order < r.order) then some r else some b) none).map (·.read p.au)).getD
      (openPicture p.au)

/-- The picture that a lost unit is predicted from (R143): the first of the list 0 of its slice; of the picture, where the
slice is not known (DESIGN CHOICE, log 100). -/
def unitRef (x : Ctx) (p : DecPic) (l : List (CodedRun × Option Nat)) (u : Nat × Nat) : Picture :=
  let first : Option Nat := if p.refs = [] then none else some 0
  let n := match coverOf l u.1 u.2 with
    | some (r, loss) => if loss = some r.first ∧ r.headBad then first else r.list0
    | none => first
  match n.bind fun n => p.refs[n]? with
  | some r => refPicture x.decRefs p.au r
  | none => precedingPicture x p

/-- The picture outside its lost units, by the standard's decoding process (R136). -/
def basePicture (a : AccessUnit) (refs : List Picture) (lost : List Rect) : Picture :=
  let f (i : Nat) : Nat → Nat → Nat := fun x y => Config.decodedSample a refs lost i x y % (2 * midLevel a.depth10)
  let c := chromaH (auRows a) a.chroma422
  ⟨a.depth10, a.chroma422, planeOf a.width (auRows a) (f 0), planeOf (chromaW a.width) c (f 1), planeOf (chromaW a.width) c (f 2), []⟩

/-- What is known of a picture before concealment, with the motion of its received units. -/
def damagedOf (x : Ctx) (p : DecPic) : Damaged :=
  let lost := (lostUnits p).map fun u => unitRect p.au u.1 u.2
  ⟨p.au.width, (auRows p.au), p.au.depth10, p.au.chroma422, basePicture p.au (p.refs.map (refPicture x.decRefs p.au)) lost, lost⟩

def motionOf (x : Ctx) (p : DecPic) : List Block :=
  if p.au.intra then [] else Config.decodedMotion p.au (p.refs.map (refPicture x.decRefs p.au))

/-- How each lost unit of a picture is concealed: spatially in a picture whose slices are all intra or under TEMPORAL_OFF,
otherwise by motion projection. -/
def patchesOf (x : Ctx) (off : Bool) (p : DecPic) : List (Rect × Patch) :=
  let d := damagedOf x p
  let motion := motionOf x p
  let l := runLosses p.au p.gaps
  (lostUnits p).map fun u =>
    let r := unitRect p.au u.1 u.2
    (r, if off || p.au.intra then .spatial
      else let ref := unitRef x p l u; .motion ref (d.vector (motion.filter fun b => !d.lost.any (rectsMeet ⟨b.x, b.y, b.w, b.h⟩)) ref r))

/-- The samples of a picture whose parts have all completed. -/
def decodedPicture (s : State) (c : Nat) (p : DecPic) : Picture :=
  let x := getCtx s c
  (damagedOf x p).picture (patchesOf x (active s c F.CTX_DEC_XCONC_TEMPORAL_OFF == 1) p) (motionOf x p)

/-! ### A picture is available (R133, R139, R146–R148) -/

/-- CONC_FRAC (R146); a field without its pair has 512 (R133). -/
def concFrac (p : DecPic) : Nat :=
  if p.alone then 512 else min 1024 (ceilDiv (1024 * p.lc) (max 1 (p.au.width * p.au.height)))

/-- A picture is available with its samples: its flags, whether it is withheld, its counts. -/
def frameReady (s : State) (c : Nat) (p : DecPic) (pix : Picture) : State :=
  let frac := concFrac p
  let conc := frac != 0
  let contam := p.contam || conc
  let withheld := p.au.shown && (p.failed || decide (active s c F.CTX_DEC_OUT_DROP_ABOVE < frac))
  let page := ctxPage c
  let s := modDec s c p.num fun q => { q with
    available := some s.devtime, pix := pix, lc := p.lc, substs := p.substs, parts := p.parts, alone := p.alone
    concFrac := frac, conc := conc, contam := contam, subst := p.subst, failed := p.failed, withheld := withheld }
  let s := if conc && p.shows.isNone then fadd s page F.CTX_DEC_CNT_CONC_COUNT 1 else s
  if p.deadline < s.devtime then
    setIrq (fadd { s with disp := { s.disp with lateDe := true } } page F.CTX_DEC_CNT_LATE_COUNT 1) page 16
  else s

/-- A frame that is shown again is available once it is decoded (R149). -/
def showReady (s : State) (c : Nat) (r : DecRef) (p : DecPic) : State :=
  frameReady s c { p with lc := r.lc, contam := r.contam, subst := r.subst, failed := r.failed } r.pix

/-- The show_existing_frame units whose frame is decoded. -/
def showsReady (s : State) (c : Nat) : State :=
  (getCtx s c).decs.foldl (fun s p =>
    match p.shows with
    | some n =>
      match (getCtx s c).decRefs.find? (·.num == n) with
      | some r => if p.available.isNone then showReady s c r p else s
      | none => s
    | none => s) s

/-- The frame of two fields: the first field's picture stands for it, the second completes with it. -/
def joinFields (s : State) (c : Nat) (p q : DecPic) (a b : Picture) : State :=
  let pix := if p.au.field = some true then weave a b p.au.height else weave b a p.au.height
  let both : DecPic := { p with
    lc := p.lc + q.lc, substs := p.substs + q.substs, parts := p.parts ++ q.parts, contam := p.contam || q.contam
    subst := p.subst || q.subst, failed := p.failed || q.failed }
  let s := frameReady s c both pix
  let s := modCtx (storeBytes s pix 0 (storedBytes (active s c)) p.bufs) c fun x => { x with
    decRefs := x.decRefs.map fun r => if r.num = p.num ∨ r.num = q.num then { r with frame := some pix } else r }
  match (getCtx s c).decs.find? (·.num == p.num) with
  | some f => modDec s c q.num ({ · with
      available := f.available, concFrac := f.concFrac, conc := f.conc, contam := f.contam, subst := f.subst
      withheld := f.withheld })
  | none => s

/-- No second field follows a first one: another picture has come, or the input is closed. -/
def pairOver (s : State) (c : Nat) (p : DecPic) : Bool :=
  p.mate.isNone && (ctxState s c != 3 || (getCtx s c).decs.any fun q => p.num < q.num)

/-- Fields that have been decoded become frames (R133). -/
def fieldsReady (s : State) (c : Nat) : State :=
  (getCtx s c).decs.foldl (fun s p =>
    match p.half with
    | some a =>
      if p.available.isSome || p.second then s
      else
        match p.mate.bind fun n => (getCtx s c).decs.find? (·.num == n) with
        | some q => match q.half with
          | some b => joinFields s c p q a b
          | none => s
        | none =>
          if pairOver s c p then frameReady s c { p with alone := true } (fillField a (p.au.field == some true) p.au.height)
          else s
    | none => s) s

/-- Whether the recovery of a gradual refresh completes clean (R147): no picture from its start up to this one was concealed or
had a reference substituted. -/
def recovered (x : Ctx) (p : DecPic) : Bool :=
  p.au.recovers && p.since.any fun n =>
    !x.marred.any (fun m => n ≤ m && m ≤ p.num) &&
      x.decs.all fun q => q.num < n || p.num < q.num || q.half.isSome || q.available.isSome ||
        (lostUnits q == [] && q.substs == 0)

/-- Output, release and end a drain, as far as a decode context can. -/
def settleDec (s : State) (c : Nat) : State :=
  let s := fieldsReady (showsReady s c) c
  let s := subsDone (endHidden (outputPics ((getCtx s c).decs.length) s c) c) c
  checkDrain (dropOldMem (dropDecs s c) c) c

/-- A destination reads no more pictures of a source (R53, R191). -/
def readersGone (s : State) (d c : Nat) : State :=
  settleDec (modCtx s c fun x => { x with
    decs := x.decs.map fun p => { p with readers := p.readers.filter (· != d) } }) c

/-- A destination lets go of every source picture that it was to read. -/
def dropSources (s : State) (d : Nat) : State :=
  (((getCtx s d).linkPics.map (·.src)).eraseDups.filter (· != 256)).foldl (fun s c => readersGone s d c) s

/-- Every part of a coded picture has completed (R139): its samples, its flags, its counts; it serves as a reference. -/
def picDecoded (s : State) (c : Nat) (p : DecPic) : State :=
  let x := getCtx s c
  let page := ctxPage c
  let pix := decodedPicture s c p
  let lc := lostSamples p.au.width (auRows p.au) ((lostUnits p).map fun u => unitRect p.au u.1 u.2)
  let through := p.refs.any fun r => match r with
    | .pic n | .subst n => x.decRefs.any fun d => d.num == n && d.contam
    | _ => false
  let contam := lc != 0 || (!recovered x p && (p.subst || through))
  let p := { p with lc := lc, contam := contam }
  let s := modCtx s c fun y => { y with
    marred := if lc != 0 || p.subst then p.num :: y.marred else y.marred
    decRefs := { p.asRef with pix := pix, field := p.au.field.isSome } :: y.decRefs }
  let s := fadd (fadd s page F.CTX_DEC_CNT_ERR_COUNT (damageCount p)) page F.CTX_DEC_CNT_SUBST_COUNT p.substs
  let s := storeBytes s pix 0 (storedBytes (active s c)) p.bufs
  let s := if p.au.field.isSome then modDec s c p.num ({ · with half := some pix, lc := lc, contam := contam })
    else frameReady s c p pix
  settleDec s c

end Sys2Proof.Machine
end

