-- ==== Sys2Proof/Machine/Commands.lean ====
section
/-! DEFINITION. The commands of R38 as the device begins them: the checks of R40 in their order, the table of R42, and
what each command does. -/

namespace Sys2Proof.Machine

/-! ### The checks of R40 -/

/-- Parameter bits that an opcode uses (R38); every other bit is reserved. `kind`: 0 encode, 1 decode, 2 either. -/
def paramMasks (op kind : Nat) : List Nat :=
  let full := 2 ^ 32 - 1
  let addr := full - 63
  match op with
  | 0x01 => [0x373, 0x1FF]
  | 0x04 =>
    match kind with
    | 0 => [addr, full, 0xFFC0, addr, full, full, 1]
    | 1 => [addr, full, full, 0, 0, full, 1, full, 1]
    | _ => [addr, full, full, addr, full, full, 1, full, 1]
  | 0x06 => [1]
  | 0x07 => [full, 1, 1]
  | 0x08 => [0x800FFFFF, 0x80003FFF, 0x8000007F, 1]
  | 0x09 => [0x1FFFF]
  | 0x0A => [0x3FFFF, 0x3FFFF, 3]
  | 0x0B => [0xF]
  | 0x0F => [1]
  | _ => []

/-- No bit outside the masks is set. -/
def masksOk (d : Desc) (masks : List Nat) : Bool :=
  (List.range 14).all fun i => d.p i &&& masks.getD i 0 == d.p i

/-- Check 1 of R40: the static form. -/
def staticOk (d : Desc) (kind : Nat) : Bool :=
  definedOpcode d.opcode && bitsOf (d.w 0) 9 7 == 0 && bitsOf (d.w 1) 16 16 == 0 &&
    (d.opcode != 1 || d.w 1 == 0) && masksOk d (paramMasks d.opcode kind) &&
    match d.opcode with
    | 0x01 => bitsOf (d.p 0) 0 2 ≤ 2 && bitsOf (d.p 0) 4 3 ≤ 4 && (d.p 1 < 0x100 || d.p 1 == 0x1FF)
    | 0x08 => bitsOf (d.p 2) 0 7 ≤ 100
    | 0x0A => d.p 2 ≤ 2
    | 0x0B => d.p 0 ≤ 2
    | _ => true

/-- The kind of context that decides which bits of a SUBMIT are reserved. Check 1 of R40 comes before existence, so the form
of a SUBMIT whose GEN is stale is judged by the kind that the context has now, and on a FREE context a bit is reserved where
neither form uses it (DESIGN CHOICE, log 89). -/
def formKind (s : State) (c : Nat) : Nat := if ctxState s c = 0 then 2 else min 1 (ctxKind s c)

/-- Check 4: the states of R42 in which a command is accepted. -/
def stateOk (op st : Nat) : Bool :=
  match op with
  | 0x02 => st == 1 || st == 2 || st == 5
  | 0x03 => st == 2
  | 0x04 | 0x05 | 0x07 => st == 3
  | 0x06 | 0x08 | 0x09 => st == 2 || st == 3
  | 0x0A => st == 1 || st == 2 || st == 3
  | 0x0B | 0x0F => st != 0
  | _ => false

/-- Checks 1 to 4 of R40 for a command that names a context: the failing status, or none. -/
def checkCmd (s : State) (own : Nat) (d : Desc) : Option Nat :=
  let c := d.ctx
  if !staticOk d (formKind s c) then some stBadParam
  else if ctxState s c = 0 ∨ ctxGen s c ≠ d.gen then some stConflict
  else if ctxOwner s c ≠ own ∧ !(own = 0 ∧ (d.opcode = 0x0B ∨ d.opcode = 0x0F)) then some stNotOwner
  else if !stateOk d.opcode (ctxState s c) then some stConflict
  else none

/-- The device begins the command at the head of a ring, if it carries opcode `op` (R28): checks 1 to 4, then `body` with
the descriptor, its reference and the context. -/
def runCmd (own ring : Nat) (op : Nat) (s : State) (body : Desc → CmdRef → Nat → State → State) :
    Host.Outcome State Fault Refusal :=
  match beginCmd s (ringKey own ring) (· == op) with
  | none => .next s
  | some (d, ref, s) =>
    match checkCmd s own d with
    | some st => .next (cmdDone s ref st)
    | none => .next (body d ref d.ctx s)

/-! ### OPEN -/

/-- Contexts a function holds, and their window slots (R56). -/
def heldBy (s : State) (own : Nat) : List Nat := ctxList.filter fun c => ctxState s c != 0 && ctxOwner s c == own

def freeSlotOf (s : State) (own : Nat) : Option Nat :=
  let used := (heldBy s own).map fun c => (getCtx s c).slot
  ((List.range 63).map (· + 1)).find? fun n => !used.contains n

/-- A Quartz cluster that may host contexts (R332). -/
def clusterUp (s : State) (q : Nat) : Bool :=
  s.bdrk.qzUp.getD q false && !(s.bdrk.qz.any fun x => x.cluster == q)

def hostedOn (s : State) (q : Nat) : Nat := (ctxList.filter fun c => ctxState s c != 0 && (getCtx s c).cluster == q).length

/-- The cluster that OPEN assigns (R332). -/
def pickCluster (s : State) : Nat :=
  match clusterUp s 0, clusterUp s 1 with
  | true, false => 0
  | false, true => 1
  | _, _ => if hostedOn s 1 < hostedOn s 0 then 1 else 0

/-- OPEN takes a context (R34, R56): every register of its page returns to its reset value but the three of R56. -/
def openCtx (s : State) (c own slot p0 : Nat) : State :=
  let gen := (ctxGen s c + 1) % 256
  let page := ctxPage c
  let q := pickCluster s
  let s := clearPage s page fun o => o < 0xC
  let s := { s with ctxs := tput ctx0 s.ctxs c { ctx0 with slot := slot, cluster := q } }
  let s := fset (fset (fset s page F.CTX_STATE_STATE 1) page F.CTX_STATE_OWNER own) page F.CTX_STATE_GEN gen
  let s := fset (fset s page F.CTX_STATE_KIND (bitsOf p0 0 2)) page F.CTX_STATE_CLASS (bitsOf p0 4 3)
  syncPage (fset s page F.CTX_STATE_RING (bitsOf p0 8 2)) page

def opOpenBody (own : Nat) (d : Desc) (ref : CmdRef) (s : State) : State :=
  let want := d.p 1
  let target := if want = 0x1FF then ctxList.find? fun c => ctxState s c == 0 else some want
  if !staticOk d 2 then cmdDone s ref stBadParam
  else if want ≠ 0x1FF ∧ ctxState s want ≠ 0 then cmdDone s ref stConflict
  else
    let slot := if 1 ≤ own ∧ own < 64 then freeSlotOf s own else some 0
    match target, slot with
    | some c, some n =>
      if readyBit s 62 then
        let s := openCtx s c own n (d.p 0)
        cmdDone s ref stOk (c + 2 ^ 8 * ctxGen s c) n
      else cmdDone s ref stNoResource
    | _, _ => cmdDone s ref stNoResource

/-- OPEN (R38, R40, R42, R56, R311). -/
def execOpOpen (own : Fin 65) (ring : Fin 4) (s : State) : Host.Outcome State Fault Refusal :=
  match beginCmd s (ringKey own.val ring.val) (· == 1) with
  | none => .next s
  | some (d, ref, s) => .next (opOpenBody own.val d ref s)

/-! ### CONFIGURE, START, QUERY -/

/-- Leave HALTED: CTX.HALT clears (R39), and what was still pending is aborted (DESIGN CHOICE, log 87). -/
def leaveHalt (s : State) (c : Nat) : State :=
  if ctxState s c = 5 then fset (abortRate (abortReconf s c) c) (ctxPage c) F.CTX_HALT_CAUSE 0 else s

/-- CONFIGURE (R44, R372, R373). -/
def execOpConfigure (own : Fin 65) (ring : Fin 4) (s : State) : Host.Outcome State Fault Refusal :=
  runCmd own.val ring.val 2 s fun _ ref c s =>
    let g := staged s c
    match firstFail (settingsFails s (ctxKind s c) g) with
    | some f => cmdDone s ref stBadParam f.1 f.2
    | none =>
      if settingsBusy s c (ctxKind s c) g then cmdDone s ref stNoResource
      else
        match replaceSet s c (stagedWords s c) g with
        | none => cmdDone s ref stNoResource
        | some t =>
          let t := setCtxState (leaveHalt t c) c 2
          retryOutputs (cmdDone t ref stOk (getCtx t c).memKiB)

/-- Pictures of a destination's source that have been decoded: a RAP among them is not decoded after the link exists and the
destination runs (R53). -/
def decodedNow (s : State) (c : Nat) : List Nat := ((getCtx s c).decs.filter (·.available.isSome)).map (·.num)

def linkedNow (s : State) (c : Nat) : List Nat :=
  if fbit s (ctxPage c) F.CTX_LINK_SRC_VALID then decodedNow s (fget s (ctxPage c) F.CTX_LINK_SRC_SRC) else []

/-- What START sets (R35, R45, R77, R115, R172). Outputs of the stream before that wait for a buffer go on waiting (R36). -/
def startCtx (s : State) (c : Nat) : State :=
  let g := active s c
  let seed := 0x5EA70000 + 256 * ctxGen s c + c
  let s := modCtx s c fun x => { ctx0 with
    mem := x.mem, memKiB := x.memKiB, levelCode := x.levelCode, oldMem := x.oldMem, slot := x.slot, cluster := x.cluster, moving := x.moving,
    bindMode := x.bindMode, outWait := x.outWait, linkOld := linkedNow s c, ppJobs := x.ppJobs, laCut := x.laCut, effCut := x.effCut,
    keyNext := true, lfsr := seed, fill := if isEncode s c then (g.startFill : Int) else 0, rateNow := g.rateSet
    lastOn := x.lastOn }
  fset (setCtxState s c 3) (ctxPage c) F.CTX_ENC_STAT_GIR_ACTIVE 0

/-- START (R42). -/
def execOpStart (own : Fin 65) (ring : Fin 4) (s : State) : Host.Outcome State Fault Refusal :=
  runCmd own.val ring.val 3 s fun _ ref c s => cmdDone (startCtx s c) ref stOk

/-- QUERY (R38). -/
def execOpQuery (own : Fin 65) (ring : Fin 4) (s : State) : Host.Outcome State Fault Refusal :=
  runCmd own.val ring.val 0x0B s fun d ref c s =>
    match d.p 0 with
    | 0 => cmdDone s ref stOk (rget s (ctxPage c) 0x200) (rget s (ctxPage c) 0x204)
    | 1 => cmdDone s ref stOk (rget s (ctxPage c) 0x210) (rget s (ctxPage c) 0x214) (rget s (ctxPage c) 0x218)
    | _ => cmdDone s ref stOk (getCtx s c).memKiB

/-! ### SUBMIT -/

/-- FORCE_KEY commands that name a PTS select the picture with it (R50). -/
def selectPts (s : State) (c pts num : Nat) : State :=
  let sel := (getCtx s c).forced.filter fun r => r.2 == some pts
  if sel = [] then s
  else
    sel.foldl (fun s r => refDone s c r.1 stOk (pts % 2 ^ 32) (pts / 2 ^ 32) 0)
      (modCtx s c fun x => { x with forced := x.forced.filter fun r => r.2 != some pts, keySubs := x.keySubs ++ [num] })

/-- An encode context takes a picture in (R45, R180): it waits for its PPU job where one is made, and behind the pictures
that wait for theirs. `at_`: the DEVTIME of the fetch. -/
def acceptPic (s : State) (c : Nat) (ref : CmdRef) (pts addr chroma stride at_ : Nat) (codes : LaCodes) (ppu : Bool) :
    State :=
  let num := (getCtx s c).subCount
  let wait := ppu || (getCtx s c).linkPics != []
  let g := active s c
  let pix := if ppu then noPicture else readPicture s g.w g.h g.depth10 g.c422 addr chroma stride
  let s := modCtx s c fun x =>
    let x := { x with
      submits := x.submits ++
        [⟨ref, num, pts, 0, addr, chroma, stride, codes, noLookahead, pix, noPlanes, noHdr, 0, at_, none⟩]
      subCount := num + 1, lastPts := some pts, ptsLog := x.ptsLog ++ [(num, pts)]
      linkPics := if wait then x.linkPics ++ [⟨pts, 256, num, false, !ppu, !ppu, none, pix, noHdr, none, none, none⟩] else x.linkPics }
    if wait then x else lookIn g x.laCut num pix codes x
  selectPts (fadd s (ctxPage c) F.CTX_CNT_IN_COUNT 1) c pts num

/-- SUBMIT to an encode context (R38, R45, R46). -/
def submitEncode (s : State) (d : Desc) (ref : CmdRef) (c : Nat) (codes : LaCodes) : State :=
  let x := getCtx s c
  let g := active s c
  let pts := d.p 5 + 2 ^ 32 * d.p 6
  let follows := match x.lastPts with
    | none => true
    | some p => let k := (pts + 2 ^ 33 - p) % 2 ^ 33; 1 ≤ k && k < 2 ^ 32
  if g.input ≠ 0 ∨ !follows ∨ d.p 2 < g.w * (if g.depth10 then 2 else 1) then cmdDone s ref stBadParam
  else if 128 ≤ x.submits.length then cmdDone s ref stNoResource
  else
    let ppu := fget s (ctxPage c) F.CTX_PP_LAYER_CTL_COUNT != 0
    let s := fsetb s (ctxPage c) F.CTX_PP_STAT_PASSTHRU (!ppu)
    acceptPic s c ref pts (d.p 0 + 2 ^ 32 * d.p 1) (d.p 3 + 2 ^ 32 * d.p 4) (d.p 2) d.at_ codes ppu

/-- SUBMIT to a decode or transcode context (R38, R45). -/
def submitDecode (s : State) (d : Desc) (ref : CmdRef) (c : Nat) (aus : List AccessUnit) : State :=
  let x := getCtx s c
  if (active s c).input ≠ 0 then cmdDone s ref stBadParam
  else if 128 ≤ x.submits.length then cmdDone s ref stNoResource
  else
    let pts := d.p 5 + 2 ^ 32 * d.p 6
    let dts := d.p 7 + 2 ^ 32 * d.p 8
    let num := x.subCount
    let addr := d.p 0 + 2 ^ 32 * d.p 1
    let s := modCtx s c fun x => { x with
      submits := x.submits ++
        [⟨ref, num, pts, dts, addr, 0, d.p 2, noCodes, noLookahead, noPicture, noPlanes, noHdr, 0, d.at_, none⟩]
      subCount := num + 1 }
    let data := memReadN s addr (d.p 2)
    let k : Arrival := ⟨some num, pts, dts, d.at_, [], 0, 0⟩
    settleDec (acceptUnit (fadd s (ctxPage c) F.CTX_CNT_IN_COUNT 1) c k (aus.map ({ · with data := data }))) c

/-- SUBMIT (R45). -/
def execOpSubmit (own : Fin 65) (ring : Fin 4) (la : LaCodes) (au : List AccessUnit) (s : State) :
    Host.Outcome State Fault Refusal :=
  runCmd own.val ring.val 4 s fun d ref c s =>
    if isEncode s c then submitEncode s d ref c la else submitDecode s d ref c au

/-! ### FLUSH, CLOSE -/

/-- Deliver and end what a context can, of either kind. -/
def settle (s : State) (c : Nat) : State := if isEncode s c then settleCtx s c else settleDec s c

/-- FLUSH (R47). -/
def execOpFlush (own : Fin 65) (ring : Fin 4) (s : State) : Host.Outcome State Fault Refusal :=
  runCmd own.val ring.val 5 s fun _ ref c s =>
    let out := fget s (ctxPage c) F.CTX_CNT_OUT_COUNT
    settle (setCtxState (modCtx s c ({ · with flush := some (ref, out) })) c 4) c

/-- Discard what has not been coded or committed; committed access units are delivered in coding order (R48). -/
def discardWork (s : State) (c : Nat) : State :=
  let s := dropSources (dropJobs s c) c
  let s := if isEncode s c then
      ((getCtx s c).pics.filter fun p => p.done && !p.sent).foldl (fun s p => deliverPic s c p)
        (modCtx s c fun x => { x with queued := [], plan := [], linkPics := [], pics := x.pics.filter (·.done) })
    else subsKeep s c
  let s := modCtx s c fun x => { x with queued := [], plan := [], linkPics := [], pics := [], decs := [], ppJobs := [] }
  abortKeys (abortRate (abortReconf (failSubmits s c stAborted) c) c) c

/-- CLOSE (R42, R47, R48). Outputs of a context that is not running may still wait for a buffer: they are kept, and the
context is DRAINING until they are delivered (DEDUCED, log 71). -/
def execOpClose (own : Fin 65) (ring : Fin 4) (s : State) : Host.Outcome State Fault Refusal :=
  runCmd own.val ring.val 0x0F s fun d ref c s =>
    let st := ctxState s c
    let s := modCtx s c fun x => { x with close := x.close ++ [ref] }
    if st = 3 ∨ st = 4 then
      let s := setCtxState s c 4
      if d.p 0 = 1 then checkDrain (discardWork s c) c else settle s c
    else
      let s := discardWork s c
      if (getCtx s c).outWait = [] then endOfDrain s c else setCtxState s c 4

/-! ### RECONFIG, FORCE_KEY, SET_RATE -/

/-- A change of the codec (R49, R373). -/
def codecChange (s : State) (c : Nat) : List (Nat × Nat) :=
  failIf ((staged s c).codec != (active s c).codec) F.CTX_CFG_STREAM_CODEC

/-- A later RECONFIG prevails over a pending SET_RATE for the fields that both set (R131). -/
def overrideRate (g : Get) (r : RatePend) : RatePend :=
  if r.capRate.isSome ∨ r.capBuf.isSome ∨ r.key then
    { r with capRate := r.capRate.map fun _ => g F.CTX_RC_CAP_CAP_RATE
             capBuf := r.capBuf.map fun _ => g F.CTX_RC_BUF_CAP_BUFFER
             qi := r.qi.map fun _ => g F.CTX_RC_CTL_QI }
  else r

/-- A RECONFIG accepted in RUNNING becomes pending (R49). -/
def pendReconf (s : State) (c : Nat) (ref : CmdRef) (key : Bool) (mem : List Nat) (kib : Nat) : State :=
  let g := staged s c
  let words := stagedWords s c
  let s := modCtx s c fun x => { x with
    reconf := some ref, snapshot := words, pendMem := mem, pendKiB := kib
    keyNext := x.keyNext || key, keyForced := x.keyForced || key, setRate := x.setRate.map (overrideRate g) }
  fset s (ctxPage c) F.CTX_STATE_RECONFIG_PENDING 1

/-- RECONFIG (R49). -/
def execOpReconfig (own : Fin 65) (ring : Fin 4) (s : State) : Host.Outcome State Fault Refusal :=
  runCmd own.val ring.val 6 s fun d ref c s =>
    let g := staged s c
    let kind := ctxKind s c
    match firstFail (codecChange s c ++ settingsFails s kind g) with
    | some f => cmdDone s ref stBadParam f.1 f.2
    | none =>
      if settingsBusy s c kind g then cmdDone s ref stNoResource
      else if ctxState s c = 2 then
        match replaceSet s c (stagedWords s c) g with
        | none => cmdDone s ref stNoResource
        | some t => retryOutputs (cmdDone t ref stOk)
      else
        let t := abortReconf s c
        if memParts kind g = memParts kind (active s c) then pendReconf t c ref (d.p 0 == 1) [] 0
        else
          match reserve t (ctxOwner s c) kind g with
          | none => cmdDone s ref stNoResource
          | some r => pendReconf r.2.2 c ref (d.p 0 == 1) r.1 r.2.1

/-- FORCE_KEY (R50). -/
def execOpForceKey (own : Fin 65) (ring : Fin 4) (s : State) : Host.Outcome State Fault Refusal :=
  runCmd own.val ring.val 7 s fun d ref c s =>
    let x := getCtx s c
    let pts := d.p 0 + 2 ^ 32 * d.p 1
    if !isEncode s c then cmdDone s ref stBadParam
    else if d.p 2 = 1 then
      modCtx s c fun y => { y with forced := y.forced ++ [(ref, none)], keyNext := true, keyForced := true }
    else if x.entered.contains pts then cmdDone s ref stBadParam
    else
      let s := modCtx s c fun y => { y with forced := y.forced ++ [(ref, some pts)] }
      match x.submits.find? fun u => u.pts == pts && u.done.isNone with
      | some u => selectPts s c pts u.num
      | none => s

/-- The set with the values of a SET_RATE in it. -/
def withRate (g : Get) (r : RatePend) : Get := fun f =>
  if f = F.CTX_RC_CAP_CAP_RATE then r.capRate.getD (g f)
  else if f = F.CTX_RC_BUF_CAP_BUFFER then r.capBuf.getD (g f)
  else if f = F.CTX_RC_CTL_QI then r.qi.getD (g f)
  else g f

/-- The values that a SET_RATE descriptor carries (R130). -/
def rateOf (d : Desc) (ref : CmdRef) : RatePend :=
  let opt (p n : Nat) : Option Nat := if bitsOf (d.p p) 31 1 = 1 then some (bitsOf (d.p p) 0 n) else none
  ⟨ref, opt 0 20, opt 1 14, opt 2 7, d.p 3 == 1, 0⟩

/-- Put the values of a SET_RATE into a pending snapshot (R130). -/
def rateIntoSnapshot (x : Ctx) (r : RatePend) : Ctx :=
  let put (t : Tbl Word) (row : Row) (v : Option Nat) : Tbl Word :=
    match v with
    | none => t
    | some v => tput 0 t row.off (BitVec.ofNat 32 (splice (tget 0 t row.off).toNat row.lo row.width v))
  if x.reconf.isSome then
    { x with snapshot := put (put (put x.snapshot F.CTX_RC_CAP_CAP_RATE r.capRate) F.CTX_RC_BUF_CAP_BUFFER r.capBuf)
                           F.CTX_RC_CTL_QI r.qi }
  else x

/-- SET_RATE (R130, R131). -/
def execOpSetRate (own : Fin 65) (ring : Fin 4) (s : State) : Host.Outcome State Fault Refusal :=
  runCmd own.val ring.val 8 s fun d ref c s =>
    let r := rateOf d ref
    let g := active s c
    let g2 := withRate g r
    let b := g2 F.CTX_RC_BUF_CAP_BUFFER
    if !isEncode s c || (r.capRate.isNone && r.capBuf.isNone && r.qi.isNone) || (b != 0 && (b < 10 || 10000 < b)) ||
        capFails g2 g.lvl != [] then cmdDone s ref stBadParam
    else
      let s := writeRate s c 0 r
      if ctxState s c = 2 then cmdDone (writeRate s c 0x200 r) ref stOk 0xFFFFFFFF 0xFFFFFFFF
      else
        modCtx (abortRate s c) c fun x =>
          { rateIntoSnapshot x r with setRate := some r, keyNext := x.keyNext || r.key, keyForced := x.keyForced || r.key }

/-! ### LINK, BIND -/

/-- The destination's rate is the source's, or that divided by 2, 3 or 4 (R52, R190). -/
def rateDivides (src dst : Get) : Bool :=
  let k := if dst F.CTX_PP_CTL_DEINT = 2 then 2 else 1
  [1, 2, 3, 4].any fun n => k * src.num * dst.den == n * dst.num * src.den

/-- LINK (R52). -/
def execOpLink (own : Fin 65) (ring : Fin 4) (s : State) : Host.Outcome State Fault Refusal :=
  runCmd own.val ring.val 9 s fun d ref c s =>
    let dst := bitsOf (d.p 0) 0 8
    let slotOf := (List.range 8).find? fun i => linkDst s c i == some dst
    if bitsOf (d.p 0) 16 1 = 1 then
      match slotOf with
      | some i => cmdDone (freeSlot s c i) ref stOk i
      | none => cmdDone s ref stBadParam
    else if ctxOwner s dst ≠ ctxOwner s c then cmdDone s ref stNotOwner
    else if !(ctxState s dst == 2 || ctxState s dst == 3) || ctxGen s dst != bitsOf (d.p 0) 8 8 then
      cmdDone s ref stConflict
    else if isEncode s c || !isEncode s dst || (active s dst).input != 2 ||
        fbit s (ctxPage dst) F.CTX_LINK_SRC_VALID || !rateDivides (active s c) (active s dst) then
      cmdDone s ref stBadParam
    else
      match (List.range 8).find? fun i => (linkDst s c i).isNone with
      | none => cmdDone s ref stNoResource
      | some i =>
        let s := modCtx (setLinkSlot s c i dst true) dst ({ · with linkOn := false, linkSkip := 0, linkOld := decodedNow s c })
        let s := fset (fset s (ctxPage dst) F.CTX_LINK_SRC_SRC c) (ctxPage dst) F.CTX_LINK_SRC_SLOT i
        cmdDone (fsetb s (ctxPage dst) F.CTX_LINK_SRC_VALID true) ref stOk i

/-- The expert area of a page is unlocked (R9). -/
def unlocked (s : State) (page : Nat) : Bool := fbit s page F.HDR_EXPERT_KEY_UNLOCKED

/-- Some unit of a mask is READY and IN_SERVICE (R54). -/
def maskServes (s : State) (mask : Nat) (page : Nat → Nat) : Bool :=
  (List.range 18).any fun i => mask.testBit i && usable s (page i)

/-- The masks name no engine of a kind the context needs (R54): an encode context needs encode engines, and decode
engines where it verifies. -/
def bindFails (s : State) (c ee de : Nat) : Bool :=
  if isEncode s c then
    !maskServes s ee eePage || (verifyOf s (active s c) != 1 && !maskServes s de dePage)
  else !maskServes s de dePage

/-- BIND (R54). -/
def execOpBind (own : Fin 65) (ring : Fin 4) (s : State) : Host.Outcome State Fault Refusal :=
  runCmd own.val ring.val 0x0A s fun d ref c s =>
    if !unlocked s (ctxPage c) then cmdDone s ref stBadParam 0x00C
    else if d.p 2 = 2 ∧ bindFails s c (d.p 0) (d.p 1) then cmdDone s ref stNoResource
    else
      let p := ctxPage c
      let s := fset (fset s p F.CTX_BIND_EE_MASK (d.p 0)) p F.CTX_BIND_DE_MASK (d.p 1)
      cmdDone (modCtx (fsetb s p F.CTX_STATE_PINNED (d.p 2 == 2)) c ({ · with bindMode := d.p 2 })) ref stOk

/-- UNDEFINED_OPCODE (R40): BAD_PARAM, with no side effect. -/
def execUndefinedOpcode (own : Fin 65) (ring : Fin 4) (s : State) : Host.Outcome State Fault Refusal :=
  match beginCmd s (ringKey own.val ring.val) (fun op => !definedOpcode op) with
  | none => .next s
  | some (_, ref, s) => .next (cmdDone s ref stBadParam)

end Sys2Proof.Machine
end

