-- ==== Sys2Proof/Machine/Units.lean ====
section
/-! DEFINITION. Engines, banks and PPUs as units: what they hold and how it is discarded (R87, R101, R139, R157, R175,
R193), service, standbys and health (R165–R169, R105, R106, R374), and the self-test of an engine (R88). -/

namespace Sys2Proof.Machine

/-! ### Rows that the engine kinds share -/

def isEePage (page : Nat) : Bool := kindOf page == .ee
def isDePage (page : Nat) : Bool := kindOf page == .de
def isEngPage (page : Nat) : Bool := isEePage page || isDePage page
def isPpuPage (page : Nat) : Bool := kindOf page == .ppu
def isMicaPage (page : Nat) : Bool := kindOf page == .mica
def bankOf (page : Nat) : Nat := page - 0xE0

/-- The row of the encode engine's register, or of the decode engine's. -/
def engRow (page : Nat) (ee de : Row) : Row := if isEePage page then ee else de

def kindPages (page : Nat) : List Nat := if isEePage page then eePages else dePages

def engPage (k : EngKind) (n : Nat) : Nat :=
  match k with
  | .ee => eePage n
  | .de => dePage n

def isStandby (s : State) (page : Nat) : Bool :=
  isEngPage page && fbit s page (engRow page F.EE_STATUS_STANDBY F.DE_STATUS_STANDBY)

def setStandby (s : State) (page : Nat) (b : Bool) : State :=
  fsetb s page (engRow page F.EE_STATUS_STANDBY F.DE_STATUS_STANDBY) b

def testRunning (s : State) (page : Nat) : Bool :=
  isEngPage page && fbit s page (engRow page F.EE_STATUS_SELFTEST_RUN F.DE_STATUS_SELFTEST_RUN)

def setTestRunning (s : State) (page : Nat) (b : Bool) : State :=
  fsetb s page (engRow page F.EE_STATUS_SELFTEST_RUN F.DE_STATUS_SELFTEST_RUN) b

/-- CHIP.PLACE_STAT counts the engines in service and the standbys. -/
def syncPlaceStat (s : State) : State :=
  let n (pages : List Nat) (p : Nat → Bool) : Nat := (pages.filter p).length
  let s1 := fset (fset s 0 F.CHIP_PLACE_STAT_EE_IN (n eePages (blkInService s))) 0 F.CHIP_PLACE_STAT_EE_SB
    (n eePages (isStandby s))
  fset (fset s1 0 F.CHIP_PLACE_STAT_DE_IN (n dePages (blkInService s))) 0 F.CHIP_PLACE_STAT_DE_SB
    (n dePages (isStandby s))

/-- A page in block reset (R322). -/
def inReset (s : State) (page : Nat) : Bool := s.bdrk.resets.contains page

/-! ### Discarding work -/

/-- A discarded segment is eligible again at once, from its first unit (R175); under a verify mode the rerun is verified
(R172). A segment that has committed stays so (R177), and its figures stand. -/
def rerunSeg (p : Pic) (avoid : Option Nat) (g : Seg) : Seg :=
  let g := { g with avoid := g.avoid ++ avoid.toList, verify := g.verify || p.verifyMd != 1, vwait := false, vdone := false }
  if g.phase = .committed then { g with redo := 1 }
  else { g with phase := .eligible, rowsDone := 0, bits := 0, crc := 0, ration := [], qpSum := 0, qpMin := 255, qpMax := 0 }

/-- Restart a segment (R175). -/
def restartSeg (s : State) (x : SegId) (avoid : Option Nat) : State :=
  countEv (fadd (modPic s x.ctx.val x.pic fun p => { p with segs := p.segs.modify x.seg (rerunSeg p avoid) })
    0 F.CHIP_PLACE_CNT_RESTART_COUNT 1) 634 1

/-- What becomes of a job that its unit discards. `avoid`: the unit that must not take it next. -/
def discardJob (s : State) (page : Nat) (avoid : Option Nat) (j : Job) : State :=
  match j with
  | .segment x => restartSeg (fadd s page F.EE_CNT_DISCARD_COUNT 1) x avoid
  | .boundary x =>
    if isEePage page then modSeg s x ({ · with edge := 1 })
    else modSeg s x fun g => { g with edge := 4, avoid := g.avoid ++ avoid.toList }
  | .lookahead c n => modSubmit s c n ({ · with laWork := 1 })
  | .verify x => modSeg (fadd s page F.DE_CNT_DISCARD_COUNT 1) x fun g => { g with vwait := true, avoid := g.avoid ++ avoid.toList }
  | .part c n i =>
    modDec (fadd s page F.DE_CNT_DISCARD_COUNT 1) c n fun p => { p with
      parts := p.parts.modify i fun q => { q with st := 0, avoid := q.avoid ++ avoid.toList } }
  | .ppu d pts =>
    modCtx (fadd s page F.PPU_CNT_DISCARD_COUNT 1) d fun x => { x with
      linkPics := x.linkPics.map fun p => if p.pts = pts then { p with busy := false, avoid := some page } else p }

/-- A unit discards the work at the head of what it holds, or everything. -/
def discardWorkOf (s : State) (page : Nat) (all : Bool) (avoid : Option Nat) : State :=
  let h := (getEng s page).held
  let gone := if all then h else h.take 1
  let s := settleItems (accrueOn s page) (fun j => gone.any fun x => x.job == j) false
  let s := setHeld s page (if all then [] else h.drop 1)
  gone.foldl (fun s x => discardJob s page avoid x.job) s

/-- `n` jobs of a bank are discarded (counter 435 of the first bank) or cancelled (436): CNT_ABORT and R340. -/
def abortJobs (s : State) (b i n : Nat) : State :=
  countEv (fadd s (micaPage b) F.MICA_CNT_ABORT_COUNT n) (i + 8 * b) n

/-- Digital fallback is chosen for a segment (R99): its job, if a bank holds it, is cancelled. -/
def chooseDigital (s : State) (x : SegId) : State :=
  let s := (List.range 4).foldl (fun s b =>
    let j := (getBank s b).jobs
    if j.contains x then takeJobs (abortJobs s b 436 1) b (j.erase x) else s) s
  modSeg s x ({ · with digital := true, phase := .eligible })

/-- A bank discards its jobs; they wait to be issued again (R101). -/
def discardJobs (s : State) (b : Nat) : State :=
  let j := (getBank s b).jobs
  let s := j.foldl (fun s x => modSeg s x fun g => if g.phase = .searching then { g with phase := .waitRecord } else g)
    (abortJobs s b 435 j.length)
  noBankFallback (takeJobs s b [])

/-! ### Self-tests (R88) -/

def setTest (s : State) (page : Nat) (ee de : Row) (v : Nat) : State := fset s page (engRow page ee de) v

/-- A test starts: DONE and ABORTED clear. -/
def startTest (s : State) (page : Nat) : State :=
  let s := setTest s page F.EE_SELFTEST_DONE F.DE_SELFTEST_DONE 0
  let s := setTest s page F.EE_SELFTEST_ABORTED F.DE_SELFTEST_ABORTED 0
  setTestRunning (requestWake s (domainOf page)) page true

/-- A test ends, with its result registers and SELFTEST_DONE. -/
def endTest (s : State) (page : Nat) (pass aborted : Bool) (us : Nat) : State :=
  let s := setTestRunning s page false
  let s := setTest s page F.EE_SELFTEST_DONE F.DE_SELFTEST_DONE 1
  let s := setTest s page F.EE_SELFTEST_PASS F.DE_SELFTEST_PASS (if pass then 1 else 0)
  let s := setTest s page F.EE_SELFTEST_ABORTED F.DE_SELFTEST_ABORTED (if aborted then 1 else 0)
  setIrq (setTest s page F.EE_SELFTEST_DURATION_US F.DE_SELFTEST_DURATION_US us) page 2

/-! ### Service of engines and PPUs -/

/-! ### Masks (R164) -/

/-- A mask holds an engine, or holds a retired one that it stands in for (R164). -/
def inMask (s : State) (k : EngKind) (mask page : Nat) : Bool :=
  mask.testBit (page - engPage k 0) || s.disp.standIn.any fun p => p.2 == page && mask.testBit (p.1 - engPage k 0)

/-- Engines of a kind in service within a mask. -/
def ownEngines (s : State) (k : EngKind) (mask : Nat) : List Nat :=
  ((kindPages (engPage k 0)).filter (usable s)).filter (inMask s k mask)

/-- Engines of a kind in service within a mask; all of that kind in service where none is (R164). -/
def maskedEngines (s : State) (k : EngKind) (mask : Nat) : List Nat :=
  let own := ownEngines s k mask
  if own = [] then (kindPages (engPage k 0)).filter (usable s) else own

/-- A context is under PINNED placement (R54, R164). -/
def isPinned (s : State) (c : Nat) : Bool :=
  fbit s (ctxPage c) F.CTX_STATE_PINNED || ((getCtx s c).bindMode == 0 && fget s 0 F.CHIP_PLACE_CTL_PLACE == 1)

/-- A kind of engine that a pinned context needs has none in service within its masks. -/
def lostMasks (s : State) (c : Nat) : Bool :=
  let m := masksNow s c
  let verifies := isEncode s c && verifyOf s (active s c) != 1
  isPinned s c && ctxState s c != 0 &&
    ((isEncode s c && ownEngines s .ee m.1 == []) || ((!isEncode s c || verifies) && ownEngines s .de m.2 == []))

/-- UNPINNED of a context follows (R58, R164). -/
def syncPin (s : State) (c : Nat) : State :=
  let lost := lostMasks s c
  let p := ctxPage c
  if fbit s p F.CTX_PLACE_XSTAT_UNPINNED = lost then s
  else
    let s := fsetb s p F.CTX_PLACE_XSTAT_UNPINNED lost
    if lost then setIrq s p 32 else s

def syncPins (s : State) : State := (s.ctxs.map (·.1)).foldl syncPin s

/-! ### Service -/

/-- Enter service (R162, R172): σ and the rate are nominal, and its first 64 segments are still to come. -/
def enterService (s : State) (page : Nat) : State :=
  let s := setBlk s page true true 2
  let s := modEng s page fun e => { e with
    draining := false, toStandby := false, retired := false, admitWait := false, waking := false, wantTest := false
    coded := 0, ests := [], actuals := [], ideals := [] }
  let s := if isEngPage page then
      setTest (setTest (setStandby s page false) page F.EE_SPEED_SIGMA F.DE_SPEED_SIGMA 512) page F.EE_RATE_FACTOR
        F.DE_RATE_FACTOR 512
    else s
  let s := { s with disp := { s.disp with standIn := s.disp.standIn.filter fun p => p.1 != page } }
  syncPins (unitAdmitted (syncPlaceStat s))

/-- A standby or a gated engine is called into service (R166, R167): a running self-test stops, its domain wakes, and it
serves once the domain is ON. R88 and R156 give a test that stops DONE, PASS and ABORTED; its DURATION_US is 0 (DESIGN
CHOICE, log 97). -/
def callIn (s : State) (page : Nat) : State :=
  let s := if testRunning s page then endTest s page false true 0 else s
  if domOn s (domainOf page) then enterService s page
  else requestWake (modEng s page ({ · with waking := true })) (domainOf page)

/-- Engines of a page's kind that serve or are about to, without those that drain to become standbys. -/
def serving (s : State) (page : Nat) : List Nat :=
  (kindPages page).filter fun p => (blkInService s p || (getEng s p).waking) && !(getEng s p).toStandby

def standbys (s : State) (page : Nat) : List Nat :=
  (kindPages page).filter fun p => isStandby s p && !(getEng s p).waking && !(getEng s p).draining

def capacityMode (s : State) : Bool := fbit s 0 F.CHIP_PLACE_CTL_CAPACITY

/-- Whether a kind has room for another engine in service (R165): below sixteen, or in capacity mode. -/
def roomToServe (s : State) (page : Nat) : Bool := capacityMode s || decide ((serving s page).length < 16)

/-- The engines for which an engine stood in, and itself (R164). -/
def stoodFor (s : State) (page : Nat) : List Nat := page :: (s.disp.standIn.filter (·.2 == page)).map (·.1)

/-- The lowest-numbered standby takes the place of an engine that left service (R164, R166), and of those for which it
stood in. -/
def replaceUnit (s : State) (page : Nat) : State :=
  match standbys s page with
  | p :: _ =>
    if roomToServe s page then
      let rest := s.disp.standIn.filter (·.2 != page)
      callIn { s with disp := { s.disp with standIn := rest ++ (stoodFor s page).map (·, p) } } p
    else s
  | [] => s

/-- Power the domain of an engine off that the device itself powers down, once it is quiet (R165, R323). -/
def deviceOff (s : State) (page : Nat) : State :=
  if domOn s (domainOf page) then openShadow (setDomState s (domainOf page) 4) page else s

/-- Become a standby (R165): READY, not in service, its domain off. -/
def becomeStandby (s : State) (page : Nat) : State :=
  let s := modEng (setBlk s page true false 3) page ({ · with
    draining := false, toStandby := false, admitWait := false, waking := false })
  deviceOff (syncPlaceStat (setStandby s page true)) page

/-- A healthy unit joins (R165, R193): an engine beyond sixteen becomes a standby in a guard mode. -/
def joinUnit (s : State) (page : Nat) : State :=
  let s := modEng s page ({ · with retired := false, admitWait := false })
  if isEngPage page && !roomToServe s page then becomeStandby s page
  else callIn (fset (fset s page F.HDR_BLK_READY_READY 1) page F.HDR_BLK_READY_STATE 5) page

/-- The self-test of a PPU has neither a row nor a register: its result is a free value (R193, R309; log 55). A unit that
fails stays out. -/
def ppuTested (s : State) (page : Nat) : State :=
  let pass := freeNat s % 2 == 0
  let s := modEng (useFree s) page ({ · with wantTest := false, tested := pass, testedSince := pass })
  if pass then s else fset (modEng s page ({ · with admitWait := false })) page F.HDR_BLK_READY_STATE 6

/-- Leave service (R168, R169): `code` is the STATE of BLK_READY afterwards. An engine in service is replaced, and so is a
standby that was waking to serve. -/
def leaveService (s : State) (page code : Nat) : State :=
  let was := blkInService s page
  let serves := was || (getEng s page).waking
  let s := modEng (setBlk s page (blkReady s page) false code) page ({ · with
    draining := false, toStandby := false, waking := false, testedSince := false })
  let s := if isEngPage page then setStandby s page false else s
  let s := syncPlaceStat s
  let s := if serves && isEngPage page then replaceUnit s page else s
  syncPins (if was then unitRetired s else s)

/-- Departures for a fault within the last 3,600 s of DEVTIME (R169). -/
def recentLeaves (now : Nat) (l : List Nat) : List Nat := l.filter fun t => now < t + 3600 * 10 ^ 9

def readmitMax (s : State) : Nat := fget s 0 F.CHIP_PLACE_XCTL_READMIT_MAX

/-- An engine or PPU leaves service for a fault (R169, R193): what it holds is discarded, and it rejoins by itself unless
it has left too often. `test`: a self-test follows its block reset. -/
def faultLeave (s : State) (page : Nat) (test : Bool) : State :=
  let s := discardWorkOf s page true (some page)
  let was := blkInService s page
  let left := recentLeaves s.devtime (getEng s page).leaves ++ (if was then [s.devtime] else [])
  let out := (getEng s page).retired || decide (readmitMax s ≤ left.length)
  let s := leaveService s page 5
  modEng s page ({ · with leaves := left, retired := out, admitWait := test && !out, wantTest := test })

/-- RETIRE of an engine (R168): it takes no new work, and leaves once it holds none. -/
def retireUnit (s : State) (page : Nat) : State :=
  if blkInService s page || isStandby s page || (getEng s page).waking then
    fset (modEng s page ({ · with draining := true, toStandby := false, retired := true })) page
      F.HDR_BLK_READY_STATE 4
  else s

/-- SVC_CTL.ADMIT of an engine. -/
def setAdmit (s : State) (page : Nat) (b : Bool) : State :=
  setTest s page F.EE_SVC_CTL_ADMIT F.DE_SVC_CTL_ADMIT (if b then 1 else 0)

/-- ADMIT of an engine (R168): it joins, after a self-test where none has passed since it left service. The bit reads 1 until
that test has ended. -/
def admitUnit (s : State) (page : Nat) : State :=
  let e := getEng s page
  if blkInService s page || isStandby s page || e.waking then s
  else if testRunning s page then setAdmit (modEng s page ({ · with admitWait := true, retired := false })) page true
  else if e.testedSince then joinUnit s page
  else
    let s := fset (modEng s page ({ · with admitWait := true, retired := false })) page F.HDR_BLK_READY_STATE 1
    startTest (setAdmit s page true) page

/-- An engine drains to become a standby (R165, R167). -/
def drainToStandby (s : State) (page : Nat) : State :=
  fset (modEng s page ({ · with draining := true, toStandby := true })) page F.HDR_BLK_READY_STATE 4

/-- A draining engine that holds nothing leaves service, or becomes a standby (R167, R168). -/
def endUnitDrain (s : State) (page : Nat) : State :=
  let e := getEng s page
  if e.draining && e.held == [] then
    if e.toStandby then
      let was := blkInService s page
      let s := becomeStandby s page
      if was then syncPins (unitRetired s) else s
    else leaveService s page 5
  else s

/-- An ADMIT, or the return from a fault, at the end of a self-test (R88, R168, R169). -/
def afterTest (s : State) (page : Nat) (pass : Bool) : State :=
  let e := getEng s page
  let s := setAdmit (modEng s page ({ · with tested := pass, testedSince := pass, admitWait := false })) page false
  if !pass then
    if blkInService s page || isStandby s page then s else fset s page F.HDR_BLK_READY_STATE 6
  else
    let s := fset s page F.HDR_BLK_READY_READY 1
    if e.admitWait then joinUnit s page
    else if isStandby s page then deviceOff s page
    else if blkInService s page then s
    else fset s page F.HDR_BLK_READY_STATE 5

/-! ### Banks -/

/-- A bank leaves service for a fault (R374): after a class 1 source it calibrates when its reset ends, and returns by
itself unless it has left too often. -/
def bankFaultLeave (s : State) (b : Nat) (calFail : Bool) : State :=
  let was := blkInService s (micaPage b)
  let s := discardJobs s b
  let left := recentLeaves s.devtime (getBank s b).leaves ++ (if was then [s.devtime] else [])
  let out := decide (readmitMax s ≤ left.length)
  let s := modBank s b ({ · with
    leaves := left, wantCal := !calFail, wantOut := false, autoBack := !calFail && !out, tiles := [] })
  noBankFallback (setBank s b 0 (if calFail then 6 else 5))

/-! ### Quartz clusters -/

/-- A picture boundary that a context resumes from (R332, R333): what has not committed is coded again from retained
inputs; a decode context decodes its unfinished parts again. -/
def resumeCtx (s : State) (c : Nat) : State :=
  modCtx (dropJobs s c) c fun x => { x with
    pics := x.pics.map fun p => { p with
      segs := p.segs.map fun g =>
        match g.phase with
        | .running | .returned => rerunSeg p none g
        | .searching => { g with phase := .waitRecord }
        | _ => { g with vwait := g.vwait || (g.verify && !g.vdone && !g.waived && g.redo == 0 && g.phase == .committed)
                        redo := if g.redo = 2 then 1 else g.redo
                        edge := if g.edge = 2 then 1 else if g.edge = 5 then 4 else g.edge } }
    submits := x.submits.map fun u => if u.laWork = 2 then { u with laWork := 1 } else u
    linkPics := x.linkPics.map ({ · with busy := false })
    decs := x.decs.map fun p => { p with parts := p.parts.map fun q => if q.st = 1 then { q with st := 0 } else q } }

/-- Move a context to a cluster. -/
def moveCtx (s : State) (c q : Nat) : State := modCtx (resumeCtx s c) c ({ · with cluster := q, moving := false })

def setCluster (s : State) (q : Nat) (up : Bool) : State :=
  modBdrk s fun b => { b with qzUp := [if q = 0 then up else b.qzUp.getD 0 false, if q = 1 then up else b.qzUp.getD 1 false] }

/-- Targets of a cluster's cores (R277). -/
def coresOf (q : Nat) : List Nat := (List.range 4).map (65 + 4 * q + ·)

/-- The cores of a cluster restart or stop (R282, R288). -/
def setCores (s : State) (q : Nat) (run : Bool) : State :=
  (coresOf q).foldl (fun s t => emptyTarget (modTgt s t ({ · with runs := run })) t) s

/-- A cluster leaves service: its contexts resume on the other one, or wait (R333). -/
def clusterLeave (s : State) (q : Nat) : State :=
  let s := setCores (setBlk (setCluster s q false) (qzPage q) false false 5) q false
  ctxList.foldl (fun s c =>
    if ctxState s c ≠ 0 ∧ (getCtx s c).cluster = q then
      if clusterUp s (1 - q) then moveCtx s c (1 - q) else modCtx (resumeCtx s c) c ({ · with moving := true })
    else s) s

end Sys2Proof.Machine
end

