-- ==== Sys2Proof/Machine/DmaOps.lean ====
section
/-! DEFINITION. The interleave of device memory (R244), what of it is readable, and the DMA channels (R261–R272) with
the commands CH_OWNER_WRITE to DMA_STATUS_WRITE. -/

namespace Sys2Proof.Machine

/-! ### Interleave -/

/-- Channels that the valid slots name, in slot order (R244). -/
def ilvSlots (s : State) : List Nat :=
  ((List.range 96).filter (fbit s 0x60 F.DMC0_ILV_SLOT_VALID ·)).map (fget s 0x60 F.DMC0_ILV_SLOT_CHANNEL ·)

/-- Channel of a device address (R244). -/
def chanOf (s : State) (a : Nat) : Option Nat :=
  let l := ilvSlots s
  if l = [] then none else l[a / 512 % l.length]?

/-- Address within the channel (R244): slots before the j-th that name the channel, and the slots that name it. -/
def locOf (s : State) (a : Nat) : Nat :=
  let l := ilvSlots s
  let j := a / 512 % max 1 l.length
  let ch := l.getD j 0
  let n (l : List Nat) : Nat := (l.filter (· == ch)).length
  (a / 512 / max 1 l.length * n l + n (l.take j)) * 512 + a % 512

/-- Domain of a channel's DRAM group (R235, R297). -/
def groupDom (ch : Nat) : Nat := 51 + ch / 4

/-- Domains of the DRAM groups that the bytes [a, b) touch. -/
def groupsOf (s : State) (a b : Nat) : List Nat :=
  let l := ilvSlots s
  if l = [] ∨ b ≤ a then []
  else
    let n := min l.length ((b - 1) / 512 - a / 512 + 1)
    ((List.range n).map fun i => groupDom (l.getD ((a / 512 + i) % l.length) 0)).eraseDups

/-- Software may reach the bytes [a, b): above the control region and below USABLE (R236, R259, R262). -/
def reachable (s : State) (a b : Nat) : Bool := ctrlSize s ≤ a && b ≤ usableTop s

/-- A byte lies in a poisoned granule (R243). -/
def poisoned (s : State) (a : Nat) : Bool := s.poison.contains (a / 64 * 64)

/-! ### Channel registers -/

def chPage (n : Nat) : Nat := 0x41 + n / 16
def chGet (s : State) (n : Nat) (r : Row) : Nat := fget s (chPage n) r (n % 16)
def chSet (s : State) (n : Nat) (r : Row) (v : Nat) : State := fset s (chPage n) r v (n % 16)
def chOwner (s : State) (n : Nat) : Nat := fget s 0x40 F.DMA0_CH_OWNER_OWNER n

/-- The parameters of a transfer (R262). -/
structure Xfer where
  src : Nat
  dst : Nat
  len : Nat
  rows : Nat
  sstr : Nat
  dstr : Nat
  srcDev : Bool
  dstDev : Bool
  irq : Bool
  wake : Bool
  stDev : Bool
  stAddr : Nat
  deriving DecidableEq, Repr

/-- The set of eleven words at an offset of a channel page: the shadow set, or its active copy. -/
def xferAt (s : State) (page off : Nat) : Xfer :=
  let w (i : Nat) : Nat := rget s page (off + 4 * i)
  let rows := w 5 % 2 ^ 16
  { src := w 0 + 2 ^ 32 * w 1, dst := w 2 + 2 ^ 32 * w 3, len := w 4, rows := rows
    sstr := if rows = 1 then 0 else w 6, dstr := if rows = 1 then 0 else w 7
    srcDev := (w 8).testBit 0, dstDev := (w 8).testBit 1, irq := (w 8).testBit 2, wake := (w 8).testBit 3
    stDev := (w 9).testBit 0, stAddr := w 9 / 16 * 16 + 2 ^ 32 * w 10 }

def shadowXfer (s : State) (n : Nat) : Xfer := xferAt s (chPage n) (0x40 + 0x38 * (n % 16))
def activeXfer (s : State) (n : Nat) : Xfer := xferAt s (chPage n) (0x400 + 0x38 * (n % 16))

/-- Promote: the active set takes the shadow set (R263). -/
def copyShadow (s : State) (n : Nat) : State :=
  (List.range 11).foldl (fun s i =>
    rset s (chPage n) (0x400 + 0x38 * (n % 16) + 4 * i) (rget s (chPage n) (0x40 + 0x38 * (n % 16) + 4 * i))) s

def Xfer.total (x : Xfer) : Nat := x.len * x.rows

/-- One past the last byte of the footprints (R266). -/
def Xfer.send (x : Xfer) : Nat := x.src + (x.rows - 1) * x.sstr + x.len
def Xfer.dend (x : Xfer) : Nat := x.dst + (x.rows - 1) * x.dstr + x.len

/-- The checks of R262. -/
def badDesc (s : State) (x : Xfer) : Bool :=
  x.len == 0 || x.rows == 0 || 0xFFFFFFFF < x.total ||
  (1 < x.rows && (x.sstr < x.len || x.dstr < x.len)) ||
  (!x.srcDev && !x.dstDev) ||
  (x.srcDev && !reachable s x.src x.send) || (x.dstDev && !reachable s x.dst x.dend) ||
  (x.stDev && !reachable s x.stAddr (x.stAddr + 16))

def Xfer.overlap (x : Xfer) : Bool := x.srcDev == x.dstDev && x.src < x.dend && x.dst < x.send

/-- The check of R266. -/
def overlapBad (x : Xfer) : Bool := x.overlap && x.rows != 1 && x.sstr != x.dstr

/-- The bytes [a, b) lie within one buffer that `own` may touch (R267). -/
def ownsBytes (s : State) (own a b : Nat) : Bool :=
  s.talus.any fun kv => kv.2.tag == own && !kv.2.held && bufAddr s kv.1 ≤ a &&
    b ≤ bufAddr s kv.1 + poolSize (handlePool kv.1)

/-- The check of R267; channels of the PF are not checked. -/
def notOwner (s : State) (own : Nat) (x : Xfer) : Bool :=
  own != 0 && ((x.srcDev && !ownsBytes s own x.src x.send) || (x.dstDev && !ownsBytes s own x.dst x.dend) ||
    (x.stDev && !ownsBytes s own x.stAddr (x.stAddr + 16)))

/-- STATUS_ADDR may take the status word: it lies where the owner may write (R262, R267; DEDUCED, log 30). -/
def statusOk (s : State) (own : Nat) (x : Xfer) : Bool :=
  !x.stDev || (reachable s x.stAddr (x.stAddr + 16) && (own == 0 || ownsBytes s own x.stAddr (x.stAddr + 16)))

/-- DRAM groups that a transfer touches (R268). -/
def xferGroups (s : State) (x : Xfer) : List Nat :=
  ((if x.srcDev then groupsOf s x.src x.send else []) ++ (if x.dstDev then groupsOf s x.dst x.dend else []) ++
    (if x.stDev then groupsOf s x.stAddr (x.stAddr + 16) else [])).eraseDups

/-- ACTIVE, ARMED as CH_STAT shows them. -/
def syncChan (s : State) (n : Nat) : State :=
  let c := getChan s n
  chSet (chSet s n F.DMAC_CH_STAT_ACTIVE (if c.active || c.pend != [] then 1 else 0)) n F.DMAC_CH_STAT_ARMED
    (chGet s n F.DMAC_CH_CMD_ARM)

/-- A transfer ends with a code: its status word waits to be written (R269). -/
def endXfer (s : State) (n code : Nat) (x : Xfer) : State :=
  let own := chOwner s n
  syncChan (modChan s n fun c => { c with
    active := false, waits := false
    pend := c.pend ++ [⟨code, c.seq % 2 ^ 16, (x.total - c.done) % 2 ^ 32, statusOk s own x, x.stDev, x.stAddr, x.irq⟩] }) n

/-- Promote the shadow set of a channel (R263): `some code` ends it at once. -/
def promoteWith (s : State) (n : Nat) (force : Option Nat) : State :=
  let s := chSet (copyShadow s n) n F.DMAC_CH_CMD_ARM 0
  let x := activeXfer s n
  let s := modChan s n fun c => { c with
    active := true, waits := false, done := 0, seq := c.seq + 1, desc := x.overlap && decide (x.src < x.dst) }
  let own := chOwner s n
  let asleep := (xferGroups s x).filter fun d => !domOn s d
  match force with
  | some code => endXfer s n code x
  | none =>
    if badDesc s x then endXfer s n 0x10 x
    else if overlapBad x then endXfer s n 0x11 x
    else if notOwner s own x then endXfer s n 0x12 x
    else if asleep = [] then syncChan s n
    else if x.wake then
      syncChan (asleep.foldl (fun s d => if domState s d = 3 then s else requestWake s d)
        (modChan s n ({ · with waits := true }))) n
    else endXfer s n 0x13 x

/-- The groups a channel keeps busy (R268). -/
def chanGroups (s : State) (n : Nat) : List Nat :=
  let c := getChan s n
  (if c.active && !c.waits then xferGroups s (activeXfer s n) else []) ++
    c.pend.flatMap fun w => if w.dev then groupsOf s w.addr (w.addr + 16) else []

/-- A channel leaves with its owner (R272), or is reset. -/
def clearChan (s : State) (n : Nat) : State :=
  let b := 0x40 + 0x38 * (n % 16)
  let a := 0x400 + 0x38 * (n % 16)
  let mine (o : Nat) : Bool := (b ≤ o && o < b + 0x38) || (a ≤ o && o < a + 0x38)
  { s with
    regs := s.regs.filter fun kv => !(kv.1 / 4096 == chPage n && mine (kv.1 % 4096))
    chans := tput chan0 s.chans n chan0 }

/-- A function reaches a channel (R261): the PF through the pages, a VF through its window. -/
def reachesChan (s : State) (fn n : Nat) : Bool := fn == 0 || chOwner s n == fn

/-- A write that sets ARM (R263): a channel that moves no data promotes the shadow set at once. -/
def armChan (s : State) (n : Nat) : State :=
  if chGet s n F.DMAC_CH_CMD_ARM = 1 then chSet s n F.DMAC_CH_STAT_CFG_ERR 1
  else if (getChan s n).active then syncChan (chSet s n F.DMAC_CH_CMD_ARM 1) n
  else promoteWith s n none

/-- A write that sets ABORT (R270). -/
def abortChan (s : State) (n : Nat) : State :=
  let s := if (getChan s n).active then endXfer s n 1 (activeXfer s n) else s
  if chGet s n F.DMAC_CH_CMD_ARM = 1 then promoteWith s n (some 1) else s

/-- A write of CH_CMD: ARM and ABORT together have no effect (R270). -/
def writeChCmd (s : State) (n v : Nat) : State :=
  match bitsOf v 0 2 with
  | 1 => armChan s n
  | 2 => abortChan s n
  | _ => s

/-- An uncorrectable error of the DMA's SRAM touches a channel (R273): its transfers end HOST_ERR. -/
def chanHostErr (s : State) (n : Nat) : State :=
  let s := if (getChan s n).active then endXfer s n 0x20 (activeXfer s n) else s
  if chGet s n F.DMAC_CH_CMD_ARM = 1 then promoteWith s n (some 0x20) else s

/-! ### Bursts -/

/-- The next burst of a transfer of which `done` bytes are written (R264): its offset in the source, in the destination,
and its length. -/
def nextBurst (x : Xfer) (desc : Bool) (done : Nat) : Nat × Nat × Nat :=
  let row := done / max 1 x.len
  let off := done % max 1 x.len
  if desc then
    let r := x.rows - 1 - row
    let last := x.dst + r * x.dstr + (x.len - off)
    let first := max (x.dst + r * x.dstr) ((last - 1) / 512 * 512)
    let o := first - (x.dst + r * x.dstr)
    (x.src + r * x.sstr + o, first, last - first)
  else
    let d := x.dst + row * x.dstr + off
    (x.src + row * x.sstr + off, d, min (x.len - off) (512 - d % 512))

/-- Some byte of [a, a + n) is poisoned. -/
def anyPoison (s : State) (a n : Nat) : Bool := s.poison.any fun g => a < g + 64 && g < a + n

/-- Run one burst of a channel: the bytes a host read returns, or a failure (R264, R269). -/
def runBurst (s : State) (n : Nat) (host : List Byte) (err : Option BurstErr) : State :=
  let x := activeXfer s n
  let b := nextBurst x (getChan s n).desc (getChan s n).done
  let bad := match err with
    | some .hostErr => if x.srcDev && x.dstDev then none else some 0x20
    | some .memPoison => if x.srcDev then some 0x21 else none
    | none => none
  let bad := if x.srcDev && anyPoison s b.1 b.2.2 then some 0x21 else bad
  match bad with
  | some code => endXfer s n code x
  | none =>
    let data := if x.srcDev then memReadN s b.1 b.2.2 else (List.range b.2.2).map fun i => host.getD i 0
    let s := putBytes s x.dstDev (chOwner s n) b.2.1 data
    let s := countEv (modChan s n fun c => { c with done := c.done + b.2.2 }) 630 b.2.2
    if x.total ≤ (getChan s n).done then endXfer s n 0 x else s

/-- A transfer that waits proceeds once its groups serve; a group that is off is woken (R268, R300). -/
def unwait (s : State) (n : Nat) : State :=
  if (getChan s n).waits then
    let asleep := (xferGroups s (activeXfer s n)).filter fun d => !domOn s d
    if asleep = [] then modChan s n ({ · with waits := false })
    else asleep.foldl (fun s d => if domState s d = 3 then s else requestWake s d) s
  else s

/-- Write a status word, and update CH_STAT, CH_RESIDUE and the counters (R269). -/
def writeStatus (s : State) (n : Nat) (w : StatWord) : State :=
  let own := chOwner s n
  let words := [w.code + 2 ^ 8 * n + 2 ^ 16 * w.seq, w.residue, s.devtime % 2 ^ 32, s.devtime / 2 ^ 32 % 2 ^ 32]
  let s := if w.ok then putBytes s w.dev own w.addr (wordBytes words) else s
  let s := chSet (chSet (chSet s n F.DMAC_CH_STAT_LAST_CODE w.code) n F.DMAC_CH_STAT_SEQ w.seq) n
    F.DMAC_CH_RESIDUE_BYTES w.residue
  let s := if w.code = 0 then chSet s n F.DMAC_CH_STAT_DONE 1 else s
  let s := if 0x10 ≤ w.code then chSet s n F.DMAC_CH_STAT_ERR 1 else s
  let s := fadd s 0x40 (if w.code = 0 then F.DMA0_CNT_DONE_COUNT else if w.code = 1 then F.DMA0_CNT_ABORT_COUNT
    else F.DMA0_CNT_ERR_COUNT) 1
  if 0x10 ≤ w.code ∨ (w.code = 0 ∧ w.irq) then setIrq s (chPage n) (2 ^ (1 + n % 16)) else s

/-! ### Commands -/

/-- CH_OWNER_WRITE (R261). -/
def execChOwnerWrite (ch : Fin 64) (val : Word) (s : State) : Host.Outcome State Fault Refusal :=
  let n := ch.val
  let o := val.toNat % 64
  let busy := (getChan s n).active || (getChan s n).pend != [] || chGet s n F.DMAC_CH_CMD_ARM == 1
  if busy || (o != 0 && o != chOwner s n && 8 ≤ (ownedChans s o).length) then
    .next (setIrq (fset s 0x40 F.DMA0_OWN_ERR_ERR 1) 0x40 2)
  else .next (fset s 0x40 F.DMA0_CH_OWNER_OWNER o n)

/-- ARM (R261, R263). -/
def execDmaArm (fn : Fin 64) (ch : Fin 64) (s : State) : Host.Outcome State Fault Refusal :=
  if reachesChan s fn.val ch.val then .next (armChan s ch.val) else .next s

/-- ABORT (R261, R270). -/
def execDmaAbort (fn : Fin 64) (ch : Fin 64) (s : State) : Host.Outcome State Fault Refusal :=
  if reachesChan s fn.val ch.val then .next (abortChan s ch.val) else .next s

/-- PROMOTION (R263): an armed set is promoted once no transfer of the channel moves data. -/
def execPromotion (ch : Fin 64) (s : State) : Host.Outcome State Fault Refusal :=
  if chGet s ch.val F.DMAC_CH_CMD_ARM = 1 ∧ !(getChan s ch.val).active then .next (promoteWith s ch.val none)
  else .next s

/-- DMA_BURST (R264, R269). -/
def execDmaBurst (ch : Fin 64) (host : List Byte) (err : Option BurstErr) (s : State) :
    Host.Outcome State Fault Refusal :=
  let s := if (getChan s ch.val).active then unwait s ch.val else s
  if (getChan s ch.val).active && !(getChan s ch.val).waits then .next (runBurst s ch.val host err) else .next s

/-- DMA_STATUS_WRITE (R268, R269): a sleeping group that the status address needs is woken for the write. -/
def execDmaStatusWrite (ch : Fin 64) (s : State) : Host.Outcome State Fault Refusal :=
  match (getChan s ch.val).pend with
  | [] => .next s
  | w :: rest =>
    let asleep := if w.dev && w.ok then (groupsOf s w.addr (w.addr + 16)).filter fun d => !domOn s d else []
    if asleep = [] then
      .next (syncChan (writeStatus (modChan s ch.val ({ · with pend := rest })) ch.val w) ch.val)
    else .next (asleep.foldl touchDomain s)

end Sys2Proof.Machine
end

