-- ==== Sys2Proof/Machine/Shale.lean ====
section
/-! DEFINITION. Shale (spec/10): shapers, subscriber queues, the egress store as Shale sees it (R212, R222, R223), frames
and the choice of R227, time gates (R229–R231), sampling (R232), and the commands WIN_READ to SAMPLE_SWAP. -/

namespace Sys2Proof.Machine

/-! ### Shapers (R225–R228) -/

/-- The four words of a shaper: committed RATE and K, peak RATE, committed BURST, peak BURST. -/
structure ShapeWords where
  c  : Nat
  p  : Nat
  bc : Nat
  bp : Nat
  deriving DecidableEq, Repr

def ShapeWords.k (w : ShapeWords) : Nat := bitsOf w.c 26 3
def ShapeWords.rateC (w : ShapeWords) : Nat := bitsOf w.c 0 26
def ShapeWords.rateP (w : ShapeWords) : Nat := bitsOf w.p 0 26
def ShapeWords.burstC (w : ShapeWords) : Nat := bitsOf w.bc 0 24
def ShapeWords.burstP (w : ShapeWords) : Nat := bitsOf w.bp 0 24

/-- The limits of R228, and K 0–6 (R225). -/
def ShapeWords.ok (w : ShapeWords) : Bool :=
  w.rateC ≤ 50000000 && w.rateP ≤ 50000000 && w.rateC ≤ w.rateP && 1 ≤ w.burstC && 1 ≤ w.burstP && w.k ≤ 6

/-- New settings are pending until the node's next tick (R226). -/
def Shaper.write (x : Shaper) (w : ShapeWords) (forgive : Bool) : Shaper :=
  { x with
    pend := true, newK := w.k, newRateC := w.rateC, newRateP := w.rateP, newBurstC := w.burstC, newBurstP := w.burstP
    forgive := forgive }

/-- One bucket through a tick (R225): credit at the old settings, debt forgiven at a change, then the cap. -/
def bucketTick (level : Int) (rate k newRate burst : Nat) (change forgive : Bool) : Int :=
  let l := level + (rate * 2 ^ k : Nat)
  let l := if change && forgive && newRate != 0 && decide (l < 0) then 0 else l
  min l (burst * 1000 : Nat)

/-- A refill tick (R225). -/
def Shaper.tick (x : Shaper) : Shaper :=
  let n := if x.pend then
      { x with k := x.newK, rateC := x.newRateC, rateP := x.newRateP, burstC := x.newBurstC, burstP := x.newBurstP
               pend := false }
    else x
  { n with
    levC := bucketTick x.levC x.rateC x.k n.rateC n.burstC x.pend x.forgive
    levP := bucketTick x.levP x.rateP x.k n.rateP n.burstP x.pend x.forgive }

/-- A frame of counted length `len` is charged (R227). -/
def Shaper.charge (x : Shaper) (len : Nat) : Shaper :=
  { x with
    levP := x.levP - (len * 1000 : Nat)
    levC := max (x.levC - (len * 1000 : Nat)) (-(x.burstC * 1000 : Nat)) }

def Shaper.peakOk (x : Shaper) : Bool := decide (0 ≤ x.levP)
def Shaper.commOk (x : Shaper) : Bool := decide (0 ≤ x.levC)

/-- A level in bytes, as a signed 32-bit word that saturates (R233). -/
def levelWord (l : Int) : Nat :=
  let b := l / 1000
  let b := max (-(2 ^ 31 : Int)) (min b (2 ^ 31 - 1))
  (b % (2 ^ 32 : Int)).toNat

/-! ### Entries (R233) -/

/-- Reset values that ALLOC loads. -/
def queueWords0 : List Word :=
  [0, 50000000, 50000000, 16777215, 16777215, 64 + 100 * 2 ^ 16, 0, 0, 0, 0, 0, 0, 0, 0]

/-- Bits of each queue word that are not reserved. -/
def queueMasks : List Nat :=
  [0x7FFF, 0x1FFFFFFF, 0x3FFFFFF, 0xFFFFFF, 0xFFFFFF, 0x3FFFFFF, 0xFFFFFFFF, 0xFFFFFFFF, 0xFFFFFF7F, 0xFFFF,
   0xFFFFFFFF, 0xFFFFFFFF, 0xFFFFFFFF, 0xFFFFFFFF]

def snodeMasks : List Nat := [0x4007, 0x1FFFFFFF, 0x3FFFFFF, 0xFFFFFF, 0xFFFFFF, 0, 0, 0, 0, 0, 0, 0, 0, 0]

def wordAt (l : List Word) (i : Nat) : Nat := (l.getD i 0).toNat

def shapeOf (l : List Word) : ShapeWords := ⟨wordAt l 1, wordAt l 2, wordAt l 3, wordAt l 4⟩

def forgiveOf (l : List Word) : Bool := (wordAt l 0).testBit 14

def Queue.allocated (q : Queue) : Bool := q.words != []
def Queue.svc (q : Queue) : Nat := bitsOf (wordAt q.words 0) 0 10
def Queue.port (q : Queue) : Nat := bitsOf (wordAt q.words 0) 10 3
def Queue.depthMax (q : Queue) : Nat := bitsOf (wordAt q.words 5) 0 16
def Queue.ageMax (q : Queue) : Nat := bitsOf (wordAt q.words 5) 16 10
def Queue.live (q : Queue) : Bool := q.enabled || q.draining

def SvcNode.tc (x : SvcNode) : Nat := bitsOf (wordAt x.words 0) 0 3

/-- An ETH instance carries a port in the current mode (R194). -/
def carriesPort (s : State) (p : Nat) : Bool :=
  match fget s 0x110 F.PKT0_NET_MODE_MODE with
  | 0 => p % 2 == 0
  | 1 => p % 4 == 0
  | _ => true

/-- Line rate of the ports in Gb/s (R194). -/
def lineRate (s : State) : Nat :=
  match fget s 0x110 F.PKT0_NET_MODE_MODE with
  | 0 => 100 | 1 => 200 | 2 => 50 | 3 => 25 | _ => 10

def ethPage (p : Nat) : Nat := 0x100 + p
def portPage (p : Nat) : Nat := 0x121 + p

/-- QUEUES counts the queues allocated, and those enabled or draining. -/
def syncQueues (s : State) : State :=
  let n (p : Queue → Bool) : Nat := (s.queues.filter fun kv => p kv.2).length
  fset (fset s 0x120 F.SHALE0_QUEUES_ALLOCATED (n Queue.allocated)) 0x120 F.SHALE0_QUEUES_ENABLED (n Queue.live)

/-! ### The egress store (R212, R222, R223) -/

def findD (s : State) (num : Nat) : Option Dgram := s.store.find? (·.num == num)

/-- A queue has sent or dropped a datagram: it leaves the store with its last holder. -/
def releaseD (s : State) (num : Nat) : State :=
  { s with store := s.store.filterMap fun d =>
      if d.num = num then (if d.left ≤ 1 then none else some { d with left := d.left - 1 }) else some d }

/-- A queue drops a datagram: DROP, CNT_DROP (R223). -/
def dropFrom (s : State) (q num : Nat) : State :=
  let s := modQueue s q fun x => { x with holds := x.holds.erase num, drops := (x.drops + 1) % 2 ^ 32 }
  countEv (fadd (releaseD s num) 0x120 F.SHALE0_CNT_DROP_COUNT 1) 627 1

/-- A queue takes a datagram of its service (R222, R223). -/
def offerQueue (s : State) (d : Dgram) (q : Nat) : State :=
  let x := getQueue s q
  if x.waitRap && !d.rap then s
  else
    let s := match x.holds with
      | h :: _ => if x.depthMax ≤ x.holds.length then dropFrom s q h else s
      | [] => s
    let s := modQueue s q fun y => { y with holds := y.holds ++ [d.num], waitRap := false }
    { s with store := s.store.map fun e => if e.num = d.num then { e with left := e.left + 1 } else e }

/-- The queues that receive a service's datagrams. -/
def takers (s : State) (svc : Nat) : List Nat :=
  (s.queues.filter fun kv => kv.2.enabled && !kv.2.draining && kv.2.svc == svc).map (·.1)

/-- A datagram is written into the store: every queue of its service may take it. -/
def storeD (s : State) (d : Dgram) : State :=
  let s := { s with store := s.store ++ [{ d with left := 0 }] }
  let s := (takers s d.svc).foldl (fun s q => offerQueue s d q) s
  { s with store := s.store.filter fun e => !(e.num == d.num && e.left == 0) }

def storeUsed (s : State) : Nat := (s.store.map (·.bytes)).sum

/-- The store has room for `n` more bytes. -/
def storeRoom (s : State) (n : Nat) : Bool := storeUsed s + n ≤ 48 * 2 ^ 20

/-- A datagram leaves every queue (R212: an error that cannot be corrected): STORE_UE. -/
def storeUe (s : State) (num : Nat) : State :=
  let s := (s.queues.filter fun kv => kv.2.holds.contains num).foldl (fun s kv => dropFrom s kv.1 num) s
  fadd { s with store := s.store.filter fun e => e.num != num } 0x111 F.PKT1_STORE_UE_COUNT 1

/-- A queue lets go of what it holds, without a count (FLUSH of R221). -/
def flushQueue (s : State) (q : Nat) : State :=
  let h := (getQueue s q).holds
  modQueue (h.foldl releaseD s) q ({ · with holds := [] })

/-- An uncorrectable queue entry (R234): the queue is disabled with FLUSH, and what it held counts in CNT_DROP. -/
def queueLost (s : State) (q : Nat) : State :=
  let n := (getQueue s q).holds.length
  let s := modQueue (flushQueue s q) q ({ · with enabled := false, draining := false })
  setIrq (countEv (fadd (syncQueues s) 0x120 F.SHALE0_CNT_DROP_COUNT n) 627 n) 0x120 2

/-- Drop head datagrams of a queue older than AGE_MAX (R223). -/
def ageDrops : Nat → State → Nat → State
  | 0, s, _ => s
  | n + 1, s, q =>
    match (getQueue s q).holds with
    | [] => s
    | h :: _ =>
      match findD s h with
      | none => s
      | some d =>
        if (getQueue s q).ageMax * 1000000 < s.devtime - d.at_ then ageDrops n (dropFrom s q h) q else s

/-! ### Frames and gates -/

/-- The addresses of a port (R216, R224). -/
def portAddr (s : State) (p : Nat) : PortAddr where
  mac := qget s (ethPage p) F.ETH_MAC_ADDR_LO_LO
  ip4 := fget s (ethPage p) F.ETH_IP4_ADDR_ADDR
  ip6 := fget s (ethPage p) F.ETH_IP6_ADDR0_ADDR + 2 ^ 32 * fget s (ethPage p) F.ETH_IP6_ADDR1_ADDR +
    2 ^ 64 * fget s (ethPage p) F.ETH_IP6_ADDR2_ADDR + 2 ^ 96 * fget s (ethPage p) F.ETH_IP6_ADDR3_ADDR

/-- The STC that the port writes into TS packet `k` of a copy that it starts now (R211): at the moment that its byte leaves
the MAC, off by a free value of up to 25 ns. -/
def pcrStc (s : State) (w : List Word) (d : Dgram) (k : Nat) : Nat :=
  stc27 (s.devtime + bitsToPcr w d k / lineRate s + Config.freeValue (s.free + k) % 51 - 25)

/-- PTP time (R214, R229): DEVTIME plus the signed offset. -/
def ptpTime (s : State) : Int :=
  let o := qget s 0x112 F.PKT2_PTP_OFFSET_LO_LO
  (s.devtime : Int) + (if o < 2 ^ 63 then (o : Int) else (o : Int) - 2 ^ 64)

/-- A gate list over one cycle: the last entry fills it, and what passes its end is cut (R229). -/
def cutList : List (Nat × Nat) → Nat → List (Nat × Nat)
  | [], _ => []
  | [(g, _)], rem => [(g, rem)]
  | (g, i) :: t, rem => if rem ≤ i then [(g, rem)] else (g, i) :: cutList t (rem - i)

/-- The entry in force at an offset into the cycle: its number and its gates. -/
def entryAt : Nat → List (Nat × Nat) → Nat → Nat × Nat
  | n, [], _ => (n, 0xFF)
  | n, [(g, _)], _ => (n, g)
  | n, (g, i) :: t, off => if off < i then (n, g) else entryAt (n + 1) t (off - i)

/-- Time from an offset until the gate of a class is next closed; none where no entry closes it. -/
def closeAfter (tc : Nat) : List (Nat × Nat) → Nat → Nat → Option Nat
  | [], _, _ => none
  | (g, i) :: t, pos, off =>
    if !g.testBit tc && off < pos + i then some (pos - off) else closeAfter tc t (pos + i) off

/-- The admin list that a COMMIT takes. -/
def adminList (s : State) (p : Nat) : List (Nat × Nat) :=
  (List.range (fget s (portPage p) F.SHALEP_GATE_LEN_LEN)).map fun i => tget (0xFF, 1000000000) (getPnode s p).admin i

def gateEn (s : State) (p : Nat) : Bool := fbit s (portPage p) F.SHALEP_GATE_CTL_GATE_EN

def gatePending (s : State) (p : Nat) : Bool := fbit s (portPage p) F.SHALEP_GATE_CMD_PENDING

/-- Offset into the cycle of the oper list now. -/
def operOff (s : State) (p : Nat) : Nat :=
  let x := getPnode s p
  ((ptpTime s - x.operStart) % (max 1 x.operCycle : Nat)).toNat

/-- Time in ns until the gate of a class next closes, under the oper list or a pending admin list (R230). -/
def gateClose (s : State) (p tc : Nat) : Option Nat :=
  let x := getPnode s p
  let oper := if x.oper = [] then none
    else
      let l := cutList x.oper x.operCycle
      closeAfter tc (l ++ l) 0 (operOff s p)
  let start := (qget s (portPage p) F.SHALEP_GATE_START_LO_LO : Int)
  if gatePending s p then
    let wait := (start - ptpTime s).toNat
    match oper with
    | some t => if t ≤ wait then some t
      else
        let l := cutList (adminList s p) (fget s (portPage p) F.SHALEP_GATE_CYCLE_CYCLE)
        (closeAfter tc (l ++ l) 0 0).map (· + wait)
    | none =>
      let l := cutList (adminList s p) (fget s (portPage p) F.SHALEP_GATE_CYCLE_CYCLE)
      (closeAfter tc (l ++ l) 0 0).map (· + wait)
  else oper

/-- A frame of a class may start now (R230). -/
def gateFits (s : State) (p tc len : Nat) : Bool :=
  !gateEn s p ||
    match gateClose s p tc with
    | none => true
    | some t => t != 0 && len * 8 ≤ t * lineRate s

/-- The gate of a class is open now. -/
def gateOpen (s : State) (p tc : Nat) : Bool :=
  !gateEn s p || (getPnode s p).oper == [] ||
    (entryAt 0 (cutList (getPnode s p).oper (getPnode s p).operCycle) (operOff s p)).2.testBit tc

/-- GATE_STAT follows the schedule (R229). -/
def syncGate (s : State) (p : Nat) : State :=
  let x := getPnode s p
  let page := portPage p
  let e := if x.oper = [] then (0, 0xFF) else entryAt 0 (cutList x.oper x.operCycle) (operOff s p)
  let s := fset (fset s page F.SHALEP_GATE_STAT_ENTRY e.1) page F.SHALEP_GATE_STAT_OPER_LEN x.oper.length
  fset s page F.SHALEP_GATE_STAT_OPEN (if gateEn s p then e.2 else 0xFF)

/-! ### The choice of R227 -/

/-- A queue leads to a datagram that fits, and its peak bucket is not negative. -/
def qElig (s : State) (p tc q : Nat) : Bool :=
  let x := getQueue s q
  x.live && x.port == p && x.shaper.peakOk && x.shaper.rateP != 0 &&
    match x.holds with
    | [] => false
    | h :: _ =>
      match findD s h with
      | none => false
      | some d => gateFits s p tc (countedLen x.words d)

def queuesOf (s : State) (p svc : Nat) : List Nat :=
  (s.queues.filter fun kv => kv.2.port == p && kv.2.svc == svc).map (·.1)

def sElig (s : State) (p tc n : Nat) : Bool :=
  let x := getSnode s n
  x.tc == tc && x.shaper.peakOk && (queuesOf s p n).any (qElig s p tc)

/-- Services with a queue on a port. -/
def svcsOn (s : State) (p : Nat) : List Nat :=
  ((s.queues.filter fun kv => kv.2.live && kv.2.port == p).map fun kv => kv.2.svc).eraseDups

def tcShaper (s : State) (p tc : Nat) : Shaper := tget shaper0 (getPnode s p).tcs tc

def tElig (s : State) (p tc : Nat) : Bool := (tcShaper s p tc).peakOk && (svcsOn s p).any (sElig s p tc)

/-- The next of some numbers after `last`, round robin. -/
def nextAfter (last : Nat) (l : List Nat) : Option Nat :=
  let least (l : List Nat) : Option Nat := l.foldl (fun m x => some (min x (m.getD x))) none
  match least (l.filter (last < ·)) with
  | some x => some x
  | none => least l

/-- Committed members first, else any (R227). -/
def preferC (l : List Nat) (comm : Nat → Bool) : List Nat := if (l.filter comm) = [] then l else l.filter comm

/-- The class, service and queue that send next on a port (R227). -/
def choose (s : State) (p : Nat) : Option (Nat × Nat × Nat) :=
  if !(getPnode s p).port.peakOk then none
  else
    let open_ := (List.range 8).filter fun tc => gateOpen s p tc && tElig s p tc
    match (preferC open_ fun tc => (tcShaper s p tc).commOk).getLast? with
    | none => none
    | some tc =>
      let ss := (svcsOn s p).filter (sElig s p tc)
      match nextAfter (tget 1023 (getPnode s p).lastS tc) (preferC ss fun n => (getSnode s n).shaper.commOk) with
      | none => none
      | some n =>
        let qs := (queuesOf s p n).filter (qElig s p tc)
        match nextAfter (tget 32767 (getPnode s p).lastQ n) (preferC qs fun q => (getQueue s q).shaper.commOk) with
        | none => none
        | some q => some (tc, n, q)

/-- Send the head datagram of a queue, and charge the path (R227). -/
def sendFrame (s : State) (p tc n q : Nat) : State :=
  match (getQueue s q).holds with
  | [] => s
  | h :: rest =>
    match findD s h with
    | none => s
    | some d =>
      let w := (getQueue s q).words
      let len := countedLen w d
      let bytes := frameBytes (portAddr s p) w d (pcrStc s w d)
      let s := useFrees s d.ts.length
      let s := modQueue s q fun x => { x with
        holds := rest, sent := (x.sent + 1) % 2 ^ 32, shaper := x.shaper.charge len }
      let s := modSnode s n fun x => { x with sent := (x.sent + 1) % 2 ^ 32, shaper := x.shaper.charge len }
      let s := modPnode s p fun x => { x with
        port := x.port.charge len
        tcs := tput shaper0 x.tcs tc ((tget shaper0 x.tcs tc).charge len)
        lastS := tput 1023 x.lastS tc n, lastQ := tput 32767 x.lastQ n q }
      let s := countEv (countEv (countEv s 626 1) (593 + 4 * p) (len - 20)) (595 + 4 * p) 1
      emit (fadd (releaseD s h) (ethPage p) F.ETH_CNT_TX_COUNT 1) (.frame p q h bytes)

/-! ### The window -/

/-- A WIN_CMD operation ends with a result (R221). -/
def winDone (s : State) (r : Nat) : State := fset s 0x120 F.SHALE0_WIN_CMD_RESULT r

def winIndex (s : State) : Nat := fget s 0x120 F.SHALE0_WIN_SEL_INDEX
def winNode (s : State) : Bool := fbit s 0x120 F.SHALE0_WIN_SEL_TABLE

/-- DEPTH and DELAY of a queue (R232), saturating. -/
def queueDepth (s : State) (q : Nat) : Nat := min (getQueue s q).holds.length 0xFFFF

def queueDelay (s : State) (q : Nat) : Nat :=
  match (getQueue s q).holds with
  | [] => 0
  | h :: _ => match findD s h with
    | none => 0
    | some d => min ((s.devtime - d.at_) / 16000) 0xFFFF

/-- Words 0–13 and 14–19 to WIN_DATA. -/
def putWin (s : State) (words : List Nat) : State :=
  (List.range 20).foldl (fun s i => rset s 0x120 (0x80 + 4 * i) (words.getD i 0)) s

def readQueueWords (s : State) (q : Nat) : List Nat :=
  let x := getQueue s q
  let bit (b : Bool) (n : Nat) : Nat := if b then 2 ^ n else 0
  ((List.range 14).map fun i => wordAt x.words i) ++
    [x.sent, x.drops, queueDepth s q + 2 ^ 16 * queueDelay s q, levelWord x.shaper.levC, levelWord x.shaper.levP,
     bit x.enabled 0 + bit x.draining 1 + bit (bitsOf (wordAt x.words 2) 0 26 == 0) 2]

def readNodeWords (s : State) (n : Nat) : List Nat :=
  let x := getSnode s n
  ((List.range 14).map fun i => wordAt x.words i) ++
    [x.sent, 0, ((s.queues.filter fun kv => kv.2.enabled && kv.2.svc == n).length) % 2 ^ 16, levelWord x.shaper.levC,
     levelWord x.shaper.levP, 0]

/-- Words 0–13 of WIN_DATA, without reserved bits. -/
def winWords (s : State) (masks : List Nat) : List Word :=
  (List.range 14).map fun i => BitVec.ofNat 32 (rget s 0x120 (0x80 + 4 * i) &&& masks.getD i 0)

/-- Put words into a queue entry; its shaper settings are pending (R226). -/
def setQueueWords (s : State) (q : Nat) (w : List Word) : State :=
  modQueue s q fun x => { x with words := w, shaper := x.shaper.write (shapeOf w) (forgiveOf w) }

/-- WRITE of a queue (R221, R228). -/
def winWriteQueue (s : State) (q : Nat) : State :=
  let x := getQueue s q
  let w := winWords s queueMasks
  if !x.allocated then winDone s 5
  else if x.live then
    let same := wordAt w 0 % 2 ^ 14 == wordAt x.words 0 % 2 ^ 14 && w.drop 5 == x.words.drop 5
    if !same then winDone s 4 else if !(shapeOf w).ok then winDone s 1 else winDone (setQueueWords s q w) 0
  else if !(shapeOf w).ok then winDone s 1
  else winDone (setQueueWords s q w) 0

/-- WRITE of a service node (R221, R228). -/
def winWriteNode (s : State) (n : Nat) : State :=
  let x := getSnode s n
  let w := winWords s snodeMasks
  let used := s.queues.any fun kv => kv.2.enabled && kv.2.svc == n
  if bitsOf (wordAt w 0) 0 3 != x.tc && used then winDone s 3
  else if !(shapeOf w).ok then winDone s 1
  else winDone (modSnode s n fun y => { y with words := w, shaper := y.shaper.write (shapeOf w) (forgiveOf w) }) 0

/-- The checks of ENABLE (R221). SVC is a 10-bit field, so it is never above 1,023. -/
def queueEntryBad (s : State) (x : Queue) : Bool :=
  !carriesPort s x.port || !(shapeOf x.words).ok || x.depthMax == 0 || x.ageMax == 0 || 1000 < x.ageMax ||
    (!(wordAt x.words 8).testBit 6 && (x.words.drop 11).any (· != 0))

/-! ### Commands -/

/-- WIN_READ (R221). -/
def execWinRead (s : State) : Host.Outcome State Fault Refusal :=
  let i := winIndex s
  if winNode s then .next (winDone (putWin s (readNodeWords s (i % 1024))) 0)
  else if (getQueue s i).allocated then .next (winDone (putWin s (readQueueWords s i)) 0)
  else .next (winDone s 5)

/-- WIN_WRITE (R221). -/
def execWinWrite (s : State) : Host.Outcome State Fault Refusal :=
  if winNode s then .next (winWriteNode s (winIndex s % 1024)) else .next (winWriteQueue s (winIndex s))

/-- QUEUE_ENABLE (R221, R222). -/
def execQueueEnable (s : State) : Host.Outcome State Fault Refusal :=
  let i := winIndex s
  let x := getQueue s i
  if winNode s then .next (winDone s 1)
  else if !x.allocated then .next (winDone s 5)
  else if x.live then .next (winDone s 4)
  else if queueEntryBad s x then .next (winDone s 1)
  else
    .next (winDone (syncQueues (modQueue s i fun y => { y with
      enabled := true, draining := false, waitRap := (wordAt y.words 0).testBit 13, samples := [] })) 0)

/-- QUEUE_DISABLE (R221). -/
def execQueueDisable (flush : Bool) (s : State) : Host.Outcome State Fault Refusal :=
  let i := winIndex s
  let x := getQueue s i
  if winNode s then .next (winDone s 1)
  else if !x.allocated then .next (winDone s 5)
  else if flush then
    .next (winDone (syncQueues (modQueue (flushQueue s i) i ({ · with enabled := false, draining := false }))) 0)
  else if x.enabled then
    .next (winDone (syncQueues (modQueue s i ({ · with enabled := false, draining := true }))) 0)
  else .next (winDone s 0)

/-- Lowest free queue. -/
def freeQueue (s : State) : Nat := firstGap 0 (s.queues.filterMap fun kv => if kv.2.allocated then some kv.1 else none)

/-- QUEUE_ALLOC (R221, R228). -/
def execQueueAlloc (s : State) : Host.Outcome State Fault Refusal :=
  let q := freeQueue s
  if winNode s then .next (winDone s 1)
  else if 32768 ≤ q then .next (winDone s 2)
  else
    .next (winDone (fset (syncQueues (modQueue s q fun _ => { queue0 with words := queueWords0 })) 0x120
      F.SHALE0_WIN_SEL_INDEX q) 0)

/-- QUEUE_FREE (R221). -/
def execQueueFree (s : State) : Host.Outcome State Fault Refusal :=
  let i := winIndex s
  let x := getQueue s i
  if winNode s then .next (winDone s 1)
  else if !x.allocated then .next (winDone s 5)
  else if x.live then .next (winDone s 4)
  else .next (winDone (syncQueues (modQueue s i fun _ => queue0)) 0)

/-- QUEUE_DRAINED (R221). -/
def execQueueDrained (q : Fin 32768) (s : State) : Host.Outcome State Fault Refusal :=
  let x := getQueue s q.val
  if x.draining && x.holds == [] then .next (syncQueues (modQueue s q.val ({ · with draining := false }))) else .next s

/-- AGE_DROP (R223). -/
def execAgeDrop (q : Fin 32768) (s : State) : Host.Outcome State Fault Refusal :=
  .next (ageDrops (getQueue s q.val).holds.length s q.val)

/-- DEVTIME is at a refill tick of a node with exponent `k` (R225). -/
def atTick (s : State) (k : Nat) : Bool := s.devtime % (2 ^ k * 1000) == 0

/-- REFILL_TICK (R225). -/
def execRefillTick (node : Node) (s : State) : Host.Outcome State Fault Refusal :=
  match node with
  | .queue q =>
    if (getQueue s q.val).allocated && atTick s (getQueue s q.val).shaper.k then
      .next (modQueue s q.val fun x => { x with shaper := x.shaper.tick })
    else .next s
  | .service n =>
    if atTick s (getSnode s n.val).shaper.k then .next (modSnode s n.val fun x => { x with shaper := x.shaper.tick })
    else .next s
  | .tclass p tc =>
    if atTick s (tcShaper s p.val tc.val).k then
      .next (modPnode s p.val fun x => { x with tcs := tput shaper0 x.tcs tc.val (tget shaper0 x.tcs tc.val).tick })
    else .next s
  | .port p =>
    if atTick s (getPnode s p.val).port.k then .next (modPnode s p.val fun x => { x with port := x.port.tick })
    else .next s

/-- The words of a port page's shaper (0: the port node, 1 + c: class c). -/
def portShape (s : State) (p i : Nat) : ShapeWords :=
  let w (o : Nat) : Nat := rget s (portPage p) (0x40 + 0x10 * i + o)
  ⟨w 0, w 4, w 8, w 12⟩

/-- A write of one word of a port page's shaper (R226, R228): a K of 7 leaves the field as it was. -/
def writeShaper (s : State) (p i word v : Nat) : State :=
  let page := portPage p
  let w := portShape s p i
  let v0 := if bitsOf v 26 3 = 7 then splice v 26 3 w.k else v
  let w2 : ShapeWords := match word with
    | 0 => { w with c := v0 % 2 ^ 29 }
    | 1 => { w with p := v % 2 ^ 26 }
    | 2 => { w with bc := v % 2 ^ 24 }
    | _ => { w with bp := v % 2 ^ 24 }
  if !w2.ok then fset s page F.SHALEP_GATE_CTL_SHAPE_ERR 1
  else
    let o := 0x40 + 0x10 * i
    let s := rset (rset s page o w2.c) page (o + 4) w2.p
    let s := rset (rset s page (o + 8) w2.bc) page (o + 12) w2.bp
    modPnode s p fun x =>
      if i = 0 then { x with port := x.port.write w2 false }
      else { x with tcs := tput shaper0 x.tcs (i - 1) ((tget shaper0 x.tcs (i - 1)).write w2 false) }

/-- SHAPER_WRITE (R226, R228). -/
def execShaperWrite (port : Fin 8) (shaper : Fin 9) (word : Fin 4) (val : Word) (s : State) :
    Host.Outcome State Fault Refusal :=
  .next (writeShaper s port.val shaper.val word.val val.toNat)

/-- Queues of a port. -/
def portQueues (s : State) (p : Nat) : List Nat := (s.queues.filter fun kv => kv.2.port == p).map (·.1)

/-- PORT_FRAME_START (R223, R227, R324): old heads are dropped first; a port whose link is down, or that FATAL stopped,
sends nothing. -/
def execPortFrameStart (port : Fin 8) (s : State) : Host.Outcome State Fault Refusal :=
  let p := port.val
  let s := (portQueues s p).foldl (fun s q => ageDrops (getQueue s q).holds.length s q) s
  if s.pins.stopped || !fbit s (ethPage p) F.ETH_STATUS_LINK then .next s
  else
    match choose s p with
    | none => .next s
    | some (tc, n, q) => .next (sendFrame s p tc n q)

/-- GATE_ERR and its cause. -/
def gateErr (s : State) (p : Nat) : State :=
  setIrq (fset s (portPage p) F.SHALEP_GATE_CMD_GATE_ERR 1) (portPage p) 8

/-- GATE_COMMIT (R231). -/
def execGateCommit (port : Fin 8) (s : State) : Host.Outcome State Fault Refusal :=
  let p := port.val
  let page := portPage p
  let len := fget s page F.SHALEP_GATE_LEN_LEN
  let cycle := fget s page F.SHALEP_GATE_CYCLE_CYCLE
  let range (n : Nat) : Bool := 32 ≤ n && n ≤ 1000000000
  if gatePending s p || len == 0 || 256 < len || !range cycle || !((adminList s p).all fun e => range e.2) then
    .next (gateErr s p)
  else
    let base := (qget s page F.SHALEP_GATE_BASE_LO_LO : Int)
    let need := ptpTime s + (fget s page F.SHALEP_GATE_CTL_MIN_LEAD_US * 1000 : Nat)
    let late := decide (base < need)
    let start := if late then base + (need - base + (cycle : Int) - 1) / (cycle : Int) * (cycle : Int) else base
    let s := qset s page F.SHALEP_GATE_START_LO_LO (start % (2 ^ 64 : Int)).toNat
    let s := fset s page F.SHALEP_GATE_CMD_PENDING 1
    .next (if late then setIrq (fset s page F.SHALEP_GATE_CMD_LATE_START 1) page 2 else s)

/-- GATE_CANCEL (R231). -/
def execGateCancel (port : Fin 8) (s : State) : Host.Outcome State Fault Refusal :=
  .next (fset s (portPage port.val) F.SHALEP_GATE_CMD_PENDING 0)

/-- GATE_SWAP (R231): once PTP time has reached the start. -/
def execGateSwap (port : Fin 8) (s : State) : Host.Outcome State Fault Refusal :=
  let p := port.val
  let page := portPage p
  let start := (qget s page F.SHALEP_GATE_START_LO_LO : Int)
  if gatePending s p && decide (start ≤ ptpTime s) then
    let l := adminList s p
    let cycle := fget s page F.SHALEP_GATE_CYCLE_CYCLE
    let s := modPnode s p fun x => { x with oper := l, operStart := start, operCycle := cycle }
    .next (setIrq (syncGate (fset s page F.SHALEP_GATE_CMD_PENDING 0) p) page 4)
  else .next s

/-- GATE_ENTRY_CHANGE (R229): the entry that the PTP time selects. -/
def execGateEntryChange (port : Fin 8) (s : State) : Host.Outcome State Fault Refusal := .next (syncGate s port.val)

/-- Minima and maxima of a queue with one more sample (R232). -/
def addSample (old : List Nat) (depth delay : Nat) : List Nat :=
  match old with
  | [a, b, c, d] => [min a depth, max b depth, min c delay, max d delay]
  | _ => [depth, depth, delay, delay]

/-- Clear a range of device memory. -/
def memClear (s : State) (a n : Nat) : State :=
  { s with mem := s.mem.filter fun kv => kv.1 < a || a + n ≤ kv.1 }

/-- Take one sample of every queue, and write the table named by ACTIVE (R232), but for the entries of the queues in `failed`
(R234). -/
def takeSample (s : State) (failed : List Nat) : State :=
  let s := if fbit s 0x120 F.SHALE0_SAMPLE_CTL_SWAP then
      let a := fget s 0x120 F.SHALE0_SAMPLE_CTL_ACTIVE
      let s := fset (fset s 0x120 F.SHALE0_SAMPLE_CTL_ACTIVE (1 - a)) 0x120 F.SHALE0_SAMPLE_CTL_SWAP 0
      setIrq (s.queues.foldl (fun s kv => modQueue s kv.1 ({ · with samples := [] })) s) 0x120 4
    else s
  let base := qget s 0x120 F.SHALE0_SAMPLE_BASE_LO_LO + 2 ^ 18 * fget s 0x120 F.SHALE0_SAMPLE_CTL_ACTIVE
  let s := (groupsOf s base (base + 2 ^ 18)).foldl touchDomain s
  let old := failed.map fun q => memReadN s (base + 8 * q) 8
  let s := memClear (fadd s 0x120 F.SHALE0_SAMPLE_SEQ_COUNT 1) base (2 ^ 18)
  let on := (s.queues.filter fun kv => kv.2.enabled).map (·.1)
  let s := on.foldl (fun s q =>
    let s := modQueue s q fun x => { x with samples := addSample x.samples (queueDepth s q) (queueDelay s q) }
    memWriteN s (base + 8 * q) ((getQueue s q).samples.flatMap (leBytes 2))) s
  (failed.zip old).foldl (fun s e => memWriteN s (base + 8 * e.1) e.2) s

/-- SAMPLE_TICK (R232). `failed`: queues whose write to the table fails, so that their entries stay as they were (R234); the
source SAMPLE_ERR is raised by FAULT_RAISE. -/
def execSampleTick (failed : List (Fin 32768)) (s : State) : Host.Outcome State Fault Refusal :=
  let ns := fget s 0x120 F.SHALE0_SAMPLE_CTL_PERIOD_MS * 1000000
  if fbit s 0x120 F.SHALE0_SAMPLE_CTL_ENABLE && s.devtime % ns == 0 then .next (takeSample s (failed.map (·.val)))
  else .next s

/-- SAMPLE_SWAP (R232). -/
def execSampleSwap (s : State) : Host.Outcome State Fault Refusal :=
  .next (fset s 0x120 F.SHALE0_SAMPLE_CTL_SWAP 1)

end Sys2Proof.Machine
end

