-- ==== Sys2Proof/Machine/Net.lean ====
section
/-! DEFINITION. The ports, ingest flows, egress services and PTP (spec/09), with the commands NET_MODE_WRITE to
MEMBERSHIP_REPORT and ACCESS_UNIT_TIMEOUT. -/

namespace Sys2Proof.Machine

/-! ### Ports (R194–R197) -/

def netMode (s : State) : Nat := fget s 0x110 F.PKT0_NET_MODE_MODE

/-- SerDes lanes of an instance that carries a port (R194). -/
def lanesOf (s : State) (p : Nat) : List Nat :=
  match netMode s with
  | 0 => [p, p + 1]
  | 1 => [p, p + 1, p + 2, p + 3]
  | _ => [p]

/-- A value of CTL.FEC that the mode allows (R196). -/
def fecAllowed (mode fec : Nat) : Bool :=
  match mode with
  | 3 => true
  | 4 => fec != 1
  | _ => fec == 0

/-- The FEC of a mode under CTL.FEC, without auto-negotiation (R197). -/
def fecUsed (mode fec : Nat) : Nat :=
  if fec ≠ 0 then fec else match mode with
    | 3 => 1 | 4 => 3 | _ => 0

/-- A FEC that the mode supports, as FEC_ACTIVE codes it: what a port advertises (R196, R197). -/
def fecOffered (s : State) (fec : Nat) : Bool :=
  match netMode s with
  | 3 => fec != 0
  | 4 => 2 ≤ fec
  | _ => fec == 0

/-- Least eye height in mV (R335). -/
def eyeLimit (s : State) : Nat := if netMode s < 3 then 15 else 30

def anyPortEnabled (s : State) : Bool := (List.range 8).any fun p => fbit s (ethPage p) F.ETH_CTL_ENABLE

/-- LINK of a port changes (R216). -/
def setLink (s : State) (p : Nat) (up : Bool) : State :=
  if fbit s (ethPage p) F.ETH_STATUS_LINK = up then s
  else setIrq (fsetb s (ethPage p) F.ETH_STATUS_LINK up) (ethPage p) 2

/-- A write of ETH.CTL that leaves ENABLE 0, or ends it. -/
def disablePort (s : State) (p : Nat) : State :=
  setLink (fset (fset s (ethPage p) F.ETH_CTL_ENABLE 0) (ethPage p) F.ETH_STATUS_AN_DONE 0) p false

/-- The fields of ETH.CTL beside ENABLE: a FEC that the mode does not allow is ignored (CFG_ERR). -/
def writeEthCtl (s : State) (p v : Nat) : State :=
  let page := ethPage p
  let s := fset (fset s page F.ETH_CTL_AN (bitsOf v 1 1)) page F.ETH_CTL_LOOPBACK (bitsOf v 4 1)
  if fecAllowed (netMode s) (bitsOf v 2 2) then fset s page F.ETH_CTL_FEC (bitsOf v 2 2)
  else fset s page F.ETH_STATUS_CFG_ERR 1

/-- ENABLE of a port: it trains, and its lanes are calibrated (R195, R335). -/
def enablePort (s : State) (p : Nat) (eyes : List Nat) : State :=
  let page := ethPage p
  let lanes := lanesOf s p
  let s := (List.range lanes.length).foldl (fun s i =>
    let eye := eyes.getD i 0
    calRecord s (48 + lanes.getD i 0) eye (eyeLimit s ≤ eye)) s
  let s := fset (fset s page F.ETH_CTL_ENABLE 1) page F.ETH_STATUS_AN_DONE 0
  if fbit s page F.ETH_CTL_AN then s
  else fset s page F.ETH_STATUS_FEC_ACTIVE (fecUsed (netMode s) (fget s page F.ETH_CTL_FEC))

/-! ### Flows (R199–R206, R217) -/

def flowMasks : List Nat :=
  [0x0FFFFF3F, 0x8FFFFFFF, 0x1FFF07FF, 0xFFFFFFFF, 0xFFFFFFFF, 0xFFFFFFFF, 0xFFFFFFFF, 0xFFFFFFFF, 0xFFFFFFFF,
   0xFFFFFFFF, 0xFFFFFFFF, 0xFFFFFFFF]

def Flow.w (f : Flow) (i : Nat) : Nat := (f.words.getD i 0).toNat
def Flow.form (f : Flow) : Nat := bitsOf (f.w 0) 1 1
def Flow.fecMode (f : Flow) : Nat := bitsOf (f.w 0) 4 2
def Flow.portMask (f : Flow) : Nat := bitsOf (f.w 0) 8 8
def Flow.merges (f : Flow) : Bool := bitsOf (f.w 1) 31 1 == 1
def Flow.primary (f : Flow) : Nat := bitsOf (f.w 1) 16 12
def Flow.dstPort (f : Flow) : Nat := bitsOf (f.w 1) 0 16
def Flow.delayNs (f : Flow) : Nat := bitsOf (f.w 2) 0 11 * 1000000
def Flow.jb64 (f : Flow) : Nat := bitsOf (f.w 3) 16 16
def Flow.quad (f : Flow) (i : Nat) : Nat :=
  f.w i + 2 ^ 32 * f.w (i + 1) + 2 ^ 64 * f.w (i + 2) + 2 ^ 96 * f.w (i + 3)

/-- The group address of a flow is multicast: 224.0.0.0/4, or FF00::/8. -/
def Flow.multicast (f : Flow) : Bool :=
  if (f.w 0).testBit 0 then bitsOf (f.w 7) 24 8 == 0xFF else bitsOf (f.w 4) 28 4 == 0xE

/-- The MAC address of a multicast group (RFC 1112, RFC 2464). -/
def Flow.groupMac (f : Flow) : Nat :=
  if (f.w 0).testBit 0 then 0x333300000000 + f.w 4 else 0x01005E000000 + f.w 4 % 2 ^ 23

/-- BAD_ENTRY at ENABLE (R217); the fields that R201 ignores in a secondary path are not checked. -/
def flowBad (s : State) (f : Flow) : Bool :=
  let sec := f.merges
  let delay := bitsOf (f.w 2) 0 11
  f.fecMode == 3 && !sec || 4094 < bitsOf (f.w 0) 16 12 || !sec && (delay < 5 || 1000 < delay) || !sec && f.jb64 == 0 ||
    f.form == 0 && (f.fecMode != 0 || sec) ||
    !((List.range 8).any fun p => f.portMask.testBit p && carriesPort s p) ||
    sec && !(getFlow s f.primary).enabled

/-- `n` P4 buffers for a flow, or none (R250). -/
def takeJb : Nat → State → Option (List Nat × State)
  | 0, s => some ([], s)
  | n + 1, s =>
    let r := talusAlloc s 4 .never 0xFE true
    if r.1 = nullHandle then none else (takeJb n r.2).map fun q => (r.1 :: q.1, q.2)

/-- The reports of a flow (R215): on each port of PORT_MASK, in its VLAN, from the port's address, INCLUDE of SRC_ADDR where
SRC_MATCH. -/
def reportsOf (s : State) (n : Nat) (join : Bool) : List Report :=
  let f := getFlow s n
  let v6 := (f.w 0).testBit 0
  let addr (p : Nat) : Nat := if v6 then (portAddr s p).ip6 else (portAddr s p).ip4
  ((List.range 8).filter fun p => f.portMask.testBit p && carriesPort s p).map fun p =>
    ⟨p, bitsOf (f.w 0) 16 12, addr p, f.quad 4, if (f.w 0).testBit 2 then some (f.quad 8) else none, join⟩

/-- Bedrock sends the reports of a flow whose address is multicast. -/
def report (s : State) (n : Nat) (join : Bool) : State :=
  if (getFlow s n).multicast then (reportsOf s n join).foldl (fun s r => emit s (.membership n r)) s else s

/-- Bedrock answers a query on a port for the flows that it has joined there (R215): of one group, or of all. -/
def answerQuery (s : State) (p group : Nat) : State :=
  (s.flows.filter fun kv => kv.2.enabled && kv.2.multicast && (group == 0 || kv.2.quad 4 == group)).foldl
    (fun s kv => ((reportsOf s kv.1 true).filter (·.port == p)).foldl (fun s r => emit s (.membership kv.1 r)) s) s

def flowDone (s : State) (r : Nat) : State := fset s 0x110 F.PKT0_FLOW_CMD_RESULT r

def flowSel (s : State) : Nat := fget s 0x110 F.PKT0_FLOW_SEL_INDEX

/-- ENABLE of a flow (R206, R215, R217, R250). -/
def enableFlow (s : State) (n : Nat) : State :=
  let f := getFlow s n
  if f.enabled then flowDone s 0
  else if flowBad s f then flowDone s 1
  else
    let got := if f.merges then some ([], s) else if !poolEcc s 4 then none else takeJb f.jb64 s
    match got with
    | none => flowDone s 2
    | some (bufs, s) =>
      let s := modFlow s n fun x => { flow0 with enabled := true, words := x.words, bufs := bufs
                                                 joinAt := if x.multicast then s.devtime + 1 else 0 }
      flowDone (report s n true) 0

/-- Bytes of a flow's buffer in use (R204): held packets, the open access unit, and access units retained. -/
def jbUsed (s : State) (n : Nat) : Nat :=
  let f := getFlow s n
  let kept := s.ctxs.map fun kv =>
    if usesFlow s n kv.1 then ((kv.2.decs.filter fun p => !unitOver kv.2 p.unit).map (·.jb)).sum else 0
  (f.held.map (·.bytes)).sum + f.auBytes + kept.sum

/-! ### Media packets -/

/-- Extended position of a 16-bit sequence number: the nearest to the highest one held. -/
def Flow.extend (f : Flow) (seq : Nat) : Nat :=
  let d := (seq + 65536 - f.highest % 65536) % 65536
  if d < 32768 then f.highest + d else f.highest + d - 65536

/-- int32 of a 32-bit difference. -/
def int32 (v : Nat) : Int := if v % 2 ^ 32 < 2 ^ 31 then (v % 2 ^ 32 : Nat) else ((v % 2 ^ 32 : Nat) : Int) - 2 ^ 32

/-- Keep held packets in position order. -/
def insertPacket (p : Packet) : List Packet → List Packet
  | [] => [p]
  | q :: qs => if p.seq < q.seq then p :: q :: qs else q :: insertPacket p qs

/-- Release time of a media packet that arrives now (R203), and the flow after a resynchronisation. -/
def relTime (f : Flow) (now ts : Nat) : Nat × Flow :=
  let delay := f.delayNs
  if f.form = 0 then (now + delay, f)
  else
    match f.base with
    | none => (now + delay, { f with base := some (now, ts) })
    | some (t0, ts0) =>
      let dts := int32 (ts + 2 ^ 32 - ts0 % 2 ^ 32)
      let rel : Int := (t0 : Int) + Int.tdiv (dts * 100000) 9 + (delay : Int)
      if rel < (now : Int) ∨ (now : Int) + 2 * (delay : Int) < rel then
        (now + delay, { f with base := some (now, ts), resync := (f.resync + 1) % 2 ^ 32 })
      else (rel.toNat, f)

/-- A position has, or had, a packet. -/
def Flow.has (f : Flow) (pos : Nat) : Bool := (f.held.any fun p => p.seq == pos) || f.released.contains pos

/-- A position was released without a packet, or lies before the first one released. -/
def Flow.passed (f : Flow) (pos : Nat) : Bool := match f.next with
  | none => false
  | some n => decide (pos < n)

/-- One repair (R202): a FEC packet whose set lacks exactly one packet, of a position that is not released. -/
def findRepair (f : Flow) : Option (Nat × Nat × Nat) :=
  f.fec.findSome? fun e =>
    match e.1.filter fun p => !f.has p with
    | [p] => if f.passed p then none else some (p, e.2.1, e.2.2)
    | _ => none

/-- Repair until nothing more can be (R202); `room` bytes are left in the buffer. -/
def repair : Nat → Nat → Nat → Flow → Flow
  | 0, _, _, f => f
  | n + 1, now, room, f =>
    match findRepair f with
    | none => f
    | some (pos, ts, bytes) =>
      if room < bytes then
        { f with overflow := (f.overflow + 1) % 2 ^ 32, fec := f.fec.filter fun e => !e.1.contains pos }
      else
        let r := relTime f now ts
        let f := { r.2 with
          held := insertPacket ⟨pos, bytes, r.1, true⟩ r.2.held, highest := max r.2.highest pos
          rx := (f.rx + 1) % 2 ^ 32, recovered := (f.recovered + 1) % 2 ^ 32 }
        repair n now (room - bytes) f

/-- Run the repairs of a flow. -/
def repairFlow (s : State) (n : Nat) : State :=
  let f := getFlow s n
  modFlow s n fun _ => repair f.fec.length s.devtime (f.jb64 * 65536 - jbUsed s n) f

/-- A media packet of a flow's sequence space (R201, R203, R204). -/
def placePacket (s : State) (n seq ts bytes : Nat) : State :=
  let f := getFlow s n
  let far := f.form == 1 && f.held != [] && (seq + 65536 - f.highest % 65536) % 65536 == 32768
  let s := if far then modFlow s n fun x => { x with
      held := x.held.map ({ · with rel := s.devtime }), base := none, resync := (x.resync + 1) % 2 ^ 32 }
    else s
  let f := getFlow s n
  let pos := if f.form = 0 then f.highest + 1
    else if f.highest = 0 then 65536 + seq else if far then f.highest + 32768 else f.extend seq
  if f.form = 1 ∧ f.has pos then modFlow s n fun x => { x with dup := (x.dup + 1) % 2 ^ 32 }
  else if f.passed pos then modFlow s n fun x => { x with late := (x.late + 1) % 2 ^ 32 }
  else if f.jb64 * 65536 < jbUsed s n + bytes then modFlow s n fun x => { x with overflow := (x.overflow + 1) % 2 ^ 32 }
  else
    let r := relTime f s.devtime ts
    repairFlow (modFlow s n fun _ => { r.2 with
      held := insertPacket ⟨pos, bytes, r.1, false⟩ r.2.held, highest := max r.2.highest pos
      rx := (f.rx + 1) % 2 ^ 32 }) n

/-- A FEC packet of a flow (R202): outside the limits, or a row packet without row FEC, it is discarded. -/
def placeFec (s : State) (n : Nat) (row : Bool) (base l d ts bytes : Nat) : State :=
  let f := getFlow s n
  if l < 1 ∨ 20 < l ∨ d < 4 ∨ 20 < d ∨ 100 < l * d ∨ (row ∧ f.fecMode ≠ 2) then s
  else
    let b := if f.highest = 0 then 65536 + base else f.extend base
    let set := if row then (List.range l).map (b + ·) else (List.range d).map fun i => b + i * l
    repairFlow (modFlow s n fun x => { x with
      fec := x.fec.filter (fun e => e.1.any fun p => !x.passed p) ++ [(set, ts, bytes)] }) n

/-- What enabled flows have taken in the 1 ms up to now (R204). -/
def lastMs (s : State) : List (Nat × Nat) := s.ptp.taken.filter fun e => s.devtime < e.1 + 1000000

/-- With a packet of so many bytes, enabled flows would have taken more than 100 Gb/s over the last 1 ms (R204). -/
def ingestOver (s : State) (bytes : Nat) : Bool := 12500000 < ((lastMs s).map (·.2)).sum + bytes

def ingestCount (s : State) (bytes : Nat) : State :=
  { s with ptp := { s.ptp with taken := lastMs s ++ [(s.devtime, bytes)] } }

/-- Which stream of a flow a datagram belongs to (R199): 0 media, 1 column FEC, 2 row FEC. `fec`: FEC of the settings that
govern it, the primary's for a secondary path (R201). -/
def matchFlow (f : Flow) (fec port : Nat) (fr : Frame) : Option Nat :=
  let base := f.enabled && f.portMask.testBit port && ((f.w 0).testBit 3 || bitsOf (f.w 0) 16 12 == fr.vlan) &&
    ((f.w 0).testBit 0 == fr.ipv6) && f.quad 4 == fr.dstAddr && (!(f.w 0).testBit 2 || f.quad 8 == fr.srcAddr)
  if !base then none
  else if fr.dstPort = f.dstPort then some 0
  else if fec ≠ 0 ∧ fr.dstPort = f.dstPort + 2 then some 1
  else if fec ≠ 0 ∧ fr.dstPort = f.dstPort + 4 then some 2
  else none

/-- The lowest-numbered enabled flow that matches (R199); the table of flows is in rising order. -/
def classify (s : State) (port : Nat) (fr : Frame) : Option (Nat × Nat) :=
  s.flows.findSome? fun kv =>
    let fec := (if kv.2.merges then getFlow s kv.2.primary else kv.2).fecMode
    (matchFlow kv.2 fec port fr).map fun k => (kv.1, k)

/-- A datagram of a flow (R200–R204). A secondary path's packets enter the primary's sequence space. -/
def takeDatagram (s : State) (n kind : Nat) (fr : Frame) : State :=
  let f := getFlow s n
  let p := if f.merges then f.primary else n
  if ingestOver s fr.bytes then fadd s 0x110 F.PKT0_CNT_ING_OVER_COUNT 1
  else
    let s := countEv (ingestCount s fr.bytes) 624 fr.bytes
    let lost (s : State) : State := modFlow s p fun x => { x with lost := (x.lost + 1) % 2 ^ 32 }
    match kind, fr.payload with
    | 0, .media rtp version seq ts bytes =>
      if rtp != (f.form == 1) || (rtp && version != 2) || bytes == 0 || bytes % 188 != 0 || 7 * 188 < bytes then lost s
      else placePacket s p (seq % 65536) (ts % 2 ^ 32) bytes
    | 0, _ => lost s
    | k, .fec base l d ts bytes => placeFec s p (k == 2) (base % 65536) l d (ts % 2 ^ 32) bytes
    | _, _ => s

/-- The PTP multicast addresses of the three transports (IEEE 1588-2019, PRESUMED, log 32). -/
def ptpMacs : List Nat := [0x011B19000000, 0x01005E000181, 0x333300000181]

/-- The destination MAC is one that the port accepts (R198). -/
def macAccepted (s : State) (p mac : Nat) : Bool :=
  mac == qget s (ethPage p) F.ETH_MAC_ADDR_LO_LO || mac == 2 ^ 48 - 1 || ptpMacs.contains mac ||
    s.flows.any fun kv => kv.2.enabled && kv.2.multicast && kv.2.groupMac == mac

/-- A message goes to Bedrock and wakes it (R198). -/
def toBedrock (s : State) (p : Nat) : State := emit (fset s 1 F.BDRK1_STATUS_AWAKE 1) (.toBedrock p)

/-- The port answers for its own addresses (R198). -/
def answerTo (s : State) (p addr : Nat) (echo : Bool) : State :=
  if addr ≠ 0 ∧ (addr = (portAddr s p).ip4 ∨ addr = (portAddr s p).ip6) then emit s (.answer p addr echo) else s

/-- A port receives a frame (R196, R198). -/
def receiveFrame (s : State) (p : Nat) (fr : Frame) : State :=
  let page := ethPage p
  let drop (s : State) : State := fadd s page F.ETH_CNT_RX_DROP_COUNT 1
  let take (s : State) : State :=
    countEv (countEv (fadd s page F.ETH_CNT_RX_COUNT 1) (592 + 4 * p) fr.bytes) (594 + 4 * p) 1
  if !fr.fcsOk || fr.bytes < 64 || fget s page F.ETH_MAX_FRAME_BYTES + 4 * min 1 fr.tags < fr.bytes then
    fadd s page F.ETH_CNT_RX_ERR_COUNT 1
  else if 2 ≤ fr.tags || !macAccepted s p fr.dstMac || fr.ipBad || fr.udpBad then drop s
  else
    match fr.payload with
    | .pause | .other => drop s
    | .ptp =>
      if fbit s 0x112 F.PKT2_PTP_CTL_ENABLE && (fget s 0x112 F.PKT2_PTP_CTL_PORT_MASK).testBit p then take s else drop s
    | .bedrock => toBedrock (take s) p
    | .resolve a => answerTo (toBedrock (take s) p) p a false
    | .echo a => answerTo (toBedrock (take s) p) p a true
    | .query g => answerQuery (toBedrock (take s) p) p g
    | _ =>
      match classify s p fr with
      | none => drop s
      | some (n, k) => takeDatagram (take s) n k fr

/-! ### Release and demultiplexing (R203, R205) -/

/-- Contexts that take their input from a flow. -/
def readersOf (s : State) (n : Nat) : List Nat :=
  ctxList.filter fun c => usesFlow s n c && (active s c).input == 1 && (active s c) F.CTX_CFG_IO_IN_FLOW == n

/-- The open access unit of a flow is complete: its contexts take its pictures, or count it lost where its start was lost and
decoding has begun (R135, R141). Its T_ready is now (R205). -/
def completeAu (s : State) (n : Nat) (au : Option (List AccessUnit)) : State :=
  let f := getFlow s n
  match f.openAu with
  | none => s
  | some (pts, dts, _) =>
    let s := (readersOf s n).foldl (fun s c =>
      match au with
      | none =>
        if ctxState s c = 3 ∧ (getCtx s c).started then fadd s (ctxPage c) F.CTX_DEC_CNT_LOST_COUNT 1 else s
      | some l =>
        settleDec (acceptNet s c ⟨none, pts, dts, s.devtime, f.gaps.map fun g => (g, g), f.auBytes, 0⟩ l) c) s
    modFlow s n ({ · with openAu := none, auBytes := 0, gaps := [] })

/-- Bytes are missing before what the flow releases next (R141, R205). -/
def gapHere (s : State) (n : Nat) : State :=
  setIrq (modFlow s n fun x => { x with
    gaps := if x.openAu.isSome && x.gaps.getLast? != some x.auBytes then x.gaps ++ [x.auBytes] else x.gaps }) 0x110 2

/-- The PID of the video (R205): VIDEO_PID, or the first PMT entry of the codec of the context that reads the flow. -/
def videoPid (s : State) (n : Nat) : Option Nat :=
  let v := bitsOf ((getFlow s n).w 2) 16 13
  match readersOf s n with
  | [] => none
  | c :: _ => if v ≠ 0 then some v else ((getFlow s n).pmt.find? (fun e => entryIsVideo e (active s c).codec)).map (·.pid)

/-- The entries of the audio PIDs that a flow retains (R205): up to four, in PMT order. -/
def audioPids (s : State) (n : Nat) : List PmtEntry := ((getFlow s n).pmt.filter entryIsAudio).take 4

/-- Audio of a released packet goes to the services of linked destinations that pass it through (R208). -/
def passAudio (s : State) (n i : Nat) (t : TsIn) : State :=
  (readersOf s n).foldl (fun s c =>
    (linkDsts s c).foldl (fun s d =>
      let g := active s d
      let v := g F.CTX_CFG_IO_OUT_NODE
      if g.toNet && (getSvc s v).enabled && ((getSvc s v).words.getD 0 0).toNat.testBit 1 then
        modSvc s v fun x => { x with audio := x.audio ++ [⟨i, t.start, t.data, s.devtime⟩] }
      else s) s) s

/-- A PAT, or the PMT of the flow's program, is parsed (R205): PROGRAM, or the first program of the PAT. Program 0 of a PAT
names the network PID, not a program (ISO/IEC 13818-1). -/
def takeTable (s : State) (n pid : Nat) (t : TsTable) : State :=
  let f := getFlow s n
  let want := bitsOf (f.w 3) 0 16
  match t with
  | .pat l => if pid = 0 then modFlow s n ({ · with pat := l.filter (·.1 != 0) }) else s
  | .pmt prog l =>
    let mine := f.pat.find? fun e => want == 0 || e.1 == want
    if mine = some (prog, pid) then modFlow s n ({ · with pmt := l }) else s

/-- A payload follows the last one of its PID, or a discontinuity is marked; a packet may come twice (ISO/IEC 13818-1). -/
def ccFollows (f : Flow) (t : TsIn) : Bool :=
  t.data == [] || t.discont || match tget 0 f.ccs t.pid with
    | 0 => true
    | k + 1 => t.cc % 16 == (k + 1) % 16 || t.cc % 16 == k

/-- The second copy of a packet that comes twice. -/
def ccRepeats (f : Flow) (t : TsIn) : Bool := t.data != [] && !t.discont && tget 0 f.ccs t.pid == t.cc % 16 + 1

/-- A TS packet on the video PID (R205). -/
def demuxVideo (s : State) (n : Nat) (t : TsIn) : State :=
  if t.start then
    modFlow (completeAu s n t.au) n ({ · with
      openAu := some (t.pts % 2 ^ 33, t.dts.getD t.pts % 2 ^ 33, s.devtime), auBytes := t.data.length })
  else modFlow s n fun x => { x with
    openAu := x.openAu.map fun o => (o.1, o.2.1, s.devtime)
    auBytes := if x.openAu.isSome then x.auBytes + t.data.length else 0 }

/-- A TS packet reaches the demultiplexer (R205). -/
def demux (s : State) (n : Nat) (t : TsIn) : State :=
  let f := getFlow s n
  let video := videoPid s n == some t.pid
  if ccRepeats f t then s
  else
    let s := if video && !ccFollows f t then gapHere s n else s
    let s := if t.data = [] then s else modFlow s n fun x => { x with ccs := tput 0 x.ccs t.pid (t.cc % 16 + 1) }
    let s := match t.table with
      | some l => takeTable s n t.pid l
      | none => s
    if video then demuxVideo s n t
    else match (audioPids s n).findIdx? (·.pid == t.pid) with
      | some i => if t.data = [] then s else passAudio s n i t
      | none => s

/-- Release the first held packet of a flow, with the gaps before it (R203, R204). -/
def releasePacket (s : State) (n : Nat) (ts : List TsIn) : State :=
  let f := getFlow s n
  match f.held with
  | [] => s
  | p :: rest =>
    if s.devtime < p.rel then s
    else
      let gaps := match f.next with
        | none => 0
        | some k => p.seq - k
      let s := modFlow s n fun x => { x with
        held := rest, next := some (p.seq + 1), lost := (x.lost + gaps) % 2 ^ 32
        released := p.seq :: x.released.filter fun k => p.seq < k + 32768 }
      let s := if gaps = 0 then s else gapHere s n
      ts.foldl (fun s t => demux s n t) s

/-! ### Services (R207–R212, R218) -/

def svcMasks : List Nat :=
  [0xFFFF7F1F, 0x1FFF1FFF, 0x000FFFFF, 0x00FFFFFF, 0xFFFFFFFF, 0xFFFFFFFF, 0x0000FFFF, 0]

def Svc.w (x : Svc) (i : Nat) : Nat := (x.words.getD i 0).toNat
def Svc.perDgram (x : Svc) : Nat := bitsOf (x.w 0) 2 3
def Svc.pmtPid (x : Svc) : Nat := bitsOf (x.w 1) 0 13
def Svc.videoPid (x : Svc) : Nat := bitsOf (x.w 1) 16 13
def Svc.rtp (x : Svc) : Bool := (x.w 0).testBit 0
def Svc.rate (x : Svc) : Nat := bitsOf (x.w 2) 0 20
def Svc.pcrNs (x : Svc) : Nat := bitsOf (x.w 3) 16 8 * 1000000
def Svc.psiNs (x : Svc) : Nat := bitsOf (x.w 4) 0 16 * 1000000
def Svc.flushNs (x : Svc) : Nat := bitsOf (x.w 6) 0 16 * 1000

/-- BAD_ENTRY at ENABLE of a service (R218). -/
def svcBad (x : Svc) : Bool :=
  let pmt := bitsOf (x.w 1) 0 13
  let vid := bitsOf (x.w 1) 16 13
  let out (n lo hi : Nat) : Bool := n < lo || hi < n
  x.perDgram == 0 || bitsOf (x.w 0) 16 16 == 0 || out (bitsOf (x.w 3) 16 8) 10 40 || out (bitsOf (x.w 4) 0 16) 25 1000 ||
    out (bitsOf (x.w 4) 16 16) 1 2000 || out (bitsOf (x.w 6) 0 16) 100 10000 ||
    pmt < 0x20 || vid < 0x20 || pmt == vid || pmt == 0x1FFF || vid == 0x1FFF ||
    ((x.w 0).testBit 1 && ((vid < pmt && pmt ≤ vid + 4) || 0x1FFE < vid + 4))

def svcDone (s : State) (r : Nat) : State := fset s 0x111 F.PKT1_SVC_CMD_RESULT r

def svcSel (s : State) : Nat := fget s 0x111 F.PKT1_SVC_SEL_INDEX

/-- The encode context that sends to a service (R207). -/
def sender (s : State) (n : Nat) : Option Nat := ctxList.find? (usesSvc s n)

/-- The entries of the audio PIDs of a service (R208): with AUDIO = 1, those of the linked source's flow, each on
VIDEO_PID + 1 + i. -/
def svcAudio (s : State) (n : Nat) : List PmtEntry :=
  let x := getSvc s n
  if !(x.w 0).testBit 1 then []
  else match (sender s n).bind (linkSrc s) with
    | none => []
    | some c =>
      let l := audioPids s ((active s c) F.CTX_CFG_IO_IN_FLOW)
      ((List.range l.length).zip l).map fun e => { e.2 with pid := x.videoPid + 1 + e.1 }

/-- Quartz builds the PAT and the PMT (R208). The video is of the sender's codec; with no sender, none is listed
(DESIGN CHOICE, log 108). -/
def psiPackets (s : State) (n : Nat) : List TsPacket :=
  let x := getSvc s n
  let video := match sender s n with
    | none => []
    | some c =>
      let codec := (active s c).codec
      [(⟨streamType codec, x.videoPid, if codec = 3 then av1Registration else []⟩ : PmtEntry)]
  let put (pid : Nat) (l : List (List Byte)) : List TsPacket :=
    ((List.range l.length).zip l).map fun e => ⟨pid, e.1 == 0, 0, false, e.2⟩
  put 0 (sectionPackets (patSection (bitsOf (x.w 3) 0 16) (bitsOf (x.w 0) 16 16) x.pmtPid)) ++
    put x.pmtPid (sectionPackets (pmtSection (bitsOf (x.w 0) 16 16) x.videoPid (video ++ svcAudio s n)))

/-- The RTP header of a datagram of a service that takes form now (R210). -/
def Svc.rtpHead (x : Svc) : List Byte :=
  if x.rtp then rtpHeader (bitsOf (x.w 0) 8 7) x.rtpSeq (stc90 x.packAt % 2 ^ 32) (x.w 5) else []

/-- A datagram is complete: it goes to the store, or waits in DRAM for room (R210, R212). -/
def finishDgram (s : State) (n : Nat) : State :=
  let x := getSvc s n
  let d : Dgram := ⟨s.dgCount, n, x.rtpHead, x.pack, s.devtime, x.packRap, 0⟩
  let s := modSvc { s with dgCount := s.dgCount + 1 } n fun y => { y with
    dgrams := (y.dgrams + 1) % 2 ^ 32, rtpSeq := (y.rtpSeq + 1) % 2 ^ 16, pack := [], packRap := false }
  let s := countEv s 625 1
  if x.held = [] ∧ storeRoom s d.bytes then storeD s d
  else setIrq (fadd (modSvc s n fun y => { y with held := y.held ++ [d] }) 0x111 F.PKT1_CNT_STORE_WAIT_COUNT 1) 0x110 16

/-- One TS packet enters the open datagram, with the next continuity counter of its PID where it has a payload. -/
def putPacket (s : State) (n : Nat) (p : TsPacket) (rap : Bool) : State :=
  let s := modSvc s n fun x => { x with
    pack := x.pack ++ [{ p with cc := tget 0 x.ccs p.pid }]
    ccs := if p.data = [] then x.ccs else tput 0 x.ccs p.pid ((tget 0 x.ccs p.pid + 1) % 16)
    packAt := if x.pack = [] then s.devtime else x.packAt, packRap := x.packRap || rap }
  if (getSvc s n).perDgram ≤ (getSvc s n).pack.length then finishDgram s n else s

/-- An access unit's last byte leaves after its DTS + Δ (R209). -/
def muxLate (now dts : Nat) : Bool :=
  let d := (stc90 now + 2 ^ 33 - dts % 2 ^ 33) % 2 ^ 33
  0 < d && d < 2 ^ 32

/-- A video packet of 184 payload bytes, or 176 with a PCR. -/
def putVideo (s : State) (n : Nat) (pcr : Bool) (u : PesRest) (rest : List PesRest) : State :=
  let room := if pcr then 176 else 184
  let p : TsPacket := ⟨(getSvc s n).videoPid, u.start, 0, pcr, u.data.take room⟩
  let s := if pcr then modSvc s n ({ · with lastPcr := s.devtime }) else s
  if u.data.length ≤ room then
    let late := if muxLate s.devtime u.dts then 1 else 0
    putPacket (modSvc s n fun x => { x with queue := rest, muxLate := (x.muxLate + late) % 2 ^ 32 }) n p u.rap
  else putPacket (modSvc s n ({ · with queue := ⟨u.data.drop room, u.dts, false, false⟩ :: rest })) n p u.rap

/-- A packet of passed-through audio, with PTS + Δ (R208, R209). -/
def putAudio (s : State) (n delta : Nat) (a : AudioPart) (rest : List AudioPart) : State :=
  let data := if a.start then retime delta a.data else a.data
  putPacket (modSvc s n ({ · with audio := rest })) n ⟨(getSvc s n).videoPid + 1 + a.index, a.start, 0, false, data⟩ false

/-- The offset Δ that the stream of a service leaves with, once its first commit has fixed it (R209). -/
def svcDelta (s : State) (n : Nat) : Option Nat := (sender s n).bind fun c => (getCtx s c).delta

/-- A packet slot in which the PCR is due: with the next video bytes, or alone (R205). -/
def muxPcr (s : State) (n : Nat) : State :=
  match (getSvc s n).queue with
  | u :: rest => putVideo s n true u rest
  | [] =>
    putPacket (modSvc s n ({ · with lastPcr := s.devtime })) n ⟨(getSvc s n).videoPid, false, 0, true, []⟩ false

/-- A packet slot with nothing else due: the next audio, once the offset of its time stamps is known, else the next
video, else a null packet in a service with a rate (R205). -/
def muxNext (s : State) (n : Nat) : State :=
  match (getSvc s n).audio, (if (getSvc s n).audio = [] then none else svcDelta s n), (getSvc s n).queue with
  | a :: as, some d, _ => putAudio s n d a as
  | _, _, u :: rest => putVideo s n false u rest
  | _, _, [] =>
    if (getSvc s n).rate ≠ 0 then
      putPacket (modSvc s n fun y => { y with nulls := (y.nulls + 1) % 2 ^ 32 }) n nullPacket false
    else s

/-- What a packet slot carries (R208): PAT and PMT when due, a PCR when due, audio once Δ is fixed, video, else a null
packet. -/
def muxSlot (s : State) (n : Nat) : State :=
  match (getSvc s n).psi with
  | p :: rest => putPacket (modSvc s n ({ · with psi := rest })) n p false
  | [] => if (getSvc s n).lastPcr + (getSvc s n).pcrNs ≤ s.devtime then muxPcr s n else muxNext s n

/-- Nanoseconds of a packet slot at a rate in kb/s. -/
def slotNs (rate : Nat) : Nat := 1504 * 1000000 / max 1 rate

/-! ### PTP (R213, R214) -/

/-- Two's complement of `w` bits. -/
def twos (w : Nat) (v : Int) : Nat := (v % (2 ^ w : Int)).toNat

def setPtpLocked (s : State) (b : Bool) : State :=
  if fbit s 0x112 F.PKT2_PTP_STAT_LOCKED = b then s
  else setIrq (fsetb s 0x112 F.PKT2_PTP_STAT_LOCKED b) 0x110 4

/-- PTP_OFFSET steps by `v` (R214): STEPPED, PTP_STEPPED, and every schedule moves (R229). -/
def stepOffset (s : State) (v : Int) : State :=
  if v = 0 then s
  else
    let o := (qget s 0x112 F.PKT2_PTP_OFFSET_LO_LO : Int)
    let s := qset s 0x112 F.PKT2_PTP_OFFSET_LO_LO (twos 64 (o + v))
    (List.range 8).foldl syncGate (setIrq (fset s 0x112 F.PKT2_PTP_STAT_STEPPED 1) 0x110 8)

/-- Order of data sets (R213): the first entry that differs decides. -/
def rankLt : List Nat → List Nat → Bool
  | a :: as, b :: bs => a < b || (a == b && rankLt as bs)
  | [], _ :: _ => true
  | _, [] => false

/-- The selected master (R213): the best of those that announce themselves; the first of equals. -/
def bestMaster : List PtpMaster → Option PtpMaster
  | [] => none
  | m :: ms => match bestMaster ms with
    | none => some m
    | some b => some (if rankLt b.rank m.rank then b else m)

/-- An Announce renews its master (R213). -/
def ptpAnnounce (s : State) (f : PtpFrom) (rank : List Nat) : State :=
  let others := s.ptp.masters.filter fun m => !(m.port == f.port && m.clock == f.clock)
  { s with ptp := { s.ptp with masters := others ++ [⟨f.port, f.clock, rank, s.devtime⟩] } }

/-- The agent takes a message (R213): on an enabled port of PORT_MASK, of its transport and domain. -/
def ptpTakes (s : State) (f : PtpFrom) : Bool :=
  fbit s 0x112 F.PKT2_PTP_CTL_ENABLE && (fget s 0x112 F.PKT2_PTP_CTL_PORT_MASK).testBit f.port &&
    f.transport == fget s 0x112 F.PKT2_PTP_CTL_TRANSPORT && f.domain == fget s 0x112 F.PKT2_PTP_CTL_DOMAIN

/-- A message comes from the selected master. -/
def fromMaster (s : State) (f : PtpFrom) : Bool :=
  (bestMaster s.ptp.masters).any fun m => m.port == f.port && m.clock == f.clock

/-- A Sync message of the selected master with an error of PTP time against it (R214). The rate that the servo picks is
a free value within ±200 ppm. Steps wait for the first lock (R229). -/
def ptpSync (s : State) (port : Nat) (err : Int) : State :=
  let n := err.natAbs
  let s := fset (fset s 0x112 F.PKT2_PTP_STAT_PORT port) 0x112 F.PKT2_PTP_STAT_HOLDOVER 0
  let s := if 1000000 < n then
      if s.ptp.everLocked then stepOffset s (-err) else { s with ptp := { s.ptp with acc := s.ptp.acc - err } }
    else
      useFree (fset s 0x112 F.PKT2_PTP_RATE_RATE (twos 32 ((freeNat s % 400000001 : Nat) - 200000000 : Int)))
  let good := if n < 1000 then s.ptp.good + 1 else 0
  let s := { s with ptp := { s.ptp with good := good } }
  if 16 ≤ good then
    let acc := s.ptp.acc
    setPtpLocked (stepOffset { s with ptp := { s.ptp with everLocked := true, acc := 0 } } acc) true
  else if 10000 < n then setPtpLocked s false
  else s

/-! ### Commands -/

/-- NET_MODE_WRITE (R195). A reserved mode is not taken. -/
def execNetModeWrite (val : Word) (s : State) : Host.Outcome State Fault Refusal :=
  let v := val.toNat
  let s := if v.testBit 3 then fset s 0x110 F.PKT0_NET_MODE_REJECT 0 else s
  if anyPortEnabled s then .next (fset s 0x110 F.PKT0_NET_MODE_REJECT 1)
  else if v % 8 ≤ 4 then .next (fset s 0x110 F.PKT0_NET_MODE_MODE (v % 8))
  else .next s

/-- PORT_ENABLE (R195, R197, R335): ignored where the instance carries no port. -/
def execPortEnable (port : Fin 8) (val : Word) (eyes : List Nat) (s : State) : Host.Outcome State Fault Refusal :=
  let p := port.val
  let was := fbit s (ethPage p) F.ETH_CTL_ENABLE
  let s := writeEthCtl s p val.toNat
  if was || !carriesPort s p then .next s else .next (enablePort s p eyes)

/-- LINK_CHANGE (R216, R335): a link comes up only on an enabled port whose lanes passed. -/
def execLinkChange (port : Fin 8) (up : Bool) (s : State) : Host.Outcome State Fault Refusal :=
  let p := port.val
  let can := fbit s (ethPage p) F.ETH_CTL_ENABLE && carriesPort s p && (lanesOf s p).all fun l => calPass s (48 + l)
  .next (setLink s p (up && can))

/-- AN_DONE (R197). -/
def execAnDone (port : Fin 8) (fec : Fin 4) (s : State) : Host.Outcome State Fault Refusal :=
  let page := ethPage port.val
  if fbit s page F.ETH_CTL_ENABLE && fbit s page F.ETH_CTL_AN then
    let want := fget s page F.ETH_CTL_FEC
    let got := if netMode s < 3 then 0 else if want ≠ 0 then want else if fecOffered s fec.val then fec.val else fecUsed (netMode s) 0
    .next (setIrq (fset (fset s page F.ETH_STATUS_AN_DONE 1) page F.ETH_STATUS_FEC_ACTIVE got) page 4)
  else .next s

/-- FRAME_RECEIVE (R196, R198–R204): a frame on a port whose link is up. -/
def execFrameReceive (port : Fin 8) (f : Frame) (s : State) : Host.Outcome State Fault Refusal :=
  if fbit s (ethPage port.val) F.ETH_STATUS_LINK then .next (receiveFrame s port.val f) else .next s

/-- PACKET_RELEASE (R203–R205). -/
def execPacketRelease (flow : Fin 4096) (ts : List TsIn) (s : State) : Host.Outcome State Fault Refusal :=
  .next (releasePacket s flow.val ts)

/-- ACCESS_UNIT_TIMEOUT (R205): two picture periods after the last packet. -/
def execAccessUnitTimeout (ctx : Fin 256) (au : List AccessUnit) (s : State) : Host.Outcome State Fault Refusal :=
  let g := active s ctx.val
  let n := g F.CTX_CFG_IO_IN_FLOW
  match (getFlow s n).openAu with
  | some (_, _, t) =>
    if usesFlow s n ctx.val && g.input == 1 && t + 2 * g.period ≤ s.devtime then .next (completeAu s n (some au))
    else .next s
  | none => .next s

/-- FLOW_READ (R217). -/
def execFlowRead (s : State) : Host.Outcome State Fault Refusal :=
  let f := getFlow s (flowSel s)
  let data := (List.range 12).map f.w ++ [f.rx, f.recovered, f.lost, f.late, f.dup, f.overflow, f.resync]
  .next (flowDone ((List.range 19).foldl (fun s i => rset s 0x110 (0x80 + 4 * i) (data.getD i 0)) s) 0)

/-- FLOW_WRITE (R206). -/
def execFlowWrite (s : State) : Host.Outcome State Fault Refusal :=
  let n := flowSel s
  if (getFlow s n).enabled then .next (flowDone s 4)
  else
    let w := (List.range 12).map fun i => BitVec.ofNat 32 (rget s 0x110 (0x80 + 4 * i) &&& flowMasks.getD i 0)
    .next (flowDone (modFlow s n ({ · with words := w })) 0)

/-- FLOW_ENABLE (R206, R217). -/
def execFlowEnable (s : State) : Host.Outcome State Fault Refusal := .next (enableFlow s (flowSel s))

/-- FLOW_DISABLE (R206, R215, R251). -/
def execFlowDisable (s : State) : Host.Outcome State Fault Refusal :=
  let n := flowSel s
  let f := getFlow s n
  let sec := s.flows.any fun kv => kv.2.enabled && kv.2.merges && kv.2.primary == n
  if flowInUse s n || (f.enabled && sec) then .next (flowDone s 3)
  else if !f.enabled then .next (flowDone s 0)
  else
    let s := modFlow (freeAll s f.bufs) n fun x => { x with
      enabled := false, bufs := [], held := [], fec := [], base := none, next := none, openAu := none, auBytes := 0
      gaps := [], pat := [], pmt := [], ccs := [], joinAt := 0 }
    .next (flowDone (retryOutputs (report s n false)) 0)

/-- SERVICE_READ (R218). An index above 1,023 names no service. -/
def execServiceRead (s : State) : Host.Outcome State Fault Refusal :=
  let n := svcSel s
  if 1024 ≤ n then .next (svcDone s 1)
  else
    let x := getSvc s n
    let data := (List.range 8).map x.w ++ [x.dgrams, x.nulls, x.muxLate, x.audioDrop]
    .next (svcDone ((List.range 12).foldl (fun s i => rset s 0x111 (0x80 + 4 * i) (data.getD i 0)) s) 0)

/-- SERVICE_WRITE (R218). -/
def execServiceWrite (s : State) : Host.Outcome State Fault Refusal :=
  let n := svcSel s
  if 1024 ≤ n then .next (svcDone s 1)
  else if (getSvc s n).enabled then .next (svcDone s 4)
  else
    let w := (List.range 8).map fun i => BitVec.ofNat 32 (rget s 0x111 (0x80 + 4 * i) &&& svcMasks.getD i 0)
    .next (svcDone (modSvc s n ({ · with words := w })) 0)

/-- SERVICE_ENABLE (R218). The PAT and the PMT are due at once. -/
def execServiceEnable (s : State) : Host.Outcome State Fault Refusal :=
  let n := svcSel s
  let x := getSvc s n
  if 1024 ≤ n then .next (svcDone s 1)
  else if x.enabled then .next (svcDone s 0)
  else if svcBad x then .next (svcDone s 1)
  else
    .next (svcDone (modSvc s n fun y => { svc0 with
      enabled := true, words := y.words, psi := psiPackets s n, lastPsi := s.devtime, lastPcr := s.devtime
      lastSlot := s.devtime }) 0)

/-- SERVICE_DISABLE (R207). -/
def execServiceDisable (s : State) : Host.Outcome State Fault Refusal :=
  let n := svcSel s
  if 1024 ≤ n then .next (svcDone s 1)
  else if svcInUse s n then .next (svcDone s 3)
  else
    .next (svcDone (modSvc s n fun y => { y with
      enabled := false, queue := [], pack := [], packRap := false, psi := [], audio := [], held := [] }) 0)

/-- PSI_REPEAT (R208). -/
def execPsiRepeat (svc : Fin 1024) (s : State) : Host.Outcome State Fault Refusal :=
  let x := getSvc s svc.val
  if x.enabled && x.lastPsi + x.psiNs ≤ s.devtime then
    .next (modSvc s svc.val fun y => { y with psi := y.psi ++ psiPackets s svc.val, lastPsi := s.devtime })
  else .next s

/-- MUX_PACKET_SLOT (R208): at a constant rate, once the slot is due. -/
def execMuxPacketSlot (svc : Fin 1024) (s : State) : Host.Outcome State Fault Refusal :=
  let n := svc.val
  let x := getSvc s n
  if !x.enabled then .next s
  else if x.rate = 0 then .next (muxSlot s n)
  else if x.lastSlot + slotNs x.rate ≤ s.devtime then
    .next (muxSlot (modSvc s n ({ · with lastSlot := x.lastSlot + slotNs x.rate })) n)
  else .next s

/-- What is left of the PES packet of an audio part leaves the list: its parts up to the next that begins one. -/
def dropPes (i : Nat) : List AudioPart → List AudioPart
  | [] => []
  | a :: as => if a.index ≠ i then a :: dropPes i as else if a.start then a :: as else dropPes i as

/-- AUDIO_DROP (R208): audio held for more than 100 ms, PES by PES. -/
def execAudioDrop (svc : Fin 1024) (s : State) : Host.Outcome State Fault Refusal :=
  match (getSvc s svc.val).audio with
  | a :: as =>
    if a.at_ + 100000000 < s.devtime then
      .next (modSvc s svc.val fun y => { y with
        audio := dropPes a.index as, audioDrop := (y.audioDrop + 1) % 2 ^ 32 })
    else .next s
  | [] => .next s

/-- DATAGRAM_FLUSH (R210). -/
def execDatagramFlush (svc : Fin 1024) (s : State) : Host.Outcome State Fault Refusal :=
  let x := getSvc s svc.val
  if x.enabled && x.rate == 0 && x.pack != [] && x.packAt + x.flushNs ≤ s.devtime then .next (finishDgram s svc.val)
  else .next s

/-- STORE_MOVE (R212): the first datagram held in DRAM moves into the store, if it has room. -/
def execStoreMove (svc : Fin 1024) (s : State) : Host.Outcome State Fault Refusal :=
  match (getSvc s svc.val).held with
  | [] => .next s
  | d :: rest =>
    if storeRoom s d.bytes then
      .next (commitWaiting (storeD (modSvc s svc.val ({ · with held := rest })) { d with at_ := s.devtime }) svc.val)
    else .next s

/-- PTP_MESSAGE (R213, R214): a Sync acts where it is the selected master's. -/
def execPtpMessage (m : PtpMessage) (s : State) : Host.Outcome State Fault Refusal :=
  match m with
  | .sync f err => if ptpTakes s f && fromMaster s f then .next (ptpSync s f.port err) else .next s
  | .announce f rank => if ptpTakes s f then .next (ptpAnnounce s f rank) else .next s

/-- ANNOUNCE_RECEIPT_TIMEOUT (R214): the selected master is lost, and the rate is frozen. -/
def execAnnounceReceiptTimeout (s : State) : Host.Outcome State Fault Refusal :=
  if fbit s 0x112 F.PKT2_PTP_CTL_ENABLE then
    let left := s.ptp.masters.filter fun m => bestMaster s.ptp.masters != some m
    .next (setPtpLocked (fset { s with ptp := { s.ptp with good := 0, masters := left } } 0x112 F.PKT2_PTP_STAT_HOLDOVER 1) false)
  else .next s

/-- MEMBERSHIP_REPORT (R215): the second unsolicited report, 1 s after ENABLE. -/
def execMembershipReport (flow : Fin 4096) (s : State) : Host.Outcome State Fault Refusal :=
  let f := getFlow s flow.val
  if f.enabled && f.joinAt != 0 && f.joinAt + 10 ^ 9 ≤ s.devtime + 1 then
    .next (report (modFlow s flow.val ({ · with joinAt := 0 })) flow.val true)
  else .next s

end Sys2Proof.Machine
end

