-- ==== Sys2Proof/Machine/Faults.lean ====
section
/-! DEFINITION. Fault sources (R318–R324): raising a source class, its severity effect, its reaction, the reset of a
block and its shadow, and FATAL, with the commands FAULT_RAISE to SHADOW_CLOSE and STAGE_WATCHDOG_EXPIRY. -/

namespace Sys2Proof.Machine

/-! ### Sources of a page -/

/-- Severity of source class `n` of a block (R318). -/
def sevOf (page n : Nat) : Nat := ((faultTab page).getD n (0, 0)).1

/-- The reaction set for source class `n` (R320). -/
def reactOf (s : State) (page n : Nat) : Nat :=
  if n < 8 then bitsOf (fget s page F.HDR_FAULT_REACT0_REACT) (4 * n) 4
  else bitsOf (fget s page F.HDR_FAULT_REACT1_REACT) (4 * (n - 8)) 4

def faultEnabled (s : State) (page n : Nat) : Bool := (fget s page F.HDR_FAULT_ENABLE_ENABLE).testBit n

/-! ### Reset shadows (R323) -/

/-- The blocks that an interface source watches: pages, none for a source that is no interface source. -/
def watched (page n : Nat) : List Nat :=
  let dmcs := (List.range 24).map (0x60 + ·)
  match typeOf page, n with
  | 0x0C, 4 => dmcs
  | 0x0C, 5 => (List.range 4).map micaPage
  | 0x0D, 4 => dmcs
  | 0x10, 3 => dmcs
  | 0x0E, 4 => eePages
  | 0x12, 2 => dmcs
  | _, _ => []

/-- Nanoseconds that a shadow outlasts its event: SHADOW.CYCLES of the detectors' clock, taken as ENG_CLK (DEDUCED from
the worked example of R323, log 41). -/
def shadowNs (s : State) : Nat := ceilDiv (fget s 1 F.BDRK1_SHADOW_CYCLES * 1000) (max 1 (engMHz s))

/-- A shadow is open in the detectors that watch a page. -/
def shadowOpen (s : State) (page : Nat) : Bool :=
  match tget (some 0) s.bdrk.shadows page with
  | none => true
  | some t => t != 0 && s.devtime < t + shadowNs s

def secondary (s : State) (page n : Nat) : Bool := (watched page n).any (shadowOpen s)

/-! ### Block reset (R322) -/

/-- Reload the registers of every page of a block. Words that functions have staged or latched for its quantities (R4) are
dropped: R4 and R322 do not say what becomes of them (DESIGN CHOICE, log 85). -/
def resetBlockRegs (s : State) (page : Nat) : State :=
  { s with
    regs := s.regs.filter fun kv => blockPage (kv.1 / 4096) ≠ page || keptInReset (kv.1 / 4096) (kv.1 % 4096)
    latched := s.latched.filter fun x => blockPage (x.1.2 / 4096) ≠ page
    staged := s.staged.filter fun x => blockPage (x.1.2 / 4096) ≠ page }

/-- Bedrock's core restarts (R328, R331): its firmware is to be verified again, HEARTBEAT holds until it kicks, and
target 64 is emptied. -/
def bedrockStop (s : State) : State :=
  let s := modBdrk (setChip s ({ · with fwRuns := false })) ({ · with kick := none })
  emptyTarget (modTgt s 64 ({ · with runs := false })) 64

/-- What a block's own state becomes when its registers are reloaded: what a register shows is its reset value; HB_LEVEL shows
the level that HEARTBEAT holds (R328). -/
def resetInner (s : State) (page : Nat) : State :=
  match typeOf page with
  | 0x08 => { s with chans := [] }
  | 0x13 => { s with pnodes := [] }
  | 0x03 =>
    let s := fset s 0x10 F.PWR_AVS_ACK 0
    fset (fset s 0x10 F.PWR_STAT_GOV_ERR 0) 0x10 F.PWR_STAT_CMD_ERR 0
  | 0x07 => { s with perf := { s.perf with writing := false } }
  | 0x06 =>
    let s := { s with srcs := [], tgts := s.tgts.map fun (kv : Nat × Tgt) => (kv.1, { tgt0 with runs := kv.2.runs }), holdoff := [] }
    let s := { s with tgts := s.tgts.filter fun kv => kv.2 != tgt0 }
    (List.range 320).foldl syncSrc s
  | 0x02 =>
    fsetb (bedrockStop { s with bdrk := { s.bdrk with lock := none } }) 1 F.BDRK1_STATUS_HB_LEVEL s.pins.heartbeat
  | _ => s

/-- Start the reset of a block (R322): what it holds is discarded, its registers reload, its shadow opens, and it is not
READY until the reset ends. A unit in service stays in service (R320), a standby a standby, and a bank in its state. -/
def startReset (s : State) (page : Nat) : State :=
  let ins := blkInService s page
  let code := fget s page F.HDR_BLK_READY_STATE
  let sb := isStandby s page
  let s := if isEngPage page || isPpuPage page then discardWorkOf s page true none
    else if isMicaPage page then discardJobs s (bankOf page) else s
  let st := fget s page F.MICA_STATUS_STATE
  let s := resetInner (resetBlockRegs s page) page
  let s := if isEngPage page || isPpuPage page || isMicaPage page then setBlk s page false ins code else s
  let s := if sb then setStandby s page true else s
  let s := if isMicaPage page then syncBank (fset s page F.MICA_STATUS_STATE st) (bankOf page) else s
  let s := modBdrk (openShadow s page) fun b =>
    { b with resets := if b.resets.contains page then b.resets else b.resets ++ [page] }
  syncPage s page

/-! ### FATAL (R324) -/

/-- The first FATAL reaction stops commits, the ports and the heartbeat, and copies the log; a later one changes
nothing. -/
def fatal (s : State) (page n : Nat) : State :=
  if s.pins.stopped then s
  else
    let s := fset (fset (fset s 1 F.BDRK1_FATAL_PAGE page) 1 F.BDRK1_FATAL_SOURCE n) 1 F.BDRK1_FATAL_VALID 1
    let s := { s with pins := { s.pins with stopped := true, alertN := true } }
    norFlush (modBdrk s fun b => { b with
      toNor := b.toNor ++ (b.log.map (·.1)).filter fun k =>
        !b.toNor.contains k && !(b.nor.any fun e => e.2 == tget logEntry0 b.log k) })

/-! ### Severity effects (R318) and what the chapters say of each source -/

/-- A bank discards those of its jobs that had a transfer in flight (R109): bit i of DETAIL names job i (DESIGN CHOICE,
log 42). -/
def discardSome (s : State) (b detail : Nat) : State :=
  let j := (getBank s b).jobs
  let hit := (List.range j.length).filterMap fun i => if detail.testBit i then j[i]? else none
  let s := hit.foldl (fun s x => modSeg s x fun g => if g.phase = .searching then { g with phase := .waitRecord } else g)
    (abortJobs s b 435 hit.length)
  noBankFallback (takeJobs s b (j.filter fun x => !hit.contains x))

/-- The packet or datagram in hand is discarded (R219): DETAIL below 4,096 names the flow whose packet is next, above
it the datagram of the store (DESIGN CHOICE, log 42). -/
def packetLost (s : State) (detail : Nat) : State :=
  if detail < 4096 then
    if (getFlow s detail).held = [] then s else modFlow s detail fun x => { x with held := x.held.drop 1 }
  else
    match s.store[detail - 4096]? with
    | some d => storeUe s d.num
    | none => s

/-- MEM_ERR on the candidate record (R102, R177), which DETAIL 1 names (DESIGN CHOICE, log 42): the record is discarded
and the segment is searched digitally; rows that have committed cannot be reproduced. -/
def recordLost (s : State) (page : Nat) : State :=
  match (getEng s page).held with
  | ⟨.segment x, _, _, _, _, _, _⟩ :: _ =>
    match findSeg s x with
    | some (_, g) =>
      let s := modSeg s x ({ · with
        record := false, recDigital := true, digital := true, written := 0, cut := g.cut || 0 < g.rowsOut })
      if 0 < g.rowsOut then countUnmasked s x else s
    | none => s
  | _ => s

/-- A read of a decode engine fails (R140, R157). DETAIL 1 and up below 0x8000 names a 64-byte unit of the retained access
unit, 0x8000 and up the 64 × 64 area whose units read the reference sample, 0 any other read (DESIGN CHOICE, log 42). The
second failure makes the unit a gap, or the area lost. -/
def readFailed (detail : Nat) (p : DecPic) : DecPic :=
  if detail = 0 then p
  else if !p.failedOnce.contains detail then { p with failedOnce := p.failedOnce ++ [detail] }
  else if detail < 0x8000 then { p with gaps := p.gaps ++ [(64 * (detail - 1), 64 * detail)] }
  else
    let w := max 1 (ceilDiv p.au.width 64)
    { p with hurt := p.hurt ++ [⟨64 * ((detail - 0x8000) % w), 64 * ((detail - 0x8000) / w), 64, 64⟩] }

/-- MEM_ERR of a decode engine: the job in hand is discarded and runs again on another engine (R139, R155, R157). -/
def decMemErr (s : State) (page detail : Nat) : State :=
  let s := match (getEng s page).held with
    | ⟨.part c n _, _, _, _, _, _, _⟩ :: _ => modDec s c n (readFailed detail)
    | _ => s
  discardWorkOf s page false (some page)

/-- The effect of a source class on the block's work, whatever its reaction (R87, R109, R157, R193, R219, R234, R273,
R333, R338, R348). -/
def sevEffect (s : State) (page n detail : Nat) : State :=
  match typeOf page with
  | 0x0C =>
    if sevOf page n = 1 then discardWorkOf s page true (some page)
    else if sevOf page n = 2 then
      discardWorkOf (if n = 4 ∧ detail = 1 then recordLost s page else s) page false none
    else s
  | 0x0D =>
    if sevOf page n = 1 then discardWorkOf s page true (some page)
    else if sevOf page n = 2 then decMemErr s page detail else s
  | 0x10 =>
    if sevOf page n = 1 then discardWorkOf s page true (some page)
    else if sevOf page n = 2 then discardWorkOf s page false (some page) else s
  | 0x0E =>
    if sevOf page n = 1 then discardJobs s (bankOf page)
    else if sevOf page n = 2 then discardSome s (bankOf page) detail else s
  | 0x0F => if sevOf page n = 1 then clusterLeave s (page - 0xE8) else s
  | 0x12 => if n = 1 then packetLost s detail else s
  | 0x13 => if n = 1 then queueLost s (detail % 32768) else s
  | 0x08 => if n = 1 then chanHostErr s (detail % 64) else s
  | 0x07 => if n = 1 then { s with perf := { s.perf with cnt := tput 0 s.perf.cnt (detail % 1024) 0, corrupt := true } } else s
  | 0x02 => if n = 1 then bedrockStop s else s
  | _ => s

/-- SRAM errors that the page's own counter records (EE.ECC_CNT, DE.ECC_CNT). -/
def countEcc (s : State) (page n : Nat) : State :=
  if isEngPage page then
    if n = 0 then faddSat s page (engRow page F.EE_ECC_CNT_CORRECTED F.DE_ECC_CNT_CORRECTED) 1
    else if n = 1 then faddSat s page (engRow page F.EE_ECC_CNT_UNCORRECTED F.DE_ECC_CNT_UNCORRECTED) 1
    else s
  else s

/-! ### Reactions (R320) -/

/-- The unit page of a domain whose wake failed (R297, R317). -/
def unitOfDomain (d : Nat) : Option Nat :=
  if 1 ≤ d ∧ d < 19 then some (eePage (d - 1))
  else if 19 ≤ d ∧ d < 37 then some (dePage (d - 19))
  else if 37 ≤ d ∧ d < 41 then some (micaPage (d - 37))
  else if 41 ≤ d ∧ d < 49 then some (ppuPage (d - 41))
  else none

/-- OUT_OF_SERVICE of a unit (R169, R193, R374): it leaves service and is reset. `fail`: its own test or calibration
failed, so that none follows. -/
def unitOut (s : State) (page : Nat) (fail : Bool) : State :=
  if isMicaPage page then startReset (bankFaultLeave s (bankOf page) fail) page
  else startReset (faultLeave s page (!fail)) page

/-- SELFTEST_FAIL or CAL_FAIL. -/
def isTestFail (page n : Nat) : Bool := sevOf page n == 3 && (isEngPage page || isMicaPage page)

/-- Reactions 3 and 4. -/
def resetOrOut (s : State) (page n react detail : Nat) : State :=
  if react = 4 ∧ (isEngPage page || isPpuPage page || isMicaPage page) then unitOut s page (isTestFail page n)
  else if react = 4 ∧ page = 0x10 ∧ n = 0 then
    match unitOfDomain detail with
    | some u => unitOut s u false
    | none => s
  else startReset s page

/-- Carry out a reaction. -/
def react (s : State) (page n code detail : Nat) (sec forced : Bool) : State :=
  let s := if 1 ≤ code then logFault s page n code detail sec forced else s
  let s := if 2 ≤ code then setIrq s page (2 ^ 31) else s
  if code = 5 then fatal s page n
  else if 3 ≤ code then resetOrOut s page n code detail
  else s

/-- FAULT_FIRST captures a fault if VALID is 0 (R319, R322). -/
def captureFirst (s : State) (page n detail : Nat) (sec forced : Bool) : State :=
  if fbit s page F.HDR_FAULT_FIRST_VALID then s
  else
    rset s page 0x24 (n + 16 * sevOf page n + (if sec then 64 else 0) + (if forced then 128 else 0) + 256 + 65536 * detail)

/-- FAULT_COUNT rises, saturating (R322). -/
def countFault (s : State) (page : Nat) : State :=
  if fget s page F.HDR_FAULT_COUNT_COUNT = 0xFFFF then fset s page F.HDR_FAULT_COUNT_OVF 1
  else fadd s page F.HDR_FAULT_COUNT_COUNT 1

/-- A source class of a block is raised (R319, R323). -/
def raiseFault (s : State) (page0 n detail : Nat) (forced : Bool) : State :=
  let page := blockPage page0
  if faultCount page ≤ n then s
  else
    let sec := secondary s page n
    let set := reactOf s page n
    let code := if sec then min 1 set else set
    let en := faultEnabled s page n
    let s := if forced then s else countEcc s page n
    let s := sevEffect s page n detail
    if !en then s
    else
      let s := fset s page F.HDR_FAULT_STATUS_STATUS (fget s page F.HDR_FAULT_STATUS_STATUS ||| 2 ^ n)
      let s := countFault (captureFirst s page n detail sec forced) page
      let s := if sec then fadd s 1 F.BDRK1_CNT_SECONDARY_COUNT 1 else s
      react s page n code detail sec forced

/-- Several sources in one cycle (R319): the one of highest severity is captured, then the lowest bit. -/
def raiseForced (s : State) (page v : Nat) : State :=
  let p := blockPage page
  let hit := (List.range (faultCount p)).filter v.testBit
  [3, 2, 1, 0].foldl (fun s sev => (hit.filter fun n => sevOf p n == sev).foldl (fun s n => raiseFault s p n 0xFFFF true) s) s

/-! ### The end of a reset -/

/-- A block reset has ended (R322): the unit is READY again where its bring-up work is done, a unit that left for a fault
tests itself or calibrates (R169, R193, R374), and a PPU that may rejoin does. -/
def endReset (s : State) (page : Nat) : State :=
  let s := endShadow (modBdrk s fun b => { b with resets := b.resets.filter (· != page) }) page
  let up := readyBit s (domainOf page)
  if isEngPage page then
    let s := fsetb s page F.HDR_BLK_READY_READY up
    if (getEng s page).wantTest then
      startTest (fset (modEng s page ({ · with wantTest := false })) page F.HDR_BLK_READY_STATE 1) page
    else s
  else if isPpuPage page then
    let s := fsetb s page F.HDR_BLK_READY_READY up
    if (getEng s page).wantTest then
      let s := ppuTested s page
      if (getEng s page).tested && (getEng s page).admitWait then joinUnit s page else s
    else s
  else if isMicaPage page then
    let b := bankOf page
    let s := fsetb s page F.HDR_BLK_READY_READY up
    if (getBank s b).wantCal && bankState s b == 0 then
      setBank (modBank (requestWake s (domainOf page)) b ({ · with wantCal := false })) b 1 1
    else syncBank s b
  else if kindOf page == .qz then setBlk s page false false 1
  else s

/-! ### Commands -/

/-- FAULT_RAISE (R319). -/
def execFaultRaise (page : Nat) (src : Fin 16) (detail : BitVec 16) (s : State) : Host.Outcome State Fault Refusal :=
  .next (raiseFault s page src.val detail.toNat false)

/-- FAULT_FORCE (R321). -/
def execFaultForce (page : Nat) (val : Word) (s : State) : Host.Outcome State Fault Refusal :=
  .next (raiseForced s page (val.toNat % 2 ^ 16))

/-- FAULT_FIRST_CLEAR (R322): writing 1 to VALID clears the whole register. -/
def execFaultFirstClear (page : Nat) (s : State) : Host.Outcome State Fault Refusal :=
  if faultCount (blockPage page) = 0 then .next s else .next (rset s (blockPage page) 0x24 0)

/-- BLOCK_RESET_END (R322). -/
def execBlockResetEnd (page : Nat) (s : State) : Host.Outcome State Fault Refusal :=
  if inReset s (blockPage page) then .next (endReset s (blockPage page)) else .next s

/-- SHADOW_CLOSE (R323): a shadow whose time is over is gone. -/
def execShadowClose (page : Nat) (s : State) : Host.Outcome State Fault Refusal :=
  if shadowOpen s page then .next s
  else .next (modBdrk s fun b => { b with shadows := tput (some 0) b.shadows page (some 0) })

/-- STAGE_STALL of an engine: a stage has held its unit for more than 1 µs. DETAIL names the stage (DESIGN CHOICE, log 42). -/
def noteStall (s : State) (page heldUs detail : Nat) : State :=
  if isEngPage page && decide (1 < heldUs) then
    let row := engRow page F.EE_STAGE_STALL_STAGE F.DE_STAGE_STALL_STAGE
    let n := detail % if isEePage page then 8 else 5
    fset s page row (fget s page row ||| 2 ^ n)
  else s

/-- STAGE_WATCHDOG_EXPIRY (R87, R157, R193): a stage held its unit longer than WATCHDOG.PERIOD_US. -/
def execStageWatchdogExpiry (page heldUs detail : Nat) (s : State) : Host.Outcome State Fault Refusal :=
  let row := if isPpuPage page then F.PPU_WATCHDOG_PERIOD_US else engRow page F.EE_WATCHDOG_PERIOD_US F.DE_WATCHDOG_PERIOD_US
  if (isEngPage page || isPpuPage page) && (getEng s page).held != [] then
    let s := noteStall s page heldUs detail
    .next (if fget s page row < heldUs then raiseFault s page (if isPpuPage page then 2 else 3) (detail % 2 ^ 16) false else s)
  else .next s

end Sys2Proof.Machine
end

