-- ==== Sys2Proof/Machine/Mica.lean ====
section
/-! DEFINITION. Coarse search on the MICA banks (R93–R106, R335, R336, R374): search jobs, tiles, drift checks and
calibration, with the commands SEARCH_JOB_ISSUE, SEARCH_JOB_COMPLETE and DRIFT_CHECK to MIN_TILES_WRITE. -/

namespace Sys2Proof.Machine

/-- A write to a register of the expert area (R6, R9): ignored while the page is locked, which raises EXPERT_LOCKED. -/
def expertWrite (s : State) (page : Nat) (f : State → State) : State :=
  if unlocked s page then f s else setIrq s page 1

/-! ### Search jobs -/

/-- Passes of one search unit (R90, R93): its L2 positions of every reference, and the L1 positions of its four regions
unless the effort is MINIMAL. -/
def unitPasses (refs effort : Nat) : Nat :=
  ceilDiv (refs * 8385) 256 + (if effort = 3 then 0 else 4 * ceilDiv (refs * 1050) 256)

/-- The work of a segment's job (R93). -/
def bankJob (s : State) (x : SegId) (p : Pic) (g : Seg) : BankJob :=
  ⟨x, g.dS, unitPasses p.refs.length p.effort, unitPositions p.refs.length (p.effort != 3), s.devtime, g.sunits, 0⟩

/-- The tiles of every bank take the units that they have had time for. -/
def tickBanks (s : State) : State := (List.range 4).foldl bankTick s

/-- The bank that takes the next job: the most tiles free, then the lower number (R98). -/
def pickBank (s : State) : Option Nat :=
  ((List.range 4).filter (bankServes s)).foldl (fun best b =>
    match best with
    | none => some b
    | some a => if tilesFree s a < tilesFree s b then some b else some a) none

/-- BATCH is throttled by step 1 of R126. -/
def throttled (s : State) (c : Nat) : Bool := decide (1 ≤ s.disp.step) && !clsLive s c

/-- A segment whose job is to be issued, with its deadline and class. -/
def jobWaits (s : State) (x : SegId) : Option Nat :=
  match findSeg s x with
  | some (_, g) => if g.phase = .waitRecord && !(getCtx s x.ctx.val).moving then some g.dS else none
  | none => none

/-- Contexts whose work may be placed: they run, and do not wait to move (R332). -/
def placeCtxs (s : State) : List Nat :=
  (s.ctxs.map (·.1)).filter fun c => (ctxState s c == 3 || ctxState s c == 4) && !(getCtx s c).moving

/-- May a segment be placed (R160)? One that runs again after its commit keeps its record (R177). -/
def segEligible (x : Ctx) (p : Pic) (g : Seg) : Bool :=
  ((g.phase == .eligible && g.redo == 0) || g.redo == 1) && refsReady x p

/-- Deadlines of the segments of a context that wait for a job. -/
def waitingJobs (s : State) (c : Nat) : List Nat :=
  if (getCtx s c).moving then []
  else (getCtx s c).pics.flatMap fun p => p.segs.filterMap fun g => if g.phase = .waitRecord then some g.dS else none

/-- A LIVE segment or search job waits (R126 step 1). -/
def liveWaits (s : State) : Bool :=
  (placeCtxs s).any fun c => clsLive s c &&
    (waitingJobs s c != [] || (getCtx s c).pics.any fun p => p.segs.any (segEligible (getCtx s c) p))

/-- No other segment's job comes first: jobs are issued in order of segment deadline (R98), and those of throttled BATCH
contexts only when no LIVE segment or job waits (R126). -/
def jobFirst (s : State) (c dS : Nat) : Bool :=
  !(throttled s c && liveWaits s) &&
    s.ctxs.all fun kv => (throttled s kv.1 && !throttled s c) || (waitingJobs s kv.1).all (dS ≤ ·)

/-- Issue a search job to a bank (R98, R99); the bank's domain wakes for it (R303). -/
def issueJob (s : State) (x : SegId) (p : Pic) (g : Seg) (b : Nat) : State :=
  let s := setJobs s b ((getBank s b).jobs ++ [x])
  let s := modBank s b fun y => { y with work := y.work ++ [bankJob s x p g] }
  let s := modSeg s x fun g => { g with
    phase := .searching, bank := b, issued := some (g.issued.getD s.devtime) }
  bankTick (touchDomain s (domainOf (micaPage b))) b

/-- SEARCH_JOB_ISSUE (R98, R99): without a bank in service, the segment is placed in digital fallback. -/
def execSearchJobIssue (seg : SegId) (s : State) : Host.Outcome State Fault Refusal :=
  match jobWaits s seg with
  | none => .next s
  | some dS =>
    if !anyBank s then .next (chooseDigital s seg)
    else if !jobFirst s seg.ctx.val dS then .next s
    else
      let s := tickBanks s
      match pickBank s, findSeg s seg with
      | some b, some (p, g) => .next (issueJob s seg p g b)
      | _, _ => .next s

/-- A search job has ended at moment 1, 2 or 3 of R99 (R179). -/
def countJob (s : State) (fell : Bool) : State :=
  { s with disp := { s.disp with
      jobsEnded := s.disp.jobsEnded + 1, jobsFell := s.disp.jobsFell + (if fell then 1 else 0) } }

/-- The record of a segment is COMPLETE (R96): it stands in its buffer, and a bank that drains may be done. -/
def jobDone (s : State) (b : Nat) (x : SegId) (codes : List Nat) : State :=
  let s := match findSeg s x with
    | some (p, g) => if g.phase = .searching then putBankRecord s x p g b codes else s
    | none => s
  let s := modSeg (countJob s false) x fun g =>
    if g.phase = .searching then { g with phase := .eligible, record := true, recDigital := false, bank := b } else g
  let s := countEv (fadd s (micaPage b) F.MICA_CNT_JOB_COUNT 1) (434 + 8 * b) 1
  takeJobs s b ((getBank s b).jobs.erase x)

/-- SEARCH_JOB_COMPLETE (R96): every search unit of the job has ended. -/
def execSearchJobComplete (bank : Fin 4) (seg : SegId) (codes : List Nat) (s : State) :
    Host.Outcome State Fault Refusal :=
  let b := bank.val
  if (getBank s b).jobs.contains seg && domOn s (domainOf (micaPage b)) then
    let s := bankTick s b
    .next (if jobEnded s b seg then jobDone s b seg codes else s)
  else .next s

/-! ### Tiles -/

/-- RESID of a tile, saturating at 255. -/
def setResid (s : State) (b t r : Nat) : State :=
  fset s (micaPage b) { F.MICA_RESID_T0 with lo := 8 * (t % 4) } (min r 255) (t / 4)

def tileFails (s : State) (b r : Nat) : Bool := fget s (micaPage b) F.MICA_RESID_LIMIT_LIMIT < r

/-- A tile's result is recorded (R335): item 56 + 32 × bank + tile. -/
def recordTile (s : State) (b t r : Nat) : State := calRecord (setResid s b t r) (56 + 32 * b + t) r (!tileFails s b r)

/-- TILE_EN: the tiles that no residual has disabled, less TILE_MASK (R105). -/
def syncTiles (s : State) (b : Nat) : State :=
  let p := micaPage b
  fset s p F.MICA_TILE_EN_EN
    ((2 ^ 32 - 1 - fget s p F.MICA_TILE_FAIL_FAIL) &&& (2 ^ 32 - 1 - fget s p F.MICA_TILE_MASK_MASK))

/-- Disable a tile at a drift check (R105, R106, R109): the fourth since the last calibration requests another. -/
def driftDisable (s : State) (b t : Nat) : State :=
  let p := micaPage b
  let s := fset s p F.MICA_TILE_FAIL_FAIL (fget s p F.MICA_TILE_FAIL_FAIL ||| 2 ^ t)
  let s := raiseFault (setIrq (syncTiles s b) p 4) p 3 t false
  let s := modBank s b fun x => { x with failed := x.failed + 1 }
  let s := checkTiles s b
  if (getBank s b).failed = 4 then requestCal s b else s

/-- Release the reserved tile. -/
def driftEnd (s : State) (b : Nat) : State :=
  let p := micaPage b
  syncBank (fset (fsetb s p F.MICA_STATUS_DRIFT_BUSY false) p F.MICA_STATUS_DRIFT_TILE 0) b

/-- The check of a reserved tile ends (R105, R106, R336): its residual is recorded, and too large a one disables it. A bank
that has begun to calibrate meanwhile has no use for it. -/
def driftResult (s : State) (b resid : Nat) : State :=
  let p := micaPage b
  let t := fget s p F.MICA_STATUS_DRIFT_TILE
  let s := driftEnd (modBank s b ({ · with driftNext := (t + 1) % 32 })) b
  if bankState s b = 1 then s
  else
    let s := countEv (recordTile s b t resid) (438 + 8 * b) 1
    if tileFails s b resid then driftDisable s b t else checkTiles s b

/-- A check of the next tile in turn begins (R106, R336): 10 s after the bank's last, on an idle tile. A disabled tile is
passed over. -/
def driftBegin (s : State) (b : Nat) : State :=
  let p := micaPage b
  let t := (getBank s b).driftNext
  if !(fget s p F.MICA_TILE_EN_EN).testBit t then
    modBank s b ({ · with driftNext := (t + 1) % 32, driftAt := s.devtime })
  else if tileEnd (getBank s b) t ≤ s.devtime then
    let s := modBank s b ({ · with driftAt := s.devtime })
    syncBank (fset (fsetb s p F.MICA_STATUS_DRIFT_BUSY true) p F.MICA_STATUS_DRIFT_TILE t) b
  else s

/-- DRIFT_CHECK (R106, R336): `resid`: none, a tile is to be reserved; else the residual that the check has measured, at most
100 µs after its reservation. -/
def execDriftCheck (bank : Fin 4) (resid : Option Nat) (s : State) : Host.Outcome State Fault Refusal :=
  let b := bank.val
  let p := micaPage b
  let s := bankTick s b
  let busy := fbit s p F.MICA_STATUS_DRIFT_BUSY
  match resid with
  | some r => if busy then .next (driftResult s b r) else .next s
  | none =>
    if !busy && blkReady s p && bankState s b != 1 && s.chip.fwRuns &&
        decide ((getBank s b).driftAt + 10 ^ 10 ≤ s.devtime) then .next (driftBegin s b)
    else .next s

/-! ### Service -/

/-- CAL_REQ (R106). -/
def execCalReq (bank : Fin 4) (s : State) : Host.Outcome State Fault Refusal := .next (requestCal s bank.val)

/-- MICA_RETIRE (R374). -/
def execMicaRetire (bank : Fin 4) (s : State) : Host.Outcome State Fault Refusal := .next (retireBank s bank.val)

/-- MICA_ADMIT (R374). -/
def execMicaAdmit (bank : Fin 4) (s : State) : Host.Outcome State Fault Refusal := .next (admitBank s bank.val)

/-- Trim codes that a calibration sets (R336): 64 taps of 6 bits per tile. -/
def setTrims (s : State) (b : Nat) (trim : List (List Nat)) : State :=
  modBank s b ({ · with trims := (List.range 32).foldl (fun t i =>
    tput [] t i ((trim.getD i []).map (· % 64))) [] })

/-- A calibration ends (R105, R309 step 8, R336, R374): the tiles within the limit are enabled, the bank is READY, and it
serves again if it has MIN_TILES tiles and returns by itself. -/
def calDone (s : State) (b : Nat) (resid : List Nat) (trim : List (List Nat)) : State :=
  let p := micaPage b
  let bad := (List.range 32).filter fun t => tileFails s b (resid.getD t 0)
  let s := (List.range 32).foldl (fun s t => recordTile s b t (resid.getD t 0)) (driftEnd (setTrims s b trim) b)
  let s := fset s p F.MICA_TILE_FAIL_FAIL (bad.foldl (fun v t => v + 2 ^ t) 0)
  let s := setIrq (syncTiles (modBank s b ({ · with failed := 0 })) b) p (2 + if bad = [] then 0 else 4)
  let s := setReady (fset s p F.HDR_BLK_READY_READY 1) (domainOf p)
  if tilesOn s b < minTiles s b then raiseFault (setBank s b 0 6) p 5 0 false
  else if (getBank s b).autoBack then setBank s b 2 2
  else setBank s b 0 5

/-- TILE_MASK_WRITE (R105). -/
def execTileMaskWrite (bank : Fin 4) (val : Word) (s : State) : Host.Outcome State Fault Refusal :=
  let p := micaPage bank.val
  .next (expertWrite s p fun s =>
    let s := fset s p F.MICA_TILE_MASK_MASK val.toNat
    if blkReady s p then checkTiles (syncTiles s bank.val) bank.val else s)

/-- MIN_TILES_WRITE (R105): a value outside 1–32 is ignored. -/
def execMinTilesWrite (bank : Fin 4) (val : Word) (s : State) : Host.Outcome State Fault Refusal :=
  let p := micaPage bank.val
  let n := val.toNat % 64
  .next (expertWrite s p fun s =>
    if 1 ≤ n ∧ n ≤ 32 then checkTiles (fset s p F.MICA_MIN_TILES_MIN n) bank.val else s)

end Sys2Proof.Machine
end

