-- ==== Sys2Proof/Machine/Place.lean ====
section
/-! DEFINITION. Placement (R158–R168): the eligible work and its order, the estimate of a finish time, masks and
standbys, overload and shedding (R126–R129, R179), with the commands PLACE_WORK, SEARCH_WAIT_EXPIRY,
SEARCH_DEADLINE_FALLBACK, SELFTEST_START to CAPACITY_WRITE, VERIFY_WAIVE, OVERLOAD_WINDOW and SHED_UNDO. -/

namespace Sys2Proof.Machine

/-! ### Work items -/

/-- A piece of eligible work (R160): its place in the order of R161, and its time at the nominal rate. -/
structure Item where
  rank  : Nat
  due   : Nat
  enter : Nat
  ctx   : Nat
  idx   : Nat
  job   : Job
  /-- luma samples and bits (R138), and whether it runs at the fallback rate by itself -/
  px    : Nat
  bits  : Nat
  fb    : Bool
  mask  : Nat
  /-- pages that may not take it (R175, R176) -/
  bar   : List Nat
  live  : Bool
  deriving DecidableEq, Repr

/-- The order of R161, after the ranks of R173: deadline, T_enter or T_ready, context, number. -/
def Item.before (a b : Item) : Bool :=
  if a.rank ≠ b.rank then a.rank < b.rank
  else if a.due ≠ b.due then a.due < b.due
  else if a.enter ≠ b.enter then a.enter < b.enter
  else if a.ctx ≠ b.ctx then a.ctx < b.ctx
  else a.idx < b.idx

def insertItem (x : Item) : List Item → List Item
  | [] => [x]
  | y :: ys => if x.before y then x :: y :: ys else y :: insertItem x ys

def sortItems (l : List Item) : List Item := l.foldl (fun acc x => insertItem x acc) []

/-- Segments next to segment `i` and before it in raster order (R178). -/
def neighbours (g : Seg) (strips i : Nat) : List Nat :=
  (if g.band = 0 then [] else [i - strips]) ++ (if g.strip = 0 then [] else [i - 1])

/-- A segment is over for the boundary job beside it: committed, or coded under GUARD OFF (R178). -/
def sideDone (p : Pic) (g : Seg) : Bool :=
  g.redo == 0 && (g.phase == .committed || (p.guardLv == 1 && (g.phase == .returned || g.phase == .cleared)))

/-- The boundary job of a picture that comes next (R178): they run one at a time, in raster order. -/
def nextBoundary (p : Pic) (strips : Nat) : Option Nat :=
  match (List.range p.segs.length).find? fun i => p.segs[i]?.any fun g => g.edge != 0 && g.edge != 3 with
  | none => none
  | some i =>
    match p.segs[i]? with
    | none => none
    | some g =>
      if g.edge == 1 && sideDone p g &&
          (neighbours g strips i).all fun k => p.segs[k]?.any (sideDone p) then some i else none

def segItem (s : State) (c : Fin 256) (p : Pic) (i : Nat) (g : Seg) : Item :=
  { rank := 1, due := g.cS, enter := p.tEnter, ctx := c.val, idx := i, job := .segment ⟨c, p.num, i⟩
    px := g.px, bits := 0, fb := g.digital, mask := p.eeMask
    bar := g.avoid ++ g.runs.map (fun r => eePage r.ee), live := clsLive s c.val }

/-- A boundary job (R178): the spec gives it neither a size nor a rank; it goes first, and takes no time in an estimate
(DESIGN CHOICE, log 44). -/
def boundaryItem (s : State) (c : Fin 256) (p : Pic) (i : Nat) (g : Seg) : Item :=
  { rank := 0, due := g.dS, enter := p.tEnter, ctx := c.val, idx := i, job := .boundary ⟨c, p.num, i⟩
    px := 0, bits := 0, fb := false, mask := p.eeMask, bar := g.eruns.map fun r => eePage r.ee, live := clsLive s c.val }

/-- Lookahead of a submission under REPRODUCIBLE_SEARCH (R107): a quarter of its luma samples at the fallback rate. The spec
gives it no deadline: it has that of a picture that would enter coding as it was submitted (DESIGN CHOICE, log 106). -/
def lookItem (s : State) (c : Nat) (u : Submit) : Item :=
  let g := active s c
  { rank := 1, due := u.at_ + g.latency, enter := u.at_, ctx := c, idx := 0, job := .lookahead c u.num
    px := g.w * g.h / 4, bits := 0, fb := true, mask := (masksNow s c).1, bar := [], live := clsLive s c }

/-- Eligible work of the encode engines in one context. -/
def eeItemsOf (s : State) (c : Nat) : List Item :=
  if h : c < 256 then
    let x := getCtx s c
    let strips := (active s c).strips.length
    (x.pics.flatMap fun p =>
      ((List.range p.segs.length).filterMap fun i => p.segs[i]?.bind fun g =>
        if segEligible x p g then some (segItem s ⟨c, h⟩ p i g) else none) ++
      ((nextBoundary p strips).bind fun i => p.segs[i]?.map (boundaryItem s ⟨c, h⟩ p i)).toList) ++
    (x.submits.filter (·.laWork == 1)).map (lookItem s c)
  else []

/-- Eligible work of the encode engines in the order of R161; throttled BATCH segments stand back (R126). -/
def eeItems (s : State) : List Item :=
  let all := (placeCtxs s).flatMap (eeItemsOf s)
  let back := decide (1 ≤ s.disp.step) && liveWaits s
  sortItems (all.filter fun x => !(back && !x.live && x.rank == 1))

/-- Ranks of R173 while OVL_DE is 1: verify jobs under arbitration, then decode parts or verify jobs as VERIFY_FIRST
says. -/
def verifyRank (s : State) (g : Seg) : Nat :=
  if !fbit s 0 F.CHIP_PLACE_STAT_OVL_DE then 1
  else if g.runs ≠ [] then 0
  else if fbit s 0 F.CHIP_PLACE_CTL_VERIFY_FIRST then 1 else 2

def partRank (s : State) : Nat :=
  if fbit s 0 F.CHIP_PLACE_STAT_OVL_DE && fbit s 0 F.CHIP_PLACE_CTL_VERIFY_FIRST then 2 else 1

def verifyItem (s : State) (c : Fin 256) (p : Pic) (i : Nat) (g : Seg) : Item :=
  { rank := verifyRank s g, due := g.dS, enter := p.tEnter, ctx := c.val, idx := i, job := .verify ⟨c, p.num, i⟩
    px := g.px, bits := g.runBits, fb := false, mask := p.deMask
    bar := g.avoid ++ g.runs.map (fun r => dePage r.de), live := clsLive s c.val }

/-- The check of a boundary job (R173, R178): never waived, and while OVL_DE is 1 ahead of every part. It takes no time in an
estimate (log 44). -/
def checkItem (s : State) (c : Fin 256) (p : Pic) (i : Nat) (g : Seg) : Item :=
  { rank := if fbit s 0 F.CHIP_PLACE_STAT_OVL_DE then 0 else 1, due := g.dS, enter := p.tEnter, ctx := c.val, idx := i
    job := .boundary ⟨c, p.num, i⟩, px := 0, bits := 0, fb := false, mask := p.deMask
    bar := g.avoid ++ g.eruns.map (fun r => dePage r.de), live := clsLive s c.val }

/-- The references of a decoded picture are available (R139, R160). -/
def decRefsReady (x : Ctx) (p : DecPic) : Bool :=
  p.refs.all fun r => match r with
    | .pic n | .subst n => x.decRefs.any (·.num == n)
    | _ => true

/-- A picture that still needs a place in the decoded picture buffer. The second field of a frame shares that of the first. -/
def DecPic.unplaced (p : DecPic) : Bool := p.slot.isNone && p.shows.isNone && !p.second

/-- The place of a picture in the decoded picture buffer (R152): its own, that of its first field, or one for each picture
before it that has none either, and one for it. -/
def slotFor (s : State) (c : Nat) (p : DecPic) : Option Nat :=
  let x := getCtx s c
  if p.slot.isSome then p.slot
  else if p.second then (p.mate.bind fun n => x.decs.find? (·.num == n)).bind (·.slot)
  else (freeSlots s c)[((x.decs.takeWhile (·.num != p.num)).filter DecPic.unplaced).length]?

def partItem (s : State) (c : Nat) (p : DecPic) (i : Nat) (q : Part) : Item :=
  { rank := partRank s, due := p.deadline, enter := p.tReady, ctx := c, idx := i, job := .part c p.num i
    px := q.px, bits := q.bits, fb := false, mask := p.deMask, bar := q.avoid, live := clsLive s c }

/-- Eligible work of the decode engines in one context. -/
def deItemsOf (s : State) (c : Nat) : List Item :=
  if h : c < 256 then
    let x := getCtx s c
    (x.pics.flatMap fun p => (List.range p.segs.length).filterMap fun i => p.segs[i]?.bind fun g =>
      if g.vwait then some (verifyItem s ⟨c, h⟩ p i g) else if g.edge = 4 then some (checkItem s ⟨c, h⟩ p i g) else none) ++
    (x.decs.flatMap fun p => (List.range p.parts.length).filterMap fun i => p.parts[i]?.bind fun q =>
      if q.st = 0 ∧ decRefsReady x p ∧ (slotFor s c p).isSome then some (partItem s c p i q) else none)
  else []

def deItems (s : State) : List Item := sortItems ((placeCtxs s).flatMap (deItemsOf s))

/-! ### Engines -/

/-- An engine in service that takes new work. -/
def takesWork (s : State) (page : Nat) : Bool := usable s page && !(getEng s page).draining

def isSegment : Job → Bool
  | .segment _ => true
  | _ => false

def isLookahead : Job → Bool
  | .lookahead _ _ => true
  | _ => false

/-- Room of R161: fewer than two segments, or nothing held. -/
def hasRoom (s : State) (k : EngKind) (page : Nat) : Bool :=
  match k with
  | .ee => ((getEng s page).held.filter (isSegment ·.job)).length < 2
  | .de => (getEng s page).held == []

/-- Search form of R161 and R375: the fallback rate for a fallback segment, and on an engine under FORCE_DIGITAL. -/
def runsFb (s : State) (page : Nat) (fb : Bool) : Bool := fb || (isEePage page && fbit s page F.EE_FORCE_DIGITAL_FORCE)

/-- t_est of R161 before the division by σ. -/
def itemTime (s : State) (k : EngKind) (page : Nat) (x : Item) : Nat :=
  let codec := (active s x.ctx).codec
  match k with
  | .ee => pxTime x.px (eeRate10 codec (runsFb s page x.fb)) (engMHz s)
  | .de => partTime x.px x.bits codec (engMHz s)

def sigmaOf (s : State) (page : Nat) : Nat := fget s page (engRow page F.EE_SPEED_SIGMA F.DE_SPEED_SIGMA)

/-- Wake time of a unit that is gated (R301, R303). -/
def wakeNs (s : State) (page : Nat) : Nat := if domOn s (domainOf page) then 0 else 20000

/-- t_free of R161: the time at which the work a unit holds is estimated to end, at its speed. -/
def heldEnd (s : State) (page sigma : Nat) : Nat :=
  (getEng s page).held.foldl (fun t h =>
    if h.begun then max t (h.start + bySpeed h.est sigma) else t + bySpeed h.est sigma) s.devtime

/-- F_e of R161. -/
def finishOn (s : State) (k : EngKind) (x : Item) (page : Nat) : Nat :=
  heldEnd s page (sigmaOf s page) + wakeNs s page + bySpeed (itemTime s k page x) (sigmaOf s page)

def listMin : List Nat → Nat
  | [] => 0
  | x :: xs => xs.foldl min x

/-- Engines that may take an item. -/
def itemEngines (s : State) (k : EngKind) (x : Item) : List Nat :=
  (maskedEngines s k x.mask).filter fun p => takesWork s p && !x.bar.contains p

/-- Room for an item: lookahead begins at once, on an engine that holds nothing (DESIGN CHOICE, log 106). -/
def fits (s : State) (k : EngKind) (x : Item) (page : Nat) : Bool :=
  hasRoom s k page && (!isLookahead x.job || (getEng s page).held == [])

def localityNs (s : State) : Nat := fget s 0 F.CHIP_PLACE_XCTL_LOCALITY_US * 1000

/-- The engine that R161 gives an item, with its finish time; none where the item waits. Where no engine meets the deadline it is
the one that finishes first; otherwise, of those within LOCALITY_US of it, the one that last retired work of the context, or
else the lowest-numbered. -/
def chooseEngine (s : State) (k : EngKind) (x : Item) : Option (Nat × Nat) :=
  let all := itemEngines s k x
  let room := all.filter (fits s k x)
  let f := finishOn s k x
  match leastBy f room with
  | none => none
  | some first =>
    if f first ≤ x.due then
      let near := room.filter fun p => f p ≤ f first + localityNs s
      let own := (getCtx s x.ctx).lastOn.filter near.contains
      ((own ++ near).head?).map fun p => (p, f p)
    else if all.any fun p => !fits s k x p && f p ≤ x.due then none
    else some (first, f first)

/-! ### Placement -/

/-- A picture takes its place in the decoded picture buffer (R152). -/
def takeSlot (s : State) (c n : Nat) : State :=
  match (getCtx s c).decs.find? (·.num == n) with
  | some p =>
    match p.slot, slotFor s c p with
    | none, some k => modDec s c n ({ · with slot := some k, bufs := decBufs s c k })
    | _, _ => s
  | none => s

/-- What placement changes in the work itself. -/
def markPlaced (s : State) (n : Nat) (j : Job) : State :=
  match j with
  | .segment x => modSeg s x fun g => { g with
      phase := if g.redo = 1 then g.phase else .running, redo := if g.redo = 1 then 2 else 0, ee := n }
  | .boundary x => modSeg s x fun g => { g with edge := if g.edge = 4 then 5 else 2 }
  | .lookahead c m => modSubmit s c m ({ · with laWork := 2 })
  | .verify x => modSeg s x ({ · with vwait := false })
  | .part c m i => modDec (takeSlot s c m) c m fun p => { p with parts := p.parts.modify i ({ · with st := 1 }) }
  | .ppu _ _ => s

/-- Give an item to an engine. -/
def giveItem (s : State) (k : EngKind) (x : Item) (page : Nat) : State :=
  let h : Held := ⟨x.job, itemTime s k page x, s.devtime, k == .de || isLookahead x.job, isLookahead x.job, tracker0, run0⟩
  touchDomain (markPlaced (setHeld s page ((getEng s page).held ++ [h])) (page - engPage k 0) x.job) (domainOf page)

/-! ### Shedding a picture (R51, R126 step 4) -/

/-- A context after the pictures of a plan have entered coding, as far as planning depends on it. -/
def afterPlan (l : List Plan) (x : Ctx) : Ctx :=
  { x with
    queued := x.queued.filter fun n => !l.any (·.sub == n), picCount := x.picCount + l.length
    position := x.position + l.length, girPos := x.girPos + l.length, keyNext := false, keyForced := false
    lastRap := match (l.filter (·.rap)).getLast? with | some p => p.sub | none => x.lastRap }

/-- The plans of what is queued, as it stands (R75–R78). -/
def futurePlans (s : State) (c : Nat) : Nat → Ctx → List Plan
  | 0, _ => []
  | n + 1, x =>
    match nextPlan s c x with
    | [] => []
    | p :: l => p :: l ++ futurePlans s c n (afterPlan (p :: l) x)

/-- The first droppable picture of a context that has not entered coding (R126, R128). -/
def droppable (s : State) (c : Nat) : Option Nat :=
  let x := getCtx s c
  ((x.plan ++ futurePlans s c x.queued.length (afterPlan x.plan x)).find? fun p =>
    !p.isRef && !p.rap && !isShed x p.sub && !x.keySubs.contains p.sub && planKey (active s c) x != some p.sub).map (·.sub)

/-- The nearest deadline of a context: of a picture in coding, or of its oldest input (DEDUCED, log 46). -/
def nearestDeadline (s : State) (c : Nat) : Nat :=
  let x := getCtx s c
  let l := (x.pics.filter fun p => !p.done).map (·.deadline)
  if l = [] then ((x.submits.head?).map fun u => u.at_ + (active s c).latency).getD 0 else listMin l

/-- The context that step 4 takes a picture from: the lowest class, then the nearest deadline. -/
def shedCtx (s : State) : Option Nat :=
  ((placeCtxs s).filter fun c => isEncode s c && clsLive s c && (droppable s c).isSome).foldl (fun best c =>
    match best with
    | none => some c
    | some b =>
      if ctxClass s b < ctxClass s c then some c
      else if ctxClass s c < ctxClass s b then some b
      else if nearestDeadline s c < nearestDeadline s b then some c else some b) none

/-- RC_STAT of a context (R126). `four`: step 4 is in force for it. -/
def syncShed (s : State) (c : Nat) (four : Bool) : State :=
  let x := getCtx s c
  let p := ctxPage c
  let thr := throttled s c
  let s := fsetb (fsetb s p F.CTX_RC_STAT_THROTTLED thr) p F.CTX_RC_STAT_LA_CUT x.laCut
  let s := fsetb s p F.CTX_RC_STAT_EFFORT_CUT (x.effCut != 0)
  let top := if four then 4 else if x.effCut ≠ 0 then 3 else if x.laCut then 2 else if thr then 1 else 0
  syncDerived (fset s p F.CTX_RC_STAT_STEP top) c

def stepFour (s : State) (c : Nat) : Bool := fget s (ctxPage c) F.CTX_RC_STAT_STEP == 4

/-- Drop one picture (R51): its SUBMIT completes OK_DEGRADED with SHED. -/
def shedPicture (s : State) : State :=
  match shedCtx s with
  | none => s
  | some c =>
    match droppable s c with
    | none => s
    | some n =>
      let s := modCtx s c fun x => { x with shedSubs := (findSub x n).toList ++ x.shedSubs }
      let s := syncShed (fadd s (ctxPage c) F.CTX_CNT_SHED_COUNT 1) c true
      submitDone s c n stDegraded 0 0 2

/-- Place one item, if it does not wait; a LIVE segment that would be late sheds a picture (R127). -/
def placeOne (k : EngKind) (s : State) (x : Item) : State :=
  match chooseEngine s k x with
  | none => s
  | some (p, fin) =>
    let s := giveItem s k x p
    if k = .ee ∧ x.live ∧ isSegment x.job ∧ x.due < fin then shedPicture s else s

def itemsOf (s : State) (k : EngKind) : List Item :=
  match k with
  | .ee => eeItems s
  | .de => deItems s

/-- PLACE_WORK (R161): the dispatcher goes through the eligible work of a kind; the masks are evaluated first (R164). -/
def execPlaceWork (kind : EngKind) (s : State) : Host.Outcome State Fault Refusal :=
  let s := syncPins (endLookaheads s)
  .next ((itemsOf s kind).foldl (placeOne kind) s)

/-! ### Search deadlines (R99) -/

/-- The segment as it would stand among the eligible work, once digital fallback is chosen for it. -/
def fbItem (s : State) (x : SegId) (p : Pic) (g : Seg) : Item := { segItem s x.ctx p x.seg g with fb := true }

def searchOpen (g : Seg) : Bool := g.phase == .searching || g.phase == .waitRecord

/-- Segments of a context whose search job has been issued and is not over, as items in digital fallback. -/
def issuedItems (s : State) (c : Nat) : List (Item × SegId) :=
  if h : c < 256 then
    (getCtx s c).pics.flatMap fun p => (List.range p.segs.length).filterMap fun i => p.segs[i]?.bind fun g =>
      let x : SegId := ⟨⟨c, h⟩, p.num, i⟩
      if searchOpen g && g.issued.isSome && refsReady (getCtx s c) p then some (fbItem s x p g, x) else none
  else []

/-- With WAIT 0 (R99): an encode engine has room, and the segment would be placed on it now, where every segment whose search
job has been issued counts as eligible. -/
def wouldPlace (s : State) (me : Item) : Bool :=
  let issued := ((placeCtxs s).flatMap (issuedItems s)).map (·.1)
  let first := (sortItems (eeItems s ++ issued)).takeWhile fun y => y.job != me.job
  let t := first.foldl (fun s y => match chooseEngine s .ee y with
    | some (p, _) => giveItem s .ee y p
    | none => s) s
  (chooseEngine t .ee me).isSome

/-- Moment 2 of R99. With WAIT 0, it is the first moment at which the segment would be placed. -/
def waitOver (s : State) (x : SegId) (p : Pic) (g : Seg) : Bool :=
  let w := (active s x.ctx.val) F.CTX_ENC_XSEARCH_WAIT
  match g.issued with
  | none => false
  | some t => if w = 0 then refsReady (getCtx s x.ctx.val) p && wouldPlace s (fbItem s x p g) else t + w * 10000 ≤ s.devtime

/-- Fallback ends the wait of a segment at moment 2 or 3. -/
def fallBack (s : State) (x : SegId) : State := chooseDigital (countJob s true) x

/-- SEARCH_WAIT_EXPIRY (R99, moment 2). -/
def execSearchWaitExpiry (seg : SegId) (s : State) : Host.Outcome State Fault Refusal :=
  match findSeg s seg with
  | some (p, g) => if searchOpen g && waitOver s seg p g then .next (fallBack s seg) else .next s
  | none => .next s

/-- Moment 3 of R99: the smallest finish time over the encode engines in service passes C_s. -/
def deadlineOver (s : State) (x : SegId) (p : Pic) (g : Seg) : Bool :=
  let me := fbItem s x p g
  let up := eePages.filter (blkInService s)
  up != [] && decide (g.cS < listMin (up.map (finishOn s .ee me)))

/-- SEARCH_DEADLINE_FALLBACK (R99, moment 3). -/
def execSearchDeadlineFallback (seg : SegId) (s : State) : Host.Outcome State Fault Refusal :=
  match findSeg s seg with
  | some (p, g) => if searchOpen g && deadlineOver s seg p g then .next (fallBack s seg) else .next s
  | none => .next s

/-! ### Self-tests and service (R88, R165–R168) -/

/-- SELFTEST_START (R88, R156). -/
def execSelftestStart (kind : EngKind) (n : Fin 18) (s : State) : Host.Outcome State Fault Refusal :=
  let page := engPage kind n.val
  let busy := (getEng s page).held != []
  if blkInService s page || busy || testRunning s page || (getEng s page).waking then
    .next (setTest s page F.EE_SELFTEST_REJECTED F.DE_SELFTEST_REJECTED 1)
  else .next (startTest s page)

/-- ENGINE_RETIRE (R168). -/
def execEngineRetire (kind : EngKind) (n : Fin 18) (s : State) : Host.Outcome State Fault Refusal :=
  .next (endUnitDrain (retireUnit s (engPage kind n.val)) (engPage kind n.val))

/-- ENGINE_ADMIT (R168). -/
def execEngineAdmit (kind : EngKind) (n : Fin 18) (s : State) : Host.Outcome State Fault Refusal :=
  .next (admitUnit s (engPage kind n.val))

/-- ENGINE_DRAINED (R168): a draining engine that holds nothing leaves service. -/
def execEngineDrained (kind : EngKind) (n : Fin 18) (s : State) : Host.Outcome State Fault Refusal :=
  .next (endUnitDrain s (engPage kind n.val))

/-- CAPACITY cleared (R167): the highest-numbered engines of a kind above sixteen in service drain to become standbys. -/
def trimService (s : State) (page : Nat) : State :=
  let up := serving s page
  (up.drop 16).foldl (fun s p => endUnitDrain (drainToStandby s p) p) s

/-- An engine that drains to become a standby stays in service after all. -/
def stayInService (s : State) (page : Nat) : State :=
  fset (modEng s page ({ · with draining := false, toStandby := false })) page F.HDR_BLK_READY_STATE 2

/-- CAPACITY set (R167): every standby is admitted, and no engine becomes one. -/
def admitStandbys (s : State) (page : Nat) : State :=
  let s := ((kindPages page).filter fun p => (getEng s p).toStandby && blkInService s p).foldl stayInService s
  (standbys s page).foldl callIn s

/-- A field of PLACE_CTL that ignores a write of a value it does not have. -/
def keepIf (s : State) (r : Row) (v : Nat) (ok : Bool) : State := if ok then fset s 0 r v else s

/-- CAPACITY_WRITE (R167): a write of CHIP.PLACE_CTL. -/
def execCapacityWrite (val : Word) (s : State) : Host.Outcome State Fault Refusal :=
  let v := val.toNat
  let was := capacityMode s
  let s := fset (fset s 0 F.CHIP_PLACE_CTL_PLACE (bitsOf v 0 1)) 0 F.CHIP_PLACE_CTL_CAPACITY (bitsOf v 1 1)
  let s := keepIf s F.CHIP_PLACE_CTL_GUARD (bitsOf v 2 2) (bitsOf v 2 2 != 0)
  let s := keepIf s F.CHIP_PLACE_CTL_VERIFY (bitsOf v 4 2) (bitsOf v 4 2 != 0)
  let s := fset s 0 F.CHIP_PLACE_CTL_VERIFY_FIRST (bitsOf v 6 1)
  let s := keepIf s F.CHIP_PLACE_CTL_SAMPLE_N (bitsOf v 8 8) (decide (2 ≤ bitsOf v 8 8))
  if capacityMode s && !was then .next (admitStandbys (admitStandbys s (eePage 0)) (dePage 0))
  else if was && !capacityMode s then .next (trimService (trimService s (eePage 0)) (dePage 0))
  else .next s

/-! ### Verification that is waived (R173) -/

/-- VERIFY_WAIVE (R173). -/
def execVerifyWaive (seg : SegId) (s : State) : Host.Outcome State Fault Refusal :=
  match findSeg s seg with
  | none => .next s
  | some (_, g) =>
    if g.vwait && g.runs == [] && fbit s 0 F.CHIP_PLACE_STAT_OVL_DE && !fbit s 0 F.CHIP_PLACE_CTL_VERIFY_FIRST &&
        decide (g.cS ≤ s.devtime) then
      let s := modSeg s seg ({ · with vwait := false, waived := true })
      let s := countEv (fadd s 0 F.CHIP_PLACE_CNT_WAIVED_COUNT 1) 635 1
      let s := { s with disp := { s.disp with waivedDe := true } }
      .next (settleCtx (clearSeg s seg) seg.ctx.val)
    else .next s

/-! ### Overload (R126, R127, R129, R179) -/

/-- LIVE contexts of classes LIVE3 down to the reached one (R127): `cls` classes have been cut. -/
def reached (s : State) (cls c : Nat) : Bool := clsLive s c && decide (4 ≤ ctxClass s c + cls)

def eachCtx (s : State) (f : State → Nat → State) : State := (s.ctxs.map (·.1)).foldl f s

/-- Cut the lookahead of the reached classes, or lower their effort by one preset. -/
def cutLa (s : State) : State :=
  eachCtx s fun s c => if reached s s.disp.cls c && isEncode s c then modCtx s c ({ · with laCut := true }) else s

def cutEffort (s : State) : State :=
  eachCtx s fun s c =>
    if reached s s.disp.cls c && isEncode s c && decide (effortNow (getCtx s c) (active s c) < 3) then
      modCtx s c fun x => { x with effCut := x.effCut + 1 }
    else s

def setStep (s : State) (n cls : Nat) : State :=
  { s with disp := { s.disp with step := n, cls := cls, lastStep := s.devtime } }

/-- The next act of shedding after a window with overload (R127). `shared`: MICA or DRAM is overloaded, which steps 2 and
3 relieve. -/
def shedNext (s : State) (shared : Bool) : State :=
  let d := s.disp
  if d.step = 0 then setStep s 1 0
  else if !shared then s
  else if d.step = 1 then cutLa (setStep s 2 1)
  else if d.step = 2 then
    if d.cls < 4 then cutLa (setStep s 2 (d.cls + 1)) else cutEffort (setStep s 3 1)
  else cutEffort (setStep s 3 (min 4 (d.cls + 1)))

/-- RC_STAT of every context follows. -/
def syncSheds (s : State) : State := eachCtx s fun s c => if isEncode s c then syncShed s c (stepFour s c) else s

/-- OVERLOAD_WINDOW (R179): the end of a window of 100 ms. -/
def execOverloadWindow (w : Window) (s : State) : Host.Outcome State Fault Refusal :=
  let d := s.disp
  if s.devtime < d.winStart + 10 ^ 8 then .next s
  else
    let pct := fget s 0 F.CHIP_PLACE_XCTL_BUSY_PCT
    let ee := decide (pct * w.eeSlots < 100 * w.eeWork) || d.lateEe
    let de := decide (pct * w.deSlots < 100 * w.deWork) || d.waivedDe || d.lateDe
    let mica := decide (d.jobsEnded < 100 * d.jobsFell)
    let dram := decide (w.eeSlots < 10 * w.dramWait)
    let old := bitsOf (rget s 0 F.CHIP_PLACE_STAT_OVL_EE.off) 16 4
    let s := fsetb (fsetb s 0 F.CHIP_PLACE_STAT_OVL_EE ee) 0 F.CHIP_PLACE_STAT_OVL_DE de
    let s := fsetb (fsetb s 0 F.CHIP_PLACE_STAT_OVL_MICA mica) 0 F.CHIP_PLACE_STAT_OVL_DRAM dram
    let s := if bitsOf (rget s 0 F.CHIP_PLACE_STAT_OVL_EE.off) 16 4 = old then s else setIrq s 0 (2 ^ 10)
    let high := ee || de || mica || dram
    let s := { s with disp := { s.disp with
      winStart := s.devtime / 10 ^ 8 * 10 ^ 8, jobsEnded := 0, jobsFell := 0, lateEe := false, lateDe := false, waivedDe := false
      lastOvl := if high then s.devtime else d.lastOvl } }
    .next (syncSheds (if high then shedNext s (mica || dram) else s))

/-- Undo the most recent step that remains in force (R129). Step 4 counts as in force until a SHED_UNDO, and as the most recent
step, where a context shows it (DESIGN CHOICE, log 98). -/
def undoStep (s : State) : State :=
  if s.ctxs.any fun kv => stepFour s kv.1 then eachCtx s fun s c => if stepFour s c then syncShed s c false else s
  else
    match s.disp.step with
    | 3 => setStep (eachCtx s fun s c => if (getCtx s c).effCut = 0 then s else modCtx s c ({ · with effCut := 0 })) 2 4
    | 2 => setStep (eachCtx s fun s c => if (getCtx s c).laCut then modCtx s c ({ · with laCut := false }) else s) 1 0
    | _ => setStep s 0 0

/-- SHED_UNDO (R129). -/
def execShedUndo (s : State) : Host.Outcome State Fault Refusal :=
  if s.devtime < s.disp.lastOvl + 10 ^ 9 ∨ s.devtime < s.disp.lastUndo + 10 ^ 9 then .next s
  else .next (syncSheds { (undoStep s) with disp := { (undoStep s).disp with lastUndo := s.devtime } })

end Sys2Proof.Machine
end

