-- ==== Sys2Proof/Machine/Coding.lean ====
section
/-! DEFINITION. What engines do with the work they hold: coding a segment (R60–R65, R100, R122–R125, R170), tag samples
(R346, R347), speed (R162), verification and arbitration (R154, R155, R172–R178), boundary jobs and decode parts, with
the commands SEGMENT_FIRST_CTU to SEGMENT_RETURN, VERIFY_JOB_COMPLETE, BOUNDARY_JOB_COMPLETE and
DECODE_PART_COMPLETE. -/

namespace Sys2Proof.Machine

/-! ### The segment in an encode engine -/

def segOf (h : Held) : Option SegId :=
  match h.job with
  | .segment x => some x
  | _ => none

/-- The segments that an engine holds, in order. -/
def heldSegs (s : State) (page : Nat) : List (Held × SegId) :=
  (getEng s page).held.filterMap fun h => (segOf h).map fun x => (h, x)

/-- The segment in hand: the first that an engine holds, once S0 has taken its first unit. -/
def curSeg (s : State) (page : Nat) : Option (Held × SegId) :=
  match heldSegs s page with
  | (h, x) :: _ => if h.begun then some (h, x) else none
  | [] => none

/-- Change the held entry of a job. -/
def modHeld (s : State) (page : Nat) (j : Job) (f : Held → Held) : State :=
  setHeld s page ((getEng s page).held.map fun h => if h.job = j then f h else h)

/-- Codec, bit depth and chroma format of a segment (R61). -/
def formatOf (s : State) (x : SegId) : Option (Nat × Bool × Bool) :=
  (findSeg s x).map fun r => (r.2.desc.codec, r.2.desc.depth10, r.2.desc.c422)

/-- S0 has passed the last unit of a segment in hand: seven stages lie before S7 (R60; DEDUCED, log 107). -/
def passedLast (s : State) (h : Held) (x : SegId) : Bool := (findSeg s x).any fun r => r.2.units ≤ h.tr.k + 7

/-- The last unit of a segment in hand has left S7. -/
def leftLast (s : State) (h : Held) (x : SegId) : Bool := (findSeg s x).any fun r => r.2.units ≤ h.tr.k

/-- The segment that S0 may take next (R61): the first that an engine holds; or the second, once S0 has passed the last unit of
the first, and where the format changes, once that unit has left S7. Lookahead occupies the engine (R107). -/
def nextSeg (s : State) (page : Nat) : Option SegId :=
  if (getEng s page).held.any (isLookahead ·.job) then none
  else
    match heldSegs s page with
    | (h, x) :: rest =>
      if !h.begun then some x
      else
        match rest with
        | (h2, y) :: _ =>
          if !h2.begun && (if formatOf s x = formatOf s y then passedLast s h x else leftLast s h x) then some y else none
        | [] => none
    | [] => none

/-- SEGMENT_FIRST_CTU (R61, R163): S0 takes the first unit of the next segment. -/
def execSegmentFirstCtu (ee : Fin 18) (s : State) : Host.Outcome State Fault Refusal :=
  let page := eePage ee.val
  let s := endLookahead s page
  match nextSeg s page with
  | none => .next s
  | some x =>
    match findSeg s x with
    | none => .next s
    | some (p, g) =>
      if domOn s (domainOf page) && blkReady s page then
        .next (modHeld s page (.segment x) fun h => { h with
          begun := true, start := s.devtime, fb := runsFb s page g.digital, tr := ⟨g.budget, 0, false, p.qp⟩, run := run0 })
      else .next s

/-! ### Coding units -/

/-- Column and row in samples of unit `k` of a segment, and the unit size (R59, R158). -/
def unitPlace (d : SegDesc) (k : Nat) : Nat × Nat × Nat :=
  (d.area.x + k % max 1 d.cols * d.unit, d.area.y + k / max 1 d.cols * d.unit, d.unit)

/-- The QP that a ration unit shows (R122): the codec's maximum where its syntax carries one, which is the intra form of
AVC; otherwise its predicted QP, that of the unit before it (PRESUMED from the codec standards, log 48). -/
def rationQp (d : SegDesc) (last : Nat) : Nat := if d.codec = 0 ∧ d.intra then 51 else last

/-- The reconstruction of the references of a picture, in the order of its lists. -/
def refPixels (s : State) (c : Nat) (p : Pic) : List Picture :=
  p.lists.map fun n => (((getCtx s c).encRefs.find? (·.num == n)).map (·.pix)).getD noPicture

/-- One unit's QP enters the figures of its segment (R85). -/
def addQp (g : Seg) (q : Nat) : Seg := { g with qpSum := g.qpSum + q, qpMin := min g.qpMin q, qpMax := max g.qpMax q }

/-! ### Tagging (R346, R347) -/

/-- A ring of 2^`log2` slots is full (R27, R345). -/
def ringFull (log2 wr rd : Nat) : Bool := (wr + 1) % 2 ^ log2 == rd % 2 ^ log2

/-- Draw the next interval of an engine (R346). How the LFSR yields it the spec does not say: a free value from 1 to
2^(K+1) − 1. -/
def drawTag (s : State) (page : Nat) : State :=
  let k := fget s 0x31 F.PERF1_TAG_CTL_K
  let f := freeNat s
  modEng (useFree s) page ({ · with tagLfsr := f % 2 ^ 32, tagLeft := 1 + f / 2 ^ 32 % (2 ^ (k + 1) - 1) })

/-- The sixteen words of a tag sample (R347). -/
def tagWords (s : State) (n : Nat) (x : SegId) (u : Nat × Nat × Nat) (fb rat : Bool) (t : TagTimes) : List Nat :=
  let c := x.ctx.val
  let e (i : Nat) : Nat := t.cycles.getD i 0 % 2 ^ 32
  let cause (i : Nat) : Nat := t.causes.getD i 0 % 2 ^ 8 * 2 ^ (8 * (i % 4))
  let t0 := s.devtime - t.cycles.getD 7 0 * 1000 / max 1 (engMHz s)
  [4 + 2 ^ 8 * n + 2 ^ 16 * c + 2 ^ 24 * ctxGen s c, u.1 / max 1 u.2.2 % 2 ^ 16 + 2 ^ 16 * (u.2.1 / max 1 u.2.2),
   x.seg % 2 ^ 16 + (if fb then 2 ^ 16 else 0) + (if rat then 2 ^ 17 else 0), x.pic % 2 ^ 32, t0 % 2 ^ 32,
   t0 / 2 ^ 32 % 2 ^ 32] ++ (List.range 8).map e ++
  [((List.range 4).map cause).sum, ((List.range 4).map fun i => cause (i + 4)).sum]

/-- Write a sample to the tag ring, or drop it (R347). -/
def putTag (s : State) (words : List Nat) : State :=
  let p := 0x31
  let log2 := fget s p F.PERF1_TAG_LOG2_LOG2
  let wr := fget s p F.PERF1_TAG_WR_INDEX
  if ringFull log2 wr (fget s p F.PERF1_TAG_RD_INDEX) then setIrq (fadd s p F.PERF1_CNT_TAG_DROP_COUNT 1) p 2
  else
    let base := 2 ^ 6 * fget s p F.PERF1_TAG_BASE_LO_LO + 2 ^ 32 * fget s p F.PERF1_TAG_BASE_HI_HI
    fset (putBytes s (fbit s p F.PERF1_TAG_CTL_LOC) 0 (base + 64 * wr) (wordBytes words)) p F.PERF1_TAG_WR_INDEX
      ((wr + 1) % 2 ^ log2)

/-- A unit passes through an engine: one that is tagged leaves a sample. -/
def tagUnit (s : State) (page : Nat) (words : List Nat) : State :=
  if !fbit s 0x31 F.PERF1_TAG_CTL_EN then s
  else
    let left := (getEng s page).tagLeft
    if left ≤ 1 then putTag (drawTag s page) words else modEng s page ({ · with tagLeft := left - 1 })

/-! ### Coding a unit -/

/-- The normal and the ration form of the unit that is next in a run (R63, R122); `upset`: as an undetected fault made them. -/
def unitForms (s : State) (h : Held) (x : SegId) (p : Pic) (g : Seg) (upset : Option (UnitCode × UnitCode)) : UnitCode × UnitCode :=
  let u : UnitInput := ⟨g.desc, h.tr.k, p.src, refPixels s x.ctx.val p, h.run.units⟩
  match upset with
  | some f => (f.1, { f.2 with bits := f.2.bits.take g.rbound })
  | none => (u.normal (readRecord s x p g) g.rbound, u.ration g.rbound)

/-- A stage has moved on: no stage has held its unit for long. -/
def clearStall (s : State) (page : Nat) : State := fset s page (engRow page F.EE_STAGE_STALL_STAGE F.DE_STAGE_STALL_STAGE) 0

/-- One unit of the segment in hand through S7 (R123). A run after commit leaves the figures of the segment as they
stand (R177). -/
def codeUnit (s : State) (page : Nat) (h : Held) (x : SegId) (p : Pic) (g : Seg) (upset : Option (UnitCode × UnitCode))
    (tag : TagTimes) : State :=
  let s := writeDigital s x p g h.tr.k
  let f := unitForms s h x p g upset
  let u := unitPlace g.desc h.tr.k
  let t := trackUnit h.tr g.units g.rbound f.1.bits.length f.2.bits.length
  let code := if t.ration then f.2 else f.1
  let q := if t.ration then rationQp g.desc h.tr.qp else g.desc.qps.getD h.tr.k 0
  let words := tagWords s (page - 0xA0) x u h.fb t.ration tag
  let s := modHeld s page (.segment x) ({ · with
    tr := { t with qp := q }, run := ⟨h.run.units ++ [code], h.run.clean && upset.isNone⟩ })
  let s := if g.redo ≠ 0 then s
    else modSeg s x fun g => { addQp g q with ration := if t.ration then g.ration ++ [unitCode u] else g.ration }
  tagUnit (clearStall s page) page words

/-- CODING_UNIT_CODED (R123). -/
def execCodingUnitCoded (ee : Fin 18) (upset : Option (UnitCode × UnitCode)) (tag : TagTimes) (s : State) :
    Host.Outcome State Fault Refusal :=
  let page := eePage ee.val
  match curSeg s page with
  | none => .next s
  | some (h, x) =>
    match findSeg s x with
    | none => .next s
    | some (p, g) =>
      if h.tr.k < g.units then .next (codeUnit s page h x p g upset tag) else .next s

/-- Bits of a run so far. -/
def spent (g : Seg) (t : Tracker) : Nat := ((g.budget : Int) - t.rem).toNat

/-- Coded bits of the units of a run. -/
def RunCode.bits (r : RunCode) : List Bool := r.units.flatMap (·.bits)

/-- Coded data of a run in the place of what has committed (R177): the committed bytes stand. -/
def keepCommitted (g : Seg) (code : List Bool) : List Bool := g.code.take (8 * g.bytesOut) ++ code.drop (8 * g.bytesOut)

/-- CTU_ROW_COMPLETE (R170): under GUARD OFF the rows that S7 has completed are cleared, and commit in order. -/
def execCtuRowComplete (ee : Fin 18) (s : State) : Host.Outcome State Fault Refusal :=
  match curSeg s (eePage ee.val) with
  | none => .next s
  | some (h, x) =>
    match findSeg s x with
    | none => .next s
    | some (p, g) =>
      let done := h.tr.k / max 1 (g.units / max 1 g.rows)
      if p.guardLv = 1 ∧ g.redo = 0 ∧ g.rowsDone < done then
        .next (tryCommit (modSeg s x fun g => { g with
          rowsDone := done, bits := spent g h.tr, code := keepCommitted g h.run.bits }) x.ctx.val x.pic)
      else .next s

/-! ### The end of an item -/

def lastOf (n : Nat) (l : List Nat) : List Nat := l.drop (l.length - n)

/-- An item retires from an engine (R162): SPEED and RATE over the last 16. -/
def retireItem (s : State) (page : Nat) (h : Held) (ideal : Nat) : State :=
  let e := getEng s page
  let ests := lastOf 16 (e.ests ++ [h.est])
  let acts := lastOf 16 (e.actuals ++ [s.devtime - h.start])
  let ideals := lastOf 16 (e.ideals ++ [ideal])
  let per (n : Nat) : Nat := min 1023 (512 * n / max 1 acts.sum)
  let s := modEng s page ({ · with ests := ests, actuals := acts, ideals := ideals, coded := e.coded + 1 })
  let s := setTest s page F.EE_SPEED_SIGMA F.DE_SPEED_SIGMA (per ests.sum)
  let s := setTest s page F.EE_RATE_FACTOR F.DE_RATE_FACTOR (per ideals.sum)
  retiredOn (setHeld (clearStall s page) page (e.held.filter fun y => y.job != h.job)) h.job.ctx page

/-- The counters of a returned segment (EE.CNT_SEG, CNT_FALLBACK, R340). -/
def countSegment (s : State) (n px : Nat) (fb : Bool) : State :=
  let page := eePage n
  let s := countEv (countEv (fadd s page F.EE_CNT_SEG_COUNT 1) (12 * n + 9) 1) (12 * n + 10) px
  if fb then countEv (fadd s page F.EE_CNT_FALLBACK_COUNT 1) (12 * n + 11) px else s

/-- What a run of a segment delivers (R62): its coded data with the end of the segment, bits per CTU row, samples, SEG_CRC, and
whether no undetected fault has touched it. -/
structure SegResult where
  code    : List Bool
  rowBits : List Nat
  samples : Samples
  motion  : List Block
  clean   : Bool

def SegResult.crc (r : SegResult) : Nat := segCrc r.samples

/-- The end of a segment (R120, R123): at most 64 bits, the last of which fill a byte (R62). -/
def closeBits (code fin : List Bool) : List Bool :=
  let c := code ++ fin.take 57
  c ++ List.replicate ((8 - c.length % 8) % 8) false

/-- The result of a run (R62–R64). -/
def segResult (s : State) (h : Held) (x : SegId) (p : Pic) (g : Seg) (upset : Option SegUpset) : SegResult :=
  let fin := match upset with
    | some u => u.endBits
    | none => Config.endBits g.desc h.run.units
  let code := closeBits h.run.bits fin
  let per := max 1 (g.units / max 1 g.rows)
  { code := code
    rowBits := (List.range g.rows).map fun r => (((h.run.units.drop (r * per)).take per).map (·.bits.length)).sum
    samples := g.desc.result code (refPixels s x.ctx.val p) (upset.map (·.samples))
    motion := h.run.units.flatMap (·.motion), clean := h.run.clean && upset.isNone }

/-- Return a segment (R62): its figures, its surplus (R121), and what clears it (R170, R172). -/
def returnSeg (s : State) (n : Nat) (x : SegId) (p : Pic) (g : Seg) (r : SegResult) (early : Bool) : State :=
  let c := x.ctx.val
  let bits := r.code.length
  let ver := (g.verify || (early && p.verifyMd == 2)) && !g.waived
  let live := clsLive s c && decide (g.cS < s.devtime)
  let s := if live then { s with disp := { s.disp with lateEe := true } } else s
  let s := modSeg s x ({ · with ee := n, crc := r.crc, runBits := bits, runCode := r.code, clean := r.clean, vwait := ver })
  if g.redo ≠ 0 then modSeg (if ver then s else settleItem s (.segment x) true) x ({ · with redo := 0, vdone := !ver })
  else
    let s := if g.ended then s else modCtx s c fun y => { y with surplus := y.surplus + (g.budget - bits) }
    let s := modSeg s x fun g => { g with
      phase := .returned, bits := bits, code := keepCommitted g r.code, rowBits := r.rowBits, rowsDone := g.rows, ended := true
      verify := ver || g.verify }
    if p.guardLv = 1 || !ver then clearSeg s x else s

/-- Change the reconstruction of a picture, in the decoded picture buffer too where it is a reference (R62, R66). -/
def setRecon (s : State) (c n : Nat) (f : Picture → Picture) : State :=
  let s := modPic s c n fun p => { p with recon := f p.recon }
  match (getCtx s c).encRefs.find? (·.num == n) with
  | none => s
  | some r =>
    storeBytes (modCtx s c fun x => { x with encRefs := x.encRefs.map fun r => if r.num = n then { r with pix := f r.pix } else r })
      (f r.pix) 0 (storedBytes (active s c)) r.bufs

/-- The samples of a run, and the motion of its units, in the reconstruction: those of a rerun replace what was there (R90,
R177). -/
def putRun (d : SegDesc) (r : SegResult) (p : Picture) : Picture :=
  { putSamples p d r.samples with
    motion := (p.motion.filter fun b => !rectsMeet ⟨b.x, b.y, b.w, b.h⟩ d.area) ++ r.motion }

/-- SEGMENT_RETURN (R62): every unit of the segment in hand has left S7. -/
def execSegmentReturn (ee : Fin 18) (upset : Option SegUpset) (s : State) : Host.Outcome State Fault Refusal :=
  let page := eePage ee.val
  match curSeg s page with
  | none => .next s
  | some (h, x) =>
    match findSeg s x with
    | none => .next s
    | some (p, g) =>
      if h.tr.k < g.units then .next s
      else
        let early := decide ((getEng s page).coded < 64)
        let r := segResult s h x p g upset
        let ideal := pxTime g.px (eeRate10 g.desc.codec false) (engMHz s)
        let s := countSegment (retireItem s page h ideal) ee.val g.px h.fb
        let s := setRecon s x.ctx.val x.pic (putRun g.desc r)
        let s := returnSeg s ee.val x p g r early
        .next (endUnitDrain (settleCtx s x.ctx.val) page)

/-! ### Verification (R155, R172–R178) -/

/-- R176 retires a unit that is in service, as R169 does. -/
def retireFaulty (s : State) (page : Nat) : State := if blkInService s page then unitOut s page false else s

/-- What arbitration finds after a run (R176): `same`: the run equals run 1. -/
inductive Verdict where
  /-- the segment clears; a unit to retire, if one -/
  | clear (bad : Option Nat)
  /-- the segment clears unverified -/
  | unmasked
  /-- another run -/
  | again
  deriving DecidableEq, Repr

/-- Steps 1 to 4 of R176 for the runs before and the run that has ended. -/
def arbitrate (before : List Run) (r : Run) : Verdict :=
  match before with
  | [] => if r.match_ then .clear none else .again
  | [a] =>
    if r.match_ then .clear (some (if a.code = r.code ∧ a.crc = r.crc then dePage a.de else eePage a.ee)) else .again
  | _ => if r.match_ then .clear none else .unmasked

/-- The faulty unit leaves service. -/
def retireBad (s : State) (bad : Option Nat) : State :=
  match bad with
  | some page => retireFaulty s page
  | none => s

/-- The verification of a segment is over: it clears, unless it has committed before (R177). -/
def verified (s : State) (x : SegId) : State :=
  settleCtx (clearSeg (modSeg s x ({ · with vdone := true })) x) x.ctx.val

/-- A run failed its check (R175–R177): the segment runs again on another encode engine. -/
def rerun (s : State) (x : SegId) (p : Pic) (g : Seg) (r : Run) : State :=
  let s := modSeg s x ({ · with runs := g.runs ++ [r] })
  let s := if p.guardLv = 1 then countUnmasked (modSeg s x ({ · with cut := true })) x else s
  let s := fadd s (eePage r.ee) F.EE_CNT_DISCARD_COUNT 1
  settleCtx (restartSeg s x (some (eePage r.ee))) x.ctx.val

/-- The result of a verify job (R155). -/
def verifyResult (s : State) (x : SegId) (p : Pic) (g : Seg) (r : Run) : State :=
  match arbitrate g.runs r with
  | .clear bad => verified (retireBad s bad) x
  | .unmasked => verified (countUnmasked s x) x
  | .again => rerun s x p g r

/-- The counters of a verify job (DE.CNT_VERIFY, CNT_MISMATCH, R340). -/
def countVerify (s : State) (n px : Nat) (ok : Bool) : State :=
  let page := dePage n
  let s := countEv (countEv (fadd s page F.DE_CNT_VERIFY_COUNT 1) (216 + 12 * n + 9) 1) (216 + 12 * n + 10) px
  let s := countEv s (216 + 12 * n + 11) px
  if ok then s else setIrq (fadd s page F.DE_CNT_MISMATCH_COUNT 1) page 4

/-- What a verify job finds (R154, R155): the samples that the coded data of the latest run give, and whether they parse; or what
an undetected fault of the decode engine made of it. -/
def verifyFinds (s : State) (x : SegId) (p : Pic) (g : Seg) (upset : Option DecUpset) : Bool :=
  let samples := g.desc.result g.runCode (refPixels s x.ctx.val p) (upset.map (·.samples))
  let syntaxErr := match upset with
    | some u => u.syntaxErr
    | none => !g.clean && !Config.parses g.desc g.runCode
  !syntaxErr && segCrc samples == g.crc

/-! ### Boundary jobs (R178) -/

/-- The area that a boundary job writes, as a descriptor of its own. -/
def edgeDesc (d : SegDesc) : SegDesc := { d with area := Config.edgeArea d }

/-- The samples that a boundary job writes: the in-loop operations over the reconstruction, unless an undetected fault made
others. -/
def edgeSamples (recon : Picture) (d : SegDesc) (upset : Option Samples) : Samples :=
  match upset with
  | some s => (edgeDesc d).fit s
  | none => (edgeDesc d).samples (Config.edgeSample recon d)

/-- The encode engine that runs a boundary job. -/
def boundaryHolder (s : State) (x : SegId) : Option (Nat × Held) :=
  eePages.findSome? fun page => ((getEng s page).held.find? fun h => h.job == .boundary x).map fun h => (page, h)

/-- A boundary job is over: what it wrote stands in the reconstruction. -/
def edgeDone (s : State) (x : SegId) (d : SegDesc) (out : Samples) : State :=
  let s := setRecon s x.ctx.val x.pic fun p => putSamples p (edgeDesc d) out
  settleCtx (modSeg s x ({ · with edge := 3 })) x.ctx.val

/-- The outcome of a boundary job that was checked (R176, R178). -/
def boundaryResult (s : State) (x : SegId) (g : Seg) (r : Run) : State :=
  match arbitrate g.eruns r with
  | .clear bad => edgeDone (retireBad s bad) x g.desc g.edgeOut
  | .unmasked => edgeDone (countUnmasked s x) x g.desc g.edgeOut
  | .again => modSeg s x ({ · with edge := 1, eruns := g.eruns ++ [r] })

/-- An item that takes no time leaves its engine. -/
def itemLeaves (s : State) (page : Nat) (h : Held) : State :=
  retiredOn (setHeld s page ((getEng s page).held.filter fun y => y.job != h.job)) h.job.ctx page

/-- BOUNDARY_JOB_COMPLETE (R178): it is checked where the later segment was verified. -/
def execBoundaryJobComplete (seg : SegId) (upset : Option Samples) (s : State) : Host.Outcome State Fault Refusal :=
  match findSeg s seg, boundaryHolder s seg with
  | some (p, g), some (page, h) =>
    if !(domOn s (domainOf page) && blkReady s page) then .next s
    else
      let out := edgeSamples p.recon g.desc upset
      let s := modSeg (itemLeaves s page h) seg ({ · with
        edgeEe := page - eePage 0, edgeCrc := segCrc out, edgeOut := out, edge := 4 })
      .next (endUnitDrain (if g.verify && !g.waived then s else edgeDone s seg g.desc out) page)
  | _, _ => .next s

/-! ### The end of a verify job -/

/-- A verify job of a segment ends with a result. -/
def verifyEnds (s : State) (n : Nat) (h : Held) (x : SegId) (p : Pic) (g : Seg) (upset : Option DecUpset) : State :=
  let page := dePage n
  let ok := verifyFinds s x p g upset
  let ideal := partTime g.px g.runBits g.desc.codec (engMHz s)
  let s := countVerify (retireItem s page h ideal) n g.px ok
  verifyResult s x p g ⟨g.ee, n, g.runCode, g.crc, ok⟩

/-- The check of a boundary job ends (R178): the same CRC from the same inputs. -/
def checkEnds (s : State) (n : Nat) (h : Held) (x : SegId) (p : Pic) (g : Seg) (upset : Option DecUpset) : State :=
  let found := edgeSamples p.recon g.desc (upset.map (·.samples))
  let ok := segCrc found == g.edgeCrc && !(upset.any (·.syntaxErr))
  let s := countVerify (itemLeaves s (dePage n) h) n 0 ok
  boundaryResult s x g ⟨g.edgeEe, n, [], g.edgeCrc, ok⟩

/-- VERIFY_JOB_COMPLETE (R155, R178). -/
def execVerifyJobComplete (de : Fin 18) (upset : Option DecUpset) (fault : Bool) (s : State) :
    Host.Outcome State Fault Refusal :=
  let page := dePage de.val
  match (getEng s page).held with
  | h :: _ =>
    if !(domOn s (domainOf page) && blkReady s page) then .next s
    else
      match h.job with
      | .verify x =>
        match findSeg s x with
        | none => .next s
        | some (p, g) =>
          if fault then .next (endUnitDrain (discardJob (setHeld s page []) page (some page) h.job) page)
          else .next (endUnitDrain (verifyEnds s de.val h x p g upset) page)
      | .boundary x =>
        match findSeg s x with
        | none => .next s
        | some (p, g) =>
          if fault then .next (endUnitDrain (discardJob (setHeld s page []) page (some page) h.job) page)
          else .next (endUnitDrain (checkEnds s de.val h x p g upset) page)
      | _ => .next s
  | [] => .next s

/-! ### Decode parts (R139) -/

/-- A part has been decoded. -/
def modPart (s : State) (c n i : Nat) : State :=
  modDec s c n fun p => { p with parts := p.parts.modify i ({ · with st := 2 }) }

/-- The counters of a decode part (DE.CNT_PART, R340). -/
def countPart (s : State) (n px : Nat) : State :=
  countEv (countEv (fadd s (dePage n) F.DE_CNT_PART_COUNT 1) (216 + 12 * n + 9) 1) (216 + 12 * n + 10) px

/-- The picture is decoded once every part has completed. -/
def partDone (s : State) (c n : Nat) : State :=
  match (getCtx s c).decs.find? (·.num == n) with
  | some p => if p.available.isNone && p.half.isNone && p.parts.all (·.st == 2) then picDecoded s c p else s
  | none => s

/-- DECODE_PART_COMPLETE (R139). The in-loop operations across the edge of two parts take no time of their own (DESIGN CHOICE, log
44). -/
def execDecodePartComplete (de : Fin 18) (s : State) : Host.Outcome State Fault Refusal :=
  let page := dePage de.val
  match (getEng s page).held with
  | h :: _ =>
    match h.job with
    | .part c n i =>
      if !(domOn s (domainOf page) && blkReady s page) then .next s
      else
        match (getCtx s c).decs.find? (·.num == n) with
        | none => .next s
        | some p =>
          let q := p.parts.getD i ⟨0, 0, 0, 0, 0, []⟩
          let ideal := partTime q.px q.bits p.au.codec (engMHz s)
          let s := countPart (retireItem s page h ideal) de.val q.px
          .next (endUnitDrain (partDone (modPart s c n i) c n) page)
    | _ => .next s
  | [] => .next s

end Sys2Proof.Machine
end

