-- ==== Sys2Proof/Machine/Convert.lean ====
section
/-! DEFINITION. What a PPU does to samples (R181–R190): deinterlacing, crop, scaling, colour and range conversion, layers and
bit depth, from source pictures to the destination's picture. -/

namespace Sys2Proof.Machine

/-! ### Sample arithmetic (R181–R190) -/

/-- An 8-bit sample enters the 10-bit steps (R181). -/
def widen (v : Nat) : Nat := v * 4

/-- Background of R182: luma and chroma. -/
def background (fullRange : Bool) : Nat × Nat := if fullRange then (0, 512) else (64, 512)

/-- Largest even size of the aspect ratio of `w` × `h` within `ow` × `oh` (R182, PP_CTL.FIT). -/
def fitSize (w h ow oh : Nat) : Nat × Nat :=
  if ow * h ≤ oh * w then (ow / 2 * 2, ow * h / max 1 w / 2 * 2) else (oh * w / max 1 h / 2 * 2, oh / 2 * 2)

/-- Source position of output sample `x` in 1/64 units, truncated (R183). -/
def srcPos (x win wout : Nat) : Int := (((2 * x + 1) * win : Nat) * 64 - (64 * wout : Nat) : Int).tdiv (2 * wout : Nat)

/-- The same for a chroma sample across a row, which is co-sited with the left luma sample (R183; log 77). -/
def srcPosLeft (x win wout : Nat) : Int := ((x * win * 64 : Nat) : Int).tdiv (max 1 wout : Nat)

/-- Passes k of R183: the least count that brings the ratio of each pass within 1/8 to 8. -/
def scalePasses (win hin wout hout : Nat) : Nat :=
  ((List.range 8).find? fun k =>
    let m := 8 ^ (k + 1)
    win ≤ m * wout && wout ≤ m * win && hin ≤ m * hout && hout ≤ m * hin).getD 7 + 1

/-- The ordered dither of R185. -/
def ditherM (x y : Nat) : Nat :=
  match y % 4, x % 2 with
  | 0, 0 => 0 | 0, _ => 2 | 1, 0 => 3 | 1, _ => 1 | 2, 0 => 0 | 2, _ => 2 | _, 0 => 3 | _, _ => 1

/-- A 10-bit result as an 8-bit sample (R185). -/
def narrow (dither : Bool) (x y v : Nat) : Nat := min 255 ((v + if dither then ditherM x y else 2) / 4)

/-- Alpha of a layer pixel, and the blend of one sample (R188). -/
def layerAlpha (a galpha : Nat) : Nat := (a * galpha + 127) / 255
def blend (a l v : Nat) : Nat := (a * l + (255 - a) * v + 127) / 255

/-- Average of the layer pixels that one chroma sample covers (R188). -/
def average (l : List Nat) : Nat := (l.sum + l.length / 2) / max 1 l.length

/-- The sample between W and S that R190 builds from the motion m. -/
def deintSample (w v m low high : Nat) : Nat :=
  if m ≤ low then w else if high ≤ m then v
  else (w * (high - m) + v * (m - low) + (high - low) / 2) / (high - low)

/-! ### Planes of a picture -/

/-- The same change to each plane, by component. -/
def mapPlanes (p : Picture) (f : Nat → Plane → Plane) : Picture :=
  { p with luma := f 0 p.luma, cb := f 1 p.cb, cr := f 2 p.cr }

/-- A source picture enters the 10-bit steps (R181). -/
def enterPpu (p : Picture) : Picture :=
  if p.depth10 then p
  else { mapPlanes p (fun _ q => { q with data := q.data.map widen }) with depth10 := true }

/-! ### Deinterlacing (R190) -/

/-- The offset k of −2 … 2 that brings the lines a and b closest at x: ties to the smaller |k|, then to the negative. -/
def edgeOffset (p : Plane) (a b : Int) (x : Nat) : Int :=
  let diff (k : Int) : Nat := ((planeAt p (x + k) a : Int) - planeAt p (x - k) b).natAbs
  [-1, 1, -2, 2].foldl (fun best k => if diff k < diff best then k else best) 0

/-- The sample S between the lines of the field above and below line y. -/
def spatialLine (p : Plane) (x y : Nat) : Nat :=
  let a : Int := if y = 0 then y + 1 else y - 1
  let b : Int := if y + 1 < p.h then y + 1 else y - 1
  let k := edgeOffset p a b x
  (planeAt p (x + k) a + planeAt p (x - k) b + 1) / 2

/-- The motion m at a luma sample of the missing lines: from the opposite-parity fields before and after. -/
def fieldMotion (before after : Option Plane) (x y : Nat) : Nat :=
  match before, after with
  | some o, some n =>
    ([-1, 0, 1] : List Int).foldl (fun m d => max m ((planeAt o (x + d) y : Int) - planeAt n (x + d) y).natAbs) 0
  | _, _ => 1023

/-- Luma line that a chroma line of an interlaced frame is co-sited with: in 4:2:0 the lines of a field pair up. -/
def fieldLine (c422 : Bool) (i y : Nat) : Nat := if i = 0 ∨ c422 then y else 4 * (y / 2) + y % 2

/-- One frame from a picture of two interlaced fields (R190). `par`: parity of the lines kept; `before`, `after`: the
pictures whose opposite-parity lines are O₋ and O₊. -/
def deinterlace (cur : Picture) (before after : Option Picture) (par low high : Nat) : Picture :=
  mapPlanes cur fun i p => planeOf p.w p.h fun x y =>
    if y % 2 = par then planeAt p x y
    else
      let m := fieldMotion (before.map (·.luma)) (after.map (·.luma)) (lumaX i x) (fieldLine cur.c422 i y)
      deintSample (planeAt p x y) (spatialLine p x y) m low high

/-! ### Crop and scaling (R182, R183) -/

/-- The area of a picture from luma sample (x0, y0). -/
def cropPicture (p : Picture) (x0 y0 w h : Nat) : Picture :=
  let c (q : Plane) : Plane :=
    let yc := if p.c422 then y0 else y0 / 2
    planeOf (chromaW w) (chromaH h p.c422) fun x y => planeAt q (x0 / 2 + x : Nat) (yc + y : Nat)
  { p with luma := planeOf w h fun x y => planeAt p.luma (x0 + x : Nat) (y0 + y : Nat), cb := c p.cb, cr := c p.cr }

/-- The ratio band of R183 that picks the coefficients. -/
def ratioBand (win wout : Nat) : Nat := if win < wout then 0 else if win ≤ 2 * wout then 1 else if win ≤ 4 * wout then 2 else 3

/-- One output sample of the polyphase filter: 8 taps for luma, 4 for chroma, about a position in 1/64 units. -/
def filterAt (chroma : Bool) (band : Nat) (pos : Int) (f : Int → Nat) : Nat :=
  let k := pos.fdiv 64
  let taps : List Int := if chroma then [-1, 0, 1, 2] else [-3, -2, -1, 0, 1, 2, 3, 4]
  Config.polyphase chroma band (pos.emod 64).toNat (taps.map fun t => f (k + t)) % 1024

/-- One pass over a plane, along rows and then along columns; a dimension that keeps its size is not filtered (log 77). -/
def scalePass (chroma : Bool) (p : Plane) (w h : Nat) : Plane :=
  let q := if p.w = w then p else planeOf w p.h fun x y =>
    filterAt chroma (ratioBand p.w w) (if chroma then srcPosLeft x p.w w else srcPos x p.w w) fun a => planeAt p a y
  if p.h = h then q else planeOf w h fun x y => filterAt chroma (ratioBand p.h h) (srcPos y p.h h) fun b => planeAt q x b

/-- The largest number whose k-th power is at most n. -/
def rootFloor (k n : Nat) : Nat := searchBits (fun r => r ^ k ≤ n) 14 0

/-- Size after pass i of k from `a` to `b`: the per-pass ratio applied, truncated to even (R183). -/
def passSize (a b k i : Nat) : Nat := if i = k then b else rootFloor k (a ^ (k - i) * b ^ i) / 2 * 2

/-- All passes over a plane whose size in luma samples goes from (a, b) to (w, h); `sx`, `sy` are its subsampling. -/
def scalePlane (chroma : Bool) (p : Plane) (a b w h k sx sy : Nat) : Plane :=
  (List.range k).foldl (fun q i => scalePass chroma q (passSize a w k (i + 1) / sx) (passSize b h k (i + 1) / sy)) p

/-- A picture scaled to `w` × `h` luma samples in the destination's chroma format. -/
def scalePicture (p : Picture) (w h : Nat) (c422 : Bool) : Picture :=
  let a := p.luma.w
  let b := p.luma.h
  let k := scalePasses a b w h
  mapPlanes { p with c422 := c422 } fun i q =>
    if i = 0 then scalePlane false q a b w h k 1 1 else scalePlane true q a b w h k 2 (if c422 then 1 else 2)

/-! ### Colour and range (R184) -/

/-- Matrix codes: 1 BT.601, 2 BT.709, 3 BT.2020; others of a stream as 100 + code. -/
def streamMatrix (code h : Nat) : Nat :=
  match code with
  | 1 => 2 | 5 => 1 | 6 => 1 | 9 => 3 | 2 => if h ≤ 576 then 1 else 2 | n => 100 + n

/-- Source matrix and range of a picture of `h` rows. -/
def srcColour (g : Get) (i : StreamInfo) (h : Nat) : Nat × Bool :=
  let m := g F.CTX_PP_CTL_SRC_MATRIX
  let r := g F.CTX_PP_CTL_SRC_RANGE
  (if m = 0 then streamMatrix i.matrix h else m, if r = 0 then i.full else r == 2)

/-- Destination matrix and range: with another code of ENC_VUI.MATRIX, the source's matrix. -/
def dstColour (g : Get) (src : Nat × Bool) : Nat × Bool :=
  (match g F.CTX_ENC_VUI_MATRIX with
    | 1 => 2 | 5 => 1 | 6 => 1 | 9 => 3 | _ => src.1, g F.CTX_ENC_VUI_FULL_RANGE == 1)

/-- A 10-bit value clamped to the range of a component. -/
def clampRange (full : Bool) (i v : Nat) : Nat :=
  if full then min 1023 v else if i = 0 then max 64 (min 940 v) else max 64 (min 960 v)

/-- Conversion between matrices and ranges: the value is free within the range (log 77). -/
def convertPicture (src dst : Nat × Bool) (p : Picture) : Picture :=
  if src = dst then p
  else
    let bit (b : Bool) : Nat := if b then 1 else 0
    let a := src.1 * 2 + bit src.2
    let b := dst.1 * 2 + bit dst.2
    mapPlanes p fun i q => planeOf q.w q.h fun x y => clampRange dst.2 i (Config.converted a b p i x y)

/-- The area centred on the background of the destination's size (R182). -/
def onBackground (p : Picture) (w h : Nat) (full : Bool) : Picture :=
  if p.luma.w = w ∧ p.luma.h = h then p
  else
    let x0 := (w - p.luma.w) / 2
    let y0 := (h - p.luma.h) / 2
    let put (q : Plane) (qw qh qx qy v : Nat) : Plane := planeOf qw qh fun x y =>
      if qx ≤ x ∧ x < qx + q.w ∧ qy ≤ y ∧ y < qy + q.h then planeAt q (x - qx : Nat) (y - qy : Nat) else v
    mapPlanes p fun i q =>
      if i = 0 then put q w h x0 y0 (background full).1
      else put q (chromaW w) (chromaH h p.c422) (x0 / 2) (if p.c422 then y0 else y0 / 2) (background full).2

/-! ### Layers (R187, R188) -/

/-- A layer descriptor of R187. -/
structure Layer where
  addr   : Nat
  stride : Nat
  w      : Nat
  h      : Nat
  x      : Int
  y      : Int
  galpha : Nat
  enable : Bool
  deriving DecidableEq, Repr

/-- The descriptor that eight words hold. -/
def layerOf (w : Nat → Nat) : Layer :=
  ⟨w 0 + 2 ^ 32 * w 1, w 2 % 2 ^ 16, w 3 % 2 ^ 16, w 3 / 2 ^ 16, signed16 (w 4 % 2 ^ 16), signed16 (w 4 / 2 ^ 16),
   w 5 % 256, (w 5).testBit 8⟩

def readLayer (s : State) (a : Nat) : Layer := layerOf fun i => leVal (memReadN s (a + 4 * i) 4)

/-- A valid descriptor: alignment and ranges of R187. -/
def Layer.ok (l : Layer) : Bool :=
  l.addr % 64 == 0 && l.stride % 64 == 0 && decide (4 * l.w ≤ l.stride) && decide (1 ≤ l.w) && decide (l.w ≤ 8192) &&
    decide (1 ≤ l.h) && decide (l.h ≤ 4320)

/-- The pixels of a layer image in device memory, in raster order. -/
def readPixels (s : State) (l : Layer) : List Word :=
  (List.range (l.w * l.h)).map fun i =>
    BitVec.ofNat 32 (leVal (memReadN s (l.addr + i / l.w * l.stride + 4 * (i % l.w)) 4))

/-- The layer table that a job reads, each with its pixels (R187, R189): from device memory, or as the bus gives it. -/
def layerTable (s : State) (d : Nat) (bus : List BusLayer) : List (Layer × List Word) :=
  let p := ctxPage d
  let n := fget s p F.CTX_PP_LAYER_CTL_COUNT
  if fbit s p F.CTX_PP_LAYER_CTL_LOC then
    (bus.take n).map fun b => (layerOf fun i => (b.words.getD i 0).toNat, b.pixels)
  else
    let base := 64 * fget s p F.CTX_PP_LAYER_BASE_LO_LO + 2 ^ 32 * fget s p F.CTX_PP_LAYER_BASE_HI_HI
    (List.range n).map fun i => let l := readLayer s (base + 32 * i); (l, readPixels s l)

/-- The layers that a job has read, without those that a read failed for (R189), and whether one failed. -/
def readLayers (s : State) (d : Nat) (bus : List BusLayer) (failed : List Nat) : List (Layer × List Word) × Bool :=
  let l := layerTable s d bus
  ((((List.range l.length).zip l).filter fun e => !failed.contains e.1).map (·.2),
    failed.any (· < fget s (ctxPage d) F.CTX_PP_LAYER_CTL_COUNT))

def drawn (l : List (Layer × List Word)) : List (Layer × List Word) := l.filter fun x => x.1.enable && x.1.ok

/-- Kr and Kb of a matrix, in 1/10,000: those of BT.601, BT.709 and BT.2020 (PRESUMED, log 77). -/
def lumaWeights (m : Nat) : Nat × Nat :=
  match m with
  | 1 => (2990, 1140) | 3 => (2627, 593) | _ => (2126, 722)

/-- a / b rounded to nearest. -/
def roundInt (a : Int) (b : Nat) : Int := (2 * a + b).fdiv (2 * max 1 b : Nat)

/-- A full-range R'G'B' pixel of 8 bits as one component of 10-bit Y'CbCr (R188), for a known matrix. -/
def knownYcc (col : Nat × Bool) (i r g b : Nat) : Nat :=
  let k := lumaWeights col.1
  let y := k.1 * r + (10000 - k.1 - k.2) * g + k.2 * b
  let scale : Nat := if col.2 then 1023 else if i = 0 then 876 else 896
  let v : Int :=
    match i with
    | 0 => (if col.2 then 0 else 64) + roundInt (scale * y : Nat) 2550000
    | 1 => 512 + roundInt ((scale * 10000 : Nat) * ((10000 * b : Nat) - (y : Nat) : Int)) (2550000 * (2 * (10000 - k.2)))
    | _ => 512 + roundInt ((scale * 10000 : Nat) * ((10000 * r : Nat) - (y : Nat) : Int)) (2550000 * (2 * (10000 - k.1)))
  clampRange col.2 i v.toNat

/-- The same; under a matrix that the spec does not name the value is free within the range. -/
def layerYcc (col : Nat × Bool) (i r g b : Nat) : Nat :=
  if 1 ≤ col.1 ∧ col.1 ≤ 3 then knownYcc col i r g b
  else clampRange col.2 i (Config.converted 0 (col.1 * 2 + if col.2 then 1 else 0) noPicture i (r + 256 * g) b)

/-- Alpha and component of the layer pixel at a destination position, where the layer covers it. -/
def layerAt (col : Nat × Bool) (l : Layer × List Word) (i : Nat) (x y : Int) : Option (Nat × Nat) :=
  let u := x - l.1.x
  let v := y - l.1.y
  if 0 ≤ u ∧ u < l.1.w ∧ 0 ≤ v ∧ v < l.1.h then
    let p := (l.2.getD (v.toNat * l.1.w + u.toNat) 0).toNat
    some (layerAlpha (p / 2 ^ 24) l.1.galpha, layerYcc col i (p / 2 ^ 16 % 256) (p / 2 ^ 8 % 256) (p % 256))
  else none

/-- Destination luma positions that a sample of plane `i` covers. -/
def samplesUnder (c422 : Bool) (i x y : Nat) : List (Int × Int) :=
  let x : Int := x
  let y : Int := y
  if i = 0 then [(x, y)]
  else if c422 then [(2 * x, y), (2 * x + 1, y)]
  else [(2 * x, 2 * y), (2 * x + 1, 2 * y), (2 * x, 2 * y + 1), (2 * x + 1, 2 * y + 1)]

/-- One sample after one layer: its chroma and alpha are averaged over the layer pixels that it covers (log 77). -/
def drawSample (col : Nat × Bool) (c422 : Bool) (l : Layer × List Word) (i x y v : Nat) : Nat :=
  match (samplesUnder c422 i x y).filterMap fun q => layerAt col l i q.1 q.2 with
  | [] => v
  | ps => blend (average (ps.map (·.1))) (average (ps.map (·.2))) v

/-- Layers drawn in table order, entry 0 lowest (R188). -/
def drawLayers (col : Nat × Bool) (ls : List (Layer × List Word)) (p : Picture) : Picture :=
  ls.foldl (fun p l => mapPlanes p fun i q => planeOf q.w q.h fun x y => drawSample col p.c422 l i x y (planeAt q x y)) p

/-! ### Depth (R185) and the whole job (R181) -/

/-- A finished picture in the destination's bit depth. -/
def leavePpu (depth10 dither : Bool) (p : Picture) : Picture :=
  if depth10 then p
  else { mapPlanes p (fun _ q => planeOf q.w q.h fun x y => narrow dither x y (planeAt q x y)) with depth10 := false }

/-- The crop of R182 in a source picture: width and height. -/
def cropSize (g : Get) (w h : Nat) : Nat × Nat :=
  let x := min w (g F.CTX_PP_CROP0_X)
  let y := min h (g F.CTX_PP_CROP0_Y)
  let cw := g F.CTX_PP_CROP1_W
  let ch := g F.CTX_PP_CROP1_H
  (if cw = 0 then w - x else min cw (w - x), if ch = 0 then h - y else min ch (h - y))

/-- Size that the cropped area is scaled to. -/
def scaledSize (g : Get) (cw ch : Nat) : Nat × Nat :=
  if g F.CTX_PP_CTL_FIT = 1 then fitSize cw ch g.w g.h else (g.w, g.h)

/-- A source picture that a job reads: its samples, the pictures before and after it in output order, whether it holds two
fields (top first), whether the frame is built on its second field, and its stream's colour. -/
structure PpuSource where
  cur    : Picture
  before : Option Picture
  after  : Option Picture
  fields : Bool
  tff    : Bool
  second : Bool
  info   : StreamInfo
  deriving DecidableEq, Repr

/-- Deinterlace where PP_CTL.DEINT asks for it (R190). -/
def fieldStep (g : Get) (x : PpuSource) : Picture :=
  let cur := enterPpu x.cur
  if x.fields && g F.CTX_PP_CTL_DEINT != 0 then
    let par := if x.tff == x.second then 1 else 0
    let before := if x.second then some cur else x.before.map enterPpu
    let after := if x.second then x.after.map enterPpu else some cur
    deinterlace cur before after par (g F.CTX_PP_XDEINT_LOW) (g F.CTX_PP_XDEINT_HIGH)
  else cur

/-- The picture that a job writes (R181): deinterlace, crop, scale, colour and range, layers, bit depth. -/
def ppuPicture (g : Get) (x : PpuSource) (layers : List (Layer × List Word)) : Picture :=
  let p := fieldStep g x
  let size := cropSize g p.luma.w p.luma.h
  let p := cropPicture p (g F.CTX_PP_CROP0_X) (g F.CTX_PP_CROP0_Y) size.1 size.2
  let out := scaledSize g size.1 size.2
  let src := srcColour g x.info x.cur.luma.h
  let dst := dstColour g src
  let p := convertPicture src dst (scalePicture p out.1 out.2 g.c422)
  let p := drawLayers dst (drawn layers) (onBackground p g.w g.h dst.2)
  { leavePpu g.depth10 (g F.CTX_PP_CTL_DITHER == 1) p with motion := [] }

end Sys2Proof.Machine
end

