-- ==== Sys2Proof/Machine/Ppu.lean ====
section
/-! DEFINITION. Picture processing (R180–R193): when a job is made, its time, what it reads, and the fan-out to destinations, with the commands PPU_JOB_ISSUE and
PPU_JOB_COMPLETE. -/

namespace Sys2Proof.Machine

/-! ### The queue of a destination -/

/-- OLDEST of PP_STAT (R189). -/
def syncOldest (s : State) (d : Nat) : State :=
  let p := ctxPage d
  fset s p F.CTX_PP_STAT_OLDEST
    (((getCtx s d).ppJobs.head?.map (·.2)).getD (fget s p F.CTX_PP_LAYER_CTL_SEQ))

/-- What lookahead takes from MICA on a picture of a link: the commands of the spec carry no codes for it, so they are free
values (log 50). -/
def freeCodes (s : State) (units : Nat) : LaCodes × State :=
  let f (i : Nat) : Nat := Config.freeValue (s.free + i)
  (⟨(List.range units).map fun i => f i % 1024⟩, useFrees s units)

/-- A picture of a link is taken in by its destination (R53): no SUBMIT stands behind it. -/
def acceptLink (s : State) (d : Nat) (p : LinkPic) : State :=
  let g := active s d
  let r := freeCodes s g.searchUnits
  let num := (getCtx s d).subCount
  let s := modCtx r.2 d fun x => lookIn g x.laCut num p.pix r.1 { x with
    submits := x.submits ++
      [⟨noRef, num, p.pts, 0, 0, 0, 0, r.1, noLookahead, p.pix, noPlanes, p.hdr, 0, s.devtime, none⟩]
    subCount := num + 1, lastPts := some p.pts, ptsLog := x.ptsLog ++ [(num, p.pts)] }
  selectPts (fadd s (ctxPage d) F.CTX_CNT_IN_COUNT 1) d p.pts num

/-- A submitted picture enters lookahead with the samples that its job wrote, or its own (R89, R119, R180). -/
def enterLookahead (s : State) (d : Nat) (p : LinkPic) : State :=
  let g := active s d
  modCtx s d fun x => lookIn g x.laCut p.pic p.pix (((findSub x p.pic).map (·.codes)).getD noCodes) x

/-- One picture that is ready moves on. -/
def moveOne (s : State) (d : Nat) (p : LinkPic) : State :=
  if p.src = 256 then enterLookahead s d p else acceptLink s d p

/-- Pictures that are ready move on in order. -/
def movePics (s : State) (d : Nat) : State :=
  let l := (getCtx s d).linkPics
  (l.takeWhile (·.ready)).foldl (fun s p => moveOne s d p)
    (modCtx s d ({ · with linkPics := l.dropWhile (·.ready) }))

/-- A destination has read a source picture (R191); the source lets it go once every destination has. -/
def readerDone (s : State) (d : Nat) (p : LinkPic) : State :=
  if p.src = 256 then s
  else settleDec (modDec s p.src p.pic fun q => { q with readers := q.readers.erase d }) p.src

/-- Pictures of a destination that are processed and have not entered coding, against the bound of R191. -/
def linkRoom (s : State) (d : Nat) : Bool :=
  let x := getCtx s d
  let g := active s d
  decide (x.queued.length + x.plan.length + (x.linkPics.filter fun p => p.busy || p.ready).length <
    g.laDepth + 2 ^ g.miniLog + 2)

/-- The decoded picture of a source. -/
def srcPic (p : LinkPic) : Option DecPic := p.dec

/-- Under FIELD, the frame on the second field of a picture waits for the next source picture (R190). -/
def fieldWaits (s : State) (d : Nat) (p : LinkPic) : Bool :=
  match srcPic p with
  | none => false
  | some q =>
    (active s d) F.CTX_PP_CTL_DEINT == 2 && q.hasFields && p.pts != q.pts && (getCtx s d).linkOn && p.next.isNone

/-- A picture of a destination that may be issued now: the first that is neither issued nor ready. -/
def nextLink (s : State) (d : Nat) : Option LinkPic :=
  match (getCtx s d).linkPics.find? fun p => !p.busy && !p.ready with
  | none => none
  | some p =>
    if (ctxState s d == 3 || ctxState s d == 4) && !(getCtx s d).moving && linkRoom s d && !fieldWaits s d p then some p
    else none

/-- DONE of R192: when the source picture became available, or the submission was accepted. -/
def linkDone (s : State) (d : Nat) (p : LinkPic) : Nat :=
  match srcPic p with
  | some q => q.available.getD 0
  | none => ((findSub (getCtx s d) p.pic).map (·.at_)).getD 0

/-- Size, depth and chroma of a source picture. -/
def srcFormat (s : State) (d : Nat) (p : LinkPic) : Nat × Nat × Bool × Bool :=
  match srcPic p with
  | some q => (q.au.width, q.au.height, q.au.depth10, q.au.chroma422)
  | none => let g := active s d; (g.w, g.h, g.depth10, g.c422)

/-- A job is made (R180). -/
def jobNeeded (s : State) (d : Nat) (p : LinkPic) : Bool :=
  let g := active s d
  let layers := fget s (ctxPage d) F.CTX_PP_LAYER_CTL_COUNT != 0
  if p.src = 256 then layers
  else
    let f := srcFormat s d p
    let crop := cropSize g f.1 f.2.1
    let src := srcColour g (((srcPic p).map (·.au.info)).getD noInfo) f.2.1
    src != dstColour g src || layers || crop != (g.w, g.h) || f.2.2 != (g.depth10, g.c422) || g F.CTX_PP_CTL_DEINT != 0 ||
      crop != (f.1, f.2.1)

/-! ### Jobs -/

/-- No other destination's job comes first (R192). -/
def linkFirst (s : State) (d : Nat) (p : LinkPic) : Bool :=
  (s.ctxs.map (·.1)).all fun c =>
    c == d || match nextLink s c with
      | none => true
      | some q =>
        let a := linkDone s d p
        let b := linkDone s c q
        !jobNeeded s c q || decide (a < b) || (a == b && decide (d < c))

/-- Passes and nanoseconds of a job (R183, R192). -/
def ppuTime (s : State) (d : Nat) (p : LinkPic) (layers : List (Layer × List Word)) : Nat × Nat :=
  let g := active s d
  let f := srcFormat s d p
  let crop := cropSize g f.1 f.2.1
  let out := scaledSize g crop.1 crop.2
  let k := scalePasses crop.1 crop.2 out.1 out.2
  let o := g.w * g.h
  let i := crop.1 * crop.2
  let lam := ((drawn layers).map fun l => l.1.w * l.1.h).sum
  let cycles := max (ceilDiv o 4) (max (ceilDiv i 64) (ceilDiv lam 8))
  (k, k * cycles * 1000 / max 1 (engMHz s))

/-- The PPU that takes a job (R192, R161 with σ at 0x200): the smallest finish time, with the locality window. -/
def choosePpu (s : State) (d : Nat) (p : LinkPic) (time : Nat) : Option Nat :=
  let up := ppuPages.filter (usable s)
  let ok := up.filter fun page => p.avoid != some page
  let room := (if ok = [] then up else ok).filter fun page => (getEng s page).held == []
  let fin (page : Nat) : Nat := heldEnd s page 512 + wakeNs s page + time
  let best := listMin (room.map fin)
  let near := room.filter fun page => fin page ≤ best + localityNs s
  (((getCtx s d).lastOn.find? near.contains).toList ++ near).head?

/-- Change the entry of a picture in its destination's queue. -/
def modLink (s : State) (d : Nat) (p : LinkPic) (f : LinkPic → LinkPic) : State :=
  modCtx s d fun x => { x with linkPics := x.linkPics.map fun q => if q.pts = p.pts ∧ !q.ready then f q else q }

/-- What a job reads (R180): the linked source's decoded picture, or the submitted picture, which no stream describes: its
matrix and range are those of ENC_VUI. -/
def ppuSource (s : State) (d : Nat) (p : LinkPic) : PpuSource :=
  match srcPic p with
  | some q =>
    ⟨q.pix, p.prev, p.next, q.hasFields, q.au.info.tff,
      q.pts % 2 ^ 33 != p.pts, q.au.info⟩
  | none =>
    let g := active s d
    let pix := match findSub (getCtx s d) p.pic with
      | some u => readPicture s g.w g.h g.depth10 g.c422 u.addr u.chroma u.stride
      | none => noPicture
    let own := { noInfo with matrix := g F.CTX_ENC_VUI_MATRIX, full := g F.CTX_ENC_VUI_FULL_RANGE == 1 }
    ⟨pix, none, none, false, false, false, own⟩

/-- Issue a job to a PPU (R189, R191): what it writes follows from the source, the registers and the layers (R192). -/
def issuePpu (s : State) (d : Nat) (p : LinkPic) (layers : List (Layer × List Word)) (failed : Bool) (page : Nat) : State :=
  let t := ppuTime s d p layers
  let pix := ppuPicture (active s d) (ppuSource s d p) layers
  let again := (getCtx s d).ppJobs.any fun j => j.1 == p.pts
  let q := ctxPage d
  let bad := failed || layers.any fun l => l.1.enable && !l.1.ok
  let s := modLink s d p ({ · with busy := true, pix := pix })
  let s := if again then s
    else modCtx s d fun x => { x with ppJobs := x.ppJobs ++ [(p.pts, fget s q F.CTX_PP_LAYER_CTL_SEQ)] }
  let s := fset (fset s q F.CTX_PP_STAT_PASSTHRU 0) q F.CTX_PP_STAT_PASSES (t.1 - 1)
  let s := if bad then fset s q F.CTX_PP_STAT_LAYER_ERR 1 else s
  touchDomain (syncOldest (setHeld s page [⟨.ppu d p.pts, t.2, s.devtime, true, false, tracker0, run0⟩]) d) (domainOf page)

/-- The encode reads the source picture itself (R180). The source holds the picture until its destination has taken it in
(DESIGN CHOICE, log 49). -/
def passThrough (s : State) (d : Nat) (p : LinkPic) : State :=
  let pix := (ppuSource s d p).cur
  let s := fset s (ctxPage d) F.CTX_PP_STAT_PASSTHRU 1
  readerDone (movePics (modLink s d p ({ · with busy := true, ready := true, pix := pix })) d) d p

/-! ### Commands -/

/-- PPU_JOB_ISSUE (R180, R189, R191, R192). -/
def execPpuJobIssue (dst : Fin 256) (bus : List BusLayer) (failed : List Nat) (s : State) : Host.Outcome State Fault Refusal :=
  let d := dst.val
  match nextLink s d with
  | none => .next s
  | some p =>
    if !jobNeeded s d p then .next (passThrough s d p)
    else if !linkFirst s d p then .next s
    else
      let l := readLayers s d bus failed
      match choosePpu s d p (ppuTime s d p l.1).2 with
      | none => .next s
      | some page => .next (issuePpu s d p l.1 l.2 page)

/-- A job has ended (R189, R191, R192). -/
def ppuDone (s : State) (page n d pts : Nat) : State :=
  let g := active s d
  let s := countEv (countEv (fadd s page F.PPU_CNT_JOB_COUNT 1) (464 + 4 * n + 2) 1) (464 + 4 * n + 3) (g.w * g.h)
  let s := setHeld (retiredOn s d page) page []
  let s := syncOldest (modCtx s d fun x => { x with ppJobs := x.ppJobs.filter fun j => j.1 != pts }) d
  match (getCtx s d).linkPics.find? fun p => p.pts == pts && p.busy && !p.ready with
  | none => s
  | some p => readerDone (movePics (modLink s d p ({ · with ready := true })) d) d p

/-- PPU_JOB_COMPLETE (R192). -/
def execPpuJobComplete (ppu : Fin 8) (s : State) : Host.Outcome State Fault Refusal :=
  let page := ppuPage ppu.val
  match (getEng s page).held with
  | h :: _ =>
    match h.job with
    | .ppu d pts =>
      if domOn s (domainOf page) && blkReady s page then .next (ppuDone s page ppu.val d pts) else .next s
    | _ => .next s
  | [] => .next s

end Sys2Proof.Machine
end

