-- ==== Sys2Proof/Machine/Dram.lean ====
section
/-! DEFINITION. The DRAM channel controllers (R235–R246): request queues and hazards, refresh, inline ECC regions and
the training helpers, with the commands DRAM_REQUEST to INIT_DONE, TRAINING_RUN, RUN_DONE and TALUS_FREE. -/

namespace Sys2Proof.Machine

def dmcPage (ch : Nat) : Nat := 0x60 + ch
def dtrnPage (ch : Nat) : Nat := 0x80 + ch

def dmcState (s : State) (ch : Nat) : Nat := fget s (dmcPage ch) F.DMC_STATUS_STATE

def dmcServes (s : State) (ch : Nat) : Bool := dmcState s ch == 2 && domOn s (groupDom ch)

/-! ### Requests (R237, R239) -/

/-- The 64 bytes of a granule that a request writes. -/
def granuleData (off : Nat) (data : List (Option Byte)) : List (Option Byte) :=
  (List.range 64).map fun i => if i < off then none else data.getD (i - off) none

/-- A later write merges into a queued one (R239). -/
def mergeData (old new : List (Option Byte)) : List (Option Byte) :=
  (List.range 64).map fun i => (new.getD i none) <|> (old.getD i none)

/-- QUEUE shows the entries. -/
def syncQueue (s : State) (ch : Nat) : State :=
  let d := getDmc s ch
  fset (fset s (dmcPage ch) F.DMC_QUEUE_RD d.reads.length) (dmcPage ch) F.DMC_QUEUE_WR d.writes.length

/-- Whether the write queue is served (R238): from WR_HI until WR_LO. -/
def syncDrainWr (s : State) (ch : Nat) : State :=
  let n := (getDmc s ch).writes.length
  let hi := fget s (dmcPage ch) F.DMC_SCHED_WR_HI
  let lo := fget s (dmcPage ch) F.DMC_SCHED_WR_LO
  modDmc s ch fun d => { d with draining := if hi ≤ n then true else if n ≤ lo then false else d.draining }

/-- A request enters its queue, or waits for room (R237). -/
def pushReq (s : State) (ch : Nat) (r : DramReq) : State :=
  let d := getDmc s ch
  let s :=
    if r.data = [] then
      if d.reads.length < 64 then modDmc s ch ({ · with reads := d.reads ++ [r] })
      else modDmc s ch ({ · with stalled := d.stalled ++ [r] })
    else if d.writes.any fun w => w.addr == r.addr then
      modDmc s ch ({ · with writes := d.writes.map fun w =>
        if w.addr = r.addr then { w with data := mergeData w.data r.data } else w })
    else if d.writes.length < 64 then modDmc s ch ({ · with writes := d.writes ++ [r] })
    else modDmc s ch ({ · with stalled := d.stalled ++ [r] })
  syncQueue (syncDrainWr s ch) ch

/-- Requests that wait for room try again, in order. -/
def pushStalled (s : State) (ch : Nat) : State :=
  let w := (getDmc s ch).stalled
  w.foldl (fun s r => pushReq s ch r) (modDmc s ch ({ · with stalled := [] }))

/-- A region that holds an address is being zeroed (R242). -/
def zeroing (s : State) (a : Nat) : Bool :=
  (regionsOn s).any fun r => regionBase s r ≤ a && a < regionBase s r + regionBytes s r &&
    !fbit s 0x60 F.DMC0_REGION_CTL_INIT_DONE r

/-- A request reaches its channel: it waits for a group that is not ON, which wakes (R300), and for a region's zeroing. -/
def takeReq (s : State) (ch : Nat) (r : DramReq) : State :=
  let s := touchDomain s (groupDom ch)
  if domOn s (groupDom ch) && !zeroing s r.addr then pushReq s ch r
  else modDmc s ch fun d => { d with parked := d.parked ++ [r] }

/-- Requests that waited for a group or a region try again. -/
def unpark (s : State) (ch : Nat) : State :=
  let w := (getDmc s ch).parked
  if w = [] then s else w.foldl (fun s r => takeReq s ch r) (modDmc s ch ({ · with parked := [] }))

def unparkAll (s : State) : State := (List.range 24).foldl unpark s

/-- A BAR2 access below CTRL_SIZE, at or above USABLE, or in the Sentinel state (R236, R259, R314): reads return 0,
writes are discarded. -/
def bar2Dead (s : State) (a : Nat) : Bool := inSentinel s || a < ctrlSize s || usableTop s ≤ a

/-- DRAM_REQUEST (R237, R259). A request from inside the device lies below CAPACITY (R236). -/
def execDramRequest (bar2 : Bool) (addr : Nat) (data : List (Option Byte)) (s : State) :
    Host.Outcome State Fault Refusal :=
  let a := addr / 64 * 64
  if bar2 && bar2Dead s addr then
    if data = [] then .next (emit s (.granule a (List.replicate 64 0) false)) else .next s
  else
    match chanOf s a with
    | none => .fault .noSuchAccess
    | some ch =>
      if capacity s ≤ a then .fault .noSuchAccess
      else .next (takeReq s ch ⟨a, if data = [] then [] else granuleData (addr - a) data, s.devtime⟩)

/-! ### Issue (R238, R239, R243) -/

/-- The older of two optional requests; at equal times the write goes first. -/
def olderReq (w r : Option DramReq) : Option DramReq :=
  match w, r with
  | none, r => r
  | w, none => w
  | some a, some b => if a.at_ ≤ b.at_ then some a else some b

/-- The order of R238. `openRows`: the granules that lie in open rows. -/
def pickReq (s : State) (ch : Nat) (openRows : List Nat) : Option DramReq :=
  let d := getDmc s ch
  let age := fget s (dmcPage ch) F.DMC_SCHED_AGE_NS
  let old (r : DramReq) : Bool := decide (r.at_ + age < s.devtime)
  match olderReq (d.writes.find? old) (d.reads.find? old) with
  | some r => some r
  | none =>
    let q := if d.draining then d.writes else if d.reads = [] then d.writes else d.reads
    (q.find? fun r => openRows.contains r.addr) <|> q.head?

/-- The request that the hazards of R239 put in the place of another: the write that a read waits for, or the older read
that a write waits for. -/
def hazard (s : State) (ch : Nat) (r : DramReq) : DramReq :=
  let d := getDmc s ch
  if r.data = [] then (d.writes.find? fun w => w.addr == r.addr && decide (w.at_ ≤ r.at_)).getD r
  else (d.reads.find? fun q => q.addr == r.addr && decide (q.at_ < r.at_)).getD r

/-- Write the enabled bytes of a granule; a write of the whole granule renews its check bytes (R243). -/
def writeGranule (s : State) (r : DramReq) : State :=
  let s := (List.range 64).foldl (fun s i =>
    match r.data.getD i none with
    | some b => memWrite s (r.addr + i) b
    | none => s) s
  if r.data.all (·.isSome) then { s with poison := s.poison.filter (· != r.addr) } else s

/-- A read of protected memory in which some word holds an error (R243). -/
def eccRead (s : State) (ch : Nat) (a : Nat) (ue : Bool) : State :=
  let p := dmcPage ch
  if ue then
    let s := { s with poison := if s.poison.contains a then s.poison else s.poison ++ [a] }
    let s := qset (faddSat s p F.DMC_ECC_CNT_UNCORRECTED 1) p F.DMC_ECC_ADDR_LO_LO a
    raiseFault (setIrq s p 4) p 1 0 false
  else raiseFault (faddSat s p F.DMC_ECC_CNT_CORRECTED 1) p 0 0 false

/-- Unprotected memory is returned as read: a word with bit errors holds a free value. -/
def rawBytes (s : State) (a : Nat) (errs : List Nat) : List Byte :=
  (List.range 64).map fun i =>
    if errs.getD (i / 8) 0 = 0 then memRead s (a + i) else BitVec.ofNat 8 (Config.freeValue (s.free + i))

/-- A read of a granule returns to its requester. -/
def readGranule (s : State) (ch : Nat) (r : DramReq) (errs : List Nat) : State :=
  let a := r.addr
  if isProtected s a then
    let ue := errs.any (1 < ·) || s.poison.contains a
    let s := emit s (.granule a (memReadN s a 64) ue)
    if ue || errs.any (· == 1) then eccRead s ch a ue else s
  else { emit s (.granule a (rawBytes s a errs) false) with free := s.free + 64 }

/-- One granule goes to or comes from DRAM. -/
def doReq (s : State) (ch : Nat) (r : DramReq) (errs : List Nat) : State :=
  let p := dmcPage ch
  let s := modDmc s ch fun d =>
    if r.data = [] then { d with reads := d.reads.erase r } else { d with writes := d.writes.erase r }
  let s :=
    if r.data = [] then
      countEv (qset (readGranule s ch r errs) p F.DMC_CNT_RD_LO_LO (qget s p F.DMC_CNT_RD_LO_LO + 1)) (496 + 4 * ch) 1
    else
      countEv (qset (writeGranule s r) p F.DMC_CNT_WR_LO_LO (qget s p F.DMC_CNT_WR_LO_LO + 1)) (497 + 4 * ch) 1
  syncQueue (syncDrainWr (pushStalled s ch) ch) ch

/-- Ranks of a channel. -/
def ranksOf (s : State) (ch : Nat) : Nat := if fbit s (dmcPage ch) F.DMC_STATUS_RANKS2 then 2 else 1

def owedOf (s : State) (ch rank : Nat) : Int := if rank = 0 then (getDmc s ch).owed0 else (getDmc s ch).owed1

def postponeMax (s : State) (ch : Nat) : Nat := fget s (dmcPage ch) F.DMC_REFRESH_POSTPONE_MAX
def pullinMax (s : State) (ch : Nat) : Nat := fget s (dmcPage ch) F.DMC_REFRESH_PULLIN_MAX

/-- The count of a rank has reached POSTPONE_MAX (R241); at −PULLIN_MAX it cannot fall. -/
def rankDue (s : State) (ch rank : Nat) : Bool :=
  decide ((postponeMax s ch : Int) ≤ owedOf s ch rank) && decide (-(pullinMax s ch : Int) < owedOf s ch rank)

/-- A refresh is due before any other command (R241). The spec does not say which rank a request goes to, so a rank that
is due holds the whole channel (DESIGN CHOICE, log 52). -/
def refreshDue (s : State) (ch : Nat) : Bool :=
  (List.range (ranksOf s ch)).any fun r => rankDue s ch r

/-- DRAM_ISSUE (R238): the next request of a channel. -/
def execDramIssue (ch : Fin 24) (openRows errs : List Nat) (s : State) : Host.Outcome State Fault Refusal :=
  let c := ch.val
  if !dmcServes s c || refreshDue s c then .next s
  else
    match pickReq s c openRows with
    | none => .next s
    | some r =>
      let h := hazard s c r
      let s := if h ≠ r ∧ r.data = [] then countEv (fadd s (dmcPage c) F.DMC_CNT_RAW_COUNT 1) (498 + 4 * c) 1 else s
      .next (doReq s c h errs)

/-! ### Refresh (R240, R241) -/

/-- Base interval ÷ m in ns for a multiplier code, with the mode in bit 3. -/
def refreshNs (m : Nat) : Nat := (if 8 ≤ m then 3906 else 488) * 4 / 2 ^ (m % 8)

def setOwed (s : State) (ch rank : Nat) (v : Int) : State :=
  let s := modDmc s ch fun d => if rank = 0 then { d with owed0 := v } else { d with owed1 := v }
  if rank = 0 then fset s (dmcPage ch) F.DMC_STATUS_OWED (v % 32).toNat else s

/-- REFRESH_INTERVAL (R240, R241): an interval of a rank has passed; the multiplier and the mode of the next are taken. -/
def execRefreshInterval (ch : Fin 24) (rank : Fin 2) (s : State) : Host.Outcome State Fault Refusal :=
  let c := ch.val
  let d := getDmc s c
  let last := if rank.val = 0 then d.lastInt0 else d.lastInt1
  if dmcServes s c && decide (rank.val < ranksOf s c) && decide (last + refreshNs d.mult ≤ s.devtime) then
    let m := fget s (dmcPage c) F.DMC_STATUS_REF_MULT + (if fbit s (dmcPage c) F.DMC_REFRESH_MODE then 8 else 0)
    let s := setOwed s c rank.val (min (postponeMax s c : Int) (owedOf s c rank.val + 1))
    .next (modDmc s c fun d => if rank.val = 0 then { d with lastInt0 := s.devtime, mult := m }
      else { d with lastInt1 := s.devtime, mult := m })
  else .next s

/-- REFRESH_ISSUE (R241): at one of its three points. -/
def execRefreshIssue (ch : Fin 24) (rank : Fin 2) (s : State) : Host.Outcome State Fault Refusal :=
  let c := ch.val
  let owed := owedOf s c rank.val
  let idle := (getDmc s c).reads == [] && (getDmc s c).writes == []
  if dmcServes s c && decide (rank.val < ranksOf s c) && (rankDue s c rank.val || (idle && decide (-(pullinMax s c : Int) < owed))) then
    .next (setOwed s c rank.val (owed - 1))
  else .next s

/-- MR4_POLL (R240): every 4 ms. -/
def execMr4Poll (ch : Fin 24) (code : Fin 5) (hot : Bool) (s : State) : Host.Outcome State Fault Refusal :=
  let c := ch.val
  let p := dmcPage c
  if dmcServes s c && decide ((getDmc s c).lastPoll + 4000000 ≤ s.devtime) then
    let m := if hot then 4 else code.val
    let old := fget s p F.DMC_STATUS_REF_MULT
    let s := modDmc (fset s p F.DMC_STATUS_REF_MULT m) c ({ · with lastPoll := s.devtime })
    let s := if old = m then s else setIrq s p 2
    .next (if hot then raiseFault s p 2 0 false else s)
  else .next s

/-! ### Regions (R242) -/

/-- USABLE follows the enabled regions. -/
def syncUsable (s : State) : State := qset s 0x60 F.DMC0_USABLE_LO_LO (usableFor s (regionSum s))

/-- Enabling a region writes zeros to its data. -/
def zeroRegion (s : State) (r : Nat) : State :=
  let base := regionBase s r
  let top := base + regionBytes s r
  { s with mem := s.mem.filter fun kv => kv.1 < base || top ≤ kv.1
           poison := s.poison.filter fun a => a < base || top ≤ a }

def setRegion (s : State) (r : Nat) : State :=
  zeroRegion (syncUsable (fset (fset s 0x60 F.DMC0_REGION_CTL_INIT_DONE 0 r) 0x60 F.DMC0_REGION_CTL_ENABLE 1 r)) r

/-- REGION_ENABLE (R242). -/
def execRegionEnable (r : Fin 16) (s : State) : Host.Outcome State Fault Refusal :=
  if regionOn s r.val then .next s
  else if regionRefused s r.val then .next (fset s 0x60 F.DMC0_REGION_CTL_ERR 1 r.val)
  else .next (setRegion s r.val)

/-- REGION_DISABLE (R242): region 0 cannot be disabled. -/
def execRegionDisable (r : Fin 16) (s : State) : Host.Outcome State Fault Refusal :=
  let base := regionBase s r.val
  let top := base + regionBytes s r.val
  if r.val = 0 ∨ !regionOn s r.val then .next s
  else if (poolsOn s).any fun p => overlaps base top (poolBase s p) (poolEnd s p) then
    .next (fset s 0x60 F.DMC0_REGION_CTL_ERR 1 r.val)
  else
    let s := fset (fset s 0x60 F.DMC0_REGION_CTL_ENABLE 0 r.val) 0x60 F.DMC0_REGION_CTL_INIT_DONE 0 r.val
    .next (unparkAll { syncUsable s with poison := s.poison.filter fun a => a < base || top ≤ a })

/-- INIT_DONE (R242): the requests that waited go on. -/
def execInitDone (r : Fin 16) (s : State) : Host.Outcome State Fault Refusal :=
  if regionOn s r.val then .next (unparkAll (fset s 0x60 F.DMC0_REGION_CTL_INIT_DONE 1 r.val)) else .next s

/-! ### Training helpers (R246) -/

/-- TRAINING_RUN (R246): a write of DTRN.RUN, accepted only while the channel trains. -/
def execTrainingRun (ch : Fin 24) (val : Word) (s : State) : Host.Outcome State Fault Refusal :=
  let p := dtrnPage ch.val
  let v := val.toNat
  if dmcState s ch.val ≠ 1 then .next s
  else
    let s := fset (fset s p F.DTRN_RUN_FIRST (bitsOf v 8 6)) p F.DTRN_RUN_LAST (bitsOf v 16 6)
    let s := fset s p F.DTRN_RUN_LOOPS (bitsOf v 24 8)
    if bitsOf v 0 1 = 1 ∧ bitsOf v 8 6 ≤ bitsOf v 16 6 then .next (fset s p F.DTRN_RUN_BUSY 1) else .next s

/-- RUN_DONE (R246): the mismatched bits of each signal are added. -/
def execRunDone (ch : Fin 24) (errs : List Nat) (s : State) : Host.Outcome State Fault Refusal :=
  let p := dtrnPage ch.val
  if fbit s p F.DTRN_RUN_BUSY then
    let s := (List.range 18).foldl (fun s n => faddSat s p F.DTRN_ERR_COUNT (errs.getD n 0) n) s
    .next (setIrq (fset s p F.DTRN_RUN_BUSY 0) p 2)
  else .next s

/-! ### Talus -/

/-- TALUS_FREE (R251, R252, R253): outputs that wait are retried. -/
def execTalusFree (fn : Fin 64) (handle : Word) (s : State) : Host.Outcome State Fault Refusal :=
  let r := freeHandle s fn.val handle.toNat
  .next (if r.2 then retryOutputs r.1 else r.1)

end Sys2Proof.Machine
end

