-- ==== Sys2Proof/Machine/Bringup.lean ====
section
/-! DEFINITION. Power-on, reset and bring-up (R291–R294, R305–R315, R337, R376): the rails, the resets, the steps of
R309, the Sentinel state and the frequency of ENG_CLK, with the commands RAILS_GOOD to INTERLEAVE_TABLE_WRITE,
SELFTEST_END, CAL_DONE, AVS_ACK_WRITE, ENG_FREQ_WRITE, ENG_CLK_RELOCK and RTC_LOSS. -/

namespace Sys2Proof.Machine

/-! ### Resets -/

/-- RAIL_OK shows the rails that are good. -/
def syncRails (s : State) : State :=
  fset s 0x10 F.PWR_STAT_RAIL_OK (((List.range 11).filter fun i => s.chip.rails.getD i false).foldl (fun v i => v + 2 ^ i) 0)

/-- Every switched domain, the endpoint, the pads and the registers at reset (R293, R302, R315, R355). DEVTIME, the trip
latch, the fuses and the NOR device outside are kept; device memory reads as if nothing had been written (log 53). -/
def coldState (s : State) : State :=
  let c := s.chip
  let c0 := State.reset.chip
  let b := s.bdrk
  let b0 := State.reset.bdrk
  syncRails { State.reset with
    pending := s.pending
    free := s.free
    devtime := s.devtime
    out := s.out
    chip := { c0 with
      rails := c.rails, padsOn := c.padsOn, aonUp := c.aonUp, railsAt := c.railsAt, trip := c.trip, perst := c.perst
      rollback := c.rollback }
    bdrk := { b0 with nor := b.nor, norNext := b.norNext, slots := b.slots }
    pins := { State.reset.pins with gpio := s.pins.gpio, thermtrip := c.trip } }

/-- Chip power-on reset is asserted, and every pad is at high impedance (R293, R370). -/
def powerOnReset (s : State) : State := setChip (coldState s) ({ · with por := true, padsOn := false })

/-! ### ENG_CLK (R294, R307, R369) -/

/-- The frequency step that should be in force: the lowest of STEP, the AVS limit and the throttle. -/
def engStep (s : State) : Nat :=
  min (fget s 0x11 F.CLK_ENG_FREQ_STEP)
    (min (if fbit s 0x10 F.PWR_AVS_ACK then 11 else 5) (fget s 0x11 F.CLK_THROTTLE_LIMIT))

/-- ENG_CLK relocks: ENG_NOW is the frequency in force. A change raises ENG_CHANGE (DEDUCED, log 54). -/
def relock (s : State) : State :=
  if fget s 0x11 F.CLK_ENG_NOW_STEP = engStep s then s
  else setIrq (fset s 0x11 F.CLK_ENG_NOW_STEP (engStep s)) 0x11 2

/-- AVS.ACK is set (R294). -/
def ackAvs (s : State) : State := fset s 0x10 F.PWR_AVS_ACK 1

/-! ### The Sentinel state (R313, R314) -/

/-- A BOOT entry (R327): the spec gives its PAGE and DETAIL no value. -/
def logBoot (s : State) (cause : Nat) : State :=
  useFree (useFree (logEvent s 3 cause (freeNat s) (freeNat (useFree s))))

/-- Domains 1–58 are off; nothing in them is kept. -/
def allOff (s : State) : State :=
  let s := (List.range 58).foldl (fun s i => setDomState (modDom s (i + 1) fun _ => dom0) (i + 1) 0) s
  { s with engines := [], banks := [], dmcs := [] }

/-- Enter the Sentinel state. Where Bedrock's core test failed, only hardware answers (R314). -/
def enterSentinel (s : State) (cause : Nat) : State :=
  let s := allOff (fset (fset s 0 F.CHIP_STATE_PHASE 3) 0 F.CHIP_STATE_CAUSE cause)
  let s := (List.range 16).foldl (fun s i => syncSrc s (258 + i)) (fset s 0 F.CHIP_GPIO_OE_OE 0)
  if s.chip.coreFail then s
  else { emit (logBoot (setChip s ({ · with cfgOk := true })) cause) (.uart cause) with
         pins := { s.pins with alertN := true } }

/-! ### The end of bring-up (R165, R309 step 12, R310) -/

/-- The unit in a domain has its READY bit. -/
def upBits (s : State) (lo n : Nat) : Bool := (List.range n).all fun i => readyBit s (lo + i)

def anyTest (s : State) : Bool := (eePages ++ dePages).any (testRunning s)

/-- A cluster's load has ended: it is ready, or its self-test failed. -/
def clusterEnded (s : State) (q : Nat) : Bool := readyBit s (49 + q) || fget s (qzPage q) F.HDR_BLK_READY_STATE == 6

/-- The two highest-numbered healthy engines of a kind become its standbys (R165). -/
def chooseStandbys (s : State) (pages : List Nat) : State :=
  let ok := pages.filter fun p => blkReady s p && (getEng s p).tested && !(getEng s p).retired
  let sb := if capacityMode s then [] else ok.drop (max 16 (ok.length - 2))
  let s := (ok.filter fun p => !sb.contains p && isStandby s p).foldl callIn s
  (sb.filter fun p => blkInService s p || (getEng s p).waking).foldl (fun s p => endUnitDrain (drainToStandby s p) p) s

/-- Every engine of a kind has ended its bring-up tests, those of step 12 too: its standbys are chosen, once (R165). -/
def kindTested (s : State) (k : EngKind) : State :=
  let pages := kindPages (engPage k 0)
  if s.chip.chosen.contains k || !(pages.all fun p => readyBit s (domainOf p) && !testRunning s p) ||
      !(s.chip.retried || pages.all fun p => (getEng s p).tested) then s
  else chooseStandbys (setChip s fun c => { c with chosen := k :: c.chosen }) pages

/-- READY[63] is set, BRINGUP_DONE is raised and Bedrock sleeps; the counter fuses follow the running package (R329). -/
def endBringup (s : State) : State :=
  let s := fset (fset (setIrq (setReady s 63) 0 4) 0 F.CHIP_STATE_PHASE 2) 1 F.BDRK1_STATUS_AWAKE 0
  logBoot (setChip s fun c => { c with rollback := max c.rollback c.fwVer }) 0

/-- Units that are tested or calibrated once more (R309 step 12). -/
def failedEngines (s : State) : List Nat := (eePages ++ dePages).filter fun p => !(getEng s p).tested

def lowBanks (s : State) : List Nat := (List.range 4).filter fun b => tilesOn s b < minTiles s b

/-- Test an engine during bring-up: it joins when it passes. -/
def bringupTest (s : State) (page : Nat) : State :=
  startTest (fset (modEng s page ({ · with admitWait := true })) page F.HDR_BLK_READY_STATE 1) page

/-- Calibrate a bank during bring-up: it serves when it passes. -/
def bringupCal (s : State) (b : Nat) : State :=
  setBank (requestWake (modBank s b ({ · with autoBack := true })) (37 + b)) b 1 1

/-- A PPU is tested in bring-up, and serves where it passes (R309 steps 6 and 12). -/
def bringupPpu (s : State) (page : Nat) : State :=
  let s := ppuTested (fset s page F.HDR_BLK_READY_READY 1) page
  if (getEng s page).tested then callIn s page else s

def failedPpus (s : State) : List Nat := ppuPages.filter fun p => !(getEng s p).tested

/-- End bring-up, or start its retests, once every other step has ended. -/
def checkBringup (s : State) : State :=
  let units := upBits s 1 48 && clusterEnded s 0 && clusterEnded s 1
  let rest := s.chip.memReady && readyBit s 57 && readyBit s 58 && readyBit s 61
  let busy := anyTest s || (List.range 4).any fun b => bankState s b == 1
  let s := if readyBit s 63 || inSentinel s then s else kindTested (kindTested s .ee) .de
  if readyBit s 63 || inSentinel s || !units || !rest || busy then s
  else if s.chip.retried then endBringup s
  else
    let s := (failedPpus s).foldl bringupPpu (setChip s ({ · with retried := true }))
    if failedEngines s = [] ∧ lowBanks s = [] then endBringup s
    else (lowBanks s).foldl bringupCal ((failedEngines s).foldl bringupTest s)

/-! ### The units' own steps -/

/-- Engines of wave `w` (R309 step 6). -/
def wavePages (w : Nat) : List Nat := (List.range 6).flatMap fun i => [eePage (6 * w + i), dePage (6 * w + i)]

/-- Start the next wave whose engines have not all been tested; after the last, the PPUs are woken to test together. -/
def startWaves (s : State) : List Nat → State
  | [] =>
    if s.chip.wave < 4 then
      (List.range 8).foldl (fun s i => requestWake s (41 + i)) (setChip s ({ · with wave := 4 }))
    else s
  | w :: ws =>
    let todo := (wavePages w).filter fun p => !readyBit s (domainOf p)
    if todo = [] then startWaves s ws else todo.foldl bringupTest (setChip s ({ · with wave := w + 1 }))

/-- An engine's test has ended during bring-up: its bit is set, and after the last of a wave the next begins. -/
def engineEnded (s : State) (page : Nat) : State :=
  let s := setReady (fsetb s page F.HDR_BLK_READY_READY (!inReset s page)) (domainOf page)
  let w := s.chip.wave
  if (wavePages (w - 1)).all fun p => readyBit s (domainOf p) then startWaves s ([0, 1, 2].drop w) else s

/-- The next bank without a bit is woken for its calibration, once every PPU bit is set (R309 step 8). -/
def nextBank (s : State) : State :=
  if upBits s 1 36 && upBits s 41 8 then
    match (List.range 4).find? fun b => !readyBit s (37 + b) with
    | some b => if domOn s (37 + b) then bringupCal s b else requestWake s (37 + b)
    | none => s
  else s

/-- READY[59] is set once firmware runs and the domain is on (R309 step 4). -/
def readyPcie (s : State) : State :=
  if s.chip.fwRuns && domOn s 59 then checkContextReady (setReady s 59) else s

/-- What a domain does when it is ON for the first time (R309, R310). -/
def bringupOn (s : State) (d : Nat) : State :=
  if readyBit s d then s
  else if 37 ≤ d ∧ d < 41 then bringupCal s (d - 37)
  else if 41 ≤ d ∧ d < 49 then
    checkBringup (nextBank (bringupPpu (setReady s d) (ppuPage (d - 41))))
  else if 51 ≤ d ∧ d < 57 ∧ !s.chip.memReady then
    (List.range 4).foldl (fun s i => fset s (dmcPage (4 * (d - 51) + i)) F.DMC_STATUS_STATE 1) s
  else if d = 57 then checkBringup (setReady (fset s 0x11 F.CLK_SRC_SERDES_REFCLK_OK 1) 57)
  else if d = 58 then checkBringup (setReady { s with store := [] } 58)
  else if d = 59 then readyPcie s
  else s

/-! ### Step 1: the straps, Bedrock and the sensors -/

/-- Calibrate the thermal sensors (R335, R337): sensor 0 is trimmed by fuse. -/
def calThermal (s : State) (offsets : List Int) : State :=
  let off := (List.range 24).map fun i => if i = 0 then 0 else offsets.getD i 0
  (List.range 24).foldl (fun s i => calRecord s (184 + i) (off.getD i 0).natAbs ((off.getD i 0).natAbs ≤ 80))
    (setChip s ({ · with thermOff := off }))

/-- What the fuses and the board give (R294, R305, R352): TARGET_MV, TEMP_I and whether RTC_IN toggles are free values. -/
def loadFuses (s : State) : State :=
  let s := useFree (fset s 0x10 F.PWR_AVS_TARGET_MV (650 + freeNat s % 201))
  let s := useFree (fset s 0 F.CHIP_CAPS_TEMP_I (freeNat s % 2))
  useFree (fset s 0x11 F.CLK_SRC_RTC_OK (freeNat s % 2))

/-- Bring-up begins (R309 step 1): the straps are sampled, and Bedrock powers on. -/
def startBringup (s : State) (bootSrc smbAddr : Nat) (offsets : List Int) : State :=
  let s := setChip s fun c => { c with por := false, porAt := s.devtime, sinceChange := s.devtime }
  let s := fset (fset s 0 F.CHIP_STATE_BOOT_SRC bootSrc) 0 F.CHIP_STATE_SMB_ADDR smbAddr
  let s := loadFuses (setReady (fset s 0x11 F.CLK_SRC_CORE_LOCK 1) 60)
  let s := fsetb s 0x11 F.CLK_SRC_REFCLK_OK (!s.chip.perst)
  calThermal (fset (setDomState s 0 2) 1 F.BDRK1_STATUS_AWAKE 1) offsets

/-! ### Step 4: firmware -/

/-- A slot's package is valid (R329). -/
def validIn (s : State) (c : PackageCheck) : Option Nat :=
  match c with
  | .valid v => if s.chip.rollback ≤ v then some v else none
  | _ => none

/-- The first slot in the order of R308, and the other. -/
def slotOrder (s : State) (a b : PackageCheck) : (Nat × PackageCheck) × (Nat × PackageCheck) :=
  if fget s 0 F.CHIP_STATE_BOOT_SRC = 1 then ((1, b), (0, a)) else ((0, a), (1, b))

/-- The slot that Bedrock starts from, with its version and whether the first one failed. -/
def pickSlot (s : State) (a b : PackageCheck) : Option (Nat × Nat × Bool) :=
  let o := slotOrder s a b
  match validIn s o.1.2, validIn s o.2.2 with
  | some v, _ => some (o.1.1, v, false)
  | none, some v => some (o.2.1, v, true)
  | none, none => none

/-- Bedrock's firmware starts. -/
def runFirmware (s : State) (slot ver : Nat) (fallback : Bool) : State :=
  let s := fsetb (fset s 0 F.CHIP_STATE_SLOT slot) 0 F.CHIP_STATE_SLOT_FALLBACK fallback
  let s := fset (fset s 1 F.BDRK1_STATUS_AWAKE 1) 1 F.BDRK1_STATUS_ROM_ONLY 0
  modTgt (setChip s ({ · with fwRuns := true, fwVer := ver, cfgOk := true })) 64 ({ · with runs := true })

/-- Step 4 repeated in service (R331): Bedrock alone restarts, or stays in its ROM. -/
def restartFirmware (s : State) (a b : PackageCheck) : State :=
  match pickSlot s a b with
  | some (slot, v, fb) => runFirmware s slot v fb
  | none => fset s 1 F.BDRK1_STATUS_ROM_ONLY 1

/-- Steps 4 to 6: the firmware starts, the DRAM groups and Quartz are woken, and the first wave tests itself. -/
def firmwareUp (s : State) (slot ver : Nat) (fallback : Bool) : State :=
  let s := fset (runFirmware s slot ver fallback) 0 F.CHIP_STATE_PHASE 1
  let s := readyPcie (setReady (setReady s 0) 61)
  startWaves ((List.range 8).foldl (fun s i => requestWake s (49 + i)) s) [0, 1, 2]

/-! ### Step 9: the interleave, the regions and the pools -/

def rateMts (code : Nat) : Nat := [8533, 7500, 6400, 5500, 4267].getD code 4267

/-- The rate code of a channel that has trained: its group is on, and both lanes' eyes are at least 0.35 UI (R335). -/
def trainedRate (s : State) (rates : List (Option (Fin 5))) (eyes : List Nat) (ch : Nat) : Option Nat :=
  match rates.getD ch none with
  | some c =>
    let ok (i : Nat) : Bool := 350000 ≤ eyes.getD (2 * ch + i) 0 * rateMts c.val
    if domOn s (groupDom ch) && ok 0 && ok 1 then some c.val else none
  | none => none

/-- Weight of a channel under R245. -/
def ilvWeight (top : Nat) (code : Nat) : Nat := max 1 (4 * rateMts code / top)

/-- The slots in four passes (R245). -/
def ilvPasses (w : Nat → Nat) : List Nat :=
  (List.range 4).flatMap fun k => (List.range 24).filter fun ch => k < w ch

/-- Bytes of a channel by DENSITY code. -/
def channelBytes (code : Nat) : Nat := [2, 3, 4, 6, 8].getD code 8 * 2 ^ 29

/-- A channel serves, or has failed (R245, R254); its lanes' records (R335). -/
def channelTrained (s : State) (rates : List (Option Nat)) (eyes : List Nat) (density ranks ch : Nat) : State :=
  let p := dmcPage ch
  let lane (s : State) (i : Nat) (ok : Bool) : State := calRecord s (2 * ch + i) (eyes.getD (2 * ch + i) 0) ok
  let s := fset (fset s p F.DMC_STATUS_DENSITY density) p F.DMC_STATUS_RANKS2 ranks
  match rates.getD ch none with
  | some c =>
    let s := fset (fset s p F.DMC_STATUS_STATE 2) p F.DMC_STATUS_RATE c
    lane (lane (modDmc s ch ({ · with
      rate := some c, lastInt0 := s.devtime, lastInt1 := s.devtime, lastPoll := s.devtime })) 0 true) 1 true
  | none => raiseFault (lane (lane (fset s p F.DMC_STATUS_STATE 4) 0 false) 1 false) p 3 0 false

/-- Highest group with a trained channel, plus one; groups above it count as unpopulated (DESIGN CHOICE, log 51). -/
def populated (rates : List (Option Nat)) : Nat :=
  (List.range 6).foldl (fun n g => if (List.range 4).any fun i => (rates.getD (4 * g + i) none).isSome then g + 1 else n) 0

/-- An unpopulated group's domain stays off (R235). -/
def dropGroup (s : State) (g : Nat) : State :=
  setDomState ((List.range 4).foldl (fun s i => fset s (dmcPage (4 * g + i)) F.DMC_STATUS_STATE 0)
    (modDom s (51 + g) fun _ => dom0)) (51 + g) 0

/-- The interleave table, CAPACITY and CTRL_SIZE (R244, R245, R236). The size of the control region is the firmware's: a
free value of whole 2 MiB units (log 56). -/
def writeIlv (s : State) (rates : List (Option Nat)) (density : Nat) : State :=
  let top := rates.foldl (fun m c => match c with | some c => max m (rateMts c) | none => m) 1
  let w (ch : Nat) : Nat := match rates.getD ch none with | some c => ilvWeight top c | none => 0
  let l := ilvPasses w
  let rows := (List.range 24).filterMap fun ch => if w ch = 0 then none else some (channelBytes density / (w ch * 512))
  let cap := l.length * 512 * rows.foldl min (channelBytes 4)
  let s := (List.range 96).foldl (fun s i =>
    match l[i]? with
    | some ch => fset (fset s 0x60 F.DMC0_ILV_SLOT_CHANNEL ch i) 0x60 F.DMC0_ILV_SLOT_VALID 1 i
    | none => s) (fset s 0x60 F.DMC0_ILV_S_S l.length)
  let units := min (8 * cap / 9 / 2 ^ 21) 2047
  useFree (fset (qset s 0x60 F.DMC0_CAPACITY_LO_LO cap) 0x60 F.DMC0_CTRL_SIZE_BYTES
    ((1 + freeNat s % max 1 units) * 2 ^ 21))

/-- Regions 0 and 1 (R376). -/
def layRegions (s : State) : State :=
  let ctrl := ctrlSize s
  let s := fset s 0x60 F.DMC0_REGION_SIZE_SIZE (ctrl / 2 ^ 21) 0
  let s := qset s 0x60 F.DMC0_REGION_BASE_LO_LO ctrl 1
  let s := fset s 0x60 F.DMC0_REGION_SIZE_SIZE ((8 * capacity s / 9 - ctrl) / 2 ^ 21) 1
  setRegion s 1

/-- A pool that the firmware package lays out (R376): base and count are free values, and the pool is enabled where R248
accepts them and it lies within region 1. -/
def layPool (s : State) (p : Nat) : State :=
  let base := freeNat s
  let count := freeNat (useFree s)
  let s := useFree (useFree s)
  if poolRefused s p base count || base < regionBase s 1 || regionBase s 1 + regionBytes s 1 < base + count * poolSize p then s
  else
    fset (fset (qset s 0x50 F.TALUS_POOL_BASE_LO_LO base p) 0x50 F.TALUS_POOL_CTL_COUNT count p) 0x50 F.TALUS_POOL_CTL_ENABLE 1 p

/-- Device memory is ready (R309 steps 9 and 10, R311): the groups that serve, CONTEXT, and NET and SHALE are woken. -/
def memoryUp (s : State) : State :=
  let s := (List.range 8).foldl layPool (layRegions s)
  let s := (List.range 6).foldl (fun s g =>
    if (List.range 4).any fun i => dmcState s (4 * g + i) == 2 then setReady s (51 + g) else s) s
  let s := checkContextReady (setChip s ({ · with memReady := true }))
  checkBringup (requestWake (requestWake s 57) 58)

/-- Step 9 of R309. DENSITY and RANKS2 are what the board carries: free values (log 56). -/
def interleave (s : State) (rates : List (Option (Fin 5))) (eyes : List Nat) : State :=
  let tr := (List.range 24).map (trainedRate s rates eyes)
  let n := populated tr
  if n = 0 then enterSentinel s 5
  else
    let density := freeNat s % 5
    let ranks := freeNat (useFree s) % 2
    let s := useFree (useFree s)
    let s := (List.range (4 * n)).foldl (fun s ch => channelTrained s tr eyes density ranks ch) s
    let s := (List.range (6 - n)).foldl (fun s i => dropGroup s (n + i)) s
    memoryUp (writeIlv s tr density)

/-! ### Commands -/

/-- RAILS_GOOD (R292, R367): the last rail has become good; the pads leave high impedance. -/
def execRailsGood (s : State) : Host.Outcome State Fault Refusal :=
  if s.chip.rails.all id then .next s
  else
    .next { setChip (syncRails (setChip s ({ · with rails := List.replicate 11 true }))) ({ · with
              railsAt := s.devtime, padsOn := !s.chip.trip }) with
            pins := { s.pins with heartbeat := false, thermtrip := s.chip.trip } }

/-- AON_POWER_ON_RESET_RELEASE (R10, R292): VDD_AON is good, and DEVTIME starts from 0. -/
def execAonPowerOnResetRelease (s : State) : Host.Outcome State Fault Refusal :=
  if s.chip.aonUp then .next s
  else .next { setChip s ({ · with aonUp := true, railsAt := 0 }) with devtime := 0 }

/-- CHIP_POWER_ON_RESET_RELEASE (R292, R309 step 1, R337): 2 ms after the last rail, unless the trip latch holds it. -/
def execChipPowerOnResetRelease (bootSrc : Fin 4) (smbAddr : Fin 8) (offsets : List Int) (s : State) :
    Host.Outcome State Fault Refusal :=
  let c := s.chip
  if c.por && c.rails.all id && c.aonUp && !c.trip && decide (c.railsAt + 2000000 ≤ s.devtime) then
    .next (startBringup s bootSrc.val smbAddr.val offsets)
  else .next s

/-- RAIL_FAIL (R293, R370): a rail has fallen below its threshold. VDD_AON takes the AON domain and the trip latch with
it. -/
def execRailFail (rail : Fin 11) (s : State) : Host.Outcome State Fault Refusal :=
  let s := setChip s fun c => { c with rails := c.rails.set rail.val false }
  if rail.val = 3 then
    let s := powerOnReset (setChip s ({ · with aonUp := false, trip := false, railsAt := 0 }))
    .next { s with devtime := 0 }
  else .next (powerOnReset s)

/-- CHIP_RESET (R315, R367): a write of RESET_CTL with the key and CHIP. The log ring and SEQ stay (R325, log 53); the
sensors' offsets, which are measured again, are free values. -/
def execChipReset (val : Word) (bootSrc : Fin 4) (smbAddr : Fin 8) (s : State) : Host.Outcome State Fault Refusal :=
  if val.getLsbD 0 && val.toNat / 2 ^ 16 == 0x5EA7 && !s.chip.por then
    let seq := fget s 8 F.BDRK8_LOG_HEAD_SEQ
    let log := s.bdrk.log
    let keep := s.bdrk.toNor
    let s := fset (modBdrk (coldState s) ({ · with log := log, toNor := keep })) 8 F.BDRK8_LOG_HEAD_SEQ seq
    let off (i : Nat) : Int := (Config.freeValue (s.free + i) % 2 ^ 16 : Nat) - (2 ^ 15 : Int)
    .next (startBringup { s with free := s.free + 24 } bootSrc.val smbAddr.val ((List.range 24).map off))
  else .next s

/-- BEDROCK_ROM_CHECK (R309 step 2, R313): the link's domain is woken, and a failed check enters the Sentinel state. -/
def execBedrockRomCheck (r : RomCheck) (s : State) : Host.Outcome State Fault Refusal :=
  if s.chip.por || s.chip.romOk || inSentinel s then .next s
  else
    let s := requestWake s 59
    if !r.rom then .next (enterSentinel s 1)
    else if !r.fuse then .next (enterSentinel s 2)
    else if !r.core || !r.sram then .next (enterSentinel (setChip s ({ · with coreFail := !r.core })) 3)
    else .next (setChip s ({ · with romOk := true }))

/-- FIRMWARE_VERIFIED (R308, R309 step 4, R313, R331): at bring-up, or after a restart of Bedrock. -/
def execFirmwareVerified (slotA slotB : PackageCheck) (s : State) : Host.Outcome State Fault Refusal :=
  if s.chip.por || !s.chip.romOk || s.chip.fwRuns || inSentinel s then .next s
  else if readyBit s 61 then .next (restartFirmware s slotA slotB)
  else if fget s 0 F.CHIP_STATE_BOOT_SRC = 2 then .next (enterSentinel s 4)
  else
    match pickSlot s slotA slotB with
    | none => .next (enterSentinel s 4)
    | some (slot, v, fb) => .next (firmwareUp s slot v fb)

/-- A cluster is loaded and serves (R309 step 7, R333): contexts that wait resume on it. -/
def clusterServes (s : State) (q : Nat) : State :=
  let s := setCores (setCluster (setBlk s (qzPage q) true true 2) q true) q true
  let s := ctxList.foldl (fun s c => if (getCtx s c).moving then moveCtx s c q else s) s
  checkBringup (checkContextReady (setReady s (49 + q)))

/-- QUARTZ_LOADED (R309 step 7, R333). -/
def execQuartzLoaded (cluster : Fin 2) (pass : Bool) (s : State) : Host.Outcome State Fault Refusal :=
  let q := cluster.val
  if !domOn s (49 + q) || clusterUp s q || inReset s (qzPage q) || !readyBit s 61 then .next s
  else
    let first := !readyBit s (49 + q)
    let s := if first then modBdrk s fun b => { b with qzVer := b.qzVer.set q s.chip.fwVer } else s
    if pass then .next (clusterServes s q)
    else .next (checkBringup (setBlk s (qzPage q) false false 6))

/-- SELFTEST_END (R88, R168, R169): a failure is raised first, and its reaction ends before DONE is set. -/
def execSelftestEnd (kind : EngKind) (n : Fin 18) (pass : Bool) (durationUs : Nat) (s : State) :
    Host.Outcome State Fault Refusal :=
  let page := engPage kind n.val
  if testRunning s page && domOn s (domainOf page) then
    let join := (getEng s page).admitWait
    let s := setTestRunning s page false
    let s := if pass then s else raiseFault s page (faultCount page - 1) 0 false
    let s := endTest (modEng s page ({ · with admitWait := join })) page pass false durationUs
    let s := afterTest s page pass
    .next (checkBringup (if readyBit s (domainOf page) then s else engineEnded s page))
  else .next s

/-- CAL_DONE (R336): during bring-up, the next bank follows. -/
def execCalDone (bank : Fin 4) (resid : List Nat) (trim : List (List Nat)) (s : State) :
    Host.Outcome State Fault Refusal :=
  if bankState s bank.val = 1 ∧ domOn s (37 + bank.val) then
    let first := !readyBit s (37 + bank.val)
    let s := calDone s bank.val resid trim
    .next (checkBringup (if first then nextBank s else s))
  else .next s

/-- INTERLEAVE_TABLE_WRITE (R245, R309 step 9): once in each bring-up. -/
def execInterleaveTableWrite (rates : List (Option (Fin 5))) (eyes : List Nat) (s : State) :
    Host.Outcome State Fault Refusal :=
  if !readyBit s 61 || s.chip.memReady || inSentinel s then .next s else .next (interleave s rates eyes)

/-- AVS_ACK_WRITE (R294): the limit of 800 MHz is lifted. -/
def execAvsAckWrite (s : State) : Host.Outcome State Fault Refusal := .next (ackAvs s)

/-- ENG_FREQ_WRITE (R307): a step above 11 is ignored. -/
def execEngFreqWrite (val : Word) (s : State) : Host.Outcome State Fault Refusal :=
  if val.toNat % 16 ≤ 11 then .next (fset s 0x11 F.CLK_ENG_FREQ_STEP (val.toNat % 16)) else .next s

/-- ENG_CLK_RELOCK (R307). -/
def execEngClkRelock (s : State) : Host.Outcome State Fault Refusal := .next (relock s)

/-- RTC_LOSS (R305, R317): RTC_IN has stopped; with RTC_SEL = 1 the source is raised. -/
def execRtcLoss (s : State) : Host.Outcome State Fault Refusal :=
  let sel := fbit s 0x11 F.CLK_SRC_RTC_SEL
  let s := fset s 0x11 F.CLK_SRC_RTC_OK 0
  if sel then .next (raiseFault (setIrq s 0x11 4) 0x11 1 0 false) else .next s

end Sys2Proof.Machine
end

