-- ==== Sys2Proof/Machine/Owners.lean ====
section
/-! DEFINITION. Owners that leave (R55, R256, R272, R288, R312) and the PCIe link (R309, R312, R316), with the commands
FUNCTION_LEVEL_RESET, LINK_DOWN, VF_ENABLE_CHANGE, PERST_N_ASSERT, PERST_N_DEASSERT, PCIE_LINK_UP and
ASPM_L1_TRANSITION. -/

namespace Sys2Proof.Machine

/-- The ring pairs of a function return to their reset values (R55 step 1). -/
def dropRings (s : State) (fn : Nat) : State :=
  let s := { s with regs := s.regs.filter fun kv =>
    !(kv.1 / 4096 == fnPage fn && 0x200 ≤ kv.1 % 4096 && kv.1 % 4096 < 0x300) }
  syncSrc ((List.range 4).foldl (fun s n => { s with rings := tput ring0 s.rings (ringKey fn n) ring0 }) s) fn

/-- Every Talus buffer with the owner's tag is freed (R55 step 4). -/
def dropBufs (s : State) (fn : Nat) : State :=
  ((s.talus.filter fun kv => kv.2.tag == fn).map (·.1)).foldl dropBuf s

/-- The owner's channels stop and are cleared (R272). -/
def dropChans (s : State) (fn : Nat) : State := (ownedChans s fn).foldl clearChan s

/-- A context of an owner that leaves is closed as by CLOSE with IMMEDIATE = 1 (R48, R55 steps 2 and 3). A CLOSE that the
PF has sent to it completes on the PF's ring (DEDUCED, log 90). -/
def closeLeaving (s : State) (fn c : Nat) : State :=
  let pf := (getCtx s c).close.filter fun ref => ringFn ref.ring != fn
  pf.foldl (fun s ref => cmdDone s ref stOk) (freeCtx (discardWork s c) c true)

/-- Owner `fn` leaves (R55, R272, R288): its rings are reset last, with the entries that its contexts left on them. -/
def leaveOwner (s : State) (fn : Nat) : State :=
  let s := dropRings ((heldBy s fn).foldl (fun s c => closeLeaving s fn c) s) fn
  retryOutputs (emptyTarget (dropChans (dropBufs s fn) fn) fn)

/-- A function's configuration space and MSI-X table return to reset (R312; at a function level reset PRESUMED from the
PCI Express Base Specification, log 57). -/
def dropFunc (s : State) (fn : Nat) : State :=
  let s := { s with funcs := tput func0 s.funcs fn func0 }
  { s with regs := s.regs.filter fun kv =>
      if fn = 0 then !(0x180 ≤ kv.1 / 4096 && kv.1 / 4096 < 0x188)
      else !(kv.1 / 4096 == fnPage fn && 0x800 ≤ kv.1 % 4096 && kv.1 % 4096 < 0xC00) }

def dropFn (s : State) (fn : Nat) : State := dropFunc (leaveOwner s fn) fn

/-- VFs that are enabled (R256). -/
def vfsOn (s : State) : List Nat :=
  if fbit s 0x140 F.PCIE_VF_STAT_VF_EN then (List.range (fget s 0x140 F.PCIE_VF_STAT_NUM_VFS)).map (· + 1) else []

/-- The PF and every VF leave, and the VFs are gone. -/
def dropAll (s : State) : State :=
  let s := dropFn ((vfsOn s).foldl dropFn s) 0
  fset (fset s 0x140 F.PCIE_VF_STAT_VF_EN 0) 0x140 F.PCIE_VF_STAT_NUM_VFS 0

/-- A PF function level reset returns every channel to the PF (R272). -/
def chansToPf (s : State) : State := (List.range 64).foldl (fun s n => fset s 0x40 F.DMA0_CH_OWNER_OWNER 0 n) s

/-- The link goes down (R312): LINK_CHANGE is raised when it was up. -/
def linkGone (s : State) : State :=
  let up := fbit s 0x140 F.PCIE_LINK_STAT_UP
  let s := setChip (rset s 0x140 0x40 0) ({ · with linkState := .l0 })
  if up then raiseFault (setIrq (fadd s 0x140 F.PCIE_CNT_LINK_DOWN_COUNT 1) 0x140 2) 0x140 4 0 false else s

/-- The link reaches L0: WAKE_N is released (R316). -/
def releaseWake (s : State) : State := { s with pins := { s.pins with wake := false } }

/-! ### Commands -/

/-- FUNCTION_LEVEL_RESET (R55, R272, R288). -/
def execFunctionLevelReset (fn : Fin 64) (s : State) : Host.Outcome State Fault Refusal :=
  if fn.val = 0 then
    .next (setIrq (fadd (chansToPf (dropAll s)) 0x140 F.PCIE_CNT_FLR_COUNT 1) 0x140 4)
  else if (vfsOn s).contains fn.val then
    .next (setIrq (fadd (dropFn s fn.val) 0x140 F.PCIE_CNT_FLR_COUNT 1) 0x140 4)
  else .next s

/-- LINK_DOWN (R55): a hot reset or link-down; every function leaves. -/
def execLinkDown (s : State) : Host.Outcome State Fault Refusal :=
  if fbit s 0x140 F.PCIE_LINK_STAT_UP then .next (dropAll (linkGone s)) else .next s

/-- VF_ENABLE_CHANGE (R256): the VFs that are no longer enabled leave. -/
def execVfEnableChange (enable : Bool) (num : Fin 64) (s : State) : Host.Outcome State Fault Refusal :=
  if !s.chip.cfgOk then .next s
  else
    let old := vfsOn s
    let s := fset (fsetb s 0x140 F.PCIE_VF_STAT_VF_EN enable) 0x140 F.PCIE_VF_STAT_NUM_VFS num.val
    let keep := vfsOn s
    .next ((old.filter fun v => !keep.contains v).foldl dropFn s)

/-- PERST_N_ASSERT (R312): the endpoint core is reset, and every host function leaves. -/
def execPerstNAssert (s : State) : Host.Outcome State Fault Refusal :=
  let s := fset (setChip s ({ · with perst := true })) 0x11 F.CLK_SRC_REFCLK_OK 0
  .next (dropAll (linkGone s))

/-- PERST_N_DEASSERT (R306, R312): REFCLK is present, and link training begins. -/
def execPerstNDeassert (s : State) : Host.Outcome State Fault Refusal :=
  let s := setChip s ({ · with perst := false })
  .next (if s.chip.por then s else fset s 0x11 F.CLK_SRC_REFCLK_OK 1)

/-- PCIE_LINK_UP (R309 step 3, R312, R316): the link reaches L0. -/
def execPcieLinkUp (speed : Fin 6) (width : Fin 17) (s : State) : Host.Outcome State Fault Refusal :=
  if s.chip.perst || s.chip.por || !domOn s 59 || fbit s 0x140 F.PCIE_LINK_STAT_UP || speed.val = 0 then .next s
  else
    let s := fset (fset s 0x140 F.PCIE_LINK_STAT_SPEED speed.val) 0x140 F.PCIE_LINK_STAT_WIDTH width.val
    let s := releaseWake (setChip (fset s 0x140 F.PCIE_LINK_STAT_UP 1) ({ · with linkState := .l0 }))
    .next (setIrq s 0x140 2)

/-- ASPM_L1_TRANSITION (R316): the endpoint moves between L0, L1 and L1.2. -/
def execAspmL1Transition (dest : LinkState) (s : State) : Host.Outcome State Fault Refusal :=
  if !fbit s 0x140 F.PCIE_LINK_STAT_UP then .next s
  else
    let s := fsetb (setChip s ({ · with linkState := dest })) 0x140 F.PCIE_LINK_STAT_L12 (dest == .l12)
    .next (if dest = .l0 then releaseWake s else s)

end Sys2Proof.Machine
end

