-- ==== Sys2Proof/Machine/Bedrock.lean ====
section
/-! DEFINITION. Bedrock (R328–R334, R369, R370): the heartbeat, the update mailbox and MCTP, Quartz updates, the network
agent's ring and the sensors, with the commands HEARTBEAT_KICK to MAILBOX_BAD_CMD and SENSOR_SAMPLE. -/

namespace Sys2Proof.Machine

/-! ### The mailbox (R330) -/

/-- Who answers mailbox commands: firmware; the ROM in ROM_ONLY (R331) and in the Sentinel state (R314), for update
commands alone; nobody. -/
inductive Server where
  | firmware
  | rom
  | nobody
  deriving DecidableEq, Repr

def mbxServer (s : State) : Server :=
  if inSentinel s then (if s.chip.coreFail then .nobody else .rom)
  else if s.chip.fwRuns then .firmware
  else if fbit s 1 F.BDRK1_STATUS_ROM_ONLY then .rom
  else .nobody

def mbxOk : Nat := 0
def mbxBadCmd : Nat := 1
def mbxLocked : Nat := 2
def mbxVerifyFail : Nat := 3
def mbxRollback : Nat := 4
def mbxFlashErr : Nat := 5
def mbxNotReady : Nat := 6

/-- A NOR program or erase of an update command fails (R330, R338): NOR_ERR is raised, and the command ends FLASH_ERR. -/
def norFails (s : State) : State × Nat := (raiseFault s 1 2 0 false, mbxFlashErr)

/-- A command ends: through BDRK in MBX_STAT with MBX_DONE; through MCTP with a response, and ALERT_N is asserted. -/
def mbxEnd (s : State) (via : MbxVia) (tag result : Nat) : State :=
  match via with
  | .pf =>
    let s := fset (fset s 2 F.BDRK2_MBX_STAT_BUSY 0) 2 F.BDRK2_MBX_STAT_RESULT result
    setIrq (fset s 2 F.BDRK2_MBX_STAT_TAG tag) 1 2
  | .mctp => { emit s (.mctp result) with pins := { s.pins with alertN := true } }

/-- A result that the spec does not name: a free value of the seven codes (log 58). -/
def mbxFree (s : State) : State × Nat := (useFree s, freeNat s % 7)

/-- A command is begun where somebody answers it; MBX_GO is ignored while BUSY = 1. `f` gives the result. The ROM serves
the update commands (R314, R331); what it answers to others the spec does not say. -/
def mbxRun (s : State) (via : MbxVia) (tag : Nat) (update : Bool) (f : State → State × Nat) : State :=
  if via = .pf ∧ fbit s 2 F.BDRK2_MBX_STAT_BUSY then s
  else
    match mbxServer s with
    | .nobody => s
    | .rom => if update then (let r := f s; mbxEnd r.1 via tag r.2) else (let r := mbxFree s; mbxEnd r.1 via tag r.2)
    | .firmware => let r := f s; mbxEnd r.1 via tag r.2

/-- STATUS shows the lock. -/
def syncLock (s : State) : State :=
  fsetb (fsetb s 1 F.BDRK1_STATUS_UPD_LOCK s.bdrk.lock.isSome) 1 F.BDRK1_STATUS_UPD_MCTP (s.bdrk.lock == some .mctp)

def setLock (s : State) (l : Option MbxVia) : State := syncLock (modBdrk s ({ · with lock := l, lockAt := s.devtime }))

/-- Bytes of a slot (R329). -/
def slotBytes : Nat := 6 * 2 ^ 20

/-- An update command of an interface that the lock admits, or LOCKED (R330). -/
def updRun (s : State) (via : MbxVia) (tag : Nat) (f : State → State × Nat) : State :=
  mbxRun s via tag true fun s =>
    match s.bdrk.lock with
    | some h => if h = via then f (modBdrk s ({ · with lockAt := s.devtime })) else (s, mbxLocked)
    | none => f s

/-- Erase a slot. -/
def eraseSlot (s : State) (slot : Nat) : State :=
  modBdrk s fun b => { b with
    slotOf := some slot, slots := b.slots.filter fun kv => kv.1 / slotBytes ≠ slot }

/-- Byte `i` of the data buffer (R330). -/
def bufByte (s : State) (i : Nat) : Byte :=
  let o := 0x400 + i % 3072
  BitVec.ofNat 8 (rget s (4 + i / 3072) (o / 4 * 4) / 2 ^ (8 * (o % 4)))

/-- Set a byte of the data buffer. -/
def setBufByte (s : State) (i : Nat) (b : Byte) : State :=
  let o := 0x400 + i % 3072
  let p := 4 + i / 3072
  rset s p (o / 4 * 4) (splice (rget s p (o / 4 * 4)) (8 * (o % 4)) 8 b.toNat)

/-- Program bytes of the slot (R330). -/
def program (s : State) (slot off : Nat) (l : List Byte) : State :=
  let put (t : Tbl Byte) (i : Nat) : Tbl Byte := tput (0xFF : Byte) t (slot * slotBytes + off + i) (l.getD i 0)
  modBdrk s fun b => { b with slots := (List.range l.length).foldl put b.slots }

/-- UPD_DATA: a length or a range outside the slot programs nothing, and its result is a free value; where no UPD_BEGIN
has named a slot, it is a free one (log 58). -/
def updWrite (s : State) (via : MbxVia) (off len : Nat) (msg : List Byte) : State × Nat :=
  let max := if via = .pf then 12288 else 1024
  if len = 0 ∨ max < len ∨ slotBytes < off + len then mbxFree s
  else
    let l := (List.range len).map fun i => if via = .pf then bufByte s i else msg.getD i 0
    match s.bdrk.slotOf with
    | none => (program (useFree s) (freeNat s % 2) off l, mbxOk)
    | some slot => (program s slot off l, mbxOk)

/-- The result of R329 for a package. -/
def verdict (s : State) (c : PackageCheck) : Nat :=
  match c with
  | .valid v => if s.chip.rollback ≤ v then mbxOk else mbxRollback
  | .verifyFail => mbxVerifyFail
  | .rollback => mbxRollback

/-! ### Quartz updates (R332) -/

/-- A cluster that hosts nothing is verified, loaded and restarted, and the command completes. -/
def finishQz (s : State) : State :=
  match s.bdrk.qz with
  | none => s
  | some x =>
    if hostedOn s x.cluster ≠ 0 then s
    else
      let r := verdict s x.check
      let s := match x.check with
        | .valid v => if r = mbxOk then modBdrk s fun b => { b with qzVer := b.qzVer.set x.cluster v } else s
        | _ => s
      mbxEnd (setCores (modBdrk s ({ · with qz := none })) x.cluster (s.bdrk.qzUp.getD x.cluster false)) x.via x.tag r

/-- QZ_UPDATE begins. -/
def startQz (s : State) (via : MbxVia) (tag c : Nat) (check : PackageCheck) : State :=
  let s := modBdrk s ({ · with qz := some ⟨via, tag, c, check⟩ })
  finishQz (if via = .pf then fset s 2 F.BDRK2_MBX_STAT_BUSY 1 else s)

/-! ### The agent's ring (R26, R330) -/

/-- A descriptor of sixteen words. -/
def agentDesc (s : State) (via : MbxVia) (msg : List Word) : Desc :=
  ⟨(List.range 16).map fun i => if via = .pf then BitVec.ofNat 32 (rget s 4 (0x400 + 4 * i)) else msg.getD i 0,
   s.devtime⟩

/-- Copy completion entries into the data buffer. -/
def pollAgent (s : State) (count : Nat) : State :=
  let l := s.bdrk.agentCq.take count
  let bytes := l.flatMap wordBytes
  let s := (List.range bytes.length).foldl (fun s i => setBufByte s i (bytes.getD i 0)) s
  fset (modBdrk s fun b => { b with agentCq := b.agentCq.drop count }) 2 F.BDRK2_MBX_RES_P0 l.length

/-! ### Sensors (R334, R337, R364, R369, R370) -/

/-- Nominal voltage of the rails of R291, in mV. -/
def nominalMv : List Nat := [750, 800, 1000, 800, 500, 1050, 850, 1200, 850, 1200, 1800]

/-- A rail lies within ±5% of nominal (R364). Once ACK is written, the set point of VDD_CORE lies from TARGET_MV to
850 mV (DEDUCED, log 59). -/
def railOk (s : State) (i mv : Nat) : Bool :=
  let ack := i == 0 && fbit s 0x10 F.PWR_AVS_ACK
  let lo := if ack then fget s 0x10 F.PWR_AVS_TARGET_MV else nominalMv.getD i 0
  let hi := if ack then 850 else nominalMv.getD i 0
  decide (95 * lo ≤ 100 * mv) && decide (100 * mv ≤ 105 * hi)

/-- One voltage reading: a RAIL_OK bit that clears raises RAIL_WARN (R317). -/
def sampleVolt (s : State) (i mv : Nat) : State :=
  let s := fset s 3 F.BDRK3_VMON_MV mv i
  if i < 11 then
    let old := fget s 0x10 F.PWR_STAT_RAIL_OK
    let ok := railOk s i mv && s.chip.rails.getD i false
    let now := splice old i 1 (if ok then 1 else 0)
    let s := fset s 0x10 F.PWR_STAT_RAIL_OK now
    if old.testBit i && !ok then raiseFault s 0x10 2 i false else s
  else s

/-- A thermal reading after its offset; an offset beyond its limit marks the sensor invalid (R335). -/
def tempOf (s : State) (raw : Option Int) (i : Nat) : Option Int :=
  let off := s.chip.thermOff.getD i 0
  if off.natAbs ≤ 80 then raw.map (· - off) else none

def twos16 (v : Int) : Nat := (v % 65536).toNat

/-- One thermal reading: a valid sensor that stops reporting raises SENSOR_FAIL (R338). -/
def sampleTemp (s : State) (raw : Option Int) (i : Nat) : State :=
  match tempOf s raw i with
  | some t => fset (fset s 3 F.BDRK3_TEMP_VALUE (twos16 t) i) 3 F.BDRK3_TEMP_VALID 1 i
  | none =>
    let stopped := raw.isNone && fbit s 3 F.BDRK3_TEMP_VALID i
    let s := fset s 3 F.BDRK3_TEMP_VALID 0 i
    if stopped then raiseFault s 1 3 i false else s

/-- The highest valid reading. -/
def tempMax (s : State) (temps : List (Option Int)) : Option Int :=
  (List.range 24).foldl (fun m i =>
    match tempOf s (temps.getD i none) i, m with
    | some t, some u => some (max t u)
    | some t, none => some t
    | none, m => m) none

/-- LIMIT of the throttle changes (R369). -/
def setLimit (s : State) (l : Nat) : State :=
  let old := fget s 0x11 F.CLK_THROTTLE_LIMIT
  if l = old then s
  else
    let s := fset (fset s 0x11 F.CLK_THROTTLE_LIMIT l) 0x11 F.CLK_THROTTLE_ACTIVE (if l < 11 then 1 else 0)
    setIrq s 0x11 2

/-- The throttle of R369. -/
def throttle (s : State) (tmax : Option Int) : State :=
  let limit := fget s 0x11 F.CLK_THROTTLE_LIMIT
  let since := (s.devtime - s.chip.sinceChange) / 1000000
  match tmax with
  | none => setLimit s 0
  | some t =>
    if 1600 ≤ t ∧ 10 ≤ since then
      if 0 < limit then
        fadd (setChip (setLimit s (limit - 1)) ({ · with sinceChange := s.devtime })) 0x11 F.CLK_THROTTLE_CNT 1
      else s
    else if t < 1552 ∧ 100 ≤ since then
      if limit < 11 then setChip (setLimit s (limit + 1)) ({ · with sinceChange := s.devtime }) else s
    else s

/-- The trip of R370: THERMTRIP_N low, the latch set, chip power-on reset asserted; nothing is logged. -/
def thermalTrip (s : State) : State := powerOnReset (setChip s ({ · with trip := true }))

/-! ### Commands -/

/-- HEARTBEAT_KICK (R328): Bedrock firmware kicks. -/
def execHeartbeatKick (s : State) : Host.Outcome State Fault Refusal :=
  if s.chip.fwRuns then .next (modBdrk s ({ · with kick := some s.devtime })) else .next s

/-- The level may change now (R314, R328). -/
def heartbeatFree (s : State) : Bool :=
  s.devtime % 1000000 == 0 && !s.pins.stopped && !inSentinel s && !s.chip.por && s.bdrk.hbAt != some s.devtime &&
    s.bdrk.kick.any fun k => decide (s.devtime ≤ k + 10000000)

/-- HEARTBEAT_TOGGLE (R328, R368). -/
def execHeartbeatToggle (s : State) : Host.Outcome State Fault Refusal :=
  if heartbeatFree s then
    let l := !s.pins.heartbeat
    let s := { modBdrk s ({ · with hbAt := some s.devtime }) with pins := { s.pins with heartbeat := l } }
    .next (fsetb s 1 F.BDRK1_STATUS_HB_LEVEL l)
  else .next s

/-- UPD_BEGIN (R330): the slot is erased; the first one takes the lock. `fails`: the NOR does not erase. -/
def execUpdBegin (via : MbxVia) (tag : BitVec 16) (slot : Fin 2) (_size : Word) (fails : Bool) (s : State) :
    Host.Outcome State Fault Refusal :=
  .next (updRun s via tag.toNat fun s =>
    let s := setLock s (some via)
    if fails then norFails s else (eraseSlot s slot.val, mbxOk))

/-- UPD_DATA (R330). `fails`: the NOR does not program. -/
def execUpdData (via : MbxVia) (tag : BitVec 16) (offset len : Word) (msg : List Byte) (fails : Bool) (s : State) :
    Host.Outcome State Fault Refusal :=
  .next (updRun s via tag.toNat fun s => if fails then norFails s else updWrite s via offset.toNat len.toNat msg)

/-- UPD_COMMIT (R330). -/
def execUpdCommit (via : MbxVia) (tag : BitVec 16) (check : PackageCheck) (s : State) :
    Host.Outcome State Fault Refusal :=
  .next (updRun s via tag.toNat fun s => (setLock s none, verdict s check))

/-- UPD_ABORT (R330): the slot is left as written. -/
def execUpdAbort (via : MbxVia) (tag : BitVec 16) (s : State) : Host.Outcome State Fault Refusal :=
  .next (updRun s via tag.toNat fun s => (setLock s none, mbxOk))

/-- UPDATE_LOCK_TIMEOUT (R330): 10 s have passed without an update command. -/
def execUpdateLockTimeout (s : State) : Host.Outcome State Fault Refusal :=
  if s.bdrk.lock.isSome && decide (s.bdrk.lockAt + 10 * 10 ^ 9 ≤ s.devtime) then .next (setLock s none) else .next s

/-- RESTART_BEDROCK (R331). -/
def execRestartBedrock (via : MbxVia) (tag : BitVec 16) (slotA slotB : PackageCheck) (s : State) :
    Host.Outcome State Fault Refusal :=
  .next (mbxRun s via tag.toNat false fun s => (restartFirmware (bedrockStop s) slotA slotB, mbxOk))

/-- QZ_UPDATE (R332): NOT_READY unless the other cluster is in service. Beside a QZ_UPDATE that runs through the other
interface the result is a free value (log 58). -/
def execQzUpdate (via : MbxVia) (tag : BitVec 16) (cluster _slot : Fin 2) (check : PackageCheck) (s : State) :
    Host.Outcome State Fault Refusal :=
  let c := cluster.val
  if mbxServer s = .firmware ∧ clusterUp s (1 - c) ∧ s.bdrk.qz = none ∧ !(via == .pf && fbit s 2 F.BDRK2_MBX_STAT_BUSY) then
    .next (startQz s via tag.toNat c check)
  else .next (mbxRun s via tag.toNat false fun s => if clusterUp s (1 - c) then mbxFree s else (s, mbxNotReady))

/-- CONTEXT_MOVE (R332, R333): between two pictures or access units, a context moves to the other cluster. -/
def execContextMove (ctx : Fin 256) (s : State) : Host.Outcome State Fault Refusal :=
  let c := ctx.val
  let x := getCtx s c
  let due := x.moving || s.bdrk.qz.any fun q => q.cluster == x.cluster
  if ctxState s c != 0 && due && clusterUp s (1 - x.cluster) then
    .next (finishQz (modCtx s c ({ · with cluster := 1 - x.cluster, moving := false })))
  else .next s

/-- AVS_ACK (R294, R330). -/
def execAvsAck (via : MbxVia) (tag : BitVec 16) (s : State) : Host.Outcome State Fault Refusal :=
  .next (mbxRun s via tag.toNat false fun s => (ackAvs s, mbxOk))

/-- AGENT (R330): a descriptor is posted to the agent's ring. -/
def execAgent (via : MbxVia) (tag : BitVec 16) (msg : List Word) (s : State) : Host.Outcome State Fault Refusal :=
  .next (mbxRun s via tag.toNat false fun s =>
    (modBdrk s fun b => { b with agentSq := b.agentSq ++ [agentDesc s via msg] }, mbxOk))

/-- AGENT_POLL (R330): with a COUNT outside 1–64 it copies nothing, and its result is a free value (log 58). -/
def execAgentPoll (via : MbxVia) (tag : BitVec 16) (count : Word) (s : State) : Host.Outcome State Fault Refusal :=
  .next (mbxRun s via tag.toNat false fun s =>
    if count.toNat = 0 ∨ 64 < count.toNat then mbxFree s else (pollAgent s count.toNat, mbxOk))

/-- MAILBOX_BAD_CMD (R330): an OP that the table does not list. -/
def execMailboxBadCmd (via : MbxVia) (tag : BitVec 16) (s : State) : Host.Outcome State Fault Refusal :=
  .next (mbxRun s via tag.toNat true fun s => (s, mbxBadCmd))

/-- MCTP_CONTROL_MESSAGE (R330): it is answered; the spec leaves the answer to DSP0236. -/
def execMctpControlMessage (code : Byte) (s : State) : Host.Outcome State Fault Refusal :=
  if mbxServer s = .nobody then .next s else .next (emit s (.mctp code.toNat))

/-- ALERT_RESPONSE_READ (R314, R330): ALERT_N is released. -/
def execAlertResponseRead (s : State) : Host.Outcome State Fault Refusal :=
  .next { s with pins := { s.pins with alertN := false } }

/-- UART_CONSOLE_INPUT (R314): in the Sentinel state the console answers; the answer is a free value. -/
def execUartConsoleInput (_request : List Byte) (s : State) : Host.Outcome State Fault Refusal :=
  if inSentinel s && !s.chip.coreFail then .next (useFree (emit s (.uart (freeNat s)))) else .next s

/-- SENSOR_SAMPLE (R334, R369, R370): the trip comes before the throttle. -/
def execSensorSample (v : Sensors) (s : State) : Host.Outcome State Fault Refusal :=
  if s.chip.por then .next s
  else
    let tmax := tempMax s v.temps
    let s := (List.range 24).foldl (fun s i => sampleTemp s (v.temps.getD i none) i) s
    let s := match tmax with | some t => fset s 3 F.BDRK3_TEMP_MAX_VALUE (twos16 t) | none => s
    let s := (List.range 12).foldl (fun s i => sampleVolt s i (v.volts.getD i 0)) s
    let s := (List.range 11).foldl (fun s i => fset s 3 F.BDRK3_IEST_MA (v.amps.getD i 0) i) s
    if tmax.any (1840 ≤ ·) then .next (thermalTrip s) else .next (throttle s tmax)

end Sys2Proof.Machine
end

