-- ==== Sys2Proof/Machine/Perf.lean ====
section
/-! DEFINITION. Performance counters and dump records (R339–R345), with the commands DUMP_TICK, CLEAR and
DUMP_RECORD_WRITTEN. -/

namespace Sys2Proof.Machine

/-- Counters that count clock cycles or bytes of the link (R340), those of the slots apart: the model has no cycles, so their
values are free (log 60). -/
def cycleCounter (i : Nat) : Bool :=
  if i < 432 then false
  else if i < 464 then (i - 432) % 8 == 5
  else if i < 496 then (i - 464) % 4 < 2
  else if i < 592 then (i - 496) % 4 == 3
  else i == 628 || i == 629

/-- Live value of a counter, given the number of the free value it would take; reserved counters read 0. -/
def cntVal (s : State) (i f : Nat) : Nat :=
  if 640 ≤ i then 0
  else if cycleCounter i then Config.freeValue f % 2 ^ 48
  else (tget (0 : BitVec 48) s.perf.cnt i).toNat

/-- Groups enabled (R344). -/
def dumpGroups (s : State) : List Nat :=
  (List.range 40).filter fun g =>
    if g < 32 then (fget s 0x30 F.PERF0_GROUP_EN0_GROUPS).testBit g
    else (fget s 0x30 F.PERF0_GROUP_EN1_GROUPS).testBit (g - 32)

/-- The record of a tick (R344). -/
def dumpRecord (s : State) (seq : Nat) : List Byte :=
  let g := dumpGroups s
  let words := [5 + 2 ^ 8 + 2 ^ 16 * (64 + 128 * g.length), seq % 2 ^ 32, s.devtime % 2 ^ 32, s.devtime / 2 ^ 32 % 2 ^ 32,
    fget s 0x30 F.PERF0_GROUP_EN0_GROUPS, fget s 0x30 F.PERF0_GROUP_EN1_GROUPS,
    fget s 0x11 F.CLK_ENG_NOW_STEP + (if s.perf.corrupt then 2 ^ 8 else 0), min s.perf.dropped (2 ^ 32 - 1),
    0, 0, 0, 0, 0, 0, 0, 0]
  words.flatMap (leBytes 4) ++ g.flatMap fun k => (List.range 16).flatMap fun j =>
    leBytes 8 (cntVal s (16 * k + j) (s.free + 16 * k + j))

/-- A tick with room in the ring: the record is written, and RING_WR waits for its last byte (R345). -/
def startRecord (s : State) (seq : Nat) : State :=
  let s := observeSlots s
  let r := dumpRecord s seq
  let addr := qget s 0x30 F.PERF0_RING_BASE_LO_LO + r.length * fget s 0x30 F.PERF0_RING_WR_WR
  let s := putBytes s (fbit s 0x30 F.PERF0_CTL_RING_LOC) 0 addr r
  { s with free := s.free + 640, perf := { s.perf with writing := true, dropped := 0, corrupt := false } }

def dumpDue (s : State) : Bool :=
  fbit s 0x30 F.PERF0_CTL_DUMP_EN && s.devtime % (1000 * max 1 (fget s 0x30 F.PERF0_DUMP_PERIOD_US)) == 0 &&
    s.perf.lastTick != s.devtime

/-! ### Commands -/

/-- DUMP_TICK (R343–R345). -/
def execDumpTick (s : State) : Host.Outcome State Fault Refusal :=
  if !dumpDue s then .next s
  else
    let seq := s.perf.ticks
    let s := fset { s with perf := { s.perf with ticks := seq + 1, lastTick := s.devtime } } 0x30 F.PERF0_DUMP_SEQ_SEQ seq
    let full := ringFull (fget s 0x30 F.PERF0_RING_LOG2_LOG2) (fget s 0x30 F.PERF0_RING_WR_WR) (fget s 0x30 F.PERF0_RING_RD_RD)
    if full || s.perf.writing then
      let s := fadd { s with perf := { s.perf with dropped := s.perf.dropped + 1 } } 0x30 F.PERF0_CNT_DUMP_DROP_COUNT 1
      .next (setIrq s 0x30 4)
    else .next (startRecord s seq)

/-- CLEAR (R339, R343): every counter is cleared, and the slots held for items with them (DESIGN CHOICE, log 109). -/
def execPerfClear (s : State) : Host.Outcome State Fault Refusal := .next { s with perf := { s.perf with cnt := [], work := [], seen := s.devtime } }

/-- DUMP_RECORD_WRITTEN (R345): RING_WR advances, and DUMP is raised after each EVERY records. -/
def execDumpRecordWritten (s : State) : Host.Outcome State Fault Refusal :=
  if !s.perf.writing then .next s
  else
    let every := fget s 0x30 F.PERF0_DUMP_IRQ_EVERY
    let n := s.perf.since + 1
    let hit := decide (every ≠ 0 ∧ every ≤ n)
    let wr := (fget s 0x30 F.PERF0_RING_WR_WR + 1) % 2 ^ fget s 0x30 F.PERF0_RING_LOG2_LOG2
    let s := fset s 0x30 F.PERF0_RING_WR_WR wr
    let s := { s with perf := { s.perf with writing := false, since := if hit then 0 else n } }
    .next (if hit then setIrq s 0x30 2 else s)

end Sys2Proof.Machine
end

