-- ==== Sys2Proof/Machine/Power.lean ====
section
/-! DEFINITION. Power-down and wake of the switched domains (R295–R301, R303, R323), with the commands POWER_DOWN to
DOMAIN_WAKE, WAKE_FAIL and IDLE_POWER_GATE. -/

namespace Sys2Proof.Machine

/-- Blocks of a domain that interface detectors watch (R323). -/
def domainBlocks (d : Nat) : List Nat :=
  if 51 ≤ d ∧ d < 57 then (List.range 4).map fun i => dmcPage (4 * (d - 51) + i)
  else (unitOfDomain d).toList

def openShadows (s : State) (d : Nat) : State := (domainBlocks d).foldl openShadow s
def endShadows (s : State) (d : Nat) : State := (domainBlocks d).foldl endShadow s

/-- The unit of the domain is in service, or is being woken into it. -/
def unitServes (s : State) (d : Nat) : Bool :=
  (unitOfDomain d).any fun p => blkInService s p || (getEng s p).waking

/-- POWER_DOWN is refused (R297). -/
def downRefused (s : State) (d : Nat) : Bool :=
  if d = 0 ∨ d = 59 then true
  else if d < 49 then unitServes s d
  else if d < 51 then hostedOn s (d - 49) != 0
  else if d = 57 then anyPortEnabled s || (s.flows.any fun kv => kv.2.enabled) || (s.svcs.any fun kv => kv.2.enabled)
  else if d = 58 then s.queues.any fun kv => kv.2.live
  else false

/-- A channel's queues are empty. -/
def dmcQuiet (s : State) (ch : Nat) : Bool :=
  let x := getDmc s ch
  x.reads == [] && x.writes == [] && x.stalled == []

/-- The domain is quiet (R299). -/
def quiet (s : State) (d : Nat) : Bool :=
  if 37 ≤ d ∧ d < 41 then
    (getBank s (d - 37)).jobs == [] && bankState s (d - 37) != 1 && !fbit s (micaPage (d - 37)) F.MICA_STATUS_DRIFT_BUSY
  else if 51 ≤ d ∧ d < 57 then
    ((List.range 4).all fun i => dmcQuiet s (4 * (d - 51) + i)) && !(s.chans.any fun kv => (chanGroups s kv.1).contains d)
  else
    match unitOfDomain d with
    | some p => (getEng s p).held == [] && !testRunning s p
    | none => true

/-- A channel issues its owed refreshes and enters self-refresh (R241, R299). -/
def selfRefresh (s : State) (ch : Nat) : State :=
  let down (s : State) (r : Nat) : State := if 0 < owedOf s ch r then setOwed s ch r 0 else s
  let s := down (down s 0) 1
  if dmcState s ch = 2 then fset s (dmcPage ch) F.DMC_STATUS_STATE 3 else s

/-- A quiet domain passes into RAMPING. -/
def startRamp (s : State) (d : Nat) : State :=
  let s := if 51 ≤ d ∧ d < 57 then (List.range 4).foldl (fun s i => selfRefresh s (4 * (d - 51) + i)) s else s
  openShadows (setDomState s d 4) d

/-- A command of DOM_CMD begins, and BUSY is 1. -/
def beginDomCmd (s : State) (d : Nat) (down : Bool) : State :=
  fset (modDom s d ({ · with byCmd := true, down := down, cmdAt := s.devtime })) 0x10 F.PWR_DOM_CMD_BUSY 1

/-- POWER_DOWN (R297–R299). A domain that is waking drains once it is ON. -/
def powerDown (s : State) (d : Nat) : State :=
  let st := domState s d
  if st = 0 then domCmdDone s 0
  else if downRefused s d then domCmdDone s 2
  else
    let s := beginDomCmd s d true
    if st = 2 then (if quiet s d then startRamp s d else setDomState s d 3) else s

/-- A DRAM group that is not populated: its domain stays off (R235). -/
def unpopulated (s : State) (d : Nat) : Bool :=
  decide (51 ≤ d) && decide (d < 57) && s.chip.memReady && dmcState s (4 * (d - 51)) == 0

/-- POWER_UP (R298). -/
def powerUp (s : State) (d : Nat) : State :=
  if domState s d = 2 then domCmdDone (requestWake s d) 0
  else if unpopulated s d then domCmdDone s 2
  else requestWake (beginDomCmd s d false) d

/-- A write of DOM_CMD (R298): one command at a time. -/
def domCmd (s : State) (d : Nat) (run : State → State) : State :=
  if fbit s 0x10 F.PWR_DOM_CMD_BUSY then fset s 0x10 F.PWR_STAT_CMD_ERR 1
  else
    let s := fset s 0x10 F.PWR_DOM_CMD_DOMAIN d
    if 60 ≤ d then domCmdDone s 4 else run s

/-- A wake that goes ahead of others: a standby's (R296). -/
def standbyWake (s : State) (d : Nat) : Bool :=
  domState s d == 0 && (getDom s d).wakeDue && (unitOfDomain d).any fun p => (getEng s p).waking && isStandby s p

/-- The wake slot of a domain may start (R295, R296, R314). -/
def slotFree (s : State) (d : Nat) : Bool :=
  let x := getDom s d
  x.wakeDue && domState s d == 0 && (!inSentinel s || d == 59) &&
    (match s.chip.lastWake with
     | none => true
     | some t => decide (t + 1000 * fget s 0x10 F.PWR_GOV_STAGGER_US ≤ s.devtime)) &&
    (standbyWake s d || !((List.range 60).any (standbyWake s)))

/-- Twice the time of R301 in ns. -/
def wakeLimit (d : Nat) : Nat := if 51 ≤ d ∧ d < 57 then 160000 else 40000

/-- The wake of a domain failed (R301, R317): it is left off. What RESULT a POWER_UP that waited ends with the spec does
not say: a free value of the five codes. -/
def failWake (s : State) (d : Nat) : State :=
  let cmd := (getDom s d).byCmd
  let s := endShadows (modDom (setDomState s d 0) d ({ · with byCmd := false, down := false, wakeDue := false })) d
  let s := if cmd then useFree (domCmdDone s (freeNat s % 5)) else s
  raiseFault s 0x10 (if (unitOfDomain d).isSome then 0 else 1) d false

/-! ### Commands -/

/-- POWER_DOWN (R297–R299). -/
def execPowerDown (d : Fin 64) (s : State) : Host.Outcome State Fault Refusal :=
  .next (domCmd s d.val fun s => powerDown s d.val)

/-- POWER_UP (R298). -/
def execPowerUp (d : Fin 64) (s : State) : Host.Outcome State Fault Refusal :=
  .next (domCmd s d.val fun s => powerUp s d.val)

/-- DOMAIN_QUIET (R241, R299): a draining domain has become quiet. -/
def execDomainQuiet (d : Fin 60) (s : State) : Host.Outcome State Fault Refusal :=
  if domState s d.val = 3 ∧ quiet s d.val then .next (startRamp s d.val) else .next s

/-- RAMP_END (R299, R303): RAMP_US have passed; the domain is OFF, and a command that waits completes OK. -/
def execRampEnd (d : Fin 60) (s : State) : Host.Outcome State Fault Refusal :=
  let n := d.val
  let x := getDom s n
  if domState s n = 4 ∧ x.since + 1000 * fget s 0x10 F.PWR_GOV_RAMP_US ≤ s.devtime then
    let s := endShadows (modDom (setDomState s n 0) n fun y => { y with
      byCmd := y.byCmd && !y.down, down := false, regWake := false }) n
    let s := fsetb s 0x10 F.PWR_DOM_STAT_AUTO_OFF ((unitOfDomain n).any (blkInService s)) n
    let s := if n = 57 then fset s 0x11 F.CLK_SRC_SERDES_REFCLK_OK 0 else s
    .next (if x.byCmd && x.down then domCmdDone s 0 else s)
  else .next s

/-- PD_TIMEOUT_EXPIRY (R299): the request fails with BUSY, and the domain returns to ON. -/
def execPdTimeoutExpiry (d : Fin 60) (s : State) : Host.Outcome State Fault Refusal :=
  let n := d.val
  if domState s n = 3 ∧ (getDom s n).down ∧ (getDom s n).cmdAt + 1000 * fget s 0x10 F.PWR_PD_TIMEOUT_US ≤ s.devtime ∧ !quiet s n then
    .next (fadd (endDrain s n 1) 0x10 F.PWR_CNT_BUSY_COUNT 1)
  else .next s

/-- DOMAIN_WAKE (R295, R296, R301): the wake slot of a domain starts. -/
def execDomainWake (d : Fin 60) (s : State) : Host.Outcome State Fault Refusal :=
  let n := d.val
  if slotFree s n then
    let s := setDomState (modDom s n ({ · with wakeDue := false, wakeAt := s.devtime })) n 1
    let s := fset (fadd s 0x10 F.PWR_DOM_STAT_WAKES 1 n) 0x10 F.PWR_DOM_STAT_AUTO_OFF 0 n
    .next (openShadows (setChip s ({ · with lastWake := some s.devtime })) n)
  else .next s

/-- WAKE_FAIL (R301): a domain is not ON within twice its time. -/
def execWakeFail (d : Fin 60) (s : State) : Host.Outcome State Fault Refusal :=
  if domState s d.val = 1 ∧ (getDom s d.val).wakeAt + wakeLimit d.val < s.devtime then .next (failWake s d.val) else .next s

/-- IDLE_POWER_GATE (R303): a unit in service that has held no work for IDLE_PG.US is powered off by the device. -/
def execIdlePowerGate (d : Fin 60) (s : State) : Host.Outcome State Fault Refusal :=
  let n := d.val
  let us := fget s 0x10 F.PWR_IDLE_PG_US
  let x := getDom s n
  if (unitOfDomain n).any (blkInService s) && us != 0 && domState s n == 2 && quiet s n &&
      decide (max x.since x.lastUse + 1000 * us ≤ s.devtime) then
    .next (startRamp s n)
  else .next s

end Sys2Proof.Machine
end

