-- ==== Sys2Proof/Machine/Access.lean ====
section
/-! DEFINITION. Register accesses from the functions (R2–R9, R25, R258, R304, R314, R321, R350, R351): where an access
lands, what a read returns, what a write does to each register, and the commands REGISTER_WRITE to
QUANTITY_HIGHEST_WORD_WRITE, PP_LAYER_BASE_WRITE and GPIO_INPUT_CHANGE. -/

namespace Sys2Proof.Machine

/-! ### Where an access lands -/

/-- Pages that answer in the Sentinel state (R314). -/
def sentinelPage (s : State) (page : Nat) : Bool :=
  page == 0 || (1 ≤ page && page < 0x10 && !s.chip.coreFail)

/-- Page 0 of a VF's BAR0 (R258): its channel window (R261), or its function area. -/
def vfPage0 (s : State) (fn off : Nat) : Option (Nat × Nat) :=
  if off < 0x40 then none
  else if off < 0x200 then
    ((ownedChans s fn)[(off - 0x40) / 0x38]?).map fun n => (chPage n, 0x40 + 0x38 * (n % 16) + (off - 0x40) % 0x38)
  else some (fnPage fn, off)

/-- The register page and offset of an access through a function's BAR0: none where it reads 0 and ignores writes (R5,
R56, R258, R314). Pages beyond BAR0's are no register pages. The network agent's internal mapping holds the CTX pages
(R25), at the PF's numbers (DESIGN CHOICE, log 82). -/
def resolve (s : State) (fn page off : Nat) : Option (Nat × Nat) :=
  if 4096 ≤ off then none
  else if fn = 64 then if inSentinel s ∨ page < 0x400 ∨ 0x500 ≤ page then none else some (page, off)
  else if fn = 0 then
    if 0x4000 ≤ page ∨ (inSentinel s ∧ !sentinelPage s page) then none else some (page, off)
  else if !(vfsOn s).contains fn || inSentinel s then none
  else if page = 0 then vfPage0 s fn off
  else ((heldBy s fn).find? fun c => (getCtx s c).slot == page).map fun c => (ctxPage c, off)

/-- The access waits for its page's domain (R304); an access that finds the domain waking waits with it. -/
def asleep (s : State) (page : Nat) : Bool :=
  let v := domState s (domainOf page)
  v == 0 || v == 4 || v == 1

/-! ### Quantities of more than one word (R4) -/

/-- A family of wide quantities: offset of the first one's lowest word, stride, count, words. -/
structure Quant where
  off : Nat
  stride : Nat
  count : Nat
  words : Nat
  deriving DecidableEq, Repr

/-- The wide quantities of a page kind. -/
def quants : Kind → List Quant
  | .ctx => [⟨0x1F0, 0, 1, 2⟩]
  | .mica => [⟨0x058, 0, 1, 2⟩]
  | .chip => [⟨0x040, 0, 1, 2⟩]
  | .dmc => [⟨0x048, 0, 1, 2⟩, ⟨0x050, 0, 1, 2⟩, ⟨0x060, 0, 1, 2⟩]
  | .dmc0 => [⟨0x048, 0, 1, 2⟩, ⟨0x050, 0, 1, 2⟩, ⟨0x060, 0, 1, 2⟩, ⟨0x100, 0, 1, 2⟩, ⟨0x108, 0, 1, 2⟩,
      ⟨0x200, 0x10, 16, 2⟩]
  | .clk => [⟨0x060, 0, 1, 2⟩]
  | .cal => [⟨0x048, 0, 1, 2⟩]
  | .perf0 => [⟨0x050, 0, 1, 2⟩, ⟨0x078, 0, 1, 2⟩]
  | .perf1 => [⟨0x048, 0, 1, 2⟩]
  | .dmac => [⟨0x040, 0x38, 16, 2⟩, ⟨0x048, 0x38, 16, 2⟩, ⟨0x064, 0x38, 16, 2⟩, ⟨0x400, 0x38, 16, 2⟩,
      ⟨0x408, 0x38, 16, 2⟩, ⟨0x424, 0x38, 16, 2⟩]
  | .talus => [⟨0x100, 0x10, 8, 2⟩]
  | .eth => [⟨0x048, 0, 1, 2⟩, ⟨0x060, 0, 1, 4⟩]
  | .pkt2 => [⟨0x048, 0, 1, 2⟩]
  | .shale0 => [⟨0x060, 0, 1, 2⟩]
  | .shalep => [⟨0x108, 0, 1, 2⟩, ⟨0x130, 0, 1, 2⟩]
  | .pcie | .fn => [⟨0x200, 0x40, 4, 2⟩, ⟨0x208, 0x40, 4, 2⟩, ⟨0x340, 8, 8, 2⟩]
  | _ => []

/-- The quantity that holds a register: the offset of its lowest word, and its words. -/
def quantAt (page off : Nat) : Option (Nat × Nat) :=
  (quants (kindOf page)).findSome? fun q =>
    ((List.range q.count).find? fun i => q.off + q.stride * i ≤ off && off < q.off + q.stride * i + 4 * q.words).map
      fun i => (q.off + q.stride * i, q.words)

/-! ### Reads -/

/-- BLK_READY of a page (R13, R350): stored for the units that placement uses and the clusters; elsewhere it follows
the READY map of the page's domain, the channel's state, or that Bedrock or the AON rails run. -/
def blkReadyWord (s : State) (page : Nat) : Nat :=
  let word (ready inSvc : Bool) (st : Nat) : Nat := (if ready then 1 else 0) + (if inSvc then 4 else 0) + 16 * st
  let up := readyBit s (domainOf page) && !inReset s (blockPage page)
  match kindOf page with
  | .ee | .de | .mica | .ppu | .qz => rget s page 4
  | .dmc0 | .dmc | .dtrn =>
    match dmcState s (if kindOf page = .dtrn then page - 0x80 else page - 0x60) with
    | 1 => word false false 1
    | 2 | 3 => word true true 2
    | 4 => word false false 6
    | _ => 0
  | .eth => word up (up && carriesPort s (page - 0x100)) (if up then (if carriesPort s (page - 0x100) then 2 else 5) else 0)
  | _ => word up up (if up then 2 else 0)

/-- BLK_PWR (R350): the domain's state, AUTO_OFF and number. -/
def blkPwrWord (s : State) (page : Nat) : Nat :=
  let d := domainOf page
  domState s d + (if d < 60 then 8 * fget s 0x10 F.PWR_DOM_STAT_AUTO_OFF d else 0) + 2 ^ 8 * d

/-- Bits of a word from a test. -/
def bitsWord (n : Nat) (f : Nat → Bool) : Nat := ((List.range n).filter f).foldl (fun v b => v + 2 ^ b) 0

/-- VIEWk of a target (R284). -/
def viewWord (s : State) (t k : Nat) : Nat :=
  bitsWord 32 fun b =>
    let n := 32 * k + b
    (getSrc s n).pend && !(getSrc s n).inSvc && srcEnabledFor s n t

/-- STAT of a target (R286, R289). -/
def tgtStat (s : State) (t : Nat) : Nat :=
  let x := getTgt s t
  (runPrio1 x - 1) + (if x.stack = [] then 16 else 0) + 32 * x.stack.length + (if x.mismatch then 2 ^ 9 else 0) +
    (if x.full then 2 ^ 10 else 0) + (if qualifies s t then 2 ^ 11 else 0)

/-- STACKk of a target: entries 2k and 2k + 1, counted from the bottom. -/
def stackWord (s : State) (t k : Nat) : Nat :=
  let l := (getTgt s t).stack.reverse
  let half (i : Nat) : Nat := match l[i]? with
    | some (n, p) => n + 2 ^ 9 * p + 2 ^ 15
    | none => 0
  half (2 * k) + 2 ^ 16 * half (2 * k + 1)

/-- A CTX page has an enabled cause (R58). -/
def ctxCause (s : State) (c : Nat) : Bool := enabledCauses s (ctxPage c) != 0

/-- A register of the IRQ pages that is not stored. -/
def irqWord (s : State) (page off : Nat) : Option Nat :=
  if page = 0x20 then
    if 0x40 ≤ off ∧ off < 0x68 then some (bitsWord 32 fun b => (getSrc s (32 * ((off - 0x40) / 4) + b)).pend)
    else if 0x80 ≤ off ∧ off < 0xA8 then some (bitsWord 32 fun b => (getSrc s (32 * ((off - 0x80) / 4) + b)).inSvc)
    else if 0x1C0 ≤ off ∧ off < 0x1E0 then some (bitsWord 32 fun b => ctxCause s (32 * ((off - 0x1C0) / 4) + b))
    else none
  else if page < 0x28 then
    let n := irqSrcAt page off
    if 64 ≤ n ∧ n < 128 ∧ off % 0x10 = 4 then some (bitsWord 32 fun b => srcEnabledFor s n b)
    else if 64 ≤ n ∧ n < 128 ∧ off % 0x10 = 8 then some (bitsWord 32 fun b => srcEnabledFor s n (32 + b))
    else none
  else
    let t := 10 * (page - 0x28) + (off - 0x40) / 0x60
    let o := (off - 0x40) % 0x60
    if off < 0x40 ∨ 10 ≤ (off - 0x40) / 0x60 then none
    else if o < 0x28 then some (viewWord s t (o / 4))
    else if o = 0x28 then some 0x3FF
    else if o = 0x30 then some (tgtStat s t)
    else if 0x34 ≤ o ∧ o < 0x44 then some (stackWord s t ((o - 0x34) / 4))
    else none

/-- A register of a function's area that is not stored (R249, R253, R289, R260). -/
def fnWord (s : State) (fn off : Nat) : Option Nat :=
  if 0x22C ≤ off ∧ off < 0x240 then some (viewWord s fn ((off - 0x22C) / 4))
  else if 0x26C ≤ off ∧ off < 0x280 then some (viewWord s fn (5 + (off - 0x26C) / 4))
  else if off = 0x2B4 then some (tgtStat s fn)
  else if 0x340 ≤ off ∧ off < 0x380 then
    let a := qget s 0x50 F.TALUS_POOL_BASE_LO_LO ((off - 0x340) / 8)
    some (a / 2 ^ (if off % 8 = 0 then 0 else 32) % 2 ^ 32)
  else if fn ≠ 0 ∧ 0xC00 ≤ off ∧ off < 0xC08 then
    some (bitsWord 32 fun b => (getFunc s fn).pba.contains (8 * (off - 0xC00) + b))
  else none

/-- Limit of a calibration item (R335). -/
def calLimit (s : State) (i : Nat) : Nat :=
  if i < 48 then 35 * 10 ^ 6 / (100 * rateMts (fget s (dmcPage (i / 2)) F.DMC_STATUS_RATE))
  else if i < 56 then eyeLimit s
  else if i < 184 then fget s (micaPage ((i - 56) / 32)) F.MICA_RESID_LIMIT_LIMIT
  else if i < 208 then 80 else 0

/-- A register of the CAL page that CAL_SEL selects. -/
def calWord (s : State) (off : Nat) : Option Nat :=
  let i := fget s 0x12 F.CAL_CAL_SEL_ITEM
  let r := tget (0, 0, 0, false) s.bdrk.cal i
  match off with
  | 0x44 => some r.1
  | 0x48 => some (r.2.1 % 2 ^ 32)
  | 0x4C => some (r.2.1 / 2 ^ 32 % 2 ^ 32)
  | 0x50 => some (r.2.2.1 + if r.2.2.2 then 2 ^ 16 else 0)
  | 0x54 => some (calLimit s i)
  | _ => none

/-- The log entry that LOG_SEL selects (R325, R327). -/
def logWord (s : State) (k : Nat) : Nat :=
  let i := fget s 8 F.BDRK8_LOG_SEL_INDEX
  let e := if fbit s 8 F.BDRK8_LOG_SEL_NOR then tget logEntry0 s.bdrk.nor (i % 2048) else tget logEntry0 s.bdrk.log i
  (logWords e).getD k 0

/-- The model's page that holds the patterns and taps of a training helper (R246). -/
def trainPage (page : Nat) : Nat := 0x4100 + page

/-- The current value of a register (R6); reserved offsets and unassigned pages read 0 (R5). -/
def peek (s : State) (page off : Nat) : Nat :=
  if hasHeader page && off == 4 then blkReadyWord s page
  else if hasHeader page && off == 8 then blkPwrWord s page
  else
    let at_ (o : Nat) (v : Nat) : Nat := if off = o then v else rget s page off
    match kindOf page with
    | .chip =>
      if off = 0x70 then bitsWord 16 (gpioLevel s)
      else if off = 0x78 ∧ inSentinel s then 0 else rget s page off
    | .clk => if off = 0x60 then s.devtime % 2 ^ 32 else at_ 0x64 (s.devtime / 2 ^ 32 % 2 ^ 32)
    | .irq0 | .irqs | .irqt => (irqWord s page off).getD (rget s page off)
    | .pcie => (fnWord s 0 off).getD (rget s page off)
    | .fn => (fnWord s (page - 0x4000) off).getD (rget s page off)
    | .cal => (calWord s off).getD (rget s page off)
    | .bdrk8 => if 0x60 ≤ off ∧ off < 0x80 then logWord s ((off - 0x60) / 4) else rget s page off
    | .perf0 =>
      let v := cntVal s (fget s 0x30 F.PERF0_CNT_SEL_INDEX) (s.free - 1)
      if off = 0x78 then v % 2 ^ 32 else at_ 0x7C (v / 2 ^ 32)
    | .talus =>
      let p := (off - 0x100) / 0x10
      if 0x100 ≤ off ∧ off < 0x180 ∧ off % 0x10 = 0xC then poolFree s p + (if poolEcc s p then 2 ^ 24 else 0)
      else rget s page off
    | .mica =>
      at_ 0x410 ((tget [] (getBank s (bankOf page)).trims (fget s page F.MICA_TRIM_SEL_TILE)).getD
        (fget s page F.MICA_TRIM_SEL_TAP) 0)
    | .dtrn =>
      if 0x44 ≤ off ∧ off < 0x64 then rget s (trainPage page) (32 * fget s page F.DTRN_PAT_SEL_IDX + (off - 0x44))
      else at_ 0xD4 (rget s (trainPage page) (0x800 + 4 * fget s page F.DTRN_TAP_SEL_SIGNAL))
    | .shalep =>
      let p := page - 0x121
      let e := tget (0xFF, 1000000000) (getPnode s p).admin (fget s page F.SHALEP_GATE_IDX_IDX)
      if off = 0x120 then e.1 else at_ 0x124 e.2
    | .none =>
      if page = 0x188 ∧ off < 0x100 then bitsWord 32 fun b => (getFunc s 0).pba.contains (8 * off + b) else 0
    | _ => rget s page off

/-- Latch the higher words of a quantity for a function (R4). -/
def latchWords (s : State) (fn page lo words : Nat) : State :=
  let keys := (List.range words).map fun i => (fn, regKey page (lo + 4 * i))
  let vals := (List.range words).drop 1 |>.map fun i => ((fn, regKey page (lo + 4 * i)), BitVec.ofNat 32 (peek s page (lo + 4 * i)))
  { s with latched := (s.latched.filter fun kv => !keys.contains kv.1) ++ vals }

/-- Bits of a register that a read clears (R6). -/
def rcMask (page off : Nat) : Nat :=
  ((rowsAt page off).filter (·.acc == .rc)).foldl (fun m r => m ||| (2 ^ r.width - 1) * 2 ^ r.lo) 0

/-- A read that reaches its page: the value, and the state after its side effects. `bump` is what hardware adds to an
RC register in the same cycle (R7). -/
def readReg (s : State) (fn page off bump : Nat) : Nat × State :=
  let s := if kindOf page = .perf0 ∧ off / 8 = 0xF then useFree (observeSlots s) else s
  match quantAt page off with
  | some (lo, words) =>
    if off = lo then (peek s page off, latchWords s fn page lo words)
    else
      match s.latched.find? fun kv => kv.1 == (fn, regKey page off) with
      | some kv => (kv.2.toNat, s)
      | none => (peek s page off, s)
  | none =>
    let claimAt (t : Nat) : Bool := (page == 0x28 && off == 0x68 && t == 0) || (page == fnPage t && off == 0x2AC)
    let t := if page = fnPage fn then fn else 0
    if claimAt t then claim s t
    else if page = fnPage fn ∧ 0x300 ≤ off ∧ off < 0x320 then talusAlloc s ((off - 0x300) / 4) .bits fn false
    else
      let m := rcMask page off
      let v := peek s page off
      if m = 0 then (v, s) else (v, rset s page off (v - (v &&& m) + (bump &&& m)))

/-! ### Writes: the access codes of R6 -/

/-- One field of a write. -/
def writeField (open_ : Bool) (v w : Nat) (r : Row) : Nat :=
  let f := bitsOf w r.lo r.width
  let x := bitsOf v r.lo r.width
  match r.acc with
  | .rw => splice w r.lo r.width x
  | .rwx => if open_ then splice w r.lo r.width x else w
  | .w1c => splice w r.lo r.width (f - (f &&& x))
  | .w1s => splice w r.lo r.width (f ||| x)
  | _ => w

/-- The value a register takes from a write of `v` by its access codes. -/
def writtenWord (s : State) (page off v : Nat) : Nat :=
  (rowsAt page off).foldl (writeField (unlocked s page) v) (rget s page off)

/-- A write by the access codes alone. -/
def writeRows (s : State) (page off v : Nat) : State := rset s page off (writtenWord s page off v)

/-- The causes of a page's IRQ_STATUS (R350 and the chapters): EXPERT_LOCKED, FAULT and the page's own. -/
def causeMask (page : Nat) : Nat :=
  let own : List Nat :=
    match kindOf page with
    | .chip => [1, 2, 8, 9, 10, 11]
    | .bdrk1 | .pwr | .clk | .irq0 | .perf0 | .pcie | .eth | .dmc | .dmc0 | .shale0 | .de => [1, 2]
    | .perf1 | .dma0 | .dtrn => [1]
    | .dmac => (List.range 16).map (· + 1)
    | .talus => [1, 2, 3, 4, 5, 6]
    | .pkt0 => [1, 2, 3, 4]
    | .shalep | .ee | .mica => [1, 2, 3]
    | .ctx => [1, 2, 3, 4, 5]
    | _ => []
  own.foldl (fun v b => v + 2 ^ b) (1 + 2 ^ 31)

/-! ### Writes of the common header -/

/-- EXPERT_KEY (R9, R351). -/
def writeKey (s : State) (page v : Nat) : State :=
  fsetb s page F.HDR_EXPERT_KEY_UNLOCKED (v % 2 ^ 16 == 0x5EA7)

/-- The reaction fields of one FAULT_REACT register after a write (R320, R321). -/
def reactWord (s : State) (page off v : Nat) : Nat :=
  let base := if off = 0x1C then 0 else 8
  (List.range 8).foldl (fun w i =>
    let c := base + i
    let x := bitsOf v (4 * i) 4
    if c < faultCount page ∧ x ≤ 5 ∧ !(sevOf page c = 1 ∧ x < 3) then splice w (4 * i) 4 x else w) (rget s page off)

/-- A write at 0x010–0x03F of a page with the common header. -/
def writeHeader (s : State) (page off v : Nat) : State :=
  let faults := faultCount page != 0
  match off with
  | 0x10 => if faults then writeRows s page off (v % 2 ^ faultCount page) else s
  | 0x14 => if faults then rset s page off (v % 2 ^ faultCount page) else s
  | 0x18 => if faults then raiseForced s page (v % 2 ^ 16) else s
  | 0x1C | 0x20 => if faults then rset s page off (reactWord s page off v) else s
  | 0x24 => if faults ∧ v.testBit 8 then rset s page off 0 else s
  | 0x2C => syncPage (writeRows s page off v) page
  | 0x30 => syncPage (rset s page off (v &&& causeMask page)) page
  | 0x34 => setIrq s page (v &&& causeMask page)
  | 0x3C => rset s page off v
  | _ => s

/-! ### Writes of the registers with rules of their own -/

/-- The state that a command's meaning answers. -/
def ran (s : State) (o : Host.Outcome State Fault Refusal) : State :=
  match o with
  | .next t => t
  | _ => s

/-- A write that is taken only where `ok` holds. -/
def writeIf (s : State) (page off v : Nat) (ok : Bool) : State := if ok then writeRows s page off v else s

/-- A field of a write keeps its value unless `ok` holds; the other fields are written. -/
def writeKeeping (s : State) (page off v : Nat) (r : Row) (ok : Bool) : State :=
  writeRows s page off (if ok then v else splice v r.lo r.width (bitsOf (rget s page off) r.lo r.width))

/-- GPIO levels change: a rising edge sets LATCH, and the sources follow (R353). -/
def gpioChange (s : State) (f : State → State) : State :=
  let t := f s
  let up := bitsWord 16 fun i => gpioLevel t i && !gpioLevel s i
  let t := fset t 0 F.CHIP_GPIO_LATCH_LATCH (fget t 0 F.CHIP_GPIO_LATCH_LATCH ||| up)
  (List.range 16).foldl (fun t i => syncSrc t (258 + i)) t

/-- A reset through RESET_CTL (R315): the straps that it samples are free values (log 11). -/
def resetByKey (s : State) (v : Nat) : State :=
  if v.testBit 0 && v / 2 ^ 16 == 0x5EA7 then
    ran s (execChipReset (BitVec.ofNat 32 v) (Fin.ofNat 4 (freeNat s)) (Fin.ofNat 8 (freeNat (useFree s)))
      (useFree (useFree s)))
  else s

/-- The CHIP page (R167, R315, R353). -/
def writeChip (s : State) (off v : Nat) : State :=
  match off with
  | 0x50 => resetByKey s v
  | 0x74 => gpioChange s fun s => writeRows s 0 off v
  | 0x78 => if inSentinel s then s else gpioChange s fun s => writeRows s 0 off v
  | 0x7C | 0x80 => gpioChange s fun s => writeRows s 0 off v
  | 0x100 => ran s (execCapacityWrite (BitVec.ofNat 32 v) s)
  | 0x400 => writeKeeping s 0 off v F.CHIP_PLACE_XCTL_BUSY_PCT (50 ≤ bitsOf v 16 7 && bitsOf v 16 7 ≤ 100)
  | _ => writeRows s 0 off v

/-- A verdict that firmware reaches on a package the model does not hold: a free value. -/
def freeCheck (f : Nat) : PackageCheck :=
  match f % 3 with
  | 0 => .valid (f / 3 % 65)
  | 1 => .verifyFail
  | _ => .rollback

/-- MBX_GO: the command that MBX_CMD holds (R330). -/
def mailboxGo (s : State) : State :=
  let w (i : Nat) : Word := BitVec.ofNat 32 (rget s 2 (0x40 + 4 * i))
  let tag : BitVec 16 := BitVec.ofNat 16 ((w 0).toNat / 2 ^ 16)
  let fin2 (n : Nat) : Fin 2 := Fin.ofNat 2 n
  let f (i : Nat) : PackageCheck := freeCheck (Config.freeValue (s.free + i))
  let t := useFree (useFree s)
  match (w 0).toNat % 256 with
  | 1 => ran s (execUpdBegin .pf tag (fin2 (w 1).toNat) (w 2) (freeNat s % 2 == 1) (useFree s))
  | 2 => ran s (execUpdData .pf tag (w 1) (w 2) [] (freeNat s % 2 == 1) (useFree s))
  | 3 => ran s (execUpdCommit .pf tag (f 0) t)
  | 4 => ran s (execUpdAbort .pf tag s)
  | 5 => ran s (execRestartBedrock .pf tag (f 0) (f 1) t)
  | 6 => ran s (execQzUpdate .pf tag (fin2 (w 1).toNat) (fin2 ((w 1).toNat / 2 ^ 8)) (f 0) t)
  | 7 => ran s (execAvsAck .pf tag s)
  | 8 => ran s (execAgent .pf tag [] s)
  | 9 => ran s (execAgentPoll .pf tag (w 1) s)
  | _ => ran s (execMailboxBadCmd .pf tag s)

/-- The PWR page (R294, R295, R298). -/
def writePwr (s : State) (off v : Nat) : State :=
  match off with
  | 0x40 =>
    let d := v % 64
    match bitsOf v 8 2 with
    | 1 => domCmd s d fun s => powerDown s d
    | 2 => domCmd s d fun s => powerUp s d
    | _ => fset s 0x10 F.PWR_DOM_CMD_DOMAIN d
  | 0x44 => writeIf s 0x10 off v (1 ≤ v % 2 ^ 20 && v % 2 ^ 20 ≤ 1000000)
  | 0x48 =>
    let slew := bitsOf v 0 5
    if 1 ≤ slew ∧ slew ≤ 25 ∧ 2 ≤ bitsOf v 8 8 ∧ 8 ≤ bitsOf v 16 8 then writeRows s 0x10 off v
    else setIrq (fset s 0x10 F.PWR_STAT_GOV_ERR 1) 0x10 4
  | _ => writeRows s 0x10 off v

/-- The device-wide IRQ page (R275, R276, R281). -/
def writeIrq0 (s : State) (off v : Nat) : State :=
  if 0x40 ≤ off ∧ off < 0x68 then ran s (execPendWithdraw (Fin.ofNat 10 ((off - 0x40) / 4)) (BitVec.ofNat 32 v) s)
  else if off = 0x180 then ran s (execSwiTrig (BitVec.ofNat 32 v) s)
  else writeRows s 0x20 off v

/-- The registers of a source (R276, R283). -/
def writeIrqSrc (s : State) (page off v : Nat) : State :=
  let n := irqSrcAt page off
  match off % 0x10 with
  | 0x4 => if 128 ≤ n then writeRows s page off (v % 2) else s
  | 0x8 => s
  | 0xC => if 128 ≤ n then writeRows s page off (v % 2 ^ 9) else s
  | _ => writeRows s page off v

/-- STAT of a target: its two W1C bits. -/
def writeTgtStat (s : State) (t v : Nat) : State :=
  modTgt s t fun x => { x with mismatch := x.mismatch && !v.testBit 9, full := x.full && !v.testBit 10 }

def writeClaim (s : State) (t v : Nat) : State := modTgt s t ({ · with claimId := v % 1024 })

/-- The target pages (R289): CLAIM and EOI act for target 0 alone. -/
def writeIrqTgt (s : State) (page off v : Nat) : State :=
  let t := 10 * (page - 0x28) + (off - 0x40) / 0x60
  if 10 ≤ (off - 0x40) / 0x60 then s
  else
    match (off - 0x40) % 0x60 with
    | 0x28 => if t = 0 then writeClaim s 0 v else s
    | 0x2C => if t = 0 then writeEoi s 0 (v % 512) else s
    | 0x30 => writeTgtStat s t v
    | _ => s

/-- PERF page 0x030 (R339, R343). -/
def writePerf0 (s : State) (off v : Nat) : State :=
  let on := fbit s 0x30 F.PERF0_CTL_DUMP_EN
  match off with
  | 0x40 =>
    let s := if v.testBit 1 then ran s (execPerfClear s) else s
    let s := if on then s else fset s 0x30 F.PERF0_CTL_RING_LOC (bitsOf v 2 1)
    let s := fset s 0x30 F.PERF0_CTL_DUMP_EN (v % 2)
    if !on && v.testBit 0 then { s with perf := { s.perf with ticks := 0 } } else s
  | 0x44 => writeIf s 0x30 off v (!on && 10 ≤ v % 2 ^ 24 && v % 2 ^ 24 ≤ 10000000)
  | 0x48 | 0x4C => writeIf s 0x30 off v (!on)
  | 0x58 => writeIf s 0x30 off v (!on && 4 ≤ v % 32 && v % 32 ≤ 16)
  | _ => writeRows s 0x30 off v

/-- The engines' tag generators start (R346). -/
def startTags (s : State) : State :=
  (List.range 18).foldl (fun s n =>
    drawTag (modEng s (eePage n) ({ · with tagLfsr := fget s 0x31 F.PERF1_TAG_SEED_SEED ^^^ n })) (eePage n)) s

/-- PERF page 0x031 (R346, R347). -/
def writePerf1 (s : State) (off v : Nat) : State :=
  let on := fbit s 0x31 F.PERF1_TAG_CTL_EN
  match off with
  | 0x40 =>
    let s := if on then s else fset s 0x31 F.PERF1_TAG_CTL_LOC (bitsOf v 1 1)
    let s := if 4 ≤ bitsOf v 8 5 ∧ bitsOf v 8 5 ≤ 20 then fset s 0x31 F.PERF1_TAG_CTL_K (bitsOf v 8 5) else s
    let s := fset s 0x31 F.PERF1_TAG_CTL_EN (v % 2)
    if !on && v.testBit 0 then startTags s else s
  | 0x44 => writeIf s 0x31 off v (v != 0)
  | 0x50 => writeIf s 0x31 off v (!on && 4 ≤ v % 32 && v % 32 ≤ 16)
  | _ => writeRows s 0x31 off v

/-- A DMA channel page (R261, R263, R270). -/
def writeDmaCh (s : State) (page off v : Nat) : State :=
  let n := 16 * (page - 0x41) + (off - 0x40) / 0x38
  if 0x3C0 ≤ off then s
  else if (off - 0x40) % 0x38 = 0x2C then writeChCmd s n v
  else if (off - 0x40) % 0x38 < 0x2C ∧ chGet s n F.DMAC_CH_CMD_ARM = 1 then chSet s n F.DMAC_CH_STAT_CFG_ERR 1
  else writeRows s page off v

/-- The TALUS page (R248). -/
def writeTalus (s : State) (off v : Nat) : State :=
  let p := (off - 0x100) / 0x10
  if off < 0x100 ∨ 0x180 ≤ off then s
  else
    match off % 0x10 with
    | 0x8 =>
      if v.testBit 24 then ran s (execPoolEnable (Fin.ofNat 8 p) (BitVec.ofNat 32 v) s)
      else ran s (execPoolDisable (Fin.ofNat 8 p) (BitVec.ofNat 32 v) s)
    | _ => s

/-- The DMC pages (R238, R241, R242). -/
def writeDmc (s : State) (page off v : Nat) : State :=
  if off = 0x400 then
    let hi := bitsOf v 0 7
    let v := if 2 ≤ hi ∧ hi ≤ 64 ∧ bitsOf v 8 7 < hi then v else splice v 0 15 (bitsOf (rget s page off) 0 15)
    writeKeeping s page off v F.DMC_SCHED_AGE_NS (100 ≤ bitsOf v 16 16)
  else if off = 0x404 then
    let v := if bitsOf v 4 4 ≤ 8 then v else splice v 4 4 (fget s page F.DMC_REFRESH_POSTPONE_MAX)
    writeKeeping s page off v F.DMC_REFRESH_PULLIN_MAX (bitsOf v 8 4 ≤ 8)
  else if page = 0x60 ∧ 0x200 ≤ off ∧ off < 0x300 then
    let r := (off - 0x200) / 0x10
    if off % 0x10 = 0xC then
      let s := if v.testBit 2 then fset s page F.DMC0_REGION_CTL_ERR 0 r else s
      if v.testBit 0 then ran s (execRegionEnable (Fin.ofNat 16 r) s) else ran s (execRegionDisable (Fin.ofNat 16 r) s)
    else writeIf s page off v (r != 0 && !regionOn s r)
  else writeRows s page off v

/-- The DTRN pages (R246): writes are accepted only while the channel trains. -/
def writeDtrn (s : State) (page off v : Nat) : State :=
  let ch := page - 0x80
  if dmcState s ch ≠ 1 then s
  else if off = 0x64 then ran s (execTrainingRun (Fin.ofNat 24 ch) (BitVec.ofNat 32 v) s)
  else if 0x44 ≤ off ∧ off < 0x64 then
    rset s (trainPage page) (32 * fget s page F.DTRN_PAT_SEL_IDX + (off - 0x44)) v
  else if off = 0xD4 then rset s (trainPage page) (0x800 + 4 * fget s page F.DTRN_TAP_SEL_SIGNAL) (v % 1024)
  else writeRows s page off v

/-- An engine page (R87, R88, R168). RETIRE and ADMIT in one write have no effect. -/
def writeEngine (s : State) (page off v : Nat) : State :=
  let k := if isEePage page then EngKind.ee else .de
  let n : Fin 18 := Fin.ofNat 18 (if isEePage page then page - 0xA0 else page - 0xC0)
  let svc := if isEePage page then 0x54 else 0x58
  if off = svc then
    match bitsOf v 0 2 with
    | 1 => ran s (execEngineRetire k n s)
    | 2 => ran s (execEngineAdmit k n s)
    | _ => s
  else if off = svc + 4 then
    let s := writeRows s page off v
    if v.testBit 0 then ran s (execSelftestStart k n s) else s
  else if off = 0x400 then writeIf s page off v (5 ≤ v % 64 && v % 64 ≤ 50)
  else writeRows s page off v

/-- A MICA page (R105, R106, R374): a write that sets more than one bit of SVC_CTL has no effect. -/
def writeMica (s : State) (page off v : Nat) : State :=
  let b : Fin 4 := Fin.ofNat 4 (bankOf page)
  match off with
  | 0x60 =>
    match bitsOf v 0 3 with
    | 1 => ran s (execMicaRetire b s)
    | 2 => ran s (execMicaAdmit b s)
    | 4 => ran s (execCalReq b s)
    | _ => s
  | 0x400 => writeIf s page off v (1 ≤ v % 256 && v % 256 ≤ 15)
  | 0x404 => ran s (execTileMaskWrite b (BitVec.ofNat 32 v) s)
  | 0x408 => ran s (execMinTilesWrite b (BitVec.ofNat 32 v) s)
  | _ => writeRows s page off v

/-- Eye heights that a calibration at an enable measures: free values (R335). -/
def freeEyes (s : State) : List Nat := (List.range 8).map fun i => Config.freeValue (s.free + i)

/-- An ETH page (R195, R197, R198). -/
def writeEth (s : State) (page off v : Nat) : State :=
  let p := page - 0x100
  match off with
  | 0x40 =>
    if v.testBit 0 then
      ran s (execPortEnable (Fin.ofNat 8 p) (BitVec.ofNat 32 v) (freeEyes s) { s with free := s.free + 8 })
    else
      let s := writeEthCtl s p v
      if fbit s page F.ETH_CTL_ENABLE then disablePort s p else s
  | 0x50 => writeIf s page off v (1518 ≤ v % 2 ^ 14 && v % 2 ^ 14 ≤ 9216)
  | _ => writeRows s page off v

/-- The flow and service windows (R217, R218). -/
def writePkt (s : State) (page off v : Nat) : State :=
  if page = 0x110 ∧ off = 0x40 then ran s (execNetModeWrite (BitVec.ofNat 32 v) s)
  else if page = 0x110 ∧ off = 0x48 then
    match v % 4 with
    | 0 => ran s (execFlowRead s)
    | 1 => ran s (execFlowWrite s)
    | 2 => ran s (execFlowEnable s)
    | _ => ran s (execFlowDisable s)
  else if page = 0x111 ∧ off = 0x48 then
    match v % 4 with
    | 0 => ran s (execServiceRead s)
    | 1 => ran s (execServiceWrite s)
    | 2 => ran s (execServiceEnable s)
    | _ => ran s (execServiceDisable s)
  else writeRows s page off v

/-- Shale's page 0x120 (R221, R232). -/
def writeShale0 (s : State) (off v : Nat) : State :=
  match off with
  | 0x44 =>
    match v % 8 with
    | 0 => ran s (execWinRead s)
    | 1 => ran s (execWinWrite s)
    | 2 => ran s (execQueueEnable s)
    | 3 => ran s (execQueueDisable (v.testBit 3) s)
    | 4 => ran s (execQueueAlloc s)
    | 5 => ran s (execQueueFree s)
    | _ => s
  | 0x68 => writeIf s 0x120 off v (1 ≤ v % 1024 && v % 1024 ≤ 1000)
  | _ => writeRows s 0x120 off v

/-- A port page of Shale (R226, R229, R231). -/
def writeShaleP (s : State) (page off v : Nat) : State :=
  let p := page - 0x121
  let port : Fin 8 := Fin.ofNat 8 p
  if 0x40 ≤ off ∧ off < 0xD0 then writeShaper s p ((off - 0x40) / 0x10) (off % 0x10 / 4) v
  else
    match off with
    | 0x100 =>
      syncGate (writeKeeping s page off v F.SHALEP_GATE_CTL_MIN_LEAD_US
        (1 ≤ bitsOf v 8 20 && bitsOf v 8 20 ≤ 1000000)) p
    | 0x110 | 0x114 => if gatePending s p then gateErr s p else writeRows s page off v
    | 0x118 =>
      let s := writeRows s page off v
      match v % 4 with
      | 1 => ran s (execGateCommit port s)
      | 2 => ran s (execGateCancel port s)
      | _ => s
    | 0x120 | 0x124 =>
      if gatePending s p then gateErr s p
      else
        let i := fget s page F.SHALEP_GATE_IDX_IDX
        modPnode s p fun x =>
          let e := tget (0xFF, 1000000000) x.admin i
          { x with admin := tput (0xFF, 1000000000) x.admin i
                     (if off = 0x120 then (v % 256, e.2) else (e.1, v % 2 ^ 30)) }
    | _ => writeRows s page off v

/-- A function's area (R27, R31, R251, R260, R289): its rings, its target, Talus, and a VF's MSI-X table. -/
def writeFn (s : State) (fn off v : Nat) : State :=
  let page := fnPage fn
  let k := ringKey fn ((off - 0x200) / 0x40)
  let word := BitVec.ofNat 32 v
  let f : Fin 64 := Fin.ofNat 64 fn
  let ring : Fin 4 := Fin.ofNat 4 ((off - 0x200) / 0x40)
  if off = 0x2AC then writeClaim s fn v
  else if off = 0x2B0 then writeEoi s fn (v % 512)
  else if off = 0x2B4 then writeTgtStat s fn v
  else if off = 0x2F0 then syncSrc (writeRows s page off v) fn
  else if off = 0x320 then ran s (execTalusFree f word s)
  else if 0x200 ≤ off ∧ off < 0x300 then
    match off % 0x40 with
    | 0x10 => writeRingCtl s k v
    | 0x14 => ran s (execSqDoorbell f ring word s)
    | 0x1C => ran s (execCqDoorbell f ring word s)
    | 0x24 | 0x28 => writeRows s page off v
    | _ => s
  else if fn ≠ 0 ∧ 0x800 ≤ off ∧ off < 0xC00 ∧ off % 0x10 = 0xC then
    let t := writeRows s page off v
    if v.testBit 0 then t else unmask t fn (some ((off - 0x800) / 0x10))
  else writeRows s page off v

/-- The PF's MSI-X table (R260, R282). -/
def writeMsix (s : State) (page off v : Nat) : State :=
  let t := writeRows s page off v
  if off % 0x10 = 0xC ∧ !v.testBit 0 then unmask t 0 (some (256 * (page - 0x180) + off / 0x10)) else t

/-- A CTX page below the expert area: COUNT above 16 is ignored (R187, R189). -/
def writeCtx (s : State) (page off v : Nat) : State :=
  if off = 0x1F8 then writeKeeping s page off v F.CTX_PP_LAYER_CTL_COUNT (v % 32 ≤ 16) else writeRows s page off v

/-- A write of one register beyond the header, its page awake and its area open. -/
def writeOwn (s : State) (page off v : Nat) : State :=
  match kindOf page with
  | .chip => writeChip s off v
  | .bdrk1 => writeIf s page off v (off != 0x400 || 16 ≤ v % 2 ^ 16)
  | .bdrk2 => if off = 0x80 then (if v.testBit 0 then mailboxGo s else s) else writeRows s page off v
  | .pwr => writePwr s off v
  | .clk => if off = 0x40 then ran s (execEngFreqWrite (BitVec.ofNat 32 v) s) else writeRows s page off v
  | .cal => writeIf s page off v (v % 256 ≤ 207)
  | .irq0 => writeIrq0 s off v
  | .irqs => writeIrqSrc s page off v
  | .irqt => writeIrqTgt s page off v
  | .perf0 => writePerf0 s off v
  | .perf1 => writePerf1 s off v
  | .dma0 =>
    if 0x100 ≤ off ∧ off < 0x200 then
      ran s (execChOwnerWrite (Fin.ofNat 64 ((off - 0x100) / 4)) (BitVec.ofNat 32 v) s)
    else writeRows s page off v
  | .dmac => writeDmaCh s page off v
  | .talus => writeTalus s off v
  | .dmc0 | .dmc => writeDmc s page off v
  | .dtrn => writeDtrn s page off v
  | .ee | .de => writeEngine s page off v
  | .mica => writeMica s page off v
  | .ppu => writeIf s page off v (off != 0x400 || (5 ≤ v % 64 && v % 64 ≤ 50))
  | .eth => writeEth s page off v
  | .pkt0 | .pkt1 | .pkt2 => writePkt s page off v
  | .shale0 => writeShale0 s off v
  | .shalep => writeShaleP s page off v
  | .pcie => writeFn s 0 off v
  | .fn => writeFn s (page - 0x4000) off v
  | .msix => writeMsix s page off v
  | .ctx => writeCtx s page off v
  | .bdrkb | .bdrk3 | .bdrk8 => writeRows s page off v
  | .qz | .hdronly | .none => s

/-- A wide quantity does not take writes now (R27, R242, R248, R263, R343, R347, R231, R232): none where it does, else
the state after the write that is ignored. -/
def quantHeld (s : State) (page off : Nat) : Option State :=
  match kindOf page with
  | .dmc0 =>
    if 0x200 ≤ off ∧ ((off - 0x200) / 0x10 = 0 ∨ regionOn s ((off - 0x200) / 0x10)) then some s else none
  | .talus => if poolOn s ((off - 0x100) / 0x10) then some s else none
  | .perf0 => if fbit s 0x30 F.PERF0_CTL_DUMP_EN then some s else none
  | .perf1 => if fbit s 0x31 F.PERF1_TAG_CTL_EN then some s else none
  | .shale0 => if fbit s 0x120 F.SHALE0_SAMPLE_CTL_ENABLE then some s else none
  | .shalep => if gatePending s (page - 0x121) then some (gateErr s (page - 0x121)) else none
  | .dmac =>
    let n := 16 * (page - 0x41) + (off - 0x40) / 0x38
    if off < 0x3C0 ∧ chGet s n F.DMAC_CH_CMD_ARM = 1 then some (chSet s n F.DMAC_CH_STAT_CFG_ERR 1) else none
  | .pcie | .fn =>
    let k := ringKey (if page = 0x140 then 0 else page - 0x4000) ((off - 0x200) / 0x40)
    if 0x200 ≤ off ∧ off < 0x300 ∧ rfield s k F.FN_RING_CTL_ENABLE = 1 then
      some (rfieldSet s k F.FN_RING_STAT_CFG_ERR 1)
    else none
  | _ => none

/-- Stage a lower word for a function (R4). -/
def stageWord (s : State) (fn page off v : Nat) : State :=
  let key := (fn, regKey page off)
  { s with staged := (s.staged.filter fun kv => kv.1 != key) ++ [(key, BitVec.ofNat 32 v)] }

/-- Change a whole quantity by a write of its highest word (R4): the function's staged words are used up. -/
def commitQuant (s : State) (fn page lo words v : Nat) : State :=
  let keys := (List.range (words - 1)).map fun i => (fn, regKey page (lo + 4 * i))
  let s := s.staged.foldl (fun s kv =>
    if keys.contains kv.1 then writeRows s page (kv.1.2 % 4096) kv.2.toNat else s) s
  let s := { s with staged := s.staged.filter fun kv => !keys.contains kv.1 }
  writeRows s page (lo + 4 * (words - 1)) v

/-- A write of a word of a quantity. -/
def writeQuant (s : State) (fn page off lo words v : Nat) : State :=
  if (rowsAt page off).all fun r => r.acc == .ro then s
  else
    match quantHeld s page off with
    | some t => t
    | none =>
      if off + 4 < lo + 4 * words then stageWord s fn page off v else commitQuant s fn page lo words v

/-- A write through this function takes effect on this CTX page (R25): `pf` where it came through the PF's mapping. -/
def ctxWriter (s : State) (fn page off : Nat) : Bool :=
  kindOf page != .ctx ||
    (ctxState s (page - 0x400) != 0 && ctxOwner s (page - 0x400) == fn) ||
    (fn == 0 && 0x10 ≤ off && off < 0x40)

/-- A write that has reached its page. -/
def performWrite (s : State) (fn page off v : Nat) : State :=
  if !ctxWriter s fn page off then s
  else if hasHeader page && off == 0xC then writeKey s page v
  else if hasHeader page && off < 0x40 then writeHeader s page off v
  else if hasHeader page && 0x400 ≤ off && !unlocked s page then setIrq s page 1
  else
    match quantAt page off with
    | some (lo, words) => writeQuant s fn page off lo words v
    | none => writeOwn s page off v

/-! ### Accesses that meet a sleeping domain (R304) -/

/-- The access waits, and its domain is woken. -/
def parkAccess (s : State) (d : Nat) (a : PageAccess) : State :=
  let due := (getDom s d).wakeDue || domState s d == 1
  let s := modDom s d fun x => { x with accesses := x.accesses ++ [a], lastUse := s.devtime }
  if due then s else modDom (requestWake s d) d ({ · with regWake := true })

/-- A register access keeps the domain that it woke (R304). -/
def noteAccess (s : State) (page : Nat) : State :=
  let d := domainOf page
  if d < 60 ∧ (getDom s d).regWake then modDom s d ({ · with lastUse := s.devtime }) else s

/-- A 32-bit write through a function. -/
def writeVia (s : State) (fn page off v : Nat) : State :=
  match resolve s fn page off with
  | none => s
  | some (p, o) =>
    if asleep s p then parkAccess s (domainOf p) ⟨fn, page, off, 4, some (BitVec.ofNat 32 v)⟩
    else performWrite (noteAccess s p) fn p o v

/-- The bytes of a register that a read of `size` bytes at an offset returns (R3). -/
def readSlice (off size v : Nat) : Nat := v / 2 ^ (8 * (off % 4)) % 2 ^ (8 * size)

/-- A read of one, two or four bytes through a function (R3, R304: BLK_ID, BLK_READY and BLK_PWR are answered at once). A
read of fewer bytes is a read of its register, with the effects of one (DEDUCED, log 83). -/
def readVia (s : State) (fn page off size bump : Nat) : State :=
  match resolve s fn page (off / 4 * 4) with
  | none => emit s (.readData fn 0)
  | some (p, o) =>
    if asleep s p && !(hasHeader p && o < 0xC) then parkAccess s (domainOf p) ⟨fn, page, off, size, none⟩
    else
      let r := readReg (noteAccess s p) fn p o bump
      emit r.2 (.readData fn (readSlice off size r.1))

/-- A read of `size` bytes (R3): eight bytes are two 32-bit reads, lower offset first; a read that is not aligned has no
form in R3, and nothing answers it. -/
def readSized (s : State) (fn page off size bump : Nat) : State :=
  if size = 8 ∧ off % 8 = 0 then readVia (readVia s fn page off 4 bump) fn page (off + 4) 4 bump
  else if [1, 2, 4].contains size && off % size == 0 then readVia s fn page off size bump
  else s

/-- The waiting accesses of a domain are performed, in order. -/
def serveAccesses (s : State) (d : Nat) : State :=
  let l := (getDom s d).accesses
  l.foldl (fun s a =>
    match a.write with
    | some v => writeVia s a.fn a.page a.off v.toNat
    | none => readVia s a.fn a.page a.off a.size 0) (modDom s d ({ · with accesses := [] }))

/-! ### Commands -/

/-- REGISTER_WRITE (R3, R5, R6): a 64-bit access is two 32-bit ones, lower offset first; a byte or halfword write, or one
that is not aligned, has no effect. -/
def execRegisterWrite (fn : Fin 65) (page off size : Nat) (val : BitVec 64) (s : State) :
    Host.Outcome State Fault Refusal :=
  let v := val.toNat
  if size = 4 ∧ off % 4 = 0 then .next (writeVia s fn.val page off (v % 2 ^ 32))
  else if size = 8 ∧ off % 8 = 0 then
    .next (writeVia (writeVia s fn.val page off (v % 2 ^ 32)) fn.val page (off + 4) (v / 2 ^ 32))
  else .next s

/-- EXPERT_KEY_WRITE (R9, R25, R351). -/
def execExpertKeyWrite (fn : Fin 65) (page : Nat) (val : Word) (s : State) : Host.Outcome State Fault Refusal :=
  .next (writeVia s fn.val page 0xC val.toNat)

/-- RC_FIELD_READ (R3, R6, R7). -/
def execRcFieldRead (fn : Fin 65) (page off size : Nat) (bump : Word) (s : State) :
    Host.Outcome State Fault Refusal :=
  .next (readSized s fn.val page off size bump.toNat)

/-- QUANTITY_LOW_WORD_READ (R3, R4). -/
def execQuantityLowWordRead (fn : Fin 65) (page off size : Nat) (s : State) : Host.Outcome State Fault Refusal :=
  .next (readSized s fn.val page off size 0)

/-- QUANTITY_LOWER_WORD_WRITE (R4). -/
def execQuantityLowerWordWrite (fn : Fin 65) (page off : Nat) (val : Word) (s : State) :
    Host.Outcome State Fault Refusal :=
  .next (writeVia s fn.val page (off / 4 * 4) val.toNat)

/-- QUANTITY_HIGHEST_WORD_WRITE (R4). -/
def execQuantityHighestWordWrite (fn : Fin 65) (page off : Nat) (val : Word) (s : State) :
    Host.Outcome State Fault Refusal :=
  .next (writeVia s fn.val page (off / 4 * 4) val.toNat)

/-- PP_LAYER_BASE_WRITE (R189): a write of the upper word of PP_LAYER_BASE makes the whole base live. -/
def execPpLayerBaseWrite (fn : Fin 65) (page : Nat) (val : Word) (s : State) : Host.Outcome State Fault Refusal :=
  .next (writeVia s fn.val page 0x1F4 val.toNat)

/-- GPIO_INPUT_CHANGE (R353): a level that two samples agree on. -/
def execGpioInputChange (i : Fin 16) (level : Bool) (s : State) : Host.Outcome State Fault Refusal :=
  let bit := BitVec.ofNat 16 (2 ^ i.val)
  .next (gpioChange s fun s =>
    { s with pins := { s.pins with gpio := if level then s.pins.gpio ||| bit else s.pins.gpio &&& ~~~bit } })

end Sys2Proof.Machine
end

