-- ==== Sys2Proof/Machine/Wake.lean ====
section
/-! DEFINITION. What a domain does when it is ON, and accesses to pages whose domain is off (R300–R304), with the
commands DOMAIN_ON, OFF_PAGE_ACCESS and OFF_PAGE_IDLE. -/

namespace Sys2Proof.Machine

/-- A channel of a waking DRAM group leaves self-refresh, and owes nothing (R241, R301). -/
def channelOn (s : State) (ch : Nat) : State :=
  let s := setOwed (setOwed s ch 0 0) ch 1 0
  let s := if dmcState s ch = 3 then fset s (dmcPage ch) F.DMC_STATUS_STATE 2 else s
  modDmc s ch ({ · with lastInt0 := s.devtime, lastInt1 := s.devtime })

/-- What stands on a domain wakes with it: DRAM channels, NET's SerDes reference, a unit that was called into service. -/
def contentsOn (s : State) (d : Nat) : State :=
  let s := if 51 ≤ d ∧ d < 57 then (List.range 4).foldl (fun s i => channelOn s (4 * (d - 51) + i)) s else s
  let s := if d = 57 then fset s 0x11 F.CLK_SRC_SERDES_REFCLK_OK 1 else s
  match unitOfDomain d with
  | some p => if (getEng s p).waking then enterService s p else s
  | none => s

/-- A DOM_CMD that waits for the wake (R298): POWER_UP is done; POWER_DOWN begins its drain. -/
def wakeCmd (s : State) (d : Nat) : State :=
  let x := getDom s d
  if !x.byCmd then s
  else if x.down then (if quiet s d then startRamp s d else setDomState s d 3)
  else domCmdDone (modDom s d ({ · with byCmd := false })) 0

/-- A standby whose call into service was taken back while its domain woke powers off again (R165, R167); one that software or a
register access woke stays. -/
def standbyOff (s : State) (d : Nat) (byCmd : Bool) : State :=
  match unitOfDomain d with
  | some p =>
    if isStandby s p && !testRunning s p && !(getDom s d).regWake && !byCmd then deviceOff s p else s
  | none => s

/-- The domain reaches ON (R298–R304). -/
def domainServes (s : State) (d : Nat) : State :=
  let byCmd := (getDom s d).byCmd
  let s := endShadows (setDomState s d 2) d
  let s := bringupOn (contentsOn s d) d
  let s := s.chans.foldl (fun s kv => unwait s kv.1) (unparkAll s)
  standbyOff (wakeCmd (serveAccesses (modDom s d ({ · with lastUse := s.devtime })) d) d) d byCmd

/-- Nothing holds a domain on that a register access woke (R304). -/
def regIdle (s : State) (d : Nat) : Bool :=
  (getDom s d).regWake && domState s d == 2 && decide ((getDom s d).lastUse + 10000 ≤ s.devtime)

/-! ### Commands -/

/-- DOMAIN_ON (R301). -/
def execDomainOn (d : Fin 60) (s : State) : Host.Outcome State Fault Refusal :=
  if domState s d.val = 1 then .next (domainServes s d.val) else .next s

/-- OFF_PAGE_ACCESS (R304): an access that may find its page's domain off. -/
def execOffPageAccess (fn : Fin 65) (page off : Nat) (write : Option Word) (s : State) :
    Host.Outcome State Fault Refusal :=
  match write with
  | some v => .next (writeVia s fn.val page (off / 4 * 4) v.toNat)
  | none => .next (readVia s fn.val page (off / 4 * 4) 4 0)

/-- OFF_PAGE_IDLE (R304): 10 µs after the last access the domain powers off without a drain; where the access started
work, it stays on. -/
def execOffPageIdle (d : Fin 60) (s : State) : Host.Outcome State Fault Refusal :=
  let n := d.val
  if !regIdle s n then .next s
  else if quiet s n then .next (startRamp (modDom s n ({ · with regWake := false })) n)
  else .next (modDom s n ({ · with regWake := false }))

end Sys2Proof.Machine
end

