-- ==== Sys2Proof/Machine/Dispatch.lean ====
section
/-! DEFINITION. The dispatcher: one arm per command of the block, each one direct call of that command's meaning. -/

namespace Sys2Proof.Machine

/-- The effect of a command on everything but the queue. -/
def exec (i : Instr) (s : State) : Host.Outcome State Fault Refusal :=
  match i with
  | .registerWrite fn page off size val => Sys2Proof.Machine.execRegisterWrite fn page off size val s
  | .expertKeyWrite fn page val => Sys2Proof.Machine.execExpertKeyWrite fn page val s
  | .rcFieldRead fn page off size bump => Sys2Proof.Machine.execRcFieldRead fn page off size bump s
  | .quantityLowWordRead fn page off size => Sys2Proof.Machine.execQuantityLowWordRead fn page off size s
  | .quantityLowerWordWrite fn page off val => Sys2Proof.Machine.execQuantityLowerWordWrite fn page off val s
  | .quantityHighestWordWrite fn page off val => Sys2Proof.Machine.execQuantityHighestWordWrite fn page off val s
  | .sqDoorbell fn ring val => Sys2Proof.Machine.execSqDoorbell fn ring val s
  | .cqDoorbell fn ring val => Sys2Proof.Machine.execCqDoorbell fn ring val s
  | .ringReset fn ring => Sys2Proof.Machine.execRingReset fn ring s
  | .ringEnable fn ring val => Sys2Proof.Machine.execRingEnable fn ring val s
  | .ringDisable fn ring val => Sys2Proof.Machine.execRingDisable fn ring val s
  | .commandFetch own ring host => Sys2Proof.Machine.execCommandFetch own ring host s
  | .cqEntryWrite own ring => Sys2Proof.Machine.execCqEntryWrite own ring s
  | .ringHoldExpiry fn ring => Sys2Proof.Machine.execRingHoldExpiry fn ring s
  | .ringLinkErr fn ring read => Sys2Proof.Machine.execRingLinkErr fn ring read s
  | .opOpen own ring => Sys2Proof.Machine.execOpOpen own ring s
  | .opConfigure own ring => Sys2Proof.Machine.execOpConfigure own ring s
  | .opStart own ring => Sys2Proof.Machine.execOpStart own ring s
  | .opSubmit own ring la au => Sys2Proof.Machine.execOpSubmit own ring la au s
  | .opFlush own ring => Sys2Proof.Machine.execOpFlush own ring s
  | .opReconfig own ring => Sys2Proof.Machine.execOpReconfig own ring s
  | .opForceKey own ring => Sys2Proof.Machine.execOpForceKey own ring s
  | .opSetRate own ring => Sys2Proof.Machine.execOpSetRate own ring s
  | .opLink own ring => Sys2Proof.Machine.execOpLink own ring s
  | .opBind own ring => Sys2Proof.Machine.execOpBind own ring s
  | .opQuery own ring => Sys2Proof.Machine.execOpQuery own ring s
  | .opClose own ring => Sys2Proof.Machine.execOpClose own ring s
  | .undefinedOpcode own ring => Sys2Proof.Machine.execUndefinedOpcode own ring s
  | .pictureEnterCoding ctx => Sys2Proof.Machine.execPictureEnterCoding ctx s
  | .functionLevelReset fn => Sys2Proof.Machine.execFunctionLevelReset fn s
  | .linkDown => Sys2Proof.Machine.execLinkDown s
  | .vfEnableChange enable num => Sys2Proof.Machine.execVfEnableChange enable num s
  | .placeWork kind => Sys2Proof.Machine.execPlaceWork kind s
  | .segmentFirstCtu ee => Sys2Proof.Machine.execSegmentFirstCtu ee s
  | .codingUnitCoded ee upset tag => Sys2Proof.Machine.execCodingUnitCoded ee upset tag s
  | .ctuRowComplete ee => Sys2Proof.Machine.execCtuRowComplete ee s
  | .segmentReturn ee upset => Sys2Proof.Machine.execSegmentReturn ee upset s
  | .searchJobIssue seg => Sys2Proof.Machine.execSearchJobIssue seg s
  | .searchJobComplete bank seg codes => Sys2Proof.Machine.execSearchJobComplete bank seg codes s
  | .searchWaitExpiry seg => Sys2Proof.Machine.execSearchWaitExpiry seg s
  | .searchDeadlineFallback seg => Sys2Proof.Machine.execSearchDeadlineFallback seg s
  | .stageWatchdogExpiry page heldUs detail => Sys2Proof.Machine.execStageWatchdogExpiry page heldUs detail s
  | .selftestStart kind n => Sys2Proof.Machine.execSelftestStart kind n s
  | .selftestEnd kind n pass durationUs => Sys2Proof.Machine.execSelftestEnd kind n pass durationUs s
  | .engineRetire kind n => Sys2Proof.Machine.execEngineRetire kind n s
  | .engineAdmit kind n => Sys2Proof.Machine.execEngineAdmit kind n s
  | .engineDrained kind n => Sys2Proof.Machine.execEngineDrained kind n s
  | .capacityWrite val => Sys2Proof.Machine.execCapacityWrite val s
  | .verifyJobComplete de upset fault => Sys2Proof.Machine.execVerifyJobComplete de upset fault s
  | .verifyWaive seg => Sys2Proof.Machine.execVerifyWaive seg s
  | .boundaryJobComplete seg upset => Sys2Proof.Machine.execBoundaryJobComplete seg upset s
  | .overloadWindow w => Sys2Proof.Machine.execOverloadWindow w s
  | .shedUndo => Sys2Proof.Machine.execShedUndo s
  | .driftCheck bank resid => Sys2Proof.Machine.execDriftCheck bank resid s
  | .calReq bank => Sys2Proof.Machine.execCalReq bank s
  | .micaRetire bank => Sys2Proof.Machine.execMicaRetire bank s
  | .micaAdmit bank => Sys2Proof.Machine.execMicaAdmit bank s
  | .calDone bank resid trim => Sys2Proof.Machine.execCalDone bank resid trim s
  | .tileMaskWrite bank val => Sys2Proof.Machine.execTileMaskWrite bank val s
  | .minTilesWrite bank val => Sys2Proof.Machine.execMinTilesWrite bank val s
  | .decodePartComplete de => Sys2Proof.Machine.execDecodePartComplete de s
  | .accessUnitTimeout ctx au => Sys2Proof.Machine.execAccessUnitTimeout ctx au s
  | .ppuJobIssue dst bus failed => Sys2Proof.Machine.execPpuJobIssue dst bus failed s
  | .ppuJobComplete ppu => Sys2Proof.Machine.execPpuJobComplete ppu s
  | .ppLayerBaseWrite fn page val => Sys2Proof.Machine.execPpLayerBaseWrite fn page val s
  | .netModeWrite val => Sys2Proof.Machine.execNetModeWrite val s
  | .portEnable port val eyes => Sys2Proof.Machine.execPortEnable port val eyes s
  | .linkChange port up => Sys2Proof.Machine.execLinkChange port up s
  | .anDone port fec => Sys2Proof.Machine.execAnDone port fec s
  | .frameReceive port f => Sys2Proof.Machine.execFrameReceive port f s
  | .packetRelease flow ts => Sys2Proof.Machine.execPacketRelease flow ts s
  | .flowRead => Sys2Proof.Machine.execFlowRead s
  | .flowWrite => Sys2Proof.Machine.execFlowWrite s
  | .flowEnable => Sys2Proof.Machine.execFlowEnable s
  | .flowDisable => Sys2Proof.Machine.execFlowDisable s
  | .serviceRead => Sys2Proof.Machine.execServiceRead s
  | .serviceWrite => Sys2Proof.Machine.execServiceWrite s
  | .serviceEnable => Sys2Proof.Machine.execServiceEnable s
  | .serviceDisable => Sys2Proof.Machine.execServiceDisable s
  | .psiRepeat svc => Sys2Proof.Machine.execPsiRepeat svc s
  | .muxPacketSlot svc => Sys2Proof.Machine.execMuxPacketSlot svc s
  | .audioDrop svc => Sys2Proof.Machine.execAudioDrop svc s
  | .datagramFlush svc => Sys2Proof.Machine.execDatagramFlush svc s
  | .storeMove svc => Sys2Proof.Machine.execStoreMove svc s
  | .ptpMessage m => Sys2Proof.Machine.execPtpMessage m s
  | .announceReceiptTimeout => Sys2Proof.Machine.execAnnounceReceiptTimeout s
  | .membershipReport flow => Sys2Proof.Machine.execMembershipReport flow s
  | .winRead => Sys2Proof.Machine.execWinRead s
  | .winWrite => Sys2Proof.Machine.execWinWrite s
  | .queueEnable => Sys2Proof.Machine.execQueueEnable s
  | .queueDisable flush => Sys2Proof.Machine.execQueueDisable flush s
  | .queueAlloc => Sys2Proof.Machine.execQueueAlloc s
  | .queueFree => Sys2Proof.Machine.execQueueFree s
  | .queueDrained q => Sys2Proof.Machine.execQueueDrained q s
  | .ageDrop q => Sys2Proof.Machine.execAgeDrop q s
  | .refillTick node => Sys2Proof.Machine.execRefillTick node s
  | .shaperWrite port shaper word val => Sys2Proof.Machine.execShaperWrite port shaper word val s
  | .portFrameStart port => Sys2Proof.Machine.execPortFrameStart port s
  | .gateCommit port => Sys2Proof.Machine.execGateCommit port s
  | .gateCancel port => Sys2Proof.Machine.execGateCancel port s
  | .gateSwap port => Sys2Proof.Machine.execGateSwap port s
  | .gateEntryChange port => Sys2Proof.Machine.execGateEntryChange port s
  | .sampleTick failed => Sys2Proof.Machine.execSampleTick failed s
  | .sampleSwap => Sys2Proof.Machine.execSampleSwap s
  | .dramRequest bar2 addr data => Sys2Proof.Machine.execDramRequest bar2 addr data s
  | .dramIssue ch openRows errs => Sys2Proof.Machine.execDramIssue ch openRows errs s
  | .refreshInterval ch rank => Sys2Proof.Machine.execRefreshInterval ch rank s
  | .refreshIssue ch rank => Sys2Proof.Machine.execRefreshIssue ch rank s
  | .mr4Poll ch code hot => Sys2Proof.Machine.execMr4Poll ch code hot s
  | .regionEnable r => Sys2Proof.Machine.execRegionEnable r s
  | .regionDisable r => Sys2Proof.Machine.execRegionDisable r s
  | .initDone r => Sys2Proof.Machine.execInitDone r s
  | .interleaveTableWrite rates eyes => Sys2Proof.Machine.execInterleaveTableWrite rates eyes s
  | .trainingRun ch val => Sys2Proof.Machine.execTrainingRun ch val s
  | .runDone ch errs => Sys2Proof.Machine.execRunDone ch errs s
  | .poolEnable p val => Sys2Proof.Machine.execPoolEnable p val s
  | .poolDisable p val => Sys2Proof.Machine.execPoolDisable p val s
  | .talusAlloc fn p => Sys2Proof.Machine.execTalusAlloc fn p s
  | .talusFree fn handle => Sys2Proof.Machine.execTalusFree fn handle s
  | .chOwnerWrite ch val => Sys2Proof.Machine.execChOwnerWrite ch val s
  | .dmaArm fn ch => Sys2Proof.Machine.execDmaArm fn ch s
  | .dmaAbort fn ch => Sys2Proof.Machine.execDmaAbort fn ch s
  | .promotion ch => Sys2Proof.Machine.execPromotion ch s
  | .dmaBurst ch host err => Sys2Proof.Machine.execDmaBurst ch host err s
  | .dmaStatusWrite ch => Sys2Proof.Machine.execDmaStatusWrite ch s
  | .irqDelivery => Sys2Proof.Machine.execIrqDelivery s
  | .claimRead t port => Sys2Proof.Machine.execClaimRead t port s
  | .eoi t val => Sys2Proof.Machine.execEoi t val s
  | .pendWithdraw k val => Sys2Proof.Machine.execPendWithdraw k val s
  | .swiTrig val => Sys2Proof.Machine.execSwiTrig val s
  | .holdoffExpiry g => Sys2Proof.Machine.execHoldoffExpiry g s
  | .msixUnmask fn vector => Sys2Proof.Machine.execMsixUnmask fn vector s
  | .powerDown d => Sys2Proof.Machine.execPowerDown d s
  | .powerUp d => Sys2Proof.Machine.execPowerUp d s
  | .domainQuiet d => Sys2Proof.Machine.execDomainQuiet d s
  | .rampEnd d => Sys2Proof.Machine.execRampEnd d s
  | .pdTimeoutExpiry d => Sys2Proof.Machine.execPdTimeoutExpiry d s
  | .domainWake d => Sys2Proof.Machine.execDomainWake d s
  | .domainOn d => Sys2Proof.Machine.execDomainOn d s
  | .wakeFail d => Sys2Proof.Machine.execWakeFail d s
  | .idlePowerGate d => Sys2Proof.Machine.execIdlePowerGate d s
  | .offPageAccess fn page off write => Sys2Proof.Machine.execOffPageAccess fn page off write s
  | .offPageIdle d => Sys2Proof.Machine.execOffPageIdle d s
  | .railsGood => Sys2Proof.Machine.execRailsGood s
  | .chipPowerOnResetRelease bootSrc smbAddr offsets => Sys2Proof.Machine.execChipPowerOnResetRelease bootSrc smbAddr offsets s
  | .aonPowerOnResetRelease => Sys2Proof.Machine.execAonPowerOnResetRelease s
  | .railFail rail => Sys2Proof.Machine.execRailFail rail s
  | .avsAckWrite => Sys2Proof.Machine.execAvsAckWrite s
  | .engFreqWrite val => Sys2Proof.Machine.execEngFreqWrite val s
  | .engClkRelock => Sys2Proof.Machine.execEngClkRelock s
  | .rtcLoss => Sys2Proof.Machine.execRtcLoss s
  | .pcieLinkUp speed width => Sys2Proof.Machine.execPcieLinkUp speed width s
  | .firmwareVerified slotA slotB => Sys2Proof.Machine.execFirmwareVerified slotA slotB s
  | .perstNAssert => Sys2Proof.Machine.execPerstNAssert s
  | .perstNDeassert => Sys2Proof.Machine.execPerstNDeassert s
  | .chipReset val bootSrc smbAddr => Sys2Proof.Machine.execChipReset val bootSrc smbAddr s
  | .faultRaise page src detail => Sys2Proof.Machine.execFaultRaise page src detail s
  | .faultForce page val => Sys2Proof.Machine.execFaultForce page val s
  | .faultFirstClear page => Sys2Proof.Machine.execFaultFirstClear page s
  | .blockResetEnd page => Sys2Proof.Machine.execBlockResetEnd page s
  | .shadowClose page => Sys2Proof.Machine.execShadowClose page s
  | .logEntryWrite => Sys2Proof.Machine.execLogEntryWrite s
  | .logEntryClose => Sys2Proof.Machine.execLogEntryClose s
  | .logNorCopy => Sys2Proof.Machine.execLogNorCopy s
  | .heartbeatKick => Sys2Proof.Machine.execHeartbeatKick s
  | .heartbeatToggle => Sys2Proof.Machine.execHeartbeatToggle s
  | .updBegin via tag slot size fails => Sys2Proof.Machine.execUpdBegin via tag slot size fails s
  | .updData via tag offset len msg fails => Sys2Proof.Machine.execUpdData via tag offset len msg fails s
  | .updCommit via tag check => Sys2Proof.Machine.execUpdCommit via tag check s
  | .updAbort via tag => Sys2Proof.Machine.execUpdAbort via tag s
  | .updateLockTimeout => Sys2Proof.Machine.execUpdateLockTimeout s
  | .restartBedrock via tag slotA slotB => Sys2Proof.Machine.execRestartBedrock via tag slotA slotB s
  | .qzUpdate via tag cluster slot check => Sys2Proof.Machine.execQzUpdate via tag cluster slot check s
  | .contextMove ctx => Sys2Proof.Machine.execContextMove ctx s
  | .avsAck via tag => Sys2Proof.Machine.execAvsAck via tag s
  | .agent via tag msg => Sys2Proof.Machine.execAgent via tag msg s
  | .agentPoll via tag count => Sys2Proof.Machine.execAgentPoll via tag count s
  | .mctpControlMessage code => Sys2Proof.Machine.execMctpControlMessage code s
  | .alertResponseRead => Sys2Proof.Machine.execAlertResponseRead s
  | .sensorSample v => Sys2Proof.Machine.execSensorSample v s
  | .dumpTick => Sys2Proof.Machine.execDumpTick s
  | .perfClear => Sys2Proof.Machine.execPerfClear s
  | .gpioInputChange n level => Sys2Proof.Machine.execGpioInputChange n level s
  | .bedrockRomCheck r => Sys2Proof.Machine.execBedrockRomCheck r s
  | .quartzLoaded cluster pass => Sys2Proof.Machine.execQuartzLoaded cluster pass s
  | .msixEnableChange fn msix busMaster => Sys2Proof.Machine.execMsixEnableChange fn msix busMaster s
  | .aspmL1Transition dest => Sys2Proof.Machine.execAspmL1Transition dest s
  | .uartConsoleInput request => Sys2Proof.Machine.execUartConsoleInput request s
  | .mailboxBadCmd via tag => Sys2Proof.Machine.execMailboxBadCmd via tag s
  | .dumpRecordWritten => Sys2Proof.Machine.execDumpRecordWritten s

end Sys2Proof.Machine
end

