-- ==== Sys2Proof/Machine/Step.lean ====
section
/-! DEFINITION. One step of the block: the command at the front of the queue, or one tick of DEVTIME on an empty
queue. -/

namespace Sys2Proof.Machine

/-- One nanosecond of DEVTIME passes while the always-on domain is up (R10; DESIGN CHOICE, log 4). -/
def tick (s : State) : State :=
  if s.chip.aonUp then { s with devtime := s.devtime + 1 } else s

/-- Take the command at the front of the queue and run it with the queue's rest; on an empty queue time passes. -/
def step (s : State) : Host.Outcome State Fault Refusal :=
  match s.pending with
  | [] => .next (tick s)
  | c :: rest => exec c { s with pending := rest }

/-- `s` with the command that a table word spells at the front of its queue. No row of the table has bits, so no
word spells one and `s` is unchanged. -/
def State.withFetchWord (s : State) (nbits w : Nat) : State :=
  match decodeTableWord nbits w with
  | some c => { s with pending := c :: s.pending }
  | none => s

end Sys2Proof.Machine
end

