-- ==== Sys2Proof/Safety.lean ====
section
/-! DEFINITION. What the statements call a good state, and what a command keeps: the register file and device memory in
canonical form, so that equal contents are equal data, and the fields that it does not write. -/

namespace Sys2Proof.Machine

/-- The register file is in canonical form: addresses strictly rising, no register listed at its reset value. -/
def regsWf (s : State) : Bool := twf regDefault s.regs

/-- The invariant of the block's stored contents. -/
structure Inv (s : State) : Prop where
  regs : regsWf s = true
  mem  : Memory.wf s.mem = true

/-- The fields of State that a command may change: all but the queue. -/
inductive StateField where
  | free | devtime | regs | staged | latched | mem | poison | rings | ctxs | engines | banks
  | disp | talus | dmcs | chans | srcs | tgts | holdoff | funcs | doms | chip | flows
  | svcs | ptp | queues | snodes | pnodes | store | dgCount | bdrk | perf | pins | out
  deriving DecidableEq, Repr

/-- What an operation that writes at most the fields `w` keeps from `s` to `t`: the queue and every other field, and the
canonical form of registers and device memory. -/
structure Keeps (w : List StateField) (s t : State) : Prop where
  pending : t.pending = s.pending
  free : .free ∉ w → t.free = s.free
  devtime : .devtime ∉ w → t.devtime = s.devtime
  regs : .regs ∉ w → t.regs = s.regs
  staged : .staged ∉ w → t.staged = s.staged
  latched : .latched ∉ w → t.latched = s.latched
  mem : .mem ∉ w → t.mem = s.mem
  poison : .poison ∉ w → t.poison = s.poison
  rings : .rings ∉ w → t.rings = s.rings
  ctxs : .ctxs ∉ w → t.ctxs = s.ctxs
  engines : .engines ∉ w → t.engines = s.engines
  banks : .banks ∉ w → t.banks = s.banks
  disp : .disp ∉ w → t.disp = s.disp
  talus : .talus ∉ w → t.talus = s.talus
  dmcs : .dmcs ∉ w → t.dmcs = s.dmcs
  chans : .chans ∉ w → t.chans = s.chans
  srcs : .srcs ∉ w → t.srcs = s.srcs
  tgts : .tgts ∉ w → t.tgts = s.tgts
  holdoff : .holdoff ∉ w → t.holdoff = s.holdoff
  funcs : .funcs ∉ w → t.funcs = s.funcs
  doms : .doms ∉ w → t.doms = s.doms
  chip : .chip ∉ w → t.chip = s.chip
  flows : .flows ∉ w → t.flows = s.flows
  svcs : .svcs ∉ w → t.svcs = s.svcs
  ptp : .ptp ∉ w → t.ptp = s.ptp
  queues : .queues ∉ w → t.queues = s.queues
  snodes : .snodes ∉ w → t.snodes = s.snodes
  pnodes : .pnodes ∉ w → t.pnodes = s.pnodes
  store : .store ∉ w → t.store = s.store
  dgCount : .dgCount ∉ w → t.dgCount = s.dgCount
  bdrk : .bdrk ∉ w → t.bdrk = s.bdrk
  perf : .perf ∉ w → t.perf = s.perf
  pins : .pins ∉ w → t.pins = s.pins
  out : .out ∉ w → t.out = s.out
  memWf : Memory.wf s.mem = true → Memory.wf t.mem = true
  regsWf : Machine.regsWf s = true → Machine.regsWf t = true

/-- A step is safe where it answers a state, and does not stop. -/
def Safe (o : Host.Outcome State Fault Refusal) : Prop := ∃ t, o = .next t

end Sys2Proof.Machine
end

