-- ==== Sys2Proof/Certificates/Slice0/Obligations.lean ====
section
/-! DEFINITION. The statements for the provers. `Does c s P`: command `c` answers a next state from `s`, and `P` holds of
it. -/

namespace Sys2Proof.Machine

/-- Command `c` answers a next state from `s`, of which `P` holds. -/
def Does (c : Instr) (s : State) (P : State → Prop) : Prop := ∃ t, exec c s = .next t ∧ P t

/-- Every register keeps its stored value, but those at the page offsets that `hit` names. -/
def SameRegs (s t : State) (hit : Nat → Nat → Prop) : Prop :=
  ∀ page off, off < 4096 → ¬hit page off → rget t page off = rget s page off

/-- Every byte of device memory reads as before. -/
def SameMem (s t : State) : Prop := ∀ a, memRead t a = memRead s a

/-- One completion entry more on the ring of a command, with these words (R35); `after`: what must be written before it, of
a SUBMIT (R29, R45). -/
def Completed (s t : State) (ref : CmdRef) (status i0 i1 i2 : Nat) (after : Option Turn := none) : Prop :=
  (getRing t ref.ring).comps =
    (getRing s ref.ring).comps ++
      [⟨status, 0, ref.tag, ref.ctx, ref.gen, ref.op, s.devtime, i0, i1, i2, false, after⟩]

/-- A command of ring `k` with opcode `op` can begin (R28), and from the state `u` in which it has begun it passes
checks 1 to 4 of R40. -/
def Begins (s : State) (own ring op : Nat) (d : Desc) (ref : CmdRef) (u : State) : Prop :=
  beginCmd s (ringKey own ring) (· == op) = some (d, ref, u) ∧ checkCmd u own d = none

/-- No output of any context waits for a Talus buffer (R36). -/
def NoneWait (s : State) : Prop := ∀ c, (getCtx s c).outWait = []

/-- Context `c` holds no work, no command that waits, no old reservation and no link to a destination. -/
def Idle (s : State) (c : Nat) : Prop :=
  let x := getCtx s c
  x.submits = [] ∧ x.queued = [] ∧ x.plan = [] ∧ x.pics = [] ∧ x.decs = [] ∧ x.linkPics = [] ∧ x.forced = [] ∧
    x.reconf = none ∧ x.setRate = none ∧ x.flush = none ∧ x.close = [] ∧ x.oldMem = [] ∧ linkDsts s c = []

/-- Segment `x` is `g` of picture `p`, the only one in coding of a RUNNING context, which commits under GUARD PICTURE
once every segment has cleared (R170); another segment still runs, so that nothing commits yet. -/
def Waits (s : State) (x : SegId) (p : Pic) (g : Seg) : Prop :=
  findSeg s x = some (p, g) ∧ (getCtx s x.ctx).pics = [p] ∧ p.sent = false ∧ p.done = false ∧ p.guardLv = 3 ∧
    (∃ i h, i ≠ x.seg ∧ p.segs[i]? = some h ∧ h.phase = .running) ∧ (getCtx s x.ctx).oldMem = [] ∧
    ctxState s x.ctx = 3

/-- Segment `x` is `h` afterwards, in some picture. -/
def Becomes (s t : State) (x : SegId) (h : Seg) : Prop := (∃ q, findSeg t x = some (q, h)) ∧ t.mem = s.mem

/-- The fields of State that a command may change, whatever state it meets. -/
def mayWrite : Instr → List StateField
  | .shadowClose .. | .logEntryClose | .logNorCopy | .heartbeatKick => [.bdrk]
  | .msixEnableChange .. => [.funcs]
  | .mctpControlMessage .. => [.out]
  | .perfClear => [.perf]
  | .alertResponseRead => [.pins]
  | .sqDoorbell .. | .cqDoorbell .. | .ringReset .. | .ringEnable .. | .ringDisable .. | .ringLinkErr ..
  | .netModeWrite .. | .flowRead | .serviceRead | .winRead | .gateCancel .. | .gateEntryChange .. | .sampleSwap
  | .trainingRun .. | .avsAckWrite | .engFreqWrite .. | .faultFirstClear .. =>
    [.regs]
  | .opQuery .. | .undefinedOpcode .. => [.rings]
  | .pendWithdraw .. | .swiTrig .. => [.srcs]
  | .psiRepeat .. | .audioDrop .. => [.svcs]
  | .aonPowerOnResetRelease => [.devtime, .chip]
  | .membershipReport .. => [.flows, .out]
  | .uartConsoleInput .. => [.free, .out]
  | .updateLockTimeout => [.regs, .bdrk]
  | .perstNDeassert => [.regs, .chip]
  | .refreshInterval .. | .refreshIssue .. => [.regs, .dmcs]
  | .selftestStart .. => [.regs, .doms]
  | .flowWrite => [.regs, .flows]
  | .holdoffExpiry .. => [.regs, .holdoff]
  | .shaperWrite .. => [.regs, .pnodes]
  | .queueEnable | .queueAlloc | .queueFree | .queueDrained .. => [.regs, .queues]
  | .linkChange .. | .anDone .. | .gateCommit .. | .runDone .. | .poolDisable .. | .chOwnerWrite ..
  | .engClkRelock =>
    [.regs, .srcs]
  | .serviceWrite | .serviceEnable | .serviceDisable => [.regs, .svcs]
  | .portEnable .. => [.free, .regs, .bdrk]
  | .refillTick .. => [.queues, .snodes, .pnodes]
  | .heartbeatToggle => [.regs, .bdrk, .pins]
  | .dmaArm .. | .dmaAbort .. | .promotion .. => [.regs, .chans, .doms]
  | .railsGood | .aspmL1Transition .. => [.regs, .chip, .pins]
  | .shedUndo => [.regs, .ctxs, .disp]
  | .msixUnmask .. => [.regs, .funcs, .out]
  | .regionEnable .. => [.regs, .mem, .poison]
  | .winWrite => [.regs, .queues, .snodes]
  | .queueDisable .. => [.regs, .queues, .store]
  | .commandFetch .. => [.regs, .rings, .bdrk]
  | .opStart .. | .opForceKey .. | .opSetRate .. | .opLink .. | .opBind .. => [.regs, .rings, .ctxs]
  | .ringHoldExpiry .. => [.regs, .rings, .srcs]
  | .logEntryWrite => [.regs, .srcs, .bdrk]
  | .powerUp .. | .pdTimeoutExpiry .. => [.regs, .srcs, .doms]
  | .dumpRecordWritten => [.regs, .srcs, .perf]
  | .gpioInputChange .. => [.regs, .srcs, .pins]
  | .gateSwap .. => [.regs, .srcs, .pnodes]
  | .announceReceiptTimeout => [.regs, .srcs, .ptp]
  | .eoi .. => [.regs, .srcs, .tgts]
  | .poolEnable .. => [.regs, .talus, .srcs]
  | .ptpMessage .. => [.free, .regs, .srcs, .ptp]
  | .overloadWindow .. => [.regs, .ctxs, .disp, .srcs]
  | .micaAdmit .. => [.regs, .ctxs, .srcs, .doms]
  | .initDone .. => [.regs, .dmcs, .srcs, .doms]
  | .ageDrop .. => [.regs, .queues, .store, .perf]
  | .opOpen .. => [.regs, .rings, .ctxs, .srcs]
  | .pcieLinkUp .. => [.regs, .srcs, .chip, .pins]
  | .rampEnd .. => [.regs, .srcs, .doms, .bdrk]
  | .claimRead .. => [.regs, .srcs, .tgts, .out]
  | .avsAck .. | .mailboxBadCmd .. => [.free, .regs, .srcs, .pins, .out]
  | .calReq .. | .micaRetire .. | .tileMaskWrite .. | .minTilesWrite .. => [.regs, .ctxs, .banks, .srcs, .doms]
  | .powerDown .. | .domainQuiet .. | .idlePowerGate .. | .offPageIdle .. => [.regs, .dmcs, .srcs, .doms, .bdrk]
  | .dramRequest .. => [.regs, .dmcs, .srcs, .doms, .out]
  | .frameReceive .. => [.regs, .flows, .ptp, .perf, .out]
  | .sampleTick .. => [.regs, .mem, .srcs, .doms, .queues]
  | .regionDisable .. => [.regs, .poison, .dmcs, .srcs, .doms]
  | .domainWake .. => [.regs, .srcs, .doms, .chip, .bdrk]
  | .talusAlloc .. => [.regs, .talus, .srcs, .perf, .out]
  | .dumpTick => [.free, .regs, .mem, .srcs, .perf, .out]
  | .updCommit .. | .updAbort .. | .agent .. | .agentPoll .. => [.free, .regs, .srcs, .bdrk, .pins, .out]
  | .chipPowerOnResetRelease .. => [.free, .regs, .srcs, .doms, .chip, .bdrk]
  | .searchJobIssue .. => [.regs, .ctxs, .banks, .srcs, .doms, .perf]
  | .engineRetire .. | .engineAdmit .. | .engineDrained .. | .capacityWrite .. =>
    [.regs, .engines, .disp, .srcs, .doms, .bdrk]
  | .dmaBurst .. => [.regs, .mem, .chans, .doms, .perf, .out]
  | .dmaStatusWrite .. => [.regs, .mem, .chans, .srcs, .doms, .out]
  | .irqDelivery => [.regs, .srcs, .holdoff, .funcs, .pins, .out]
  | .flowEnable => [.regs, .talus, .srcs, .flows, .perf, .out]
  | .segmentFirstCtu .. => [.free, .regs, .ctxs, .engines, .srcs, .doms, .perf]
  | .qzUpdate .. => [.free, .regs, .srcs, .tgts, .bdrk, .pins, .out]
  | .searchWaitExpiry .. | .searchDeadlineFallback .. => [.regs, .ctxs, .banks, .disp, .srcs, .doms, .perf]
  | .contextMove .. => [.regs, .ctxs, .srcs, .tgts, .bdrk, .pins, .out]
  | .opConfigure .. | .opReconfig .. | .talusFree .. => [.regs, .mem, .rings, .ctxs, .talus, .srcs, .perf]
  | .muxPacketSlot .. | .datagramFlush .. => [.regs, .srcs, .svcs, .queues, .store, .dgCount, .perf]
  | .portFrameStart .. => [.free, .regs, .queues, .snodes, .pnodes, .store, .perf, .out]
  | .placeWork .. => [.free, .regs, .rings, .ctxs, .engines, .srcs, .doms, .perf]
  | .restartBedrock .. => [.free, .regs, .srcs, .tgts, .chip, .bdrk, .pins, .out]
  | .searchJobComplete .. => [.regs, .mem, .ctxs, .banks, .disp, .srcs, .doms, .perf]
  | .cqEntryWrite .. => [.regs, .mem, .rings, .talus, .srcs, .bdrk, .pins, .out]
  | .blockResetEnd .. => [.free, .regs, .ctxs, .engines, .banks, .disp, .srcs, .doms, .bdrk]
  | .codingUnitCoded .. => [.free, .regs, .mem, .ctxs, .engines, .srcs, .doms, .perf, .out]
  | .flowDisable => [.regs, .mem, .rings, .ctxs, .talus, .srcs, .flows, .perf, .out]
  | .bedrockRomCheck .. => [.free, .regs, .engines, .banks, .dmcs, .srcs, .doms, .chip, .bdrk, .pins, .out]
  | .quartzLoaded .. => [.free, .regs, .ctxs, .engines, .banks, .disp, .srcs, .tgts, .doms, .chip, .bdrk, .perf]
  | .firmwareVerified .. => [.free, .regs, .engines, .banks, .dmcs, .srcs, .tgts, .doms, .chip, .bdrk, .pins, .out]
  | .opSubmit .. | .ppuJobIssue .. | .ppuJobComplete .. =>
    [.free, .regs, .mem, .rings, .ctxs, .engines, .banks, .disp, .talus, .srcs, .doms, .perf]
  | .pictureEnterCoding .. =>
    [.free, .regs, .mem, .rings, .ctxs, .engines, .banks, .talus, .srcs, .doms, .svcs, .perf]
  | .accessUnitTimeout .. =>
    [.free, .regs, .mem, .rings, .ctxs, .engines, .banks, .disp, .talus, .srcs, .doms, .flows, .perf]
  | .opFlush .. | .opClose .. =>
    [.free, .regs, .mem, .rings, .ctxs, .engines, .banks, .disp, .talus, .srcs, .doms, .svcs, .perf]
  | .ctuRowComplete .. =>
    [.free, .regs, .mem, .rings, .ctxs, .engines, .banks, .talus, .srcs, .doms, .svcs, .perf, .out]
  | .packetRelease .. =>
    [.free, .regs, .mem, .rings, .ctxs, .engines, .banks, .disp, .talus, .srcs, .doms, .flows, .svcs, .perf]
  | .boundaryJobComplete .. =>
    [.free, .regs, .mem, .rings, .ctxs, .engines, .banks, .disp, .talus, .srcs, .doms, .svcs, .bdrk, .perf]
  | .verifyWaive .. =>
    [.free, .regs, .mem, .rings, .ctxs, .engines, .banks, .disp, .talus, .srcs, .doms, .svcs, .perf, .out]
  | .segmentReturn .. =>
    [.free, .regs, .mem, .rings, .ctxs, .engines, .banks, .disp, .talus, .srcs, .doms, .svcs, .bdrk, .perf,
      .out]
  | .storeMove .. =>
    [.free, .regs, .mem, .rings, .ctxs, .engines, .banks, .talus, .srcs, .doms, .svcs, .queues, .store, .perf,
      .out]
  | .functionLevelReset .. | .vfEnableChange .. =>
    [.free, .regs, .mem, .rings, .ctxs, .engines, .banks, .disp, .talus, .chans, .srcs, .tgts, .funcs, .doms,
      .svcs, .perf]
  | .stageWatchdogExpiry .. | .selftestEnd .. | .driftCheck .. | .calDone .. | .wakeFail .. | .rtcLoss
  | .faultRaise .. | .faultForce .. =>
    [.free, .regs, .staged, .latched, .ctxs, .engines, .banks, .disp, .chans, .srcs, .tgts, .holdoff, .doms,
      .chip, .flows, .queues, .pnodes, .store, .bdrk, .perf, .pins]
  | .updBegin .. | .updData .. =>
    [.free, .regs, .staged, .latched, .ctxs, .engines, .banks, .disp, .chans, .srcs, .tgts, .holdoff, .doms,
      .chip, .flows, .queues, .pnodes, .store, .bdrk, .perf, .pins, .out]
  | .mr4Poll .. =>
    [.free, .regs, .staged, .latched, .ctxs, .engines, .banks, .disp, .dmcs, .chans, .srcs, .tgts, .holdoff,
      .doms, .chip, .flows, .queues, .pnodes, .store, .bdrk, .perf, .pins]
  | .verifyJobComplete .. | .decodePartComplete .. =>
    [.free, .regs, .staged, .latched, .mem, .rings, .ctxs, .engines, .banks, .disp, .talus, .chans, .srcs,
      .tgts, .holdoff, .doms, .chip, .svcs, .pnodes, .bdrk, .perf, .out]
  | .dramIssue .. | .interleaveTableWrite .. =>
    [.free, .regs, .staged, .latched, .mem, .poison, .ctxs, .engines, .banks, .disp, .dmcs, .chans, .srcs,
      .tgts, .holdoff, .doms, .chip, .flows, .queues, .pnodes, .store, .bdrk, .perf, .pins, .out]
  | .linkDown | .perstNAssert =>
    [.free, .regs, .staged, .latched, .mem, .rings, .ctxs, .engines, .banks, .disp, .talus, .chans, .srcs,
      .tgts, .holdoff, .funcs, .doms, .chip, .flows, .svcs, .queues, .pnodes, .store, .bdrk, .perf, .pins]
  | .railFail .. =>
    [.devtime, .regs, .staged, .latched, .mem, .poison, .rings, .ctxs, .engines, .banks, .disp, .talus, .dmcs,
      .chans, .srcs, .tgts, .holdoff, .funcs, .doms, .chip, .flows, .svcs, .ptp, .queues, .snodes, .pnodes,
      .store, .dgCount, .bdrk, .perf, .pins]
  | .chipReset .. | .sensorSample .. =>
    [.free, .regs, .staged, .latched, .mem, .poison, .rings, .ctxs, .engines, .banks, .disp, .talus, .dmcs,
      .chans, .srcs, .tgts, .holdoff, .funcs, .doms, .chip, .flows, .svcs, .ptp, .queues, .snodes, .pnodes,
      .store, .dgCount, .bdrk, .perf, .pins]
  | .registerWrite .. | .expertKeyWrite .. | .rcFieldRead .. | .quantityLowWordRead .. | .quantityLowerWordWrite ..
  | .quantityHighestWordWrite .. | .ppLayerBaseWrite .. | .domainOn .. | .offPageAccess .. =>
    [.free, .regs, .staged, .latched, .mem, .poison, .rings, .ctxs, .engines, .banks, .disp, .talus, .dmcs,
      .chans, .srcs, .tgts, .holdoff, .funcs, .doms, .chip, .flows, .svcs, .ptp, .queues, .snodes, .pnodes,
      .store, .dgCount, .bdrk, .perf, .pins, .out]

/-- A mailbox command that came in through `via` with `tag` has ended with result `r` (R330): MBX_STAT shows it, or an
MCTP response leaves and ALERT_N is asserted. -/
def Answered (via : MbxVia) (tag : BitVec 16) (r : Nat) (t : State) : Prop :=
  match via with
  | .pf => fbit t 2 F.BDRK2_MBX_STAT_BUSY = false ∧ fget t 2 F.BDRK2_MBX_STAT_RESULT = r ∧
      fget t 2 F.BDRK2_MBX_STAT_TAG = tag.toNat ∧ (fget t 1 F.HDR_IRQ_STATUS_CAUSE).testBit 1 = true
  | .mctp => t.out.head? = some (.mctp r) ∧ t.pins.alertN = true

/-- Firmware answers mailbox commands, and none through `via` is BUSY (R330). -/
def Open (s : State) (via : MbxVia) : Prop :=
  mbxServer s = .firmware ∧ (via = .pf → fbit s 2 F.BDRK2_MBX_STAT_BUSY = false)

/-- How many tiles of a bank a calibration with these residuals leaves enabled (R105). -/
def goodTiles (s : State) (b : Nat) (resid : List Nat) : Nat :=
  ((List.range 32).filter fun i =>
    !tileFails s b (resid.getD i 0) && !(fget s (micaPage b) F.MICA_TILE_MASK_MASK).testBit i).length

/-- An access of a function to a page offset reaches register `o` of page `p`, whose domain serves. -/
def Lands (s : State) (fn page off p o : Nat) : Prop := resolve s fn page off = some (p, o) ∧ asleep s p = false

end Sys2Proof.Machine

open Sys2Proof Sys2Proof.Machine

/-- A step runs the command at the front of the queue (spec/95_what_each_step_holds). -/
def Obligations.StepRunsTheFrontCommand : Prop :=
  (∀ (c : Instr) (rest : List Instr) (s : State),
    step { s with pending := c :: rest } = exec c { s with pending := rest }) ∧
  ∀ s : State, s.pending = [] →
    step s = .next (if s.chip.aonUp then { s with devtime := s.devtime + 1 } else s)

/-- The state right after reset is well formed (R8, R355). -/
def Obligations.ResetIsInvariant : Prop :=
  Inv State.reset ∧ State.reset.pending = [] ∧
  ∀ page off, rget State.reset page off = (regDefault (regKey page off)).toNat

/-- Every step keeps registers and device memory in canonical form (R3, R8, R236). -/
def Obligations.EveryStepKeepsTheInvariant : Prop :=
  ∀ s t : State, Inv s → step s = .next t → Inv t

/-- Only DRAM_REQUEST stops; every other command answers a next state in every state, and changes no field of State but
those of `mayWrite` (spec/95_what_each_step_holds). -/
def Obligations.EveryCommandAnswers : Prop :=
  ∀ (c : Instr) (s : State),
    (∃ t, exec c s = .next t ∧ Keeps (mayWrite c) s t) ∨
    ((∃ bar2 addr data, c = .dramRequest bar2 addr data) ∧ exec c s = .fault .noSuchAccess)

/-- Doorbells: an index in range moves the tail or the head, any other sets DB_ERR (R27). -/
def Obligations.DoorbellsMoveTheRings : Prop :=
  ∀ (fn : Fin 64) (ring : Fin 4) (val : Word) (s : State),
    (let k := ringKey fn ring
     let i := val.toNat % 4096
     let tail := rfield s k F.FN_RING_SQ_TAIL_TAIL
     let ok := i < sqSlots s k ∧ ringDist (sqSlots s k) tail i ≤ sqSlots s k - 1 - sqCount s k
     Does (.sqDoorbell fn ring val) s fun t =>
       rfield t k F.FN_RING_SQ_TAIL_TAIL = (if ok then i else tail) ∧
       (¬ok → rfield t k F.FN_RING_STAT_DB_ERR = 1) ∧ t = { s with regs := t.regs } ∧
       SameRegs s t fun page off => page = fnPage fn ∧ (off = 0x214 + 0x40 * ring ∨ off = 0x228 + 0x40 * ring)) ∧
    (let k := ringKey fn ring
     let i := val.toNat % 4096
     let head := rfield s k F.FN_RING_CQ_HEAD_HEAD
     let ok := i < cqSlots s k ∧ ringDist (cqSlots s k) head i ≤ cqUsed s k
     Does (.cqDoorbell fn ring val) s fun t =>
       rfield t k F.FN_RING_CQ_HEAD_HEAD = (if ok then i else head) ∧
       (¬ok → rfield t k F.FN_RING_STAT_DB_ERR = 1) ∧ t = { s with regs := t.regs } ∧
       SameRegs s t fun page off => page = fnPage fn ∧ (off = 0x21C + 0x40 * ring ∨ off = 0x228 + 0x40 * ring))

/-- RING_RESET, RING_ENABLE, RING_DISABLE, RING_HOLD_EXPIRY and RING_LINK_ERR on the ring's registers (R27, R31,
R32). -/
def Obligations.RingControl : Prop :=
  ∀ (fn : Fin 64) (ring : Fin 4) (val : Word) (s : State),
    let k := ringKey fn ring
    let cfg := fun t : State => (rfield t k F.FN_RING_CTL_SQ_LOC, rfield t k F.FN_RING_CTL_CQ_LOC,
      rfield t k F.FN_RING_CTL_SQ_LOG2, rfield t k F.FN_RING_CTL_CQ_LOG2)
    let v := val.toNat
    let here := fun page off : Nat => page = fnPage fn ∧ 0x200 + 0x40 * ring ≤ off ∧ off < 0x22C + 0x40 * ring
    (rfield s k F.FN_RING_CTL_ENABLE = 1 → Does (.ringReset fn ring) s fun t => t = s) ∧
    (rfield s k F.FN_RING_CTL_ENABLE = 0 → Does (.ringReset fn ring) s fun t =>
      rfield t k F.FN_RING_SQ_TAIL_TAIL = 0 ∧ rfield t k F.FN_RING_SQ_HEAD_HEAD = 0 ∧
      rfield t k F.FN_RING_CQ_HEAD_HEAD = 0 ∧ rfield t k F.FN_RING_CQ_TAIL_TAIL = 0 ∧
      rfield t k F.FN_RING_CQ_TAIL_PHASE = 1 ∧ t = { s with regs := t.regs } ∧ SameRegs s t here) ∧
    (rfield s k F.FN_RING_CTL_ENABLE = 0 → (∀ n ∈ [bitsOf v 4 4, bitsOf v 8 4], 4 ≤ n ∧ n ≤ 12) →
      Does (.ringEnable fn ring val) s fun t => rfield t k F.FN_RING_CTL_ENABLE = 1 ∧ cfg t = ringCfg v ∧
        t = { s with regs := t.regs } ∧ SameRegs s t here) ∧
    (rfield s k F.FN_RING_CTL_ENABLE = 0 → (∃ n ∈ [bitsOf v 4 4, bitsOf v 8 4], n < 4 ∨ 12 < n) →
      Does (.ringEnable fn ring val) s fun t => rfield t k F.FN_RING_CTL_ENABLE = 0 ∧
        rfield t k F.FN_RING_STAT_CFG_ERR = 1) ∧
    (rfield s k F.FN_RING_CTL_ENABLE = 1 → ringCfg v ≠ cfg s →
      Does (.ringEnable fn ring val) s fun t => rfield t k F.FN_RING_CTL_ENABLE = 1 ∧ cfg t = cfg s ∧
        rfield t k F.FN_RING_STAT_CFG_ERR = 1) ∧
    Does (.ringDisable fn ring val) s (fun t => rfield t k F.FN_RING_CTL_ENABLE = 0 ∧
      t = { s with regs := t.regs } ∧ SameRegs s t here) ∧
    (let hold := rfield s k F.FN_RING_IRQ_HOLD
     hold ≠ 0 → (getRing s k).unnoted ≠ 0 → (getRing s k).oldest + 1000 * hold ≤ s.devtime →
      Does (.ringHoldExpiry fn ring) s fun t => (fget t (fnPage fn) F.FN_RING_PEND_PEND).testBit ring = true ∧
        getRing t k = { getRing s k with unnoted := 0 } ∧
        SameRegs s t fun page off => page = fnPage fn ∧ off = 0x2F0) ∧
    ∀ read, Does (.ringLinkErr fn ring read) s fun t => rfield t k F.FN_RING_CTL_ENABLE = 0 ∧
      rfield t k F.FN_RING_STAT_LINK_ERR = 1 ∧ t = { s with regs := t.regs } ∧ SameRegs s t here

/-- COMMAND_FETCH takes one descriptor while the CQ has a free slot that is not reserved (R26, R28, R29). -/
def Obligations.CommandFetch : Prop :=
  ∀ (own : Fin 65) (ring : Fin 4) (host : List Word) (s : State),
    let k := ringKey own ring
    (cqFree s k ≤ cqReserved s k → Does (.commandFetch own ring host) s fun t => t = s) ∧
    (own < 64 → cqReserved s k < cqFree s k → rfield s k F.FN_RING_CTL_ENABLE = 1 → sqCount s k ≠ 0 →
      Does (.commandFetch own ring host) s fun t =>
        getRing t k = { getRing s k with fetched := (getRing s k).fetched ++ [⟨sqWords s k host, s.devtime⟩] } ∧
        rfield t k F.FN_RING_SQ_HEAD_HEAD = (rfield s k F.FN_RING_SQ_HEAD_HEAD + 1) % sqSlots s k % 4096 ∧
        t = { s with regs := t.regs, rings := t.rings } ∧
        SameRegs s t fun page off =>
          page = fnPage own ∧ (off = 0x218 + 0x40 * ring ∨ off = 0x228 + 0x40 * ring)) ∧
    ∀ d rest, own = 64 → cqReserved s k < cqFree s k → s.bdrk.agentSq = d :: rest →
      Does (.commandFetch own ring host) s fun t =>
        getRing t k = { getRing s k with fetched := (getRing s k).fetched ++ [{ d with at_ := s.devtime }] } ∧
        t = { s with rings := t.rings
                     bdrk := { s.bdrk with agentSq := rest, agentFetched := s.bdrk.agentFetched + 1 } }

/-- CQ_ENTRY_WRITE writes one 32-byte entry with the current PHASE, and PHASE inverts at the wrap (R30); on the agent's
ring the entry joins those that AGENT_POLL reads (R26). -/
def Obligations.CqEntryIsOneWrite : Prop :=
  ∀ (own : Fin 65) (ring : Fin 4) (s : State) (e : CqEntry) (rest : List CqEntry),
    let k := ringKey own ring
    (getRing s k).inParts = none → (getRing s k).comps = e :: rest → compReady s e = true →
    (∀ fn : Fin 64, own.val = fn.val → rfield s k F.FN_RING_CTL_ENABLE = 1 →
      let tail := rfield s k F.FN_RING_CQ_TAIL_TAIL
      let phase := rfield s k F.FN_RING_CQ_TAIL_PHASE
      let bytes := (entryWords e phase (rfield s k F.FN_RING_SQ_HEAD_HEAD)).flatMap (leBytes 4)
      let addr := qget s (fnPage fn) F.FN_RING_CQ_BASE_LO_LO ring + 32 * tail
      let next := (tail + 1) % cqSlots s k % 4096
      Does (.cqEntryWrite own ring) s fun t =>
        bytes.length = 32 ∧ (e.status < 256 → bitsOf (leVal bytes) 8 1 = phase) ∧
        (getRing t k).comps = rest ∧ (getRing t k).waiting = (getRing s k).waiting ∧
        (if rfield s k F.FN_RING_CTL_CQ_LOC = 1 then t.mem = (memWriteN s addr bytes).mem ∧ t.out = s.out
         else t.mem = s.mem ∧ t.out = .busWrite fn addr bytes :: s.out) ∧
        rfield t k F.FN_RING_CQ_TAIL_TAIL = next ∧
        rfield t k F.FN_RING_CQ_TAIL_PHASE = (if (tail + 1) % cqSlots s k = 0 then 1 - phase else phase)) ∧
    (own = 64 → Does (.cqEntryWrite own ring) s fun t =>
      (getRing t k).comps = rest ∧ (getRing t k).waiting = (getRing s k).waiting ∧ t.mem = s.mem ∧ t.out = s.out ∧
      t.bdrk = { s.bdrk with
        agentCq := s.bdrk.agentCq ++ [agentEntry s e], agentWritten := s.bdrk.agentWritten + 1 })

/-- A command that fails checks 1 to 4 completes with that status and does nothing else (R28, R40, R41, R42). -/
def Obligations.FailingCommandsHaveNoEffect : Prop :=
  ∀ (own : Fin 65) (ring : Fin 4) (s u : State) (d : Desc) (ref : CmdRef) (st : Nat) (la : LaCodes) (au : List AccessUnit),
    let fails := fun op c =>
      beginCmd s (ringKey own ring) (· == op) = some (d, ref, u) → checkCmd u own d = some st →
        Does c s fun t => t = cmdDone u ref st ∧ Completed u t ref st 0 0 0
    fails 0x02 (.opConfigure own ring) ∧ fails 0x03 (.opStart own ring) ∧ fails 0x04 (.opSubmit own ring la au) ∧
    fails 0x05 (.opFlush own ring) ∧ fails 0x06 (.opReconfig own ring) ∧ fails 0x07 (.opForceKey own ring) ∧
    fails 0x08 (.opSetRate own ring) ∧ fails 0x09 (.opLink own ring) ∧ fails 0x0A (.opBind own ring) ∧
    fails 0x0B (.opQuery own ring) ∧ fails 0x0F (.opClose own ring) ∧
    (beginCmd s (ringKey own ring) (fun op => !definedOpcode op) = some (d, ref, u) →
      Does (.undefinedOpcode own ring) s fun t => t = cmdDone u ref 0x10 ∧ Completed u t ref 0x10 0 0 0)

/-- The first failing check of R40 decides the status (R40, R42). -/
def Obligations.ChecksRunInOrder : Prop :=
  (∀ (s : State) (own : Fin 65) (d : Desc),
    let c := d.ctx
    let form := staticOk d (formKind s c) = true
    let live := ctxState s c ≠ 0 ∧ ctxGen s c = d.gen
    let owns := ctxOwner s c = own ∨ own = 0 ∧ (d.opcode = 0x0B ∨ d.opcode = 0x0F)
    (¬form → checkCmd s own d = some 0x10) ∧
    (form → ¬live → checkCmd s own d = some 0x11) ∧
    (form → live → ¬owns → checkCmd s own d = some 0x13) ∧
    (form → live → owns → stateOk d.opcode (ctxState s c) = false → checkCmd s own d = some 0x11) ∧
    (form → live → owns → stateOk d.opcode (ctxState s c) = true → checkCmd s own d = none)) ∧
  ∀ op st : Nat, st < 6 → (stateOk op st = true ↔
    (op, st) ∈ [(0x02, 1), (0x02, 2), (0x02, 5), (0x03, 2), (0x04, 3), (0x05, 3), (0x06, 2), (0x06, 3), (0x07, 3),
      (0x08, 2), (0x08, 3), (0x09, 2), (0x09, 3), (0x0A, 1), (0x0A, 2), (0x0A, 3), (0x0B, 1), (0x0B, 2), (0x0B, 3),
      (0x0B, 4), (0x0B, 5), (0x0F, 1), (0x0F, 2), (0x0F, 3), (0x0F, 4), (0x0F, 5)])

/-- OPEN takes a FREE context and raises its generation by 1; a stale GEN gives STATE_CONFLICT (R34). -/
def Obligations.OpenTakesAContext : Prop :=
  (∀ (own : Fin 65) (ring : Fin 4) (s u : State) (d : Desc) (ref : CmdRef) (c slot : Nat),
    beginCmd s (ringKey own ring) (· == 1) = some (d, ref, u) → staticOk d 2 = true → c < 256 →
    (if d.p 1 = 0x1FF then ctxList.find? (fun c => ctxState u c == 0) = some c
     else d.p 1 = c ∧ ctxState u c = 0) →
    (if 1 ≤ own.val ∧ own.val < 64 then freeSlotOf u own = some slot else slot = 0) → readyBit u 62 = true →
    Does (.opOpen own ring) s fun t =>
      ctxState t c = 1 ∧ ctxOwner t c = own ∧ ctxGen t c = (ctxGen s c + 1) % 256 ∧
      ctxKind t c = bitsOf (d.p 0) 0 2 ∧ ctxClass t c = bitsOf (d.p 0) 4 3 ∧
      fget t (ctxPage c) F.CTX_STATE_RING = bitsOf (d.p 0) 8 2 ∧
      Completed u t ref 0 (c + 256 * ctxGen t c) slot 0 ∧
      (∀ off, 0xC ≤ off → off < 4096 → off ≠ 0x200 →
        rget t (ctxPage c) off = (regDefault (regKey (ctxPage c) off)).toNat) ∧
      SameRegs s t (fun page _ => page = ctxPage c) ∧ SameMem s t) ∧
  ∀ (s : State) (own : Fin 65) (d : Desc), staticOk d (formKind s d.ctx) = true →
    ctxGen s d.ctx ≠ d.gen → checkCmd s own d = some 0x11

/-- START, QUERY, LINK, BIND and an undefined opcode complete at once with their effect (R38, R42, R52, R54). -/
def Obligations.AtOnceCommands : Prop :=
  ∀ (own : Fin 65) (ring : Fin 4) (s u : State) (d : Desc) (ref : CmdRef),
    let c := d.ctx
    let p := ctxPage c
    (Begins s own ring 3 d ref u → Does (.opStart own ring) s fun t =>
      ctxState t c = 3 ∧ (getCtx t c).outSeq = 0 ∧ (getCtx t c).lastPts = none ∧ (getCtx t c).keyNext = true ∧
      (getCtx t c).submits = [] ∧ Completed u t ref 0 0 0 0 ∧ SameMem s t ∧
      SameRegs s t fun page off => page = p ∧ (off = 0x200 ∨ off = F.CTX_ENC_STAT_GIR_ACTIVE.off)) ∧
    (Begins s own ring 0x0B d ref u → Does (.opQuery own ring) s fun t =>
      Completed u t ref 0
        (match d.p 0 with | 0 => rget s p 0x200 | 1 => rget s p 0x210 | _ => (getCtx s c).memKiB)
        (match d.p 0 with | 0 => rget s p 0x204 | 1 => rget s p 0x214 | _ => 0)
        (match d.p 0 with | 1 => rget s p 0x218 | _ => 0) ∧ t = { s with rings := t.rings }) ∧
    (∀ i dst, Begins s own ring 9 d ref u → bitsOf (d.p 0) 16 1 = 0 → dst = bitsOf (d.p 0) 0 8 → dst ≠ c →
      ctxOwner s dst = ctxOwner s c → ctxState s dst = 2 ∨ ctxState s dst = 3 → ctxGen s dst = bitsOf (d.p 0) 8 8 →
      isEncode s c = false → isEncode s dst = true → (active s dst).input = 2 →
      fbit s (ctxPage dst) F.CTX_LINK_SRC_VALID = false → rateDivides (active s c) (active s dst) = true →
      (List.range 8).find? (fun i => (linkDst s c i).isNone) = some i →
      Does (.opLink own ring) s fun t => linkDst t c i = some dst ∧ fbit t (ctxPage dst) F.CTX_LINK_SRC_VALID = true ∧
        fget t (ctxPage dst) F.CTX_LINK_SRC_SRC = c ∧ fget t (ctxPage dst) F.CTX_LINK_SRC_SLOT = i ∧
        Completed u t ref 0 i 0 0 ∧ SameMem s t ∧
        SameRegs s t fun page off => page = p ∧ 0x220 ≤ off ∧ off ≤ 0x228 ∨ page = ctxPage dst ∧ off = 0x22C) ∧
    (∀ i, Begins s own ring 9 d ref u → bitsOf (d.p 0) 16 1 = 1 →
      (List.range 8).find? (fun i => linkDst s c i == some (bitsOf (d.p 0) 0 8)) = some i →
      Does (.opLink own ring) s fun t => linkDst t c i = none ∧ Completed u t ref 0 i 0 0 ∧ SameMem s t) ∧
    (Begins s own ring 0x0A d ref u → unlocked s p = true → (d.p 2 = 2 → bindFails s c (d.p 0) (d.p 1) = false) →
      Does (.opBind own ring) s fun t => fget t p F.CTX_BIND_EE_MASK = d.p 0 ∧ fget t p F.CTX_BIND_DE_MASK = d.p 1 ∧
        fbit t p F.CTX_STATE_PINNED = (d.p 2 == 2) ∧ (getCtx t c).bindMode = d.p 2 ∧ Completed u t ref 0 0 0 0 ∧
        SameMem s t ∧ SameRegs s t fun page off => page = p ∧ (off = 0x200 ∨ off = 0x230 ∨ off = 0x234)) ∧
    (beginCmd s (ringKey own ring) (fun op => !definedOpcode op) = some (d, ref, u) →
      Does (.undefinedOpcode own ring) s fun t => Completed u t ref 0x10 0 0 0 ∧ t = { s with rings := t.rings })

/-- CONFIGURE, RECONFIG and SET_RATE: what fails, what takes effect at once and what waits for a RAP (R44, R49,
R115, R130, R131, R372). -/
def Obligations.SettingsCommands : Prop :=
  ∀ (own : Fin 65) (ring : Fin 4) (s u v : State) (d : Desc) (ref : CmdRef),
    let c := d.ctx
    let p := ctxPage c
    let g := staged u c
    let kind := ctxKind u c
    let took := fun t : State => ∀ off ∈ stagedOffs, rget t p (off + 0x200) = rget s p off
    (∀ f, Begins s own ring 2 d ref u → firstFail (settingsFails u kind g) = some f →
      Does (.opConfigure own ring) s fun t => Completed u t ref 0x10 f.1 f.2 0 ∧ t = { s with rings := t.rings }) ∧
    (Begins s own ring 2 d ref u → firstFail (settingsFails u kind g) = none → settingsBusy u c kind g = false →
      replaceSet u c (stagedWords u c) g = some v → ctxState u c ≠ 5 → NoneWait u →
      Does (.opConfigure own ring) s fun t => ctxState t c = 2 ∧ took t ∧
        Completed u t ref 0 (getCtx v c).memKiB 0 0 ∧ SameMem s t) ∧
    (∀ f, Begins s own ring 6 d ref u → firstFail (codecChange u c ++ settingsFails u kind g) = some f →
      Does (.opReconfig own ring) s fun t => Completed u t ref 0x10 f.1 f.2 0 ∧ t = { s with rings := t.rings }) ∧
    (Begins s own ring 6 d ref u → firstFail (codecChange u c ++ settingsFails u kind g) = none →
      settingsBusy u c kind g = false → ctxState u c = 2 → replaceSet u c (stagedWords u c) g = some v → NoneWait u →
      Does (.opReconfig own ring) s fun t => ctxState t c = 2 ∧ took t ∧ Completed u t ref 0 0 0 0 ∧ SameMem s t) ∧
    (Begins s own ring 6 d ref u → firstFail (codecChange u c ++ settingsFails u kind g) = none →
      settingsBusy u c kind g = false → ctxState u c = 3 → (getCtx u c).reconf = none →
      memParts kind g = memParts kind (active u c) →
      Does (.opReconfig own ring) s fun t => (getCtx t c).reconf = some ref ∧ (getCtx t c).snapshot = stagedWords s c ∧
        fbit t p F.CTX_STATE_RECONFIG_PENDING = true ∧ t = { s with rings := u.rings, regs := t.regs, ctxs := t.ctxs } ∧
        SameRegs s t fun page off => page = p ∧ off = 0x200) ∧
    (let r := rateOf d ref
     let g2 := withRate (active u c) r
     let b := g2 F.CTX_RC_BUF_CAP_BUFFER
     Begins s own ring 8 d ref u → isEncode u c = true → r.capRate.isSome ∨ r.capBuf.isSome ∨ r.qi.isSome →
      b = 0 ∨ 10 ≤ b ∧ b ≤ 10000 → capFails g2 (active u c).lvl = [] →
      let sets := fun (get : State → Row → Nat) (t : State) =>
        get t F.CTX_RC_CAP_CAP_RATE = r.capRate.getD (get s F.CTX_RC_CAP_CAP_RATE) ∧
        get t F.CTX_RC_BUF_CAP_BUFFER = r.capBuf.getD (get s F.CTX_RC_BUF_CAP_BUFFER) ∧
        get t F.CTX_RC_CTL_QI = r.qi.getD (get s F.CTX_RC_CTL_QI)
      (ctxState u c = 2 → Does (.opSetRate own ring) s fun t => sets (staged · c) t ∧ sets (active · c) t ∧
        Completed u t ref 0 0xFFFFFFFF 0xFFFFFFFF 0 ∧ t = { s with rings := t.rings, regs := t.regs } ∧
        SameRegs s t fun page off => page = p ∧ off ∈ [0xC0, 0xC4, 0xC8, 0x2C0, 0x2C4, 0x2C8]) ∧
      (ctxState u c = 3 → (getCtx u c).setRate = none → (getCtx u c).reconf = none →
        Does (.opSetRate own ring) s fun t => sets (staged · c) t ∧ (getCtx t c).setRate = some r ∧
          t = { s with rings := u.rings, regs := t.regs, ctxs := t.ctxs } ∧
          SameRegs s t fun page off => page = p ∧ off ∈ [0xC0, 0xC4, 0xC8]))

/-- SUBMIT, FORCE_KEY and PICTURE_ENTER_CODING: a picture is taken in, made a key picture, and enters coding (R39, R45,
R46, R50, R76, R89, R119, R121, R134, R135, R159). -/
def Obligations.SubmittedPictures : Prop :=
  (∀ (own : Fin 65) (ring : Fin 4) (s u : State) (d : Desc) (ref : CmdRef) (la : LaCodes) (au : List AccessUnit),
    let c := d.ctx
    let p := ctxPage c
    let x := getCtx s c
    let g := active u c
    let pts := d.p 5 + 2 ^ 32 * d.p 6
    let follows := ∀ q, x.lastPts = some q → 1 ≤ (pts + 2 ^ 33 - q) % 2 ^ 33 ∧ (pts + 2 ^ 33 - q) % 2 ^ 33 < 2 ^ 32
    let fits := g.input = 0 ∧ follows ∧ g.w * (if g.depth10 then 2 else 1) ≤ d.p 2
    let ends := fun (st : Nat) (t : State) => Completed u t ref st 0 0 0 ∧ t = { s with rings := t.rings }
    let turn := some (⟨x.subCount, none⟩ : Turn)
    (Begins s own ring 4 d ref u → isEncode u c = true →
      (¬fits → Does (.opSubmit own ring la au) s (ends 0x10)) ∧
      (fits → 128 ≤ x.submits.length → Does (.opSubmit own ring la au) s (ends 0x12)) ∧
      (fits → x.submits.length < 128 → x.forced = [] → Does (.opSubmit own ring la au) s fun t =>
        (∃ l y, (getCtx t c).submits = l ++ [y] ∧ l.map (·.ref) = x.submits.map (·.ref) ∧ y.ref = ref ∧ y.num = x.subCount ∧
          y.pts = pts ∧ y.addr = d.p 0 + 2 ^ 32 * d.p 1 ∧ y.chroma = d.p 3 + 2 ^ 32 * d.p 4 ∧ y.stride = d.p 2 ∧
          y.codes = la ∧ y.at_ = d.at_ ∧ y.done = none ∧
          (fget u p F.CTX_PP_LAYER_CTL_COUNT = 0 → x.linkPics = [] → (getCtx t c).queued = x.queued ++ [x.subCount] ∧
            y.pix = readPicture s g.w g.h g.depth10 g.c422 y.addr y.chroma y.stride ∧ y.planes = planesOf g.unit y.pix ∧
            (g.repro = false → l = x.submits ∧ y.la = measure g y.planes la))) ∧
        (getCtx t c).subCount = x.subCount + 1 ∧ (getCtx t c).lastPts = some pts ∧
        fget t p F.CTX_CNT_IN_COUNT = (fget s p F.CTX_CNT_IN_COUNT + 1) % 2 ^ 32 ∧
        t = { s with rings := u.rings, regs := t.regs, ctxs := t.ctxs } ∧
        SameRegs s t fun page off => page = p ∧ (off = 0x210 ∨ off = 0x1FC))) ∧
    (Begins s own ring 4 d ref u → isEncode u c = false →
      (g.input ≠ 0 → Does (.opSubmit own ring la au) s (ends 0x10)) ∧
      (g.input = 0 → x.submits = [] → x.decs = [] → x.started = false → x.oldMem = [] →
        ((∀ a ∈ au, a.rap = false) → Does (.opSubmit own ring la au) s fun t => (getCtx t c).started = false ∧
          Completed u t ref 0 (2 ^ 18) 0 0 turn ∧ (getCtx t c).decs = [] ∧ (getCtx t c).submits = [] ∧ SameMem s t) ∧
        ∀ a, au = [a] → a.rap = true → x.reconf = none →
          (haltCause g a = 0 → a.show_ = none → a.rasl = false → Does (.opSubmit own ring la au) s fun t =>
            (getCtx t c).started = true ∧ t.rings = u.rings ∧ SameMem s t ∧
            ∃ q, (getCtx t c).decs = [q] ∧ q.sub = some x.subCount ∧ q.pts = pts ∧ q.available = none ∧
              q.au = { a with data := memReadN s (d.p 0 + 2 ^ 32 * d.p 1) (d.p 2) } ∧ q.tReady = d.at_ ∧
              q.deadline = d.at_ + g.latency) ∧
          (haltCause g a ≠ 0 → Does (.opSubmit own ring la au) s fun t => ctxState t c = 5 ∧
            fget t p F.CTX_HALT_CAUSE = haltCause g a ∧ (getCtx t c).decs = [] ∧ (getCtx t c).submits = [] ∧
            Completed u t ref 0x21 0 0 0 turn ∧ SameMem s t))) ∧
    (Begins s own ring 7 d ref u → isEncode u c = false → Does (.opForceKey own ring) s (ends 0x10)) ∧
    (Begins s own ring 7 d ref u → isEncode u c = true → d.p 2 = 1 → Does (.opForceKey own ring) s fun t =>
      (getCtx t c).forced = x.forced ++ [(ref, none)] ∧ (getCtx t c).keyNext = true ∧
      t = { s with rings := u.rings, ctxs := t.ctxs }) ∧
    (let q := d.p 0 + 2 ^ 32 * d.p 1
     Begins s own ring 7 d ref u → isEncode u c = true → d.p 2 ≠ 1 →
      (q ∈ x.entered → Does (.opForceKey own ring) s (ends 0x10)) ∧
      (q ∉ x.entered → (∀ y ∈ x.submits, y.pts ≠ q) → Does (.opForceKey own ring) s fun t =>
        (getCtx t c).forced = x.forced ++ [(ref, some q)] ∧ t = { s with rings := u.rings, ctxs := t.ctxs }) ∧
      (∀ y, q ∉ x.entered → x.submits.find? (fun y => y.pts == q && y.done.isNone) = some y → x.forced = [] →
        Does (.opForceKey own ring) s fun t => Completed u t ref 0 (q % 2 ^ 32) (q / 2 ^ 32) 0 ∧
          (getCtx t c).keySubs = x.keySubs ++ [y.num] ∧ (getCtx t c).forced = [] ∧
          t = { s with rings := t.rings, ctxs := t.ctxs }))) ∧
  ∀ (c : Fin 256) (s : State) (p : Plan) (rest : List Plan) (y : Submit),
    let l := endLookaheads s
    let v := modCtx l c (cutPlan l c)
    let x := getCtx v c
    isEncode l c = true → ctxState l c = 3 ∨ ctxState l c = 4 →
    (if x.plan = [] then formPlan v c else x.plan) = p :: rest → isShed x p.sub = false → findSub x p.sub = some y →
    mayEnter v c x (cycleRap v c x p) = true → x.forced = [] → x.reconf = none → x.setRate = none →
    Does (.pictureEnterCoding c) s fun t => ∃ w,
      t = (if ctxState l c = 4 then settleCtx w c else w) ∧ (getCtx w c).plan = rest ∧
      (getCtx w c).picCount = x.picCount + 1 ∧ w = { v with regs := w.regs, ctxs := w.ctxs } ∧
      (∃ q, (getCtx w c).pics = x.pics ++ [q] ∧ q.num = x.picCount ∧ q.sub = p.sub ∧ q.pts = y.pts ∧
        q.tEnter = s.devtime ∧ q.src = y.pix ∧ q.planes = y.planes ∧ q.deadline = s.devtime + (active l c).latency ∧
        q.segs.length = (active l c).segments.length) ∧
      SameRegs v w fun page off => page = ctxPage c ∧ off = 0x160

/-- FLUSH drains, CLOSE frees, and an owner that leaves takes its rings and contexts with it (R42, R47, R48, R55).
-/
def Obligations.DrainsAndCloses : Prop :=
  (∀ (own : Fin 65) (ring : Fin 4) (s u : State) (d : Desc) (ref : CmdRef),
    let c := d.ctx
    let x := getCtx s c
    let busy := isEncode u c = true ∧ x.queued ≠ [] ∧ x.pics = [] ∧ x.oldMem = []
    (Begins s own ring 5 d ref u → busy → Does (.opFlush own ring) s fun t =>
      ctxState t c = 4 ∧ (getCtx t c).flush = some (ref, fget s (ctxPage c) F.CTX_CNT_OUT_COUNT) ∧ t.rings = u.rings ∧
      SameMem s t ∧ SameRegs s t fun page off => page = ctxPage c ∧ off = 0x200) ∧
    (Begins s own ring 5 d ref u → Idle u c → NoneWait u → Does (.opFlush own ring) s fun t =>
      ctxState t c = 2 ∧ Completed u t ref 0 0 0 0 ∧ SameMem s t ∧
      SameRegs s t fun page off => page = ctxPage c ∧ off = 0x200) ∧
    (Begins s own ring 0x0F d ref u → Idle u c → NoneWait u → Does (.opClose own ring) s fun t =>
      ctxState t c = 0 ∧ ctxOwner t c = 0x7F ∧ getCtx t c = ctx0 ∧ Completed u t ref 0 0 0 0 ∧ SameMem s t) ∧
    (Begins s own ring 0x0F d ref u → ctxState u c = 3 → d.p 0 = 0 → busy → Does (.opClose own ring) s fun t =>
      ctxState t c = 4 ∧ (getCtx t c).close = x.close ++ [ref] ∧ t.rings = u.rings ∧ SameMem s t ∧
      SameRegs s t fun page off => page = ctxPage c ∧ off = 0x200)) ∧
  ∀ s : State, NoneWait s →
    let gone := fun (fn : Nat) (t : State) => getFunc t fn = func0 ∧ (∀ n < 4, getRing t (ringKey fn n) = ring0) ∧
      ∀ c ∈ heldBy s fn, ctxState t c = 0 ∧ getCtx t c = ctx0
    let idle := fun fn : Nat => ∀ c ∈ heldBy s fn, Idle s c
    (∀ fn : Fin 64, 1 ≤ fn.val → fn.val ∉ vfsOn s → Does (.functionLevelReset fn) s fun t => t = s) ∧
    (∀ fn : Fin 64, 1 ≤ fn.val → fn.val ∈ vfsOn s → idle fn → Does (.functionLevelReset fn) s fun t => gone fn t ∧ SameMem s t) ∧
    ((∀ fn ∈ 0 :: vfsOn s, idle fn) → Does (.functionLevelReset 0) s fun t =>
      (∀ fn ∈ 0 :: vfsOn s, gone fn t) ∧ vfsOn t = [] ∧ SameMem s t) ∧
    (∀ (enable : Bool) (num : Fin 64), s.chip.cfgOk = false → Does (.vfEnableChange enable num) s fun t => t = s) ∧
    ∀ (enable : Bool) (num : Fin 64), s.chip.cfgOk = true → (∀ fn ∈ vfsOn s, enable = false ∨ num.val < fn → idle fn) →
      Does (.vfEnableChange enable num) s fun t => SameMem s t ∧ ∀ fn ∈ vfsOn s, enable = false ∨ num.val < fn → gone fn t

/-- Search jobs: a bank takes one and completes it, or the segment falls back to digital search (R93, R94, R95, R96,
R98, R99, R101, R179). -/
def Obligations.SearchJobs : Prop :=
  ∀ (x : SegId) (p : Pic) (g : Seg) (s : State), findSeg s x = some (p, g) →
    let digital := fun t : State => Becomes s t x { g with digital := true, phase := .eligible }
    (∀ dS b, jobWaits s x = some dS → anyBank s = true → jobFirst s x.ctx dS = true → pickBank (tickBanks s) = some b →
      Does (.searchJobIssue x) s fun t => (getBank t b).jobs = (getBank s b).jobs ++ [x] ∧
        Becomes s t x { g with phase := .searching, bank := b, issued := some (g.issued.getD s.devtime) }) ∧
    (∀ dS, jobWaits s x = some dS → anyBank s = true → jobFirst s x.ctx dS = false → Does (.searchJobIssue x) s fun t => t = s) ∧
    (∀ dS, jobWaits s x = some dS → anyBank s = false → Does (.searchJobIssue x) s digital) ∧
    (∀ (b : Fin 4) (codes : List Nat), g.phase = .searching → x ∈ (getBank s b).jobs → domOn s (domainOf (micaPage b)) = true →
      let v := bankTick s b
      (jobEnded v b x = false → Does (.searchJobComplete b x codes) s fun t => t = v) ∧
      (jobEnded v b x = true → Does (.searchJobComplete b x codes) s fun t =>
        (getBank t b).jobs = (getBank s b).jobs.erase x ∧ t.mem = (putBankRecord v x p g b codes).mem ∧
        ∃ q, findSeg t x = some (q, { g with phase := .eligible, record := true, recDigital := false, bank := b.val }))) ∧
    (searchOpen g = true → waitOver s x p g = true → Does (.searchWaitExpiry x) s fun t => digital t ∧
      t.disp.jobsFell = s.disp.jobsFell + 1 ∧ t.disp.jobsEnded = s.disp.jobsEnded + 1) ∧
    (searchOpen g = true → deadlineOver s x p g = true → Does (.searchDeadlineFallback x) s fun t => digital t ∧
      t.disp.jobsFell = s.disp.jobsFell + 1 ∧ t.disp.jobsEnded = s.disp.jobsEnded + 1)

/-- Banks: calibration, drift checks, tile limits, retirement and admission (R101, R105, R106, R109, R336, R374). -/
def Obligations.BankService : Prop :=
  ∀ (b : Fin 4) (s : State),
    let p := micaPage b
    let idle := (getBank s b).jobs = []
    let state := fun (n : Nat) (t : State) => bankState t b = n ∧ t.mem = s.mem ∧ (getBank t b).jobs = (getBank s b).jobs
    (bankState s b = 1 → Does (.calReq b) s fun t => t = s) ∧
    (bankState s b ≠ 1 → idle → Does (.calReq b) s fun t => state 1 t ∧ (getBank t b).autoBack = true) ∧
    (bankState s b = 2 → ¬idle → Does (.calReq b) s fun t => state 3 t ∧ (getBank t b).wantCal = true) ∧
    (bankState s b = 2 → idle → (getBank s b).wantCal = false → Does (.micaRetire b) s fun t => state 0 t ∧
      blkInService t p = false) ∧
    (bankState s b = 2 → ¬idle → Does (.micaRetire b) s fun t => state 3 t ∧ (getBank t b).wantOut = true) ∧
    (bankState s b = 0 → blkReady s p = true → minTiles s b ≤ tilesOn s b → Does (.micaAdmit b) s fun t => state 2 t ∧
      blkInService t p = true) ∧
    (∀ resid trim, bankState s b = 1 → domOn s (37 + b.val) = true → readyBit s (37 + b.val) = true → readyBit s 63 = true →
      (minTiles s b ≤ goodTiles s b resid ∨ reactOf s p 5 ≤ 2) → Does (.calDone b resid trim) s fun t =>
        (∀ i : Fin 32, (fget t p F.MICA_TILE_EN_EN).testBit i =
          (!tileFails s b (resid.getD i 0) && !(fget s p F.MICA_TILE_MASK_MASK).testBit i)) ∧
        state (if minTiles s b ≤ tilesOn t b ∧ (getBank s b).autoBack = true then 2 else 0) t) ∧
    (let v := bankTick s b
     let i := (getBank v b).driftNext
     let busy := fbit v p F.MICA_STATUS_DRIFT_BUSY
     blkReady v p = true → bankState v b ≠ 1 → s.chip.fwRuns = true → busy = false →
      (getBank v b).driftAt + 10 ^ 10 ≤ s.devtime →
      ((fget v p F.MICA_TILE_EN_EN).testBit i = true → tileEnd (getBank v b) i ≤ s.devtime →
        Does (.driftCheck b none) s fun t => fbit t p F.MICA_STATUS_DRIFT_BUSY = true ∧
          fget t p F.MICA_STATUS_DRIFT_TILE = i ∧ (getBank t b).driftAt = s.devtime ∧ tileTakes t b i = false ∧
          t = { v with regs := t.regs, banks := t.banks }) ∧
      ((fget v p F.MICA_TILE_EN_EN).testBit i = true → s.devtime < tileEnd (getBank v b) i →
        Does (.driftCheck b none) s fun t => t = v) ∧
      ((fget v p F.MICA_TILE_EN_EN).testBit i = false → Does (.driftCheck b none) s fun t =>
        (getBank t b).driftNext = (i + 1) % 32 ∧ t = { v with banks := t.banks })) ∧
    (∀ r : Nat, let v := bankTick s b
     let i := fget v p F.MICA_STATUS_DRIFT_TILE
     fbit v p F.MICA_STATUS_DRIFT_BUSY = true → bankState v b ≠ 1 → (tileFails s b r = true → reactOf s p 3 ≤ 2) →
      Does (.driftCheck b (some r)) s fun t => t.mem = s.mem ∧ fbit t p F.MICA_STATUS_DRIFT_BUSY = false ∧
        (getBank t b).driftNext = (i + 1) % 32 ∧
        fget t p { F.MICA_RESID_T0 with lo := 8 * (i % 4) } (i / 4) = min r 255 ∧
        (fget t p F.MICA_TILE_FAIL_FAIL).testBit i =
          ((fget s p F.MICA_TILE_FAIL_FAIL).testBit i || tileFails s b r) ∧
        (tileFails s b r = true → (fget t p F.MICA_TILE_EN_EN).testBit i = false)) ∧
    ∀ val : Word,
      let locked := fun t : State => (fget t p F.HDR_IRQ_STATUS_CAUSE).testBit 0 = true ∧
        t = { s with regs := t.regs, srcs := t.srcs } ∧ SameRegs s t fun page off => page = p ∧ off = F.HDR_IRQ_STATUS_CAUSE.off
      (unlocked s p = false → Does (.tileMaskWrite b val) s locked ∧ Does (.minTilesWrite b val) s locked) ∧
      (unlocked s p = true → Does (.tileMaskWrite b val) s fun t => fget t p F.MICA_TILE_MASK_MASK = val.toNat ∧
        t.mem = s.mem ∧ (blkReady s p = true → fget t p F.MICA_TILE_EN_EN =
          (2 ^ 32 - 1 - fget s p F.MICA_TILE_FAIL_FAIL) &&& (2 ^ 32 - 1 - val.toNat))) ∧
      (unlocked s p = true → Does (.minTilesWrite b val) s fun t =>
        if 1 ≤ val.toNat % 64 ∧ val.toNat % 64 ≤ 32 then minTiles t b = val.toNat % 64 ∧ t.mem = s.mem else t = s)

/-- Engines: self-tests, retirement, admission, draining and CAPACITY (R88, R156, R165, R167, R168, R169). -/
def Obligations.EngineService : Prop :=
  (∀ (kind : EngKind) (n : Fin 18) (s : State),
    let page := engPage kind n
    let e := getEng s page
    let test := fun (ee de : Row) (t : State) => fget t page (engRow page ee de)
    let joined := blkInService s page = true ∨ isStandby s page = true ∨ e.waking = true
    let starts := fun t : State => testRunning t page = true ∧ test F.EE_SELFTEST_DONE F.DE_SELFTEST_DONE t = 0 ∧ t.mem = s.mem
    (blkInService s page = true ∨ e.held ≠ [] ∨ testRunning s page = true ∨ e.waking = true →
      Does (.selftestStart kind n) s fun t => test F.EE_SELFTEST_REJECTED F.DE_SELFTEST_REJECTED t = 1 ∧
        t = { s with regs := t.regs } ∧
        SameRegs s t fun q off => q = page ∧ off = (engRow page F.EE_SELFTEST_REJECTED F.DE_SELFTEST_REJECTED).off) ∧
    (blkInService s page = false → e.held = [] → testRunning s page = false → e.waking = false →
      Does (.selftestStart kind n) s starts) ∧
    (∀ pass us, testRunning s page = true → domOn s (domainOf page) = true → readyBit s (domainOf page) = true →
      readyBit s 63 = true → e.admitWait = false → (pass = false → reactOf s page (faultCount page - 1) ≤ 2) →
      Does (.selftestEnd kind n pass us) s fun t => testRunning t page = false ∧ t.mem = s.mem ∧
        test F.EE_SELFTEST_DONE F.DE_SELFTEST_DONE t = 1 ∧
        test F.EE_SELFTEST_PASS F.DE_SELFTEST_PASS t = (if pass then 1 else 0) ∧ (getEng t page).tested = pass) ∧
    (blkInService s page = true → e.held = [] → Does (.engineRetire kind n) s fun t =>
      blkInService t page = false ∧ t.mem = s.mem) ∧
    (blkInService s page = true → e.held ≠ [] → Does (.engineRetire kind n) s fun t =>
      blkInService t page = true ∧ fget t page F.HDR_BLK_READY_STATE = 4 ∧ (getEng t page).draining = true ∧
      (getEng t page).held = e.held ∧ t = { s with regs := t.regs, engines := t.engines }) ∧
    (joined → Does (.engineAdmit kind n) s fun t => t = s) ∧
    (¬joined → testRunning s page = false → e.testedSince = true → capacityMode s = true →
      domOn s (domainOf page) = true → Does (.engineAdmit kind n) s fun t => blkInService t page = true ∧ t.mem = s.mem) ∧
    (¬joined → testRunning s page = false → e.testedSince = false → Does (.engineAdmit kind n) s fun t =>
      starts t ∧ (getEng t page).admitWait = true) ∧
    (e.draining = true → e.held = [] → e.toStandby = false → Does (.engineDrained kind n) s fun t =>
      blkInService t page = false ∧ t.mem = s.mem) ∧
    (e.draining = true → e.held = [] → e.toStandby = true → Does (.engineDrained kind n) s fun t =>
      isStandby t page = true ∧ blkInService t page = false ∧ t.mem = s.mem) ∧
    (e.draining = false ∨ e.held ≠ [] → Does (.engineDrained kind n) s fun t => t = s)) ∧
  ∀ (val : Word) (s : State),
    let v := val.toNat
    let keep := fun (r : Row) (n : Nat) (ok : Prop) (t : State) => (ok → fget t 0 r = n) ∧ (¬ok → fget t 0 r = fget s 0 r)
    Does (.capacityWrite val) s fun t =>
      fget t 0 F.CHIP_PLACE_CTL_PLACE = bitsOf v 0 1 ∧ fget t 0 F.CHIP_PLACE_CTL_CAPACITY = bitsOf v 1 1 ∧
      fget t 0 F.CHIP_PLACE_CTL_VERIFY_FIRST = bitsOf v 6 1 ∧
      keep F.CHIP_PLACE_CTL_GUARD (bitsOf v 2 2) (bitsOf v 2 2 ≠ 0) t ∧
      keep F.CHIP_PLACE_CTL_VERIFY (bitsOf v 4 2) (bitsOf v 4 2 ≠ 0) t ∧
      keep F.CHIP_PLACE_CTL_SAMPLE_N (bitsOf v 8 8) (2 ≤ bitsOf v 8 8) t ∧ t.mem = s.mem ∧
      (bitsOf v 1 1 = fget s 0 F.CHIP_PLACE_CTL_CAPACITY → t = { s with regs := t.regs } ∧
        SameRegs s t fun page off => page = 0 ∧ off = 0x100)

/-- PLACE_WORK gives an item to the engine chosen, OVERLOAD_WINDOW sets the overload bits, SHED_UNDO and
VERIFY_WAIVE (R126, R127, R129, R161, R173, R179). -/
def Obligations.PlacementAndOverload : Prop :=
  (∀ (kind : EngKind) (s : State),
    let v := syncPins (endLookaheads s)
    (itemsOf v kind = [] → Does (.placeWork kind) s fun t => t = v) ∧
    ∀ x : Item, itemsOf v kind = [x] →
      (chooseEngine v kind x = none → Does (.placeWork kind) s fun t => t = v) ∧
      ∀ page fin, chooseEngine v kind x = some (page, fin) →
        kind = .de ∨ x.live = false ∨ isSegment x.job = false ∨ fin ≤ x.due → Does (.placeWork kind) s fun t =>
          t.mem = s.mem ∧ ∃ h, (getEng t page).held = (getEng v page).held ++ [h] ∧ h.job = x.job ∧ h.start = s.devtime ∧
            h.est = itemTime v kind page x) ∧
  (∀ (w : Window) (s : State),
    let d := s.disp
    let pct := fget s 0 F.CHIP_PLACE_XCTL_BUSY_PCT
    let ee := decide (pct * w.eeSlots < 100 * w.eeWork) || d.lateEe
    let de := decide (pct * w.deSlots < 100 * w.deWork) || d.waivedDe || d.lateDe
    let mica := decide (d.jobsEnded < 100 * d.jobsFell)
    let dram := decide (w.eeSlots < 10 * w.dramWait)
    (s.devtime < d.winStart + 10 ^ 8 → Does (.overloadWindow w) s fun t => t = s) ∧
    (d.winStart + 10 ^ 8 ≤ s.devtime → Does (.overloadWindow w) s fun t =>
      fbit t 0 F.CHIP_PLACE_STAT_OVL_EE = ee ∧ fbit t 0 F.CHIP_PLACE_STAT_OVL_DE = de ∧
      fbit t 0 F.CHIP_PLACE_STAT_OVL_MICA = mica ∧ fbit t 0 F.CHIP_PLACE_STAT_OVL_DRAM = dram ∧
      t.disp.winStart = s.devtime / 10 ^ 8 * 10 ^ 8 ∧ t.disp.jobsEnded = 0 ∧ t.disp.jobsFell = 0 ∧ t.disp.lateEe = false ∧ t.mem = s.mem ∧
      ((ee || de || mica || dram) = false → t.disp.step = d.step ∧ t.disp.lastOvl = d.lastOvl) ∧
      ((ee || de || mica || dram) = true → t.disp.lastOvl = s.devtime ∧ (d.step = 0 → t.disp.step = 1)))) ∧
  (∀ s : State,
    (s.devtime < s.disp.lastOvl + 10 ^ 9 ∨ s.devtime < s.disp.lastUndo + 10 ^ 9 → Does .shedUndo s fun t => t = s) ∧
    (s.disp.lastOvl + 10 ^ 9 ≤ s.devtime → s.disp.lastUndo + 10 ^ 9 ≤ s.devtime → Does .shedUndo s fun t =>
      t.disp.lastUndo = s.devtime ∧ t.mem = s.mem ∧
      (s.ctxs.any (fun kv => stepFour s kv.1) = true → t.disp.step = s.disp.step) ∧
      (s.ctxs.any (fun kv => stepFour s kv.1) = false → s.disp.step ≤ 3 → t.disp.step = s.disp.step - 1))) ∧
  ∀ (x : SegId) (p : Pic) (g : Seg) (s : State), Waits s x p g → g.vwait = true → g.runs = [] →
    fbit s 0 F.CHIP_PLACE_STAT_OVL_DE = true → fbit s 0 F.CHIP_PLACE_CTL_VERIFY_FIRST = false → g.cS ≤ s.devtime →
    Does (.verifyWaive x) s fun t => t.disp.waivedDe = true ∧
      fget t 0 F.CHIP_PLACE_CNT_WAIVED_COUNT = (fget s 0 F.CHIP_PLACE_CNT_WAIVED_COUNT + 1) % 2 ^ 32 ∧
      Becomes s t x { g with vwait := false, waived := true, phase := if g.phase = .committed then .committed else .cleared }

/-- An encode engine begins a segment, passes its units through the tracker of R123, and commits rows under GUARD
OFF (R61, R122, R123, R163, R170, R171). -/
def Obligations.CodingUnits : Prop :=
  ∀ (ee : Fin 18) (s : State) (x : SegId) (p : Pic) (g : Seg), findSeg s x = some (p, g) →
    let page := eePage ee
    let onto := fun (v : State) (f : Held → Held) (t : State) =>
      (getEng t page).held = (getEng v page).held.map (fun h => if h.job = .segment x then f h else h) ∧ t.mem = v.mem
    (let v := endLookahead s page
     nextSeg v page = some x → domOn v (domainOf page) = true → blkReady v page = true →
      Does (.segmentFirstCtu ee) s (onto v fun h => { h with
        begun := true, start := s.devtime, fb := runsFb v page g.digital, tr := ⟨g.budget, 0, false, p.qp⟩
        run := ⟨[], true⟩ })) ∧
    (∀ h, curSeg s page = some (h, x) →
      (∀ (upset : Option (UnitCode × UnitCode)) (tag : TagTimes), h.tr.k < g.units →
        fbit s 0x31 F.PERF1_TAG_CTL_EN = false →
        let v := writeDigital s x p g h.tr.k
        let f := unitForms v h x p g upset
        let n := g.units - h.tr.k
        let rat := h.tr.ration = true ∨ h.tr.rem ≤ (n * g.rbound + endBound : Nat) ∨
          h.tr.rem - (f.1.bits.length : Int) < ((n - 1) * g.rbound + endBound : Nat)
        let coded := fun (c : UnitCode) (q : Nat) (y : Held) => { y with
          tr := ⟨h.tr.rem - (c.bits.length : Int), h.tr.k + 1, decide (c = f.2 ∧ rat), q⟩
          run := ⟨h.run.units ++ [c], h.run.clean && upset.isNone⟩ }
        f.2.bits.length ≤ g.rbound ∧ Does (.codingUnitCoded ee upset tag) s fun t => ∃ q,
          (rat → onto v (coded f.2 q) t) ∧ (¬rat → q = g.desc.qps.getD h.tr.k 0 ∧ onto v (coded f.1 q) t)) ∧
      (let a := active s x.ctx
       let order := bitstreamOrder a.codec a.bands.length a.strips.length
       let done := h.tr.k / max 1 (g.units / max 1 g.rows)
       let bytes := max g.bytesOut (spent g h.tr / 8)
       p.guardLv = 1 → g.redo = 0 → g.phase = .running → g.cut = false → p.done = false → s.pins.stopped = false →
        holdingFull s a = false → order.head? = some x.seg → g.rowsDone < done → g.rowsOut ≤ g.rowsDone →
        Does (.ctuRowComplete ee) s fun t => t = { s with ctxs := t.ctxs, out := t.out } ∧
          t.out = .commit x.ctx x.seg (headBytes order p x.seg g + (bytes - g.bytesOut)) :: s.out ∧
          Becomes s t x { g with rowsDone := done, rowsOut := done, bytesOut := bytes, bits := spent g h.tr
                                 code := keepCommitted g h.run.bits }))

/-- Segments return, verify jobs and boundary jobs end, decode parts complete (R62, R121, R139, R142, R143, R155,
R170, R172, R175, R176, R178). -/
def Obligations.FinishedWork : Prop :=
  (∀ (x : SegId) (p : Pic) (g : Seg) (s : State), Waits s x p g → g.redo = 0 → g.phase ≠ .committed →
    (∀ (ee : Fin 18) (h : Held) (upset : Option SegUpset), curSeg s (eePage ee) = some (h, x) →
      g.units ≤ h.tr.k → (getEng s (eePage ee)).draining = false → g.ended = false → g.waived = false →
      let r := segResult s h x p g upset
      let ver := g.verify = true ∨ (getEng s (eePage ee)).coded < 64 ∧ p.verifyMd = 2
      r.code.length % 8 = 0 ∧ Does (.segmentReturn ee upset) s fun t =>
        t.mem = (setRecon s x.ctx x.pic (putRun g.desc r)).mem ∧
        (getCtx t x.ctx).surplus = (getCtx s x.ctx).surplus + (g.budget - r.code.length) ∧
        (getEng t (eePage ee)).held = (getEng s (eePage ee)).held.filter (fun y => y.job != h.job) ∧
        ∃ q y, findSeg t x = some (q, y) ∧ q.recon = putRun g.desc r p.recon ∧ y.bits = r.code.length ∧ y.runCode = r.code ∧
          y.rowBits = r.rowBits ∧ y.crc = segCrc r.samples ∧ y.ee = ee.val ∧
          (ver → y.phase = .returned ∧ y.vwait = true) ∧ (¬ver → y.phase = .cleared ∧ y.vwait = false)) ∧
    (∀ (de : Fin 18) (h : Held) (rest : List Held) (upset : Option DecUpset),
      (getEng s (dePage de)).held = h :: rest → h.job = .verify x → domOn s (domainOf (dePage de)) = true →
      blkReady s (dePage de) = true → (getEng s (dePage de)).draining = false → g.runs = [] →
      (verifyFinds s x p g upset = true → Does (.verifyJobComplete de upset false) s fun t =>
        Becomes s t x { g with vdone := true, phase := .cleared }) ∧
      (verifyFinds s x p g upset = false → Does (.verifyJobComplete de upset false) s fun t => t.mem = s.mem ∧
        ∃ q y, findSeg t x = some (q, y) ∧ y.phase = .eligible ∧ y.avoid = g.avoid ++ [eePage g.ee] ∧
          y.runs = [⟨g.ee, de.val, g.runCode, g.crc, false⟩]) ∧
      (Does (.verifyJobComplete de upset true) s fun t => (getEng t (dePage de)).held = [] ∧
        Becomes s t x { g with vwait := true, avoid := g.avoid ++ [dePage de] }))) ∧
  (∀ (x : SegId) (p : Pic) (g : Seg) (s : State), findSeg s x = some (p, g) → (getCtx s x.ctx).pics = [p] → p.sent = true →
    (getCtx s x.ctx).oldMem = [] → ctxState s x.ctx = 3 → (∃ i y, i ≠ x.seg ∧ p.segs[i]? = some y ∧ y.edge = 1) →
    (∀ (upset : Option Samples) (page : Nat) (h : Held), boundaryHolder s x = some (page, h) →
      domOn s (domainOf page) = true → blkReady s page = true → (getEng s page).draining = false →
      let out := edgeSamples p.recon g.desc upset
      let y := { g with edgeEe := page - 0xA0, edgeCrc := segCrc out, edgeOut := out }
      Does (.boundaryJobComplete x upset) s fun t =>
        (getEng t page).held = (getEng s page).held.filter (fun k => k.job != h.job) ∧
        (g.verify = true ∧ g.waived = false → Becomes s t x { y with edge := 4 }) ∧
        (g.verify = false → t.mem = (setRecon s x.ctx x.pic fun q => putSamples q (edgeDesc g.desc) out).mem ∧
          ∃ q, findSeg t x = some (q, { y with edge := 3 }) ∧ q.recon = putSamples p.recon (edgeDesc g.desc) out)) ∧
    (∀ (de : Fin 18) (h : Held) (rest : List Held) (upset : Option DecUpset),
      (getEng s (dePage de)).held = h :: rest → h.job = .boundary x → domOn s (domainOf (dePage de)) = true →
      blkReady s (dePage de) = true → (getEng s (dePage de)).draining = false → g.eruns = [] →
      let found := edgeSamples p.recon g.desc (upset.map (·.samples))
      let ok := segCrc found = g.edgeCrc ∧ ∀ u ∈ upset, u.syntaxErr = false
      Does (.verifyJobComplete de upset false) s fun t =>
        (ok → ∃ q, findSeg t x = some (q, { g with edge := 3 }) ∧
          q.recon = putSamples p.recon (edgeDesc g.desc) g.edgeOut) ∧
        (¬ok → Becomes s t x { g with edge := 1, eruns := [⟨g.edgeEe, de.val, [], g.edgeCrc, false⟩] }))) ∧
  ∀ (de : Fin 18) (s : State) (h : Held) (rest : List Held) (c : Fin 256) (n i : Nat) (p : DecPic) (part : Part),
    let x := getCtx s c
    (getEng s (dePage de)).held = h :: rest → h.job = .part c n i → domOn s (domainOf (dePage de)) = true →
    blkReady s (dePage de) = true → (getEng s (dePage de)).draining = false →
    x.decs = [p] → p.num = n → p.parts[i]? = some part → p.available = none → p.output = false → p.shows = none →
    p.half = none → p.au.field = none → p.au.shown = true → p.au.codec ≠ 3 → x.epoch ≤ p.epoch → 1 ≤ p.au.reorder →
    freeSlots s c ≠ [] → x.oldMem = [] → ctxState s c = 3 →
    let last := ∀ j q, j ≠ i → p.parts[j]? = some q → q.st = 2
    Does (.decodePartComplete de) s fun t =>
      (getEng t (dePage de)).held = rest.filter (fun y => y.job != h.job) ∧
      ∃ q, (getCtx t c).decs = [q] ∧ q.num = n ∧ q.parts[i]? = some { part with st := 2 } ∧ q.output = false ∧
        (last → q.available = some s.devtime ∧ q.pix = decodedPicture s c p ∧
          t.mem = (storeBytes s q.pix 0 (storedBytes (active s c)) p.bufs).mem) ∧
        (¬last → q.available = none ∧ t.mem = s.mem)

/-- NET_MODE_WRITE, PORT_ENABLE, LINK_CHANGE and AN_DONE on the ports' registers (R194, R195, R196, R197, R216,
R335). -/
def Obligations.PortControl : Prop :=
  (∀ (val : Word) (s : State),
    let here := fun page off : Nat => page = 0x110 ∧ off = 0x40
    (anyPortEnabled s = true → Does (.netModeWrite val) s fun t => netMode t = netMode s ∧
      fget t 0x110 F.PKT0_NET_MODE_REJECT = 1 ∧ t = { s with regs := t.regs } ∧ SameRegs s t here) ∧
    (anyPortEnabled s = false → val.toNat % 8 ≤ 4 → Does (.netModeWrite val) s fun t => netMode t = val.toNat % 8 ∧
      t = { s with regs := t.regs } ∧ SameRegs s t here)) ∧
  ∀ (port : Fin 8) (s : State),
    let page := ethPage port
    let own := fun q off : Nat => q = page ∧ (off = 0x40 ∨ off = 0x44)
    let lanes := lanesOf s port
    (∀ (val : Word) (eyes : List Nat), fbit s page F.ETH_CTL_ENABLE = false → carriesPort s port = true →
      let fec := bitsOf val.toNat 2 2
      Does (.portEnable port val eyes) s fun t => fbit t page F.ETH_CTL_ENABLE = true ∧ t.mem = s.mem ∧
        fget t page F.ETH_CTL_AN = bitsOf val.toNat 1 1 ∧ fget t page F.ETH_CTL_LOOPBACK = bitsOf val.toNat 4 1 ∧
        fget t page F.ETH_CTL_FEC = (if fecAllowed (netMode s) fec then fec else fget s page F.ETH_CTL_FEC) ∧
        ∀ i < lanes.length, calPass t (48 + lanes.getD i 0) = decide (eyeLimit s ≤ eyes.getD i 0)) ∧
    (∀ (val : Word) (eyes : List Nat), carriesPort s port = false → Does (.portEnable port val eyes) s fun t =>
      fbit t page F.ETH_CTL_ENABLE = fbit s page F.ETH_CTL_ENABLE ∧ t = { s with regs := t.regs } ∧ SameRegs s t own) ∧
    (∀ up, Does (.linkChange port up) s fun t => t = { s with regs := t.regs, srcs := t.srcs } ∧
      fbit t page F.ETH_STATUS_LINK = (up && fbit s page F.ETH_CTL_ENABLE && carriesPort s port &&
        lanes.all fun l => calPass s (48 + l)) ∧
      SameRegs s t fun q off => q = page ∧ (off = 0x44 ∨ off = F.HDR_IRQ_STATUS_CAUSE.off)) ∧
    (∀ fec : Fin 4, fbit s page F.ETH_CTL_ENABLE = true → fbit s page F.ETH_CTL_AN = true →
      let want := fget s page F.ETH_CTL_FEC
      Does (.anDone port fec) s fun t => fbit t page F.ETH_STATUS_AN_DONE = true ∧
        fget t page F.ETH_STATUS_FEC_ACTIVE = (if netMode s < 3 then 0 else if want ≠ 0 then want else fec) ∧
        t = { s with regs := t.regs, srcs := t.srcs } ∧
        SameRegs s t fun q off => q = page ∧ (off = 0x44 ∨ off = F.HDR_IRQ_STATUS_CAUSE.off))

/-- Frames, packets and access units of ingest: received, released at their time, and taken by their context (R198,
R199, R200, R203, R204, R205). -/
def Obligations.Ingest : Prop :=
  (∀ (port : Fin 8) (f : Frame) (s : State),
    let page := ethPage port
    let counts := fun (r : Row) (t : State) => fget t page r = (fget s page r + 1) % 2 ^ 32
    let whole := f.fcsOk = true ∧ 64 ≤ f.bytes ∧ f.bytes ≤ fget s page F.ETH_MAX_FRAME_BYTES + 4 * min 1 f.tags
    let good := whole ∧ f.tags < 2 ∧ macAccepted s port f.dstMac = true ∧ f.ipBad = false ∧ f.udpBad = false
    (fbit s page F.ETH_STATUS_LINK = false → Does (.frameReceive port f) s fun t => t = s) ∧
    (fbit s page F.ETH_STATUS_LINK = true →
      (¬whole → Does (.frameReceive port f) s fun t => counts F.ETH_CNT_RX_ERR_COUNT t ∧ t = { s with regs := t.regs } ∧
        SameRegs s t fun q off => q = page ∧ off = 0x84) ∧
      (whole → ¬good → Does (.frameReceive port f) s fun t => counts F.ETH_CNT_RX_DROP_COUNT t ∧
        t = { s with regs := t.regs } ∧ SameRegs s t fun q off => q = page ∧ off = 0x88) ∧
      (good → f.payload = .pause → Does (.frameReceive port f) s fun t => counts F.ETH_CNT_RX_DROP_COUNT t ∧
        t = { s with regs := t.regs } ∧ SameRegs s t fun q off => q = page ∧ off = 0x88) ∧
      (good → f.payload = .bedrock → Does (.frameReceive port f) s fun t => counts F.ETH_CNT_RX_COUNT t ∧
        fbit t 1 F.BDRK1_STATUS_AWAKE = true ∧ t.out = .toBedrock port :: s.out ∧ t.mem = s.mem ∧ t.flows = s.flows) ∧
      (∀ v q ts bytes n, good → f.payload = .media false v q ts bytes → classify s port f = some (n, 0) →
        let x := getFlow s n
        x.merges = false → x.form = 0 → x.fec = [] → x.passed (x.highest + 1) = false → ingestOver s f.bytes = false →
        bytes ≠ 0 → bytes % 188 = 0 → bytes ≤ 1316 → jbUsed s n + bytes ≤ x.jb64 * 65536 →
        Does (.frameReceive port f) s fun t => counts F.ETH_CNT_RX_COUNT t ∧ t.mem = s.mem ∧
          (getFlow t n).held = insertPacket ⟨x.highest + 1, bytes, s.devtime + x.delayNs, false⟩ x.held ∧
          (getFlow t n).rx = (x.rx + 1) % 2 ^ 32))) ∧
  (∀ (n : Fin 4096) (ts : List TsIn) (s : State) (p : Packet) (rest : List Packet),
    let f := getFlow s n
    let gaps := match f.next with
      | none => 0
      | some k => p.seq - k
    f.held = p :: rest →
    (s.devtime < p.rel → Does (.packetRelease n ts) s fun t => t = s) ∧
    (p.rel ≤ s.devtime → Does (.packetRelease n []) s fun t => (getFlow t n).held = rest ∧
      (getFlow t n).next = some (p.seq + 1) ∧ (getFlow t n).lost = (f.lost + gaps) % 2 ^ 32 ∧ t.mem = s.mem ∧
      (gaps = 0 → t = { s with flows := t.flows }) ∧
      (gaps ≠ 0 → (fget t 0x110 F.HDR_IRQ_STATUS_CAUSE).testBit 1 = true)) ∧
    ∀ v : TsIn, p.rel ≤ s.devtime → gaps = 0 → videoPid s n = some v.pid → ccRepeats f v = false → ccFollows f v = true →
      v.table = none →
      (v.start = true → f.openAu = none → Does (.packetRelease n [v]) s fun t => t = { s with flows := t.flows } ∧
        (getFlow t n).openAu = some (v.pts % 2 ^ 33, v.dts.getD v.pts % 2 ^ 33, s.devtime) ∧
        (getFlow t n).auBytes = v.data.length ∧ (getFlow t n).held = rest) ∧
      ∀ a b at_, v.start = false → f.openAu = some (a, b, at_) → Does (.packetRelease n [v]) s fun t =>
        t = { s with flows := t.flows } ∧ (getFlow t n).openAu = some (a, b, s.devtime) ∧
        (getFlow t n).auBytes = f.auBytes + v.data.length ∧ (getFlow t n).held = rest) ∧
  ∀ (c : Fin 256) (au : List AccessUnit) (s : State) (pts dts at_ : Nat),
    let g := active s c
    let n := g F.CTX_CFG_IO_IN_FLOW
    (getFlow s n).openAu = some (pts, dts, at_) → readersOf s n = [c.val] → at_ + 2 * g.period ≤ s.devtime →
    ctxState s c = 3 → (getCtx s c).decs = [] → (getCtx s c).oldMem = [] →
    let counted := fun (k : Nat) (t : State) => (getFlow t n).openAu = none ∧ (getFlow t n).auBytes = 0 ∧ t.mem = s.mem ∧
      fget t (ctxPage c) F.CTX_CNT_IN_COUNT = (fget s (ctxPage c) F.CTX_CNT_IN_COUNT + k) % 2 ^ 32
    ((getCtx s c).started = false → (∀ a ∈ au, a.rap = false) → Does (.accessUnitTimeout c au) s fun t => counted 0 t ∧
      (getCtx t c).started = false ∧ (getCtx t c).decs = []) ∧
    ∀ a, au = [a] → a.rap = true → haltCause g a = 0 → a.show_ = none → a.rasl = false → (getCtx s c).reconf = none →
      Does (.accessUnitTimeout c au) s fun t => counted 1 t ∧ ∃ q, (getCtx t c).decs = [q] ∧ q.au = a ∧ q.pts = pts ∧
        q.dts = dts ∧ q.jb = (getFlow s n).auBytes ∧ q.tReady = s.devtime

/-- FLOW_READ, FLOW_WRITE, FLOW_ENABLE, FLOW_DISABLE and MEMBERSHIP_REPORT act on the selected flow and set RESULT
(R206, R215, R217, R250). -/
def Obligations.FlowCommands : Prop :=
  ∀ s : State,
    let n := flowSel s
    let f := getFlow s n
    let ends := fun (r : Nat) (t : State) => fget t 0x110 F.PKT0_FLOW_CMD_RESULT = r ∧ t.mem = s.mem
    let only := fun (r : Nat) (t : State) => ends r t ∧ t = { s with regs := t.regs } ∧
      SameRegs s t fun page off => page = 0x110 ∧ off = 0x48
    let told := fun (m : Nat) (join : Bool) (t : State) =>
      t.out = (if (getFlow s m).multicast then ((reportsOf s m join).map (Emit.membership m)).reverse else []) ++ s.out
    let data : List Word := (List.range 12).map fun i =>
      BitVec.ofNat 32 (rget s 0x110 (0x80 + 4 * i) &&& flowMasks.getD i 0)
    let free := (∀ c < 256, usesFlow s n c = false) ∧
      ∀ kv ∈ s.flows, ¬(kv.2.enabled = true ∧ kv.2.merges = true ∧ kv.2.primary = n)
    (Does .flowRead s fun t => ends 0 t ∧ t = { s with regs := t.regs } ∧
      (∀ i < 12, rget t 0x110 (0x80 + 4 * i) = f.w i) ∧ rget t 0x110 0xB0 = f.rx % 2 ^ 32 ∧
      rget t 0x110 0xB8 = f.lost % 2 ^ 32 ∧
      SameRegs s t fun page off => page = 0x110 ∧ (off = 0x48 ∨ 0x80 ≤ off ∧ off < 0xCC)) ∧
    (f.enabled = true → Does .flowWrite s (only 4) ∧ Does .flowEnable s (only 0)) ∧
    (f.enabled = false → Does .flowWrite s fun t => only 0 { t with flows := s.flows } ∧
      getFlow t n = { f with words := data } ∧
      ∀ m, m ≠ n → getFlow t m = getFlow s m) ∧
    (f.enabled = false → flowBad s f = true → Does .flowEnable s (only 1)) ∧
    (f.enabled = false → flowBad s f = false → f.merges = false → poolEcc s 4 = false → Does .flowEnable s (only 2)) ∧
    (∀ bufs u, f.enabled = false → flowBad s f = false → f.merges = false → poolEcc s 4 = true →
      takeJb f.jb64 s = some (bufs, u) → Does .flowEnable s fun t => ends 0 t ∧ told n true t ∧
        (getFlow t n).enabled = true ∧ (getFlow t n).words = f.words ∧ (getFlow t n).bufs = bufs ∧
        (getFlow t n).held = [] ∧ t.talus = u.talus) ∧
    (f.enabled = false → flowBad s f = false → f.merges = true → Does .flowEnable s fun t => ends 0 t ∧ told n true t ∧
      (getFlow t n).enabled = true ∧ (getFlow t n).words = f.words ∧ t.talus = s.talus) ∧
    ((∃ c < 256, usesFlow s n c = true) → Does .flowDisable s (only 3)) ∧
    (free → f.enabled = false → Does .flowDisable s (only 0)) ∧
    (free → f.enabled = true → NoneWait s → Does .flowDisable s fun t => ends 0 t ∧ told n false t ∧
      (getFlow t n).enabled = false ∧ (getFlow t n).held = [] ∧ (getFlow t n).words = f.words) ∧
    ∀ m : Fin 4096, (getFlow s m).enabled = true → (getFlow s m).joinAt ≠ 0 →
      (getFlow s m).joinAt + 10 ^ 9 ≤ s.devtime + 1 → Does (.membershipReport m) s fun t =>
        t = { s with flows := t.flows, out := t.out } ∧ told m true t ∧
        getFlow t m = { getFlow s m with joinAt := 0 }

/-- SERVICE_READ, SERVICE_WRITE, SERVICE_ENABLE, SERVICE_DISABLE and PSI_REPEAT act on a service and set RESULT
(R207, R208, R218). -/
def Obligations.ServiceCommands : Prop :=
  ∀ s : State,
    let n := svcSel s
    let x := getSvc s n
    let only := fun (r : Nat) (t : State) => fget t 0x111 F.PKT1_SVC_CMD_RESULT = r ∧ t = { s with regs := t.regs } ∧
      SameRegs s t fun page off => page = 0x111 ∧ off = 0x48
    let data : List Word := (List.range 8).map fun i =>
      BitVec.ofNat 32 (rget s 0x111 (0x80 + 4 * i) &&& svcMasks.getD i 0)
    let sets := fun (y : Svc) (t : State) => only 0 { t with svcs := s.svcs } ∧ getSvc t n = y ∧
      ∀ m, m ≠ n → getSvc t m = getSvc s m
    (1024 ≤ n → Does .serviceRead s (only 1) ∧ Does .serviceWrite s (only 1) ∧ Does .serviceEnable s (only 1) ∧
      Does .serviceDisable s (only 1)) ∧
    (n < 1024 →
      (Does .serviceRead s fun t => fget t 0x111 F.PKT1_SVC_CMD_RESULT = 0 ∧ t = { s with regs := t.regs } ∧
        (∀ i < 8, rget t 0x111 (0x80 + 4 * i) = x.w i) ∧ rget t 0x111 0xA0 = x.dgrams % 2 ^ 32 ∧
        SameRegs s t fun page off => page = 0x111 ∧ (off = 0x48 ∨ 0x80 ≤ off ∧ off < 0xB0)) ∧
      (x.enabled = true → Does .serviceWrite s (only 4) ∧ Does .serviceEnable s (only 0)) ∧
      (x.enabled = false → Does .serviceWrite s (sets { x with words := data })) ∧
      (x.enabled = false → svcBad x = true → Does .serviceEnable s (only 1)) ∧
      (x.enabled = false → svcBad x = false → Does .serviceEnable s (sets
        { svc0 with enabled := true, words := x.words, psi := psiPackets s n, lastPsi := s.devtime, lastPcr := s.devtime,
                    lastSlot := s.devtime })) ∧
      (svcInUse s n = true → Does .serviceDisable s (only 3)) ∧
      (svcInUse s n = false → Does .serviceDisable s (sets
        { x with enabled := false, queue := [], pack := [], packRap := false, psi := [], audio := [], held := [] }))) ∧
    ∀ v : Fin 1024, (getSvc s v).enabled = true → (getSvc s v).lastPsi + (getSvc s v).psiNs ≤ s.devtime →
      Does (.psiRepeat v) s fun t => t = { s with svcs := t.svcs } ∧ (∀ m, m ≠ v.val → getSvc t m = getSvc s m) ∧
        getSvc t v = { getSvc s v with psi := (getSvc s v).psi ++ psiPackets s v, lastPsi := s.devtime }

/-- Packet slots, dropped audio, flushed and moved datagrams, and the PTP servo (R208, R209, R210, R212, R213,
R214). -/
def Obligations.Multiplex : Prop :=
  (∀ (v : Fin 1024) (s : State),
    let x := getSvc s v
    let slot := x.enabled = true ∧ x.rate ≠ 0 ∧ x.lastSlot + slotNs x.rate ≤ s.devtime ∧ x.pack.length + 1 < x.perDgram
    let pcr := x.lastPcr + x.pcrNs ≤ s.devtime
    let sends := fun (p : TsPacket) (rap : Bool) (f : Svc → Svc) => Does (.muxPacketSlot v) s fun t =>
      t = { s with svcs := t.svcs } ∧
      getSvc t v =
        { f x with lastSlot := x.lastSlot + slotNs x.rate, pack := x.pack ++ [{ p with cc := tget 0 x.ccs p.pid }],
                   ccs := if p.data = [] then x.ccs else tput 0 x.ccs p.pid ((tget 0 x.ccs p.pid + 1) % 16),
                   packAt := if x.pack = [] then s.devtime else x.packAt, packRap := x.packRap || rap }
    (∀ p rest, slot → x.psi = p :: rest → sends p false ({ · with psi := rest })) ∧
    (∀ u rest, slot → x.psi = [] → x.queue = u :: rest →
      let more := fun k : Nat => (⟨u.data.drop k, u.dts, false, false⟩ : PesRest) :: rest
      (¬pcr → x.audio = [] → 184 < u.data.length →
        sends ⟨x.videoPid, u.start, 0, false, u.data.take 184⟩ u.rap ({ · with queue := more 184 })) ∧
      (pcr → 176 < u.data.length → sends ⟨x.videoPid, u.start, 0, true, u.data.take 176⟩ u.rap
        ({ · with queue := more 176, lastPcr := s.devtime }))) ∧
    (∀ a rest d, slot → x.psi = [] → ¬pcr → x.audio = a :: rest → svcDelta s v = some d →
      sends ⟨x.videoPid + 1 + a.index, a.start, 0, false, if a.start then retime d a.data else a.data⟩ false
        ({ · with audio := rest })) ∧
    (slot → x.psi = [] → x.queue = [] →
      (pcr → sends ⟨x.videoPid, false, 0, true, []⟩ false ({ · with lastPcr := s.devtime })) ∧
      (¬pcr → x.audio = [] → sends nullPacket false ({ · with nulls := (x.nulls + 1) % 2 ^ 32 }))) ∧
    (∀ a rest, x.audio = a :: rest → a.at_ + 100000000 < s.devtime → Does (.audioDrop v) s fun t =>
      t = { s with svcs := t.svcs } ∧
      getSvc t v = { x with audio := dropPes a.index rest, audioDrop := (x.audioDrop + 1) % 2 ^ 32 }) ∧
    (x.enabled = true → x.rate = 0 → x.pack ≠ [] → x.packAt + x.flushNs ≤ s.devtime →
      let d : Dgram := ⟨s.dgCount, v, x.rtpHead, x.pack, s.devtime, x.packRap, 0⟩
      Does (.datagramFlush v) s fun t => (getSvc t v).pack = [] ∧ (getSvc t v).dgrams = (x.dgrams + 1) % 2 ^ 32 ∧
        t.dgCount = s.dgCount + 1 ∧ t.mem = s.mem ∧
        (storeRoom s d.bytes = false → (getSvc t v).held = x.held ++ [d] ∧ t.store = s.store)) ∧
    ∀ d rest, x.held = d :: rest →
      (storeRoom s d.bytes = false → Does (.storeMove v) s fun t => t = s) ∧
      (storeRoom s d.bytes = true → (∀ c < 256, usesSvc s v c = false) → Does (.storeMove v) s fun t =>
        (getSvc t v).held = rest ∧ t.mem = s.mem ∧ t.ctxs = s.ctxs)) ∧
  ∀ s : State,
    (∀ f err, ptpTakes s f = false ∨ fromMaster s f = false → Does (.ptpMessage (.sync f err)) s fun t => t = s) ∧
    (∀ f err, ptpTakes s f = true → fromMaster s f = true →
      (1000000 < err → s.ptp.everLocked = true → Does (.ptpMessage (.sync f err)) s fun t =>
        fget t 0x112 F.PKT2_PTP_STAT_PORT = f.port ∧ fbit t 0x112 F.PKT2_PTP_STAT_STEPPED = true ∧
        fbit t 0x112 F.PKT2_PTP_STAT_LOCKED = false ∧ t.ptp.good = 0 ∧ t.mem = s.mem ∧
        qget t 0x112 F.PKT2_PTP_OFFSET_LO_LO = twos 64 ((qget s 0x112 F.PKT2_PTP_OFFSET_LO_LO : Int) - err)) ∧
      (err.natAbs < 1000 → s.ptp.good + 1 < 16 → Does (.ptpMessage (.sync f err)) s fun t =>
        fget t 0x112 F.PKT2_PTP_STAT_PORT = f.port ∧ fbit t 0x112 F.PKT2_PTP_STAT_HOLDOVER = false ∧
        t = { s with regs := t.regs, free := s.free + 1, ptp := { s.ptp with good := s.ptp.good + 1 } } ∧
        SameRegs s t fun page off => page = 0x112 ∧ (off = 0x44 ∨ off = F.PKT2_PTP_RATE_RATE.off))) ∧
    (∀ f rank, (ptpTakes s f = false → Does (.ptpMessage (.announce f rank)) s fun t => t = s) ∧
      (ptpTakes s f = true → Does (.ptpMessage (.announce f rank)) s fun t => t = { s with ptp := { s.ptp with
        masters := (s.ptp.masters.filter fun m => !(m.port == f.port && m.clock == f.clock)) ++
          [⟨f.port, f.clock, rank, s.devtime⟩] } })) ∧
    (fbit s 0x112 F.PKT2_PTP_CTL_ENABLE = true → Does .announceReceiptTimeout s fun t =>
      fbit t 0x112 F.PKT2_PTP_STAT_HOLDOVER = true ∧ fbit t 0x112 F.PKT2_PTP_STAT_LOCKED = false ∧
      t.ptp = { s.ptp with good := 0, masters := s.ptp.masters.filter fun m => bestMaster s.ptp.masters != some m } ∧
      t.mem = s.mem) ∧
    (fbit s 0x112 F.PKT2_PTP_CTL_ENABLE = false → Does .announceReceiptTimeout s fun t => t = s)

/-- WIN_READ, WIN_WRITE, QUEUE_ENABLE to QUEUE_DRAINED and AGE_DROP act on a queue and set RESULT (R221, R222, R223,
R226, R228). -/
def Obligations.QueueWindow : Prop :=
  (∀ s : State,
    let i := winIndex s
    let x := getQueue s i
    let only := fun (r : Nat) (t : State) => fget t 0x120 F.SHALE0_WIN_CMD_RESULT = r ∧ t = { s with regs := t.regs } ∧
      SameRegs s t fun page off => page = 0x120 ∧ off = 0x44
    let sets := fun (f : Queue → Prop) (t : State) => fget t 0x120 F.SHALE0_WIN_CMD_RESULT = 0 ∧ f (getQueue t i) ∧
      (∀ q, q ≠ i → getQueue t q = getQueue s q) ∧ t.mem = s.mem ∧
      SameRegs s t fun page off => page = 0x120 ∧ (off = 0x44 ∨ off = 0x48)
    (winNode s = true → Does .queueEnable s (only 1) ∧ Does .queueAlloc s (only 1) ∧ Does .queueFree s (only 1) ∧
      ∀ b, Does (.queueDisable b) s (only 1)) ∧
    (winNode s = false → x.allocated = false → Does .winRead s (only 5) ∧ Does .winWrite s (only 5) ∧
      Does .queueEnable s (only 5) ∧ Does .queueFree s (only 5) ∧ ∀ b, Does (.queueDisable b) s (only 5)) ∧
    (winNode s = false → x.allocated = true → Does .winRead s fun t => fget t 0x120 F.SHALE0_WIN_CMD_RESULT = 0 ∧
      t = { s with regs := t.regs } ∧ (∀ k < 14, rget t 0x120 (0x80 + 4 * k) = wordAt x.words k) ∧
      SameRegs s t fun page off => page = 0x120 ∧ (off = 0x44 ∨ 0x80 ≤ off ∧ off < 0xD0)) ∧
    (winNode s = false → x.allocated = true → x.live = false →
      let w := winWords s queueMasks
      ((shapeOf w).ok = false → Does .winWrite s (only 1)) ∧
      ((shapeOf w).ok = true → Does .winWrite s (sets fun y => y.words = w ∧ y.shaper.pend = true ∧
        y.shaper.newRateC = bitsOf (wordAt w 1) 0 26 ∧ y.shaper.newRateP = bitsOf (wordAt w 2) 0 26 ∧
        y.shaper.newBurstC = bitsOf (wordAt w 3) 0 24 ∧ y.shaper.newBurstP = bitsOf (wordAt w 4) 0 24 ∧
        y.shaper.levC = x.shaper.levC ∧ y.holds = x.holds)) ∧
      (queueEntryBad s x = true → Does .queueEnable s (only 1)) ∧
      (queueEntryBad s x = false → Does .queueEnable s (sets fun y => y.enabled = true ∧ y.draining = false ∧
        y.words = x.words ∧ y.holds = x.holds)) ∧
      Does .queueFree s (sets fun y => y = queue0)) ∧
    (winNode s = false → x.allocated = true → x.live = true → Does .queueEnable s (only 4) ∧ Does .queueFree s (only 4)) ∧
    (winNode s = false → x.allocated = true →
      Does (.queueDisable true) s (sets fun y => y.enabled = false ∧ y.draining = false ∧ y.holds = []) ∧
      (x.enabled = true → Does (.queueDisable false) s (sets fun y => y = { x with enabled := false, draining := true })) ∧
      (x.enabled = false → Does (.queueDisable false) s (only 0))) ∧
    (winNode s = false → freeQueue s < 32768 → Does .queueAlloc s fun t => fget t 0x120 F.SHALE0_WIN_CMD_RESULT = 0 ∧
      winIndex t = freeQueue s ∧ getQueue t (freeQueue s) = { queue0 with words := queueWords0 } ∧ t.mem = s.mem ∧
      ∀ q, q ≠ freeQueue s → getQueue t q = getQueue s q)) ∧
  ∀ (q : Fin 32768) (s : State),
    let x := getQueue s q
    (x.draining = true → x.holds = [] → Does (.queueDrained q) s fun t => getQueue t q = { x with draining := false } ∧
      t = { s with regs := t.regs, queues := t.queues } ∧ SameRegs s t fun page off => page = 0x120 ∧ off = 0x48) ∧
    (x.draining = false ∨ x.holds ≠ [] → Does (.queueDrained q) s fun t => t = s) ∧
    ∀ h d, x.holds = [h] → findD s h = some d →
      (x.ageMax * 1000000 < s.devtime - d.at_ → Does (.ageDrop q) s fun t =>
        getQueue t q = { x with holds := [], drops := (x.drops + 1) % 2 ^ 32 } ∧ t.mem = s.mem ∧
        fget t 0x120 F.SHALE0_CNT_DROP_COUNT = (fget s 0x120 F.SHALE0_CNT_DROP_COUNT + 1) % 2 ^ 32 ∧
        SameRegs s t fun page off => page = 0x120 ∧ off = 0x4C) ∧
      (s.devtime - d.at_ ≤ x.ageMax * 1000000 → Does (.ageDrop q) s fun t => t = s)

/-- REFILL_TICK, SHAPER_WRITE and PORT_FRAME_START: buckets fill to their cap, settings are checked, one frame
leaves (R211, R224, R225, R226, R227, R228, R324). -/
def Obligations.ShapersAndFrames : Prop :=
  (∀ (node : Node) (s : State),
    let shaper : State → Shaper := fun t => match node with
      | .queue q => (getQueue t q).shaper
      | .service n => (getSnode t n).shaper
      | .tclass p tc => tcShaper t p tc
      | .port p => (getPnode t p).port
    let present : Prop := match node with
      | .queue q => (getQueue s q).allocated = true
      | _ => True
    let x := shaper s
    (atTick s x.k = false → Does (.refillTick node) s fun t => t = s) ∧
    (present → atTick s x.k = true → x.pend = false → Does (.refillTick node) s fun t =>
      (shaper t).levC = min (x.levC + ((x.rateC * 2 ^ x.k : Nat) : Int)) ((x.burstC * 1000 : Nat) : Int) ∧
      (shaper t).levP = min (x.levP + ((x.rateP * 2 ^ x.k : Nat) : Int)) ((x.burstP * 1000 : Nat) : Int) ∧
      (shaper t).rateC = x.rateC ∧ (shaper t).k = x.k ∧
      t = { s with queues := t.queues, snodes := t.snodes, pnodes := t.pnodes }) ∧
    (present → atTick s x.k = true → x.pend = true → Does (.refillTick node) s fun t =>
      (shaper t).pend = false ∧ (shaper t).rateC = x.newRateC ∧ (shaper t).rateP = x.newRateP ∧ (shaper t).k = x.newK ∧
      (shaper t).burstC = x.newBurstC ∧ (shaper t).burstP = x.newBurstP ∧
      t = { s with queues := t.queues, snodes := t.snodes, pnodes := t.pnodes })) ∧
  (∀ (p : Fin 8) (i : Fin 9) (word : Fin 4) (val : Word) (s : State),
    let page := portPage p
    let w := portShape s p i
    let v := val.toNat
    let new : ShapeWords := match word with
      | 0 => { w with c := (if bitsOf v 26 3 = 7 then splice v 26 3 w.k else v) % 2 ^ 29 }
      | 1 => { w with p := v % 2 ^ 26 }
      | 2 => { w with bc := v % 2 ^ 24 }
      | 3 => { w with bp := v % 2 ^ 24 }
    let node := fun t : State => if i = 0 then (getPnode t p).port else tcShaper t p (i.val - 1)
    (new.ok = false → Does (.shaperWrite p i word val) s fun t => fbit t page F.SHALEP_GATE_CTL_SHAPE_ERR = true ∧
      t = { s with regs := t.regs } ∧ SameRegs s t fun q off => q = page ∧ off = 0x100) ∧
    (new.ok = true → Does (.shaperWrite p i word val) s fun t => portShape t p i = new ∧ (node t).pend = true ∧
      (node t).newRateC = new.rateC ∧ (node t).newRateP = new.rateP ∧ (node t).newK = new.k ∧
      (node t).newBurstC = new.burstC ∧ (node t).newBurstP = new.burstP ∧ (node t).levC = (node s).levC ∧
      t = { s with regs := t.regs, pnodes := t.pnodes } ∧
      SameRegs s t fun q off => q = page ∧ 0x40 + 0x10 * i.val ≤ off ∧ off < 0x50 + 0x10 * i.val)) ∧
  ∀ (p : Fin 8) (s : State),
    let u := (portQueues s p).foldl (fun s q => ageDrops (getQueue s q).holds.length s q) s
    (s.pins.stopped = true ∨ fbit s (ethPage p) F.ETH_STATUS_LINK = false → Does (.portFrameStart p) s fun t =>
      t = u ∧ t.out = s.out ∧ t.mem = s.mem) ∧
    ∀ tc n q h rest d, s.pins.stopped = false → fbit s (ethPage p) F.ETH_STATUS_LINK = true →
      choose u p = some (tc, n, q) → (getQueue u q).holds = h :: rest → findD u h = some d →
      Does (.portFrameStart p) s fun t => (getQueue t q).holds = rest ∧
        t.out = .frame p q h (frameBytes (portAddr u p) (getQueue u q).words d (pcrStc u (getQueue u q).words d)) :: s.out ∧
        (getQueue t q).sent = ((getQueue u q).sent + 1) % 2 ^ 32 ∧ t.mem = s.mem ∧
        (getQueue t q).shaper.levP = (getQueue u q).shaper.levP - (countedLen (getQueue u q).words d * 1000 : Nat) ∧
        fget t (ethPage p) F.ETH_CNT_TX_COUNT = (fget s (ethPage p) F.ETH_CNT_TX_COUNT + 1) % 2 ^ 32

/-- GATE_COMMIT to GATE_ENTRY_CHANGE, SAMPLE_TICK and SAMPLE_SWAP (R229, R231, R232, R234). -/
def Obligations.GatesAndSamples : Prop :=
  (∀ (p : Fin 8) (s : State),
    let page := portPage p
    let cycle := fget s page F.SHALEP_GATE_CYCLE_CYCLE
    let len := fget s page F.SHALEP_GATE_LEN_LEN
    let base := (qget s page F.SHALEP_GATE_BASE_LO_LO : Int)
    let need := ptpTime s + (fget s page F.SHALEP_GATE_CTL_MIN_LEAD_US * 1000 : Nat)
    let inRange := fun n : Nat => 32 ≤ n ∧ n ≤ 1000000000
    let valid := gatePending s p = false ∧ 1 ≤ len ∧ len ≤ 256 ∧ inRange cycle ∧ ∀ e ∈ adminList s p, inRange e.2
    let here := fun q off : Nat => q = page ∧ (off = 0x118 ∨ off = 0x130 ∨ off = 0x134 ∨ off = F.HDR_IRQ_STATUS_CAUSE.off)
    let starts := fun (start : Int) (late : Prop) (t : State) => gatePending t p = true ∧
      qget t page F.SHALEP_GATE_START_LO_LO = (start % (2 ^ 64 : Int)).toNat ∧
      (late → fbit t page F.SHALEP_GATE_CMD_LATE_START = true) ∧ t = { s with regs := t.regs, srcs := t.srcs } ∧
      SameRegs s t here
    (¬valid → Does (.gateCommit p) s fun t => fbit t page F.SHALEP_GATE_CMD_GATE_ERR = true ∧
      gatePending t p = gatePending s p ∧ t = { s with regs := t.regs, srcs := t.srcs } ∧ SameRegs s t here) ∧
    (valid → need ≤ base → Does (.gateCommit p) s (starts base False)) ∧
    (∀ start : Int, valid → base < need → need ≤ start → start < need + cycle → (start - base) % cycle = 0 →
      Does (.gateCommit p) s (starts start True)) ∧
    (Does (.gateCancel p) s fun t => gatePending t p = false ∧ t = { s with regs := t.regs } ∧ SameRegs s t here) ∧
    (gatePending s p = true → (qget s page F.SHALEP_GATE_START_LO_LO : Int) ≤ ptpTime s → Does (.gateSwap p) s fun t =>
      gatePending t p = false ∧ (getPnode t p).oper = adminList s p ∧ (getPnode t p).operCycle = cycle ∧
      (getPnode t p).operStart = qget s page F.SHALEP_GATE_START_LO_LO ∧ t.mem = s.mem) ∧
    (gatePending s p = false ∨ ptpTime s < (qget s page F.SHALEP_GATE_START_LO_LO : Int) →
      Does (.gateSwap p) s fun t => t = s) ∧
    (let x := getPnode s p
     let e := entryAt 0 (cutList x.oper x.operCycle) (operOff s p)
     x.oper ≠ [] → Does (.gateEntryChange p) s fun t => fget t page F.SHALEP_GATE_STAT_ENTRY = e.1 % 256 ∧
      fget t page F.SHALEP_GATE_STAT_OPEN = (if gateEn s p then e.2 % 256 else 255) ∧ t = { s with regs := t.regs } ∧
      SameRegs s t fun q off => q = page ∧ off = 0x128)) ∧
  ∀ (s : State) (failed : List (Fin 32768)),
    let due := fbit s 0x120 F.SHALE0_SAMPLE_CTL_ENABLE = true ∧
      s.devtime % (fget s 0x120 F.SHALE0_SAMPLE_CTL_PERIOD_MS * 1000000) = 0
    let act := fget s 0x120 F.SHALE0_SAMPLE_CTL_ACTIVE
    let now := if fbit s 0x120 F.SHALE0_SAMPLE_CTL_SWAP then 1 - act else act
    let base := qget s 0x120 F.SHALE0_SAMPLE_BASE_LO_LO + 2 ^ 18 * now
    (¬due → Does (.sampleTick failed) s fun t => t = s) ∧
    (due → (∀ kv ∈ s.queues, kv.1 < 32768) → Does (.sampleTick failed) s fun t =>
      fget t 0x120 F.SHALE0_SAMPLE_SEQ_COUNT = (fget s 0x120 F.SHALE0_SAMPLE_SEQ_COUNT + 1) % 2 ^ 32 ∧
      fget t 0x120 F.SHALE0_SAMPLE_CTL_ACTIVE = now ∧ fbit t 0x120 F.SHALE0_SAMPLE_CTL_SWAP = false ∧
      (∀ q ∈ failed, memReadN t (base + 8 * q) 8 = memReadN s (base + 8 * q) 8) ∧
      ∀ a, a < base ∨ base + 2 ^ 18 ≤ a → memRead t a = memRead s a) ∧
    Does .sampleSwap s fun t => fbit t 0x120 F.SHALE0_SAMPLE_CTL_SWAP = true ∧ t = { s with regs := t.regs } ∧
      SameRegs s t fun page off => page = 0x120 ∧ off = 0x68

/-- PPU_JOB_ISSUE places a job or passes the picture through; PPU_JOB_COMPLETE lets the picture move on (R89, R180,
R181, R189, R191, R192). -/
def Obligations.PictureJobs : Prop :=
  (∀ (d : Fin 256) (bus : List BusLayer) (failed : List Nat) (s : State),
    let page := ctxPage d
    let l := readLayers s d bus failed
    (nextLink s d = none → Does (.ppuJobIssue d bus failed) s fun t => t = s) ∧
    ∀ p, nextLink s d = some p →
      (jobNeeded s d p = false → p.src = 256 → (getCtx s d).linkPics = [p] → Does (.ppuJobIssue d bus failed) s fun t =>
        fbit t page F.CTX_PP_STAT_PASSTHRU = true ∧ (getCtx t d).queued = (getCtx s d).queued ++ [p.pic] ∧
        (getCtx t d).linkPics = [] ∧ t = { s with regs := t.regs, ctxs := t.ctxs } ∧
        SameRegs s t fun q off => q = page ∧ off = 0x1FC) ∧
      (jobNeeded s d p = true → linkFirst s d p = false → Does (.ppuJobIssue d bus failed) s fun t => t = s) ∧
      ∀ u, jobNeeded s d p = true → linkFirst s d p = true → choosePpu s d p (ppuTime s d p l.1).2 = some u →
        Does (.ppuJobIssue d bus failed) s fun t => t.mem = s.mem ∧ fbit t page F.CTX_PP_STAT_PASSTHRU = false ∧
          (∀ q ∈ (getCtx t d).linkPics, q.pts = p.pts → q.ready = false →
            q.pix = ppuPicture (active s d) (ppuSource s d p) l.1) ∧
          (getEng t u).held = [⟨.ppu d p.pts, (ppuTime s d p l.1).2, s.devtime, true, false, tracker0, run0⟩] ∧
          (l.2 = true → fbit t page F.CTX_PP_STAT_LAYER_ERR = true) ∧
          ((∀ j ∈ (getCtx s d).ppJobs, j.1 ≠ p.pts) → (getCtx t d).ppJobs =
            (getCtx s d).ppJobs ++ [(p.pts, fget s page F.CTX_PP_LAYER_CTL_SEQ)])) ∧
  ∀ (u : Fin 8) (s : State) (h : Held) (rest : List Held) (d : Fin 256) (p : LinkPic),
    let page := ppuPage u
    (getEng s page).held = h :: rest → h.job = .ppu d p.pts → domOn s (domainOf page) = true → blkReady s page = true →
    (getCtx s d).linkPics = [p] → p.busy = true → p.ready = false → p.src = 256 →
    Does (.ppuJobComplete u) s fun t => t.mem = s.mem ∧ (getEng t page).held = [] ∧
      fget t page F.PPU_CNT_JOB_COUNT = (fget s page F.PPU_CNT_JOB_COUNT + 1) % 2 ^ 32 ∧
      (getCtx t d).linkPics = [] ∧ (getCtx t d).queued = (getCtx s d).queued ++ [p.pic] ∧
      ∀ y ∈ (getCtx t d).submits, y.num = p.pic → y.planes = planesOf (active s d).unit p.pix

/-- What each mailbox command does, and the result it answers (R26, R294, R329, R330, R331, R332). -/
def Obligations.MailboxCommands : Prop :=
  ∀ (via : MbxVia) (tag : BitVec 16) (s : State), Open s via →
    let ans := Answered via tag
    let free := s.bdrk.lock = none ∨ s.bdrk.lock = some via
    (∀ (slot : Fin 2) (size : Word), free → Does (.updBegin via tag slot size false) s fun t =>
      ans 0 t ∧ t.bdrk.lock = some via ∧ t.bdrk.lockAt = s.devtime ∧ t.bdrk.slotOf = some slot.val ∧ SameMem s t ∧
      fbit t 1 F.BDRK1_STATUS_UPD_LOCK = true ∧ fbit t 1 F.BDRK1_STATUS_UPD_MCTP = (via == .mctp) ∧
      ∀ k, tget (0xFF : Byte) t.bdrk.slots k =
        if k / slotBytes = slot then 0xFF else tget (0xFF : Byte) s.bdrk.slots k) ∧
    (∀ (off len : Word) (msg : List Byte) (slot : Nat), free → s.bdrk.slotOf = some slot →
      1 ≤ len.toNat → len.toNat ≤ (if via = .pf then 12288 else 1024) → off.toNat + len.toNat ≤ slotBytes →
      Does (.updData via tag off len msg false) s fun t => ans 0 t ∧ t.bdrk.lock = s.bdrk.lock ∧ SameMem s t ∧
        (∀ i < len.toNat, tget (0xFF : Byte) t.bdrk.slots (slot * slotBytes + off.toNat + i) =
          if via = .pf then bufByte s i else msg.getD i 0) ∧
        ∀ k, (∀ i < len.toNat, k ≠ slot * slotBytes + off.toNat + i) →
          tget (0xFF : Byte) t.bdrk.slots k = tget (0xFF : Byte) s.bdrk.slots k) ∧
    (∀ (off len : Word) (msg : List Byte), free → s.bdrk.slotOf = none →
      1 ≤ len.toNat → len.toNat ≤ (if via = .pf then 12288 else 1024) → off.toNat + len.toNat ≤ slotBytes →
      Does (.updData via tag off len msg false) s fun t => ans 0 t ∧ SameMem s t) ∧
    (∀ (off len : Word) (msg : List Byte), free →
      len.toNat = 0 ∨ (if via = .pf then 12288 else 1024) < len.toNat ∨ slotBytes < off.toNat + len.toNat →
      Does (.updData via tag off len msg false) s fun t => (∃ r < 7, ans r t) ∧ t.bdrk.slots = s.bdrk.slots) ∧
    (∀ (slot : Fin 2) (size off len : Word) (msg : List Byte), free →
      Does (.updBegin via tag slot size true) s (ans 5) ∧ Does (.updData via tag off len msg true) s (ans 5)) ∧
    (∀ check : PackageCheck,
      free → Does (.updCommit via tag check) s fun t => ans (verdict s check) t ∧
        t.bdrk.lock = none ∧ fbit t 1 F.BDRK1_STATUS_UPD_LOCK = false ∧ t.bdrk.slots = s.bdrk.slots) ∧
    (free → Does (.updAbort via tag) s fun t => ans 0 t ∧ t.bdrk.lock = none ∧ t.bdrk.slots = s.bdrk.slots) ∧
    (∀ other, s.bdrk.lock = some other → other ≠ via →
      ∀ (slot : Fin 2) (size off len : Word) (msg : List Byte) (check : PackageCheck) (fails : Bool),
      ∀ c ∈ [Instr.updBegin via tag slot size fails, .updData via tag off len msg fails, .updCommit via tag check,
        .updAbort via tag], Does c s fun t => ans 2 t ∧ t.bdrk = s.bdrk ∧ SameMem s t) ∧
    (∀ a b : PackageCheck, Does (.restartBedrock via tag a b) s fun t => ans 0 t ∧ SameMem s t ∧ t.bdrk.kick = none ∧
      match pickSlot s a b with
      | some (slot, v, _) => t.chip.fwRuns = true ∧ t.chip.fwVer = v ∧ fget t 0 F.CHIP_STATE_SLOT = slot
      | none => t.chip.fwRuns = false ∧ fbit t 1 F.BDRK1_STATUS_ROM_ONLY = true) ∧
    (∀ (cl slot : Fin 2) (check : PackageCheck),
      (clusterUp s (1 - cl) = true → s.bdrk.qz = none → hostedOn s cl = 0 →
        Does (.qzUpdate via tag cl slot check) s fun t => ans (verdict s check) t ∧ t.bdrk.qz = none) ∧
      (clusterUp s (1 - cl) = true → s.bdrk.qz = none → hostedOn s cl ≠ 0 →
        Does (.qzUpdate via tag cl slot check) s fun t => t.bdrk.qz = some ⟨via, tag.toNat, cl, check⟩ ∧
          clusterUp t cl = false ∧ (via = .pf → fbit t 2 F.BDRK2_MBX_STAT_BUSY = true)) ∧
      (clusterUp s (1 - cl) = false → Does (.qzUpdate via tag cl slot check) s fun t => ans 6 t ∧ t.bdrk = s.bdrk)) ∧
    (Does (.avsAck via tag) s fun t => ans 0 t ∧ fbit t 0x10 F.PWR_AVS_ACK = true ∧ t.bdrk = s.bdrk) ∧
    (∀ msg : List Word, Does (.agent via tag msg) s fun t => ans 0 t ∧
      t.bdrk = { s.bdrk with agentSq := s.bdrk.agentSq ++ [agentDesc s via msg] }) ∧
    (∀ count : Word,
      (1 ≤ count.toNat → count.toNat ≤ 64 → Does (.agentPoll via tag count) s fun t => ans 0 t ∧
        fget t 2 F.BDRK2_MBX_RES_P0 = min count.toNat s.bdrk.agentCq.length ∧
        t.bdrk = { s.bdrk with agentCq := s.bdrk.agentCq.drop count.toNat }) ∧
      (count.toNat = 0 ∨ 64 < count.toNat → Does (.agentPoll via tag count) s fun t =>
        (∃ r < 7, ans r t) ∧ t.bdrk = s.bdrk)) ∧
    Does (.mailboxBadCmd via tag) s fun t => ans 1 t ∧ t.bdrk = s.bdrk

/-- HEARTBEAT, the update lock, MCTP control, the console, GPIO inputs, sensors and Quartz clusters (R314, R328,
R330, R332, R333, R334, R353, R369, R370). -/
def Obligations.BedrockSignals : Prop :=
  ∀ s : State,
    (s.chip.fwRuns = true → Does .heartbeatKick s fun t => t = { s with bdrk := { s.bdrk with kick := some s.devtime } }) ∧
    (s.chip.fwRuns = false → Does .heartbeatKick s fun t => t = s) ∧
    (heartbeatFree s = true → Does .heartbeatToggle s fun t =>
      t.pins = { s.pins with heartbeat := !s.pins.heartbeat } ∧ fbit t 1 F.BDRK1_STATUS_HB_LEVEL = !s.pins.heartbeat ∧
      heartbeatFree t = false ∧ SameMem s t ∧ SameRegs s t fun page off => page = 1 ∧ off = 0x40) ∧
    (heartbeatFree s = false → Does .heartbeatToggle s fun t => t = s) ∧
    (s.bdrk.lock.isSome = true → s.bdrk.lockAt + 10 * 10 ^ 9 ≤ s.devtime → Does .updateLockTimeout s fun t =>
      t.bdrk.lock = none ∧ fbit t 1 F.BDRK1_STATUS_UPD_LOCK = false ∧
      SameMem s t ∧ SameRegs s t fun page off => page = 1 ∧ off = 0x40) ∧
    (s.bdrk.lock = none ∨ s.devtime < s.bdrk.lockAt + 10 * 10 ^ 9 → Does .updateLockTimeout s fun t => t = s) ∧
    (∀ code : Byte, mbxServer s ≠ .nobody → Does (.mctpControlMessage code) s fun t =>
      t = { s with out := .mctp code.toNat :: s.out }) ∧
    (Does .alertResponseRead s fun t => t = { s with pins := { s.pins with alertN := false } }) ∧
    (∀ l : List Byte, inSentinel s = true → s.chip.coreFail = false → Does (.uartConsoleInput l) s fun t =>
      ∃ v, t = { s with out := .uart v :: s.out, free := s.free + 1 }) ∧
    (∀ l : List Byte, inSentinel s = false → Does (.uartConsoleInput l) s fun t => t = s) ∧
    (∀ (i : Fin 16) (level : Bool), Does (.gpioInputChange i level) s fun t =>
      (∀ j < 16, t.pins.gpio.getLsbD j = if j = i then level else s.pins.gpio.getLsbD j) ∧
      (∀ j < 16, (fget t 0 F.CHIP_GPIO_LATCH_LATCH).testBit j =
        ((fget s 0 F.CHIP_GPIO_LATCH_LATCH).testBit j || (gpioLevel t j && !gpioLevel s j))) ∧
      SameMem s t ∧ SameRegs s t fun page off => page = 0 ∧ off = 0x80) ∧
    (∀ v : Sensors, s.chip.por = false → (tempMax s v.temps).any (1840 ≤ ·) = false → reactOf s 0x10 2 ≤ 2 →
      reactOf s 1 3 ≤ 2 →
      Does (.sensorSample v) s fun t =>
        (∀ i < 24, match tempOf s (v.temps.getD i none) i with
          | some x => fget t 3 F.BDRK3_TEMP_VALUE i = twos16 x ∧ fget t 3 F.BDRK3_TEMP_VALID i = 1
          | none => fget t 3 F.BDRK3_TEMP_VALUE i = fget s 3 F.BDRK3_TEMP_VALUE i ∧ fget t 3 F.BDRK3_TEMP_VALID i = 0) ∧
        (∀ x, tempMax s v.temps = some x → fget t 3 F.BDRK3_TEMP_MAX_VALUE = twos16 x) ∧
        (∀ i < 12, fget t 3 F.BDRK3_VMON_MV i = v.volts.getD i 0 % 2 ^ F.BDRK3_VMON_MV.width) ∧
        (∀ i < 11, fget t 3 F.BDRK3_IEST_MA i = v.amps.getD i 0 % 2 ^ F.BDRK3_IEST_MA.width) ∧ SameMem s t) ∧
    (∀ v : Sensors, s.chip.por = false → (tempMax s v.temps).any (1840 ≤ ·) = true → Does (.sensorSample v) s fun t =>
      t.chip.trip = true ∧ t.chip.por = true ∧ t.pins.thermtrip = true) ∧
    (∀ cl : Fin 2, domOn s (49 + cl) = true → clusterUp s cl = false → s.bdrk.qz = none → inReset s (qzPage cl) = false →
      readyBit s 61 = true → readyBit s 63 = true →
      Does (.quartzLoaded cl true) s fun t => clusterUp t cl = true ∧ blkReady t (qzPage cl) = true ∧ SameMem s t) ∧
    ∀ c : Fin 256, let x := getCtx s c
      ctxState s c ≠ 0 → x.moving = true → clusterUp s (1 - x.cluster) = true → s.bdrk.qz = none →
      Does (.contextMove c) s fun t => getCtx t c = { x with cluster := 1 - x.cluster, moving := false } ∧
        SameMem s t ∧ SameRegs s t fun _ _ => False

/-- The PCIe link, PERST_N and the dump of the counters (R256, R309, R312, R316, R339, R343, R344, R345). -/
def Obligations.LinkAndCounters : Prop :=
  ∀ s : State,
    (∀ (speed : Fin 6) (width : Fin 17), s.chip.perst = false → s.chip.por = false → domOn s 59 = true →
      fbit s 0x140 F.PCIE_LINK_STAT_UP = false → 1 ≤ speed.val → Does (.pcieLinkUp speed width) s fun t =>
        fget t 0x140 F.PCIE_LINK_STAT_SPEED = speed ∧ fget t 0x140 F.PCIE_LINK_STAT_WIDTH = width ∧
        fbit t 0x140 F.PCIE_LINK_STAT_UP = true ∧ t.chip.linkState = .l0 ∧ t.pins.wake = false ∧
        (fget t 0x140 F.HDR_IRQ_STATUS_CAUSE).testBit 1 = true ∧ SameMem s t ∧
        SameRegs s t fun page off => page = 0x140 ∧ (off = 0x40 ∨ off = 0x2C)) ∧
    (let idle := reactOf s 0x140 4 ≤ 2 ∧ NoneWait s ∧ ∀ fn ∈ 0 :: vfsOn s, heldBy s fn = []
     let gone := fun t : State => vfsOn t = [] ∧ getFunc t 0 = func0
     let shown := fun t : State => rget t 0x140 0x40 = 0 ∧ t.chip.linkState = .l0
     (fbit s 0x140 F.PCIE_LINK_STAT_UP = true → Does .linkDown s fun t => gone t ∧ (idle → shown t ∧ SameMem s t ∧
       (fget s 0x140 F.PCIE_CNT_LINK_DOWN_COUNT + 1 < 2 ^ 32 →
         fget t 0x140 F.PCIE_CNT_LINK_DOWN_COUNT = fget s 0x140 F.PCIE_CNT_LINK_DOWN_COUNT + 1))) ∧
     (fbit s 0x140 F.PCIE_LINK_STAT_UP = false → Does .linkDown s fun t => t = s) ∧
     (Does .perstNAssert s fun t => gone t ∧ (idle → shown t ∧ SameMem s t ∧ t.chip.perst = true ∧
       fbit t 0x11 F.CLK_SRC_REFCLK_OK = false))) ∧
    (s.chip.por = false → Does .perstNDeassert s fun t => t.chip = { s.chip with perst := false } ∧
      fbit t 0x11 F.CLK_SRC_REFCLK_OK = true ∧ SameMem s t ∧ SameRegs s t fun page off => page = 0x11 ∧ off = 0x48) ∧
    (∀ d : LinkState, fbit s 0x140 F.PCIE_LINK_STAT_UP = true → Does (.aspmL1Transition d) s fun t =>
      t.chip.linkState = d ∧ fbit t 0x140 F.PCIE_LINK_STAT_L12 = (d == .l12) ∧
      t.pins.wake = (s.pins.wake && d != .l0) ∧ SameMem s t ∧ SameRegs s t fun page off => page = 0x140 ∧ off = 0x40) ∧
    (Does .perfClear s fun t => t = { s with perf := { s.perf with cnt := [], work := [], seen := s.devtime } }) ∧
    (let full := ringFull (fget s 0x30 F.PERF0_RING_LOG2_LOG2) (fget s 0x30 F.PERF0_RING_WR_WR) (fget s 0x30 F.PERF0_RING_RD_RD)
     let u := observeSlots (fset { s with perf := { s.perf with ticks := s.perf.ticks + 1, lastTick := s.devtime } } 0x30
       F.PERF0_DUMP_SEQ_SEQ s.perf.ticks)
     let rec_ := dumpRecord u s.perf.ticks
     let at_ := qget s 0x30 F.PERF0_RING_BASE_LO_LO + rec_.length * fget s 0x30 F.PERF0_RING_WR_WR
     (dumpDue s = false → Does .dumpTick s fun t => t = s) ∧
     (dumpDue s = true → full = true ∨ s.perf.writing = true → Does .dumpTick s fun t =>
       t.perf = { s.perf with ticks := s.perf.ticks + 1, lastTick := s.devtime, dropped := s.perf.dropped + 1 } ∧
       (fget t 0x30 F.HDR_IRQ_STATUS_CAUSE).testBit 2 = true ∧
       fget t 0x30 F.PERF0_DUMP_SEQ_SEQ = s.perf.ticks % 2 ^ 32 ∧ SameMem s t) ∧
     (dumpDue s = true → full = false → s.perf.writing = false → Does .dumpTick s fun t =>
       t.perf.writing = true ∧ t.perf.ticks = s.perf.ticks + 1 ∧ t.perf.dropped = 0 ∧ t.perf.cnt = u.perf.cnt ∧
       fget t 0x30 F.PERF0_RING_WR_WR = fget s 0x30 F.PERF0_RING_WR_WR ∧
       (fbit s 0x30 F.PERF0_CTL_RING_LOC = false → t.out = .busWrite 0 at_ rec_ :: s.out ∧ SameMem s t) ∧
       (fbit s 0x30 F.PERF0_CTL_RING_LOC = true → (∀ i < rec_.length, memRead t (at_ + i) = rec_.getD i 0) ∧
         ∀ a, (∀ i < rec_.length, a ≠ at_ + i) → memRead t a = memRead s a))) ∧
    (s.perf.writing = true → Does .dumpRecordWritten s fun t => t.perf.writing = false ∧ t.perf.cnt = s.perf.cnt ∧
      fget t 0x30 F.PERF0_RING_WR_WR =
        (fget s 0x30 F.PERF0_RING_WR_WR + 1) % 2 ^ fget s 0x30 F.PERF0_RING_LOG2_LOG2 % 2 ^ 16 ∧
      (fget s 0x30 F.PERF0_DUMP_IRQ_EVERY ≠ 0 → fget s 0x30 F.PERF0_DUMP_IRQ_EVERY ≤ s.perf.since + 1 →
        (fget t 0x30 F.HDR_IRQ_STATUS_CAUSE).testBit 1 = true ∧ t.perf.since = 0) ∧ SameMem s t) ∧
    (s.perf.writing = false → Does .dumpRecordWritten s fun t => t = s)

/-- The expert area is locked after reset; 0x5EA7 unlocks one page's; a locked one ignores writes (R9). -/
def Obligations.ExpertArea : Prop :=
  (∀ page, hasHeader page = true → unlocked State.reset page = false) ∧
  ∀ (fn : Fin 65) (page p : Nat) (s : State), hasHeader p = true →
    (∀ val : Word, Lands s fn page 0xC p 0xC → ctxWriter s fn p 0xC = true → Does (.expertKeyWrite fn page val) s fun t =>
      unlocked t p = (val.toNat % 2 ^ 16 == 0x5EA7) ∧ SameMem s t ∧
      SameRegs s t fun q off => q = p ∧ off = 0xC) ∧
    (∀ (off : Nat) (val : BitVec 64), 0x400 ≤ off → off % 4 = 0 → Lands s fn page off p off → ctxWriter s fn p off = true →
      unlocked s p = false → Does (.registerWrite fn page off 4 val) s fun t =>
        (fget t p F.HDR_IRQ_STATUS_CAUSE).testBit 0 = true ∧ SameMem s t ∧ t.staged = s.staged ∧
        SameRegs s t fun q o => q = p ∧ o = 0x2C) ∧
    ∀ off, 0x400 ≤ off → peek (fsetb s p F.HDR_EXPERT_KEY_UNLOCKED true) p off = peek s p off

/-- Sizes, holes, RC fields, quantities of several words, and pages whose domain is off (R3, R4, R5, R6, R7, R189,
R256, R304). -/
def Obligations.RegisterAccess : Prop :=
  ∀ (fn : Fin 65) (page : Nat) (s : State),
    (∀ (off size : Nat) (val : BitVec 64), ¬(size = 4 ∧ off % 4 = 0) → ¬(size = 8 ∧ off % 8 = 0) →
      Does (.registerWrite fn page off size val) s fun t => t = s) ∧
    (∀ (off : Nat) (val : BitVec 64), resolve s fn page off = none →
      Does (.registerWrite fn page off 4 val) s fun t => t = s) ∧
    (∀ (off : Nat) (val : BitVec 64), off % 8 = 0 → ∃ u t, exec (.registerWrite fn page off 4 val) s = .next u ∧
      exec (.registerWrite fn page (off + 4) 4 (val >>> 32)) u = .next t ∧
      exec (.registerWrite fn page off 8 val) s = .next t) ∧
    (∀ (p : Nat) (val : BitVec 64), Lands s fn page 0x3C p 0x3C → hasHeader p = true → ctxWriter s fn p 0x3C = true →
      Does (.registerWrite fn page 0x3C 4 val) s fun t => rget t p 0x3C = val.toNat % 2 ^ 32 ∧ SameMem s t ∧
        SameRegs s t fun q off => q = p ∧ off = 0x3C) ∧
    (∀ (off : Nat) (bump : Word),
      (∀ size, ¬(size ∈ [1, 2, 4, 8] ∧ off % size = 0) → Does (.rcFieldRead fn page off size bump) s fun t => t = s) ∧
      (off % 8 = 0 → ∃ u t, exec (.rcFieldRead fn page off 4 bump) s = .next u ∧
        exec (.rcFieldRead fn page (off + 4) 4 bump) u = .next t ∧ exec (.rcFieldRead fn page off 8 bump) s = .next t) ∧
      ∀ size ∈ [1, 2, 4], off % size = 0 → resolve s fn page (off / 4 * 4) = none →
        Does (.rcFieldRead fn page off size bump) s fun t => t = { s with out := .readData fn 0 :: s.out }) ∧
    (∀ (off size p o : Nat) (bump : Word), let u := noteAccess s p
      size ∈ [1, 2, 4] → off % size = 0 →
      Lands s fn page (off / 4 * 4) p o → quantAt p o = none → p ≠ 0x28 → p ≠ 0x140 → p ≠ fnPage fn →
      Does (.rcFieldRead fn page off size bump) s fun t =>
        t.out = .readData fn (readSlice off size (peek u p o)) :: s.out ∧ SameMem s t ∧
        (rcMask p o ≠ 0 → rget t p o =
          (peek u p o - (peek u p o &&& rcMask p o) + (bump.toNat &&& rcMask p o)) % 2 ^ 32) ∧
        SameRegs s t fun q off => q = p ∧ off = o ∧ rcMask p o ≠ 0) ∧
    (∀ off size p o lo words : Nat, let u := noteAccess s p
      let v := if kindOf p = .perf0 ∧ o / 8 = 0xF then useFree (observeSlots u) else u
      let key := fun i : Nat => (fn.val, regKey p (lo + 4 * i))
      size ∈ [1, 2, 4] → off % size = 0 →
      Lands s fn page (off / 4 * 4) p o → quantAt p o = some (lo, words) →
      (o = lo → Does (.quantityLowWordRead fn page off size) s fun t =>
        t.out = .readData fn (readSlice off size (peek v p lo)) :: s.out ∧
        (∀ i, 1 ≤ i → i < words → t.latched.find? (·.1 == key i) = some (key i, BitVec.ofNat 32 (peek v p (lo + 4 * i)))) ∧
        SameMem s t ∧ SameRegs s t fun _ _ => False) ∧
      (∀ kv, o ≠ lo → s.latched.find? (·.1 == (fn.val, regKey p o)) = some kv →
        Does (.quantityLowWordRead fn page off size) s fun t => t.out = .readData fn (readSlice off size kv.2.toNat) :: s.out ∧
          SameMem s t ∧ SameRegs s t fun _ _ => False) ∧
      ∀ val : Word, ctxWriter s fn p o = true → quantHeld u p o = none →
        (hasHeader p = true → 0x40 ≤ o ∧ (o < 0x400 ∨ unlocked s p = true)) →
        ((rowsAt p o).all fun r => r.acc == .ro) = false →
        (o + 4 < lo + 4 * words → Does (.quantityLowerWordWrite fn page off val) s fun t =>
          t.staged.find? (·.1 == (fn.val, regKey p o)) = some ((fn.val, regKey p o), val) ∧
          (∀ k, k ≠ (fn.val, regKey p o) → t.staged.find? (·.1 == k) = s.staged.find? (·.1 == k)) ∧
          SameMem s t ∧ SameRegs s t fun _ _ => False) ∧
        (o + 4 = lo + 4 * words →
          ∀ c ∈ [Instr.quantityHighestWordWrite fn page off val, .offPageAccess fn page off (some val)] ++
            (if off / 4 * 4 = 0x1F4 then [.ppLayerBaseWrite fn page val] else []), Does c s fun t =>
            rget t p o = writtenWord s p o val.toNat % 2 ^ 32 ∧
            (∀ i, i + 1 < words →
              (s.staged.filter (fun kv => kv.1 == key i) = [] → rget t p (lo + 4 * i) = rget s p (lo + 4 * i)) ∧
              (∀ w, s.staged.filter (fun kv => kv.1 == key i) = [(key i, w)] →
                rget t p (lo + 4 * i) = writtenWord s p (lo + 4 * i) w.toNat % 2 ^ 32) ∧
              t.staged.find? (·.1 == key i) = none) ∧
            (∀ k, (∀ i, i + 1 < words → k ≠ key i) → t.staged.find? (·.1 == k) = s.staged.find? (·.1 == k)) ∧
            SameMem s t ∧ SameRegs s t fun q off => q = p ∧ ∃ i < words, off = lo + 4 * i)) ∧
    ∀ (off p o : Nat) (val : Word), let d := domainOf p
      let r := off / 4 * 4
      resolve s fn page r = some (p, o) →
      (asleep s p = false → ∃ t, exec (.offPageAccess fn page off (some val)) s = .next t ∧
        exec (.registerWrite fn page r 4 (val.setWidth 64)) s = .next t) ∧
      (domState s d = 0 ∨ domState s d = 4 → d < 60 → inSentinel s = false →
        (Does (.offPageAccess fn page off (some val)) s fun t => (getDom t d).wakeDue = true ∧
          (getDom t d).accesses = (getDom s d).accesses ++ [⟨fn, page, r, 4, some val⟩] ∧ SameMem s t ∧
          SameRegs s t fun _ _ => False) ∧
        (hasHeader p = true → o < 0xC → Does (.offPageAccess fn page off none) s fun t =>
          (∃ v, t.out = .readData fn v :: s.out) ∧ (getDom t d).accesses = (getDom s d).accesses ∧ SameMem s t) ∧
        ((hasHeader p = false ∨ 0xC ≤ o) → Does (.offPageAccess fn page off none) s fun t =>
          (getDom t d).wakeDue = true ∧ (getDom t d).accesses = (getDom s d).accesses ++ [⟨fn, page, r, 4, none⟩] ∧
          SameMem s t ∧ SameRegs s t fun _ _ => False))

/-- TALUS_ALLOC returns the lowest-numbered free buffer of the pool, tagged with the reading function (R249, R250,
R253). -/
def Obligations.TalusAllocation : Prop :=
  ∀ (fn : Fin 64) (p : Fin 8) (s : State),
    let i := firstGap 0 (usedIdx s p)
    (poolOn s p = true → i < poolCount s p →
      Does (.talusAlloc fn p) s fun t =>
        t.out = .readData fn (p * 2 ^ 28 + i) :: s.out ∧ (∀ j < i, j ∈ usedIdx s p) ∧
        getBuf t (handleOf p i) = ⟨fn, false⟩ ∧ (∀ h, h ≠ handleOf p i → getBuf t h = getBuf s h) ∧
        t = { s with talus := t.talus, perf := t.perf, out := t.out }) ∧
    (¬(poolOn s p = true ∧ i < poolCount s p) → fbit s 0x50 F.TALUS_POOL_CTL_SPILL p = false →
      Does (.talusAlloc fn p) s fun t => t.out = .readData fn 0xFFFFFFFF :: s.out ∧ t.talus = s.talus ∧
        SameMem s t ∧ SameRegs s t fun page off => page = 0x50 ∧ off = 0x2C)

/-- TALUS_FREE frees a buffer that passes the four checks, and counts the first check that fails (R251, R253). -/
def Obligations.TalusFreeChecks : Prop :=
  ∀ (fn : Fin 64) (handle : Word) (s : State),
    let h := handle.toNat
    let valid := h / 2 ^ 16 % 2 ^ 12 = 0 ∧ poolOn s (handlePool h) = true ∧ handleIdx h < poolCount s (handlePool h)
    let rejected := fun (cnt : Row) (reason : Nat) => Does (.talusFree fn handle) s fun t =>
      t.talus = s.talus ∧ SameMem s t ∧ fget t 0x50 cnt = (fget s 0x50 cnt + 1) % 2 ^ 32 ∧
      fget t 0x50 F.TALUS_LAST_REJECT_HANDLE = h ∧ fget t 0x50 F.TALUS_LAST_REJECT_INFO_OWNER = fn ∧
      fget t 0x50 F.TALUS_LAST_REJECT_INFO_REASON = reason ∧
      SameRegs s t fun page off => page = 0x50 ∧ (off = cnt.off ∨ off = 0x50 ∨ off = 0x54 ∨ off = 0x2C)
    (h = nullHandle → Does (.talusFree fn handle) s fun t => t = s) ∧
    (h ≠ nullHandle → ¬valid → rejected F.TALUS_INVALID_CNT_COUNT 0) ∧
    (h ≠ nullHandle → valid → bufUsed s h = false → rejected F.TALUS_DBL_FREE_CNT_COUNT 1) ∧
    (h ≠ nullHandle → valid → bufUsed s h = true → (getBuf s h).tag ≠ fn → rejected F.TALUS_NONOWNER_CNT_COUNT 2) ∧
    (h ≠ nullHandle → valid → bufUsed s h = true → (getBuf s h).tag = fn → (getBuf s h).held = true →
      rejected F.TALUS_HELD_CNT_COUNT 3) ∧
    (h ≠ nullHandle → valid → bufUsed s h = true → getBuf s h = ⟨fn, false⟩ → (∀ c < 256, (getCtx s c).outWait = []) →
      Does (.talusFree fn handle) s fun t => bufUsed t h = false ∧ (∀ k, k ≠ h → getBuf t k = getBuf s k) ∧
        t = { s with talus := t.talus, perf := t.perf })

/-- POOL_ENABLE and POOL_DISABLE take effect only under the conditions of R248 (R248). -/
def Obligations.PoolControl : Prop :=
  ∀ (p : Fin 8) (val : Word) (s : State),
    let count := bitsOf val.toNat 0 17
    let top := poolBase s p + count * poolSize p
    let good := poolBase s p % 2 ^ 22 = 0 ∧ 1 ≤ count ∧ count ≤ poolMax p ∧ top ≤ usableTop s ∧
      ctrlSize s ≤ poolBase s p ∧
      ∀ q ∈ poolsOn s, q ≠ p.val → overlaps (poolBase s p) top (poolBase s q) (poolEnd s q) = false
    let frame := fun t => SameMem s t ∧ SameRegs s t fun page off => page = 0x50 ∧ (off = 0x108 + 0x10 * p ∨ off = 0x2C)
    let err := fun t => (fget t 0x50 F.HDR_IRQ_STATUS_CAUSE).testBit 5 = true
    (poolOn s p = false → good → Does (.poolEnable p val) s fun t =>
      poolOn t p = true ∧ poolCount t p = count ∧ usedIdx t p = [] ∧ frame t) ∧
    (poolOn s p = false → ¬good → Does (.poolEnable p val) s fun t => poolOn t p = false ∧ err t ∧ frame t) ∧
    (poolOn s p = true → Does (.poolEnable p val) s fun t =>
      poolOn t p = true ∧ poolCount t p = poolCount s p ∧ frame t) ∧
    (poolOn s p = true → usedIdx s p = [] → Does (.poolDisable p val) s fun t => poolOn t p = false ∧ frame t) ∧
    (poolOn s p = true → usedIdx s p ≠ [] → Does (.poolDisable p val) s fun t =>
      poolOn t p = true ∧ t.talus = s.talus ∧ err t ∧ frame t)

/-- DRAM_REQUEST queues one granule; BAR2 never reaches the control region; an address that does not exist stops
(R236, R237, R239, R242, R259). -/
def Obligations.DramRequests : Prop :=
  ∀ (bar2 : Bool) (addr : Nat) (data : List (Option Byte)) (s : State),
    let a := addr / 64 * 64
    (bar2 = true → bar2Dead s addr = true → Does (.dramRequest bar2 addr data) s fun t =>
      t = { s with out := if data = [] then .granule a (List.replicate 64 0) false :: s.out else s.out }) ∧
    (bar2 = false → chanOf s a = none ∨ capacity s ≤ a →
      exec (.dramRequest bar2 addr data) s = .fault .noSuchAccess) ∧
    ∀ ch, (bar2 && bar2Dead s addr) = false → chanOf s a = some ch → a < capacity s →
      domOn s (groupDom ch) = true → zeroing s a = false →
      (data = [] → (getDmc s ch).reads.length < 64 → Does (.dramRequest bar2 addr data) s fun t =>
        (getDmc t ch).reads = (getDmc s ch).reads ++ [⟨a, [], s.devtime⟩] ∧ (getDmc t ch).writes = (getDmc s ch).writes ∧
        SameMem s t) ∧
      (data ≠ [] → (∀ w ∈ (getDmc s ch).writes, w.addr ≠ a) → (getDmc s ch).writes.length < 64 →
        Does (.dramRequest bar2 addr data) s fun t =>
          (getDmc t ch).writes = (getDmc s ch).writes ++ [⟨a, granuleData (addr - a) data, s.devtime⟩] ∧ SameMem s t) ∧
      (data ≠ [] → (∃ w ∈ (getDmc s ch).writes, w.addr = a) → Does (.dramRequest bar2 addr data) s fun t =>
        (getDmc t ch).writes.length = (getDmc s ch).writes.length ∧ SameMem s t ∧
        ∀ w ∈ (getDmc t ch).writes, w.addr = a → ∀ i < 64, ∀ x, (granuleData (addr - a) data)[i]? = some (some x) →
          w.data[i]? = some (some x))

/-- DRAM_ISSUE: a granule write changes exactly its enabled bytes, a granule read none (R238, R239, R243). -/
def Obligations.DramIssueServes : Prop :=
  ∀ (ch : Fin 24) (openRows errs : List Nat) (s : State), dmcServes s ch = true → refreshDue s ch = false →
    (pickReq s ch openRows = none → Does (.dramIssue ch openRows errs) s fun t => t = s) ∧
    ∀ r, pickReq s ch openRows = some r →
      let h := hazard s ch r
      (h.data ≠ [] → Does (.dramIssue ch openRows errs) s fun t =>
        (∀ i < 64, ∀ x, h.data[i]? = some (some x) → memRead t (h.addr + i) = x) ∧
        (∀ i < 64, h.data.getD i none = none → memRead t (h.addr + i) = memRead s (h.addr + i)) ∧
        ∀ a, a < h.addr ∨ h.addr + 64 ≤ a → memRead t a = memRead s a) ∧
      (h.data = [] → Does (.dramIssue ch openRows errs) s fun t => SameMem s t) ∧
      (h.data = [] → isProtected s h.addr = true → Does (.dramIssue ch openRows errs) s fun t =>
        Emit.granule h.addr (memReadN s h.addr 64) (errs.any (1 < ·) || s.poison.contains h.addr) ∈ t.out)

/-- The owed count rises at an interval and falls at a refresh; MR4_POLL sets the multiplier; training runs count
errors (R240, R241, R246). -/
def Obligations.RefreshAndPolling : Prop :=
  ∀ (ch : Fin 24) (rank : Fin 2) (s : State),
    let p := dmcPage ch
    let q := dtrnPage ch
    (dmcServes s ch = true → rank.val < ranksOf s ch →
      (if rank.val = 0 then (getDmc s ch).lastInt0 else (getDmc s ch).lastInt1) + refreshNs (getDmc s ch).mult ≤ s.devtime →
      Does (.refreshInterval ch rank) s fun t => owedOf t ch rank = min (postponeMax s ch : Int) (owedOf s ch rank + 1) ∧
        SameMem s t ∧ SameRegs s t fun page off => page = p ∧ off = 0x40) ∧
    (dmcServes s ch = true → rank.val < ranksOf s ch →
      (rankDue s ch rank = true ∨ (getDmc s ch).reads = [] ∧ (getDmc s ch).writes = [] ∧
        -(pullinMax s ch : Int) < owedOf s ch rank) →
      Does (.refreshIssue ch rank) s fun t => owedOf t ch rank = owedOf s ch rank - 1 ∧
        SameMem s t ∧ SameRegs s t fun page off => page = p ∧ off = 0x40) ∧
    (∀ (code : Fin 5) (hot : Bool), dmcServes s ch = true → (getDmc s ch).lastPoll + 4000000 ≤ s.devtime →
      (hot = false → Does (.mr4Poll ch code hot) s fun t => fget t p F.DMC_STATUS_REF_MULT = code ∧ SameMem s t ∧
        SameRegs s t fun page off => page = p ∧ (off = 0x40 ∨ off = 0x2C)) ∧
      (hot = true → reactOf s p 2 ≤ 2 → Does (.mr4Poll ch code hot) s fun t => (getDmc t ch).lastPoll = s.devtime)) ∧
    (∀ val : Word, dmcState s ch ≠ 1 → Does (.trainingRun ch val) s fun t => t = s) ∧
    (∀ val : Word, dmcState s ch = 1 → Does (.trainingRun ch val) s fun t =>
      fget t q F.DTRN_RUN_FIRST = bitsOf val.toNat 8 6 ∧ fget t q F.DTRN_RUN_LAST = bitsOf val.toNat 16 6 ∧
      fget t q F.DTRN_RUN_LOOPS = bitsOf val.toNat 24 8 ∧
      (bitsOf val.toNat 0 1 = 1 → bitsOf val.toNat 8 6 ≤ bitsOf val.toNat 16 6 → fbit t q F.DTRN_RUN_BUSY = true) ∧
      (bitsOf val.toNat 0 1 = 0 ∨ bitsOf val.toNat 16 6 < bitsOf val.toNat 8 6 →
        fbit t q F.DTRN_RUN_BUSY = fbit s q F.DTRN_RUN_BUSY) ∧
      t = { s with regs := t.regs } ∧ SameRegs s t fun page off => page = q ∧ off = 0x64) ∧
    ∀ errs : List Nat, fbit s q F.DTRN_RUN_BUSY = true → Does (.runDone ch errs) s fun t =>
      fbit t q F.DTRN_RUN_BUSY = false ∧
      (∀ n < 18, fget t q F.DTRN_ERR_COUNT n = min (fget s q F.DTRN_ERR_COUNT n + errs.getD n 0) 65535) ∧
      (fget t q F.HDR_IRQ_STATUS_CAUSE).testBit 1 = true ∧ SameMem s t

/-- Regions of inline ECC: ENABLE zeroes the region and lowers USABLE, or sets ERR; region 0 cannot be disabled
(R242). -/
def Obligations.RegionControl : Prop :=
  ∀ (r : Fin 16) (s : State),
    let base := regionBase s r
    let top := base + regionBytes s r
    let ctl := fun page off : Nat => page = 0x60 ∧ (off = 0x20C + 0x10 * r ∨ off = 0x108 ∨ off = 0x10C)
    (regionOn s r = false → regionRefused s r = true → Does (.regionEnable r) s fun t =>
      regionOn t r = false ∧ fbit t 0x60 F.DMC0_REGION_CTL_ERR r = true ∧ t = { s with regs := t.regs } ∧ SameRegs s t ctl) ∧
    (regionOn s r = false → regionRefused s r = false → Does (.regionEnable r) s fun t =>
      regionOn t r = true ∧ fbit t 0x60 F.DMC0_REGION_CTL_INIT_DONE r = false ∧
      (∀ a, memRead t a = if base ≤ a ∧ a < top then 0 else memRead s a) ∧
      usableTop t = usableFor s (regionSum t) % 2 ^ 64 ∧ SameRegs s t ctl) ∧
    (r.val = 0 → Does (.regionDisable r) s fun t => t = s) ∧
    (r.val ≠ 0 → regionOn s r = true → (∃ p ∈ poolsOn s, overlaps base top (poolBase s p) (poolEnd s p) = true) →
      Does (.regionDisable r) s fun t => regionOn t r = true ∧ fbit t 0x60 F.DMC0_REGION_CTL_ERR r = true) ∧
    (r.val ≠ 0 → regionOn s r = true → (∀ p ∈ poolsOn s, overlaps base top (poolBase s p) (poolEnd s p) = false) →
      (∀ c < 24, (getDmc s c).parked = []) → Does (.regionDisable r) s fun t =>
        regionOn t r = false ∧ SameMem s t ∧ SameRegs s t ctl) ∧
    (regionOn s r = true → (∀ c < 24, (getDmc s c).parked = []) → Does (.initDone r) s fun t =>
      fbit t 0x60 F.DMC0_REGION_CTL_INIT_DONE r = true ∧ t = { s with regs := t.regs } ∧
      SameRegs s t fun page off => page = 0x60 ∧ off = 0x20C + 0x10 * r)

/-- CH_OWNER_WRITE, ARM and ABORT act under the conditions of R261, R263 and R270 (R261, R263, R270). -/
def Obligations.DmaChannelControl : Prop :=
  ∀ (fn : Fin 64) (ch : Fin 64) (val : Word) (s : State),
    let n := ch.val
    let o := val.toNat % 64
    let armed := chGet s n F.DMAC_CH_CMD_ARM = 1
    let busy := (getChan s n).active = true ∨ (getChan s n).pend ≠ [] ∨ armed
    let ninth := o ≠ 0 ∧ o ≠ chOwner s n ∧ 8 ≤ (ownedChans s o).length
    (¬busy → ¬ninth → Does (.chOwnerWrite ch val) s fun t => chOwner t n = o ∧ t = { s with regs := t.regs } ∧
      SameRegs s t fun page off => page = 0x40 ∧ off = 0x100 + 4 * n) ∧
    (busy ∨ ninth → Does (.chOwnerWrite ch val) s fun t => chOwner t n = chOwner s n ∧ SameMem s t ∧
      fget t 0x40 F.DMA0_OWN_ERR_ERR = 1 ∧ SameRegs s t fun page off => page = 0x40 ∧ (off = 0x4C ∨ off = 0x2C)) ∧
    (reachesChan s fn n = true → ¬armed → (getChan s n).active = true → Does (.dmaArm fn ch) s fun t =>
      chGet t n F.DMAC_CH_CMD_ARM = 1 ∧
      chGet t n F.DMAC_CH_STAT_ARMED = 1 ∧ shadowXfer t n = shadowXfer s n ∧ t = { s with regs := t.regs }) ∧
    (reachesChan s fn n = true → armed → Does (.dmaArm fn ch) s fun t => chGet t n F.DMAC_CH_STAT_CFG_ERR = 1 ∧
      chGet t n F.DMAC_CH_CMD_ARM = 1 ∧ shadowXfer t n = shadowXfer s n ∧ t = { s with regs := t.regs }) ∧
    (reachesChan s fn n = false → (Does (.dmaArm fn ch) s fun t => t = s) ∧ Does (.dmaAbort fn ch) s fun t => t = s) ∧
    (reachesChan s fn n = true → (getChan s n).active = true → ¬armed → Does (.dmaAbort fn ch) s fun t =>
      (getChan t n).active = false ∧ t = { s with regs := t.regs, chans := t.chans } ∧
      ∃ w : StatWord, (getChan t n).pend = (getChan s n).pend ++ [w] ∧ w.code = 0x01 ∧
        w.seq = (getChan s n).seq % 2 ^ 16 ∧ w.residue = ((activeXfer s n).total - (getChan s n).done) % 2 ^ 32) ∧
    (reachesChan s fn n = true → (getChan s n).active = false → ¬armed → Does (.dmaAbort fn ch) s fun t => t = s) ∧
    (reachesChan s fn n = true → (getChan s n).active = false → armed → Does (.dmaAbort fn ch) s fun t =>
      (getChan t n).active = false ∧ chGet t n F.DMAC_CH_CMD_ARM = 0 ∧ t = { s with regs := t.regs, chans := t.chans } ∧
      ∃ w : StatWord, (getChan t n).pend = (getChan s n).pend ++ [w] ∧ w.code = 0x01 ∧
        w.seq = ((getChan s n).seq + 1) % 2 ^ 16 ∧ w.residue = (shadowXfer s n).total % 2 ^ 32)

/-- PROMOTION, and ARM on a channel that moves no data, move the shadow set to the active set, and the first failing check
decides the code (R262, R263, R266, R267, R268). -/
def Obligations.DmaPromotion : Prop :=
  ∀ (c : Instr) (ch : Fin 64) (s : State),
    let n := ch.val
    let armed := chGet s n F.DMAC_CH_CMD_ARM = 1
    let x := shadowXfer s n
    let asleep := (xferGroups s x).filter fun d => !domOn s d
    let ends := fun code => Does c s fun t => (getChan t n).active = false ∧ SameMem s t ∧
      chGet t n F.DMAC_CH_CMD_ARM = 0 ∧
      ∃ w : StatWord, (getChan t n).pend = (getChan s n).pend ++ [w] ∧ w.code = code ∧ w.residue = x.total % 2 ^ 32 ∧
        w.seq = ((getChan s n).seq + 1) % 2 ^ 16
    (c = .promotion ch ∧ armed) ∨ (∃ fn, c = .dmaArm fn ch ∧ reachesChan s fn n = true ∧ ¬armed) →
    (getChan s n).active = false →
      (badDesc s x = true → ends 0x10) ∧
      (badDesc s x = false → overlapBad x = true → ends 0x11) ∧
      (badDesc s x = false → overlapBad x = false → notOwner s (chOwner s n) x = true → ends 0x12) ∧
      (badDesc s x = false → overlapBad x = false → notOwner s (chOwner s n) x = false → asleep ≠ [] → x.wake = false →
        ends 0x13) ∧
      (badDesc s x = false → overlapBad x = false → notOwner s (chOwner s n) x = false → asleep = [] →
        Does c s fun t => activeXfer t n = x ∧ shadowXfer t n = x ∧ chGet t n F.DMAC_CH_CMD_ARM = 0 ∧
          (getChan t n).active = true ∧ (getChan t n).waits = false ∧ (getChan t n).done = 0 ∧
          (getChan t n).seq = (getChan s n).seq + 1 ∧ (getChan t n).pend = (getChan s n).pend ∧
          t = { s with regs := t.regs, chans := t.chans }) ∧
      (badDesc s x = false → overlapBad x = false → notOwner s (chOwner s n) x = false → asleep ≠ [] → x.wake = true →
        Does c s fun t => activeXfer t n = x ∧ chGet t n F.DMAC_CH_CMD_ARM = 0 ∧ (getChan t n).active = true ∧
          (getChan t n).waits = true ∧ (getChan t n).pend = (getChan s n).pend ∧
          t = { s with regs := t.regs, chans := t.chans, doms := t.doms })

/-- A DMA burst writes exactly its destination bytes, from device memory or from the host (R264, R265, R269). -/
def Obligations.DmaBurstCopies : Prop :=
  ∀ (ch : Fin 64) (host : List Byte) (s : State),
    let n := ch.val
    let x := activeXfer s n
    let b := nextBurst x (getChan s n).desc (getChan s n).done
    let from_ := b.1
    let to_ := b.2.1
    let len := b.2.2
    let data := fun i => if x.srcDev then memRead s (from_ + i) else host.getD i 0
    (getChan s n).active = true → (getChan s n).waits = false →
      (x.dstDev = true → (x.srcDev = true → anyPoison s from_ len = false) → Does (.dmaBurst ch host none) s fun t =>
        (∀ a, memRead t a = if to_ ≤ a ∧ a < to_ + len then data (a - to_) else memRead s a) ∧
        (getChan t n).done = (getChan s n).done + len ∧ t.out = s.out) ∧
      (x.dstDev = false → (x.srcDev = true → anyPoison s from_ len = false) → Does (.dmaBurst ch host none) s fun t =>
        SameMem s t ∧ t.out = .busWrite (chOwner s n) to_ ((List.range len).map data) :: s.out ∧
        (getChan t n).done = (getChan s n).done + len) ∧
      (x.srcDev = false → Does (.dmaBurst ch host (some .hostErr)) s fun t => SameMem s t ∧ t.out = s.out ∧
        (getChan t n).active = false ∧
        ∃ w : StatWord, (getChan t n).pend = (getChan s n).pend ++ [w] ∧ w.code = 0x20 ∧
          w.residue = (x.total - (getChan s n).done) % 2 ^ 32) ∧
      (x.srcDev = true → Does (.dmaBurst ch host (some .memPoison)) s fun t => SameMem s t ∧ t.out = s.out ∧
        (getChan t n).active = false ∧
        ∃ w : StatWord, (getChan t n).pend = (getChan s n).pend ++ [w] ∧ w.code = 0x21 ∧
          w.residue = (x.total - (getChan s n).done) % 2 ^ 32)

/-- DMA_STATUS_WRITE writes the 16-byte status word and updates CH_STAT, CH_RESIDUE and the counter of its code
(R269). -/
def Obligations.DmaStatusWords : Prop :=
  ∀ (ch : Fin 64) (s : State) (w : StatWord) (rest : List StatWord),
    let n := ch.val
    let words := [w.code + 2 ^ 8 * n + 2 ^ 16 * w.seq, w.residue, s.devtime % 2 ^ 32, s.devtime / 2 ^ 32 % 2 ^ 32]
    let cnt := if w.code = 0 then F.DMA0_CNT_DONE_COUNT else if w.code = 1 then F.DMA0_CNT_ABORT_COUNT
      else F.DMA0_CNT_ERR_COUNT
    (getChan s n).pend = w :: rest →
    (w.dev = true → w.ok = true → ∀ d ∈ groupsOf s w.addr (w.addr + 16), domOn s d = true) →
    Does (.dmaStatusWrite ch) s fun t =>
      (getChan t n).pend = rest ∧ (wordBytes words).length = 16 ∧
      (if w.ok then
        if w.dev then t.mem = (memWriteN s w.addr (wordBytes words)).mem ∧ t.out = s.out
        else t.mem = s.mem ∧ t.out = .busWrite (chOwner s n) w.addr (wordBytes words) :: s.out
       else t.mem = s.mem ∧ t.out = s.out) ∧
      chGet t n F.DMAC_CH_STAT_LAST_CODE = w.code % 256 ∧ chGet t n F.DMAC_CH_STAT_SEQ = w.seq % 2 ^ 16 ∧
      chGet t n F.DMAC_CH_RESIDUE_BYTES = w.residue % 2 ^ 32 ∧
      (w.code = 0 → chGet t n F.DMAC_CH_STAT_DONE = 1) ∧ (0x10 ≤ w.code → chGet t n F.DMAC_CH_STAT_ERR = 1) ∧
      fget t 0x40 cnt = (fget s 0x40 cnt + 1) % 2 ^ 32

/-- IRQ_DELIVERY delivers an eligible source of highest priority to a qualifying target (R278, R279, R281, R282). -/
def Obligations.DeliveryPicksAndMarks : Prop :=
  ∀ s : State,
    (nextDelivery s = none → Does .irqDelivery s fun u => u = s) ∧
    ∀ n t, nextDelivery s = some (n, t) →
      eligible s n = true ∧ srcEnabledFor s n t = true ∧ qualifies s t = true ∧ runPrio1 (getTgt s t) ≤ srcPrio s n ∧
      (∀ kv ∈ s.srcs, eligible s kv.1 = true → (targetFor s kv.1).isSome → srcPrio s kv.1 ≤ srcPrio s n) ∧
      Does .irqDelivery s fun u =>
        getSrc u n = { getSrc s n with delivered := some t, lastTgt := t } ∧ (∀ m, m ≠ n → getSrc u m = getSrc s m) ∧
        u.tgts = s.tgts ∧
        (fget s 0x20 F.IRQ0_HOLDOFF_US (srcGroup s n) ≠ 0 → fbit u 0x20 F.IRQ0_HOLDOFF_RUNNING (srcGroup s n) = true) ∧
        (t < 64 → ((getFunc s t).fmask || vecMasked s t (vectorOf s n t)) = false →
          u.out = .msix t (vectorOf s n t) :: s.out) ∧
        (t < 64 → ((getFunc s t).fmask || vecMasked s t (vectorOf s n t)) = true →
          u.out = s.out ∧ vectorOf s n t ∈ (getFunc u t).pba) ∧
        (64 ≤ t → u.out = .line t :: s.out) ∧
        SameRegs s u fun page off => page = 0x20 ∧ off = 0x100 + 4 * srcGroup s n

/-- CLAIM_READ claims the written source, or answers 0x3FF and counts it (R279, R285, R289). -/
def Obligations.ClaimReads : Prop :=
  ∀ (t : Fin 80) (port : Option (Fin 1024)) (r : State),
    let s := portClaim r t port
    let n := (getTgt s t).claimId
    let spurious := (fget s 0x20 F.IRQ0_CNT_SPURIOUS_COUNT + 1) % 2 ^ 32
    (claimAllowed s t n = true → (getTgt s t).stack.length < 8 → Does (.claimRead t port) r fun u =>
      getTgt u t = { getTgt s t with claimId := 0x3FF, stack := (n, srcPrio s n) :: (getTgt s t).stack } ∧
      getSrc u n = { getSrc s n with pend := false, delivered := none, inSvc := true } ∧
      (∀ m, m ≠ n → getSrc u m = getSrc s m) ∧ (∀ k, k ≠ t.val → getTgt u k = getTgt s k) ∧
      u = { s with tgts := u.tgts, srcs := u.srcs, out := .readData t n :: s.out }) ∧
    (claimAllowed s t n = false → Does (.claimRead t port) r fun u =>
      getTgt u t = { getTgt s t with claimId := 0x3FF } ∧ u.srcs = s.srcs ∧ u.out = .readData t 0x3FF :: s.out ∧
      fget u 0x20 F.IRQ0_CNT_SPURIOUS_COUNT = spurious ∧
      SameRegs s u fun page off => page = 0x20 ∧ off = 0x1E0) ∧
    (claimAllowed s t n = true → 8 ≤ (getTgt s t).stack.length → Does (.claimRead t port) r fun u =>
      getTgt u t = { getTgt s t with claimId := 0x3FF, full := true } ∧ u.out = .readData t 0x3FF :: s.out ∧
      fget u 0x20 F.IRQ0_CNT_SPURIOUS_COUNT = spurious ∧
      SameRegs s u fun page off => page = 0x20 ∧ (off = 0x1E0 ∨ off = 0x2C))

/-- EOI pops the target's stack; a level source still asserted is pending again (R275, R279, R286). -/
def Obligations.EoiPopsTheStack : Prop :=
  ∀ (t : Fin 80) (val : Word) (s : State),
    let id := val.toNat % 512
    let wrong := (fget s 0x20 F.IRQ0_CNT_MISMATCH_COUNT + 1) % 2 ^ 32
    (∀ n p rest, (getTgt s t).stack = (n, p) :: rest → id = n → Does (.eoi t val) s fun u =>
      getTgt u t = { getTgt s t with stack := rest } ∧ (getSrc u n).inSvc = false ∧
      (getSrc u n).pend = ((getSrc s n).pend || (getSrc s n).asserted) ∧ (∀ m, (getSrc u m).delivered ≠ some t.val) ∧
      u = { s with tgts := u.tgts, srcs := u.srcs }) ∧
    (∀ n p rest, (getTgt s t).stack = (n, p) :: rest → id ≠ n → Does (.eoi t val) s fun u =>
      getTgt u t = { getTgt s t with stack := rest, mismatch := true } ∧ (getSrc u n).inSvc = false ∧
      fget u 0x20 F.IRQ0_CNT_MISMATCH_COUNT = wrong) ∧
    ((getTgt s t).stack = [] → Does (.eoi t val) s fun u =>
      getTgt u t = { getTgt s t with mismatch := true } ∧ fget u 0x20 F.IRQ0_CNT_MISMATCH_COUNT = wrong ∧
      SameRegs s u fun page off => page = 0x20 ∧ (off = 0x1E4 ∨ off = 0x2C))

/-- SWI_TRIG sets and PEND_WITHDRAW clears the pending bits of edge sources alone; HOLDOFF_EXPIRY ends a timer
(R275, R276, R281). -/
def Obligations.EdgeSourcesAndHoldoff : Prop :=
  (∀ (val : Word) (s : State), Does (.swiTrig val) s fun u => u = { s with srcs := u.srcs } ∧
    ∀ n, getSrc u n = if 274 ≤ n ∧ n < 306 ∧ val.getLsbD (n - 274) = true then { getSrc s n with pend := true }
      else getSrc s n) ∧
  (∀ (k : Fin 10) (val : Word) (s : State), Does (.pendWithdraw k val) s fun u => u = { s with srcs := u.srcs } ∧
    ∀ n, getSrc u n =
      if (n / 32 = k ∧ val.getLsbD (n % 32) = true) ∧ 274 ≤ n ∧ n ≤ 305 then
        { getSrc s n with pend := false, delivered := none }
      else getSrc s n) ∧
  ∀ (g : Fin 32) (s : State), fbit s 0x20 F.IRQ0_HOLDOFF_RUNNING g = true → tget 0 s.holdoff g ≤ s.devtime →
    Does (.holdoffExpiry g) s fun u => fbit u 0x20 F.IRQ0_HOLDOFF_RUNNING g = false ∧
      fget u 0x20 F.IRQ0_HOLDOFF_US g = fget s 0x20 F.IRQ0_HOLDOFF_US g ∧
      u = { s with regs := u.regs, holdoff := u.holdoff } ∧
      SameRegs s u fun page off => page = 0x20 ∧ off = 0x100 + 4 * g

/-- MSIX_UNMASK sends the messages that wait in the PBA; MSIX_ENABLE_CHANGE sets a function's two enables (R260,
R282). -/
def Obligations.MsixMasks : Prop :=
  (∀ (fn : Fin 64) (v : Fin 2048) (s : State), fn.val = 0 ∨ v.val < 64 → Does (.msixUnmask fn (some v)) s fun u =>
    vecMasked u fn v = false ∧
    (v.val ∈ (getFunc s fn).pba → (getFunc s fn).fmask = false →
      Emit.msix fn v ∈ u.out ∧ v.val ∉ (getFunc u fn).pba) ∧
    u = { s with regs := u.regs, funcs := u.funcs, out := u.out }) ∧
  ∀ (fn : Fin 64) (msix bm : Bool) (s : State), Does (.msixEnableChange fn msix bm) s fun u =>
    getFunc u fn = { getFunc s fn with msix := msix, master := bm } ∧
    qualifies u fn = (msix && bm && !inSentinel s) ∧ u = { s with funcs := u.funcs }

/-- POWER_DOWN and POWER_UP: one command at a time, refused, done at once, draining or ramping (R297, R298, R299).
-/
def Obligations.DomainCommands : Prop :=
  ∀ (d : Fin 64) (s : State),
    let busy := fun t => fbit t 0x10 F.PWR_DOM_CMD_BUSY
    let u := fset s 0x10 F.PWR_DOM_CMD_DOMAIN d
    let v := beginDomCmd u d true
    let done := fun (r : Nat) (t : State) => busy t = false ∧ fget t 0x10 F.PWR_DOM_CMD_RESULT = r ∧
      (∀ e, domState t e = domState s e) ∧ SameMem s t
    (busy s = true → (Does (.powerDown d) s fun t => t = fset s 0x10 F.PWR_STAT_CMD_ERR 1) ∧
      Does (.powerUp d) s fun t => t = fset s 0x10 F.PWR_STAT_CMD_ERR 1) ∧
    (busy s = false → 60 ≤ d.val → Does (.powerDown d) s (done 4) ∧ Does (.powerUp d) s (done 4)) ∧
    (busy s = false → d.val < 60 → domState s d = 0 → Does (.powerDown d) s (done 0)) ∧
    (busy s = false → d.val < 60 → domState s d ≠ 0 → downRefused u d = true → Does (.powerDown d) s (done 2)) ∧
    (busy s = false → d.val < 60 → domState s d = 2 → downRefused u d = false → quiet v d = true →
      Does (.powerDown d) s fun t => domState t d = 4 ∧ busy t = true ∧ (getDom t d).byCmd = true ∧ SameMem s t) ∧
    (busy s = false → d.val < 60 → domState s d = 2 → downRefused u d = false → quiet v d = false →
      Does (.powerDown d) s fun t => domState t d = 3 ∧ busy t = true ∧ (getDom t d).byCmd = true ∧ SameMem s t) ∧
    (busy s = false → d.val < 60 → domState s d = 2 → Does (.powerUp d) s (done 0)) ∧
    (busy s = false → d.val < 60 → domState s d = 0 → unpopulated u d = false → inSentinel s = false →
      Does (.powerUp d) s fun t => domState t d = 0 ∧ busy t = true ∧ (getDom t d).wakeDue = true ∧ SameMem s t) ∧
    (busy s = false → d.val < 60 → domState s d ≠ 2 → unpopulated u d = true → Does (.powerUp d) s (done 2))

/-- DOMAIN_QUIET, RAMP_END, PD_TIMEOUT_EXPIRY, IDLE_POWER_GATE and OFF_PAGE_IDLE move a domain as R299, R303 and
R304 say (R241, R299, R303). -/
def Obligations.DomainsPowerOff : Prop :=
  ∀ (d : Fin 60) (s : State),
    let waits := (getDom s d).byCmd = true ∧ (getDom s d).down = true
    (domState s d = 3 → quiet s d = true → Does (.domainQuiet d) s fun t => domState t d = 4 ∧ SameMem s t ∧
      ∀ ch : Fin 24, d.val = groupDom ch → dmcState s ch = 2 → dmcState t ch = 3 ∧ owedOf t ch 0 ≤ 0 ∧ owedOf t ch 1 ≤ 0) ∧
    (domState s d = 4 → (getDom s d).since + 1000 * fget s 0x10 F.PWR_GOV_RAMP_US ≤ s.devtime →
      Does (.rampEnd d) s fun t => domState t d = 0 ∧ SameMem s t ∧ (∀ e, e ≠ d.val → domState t e = domState s e) ∧
        (waits → fbit t 0x10 F.PWR_DOM_CMD_BUSY = false ∧ fget t 0x10 F.PWR_DOM_CMD_RESULT = 0)) ∧
    (domState s d = 3 → (getDom s d).down = true → quiet s d = false →
      (getDom s d).cmdAt + 1000 * fget s 0x10 F.PWR_PD_TIMEOUT_US ≤ s.devtime →
      Does (.pdTimeoutExpiry d) s fun t => domState t d = 2 ∧ SameMem s t ∧
        fget t 0x10 F.PWR_CNT_BUSY_COUNT = (fget s 0x10 F.PWR_CNT_BUSY_COUNT + 1) % 2 ^ 32 ∧
        (waits → fbit t 0x10 F.PWR_DOM_CMD_BUSY = false ∧ fget t 0x10 F.PWR_DOM_CMD_RESULT = 1)) ∧
    ((unitOfDomain d).any (blkInService s) = true → fget s 0x10 F.PWR_IDLE_PG_US ≠ 0 → domState s d = 2 →
      quiet s d = true →
      max (getDom s d).since (getDom s d).lastUse + 1000 * fget s 0x10 F.PWR_IDLE_PG_US ≤ s.devtime →
      Does (.idlePowerGate d) s fun t => domState t d = 4 ∧ (getDom t d).byCmd = (getDom s d).byCmd ∧ SameMem s t) ∧
    (regIdle s d = true → quiet (modDom s d ({ · with regWake := false })) d = quiet s d ∧
      (quiet s d = true → Does (.offPageIdle d) s fun t => domState t d = 4 ∧ SameMem s t) ∧
      (quiet s d = false → Does (.offPageIdle d) s fun t => domState t d = 2 ∧ (getDom t d).regWake = false ∧ SameMem s t))

/-- DOMAIN_WAKE starts a wake slot, DOMAIN_ON ends it, WAKE_FAIL leaves the domain off (R241, R295, R298, R301,
R317). -/
def Obligations.DomainsWake : Prop :=
  ∀ (d : Fin 60) (s : State),
    let cls := if (unitOfDomain d).isSome then 0 else 1
    (slotFree s d = true → Does (.domainWake d) s fun t => domState t d = 1 ∧ t.chip.lastWake = some s.devtime ∧
      (getDom t d).wakeDue = false ∧
      fget t 0x10 F.PWR_DOM_STAT_WAKES d = (fget s 0x10 F.PWR_DOM_STAT_WAKES d + 1) % 65536 ∧
      (∀ e, e ≠ d.val → domState t e = domState s e) ∧ SameMem s t) ∧
    (domState s d = 1 → readyBit s d = true → (∀ p, unitOfDomain d = some p → (getEng s p).waking = false) →
      (getDom s d).byCmd = true ∨ (∀ p, unitOfDomain d = some p → isStandby s p = false) →
      (∀ ch < 24, (getDmc s ch).parked = []) → (∀ kv ∈ s.chans, (getChan s kv.1).waits = false) →
      (getDom s d).accesses = [] → (getDom s d).down = false →
      Does (.domainOn d) s fun t => domState t d = 2 ∧
        ((getDom s d).byCmd = true → fbit t 0x10 F.PWR_DOM_CMD_BUSY = false ∧ fget t 0x10 F.PWR_DOM_CMD_RESULT = 0) ∧
        ∀ ch : Fin 24, d.val = groupDom ch →
          owedOf t ch 0 = 0 ∧ owedOf t ch 1 = 0 ∧ (dmcState s ch = 3 → dmcState t ch = 2)) ∧
    (domState s d = 1 → (getDom s d).wakeAt + wakeLimit d < s.devtime → reactOf s 0x10 cls ≤ 2 →
      Does (.wakeFail d) s fun t => domState t d = 0 ∧ SameMem s t ∧
        ((getDom s d).byCmd = true → fbit t 0x10 F.PWR_DOM_CMD_BUSY = false))

/-- Rails, power-on resets and the chip reset: what they clear and that DEVTIME goes on (R10, R292, R293, R315). -/
def Obligations.RailsAndResets : Prop :=
  ∀ (s : State) (boot : Fin 4) (smb : Fin 8),
    let begun := fun t : State => t.chip.por = false ∧ fget t 0 F.CHIP_STATE_BOOT_SRC = boot ∧
      fget t 0 F.CHIP_STATE_SMB_ADDR = smb ∧ readyBit t 60 = true ∧ domState t 0 = 2 ∧ t.devtime = s.devtime
    let emptied := fun t : State => (∀ d < 60, 1 ≤ d → domState t d = 0) ∧ t.ctxs = [] ∧ t.rings = [] ∧ t.queues = [] ∧
      t.flows = [] ∧ t.talus = []
    (s.chip.rails.all id = false → Does .railsGood s fun t => fget t 0x10 F.PWR_STAT_RAIL_OK = 2047 ∧
      t.chip.rails = List.replicate 11 true ∧ t.chip.railsAt = s.devtime ∧ t.chip.padsOn = !s.chip.trip ∧ SameMem s t) ∧
    (s.chip.aonUp = false → Does .aonPowerOnResetRelease s fun t => t.chip.aonUp = true ∧ t.devtime = 0 ∧
      t.regs = s.regs ∧ SameMem s t) ∧
    (∀ offsets, s.chip.por = true → s.chip.rails.all id = true → s.chip.aonUp = true → s.chip.trip = false →
      s.chip.railsAt + 2000000 ≤ s.devtime →
      Does (.chipPowerOnResetRelease boot smb offsets) s fun t => begun t ∧ SameMem s t) ∧
    (∀ rail : Fin 11, Does (.railFail rail) s fun t => t.chip.por = true ∧ t.chip.padsOn = false ∧ emptied t ∧
      domState t 0 = 0 ∧ t.chip.rails = s.chip.rails.set rail false ∧
      (rail.val ≠ 3 → t.devtime = s.devtime ∧ t.chip.aonUp = s.chip.aonUp) ∧
      (rail.val = 3 → t.devtime = 0 ∧ t.chip.aonUp = false)) ∧
    (∀ val : Word, val.getLsbD 0 = true → val.toNat / 2 ^ 16 = 0x5EA7 → s.chip.por = false →
      Does (.chipReset val boot smb) s fun t => begun t ∧ emptied t ∧ qget t 0 F.CHIP_READY_LO_LO = 2 ^ 60 ∧
        t.bdrk.log = s.bdrk.log) ∧
    ∀ val : Word, val.getLsbD 0 = false ∨ val.toNat / 2 ^ 16 ≠ 0x5EA7 → Does (.chipReset val boot smb) s fun t => t = s

/-- AVS.ACK, ENG_FREQ, ENG_CLK relock and the loss of RTC_IN (R294, R305, R307). -/
def Obligations.ClocksAndVoltage : Prop :=
  ∀ (s : State) (val : Word),
    (Does .avsAckWrite s fun t => fbit t 0x10 F.PWR_AVS_ACK = true ∧ t = { s with regs := t.regs } ∧
      SameRegs s t fun page off => page = 0x10 ∧ off = 0x50) ∧
    (val.toNat % 16 ≤ 11 → Does (.engFreqWrite val) s fun t => fget t 0x11 F.CLK_ENG_FREQ_STEP = val.toNat % 16 ∧
      t = { s with regs := t.regs } ∧ SameRegs s t fun page off => page = 0x11 ∧ off = 0x40) ∧
    (11 < val.toNat % 16 → Does (.engFreqWrite val) s fun t => t = s) ∧
    (Does .engClkRelock s fun t =>
      fget t 0x11 F.CLK_ENG_NOW_STEP = min (fget s 0x11 F.CLK_ENG_FREQ_STEP)
        (min (if fbit s 0x10 F.PWR_AVS_ACK then 11 else 5) (fget s 0x11 F.CLK_THROTTLE_LIMIT)) ∧
      t = { s with regs := t.regs, srcs := t.srcs } ∧
      SameRegs s t fun page off => page = 0x11 ∧ (off = 0x44 ∨ off = 0x2C)) ∧
    (fbit s 0x11 F.CLK_SRC_RTC_SEL = false → Does .rtcLoss s fun t => fbit t 0x11 F.CLK_SRC_RTC_OK = false ∧
      t = { s with regs := t.regs } ∧ SameRegs s t fun page off => page = 0x11 ∧ off = 0x48) ∧
    (fbit s 0x11 F.CLK_SRC_RTC_SEL = true → reactOf s 0x11 1 ≤ 2 → Does .rtcLoss s fun t =>
      fbit t 0x11 F.CLK_SRC_RTC_OK = false ∧ (fget t 0x11 F.HDR_IRQ_STATUS_CAUSE).testBit 2 = true ∧ SameMem s t)

/-- The checks of bring-up: the ROM, the firmware and the interleave, and the Sentinel state where they fail (R244,
R245, R309, R313). -/
def Obligations.BringupSteps : Prop :=
  ∀ s : State,
    let sentinel := fun (cause : Nat) (t : State) => inSentinel t = true ∧ fget t 0 F.CHIP_STATE_CAUSE = cause ∧ SameMem s t
    (s.chip.por = false → s.chip.romOk = false → inSentinel s = false →
      (Does (.bedrockRomCheck ⟨true, true, true, true⟩) s fun t => t.chip.romOk = true ∧ t.regs = s.regs ∧ SameMem s t) ∧
      (∀ r : RomCheck, r.rom = false → Does (.bedrockRomCheck r) s (sentinel 1)) ∧
      (∀ r : RomCheck, r.rom = true → r.fuse = false → Does (.bedrockRomCheck r) s (sentinel 2)) ∧
      (∀ r : RomCheck, r.rom = true → r.fuse = true → r.core = false ∨ r.sram = false →
        Does (.bedrockRomCheck r) s (sentinel 3))) ∧
    (∀ a b, s.chip.por = false → s.chip.romOk = true → s.chip.fwRuns = false → inSentinel s = false →
      readyBit s 61 = false → fget s 0 F.CHIP_STATE_BOOT_SRC = 2 ∨ pickSlot s a b = none →
      Does (.firmwareVerified a b) s (sentinel 4)) ∧
    (∀ a b slot ver fb, s.chip.por = false → s.chip.romOk = true → s.chip.fwRuns = false → inSentinel s = false →
      readyBit s 61 = false → fget s 0 F.CHIP_STATE_BOOT_SRC ≠ 2 → pickSlot s a b = some (slot, ver, fb) →
      Does (.firmwareVerified a b) s fun t => t.chip.fwRuns = true ∧ t.chip.fwVer = ver ∧ SameMem s t) ∧
    (∀ (a b : PackageCheck), pickSlot s a b =
      let o := if fget s 0 F.CHIP_STATE_BOOT_SRC = 1 then ((1, b), (0, a)) else ((0, a), (1, b))
      match validIn s o.1.2, validIn s o.2.2 with
      | some v, _ => some (o.1.1, v, false)
      | none, some v => some (o.2.1, v, true)
      | none, none => none) ∧
    (∀ rates eyes, readyBit s 61 = true → s.chip.memReady = false → inSentinel s = false →
      (populated ((List.range 24).map (trainedRate s rates eyes)) = 0 →
        Does (.interleaveTableWrite rates eyes) s (sentinel 5)) ∧
      (populated ((List.range 24).map (trainedRate s rates eyes)) ≠ 0 →
        Does (.interleaveTableWrite rates eyes) s fun t => t.chip.memReady = true))

/-- A raised source: status, first fault, count and the reaction up to IRQ (R319, R320, R321, R322, R323). -/
def Obligations.FaultsAreRaised : Prop :=
  ∀ (page : Nat) (src : Fin 16) (s : State),
    let p := blockPage page
    let n := src.val
    let sec := secondary s p n
    let code := if sec then min 1 (reactOf s p n) else reactOf s p n
    let raised := fun (forced : Bool) (detail : Nat) (t : State) =>
      (fget t p F.HDR_FAULT_STATUS_STATUS).testBit n = true ∧
      (fget s p F.HDR_FAULT_COUNT_COUNT < 0xFFFF →
        fget t p F.HDR_FAULT_COUNT_COUNT = fget s p F.HDR_FAULT_COUNT_COUNT + 1) ∧
      (fbit s p F.HDR_FAULT_FIRST_VALID = true → rget t p 0x24 = rget s p 0x24) ∧
      (fbit s p F.HDR_FAULT_FIRST_VALID = false → fget t p F.HDR_FAULT_FIRST_SOURCE = n ∧
        fget t p F.HDR_FAULT_FIRST_DETAIL = detail ∧ fbit t p F.HDR_FAULT_FIRST_SECONDARY = sec ∧
        fbit t p F.HDR_FAULT_FIRST_FORCED = forced ∧ fbit t p F.HDR_FAULT_FIRST_VALID = true) ∧
      (code = 2 → (fget t p F.HDR_IRQ_STATUS_CAUSE).testBit 31 = true) ∧ SameMem s t
    (∀ detail : BitVec 16, n < faultCount p → code ≤ 2 → hasHeader p = true →
      sevEffect (countEcc s p n) p n detail.toNat = countEcc s p n →
      (faultEnabled s p n = true → Does (.faultRaise page src detail) s (raised false detail.toNat)) ∧
      (faultEnabled s p n = false → Does (.faultRaise page src detail) s fun t => t = countEcc s p n)) ∧
    (∀ val : Word, val.toNat = 2 ^ n → n < faultCount p → code ≤ 2 → hasHeader p = true →
      sevEffect s p n 0xFFFF = s → faultEnabled s p n = true → Does (.faultForce page val) s (raised true 0xFFFF)) ∧
    (∀ val : Word, val.toNat % 2 ^ faultCount p = 0 → Does (.faultForce page val) s fun t => t = s) ∧
    (faultCount p ≠ 0 → Does (.faultFirstClear page) s fun t => rget t p 0x24 = 0 ∧ t = { s with regs := t.regs } ∧
      SameRegs s t fun q off => q = p ∧ off = 0x24)

/-- BLOCK_RESET_END, SHADOW_CLOSE and STAGE_WATCHDOG_EXPIRY (R87, R157, R193, R322, R323). -/
def Obligations.ResetsAndShadowsEnd : Prop :=
  ∀ (page : Nat) (s : State),
    let p := blockPage page
    (inReset s p = true → isPpuPage p = false ∨ (getEng s p).wantTest = false →
      Does (.blockResetEnd page) s fun t => inReset t p = false ∧
        tget (some 0) t.bdrk.shadows p = some s.devtime ∧ SameMem s t) ∧
    (inReset s p = true → isEngPage p = true ∨ isPpuPage p = true → (getEng s p).wantTest = false →
      Does (.blockResetEnd page) s fun t => blkReady t p = readyBit s (domainOf p)) ∧
    (inReset s p = false → Does (.blockResetEnd page) s fun t => t = s) ∧
    (shadowOpen s page = true → Does (.shadowClose page) s fun t => t = s) ∧
    (shadowOpen s page = false → Does (.shadowClose page) s fun t => tget (some 0) t.bdrk.shadows page = some 0 ∧
      t = { s with bdrk := { s.bdrk with shadows := t.bdrk.shadows } }) ∧
    (∀ held detail, isEngPage page = true → (getEng s page).held ≠ [] →
      let period := engRow page F.EE_WATCHDOG_PERIOD_US F.DE_WATCHDOG_PERIOD_US
      let stall := engRow page F.EE_STAGE_STALL_STAGE F.DE_STAGE_STALL_STAGE
      let stages := if page < dePage 0 then 8 else 5
      (held ≤ fget s page period → held ≤ 1 → Does (.stageWatchdogExpiry page held detail) s fun t => t = s) ∧
      (held ≤ fget s page period → 1 < held → Does (.stageWatchdogExpiry page held detail) s fun t =>
        fget t page stall = fget s page stall ||| 2 ^ (detail % stages) ∧ t = { s with regs := t.regs } ∧
        SameRegs s t fun q off => q = page ∧ off = stall.off) ∧
      (fget s page period < held → Does (.stageWatchdogExpiry page held detail) s fun t =>
        t = raiseFault (noteStall s page held detail) page 3 (detail % 2 ^ 16) false)) ∧
    (∀ held detail, isPpuPage page = true → (getEng s page).held ≠ [] →
      (held ≤ fget s page F.PPU_WATCHDOG_PERIOD_US → Does (.stageWatchdogExpiry page held detail) s fun t => t = s) ∧
      (fget s page F.PPU_WATCHDOG_PERIOD_US < held → Does (.stageWatchdogExpiry page held detail) s fun t =>
        t = raiseFault s page 2 (detail % 2 ^ 16) false)) ∧
    ∀ held detail, (getEng s page).held = [] → Does (.stageWatchdogExpiry page held detail) s fun t => t = s

/-- Log entries are written in order, close after 1 ms and are copied to NOR (R325, R326, R327). -/
def Obligations.TheLogRing : Prop :=
  ∀ s : State,
    (∀ e rest, s.bdrk.dropped = 0 → s.bdrk.queue = e :: rest → s.bdrk.lastWrite + 1000 ≤ s.devtime →
      Does .logEntryWrite s fun t =>
        let n := fget s 8 F.BDRK8_LOG_HEAD_SEQ
        fget t 8 F.BDRK8_LOG_HEAD_SEQ = (n + 1) % 2 ^ 32 ∧ tget logEntry0 t.bdrk.log (n % 4096) = { e with seq := n } ∧
        t.bdrk.queue = rest ∧ SameMem s t ∧ SameRegs s t fun page off => page = 8 ∧ off = F.BDRK8_LOG_HEAD_SEQ.off) ∧
    (Does .logEntryClose s fun t => t = { s with bdrk := { s.bdrk with openE := t.bdrk.openE } } ∧
      ∀ x, x ∈ t.bdrk.openE ↔ x ∈ s.bdrk.openE ∧ s.devtime < x.2.2 + 1000000) ∧
    ∀ slot rest, s.bdrk.toNor = slot :: rest → Does .logNorCopy s fun t => t.bdrk.toNor = rest ∧
      tget logEntry0 t.bdrk.nor (s.bdrk.norNext % 2048) = tget logEntry0 s.bdrk.log slot ∧
      t.bdrk.norNext = (s.bdrk.norNext % 2048 + 1) % 2048 ∧ t = { s with bdrk := t.bdrk }
end

