-- ==== Sys2Proof/Laws/Table.lean ====
section
/-! SUPPORT. The laws of sparse tables, of the register file and of device memory: reading back what was written,
other entries left alone, and the canonical form kept. -/

namespace Sys2Proof.Machine

/-! ### Sparse tables -/

section
variable {α : Type}

theorem tget_filter_ne (d : α) (t : Tbl α) (q p : Nat) (h : p ≠ q) :
    tget d (t.filter fun kv => kv.1 != q) p = tget d t p := by
  induction t with
  | nil => rfl
  | cons a t ih =>
    obtain ⟨k, w⟩ := a
    by_cases hk : k = q
    · subst hk; simp [tget, h, ih]
    · by_cases hp : p = k
      · simp [tget, hk, hp]
      · simp [tget, hk, hp, ih]

theorem tget_filter_self (d : α) (t : Tbl α) (q : Nat) : tget d (t.filter fun kv => kv.1 != q) q = d := by
  induction t with
  | nil => rfl
  | cons a t ih =>
    obtain ⟨k, w⟩ := a
    by_cases hk : k = q
    · subst hk; simp [ih]
    · have : q ≠ k := fun e => hk e.symm
      simp [tget, hk, this, ih]

theorem tget_tins_ne (d : α) (t : Tbl α) (q p : Nat) (v : α) (h : p ≠ q) : tget d (tins q v t) p = tget d t p := by
  induction t with
  | nil => simp [tins, tget, h]
  | cons a t ih =>
    obtain ⟨k, w⟩ := a
    unfold tins
    split
    · simp [tget, h]
    · simp [tget, ih]

theorem tget_tins_self (d : α) (t : Tbl α) (q : Nat) (v : α) (h : ∀ kv ∈ t, kv.1 ≠ q) : tget d (tins q v t) q = v := by
  induction t with
  | nil => simp [tins, tget]
  | cons a t ih =>
    obtain ⟨k, w⟩ := a
    have hk : k ≠ q := h (k, w) (by simp)
    unfold tins
    split
    · simp [tget]
    · rw [tget, if_neg (Ne.symm hk)]
      exact ih fun kv hkv => h kv (by simp [hkv])

/-- Reading back: the entry of the key that was written. -/
@[simp] theorem tget_tput_self [DecidableEq α] (d : α) (t : Tbl α) (q : Nat) (v : α) : tget d (tput d t q v) q = v := by
  unfold tput
  dsimp only
  split
  · next h => rw [tget_filter_self, h]
  · refine tget_tins_self d _ q v fun kv hkv => ?_
    simpa using (List.mem_filter.1 hkv).2

/-- Every other entry is left alone. -/
theorem tget_tput_ne [DecidableEq α] (d d' : α) (t : Tbl α) (q p : Nat) (v : α) (h : p ≠ q) :
    tget d (tput d' t q v) p = tget d t p := by
  unfold tput
  dsimp only
  split
  · exact tget_filter_ne d t q p h
  · rw [tget_tins_ne d _ q p v h, tget_filter_ne d t q p h]

theorem tsortedFrom_lt (lo : Nat) (t : Tbl α) (h : tsortedFrom lo t = true) : ∀ kv ∈ t, lo < kv.1 := by
  induction t generalizing lo with
  | nil => simp
  | cons a t ih =>
    obtain ⟨k, w⟩ := a
    simp only [tsortedFrom, Bool.and_eq_true, decide_eq_true_eq] at h
    intro kv hkv
    rcases List.mem_cons.1 hkv with e | e
    · subst e; exact h.1
    · exact Nat.lt_trans h.1 (ih k h.2 kv e)

theorem tsortedFrom_mono (lo lo' : Nat) (t : Tbl α) (hl : lo ≤ lo') (h : tsortedFrom lo' t = true) :
    tsortedFrom lo t = true := by
  cases t with
  | nil => rfl
  | cons a t =>
    simp only [tsortedFrom, Bool.and_eq_true, decide_eq_true_eq] at *
    exact ⟨by omega, h.2⟩

theorem tsortedFrom_filter (lo : Nat) (t : Tbl α) (f : Nat × α → Bool) (h : tsortedFrom lo t = true) :
    tsortedFrom lo (t.filter f) = true := by
  induction t generalizing lo with
  | nil => rfl
  | cons a t ih =>
    simp only [tsortedFrom, Bool.and_eq_true, decide_eq_true_eq] at h
    by_cases hf : f a = true
    · simp only [List.filter_cons_of_pos hf, tsortedFrom, Bool.and_eq_true, decide_eq_true_eq]
      exact ⟨h.1, ih a.1 h.2⟩
    · rw [List.filter_cons_of_neg hf]
      exact tsortedFrom_mono lo a.1 _ (Nat.le_of_lt h.1) (ih a.1 h.2)

theorem tsortedFrom_tins (lo q : Nat) (v : α) (t : Tbl α) (hl : lo < q) (hq : ∀ kv ∈ t, kv.1 ≠ q)
    (h : tsortedFrom lo t = true) : tsortedFrom lo (tins q v t) = true := by
  induction t generalizing lo with
  | nil => simp [tins, tsortedFrom, hl]
  | cons a t ih =>
    obtain ⟨k, w⟩ := a
    have hk : k ≠ q := hq (k, w) (by simp)
    simp only [tsortedFrom, Bool.and_eq_true, decide_eq_true_eq] at h
    unfold tins
    split
    · next hlt => simp [tsortedFrom, hl, hlt, h.2]
    · next hge =>
      simp only [tsortedFrom, Bool.and_eq_true, decide_eq_true_eq]
      exact ⟨h.1, ih k (by omega) (fun kv hkv => hq kv (by simp [hkv])) h.2⟩

/-- Leaving entries out keeps the canonical form. -/
theorem twf_filter [DecidableEq α] (d : Nat → α) (t : Tbl α) (f : Nat × α → Bool) (h : twf d t = true) :
    twf d (t.filter f) = true := by
  induction t with
  | nil => rfl
  | cons a t ih =>
    obtain ⟨k, w⟩ := a
    simp only [twf, Bool.and_eq_true] at h
    by_cases hf : f (k, w) = true
    · simp only [List.filter_cons_of_pos hf, twf, Bool.and_eq_true]
      exact ⟨⟨tsortedFrom_filter k t f h.1.1, h.1.2⟩, ih h.2⟩
    · rw [List.filter_cons_of_neg hf]; exact ih h.2

theorem twf_tins [DecidableEq α] (d : Nat → α) (q : Nat) (v : α) (t : Tbl α) (hv : v ≠ d q) (hq : ∀ kv ∈ t, kv.1 ≠ q)
    (h : twf d t = true) : twf d (tins q v t) = true := by
  induction t with
  | nil => simp [tins, twf, tsortedFrom, hv]
  | cons a t ih =>
    obtain ⟨k, w⟩ := a
    have hk : k ≠ q := hq (k, w) (by simp)
    have h' := h
    simp only [twf, Bool.and_eq_true, decide_eq_true_eq] at h
    unfold tins
    split
    · next hlt =>
      simp only [twf, Bool.and_eq_true, decide_eq_true_eq, tsortedFrom]
      exact ⟨⟨⟨hlt, h.1.1⟩, hv⟩, h⟩
    · next hge =>
      simp only [twf, Bool.and_eq_true, decide_eq_true_eq]
      have hq' : ∀ kv ∈ t, kv.1 ≠ q := fun kv hkv => hq kv (by simp [hkv])
      exact ⟨⟨tsortedFrom_tins k q v t (by omega) hq' h.1.1, h.1.2⟩, ih hq' h.2⟩

/-- Writing an entry keeps the canonical form. -/
theorem twf_tput [DecidableEq α] (d : Nat → α) (t : Tbl α) (q : Nat) (v : α) (h : twf d t = true) :
    twf d (tput (d q) t q v) = true := by
  unfold tput
  dsimp only
  split
  · exact twf_filter d t _ h
  · next hv =>
    refine twf_tins d q v _ hv (fun kv hkv => ?_) (twf_filter d t _ h)
    simpa using (List.mem_filter.1 hkv).2

end

/-! ### Registers -/

theorem regsWf_rset (s : State) (page off v : Nat) (h : regsWf s = true) : regsWf (rset s page off v) = true :=
  twf_tput regDefault s.regs (regKey page off) (BitVec.ofNat 32 v) h

/-- A register reads back what was stored, in 32 bits (R3). -/
@[simp] theorem rget_rset_self (s : State) (page off v : Nat) : rget (rset s page off v) page off = v % 2 ^ 32 := by
  simp [rget, rset]

/-- Another register is left alone. -/
theorem rget_rset_ne (s : State) (page off v page' off' : Nat) (h : regKey page' off' ≠ regKey page off) :
    rget (rset s page off v) page' off' = rget s page' off' := by
  simp only [rget, rset]
  rw [tget_tput_ne _ _ _ _ _ _ h]

theorem rget_lt (s : State) (page off : Nat) : rget s page off < 2 ^ 32 := BitVec.isLt _

/-! ### Device memory -/

@[simp] theorem memRead_memWrite_self (s : State) (a : Nat) (b : Byte) : memRead (memWrite s a b) a = b := by
  simp [memRead, memWrite]

theorem memRead_memWrite_ne (s : State) (a a' : Nat) (b : Byte) (h : a' ≠ a) :
    memRead (memWrite s a b) a' = memRead s a' := tget_tput_ne _ _ _ _ _ _ h

/-- A write of several bytes is the write of the first and then of the rest. -/
theorem memWriteN_cons (s : State) (a : Nat) (b : Byte) (bs : List Byte) :
    memWriteN s a (b :: bs) = memWriteN (memWrite s a b) (a + 1) bs := rfl

@[simp] theorem memWriteN_nil (s : State) (a : Nat) : memWriteN s a [] = s := rfl

theorem memRead_memWriteN (s : State) (a : Nat) (bs : List Byte) (a' : Nat) (h : a' < a ∨ a + bs.length ≤ a') :
    memRead (memWriteN s a bs) a' = memRead s a' := by
  induction bs generalizing s a with
  | nil => rfl
  | cons b bs ih =>
    simp only [List.length_cons] at h
    rw [memWriteN_cons, ih _ _ (by omega), memRead_memWrite_ne _ _ _ _ (by omega)]

/-- The bytes of a write read back. -/
theorem memRead_memWriteN_at (s : State) (a : Nat) (bs : List Byte) (i : Nat) (h : i < bs.length) :
    memRead (memWriteN s a bs) (a + i) = bs[i] := by
  induction bs generalizing s a i with
  | nil => simp at h
  | cons b bs ih =>
    rw [memWriteN_cons]
    cases i with
    | zero => rw [memRead_memWriteN _ _ _ _ (by omega)]; simp
    | succ i =>
      have := ih (memWrite s a b) (a + 1) i (by simpa using h)
      rw [show a + (i + 1) = a + 1 + i by omega]
      simpa using this

theorem memWf_memWrite (s : State) (a : Nat) (b : Byte) (h : Memory.wf s.mem = true) :
    Memory.wf (memWrite s a b).mem = true := twf_tput (fun _ => (0 : Byte)) s.mem a b h

theorem memWf_memPut (m : List Host.Cell) (a : Nat) (bs : List Byte) (h : Memory.wf m = true) :
    Memory.wf (memPut m a bs) = true := by
  induction bs generalizing m a with
  | nil => exact h
  | cons b bs ih => exact ih _ _ (twf_tput (fun _ => (0 : Byte)) m a b h)

theorem memWf_memWriteN (s : State) (a : Nat) (bs : List Byte) (h : Memory.wf s.mem = true) :
    Memory.wf (memWriteN s a bs).mem = true := memWf_memPut s.mem a bs h

end Sys2Proof.Machine
end

