-- ==== Sys2Proof/Laws/State.lean ====
section
/-! SUPPORT. What each update of State leaves alone, one lemma per field, and how the accessors of the unit tables read
an update. -/

namespace Sys2Proof.Machine

section
variable (s : State) (k : Nat) (f : Ring → Ring)
@[simp] theorem modRing_pending : (modRing s k f).pending = s.pending := rfl
@[simp] theorem modRing_free : (modRing s k f).free = s.free := rfl
@[simp] theorem modRing_devtime : (modRing s k f).devtime = s.devtime := rfl
@[simp] theorem modRing_regs : (modRing s k f).regs = s.regs := rfl
@[simp] theorem modRing_staged : (modRing s k f).staged = s.staged := rfl
@[simp] theorem modRing_latched : (modRing s k f).latched = s.latched := rfl
@[simp] theorem modRing_mem : (modRing s k f).mem = s.mem := rfl
@[simp] theorem modRing_poison : (modRing s k f).poison = s.poison := rfl
@[simp] theorem modRing_ctxs : (modRing s k f).ctxs = s.ctxs := rfl
@[simp] theorem modRing_engines : (modRing s k f).engines = s.engines := rfl
@[simp] theorem modRing_banks : (modRing s k f).banks = s.banks := rfl
@[simp] theorem modRing_disp : (modRing s k f).disp = s.disp := rfl
@[simp] theorem modRing_talus : (modRing s k f).talus = s.talus := rfl
@[simp] theorem modRing_dmcs : (modRing s k f).dmcs = s.dmcs := rfl
@[simp] theorem modRing_chans : (modRing s k f).chans = s.chans := rfl
@[simp] theorem modRing_srcs : (modRing s k f).srcs = s.srcs := rfl
@[simp] theorem modRing_tgts : (modRing s k f).tgts = s.tgts := rfl
@[simp] theorem modRing_holdoff : (modRing s k f).holdoff = s.holdoff := rfl
@[simp] theorem modRing_funcs : (modRing s k f).funcs = s.funcs := rfl
@[simp] theorem modRing_doms : (modRing s k f).doms = s.doms := rfl
@[simp] theorem modRing_chip : (modRing s k f).chip = s.chip := rfl
@[simp] theorem modRing_flows : (modRing s k f).flows = s.flows := rfl
@[simp] theorem modRing_svcs : (modRing s k f).svcs = s.svcs := rfl
@[simp] theorem modRing_ptp : (modRing s k f).ptp = s.ptp := rfl
@[simp] theorem modRing_queues : (modRing s k f).queues = s.queues := rfl
@[simp] theorem modRing_snodes : (modRing s k f).snodes = s.snodes := rfl
@[simp] theorem modRing_pnodes : (modRing s k f).pnodes = s.pnodes := rfl
@[simp] theorem modRing_store : (modRing s k f).store = s.store := rfl
@[simp] theorem modRing_dgCount : (modRing s k f).dgCount = s.dgCount := rfl
@[simp] theorem modRing_bdrk : (modRing s k f).bdrk = s.bdrk := rfl
@[simp] theorem modRing_perf : (modRing s k f).perf = s.perf := rfl
@[simp] theorem modRing_pins : (modRing s k f).pins = s.pins := rfl
@[simp] theorem modRing_out : (modRing s k f).out = s.out := rfl
end

section
variable (s : State) (k : Nat) (f : Ctx → Ctx)
@[simp] theorem modCtx_pending : (modCtx s k f).pending = s.pending := rfl
@[simp] theorem modCtx_free : (modCtx s k f).free = s.free := rfl
@[simp] theorem modCtx_devtime : (modCtx s k f).devtime = s.devtime := rfl
@[simp] theorem modCtx_regs : (modCtx s k f).regs = s.regs := rfl
@[simp] theorem modCtx_staged : (modCtx s k f).staged = s.staged := rfl
@[simp] theorem modCtx_latched : (modCtx s k f).latched = s.latched := rfl
@[simp] theorem modCtx_mem : (modCtx s k f).mem = s.mem := rfl
@[simp] theorem modCtx_poison : (modCtx s k f).poison = s.poison := rfl
@[simp] theorem modCtx_rings : (modCtx s k f).rings = s.rings := rfl
@[simp] theorem modCtx_engines : (modCtx s k f).engines = s.engines := rfl
@[simp] theorem modCtx_banks : (modCtx s k f).banks = s.banks := rfl
@[simp] theorem modCtx_disp : (modCtx s k f).disp = s.disp := rfl
@[simp] theorem modCtx_talus : (modCtx s k f).talus = s.talus := rfl
@[simp] theorem modCtx_dmcs : (modCtx s k f).dmcs = s.dmcs := rfl
@[simp] theorem modCtx_chans : (modCtx s k f).chans = s.chans := rfl
@[simp] theorem modCtx_srcs : (modCtx s k f).srcs = s.srcs := rfl
@[simp] theorem modCtx_tgts : (modCtx s k f).tgts = s.tgts := rfl
@[simp] theorem modCtx_holdoff : (modCtx s k f).holdoff = s.holdoff := rfl
@[simp] theorem modCtx_funcs : (modCtx s k f).funcs = s.funcs := rfl
@[simp] theorem modCtx_doms : (modCtx s k f).doms = s.doms := rfl
@[simp] theorem modCtx_chip : (modCtx s k f).chip = s.chip := rfl
@[simp] theorem modCtx_flows : (modCtx s k f).flows = s.flows := rfl
@[simp] theorem modCtx_svcs : (modCtx s k f).svcs = s.svcs := rfl
@[simp] theorem modCtx_ptp : (modCtx s k f).ptp = s.ptp := rfl
@[simp] theorem modCtx_queues : (modCtx s k f).queues = s.queues := rfl
@[simp] theorem modCtx_snodes : (modCtx s k f).snodes = s.snodes := rfl
@[simp] theorem modCtx_pnodes : (modCtx s k f).pnodes = s.pnodes := rfl
@[simp] theorem modCtx_store : (modCtx s k f).store = s.store := rfl
@[simp] theorem modCtx_dgCount : (modCtx s k f).dgCount = s.dgCount := rfl
@[simp] theorem modCtx_bdrk : (modCtx s k f).bdrk = s.bdrk := rfl
@[simp] theorem modCtx_perf : (modCtx s k f).perf = s.perf := rfl
@[simp] theorem modCtx_pins : (modCtx s k f).pins = s.pins := rfl
@[simp] theorem modCtx_out : (modCtx s k f).out = s.out := rfl
end

section
variable (s : State) (k : Nat) (f : Engine → Engine)
@[simp] theorem modEng_pending : (modEng s k f).pending = s.pending := rfl
@[simp] theorem modEng_free : (modEng s k f).free = s.free := rfl
@[simp] theorem modEng_devtime : (modEng s k f).devtime = s.devtime := rfl
@[simp] theorem modEng_regs : (modEng s k f).regs = s.regs := rfl
@[simp] theorem modEng_staged : (modEng s k f).staged = s.staged := rfl
@[simp] theorem modEng_latched : (modEng s k f).latched = s.latched := rfl
@[simp] theorem modEng_mem : (modEng s k f).mem = s.mem := rfl
@[simp] theorem modEng_poison : (modEng s k f).poison = s.poison := rfl
@[simp] theorem modEng_rings : (modEng s k f).rings = s.rings := rfl
@[simp] theorem modEng_ctxs : (modEng s k f).ctxs = s.ctxs := rfl
@[simp] theorem modEng_banks : (modEng s k f).banks = s.banks := rfl
@[simp] theorem modEng_disp : (modEng s k f).disp = s.disp := rfl
@[simp] theorem modEng_talus : (modEng s k f).talus = s.talus := rfl
@[simp] theorem modEng_dmcs : (modEng s k f).dmcs = s.dmcs := rfl
@[simp] theorem modEng_chans : (modEng s k f).chans = s.chans := rfl
@[simp] theorem modEng_srcs : (modEng s k f).srcs = s.srcs := rfl
@[simp] theorem modEng_tgts : (modEng s k f).tgts = s.tgts := rfl
@[simp] theorem modEng_holdoff : (modEng s k f).holdoff = s.holdoff := rfl
@[simp] theorem modEng_funcs : (modEng s k f).funcs = s.funcs := rfl
@[simp] theorem modEng_doms : (modEng s k f).doms = s.doms := rfl
@[simp] theorem modEng_chip : (modEng s k f).chip = s.chip := rfl
@[simp] theorem modEng_flows : (modEng s k f).flows = s.flows := rfl
@[simp] theorem modEng_svcs : (modEng s k f).svcs = s.svcs := rfl
@[simp] theorem modEng_ptp : (modEng s k f).ptp = s.ptp := rfl
@[simp] theorem modEng_queues : (modEng s k f).queues = s.queues := rfl
@[simp] theorem modEng_snodes : (modEng s k f).snodes = s.snodes := rfl
@[simp] theorem modEng_pnodes : (modEng s k f).pnodes = s.pnodes := rfl
@[simp] theorem modEng_store : (modEng s k f).store = s.store := rfl
@[simp] theorem modEng_dgCount : (modEng s k f).dgCount = s.dgCount := rfl
@[simp] theorem modEng_bdrk : (modEng s k f).bdrk = s.bdrk := rfl
@[simp] theorem modEng_perf : (modEng s k f).perf = s.perf := rfl
@[simp] theorem modEng_pins : (modEng s k f).pins = s.pins := rfl
@[simp] theorem modEng_out : (modEng s k f).out = s.out := rfl
end

section
variable (s : State) (k : Nat) (f : Bank → Bank)
@[simp] theorem modBank_pending : (modBank s k f).pending = s.pending := rfl
@[simp] theorem modBank_free : (modBank s k f).free = s.free := rfl
@[simp] theorem modBank_devtime : (modBank s k f).devtime = s.devtime := rfl
@[simp] theorem modBank_regs : (modBank s k f).regs = s.regs := rfl
@[simp] theorem modBank_staged : (modBank s k f).staged = s.staged := rfl
@[simp] theorem modBank_latched : (modBank s k f).latched = s.latched := rfl
@[simp] theorem modBank_mem : (modBank s k f).mem = s.mem := rfl
@[simp] theorem modBank_poison : (modBank s k f).poison = s.poison := rfl
@[simp] theorem modBank_rings : (modBank s k f).rings = s.rings := rfl
@[simp] theorem modBank_ctxs : (modBank s k f).ctxs = s.ctxs := rfl
@[simp] theorem modBank_engines : (modBank s k f).engines = s.engines := rfl
@[simp] theorem modBank_disp : (modBank s k f).disp = s.disp := rfl
@[simp] theorem modBank_talus : (modBank s k f).talus = s.talus := rfl
@[simp] theorem modBank_dmcs : (modBank s k f).dmcs = s.dmcs := rfl
@[simp] theorem modBank_chans : (modBank s k f).chans = s.chans := rfl
@[simp] theorem modBank_srcs : (modBank s k f).srcs = s.srcs := rfl
@[simp] theorem modBank_tgts : (modBank s k f).tgts = s.tgts := rfl
@[simp] theorem modBank_holdoff : (modBank s k f).holdoff = s.holdoff := rfl
@[simp] theorem modBank_funcs : (modBank s k f).funcs = s.funcs := rfl
@[simp] theorem modBank_doms : (modBank s k f).doms = s.doms := rfl
@[simp] theorem modBank_chip : (modBank s k f).chip = s.chip := rfl
@[simp] theorem modBank_flows : (modBank s k f).flows = s.flows := rfl
@[simp] theorem modBank_svcs : (modBank s k f).svcs = s.svcs := rfl
@[simp] theorem modBank_ptp : (modBank s k f).ptp = s.ptp := rfl
@[simp] theorem modBank_queues : (modBank s k f).queues = s.queues := rfl
@[simp] theorem modBank_snodes : (modBank s k f).snodes = s.snodes := rfl
@[simp] theorem modBank_pnodes : (modBank s k f).pnodes = s.pnodes := rfl
@[simp] theorem modBank_store : (modBank s k f).store = s.store := rfl
@[simp] theorem modBank_dgCount : (modBank s k f).dgCount = s.dgCount := rfl
@[simp] theorem modBank_bdrk : (modBank s k f).bdrk = s.bdrk := rfl
@[simp] theorem modBank_perf : (modBank s k f).perf = s.perf := rfl
@[simp] theorem modBank_pins : (modBank s k f).pins = s.pins := rfl
@[simp] theorem modBank_out : (modBank s k f).out = s.out := rfl
end

section
variable (s : State) (k : Nat) (f : Dmc → Dmc)
@[simp] theorem modDmc_pending : (modDmc s k f).pending = s.pending := rfl
@[simp] theorem modDmc_free : (modDmc s k f).free = s.free := rfl
@[simp] theorem modDmc_devtime : (modDmc s k f).devtime = s.devtime := rfl
@[simp] theorem modDmc_regs : (modDmc s k f).regs = s.regs := rfl
@[simp] theorem modDmc_staged : (modDmc s k f).staged = s.staged := rfl
@[simp] theorem modDmc_latched : (modDmc s k f).latched = s.latched := rfl
@[simp] theorem modDmc_mem : (modDmc s k f).mem = s.mem := rfl
@[simp] theorem modDmc_poison : (modDmc s k f).poison = s.poison := rfl
@[simp] theorem modDmc_rings : (modDmc s k f).rings = s.rings := rfl
@[simp] theorem modDmc_ctxs : (modDmc s k f).ctxs = s.ctxs := rfl
@[simp] theorem modDmc_engines : (modDmc s k f).engines = s.engines := rfl
@[simp] theorem modDmc_banks : (modDmc s k f).banks = s.banks := rfl
@[simp] theorem modDmc_disp : (modDmc s k f).disp = s.disp := rfl
@[simp] theorem modDmc_talus : (modDmc s k f).talus = s.talus := rfl
@[simp] theorem modDmc_chans : (modDmc s k f).chans = s.chans := rfl
@[simp] theorem modDmc_srcs : (modDmc s k f).srcs = s.srcs := rfl
@[simp] theorem modDmc_tgts : (modDmc s k f).tgts = s.tgts := rfl
@[simp] theorem modDmc_holdoff : (modDmc s k f).holdoff = s.holdoff := rfl
@[simp] theorem modDmc_funcs : (modDmc s k f).funcs = s.funcs := rfl
@[simp] theorem modDmc_doms : (modDmc s k f).doms = s.doms := rfl
@[simp] theorem modDmc_chip : (modDmc s k f).chip = s.chip := rfl
@[simp] theorem modDmc_flows : (modDmc s k f).flows = s.flows := rfl
@[simp] theorem modDmc_svcs : (modDmc s k f).svcs = s.svcs := rfl
@[simp] theorem modDmc_ptp : (modDmc s k f).ptp = s.ptp := rfl
@[simp] theorem modDmc_queues : (modDmc s k f).queues = s.queues := rfl
@[simp] theorem modDmc_snodes : (modDmc s k f).snodes = s.snodes := rfl
@[simp] theorem modDmc_pnodes : (modDmc s k f).pnodes = s.pnodes := rfl
@[simp] theorem modDmc_store : (modDmc s k f).store = s.store := rfl
@[simp] theorem modDmc_dgCount : (modDmc s k f).dgCount = s.dgCount := rfl
@[simp] theorem modDmc_bdrk : (modDmc s k f).bdrk = s.bdrk := rfl
@[simp] theorem modDmc_perf : (modDmc s k f).perf = s.perf := rfl
@[simp] theorem modDmc_pins : (modDmc s k f).pins = s.pins := rfl
@[simp] theorem modDmc_out : (modDmc s k f).out = s.out := rfl
end

section
variable (s : State) (k : Nat) (f : Chan → Chan)
@[simp] theorem modChan_pending : (modChan s k f).pending = s.pending := rfl
@[simp] theorem modChan_free : (modChan s k f).free = s.free := rfl
@[simp] theorem modChan_devtime : (modChan s k f).devtime = s.devtime := rfl
@[simp] theorem modChan_regs : (modChan s k f).regs = s.regs := rfl
@[simp] theorem modChan_staged : (modChan s k f).staged = s.staged := rfl
@[simp] theorem modChan_latched : (modChan s k f).latched = s.latched := rfl
@[simp] theorem modChan_mem : (modChan s k f).mem = s.mem := rfl
@[simp] theorem modChan_poison : (modChan s k f).poison = s.poison := rfl
@[simp] theorem modChan_rings : (modChan s k f).rings = s.rings := rfl
@[simp] theorem modChan_ctxs : (modChan s k f).ctxs = s.ctxs := rfl
@[simp] theorem modChan_engines : (modChan s k f).engines = s.engines := rfl
@[simp] theorem modChan_banks : (modChan s k f).banks = s.banks := rfl
@[simp] theorem modChan_disp : (modChan s k f).disp = s.disp := rfl
@[simp] theorem modChan_talus : (modChan s k f).talus = s.talus := rfl
@[simp] theorem modChan_dmcs : (modChan s k f).dmcs = s.dmcs := rfl
@[simp] theorem modChan_srcs : (modChan s k f).srcs = s.srcs := rfl
@[simp] theorem modChan_tgts : (modChan s k f).tgts = s.tgts := rfl
@[simp] theorem modChan_holdoff : (modChan s k f).holdoff = s.holdoff := rfl
@[simp] theorem modChan_funcs : (modChan s k f).funcs = s.funcs := rfl
@[simp] theorem modChan_doms : (modChan s k f).doms = s.doms := rfl
@[simp] theorem modChan_chip : (modChan s k f).chip = s.chip := rfl
@[simp] theorem modChan_flows : (modChan s k f).flows = s.flows := rfl
@[simp] theorem modChan_svcs : (modChan s k f).svcs = s.svcs := rfl
@[simp] theorem modChan_ptp : (modChan s k f).ptp = s.ptp := rfl
@[simp] theorem modChan_queues : (modChan s k f).queues = s.queues := rfl
@[simp] theorem modChan_snodes : (modChan s k f).snodes = s.snodes := rfl
@[simp] theorem modChan_pnodes : (modChan s k f).pnodes = s.pnodes := rfl
@[simp] theorem modChan_store : (modChan s k f).store = s.store := rfl
@[simp] theorem modChan_dgCount : (modChan s k f).dgCount = s.dgCount := rfl
@[simp] theorem modChan_bdrk : (modChan s k f).bdrk = s.bdrk := rfl
@[simp] theorem modChan_perf : (modChan s k f).perf = s.perf := rfl
@[simp] theorem modChan_pins : (modChan s k f).pins = s.pins := rfl
@[simp] theorem modChan_out : (modChan s k f).out = s.out := rfl
end

section
variable (s : State) (k : Nat) (f : Src → Src)
@[simp] theorem modSrc_pending : (modSrc s k f).pending = s.pending := rfl
@[simp] theorem modSrc_free : (modSrc s k f).free = s.free := rfl
@[simp] theorem modSrc_devtime : (modSrc s k f).devtime = s.devtime := rfl
@[simp] theorem modSrc_regs : (modSrc s k f).regs = s.regs := rfl
@[simp] theorem modSrc_staged : (modSrc s k f).staged = s.staged := rfl
@[simp] theorem modSrc_latched : (modSrc s k f).latched = s.latched := rfl
@[simp] theorem modSrc_mem : (modSrc s k f).mem = s.mem := rfl
@[simp] theorem modSrc_poison : (modSrc s k f).poison = s.poison := rfl
@[simp] theorem modSrc_rings : (modSrc s k f).rings = s.rings := rfl
@[simp] theorem modSrc_ctxs : (modSrc s k f).ctxs = s.ctxs := rfl
@[simp] theorem modSrc_engines : (modSrc s k f).engines = s.engines := rfl
@[simp] theorem modSrc_banks : (modSrc s k f).banks = s.banks := rfl
@[simp] theorem modSrc_disp : (modSrc s k f).disp = s.disp := rfl
@[simp] theorem modSrc_talus : (modSrc s k f).talus = s.talus := rfl
@[simp] theorem modSrc_dmcs : (modSrc s k f).dmcs = s.dmcs := rfl
@[simp] theorem modSrc_chans : (modSrc s k f).chans = s.chans := rfl
@[simp] theorem modSrc_tgts : (modSrc s k f).tgts = s.tgts := rfl
@[simp] theorem modSrc_holdoff : (modSrc s k f).holdoff = s.holdoff := rfl
@[simp] theorem modSrc_funcs : (modSrc s k f).funcs = s.funcs := rfl
@[simp] theorem modSrc_doms : (modSrc s k f).doms = s.doms := rfl
@[simp] theorem modSrc_chip : (modSrc s k f).chip = s.chip := rfl
@[simp] theorem modSrc_flows : (modSrc s k f).flows = s.flows := rfl
@[simp] theorem modSrc_svcs : (modSrc s k f).svcs = s.svcs := rfl
@[simp] theorem modSrc_ptp : (modSrc s k f).ptp = s.ptp := rfl
@[simp] theorem modSrc_queues : (modSrc s k f).queues = s.queues := rfl
@[simp] theorem modSrc_snodes : (modSrc s k f).snodes = s.snodes := rfl
@[simp] theorem modSrc_pnodes : (modSrc s k f).pnodes = s.pnodes := rfl
@[simp] theorem modSrc_store : (modSrc s k f).store = s.store := rfl
@[simp] theorem modSrc_dgCount : (modSrc s k f).dgCount = s.dgCount := rfl
@[simp] theorem modSrc_bdrk : (modSrc s k f).bdrk = s.bdrk := rfl
@[simp] theorem modSrc_perf : (modSrc s k f).perf = s.perf := rfl
@[simp] theorem modSrc_pins : (modSrc s k f).pins = s.pins := rfl
@[simp] theorem modSrc_out : (modSrc s k f).out = s.out := rfl
end

section
variable (s : State) (k : Nat) (f : Tgt → Tgt)
@[simp] theorem modTgt_pending : (modTgt s k f).pending = s.pending := rfl
@[simp] theorem modTgt_free : (modTgt s k f).free = s.free := rfl
@[simp] theorem modTgt_devtime : (modTgt s k f).devtime = s.devtime := rfl
@[simp] theorem modTgt_regs : (modTgt s k f).regs = s.regs := rfl
@[simp] theorem modTgt_staged : (modTgt s k f).staged = s.staged := rfl
@[simp] theorem modTgt_latched : (modTgt s k f).latched = s.latched := rfl
@[simp] theorem modTgt_mem : (modTgt s k f).mem = s.mem := rfl
@[simp] theorem modTgt_poison : (modTgt s k f).poison = s.poison := rfl
@[simp] theorem modTgt_rings : (modTgt s k f).rings = s.rings := rfl
@[simp] theorem modTgt_ctxs : (modTgt s k f).ctxs = s.ctxs := rfl
@[simp] theorem modTgt_engines : (modTgt s k f).engines = s.engines := rfl
@[simp] theorem modTgt_banks : (modTgt s k f).banks = s.banks := rfl
@[simp] theorem modTgt_disp : (modTgt s k f).disp = s.disp := rfl
@[simp] theorem modTgt_talus : (modTgt s k f).talus = s.talus := rfl
@[simp] theorem modTgt_dmcs : (modTgt s k f).dmcs = s.dmcs := rfl
@[simp] theorem modTgt_chans : (modTgt s k f).chans = s.chans := rfl
@[simp] theorem modTgt_srcs : (modTgt s k f).srcs = s.srcs := rfl
@[simp] theorem modTgt_holdoff : (modTgt s k f).holdoff = s.holdoff := rfl
@[simp] theorem modTgt_funcs : (modTgt s k f).funcs = s.funcs := rfl
@[simp] theorem modTgt_doms : (modTgt s k f).doms = s.doms := rfl
@[simp] theorem modTgt_chip : (modTgt s k f).chip = s.chip := rfl
@[simp] theorem modTgt_flows : (modTgt s k f).flows = s.flows := rfl
@[simp] theorem modTgt_svcs : (modTgt s k f).svcs = s.svcs := rfl
@[simp] theorem modTgt_ptp : (modTgt s k f).ptp = s.ptp := rfl
@[simp] theorem modTgt_queues : (modTgt s k f).queues = s.queues := rfl
@[simp] theorem modTgt_snodes : (modTgt s k f).snodes = s.snodes := rfl
@[simp] theorem modTgt_pnodes : (modTgt s k f).pnodes = s.pnodes := rfl
@[simp] theorem modTgt_store : (modTgt s k f).store = s.store := rfl
@[simp] theorem modTgt_dgCount : (modTgt s k f).dgCount = s.dgCount := rfl
@[simp] theorem modTgt_bdrk : (modTgt s k f).bdrk = s.bdrk := rfl
@[simp] theorem modTgt_perf : (modTgt s k f).perf = s.perf := rfl
@[simp] theorem modTgt_pins : (modTgt s k f).pins = s.pins := rfl
@[simp] theorem modTgt_out : (modTgt s k f).out = s.out := rfl
end

section
variable (s : State) (k : Nat) (f : Func → Func)
@[simp] theorem modFunc_pending : (modFunc s k f).pending = s.pending := rfl
@[simp] theorem modFunc_free : (modFunc s k f).free = s.free := rfl
@[simp] theorem modFunc_devtime : (modFunc s k f).devtime = s.devtime := rfl
@[simp] theorem modFunc_regs : (modFunc s k f).regs = s.regs := rfl
@[simp] theorem modFunc_staged : (modFunc s k f).staged = s.staged := rfl
@[simp] theorem modFunc_latched : (modFunc s k f).latched = s.latched := rfl
@[simp] theorem modFunc_mem : (modFunc s k f).mem = s.mem := rfl
@[simp] theorem modFunc_poison : (modFunc s k f).poison = s.poison := rfl
@[simp] theorem modFunc_rings : (modFunc s k f).rings = s.rings := rfl
@[simp] theorem modFunc_ctxs : (modFunc s k f).ctxs = s.ctxs := rfl
@[simp] theorem modFunc_engines : (modFunc s k f).engines = s.engines := rfl
@[simp] theorem modFunc_banks : (modFunc s k f).banks = s.banks := rfl
@[simp] theorem modFunc_disp : (modFunc s k f).disp = s.disp := rfl
@[simp] theorem modFunc_talus : (modFunc s k f).talus = s.talus := rfl
@[simp] theorem modFunc_dmcs : (modFunc s k f).dmcs = s.dmcs := rfl
@[simp] theorem modFunc_chans : (modFunc s k f).chans = s.chans := rfl
@[simp] theorem modFunc_srcs : (modFunc s k f).srcs = s.srcs := rfl
@[simp] theorem modFunc_tgts : (modFunc s k f).tgts = s.tgts := rfl
@[simp] theorem modFunc_holdoff : (modFunc s k f).holdoff = s.holdoff := rfl
@[simp] theorem modFunc_doms : (modFunc s k f).doms = s.doms := rfl
@[simp] theorem modFunc_chip : (modFunc s k f).chip = s.chip := rfl
@[simp] theorem modFunc_flows : (modFunc s k f).flows = s.flows := rfl
@[simp] theorem modFunc_svcs : (modFunc s k f).svcs = s.svcs := rfl
@[simp] theorem modFunc_ptp : (modFunc s k f).ptp = s.ptp := rfl
@[simp] theorem modFunc_queues : (modFunc s k f).queues = s.queues := rfl
@[simp] theorem modFunc_snodes : (modFunc s k f).snodes = s.snodes := rfl
@[simp] theorem modFunc_pnodes : (modFunc s k f).pnodes = s.pnodes := rfl
@[simp] theorem modFunc_store : (modFunc s k f).store = s.store := rfl
@[simp] theorem modFunc_dgCount : (modFunc s k f).dgCount = s.dgCount := rfl
@[simp] theorem modFunc_bdrk : (modFunc s k f).bdrk = s.bdrk := rfl
@[simp] theorem modFunc_perf : (modFunc s k f).perf = s.perf := rfl
@[simp] theorem modFunc_pins : (modFunc s k f).pins = s.pins := rfl
@[simp] theorem modFunc_out : (modFunc s k f).out = s.out := rfl
end

section
variable (s : State) (k : Nat) (f : Dom → Dom)
@[simp] theorem modDom_pending : (modDom s k f).pending = s.pending := rfl
@[simp] theorem modDom_free : (modDom s k f).free = s.free := rfl
@[simp] theorem modDom_devtime : (modDom s k f).devtime = s.devtime := rfl
@[simp] theorem modDom_regs : (modDom s k f).regs = s.regs := rfl
@[simp] theorem modDom_staged : (modDom s k f).staged = s.staged := rfl
@[simp] theorem modDom_latched : (modDom s k f).latched = s.latched := rfl
@[simp] theorem modDom_mem : (modDom s k f).mem = s.mem := rfl
@[simp] theorem modDom_poison : (modDom s k f).poison = s.poison := rfl
@[simp] theorem modDom_rings : (modDom s k f).rings = s.rings := rfl
@[simp] theorem modDom_ctxs : (modDom s k f).ctxs = s.ctxs := rfl
@[simp] theorem modDom_engines : (modDom s k f).engines = s.engines := rfl
@[simp] theorem modDom_banks : (modDom s k f).banks = s.banks := rfl
@[simp] theorem modDom_disp : (modDom s k f).disp = s.disp := rfl
@[simp] theorem modDom_talus : (modDom s k f).talus = s.talus := rfl
@[simp] theorem modDom_dmcs : (modDom s k f).dmcs = s.dmcs := rfl
@[simp] theorem modDom_chans : (modDom s k f).chans = s.chans := rfl
@[simp] theorem modDom_srcs : (modDom s k f).srcs = s.srcs := rfl
@[simp] theorem modDom_tgts : (modDom s k f).tgts = s.tgts := rfl
@[simp] theorem modDom_holdoff : (modDom s k f).holdoff = s.holdoff := rfl
@[simp] theorem modDom_funcs : (modDom s k f).funcs = s.funcs := rfl
@[simp] theorem modDom_chip : (modDom s k f).chip = s.chip := rfl
@[simp] theorem modDom_flows : (modDom s k f).flows = s.flows := rfl
@[simp] theorem modDom_svcs : (modDom s k f).svcs = s.svcs := rfl
@[simp] theorem modDom_ptp : (modDom s k f).ptp = s.ptp := rfl
@[simp] theorem modDom_queues : (modDom s k f).queues = s.queues := rfl
@[simp] theorem modDom_snodes : (modDom s k f).snodes = s.snodes := rfl
@[simp] theorem modDom_pnodes : (modDom s k f).pnodes = s.pnodes := rfl
@[simp] theorem modDom_store : (modDom s k f).store = s.store := rfl
@[simp] theorem modDom_dgCount : (modDom s k f).dgCount = s.dgCount := rfl
@[simp] theorem modDom_bdrk : (modDom s k f).bdrk = s.bdrk := rfl
@[simp] theorem modDom_perf : (modDom s k f).perf = s.perf := rfl
@[simp] theorem modDom_pins : (modDom s k f).pins = s.pins := rfl
@[simp] theorem modDom_out : (modDom s k f).out = s.out := rfl
end

section
variable (s : State) (k : Nat) (f : Flow → Flow)
@[simp] theorem modFlow_pending : (modFlow s k f).pending = s.pending := rfl
@[simp] theorem modFlow_free : (modFlow s k f).free = s.free := rfl
@[simp] theorem modFlow_devtime : (modFlow s k f).devtime = s.devtime := rfl
@[simp] theorem modFlow_regs : (modFlow s k f).regs = s.regs := rfl
@[simp] theorem modFlow_staged : (modFlow s k f).staged = s.staged := rfl
@[simp] theorem modFlow_latched : (modFlow s k f).latched = s.latched := rfl
@[simp] theorem modFlow_mem : (modFlow s k f).mem = s.mem := rfl
@[simp] theorem modFlow_poison : (modFlow s k f).poison = s.poison := rfl
@[simp] theorem modFlow_rings : (modFlow s k f).rings = s.rings := rfl
@[simp] theorem modFlow_ctxs : (modFlow s k f).ctxs = s.ctxs := rfl
@[simp] theorem modFlow_engines : (modFlow s k f).engines = s.engines := rfl
@[simp] theorem modFlow_banks : (modFlow s k f).banks = s.banks := rfl
@[simp] theorem modFlow_disp : (modFlow s k f).disp = s.disp := rfl
@[simp] theorem modFlow_talus : (modFlow s k f).talus = s.talus := rfl
@[simp] theorem modFlow_dmcs : (modFlow s k f).dmcs = s.dmcs := rfl
@[simp] theorem modFlow_chans : (modFlow s k f).chans = s.chans := rfl
@[simp] theorem modFlow_srcs : (modFlow s k f).srcs = s.srcs := rfl
@[simp] theorem modFlow_tgts : (modFlow s k f).tgts = s.tgts := rfl
@[simp] theorem modFlow_holdoff : (modFlow s k f).holdoff = s.holdoff := rfl
@[simp] theorem modFlow_funcs : (modFlow s k f).funcs = s.funcs := rfl
@[simp] theorem modFlow_doms : (modFlow s k f).doms = s.doms := rfl
@[simp] theorem modFlow_chip : (modFlow s k f).chip = s.chip := rfl
@[simp] theorem modFlow_svcs : (modFlow s k f).svcs = s.svcs := rfl
@[simp] theorem modFlow_ptp : (modFlow s k f).ptp = s.ptp := rfl
@[simp] theorem modFlow_queues : (modFlow s k f).queues = s.queues := rfl
@[simp] theorem modFlow_snodes : (modFlow s k f).snodes = s.snodes := rfl
@[simp] theorem modFlow_pnodes : (modFlow s k f).pnodes = s.pnodes := rfl
@[simp] theorem modFlow_store : (modFlow s k f).store = s.store := rfl
@[simp] theorem modFlow_dgCount : (modFlow s k f).dgCount = s.dgCount := rfl
@[simp] theorem modFlow_bdrk : (modFlow s k f).bdrk = s.bdrk := rfl
@[simp] theorem modFlow_perf : (modFlow s k f).perf = s.perf := rfl
@[simp] theorem modFlow_pins : (modFlow s k f).pins = s.pins := rfl
@[simp] theorem modFlow_out : (modFlow s k f).out = s.out := rfl
end

section
variable (s : State) (k : Nat) (f : Svc → Svc)
@[simp] theorem modSvc_pending : (modSvc s k f).pending = s.pending := rfl
@[simp] theorem modSvc_free : (modSvc s k f).free = s.free := rfl
@[simp] theorem modSvc_devtime : (modSvc s k f).devtime = s.devtime := rfl
@[simp] theorem modSvc_regs : (modSvc s k f).regs = s.regs := rfl
@[simp] theorem modSvc_staged : (modSvc s k f).staged = s.staged := rfl
@[simp] theorem modSvc_latched : (modSvc s k f).latched = s.latched := rfl
@[simp] theorem modSvc_mem : (modSvc s k f).mem = s.mem := rfl
@[simp] theorem modSvc_poison : (modSvc s k f).poison = s.poison := rfl
@[simp] theorem modSvc_rings : (modSvc s k f).rings = s.rings := rfl
@[simp] theorem modSvc_ctxs : (modSvc s k f).ctxs = s.ctxs := rfl
@[simp] theorem modSvc_engines : (modSvc s k f).engines = s.engines := rfl
@[simp] theorem modSvc_banks : (modSvc s k f).banks = s.banks := rfl
@[simp] theorem modSvc_disp : (modSvc s k f).disp = s.disp := rfl
@[simp] theorem modSvc_talus : (modSvc s k f).talus = s.talus := rfl
@[simp] theorem modSvc_dmcs : (modSvc s k f).dmcs = s.dmcs := rfl
@[simp] theorem modSvc_chans : (modSvc s k f).chans = s.chans := rfl
@[simp] theorem modSvc_srcs : (modSvc s k f).srcs = s.srcs := rfl
@[simp] theorem modSvc_tgts : (modSvc s k f).tgts = s.tgts := rfl
@[simp] theorem modSvc_holdoff : (modSvc s k f).holdoff = s.holdoff := rfl
@[simp] theorem modSvc_funcs : (modSvc s k f).funcs = s.funcs := rfl
@[simp] theorem modSvc_doms : (modSvc s k f).doms = s.doms := rfl
@[simp] theorem modSvc_chip : (modSvc s k f).chip = s.chip := rfl
@[simp] theorem modSvc_flows : (modSvc s k f).flows = s.flows := rfl
@[simp] theorem modSvc_ptp : (modSvc s k f).ptp = s.ptp := rfl
@[simp] theorem modSvc_queues : (modSvc s k f).queues = s.queues := rfl
@[simp] theorem modSvc_snodes : (modSvc s k f).snodes = s.snodes := rfl
@[simp] theorem modSvc_pnodes : (modSvc s k f).pnodes = s.pnodes := rfl
@[simp] theorem modSvc_store : (modSvc s k f).store = s.store := rfl
@[simp] theorem modSvc_dgCount : (modSvc s k f).dgCount = s.dgCount := rfl
@[simp] theorem modSvc_bdrk : (modSvc s k f).bdrk = s.bdrk := rfl
@[simp] theorem modSvc_perf : (modSvc s k f).perf = s.perf := rfl
@[simp] theorem modSvc_pins : (modSvc s k f).pins = s.pins := rfl
@[simp] theorem modSvc_out : (modSvc s k f).out = s.out := rfl
end

section
variable (s : State) (k : Nat) (f : Queue → Queue)
@[simp] theorem modQueue_pending : (modQueue s k f).pending = s.pending := rfl
@[simp] theorem modQueue_free : (modQueue s k f).free = s.free := rfl
@[simp] theorem modQueue_devtime : (modQueue s k f).devtime = s.devtime := rfl
@[simp] theorem modQueue_regs : (modQueue s k f).regs = s.regs := rfl
@[simp] theorem modQueue_staged : (modQueue s k f).staged = s.staged := rfl
@[simp] theorem modQueue_latched : (modQueue s k f).latched = s.latched := rfl
@[simp] theorem modQueue_mem : (modQueue s k f).mem = s.mem := rfl
@[simp] theorem modQueue_poison : (modQueue s k f).poison = s.poison := rfl
@[simp] theorem modQueue_rings : (modQueue s k f).rings = s.rings := rfl
@[simp] theorem modQueue_ctxs : (modQueue s k f).ctxs = s.ctxs := rfl
@[simp] theorem modQueue_engines : (modQueue s k f).engines = s.engines := rfl
@[simp] theorem modQueue_banks : (modQueue s k f).banks = s.banks := rfl
@[simp] theorem modQueue_disp : (modQueue s k f).disp = s.disp := rfl
@[simp] theorem modQueue_talus : (modQueue s k f).talus = s.talus := rfl
@[simp] theorem modQueue_dmcs : (modQueue s k f).dmcs = s.dmcs := rfl
@[simp] theorem modQueue_chans : (modQueue s k f).chans = s.chans := rfl
@[simp] theorem modQueue_srcs : (modQueue s k f).srcs = s.srcs := rfl
@[simp] theorem modQueue_tgts : (modQueue s k f).tgts = s.tgts := rfl
@[simp] theorem modQueue_holdoff : (modQueue s k f).holdoff = s.holdoff := rfl
@[simp] theorem modQueue_funcs : (modQueue s k f).funcs = s.funcs := rfl
@[simp] theorem modQueue_doms : (modQueue s k f).doms = s.doms := rfl
@[simp] theorem modQueue_chip : (modQueue s k f).chip = s.chip := rfl
@[simp] theorem modQueue_flows : (modQueue s k f).flows = s.flows := rfl
@[simp] theorem modQueue_svcs : (modQueue s k f).svcs = s.svcs := rfl
@[simp] theorem modQueue_ptp : (modQueue s k f).ptp = s.ptp := rfl
@[simp] theorem modQueue_snodes : (modQueue s k f).snodes = s.snodes := rfl
@[simp] theorem modQueue_pnodes : (modQueue s k f).pnodes = s.pnodes := rfl
@[simp] theorem modQueue_store : (modQueue s k f).store = s.store := rfl
@[simp] theorem modQueue_dgCount : (modQueue s k f).dgCount = s.dgCount := rfl
@[simp] theorem modQueue_bdrk : (modQueue s k f).bdrk = s.bdrk := rfl
@[simp] theorem modQueue_perf : (modQueue s k f).perf = s.perf := rfl
@[simp] theorem modQueue_pins : (modQueue s k f).pins = s.pins := rfl
@[simp] theorem modQueue_out : (modQueue s k f).out = s.out := rfl
end

section
variable (s : State) (k : Nat) (f : SvcNode → SvcNode)
@[simp] theorem modSnode_pending : (modSnode s k f).pending = s.pending := rfl
@[simp] theorem modSnode_free : (modSnode s k f).free = s.free := rfl
@[simp] theorem modSnode_devtime : (modSnode s k f).devtime = s.devtime := rfl
@[simp] theorem modSnode_regs : (modSnode s k f).regs = s.regs := rfl
@[simp] theorem modSnode_staged : (modSnode s k f).staged = s.staged := rfl
@[simp] theorem modSnode_latched : (modSnode s k f).latched = s.latched := rfl
@[simp] theorem modSnode_mem : (modSnode s k f).mem = s.mem := rfl
@[simp] theorem modSnode_poison : (modSnode s k f).poison = s.poison := rfl
@[simp] theorem modSnode_rings : (modSnode s k f).rings = s.rings := rfl
@[simp] theorem modSnode_ctxs : (modSnode s k f).ctxs = s.ctxs := rfl
@[simp] theorem modSnode_engines : (modSnode s k f).engines = s.engines := rfl
@[simp] theorem modSnode_banks : (modSnode s k f).banks = s.banks := rfl
@[simp] theorem modSnode_disp : (modSnode s k f).disp = s.disp := rfl
@[simp] theorem modSnode_talus : (modSnode s k f).talus = s.talus := rfl
@[simp] theorem modSnode_dmcs : (modSnode s k f).dmcs = s.dmcs := rfl
@[simp] theorem modSnode_chans : (modSnode s k f).chans = s.chans := rfl
@[simp] theorem modSnode_srcs : (modSnode s k f).srcs = s.srcs := rfl
@[simp] theorem modSnode_tgts : (modSnode s k f).tgts = s.tgts := rfl
@[simp] theorem modSnode_holdoff : (modSnode s k f).holdoff = s.holdoff := rfl
@[simp] theorem modSnode_funcs : (modSnode s k f).funcs = s.funcs := rfl
@[simp] theorem modSnode_doms : (modSnode s k f).doms = s.doms := rfl
@[simp] theorem modSnode_chip : (modSnode s k f).chip = s.chip := rfl
@[simp] theorem modSnode_flows : (modSnode s k f).flows = s.flows := rfl
@[simp] theorem modSnode_svcs : (modSnode s k f).svcs = s.svcs := rfl
@[simp] theorem modSnode_ptp : (modSnode s k f).ptp = s.ptp := rfl
@[simp] theorem modSnode_queues : (modSnode s k f).queues = s.queues := rfl
@[simp] theorem modSnode_pnodes : (modSnode s k f).pnodes = s.pnodes := rfl
@[simp] theorem modSnode_store : (modSnode s k f).store = s.store := rfl
@[simp] theorem modSnode_dgCount : (modSnode s k f).dgCount = s.dgCount := rfl
@[simp] theorem modSnode_bdrk : (modSnode s k f).bdrk = s.bdrk := rfl
@[simp] theorem modSnode_perf : (modSnode s k f).perf = s.perf := rfl
@[simp] theorem modSnode_pins : (modSnode s k f).pins = s.pins := rfl
@[simp] theorem modSnode_out : (modSnode s k f).out = s.out := rfl
end

section
variable (s : State) (k : Nat) (f : PortNode → PortNode)
@[simp] theorem modPnode_pending : (modPnode s k f).pending = s.pending := rfl
@[simp] theorem modPnode_free : (modPnode s k f).free = s.free := rfl
@[simp] theorem modPnode_devtime : (modPnode s k f).devtime = s.devtime := rfl
@[simp] theorem modPnode_regs : (modPnode s k f).regs = s.regs := rfl
@[simp] theorem modPnode_staged : (modPnode s k f).staged = s.staged := rfl
@[simp] theorem modPnode_latched : (modPnode s k f).latched = s.latched := rfl
@[simp] theorem modPnode_mem : (modPnode s k f).mem = s.mem := rfl
@[simp] theorem modPnode_poison : (modPnode s k f).poison = s.poison := rfl
@[simp] theorem modPnode_rings : (modPnode s k f).rings = s.rings := rfl
@[simp] theorem modPnode_ctxs : (modPnode s k f).ctxs = s.ctxs := rfl
@[simp] theorem modPnode_engines : (modPnode s k f).engines = s.engines := rfl
@[simp] theorem modPnode_banks : (modPnode s k f).banks = s.banks := rfl
@[simp] theorem modPnode_disp : (modPnode s k f).disp = s.disp := rfl
@[simp] theorem modPnode_talus : (modPnode s k f).talus = s.talus := rfl
@[simp] theorem modPnode_dmcs : (modPnode s k f).dmcs = s.dmcs := rfl
@[simp] theorem modPnode_chans : (modPnode s k f).chans = s.chans := rfl
@[simp] theorem modPnode_srcs : (modPnode s k f).srcs = s.srcs := rfl
@[simp] theorem modPnode_tgts : (modPnode s k f).tgts = s.tgts := rfl
@[simp] theorem modPnode_holdoff : (modPnode s k f).holdoff = s.holdoff := rfl
@[simp] theorem modPnode_funcs : (modPnode s k f).funcs = s.funcs := rfl
@[simp] theorem modPnode_doms : (modPnode s k f).doms = s.doms := rfl
@[simp] theorem modPnode_chip : (modPnode s k f).chip = s.chip := rfl
@[simp] theorem modPnode_flows : (modPnode s k f).flows = s.flows := rfl
@[simp] theorem modPnode_svcs : (modPnode s k f).svcs = s.svcs := rfl
@[simp] theorem modPnode_ptp : (modPnode s k f).ptp = s.ptp := rfl
@[simp] theorem modPnode_queues : (modPnode s k f).queues = s.queues := rfl
@[simp] theorem modPnode_snodes : (modPnode s k f).snodes = s.snodes := rfl
@[simp] theorem modPnode_store : (modPnode s k f).store = s.store := rfl
@[simp] theorem modPnode_dgCount : (modPnode s k f).dgCount = s.dgCount := rfl
@[simp] theorem modPnode_bdrk : (modPnode s k f).bdrk = s.bdrk := rfl
@[simp] theorem modPnode_perf : (modPnode s k f).perf = s.perf := rfl
@[simp] theorem modPnode_pins : (modPnode s k f).pins = s.pins := rfl
@[simp] theorem modPnode_out : (modPnode s k f).out = s.out := rfl
end

section
variable (s : State) (f : Chip → Chip)
@[simp] theorem setChip_pending : (setChip s f).pending = s.pending := rfl
@[simp] theorem setChip_free : (setChip s f).free = s.free := rfl
@[simp] theorem setChip_devtime : (setChip s f).devtime = s.devtime := rfl
@[simp] theorem setChip_regs : (setChip s f).regs = s.regs := rfl
@[simp] theorem setChip_staged : (setChip s f).staged = s.staged := rfl
@[simp] theorem setChip_latched : (setChip s f).latched = s.latched := rfl
@[simp] theorem setChip_mem : (setChip s f).mem = s.mem := rfl
@[simp] theorem setChip_poison : (setChip s f).poison = s.poison := rfl
@[simp] theorem setChip_rings : (setChip s f).rings = s.rings := rfl
@[simp] theorem setChip_ctxs : (setChip s f).ctxs = s.ctxs := rfl
@[simp] theorem setChip_engines : (setChip s f).engines = s.engines := rfl
@[simp] theorem setChip_banks : (setChip s f).banks = s.banks := rfl
@[simp] theorem setChip_disp : (setChip s f).disp = s.disp := rfl
@[simp] theorem setChip_talus : (setChip s f).talus = s.talus := rfl
@[simp] theorem setChip_dmcs : (setChip s f).dmcs = s.dmcs := rfl
@[simp] theorem setChip_chans : (setChip s f).chans = s.chans := rfl
@[simp] theorem setChip_srcs : (setChip s f).srcs = s.srcs := rfl
@[simp] theorem setChip_tgts : (setChip s f).tgts = s.tgts := rfl
@[simp] theorem setChip_holdoff : (setChip s f).holdoff = s.holdoff := rfl
@[simp] theorem setChip_funcs : (setChip s f).funcs = s.funcs := rfl
@[simp] theorem setChip_doms : (setChip s f).doms = s.doms := rfl
@[simp] theorem setChip_flows : (setChip s f).flows = s.flows := rfl
@[simp] theorem setChip_svcs : (setChip s f).svcs = s.svcs := rfl
@[simp] theorem setChip_ptp : (setChip s f).ptp = s.ptp := rfl
@[simp] theorem setChip_queues : (setChip s f).queues = s.queues := rfl
@[simp] theorem setChip_snodes : (setChip s f).snodes = s.snodes := rfl
@[simp] theorem setChip_pnodes : (setChip s f).pnodes = s.pnodes := rfl
@[simp] theorem setChip_store : (setChip s f).store = s.store := rfl
@[simp] theorem setChip_dgCount : (setChip s f).dgCount = s.dgCount := rfl
@[simp] theorem setChip_bdrk : (setChip s f).bdrk = s.bdrk := rfl
@[simp] theorem setChip_perf : (setChip s f).perf = s.perf := rfl
@[simp] theorem setChip_pins : (setChip s f).pins = s.pins := rfl
@[simp] theorem setChip_out : (setChip s f).out = s.out := rfl
end

section
variable (s : State) (f : Bdrk → Bdrk)
@[simp] theorem modBdrk_pending : (modBdrk s f).pending = s.pending := rfl
@[simp] theorem modBdrk_free : (modBdrk s f).free = s.free := rfl
@[simp] theorem modBdrk_devtime : (modBdrk s f).devtime = s.devtime := rfl
@[simp] theorem modBdrk_regs : (modBdrk s f).regs = s.regs := rfl
@[simp] theorem modBdrk_staged : (modBdrk s f).staged = s.staged := rfl
@[simp] theorem modBdrk_latched : (modBdrk s f).latched = s.latched := rfl
@[simp] theorem modBdrk_mem : (modBdrk s f).mem = s.mem := rfl
@[simp] theorem modBdrk_poison : (modBdrk s f).poison = s.poison := rfl
@[simp] theorem modBdrk_rings : (modBdrk s f).rings = s.rings := rfl
@[simp] theorem modBdrk_ctxs : (modBdrk s f).ctxs = s.ctxs := rfl
@[simp] theorem modBdrk_engines : (modBdrk s f).engines = s.engines := rfl
@[simp] theorem modBdrk_banks : (modBdrk s f).banks = s.banks := rfl
@[simp] theorem modBdrk_disp : (modBdrk s f).disp = s.disp := rfl
@[simp] theorem modBdrk_talus : (modBdrk s f).talus = s.talus := rfl
@[simp] theorem modBdrk_dmcs : (modBdrk s f).dmcs = s.dmcs := rfl
@[simp] theorem modBdrk_chans : (modBdrk s f).chans = s.chans := rfl
@[simp] theorem modBdrk_srcs : (modBdrk s f).srcs = s.srcs := rfl
@[simp] theorem modBdrk_tgts : (modBdrk s f).tgts = s.tgts := rfl
@[simp] theorem modBdrk_holdoff : (modBdrk s f).holdoff = s.holdoff := rfl
@[simp] theorem modBdrk_funcs : (modBdrk s f).funcs = s.funcs := rfl
@[simp] theorem modBdrk_doms : (modBdrk s f).doms = s.doms := rfl
@[simp] theorem modBdrk_chip : (modBdrk s f).chip = s.chip := rfl
@[simp] theorem modBdrk_flows : (modBdrk s f).flows = s.flows := rfl
@[simp] theorem modBdrk_svcs : (modBdrk s f).svcs = s.svcs := rfl
@[simp] theorem modBdrk_ptp : (modBdrk s f).ptp = s.ptp := rfl
@[simp] theorem modBdrk_queues : (modBdrk s f).queues = s.queues := rfl
@[simp] theorem modBdrk_snodes : (modBdrk s f).snodes = s.snodes := rfl
@[simp] theorem modBdrk_pnodes : (modBdrk s f).pnodes = s.pnodes := rfl
@[simp] theorem modBdrk_store : (modBdrk s f).store = s.store := rfl
@[simp] theorem modBdrk_dgCount : (modBdrk s f).dgCount = s.dgCount := rfl
@[simp] theorem modBdrk_perf : (modBdrk s f).perf = s.perf := rfl
@[simp] theorem modBdrk_pins : (modBdrk s f).pins = s.pins := rfl
@[simp] theorem modBdrk_out : (modBdrk s f).out = s.out := rfl
end

section
variable (s : State)
@[simp] theorem useFree_pending : (useFree s).pending = s.pending := rfl
@[simp] theorem useFree_devtime : (useFree s).devtime = s.devtime := rfl
@[simp] theorem useFree_regs : (useFree s).regs = s.regs := rfl
@[simp] theorem useFree_staged : (useFree s).staged = s.staged := rfl
@[simp] theorem useFree_latched : (useFree s).latched = s.latched := rfl
@[simp] theorem useFree_mem : (useFree s).mem = s.mem := rfl
@[simp] theorem useFree_poison : (useFree s).poison = s.poison := rfl
@[simp] theorem useFree_rings : (useFree s).rings = s.rings := rfl
@[simp] theorem useFree_ctxs : (useFree s).ctxs = s.ctxs := rfl
@[simp] theorem useFree_engines : (useFree s).engines = s.engines := rfl
@[simp] theorem useFree_banks : (useFree s).banks = s.banks := rfl
@[simp] theorem useFree_disp : (useFree s).disp = s.disp := rfl
@[simp] theorem useFree_talus : (useFree s).talus = s.talus := rfl
@[simp] theorem useFree_dmcs : (useFree s).dmcs = s.dmcs := rfl
@[simp] theorem useFree_chans : (useFree s).chans = s.chans := rfl
@[simp] theorem useFree_srcs : (useFree s).srcs = s.srcs := rfl
@[simp] theorem useFree_tgts : (useFree s).tgts = s.tgts := rfl
@[simp] theorem useFree_holdoff : (useFree s).holdoff = s.holdoff := rfl
@[simp] theorem useFree_funcs : (useFree s).funcs = s.funcs := rfl
@[simp] theorem useFree_doms : (useFree s).doms = s.doms := rfl
@[simp] theorem useFree_chip : (useFree s).chip = s.chip := rfl
@[simp] theorem useFree_flows : (useFree s).flows = s.flows := rfl
@[simp] theorem useFree_svcs : (useFree s).svcs = s.svcs := rfl
@[simp] theorem useFree_ptp : (useFree s).ptp = s.ptp := rfl
@[simp] theorem useFree_queues : (useFree s).queues = s.queues := rfl
@[simp] theorem useFree_snodes : (useFree s).snodes = s.snodes := rfl
@[simp] theorem useFree_pnodes : (useFree s).pnodes = s.pnodes := rfl
@[simp] theorem useFree_store : (useFree s).store = s.store := rfl
@[simp] theorem useFree_dgCount : (useFree s).dgCount = s.dgCount := rfl
@[simp] theorem useFree_bdrk : (useFree s).bdrk = s.bdrk := rfl
@[simp] theorem useFree_perf : (useFree s).perf = s.perf := rfl
@[simp] theorem useFree_pins : (useFree s).pins = s.pins := rfl
@[simp] theorem useFree_out : (useFree s).out = s.out := rfl
end

section
variable (s : State) (n : Nat)
@[simp] theorem useFrees_pending : (useFrees s n).pending = s.pending := rfl
@[simp] theorem useFrees_devtime : (useFrees s n).devtime = s.devtime := rfl
@[simp] theorem useFrees_regs : (useFrees s n).regs = s.regs := rfl
@[simp] theorem useFrees_staged : (useFrees s n).staged = s.staged := rfl
@[simp] theorem useFrees_latched : (useFrees s n).latched = s.latched := rfl
@[simp] theorem useFrees_mem : (useFrees s n).mem = s.mem := rfl
@[simp] theorem useFrees_poison : (useFrees s n).poison = s.poison := rfl
@[simp] theorem useFrees_rings : (useFrees s n).rings = s.rings := rfl
@[simp] theorem useFrees_ctxs : (useFrees s n).ctxs = s.ctxs := rfl
@[simp] theorem useFrees_engines : (useFrees s n).engines = s.engines := rfl
@[simp] theorem useFrees_banks : (useFrees s n).banks = s.banks := rfl
@[simp] theorem useFrees_disp : (useFrees s n).disp = s.disp := rfl
@[simp] theorem useFrees_talus : (useFrees s n).talus = s.talus := rfl
@[simp] theorem useFrees_dmcs : (useFrees s n).dmcs = s.dmcs := rfl
@[simp] theorem useFrees_chans : (useFrees s n).chans = s.chans := rfl
@[simp] theorem useFrees_srcs : (useFrees s n).srcs = s.srcs := rfl
@[simp] theorem useFrees_tgts : (useFrees s n).tgts = s.tgts := rfl
@[simp] theorem useFrees_holdoff : (useFrees s n).holdoff = s.holdoff := rfl
@[simp] theorem useFrees_funcs : (useFrees s n).funcs = s.funcs := rfl
@[simp] theorem useFrees_doms : (useFrees s n).doms = s.doms := rfl
@[simp] theorem useFrees_chip : (useFrees s n).chip = s.chip := rfl
@[simp] theorem useFrees_flows : (useFrees s n).flows = s.flows := rfl
@[simp] theorem useFrees_svcs : (useFrees s n).svcs = s.svcs := rfl
@[simp] theorem useFrees_ptp : (useFrees s n).ptp = s.ptp := rfl
@[simp] theorem useFrees_queues : (useFrees s n).queues = s.queues := rfl
@[simp] theorem useFrees_snodes : (useFrees s n).snodes = s.snodes := rfl
@[simp] theorem useFrees_pnodes : (useFrees s n).pnodes = s.pnodes := rfl
@[simp] theorem useFrees_store : (useFrees s n).store = s.store := rfl
@[simp] theorem useFrees_dgCount : (useFrees s n).dgCount = s.dgCount := rfl
@[simp] theorem useFrees_bdrk : (useFrees s n).bdrk = s.bdrk := rfl
@[simp] theorem useFrees_perf : (useFrees s n).perf = s.perf := rfl
@[simp] theorem useFrees_pins : (useFrees s n).pins = s.pins := rfl
@[simp] theorem useFrees_out : (useFrees s n).out = s.out := rfl
end

section
variable (s : State) (p o v : Nat)
@[simp] theorem rset_pending : (rset s p o v).pending = s.pending := rfl
@[simp] theorem rset_free : (rset s p o v).free = s.free := rfl
@[simp] theorem rset_devtime : (rset s p o v).devtime = s.devtime := rfl
@[simp] theorem rset_staged : (rset s p o v).staged = s.staged := rfl
@[simp] theorem rset_latched : (rset s p o v).latched = s.latched := rfl
@[simp] theorem rset_mem : (rset s p o v).mem = s.mem := rfl
@[simp] theorem rset_poison : (rset s p o v).poison = s.poison := rfl
@[simp] theorem rset_rings : (rset s p o v).rings = s.rings := rfl
@[simp] theorem rset_ctxs : (rset s p o v).ctxs = s.ctxs := rfl
@[simp] theorem rset_engines : (rset s p o v).engines = s.engines := rfl
@[simp] theorem rset_banks : (rset s p o v).banks = s.banks := rfl
@[simp] theorem rset_disp : (rset s p o v).disp = s.disp := rfl
@[simp] theorem rset_talus : (rset s p o v).talus = s.talus := rfl
@[simp] theorem rset_dmcs : (rset s p o v).dmcs = s.dmcs := rfl
@[simp] theorem rset_chans : (rset s p o v).chans = s.chans := rfl
@[simp] theorem rset_srcs : (rset s p o v).srcs = s.srcs := rfl
@[simp] theorem rset_tgts : (rset s p o v).tgts = s.tgts := rfl
@[simp] theorem rset_holdoff : (rset s p o v).holdoff = s.holdoff := rfl
@[simp] theorem rset_funcs : (rset s p o v).funcs = s.funcs := rfl
@[simp] theorem rset_doms : (rset s p o v).doms = s.doms := rfl
@[simp] theorem rset_chip : (rset s p o v).chip = s.chip := rfl
@[simp] theorem rset_flows : (rset s p o v).flows = s.flows := rfl
@[simp] theorem rset_svcs : (rset s p o v).svcs = s.svcs := rfl
@[simp] theorem rset_ptp : (rset s p o v).ptp = s.ptp := rfl
@[simp] theorem rset_queues : (rset s p o v).queues = s.queues := rfl
@[simp] theorem rset_snodes : (rset s p o v).snodes = s.snodes := rfl
@[simp] theorem rset_pnodes : (rset s p o v).pnodes = s.pnodes := rfl
@[simp] theorem rset_store : (rset s p o v).store = s.store := rfl
@[simp] theorem rset_dgCount : (rset s p o v).dgCount = s.dgCount := rfl
@[simp] theorem rset_bdrk : (rset s p o v).bdrk = s.bdrk := rfl
@[simp] theorem rset_perf : (rset s p o v).perf = s.perf := rfl
@[simp] theorem rset_pins : (rset s p o v).pins = s.pins := rfl
@[simp] theorem rset_out : (rset s p o v).out = s.out := rfl
end

section
variable (s : State) (p : Nat) (r : Row) (v i : Nat)
@[simp] theorem fset_pending : (fset s p r v i).pending = s.pending := rfl
@[simp] theorem fset_free : (fset s p r v i).free = s.free := rfl
@[simp] theorem fset_devtime : (fset s p r v i).devtime = s.devtime := rfl
@[simp] theorem fset_staged : (fset s p r v i).staged = s.staged := rfl
@[simp] theorem fset_latched : (fset s p r v i).latched = s.latched := rfl
@[simp] theorem fset_mem : (fset s p r v i).mem = s.mem := rfl
@[simp] theorem fset_poison : (fset s p r v i).poison = s.poison := rfl
@[simp] theorem fset_rings : (fset s p r v i).rings = s.rings := rfl
@[simp] theorem fset_ctxs : (fset s p r v i).ctxs = s.ctxs := rfl
@[simp] theorem fset_engines : (fset s p r v i).engines = s.engines := rfl
@[simp] theorem fset_banks : (fset s p r v i).banks = s.banks := rfl
@[simp] theorem fset_disp : (fset s p r v i).disp = s.disp := rfl
@[simp] theorem fset_talus : (fset s p r v i).talus = s.talus := rfl
@[simp] theorem fset_dmcs : (fset s p r v i).dmcs = s.dmcs := rfl
@[simp] theorem fset_chans : (fset s p r v i).chans = s.chans := rfl
@[simp] theorem fset_srcs : (fset s p r v i).srcs = s.srcs := rfl
@[simp] theorem fset_tgts : (fset s p r v i).tgts = s.tgts := rfl
@[simp] theorem fset_holdoff : (fset s p r v i).holdoff = s.holdoff := rfl
@[simp] theorem fset_funcs : (fset s p r v i).funcs = s.funcs := rfl
@[simp] theorem fset_doms : (fset s p r v i).doms = s.doms := rfl
@[simp] theorem fset_chip : (fset s p r v i).chip = s.chip := rfl
@[simp] theorem fset_flows : (fset s p r v i).flows = s.flows := rfl
@[simp] theorem fset_svcs : (fset s p r v i).svcs = s.svcs := rfl
@[simp] theorem fset_ptp : (fset s p r v i).ptp = s.ptp := rfl
@[simp] theorem fset_queues : (fset s p r v i).queues = s.queues := rfl
@[simp] theorem fset_snodes : (fset s p r v i).snodes = s.snodes := rfl
@[simp] theorem fset_pnodes : (fset s p r v i).pnodes = s.pnodes := rfl
@[simp] theorem fset_store : (fset s p r v i).store = s.store := rfl
@[simp] theorem fset_dgCount : (fset s p r v i).dgCount = s.dgCount := rfl
@[simp] theorem fset_bdrk : (fset s p r v i).bdrk = s.bdrk := rfl
@[simp] theorem fset_perf : (fset s p r v i).perf = s.perf := rfl
@[simp] theorem fset_pins : (fset s p r v i).pins = s.pins := rfl
@[simp] theorem fset_out : (fset s p r v i).out = s.out := rfl
end

section
variable (s : State) (p : Nat) (r : Row) (v : Bool) (i : Nat)
@[simp] theorem fsetb_pending : (fsetb s p r v i).pending = s.pending := rfl
@[simp] theorem fsetb_free : (fsetb s p r v i).free = s.free := rfl
@[simp] theorem fsetb_devtime : (fsetb s p r v i).devtime = s.devtime := rfl
@[simp] theorem fsetb_staged : (fsetb s p r v i).staged = s.staged := rfl
@[simp] theorem fsetb_latched : (fsetb s p r v i).latched = s.latched := rfl
@[simp] theorem fsetb_mem : (fsetb s p r v i).mem = s.mem := rfl
@[simp] theorem fsetb_poison : (fsetb s p r v i).poison = s.poison := rfl
@[simp] theorem fsetb_rings : (fsetb s p r v i).rings = s.rings := rfl
@[simp] theorem fsetb_ctxs : (fsetb s p r v i).ctxs = s.ctxs := rfl
@[simp] theorem fsetb_engines : (fsetb s p r v i).engines = s.engines := rfl
@[simp] theorem fsetb_banks : (fsetb s p r v i).banks = s.banks := rfl
@[simp] theorem fsetb_disp : (fsetb s p r v i).disp = s.disp := rfl
@[simp] theorem fsetb_talus : (fsetb s p r v i).talus = s.talus := rfl
@[simp] theorem fsetb_dmcs : (fsetb s p r v i).dmcs = s.dmcs := rfl
@[simp] theorem fsetb_chans : (fsetb s p r v i).chans = s.chans := rfl
@[simp] theorem fsetb_srcs : (fsetb s p r v i).srcs = s.srcs := rfl
@[simp] theorem fsetb_tgts : (fsetb s p r v i).tgts = s.tgts := rfl
@[simp] theorem fsetb_holdoff : (fsetb s p r v i).holdoff = s.holdoff := rfl
@[simp] theorem fsetb_funcs : (fsetb s p r v i).funcs = s.funcs := rfl
@[simp] theorem fsetb_doms : (fsetb s p r v i).doms = s.doms := rfl
@[simp] theorem fsetb_chip : (fsetb s p r v i).chip = s.chip := rfl
@[simp] theorem fsetb_flows : (fsetb s p r v i).flows = s.flows := rfl
@[simp] theorem fsetb_svcs : (fsetb s p r v i).svcs = s.svcs := rfl
@[simp] theorem fsetb_ptp : (fsetb s p r v i).ptp = s.ptp := rfl
@[simp] theorem fsetb_queues : (fsetb s p r v i).queues = s.queues := rfl
@[simp] theorem fsetb_snodes : (fsetb s p r v i).snodes = s.snodes := rfl
@[simp] theorem fsetb_pnodes : (fsetb s p r v i).pnodes = s.pnodes := rfl
@[simp] theorem fsetb_store : (fsetb s p r v i).store = s.store := rfl
@[simp] theorem fsetb_dgCount : (fsetb s p r v i).dgCount = s.dgCount := rfl
@[simp] theorem fsetb_bdrk : (fsetb s p r v i).bdrk = s.bdrk := rfl
@[simp] theorem fsetb_perf : (fsetb s p r v i).perf = s.perf := rfl
@[simp] theorem fsetb_pins : (fsetb s p r v i).pins = s.pins := rfl
@[simp] theorem fsetb_out : (fsetb s p r v i).out = s.out := rfl
end

section
variable (s : State) (p : Nat) (r : Row) (v i : Nat)
@[simp] theorem fadd_pending : (fadd s p r v i).pending = s.pending := rfl
@[simp] theorem fadd_free : (fadd s p r v i).free = s.free := rfl
@[simp] theorem fadd_devtime : (fadd s p r v i).devtime = s.devtime := rfl
@[simp] theorem fadd_staged : (fadd s p r v i).staged = s.staged := rfl
@[simp] theorem fadd_latched : (fadd s p r v i).latched = s.latched := rfl
@[simp] theorem fadd_mem : (fadd s p r v i).mem = s.mem := rfl
@[simp] theorem fadd_poison : (fadd s p r v i).poison = s.poison := rfl
@[simp] theorem fadd_rings : (fadd s p r v i).rings = s.rings := rfl
@[simp] theorem fadd_ctxs : (fadd s p r v i).ctxs = s.ctxs := rfl
@[simp] theorem fadd_engines : (fadd s p r v i).engines = s.engines := rfl
@[simp] theorem fadd_banks : (fadd s p r v i).banks = s.banks := rfl
@[simp] theorem fadd_disp : (fadd s p r v i).disp = s.disp := rfl
@[simp] theorem fadd_talus : (fadd s p r v i).talus = s.talus := rfl
@[simp] theorem fadd_dmcs : (fadd s p r v i).dmcs = s.dmcs := rfl
@[simp] theorem fadd_chans : (fadd s p r v i).chans = s.chans := rfl
@[simp] theorem fadd_srcs : (fadd s p r v i).srcs = s.srcs := rfl
@[simp] theorem fadd_tgts : (fadd s p r v i).tgts = s.tgts := rfl
@[simp] theorem fadd_holdoff : (fadd s p r v i).holdoff = s.holdoff := rfl
@[simp] theorem fadd_funcs : (fadd s p r v i).funcs = s.funcs := rfl
@[simp] theorem fadd_doms : (fadd s p r v i).doms = s.doms := rfl
@[simp] theorem fadd_chip : (fadd s p r v i).chip = s.chip := rfl
@[simp] theorem fadd_flows : (fadd s p r v i).flows = s.flows := rfl
@[simp] theorem fadd_svcs : (fadd s p r v i).svcs = s.svcs := rfl
@[simp] theorem fadd_ptp : (fadd s p r v i).ptp = s.ptp := rfl
@[simp] theorem fadd_queues : (fadd s p r v i).queues = s.queues := rfl
@[simp] theorem fadd_snodes : (fadd s p r v i).snodes = s.snodes := rfl
@[simp] theorem fadd_pnodes : (fadd s p r v i).pnodes = s.pnodes := rfl
@[simp] theorem fadd_store : (fadd s p r v i).store = s.store := rfl
@[simp] theorem fadd_dgCount : (fadd s p r v i).dgCount = s.dgCount := rfl
@[simp] theorem fadd_bdrk : (fadd s p r v i).bdrk = s.bdrk := rfl
@[simp] theorem fadd_perf : (fadd s p r v i).perf = s.perf := rfl
@[simp] theorem fadd_pins : (fadd s p r v i).pins = s.pins := rfl
@[simp] theorem fadd_out : (fadd s p r v i).out = s.out := rfl
end

section
variable (s : State) (p : Nat) (r : Row) (v i : Nat)
@[simp] theorem faddSat_pending : (faddSat s p r v i).pending = s.pending := rfl
@[simp] theorem faddSat_free : (faddSat s p r v i).free = s.free := rfl
@[simp] theorem faddSat_devtime : (faddSat s p r v i).devtime = s.devtime := rfl
@[simp] theorem faddSat_staged : (faddSat s p r v i).staged = s.staged := rfl
@[simp] theorem faddSat_latched : (faddSat s p r v i).latched = s.latched := rfl
@[simp] theorem faddSat_mem : (faddSat s p r v i).mem = s.mem := rfl
@[simp] theorem faddSat_poison : (faddSat s p r v i).poison = s.poison := rfl
@[simp] theorem faddSat_rings : (faddSat s p r v i).rings = s.rings := rfl
@[simp] theorem faddSat_ctxs : (faddSat s p r v i).ctxs = s.ctxs := rfl
@[simp] theorem faddSat_engines : (faddSat s p r v i).engines = s.engines := rfl
@[simp] theorem faddSat_banks : (faddSat s p r v i).banks = s.banks := rfl
@[simp] theorem faddSat_disp : (faddSat s p r v i).disp = s.disp := rfl
@[simp] theorem faddSat_talus : (faddSat s p r v i).talus = s.talus := rfl
@[simp] theorem faddSat_dmcs : (faddSat s p r v i).dmcs = s.dmcs := rfl
@[simp] theorem faddSat_chans : (faddSat s p r v i).chans = s.chans := rfl
@[simp] theorem faddSat_srcs : (faddSat s p r v i).srcs = s.srcs := rfl
@[simp] theorem faddSat_tgts : (faddSat s p r v i).tgts = s.tgts := rfl
@[simp] theorem faddSat_holdoff : (faddSat s p r v i).holdoff = s.holdoff := rfl
@[simp] theorem faddSat_funcs : (faddSat s p r v i).funcs = s.funcs := rfl
@[simp] theorem faddSat_doms : (faddSat s p r v i).doms = s.doms := rfl
@[simp] theorem faddSat_chip : (faddSat s p r v i).chip = s.chip := rfl
@[simp] theorem faddSat_flows : (faddSat s p r v i).flows = s.flows := rfl
@[simp] theorem faddSat_svcs : (faddSat s p r v i).svcs = s.svcs := rfl
@[simp] theorem faddSat_ptp : (faddSat s p r v i).ptp = s.ptp := rfl
@[simp] theorem faddSat_queues : (faddSat s p r v i).queues = s.queues := rfl
@[simp] theorem faddSat_snodes : (faddSat s p r v i).snodes = s.snodes := rfl
@[simp] theorem faddSat_pnodes : (faddSat s p r v i).pnodes = s.pnodes := rfl
@[simp] theorem faddSat_store : (faddSat s p r v i).store = s.store := rfl
@[simp] theorem faddSat_dgCount : (faddSat s p r v i).dgCount = s.dgCount := rfl
@[simp] theorem faddSat_bdrk : (faddSat s p r v i).bdrk = s.bdrk := rfl
@[simp] theorem faddSat_perf : (faddSat s p r v i).perf = s.perf := rfl
@[simp] theorem faddSat_pins : (faddSat s p r v i).pins = s.pins := rfl
@[simp] theorem faddSat_out : (faddSat s p r v i).out = s.out := rfl
end

section
variable (s : State) (p : Nat) (r : Row) (v i : Nat)
@[simp] theorem qset_pending : (qset s p r v i).pending = s.pending := rfl
@[simp] theorem qset_free : (qset s p r v i).free = s.free := rfl
@[simp] theorem qset_devtime : (qset s p r v i).devtime = s.devtime := rfl
@[simp] theorem qset_staged : (qset s p r v i).staged = s.staged := rfl
@[simp] theorem qset_latched : (qset s p r v i).latched = s.latched := rfl
@[simp] theorem qset_mem : (qset s p r v i).mem = s.mem := rfl
@[simp] theorem qset_poison : (qset s p r v i).poison = s.poison := rfl
@[simp] theorem qset_rings : (qset s p r v i).rings = s.rings := rfl
@[simp] theorem qset_ctxs : (qset s p r v i).ctxs = s.ctxs := rfl
@[simp] theorem qset_engines : (qset s p r v i).engines = s.engines := rfl
@[simp] theorem qset_banks : (qset s p r v i).banks = s.banks := rfl
@[simp] theorem qset_disp : (qset s p r v i).disp = s.disp := rfl
@[simp] theorem qset_talus : (qset s p r v i).talus = s.talus := rfl
@[simp] theorem qset_dmcs : (qset s p r v i).dmcs = s.dmcs := rfl
@[simp] theorem qset_chans : (qset s p r v i).chans = s.chans := rfl
@[simp] theorem qset_srcs : (qset s p r v i).srcs = s.srcs := rfl
@[simp] theorem qset_tgts : (qset s p r v i).tgts = s.tgts := rfl
@[simp] theorem qset_holdoff : (qset s p r v i).holdoff = s.holdoff := rfl
@[simp] theorem qset_funcs : (qset s p r v i).funcs = s.funcs := rfl
@[simp] theorem qset_doms : (qset s p r v i).doms = s.doms := rfl
@[simp] theorem qset_chip : (qset s p r v i).chip = s.chip := rfl
@[simp] theorem qset_flows : (qset s p r v i).flows = s.flows := rfl
@[simp] theorem qset_svcs : (qset s p r v i).svcs = s.svcs := rfl
@[simp] theorem qset_ptp : (qset s p r v i).ptp = s.ptp := rfl
@[simp] theorem qset_queues : (qset s p r v i).queues = s.queues := rfl
@[simp] theorem qset_snodes : (qset s p r v i).snodes = s.snodes := rfl
@[simp] theorem qset_pnodes : (qset s p r v i).pnodes = s.pnodes := rfl
@[simp] theorem qset_store : (qset s p r v i).store = s.store := rfl
@[simp] theorem qset_dgCount : (qset s p r v i).dgCount = s.dgCount := rfl
@[simp] theorem qset_bdrk : (qset s p r v i).bdrk = s.bdrk := rfl
@[simp] theorem qset_perf : (qset s p r v i).perf = s.perf := rfl
@[simp] theorem qset_pins : (qset s p r v i).pins = s.pins := rfl
@[simp] theorem qset_out : (qset s p r v i).out = s.out := rfl
end

section
variable (s : State) (k : Nat) (r : Row) (v : Nat)
@[simp] theorem rfieldSet_pending : (rfieldSet s k r v).pending = s.pending := rfl
@[simp] theorem rfieldSet_free : (rfieldSet s k r v).free = s.free := rfl
@[simp] theorem rfieldSet_devtime : (rfieldSet s k r v).devtime = s.devtime := rfl
@[simp] theorem rfieldSet_staged : (rfieldSet s k r v).staged = s.staged := rfl
@[simp] theorem rfieldSet_latched : (rfieldSet s k r v).latched = s.latched := rfl
@[simp] theorem rfieldSet_mem : (rfieldSet s k r v).mem = s.mem := rfl
@[simp] theorem rfieldSet_poison : (rfieldSet s k r v).poison = s.poison := rfl
@[simp] theorem rfieldSet_rings : (rfieldSet s k r v).rings = s.rings := rfl
@[simp] theorem rfieldSet_ctxs : (rfieldSet s k r v).ctxs = s.ctxs := rfl
@[simp] theorem rfieldSet_engines : (rfieldSet s k r v).engines = s.engines := rfl
@[simp] theorem rfieldSet_banks : (rfieldSet s k r v).banks = s.banks := rfl
@[simp] theorem rfieldSet_disp : (rfieldSet s k r v).disp = s.disp := rfl
@[simp] theorem rfieldSet_talus : (rfieldSet s k r v).talus = s.talus := rfl
@[simp] theorem rfieldSet_dmcs : (rfieldSet s k r v).dmcs = s.dmcs := rfl
@[simp] theorem rfieldSet_chans : (rfieldSet s k r v).chans = s.chans := rfl
@[simp] theorem rfieldSet_srcs : (rfieldSet s k r v).srcs = s.srcs := rfl
@[simp] theorem rfieldSet_tgts : (rfieldSet s k r v).tgts = s.tgts := rfl
@[simp] theorem rfieldSet_holdoff : (rfieldSet s k r v).holdoff = s.holdoff := rfl
@[simp] theorem rfieldSet_funcs : (rfieldSet s k r v).funcs = s.funcs := rfl
@[simp] theorem rfieldSet_doms : (rfieldSet s k r v).doms = s.doms := rfl
@[simp] theorem rfieldSet_chip : (rfieldSet s k r v).chip = s.chip := rfl
@[simp] theorem rfieldSet_flows : (rfieldSet s k r v).flows = s.flows := rfl
@[simp] theorem rfieldSet_svcs : (rfieldSet s k r v).svcs = s.svcs := rfl
@[simp] theorem rfieldSet_ptp : (rfieldSet s k r v).ptp = s.ptp := rfl
@[simp] theorem rfieldSet_queues : (rfieldSet s k r v).queues = s.queues := rfl
@[simp] theorem rfieldSet_snodes : (rfieldSet s k r v).snodes = s.snodes := rfl
@[simp] theorem rfieldSet_pnodes : (rfieldSet s k r v).pnodes = s.pnodes := rfl
@[simp] theorem rfieldSet_store : (rfieldSet s k r v).store = s.store := rfl
@[simp] theorem rfieldSet_dgCount : (rfieldSet s k r v).dgCount = s.dgCount := rfl
@[simp] theorem rfieldSet_bdrk : (rfieldSet s k r v).bdrk = s.bdrk := rfl
@[simp] theorem rfieldSet_perf : (rfieldSet s k r v).perf = s.perf := rfl
@[simp] theorem rfieldSet_pins : (rfieldSet s k r v).pins = s.pins := rfl
@[simp] theorem rfieldSet_out : (rfieldSet s k r v).out = s.out := rfl
end

section
variable (s : State) (e : Emit)
@[simp] theorem emit_pending : (emit s e).pending = s.pending := rfl
@[simp] theorem emit_free : (emit s e).free = s.free := rfl
@[simp] theorem emit_devtime : (emit s e).devtime = s.devtime := rfl
@[simp] theorem emit_regs : (emit s e).regs = s.regs := rfl
@[simp] theorem emit_staged : (emit s e).staged = s.staged := rfl
@[simp] theorem emit_latched : (emit s e).latched = s.latched := rfl
@[simp] theorem emit_mem : (emit s e).mem = s.mem := rfl
@[simp] theorem emit_poison : (emit s e).poison = s.poison := rfl
@[simp] theorem emit_rings : (emit s e).rings = s.rings := rfl
@[simp] theorem emit_ctxs : (emit s e).ctxs = s.ctxs := rfl
@[simp] theorem emit_engines : (emit s e).engines = s.engines := rfl
@[simp] theorem emit_banks : (emit s e).banks = s.banks := rfl
@[simp] theorem emit_disp : (emit s e).disp = s.disp := rfl
@[simp] theorem emit_talus : (emit s e).talus = s.talus := rfl
@[simp] theorem emit_dmcs : (emit s e).dmcs = s.dmcs := rfl
@[simp] theorem emit_chans : (emit s e).chans = s.chans := rfl
@[simp] theorem emit_srcs : (emit s e).srcs = s.srcs := rfl
@[simp] theorem emit_tgts : (emit s e).tgts = s.tgts := rfl
@[simp] theorem emit_holdoff : (emit s e).holdoff = s.holdoff := rfl
@[simp] theorem emit_funcs : (emit s e).funcs = s.funcs := rfl
@[simp] theorem emit_doms : (emit s e).doms = s.doms := rfl
@[simp] theorem emit_chip : (emit s e).chip = s.chip := rfl
@[simp] theorem emit_flows : (emit s e).flows = s.flows := rfl
@[simp] theorem emit_svcs : (emit s e).svcs = s.svcs := rfl
@[simp] theorem emit_ptp : (emit s e).ptp = s.ptp := rfl
@[simp] theorem emit_queues : (emit s e).queues = s.queues := rfl
@[simp] theorem emit_snodes : (emit s e).snodes = s.snodes := rfl
@[simp] theorem emit_pnodes : (emit s e).pnodes = s.pnodes := rfl
@[simp] theorem emit_store : (emit s e).store = s.store := rfl
@[simp] theorem emit_dgCount : (emit s e).dgCount = s.dgCount := rfl
@[simp] theorem emit_bdrk : (emit s e).bdrk = s.bdrk := rfl
@[simp] theorem emit_perf : (emit s e).perf = s.perf := rfl
@[simp] theorem emit_pins : (emit s e).pins = s.pins := rfl
end

section
variable (s : State) (a : Nat) (b : Byte)
@[simp] theorem memWrite_pending : (memWrite s a b).pending = s.pending := rfl
@[simp] theorem memWrite_free : (memWrite s a b).free = s.free := rfl
@[simp] theorem memWrite_devtime : (memWrite s a b).devtime = s.devtime := rfl
@[simp] theorem memWrite_regs : (memWrite s a b).regs = s.regs := rfl
@[simp] theorem memWrite_staged : (memWrite s a b).staged = s.staged := rfl
@[simp] theorem memWrite_latched : (memWrite s a b).latched = s.latched := rfl
@[simp] theorem memWrite_poison : (memWrite s a b).poison = s.poison := rfl
@[simp] theorem memWrite_rings : (memWrite s a b).rings = s.rings := rfl
@[simp] theorem memWrite_ctxs : (memWrite s a b).ctxs = s.ctxs := rfl
@[simp] theorem memWrite_engines : (memWrite s a b).engines = s.engines := rfl
@[simp] theorem memWrite_banks : (memWrite s a b).banks = s.banks := rfl
@[simp] theorem memWrite_disp : (memWrite s a b).disp = s.disp := rfl
@[simp] theorem memWrite_talus : (memWrite s a b).talus = s.talus := rfl
@[simp] theorem memWrite_dmcs : (memWrite s a b).dmcs = s.dmcs := rfl
@[simp] theorem memWrite_chans : (memWrite s a b).chans = s.chans := rfl
@[simp] theorem memWrite_srcs : (memWrite s a b).srcs = s.srcs := rfl
@[simp] theorem memWrite_tgts : (memWrite s a b).tgts = s.tgts := rfl
@[simp] theorem memWrite_holdoff : (memWrite s a b).holdoff = s.holdoff := rfl
@[simp] theorem memWrite_funcs : (memWrite s a b).funcs = s.funcs := rfl
@[simp] theorem memWrite_doms : (memWrite s a b).doms = s.doms := rfl
@[simp] theorem memWrite_chip : (memWrite s a b).chip = s.chip := rfl
@[simp] theorem memWrite_flows : (memWrite s a b).flows = s.flows := rfl
@[simp] theorem memWrite_svcs : (memWrite s a b).svcs = s.svcs := rfl
@[simp] theorem memWrite_ptp : (memWrite s a b).ptp = s.ptp := rfl
@[simp] theorem memWrite_queues : (memWrite s a b).queues = s.queues := rfl
@[simp] theorem memWrite_snodes : (memWrite s a b).snodes = s.snodes := rfl
@[simp] theorem memWrite_pnodes : (memWrite s a b).pnodes = s.pnodes := rfl
@[simp] theorem memWrite_store : (memWrite s a b).store = s.store := rfl
@[simp] theorem memWrite_dgCount : (memWrite s a b).dgCount = s.dgCount := rfl
@[simp] theorem memWrite_bdrk : (memWrite s a b).bdrk = s.bdrk := rfl
@[simp] theorem memWrite_perf : (memWrite s a b).perf = s.perf := rfl
@[simp] theorem memWrite_pins : (memWrite s a b).pins = s.pins := rfl
@[simp] theorem memWrite_out : (memWrite s a b).out = s.out := rfl
end

section
variable (s : State) (i : Nat) (l : List Byte)
@[simp] theorem memWriteN_pending : (memWriteN s i l).pending = s.pending := rfl
@[simp] theorem memWriteN_free : (memWriteN s i l).free = s.free := rfl
@[simp] theorem memWriteN_devtime : (memWriteN s i l).devtime = s.devtime := rfl
@[simp] theorem memWriteN_regs : (memWriteN s i l).regs = s.regs := rfl
@[simp] theorem memWriteN_staged : (memWriteN s i l).staged = s.staged := rfl
@[simp] theorem memWriteN_latched : (memWriteN s i l).latched = s.latched := rfl
@[simp] theorem memWriteN_poison : (memWriteN s i l).poison = s.poison := rfl
@[simp] theorem memWriteN_rings : (memWriteN s i l).rings = s.rings := rfl
@[simp] theorem memWriteN_ctxs : (memWriteN s i l).ctxs = s.ctxs := rfl
@[simp] theorem memWriteN_engines : (memWriteN s i l).engines = s.engines := rfl
@[simp] theorem memWriteN_banks : (memWriteN s i l).banks = s.banks := rfl
@[simp] theorem memWriteN_disp : (memWriteN s i l).disp = s.disp := rfl
@[simp] theorem memWriteN_talus : (memWriteN s i l).talus = s.talus := rfl
@[simp] theorem memWriteN_dmcs : (memWriteN s i l).dmcs = s.dmcs := rfl
@[simp] theorem memWriteN_chans : (memWriteN s i l).chans = s.chans := rfl
@[simp] theorem memWriteN_srcs : (memWriteN s i l).srcs = s.srcs := rfl
@[simp] theorem memWriteN_tgts : (memWriteN s i l).tgts = s.tgts := rfl
@[simp] theorem memWriteN_holdoff : (memWriteN s i l).holdoff = s.holdoff := rfl
@[simp] theorem memWriteN_funcs : (memWriteN s i l).funcs = s.funcs := rfl
@[simp] theorem memWriteN_doms : (memWriteN s i l).doms = s.doms := rfl
@[simp] theorem memWriteN_chip : (memWriteN s i l).chip = s.chip := rfl
@[simp] theorem memWriteN_flows : (memWriteN s i l).flows = s.flows := rfl
@[simp] theorem memWriteN_svcs : (memWriteN s i l).svcs = s.svcs := rfl
@[simp] theorem memWriteN_ptp : (memWriteN s i l).ptp = s.ptp := rfl
@[simp] theorem memWriteN_queues : (memWriteN s i l).queues = s.queues := rfl
@[simp] theorem memWriteN_snodes : (memWriteN s i l).snodes = s.snodes := rfl
@[simp] theorem memWriteN_pnodes : (memWriteN s i l).pnodes = s.pnodes := rfl
@[simp] theorem memWriteN_store : (memWriteN s i l).store = s.store := rfl
@[simp] theorem memWriteN_dgCount : (memWriteN s i l).dgCount = s.dgCount := rfl
@[simp] theorem memWriteN_bdrk : (memWriteN s i l).bdrk = s.bdrk := rfl
@[simp] theorem memWriteN_perf : (memWriteN s i l).perf = s.perf := rfl
@[simp] theorem memWriteN_pins : (memWriteN s i l).pins = s.pins := rfl
@[simp] theorem memWriteN_out : (memWriteN s i l).out = s.out := rfl
end

section
variable (s : State) (h : Nat) (b : Buf)
@[simp] theorem setBuf_pending : (setBuf s h b).pending = s.pending := rfl
@[simp] theorem setBuf_free : (setBuf s h b).free = s.free := rfl
@[simp] theorem setBuf_devtime : (setBuf s h b).devtime = s.devtime := rfl
@[simp] theorem setBuf_regs : (setBuf s h b).regs = s.regs := rfl
@[simp] theorem setBuf_staged : (setBuf s h b).staged = s.staged := rfl
@[simp] theorem setBuf_latched : (setBuf s h b).latched = s.latched := rfl
@[simp] theorem setBuf_mem : (setBuf s h b).mem = s.mem := rfl
@[simp] theorem setBuf_poison : (setBuf s h b).poison = s.poison := rfl
@[simp] theorem setBuf_rings : (setBuf s h b).rings = s.rings := rfl
@[simp] theorem setBuf_ctxs : (setBuf s h b).ctxs = s.ctxs := rfl
@[simp] theorem setBuf_engines : (setBuf s h b).engines = s.engines := rfl
@[simp] theorem setBuf_banks : (setBuf s h b).banks = s.banks := rfl
@[simp] theorem setBuf_disp : (setBuf s h b).disp = s.disp := rfl
@[simp] theorem setBuf_dmcs : (setBuf s h b).dmcs = s.dmcs := rfl
@[simp] theorem setBuf_chans : (setBuf s h b).chans = s.chans := rfl
@[simp] theorem setBuf_srcs : (setBuf s h b).srcs = s.srcs := rfl
@[simp] theorem setBuf_tgts : (setBuf s h b).tgts = s.tgts := rfl
@[simp] theorem setBuf_holdoff : (setBuf s h b).holdoff = s.holdoff := rfl
@[simp] theorem setBuf_funcs : (setBuf s h b).funcs = s.funcs := rfl
@[simp] theorem setBuf_doms : (setBuf s h b).doms = s.doms := rfl
@[simp] theorem setBuf_chip : (setBuf s h b).chip = s.chip := rfl
@[simp] theorem setBuf_flows : (setBuf s h b).flows = s.flows := rfl
@[simp] theorem setBuf_svcs : (setBuf s h b).svcs = s.svcs := rfl
@[simp] theorem setBuf_ptp : (setBuf s h b).ptp = s.ptp := rfl
@[simp] theorem setBuf_queues : (setBuf s h b).queues = s.queues := rfl
@[simp] theorem setBuf_snodes : (setBuf s h b).snodes = s.snodes := rfl
@[simp] theorem setBuf_pnodes : (setBuf s h b).pnodes = s.pnodes := rfl
@[simp] theorem setBuf_store : (setBuf s h b).store = s.store := rfl
@[simp] theorem setBuf_dgCount : (setBuf s h b).dgCount = s.dgCount := rfl
@[simp] theorem setBuf_bdrk : (setBuf s h b).bdrk = s.bdrk := rfl
@[simp] theorem setBuf_perf : (setBuf s h b).perf = s.perf := rfl
@[simp] theorem setBuf_pins : (setBuf s h b).pins = s.pins := rfl
@[simp] theorem setBuf_out : (setBuf s h b).out = s.out := rfl
end

section
variable (s : State) (i n : Nat)
@[simp] theorem countEv_pending : (countEv s i n).pending = s.pending := rfl
@[simp] theorem countEv_free : (countEv s i n).free = s.free := rfl
@[simp] theorem countEv_devtime : (countEv s i n).devtime = s.devtime := rfl
@[simp] theorem countEv_regs : (countEv s i n).regs = s.regs := rfl
@[simp] theorem countEv_staged : (countEv s i n).staged = s.staged := rfl
@[simp] theorem countEv_latched : (countEv s i n).latched = s.latched := rfl
@[simp] theorem countEv_mem : (countEv s i n).mem = s.mem := rfl
@[simp] theorem countEv_poison : (countEv s i n).poison = s.poison := rfl
@[simp] theorem countEv_rings : (countEv s i n).rings = s.rings := rfl
@[simp] theorem countEv_ctxs : (countEv s i n).ctxs = s.ctxs := rfl
@[simp] theorem countEv_engines : (countEv s i n).engines = s.engines := rfl
@[simp] theorem countEv_banks : (countEv s i n).banks = s.banks := rfl
@[simp] theorem countEv_disp : (countEv s i n).disp = s.disp := rfl
@[simp] theorem countEv_talus : (countEv s i n).talus = s.talus := rfl
@[simp] theorem countEv_dmcs : (countEv s i n).dmcs = s.dmcs := rfl
@[simp] theorem countEv_chans : (countEv s i n).chans = s.chans := rfl
@[simp] theorem countEv_srcs : (countEv s i n).srcs = s.srcs := rfl
@[simp] theorem countEv_tgts : (countEv s i n).tgts = s.tgts := rfl
@[simp] theorem countEv_holdoff : (countEv s i n).holdoff = s.holdoff := rfl
@[simp] theorem countEv_funcs : (countEv s i n).funcs = s.funcs := rfl
@[simp] theorem countEv_doms : (countEv s i n).doms = s.doms := rfl
@[simp] theorem countEv_chip : (countEv s i n).chip = s.chip := rfl
@[simp] theorem countEv_flows : (countEv s i n).flows = s.flows := rfl
@[simp] theorem countEv_svcs : (countEv s i n).svcs = s.svcs := rfl
@[simp] theorem countEv_ptp : (countEv s i n).ptp = s.ptp := rfl
@[simp] theorem countEv_queues : (countEv s i n).queues = s.queues := rfl
@[simp] theorem countEv_snodes : (countEv s i n).snodes = s.snodes := rfl
@[simp] theorem countEv_pnodes : (countEv s i n).pnodes = s.pnodes := rfl
@[simp] theorem countEv_store : (countEv s i n).store = s.store := rfl
@[simp] theorem countEv_dgCount : (countEv s i n).dgCount = s.dgCount := rfl
@[simp] theorem countEv_bdrk : (countEv s i n).bdrk = s.bdrk := rfl
@[simp] theorem countEv_pins : (countEv s i n).pins = s.pins := rfl
@[simp] theorem countEv_out : (countEv s i n).out = s.out := rfl
end

/-! ### The unit tables read back -/

@[simp] theorem getRing_modRing (s : State) (k : Nat) (f : Ring → Ring) : getRing (modRing s k f) k = f (getRing s k) :=
  tget_tput_self _ _ _ _

theorem getRing_modRing_ne (s : State) (k j : Nat) (f : Ring → Ring) (h : j ≠ k) : getRing (modRing s k f) j = getRing s j :=
  tget_tput_ne _ _ _ _ _ _ h

theorem getRing_congr {s t : State} (h : t.rings = s.rings) (k : Nat) : getRing t k = getRing s k := by simp only [getRing, h]

@[simp] theorem getCtx_modCtx (s : State) (k : Nat) (f : Ctx → Ctx) : getCtx (modCtx s k f) k = f (getCtx s k) :=
  tget_tput_self _ _ _ _

theorem getCtx_modCtx_ne (s : State) (k j : Nat) (f : Ctx → Ctx) (h : j ≠ k) : getCtx (modCtx s k f) j = getCtx s j :=
  tget_tput_ne _ _ _ _ _ _ h

theorem getCtx_congr {s t : State} (h : t.ctxs = s.ctxs) (k : Nat) : getCtx t k = getCtx s k := by simp only [getCtx, h]

@[simp] theorem getEng_modEng (s : State) (k : Nat) (f : Engine → Engine) : getEng (modEng s k f) k = f (getEng s k) :=
  tget_tput_self _ _ _ _

theorem getEng_modEng_ne (s : State) (k j : Nat) (f : Engine → Engine) (h : j ≠ k) : getEng (modEng s k f) j = getEng s j :=
  tget_tput_ne _ _ _ _ _ _ h

theorem getEng_congr {s t : State} (h : t.engines = s.engines) (k : Nat) : getEng t k = getEng s k := by simp only [getEng, h]

@[simp] theorem getBank_modBank (s : State) (k : Nat) (f : Bank → Bank) : getBank (modBank s k f) k = f (getBank s k) :=
  tget_tput_self _ _ _ _

theorem getBank_modBank_ne (s : State) (k j : Nat) (f : Bank → Bank) (h : j ≠ k) : getBank (modBank s k f) j = getBank s j :=
  tget_tput_ne _ _ _ _ _ _ h

theorem getBank_congr {s t : State} (h : t.banks = s.banks) (k : Nat) : getBank t k = getBank s k := by simp only [getBank, h]

@[simp] theorem getDmc_modDmc (s : State) (k : Nat) (f : Dmc → Dmc) : getDmc (modDmc s k f) k = f (getDmc s k) :=
  tget_tput_self _ _ _ _

theorem getDmc_modDmc_ne (s : State) (k j : Nat) (f : Dmc → Dmc) (h : j ≠ k) : getDmc (modDmc s k f) j = getDmc s j :=
  tget_tput_ne _ _ _ _ _ _ h

theorem getDmc_congr {s t : State} (h : t.dmcs = s.dmcs) (k : Nat) : getDmc t k = getDmc s k := by simp only [getDmc, h]

@[simp] theorem getChan_modChan (s : State) (k : Nat) (f : Chan → Chan) : getChan (modChan s k f) k = f (getChan s k) :=
  tget_tput_self _ _ _ _

theorem getChan_modChan_ne (s : State) (k j : Nat) (f : Chan → Chan) (h : j ≠ k) : getChan (modChan s k f) j = getChan s j :=
  tget_tput_ne _ _ _ _ _ _ h

theorem getChan_congr {s t : State} (h : t.chans = s.chans) (k : Nat) : getChan t k = getChan s k := by simp only [getChan, h]

@[simp] theorem getSrc_modSrc (s : State) (k : Nat) (f : Src → Src) : getSrc (modSrc s k f) k = f (getSrc s k) :=
  tget_tput_self _ _ _ _

theorem getSrc_modSrc_ne (s : State) (k j : Nat) (f : Src → Src) (h : j ≠ k) : getSrc (modSrc s k f) j = getSrc s j :=
  tget_tput_ne _ _ _ _ _ _ h

theorem getSrc_congr {s t : State} (h : t.srcs = s.srcs) (k : Nat) : getSrc t k = getSrc s k := by simp only [getSrc, h]

@[simp] theorem getTgt_modTgt (s : State) (k : Nat) (f : Tgt → Tgt) : getTgt (modTgt s k f) k = f (getTgt s k) :=
  tget_tput_self _ _ _ _

theorem getTgt_modTgt_ne (s : State) (k j : Nat) (f : Tgt → Tgt) (h : j ≠ k) : getTgt (modTgt s k f) j = getTgt s j :=
  tget_tput_ne _ _ _ _ _ _ h

theorem getTgt_congr {s t : State} (h : t.tgts = s.tgts) (k : Nat) : getTgt t k = getTgt s k := by simp only [getTgt, h]

@[simp] theorem getFunc_modFunc (s : State) (k : Nat) (f : Func → Func) : getFunc (modFunc s k f) k = f (getFunc s k) :=
  tget_tput_self _ _ _ _

theorem getFunc_modFunc_ne (s : State) (k j : Nat) (f : Func → Func) (h : j ≠ k) : getFunc (modFunc s k f) j = getFunc s j :=
  tget_tput_ne _ _ _ _ _ _ h

theorem getFunc_congr {s t : State} (h : t.funcs = s.funcs) (k : Nat) : getFunc t k = getFunc s k := by simp only [getFunc, h]

@[simp] theorem getDom_modDom (s : State) (k : Nat) (f : Dom → Dom) : getDom (modDom s k f) k = f (getDom s k) :=
  tget_tput_self _ _ _ _

theorem getDom_modDom_ne (s : State) (k j : Nat) (f : Dom → Dom) (h : j ≠ k) : getDom (modDom s k f) j = getDom s j :=
  tget_tput_ne _ _ _ _ _ _ h

theorem getDom_congr {s t : State} (h : t.doms = s.doms) (k : Nat) : getDom t k = getDom s k := by simp only [getDom, h]

@[simp] theorem getFlow_modFlow (s : State) (k : Nat) (f : Flow → Flow) : getFlow (modFlow s k f) k = f (getFlow s k) :=
  tget_tput_self _ _ _ _

theorem getFlow_modFlow_ne (s : State) (k j : Nat) (f : Flow → Flow) (h : j ≠ k) : getFlow (modFlow s k f) j = getFlow s j :=
  tget_tput_ne _ _ _ _ _ _ h

theorem getFlow_congr {s t : State} (h : t.flows = s.flows) (k : Nat) : getFlow t k = getFlow s k := by simp only [getFlow, h]

@[simp] theorem getSvc_modSvc (s : State) (k : Nat) (f : Svc → Svc) : getSvc (modSvc s k f) k = f (getSvc s k) :=
  tget_tput_self _ _ _ _

theorem getSvc_modSvc_ne (s : State) (k j : Nat) (f : Svc → Svc) (h : j ≠ k) : getSvc (modSvc s k f) j = getSvc s j :=
  tget_tput_ne _ _ _ _ _ _ h

theorem getSvc_congr {s t : State} (h : t.svcs = s.svcs) (k : Nat) : getSvc t k = getSvc s k := by simp only [getSvc, h]

@[simp] theorem getQueue_modQueue (s : State) (k : Nat) (f : Queue → Queue) : getQueue (modQueue s k f) k = f (getQueue s k) :=
  tget_tput_self _ _ _ _

theorem getQueue_modQueue_ne (s : State) (k j : Nat) (f : Queue → Queue) (h : j ≠ k) : getQueue (modQueue s k f) j = getQueue s j :=
  tget_tput_ne _ _ _ _ _ _ h

theorem getQueue_congr {s t : State} (h : t.queues = s.queues) (k : Nat) : getQueue t k = getQueue s k := by simp only [getQueue, h]

@[simp] theorem getSnode_modSnode (s : State) (k : Nat) (f : SvcNode → SvcNode) : getSnode (modSnode s k f) k = f (getSnode s k) :=
  tget_tput_self _ _ _ _

theorem getSnode_modSnode_ne (s : State) (k j : Nat) (f : SvcNode → SvcNode) (h : j ≠ k) : getSnode (modSnode s k f) j = getSnode s j :=
  tget_tput_ne _ _ _ _ _ _ h

theorem getSnode_congr {s t : State} (h : t.snodes = s.snodes) (k : Nat) : getSnode t k = getSnode s k := by simp only [getSnode, h]

@[simp] theorem getPnode_modPnode (s : State) (k : Nat) (f : PortNode → PortNode) : getPnode (modPnode s k f) k = f (getPnode s k) :=
  tget_tput_self _ _ _ _

theorem getPnode_modPnode_ne (s : State) (k j : Nat) (f : PortNode → PortNode) (h : j ≠ k) : getPnode (modPnode s k f) j = getPnode s j :=
  tget_tput_ne _ _ _ _ _ _ h

theorem getPnode_congr {s t : State} (h : t.pnodes = s.pnodes) (k : Nat) : getPnode t k = getPnode s k := by simp only [getPnode, h]

/-! ### Reads that depend on one field -/

theorem rget_congr {s t : State} (h : t.regs = s.regs) (p o : Nat) : rget t p o = rget s p o := by simp only [rget, h]

theorem fget_congr {s t : State} (h : t.regs = s.regs) (p : Nat) (r : Row) (i : Nat) : fget t p r i = fget s p r i := by
  simp only [fget, rget_congr h]

theorem fbit_congr {s t : State} (h : t.regs = s.regs) (p : Nat) (r : Row) (i : Nat) : fbit t p r i = fbit s p r i := by
  simp only [fbit, fget_congr h]

theorem memRead_congr {s t : State} (h : t.mem = s.mem) (a : Nat) : memRead t a = memRead s a := by
  simp only [memRead, h]

end Sys2Proof.Machine
end

