-- ==== Sys2Proof/Laws/Fields.lean ====
section
/-! SUPPORT. The laws of register fields: a field reads back what was set, and other fields and registers are left
alone; and what raising a cause of a page's IRQ_STATUS can change. -/

namespace Sys2Proof.Machine

/-! ### Bits of a word -/

theorem testBit_splice (w lo n v b : Nat) :
    (splice w lo n v).testBit b = if lo ≤ b ∧ b < lo + n then v.testBit (b - lo) else w.testBit b := by
  have e : splice w lo n v = 2 ^ lo * (2 ^ n * (w / 2 ^ (lo + n)) + v % 2 ^ n) + w % 2 ^ lo := by
    unfold splice; rw [Nat.mul_add, ← Nat.mul_assoc, ← Nat.pow_add]; omega
  rw [e, Nat.testBit_two_pow_mul_add _ (Nat.mod_lt _ (Nat.two_pow_pos _)),
    Nat.testBit_two_pow_mul_add _ (Nat.mod_lt _ (Nat.two_pow_pos _)), Nat.testBit_mod_two_pow,
    Nat.testBit_mod_two_pow, Nat.testBit_div_two_pow]
  by_cases h : b < lo
  · simp [h]
  · by_cases k : b - lo < n
    · have : lo ≤ b ∧ b < lo + n := by omega
      simp [h, k, this]
    · have h2 : ¬(lo ≤ b ∧ b < lo + n) := by omega
      have h3 : b - lo - n + (lo + n) = b := by omega
      simp [h, k, h2, h3]

theorem testBit_bitsOf (v lo n b : Nat) : (bitsOf v lo n).testBit b = (decide (b < n) && v.testBit (b + lo)) := by
  rw [bitsOf, Nat.testBit_mod_two_pow, Nat.testBit_div_two_pow]

theorem bitsOf_lt (v lo n : Nat) : bitsOf v lo n < 2 ^ n := Nat.mod_lt _ (Nat.two_pow_pos _)

theorem splice_lt (w lo n v : Nat) (hw : w < 2 ^ 32) (h : lo + n ≤ 32) : splice w lo n v < 2 ^ 32 := by
  refine Nat.lt_pow_two_of_testBit _ fun i hi => ?_
  rw [testBit_splice, if_neg (by omega)]
  exact Nat.testBit_lt_two_pow (Nat.lt_of_lt_of_le hw (Nat.pow_le_pow_right (by omega) hi))

@[simp] theorem bitsOf_splice_self (w lo n v : Nat) : bitsOf (splice w lo n v) lo n = v % 2 ^ n := by
  refine Nat.eq_of_testBit_eq fun b => ?_
  rw [testBit_bitsOf, testBit_splice, Nat.testBit_mod_two_pow]
  by_cases h : b < n
  · simp [h, show lo ≤ b + lo ∧ b + lo < lo + n by omega]
  · simp [h]

theorem bitsOf_splice_disjoint (w lo n v lo' n' : Nat) (h : lo' + n' ≤ lo ∨ lo + n ≤ lo') :
    bitsOf (splice w lo n v) lo' n' = bitsOf w lo' n' := by
  refine Nat.eq_of_testBit_eq fun b => ?_
  rw [testBit_bitsOf, testBit_bitsOf, testBit_splice]
  by_cases k : b < n'
  · rw [if_neg (by omega)]
  · simp [k]

/-! ### Fields of registers -/

theorem rget_fset_self (s : State) (p : Nat) (r : Row) (v i : Nat) (h : r.lo + r.width ≤ 32) :
    rget (fset s p r v i) p (r.at i) = splice (rget s p (r.at i)) r.lo r.width v := by
  rw [fset, rget_rset_self, Nat.mod_eq_of_lt (splice_lt _ _ _ _ (rget_lt _ _ _) h)]

theorem rget_fset_ne (s : State) (p : Nat) (r : Row) (v i p' o : Nat) (h : regKey p' o ≠ regKey p (r.at i)) :
    rget (fset s p r v i) p' o = rget s p' o := rget_rset_ne _ _ _ _ _ _ h

/-- A field reads back what was set, in its width. -/
theorem fget_fset_self (s : State) (p : Nat) (r : Row) (v i : Nat) (h : r.lo + r.width ≤ 32) :
    fget (fset s p r v i) p r i = v % 2 ^ r.width := by
  rw [fget, rget_fset_self _ _ _ _ _ h, bitsOf_splice_self]

/-- A field of another register is left alone. -/
theorem fget_fset_ne (s : State) (p : Nat) (r : Row) (v i p' : Nat) (r' : Row) (i' : Nat)
    (h : regKey p' (r'.at i') ≠ regKey p (r.at i)) : fget (fset s p r v i) p' r' i' = fget s p' r' i' := by
  rw [fget, rget_fset_ne _ _ _ _ _ _ _ h, fget]

/-- Another field of the same register is left alone. -/
theorem fget_fset_disjoint (s : State) (p : Nat) (r : Row) (v i : Nat) (r' : Row) (i' : Nat) (ho : r'.at i' = r.at i)
    (h : r.lo + r.width ≤ 32) (hd : r'.lo + r'.width ≤ r.lo ∨ r.lo + r.width ≤ r'.lo) :
    fget (fset s p r v i) p r' i' = fget s p r' i' := by
  rw [fget, ho, rget_fset_self _ _ _ _ _ h, bitsOf_splice_disjoint _ _ _ _ _ _ hd, fget, ho]

/-! ### Raising a cause -/

/-- The table of sources replaced, nothing else. -/
def withSrcs (s : State) (x : Tbl Src) : State := { s with srcs := x }

/-- A source that follows its request changes the table of sources alone. -/
theorem syncSrc_eq (s : State) (n : Nat) : ∃ x, syncSrc s n = withSrcs s x := by
  unfold syncSrc
  dsimp only
  split
  · exact ⟨s.srcs, rfl⟩
  · split
    · exact ⟨_, rfl⟩
    · exact ⟨_, rfl⟩

theorem foldl_syncSrc_eq (l : List Nat) (s : State) : ∃ x, l.foldl syncSrc s = withSrcs s x := by
  induction l generalizing s with
  | nil => exact ⟨s.srcs, rfl⟩
  | cons n l ih =>
    obtain ⟨x, hx⟩ := syncSrc_eq s n
    obtain ⟨y, hy⟩ := ih (syncSrc s n)
    exact ⟨y, by rw [List.foldl_cons, hy, hx]; rfl⟩

theorem syncPage_eq (s : State) (p : Nat) : ∃ x, syncPage s p = withSrcs s x := foldl_syncSrc_eq _ _

/-- All that raising causes can do: IRQ_STATUS of the page takes them, and sources follow. -/
theorem setIrq_eq (s : State) (p m : Nat) (h : hasHeader p = true) : ∃ x, setIrq s p m =
    withSrcs (fset s p F.HDR_IRQ_STATUS_CAUSE (fget s p F.HDR_IRQ_STATUS_CAUSE ||| m)) x := by
  rw [setIrq, if_pos h]
  exact syncPage_eq _ _

theorem setIrq_regs (s : State) (p m : Nat) (h : hasHeader p = true) : (setIrq s p m).regs =
    (fset s p F.HDR_IRQ_STATUS_CAUSE (fget s p F.HDR_IRQ_STATUS_CAUSE ||| m)).regs := by
  obtain ⟨x, hx⟩ := setIrq_eq s p m h
  rw [hx]; rfl

/-- A cause that was raised is set. -/
theorem setIrq_status (s : State) (p m b : Nat) (h : hasHeader p = true) (hm : m.testBit b = true) (hb : b < 32) :
    (fget (setIrq s p m) p F.HDR_IRQ_STATUS_CAUSE).testBit b = true := by
  rw [fget_congr (setIrq_regs s p m h), fget_fset_self _ _ _ _ _ (by decide), Nat.testBit_mod_two_pow]
  simp [Nat.testBit_or, hm, show b < F.HDR_IRQ_STATUS_CAUSE.width from hb]

theorem rget_setIrq_ne (s : State) (p m q o : Nat) (h : regKey q o ≠ regKey p 0x2C) :
    rget (setIrq s p m) q o = rget s q o := by
  by_cases hp : hasHeader p = true
  · rw [rget_congr (setIrq_regs s p m hp)]
    exact rget_fset_ne _ _ _ _ _ _ _ h
  · rw [setIrq, if_neg hp]

/-- What raising a cause leaves alone beside registers and sources. -/
theorem setIrq_same (s : State) (p m : Nat) : ∃ r x, setIrq s p m = withSrcs { s with regs := r } x := by
  by_cases hp : hasHeader p = true
  · obtain ⟨x, hx⟩ := setIrq_eq s p m hp
    exact ⟨_, x, hx⟩
  · exact ⟨s.regs, s.srcs, by rw [setIrq, if_neg hp]; rfl⟩

@[simp] theorem setIrq_pending (s : State) (p m : Nat) : (setIrq s p m).pending = s.pending := by
  obtain ⟨r, x, h⟩ := setIrq_same s p m; rw [h]; rfl
@[simp] theorem setIrq_free (s : State) (p m : Nat) : (setIrq s p m).free = s.free := by
  obtain ⟨r, x, h⟩ := setIrq_same s p m; rw [h]; rfl
@[simp] theorem setIrq_devtime (s : State) (p m : Nat) : (setIrq s p m).devtime = s.devtime := by
  obtain ⟨r, x, h⟩ := setIrq_same s p m; rw [h]; rfl
@[simp] theorem setIrq_staged (s : State) (p m : Nat) : (setIrq s p m).staged = s.staged := by
  obtain ⟨r, x, h⟩ := setIrq_same s p m; rw [h]; rfl
@[simp] theorem setIrq_latched (s : State) (p m : Nat) : (setIrq s p m).latched = s.latched := by
  obtain ⟨r, x, h⟩ := setIrq_same s p m; rw [h]; rfl
@[simp] theorem setIrq_mem (s : State) (p m : Nat) : (setIrq s p m).mem = s.mem := by
  obtain ⟨r, x, h⟩ := setIrq_same s p m; rw [h]; rfl
@[simp] theorem setIrq_poison (s : State) (p m : Nat) : (setIrq s p m).poison = s.poison := by
  obtain ⟨r, x, h⟩ := setIrq_same s p m; rw [h]; rfl
@[simp] theorem setIrq_rings (s : State) (p m : Nat) : (setIrq s p m).rings = s.rings := by
  obtain ⟨r, x, h⟩ := setIrq_same s p m; rw [h]; rfl
@[simp] theorem setIrq_ctxs (s : State) (p m : Nat) : (setIrq s p m).ctxs = s.ctxs := by
  obtain ⟨r, x, h⟩ := setIrq_same s p m; rw [h]; rfl
@[simp] theorem setIrq_engines (s : State) (p m : Nat) : (setIrq s p m).engines = s.engines := by
  obtain ⟨r, x, h⟩ := setIrq_same s p m; rw [h]; rfl
@[simp] theorem setIrq_banks (s : State) (p m : Nat) : (setIrq s p m).banks = s.banks := by
  obtain ⟨r, x, h⟩ := setIrq_same s p m; rw [h]; rfl
@[simp] theorem setIrq_disp (s : State) (p m : Nat) : (setIrq s p m).disp = s.disp := by
  obtain ⟨r, x, h⟩ := setIrq_same s p m; rw [h]; rfl
@[simp] theorem setIrq_talus (s : State) (p m : Nat) : (setIrq s p m).talus = s.talus := by
  obtain ⟨r, x, h⟩ := setIrq_same s p m; rw [h]; rfl
@[simp] theorem setIrq_dmcs (s : State) (p m : Nat) : (setIrq s p m).dmcs = s.dmcs := by
  obtain ⟨r, x, h⟩ := setIrq_same s p m; rw [h]; rfl
@[simp] theorem setIrq_chans (s : State) (p m : Nat) : (setIrq s p m).chans = s.chans := by
  obtain ⟨r, x, h⟩ := setIrq_same s p m; rw [h]; rfl
@[simp] theorem setIrq_tgts (s : State) (p m : Nat) : (setIrq s p m).tgts = s.tgts := by
  obtain ⟨r, x, h⟩ := setIrq_same s p m; rw [h]; rfl
@[simp] theorem setIrq_holdoff (s : State) (p m : Nat) : (setIrq s p m).holdoff = s.holdoff := by
  obtain ⟨r, x, h⟩ := setIrq_same s p m; rw [h]; rfl
@[simp] theorem setIrq_funcs (s : State) (p m : Nat) : (setIrq s p m).funcs = s.funcs := by
  obtain ⟨r, x, h⟩ := setIrq_same s p m; rw [h]; rfl
@[simp] theorem setIrq_doms (s : State) (p m : Nat) : (setIrq s p m).doms = s.doms := by
  obtain ⟨r, x, h⟩ := setIrq_same s p m; rw [h]; rfl
@[simp] theorem setIrq_chip (s : State) (p m : Nat) : (setIrq s p m).chip = s.chip := by
  obtain ⟨r, x, h⟩ := setIrq_same s p m; rw [h]; rfl
@[simp] theorem setIrq_flows (s : State) (p m : Nat) : (setIrq s p m).flows = s.flows := by
  obtain ⟨r, x, h⟩ := setIrq_same s p m; rw [h]; rfl
@[simp] theorem setIrq_svcs (s : State) (p m : Nat) : (setIrq s p m).svcs = s.svcs := by
  obtain ⟨r, x, h⟩ := setIrq_same s p m; rw [h]; rfl
@[simp] theorem setIrq_ptp (s : State) (p m : Nat) : (setIrq s p m).ptp = s.ptp := by
  obtain ⟨r, x, h⟩ := setIrq_same s p m; rw [h]; rfl
@[simp] theorem setIrq_queues (s : State) (p m : Nat) : (setIrq s p m).queues = s.queues := by
  obtain ⟨r, x, h⟩ := setIrq_same s p m; rw [h]; rfl
@[simp] theorem setIrq_snodes (s : State) (p m : Nat) : (setIrq s p m).snodes = s.snodes := by
  obtain ⟨r, x, h⟩ := setIrq_same s p m; rw [h]; rfl
@[simp] theorem setIrq_pnodes (s : State) (p m : Nat) : (setIrq s p m).pnodes = s.pnodes := by
  obtain ⟨r, x, h⟩ := setIrq_same s p m; rw [h]; rfl
@[simp] theorem setIrq_store (s : State) (p m : Nat) : (setIrq s p m).store = s.store := by
  obtain ⟨r, x, h⟩ := setIrq_same s p m; rw [h]; rfl
@[simp] theorem setIrq_dgCount (s : State) (p m : Nat) : (setIrq s p m).dgCount = s.dgCount := by
  obtain ⟨r, x, h⟩ := setIrq_same s p m; rw [h]; rfl
@[simp] theorem setIrq_bdrk (s : State) (p m : Nat) : (setIrq s p m).bdrk = s.bdrk := by
  obtain ⟨r, x, h⟩ := setIrq_same s p m; rw [h]; rfl
@[simp] theorem setIrq_perf (s : State) (p m : Nat) : (setIrq s p m).perf = s.perf := by
  obtain ⟨r, x, h⟩ := setIrq_same s p m; rw [h]; rfl
@[simp] theorem setIrq_pins (s : State) (p m : Nat) : (setIrq s p m).pins = s.pins := by
  obtain ⟨r, x, h⟩ := setIrq_same s p m; rw [h]; rfl
@[simp] theorem setIrq_out (s : State) (p m : Nat) : (setIrq s p m).out = s.out := by
  obtain ⟨r, x, h⟩ := setIrq_same s p m; rw [h]; rfl

end Sys2Proof.Machine
end

