-- ==== Sys2Proof/Laws/Keeps.lean ====
section
/-! SUPPORT. `Keeps` composes: reflexive, transitive, over folds and record updates, and of the operations that touch the
register file and device memory themselves. -/

namespace Sys2Proof.Machine

/-- Every field of `a` is in `b`. -/
def within (a b : List StateField) : Bool := a.all b.contains

theorem within_mem {a b : List StateField} (h : within a b = true) {x : StateField} (hx : x ∈ a) : x ∈ b := by
  simpa using List.all_eq_true.1 h x hx

theorem within_trans {a b c : List StateField} (h : within a b = true) (k : within b c = true) : within a c = true :=
  List.all_eq_true.2 fun _ hx => by simpa using within_mem k (within_mem h hx)

theorem within_refl (a : List StateField) : within a a = true := List.all_eq_true.2 fun _ hx => by simpa using hx

theorem Keeps.refl (w : List StateField) (s : State) : Keeps w s s := by constructor <;> intros <;> first | rfl | assumption

theorem Keeps.trans {w : List StateField} {s t u : State} (h : Keeps w s t) (k : Keeps w t u) : Keeps w s u where
  pending := k.pending.trans h.pending
  free e := (k.free e).trans (h.free e)
  devtime e := (k.devtime e).trans (h.devtime e)
  regs e := (k.regs e).trans (h.regs e)
  staged e := (k.staged e).trans (h.staged e)
  latched e := (k.latched e).trans (h.latched e)
  mem e := (k.mem e).trans (h.mem e)
  poison e := (k.poison e).trans (h.poison e)
  rings e := (k.rings e).trans (h.rings e)
  ctxs e := (k.ctxs e).trans (h.ctxs e)
  engines e := (k.engines e).trans (h.engines e)
  banks e := (k.banks e).trans (h.banks e)
  disp e := (k.disp e).trans (h.disp e)
  talus e := (k.talus e).trans (h.talus e)
  dmcs e := (k.dmcs e).trans (h.dmcs e)
  chans e := (k.chans e).trans (h.chans e)
  srcs e := (k.srcs e).trans (h.srcs e)
  tgts e := (k.tgts e).trans (h.tgts e)
  holdoff e := (k.holdoff e).trans (h.holdoff e)
  funcs e := (k.funcs e).trans (h.funcs e)
  doms e := (k.doms e).trans (h.doms e)
  chip e := (k.chip e).trans (h.chip e)
  flows e := (k.flows e).trans (h.flows e)
  svcs e := (k.svcs e).trans (h.svcs e)
  ptp e := (k.ptp e).trans (h.ptp e)
  queues e := (k.queues e).trans (h.queues e)
  snodes e := (k.snodes e).trans (h.snodes e)
  pnodes e := (k.pnodes e).trans (h.pnodes e)
  store e := (k.store e).trans (h.store e)
  dgCount e := (k.dgCount e).trans (h.dgCount e)
  bdrk e := (k.bdrk e).trans (h.bdrk e)
  perf e := (k.perf e).trans (h.perf e)
  pins e := (k.pins e).trans (h.pins e)
  out e := (k.out e).trans (h.out e)
  memWf e := k.memWf (h.memWf e)
  regsWf e := k.regsWf (h.regsWf e)

/-- A field that is not written, or keeps its value. -/
abbrev Fits (w : List StateField) (x : StateField) {α : Type} (a b : α) : Prop := a = b ∨ within [x] w = true

theorem Fits.eq {w : List StateField} {x : StateField} {α : Type} {a b : α} (h : Fits w x a b) (e : x ∉ w) : a = b :=
  h.resolve_right fun k => e (within_mem k (by simp))

/-- A record update of fields that may be written keeps the rest. -/
theorem keeps_mk {w : List StateField} {a s : State} {f_free} {f_devtime} {f_staged} {f_latched} {f_poison} {f_rings} {f_ctxs} {f_engines} {f_banks} {f_disp} {f_talus} {f_dmcs} {f_chans} {f_srcs} {f_tgts} {f_holdoff} {f_funcs} {f_doms} {f_chip} {f_flows} {f_svcs} {f_ptp} {f_queues} {f_snodes} {f_pnodes} {f_store} {f_dgCount} {f_bdrk} {f_perf} {f_pins} {f_out}
    (h : Keeps w a s)
    (h_free : Fits w .free f_free s.free)
    (h_devtime : Fits w .devtime f_devtime s.devtime)
    (h_staged : Fits w .staged f_staged s.staged)
    (h_latched : Fits w .latched f_latched s.latched)
    (h_poison : Fits w .poison f_poison s.poison)
    (h_rings : Fits w .rings f_rings s.rings)
    (h_ctxs : Fits w .ctxs f_ctxs s.ctxs)
    (h_engines : Fits w .engines f_engines s.engines)
    (h_banks : Fits w .banks f_banks s.banks)
    (h_disp : Fits w .disp f_disp s.disp)
    (h_talus : Fits w .talus f_talus s.talus)
    (h_dmcs : Fits w .dmcs f_dmcs s.dmcs)
    (h_chans : Fits w .chans f_chans s.chans)
    (h_srcs : Fits w .srcs f_srcs s.srcs)
    (h_tgts : Fits w .tgts f_tgts s.tgts)
    (h_holdoff : Fits w .holdoff f_holdoff s.holdoff)
    (h_funcs : Fits w .funcs f_funcs s.funcs)
    (h_doms : Fits w .doms f_doms s.doms)
    (h_chip : Fits w .chip f_chip s.chip)
    (h_flows : Fits w .flows f_flows s.flows)
    (h_svcs : Fits w .svcs f_svcs s.svcs)
    (h_ptp : Fits w .ptp f_ptp s.ptp)
    (h_queues : Fits w .queues f_queues s.queues)
    (h_snodes : Fits w .snodes f_snodes s.snodes)
    (h_pnodes : Fits w .pnodes f_pnodes s.pnodes)
    (h_store : Fits w .store f_store s.store)
    (h_dgCount : Fits w .dgCount f_dgCount s.dgCount)
    (h_bdrk : Fits w .bdrk f_bdrk s.bdrk)
    (h_perf : Fits w .perf f_perf s.perf)
    (h_pins : Fits w .pins f_pins s.pins)
    (h_out : Fits w .out f_out s.out) :
    Keeps w a (State.mk s.pending f_free f_devtime s.regs f_staged f_latched s.mem f_poison f_rings f_ctxs f_engines f_banks f_disp f_talus f_dmcs f_chans f_srcs f_tgts f_holdoff f_funcs f_doms f_chip f_flows f_svcs f_ptp f_queues f_snodes f_pnodes f_store f_dgCount f_bdrk f_perf f_pins f_out) :=
  h.trans {
    pending := rfl
    free := h_free.eq
    devtime := h_devtime.eq
    regs := fun _ => rfl
    staged := h_staged.eq
    latched := h_latched.eq
    mem := fun _ => rfl
    poison := h_poison.eq
    rings := h_rings.eq
    ctxs := h_ctxs.eq
    engines := h_engines.eq
    banks := h_banks.eq
    disp := h_disp.eq
    talus := h_talus.eq
    dmcs := h_dmcs.eq
    chans := h_chans.eq
    srcs := h_srcs.eq
    tgts := h_tgts.eq
    holdoff := h_holdoff.eq
    funcs := h_funcs.eq
    doms := h_doms.eq
    chip := h_chip.eq
    flows := h_flows.eq
    svcs := h_svcs.eq
    ptp := h_ptp.eq
    queues := h_queues.eq
    snodes := h_snodes.eq
    pnodes := h_pnodes.eq
    store := h_store.eq
    dgCount := h_dgCount.eq
    bdrk := h_bdrk.eq
    perf := h_perf.eq
    pins := h_pins.eq
    out := h_out.eq
    memWf := id
    regsWf := id }

/-- The same, where the register file changes and stays in canonical form. -/
theorem keeps_regs {w : List StateField} {a s : State} {r : Tbl Word} (h : Keeps w a s) (hw : within [.regs] w = true)
    (hr : Machine.regsWf s = true → Machine.regsWf { s with regs := r } = true) : Keeps w a { s with regs := r } :=
  h.trans {
    pending := rfl
    free := fun _ => rfl
    devtime := fun _ => rfl
    regs := fun e => absurd (within_mem hw (by simp)) e
    staged := fun _ => rfl
    latched := fun _ => rfl
    mem := fun _ => rfl
    poison := fun _ => rfl
    rings := fun _ => rfl
    ctxs := fun _ => rfl
    engines := fun _ => rfl
    banks := fun _ => rfl
    disp := fun _ => rfl
    talus := fun _ => rfl
    dmcs := fun _ => rfl
    chans := fun _ => rfl
    srcs := fun _ => rfl
    tgts := fun _ => rfl
    holdoff := fun _ => rfl
    funcs := fun _ => rfl
    doms := fun _ => rfl
    chip := fun _ => rfl
    flows := fun _ => rfl
    svcs := fun _ => rfl
    ptp := fun _ => rfl
    queues := fun _ => rfl
    snodes := fun _ => rfl
    pnodes := fun _ => rfl
    store := fun _ => rfl
    dgCount := fun _ => rfl
    bdrk := fun _ => rfl
    perf := fun _ => rfl
    pins := fun _ => rfl
    out := fun _ => rfl
    memWf := id
    regsWf := hr }

/-- The same, where device memory changes and stays in canonical form. -/
theorem keeps_mem {w : List StateField} {a s : State} {m : List Host.Cell} (h : Keeps w a s) (hw : within [.mem] w = true)
    (hm : Memory.wf s.mem = true → Memory.wf m = true) : Keeps w a { s with mem := m } :=
  h.trans {
    pending := rfl
    free := fun _ => rfl
    devtime := fun _ => rfl
    regs := fun _ => rfl
    staged := fun _ => rfl
    latched := fun _ => rfl
    mem := fun e => absurd (within_mem hw (by simp)) e
    poison := fun _ => rfl
    rings := fun _ => rfl
    ctxs := fun _ => rfl
    engines := fun _ => rfl
    banks := fun _ => rfl
    disp := fun _ => rfl
    talus := fun _ => rfl
    dmcs := fun _ => rfl
    chans := fun _ => rfl
    srcs := fun _ => rfl
    tgts := fun _ => rfl
    holdoff := fun _ => rfl
    funcs := fun _ => rfl
    doms := fun _ => rfl
    chip := fun _ => rfl
    flows := fun _ => rfl
    svcs := fun _ => rfl
    ptp := fun _ => rfl
    queues := fun _ => rfl
    snodes := fun _ => rfl
    pnodes := fun _ => rfl
    store := fun _ => rfl
    dgCount := fun _ => rfl
    bdrk := fun _ => rfl
    perf := fun _ => rfl
    pins := fun _ => rfl
    out := fun _ => rfl
    memWf := hm
    regsWf := id }

theorem Keeps.foldl {w : List StateField} {β : Type} {a s : State} {g : State → β → State} {l : List β} (h : Keeps w a s)
    (hg : ∀ t x, Keeps w a t → Keeps w a (g t x)) : Keeps w a (l.foldl g s) := by
  induction l generalizing s with
  | nil => exact h
  | cons x l ih => exact ih (hg s x h)

theorem Keeps.ite {w : List StateField} {a s t : State} {c : Prop} [Decidable c] (h : Keeps w a s) (k : Keeps w a t) :
    Keeps w a (if c then s else t) := by split <;> assumption

/-- What a command answers, where it answers a state, keeps. -/
def Answers (w : List StateField) (a : State) (o : Host.Outcome State Fault Refusal) : Prop := ∀ t, o = .next t → Keeps w a t

theorem Answers.next {w : List StateField} {a s : State} (h : Keeps w a s) : Answers w a (.next s) := by
  rintro t ⟨⟩; exact h

theorem Answers.fault {w : List StateField} {a : State} {f : Fault} : Answers w a (.fault f) := by
  rintro t ⟨⟩

theorem Answers.ite {w : List StateField} {a : State} {c : Prop} [Decidable c] {o p : Host.Outcome State Fault Refusal}
    (h : Answers w a o) (k : Answers w a p) : Answers w a (if c then o else p) := by split <;> assumption

/-- Registers that are left out of the file. -/
theorem keeps_dropRegs {w : List StateField} {a s : State} {f : Nat × Word → Bool} (h : Keeps w a s)
    (hw : within [.regs] w = true) : Keeps w a { s with regs := s.regs.filter f } :=
  keeps_regs h hw fun e => twf_filter regDefault s.regs f e

/-- Bytes that are left out of device memory. -/
theorem keeps_dropMem {w : List StateField} {a s : State} {f : Host.Cell → Bool} (h : Keeps w a s)
    (hw : within [.mem] w = true) : Keeps w a { s with mem := s.mem.filter f } :=
  keeps_mem h hw fun e => twf_filter (fun _ => (0 : Byte)) s.mem f e

theorem rset_keeps {w : List StateField} {a s : State} {page off v : Nat} (h : Keeps w a s) (hw : within [.regs] w = true) :
    Keeps w a (rset s page off v) := keeps_regs h hw (regsWf_rset s page off v)

theorem memWrite_keeps {w : List StateField} {a s : State} {i : Nat} {v : Byte} (h : Keeps w a s)
    (hw : within [.mem] w = true) : Keeps w a (memWrite s i v) := keeps_mem h hw (memWf_memWrite s i v)

theorem memWriteN_keeps {w : List StateField} {a s : State} {i : Nat} {l : List Byte} (h : Keeps w a s)
    (hw : within [.mem] w = true) : Keeps w a (memWriteN s i l) := keeps_mem h hw (memWf_memWriteN s i l)

theorem resetPage_keeps {w : List StateField} {a s : State} {page : Nat} (h : Keeps w a s) (hw : within [.regs] w = true) :
    Keeps w a (resetPage s page) := keeps_dropRegs h hw

theorem clearPage_keeps {w : List StateField} {a s : State} {page : Nat} {keep : Nat → Bool} (h : Keeps w a s)
    (hw : within [.regs] w = true) : Keeps w a (clearPage s page keep) := keeps_dropRegs h hw

end Sys2Proof.Machine
end

