-- ==== Sys2Proof/Laws/KeepsTable.lean ====
section
/-! SUPPORT. What each operation of Machine/Table.lean keeps. -/

set_option linter.all false

namespace Sys2Proof.Machine

theorem fset_keeps {w : List StateField} {a s : State} {page : Nat} {r : Row} {v i : Nat} (h : Keeps w a s)
    (hw : within [.regs] w = true) :
    Keeps w a (fset s page r v i) := by
  unfold fset
  repeat' first
    | with_reducible
        first
        | assumption | apply Answers.next | apply Answers.fault | apply Keeps.ite | apply Answers.ite
        | refine Keeps.foldl ?_ fun _ _ _ => ?_ | refine rset_keeps ?_ ?_
    | exact within_trans rfl hw
    | dsimp only
    | split
    | intro _

theorem fsetb_keeps {w : List StateField} {a s : State} {page : Nat} {r : Row} {b' : Bool} {i : Nat} (h : Keeps w a s)
    (hw : within [.regs] w = true) :
    Keeps w a (fsetb s page r b' i) := by
  unfold fsetb
  repeat' first
    | with_reducible
        first
        | assumption | apply Answers.next | apply Answers.fault | apply Keeps.ite | apply Answers.ite
        | refine Keeps.foldl ?_ fun _ _ _ => ?_ | refine fset_keeps ?_ ?_
    | exact within_trans rfl hw
    | dsimp only
    | split
    | intro _

theorem fadd_keeps {w : List StateField} {a s : State} {page : Nat} {r : Row} {n i : Nat} (h : Keeps w a s)
    (hw : within [.regs] w = true) :
    Keeps w a (fadd s page r n i) := by
  unfold fadd
  repeat' first
    | with_reducible
        first
        | assumption | apply Answers.next | apply Answers.fault | apply Keeps.ite | apply Answers.ite
        | refine Keeps.foldl ?_ fun _ _ _ => ?_ | refine fset_keeps ?_ ?_
    | exact within_trans rfl hw
    | dsimp only
    | split
    | intro _

theorem faddSat_keeps {w : List StateField} {a s : State} {page : Nat} {r : Row} {n i : Nat} (h : Keeps w a s)
    (hw : within [.regs] w = true) :
    Keeps w a (faddSat s page r n i) := by
  unfold faddSat
  repeat' first
    | with_reducible
        first
        | assumption | apply Answers.next | apply Answers.fault | apply Keeps.ite | apply Answers.ite
        | refine Keeps.foldl ?_ fun _ _ _ => ?_ | refine fset_keeps ?_ ?_
    | exact within_trans rfl hw
    | dsimp only
    | split
    | intro _

theorem qset_keeps {w : List StateField} {a s : State} {page : Nat} {r : Row} {v i : Nat} (h : Keeps w a s)
    (hw : within [.regs] w = true) :
    Keeps w a (qset s page r v i) := by
  unfold qset
  repeat' first
    | with_reducible
        first
        | assumption | apply Answers.next | apply Answers.fault | apply Keeps.ite | apply Answers.ite
        | refine Keeps.foldl ?_ fun _ _ _ => ?_ | refine rset_keeps ?_ ?_
    | exact within_trans rfl hw
    | dsimp only
    | split
    | intro _

theorem countEv_keeps {w : List StateField} {a s : State} {i n : Nat} (h : Keeps w a s)
    (hw : within [.perf] w = true) :
    Keeps w a (countEv s i n) := by
  unfold countEv
  repeat' first
    | with_reducible
        first
        | assumption | apply Answers.next | apply Answers.fault | apply Keeps.ite | apply Answers.ite
        | refine Keeps.foldl ?_ fun _ _ _ => ?_
    | exact within_trans rfl hw
    | with_reducible refine keeps_mk ?_ ?_ ?_ ?_ ?_ ?_ ?_ ?_ ?_ ?_ ?_ ?_ ?_ ?_ ?_ ?_ ?_ ?_ ?_ ?_ ?_ ?_ ?_ ?_ ?_ ?_ ?_ ?_ ?_ ?_ ?_ ?_
    | with_reducible exact Or.inl rfl
    | exact Or.inr (within_trans rfl hw)
    | dsimp only
    | split
    | intro _

theorem emit_keeps {w : List StateField} {a s : State} {e : Emit} (h : Keeps w a s)
    (hw : within [.out] w = true) :
    Keeps w a (emit s e) := by
  unfold emit
  repeat' first
    | with_reducible
        first
        | assumption | apply Answers.next | apply Answers.fault | apply Keeps.ite | apply Answers.ite
        | refine Keeps.foldl ?_ fun _ _ _ => ?_
    | exact within_trans rfl hw
    | with_reducible refine keeps_mk ?_ ?_ ?_ ?_ ?_ ?_ ?_ ?_ ?_ ?_ ?_ ?_ ?_ ?_ ?_ ?_ ?_ ?_ ?_ ?_ ?_ ?_ ?_ ?_ ?_ ?_ ?_ ?_ ?_ ?_ ?_ ?_
    | with_reducible exact Or.inl rfl
    | exact Or.inr (within_trans rfl hw)
    | dsimp only
    | split
    | intro _

end Sys2Proof.Machine
end

