-- ==== Sys2Proof/Laws/KeepsInit.lean ====
section
/-! SUPPORT. What each operation of Machine/Init.lean keeps. -/

set_option linter.all false

namespace Sys2Proof.Machine

theorem modRing_keeps {w : List StateField} {a s : State} {k : Nat} {f : Ring → Ring} (h : Keeps w a s)
    (hw : within [.rings] w = true) :
    Keeps w a (modRing s k f) := by
  unfold modRing
  repeat' first
    | with_reducible
        first
        | assumption | apply Answers.next | apply Answers.fault | apply Keeps.ite | apply Answers.ite
        | refine Keeps.foldl ?_ fun _ _ _ => ?_
    | exact within_trans rfl hw
    | with_reducible refine keeps_mk ?_ ?_ ?_ ?_ ?_ ?_ ?_ ?_ ?_ ?_ ?_ ?_ ?_ ?_ ?_ ?_ ?_ ?_ ?_ ?_ ?_ ?_ ?_ ?_ ?_ ?_ ?_ ?_ ?_ ?_ ?_ ?_
    | with_reducible exact Or.inl rfl
    | exact Or.inr (within_trans rfl hw)
    | dsimp only
    | split
    | intro _

theorem modCtx_keeps {w : List StateField} {a s : State} {k : Nat} {f : Ctx → Ctx} (h : Keeps w a s)
    (hw : within [.ctxs] w = true) :
    Keeps w a (modCtx s k f) := by
  unfold modCtx
  repeat' first
    | with_reducible
        first
        | assumption | apply Answers.next | apply Answers.fault | apply Keeps.ite | apply Answers.ite
        | refine Keeps.foldl ?_ fun _ _ _ => ?_
    | exact within_trans rfl hw
    | with_reducible refine keeps_mk ?_ ?_ ?_ ?_ ?_ ?_ ?_ ?_ ?_ ?_ ?_ ?_ ?_ ?_ ?_ ?_ ?_ ?_ ?_ ?_ ?_ ?_ ?_ ?_ ?_ ?_ ?_ ?_ ?_ ?_ ?_ ?_
    | with_reducible exact Or.inl rfl
    | exact Or.inr (within_trans rfl hw)
    | dsimp only
    | split
    | intro _

theorem modEng_keeps {w : List StateField} {a s : State} {k : Nat} {f : Engine → Engine} (h : Keeps w a s)
    (hw : within [.engines] w = true) :
    Keeps w a (modEng s k f) := by
  unfold modEng
  repeat' first
    | with_reducible
        first
        | assumption | apply Answers.next | apply Answers.fault | apply Keeps.ite | apply Answers.ite
        | refine Keeps.foldl ?_ fun _ _ _ => ?_
    | exact within_trans rfl hw
    | with_reducible refine keeps_mk ?_ ?_ ?_ ?_ ?_ ?_ ?_ ?_ ?_ ?_ ?_ ?_ ?_ ?_ ?_ ?_ ?_ ?_ ?_ ?_ ?_ ?_ ?_ ?_ ?_ ?_ ?_ ?_ ?_ ?_ ?_ ?_
    | with_reducible exact Or.inl rfl
    | exact Or.inr (within_trans rfl hw)
    | dsimp only
    | split
    | intro _

theorem modBank_keeps {w : List StateField} {a s : State} {k : Nat} {f : Bank → Bank} (h : Keeps w a s)
    (hw : within [.banks] w = true) :
    Keeps w a (modBank s k f) := by
  unfold modBank
  repeat' first
    | with_reducible
        first
        | assumption | apply Answers.next | apply Answers.fault | apply Keeps.ite | apply Answers.ite
        | refine Keeps.foldl ?_ fun _ _ _ => ?_
    | exact within_trans rfl hw
    | with_reducible refine keeps_mk ?_ ?_ ?_ ?_ ?_ ?_ ?_ ?_ ?_ ?_ ?_ ?_ ?_ ?_ ?_ ?_ ?_ ?_ ?_ ?_ ?_ ?_ ?_ ?_ ?_ ?_ ?_ ?_ ?_ ?_ ?_ ?_
    | with_reducible exact Or.inl rfl
    | exact Or.inr (within_trans rfl hw)
    | dsimp only
    | split
    | intro _

theorem modDmc_keeps {w : List StateField} {a s : State} {k : Nat} {f : Dmc → Dmc} (h : Keeps w a s)
    (hw : within [.dmcs] w = true) :
    Keeps w a (modDmc s k f) := by
  unfold modDmc
  repeat' first
    | with_reducible
        first
        | assumption | apply Answers.next | apply Answers.fault | apply Keeps.ite | apply Answers.ite
        | refine Keeps.foldl ?_ fun _ _ _ => ?_
    | exact within_trans rfl hw
    | with_reducible refine keeps_mk ?_ ?_ ?_ ?_ ?_ ?_ ?_ ?_ ?_ ?_ ?_ ?_ ?_ ?_ ?_ ?_ ?_ ?_ ?_ ?_ ?_ ?_ ?_ ?_ ?_ ?_ ?_ ?_ ?_ ?_ ?_ ?_
    | with_reducible exact Or.inl rfl
    | exact Or.inr (within_trans rfl hw)
    | dsimp only
    | split
    | intro _

theorem modChan_keeps {w : List StateField} {a s : State} {k : Nat} {f : Chan → Chan} (h : Keeps w a s)
    (hw : within [.chans] w = true) :
    Keeps w a (modChan s k f) := by
  unfold modChan
  repeat' first
    | with_reducible
        first
        | assumption | apply Answers.next | apply Answers.fault | apply Keeps.ite | apply Answers.ite
        | refine Keeps.foldl ?_ fun _ _ _ => ?_
    | exact within_trans rfl hw
    | with_reducible refine keeps_mk ?_ ?_ ?_ ?_ ?_ ?_ ?_ ?_ ?_ ?_ ?_ ?_ ?_ ?_ ?_ ?_ ?_ ?_ ?_ ?_ ?_ ?_ ?_ ?_ ?_ ?_ ?_ ?_ ?_ ?_ ?_ ?_
    | with_reducible exact Or.inl rfl
    | exact Or.inr (within_trans rfl hw)
    | dsimp only
    | split
    | intro _

theorem modSrc_keeps {w : List StateField} {a s : State} {k : Nat} {f : Src → Src} (h : Keeps w a s)
    (hw : within [.srcs] w = true) :
    Keeps w a (modSrc s k f) := by
  unfold modSrc
  repeat' first
    | with_reducible
        first
        | assumption | apply Answers.next | apply Answers.fault | apply Keeps.ite | apply Answers.ite
        | refine Keeps.foldl ?_ fun _ _ _ => ?_
    | exact within_trans rfl hw
    | with_reducible refine keeps_mk ?_ ?_ ?_ ?_ ?_ ?_ ?_ ?_ ?_ ?_ ?_ ?_ ?_ ?_ ?_ ?_ ?_ ?_ ?_ ?_ ?_ ?_ ?_ ?_ ?_ ?_ ?_ ?_ ?_ ?_ ?_ ?_
    | with_reducible exact Or.inl rfl
    | exact Or.inr (within_trans rfl hw)
    | dsimp only
    | split
    | intro _

theorem modTgt_keeps {w : List StateField} {a s : State} {k : Nat} {f : Tgt → Tgt} (h : Keeps w a s)
    (hw : within [.tgts] w = true) :
    Keeps w a (modTgt s k f) := by
  unfold modTgt
  repeat' first
    | with_reducible
        first
        | assumption | apply Answers.next | apply Answers.fault | apply Keeps.ite | apply Answers.ite
        | refine Keeps.foldl ?_ fun _ _ _ => ?_
    | exact within_trans rfl hw
    | with_reducible refine keeps_mk ?_ ?_ ?_ ?_ ?_ ?_ ?_ ?_ ?_ ?_ ?_ ?_ ?_ ?_ ?_ ?_ ?_ ?_ ?_ ?_ ?_ ?_ ?_ ?_ ?_ ?_ ?_ ?_ ?_ ?_ ?_ ?_
    | with_reducible exact Or.inl rfl
    | exact Or.inr (within_trans rfl hw)
    | dsimp only
    | split
    | intro _

theorem modFunc_keeps {w : List StateField} {a s : State} {k : Nat} {f : Func → Func} (h : Keeps w a s)
    (hw : within [.funcs] w = true) :
    Keeps w a (modFunc s k f) := by
  unfold modFunc
  repeat' first
    | with_reducible
        first
        | assumption | apply Answers.next | apply Answers.fault | apply Keeps.ite | apply Answers.ite
        | refine Keeps.foldl ?_ fun _ _ _ => ?_
    | exact within_trans rfl hw
    | with_reducible refine keeps_mk ?_ ?_ ?_ ?_ ?_ ?_ ?_ ?_ ?_ ?_ ?_ ?_ ?_ ?_ ?_ ?_ ?_ ?_ ?_ ?_ ?_ ?_ ?_ ?_ ?_ ?_ ?_ ?_ ?_ ?_ ?_ ?_
    | with_reducible exact Or.inl rfl
    | exact Or.inr (within_trans rfl hw)
    | dsimp only
    | split
    | intro _

theorem modDom_keeps {w : List StateField} {a s : State} {k : Nat} {f : Dom → Dom} (h : Keeps w a s)
    (hw : within [.doms] w = true) :
    Keeps w a (modDom s k f) := by
  unfold modDom
  repeat' first
    | with_reducible
        first
        | assumption | apply Answers.next | apply Answers.fault | apply Keeps.ite | apply Answers.ite
        | refine Keeps.foldl ?_ fun _ _ _ => ?_
    | exact within_trans rfl hw
    | with_reducible refine keeps_mk ?_ ?_ ?_ ?_ ?_ ?_ ?_ ?_ ?_ ?_ ?_ ?_ ?_ ?_ ?_ ?_ ?_ ?_ ?_ ?_ ?_ ?_ ?_ ?_ ?_ ?_ ?_ ?_ ?_ ?_ ?_ ?_
    | with_reducible exact Or.inl rfl
    | exact Or.inr (within_trans rfl hw)
    | dsimp only
    | split
    | intro _

theorem modFlow_keeps {w : List StateField} {a s : State} {k : Nat} {f : Flow → Flow} (h : Keeps w a s)
    (hw : within [.flows] w = true) :
    Keeps w a (modFlow s k f) := by
  unfold modFlow
  repeat' first
    | with_reducible
        first
        | assumption | apply Answers.next | apply Answers.fault | apply Keeps.ite | apply Answers.ite
        | refine Keeps.foldl ?_ fun _ _ _ => ?_
    | exact within_trans rfl hw
    | with_reducible refine keeps_mk ?_ ?_ ?_ ?_ ?_ ?_ ?_ ?_ ?_ ?_ ?_ ?_ ?_ ?_ ?_ ?_ ?_ ?_ ?_ ?_ ?_ ?_ ?_ ?_ ?_ ?_ ?_ ?_ ?_ ?_ ?_ ?_
    | with_reducible exact Or.inl rfl
    | exact Or.inr (within_trans rfl hw)
    | dsimp only
    | split
    | intro _

theorem modSvc_keeps {w : List StateField} {a s : State} {k : Nat} {f : Svc → Svc} (h : Keeps w a s)
    (hw : within [.svcs] w = true) :
    Keeps w a (modSvc s k f) := by
  unfold modSvc
  repeat' first
    | with_reducible
        first
        | assumption | apply Answers.next | apply Answers.fault | apply Keeps.ite | apply Answers.ite
        | refine Keeps.foldl ?_ fun _ _ _ => ?_
    | exact within_trans rfl hw
    | with_reducible refine keeps_mk ?_ ?_ ?_ ?_ ?_ ?_ ?_ ?_ ?_ ?_ ?_ ?_ ?_ ?_ ?_ ?_ ?_ ?_ ?_ ?_ ?_ ?_ ?_ ?_ ?_ ?_ ?_ ?_ ?_ ?_ ?_ ?_
    | with_reducible exact Or.inl rfl
    | exact Or.inr (within_trans rfl hw)
    | dsimp only
    | split
    | intro _

theorem modQueue_keeps {w : List StateField} {a s : State} {k : Nat} {f : Queue → Queue} (h : Keeps w a s)
    (hw : within [.queues] w = true) :
    Keeps w a (modQueue s k f) := by
  unfold modQueue
  repeat' first
    | with_reducible
        first
        | assumption | apply Answers.next | apply Answers.fault | apply Keeps.ite | apply Answers.ite
        | refine Keeps.foldl ?_ fun _ _ _ => ?_
    | exact within_trans rfl hw
    | with_reducible refine keeps_mk ?_ ?_ ?_ ?_ ?_ ?_ ?_ ?_ ?_ ?_ ?_ ?_ ?_ ?_ ?_ ?_ ?_ ?_ ?_ ?_ ?_ ?_ ?_ ?_ ?_ ?_ ?_ ?_ ?_ ?_ ?_ ?_
    | with_reducible exact Or.inl rfl
    | exact Or.inr (within_trans rfl hw)
    | dsimp only
    | split
    | intro _

theorem modSnode_keeps {w : List StateField} {a s : State} {k : Nat} {f : SvcNode → SvcNode} (h : Keeps w a s)
    (hw : within [.snodes] w = true) :
    Keeps w a (modSnode s k f) := by
  unfold modSnode
  repeat' first
    | with_reducible
        first
        | assumption | apply Answers.next | apply Answers.fault | apply Keeps.ite | apply Answers.ite
        | refine Keeps.foldl ?_ fun _ _ _ => ?_
    | exact within_trans rfl hw
    | with_reducible refine keeps_mk ?_ ?_ ?_ ?_ ?_ ?_ ?_ ?_ ?_ ?_ ?_ ?_ ?_ ?_ ?_ ?_ ?_ ?_ ?_ ?_ ?_ ?_ ?_ ?_ ?_ ?_ ?_ ?_ ?_ ?_ ?_ ?_
    | with_reducible exact Or.inl rfl
    | exact Or.inr (within_trans rfl hw)
    | dsimp only
    | split
    | intro _

theorem modPnode_keeps {w : List StateField} {a s : State} {k : Nat} {f : PortNode → PortNode} (h : Keeps w a s)
    (hw : within [.pnodes] w = true) :
    Keeps w a (modPnode s k f) := by
  unfold modPnode
  repeat' first
    | with_reducible
        first
        | assumption | apply Answers.next | apply Answers.fault | apply Keeps.ite | apply Answers.ite
        | refine Keeps.foldl ?_ fun _ _ _ => ?_
    | exact within_trans rfl hw
    | with_reducible refine keeps_mk ?_ ?_ ?_ ?_ ?_ ?_ ?_ ?_ ?_ ?_ ?_ ?_ ?_ ?_ ?_ ?_ ?_ ?_ ?_ ?_ ?_ ?_ ?_ ?_ ?_ ?_ ?_ ?_ ?_ ?_ ?_ ?_
    | with_reducible exact Or.inl rfl
    | exact Or.inr (within_trans rfl hw)
    | dsimp only
    | split
    | intro _

end Sys2Proof.Machine
end

