-- ==== Sys2Proof/Laws/KeepsIrq.lean ====
section
/-! SUPPORT. What each operation of Machine/Irq.lean keeps. -/

set_option linter.all false

namespace Sys2Proof.Machine

theorem syncSrc_keeps {w : List StateField} {a s : State} {n : Nat} (h : Keeps w a s)
    (hw : within [.srcs] w = true) :
    Keeps w a (syncSrc s n) := by
  unfold syncSrc
  repeat' first
    | with_reducible
        first
        | assumption | apply Answers.next | apply Answers.fault | apply Keeps.ite | apply Answers.ite
        | refine Keeps.foldl ?_ fun _ _ _ => ?_ | refine modSrc_keeps ?_ ?_
    | exact within_trans rfl hw
    | dsimp only
    | split
    | intro _

theorem syncPage_keeps {w : List StateField} {a s : State} {page : Nat} (h : Keeps w a s)
    (hw : within [.srcs] w = true) :
    Keeps w a (syncPage s page) := by
  unfold syncPage
  repeat' first
    | with_reducible
        first
        | assumption | apply Answers.next | apply Answers.fault | apply Keeps.ite | apply Answers.ite
        | refine Keeps.foldl ?_ fun _ _ _ => ?_ | refine syncSrc_keeps ?_ ?_
    | exact within_trans rfl hw
    | dsimp only
    | split
    | intro _

theorem setIrq_keeps {w : List StateField} {a s : State} {page mask : Nat} (h : Keeps w a s)
    (hw : within [.regs, .srcs] w = true) :
    Keeps w a (setIrq s page mask) := by
  unfold setIrq
  repeat' first
    | with_reducible
        first
        | assumption | apply Answers.next | apply Answers.fault | apply Keeps.ite | apply Answers.ite
        | refine Keeps.foldl ?_ fun _ _ _ => ?_ | refine fset_keeps ?_ ?_ | refine syncPage_keeps ?_ ?_
    | exact within_trans rfl hw
    | dsimp only
    | split
    | intro _

theorem syncDomain_keeps {w : List StateField} {a s : State} {d : Nat} (h : Keeps w a s)
    (hw : within [.srcs] w = true) :
    Keeps w a (syncDomain s d) := by
  unfold syncDomain
  repeat' first
    | with_reducible
        first
        | assumption | apply Answers.next | apply Answers.fault | apply Keeps.ite | apply Answers.ite
        | refine Keeps.foldl ?_ fun _ _ _ => ?_ | refine syncPage_keeps ?_ ?_
    | exact within_trans rfl hw
    | dsimp only
    | split
    | intro _

theorem setRingPend_keeps {w : List StateField} {a s : State} {fn n : Nat} (h : Keeps w a s)
    (hw : within [.regs, .srcs] w = true) :
    Keeps w a (setRingPend s fn n) := by
  unfold setRingPend
  repeat' first
    | with_reducible
        first
        | assumption | apply Answers.next | apply Answers.fault | apply Keeps.ite | apply Answers.ite
        | refine Keeps.foldl ?_ fun _ _ _ => ?_ | refine fset_keeps ?_ ?_ | refine syncSrc_keeps ?_ ?_
    | exact within_trans rfl hw
    | dsimp only
    | split
    | intro _

theorem wakeCheck_keeps {w : List StateField} {a s : State} {fn : Nat} (h : Keeps w a s)
    (hw : within [.pins] w = true) :
    Keeps w a (wakeCheck s fn) := by
  unfold wakeCheck
  repeat' first
    | with_reducible
        first
        | assumption | apply Answers.next | apply Answers.fault | apply Keeps.ite | apply Answers.ite
        | refine Keeps.foldl ?_ fun _ _ _ => ?_
    | exact within_trans rfl hw
    | with_reducible refine keeps_mk ?_ ?_ ?_ ?_ ?_ ?_ ?_ ?_ ?_ ?_ ?_ ?_ ?_ ?_ ?_ ?_ ?_ ?_ ?_ ?_ ?_ ?_ ?_ ?_ ?_ ?_ ?_ ?_ ?_ ?_ ?_ ?_
    | with_reducible exact Or.inl rfl
    | exact Or.inr (within_trans rfl hw)
    | dsimp only
    | split
    | intro _

theorem sendMsix_keeps {w : List StateField} {a s : State} {fn v : Nat} (h : Keeps w a s)
    (hw : within [.funcs, .pins, .out] w = true) :
    Keeps w a (sendMsix s fn v) := by
  unfold sendMsix
  repeat' first
    | with_reducible
        first
        | assumption | apply Answers.next | apply Answers.fault | apply Keeps.ite | apply Answers.ite
        | refine Keeps.foldl ?_ fun _ _ _ => ?_ | refine emit_keeps ?_ ?_ | refine modFunc_keeps ?_ ?_
        | refine wakeCheck_keeps ?_ ?_
    | exact within_trans rfl hw
    | dsimp only
    | split
    | intro _

theorem deliver_keeps {w : List StateField} {a s : State} {n t : Nat} (h : Keeps w a s)
    (hw : within [.regs, .srcs, .holdoff, .funcs, .pins, .out] w = true) :
    Keeps w a (deliver s n t) := by
  unfold deliver
  repeat' first
    | with_reducible
        first
        | assumption | apply Answers.next | apply Answers.fault | apply Keeps.ite | apply Answers.ite
        | refine Keeps.foldl ?_ fun _ _ _ => ?_ | refine fset_keeps ?_ ?_ | refine emit_keeps ?_ ?_
        | refine modSrc_keeps ?_ ?_ | refine sendMsix_keeps ?_ ?_
    | exact within_trans rfl hw
    | with_reducible refine keeps_mk ?_ ?_ ?_ ?_ ?_ ?_ ?_ ?_ ?_ ?_ ?_ ?_ ?_ ?_ ?_ ?_ ?_ ?_ ?_ ?_ ?_ ?_ ?_ ?_ ?_ ?_ ?_ ?_ ?_ ?_ ?_ ?_
    | with_reducible exact Or.inl rfl
    | exact Or.inr (within_trans rfl hw)
    | dsimp only
    | split
    | intro _

theorem claim_keeps {w : List StateField} {a s : State} {t : Nat} (h : Keeps w a s)
    (hw : within [.regs, .srcs, .tgts] w = true) :
    Keeps w a (claim s t).2 := by
  unfold claim
  repeat' first
    | with_reducible
        first
        | assumption | apply Answers.next | apply Answers.fault | apply Keeps.ite | apply Answers.ite
        | refine Keeps.foldl ?_ fun _ _ _ => ?_ | refine fadd_keeps ?_ ?_ | refine modSrc_keeps ?_ ?_
        | refine modTgt_keeps ?_ ?_ | refine setIrq_keeps ?_ ?_
    | exact within_trans rfl hw
    | dsimp only
    | split
    | intro _

theorem eoiMismatch_keeps {w : List StateField} {a s : State} {t : Nat} (h : Keeps w a s)
    (hw : within [.regs, .srcs, .tgts] w = true) :
    Keeps w a (eoiMismatch s t) := by
  unfold eoiMismatch
  repeat' first
    | with_reducible
        first
        | assumption | apply Answers.next | apply Answers.fault | apply Keeps.ite | apply Answers.ite
        | refine Keeps.foldl ?_ fun _ _ _ => ?_ | refine fadd_keeps ?_ ?_ | refine modTgt_keeps ?_ ?_
        | refine setIrq_keeps ?_ ?_
    | exact within_trans rfl hw
    | dsimp only
    | split
    | intro _

theorem leaveSvc_keeps {w : List StateField} {a s : State} {n : Nat} (h : Keeps w a s)
    (hw : within [.srcs] w = true) :
    Keeps w a (leaveSvc s n) := by
  unfold leaveSvc
  repeat' first
    | with_reducible
        first
        | assumption | apply Answers.next | apply Answers.fault | apply Keeps.ite | apply Answers.ite
        | refine Keeps.foldl ?_ fun _ _ _ => ?_ | refine modSrc_keeps ?_ ?_
    | exact within_trans rfl hw
    | dsimp only
    | split
    | intro _

theorem clearMarks_keeps {w : List StateField} {a s : State} {t : Nat} (h : Keeps w a s)
    (hw : within [.srcs] w = true) :
    Keeps w a (clearMarks s t) := by
  unfold clearMarks
  repeat' first
    | with_reducible
        first
        | assumption | apply Answers.next | apply Answers.fault | apply Keeps.ite | apply Answers.ite
        | refine Keeps.foldl ?_ fun _ _ _ => ?_ | refine modSrc_keeps ?_ ?_
    | exact within_trans rfl hw
    | dsimp only
    | split
    | intro _

theorem writeEoi_keeps {w : List StateField} {a s : State} {t id : Nat} (h : Keeps w a s)
    (hw : within [.regs, .srcs, .tgts] w = true) :
    Keeps w a (writeEoi s t id) := by
  unfold writeEoi
  repeat' first
    | with_reducible
        first
        | assumption | apply Answers.next | apply Answers.fault | apply Keeps.ite | apply Answers.ite
        | refine Keeps.foldl ?_ fun _ _ _ => ?_ | refine modTgt_keeps ?_ ?_ | refine eoiMismatch_keeps ?_ ?_
        | refine leaveSvc_keeps ?_ ?_ | refine clearMarks_keeps ?_ ?_
    | exact within_trans rfl hw
    | dsimp only
    | split
    | intro _

theorem emptyTarget_keeps {w : List StateField} {a s : State} {t : Nat} (h : Keeps w a s)
    (hw : within [.srcs, .tgts] w = true) :
    Keeps w a (emptyTarget s t) := by
  unfold emptyTarget
  repeat' first
    | with_reducible
        first
        | assumption | apply Answers.next | apply Answers.fault | apply Keeps.ite | apply Answers.ite
        | refine Keeps.foldl ?_ fun _ _ _ => ?_ | refine modTgt_keeps ?_ ?_ | refine leaveSvc_keeps ?_ ?_
        | refine clearMarks_keeps ?_ ?_
    | exact within_trans rfl hw
    | dsimp only
    | split
    | intro _

theorem withdrawEdge_keeps {w : List StateField} {a s : State} {n : Nat} (h : Keeps w a s)
    (hw : within [.srcs] w = true) :
    Keeps w a (withdrawEdge s n) := by
  unfold withdrawEdge
  repeat' first
    | with_reducible
        first
        | assumption | apply Answers.next | apply Answers.fault | apply Keeps.ite | apply Answers.ite
        | refine Keeps.foldl ?_ fun _ _ _ => ?_ | refine modSrc_keeps ?_ ?_
    | exact within_trans rfl hw
    | dsimp only
    | split
    | intro _

theorem unmask_keeps {w : List StateField} {a s : State} {fn : Nat} {v : Option Nat} (h : Keeps w a s)
    (hw : within [.regs, .funcs, .out] w = true) :
    Keeps w a (unmask s fn v) := by
  unfold unmask
  repeat' first
    | with_reducible
        first
        | assumption | apply Answers.next | apply Answers.fault | apply Keeps.ite | apply Answers.ite
        | refine Keeps.foldl ?_ fun _ _ _ => ?_ | refine fset_keeps ?_ ?_ | refine emit_keeps ?_ ?_
        | refine modFunc_keeps ?_ ?_
    | exact within_trans rfl hw
    | dsimp only
    | split
    | intro _

theorem execIrqDelivery_keeps {w : List StateField} {a s : State} (h : Keeps w a s)
    (hw : within [.regs, .srcs, .holdoff, .funcs, .pins, .out] w = true) :
    Answers w a (execIrqDelivery s) := by
  unfold execIrqDelivery
  repeat' first
    | with_reducible
        first
        | assumption | apply Answers.next | apply Answers.fault | apply Keeps.ite | apply Answers.ite
        | refine Keeps.foldl ?_ fun _ _ _ => ?_ | refine deliver_keeps ?_ ?_
    | exact within_trans rfl hw
    | dsimp only
    | split
    | intro _

theorem portClaim_keeps {w : List StateField} {a s : State} {t : Nat} {port : Option (Fin 1024)} (h : Keeps w a s)
    (hw : within [.tgts] w = true) : Keeps w a (portClaim s t port) := by
  unfold portClaim
  split
  · split
    · exact modTgt_keeps h (within_trans rfl hw)
    · exact h
  · exact h

theorem execClaimRead_keeps {w : List StateField} {a s : State} {t : Fin 80} {port : Option (Fin 1024)} (h : Keeps w a s)
    (hw : within [.regs, .srcs, .tgts, .out] w = true) :
    Answers w a (execClaimRead t port s) := by
  unfold execClaimRead
  repeat' first
    | with_reducible
        first
        | assumption | apply Answers.next | apply Answers.fault | apply Keeps.ite | apply Answers.ite
        | refine Keeps.foldl ?_ fun _ _ _ => ?_ | refine emit_keeps ?_ ?_ | refine claim_keeps ?_ ?_
        | refine portClaim_keeps ?_ ?_
    | exact within_trans rfl hw
    | dsimp only
    | split
    | intro _

theorem execEoi_keeps {w : List StateField} {a s : State} {t : Fin 80} {val : Word} (h : Keeps w a s)
    (hw : within [.regs, .srcs, .tgts] w = true) :
    Answers w a (execEoi t val s) := by
  unfold execEoi
  repeat' first
    | with_reducible
        first
        | assumption | apply Answers.next | apply Answers.fault | apply Keeps.ite | apply Answers.ite
        | refine Keeps.foldl ?_ fun _ _ _ => ?_ | refine writeEoi_keeps ?_ ?_
    | exact within_trans rfl hw
    | dsimp only
    | split
    | intro _

theorem execPendWithdraw_keeps {w : List StateField} {a s : State} {k : Fin 10} {val : Word} (h : Keeps w a s)
    (hw : within [.srcs] w = true) :
    Answers w a (execPendWithdraw k val s) := by
  unfold execPendWithdraw
  repeat' first
    | with_reducible
        first
        | assumption | apply Answers.next | apply Answers.fault | apply Keeps.ite | apply Answers.ite
        | refine Keeps.foldl ?_ fun _ _ _ => ?_ | refine withdrawEdge_keeps ?_ ?_
    | exact within_trans rfl hw
    | dsimp only
    | split
    | intro _

theorem execSwiTrig_keeps {w : List StateField} {a s : State} {val : Word} (h : Keeps w a s)
    (hw : within [.srcs] w = true) :
    Answers w a (execSwiTrig val s) := by
  unfold execSwiTrig
  repeat' first
    | with_reducible
        first
        | assumption | apply Answers.next | apply Answers.fault | apply Keeps.ite | apply Answers.ite
        | refine Keeps.foldl ?_ fun _ _ _ => ?_ | refine modSrc_keeps ?_ ?_
    | exact within_trans rfl hw
    | dsimp only
    | split
    | intro _

theorem execHoldoffExpiry_keeps {w : List StateField} {a s : State} {g : Fin 32} (h : Keeps w a s)
    (hw : within [.regs, .holdoff] w = true) :
    Answers w a (execHoldoffExpiry g s) := by
  unfold execHoldoffExpiry
  repeat' first
    | with_reducible
        first
        | assumption | apply Answers.next | apply Answers.fault | apply Keeps.ite | apply Answers.ite
        | refine Keeps.foldl ?_ fun _ _ _ => ?_ | refine fset_keeps ?_ ?_
    | exact within_trans rfl hw
    | with_reducible refine keeps_mk ?_ ?_ ?_ ?_ ?_ ?_ ?_ ?_ ?_ ?_ ?_ ?_ ?_ ?_ ?_ ?_ ?_ ?_ ?_ ?_ ?_ ?_ ?_ ?_ ?_ ?_ ?_ ?_ ?_ ?_ ?_ ?_
    | with_reducible exact Or.inl rfl
    | exact Or.inr (within_trans rfl hw)
    | dsimp only
    | split
    | intro _

theorem execMsixUnmask_keeps {w : List StateField} {a s : State} {fn : Fin 64} {vector : Option (Fin 2048)} (h : Keeps w a s)
    (hw : within [.regs, .funcs, .out] w = true) :
    Answers w a (execMsixUnmask fn vector s) := by
  unfold execMsixUnmask
  repeat' first
    | with_reducible
        first
        | assumption | apply Answers.next | apply Answers.fault | apply Keeps.ite | apply Answers.ite
        | refine Keeps.foldl ?_ fun _ _ _ => ?_ | refine unmask_keeps ?_ ?_
    | exact within_trans rfl hw
    | dsimp only
    | split
    | intro _

theorem execMsixEnableChange_keeps {w : List StateField} {a s : State} {fn : Fin 64} {msix busMaster : Bool} (h : Keeps w a s)
    (hw : within [.funcs] w = true) :
    Answers w a (execMsixEnableChange fn msix busMaster s) := by
  unfold execMsixEnableChange
  repeat' first
    | with_reducible
        first
        | assumption | apply Answers.next | apply Answers.fault | apply Keeps.ite | apply Answers.ite
        | refine Keeps.foldl ?_ fun _ _ _ => ?_ | refine modFunc_keeps ?_ ?_
    | exact within_trans rfl hw
    | dsimp only
    | split
    | intro _

end Sys2Proof.Machine
end

