-- ==== Sys2Proof/Laws/KeepsLog.lean ====
section
/-! SUPPORT. What each operation of Machine/Log.lean keeps. -/

set_option linter.all false

namespace Sys2Proof.Machine

theorem modBdrk_keeps {w : List StateField} {a s : State} {f : Bdrk → Bdrk} (h : Keeps w a s)
    (hw : within [.bdrk] w = true) :
    Keeps w a (modBdrk s f) := by
  unfold modBdrk
  repeat' first
    | with_reducible
        first
        | assumption | apply Answers.next | apply Answers.fault | apply Keeps.ite | apply Answers.ite
        | refine Keeps.foldl ?_ fun _ _ _ => ?_
    | exact within_trans rfl hw
    | with_reducible refine keeps_mk ?_ ?_ ?_ ?_ ?_ ?_ ?_ ?_ ?_ ?_ ?_ ?_ ?_ ?_ ?_ ?_ ?_ ?_ ?_ ?_ ?_ ?_ ?_ ?_ ?_ ?_ ?_ ?_ ?_ ?_ ?_ ?_
    | with_reducible exact Or.inl rfl
    | exact Or.inr (within_trans rfl hw)
    | dsimp only
    | split
    | intro _

theorem useFree_keeps {w : List StateField} {a s : State} (h : Keeps w a s)
    (hw : within [.free] w = true) :
    Keeps w a (useFree s) := by
  unfold useFree
  repeat' first
    | with_reducible
        first
        | assumption | apply Answers.next | apply Answers.fault | apply Keeps.ite | apply Answers.ite
        | refine Keeps.foldl ?_ fun _ _ _ => ?_
    | exact within_trans rfl hw
    | with_reducible refine keeps_mk ?_ ?_ ?_ ?_ ?_ ?_ ?_ ?_ ?_ ?_ ?_ ?_ ?_ ?_ ?_ ?_ ?_ ?_ ?_ ?_ ?_ ?_ ?_ ?_ ?_ ?_ ?_ ?_ ?_ ?_ ?_ ?_
    | with_reducible exact Or.inl rfl
    | exact Or.inr (within_trans rfl hw)
    | dsimp only
    | split
    | intro _

theorem useFrees_keeps {w : List StateField} {a s : State} {n : Nat} (h : Keeps w a s)
    (hw : within [.free] w = true) :
    Keeps w a (useFrees s n) := by
  unfold useFrees
  repeat' first
    | with_reducible
        first
        | assumption | apply Answers.next | apply Answers.fault | apply Keeps.ite | apply Answers.ite
        | refine Keeps.foldl ?_ fun _ _ _ => ?_
    | exact within_trans rfl hw
    | with_reducible refine keeps_mk ?_ ?_ ?_ ?_ ?_ ?_ ?_ ?_ ?_ ?_ ?_ ?_ ?_ ?_ ?_ ?_ ?_ ?_ ?_ ?_ ?_ ?_ ?_ ?_ ?_ ?_ ?_ ?_ ?_ ?_ ?_ ?_
    | with_reducible exact Or.inl rfl
    | exact Or.inr (within_trans rfl hw)
    | dsimp only
    | split
    | intro _

theorem logEnqueue_keeps {w : List StateField} {a s : State} {e : LogEntry} (h : Keeps w a s)
    (hw : within [.regs, .bdrk] w = true) :
    Keeps w a (logEnqueue s e) := by
  unfold logEnqueue
  repeat' first
    | with_reducible
        first
        | assumption | apply Answers.next | apply Answers.fault | apply Keeps.ite | apply Answers.ite
        | refine Keeps.foldl ?_ fun _ _ _ => ?_ | refine fadd_keeps ?_ ?_ | refine modBdrk_keeps ?_ ?_
    | exact within_trans rfl hw
    | dsimp only
    | split
    | intro _

theorem logOpen_keeps {w : List StateField} {a s : State} {page src first : Nat} (h : Keeps w a s)
    (hw : within [.bdrk] w = true) :
    Keeps w a (logOpen s page src first) := by
  unfold logOpen
  repeat' first
    | with_reducible
        first
        | assumption | apply Answers.next | apply Answers.fault | apply Keeps.ite | apply Answers.ite
        | refine Keeps.foldl ?_ fun _ _ _ => ?_ | refine modBdrk_keeps ?_ ?_
    | exact within_trans rfl hw
    | dsimp only
    | split
    | intro _

theorem logFault_keeps {w : List StateField} {a s : State} {page src react detail : Nat} {secondary forced : Bool} (h : Keeps w a s)
    (hw : within [.regs, .bdrk] w = true) :
    Keeps w a (logFault s page src react detail secondary forced) := by
  unfold logFault
  repeat' first
    | with_reducible
        first
        | assumption | apply Answers.next | apply Answers.fault | apply Keeps.ite | apply Answers.ite
        | refine Keeps.foldl ?_ fun _ _ _ => ?_ | refine modBdrk_keeps ?_ ?_ | refine logEnqueue_keeps ?_ ?_
        | refine logOpen_keeps ?_ ?_
    | exact within_trans rfl hw
    | dsimp only
    | split
    | intro _

theorem logEvent_keeps {w : List StateField} {a s : State} {type code page detail : Nat} (h : Keeps w a s)
    (hw : within [.regs, .bdrk] w = true) :
    Keeps w a (logEvent s type code page detail) := by
  unfold logEvent
  repeat' first
    | with_reducible
        first
        | assumption | apply Answers.next | apply Answers.fault | apply Keeps.ite | apply Answers.ite
        | refine Keeps.foldl ?_ fun _ _ _ => ?_ | refine logEnqueue_keeps ?_ ?_
    | exact within_trans rfl hw
    | dsimp only
    | split
    | intro _

theorem logCal_keeps {w : List StateField} {a s : State} (h : Keeps w a s)
    (hw : within [.free, .regs, .bdrk] w = true) :
    Keeps w a (logCal s) := by
  unfold logCal
  repeat' first
    | with_reducible
        first
        | assumption | apply Answers.next | apply Answers.fault | apply Keeps.ite | apply Answers.ite
        | refine Keeps.foldl ?_ fun _ _ _ => ?_ | refine useFree_keeps ?_ ?_ | refine logEvent_keeps ?_ ?_
    | exact within_trans rfl hw
    | dsimp only
    | split
    | intro _

theorem calRecord_keeps {w : List StateField} {a s : State} {item qual : Nat} {pass : Bool} (h : Keeps w a s)
    (hw : within [.free, .regs, .bdrk] w = true) :
    Keeps w a (calRecord s item qual pass) := by
  unfold calRecord
  repeat' first
    | with_reducible
        first
        | assumption | apply Answers.next | apply Answers.fault | apply Keeps.ite | apply Answers.ite
        | refine Keeps.foldl ?_ fun _ _ _ => ?_ | refine modBdrk_keeps ?_ ?_ | refine logCal_keeps ?_ ?_
    | exact within_trans rfl hw
    | dsimp only
    | split
    | intro _

theorem logPut_keeps {w : List StateField} {a s : State} {e : LogEntry} (h : Keeps w a s)
    (hw : within [.regs, .bdrk] w = true) :
    Keeps w a (logPut s e) := by
  unfold logPut
  repeat' first
    | with_reducible
        first
        | assumption | apply Answers.next | apply Answers.fault | apply Keeps.ite | apply Answers.ite
        | refine Keeps.foldl ?_ fun _ _ _ => ?_ | refine fset_keeps ?_ ?_ | refine modBdrk_keeps ?_ ?_
    | exact within_trans rfl hw
    | dsimp only
    | split
    | intro _

theorem norPut_keeps {w : List StateField} {a s : State} {slot : Nat} (h : Keeps w a s)
    (hw : within [.bdrk] w = true) :
    Keeps w a (norPut s slot) := by
  unfold norPut
  repeat' first
    | with_reducible
        first
        | assumption | apply Answers.next | apply Answers.fault | apply Keeps.ite | apply Answers.ite
        | refine Keeps.foldl ?_ fun _ _ _ => ?_ | refine modBdrk_keeps ?_ ?_
    | exact within_trans rfl hw
    | dsimp only
    | split
    | intro _

theorem norFlush_keeps {w : List StateField} {a s : State} (h : Keeps w a s)
    (hw : within [.bdrk] w = true) :
    Keeps w a (norFlush s) := by
  unfold norFlush
  repeat' first
    | with_reducible
        first
        | assumption | apply Answers.next | apply Answers.fault | apply Keeps.ite | apply Answers.ite
        | refine Keeps.foldl ?_ fun _ _ _ => ?_ | refine modBdrk_keeps ?_ ?_ | refine norPut_keeps ?_ ?_
    | exact within_trans rfl hw
    | dsimp only
    | split
    | intro _

theorem execLogEntryWrite_keeps {w : List StateField} {a s : State} (h : Keeps w a s)
    (hw : within [.regs, .srcs, .bdrk] w = true) :
    Answers w a (execLogEntryWrite s) := by
  unfold execLogEntryWrite
  repeat' first
    | with_reducible
        first
        | assumption | apply Answers.next | apply Answers.fault | apply Keeps.ite | apply Answers.ite
        | refine Keeps.foldl ?_ fun _ _ _ => ?_ | refine setIrq_keeps ?_ ?_ | refine modBdrk_keeps ?_ ?_
        | refine logPut_keeps ?_ ?_
    | exact within_trans rfl hw
    | dsimp only
    | split
    | intro _

theorem execLogEntryClose_keeps {w : List StateField} {a s : State} (h : Keeps w a s)
    (hw : within [.bdrk] w = true) :
    Answers w a (execLogEntryClose s) := by
  unfold execLogEntryClose
  repeat' first
    | with_reducible
        first
        | assumption | apply Answers.next | apply Answers.fault | apply Keeps.ite | apply Answers.ite
        | refine Keeps.foldl ?_ fun _ _ _ => ?_ | refine modBdrk_keeps ?_ ?_
    | exact within_trans rfl hw
    | dsimp only
    | split
    | intro _

theorem execLogNorCopy_keeps {w : List StateField} {a s : State} (h : Keeps w a s)
    (hw : within [.bdrk] w = true) :
    Answers w a (execLogNorCopy s) := by
  unfold execLogNorCopy
  repeat' first
    | with_reducible
        first
        | assumption | apply Answers.next | apply Answers.fault | apply Keeps.ite | apply Answers.ite
        | refine Keeps.foldl ?_ fun _ _ _ => ?_ | refine modBdrk_keeps ?_ ?_ | refine norPut_keeps ?_ ?_
    | exact within_trans rfl hw
    | dsimp only
    | split
    | intro _

end Sys2Proof.Machine
end

