-- ==== Sys2Proof/Laws/KeepsPowerOps.lean ====
section
/-! SUPPORT. What each operation of Machine/PowerOps.lean keeps. -/

set_option linter.all false

namespace Sys2Proof.Machine

theorem setDomState_keeps {w : List StateField} {a s : State} {d v : Nat} (h : Keeps w a s)
    (hw : within [.regs, .srcs, .doms] w = true) :
    Keeps w a (setDomState s d v) := by
  unfold setDomState
  repeat' first
    | with_reducible
        first
        | assumption | apply Answers.next | apply Answers.fault | apply Keeps.ite | apply Answers.ite
        | refine Keeps.foldl ?_ fun _ _ _ => ?_ | refine fset_keeps ?_ ?_ | refine modDom_keeps ?_ ?_
        | refine syncDomain_keeps ?_ ?_
    | exact within_trans rfl hw
    | dsimp only
    | split
    | intro _

theorem domCmdDone_keeps {w : List StateField} {a s : State} {result : Nat} (h : Keeps w a s)
    (hw : within [.regs, .srcs] w = true) :
    Keeps w a (domCmdDone s result) := by
  unfold domCmdDone
  repeat' first
    | with_reducible
        first
        | assumption | apply Answers.next | apply Answers.fault | apply Keeps.ite | apply Answers.ite
        | refine Keeps.foldl ?_ fun _ _ _ => ?_ | refine fset_keeps ?_ ?_ | refine setIrq_keeps ?_ ?_
    | exact within_trans rfl hw
    | dsimp only
    | split
    | intro _

theorem endDrain_keeps {w : List StateField} {a s : State} {d result : Nat} (h : Keeps w a s)
    (hw : within [.regs, .srcs, .doms] w = true) :
    Keeps w a (endDrain s d result) := by
  unfold endDrain
  repeat' first
    | with_reducible
        first
        | assumption | apply Answers.next | apply Answers.fault | apply Keeps.ite | apply Answers.ite
        | refine Keeps.foldl ?_ fun _ _ _ => ?_ | refine modDom_keeps ?_ ?_ | refine setDomState_keeps ?_ ?_
        | refine domCmdDone_keeps ?_ ?_
    | exact within_trans rfl hw
    | dsimp only
    | split
    | intro _

theorem requestWake_keeps {w : List StateField} {a s : State} {d : Nat} (h : Keeps w a s)
    (hw : within [.doms] w = true) :
    Keeps w a (requestWake s d) := by
  unfold requestWake
  repeat' first
    | with_reducible
        first
        | assumption | apply Answers.next | apply Answers.fault | apply Keeps.ite | apply Answers.ite
        | refine Keeps.foldl ?_ fun _ _ _ => ?_ | refine modDom_keeps ?_ ?_
    | exact within_trans rfl hw
    | dsimp only
    | split
    | intro _

theorem touchDomain_keeps {w : List StateField} {a s : State} {d : Nat} (h : Keeps w a s)
    (hw : within [.regs, .srcs, .doms] w = true) :
    Keeps w a (touchDomain s d) := by
  unfold touchDomain
  repeat' first
    | with_reducible
        first
        | assumption | apply Answers.next | apply Answers.fault | apply Keeps.ite | apply Answers.ite
        | refine Keeps.foldl ?_ fun _ _ _ => ?_ | refine endDrain_keeps ?_ ?_ | refine requestWake_keeps ?_ ?_
    | exact within_trans rfl hw
    | dsimp only
    | split
    | intro _

theorem setReady_keeps {w : List StateField} {a s : State} {b' : Nat} (h : Keeps w a s)
    (hw : within [.regs, .srcs] w = true) :
    Keeps w a (setReady s b') := by
  unfold setReady
  repeat' first
    | with_reducible
        first
        | assumption | apply Answers.next | apply Answers.fault | apply Keeps.ite | apply Answers.ite
        | refine Keeps.foldl ?_ fun _ _ _ => ?_ | refine qset_keeps ?_ ?_ | refine setIrq_keeps ?_ ?_
    | exact within_trans rfl hw
    | dsimp only
    | split
    | intro _

theorem checkContextReady_keeps {w : List StateField} {a s : State} (h : Keeps w a s)
    (hw : within [.regs, .srcs] w = true) :
    Keeps w a (checkContextReady s) := by
  unfold checkContextReady
  repeat' first
    | with_reducible
        first
        | assumption | apply Answers.next | apply Answers.fault | apply Keeps.ite | apply Answers.ite
        | refine Keeps.foldl ?_ fun _ _ _ => ?_ | refine setReady_keeps ?_ ?_
    | exact within_trans rfl hw
    | dsimp only
    | split
    | intro _

theorem setBlk_keeps {w : List StateField} {a s : State} {page : Nat} {ready inService : Bool} {st : Nat} (h : Keeps w a s)
    (hw : within [.regs] w = true) :
    Keeps w a (setBlk s page ready inService st) := by
  unfold setBlk
  repeat' first
    | with_reducible
        first
        | assumption | apply Answers.next | apply Answers.fault | apply Keeps.ite | apply Answers.ite
        | refine Keeps.foldl ?_ fun _ _ _ => ?_ | refine fset_keeps ?_ ?_ | refine fsetb_keeps ?_ ?_
    | exact within_trans rfl hw
    | dsimp only
    | split
    | intro _

theorem openShadow_keeps {w : List StateField} {a s : State} {page : Nat} (h : Keeps w a s)
    (hw : within [.bdrk] w = true) :
    Keeps w a (openShadow s page) := by
  unfold openShadow
  repeat' first
    | with_reducible
        first
        | assumption | apply Answers.next | apply Answers.fault | apply Keeps.ite | apply Answers.ite
        | refine Keeps.foldl ?_ fun _ _ _ => ?_ | refine modBdrk_keeps ?_ ?_
    | exact within_trans rfl hw
    | dsimp only
    | split
    | intro _

theorem endShadow_keeps {w : List StateField} {a s : State} {page : Nat} (h : Keeps w a s)
    (hw : within [.bdrk] w = true) :
    Keeps w a (endShadow s page) := by
  unfold endShadow
  repeat' first
    | with_reducible
        first
        | assumption | apply Answers.next | apply Answers.fault | apply Keeps.ite | apply Answers.ite
        | refine Keeps.foldl ?_ fun _ _ _ => ?_ | refine modBdrk_keeps ?_ ?_
    | exact within_trans rfl hw
    | dsimp only
    | split
    | intro _

theorem setChip_keeps {w : List StateField} {a s : State} {f : Chip → Chip} (h : Keeps w a s)
    (hw : within [.chip] w = true) :
    Keeps w a (setChip s f) := by
  unfold setChip
  repeat' first
    | with_reducible
        first
        | assumption | apply Answers.next | apply Answers.fault | apply Keeps.ite | apply Answers.ite
        | refine Keeps.foldl ?_ fun _ _ _ => ?_
    | exact within_trans rfl hw
    | with_reducible refine keeps_mk ?_ ?_ ?_ ?_ ?_ ?_ ?_ ?_ ?_ ?_ ?_ ?_ ?_ ?_ ?_ ?_ ?_ ?_ ?_ ?_ ?_ ?_ ?_ ?_ ?_ ?_ ?_ ?_ ?_ ?_ ?_ ?_
    | with_reducible exact Or.inl rfl
    | exact Or.inr (within_trans rfl hw)
    | dsimp only
    | split
    | intro _

end Sys2Proof.Machine
end

