-- ==== Sys2Proof/Laws/KeepsTalus.lean ====
section
/-! SUPPORT. What each operation of Machine/Talus.lean keeps. -/

set_option linter.all false

namespace Sys2Proof.Machine

theorem setBuf_keeps {w : List StateField} {a s : State} {h' : Nat} {b' : Buf} (h : Keeps w a s)
    (hw : within [.talus] w = true) :
    Keeps w a (setBuf s h' b') := by
  unfold setBuf
  repeat' first
    | with_reducible
        first
        | assumption | apply Answers.next | apply Answers.fault | apply Keeps.ite | apply Answers.ite
        | refine Keeps.foldl ?_ fun _ _ _ => ?_
    | exact within_trans rfl hw
    | with_reducible refine keeps_mk ?_ ?_ ?_ ?_ ?_ ?_ ?_ ?_ ?_ ?_ ?_ ?_ ?_ ?_ ?_ ?_ ?_ ?_ ?_ ?_ ?_ ?_ ?_ ?_ ?_ ?_ ?_ ?_ ?_ ?_ ?_ ?_
    | with_reducible exact Or.inl rfl
    | exact Or.inr (within_trans rfl hw)
    | dsimp only
    | split
    | intro _

theorem dropBuf_keeps {w : List StateField} {a s : State} {h' : Nat} (h : Keeps w a s)
    (hw : within [.talus, .perf] w = true) :
    Keeps w a (dropBuf s h') := by
  unfold dropBuf
  repeat' first
    | with_reducible
        first
        | assumption | apply Answers.next | apply Answers.fault | apply Keeps.ite | apply Answers.ite
        | refine Keeps.foldl ?_ fun _ _ _ => ?_ | refine countEv_keeps ?_ ?_ | refine setBuf_keeps ?_ ?_
    | exact within_trans rfl hw
    | dsimp only
    | split
    | intro _

theorem allocFrom_keeps {w : List StateField} {a s : State} {mode : Spill} {tag : Nat} {held : Bool} {l : List Nat}
    (h : Keeps w a s) (hw : within [.regs, .talus, .srcs, .perf] w = true) : Keeps w a (allocFrom s mode tag held l).2 := by
  induction l generalizing s with
  | nil => exact h
  | cons p ps ih =>
    unfold allocFrom
    split
    · exact ih h
    · split
      · exact countEv_keeps (setBuf_keeps h (within_trans rfl hw)) (within_trans rfl hw)
      · have k : Keeps w a (setIrq s 0x50 64) := setIrq_keeps h (within_trans rfl hw)
        dsimp only
        repeat' split
        all_goals first
          | exact k
          | exact ih k

theorem talusAlloc_keeps {w : List StateField} {a s : State} {p : Nat} {mode : Spill} {tag : Nat} {held : Bool} (h : Keeps w a s)
    (hw : within [.regs, .talus, .srcs, .perf] w = true) :
    Keeps w a (talusAlloc s p mode tag held).2 := by
  unfold talusAlloc
  repeat' first
    | with_reducible
        first
        | assumption | apply Answers.next | apply Answers.fault | apply Keeps.ite | apply Answers.ite
        | refine Keeps.foldl ?_ fun _ _ _ => ?_ | refine allocFrom_keeps ?_ ?_
    | exact within_trans rfl hw
    | dsimp only
    | split
    | intro _

theorem rejectFree_keeps {w : List StateField} {a s : State} {h' owner reason : Nat} {cnt : Row} {irq : Nat} (h : Keeps w a s)
    (hw : within [.regs, .srcs] w = true) :
    Keeps w a (rejectFree s h' owner reason cnt irq) := by
  unfold rejectFree
  repeat' first
    | with_reducible
        first
        | assumption | apply Answers.next | apply Answers.fault | apply Keeps.ite | apply Answers.ite
        | refine Keeps.foldl ?_ fun _ _ _ => ?_ | refine fset_keeps ?_ ?_ | refine fadd_keeps ?_ ?_
        | refine setIrq_keeps ?_ ?_
    | exact within_trans rfl hw
    | dsimp only
    | split
    | intro _

theorem freeHandle_keeps {w : List StateField} {a s : State} {owner h' : Nat} (h : Keeps w a s)
    (hw : within [.regs, .talus, .srcs, .perf] w = true) :
    Keeps w a (freeHandle s owner h').1 := by
  unfold freeHandle
  repeat' first
    | with_reducible
        first
        | assumption | apply Answers.next | apply Answers.fault | apply Keeps.ite | apply Answers.ite
        | refine Keeps.foldl ?_ fun _ _ _ => ?_ | refine dropBuf_keeps ?_ ?_ | refine rejectFree_keeps ?_ ?_
    | exact within_trans rfl hw
    | dsimp only
    | split
    | intro _

theorem freeTag_keeps {w : List StateField} {a s : State} {tag : Nat} (h : Keeps w a s)
    (hw : within [.talus, .perf] w = true) :
    Keeps w a (freeTag s tag) := by
  unfold freeTag
  repeat' first
    | with_reducible
        first
        | assumption | apply Answers.next | apply Answers.fault | apply Keeps.ite | apply Answers.ite
        | refine Keeps.foldl ?_ fun _ _ _ => ?_ | refine countEv_keeps ?_ ?_
    | exact within_trans rfl hw
    | with_reducible refine keeps_mk ?_ ?_ ?_ ?_ ?_ ?_ ?_ ?_ ?_ ?_ ?_ ?_ ?_ ?_ ?_ ?_ ?_ ?_ ?_ ?_ ?_ ?_ ?_ ?_ ?_ ?_ ?_ ?_ ?_ ?_ ?_ ?_
    | with_reducible exact Or.inl rfl
    | exact Or.inr (within_trans rfl hw)
    | dsimp only
    | split
    | intro _

theorem freeAll_keeps {w : List StateField} {a s : State} {hs : List Nat} (h : Keeps w a s)
    (hw : within [.talus, .perf] w = true) :
    Keeps w a (freeAll s hs) := by
  unfold freeAll
  repeat' first
    | with_reducible
        first
        | assumption | apply Answers.next | apply Answers.fault | apply Keeps.ite | apply Answers.ite
        | refine Keeps.foldl ?_ fun _ _ _ => ?_ | refine dropBuf_keeps ?_ ?_
    | exact within_trans rfl hw
    | dsimp only
    | split
    | intro _

theorem unhold_keeps {w : List StateField} {a s : State} {h' : Nat} (h : Keeps w a s)
    (hw : within [.talus] w = true) :
    Keeps w a (unhold s h') := by
  unfold unhold
  repeat' first
    | with_reducible
        first
        | assumption | apply Answers.next | apply Answers.fault | apply Keeps.ite | apply Answers.ite
        | refine Keeps.foldl ?_ fun _ _ _ => ?_ | refine setBuf_keeps ?_ ?_
    | exact within_trans rfl hw
    | dsimp only
    | split
    | intro _

theorem allocParts_keeps {w : List StateField} {a s t : State} {tag : Nat} {l : List (Nat × Bool)} {x : List Nat}
    (e : allocParts s tag l = some (x, t)) (h : Keeps w a s) (hw : within [.regs, .talus, .srcs, .perf] w = true) : Keeps w a t := by
  induction l generalizing s x t with
  | nil => unfold allocParts at e; cases e; exact h
  | cons p ps ih =>
    unfold allocParts at e
    dsimp only at e
    repeat' split at e
    all_goals first
      | (cases e; done)
      | (obtain ⟨⟨y, u⟩, k, r⟩ := Option.map_eq_some_iff.mp e
         cases r
         exact ih k (talusAlloc_keeps h (within_trans rfl hw)))

theorem execPoolEnable_keeps {w : List StateField} {a s : State} {p : Fin 8} {val : Word} (h : Keeps w a s)
    (hw : within [.regs, .talus, .srcs] w = true) :
    Answers w a (execPoolEnable p val s) := by
  unfold execPoolEnable
  repeat' first
    | with_reducible
        first
        | assumption | apply Answers.next | apply Answers.fault | apply Keeps.ite | apply Answers.ite
        | refine Keeps.foldl ?_ fun _ _ _ => ?_ | refine fset_keeps ?_ ?_ | refine setIrq_keeps ?_ ?_
    | exact within_trans rfl hw
    | with_reducible refine keeps_mk ?_ ?_ ?_ ?_ ?_ ?_ ?_ ?_ ?_ ?_ ?_ ?_ ?_ ?_ ?_ ?_ ?_ ?_ ?_ ?_ ?_ ?_ ?_ ?_ ?_ ?_ ?_ ?_ ?_ ?_ ?_ ?_
    | with_reducible exact Or.inl rfl
    | exact Or.inr (within_trans rfl hw)
    | dsimp only
    | split
    | intro _

theorem execPoolDisable_keeps {w : List StateField} {a s : State} {p : Fin 8} {val : Word} (h : Keeps w a s)
    (hw : within [.regs, .srcs] w = true) :
    Answers w a (execPoolDisable p val s) := by
  unfold execPoolDisable
  repeat' first
    | with_reducible
        first
        | assumption | apply Answers.next | apply Answers.fault | apply Keeps.ite | apply Answers.ite
        | refine Keeps.foldl ?_ fun _ _ _ => ?_ | refine fset_keeps ?_ ?_ | refine setIrq_keeps ?_ ?_
    | exact within_trans rfl hw
    | dsimp only
    | split
    | intro _

theorem execTalusAlloc_keeps {w : List StateField} {a s : State} {fn : Fin 64} {p : Fin 8} (h : Keeps w a s)
    (hw : within [.regs, .talus, .srcs, .perf, .out] w = true) :
    Answers w a (execTalusAlloc fn p s) := by
  unfold execTalusAlloc
  repeat' first
    | with_reducible
        first
        | assumption | apply Answers.next | apply Answers.fault | apply Keeps.ite | apply Answers.ite
        | refine Keeps.foldl ?_ fun _ _ _ => ?_ | refine emit_keeps ?_ ?_ | refine talusAlloc_keeps ?_ ?_
    | exact within_trans rfl hw
    | dsimp only
    | split
    | intro _

end Sys2Proof.Machine
end

