-- ==== Sys2Proof/Laws/KeepsRings.lean ====
section
/-! SUPPORT. What each operation of Machine/Rings.lean keeps. -/

set_option linter.all false

namespace Sys2Proof.Machine

theorem rfieldSet_keeps {w : List StateField} {a s : State} {k : Nat} {r : Row} {v : Nat} (h : Keeps w a s)
    (hw : within [.regs] w = true) :
    Keeps w a (rfieldSet s k r v) := by
  unfold rfieldSet
  repeat' first
    | with_reducible
        first
        | assumption | apply Answers.next | apply Answers.fault | apply Keeps.ite | apply Answers.ite
        | refine Keeps.foldl ?_ fun _ _ _ => ?_ | refine fset_keeps ?_ ?_
    | exact within_trans rfl hw
    | dsimp only
    | split
    | intro _

theorem syncCqWait_keeps {w : List StateField} {a s : State} {k : Nat} (h : Keeps w a s)
    (hw : within [.regs] w = true) :
    Keeps w a (syncCqWait s k) := by
  unfold syncCqWait
  repeat' first
    | with_reducible
        first
        | assumption | apply Answers.next | apply Answers.fault | apply Keeps.ite | apply Answers.ite
        | refine Keeps.foldl ?_ fun _ _ _ => ?_ | refine rfieldSet_keeps ?_ ?_
    | exact within_trans rfl hw
    | dsimp only
    | split
    | intro _

theorem postEntry_keeps {w : List StateField} {a s : State} {k : Nat} {e : CqEntry} (h : Keeps w a s)
    (hw : within [.regs, .rings] w = true) :
    Keeps w a (postEntry s k e) := by
  unfold postEntry
  repeat' first
    | with_reducible
        first
        | assumption | apply Answers.next | apply Answers.fault | apply Keeps.ite | apply Answers.ite
        | refine Keeps.foldl ?_ fun _ _ _ => ?_ | refine modRing_keeps ?_ ?_ | refine syncCqWait_keeps ?_ ?_
    | exact within_trans rfl hw
    | dsimp only
    | split
    | intro _

theorem postEvent_keeps {w : List StateField} {a s : State} {c code status info0 : Nat} (h : Keeps w a s)
    (hw : within [.regs, .rings] w = true) :
    Keeps w a (postEvent s c code status info0) := by
  unfold postEvent
  repeat' first
    | with_reducible
        first
        | assumption | apply Answers.next | apply Answers.fault | apply Keeps.ite | apply Answers.ite
        | refine Keeps.foldl ?_ fun _ _ _ => ?_ | refine postEntry_keeps ?_ ?_
    | exact within_trans rfl hw
    | dsimp only
    | split
    | intro _

theorem cmdDone_keeps {w : List StateField} {a s : State} {ref : CmdRef} {status info0 info1 info2 : Nat} {after : Option Turn} (h : Keeps w a s)
    (hw : within [.rings] w = true) :
    Keeps w a (cmdDone s ref status info0 info1 info2 after) := by
  unfold cmdDone
  repeat' first
    | with_reducible
        first
        | assumption | apply Answers.next | apply Answers.fault | apply Keeps.ite | apply Answers.ite
        | refine Keeps.foldl ?_ fun _ _ _ => ?_ | refine modRing_keeps ?_ ?_
    | exact within_trans rfl hw
    | dsimp only
    | split
    | intro _

theorem beginCmd_keeps {w : List StateField} {a s t : State} {k : Nat} {want : Nat → Bool} {d : Desc} {r : CmdRef}
    (e : beginCmd s k want = some (d, r, t)) (h : Keeps w a s) (hw : within [.rings] w = true) : Keeps w a t := by
  unfold beginCmd at e
  dsimp only at e
  split at e
  · cases e
  · split at e
    · cases e; exact modRing_keeps h (within_trans rfl hw)
    · cases e

theorem notify_keeps {w : List StateField} {a s : State} {k : Nat} (h : Keeps w a s)
    (hw : within [.regs, .rings, .srcs] w = true) :
    Keeps w a (notify s k) := by
  unfold notify
  repeat' first
    | with_reducible
        first
        | assumption | apply Answers.next | apply Answers.fault | apply Keeps.ite | apply Answers.ite
        | refine Keeps.foldl ?_ fun _ _ _ => ?_ | refine modRing_keeps ?_ ?_ | refine setRingPend_keeps ?_ ?_
    | exact within_trans rfl hw
    | dsimp only
    | split
    | intro _

theorem putBytes_keeps {w : List StateField} {a s : State} {dev : Bool} {fn addr : Nat} {bytes : List Byte} (h : Keeps w a s)
    (hw : within [.mem, .out] w = true) :
    Keeps w a (putBytes s dev fn addr bytes) := by
  unfold putBytes
  repeat' first
    | with_reducible
        first
        | assumption | apply Answers.next | apply Answers.fault | apply Keeps.ite | apply Answers.ite
        | refine Keeps.foldl ?_ fun _ _ _ => ?_ | refine memWriteN_keeps ?_ ?_ | refine emit_keeps ?_ ?_
    | exact within_trans rfl hw
    | dsimp only
    | split
    | intro _

theorem writeEntry_keeps {w : List StateField} {a s : State} {k : Nat} {e : CqEntry} (h : Keeps w a s)
    (hw : within [.regs, .mem, .rings, .srcs, .bdrk, .pins, .out] w = true) :
    Keeps w a (writeEntry s k e) := by
  unfold writeEntry
  repeat' first
    | with_reducible
        first
        | assumption | apply Answers.next | apply Answers.fault | apply Keeps.ite | apply Answers.ite
        | refine Keeps.foldl ?_ fun _ _ _ => ?_ | refine modRing_keeps ?_ ?_ | refine wakeCheck_keeps ?_ ?_
        | refine rfieldSet_keeps ?_ ?_ | refine notify_keeps ?_ ?_ | refine putBytes_keeps ?_ ?_
    | exact within_trans rfl hw
    | with_reducible refine keeps_mk ?_ ?_ ?_ ?_ ?_ ?_ ?_ ?_ ?_ ?_ ?_ ?_ ?_ ?_ ?_ ?_ ?_ ?_ ?_ ?_ ?_ ?_ ?_ ?_ ?_ ?_ ?_ ?_ ?_ ?_ ?_ ?_
    | with_reducible exact Or.inl rfl
    | exact Or.inr (within_trans rfl hw)
    | dsimp only
    | split
    | intro _

theorem writeNext_keeps {w : List StateField} {a s : State} {k : Nat} (h : Keeps w a s)
    (hw : within [.regs, .mem, .rings, .talus, .srcs, .bdrk, .pins, .out] w = true) :
    Keeps w a (writeNext s k) := by
  unfold writeNext
  repeat' first
    | with_reducible
        first
        | assumption | apply Answers.next | apply Answers.fault | apply Keeps.ite | apply Answers.ite
        | refine Keeps.foldl ?_ fun _ _ _ => ?_ | refine modRing_keeps ?_ ?_ | refine unhold_keeps ?_ ?_
        | refine syncCqWait_keeps ?_ ?_ | refine writeEntry_keeps ?_ ?_
    | exact within_trans rfl hw
    | dsimp only
    | split
    | intro _

theorem execSqDoorbell_keeps {w : List StateField} {a s : State} {fn : Fin 64} {ring : Fin 4} {val : Word} (h : Keeps w a s)
    (hw : within [.regs] w = true) :
    Answers w a (execSqDoorbell fn ring val s) := by
  unfold execSqDoorbell
  repeat' first
    | with_reducible
        first
        | assumption | apply Answers.next | apply Answers.fault | apply Keeps.ite | apply Answers.ite
        | refine Keeps.foldl ?_ fun _ _ _ => ?_ | refine rfieldSet_keeps ?_ ?_
    | exact within_trans rfl hw
    | dsimp only
    | split
    | intro _

theorem execCqDoorbell_keeps {w : List StateField} {a s : State} {fn : Fin 64} {ring : Fin 4} {val : Word} (h : Keeps w a s)
    (hw : within [.regs] w = true) :
    Answers w a (execCqDoorbell fn ring val s) := by
  unfold execCqDoorbell
  repeat' first
    | with_reducible
        first
        | assumption | apply Answers.next | apply Answers.fault | apply Keeps.ite | apply Answers.ite
        | refine Keeps.foldl ?_ fun _ _ _ => ?_ | refine rfieldSet_keeps ?_ ?_ | refine syncCqWait_keeps ?_ ?_
    | exact within_trans rfl hw
    | dsimp only
    | split
    | intro _

theorem resetRingPtrs_keeps {w : List StateField} {a s : State} {k : Nat} (h : Keeps w a s)
    (hw : within [.regs] w = true) :
    Keeps w a (resetRingPtrs s k) := by
  unfold resetRingPtrs
  repeat' first
    | with_reducible
        first
        | assumption | apply Answers.next | apply Answers.fault | apply Keeps.ite | apply Answers.ite
        | refine Keeps.foldl ?_ fun _ _ _ => ?_ | refine rfieldSet_keeps ?_ ?_ | refine syncCqWait_keeps ?_ ?_
    | exact within_trans rfl hw
    | dsimp only
    | split
    | intro _

theorem execRingReset_keeps {w : List StateField} {a s : State} {fn : Fin 64} {ring : Fin 4} (h : Keeps w a s)
    (hw : within [.regs] w = true) :
    Answers w a (execRingReset fn ring s) := by
  unfold execRingReset
  repeat' first
    | with_reducible
        first
        | assumption | apply Answers.next | apply Answers.fault | apply Keeps.ite | apply Answers.ite
        | refine Keeps.foldl ?_ fun _ _ _ => ?_ | refine resetRingPtrs_keeps ?_ ?_
    | exact within_trans rfl hw
    | dsimp only
    | split
    | intro _

theorem writeRingCtl_keeps {w : List StateField} {a s : State} {k v : Nat} (h : Keeps w a s)
    (hw : within [.regs] w = true) :
    Keeps w a (writeRingCtl s k v) := by
  unfold writeRingCtl
  repeat' first
    | with_reducible
        first
        | assumption | apply Answers.next | apply Answers.fault | apply Keeps.ite | apply Answers.ite
        | refine Keeps.foldl ?_ fun _ _ _ => ?_ | refine rfieldSet_keeps ?_ ?_ | refine syncCqWait_keeps ?_ ?_
        | refine resetRingPtrs_keeps ?_ ?_
    | exact within_trans rfl hw
    | dsimp only
    | split
    | intro _

theorem execRingEnable_keeps {w : List StateField} {a s : State} {fn : Fin 64} {ring : Fin 4} {val : Word} (h : Keeps w a s)
    (hw : within [.regs] w = true) :
    Answers w a (execRingEnable fn ring val s) := by
  unfold execRingEnable
  repeat' first
    | with_reducible
        first
        | assumption | apply Answers.next | apply Answers.fault | apply Keeps.ite | apply Answers.ite
        | refine Keeps.foldl ?_ fun _ _ _ => ?_ | refine writeRingCtl_keeps ?_ ?_
    | exact within_trans rfl hw
    | dsimp only
    | split
    | intro _

theorem execRingDisable_keeps {w : List StateField} {a s : State} {fn : Fin 64} {ring : Fin 4} {val : Word} (h : Keeps w a s)
    (hw : within [.regs] w = true) :
    Answers w a (execRingDisable fn ring val s) := by
  unfold execRingDisable
  repeat' first
    | with_reducible
        first
        | assumption | apply Answers.next | apply Answers.fault | apply Keeps.ite | apply Answers.ite
        | refine Keeps.foldl ?_ fun _ _ _ => ?_ | refine writeRingCtl_keeps ?_ ?_
    | exact within_trans rfl hw
    | dsimp only
    | split
    | intro _

theorem execCommandFetch_keeps {w : List StateField} {a s : State} {own : Fin 65} {ring : Fin 4} {host : List Word} (h : Keeps w a s)
    (hw : within [.regs, .rings, .bdrk] w = true) :
    Answers w a (execCommandFetch own ring host s) := by
  unfold execCommandFetch
  repeat' first
    | with_reducible
        first
        | assumption | apply Answers.next | apply Answers.fault | apply Keeps.ite | apply Answers.ite
        | refine Keeps.foldl ?_ fun _ _ _ => ?_ | refine modRing_keeps ?_ ?_ | refine rfieldSet_keeps ?_ ?_
        | refine syncCqWait_keeps ?_ ?_
    | exact within_trans rfl hw
    | with_reducible refine keeps_mk ?_ ?_ ?_ ?_ ?_ ?_ ?_ ?_ ?_ ?_ ?_ ?_ ?_ ?_ ?_ ?_ ?_ ?_ ?_ ?_ ?_ ?_ ?_ ?_ ?_ ?_ ?_ ?_ ?_ ?_ ?_ ?_
    | with_reducible exact Or.inl rfl
    | exact Or.inr (within_trans rfl hw)
    | dsimp only
    | split
    | intro _

theorem execCqEntryWrite_keeps {w : List StateField} {a s : State} {own : Fin 65} {ring : Fin 4} (h : Keeps w a s)
    (hw : within [.regs, .mem, .rings, .talus, .srcs, .bdrk, .pins, .out] w = true) :
    Answers w a (execCqEntryWrite own ring s) := by
  unfold execCqEntryWrite
  repeat' first
    | with_reducible
        first
        | assumption | apply Answers.next | apply Answers.fault | apply Keeps.ite | apply Answers.ite
        | refine Keeps.foldl ?_ fun _ _ _ => ?_ | refine writeNext_keeps ?_ ?_
    | exact within_trans rfl hw
    | dsimp only
    | split
    | intro _

theorem execRingHoldExpiry_keeps {w : List StateField} {a s : State} {fn : Fin 64} {ring : Fin 4} (h : Keeps w a s)
    (hw : within [.regs, .rings, .srcs] w = true) :
    Answers w a (execRingHoldExpiry fn ring s) := by
  unfold execRingHoldExpiry
  repeat' first
    | with_reducible
        first
        | assumption | apply Answers.next | apply Answers.fault | apply Keeps.ite | apply Answers.ite
        | refine Keeps.foldl ?_ fun _ _ _ => ?_ | refine notify_keeps ?_ ?_
    | exact within_trans rfl hw
    | dsimp only
    | split
    | intro _

theorem execRingLinkErr_keeps {w : List StateField} {a s : State} {fn : Fin 64} {ring : Fin 4} {_read : Bool} (h : Keeps w a s)
    (hw : within [.regs] w = true) :
    Answers w a (execRingLinkErr fn ring _read s) := by
  unfold execRingLinkErr
  repeat' first
    | with_reducible
        first
        | assumption | apply Answers.next | apply Answers.fault | apply Keeps.ite | apply Answers.ite
        | refine Keeps.foldl ?_ fun _ _ _ => ?_ | refine rfieldSet_keeps ?_ ?_
    | exact within_trans rfl hw
    | dsimp only
    | split
    | intro _

end Sys2Proof.Machine
end

