-- ==== Sys2Proof/Laws/KeepsDmaOps.lean ====
section
/-! SUPPORT. What each operation of Machine/DmaOps.lean keeps. -/

set_option linter.all false

namespace Sys2Proof.Machine

theorem chSet_keeps {w : List StateField} {a s : State} {n : Nat} {r : Row} {v : Nat} (h : Keeps w a s)
    (hw : within [.regs] w = true) :
    Keeps w a (chSet s n r v) := by
  unfold chSet
  repeat' first
    | with_reducible
        first
        | assumption | apply Answers.next | apply Answers.fault | apply Keeps.ite | apply Answers.ite
        | refine Keeps.foldl ?_ fun _ _ _ => ?_ | refine fset_keeps ?_ ?_
    | exact within_trans rfl hw
    | dsimp only
    | split
    | intro _

theorem copyShadow_keeps {w : List StateField} {a s : State} {n : Nat} (h : Keeps w a s)
    (hw : within [.regs] w = true) :
    Keeps w a (copyShadow s n) := by
  unfold copyShadow
  repeat' first
    | with_reducible
        first
        | assumption | apply Answers.next | apply Answers.fault | apply Keeps.ite | apply Answers.ite
        | refine Keeps.foldl ?_ fun _ _ _ => ?_ | refine rset_keeps ?_ ?_
    | exact within_trans rfl hw
    | dsimp only
    | split
    | intro _

theorem syncChan_keeps {w : List StateField} {a s : State} {n : Nat} (h : Keeps w a s)
    (hw : within [.regs] w = true) :
    Keeps w a (syncChan s n) := by
  unfold syncChan
  repeat' first
    | with_reducible
        first
        | assumption | apply Answers.next | apply Answers.fault | apply Keeps.ite | apply Answers.ite
        | refine Keeps.foldl ?_ fun _ _ _ => ?_ | refine chSet_keeps ?_ ?_
    | exact within_trans rfl hw
    | dsimp only
    | split
    | intro _

theorem endXfer_keeps {w : List StateField} {a s : State} {n code : Nat} {x : Xfer} (h : Keeps w a s)
    (hw : within [.regs, .chans] w = true) :
    Keeps w a (endXfer s n code x) := by
  unfold endXfer
  repeat' first
    | with_reducible
        first
        | assumption | apply Answers.next | apply Answers.fault | apply Keeps.ite | apply Answers.ite
        | refine Keeps.foldl ?_ fun _ _ _ => ?_ | refine modChan_keeps ?_ ?_ | refine syncChan_keeps ?_ ?_
    | exact within_trans rfl hw
    | dsimp only
    | split
    | intro _

theorem promoteWith_keeps {w : List StateField} {a s : State} {n : Nat} {force : Option Nat} (h : Keeps w a s)
    (hw : within [.regs, .chans, .doms] w = true) :
    Keeps w a (promoteWith s n force) := by
  unfold promoteWith
  repeat' first
    | with_reducible
        first
        | assumption | apply Answers.next | apply Answers.fault | apply Keeps.ite | apply Answers.ite
        | refine Keeps.foldl ?_ fun _ _ _ => ?_ | refine modChan_keeps ?_ ?_ | refine requestWake_keeps ?_ ?_
        | refine chSet_keeps ?_ ?_ | refine copyShadow_keeps ?_ ?_ | refine syncChan_keeps ?_ ?_
        | refine endXfer_keeps ?_ ?_
    | exact within_trans rfl hw
    | dsimp only
    | split
    | intro _

theorem clearChan_keeps {w : List StateField} {a s : State} {n : Nat} (h : Keeps w a s)
    (hw : within [.regs, .chans] w = true) : Keeps w a (clearChan s n) :=
  by
  unfold clearChan
  exact keeps_mk (keeps_dropRegs h (within_trans rfl hw)) (.inl rfl) (.inl rfl) (.inl rfl) (.inl rfl) (.inl rfl) (.inl rfl) (.inl rfl) (.inl rfl) (.inl rfl) (.inl rfl) (.inl rfl) (.inl rfl) (.inr (within_trans rfl hw)) (.inl rfl) (.inl rfl) (.inl rfl) (.inl rfl) (.inl rfl) (.inl rfl) (.inl rfl) (.inl rfl) (.inl rfl) (.inl rfl) (.inl rfl) (.inl rfl) (.inl rfl) (.inl rfl) (.inl rfl) (.inl rfl) (.inl rfl) (.inl rfl)

theorem armChan_keeps {w : List StateField} {a s : State} {n : Nat} (h : Keeps w a s)
    (hw : within [.regs, .chans, .doms] w = true) :
    Keeps w a (armChan s n) := by
  unfold armChan
  repeat' first
    | with_reducible
        first
        | assumption | apply Answers.next | apply Answers.fault | apply Keeps.ite | apply Answers.ite
        | refine Keeps.foldl ?_ fun _ _ _ => ?_ | refine chSet_keeps ?_ ?_ | refine syncChan_keeps ?_ ?_
        | refine promoteWith_keeps ?_ ?_
    | exact within_trans rfl hw
    | dsimp only
    | split
    | intro _

theorem abortChan_keeps {w : List StateField} {a s : State} {n : Nat} (h : Keeps w a s)
    (hw : within [.regs, .chans, .doms] w = true) :
    Keeps w a (abortChan s n) := by
  unfold abortChan
  repeat' first
    | with_reducible
        first
        | assumption | apply Answers.next | apply Answers.fault | apply Keeps.ite | apply Answers.ite
        | refine Keeps.foldl ?_ fun _ _ _ => ?_ | refine endXfer_keeps ?_ ?_ | refine promoteWith_keeps ?_ ?_
    | exact within_trans rfl hw
    | dsimp only
    | split
    | intro _

theorem writeChCmd_keeps {w : List StateField} {a s : State} {n v : Nat} (h : Keeps w a s)
    (hw : within [.regs, .chans, .doms] w = true) :
    Keeps w a (writeChCmd s n v) := by
  unfold writeChCmd
  repeat' first
    | with_reducible
        first
        | assumption | apply Answers.next | apply Answers.fault | apply Keeps.ite | apply Answers.ite
        | refine Keeps.foldl ?_ fun _ _ _ => ?_ | refine armChan_keeps ?_ ?_ | refine abortChan_keeps ?_ ?_
    | exact within_trans rfl hw
    | dsimp only
    | split
    | intro _

theorem chanHostErr_keeps {w : List StateField} {a s : State} {n : Nat} (h : Keeps w a s)
    (hw : within [.regs, .chans, .doms] w = true) :
    Keeps w a (chanHostErr s n) := by
  unfold chanHostErr
  repeat' first
    | with_reducible
        first
        | assumption | apply Answers.next | apply Answers.fault | apply Keeps.ite | apply Answers.ite
        | refine Keeps.foldl ?_ fun _ _ _ => ?_ | refine endXfer_keeps ?_ ?_ | refine promoteWith_keeps ?_ ?_
    | exact within_trans rfl hw
    | dsimp only
    | split
    | intro _

theorem runBurst_keeps {w : List StateField} {a s : State} {n : Nat} {host : List Byte} {err : Option BurstErr} (h : Keeps w a s)
    (hw : within [.regs, .mem, .chans, .doms, .perf, .out] w = true) :
    Keeps w a (runBurst s n host err) := by
  unfold runBurst
  repeat' first
    | with_reducible
        first
        | assumption | apply Answers.next | apply Answers.fault | apply Keeps.ite | apply Answers.ite
        | refine Keeps.foldl ?_ fun _ _ _ => ?_ | refine countEv_keeps ?_ ?_ | refine modChan_keeps ?_ ?_
        | refine putBytes_keeps ?_ ?_ | refine endXfer_keeps ?_ ?_
    | exact within_trans rfl hw
    | dsimp only
    | split
    | intro _

theorem unwait_keeps {w : List StateField} {a s : State} {n : Nat} (h : Keeps w a s)
    (hw : within [.chans, .doms] w = true) :
    Keeps w a (unwait s n) := by
  unfold unwait
  repeat' first
    | with_reducible
        first
        | assumption | apply Answers.next | apply Answers.fault | apply Keeps.ite | apply Answers.ite
        | refine Keeps.foldl ?_ fun _ _ _ => ?_ | refine modChan_keeps ?_ ?_ | refine requestWake_keeps ?_ ?_
    | exact within_trans rfl hw
    | dsimp only
    | split
    | intro _

theorem writeStatus_keeps {w : List StateField} {a s : State} {n : Nat} {w' : StatWord} (h : Keeps w a s)
    (hw : within [.regs, .mem, .srcs, .out] w = true) :
    Keeps w a (writeStatus s n w') := by
  unfold writeStatus
  repeat' first
    | with_reducible
        first
        | assumption | apply Answers.next | apply Answers.fault | apply Keeps.ite | apply Answers.ite
        | refine Keeps.foldl ?_ fun _ _ _ => ?_ | refine fadd_keeps ?_ ?_ | refine setIrq_keeps ?_ ?_
        | refine putBytes_keeps ?_ ?_ | refine chSet_keeps ?_ ?_
    | exact within_trans rfl hw
    | dsimp only
    | split
    | intro _

theorem execChOwnerWrite_keeps {w : List StateField} {a s : State} {ch : Fin 64} {val : Word} (h : Keeps w a s)
    (hw : within [.regs, .srcs] w = true) :
    Answers w a (execChOwnerWrite ch val s) := by
  unfold execChOwnerWrite
  repeat' first
    | with_reducible
        first
        | assumption | apply Answers.next | apply Answers.fault | apply Keeps.ite | apply Answers.ite
        | refine Keeps.foldl ?_ fun _ _ _ => ?_ | refine fset_keeps ?_ ?_ | refine setIrq_keeps ?_ ?_
    | exact within_trans rfl hw
    | dsimp only
    | split
    | intro _

theorem execDmaArm_keeps {w : List StateField} {a s : State} {fn ch : Fin 64} (h : Keeps w a s)
    (hw : within [.regs, .chans, .doms] w = true) :
    Answers w a (execDmaArm fn ch s) := by
  unfold execDmaArm
  repeat' first
    | with_reducible
        first
        | assumption | apply Answers.next | apply Answers.fault | apply Keeps.ite | apply Answers.ite
        | refine Keeps.foldl ?_ fun _ _ _ => ?_ | refine armChan_keeps ?_ ?_
    | exact within_trans rfl hw
    | dsimp only
    | split
    | intro _

theorem execDmaAbort_keeps {w : List StateField} {a s : State} {fn ch : Fin 64} (h : Keeps w a s)
    (hw : within [.regs, .chans, .doms] w = true) :
    Answers w a (execDmaAbort fn ch s) := by
  unfold execDmaAbort
  repeat' first
    | with_reducible
        first
        | assumption | apply Answers.next | apply Answers.fault | apply Keeps.ite | apply Answers.ite
        | refine Keeps.foldl ?_ fun _ _ _ => ?_ | refine abortChan_keeps ?_ ?_
    | exact within_trans rfl hw
    | dsimp only
    | split
    | intro _

theorem execPromotion_keeps {w : List StateField} {a s : State} {ch : Fin 64} (h : Keeps w a s)
    (hw : within [.regs, .chans, .doms] w = true) :
    Answers w a (execPromotion ch s) := by
  unfold execPromotion
  repeat' first
    | with_reducible
        first
        | assumption | apply Answers.next | apply Answers.fault | apply Keeps.ite | apply Answers.ite
        | refine Keeps.foldl ?_ fun _ _ _ => ?_ | refine promoteWith_keeps ?_ ?_
    | exact within_trans rfl hw
    | dsimp only
    | split
    | intro _

theorem execDmaBurst_keeps {w : List StateField} {a s : State} {ch : Fin 64} {host : List Byte} {err : Option BurstErr} (h : Keeps w a s)
    (hw : within [.regs, .mem, .chans, .doms, .perf, .out] w = true) :
    Answers w a (execDmaBurst ch host err s) := by
  unfold execDmaBurst
  repeat' first
    | with_reducible
        first
        | assumption | apply Answers.next | apply Answers.fault | apply Keeps.ite | apply Answers.ite
        | refine Keeps.foldl ?_ fun _ _ _ => ?_ | refine runBurst_keeps ?_ ?_ | refine unwait_keeps ?_ ?_
    | exact within_trans rfl hw
    | dsimp only
    | split
    | intro _

theorem execDmaStatusWrite_keeps {w : List StateField} {a s : State} {ch : Fin 64} (h : Keeps w a s)
    (hw : within [.regs, .mem, .chans, .srcs, .doms, .out] w = true) :
    Answers w a (execDmaStatusWrite ch s) := by
  unfold execDmaStatusWrite
  repeat' first
    | with_reducible
        first
        | assumption | apply Answers.next | apply Answers.fault | apply Keeps.ite | apply Answers.ite
        | refine Keeps.foldl ?_ fun _ _ _ => ?_ | refine modChan_keeps ?_ ?_ | refine touchDomain_keeps ?_ ?_
        | refine syncChan_keeps ?_ ?_ | refine writeStatus_keeps ?_ ?_
    | exact within_trans rfl hw
    | dsimp only
    | split
    | intro _

end Sys2Proof.Machine
end

