-- ==== Sys2Proof/Laws/KeepsShale.lean ====
section
/-! SUPPORT. What each operation of Machine/Shale.lean keeps. -/

set_option linter.all false

namespace Sys2Proof.Machine

theorem syncQueues_keeps {w : List StateField} {a s : State} (h : Keeps w a s)
    (hw : within [.regs] w = true) :
    Keeps w a (syncQueues s) := by
  unfold syncQueues
  repeat' first
    | with_reducible
        first
        | assumption | apply Answers.next | apply Answers.fault | apply Keeps.ite | apply Answers.ite
        | refine Keeps.foldl ?_ fun _ _ _ => ?_ | refine fset_keeps ?_ ?_
    | exact within_trans rfl hw
    | dsimp only
    | split
    | intro _

theorem releaseD_keeps {w : List StateField} {a s : State} {num : Nat} (h : Keeps w a s)
    (hw : within [.store] w = true) :
    Keeps w a (releaseD s num) := by
  unfold releaseD
  repeat' first
    | with_reducible
        first
        | assumption | apply Answers.next | apply Answers.fault | apply Keeps.ite | apply Answers.ite
        | refine Keeps.foldl ?_ fun _ _ _ => ?_
    | exact within_trans rfl hw
    | with_reducible refine keeps_mk ?_ ?_ ?_ ?_ ?_ ?_ ?_ ?_ ?_ ?_ ?_ ?_ ?_ ?_ ?_ ?_ ?_ ?_ ?_ ?_ ?_ ?_ ?_ ?_ ?_ ?_ ?_ ?_ ?_ ?_ ?_ ?_
    | with_reducible exact Or.inl rfl
    | exact Or.inr (within_trans rfl hw)
    | dsimp only
    | split
    | intro _

theorem dropFrom_keeps {w : List StateField} {a s : State} {q num : Nat} (h : Keeps w a s)
    (hw : within [.regs, .queues, .store, .perf] w = true) :
    Keeps w a (dropFrom s q num) := by
  unfold dropFrom
  repeat' first
    | with_reducible
        first
        | assumption | apply Answers.next | apply Answers.fault | apply Keeps.ite | apply Answers.ite
        | refine Keeps.foldl ?_ fun _ _ _ => ?_ | refine fadd_keeps ?_ ?_ | refine countEv_keeps ?_ ?_
        | refine modQueue_keeps ?_ ?_ | refine releaseD_keeps ?_ ?_
    | exact within_trans rfl hw
    | dsimp only
    | split
    | intro _

theorem offerQueue_keeps {w : List StateField} {a s : State} {d : Dgram} {q : Nat} (h : Keeps w a s)
    (hw : within [.regs, .queues, .store, .perf] w = true) :
    Keeps w a (offerQueue s d q) := by
  unfold offerQueue
  extract_lets x u v
  refine Keeps.ite h ?_
  have k : Keeps w a v := by
    refine modQueue_keeps ?_ (within_trans rfl hw)
    unfold u
    split
    · exact Keeps.ite (dropFrom_keeps h (within_trans rfl hw)) h
    · exact h
  clear_value v
  refine keeps_mk k ?_ ?_ ?_ ?_ ?_ ?_ ?_ ?_ ?_ ?_ ?_ ?_ ?_ ?_ ?_ ?_ ?_ ?_ ?_ ?_ ?_ ?_ ?_ ?_ ?_ ?_ ?_ ?_ ?_ ?_ ?_
  all_goals first
    | with_reducible exact Or.inl rfl
    | exact Or.inr (within_trans rfl hw)

theorem storeD_keeps {w : List StateField} {a s : State} {d : Dgram} (h : Keeps w a s)
    (hw : within [.regs, .queues, .store, .perf] w = true) :
    Keeps w a (storeD s d) := by
  unfold storeD
  repeat' first
    | with_reducible
        first
        | assumption | apply Answers.next | apply Answers.fault | apply Keeps.ite | apply Answers.ite
        | refine Keeps.foldl ?_ fun _ _ _ => ?_ | refine offerQueue_keeps ?_ ?_
    | exact within_trans rfl hw
    | with_reducible refine keeps_mk ?_ ?_ ?_ ?_ ?_ ?_ ?_ ?_ ?_ ?_ ?_ ?_ ?_ ?_ ?_ ?_ ?_ ?_ ?_ ?_ ?_ ?_ ?_ ?_ ?_ ?_ ?_ ?_ ?_ ?_ ?_ ?_
    | with_reducible exact Or.inl rfl
    | exact Or.inr (within_trans rfl hw)
    | dsimp only
    | split
    | intro _

theorem storeUe_keeps {w : List StateField} {a s : State} {num : Nat} (h : Keeps w a s)
    (hw : within [.regs, .queues, .store, .perf] w = true) :
    Keeps w a (storeUe s num) := by
  unfold storeUe
  repeat' first
    | with_reducible
        first
        | assumption | apply Answers.next | apply Answers.fault | apply Keeps.ite | apply Answers.ite
        | refine Keeps.foldl ?_ fun _ _ _ => ?_ | refine fadd_keeps ?_ ?_ | refine dropFrom_keeps ?_ ?_
    | exact within_trans rfl hw
    | with_reducible refine keeps_mk ?_ ?_ ?_ ?_ ?_ ?_ ?_ ?_ ?_ ?_ ?_ ?_ ?_ ?_ ?_ ?_ ?_ ?_ ?_ ?_ ?_ ?_ ?_ ?_ ?_ ?_ ?_ ?_ ?_ ?_ ?_ ?_
    | with_reducible exact Or.inl rfl
    | exact Or.inr (within_trans rfl hw)
    | dsimp only
    | split
    | intro _

theorem flushQueue_keeps {w : List StateField} {a s : State} {q : Nat} (h : Keeps w a s)
    (hw : within [.queues, .store] w = true) :
    Keeps w a (flushQueue s q) := by
  unfold flushQueue
  repeat' first
    | with_reducible
        first
        | assumption | apply Answers.next | apply Answers.fault | apply Keeps.ite | apply Answers.ite
        | refine Keeps.foldl ?_ fun _ _ _ => ?_ | refine modQueue_keeps ?_ ?_ | refine releaseD_keeps ?_ ?_
    | exact within_trans rfl hw
    | dsimp only
    | split
    | intro _

theorem queueLost_keeps {w : List StateField} {a s : State} {q : Nat} (h : Keeps w a s)
    (hw : within [.regs, .srcs, .queues, .store, .perf] w = true) :
    Keeps w a (queueLost s q) := by
  unfold queueLost
  repeat' first
    | with_reducible
        first
        | assumption | apply Answers.next | apply Answers.fault | apply Keeps.ite | apply Answers.ite
        | refine Keeps.foldl ?_ fun _ _ _ => ?_ | refine fadd_keeps ?_ ?_ | refine countEv_keeps ?_ ?_
        | refine modQueue_keeps ?_ ?_ | refine setIrq_keeps ?_ ?_ | refine syncQueues_keeps ?_ ?_
        | refine flushQueue_keeps ?_ ?_
    | exact within_trans rfl hw
    | dsimp only
    | split
    | intro _

theorem ageDrops_keeps {w : List StateField} {a : State} {n : Nat} {s : State} {q : Nat} (h : Keeps w a s)
    (hw : within [.regs, .queues, .store, .perf] w = true) : Keeps w a (ageDrops n s q) := by
  induction n generalizing s with
  | zero => exact h
  | succ n ih =>
    unfold ageDrops
    split
    · exact h
    · split
      · exact h
      · split
        · exact ih (dropFrom_keeps h (within_trans rfl hw))
        · exact h

theorem syncGate_keeps {w : List StateField} {a s : State} {p : Nat} (h : Keeps w a s)
    (hw : within [.regs] w = true) :
    Keeps w a (syncGate s p) := by
  unfold syncGate
  repeat' first
    | with_reducible
        first
        | assumption | apply Answers.next | apply Answers.fault | apply Keeps.ite | apply Answers.ite
        | refine Keeps.foldl ?_ fun _ _ _ => ?_ | refine fset_keeps ?_ ?_
    | exact within_trans rfl hw
    | dsimp only
    | split
    | intro _

theorem sendFrame_keeps {w : List StateField} {a s : State} {p tc n q : Nat} (h : Keeps w a s)
    (hw : within [.free, .regs, .queues, .snodes, .pnodes, .store, .perf, .out] w = true) :
    Keeps w a (sendFrame s p tc n q) := by
  unfold sendFrame
  repeat' first
    | with_reducible
        first
        | assumption | apply Answers.next | apply Answers.fault | apply Keeps.ite | apply Answers.ite
        | refine Keeps.foldl ?_ fun _ _ _ => ?_ | refine fadd_keeps ?_ ?_ | refine countEv_keeps ?_ ?_
        | refine emit_keeps ?_ ?_ | refine modQueue_keeps ?_ ?_ | refine modSnode_keeps ?_ ?_
        | refine modPnode_keeps ?_ ?_ | refine useFrees_keeps ?_ ?_ | refine releaseD_keeps ?_ ?_
    | exact within_trans rfl hw
    | dsimp only
    | split
    | intro _

theorem winDone_keeps {w : List StateField} {a s : State} {r : Nat} (h : Keeps w a s)
    (hw : within [.regs] w = true) :
    Keeps w a (winDone s r) := by
  unfold winDone
  repeat' first
    | with_reducible
        first
        | assumption | apply Answers.next | apply Answers.fault | apply Keeps.ite | apply Answers.ite
        | refine Keeps.foldl ?_ fun _ _ _ => ?_ | refine fset_keeps ?_ ?_
    | exact within_trans rfl hw
    | dsimp only
    | split
    | intro _

theorem putWin_keeps {w : List StateField} {a s : State} {words : List Nat} (h : Keeps w a s)
    (hw : within [.regs] w = true) :
    Keeps w a (putWin s words) := by
  unfold putWin
  repeat' first
    | with_reducible
        first
        | assumption | apply Answers.next | apply Answers.fault | apply Keeps.ite | apply Answers.ite
        | refine Keeps.foldl ?_ fun _ _ _ => ?_ | refine rset_keeps ?_ ?_
    | exact within_trans rfl hw
    | dsimp only
    | split
    | intro _

theorem setQueueWords_keeps {w : List StateField} {a s : State} {q : Nat} {w' : List Word} (h : Keeps w a s)
    (hw : within [.queues] w = true) :
    Keeps w a (setQueueWords s q w') := by
  unfold setQueueWords
  repeat' first
    | with_reducible
        first
        | assumption | apply Answers.next | apply Answers.fault | apply Keeps.ite | apply Answers.ite
        | refine Keeps.foldl ?_ fun _ _ _ => ?_ | refine modQueue_keeps ?_ ?_
    | exact within_trans rfl hw
    | dsimp only
    | split
    | intro _

theorem winWriteQueue_keeps {w : List StateField} {a s : State} {q : Nat} (h : Keeps w a s)
    (hw : within [.regs, .queues] w = true) :
    Keeps w a (winWriteQueue s q) := by
  unfold winWriteQueue
  repeat' first
    | with_reducible
        first
        | assumption | apply Answers.next | apply Answers.fault | apply Keeps.ite | apply Answers.ite
        | refine Keeps.foldl ?_ fun _ _ _ => ?_ | refine winDone_keeps ?_ ?_ | refine setQueueWords_keeps ?_ ?_
    | exact within_trans rfl hw
    | dsimp only
    | split
    | intro _

theorem winWriteNode_keeps {w : List StateField} {a s : State} {n : Nat} (h : Keeps w a s)
    (hw : within [.regs, .snodes] w = true) :
    Keeps w a (winWriteNode s n) := by
  unfold winWriteNode
  repeat' first
    | with_reducible
        first
        | assumption | apply Answers.next | apply Answers.fault | apply Keeps.ite | apply Answers.ite
        | refine Keeps.foldl ?_ fun _ _ _ => ?_ | refine modSnode_keeps ?_ ?_ | refine winDone_keeps ?_ ?_
    | exact within_trans rfl hw
    | dsimp only
    | split
    | intro _

theorem execWinRead_keeps {w : List StateField} {a s : State} (h : Keeps w a s)
    (hw : within [.regs] w = true) :
    Answers w a (execWinRead s) := by
  unfold execWinRead
  repeat' first
    | with_reducible
        first
        | assumption | apply Answers.next | apply Answers.fault | apply Keeps.ite | apply Answers.ite
        | refine Keeps.foldl ?_ fun _ _ _ => ?_ | refine winDone_keeps ?_ ?_ | refine putWin_keeps ?_ ?_
    | exact within_trans rfl hw
    | dsimp only
    | split
    | intro _

theorem execWinWrite_keeps {w : List StateField} {a s : State} (h : Keeps w a s)
    (hw : within [.regs, .queues, .snodes] w = true) :
    Answers w a (execWinWrite s) := by
  unfold execWinWrite
  repeat' first
    | with_reducible
        first
        | assumption | apply Answers.next | apply Answers.fault | apply Keeps.ite | apply Answers.ite
        | refine Keeps.foldl ?_ fun _ _ _ => ?_ | refine winWriteQueue_keeps ?_ ?_ | refine winWriteNode_keeps ?_ ?_
    | exact within_trans rfl hw
    | dsimp only
    | split
    | intro _

theorem execQueueEnable_keeps {w : List StateField} {a s : State} (h : Keeps w a s)
    (hw : within [.regs, .queues] w = true) :
    Answers w a (execQueueEnable s) := by
  unfold execQueueEnable
  repeat' first
    | with_reducible
        first
        | assumption | apply Answers.next | apply Answers.fault | apply Keeps.ite | apply Answers.ite
        | refine Keeps.foldl ?_ fun _ _ _ => ?_ | refine modQueue_keeps ?_ ?_ | refine syncQueues_keeps ?_ ?_
        | refine winDone_keeps ?_ ?_
    | exact within_trans rfl hw
    | dsimp only
    | split
    | intro _

theorem execQueueDisable_keeps {w : List StateField} {a s : State} {flush : Bool} (h : Keeps w a s)
    (hw : within [.regs, .queues, .store] w = true) :
    Answers w a (execQueueDisable flush s) := by
  unfold execQueueDisable
  repeat' first
    | with_reducible
        first
        | assumption | apply Answers.next | apply Answers.fault | apply Keeps.ite | apply Answers.ite
        | refine Keeps.foldl ?_ fun _ _ _ => ?_ | refine modQueue_keeps ?_ ?_ | refine syncQueues_keeps ?_ ?_
        | refine flushQueue_keeps ?_ ?_ | refine winDone_keeps ?_ ?_
    | exact within_trans rfl hw
    | dsimp only
    | split
    | intro _

theorem execQueueAlloc_keeps {w : List StateField} {a s : State} (h : Keeps w a s)
    (hw : within [.regs, .queues] w = true) :
    Answers w a (execQueueAlloc s) := by
  unfold execQueueAlloc
  repeat' first
    | with_reducible
        first
        | assumption | apply Answers.next | apply Answers.fault | apply Keeps.ite | apply Answers.ite
        | refine Keeps.foldl ?_ fun _ _ _ => ?_ | refine fset_keeps ?_ ?_ | refine modQueue_keeps ?_ ?_
        | refine syncQueues_keeps ?_ ?_ | refine winDone_keeps ?_ ?_
    | exact within_trans rfl hw
    | dsimp only
    | split
    | intro _

theorem execQueueFree_keeps {w : List StateField} {a s : State} (h : Keeps w a s)
    (hw : within [.regs, .queues] w = true) :
    Answers w a (execQueueFree s) := by
  unfold execQueueFree
  repeat' first
    | with_reducible
        first
        | assumption | apply Answers.next | apply Answers.fault | apply Keeps.ite | apply Answers.ite
        | refine Keeps.foldl ?_ fun _ _ _ => ?_ | refine modQueue_keeps ?_ ?_ | refine syncQueues_keeps ?_ ?_
        | refine winDone_keeps ?_ ?_
    | exact within_trans rfl hw
    | dsimp only
    | split
    | intro _

theorem execQueueDrained_keeps {w : List StateField} {a s : State} {q : Fin 32768} (h : Keeps w a s)
    (hw : within [.regs, .queues] w = true) :
    Answers w a (execQueueDrained q s) := by
  unfold execQueueDrained
  repeat' first
    | with_reducible
        first
        | assumption | apply Answers.next | apply Answers.fault | apply Keeps.ite | apply Answers.ite
        | refine Keeps.foldl ?_ fun _ _ _ => ?_ | refine modQueue_keeps ?_ ?_ | refine syncQueues_keeps ?_ ?_
    | exact within_trans rfl hw
    | dsimp only
    | split
    | intro _

theorem execAgeDrop_keeps {w : List StateField} {a s : State} {q : Fin 32768} (h : Keeps w a s)
    (hw : within [.regs, .queues, .store, .perf] w = true) :
    Answers w a (execAgeDrop q s) := by
  unfold execAgeDrop
  repeat' first
    | with_reducible
        first
        | assumption | apply Answers.next | apply Answers.fault | apply Keeps.ite | apply Answers.ite
        | refine Keeps.foldl ?_ fun _ _ _ => ?_ | refine ageDrops_keeps ?_ ?_
    | exact within_trans rfl hw
    | dsimp only
    | split
    | intro _

theorem execRefillTick_keeps {w : List StateField} {a s : State} {node : Node} (h : Keeps w a s)
    (hw : within [.queues, .snodes, .pnodes] w = true) :
    Answers w a (execRefillTick node s) := by
  unfold execRefillTick
  repeat' first
    | with_reducible
        first
        | assumption | apply Answers.next | apply Answers.fault | apply Keeps.ite | apply Answers.ite
        | refine Keeps.foldl ?_ fun _ _ _ => ?_ | refine modQueue_keeps ?_ ?_ | refine modSnode_keeps ?_ ?_
        | refine modPnode_keeps ?_ ?_
    | exact within_trans rfl hw
    | dsimp only
    | split
    | intro _

theorem writeShaper_keeps {w : List StateField} {a s : State} {p i word v : Nat} (h : Keeps w a s)
    (hw : within [.regs, .pnodes] w = true) :
    Keeps w a (writeShaper s p i word v) := by
  unfold writeShaper
  repeat' first
    | with_reducible
        first
        | assumption | apply Answers.next | apply Answers.fault | apply Keeps.ite | apply Answers.ite
        | refine Keeps.foldl ?_ fun _ _ _ => ?_ | refine rset_keeps ?_ ?_ | refine fset_keeps ?_ ?_
        | refine modPnode_keeps ?_ ?_
    | exact within_trans rfl hw
    | dsimp only
    | split
    | intro _

theorem execShaperWrite_keeps {w : List StateField} {a s : State} {port : Fin 8} {shaper : Fin 9} {word : Fin 4} {val : Word} (h : Keeps w a s)
    (hw : within [.regs, .pnodes] w = true) :
    Answers w a (execShaperWrite port shaper word val s) := by
  unfold execShaperWrite
  repeat' first
    | with_reducible
        first
        | assumption | apply Answers.next | apply Answers.fault | apply Keeps.ite | apply Answers.ite
        | refine Keeps.foldl ?_ fun _ _ _ => ?_ | refine writeShaper_keeps ?_ ?_
    | exact within_trans rfl hw
    | dsimp only
    | split
    | intro _

theorem execPortFrameStart_keeps {w : List StateField} {a s : State} {port : Fin 8} (h : Keeps w a s)
    (hw : within [.free, .regs, .queues, .snodes, .pnodes, .store, .perf, .out] w = true) :
    Answers w a (execPortFrameStart port s) := by
  unfold execPortFrameStart
  repeat' first
    | with_reducible
        first
        | assumption | apply Answers.next | apply Answers.fault | apply Keeps.ite | apply Answers.ite
        | refine Keeps.foldl ?_ fun _ _ _ => ?_ | refine ageDrops_keeps ?_ ?_ | refine sendFrame_keeps ?_ ?_
    | exact within_trans rfl hw
    | dsimp only
    | split
    | intro _

theorem gateErr_keeps {w : List StateField} {a s : State} {p : Nat} (h : Keeps w a s)
    (hw : within [.regs, .srcs] w = true) :
    Keeps w a (gateErr s p) := by
  unfold gateErr
  repeat' first
    | with_reducible
        first
        | assumption | apply Answers.next | apply Answers.fault | apply Keeps.ite | apply Answers.ite
        | refine Keeps.foldl ?_ fun _ _ _ => ?_ | refine fset_keeps ?_ ?_ | refine setIrq_keeps ?_ ?_
    | exact within_trans rfl hw
    | dsimp only
    | split
    | intro _

theorem execGateCommit_keeps {w : List StateField} {a s : State} {port : Fin 8} (h : Keeps w a s)
    (hw : within [.regs, .srcs] w = true) :
    Answers w a (execGateCommit port s) := by
  unfold execGateCommit
  repeat' first
    | with_reducible
        first
        | assumption | apply Answers.next | apply Answers.fault | apply Keeps.ite | apply Answers.ite
        | refine Keeps.foldl ?_ fun _ _ _ => ?_ | refine fset_keeps ?_ ?_ | refine qset_keeps ?_ ?_
        | refine setIrq_keeps ?_ ?_ | refine gateErr_keeps ?_ ?_
    | exact within_trans rfl hw
    | dsimp only
    | split
    | intro _

theorem execGateCancel_keeps {w : List StateField} {a s : State} {port : Fin 8} (h : Keeps w a s)
    (hw : within [.regs] w = true) :
    Answers w a (execGateCancel port s) := by
  unfold execGateCancel
  repeat' first
    | with_reducible
        first
        | assumption | apply Answers.next | apply Answers.fault | apply Keeps.ite | apply Answers.ite
        | refine Keeps.foldl ?_ fun _ _ _ => ?_ | refine fset_keeps ?_ ?_
    | exact within_trans rfl hw
    | dsimp only
    | split
    | intro _

theorem execGateSwap_keeps {w : List StateField} {a s : State} {port : Fin 8} (h : Keeps w a s)
    (hw : within [.regs, .srcs, .pnodes] w = true) :
    Answers w a (execGateSwap port s) := by
  unfold execGateSwap
  repeat' first
    | with_reducible
        first
        | assumption | apply Answers.next | apply Answers.fault | apply Keeps.ite | apply Answers.ite
        | refine Keeps.foldl ?_ fun _ _ _ => ?_ | refine fset_keeps ?_ ?_ | refine modPnode_keeps ?_ ?_
        | refine setIrq_keeps ?_ ?_ | refine syncGate_keeps ?_ ?_
    | exact within_trans rfl hw
    | dsimp only
    | split
    | intro _

theorem execGateEntryChange_keeps {w : List StateField} {a s : State} {port : Fin 8} (h : Keeps w a s)
    (hw : within [.regs] w = true) :
    Answers w a (execGateEntryChange port s) := by
  unfold execGateEntryChange
  repeat' first
    | with_reducible
        first
        | assumption | apply Answers.next | apply Answers.fault | apply Keeps.ite | apply Answers.ite
        | refine Keeps.foldl ?_ fun _ _ _ => ?_ | refine syncGate_keeps ?_ ?_
    | exact within_trans rfl hw
    | dsimp only
    | split
    | intro _

theorem memClear_keeps {w : List StateField} {a s : State} {i n : Nat} (h : Keeps w a s)
    (hw : within [.mem] w = true) : Keeps w a (memClear s i n) :=
  keeps_dropMem h (within_trans rfl hw)

theorem takeSample_keeps {w : List StateField} {a s : State} {failed : List Nat} (h : Keeps w a s)
    (hw : within [.regs, .mem, .srcs, .doms, .queues] w = true) :
    Keeps w a (takeSample s failed) := by
  unfold takeSample
  repeat' first
    | with_reducible
        first
        | assumption | apply Answers.next | apply Answers.fault | apply Keeps.ite | apply Answers.ite
        | refine Keeps.foldl ?_ fun _ _ _ => ?_ | refine fset_keeps ?_ ?_ | refine fadd_keeps ?_ ?_
        | refine memWriteN_keeps ?_ ?_ | refine modQueue_keeps ?_ ?_ | refine setIrq_keeps ?_ ?_
        | refine touchDomain_keeps ?_ ?_ | refine memClear_keeps ?_ ?_
    | exact within_trans rfl hw
    | dsimp only
    | split
    | intro _

theorem execSampleTick_keeps {w : List StateField} {a s : State} {failed : List (Fin 32768)} (h : Keeps w a s)
    (hw : within [.regs, .mem, .srcs, .doms, .queues] w = true) :
    Answers w a (execSampleTick failed s) := by
  unfold execSampleTick
  repeat' first
    | with_reducible
        first
        | assumption | apply Answers.next | apply Answers.fault | apply Keeps.ite | apply Answers.ite
        | refine Keeps.foldl ?_ fun _ _ _ => ?_ | refine takeSample_keeps ?_ ?_
    | exact within_trans rfl hw
    | dsimp only
    | split
    | intro _

theorem execSampleSwap_keeps {w : List StateField} {a s : State} (h : Keeps w a s)
    (hw : within [.regs] w = true) :
    Answers w a (execSampleSwap s) := by
  unfold execSampleSwap
  repeat' first
    | with_reducible
        first
        | assumption | apply Answers.next | apply Answers.fault | apply Keeps.ite | apply Answers.ite
        | refine Keeps.foldl ?_ fun _ _ _ => ?_ | refine fset_keeps ?_ ?_
    | exact within_trans rfl hw
    | dsimp only
    | split
    | intro _

end Sys2Proof.Machine
end

