-- ==== Sys2Proof/Laws/KeepsBanks.lean ====
section
/-! SUPPORT. What each operation of Machine/Banks.lean keeps. -/

set_option linter.all false

namespace Sys2Proof.Machine

theorem unitRetired_keeps {w : List StateField} {a s : State} (h : Keeps w a s)
    (hw : within [.regs, .srcs] w = true) :
    Keeps w a (unitRetired s) := by
  unfold unitRetired
  repeat' first
    | with_reducible
        first
        | assumption | apply Answers.next | apply Answers.fault | apply Keeps.ite | apply Answers.ite
        | refine Keeps.foldl ?_ fun _ _ _ => ?_ | refine setIrq_keeps ?_ ?_
    | exact within_trans rfl hw
    | dsimp only
    | split
    | intro _

theorem unitAdmitted_keeps {w : List StateField} {a s : State} (h : Keeps w a s)
    (hw : within [.regs, .srcs] w = true) :
    Keeps w a (unitAdmitted s) := by
  unfold unitAdmitted
  repeat' first
    | with_reducible
        first
        | assumption | apply Answers.next | apply Answers.fault | apply Keeps.ite | apply Answers.ite
        | refine Keeps.foldl ?_ fun _ _ _ => ?_ | refine setIrq_keeps ?_ ?_
    | exact within_trans rfl hw
    | dsimp only
    | split
    | intro _

theorem noteUse_keeps {w : List StateField} {a s : State} {d : Nat} (h : Keeps w a s)
    (hw : within [.doms] w = true) :
    Keeps w a (noteUse s d) := by
  unfold noteUse
  repeat' first
    | with_reducible
        first
        | assumption | apply Answers.next | apply Answers.fault | apply Keeps.ite | apply Answers.ite
        | refine Keeps.foldl ?_ fun _ _ _ => ?_ | refine modDom_keeps ?_ ?_
    | exact within_trans rfl hw
    | dsimp only
    | split
    | intro _

theorem setJobs_keeps {w : List StateField} {a s : State} {b' : Nat} {j : List SegId} (h : Keeps w a s)
    (hw : within [.regs, .banks, .doms] w = true) :
    Keeps w a (setJobs s b' j) := by
  unfold setJobs
  repeat' first
    | with_reducible
        first
        | assumption | apply Answers.next | apply Answers.fault | apply Keeps.ite | apply Answers.ite
        | refine Keeps.foldl ?_ fun _ _ _ => ?_ | refine fset_keeps ?_ ?_ | refine modBank_keeps ?_ ?_
        | refine noteUse_keeps ?_ ?_
    | exact within_trans rfl hw
    | dsimp only
    | split
    | intro _

theorem noBankFallback_keeps {w : List StateField} {a s : State} (h : Keeps w a s)
    (hw : within [.ctxs] w = true) :
    Keeps w a (noBankFallback s) := by
  unfold noBankFallback
  repeat' first
    | with_reducible
        first
        | assumption | apply Answers.next | apply Answers.fault | apply Keeps.ite | apply Answers.ite
        | refine Keeps.foldl ?_ fun _ _ _ => ?_ | refine modCtx_keeps ?_ ?_
    | exact within_trans rfl hw
    | dsimp only
    | split
    | intro _

theorem syncBank_keeps {w : List StateField} {a s : State} {b' : Nat} (h : Keeps w a s)
    (hw : within [.regs] w = true) :
    Keeps w a (syncBank s b') := by
  unfold syncBank
  repeat' first
    | with_reducible
        first
        | assumption | apply Answers.next | apply Answers.fault | apply Keeps.ite | apply Answers.ite
        | refine Keeps.foldl ?_ fun _ _ _ => ?_ | refine fset_keeps ?_ ?_ | refine fsetb_keeps ?_ ?_
    | exact within_trans rfl hw
    | dsimp only
    | split
    | intro _

theorem setBank_keeps {w : List StateField} {a s : State} {b' st code : Nat} (h : Keeps w a s)
    (hw : within [.regs, .ctxs, .srcs] w = true) :
    Keeps w a (setBank s b' st code) := by
  unfold setBank
  repeat' first
    | with_reducible
        first
        | assumption | apply Answers.next | apply Answers.fault | apply Keeps.ite | apply Answers.ite
        | refine Keeps.foldl ?_ fun _ _ _ => ?_ | refine fset_keeps ?_ ?_ | refine fsetb_keeps ?_ ?_
        | refine setIrq_keeps ?_ ?_ | refine unitRetired_keeps ?_ ?_ | refine unitAdmitted_keeps ?_ ?_
        | refine noBankFallback_keeps ?_ ?_ | refine syncBank_keeps ?_ ?_
    | exact within_trans rfl hw
    | dsimp only
    | split
    | intro _

theorem bankDrained_keeps {w : List StateField} {a s : State} {b' : Nat} (h : Keeps w a s)
    (hw : within [.regs, .ctxs, .banks, .srcs, .doms] w = true) :
    Keeps w a (bankDrained s b') := by
  unfold bankDrained
  repeat' first
    | with_reducible
        first
        | assumption | apply Answers.next | apply Answers.fault | apply Keeps.ite | apply Answers.ite
        | refine Keeps.foldl ?_ fun _ _ _ => ?_ | refine fset_keeps ?_ ?_ | refine modBank_keeps ?_ ?_
        | refine requestWake_keeps ?_ ?_ | refine setBank_keeps ?_ ?_
    | exact within_trans rfl hw
    | dsimp only
    | split
    | intro _

theorem drainBank_keeps {w : List StateField} {a s : State} {b' : Nat} {cal : Bool} (h : Keeps w a s)
    (hw : within [.regs, .ctxs, .banks, .srcs, .doms] w = true) :
    Keeps w a (drainBank s b' cal) := by
  unfold drainBank
  repeat' first
    | with_reducible
        first
        | assumption | apply Answers.next | apply Answers.fault | apply Keeps.ite | apply Answers.ite
        | refine Keeps.foldl ?_ fun _ _ _ => ?_ | refine modBank_keeps ?_ ?_ | refine setBank_keeps ?_ ?_
        | refine bankDrained_keeps ?_ ?_
    | exact within_trans rfl hw
    | dsimp only
    | split
    | intro _

theorem requestCal_keeps {w : List StateField} {a s : State} {b' : Nat} (h : Keeps w a s)
    (hw : within [.regs, .ctxs, .banks, .srcs, .doms] w = true) :
    Keeps w a (requestCal s b') := by
  unfold requestCal
  repeat' first
    | with_reducible
        first
        | assumption | apply Answers.next | apply Answers.fault | apply Keeps.ite | apply Answers.ite
        | refine Keeps.foldl ?_ fun _ _ _ => ?_ | refine modBank_keeps ?_ ?_ | refine drainBank_keeps ?_ ?_
    | exact within_trans rfl hw
    | dsimp only
    | split
    | intro _

theorem retireBank_keeps {w : List StateField} {a s : State} {b' : Nat} (h : Keeps w a s)
    (hw : within [.regs, .ctxs, .banks, .srcs, .doms] w = true) :
    Keeps w a (retireBank s b') := by
  unfold retireBank
  repeat' first
    | with_reducible
        first
        | assumption | apply Answers.next | apply Answers.fault | apply Keeps.ite | apply Answers.ite
        | refine Keeps.foldl ?_ fun _ _ _ => ?_ | refine drainBank_keeps ?_ ?_
    | exact within_trans rfl hw
    | dsimp only
    | split
    | intro _

theorem admitBank_keeps {w : List StateField} {a s : State} {b' : Nat} (h : Keeps w a s)
    (hw : within [.regs, .ctxs, .srcs, .doms] w = true) :
    Keeps w a (admitBank s b') := by
  unfold admitBank
  repeat' first
    | with_reducible
        first
        | assumption | apply Answers.next | apply Answers.fault | apply Keeps.ite | apply Answers.ite
        | refine Keeps.foldl ?_ fun _ _ _ => ?_ | refine requestWake_keeps ?_ ?_ | refine setBank_keeps ?_ ?_
    | exact within_trans rfl hw
    | dsimp only
    | split
    | intro _

theorem checkTiles_keeps {w : List StateField} {a s : State} {b' : Nat} (h : Keeps w a s)
    (hw : within [.regs, .ctxs, .banks, .srcs, .doms] w = true) :
    Keeps w a (checkTiles s b') := by
  unfold checkTiles
  repeat' first
    | with_reducible
        first
        | assumption | apply Answers.next | apply Answers.fault | apply Keeps.ite | apply Answers.ite
        | refine Keeps.foldl ?_ fun _ _ _ => ?_ | refine fsetb_keeps ?_ ?_ | refine modBank_keeps ?_ ?_
        | refine unitRetired_keeps ?_ ?_ | refine noBankFallback_keeps ?_ ?_ | refine syncBank_keeps ?_ ?_
        | refine drainBank_keeps ?_ ?_
    | exact within_trans rfl hw
    | dsimp only
    | split
    | intro _

theorem takeJobs_keeps {w : List StateField} {a s : State} {b' : Nat} {keep : List SegId} (h : Keeps w a s)
    (hw : within [.regs, .ctxs, .banks, .srcs, .doms] w = true) :
    Keeps w a (takeJobs s b' keep) := by
  unfold takeJobs
  repeat' first
    | with_reducible
        first
        | assumption | apply Answers.next | apply Answers.fault | apply Keeps.ite | apply Answers.ite
        | refine Keeps.foldl ?_ fun _ _ _ => ?_ | refine setJobs_keeps ?_ ?_ | refine bankDrained_keeps ?_ ?_
    | exact within_trans rfl hw
    | dsimp only
    | split
    | intro _

theorem giveUnit_keeps {w : List StateField} {a s t : State} {k : Nat} (e : giveUnit s k = some t) (h : Keeps w a s)
    (hw : within [.regs, .banks, .perf] w = true) : Keeps w a t := by
  unfold giveUnit at e
  dsimp only at e
  split at e
  · split at e
    · cases e
    · cases e; exact countEv_keeps (countEv_keeps (qset_keeps (modBank_keeps h (within_trans rfl hw)) (within_trans rfl hw)) (within_trans rfl hw)) (within_trans rfl hw)
  · cases e

theorem giveUnits_keeps {w : List StateField} {a s : State} {k n : Nat} (h : Keeps w a s)
    (hw : within [.regs, .banks, .perf] w = true) : Keeps w a (giveUnits k n s) := by
  induction n generalizing s with
  | zero => exact h
  | succ n ih =>
    unfold giveUnits
    split
    · exact ih (giveUnit_keeps ‹_› h (within_trans rfl hw))
    · exact h

theorem bankTick_keeps {w : List StateField} {a s : State} {b' : Nat} (h : Keeps w a s)
    (hw : within [.regs, .banks, .perf] w = true) :
    Keeps w a (bankTick s b') := by
  unfold bankTick
  repeat' first
    | with_reducible
        first
        | assumption | apply Answers.next | apply Answers.fault | apply Keeps.ite | apply Answers.ite
        | refine Keeps.foldl ?_ fun _ _ _ => ?_ | refine giveUnits_keeps ?_ ?_
    | exact within_trans rfl hw
    | dsimp only
    | split
    | intro _

end Sys2Proof.Machine
end

