-- ==== Sys2Proof/Laws/KeepsSettings.lean ====
section
/-! SUPPORT. What each operation of Machine/Settings.lean keeps. -/

set_option linter.all false

namespace Sys2Proof.Machine

theorem setActive_keeps {w : List StateField} {a s : State} {c : Nat} {t : Tbl Word} (h : Keeps w a s)
    (hw : within [.regs] w = true) :
    Keeps w a (setActive s c t) := by
  unfold setActive
  repeat' first
    | with_reducible
        first
        | assumption | apply Answers.next | apply Answers.fault | apply Keeps.ite | apply Answers.ite
        | refine Keeps.foldl ?_ fun _ _ _ => ?_ | refine rset_keeps ?_ ?_
    | exact within_trans rfl hw
    | dsimp only
    | split
    | intro _

theorem reserve_keeps {w : List StateField} {a s t : State} {owner kind n : Nat} {g : Get} {x : List Nat}
    (e : reserve s owner kind g = some (x, n, t)) (h : Keeps w a s) (hw : within [.regs, .talus, .srcs, .perf] w = true) :
    Keeps w a t := by
  unfold reserve at e
  obtain ⟨⟨y, u⟩, k, r⟩ := Option.map_eq_some_iff.mp e
  cases r
  exact allocParts_keeps k h (within_trans rfl hw)

end Sys2Proof.Machine
end

