-- ==== Sys2Proof/Laws/KeepsSlots.lean ====
section
/-! SUPPORT. What each operation of Machine/Slots.lean keeps. -/

set_option linter.all false

namespace Sys2Proof.Machine

theorem uncount_keeps {w : List StateField} {a s : State} {i n : Nat} (h : Keeps w a s)
    (hw : within [.perf] w = true) :
    Keeps w a (uncount s i n) := by
  unfold uncount
  repeat' first
    | with_reducible
        first
        | assumption | apply Answers.next | apply Answers.fault | apply Keeps.ite | apply Answers.ite
        | refine Keeps.foldl ?_ fun _ _ _ => ?_ | refine countEv_keeps ?_ ?_
    | exact within_trans rfl hw
    | dsimp only
    | split
    | intro _

theorem passSlots_keeps {w : List StateField} {a s : State} {page j n : Nat} (h : Keeps w a s)
    (hw : within [.perf] w = true) :
    Keeps w a (passSlots s page j n) := by
  unfold passSlots
  repeat' first
    | with_reducible
        first
        | assumption | apply Answers.next | apply Answers.fault | apply Keeps.ite | apply Answers.ite
        | refine Keeps.foldl ?_ fun _ _ _ => ?_ | refine countEv_keeps ?_ ?_
    | exact within_trans rfl hw
    | dsimp only
    | split
    | intro _

theorem workSlots_keeps {w : List StateField} {a s : State} {page n : Nat} {j : Job} (h : Keeps w a s)
    (hw : within [.perf] w = true) :
    Keeps w a (workSlots s page n j) := by
  unfold workSlots
  repeat' first
    | with_reducible
        first
        | assumption | apply Answers.next | apply Answers.fault | apply Keeps.ite | apply Answers.ite
        | refine Keeps.foldl ?_ fun _ _ _ => ?_ | refine passSlots_keeps ?_ ?_
    | exact within_trans rfl hw
    | with_reducible refine keeps_mk ?_ ?_ ?_ ?_ ?_ ?_ ?_ ?_ ?_ ?_ ?_ ?_ ?_ ?_ ?_ ?_ ?_ ?_ ?_ ?_ ?_ ?_ ?_ ?_ ?_ ?_ ?_ ?_ ?_ ?_ ?_ ?_
    | with_reducible exact Or.inl rfl
    | exact Or.inr (within_trans rfl hw)
    | dsimp only
    | split
    | intro _

theorem accrue_keeps {w : List StateField} {a s : State} {page : Nat} (h : Keeps w a s)
    (hw : within [.free, .perf] w = true) :
    Keeps w a (accrue s page) := by
  unfold accrue
  repeat' first
    | with_reducible
        first
        | assumption | apply Answers.next | apply Answers.fault | apply Keeps.ite | apply Answers.ite
        | refine Keeps.foldl ?_ fun _ _ _ => ?_ | refine useFrees_keeps ?_ ?_ | refine workSlots_keeps ?_ ?_
    | exact within_trans rfl hw
    | dsimp only
    | split
    | intro _

theorem settleWork_keeps {w : List StateField} {a s : State} {good : Bool} {e : Nat × Job × Nat} (h : Keeps w a s)
    (hw : within [.perf] w = true) :
    Keeps w a (settleWork good s e) := by
  unfold settleWork
  repeat' first
    | with_reducible
        first
        | assumption | apply Answers.next | apply Answers.fault | apply Keeps.ite | apply Answers.ite
        | refine Keeps.foldl ?_ fun _ _ _ => ?_ | refine countEv_keeps ?_ ?_ | refine uncount_keeps ?_ ?_
    | exact within_trans rfl hw
    | dsimp only
    | split
    | intro _

theorem settleItems_keeps {w : List StateField} {a s : State} {p : Job → Bool} {good : Bool} (h : Keeps w a s)
    (hw : within [.perf] w = true) :
    Keeps w a (settleItems s p good) := by
  unfold settleItems
  repeat' first
    | with_reducible
        first
        | assumption | apply Answers.next | apply Answers.fault | apply Keeps.ite | apply Answers.ite
        | refine Keeps.foldl ?_ fun _ _ _ => ?_ | refine settleWork_keeps ?_ ?_
    | exact within_trans rfl hw
    | with_reducible refine keeps_mk ?_ ?_ ?_ ?_ ?_ ?_ ?_ ?_ ?_ ?_ ?_ ?_ ?_ ?_ ?_ ?_ ?_ ?_ ?_ ?_ ?_ ?_ ?_ ?_ ?_ ?_ ?_ ?_ ?_ ?_ ?_ ?_
    | with_reducible exact Or.inl rfl
    | exact Or.inr (within_trans rfl hw)
    | dsimp only
    | split
    | intro _

theorem settleItem_keeps {w : List StateField} {a s : State} {j : Job} {good : Bool} (h : Keeps w a s)
    (hw : within [.perf] w = true) :
    Keeps w a (settleItem s j good) := by
  unfold settleItem
  repeat' first
    | with_reducible
        first
        | assumption | apply Answers.next | apply Answers.fault | apply Keeps.ite | apply Answers.ite
        | refine Keeps.foldl ?_ fun _ _ _ => ?_ | refine settleItems_keeps ?_ ?_
    | exact within_trans rfl hw
    | dsimp only
    | split
    | intro _

theorem wasteSlots_keeps {w : List StateField} {a s : State} {page : Nat} (h : Keeps w a s)
    (hw : within [.free, .perf] w = true) :
    Keeps w a (wasteSlots s page) := by
  unfold wasteSlots
  repeat' first
    | with_reducible
        first
        | assumption | apply Answers.next | apply Answers.fault | apply Keeps.ite | apply Answers.ite
        | refine Keeps.foldl ?_ fun _ _ _ => ?_ | refine useFree_keeps ?_ ?_ | refine passSlots_keeps ?_ ?_
    | exact within_trans rfl hw
    | dsimp only
    | split
    | intro _

theorem observeOne_keeps {w : List StateField} {a s : State} {page : Nat} (h : Keeps w a s)
    (hw : within [.free, .perf] w = true) :
    Keeps w a (observeOne s page) := by
  unfold observeOne
  repeat' first
    | with_reducible
        first
        | assumption | apply Answers.next | apply Answers.fault | apply Keeps.ite | apply Answers.ite
        | refine Keeps.foldl ?_ fun _ _ _ => ?_ | refine useFrees_keeps ?_ ?_ | refine passSlots_keeps ?_ ?_
        | refine accrue_keeps ?_ ?_
    | exact within_trans rfl hw
    | dsimp only
    | split
    | intro _

theorem observeSlots_keeps {w : List StateField} {a s : State} (h : Keeps w a s)
    (hw : within [.free, .perf] w = true) :
    Keeps w a (observeSlots s) := by
  unfold observeSlots
  repeat' first
    | with_reducible
        first
        | assumption | apply Answers.next | apply Answers.fault | apply Keeps.ite | apply Answers.ite
        | refine Keeps.foldl ?_ fun _ _ _ => ?_ | refine observeOne_keeps ?_ ?_
    | exact within_trans rfl hw
    | with_reducible refine keeps_mk ?_ ?_ ?_ ?_ ?_ ?_ ?_ ?_ ?_ ?_ ?_ ?_ ?_ ?_ ?_ ?_ ?_ ?_ ?_ ?_ ?_ ?_ ?_ ?_ ?_ ?_ ?_ ?_ ?_ ?_ ?_ ?_
    | with_reducible exact Or.inl rfl
    | exact Or.inr (within_trans rfl hw)
    | dsimp only
    | split
    | intro _

end Sys2Proof.Machine
end

