-- ==== Sys2Proof/Laws/KeepsCtxOps.lean ====
section
/-! SUPPORT. What each operation of Machine/CtxOps.lean keeps. -/

set_option linter.all false

namespace Sys2Proof.Machine

theorem setCtxState_keeps {w : List StateField} {a s : State} {c v : Nat} (h : Keeps w a s)
    (hw : within [.regs] w = true) :
    Keeps w a (setCtxState s c v) := by
  unfold setCtxState
  repeat' first
    | with_reducible
        first
        | assumption | apply Answers.next | apply Answers.fault | apply Keeps.ite | apply Answers.ite
        | refine Keeps.foldl ?_ fun _ _ _ => ?_ | refine fset_keeps ?_ ?_
    | exact within_trans rfl hw
    | dsimp only
    | split
    | intro _

theorem syncFallback_keeps {w : List StateField} {a s : State} {page : Nat} {fb : Bool} (h : Keeps w a s)
    (hw : within [.regs, .srcs] w = true) :
    Keeps w a (syncFallback s page fb) := by
  unfold syncFallback
  repeat' first
    | with_reducible
        first
        | assumption | apply Answers.next | apply Answers.fault | apply Keeps.ite | apply Answers.ite
        | refine Keeps.foldl ?_ fun _ _ _ => ?_ | refine fsetb_keeps ?_ ?_ | refine setIrq_keeps ?_ ?_
    | exact within_trans rfl hw
    | dsimp only
    | split
    | intro _

theorem syncUnit_keeps {w : List StateField} {a s : State} {page : Nat} (h : Keeps w a s)
    (hw : within [.regs, .srcs] w = true) :
    Keeps w a (syncUnit s page) := by
  unfold syncUnit
  repeat' first
    | with_reducible
        first
        | assumption | apply Answers.next | apply Answers.fault | apply Keeps.ite | apply Answers.ite
        | refine Keeps.foldl ?_ fun _ _ _ => ?_ | refine fset_keeps ?_ ?_ | refine fsetb_keeps ?_ ?_
        | refine syncFallback_keeps ?_ ?_
    | exact within_trans rfl hw
    | dsimp only
    | split
    | intro _

theorem setHeld_keeps {w : List StateField} {a s : State} {page : Nat} {h' : List Held} (h : Keeps w a s)
    (hw : within [.regs, .engines, .srcs, .doms] w = true) :
    Keeps w a (setHeld s page h') := by
  unfold setHeld
  repeat' first
    | with_reducible
        first
        | assumption | apply Answers.next | apply Answers.fault | apply Keeps.ite | apply Answers.ite
        | refine Keeps.foldl ?_ fun _ _ _ => ?_ | refine modEng_keeps ?_ ?_ | refine noteUse_keeps ?_ ?_
        | refine syncUnit_keeps ?_ ?_
    | exact within_trans rfl hw
    | dsimp only
    | split
    | intro _

theorem retiredOn_keeps {w : List StateField} {a s : State} {c page : Nat} (h : Keeps w a s)
    (hw : within [.ctxs] w = true) :
    Keeps w a (retiredOn s c page) := by
  unfold retiredOn
  repeat' first
    | with_reducible
        first
        | assumption | apply Answers.next | apply Answers.fault | apply Keeps.ite | apply Answers.ite
        | refine Keeps.foldl ?_ fun _ _ _ => ?_ | refine modCtx_keeps ?_ ?_
    | exact within_trans rfl hw
    | dsimp only
    | split
    | intro _

theorem accrueOn_keeps {w : List StateField} {a s : State} {page : Nat} (h : Keeps w a s)
    (hw : within [.free, .perf] w = true) :
    Keeps w a (accrueOn s page) := by
  unfold accrueOn
  repeat' first
    | with_reducible
        first
        | assumption | apply Answers.next | apply Answers.fault | apply Keeps.ite | apply Answers.ite
        | refine Keeps.foldl ?_ fun _ _ _ => ?_ | refine accrue_keeps ?_ ?_
    | exact within_trans rfl hw
    | dsimp only
    | split
    | intro _

theorem dropJobs_keeps {w : List StateField} {a s : State} {c : Nat} (h : Keeps w a s)
    (hw : within [.free, .regs, .ctxs, .engines, .banks, .srcs, .doms, .perf] w = true) :
    Keeps w a (dropJobs s c) := by
  unfold dropJobs
  repeat' first
    | with_reducible
        first
        | assumption | apply Answers.next | apply Answers.fault | apply Keeps.ite | apply Answers.ite
        | refine Keeps.foldl ?_ fun _ _ _ => ?_ | refine takeJobs_keeps ?_ ?_ | refine settleItems_keeps ?_ ?_
        | refine setHeld_keeps ?_ ?_ | refine accrueOn_keeps ?_ ?_
    | exact within_trans rfl hw
    | dsimp only
    | split
    | intro _

theorem pumpParts_keeps {w : List StateField} {a s : State} {c : Nat} {l : List OutPart} (h : Keeps w a s)
    (hw : within [.regs, .mem, .rings, .ctxs, .talus, .srcs, .perf] w = true) : Keeps w a (pumpParts s c l) := by
  induction l generalizing s with
  | nil => exact fset_keeps (modCtx_keeps h (within_trans rfl hw)) (within_trans rfl hw)
  | cons p ps ih =>
    unfold pumpParts
    dsimp only
    refine Keeps.ite (Keeps.ite ?_ (setIrq_keeps (fset_keeps ?_ (within_trans rfl hw)) (within_trans rfl hw))) (ih (postEntry_keeps (memWriteN_keeps ?_ (within_trans rfl hw)) (within_trans rfl hw)))
    · exact modCtx_keeps (talusAlloc_keeps h (within_trans rfl hw)) (within_trans rfl hw)
    · exact modCtx_keeps (talusAlloc_keeps h (within_trans rfl hw)) (within_trans rfl hw)
    · exact talusAlloc_keeps h (within_trans rfl hw)

theorem pumpOut_keeps {w : List StateField} {a s : State} {c : Nat} (h : Keeps w a s)
    (hw : within [.regs, .mem, .rings, .ctxs, .talus, .srcs, .perf] w = true) :
    Keeps w a (pumpOut s c) := by
  unfold pumpOut
  repeat' first
    | with_reducible
        first
        | assumption | apply Answers.next | apply Answers.fault | apply Keeps.ite | apply Answers.ite
        | refine Keeps.foldl ?_ fun _ _ _ => ?_ | refine pumpParts_keeps ?_ ?_
    | exact within_trans rfl hw
    | dsimp only
    | split
    | intro _

theorem putParts_keeps {w : List StateField} {a s : State} {c : Nat} {ps : List OutPart} (h : Keeps w a s)
    (hw : within [.regs, .mem, .rings, .ctxs, .talus, .srcs, .perf] w = true) :
    Keeps w a (putParts s c ps) := by
  unfold putParts
  repeat' first
    | with_reducible
        first
        | assumption | apply Answers.next | apply Answers.fault | apply Keeps.ite | apply Answers.ite
        | refine Keeps.foldl ?_ fun _ _ _ => ?_ | refine modCtx_keeps ?_ ?_ | refine pumpOut_keeps ?_ ?_
    | exact within_trans rfl hw
    | dsimp only
    | split
    | intro _

theorem retryOutputs_keeps {w : List StateField} {a s : State} (h : Keeps w a s)
    (hw : within [.regs, .mem, .rings, .ctxs, .talus, .srcs, .perf] w = true) :
    Keeps w a (retryOutputs s) := by
  unfold retryOutputs
  repeat' first
    | with_reducible
        first
        | assumption | apply Answers.next | apply Answers.fault | apply Keeps.ite | apply Answers.ite
        | refine Keeps.foldl ?_ fun _ _ _ => ?_ | refine pumpOut_keeps ?_ ?_
    | exact within_trans rfl hw
    | dsimp only
    | split
    | intro _

theorem countStatus_keeps {w : List StateField} {a s : State} {c status : Nat} (h : Keeps w a s)
    (hw : within [.regs] w = true) :
    Keeps w a (countStatus s c status) := by
  unfold countStatus
  repeat' first
    | with_reducible
        first
        | assumption | apply Answers.next | apply Answers.fault | apply Keeps.ite | apply Answers.ite
        | refine Keeps.foldl ?_ fun _ _ _ => ?_ | refine fadd_keeps ?_ ?_
    | exact within_trans rfl hw
    | dsimp only
    | split
    | intro _

theorem refDone_keeps {w : List StateField} {a s : State} {c : Nat} {ref : CmdRef} {status i0 i1 i2 : Nat} {after : Option Turn} (h : Keeps w a s)
    (hw : within [.regs, .rings] w = true) :
    Keeps w a (refDone s c ref status i0 i1 i2 after) := by
  unfold refDone
  repeat' first
    | with_reducible
        first
        | assumption | apply Answers.next | apply Answers.fault | apply Keeps.ite | apply Answers.ite
        | refine Keeps.foldl ?_ fun _ _ _ => ?_ | refine cmdDone_keeps ?_ ?_ | refine countStatus_keeps ?_ ?_
    | exact within_trans rfl hw
    | dsimp only
    | split
    | intro _

theorem flushSubmits_keeps {w : List StateField} {a s : State} {c : Nat} (h : Keeps w a s)
    (hw : within [.regs, .rings, .ctxs] w = true) :
    Keeps w a (flushSubmits s c) := by
  unfold flushSubmits
  repeat' first
    | with_reducible
        first
        | assumption | apply Answers.next | apply Answers.fault | apply Keeps.ite | apply Answers.ite
        | refine Keeps.foldl ?_ fun _ _ _ => ?_ | refine modCtx_keeps ?_ ?_ | refine refDone_keeps ?_ ?_
    | exact within_trans rfl hw
    | dsimp only
    | split
    | intro _

theorem submitDone_keeps {w : List StateField} {a s : State} {c num status i0 i1 i2 : Nat} {out : Option Nat} (h : Keeps w a s)
    (hw : within [.regs, .rings, .ctxs] w = true) :
    Keeps w a (submitDone s c num status i0 i1 i2 out) := by
  unfold submitDone
  repeat' first
    | with_reducible
        first
        | assumption | apply Answers.next | apply Answers.fault | apply Keeps.ite | apply Answers.ite
        | refine Keeps.foldl ?_ fun _ _ _ => ?_ | refine modCtx_keeps ?_ ?_ | refine flushSubmits_keeps ?_ ?_
    | exact within_trans rfl hw
    | dsimp only
    | split
    | intro _

theorem failSubmits_keeps {w : List StateField} {a s : State} {c status : Nat} (h : Keeps w a s)
    (hw : within [.regs, .rings, .ctxs] w = true) :
    Keeps w a (failSubmits s c status) := by
  unfold failSubmits
  repeat' first
    | with_reducible
        first
        | assumption | apply Answers.next | apply Answers.fault | apply Keeps.ite | apply Answers.ite
        | refine Keeps.foldl ?_ fun _ _ _ => ?_ | refine modCtx_keeps ?_ ?_ | refine flushSubmits_keeps ?_ ?_
    | exact within_trans rfl hw
    | dsimp only
    | split
    | intro _

theorem modSubmit_keeps {w : List StateField} {a s : State} {c n : Nat} {f : Submit → Submit} (h : Keeps w a s)
    (hw : within [.ctxs] w = true) :
    Keeps w a (modSubmit s c n f) := by
  unfold modSubmit
  repeat' first
    | with_reducible
        first
        | assumption | apply Answers.next | apply Answers.fault | apply Keeps.ite | apply Answers.ite
        | refine Keeps.foldl ?_ fun _ _ _ => ?_ | refine modCtx_keeps ?_ ?_
    | exact within_trans rfl hw
    | dsimp only
    | split
    | intro _

theorem setLinkSlot_keeps {w : List StateField} {a s : State} {c i d : Nat} {valid : Bool} (h : Keeps w a s)
    (hw : within [.regs] w = true) :
    Keeps w a (setLinkSlot s c i d valid) := by
  unfold setLinkSlot
  repeat' first
    | with_reducible
        first
        | assumption | apply Answers.next | apply Answers.fault | apply Keeps.ite | apply Answers.ite
        | refine Keeps.foldl ?_ fun _ _ _ => ?_ | refine rset_keeps ?_ ?_ | refine fset_keeps ?_ ?_
    | exact within_trans rfl hw
    | dsimp only
    | split
    | intro _

theorem freeSlot_keeps {w : List StateField} {a s : State} {c i : Nat} (h : Keeps w a s)
    (hw : within [.regs, .ctxs] w = true) :
    Keeps w a (freeSlot s c i) := by
  unfold freeSlot
  repeat' first
    | with_reducible
        first
        | assumption | apply Answers.next | apply Answers.fault | apply Keeps.ite | apply Answers.ite
        | refine Keeps.foldl ?_ fun _ _ _ => ?_ | refine rset_keeps ?_ ?_ | refine modCtx_keeps ?_ ?_
        | refine setLinkSlot_keeps ?_ ?_
    | exact within_trans rfl hw
    | dsimp only
    | split
    | intro _

theorem unlinkAll_keeps {w : List StateField} {a s : State} {c : Nat} (h : Keeps w a s)
    (hw : within [.regs, .ctxs] w = true) :
    Keeps w a (unlinkAll s c) := by
  unfold unlinkAll
  repeat' first
    | with_reducible
        first
        | assumption | apply Answers.next | apply Answers.fault | apply Keeps.ite | apply Answers.ite
        | refine Keeps.foldl ?_ fun _ _ _ => ?_ | refine freeSlot_keeps ?_ ?_
    | exact within_trans rfl hw
    | dsimp only
    | split
    | intro _

theorem sourceEnd_keeps {w : List StateField} {a s : State} {c : Nat} {quiet : Bool} (h : Keeps w a s)
    (hw : within [.regs, .rings, .ctxs, .srcs] w = true) :
    Keeps w a (sourceEnd s c quiet) := by
  unfold sourceEnd
  repeat' first
    | with_reducible
        first
        | assumption | apply Answers.next | apply Answers.fault | apply Keeps.ite | apply Answers.ite
        | refine Keeps.foldl ?_ fun _ _ _ => ?_ | refine modCtx_keeps ?_ ?_ | refine setIrq_keeps ?_ ?_
        | refine postEvent_keeps ?_ ?_
    | exact within_trans rfl hw
    | dsimp only
    | split
    | intro _

theorem syncDerived_keeps {w : List StateField} {a s : State} {c : Nat} (h : Keeps w a s)
    (hw : within [.regs] w = true) :
    Keeps w a (syncDerived s c) := by
  unfold syncDerived
  repeat' first
    | with_reducible
        first
        | assumption | apply Answers.next | apply Answers.fault | apply Keeps.ite | apply Answers.ite
        | refine Keeps.foldl ?_ fun _ _ _ => ?_ | refine fset_keeps ?_ ?_
    | exact within_trans rfl hw
    | dsimp only
    | split
    | intro _

theorem takeSet_keeps {w : List StateField} {a s : State} {c : Nat} {words : Tbl Word} (h : Keeps w a s)
    (hw : within [.regs, .ctxs] w = true) :
    Keeps w a (takeSet s c words) := by
  unfold takeSet
  repeat' first
    | with_reducible
        first
        | assumption | apply Answers.next | apply Answers.fault | apply Keeps.ite | apply Answers.ite
        | refine Keeps.foldl ?_ fun _ _ _ => ?_ | refine modCtx_keeps ?_ ?_ | refine setActive_keeps ?_ ?_
    | exact within_trans rfl hw
    | dsimp only
    | split
    | intro _

theorem replaceSet_keeps {w : List StateField} {a s t : State} {c : Nat} {words : Tbl Word} {g : Get}
    (e : replaceSet s c words g = some t) (h : Keeps w a s) (hw : within [.regs, .ctxs, .talus, .srcs, .perf] w = true) : Keeps w a t := by
  unfold replaceSet at e
  obtain ⟨⟨y, n, u⟩, k, r⟩ := Option.map_eq_some_iff.mp e
  cases r
  exact syncDerived_keeps (takeSet_keeps (modCtx_keeps (reserve_keeps k (freeAll_keeps h (within_trans rfl hw)) (within_trans rfl hw)) (within_trans rfl hw)) (within_trans rfl hw)) (within_trans rfl hw)

theorem applyReconf_keeps {w : List StateField} {a s : State} {c : Nat} (h : Keeps w a s)
    (hw : within [.regs, .rings, .ctxs] w = true) :
    Keeps w a (applyReconf s c) := by
  unfold applyReconf
  repeat' first
    | with_reducible
        first
        | assumption | apply Answers.next | apply Answers.fault | apply Keeps.ite | apply Answers.ite
        | refine Keeps.foldl ?_ fun _ _ _ => ?_ | refine fset_keeps ?_ ?_ | refine modCtx_keeps ?_ ?_
        | refine refDone_keeps ?_ ?_ | refine syncDerived_keeps ?_ ?_ | refine takeSet_keeps ?_ ?_
    | exact within_trans rfl hw
    | dsimp only
    | split
    | intro _

theorem abortReconf_keeps {w : List StateField} {a s : State} {c : Nat} (h : Keeps w a s)
    (hw : within [.regs, .rings, .ctxs, .talus, .perf] w = true) :
    Keeps w a (abortReconf s c) := by
  unfold abortReconf
  repeat' first
    | with_reducible
        first
        | assumption | apply Answers.next | apply Answers.fault | apply Keeps.ite | apply Answers.ite
        | refine Keeps.foldl ?_ fun _ _ _ => ?_ | refine fset_keeps ?_ ?_ | refine modCtx_keeps ?_ ?_
        | refine freeAll_keeps ?_ ?_ | refine refDone_keeps ?_ ?_
    | exact within_trans rfl hw
    | dsimp only
    | split
    | intro _

theorem dropOldMem_keeps {w : List StateField} {a s : State} {c : Nat} (h : Keeps w a s)
    (hw : within [.regs, .mem, .rings, .ctxs, .talus, .srcs, .perf] w = true) :
    Keeps w a (dropOldMem s c) := by
  unfold dropOldMem
  repeat' first
    | with_reducible
        first
        | assumption | apply Answers.next | apply Answers.fault | apply Keeps.ite | apply Answers.ite
        | refine Keeps.foldl ?_ fun _ _ _ => ?_ | refine modCtx_keeps ?_ ?_ | refine freeAll_keeps ?_ ?_
        | refine retryOutputs_keeps ?_ ?_
    | exact within_trans rfl hw
    | dsimp only
    | split
    | intro _

theorem writeRate_keeps {w : List StateField} {a s : State} {c d : Nat} {r : RatePend} (h : Keeps w a s)
    (hw : within [.regs, .ctxs] w = true) :
    Keeps w a (writeRate s c d r) := by
  unfold writeRate
  repeat' first
    | with_reducible
        first
        | assumption | apply Answers.next | apply Answers.fault | apply Keeps.ite | apply Answers.ite
        | refine Keeps.foldl ?_ fun _ _ _ => ?_ | refine rset_keeps ?_ ?_
    | exact within_trans rfl hw
    | dsimp only
    | split
    | intro _

theorem applyRate_keeps {w : List StateField} {a s : State} {c i0 i1 : Nat} (h : Keeps w a s)
    (hw : within [.regs, .rings, .ctxs] w = true) :
    Keeps w a (applyRate s c i0 i1) := by
  unfold applyRate
  repeat' first
    | with_reducible
        first
        | assumption | apply Answers.next | apply Answers.fault | apply Keeps.ite | apply Answers.ite
        | refine Keeps.foldl ?_ fun _ _ _ => ?_ | refine modCtx_keeps ?_ ?_ | refine refDone_keeps ?_ ?_
        | refine writeRate_keeps ?_ ?_
    | exact within_trans rfl hw
    | dsimp only
    | split
    | intro _

theorem abortRate_keeps {w : List StateField} {a s : State} {c : Nat} (h : Keeps w a s)
    (hw : within [.regs, .rings, .ctxs] w = true) :
    Keeps w a (abortRate s c) := by
  unfold abortRate
  repeat' first
    | with_reducible
        first
        | assumption | apply Answers.next | apply Answers.fault | apply Keeps.ite | apply Answers.ite
        | refine Keeps.foldl ?_ fun _ _ _ => ?_ | refine modCtx_keeps ?_ ?_ | refine refDone_keeps ?_ ?_
    | exact within_trans rfl hw
    | dsimp only
    | split
    | intro _

theorem abortKeys_keeps {w : List StateField} {a s : State} {c : Nat} (h : Keeps w a s)
    (hw : within [.regs, .rings, .ctxs] w = true) :
    Keeps w a (abortKeys s c) := by
  unfold abortKeys
  repeat' first
    | with_reducible
        first
        | assumption | apply Answers.next | apply Answers.fault | apply Keeps.ite | apply Answers.ite
        | refine Keeps.foldl ?_ fun _ _ _ => ?_ | refine modCtx_keeps ?_ ?_ | refine refDone_keeps ?_ ?_
    | exact within_trans rfl hw
    | dsimp only
    | split
    | intro _

theorem freeCtx_keeps {w : List StateField} {a s : State} {c : Nat} {quiet : Bool} (h : Keeps w a s)
    (hw : within [.free, .regs, .mem, .rings, .ctxs, .engines, .banks, .talus, .srcs, .doms, .perf] w = true) :
    Keeps w a (freeCtx s c quiet) := by
  unfold freeCtx
  repeat' first
    | with_reducible
        first
        | assumption | apply Answers.next | apply Answers.fault | apply Keeps.ite | apply Answers.ite
        | refine Keeps.foldl ?_ fun _ _ _ => ?_ | refine fset_keeps ?_ ?_ | refine freeAll_keeps ?_ ?_
        | refine setCtxState_keeps ?_ ?_ | refine dropJobs_keeps ?_ ?_ | refine retryOutputs_keeps ?_ ?_
        | refine unlinkAll_keeps ?_ ?_ | refine sourceEnd_keeps ?_ ?_
    | exact within_trans rfl hw
    | with_reducible refine keeps_mk ?_ ?_ ?_ ?_ ?_ ?_ ?_ ?_ ?_ ?_ ?_ ?_ ?_ ?_ ?_ ?_ ?_ ?_ ?_ ?_ ?_ ?_ ?_ ?_ ?_ ?_ ?_ ?_ ?_ ?_ ?_ ?_
    | with_reducible exact Or.inl rfl
    | exact Or.inr (within_trans rfl hw)
    | dsimp only
    | split
    | intro _

theorem endOfDrain_keeps {w : List StateField} {a s : State} {c : Nat} (h : Keeps w a s)
    (hw : within [.free, .regs, .mem, .rings, .ctxs, .engines, .banks, .talus, .srcs, .doms, .perf] w = true) :
    Keeps w a (endOfDrain s c) := by
  unfold endOfDrain
  repeat' first
    | with_reducible
        first
        | assumption | apply Answers.next | apply Answers.fault | apply Keeps.ite | apply Answers.ite
        | refine Keeps.foldl ?_ fun _ _ _ => ?_ | refine modCtx_keeps ?_ ?_ | refine setCtxState_keeps ?_ ?_
        | refine refDone_keeps ?_ ?_ | refine sourceEnd_keeps ?_ ?_ | refine applyReconf_keeps ?_ ?_
        | refine abortReconf_keeps ?_ ?_ | refine dropOldMem_keeps ?_ ?_ | refine applyRate_keeps ?_ ?_
        | refine abortRate_keeps ?_ ?_ | refine abortKeys_keeps ?_ ?_ | refine freeCtx_keeps ?_ ?_
    | exact within_trans rfl hw
    | dsimp only
    | split
    | intro _

theorem checkDrain_keeps {w : List StateField} {a s : State} {c : Nat} (h : Keeps w a s)
    (hw : within [.free, .regs, .mem, .rings, .ctxs, .engines, .banks, .talus, .srcs, .doms, .perf] w = true) :
    Keeps w a (checkDrain s c) := by
  unfold checkDrain
  repeat' first
    | with_reducible
        first
        | assumption | apply Answers.next | apply Answers.fault | apply Keeps.ite | apply Answers.ite
        | refine Keeps.foldl ?_ fun _ _ _ => ?_ | refine endOfDrain_keeps ?_ ?_
    | exact within_trans rfl hw
    | dsimp only
    | split
    | intro _

theorem checkDrains_keeps {w : List StateField} {a s : State} (h : Keeps w a s)
    (hw : within [.free, .regs, .mem, .rings, .ctxs, .engines, .banks, .talus, .srcs, .doms, .perf] w = true) :
    Keeps w a (checkDrains s) := by
  unfold checkDrains
  repeat' first
    | with_reducible
        first
        | assumption | apply Answers.next | apply Answers.fault | apply Keeps.ite | apply Answers.ite
        | refine Keeps.foldl ?_ fun _ _ _ => ?_ | refine checkDrain_keeps ?_ ?_
    | exact within_trans rfl hw
    | dsimp only
    | split
    | intro _

end Sys2Proof.Machine
end

