-- ==== Sys2Proof/Laws/KeepsDecOps.lean ====
section
/-! SUPPORT. What each operation of Machine/DecOps.lean keeps. -/

set_option linter.all false

namespace Sys2Proof.Machine

theorem haltCtx_keeps {w : List StateField} {a s : State} {c cause : Nat} {sub : Option Nat} (h : Keeps w a s)
    (hw : within [.free, .regs, .rings, .ctxs, .engines, .banks, .srcs, .doms, .perf] w = true) :
    Keeps w a (haltCtx s c cause sub) := by
  unfold haltCtx
  repeat' first
    | with_reducible
        first
        | assumption | apply Answers.next | apply Answers.fault | apply Keeps.ite | apply Answers.ite
        | refine Keeps.foldl ?_ fun _ _ _ => ?_ | refine fset_keeps ?_ ?_ | refine modCtx_keeps ?_ ?_
        | refine setIrq_keeps ?_ ?_ | refine postEvent_keeps ?_ ?_ | refine setCtxState_keeps ?_ ?_
        | refine dropJobs_keeps ?_ ?_ | refine submitDone_keeps ?_ ?_ | refine failSubmits_keeps ?_ ?_
        | refine sourceEnd_keeps ?_ ?_
    | exact within_trans rfl hw
    | dsimp only
    | split
    | intro _

theorem decStat_keeps {w : List StateField} {a s : State} {c : Nat} {a' : AccessUnit} (h : Keeps w a s)
    (hw : within [.regs] w = true) :
    Keeps w a (decStat s c a') := by
  unfold decStat
  repeat' first
    | with_reducible
        first
        | assumption | apply Answers.next | apply Answers.fault | apply Keeps.ite | apply Answers.ite
        | refine Keeps.foldl ?_ fun _ _ _ => ?_ | refine fset_keeps ?_ ?_ | refine fsetb_keeps ?_ ?_
    | exact within_trans rfl hw
    | dsimp only
    | split
    | intro _

theorem addDec_keeps {w : List StateField} {a s : State} {c : Nat} {k : Arrival} {a' : AccessUnit} (h : Keeps w a s)
    (hw : within [.regs, .ctxs] w = true) :
    Keeps w a (addDec s c k a') := by
  unfold addDec
  repeat' first
    | with_reducible
        first
        | assumption | apply Answers.next | apply Answers.fault | apply Keeps.ite | apply Answers.ite
        | refine Keeps.foldl ?_ fun _ _ _ => ?_ | refine modCtx_keeps ?_ ?_ | refine decStat_keeps ?_ ?_
    | exact within_trans rfl hw
    | dsimp only
    | split
    | intro _

theorem addShow_keeps {w : List StateField} {a s : State} {c : Nat} {k : Arrival} {a' : AccessUnit} {o : ℤ} (h : Keeps w a s)
    (hw : within [.ctxs] w = true) :
    Keeps w a (addShow s c k a' o) := by
  unfold addShow
  repeat' first
    | with_reducible
        first
        | assumption | apply Answers.next | apply Answers.fault | apply Keeps.ite | apply Answers.ite
        | refine Keeps.foldl ?_ fun _ _ _ => ?_ | refine modCtx_keeps ?_ ?_
    | exact within_trans rfl hw
    | dsimp only
    | split
    | intro _

theorem acceptAu_keeps {w : List StateField} {a s : State} {c : Nat} {k : Arrival} {a' : AccessUnit} (h : Keeps w a s)
    (hw : within [.free, .regs, .rings, .ctxs, .engines, .banks, .srcs, .doms, .perf] w = true) :
    Keeps w a (acceptAu s c k a') := by
  unfold acceptAu
  repeat' first
    | with_reducible
        first
        | assumption | apply Answers.next | apply Answers.fault | apply Keeps.ite | apply Answers.ite
        | refine Keeps.foldl ?_ fun _ _ _ => ?_ | refine fadd_keeps ?_ ?_ | refine modCtx_keeps ?_ ?_
        | refine applyReconf_keeps ?_ ?_ | refine haltCtx_keeps ?_ ?_ | refine addDec_keeps ?_ ?_
        | refine addShow_keeps ?_ ?_
    | exact within_trans rfl hw
    | dsimp only
    | split
    | intro _

theorem acceptUnit_keeps {w : List StateField} {a s : State} {c : Nat} {k : Arrival} {l : List AccessUnit} (h : Keeps w a s)
    (hw : within [.free, .regs, .rings, .ctxs, .engines, .banks, .srcs, .doms, .perf] w = true) :
    Keeps w a (acceptUnit s c k l) := by
  unfold acceptUnit
  repeat' first
    | with_reducible
        first
        | assumption | apply Answers.next | apply Answers.fault | apply Keeps.ite | apply Answers.ite
        | refine Keeps.foldl ?_ fun _ _ _ => ?_ | refine submitDone_keeps ?_ ?_ | refine acceptAu_keeps ?_ ?_
    | exact within_trans rfl hw
    | dsimp only
    | split
    | intro _

theorem acceptNet_keeps {w : List StateField} {a s : State} {c : Nat} {k : Arrival} {l : List AccessUnit} (h : Keeps w a s)
    (hw : within [.free, .regs, .rings, .ctxs, .engines, .banks, .srcs, .doms, .perf] w = true) :
    Keeps w a (acceptNet s c k l) := by
  unfold acceptNet
  repeat' first
    | with_reducible
        first
        | assumption | apply Answers.next | apply Answers.fault | apply Keeps.ite | apply Answers.ite
        | refine Keeps.foldl ?_ fun _ _ _ => ?_ | refine fadd_keeps ?_ ?_ | refine acceptUnit_keeps ?_ ?_
    | exact within_trans rfl hw
    | dsimp only
    | split
    | intro _

theorem modDec_keeps {w : List StateField} {a s : State} {c n : Nat} {f : DecPic → DecPic} (h : Keeps w a s)
    (hw : within [.ctxs] w = true) :
    Keeps w a (modDec s c n f) := by
  unfold modDec
  repeat' first
    | with_reducible
        first
        | assumption | apply Answers.next | apply Answers.fault | apply Keeps.ite | apply Answers.ite
        | refine Keeps.foldl ?_ fun _ _ _ => ?_ | refine modCtx_keeps ?_ ?_
    | exact within_trans rfl hw
    | dsimp only
    | split
    | intro _

theorem offerTo_keeps {w : List StateField} {a s : State} {c : Nat} {p : DecPic} {d : Nat} (h : Keeps w a s)
    (hw : within [.ctxs] w = true) :
    Keeps w a (offerTo s c p d) := by
  unfold offerTo
  repeat' first
    | with_reducible
        first
        | assumption | apply Answers.next | apply Answers.fault | apply Keeps.ite | apply Answers.ite
        | refine Keeps.foldl ?_ fun _ _ _ => ?_ | refine modCtx_keeps ?_ ?_ | refine modDec_keeps ?_ ?_
    | exact within_trans rfl hw
    | dsimp only
    | split
    | intro _

theorem outputPic_keeps {w : List StateField} {a s : State} {c : Nat} {p : DecPic} {last : Bool} (h : Keeps w a s)
    (hw : within [.free, .regs, .mem, .rings, .ctxs, .talus, .srcs, .perf] w = true) :
    Keeps w a (outputPic s c p last) := by
  unfold outputPic
  repeat' first
    | with_reducible
        first
        | assumption | apply Answers.next | apply Answers.fault | apply Keeps.ite | apply Answers.ite
        | refine Keeps.foldl ?_ fun _ _ _ => ?_ | refine fsetb_keeps ?_ ?_ | refine fadd_keeps ?_ ?_
        | refine modCtx_keeps ?_ ?_ | refine useFrees_keeps ?_ ?_ | refine putParts_keeps ?_ ?_
        | refine offerTo_keeps ?_ ?_
    | exact within_trans rfl hw
    | dsimp only
    | split
    | intro _

theorem storeBytes_keeps {w : List StateField} {a s : State} {pix : Picture} {off total : Nat} {l : List Nat} (h : Keeps w a s)
    (hw : within [.mem] w = true) : Keeps w a (storeBytes s pix off total l) := by
  induction l generalizing s off with
  | nil => exact h
  | cons p ps ih => exact ih (memWriteN_keeps h (within_trans rfl hw))

theorem outputPics_keeps {w : List StateField} {a : State} {n : Nat} {s : State} {c : Nat} (h : Keeps w a s)
    (hw : within [.free, .regs, .mem, .rings, .ctxs, .talus, .srcs, .perf] w = true) : Keeps w a (outputPics n s c) := by
  induction n generalizing s with
  | zero => exact h
  | succ n ih =>
    unfold outputPics
    split
    · exact h
    · split
      · exact ih (outputPic_keeps h (within_trans rfl hw))
      · exact h

theorem endHidden_keeps {w : List StateField} {a s : State} {c : Nat} (h : Keeps w a s)
    (hw : within [.ctxs] w = true) :
    Keeps w a (endHidden s c) := by
  unfold endHidden
  repeat' first
    | with_reducible
        first
        | assumption | apply Answers.next | apply Answers.fault | apply Keeps.ite | apply Answers.ite
        | refine Keeps.foldl ?_ fun _ _ _ => ?_ | refine modCtx_keeps ?_ ?_
    | exact within_trans rfl hw
    | dsimp only
    | split
    | intro _

theorem subsEnd_keeps {w : List StateField} {a s : State} {ended : List DecPic → Bool} {c : Nat} (h : Keeps w a s)
    (hw : within [.regs, .rings, .ctxs] w = true) :
    Keeps w a (subsEnd ended s c) := by
  unfold subsEnd
  repeat' first
    | with_reducible
        first
        | assumption | apply Answers.next | apply Answers.fault | apply Keeps.ite | apply Answers.ite
        | refine Keeps.foldl ?_ fun _ _ _ => ?_ | refine submitDone_keeps ?_ ?_
    | exact within_trans rfl hw
    | dsimp only
    | split
    | intro _

theorem subsDone_keeps {w : List StateField} {a s : State} {c : Nat} (h : Keeps w a s)
    (hw : within [.regs, .rings, .ctxs] w = true) :
    Keeps w a (subsDone s c) := by
  unfold subsDone
  repeat' first
    | with_reducible
        first
        | assumption | apply Answers.next | apply Answers.fault | apply Keeps.ite | apply Answers.ite
        | refine Keeps.foldl ?_ fun _ _ _ => ?_ | refine subsEnd_keeps ?_ ?_
    | exact within_trans rfl hw
    | dsimp only
    | split
    | intro _

theorem subsKeep_keeps {w : List StateField} {a s : State} {c : Nat} (h : Keeps w a s)
    (hw : within [.regs, .rings, .ctxs] w = true) :
    Keeps w a (subsKeep s c) := by
  unfold subsKeep
  repeat' first
    | with_reducible
        first
        | assumption | apply Answers.next | apply Answers.fault | apply Keeps.ite | apply Answers.ite
        | refine Keeps.foldl ?_ fun _ _ _ => ?_ | refine subsEnd_keeps ?_ ?_
    | exact within_trans rfl hw
    | dsimp only
    | split
    | intro _

theorem dropDecs_keeps {w : List StateField} {a s : State} {c : Nat} (h : Keeps w a s)
    (hw : within [.ctxs] w = true) :
    Keeps w a (dropDecs s c) := by
  unfold dropDecs
  repeat' first
    | with_reducible
        first
        | assumption | apply Answers.next | apply Answers.fault | apply Keeps.ite | apply Answers.ite
        | refine Keeps.foldl ?_ fun _ _ _ => ?_ | refine modCtx_keeps ?_ ?_
    | exact within_trans rfl hw
    | dsimp only
    | split
    | intro _

theorem frameReady_keeps {w : List StateField} {a s : State} {c : Nat} {p : DecPic} {pix : Picture} (h : Keeps w a s)
    (hw : within [.regs, .ctxs, .disp, .srcs] w = true) :
    Keeps w a (frameReady s c p pix) := by
  unfold frameReady
  repeat' first
    | with_reducible
        first
        | assumption | apply Answers.next | apply Answers.fault | apply Keeps.ite | apply Answers.ite
        | refine Keeps.foldl ?_ fun _ _ _ => ?_ | refine fadd_keeps ?_ ?_ | refine setIrq_keeps ?_ ?_
        | refine modDec_keeps ?_ ?_
    | exact within_trans rfl hw
    | with_reducible refine keeps_mk ?_ ?_ ?_ ?_ ?_ ?_ ?_ ?_ ?_ ?_ ?_ ?_ ?_ ?_ ?_ ?_ ?_ ?_ ?_ ?_ ?_ ?_ ?_ ?_ ?_ ?_ ?_ ?_ ?_ ?_ ?_ ?_
    | with_reducible exact Or.inl rfl
    | exact Or.inr (within_trans rfl hw)
    | dsimp only
    | split
    | intro _

theorem showReady_keeps {w : List StateField} {a s : State} {c : Nat} {r : DecRef} {p : DecPic} (h : Keeps w a s)
    (hw : within [.regs, .ctxs, .disp, .srcs] w = true) :
    Keeps w a (showReady s c r p) := by
  unfold showReady
  repeat' first
    | with_reducible
        first
        | assumption | apply Answers.next | apply Answers.fault | apply Keeps.ite | apply Answers.ite
        | refine Keeps.foldl ?_ fun _ _ _ => ?_ | refine frameReady_keeps ?_ ?_
    | exact within_trans rfl hw
    | dsimp only
    | split
    | intro _

theorem showsReady_keeps {w : List StateField} {a s : State} {c : Nat} (h : Keeps w a s)
    (hw : within [.free, .regs, .rings, .ctxs, .engines, .banks, .disp, .srcs, .doms, .perf] w = true) :
    Keeps w a (showsReady s c) := by
  unfold showsReady
  repeat' first
    | with_reducible
        first
        | assumption | apply Answers.next | apply Answers.fault | apply Keeps.ite | apply Answers.ite
        | refine Keeps.foldl ?_ fun _ _ _ => ?_ | refine showReady_keeps ?_ ?_
    | exact within_trans rfl hw
    | dsimp only
    | split
    | intro _

theorem joinFields_keeps {w : List StateField} {a s : State} {c : Nat} {p q : DecPic} {a' b' : Picture} (h : Keeps w a s)
    (hw : within [.regs, .mem, .ctxs, .disp, .srcs] w = true) :
    Keeps w a (joinFields s c p q a' b') := by
  unfold joinFields
  repeat' first
    | with_reducible
        first
        | assumption | apply Answers.next | apply Answers.fault | apply Keeps.ite | apply Answers.ite
        | refine Keeps.foldl ?_ fun _ _ _ => ?_ | refine modCtx_keeps ?_ ?_ | refine modDec_keeps ?_ ?_
        | refine storeBytes_keeps ?_ ?_ | refine frameReady_keeps ?_ ?_
    | exact within_trans rfl hw
    | dsimp only
    | split
    | intro _

theorem fieldsReady_keeps {w : List StateField} {a s : State} {c : Nat} (h : Keeps w a s)
    (hw : within [.regs, .mem, .ctxs, .disp, .srcs] w = true) :
    Keeps w a (fieldsReady s c) := by
  unfold fieldsReady
  repeat' first
    | with_reducible
        first
        | assumption | apply Answers.next | apply Answers.fault | apply Keeps.ite | apply Answers.ite
        | refine Keeps.foldl ?_ fun _ _ _ => ?_ | refine frameReady_keeps ?_ ?_ | refine joinFields_keeps ?_ ?_
    | exact within_trans rfl hw
    | dsimp only
    | split
    | intro _

theorem settleDec_keeps {w : List StateField} {a s : State} {c : Nat} (h : Keeps w a s)
    (hw : within [.free, .regs, .mem, .rings, .ctxs, .engines, .banks, .disp, .talus, .srcs, .doms, .perf] w = true) :
    Keeps w a (settleDec s c) := by
  unfold settleDec
  repeat' first
    | with_reducible
        first
        | assumption | apply Answers.next | apply Answers.fault | apply Keeps.ite | apply Answers.ite
        | refine Keeps.foldl ?_ fun _ _ _ => ?_ | refine dropOldMem_keeps ?_ ?_ | refine checkDrain_keeps ?_ ?_
        | refine outputPics_keeps ?_ ?_ | refine endHidden_keeps ?_ ?_ | refine subsDone_keeps ?_ ?_
        | refine dropDecs_keeps ?_ ?_ | refine showsReady_keeps ?_ ?_ | refine fieldsReady_keeps ?_ ?_
    | exact within_trans rfl hw
    | dsimp only
    | split
    | intro _

theorem readersGone_keeps {w : List StateField} {a s : State} {d c : Nat} (h : Keeps w a s)
    (hw : within [.free, .regs, .mem, .rings, .ctxs, .engines, .banks, .disp, .talus, .srcs, .doms, .perf] w = true) :
    Keeps w a (readersGone s d c) := by
  unfold readersGone
  repeat' first
    | with_reducible
        first
        | assumption | apply Answers.next | apply Answers.fault | apply Keeps.ite | apply Answers.ite
        | refine Keeps.foldl ?_ fun _ _ _ => ?_ | refine modCtx_keeps ?_ ?_ | refine settleDec_keeps ?_ ?_
    | exact within_trans rfl hw
    | dsimp only
    | split
    | intro _

theorem dropSources_keeps {w : List StateField} {a s : State} {d : Nat} (h : Keeps w a s)
    (hw : within [.free, .regs, .mem, .rings, .ctxs, .engines, .banks, .disp, .talus, .srcs, .doms, .perf] w = true) :
    Keeps w a (dropSources s d) := by
  unfold dropSources
  repeat' first
    | with_reducible
        first
        | assumption | apply Answers.next | apply Answers.fault | apply Keeps.ite | apply Answers.ite
        | refine Keeps.foldl ?_ fun _ _ _ => ?_ | refine readersGone_keeps ?_ ?_
    | exact within_trans rfl hw
    | dsimp only
    | split
    | intro _

theorem picDecoded_keeps {w : List StateField} {a s : State} {c : Nat} {p : DecPic} (h : Keeps w a s)
    (hw : within [.free, .regs, .mem, .rings, .ctxs, .engines, .banks, .disp, .talus, .srcs, .doms, .perf] w = true) :
    Keeps w a (picDecoded s c p) := by
  unfold picDecoded
  repeat' first
    | with_reducible
        first
        | assumption | apply Answers.next | apply Answers.fault | apply Keeps.ite | apply Answers.ite
        | refine Keeps.foldl ?_ fun _ _ _ => ?_ | refine fadd_keeps ?_ ?_ | refine modCtx_keeps ?_ ?_
        | refine modDec_keeps ?_ ?_ | refine storeBytes_keeps ?_ ?_ | refine frameReady_keeps ?_ ?_
        | refine settleDec_keeps ?_ ?_
    | exact within_trans rfl hw
    | dsimp only
    | split
    | intro _

end Sys2Proof.Machine
end

