-- ==== Sys2Proof/Laws/KeepsEncode.lean ====
section
/-! SUPPORT. What each operation of Machine/Encode.lean keeps. -/

set_option linter.all false

namespace Sys2Proof.Machine

theorem modPic_keeps {w : List StateField} {a s : State} {c n : Nat} {f : Pic → Pic} (h : Keeps w a s)
    (hw : within [.ctxs] w = true) :
    Keeps w a (modPic s c n f) := by
  unfold modPic
  repeat' first
    | with_reducible
        first
        | assumption | apply Answers.next | apply Answers.fault | apply Keeps.ite | apply Answers.ite
        | refine Keeps.foldl ?_ fun _ _ _ => ?_ | refine modCtx_keeps ?_ ?_
    | exact within_trans rfl hw
    | dsimp only
    | split
    | intro _

theorem modSeg_keeps {w : List StateField} {a s : State} {x : SegId} {f : Seg → Seg} (h : Keeps w a s)
    (hw : within [.ctxs] w = true) :
    Keeps w a (modSeg s x f) := by
  unfold modSeg
  repeat' first
    | with_reducible
        first
        | assumption | apply Answers.next | apply Answers.fault | apply Keeps.ite | apply Answers.ite
        | refine Keeps.foldl ?_ fun _ _ _ => ?_ | refine modPic_keeps ?_ ?_
    | exact within_trans rfl hw
    | dsimp only
    | split
    | intro _

theorem putRecord_keeps {w : List StateField} {a s : State} {g : Seg} {off : Nat} {words : List Nat} (h : Keeps w a s)
    (hw : within [.mem] w = true) :
    Keeps w a (putRecord s g off words) := by
  unfold putRecord
  repeat' first
    | with_reducible
        first
        | assumption | apply Answers.next | apply Answers.fault | apply Keeps.ite | apply Answers.ite
        | refine Keeps.foldl ?_ fun _ _ _ => ?_ | refine memWriteN_keeps ?_ ?_
    | exact within_trans rfl hw
    | dsimp only
    | split
    | intro _

theorem putBankRecord_keeps {w : List StateField} {a s : State} {x : SegId} {p : Pic} {g : Seg} {bank : Nat} {codes : List Nat} (h : Keeps w a s)
    (hw : within [.mem] w = true) :
    Keeps w a (putBankRecord s x p g bank codes) := by
  unfold putBankRecord
  repeat' first
    | with_reducible
        first
        | assumption | apply Answers.next | apply Answers.fault | apply Keeps.ite | apply Answers.ite
        | refine Keeps.foldl ?_ fun _ _ _ => ?_ | refine putRecord_keeps ?_ ?_
    | exact within_trans rfl hw
    | dsimp only
    | split
    | intro _

theorem putUnit_keeps {w : List StateField} {a s : State} {x : SegId} {p : Pic} {g : Seg} {j : SearchJob} {n : Nat} (h : Keeps w a s)
    (hw : within [.mem] w = true) :
    Keeps w a (putUnit x p g j s n) := by
  unfold putUnit
  repeat' first
    | with_reducible
        first
        | assumption | apply Answers.next | apply Answers.fault | apply Keeps.ite | apply Answers.ite
        | refine Keeps.foldl ?_ fun _ _ _ => ?_ | refine putRecord_keeps ?_ ?_
    | exact within_trans rfl hw
    | dsimp only
    | split
    | intro _

theorem writeDigital_keeps {w : List StateField} {a s : State} {x : SegId} {p : Pic} {g : Seg} {k : Nat} (h : Keeps w a s)
    (hw : within [.mem, .ctxs] w = true) :
    Keeps w a (writeDigital s x p g k) := by
  unfold writeDigital
  repeat' first
    | with_reducible
        first
        | assumption | apply Answers.next | apply Answers.fault | apply Keeps.ite | apply Answers.ite
        | refine Keeps.foldl ?_ fun _ _ _ => ?_ | refine modSeg_keeps ?_ ?_ | refine putRecord_keeps ?_ ?_
        | refine putUnit_keeps ?_ ?_
    | exact within_trans rfl hw
    | dsimp only
    | split
    | intro _

theorem atRap_keeps {w : List StateField} {a s : State} {c pts : Nat} (h : Keeps w a s)
    (hw : within [.regs, .rings, .ctxs] w = true) :
    Keeps w a (atRap s c pts) := by
  unfold atRap
  repeat' first
    | with_reducible
        first
        | assumption | apply Answers.next | apply Answers.fault | apply Keeps.ite | apply Answers.ite
        | refine Keeps.foldl ?_ fun _ _ _ => ?_ | refine applyReconf_keeps ?_ ?_ | refine applyRate_keeps ?_ ?_
    | exact within_trans rfl hw
    | dsimp only
    | split
    | intro _

theorem atPicture_keeps {w : List StateField} {a s : State} {c pts : Nat} (h : Keeps w a s)
    (hw : within [.regs, .rings, .ctxs] w = true) :
    Keeps w a (atPicture s c pts) := by
  unfold atPicture
  repeat' first
    | with_reducible
        first
        | assumption | apply Answers.next | apply Answers.fault | apply Keeps.ite | apply Answers.ite
        | refine Keeps.foldl ?_ fun _ _ _ => ?_ | refine modCtx_keeps ?_ ?_ | refine applyRate_keeps ?_ ?_
    | exact within_trans rfl hw
    | dsimp only
    | split
    | intro _

theorem selectNext_keeps {w : List StateField} {a s : State} {c pts : Nat} (h : Keeps w a s)
    (hw : within [.regs, .rings, .ctxs] w = true) :
    Keeps w a (selectNext s c pts) := by
  unfold selectNext
  repeat' first
    | with_reducible
        first
        | assumption | apply Answers.next | apply Answers.fault | apply Keeps.ite | apply Answers.ite
        | refine Keeps.foldl ?_ fun _ _ _ => ?_ | refine modCtx_keeps ?_ ?_ | refine refDone_keeps ?_ ?_
    | exact within_trans rfl hw
    | dsimp only
    | split
    | intro _

theorem enterShed_keeps {w : List StateField} {a s : State} {c : Nat} {p : Plan} (h : Keeps w a s)
    (hw : within [.ctxs] w = true) :
    Keeps w a (enterShed s c p) := by
  unfold enterShed
  repeat' first
    | with_reducible
        first
        | assumption | apply Answers.next | apply Answers.fault | apply Keeps.ite | apply Answers.ite
        | refine Keeps.foldl ?_ fun _ _ _ => ?_ | refine modCtx_keeps ?_ ?_
    | exact within_trans rfl hw
    | dsimp only
    | split
    | intro _

theorem settingsAt_keeps {w : List StateField} {a s : State} {c : Nat} {p : Plan} {cycle : Bool} {pts : Nat} (h : Keeps w a s)
    (hw : within [.regs, .rings, .ctxs] w = true) :
    Keeps w a (settingsAt s c p cycle pts) := by
  unfold settingsAt
  repeat' first
    | with_reducible
        first
        | assumption | apply Answers.next | apply Answers.fault | apply Keeps.ite | apply Answers.ite
        | refine Keeps.foldl ?_ fun _ _ _ => ?_ | refine atRap_keeps ?_ ?_ | refine atPicture_keeps ?_ ?_
        | refine selectNext_keeps ?_ ?_
    | exact within_trans rfl hw
    | dsimp only
    | split
    | intro _

theorem enterCoding_keeps {w : List StateField} {a s : State} {c : Nat} {p : Plan} {rest : List Plan} {u : Submit} (h : Keeps w a s)
    (hw : within [.regs, .rings, .ctxs] w = true) :
    Keeps w a (enterCoding s c p rest u) := by
  unfold enterCoding
  repeat' first
    | with_reducible
        first
        | assumption | apply Answers.next | apply Answers.fault | apply Keeps.ite | apply Answers.ite
        | refine Keeps.foldl ?_ fun _ _ _ => ?_ | refine fset_keeps ?_ ?_ | refine fsetb_keeps ?_ ?_
        | refine modCtx_keeps ?_ ?_ | refine settingsAt_keeps ?_ ?_
    | exact within_trans rfl hw
    | dsimp only
    | split
    | intro _

theorem takeQueued_keeps {w : List StateField} {a s : State} {c : Nat} {plan : List Plan} (h : Keeps w a s)
    (hw : within [.ctxs] w = true) :
    Keeps w a (takeQueued s c plan) := by
  unfold takeQueued
  repeat' first
    | with_reducible
        first
        | assumption | apply Answers.next | apply Answers.fault | apply Keeps.ite | apply Answers.ite
        | refine Keeps.foldl ?_ fun _ _ _ => ?_ | refine modCtx_keeps ?_ ?_
    | exact within_trans rfl hw
    | dsimp only
    | split
    | intro _

theorem toPackets_keeps {w : List StateField} {a s : State} {c : Nat} {g : Get} {p : Pic} {data : List Byte} (h : Keeps w a s)
    (hw : within [.svcs] w = true) :
    Keeps w a (toPackets s c g p data) := by
  unfold toPackets
  repeat' first
    | with_reducible
        first
        | assumption | apply Answers.next | apply Answers.fault | apply Keeps.ite | apply Answers.ite
        | refine Keeps.foldl ?_ fun _ _ _ => ?_ | refine modSvc_keeps ?_ ?_
    | exact within_trans rfl hw
    | dsimp only
    | split
    | intro _

theorem deliverShed_keeps {w : List StateField} {a s : State} {c : Nat} {p : Pic} (h : Keeps w a s)
    (hw : within [.ctxs] w = true) :
    Keeps w a (deliverShed s c p) := by
  unfold deliverShed
  repeat' first
    | with_reducible
        first
        | assumption | apply Answers.next | apply Answers.fault | apply Keeps.ite | apply Answers.ite
        | refine Keeps.foldl ?_ fun _ _ _ => ?_ | refine modCtx_keeps ?_ ?_
    | exact within_trans rfl hw
    | dsimp only
    | split
    | intro _

theorem deliverPic_keeps {w : List StateField} {a s : State} {c : Nat} {p : Pic} (h : Keeps w a s)
    (hw : within [.free, .regs, .mem, .rings, .ctxs, .talus, .srcs, .svcs, .perf] w = true) :
    Keeps w a (deliverPic s c p) := by
  unfold deliverPic
  repeat' first
    | with_reducible
        first
        | assumption | apply Answers.next | apply Answers.fault | apply Keeps.ite | apply Answers.ite
        | refine Keeps.foldl ?_ fun _ _ _ => ?_ | refine fset_keeps ?_ ?_ | refine fadd_keeps ?_ ?_
        | refine modCtx_keeps ?_ ?_ | refine useFrees_keeps ?_ ?_ | refine putParts_keeps ?_ ?_
        | refine submitDone_keeps ?_ ?_ | refine modPic_keeps ?_ ?_ | refine toPackets_keeps ?_ ?_
        | refine deliverShed_keeps ?_ ?_
    | exact within_trans rfl hw
    | dsimp only
    | split
    | intro _

theorem deliverPics_keeps {w : List StateField} {a : State} {n : Nat} {s : State} {c : Nat} (h : Keeps w a s)
    (hw : within [.free, .regs, .mem, .rings, .ctxs, .talus, .srcs, .svcs, .perf] w = true) : Keeps w a (deliverPics n s c) := by
  induction n generalizing s with
  | zero => exact h
  | succ n ih =>
    unfold deliverPics
    split
    · split
      · exact ih (deliverPic_keeps h (within_trans rfl hw))
      · exact h
    · exact h

theorem retirePics_keeps {w : List StateField} {a s : State} {c : Nat} (h : Keeps w a s)
    (hw : within [.free, .regs, .mem, .rings, .ctxs, .engines, .banks, .talus, .srcs, .doms, .perf] w = true) :
    Keeps w a (retirePics s c) := by
  unfold retirePics
  repeat' first
    | with_reducible
        first
        | assumption | apply Answers.next | apply Answers.fault | apply Keeps.ite | apply Answers.ite
        | refine Keeps.foldl ?_ fun _ _ _ => ?_ | refine modCtx_keeps ?_ ?_ | refine dropOldMem_keeps ?_ ?_
        | refine checkDrain_keeps ?_ ?_
    | exact within_trans rfl hw
    | dsimp only
    | split
    | intro _

theorem settleCtx_keeps {w : List StateField} {a s : State} {c : Nat} (h : Keeps w a s)
    (hw : within [.free, .regs, .mem, .rings, .ctxs, .engines, .banks, .talus, .srcs, .doms, .svcs, .perf] w = true) :
    Keeps w a (settleCtx s c) := by
  unfold settleCtx
  repeat' first
    | with_reducible
        first
        | assumption | apply Answers.next | apply Answers.fault | apply Keeps.ite | apply Answers.ite
        | refine Keeps.foldl ?_ fun _ _ _ => ?_ | refine deliverPics_keeps ?_ ?_ | refine retirePics_keeps ?_ ?_
    | exact within_trans rfl hw
    | dsimp only
    | split
    | intro _

theorem picCommitted_keeps {w : List StateField} {a s : State} {c n : Nat} (h : Keeps w a s)
    (hw : within [.free, .regs, .mem, .rings, .ctxs, .engines, .banks, .talus, .srcs, .doms, .svcs, .perf] w = true) :
    Keeps w a (picCommitted s c n) := by
  unfold picCommitted
  repeat' first
    | with_reducible
        first
        | assumption | apply Answers.next | apply Answers.fault | apply Keeps.ite | apply Answers.ite
        | refine Keeps.foldl ?_ fun _ _ _ => ?_ | refine fadd_keeps ?_ ?_ | refine setIrq_keeps ?_ ?_
        | refine modPic_keeps ?_ ?_ | refine settleCtx_keeps ?_ ?_
    | exact within_trans rfl hw
    | dsimp only
    | split
    | intro _

theorem fixDelta_keeps {w : List StateField} {a s : State} {c : Nat} {p : Pic} (h : Keeps w a s)
    (hw : within [.ctxs] w = true) :
    Keeps w a (fixDelta s c p) := by
  unfold fixDelta
  repeat' first
    | with_reducible
        first
        | assumption | apply Answers.next | apply Answers.fault | apply Keeps.ite | apply Answers.ite
        | refine Keeps.foldl ?_ fun _ _ _ => ?_ | refine modCtx_keeps ?_ ?_
    | exact within_trans rfl hw
    | dsimp only
    | split
    | intro _

theorem commitRows_keeps {w : List StateField} {a s : State} {c n i head : Nat} {p : Pic} {g : Seg} (h : Keeps w a s)
    (hw : within [.ctxs, .out] w = true) :
    Keeps w a (commitRows s c n i head p g) := by
  unfold commitRows
  repeat' first
    | with_reducible
        first
        | assumption | apply Answers.next | apply Answers.fault | apply Keeps.ite | apply Answers.ite
        | refine Keeps.foldl ?_ fun _ _ _ => ?_ | refine emit_keeps ?_ ?_ | refine modPic_keeps ?_ ?_
        | refine fixDelta_keeps ?_ ?_
    | exact within_trans rfl hw
    | dsimp only
    | split
    | intro _

theorem commitOrder_keeps {w : List StateField} {a : State} {c n : Nat} {order l : List Nat} {s : State} (h : Keeps w a s)
    (hw : within [.ctxs, .perf, .out] w = true) : Keeps w a (commitOrder c n order l s) := by
  induction l generalizing s with
  | nil => exact h
  | cons i l ih =>
    unfold commitOrder
    split
    · exact h
    · split
      · exact h
      · split
        · exact ih h
        · split
          · exact ih (countEv_keeps (emit_keeps (modPic_keeps (fixDelta_keeps h (within_trans rfl hw)) (within_trans rfl hw)) (within_trans rfl hw)) (within_trans rfl hw))
          · exact commitRows_keeps h (within_trans rfl hw)

theorem tryCommit_keeps {w : List StateField} {a s : State} {c n : Nat} (h : Keeps w a s)
    (hw : within [.free, .regs, .mem, .rings, .ctxs, .engines, .banks, .talus, .srcs, .doms, .svcs, .perf, .out] w = true) :
    Keeps w a (tryCommit s c n) := by
  unfold tryCommit
  repeat' first
    | with_reducible
        first
        | assumption | apply Answers.next | apply Answers.fault | apply Keeps.ite | apply Answers.ite
        | refine Keeps.foldl ?_ fun _ _ _ => ?_ | refine picCommitted_keeps ?_ ?_ | refine commitOrder_keeps ?_ ?_
    | exact within_trans rfl hw
    | dsimp only
    | split
    | intro _

theorem commitWaiting_keeps {w : List StateField} {a s : State} {svc : Nat} (h : Keeps w a s)
    (hw : within [.free, .regs, .mem, .rings, .ctxs, .engines, .banks, .talus, .srcs, .doms, .svcs, .perf, .out] w = true) :
    Keeps w a (commitWaiting s svc) := by
  unfold commitWaiting
  repeat' first
    | with_reducible
        first
        | assumption | apply Answers.next | apply Answers.fault | apply Keeps.ite | apply Answers.ite
        | refine Keeps.foldl ?_ fun _ _ _ => ?_ | refine tryCommit_keeps ?_ ?_
    | exact within_trans rfl hw
    | dsimp only
    | split
    | intro _

theorem clearSeg_keeps {w : List StateField} {a s : State} {x : SegId} (h : Keeps w a s)
    (hw : within [.free, .regs, .mem, .rings, .ctxs, .engines, .banks, .talus, .srcs, .doms, .svcs, .perf, .out] w = true) :
    Keeps w a (clearSeg s x) := by
  unfold clearSeg
  repeat' first
    | with_reducible
        first
        | assumption | apply Answers.next | apply Answers.fault | apply Keeps.ite | apply Answers.ite
        | refine Keeps.foldl ?_ fun _ _ _ => ?_ | refine settleItem_keeps ?_ ?_ | refine modSeg_keeps ?_ ?_
        | refine tryCommit_keeps ?_ ?_
    | exact within_trans rfl hw
    | dsimp only
    | split
    | intro _

theorem countUnmasked_keeps {w : List StateField} {a s : State} {x : SegId} (h : Keeps w a s)
    (hw : within [.regs, .ctxs, .srcs] w = true) :
    Keeps w a (countUnmasked s x) := by
  unfold countUnmasked
  repeat' first
    | with_reducible
        first
        | assumption | apply Answers.next | apply Answers.fault | apply Keeps.ite | apply Answers.ite
        | refine Keeps.foldl ?_ fun _ _ _ => ?_ | refine fadd_keeps ?_ ?_ | refine modCtx_keeps ?_ ?_
        | refine setIrq_keeps ?_ ?_ | refine modSeg_keeps ?_ ?_
    | exact within_trans rfl hw
    | dsimp only
    | split
    | intro _

theorem endLookahead_keeps {w : List StateField} {a s : State} {page : Nat} (h : Keeps w a s)
    (hw : within [.free, .regs, .ctxs, .engines, .srcs, .doms, .perf] w = true) :
    Keeps w a (endLookahead s page) := by
  unfold endLookahead
  repeat' first
    | with_reducible
        first
        | assumption | apply Answers.next | apply Answers.fault | apply Keeps.ite | apply Answers.ite
        | refine Keeps.foldl ?_ fun _ _ _ => ?_ | refine accrue_keeps ?_ ?_ | refine settleItem_keeps ?_ ?_
        | refine setHeld_keeps ?_ ?_ | refine modSubmit_keeps ?_ ?_
    | exact within_trans rfl hw
    | dsimp only
    | split
    | intro _

theorem endLookaheads_keeps {w : List StateField} {a s : State} (h : Keeps w a s)
    (hw : within [.free, .regs, .ctxs, .engines, .srcs, .doms, .perf] w = true) :
    Keeps w a (endLookaheads s) := by
  unfold endLookaheads
  repeat' first
    | with_reducible
        first
        | assumption | apply Answers.next | apply Answers.fault | apply Keeps.ite | apply Answers.ite
        | refine Keeps.foldl ?_ fun _ _ _ => ?_ | refine endLookahead_keeps ?_ ?_
    | exact within_trans rfl hw
    | dsimp only
    | split
    | intro _

theorem execPictureEnterCoding_keeps {w : List StateField} {a s : State} {ctx : Fin 256} (h : Keeps w a s)
    (hw : within [.free, .regs, .mem, .rings, .ctxs, .engines, .banks, .talus, .srcs, .doms, .svcs, .perf] w = true) :
    Answers w a (execPictureEnterCoding ctx s) := by
  unfold execPictureEnterCoding
  repeat' first
    | with_reducible
        first
        | assumption | apply Answers.next | apply Answers.fault | apply Keeps.ite | apply Answers.ite
        | refine Keeps.foldl ?_ fun _ _ _ => ?_ | refine modCtx_keeps ?_ ?_ | refine enterShed_keeps ?_ ?_
        | refine enterCoding_keeps ?_ ?_ | refine takeQueued_keeps ?_ ?_ | refine settleCtx_keeps ?_ ?_
        | refine endLookaheads_keeps ?_ ?_
    | exact within_trans rfl hw
    | dsimp only
    | split
    | intro _

end Sys2Proof.Machine
end

