-- ==== Sys2Proof/Laws/KeepsUnits.lean ====
section
/-! SUPPORT. What each operation of Machine/Units.lean keeps. -/

set_option linter.all false

namespace Sys2Proof.Machine

theorem setStandby_keeps {w : List StateField} {a s : State} {page : Nat} {b' : Bool} (h : Keeps w a s)
    (hw : within [.regs] w = true) :
    Keeps w a (setStandby s page b') := by
  unfold setStandby
  repeat' first
    | with_reducible
        first
        | assumption | apply Answers.next | apply Answers.fault | apply Keeps.ite | apply Answers.ite
        | refine Keeps.foldl ?_ fun _ _ _ => ?_ | refine fsetb_keeps ?_ ?_
    | exact within_trans rfl hw
    | dsimp only
    | split
    | intro _

theorem setTestRunning_keeps {w : List StateField} {a s : State} {page : Nat} {b' : Bool} (h : Keeps w a s)
    (hw : within [.regs] w = true) :
    Keeps w a (setTestRunning s page b') := by
  unfold setTestRunning
  repeat' first
    | with_reducible
        first
        | assumption | apply Answers.next | apply Answers.fault | apply Keeps.ite | apply Answers.ite
        | refine Keeps.foldl ?_ fun _ _ _ => ?_ | refine fsetb_keeps ?_ ?_
    | exact within_trans rfl hw
    | dsimp only
    | split
    | intro _

theorem syncPlaceStat_keeps {w : List StateField} {a s : State} (h : Keeps w a s)
    (hw : within [.regs] w = true) :
    Keeps w a (syncPlaceStat s) := by
  unfold syncPlaceStat
  repeat' first
    | with_reducible
        first
        | assumption | apply Answers.next | apply Answers.fault | apply Keeps.ite | apply Answers.ite
        | refine Keeps.foldl ?_ fun _ _ _ => ?_ | refine fset_keeps ?_ ?_
    | exact within_trans rfl hw
    | dsimp only
    | split
    | intro _

theorem restartSeg_keeps {w : List StateField} {a s : State} {x : SegId} {avoid : Option Nat} (h : Keeps w a s)
    (hw : within [.regs, .ctxs, .perf] w = true) :
    Keeps w a (restartSeg s x avoid) := by
  unfold restartSeg
  repeat' first
    | with_reducible
        first
        | assumption | apply Answers.next | apply Answers.fault | apply Keeps.ite | apply Answers.ite
        | refine Keeps.foldl ?_ fun _ _ _ => ?_ | refine fadd_keeps ?_ ?_ | refine countEv_keeps ?_ ?_
        | refine modPic_keeps ?_ ?_
    | exact within_trans rfl hw
    | dsimp only
    | split
    | intro _

theorem discardJob_keeps {w : List StateField} {a s : State} {page : Nat} {avoid : Option Nat} {j : Job} (h : Keeps w a s)
    (hw : within [.regs, .ctxs, .perf] w = true) :
    Keeps w a (discardJob s page avoid j) := by
  unfold discardJob
  repeat' first
    | with_reducible
        first
        | assumption | apply Answers.next | apply Answers.fault | apply Keeps.ite | apply Answers.ite
        | refine Keeps.foldl ?_ fun _ _ _ => ?_ | refine fadd_keeps ?_ ?_ | refine modCtx_keeps ?_ ?_
        | refine modSubmit_keeps ?_ ?_ | refine modSeg_keeps ?_ ?_ | refine modDec_keeps ?_ ?_
        | refine restartSeg_keeps ?_ ?_
    | exact within_trans rfl hw
    | dsimp only
    | split
    | intro _

theorem discardWorkOf_keeps {w : List StateField} {a s : State} {page : Nat} {all : Bool} {avoid : Option Nat} (h : Keeps w a s)
    (hw : within [.free, .regs, .ctxs, .engines, .srcs, .doms, .perf] w = true) :
    Keeps w a (discardWorkOf s page all avoid) := by
  unfold discardWorkOf
  repeat' first
    | with_reducible
        first
        | assumption | apply Answers.next | apply Answers.fault | apply Keeps.ite | apply Answers.ite
        | refine Keeps.foldl ?_ fun _ _ _ => ?_ | refine settleItems_keeps ?_ ?_ | refine setHeld_keeps ?_ ?_
        | refine accrueOn_keeps ?_ ?_ | refine discardJob_keeps ?_ ?_
    | exact within_trans rfl hw
    | dsimp only
    | split
    | intro _

theorem abortJobs_keeps {w : List StateField} {a s : State} {b' i n : Nat} (h : Keeps w a s)
    (hw : within [.regs, .perf] w = true) :
    Keeps w a (abortJobs s b' i n) := by
  unfold abortJobs
  repeat' first
    | with_reducible
        first
        | assumption | apply Answers.next | apply Answers.fault | apply Keeps.ite | apply Answers.ite
        | refine Keeps.foldl ?_ fun _ _ _ => ?_ | refine fadd_keeps ?_ ?_ | refine countEv_keeps ?_ ?_
    | exact within_trans rfl hw
    | dsimp only
    | split
    | intro _

theorem chooseDigital_keeps {w : List StateField} {a s : State} {x : SegId} (h : Keeps w a s)
    (hw : within [.regs, .ctxs, .banks, .srcs, .doms, .perf] w = true) :
    Keeps w a (chooseDigital s x) := by
  unfold chooseDigital
  repeat' first
    | with_reducible
        first
        | assumption | apply Answers.next | apply Answers.fault | apply Keeps.ite | apply Answers.ite
        | refine Keeps.foldl ?_ fun _ _ _ => ?_ | refine takeJobs_keeps ?_ ?_ | refine modSeg_keeps ?_ ?_
        | refine abortJobs_keeps ?_ ?_
    | exact within_trans rfl hw
    | dsimp only
    | split
    | intro _

theorem discardJobs_keeps {w : List StateField} {a s : State} {b' : Nat} (h : Keeps w a s)
    (hw : within [.regs, .ctxs, .banks, .srcs, .doms, .perf] w = true) :
    Keeps w a (discardJobs s b') := by
  unfold discardJobs
  repeat' first
    | with_reducible
        first
        | assumption | apply Answers.next | apply Answers.fault | apply Keeps.ite | apply Answers.ite
        | refine Keeps.foldl ?_ fun _ _ _ => ?_ | refine noBankFallback_keeps ?_ ?_ | refine takeJobs_keeps ?_ ?_
        | refine modSeg_keeps ?_ ?_ | refine abortJobs_keeps ?_ ?_
    | exact within_trans rfl hw
    | dsimp only
    | split
    | intro _

theorem setTest_keeps {w : List StateField} {a s : State} {page : Nat} {ee de : Row} {v : Nat} (h : Keeps w a s)
    (hw : within [.regs] w = true) :
    Keeps w a (setTest s page ee de v) := by
  unfold setTest
  repeat' first
    | with_reducible
        first
        | assumption | apply Answers.next | apply Answers.fault | apply Keeps.ite | apply Answers.ite
        | refine Keeps.foldl ?_ fun _ _ _ => ?_ | refine fset_keeps ?_ ?_
    | exact within_trans rfl hw
    | dsimp only
    | split
    | intro _

theorem startTest_keeps {w : List StateField} {a s : State} {page : Nat} (h : Keeps w a s)
    (hw : within [.regs, .doms] w = true) :
    Keeps w a (startTest s page) := by
  unfold startTest
  repeat' first
    | with_reducible
        first
        | assumption | apply Answers.next | apply Answers.fault | apply Keeps.ite | apply Answers.ite
        | refine Keeps.foldl ?_ fun _ _ _ => ?_ | refine requestWake_keeps ?_ ?_ | refine setTestRunning_keeps ?_ ?_
        | refine setTest_keeps ?_ ?_
    | exact within_trans rfl hw
    | dsimp only
    | split
    | intro _

theorem endTest_keeps {w : List StateField} {a s : State} {page : Nat} {pass aborted : Bool} {us : Nat} (h : Keeps w a s)
    (hw : within [.regs, .srcs] w = true) :
    Keeps w a (endTest s page pass aborted us) := by
  unfold endTest
  repeat' first
    | with_reducible
        first
        | assumption | apply Answers.next | apply Answers.fault | apply Keeps.ite | apply Answers.ite
        | refine Keeps.foldl ?_ fun _ _ _ => ?_ | refine setIrq_keeps ?_ ?_ | refine setTestRunning_keeps ?_ ?_
        | refine setTest_keeps ?_ ?_
    | exact within_trans rfl hw
    | dsimp only
    | split
    | intro _

theorem syncPin_keeps {w : List StateField} {a s : State} {c : Nat} (h : Keeps w a s)
    (hw : within [.regs, .srcs] w = true) :
    Keeps w a (syncPin s c) := by
  unfold syncPin
  repeat' first
    | with_reducible
        first
        | assumption | apply Answers.next | apply Answers.fault | apply Keeps.ite | apply Answers.ite
        | refine Keeps.foldl ?_ fun _ _ _ => ?_ | refine fsetb_keeps ?_ ?_ | refine setIrq_keeps ?_ ?_
    | exact within_trans rfl hw
    | dsimp only
    | split
    | intro _

theorem syncPins_keeps {w : List StateField} {a s : State} (h : Keeps w a s)
    (hw : within [.regs, .srcs] w = true) :
    Keeps w a (syncPins s) := by
  unfold syncPins
  repeat' first
    | with_reducible
        first
        | assumption | apply Answers.next | apply Answers.fault | apply Keeps.ite | apply Answers.ite
        | refine Keeps.foldl ?_ fun _ _ _ => ?_ | refine syncPin_keeps ?_ ?_
    | exact within_trans rfl hw
    | dsimp only
    | split
    | intro _

theorem enterService_keeps {w : List StateField} {a s : State} {page : Nat} (h : Keeps w a s)
    (hw : within [.regs, .engines, .disp, .srcs] w = true) :
    Keeps w a (enterService s page) := by
  unfold enterService
  repeat' first
    | with_reducible
        first
        | assumption | apply Answers.next | apply Answers.fault | apply Keeps.ite | apply Answers.ite
        | refine Keeps.foldl ?_ fun _ _ _ => ?_ | refine modEng_keeps ?_ ?_ | refine setBlk_keeps ?_ ?_
        | refine unitAdmitted_keeps ?_ ?_ | refine setStandby_keeps ?_ ?_ | refine syncPlaceStat_keeps ?_ ?_
        | refine setTest_keeps ?_ ?_ | refine syncPins_keeps ?_ ?_
    | exact within_trans rfl hw
    | with_reducible refine keeps_mk ?_ ?_ ?_ ?_ ?_ ?_ ?_ ?_ ?_ ?_ ?_ ?_ ?_ ?_ ?_ ?_ ?_ ?_ ?_ ?_ ?_ ?_ ?_ ?_ ?_ ?_ ?_ ?_ ?_ ?_ ?_ ?_
    | with_reducible exact Or.inl rfl
    | exact Or.inr (within_trans rfl hw)
    | dsimp only
    | split
    | intro _

theorem callIn_keeps {w : List StateField} {a s : State} {page : Nat} (h : Keeps w a s)
    (hw : within [.regs, .engines, .disp, .srcs, .doms] w = true) :
    Keeps w a (callIn s page) := by
  unfold callIn
  repeat' first
    | with_reducible
        first
        | assumption | apply Answers.next | apply Answers.fault | apply Keeps.ite | apply Answers.ite
        | refine Keeps.foldl ?_ fun _ _ _ => ?_ | refine modEng_keeps ?_ ?_ | refine requestWake_keeps ?_ ?_
        | refine endTest_keeps ?_ ?_ | refine enterService_keeps ?_ ?_
    | exact within_trans rfl hw
    | dsimp only
    | split
    | intro _

theorem replaceUnit_keeps {w : List StateField} {a s : State} {page : Nat} (h : Keeps w a s)
    (hw : within [.regs, .engines, .disp, .srcs, .doms] w = true) :
    Keeps w a (replaceUnit s page) := by
  unfold replaceUnit
  split
  · refine Keeps.ite ?_ h
    extract_lets rest
    refine callIn_keeps (keeps_mk h ?_ ?_ ?_ ?_ ?_ ?_ ?_ ?_ ?_ ?_ ?_ ?_ ?_ ?_ ?_ ?_ ?_ ?_ ?_ ?_ ?_ ?_ ?_ ?_ ?_ ?_ ?_ ?_ ?_ ?_ ?_) (within_trans rfl hw)
    all_goals first
      | with_reducible exact Or.inl rfl
      | exact Or.inr (within_trans rfl hw)
  · exact h

theorem deviceOff_keeps {w : List StateField} {a s : State} {page : Nat} (h : Keeps w a s)
    (hw : within [.regs, .srcs, .doms, .bdrk] w = true) :
    Keeps w a (deviceOff s page) := by
  unfold deviceOff
  repeat' first
    | with_reducible
        first
        | assumption | apply Answers.next | apply Answers.fault | apply Keeps.ite | apply Answers.ite
        | refine Keeps.foldl ?_ fun _ _ _ => ?_ | refine setDomState_keeps ?_ ?_ | refine openShadow_keeps ?_ ?_
    | exact within_trans rfl hw
    | dsimp only
    | split
    | intro _

theorem becomeStandby_keeps {w : List StateField} {a s : State} {page : Nat} (h : Keeps w a s)
    (hw : within [.regs, .engines, .srcs, .doms, .bdrk] w = true) :
    Keeps w a (becomeStandby s page) := by
  unfold becomeStandby
  repeat' first
    | with_reducible
        first
        | assumption | apply Answers.next | apply Answers.fault | apply Keeps.ite | apply Answers.ite
        | refine Keeps.foldl ?_ fun _ _ _ => ?_ | refine modEng_keeps ?_ ?_ | refine setBlk_keeps ?_ ?_
        | refine setStandby_keeps ?_ ?_ | refine syncPlaceStat_keeps ?_ ?_ | refine deviceOff_keeps ?_ ?_
    | exact within_trans rfl hw
    | dsimp only
    | split
    | intro _

theorem joinUnit_keeps {w : List StateField} {a s : State} {page : Nat} (h : Keeps w a s)
    (hw : within [.regs, .engines, .disp, .srcs, .doms, .bdrk] w = true) :
    Keeps w a (joinUnit s page) := by
  unfold joinUnit
  repeat' first
    | with_reducible
        first
        | assumption | apply Answers.next | apply Answers.fault | apply Keeps.ite | apply Answers.ite
        | refine Keeps.foldl ?_ fun _ _ _ => ?_ | refine fset_keeps ?_ ?_ | refine modEng_keeps ?_ ?_
        | refine callIn_keeps ?_ ?_ | refine becomeStandby_keeps ?_ ?_
    | exact within_trans rfl hw
    | dsimp only
    | split
    | intro _

theorem ppuTested_keeps {w : List StateField} {a s : State} {page : Nat} (h : Keeps w a s)
    (hw : within [.free, .regs, .engines] w = true) :
    Keeps w a (ppuTested s page) := by
  unfold ppuTested
  repeat' first
    | with_reducible
        first
        | assumption | apply Answers.next | apply Answers.fault | apply Keeps.ite | apply Answers.ite
        | refine Keeps.foldl ?_ fun _ _ _ => ?_ | refine fset_keeps ?_ ?_ | refine modEng_keeps ?_ ?_
        | refine useFree_keeps ?_ ?_
    | exact within_trans rfl hw
    | dsimp only
    | split
    | intro _

theorem leaveService_keeps {w : List StateField} {a s : State} {page code : Nat} (h : Keeps w a s)
    (hw : within [.regs, .engines, .disp, .srcs, .doms] w = true) :
    Keeps w a (leaveService s page code) := by
  unfold leaveService
  repeat' first
    | with_reducible
        first
        | assumption | apply Answers.next | apply Answers.fault | apply Keeps.ite | apply Answers.ite
        | refine Keeps.foldl ?_ fun _ _ _ => ?_ | refine modEng_keeps ?_ ?_ | refine setBlk_keeps ?_ ?_
        | refine unitRetired_keeps ?_ ?_ | refine setStandby_keeps ?_ ?_ | refine syncPlaceStat_keeps ?_ ?_
        | refine syncPins_keeps ?_ ?_ | refine replaceUnit_keeps ?_ ?_
    | exact within_trans rfl hw
    | dsimp only
    | split
    | intro _

theorem faultLeave_keeps {w : List StateField} {a s : State} {page : Nat} {test : Bool} (h : Keeps w a s)
    (hw : within [.free, .regs, .ctxs, .engines, .disp, .srcs, .doms, .perf] w = true) :
    Keeps w a (faultLeave s page test) := by
  unfold faultLeave
  repeat' first
    | with_reducible
        first
        | assumption | apply Answers.next | apply Answers.fault | apply Keeps.ite | apply Answers.ite
        | refine Keeps.foldl ?_ fun _ _ _ => ?_ | refine modEng_keeps ?_ ?_ | refine discardWorkOf_keeps ?_ ?_
        | refine leaveService_keeps ?_ ?_
    | exact within_trans rfl hw
    | dsimp only
    | split
    | intro _

theorem retireUnit_keeps {w : List StateField} {a s : State} {page : Nat} (h : Keeps w a s)
    (hw : within [.regs, .engines] w = true) :
    Keeps w a (retireUnit s page) := by
  unfold retireUnit
  repeat' first
    | with_reducible
        first
        | assumption | apply Answers.next | apply Answers.fault | apply Keeps.ite | apply Answers.ite
        | refine Keeps.foldl ?_ fun _ _ _ => ?_ | refine fset_keeps ?_ ?_ | refine modEng_keeps ?_ ?_
    | exact within_trans rfl hw
    | dsimp only
    | split
    | intro _

theorem setAdmit_keeps {w : List StateField} {a s : State} {page : Nat} {b' : Bool} (h : Keeps w a s)
    (hw : within [.regs] w = true) :
    Keeps w a (setAdmit s page b') := by
  unfold setAdmit
  repeat' first
    | with_reducible
        first
        | assumption | apply Answers.next | apply Answers.fault | apply Keeps.ite | apply Answers.ite
        | refine Keeps.foldl ?_ fun _ _ _ => ?_ | refine setTest_keeps ?_ ?_
    | exact within_trans rfl hw
    | dsimp only
    | split
    | intro _

theorem admitUnit_keeps {w : List StateField} {a s : State} {page : Nat} (h : Keeps w a s)
    (hw : within [.regs, .engines, .disp, .srcs, .doms, .bdrk] w = true) :
    Keeps w a (admitUnit s page) := by
  unfold admitUnit
  repeat' first
    | with_reducible
        first
        | assumption | apply Answers.next | apply Answers.fault | apply Keeps.ite | apply Answers.ite
        | refine Keeps.foldl ?_ fun _ _ _ => ?_ | refine fset_keeps ?_ ?_ | refine modEng_keeps ?_ ?_
        | refine startTest_keeps ?_ ?_ | refine joinUnit_keeps ?_ ?_ | refine setAdmit_keeps ?_ ?_
    | exact within_trans rfl hw
    | dsimp only
    | split
    | intro _

theorem drainToStandby_keeps {w : List StateField} {a s : State} {page : Nat} (h : Keeps w a s)
    (hw : within [.regs, .engines] w = true) :
    Keeps w a (drainToStandby s page) := by
  unfold drainToStandby
  repeat' first
    | with_reducible
        first
        | assumption | apply Answers.next | apply Answers.fault | apply Keeps.ite | apply Answers.ite
        | refine Keeps.foldl ?_ fun _ _ _ => ?_ | refine fset_keeps ?_ ?_ | refine modEng_keeps ?_ ?_
    | exact within_trans rfl hw
    | dsimp only
    | split
    | intro _

theorem endUnitDrain_keeps {w : List StateField} {a s : State} {page : Nat} (h : Keeps w a s)
    (hw : within [.regs, .engines, .disp, .srcs, .doms, .bdrk] w = true) :
    Keeps w a (endUnitDrain s page) := by
  unfold endUnitDrain
  repeat' first
    | with_reducible
        first
        | assumption | apply Answers.next | apply Answers.fault | apply Keeps.ite | apply Answers.ite
        | refine Keeps.foldl ?_ fun _ _ _ => ?_ | refine unitRetired_keeps ?_ ?_ | refine syncPins_keeps ?_ ?_
        | refine becomeStandby_keeps ?_ ?_ | refine leaveService_keeps ?_ ?_
    | exact within_trans rfl hw
    | dsimp only
    | split
    | intro _

theorem afterTest_keeps {w : List StateField} {a s : State} {page : Nat} {pass : Bool} (h : Keeps w a s)
    (hw : within [.regs, .engines, .disp, .srcs, .doms, .bdrk] w = true) :
    Keeps w a (afterTest s page pass) := by
  unfold afterTest
  repeat' first
    | with_reducible
        first
        | assumption | apply Answers.next | apply Answers.fault | apply Keeps.ite | apply Answers.ite
        | refine Keeps.foldl ?_ fun _ _ _ => ?_ | refine fset_keeps ?_ ?_ | refine modEng_keeps ?_ ?_
        | refine deviceOff_keeps ?_ ?_ | refine joinUnit_keeps ?_ ?_ | refine setAdmit_keeps ?_ ?_
    | exact within_trans rfl hw
    | dsimp only
    | split
    | intro _

theorem bankFaultLeave_keeps {w : List StateField} {a s : State} {b' : Nat} {calFail : Bool} (h : Keeps w a s)
    (hw : within [.regs, .ctxs, .banks, .srcs, .doms, .perf] w = true) :
    Keeps w a (bankFaultLeave s b' calFail) := by
  unfold bankFaultLeave
  repeat' first
    | with_reducible
        first
        | assumption | apply Answers.next | apply Answers.fault | apply Keeps.ite | apply Answers.ite
        | refine Keeps.foldl ?_ fun _ _ _ => ?_ | refine modBank_keeps ?_ ?_ | refine noBankFallback_keeps ?_ ?_
        | refine setBank_keeps ?_ ?_ | refine discardJobs_keeps ?_ ?_
    | exact within_trans rfl hw
    | dsimp only
    | split
    | intro _

theorem resumeCtx_keeps {w : List StateField} {a s : State} {c : Nat} (h : Keeps w a s)
    (hw : within [.free, .regs, .ctxs, .engines, .banks, .srcs, .doms, .perf] w = true) :
    Keeps w a (resumeCtx s c) := by
  unfold resumeCtx
  repeat' first
    | with_reducible
        first
        | assumption | apply Answers.next | apply Answers.fault | apply Keeps.ite | apply Answers.ite
        | refine Keeps.foldl ?_ fun _ _ _ => ?_ | refine modCtx_keeps ?_ ?_ | refine dropJobs_keeps ?_ ?_
    | exact within_trans rfl hw
    | dsimp only
    | split
    | intro _

theorem moveCtx_keeps {w : List StateField} {a s : State} {c q : Nat} (h : Keeps w a s)
    (hw : within [.free, .regs, .ctxs, .engines, .banks, .srcs, .doms, .perf] w = true) :
    Keeps w a (moveCtx s c q) := by
  unfold moveCtx
  repeat' first
    | with_reducible
        first
        | assumption | apply Answers.next | apply Answers.fault | apply Keeps.ite | apply Answers.ite
        | refine Keeps.foldl ?_ fun _ _ _ => ?_ | refine modCtx_keeps ?_ ?_ | refine resumeCtx_keeps ?_ ?_
    | exact within_trans rfl hw
    | dsimp only
    | split
    | intro _

theorem setCluster_keeps {w : List StateField} {a s : State} {q : Nat} {up : Bool} (h : Keeps w a s)
    (hw : within [.bdrk] w = true) :
    Keeps w a (setCluster s q up) := by
  unfold setCluster
  repeat' first
    | with_reducible
        first
        | assumption | apply Answers.next | apply Answers.fault | apply Keeps.ite | apply Answers.ite
        | refine Keeps.foldl ?_ fun _ _ _ => ?_ | refine modBdrk_keeps ?_ ?_
    | exact within_trans rfl hw
    | dsimp only
    | split
    | intro _

theorem setCores_keeps {w : List StateField} {a s : State} {q : Nat} {run : Bool} (h : Keeps w a s)
    (hw : within [.srcs, .tgts] w = true) :
    Keeps w a (setCores s q run) := by
  unfold setCores
  repeat' first
    | with_reducible
        first
        | assumption | apply Answers.next | apply Answers.fault | apply Keeps.ite | apply Answers.ite
        | refine Keeps.foldl ?_ fun _ _ _ => ?_ | refine modTgt_keeps ?_ ?_ | refine emptyTarget_keeps ?_ ?_
    | exact within_trans rfl hw
    | dsimp only
    | split
    | intro _

theorem clusterLeave_keeps {w : List StateField} {a s : State} {q : Nat} (h : Keeps w a s)
    (hw : within [.free, .regs, .ctxs, .engines, .banks, .srcs, .tgts, .doms, .bdrk, .perf] w = true) :
    Keeps w a (clusterLeave s q) := by
  unfold clusterLeave
  repeat' first
    | with_reducible
        first
        | assumption | apply Answers.next | apply Answers.fault | apply Keeps.ite | apply Answers.ite
        | refine Keeps.foldl ?_ fun _ _ _ => ?_ | refine modCtx_keeps ?_ ?_ | refine setBlk_keeps ?_ ?_
        | refine resumeCtx_keeps ?_ ?_ | refine moveCtx_keeps ?_ ?_ | refine setCluster_keeps ?_ ?_
        | refine setCores_keeps ?_ ?_
    | exact within_trans rfl hw
    | dsimp only
    | split
    | intro _

end Sys2Proof.Machine
end

