-- ==== Sys2Proof/Laws/KeepsFaults.lean ====
section
/-! SUPPORT. What each operation of Machine/Faults.lean keeps. -/

set_option linter.all false

namespace Sys2Proof.Machine

theorem resetBlockRegs_keeps {w : List StateField} {a s : State} {page : Nat} (h : Keeps w a s)
    (hw : within [.regs, .staged, .latched] w = true) : Keeps w a (resetBlockRegs s page) :=
  by
  unfold resetBlockRegs
  exact keeps_mk (keeps_dropRegs h (within_trans rfl hw)) (.inl rfl) (.inl rfl) (.inr (within_trans rfl hw)) (.inr (within_trans rfl hw)) (.inl rfl) (.inl rfl) (.inl rfl) (.inl rfl) (.inl rfl) (.inl rfl) (.inl rfl) (.inl rfl) (.inl rfl) (.inl rfl) (.inl rfl) (.inl rfl) (.inl rfl) (.inl rfl) (.inl rfl) (.inl rfl) (.inl rfl) (.inl rfl) (.inl rfl) (.inl rfl) (.inl rfl) (.inl rfl) (.inl rfl) (.inl rfl) (.inl rfl) (.inl rfl) (.inl rfl)

theorem bedrockStop_keeps {w : List StateField} {a s : State} (h : Keeps w a s)
    (hw : within [.srcs, .tgts, .chip, .bdrk] w = true) :
    Keeps w a (bedrockStop s) := by
  unfold bedrockStop
  repeat' first
    | with_reducible
        first
        | assumption | apply Answers.next | apply Answers.fault | apply Keeps.ite | apply Answers.ite
        | refine Keeps.foldl ?_ fun _ _ _ => ?_ | refine modTgt_keeps ?_ ?_ | refine emptyTarget_keeps ?_ ?_
        | refine modBdrk_keeps ?_ ?_ | refine setChip_keeps ?_ ?_
    | exact within_trans rfl hw
    | dsimp only
    | split
    | intro _

theorem resetInner_keeps {w : List StateField} {a s : State} {page : Nat} (h : Keeps w a s)
    (hw : within [.regs, .chans, .srcs, .tgts, .holdoff, .chip, .pnodes, .bdrk, .perf] w = true) :
    Keeps w a (resetInner s page) := by
  unfold resetInner
  split
  · exact keeps_mk h (.inl rfl) (.inl rfl) (.inl rfl) (.inl rfl) (.inl rfl) (.inl rfl) (.inl rfl) (.inl rfl) (.inl rfl) (.inl rfl) (.inl rfl) (.inl rfl) (.inr (within_trans rfl hw)) (.inl rfl) (.inl rfl) (.inl rfl) (.inl rfl) (.inl rfl) (.inl rfl) (.inl rfl) (.inl rfl) (.inl rfl) (.inl rfl) (.inl rfl) (.inl rfl) (.inl rfl) (.inl rfl) (.inl rfl) (.inl rfl) (.inl rfl) (.inl rfl)
  · exact keeps_mk h (.inl rfl) (.inl rfl) (.inl rfl) (.inl rfl) (.inl rfl) (.inl rfl) (.inl rfl) (.inl rfl) (.inl rfl) (.inl rfl) (.inl rfl) (.inl rfl) (.inl rfl) (.inl rfl) (.inl rfl) (.inl rfl) (.inl rfl) (.inl rfl) (.inl rfl) (.inl rfl) (.inl rfl) (.inl rfl) (.inl rfl) (.inl rfl) (.inr (within_trans rfl hw)) (.inl rfl) (.inl rfl) (.inl rfl) (.inl rfl) (.inl rfl) (.inl rfl)
  · exact fset_keeps (fset_keeps (fset_keeps h (within_trans rfl hw)) (within_trans rfl hw)) (within_trans rfl hw)
  · exact keeps_mk h (.inl rfl) (.inl rfl) (.inl rfl) (.inl rfl) (.inl rfl) (.inl rfl) (.inl rfl) (.inl rfl) (.inl rfl) (.inl rfl) (.inl rfl) (.inl rfl) (.inl rfl) (.inl rfl) (.inl rfl) (.inl rfl) (.inl rfl) (.inl rfl) (.inl rfl) (.inl rfl) (.inl rfl) (.inl rfl) (.inl rfl) (.inl rfl) (.inl rfl) (.inl rfl) (.inl rfl) (.inl rfl) (.inr (within_trans rfl hw)) (.inl rfl) (.inl rfl)
  · exact Keeps.foldl (keeps_mk (keeps_mk h (.inl rfl) (.inl rfl) (.inl rfl) (.inl rfl) (.inl rfl) (.inl rfl) (.inl rfl) (.inl rfl) (.inl rfl) (.inl rfl) (.inl rfl) (.inl rfl) (.inl rfl) (.inr (within_trans rfl hw)) (.inr (within_trans rfl hw)) (.inr (within_trans rfl hw)) (.inl rfl) (.inl rfl) (.inl rfl) (.inl rfl) (.inl rfl) (.inl rfl) (.inl rfl) (.inl rfl) (.inl rfl) (.inl rfl) (.inl rfl) (.inl rfl) (.inl rfl) (.inl rfl) (.inl rfl))
      (.inl rfl) (.inl rfl) (.inl rfl) (.inl rfl) (.inl rfl) (.inl rfl) (.inl rfl) (.inl rfl) (.inl rfl) (.inl rfl) (.inl rfl) (.inl rfl) (.inl rfl) (.inl rfl) (.inr (within_trans rfl hw)) (.inl rfl) (.inl rfl) (.inl rfl) (.inl rfl) (.inl rfl) (.inl rfl) (.inl rfl) (.inl rfl) (.inl rfl) (.inl rfl) (.inl rfl) (.inl rfl) (.inl rfl) (.inl rfl) (.inl rfl) (.inl rfl)) fun _ _ k => syncSrc_keeps k (within_trans rfl hw)
  · exact fsetb_keeps (bedrockStop_keeps (keeps_mk h (.inl rfl) (.inl rfl) (.inl rfl) (.inl rfl) (.inl rfl) (.inl rfl) (.inl rfl) (.inl rfl) (.inl rfl) (.inl rfl) (.inl rfl) (.inl rfl) (.inl rfl) (.inl rfl) (.inl rfl) (.inl rfl) (.inl rfl) (.inl rfl) (.inl rfl) (.inl rfl) (.inl rfl) (.inl rfl) (.inl rfl) (.inl rfl) (.inl rfl) (.inl rfl) (.inl rfl) (.inr (within_trans rfl hw)) (.inl rfl) (.inl rfl) (.inl rfl)) (within_trans rfl hw)) (within_trans rfl hw)
  · exact h

theorem startReset_keeps {w : List StateField} {a s : State} {page : Nat} (h : Keeps w a s)
    (hw : within [.free, .regs, .staged, .latched, .ctxs, .engines, .banks, .chans, .srcs, .tgts, .holdoff, .doms, .chip, .pnodes, .bdrk, .perf] w = true) :
    Keeps w a (startReset s page) := by
  unfold startReset
  repeat' first
    | with_reducible
        first
        | assumption | apply Answers.next | apply Answers.fault | apply Keeps.ite | apply Answers.ite
        | refine Keeps.foldl ?_ fun _ _ _ => ?_ | refine fset_keeps ?_ ?_ | refine syncPage_keeps ?_ ?_
        | refine modBdrk_keeps ?_ ?_ | refine setBlk_keeps ?_ ?_ | refine openShadow_keeps ?_ ?_
        | refine syncBank_keeps ?_ ?_ | refine setStandby_keeps ?_ ?_ | refine discardWorkOf_keeps ?_ ?_
        | refine discardJobs_keeps ?_ ?_ | refine resetBlockRegs_keeps ?_ ?_ | refine resetInner_keeps ?_ ?_
    | exact within_trans rfl hw
    | dsimp only
    | split
    | intro _

theorem fatal_keeps {w : List StateField} {a s : State} {page n : Nat} (h : Keeps w a s)
    (hw : within [.regs, .bdrk, .pins] w = true) :
    Keeps w a (fatal s page n) := by
  unfold fatal
  repeat' first
    | with_reducible
        first
        | assumption | apply Answers.next | apply Answers.fault | apply Keeps.ite | apply Answers.ite
        | refine Keeps.foldl ?_ fun _ _ _ => ?_ | refine fset_keeps ?_ ?_ | refine modBdrk_keeps ?_ ?_
        | refine norFlush_keeps ?_ ?_
    | exact within_trans rfl hw
    | with_reducible refine keeps_mk ?_ ?_ ?_ ?_ ?_ ?_ ?_ ?_ ?_ ?_ ?_ ?_ ?_ ?_ ?_ ?_ ?_ ?_ ?_ ?_ ?_ ?_ ?_ ?_ ?_ ?_ ?_ ?_ ?_ ?_ ?_ ?_
    | with_reducible exact Or.inl rfl
    | exact Or.inr (within_trans rfl hw)
    | dsimp only
    | split
    | intro _

theorem discardSome_keeps {w : List StateField} {a s : State} {b' detail : Nat} (h : Keeps w a s)
    (hw : within [.regs, .ctxs, .banks, .srcs, .doms, .perf] w = true) :
    Keeps w a (discardSome s b' detail) := by
  unfold discardSome
  repeat' first
    | with_reducible
        first
        | assumption | apply Answers.next | apply Answers.fault | apply Keeps.ite | apply Answers.ite
        | refine Keeps.foldl ?_ fun _ _ _ => ?_ | refine noBankFallback_keeps ?_ ?_ | refine takeJobs_keeps ?_ ?_
        | refine modSeg_keeps ?_ ?_ | refine abortJobs_keeps ?_ ?_
    | exact within_trans rfl hw
    | dsimp only
    | split
    | intro _

theorem packetLost_keeps {w : List StateField} {a s : State} {detail : Nat} (h : Keeps w a s)
    (hw : within [.regs, .flows, .queues, .store, .perf] w = true) :
    Keeps w a (packetLost s detail) := by
  unfold packetLost
  repeat' first
    | with_reducible
        first
        | assumption | apply Answers.next | apply Answers.fault | apply Keeps.ite | apply Answers.ite
        | refine Keeps.foldl ?_ fun _ _ _ => ?_ | refine modFlow_keeps ?_ ?_ | refine storeUe_keeps ?_ ?_
    | exact within_trans rfl hw
    | dsimp only
    | split
    | intro _

theorem recordLost_keeps {w : List StateField} {a s : State} {page : Nat} (h : Keeps w a s)
    (hw : within [.regs, .ctxs, .srcs] w = true) :
    Keeps w a (recordLost s page) := by
  unfold recordLost
  repeat' first
    | with_reducible
        first
        | assumption | apply Answers.next | apply Answers.fault | apply Keeps.ite | apply Answers.ite
        | refine Keeps.foldl ?_ fun _ _ _ => ?_ | refine modSeg_keeps ?_ ?_ | refine countUnmasked_keeps ?_ ?_
    | exact within_trans rfl hw
    | dsimp only
    | split
    | intro _

theorem decMemErr_keeps {w : List StateField} {a s : State} {page detail : Nat} (h : Keeps w a s)
    (hw : within [.free, .regs, .ctxs, .engines, .srcs, .doms, .perf] w = true) :
    Keeps w a (decMemErr s page detail) := by
  unfold decMemErr
  repeat' first
    | with_reducible
        first
        | assumption | apply Answers.next | apply Answers.fault | apply Keeps.ite | apply Answers.ite
        | refine Keeps.foldl ?_ fun _ _ _ => ?_ | refine modDec_keeps ?_ ?_ | refine discardWorkOf_keeps ?_ ?_
    | exact within_trans rfl hw
    | dsimp only
    | split
    | intro _

theorem sevEffect_keeps {w : List StateField} {a s : State} {page n detail : Nat} (h : Keeps w a s)
    (hw : within [.free, .regs, .ctxs, .engines, .banks, .chans, .srcs, .tgts, .doms, .chip, .flows, .queues, .store, .bdrk, .perf] w = true) :
    Keeps w a (sevEffect s page n detail) := by
  unfold sevEffect
  split
  · exact .ite (discardWorkOf_keeps h (within_trans rfl hw)) (.ite (discardWorkOf_keeps (.ite (recordLost_keeps h (within_trans rfl hw)) h) (within_trans rfl hw)) h)
  · exact .ite (discardWorkOf_keeps h (within_trans rfl hw)) (.ite (decMemErr_keeps h (within_trans rfl hw)) h)
  · exact .ite (discardWorkOf_keeps h (within_trans rfl hw)) (.ite (discardWorkOf_keeps h (within_trans rfl hw)) h)
  · exact .ite (discardJobs_keeps h (within_trans rfl hw)) (.ite (discardSome_keeps h (within_trans rfl hw)) h)
  · exact .ite (clusterLeave_keeps h (within_trans rfl hw)) h
  · exact .ite (packetLost_keeps h (within_trans rfl hw)) h
  · exact .ite (queueLost_keeps h (within_trans rfl hw)) h
  · exact .ite (chanHostErr_keeps h (within_trans rfl hw)) h
  · exact .ite (keeps_mk h (.inl rfl) (.inl rfl) (.inl rfl) (.inl rfl) (.inl rfl) (.inl rfl) (.inl rfl) (.inl rfl) (.inl rfl) (.inl rfl) (.inl rfl) (.inl rfl) (.inl rfl) (.inl rfl) (.inl rfl) (.inl rfl) (.inl rfl) (.inl rfl) (.inl rfl) (.inl rfl) (.inl rfl) (.inl rfl) (.inl rfl) (.inl rfl) (.inl rfl) (.inl rfl) (.inl rfl) (.inl rfl) (.inr (within_trans rfl hw)) (.inl rfl) (.inl rfl)) h
  · exact .ite (bedrockStop_keeps h (within_trans rfl hw)) h
  · exact h

theorem countEcc_keeps {w : List StateField} {a s : State} {page n : Nat} (h : Keeps w a s)
    (hw : within [.regs] w = true) :
    Keeps w a (countEcc s page n) := by
  unfold countEcc
  repeat' first
    | with_reducible
        first
        | assumption | apply Answers.next | apply Answers.fault | apply Keeps.ite | apply Answers.ite
        | refine Keeps.foldl ?_ fun _ _ _ => ?_ | refine faddSat_keeps ?_ ?_
    | exact within_trans rfl hw
    | dsimp only
    | split
    | intro _

theorem unitOut_keeps {w : List StateField} {a s : State} {page : Nat} {fail : Bool} (h : Keeps w a s)
    (hw : within [.free, .regs, .staged, .latched, .ctxs, .engines, .banks, .disp, .chans, .srcs, .tgts, .holdoff, .doms, .chip, .pnodes, .bdrk, .perf] w = true) :
    Keeps w a (unitOut s page fail) := by
  unfold unitOut
  repeat' first
    | with_reducible
        first
        | assumption | apply Answers.next | apply Answers.fault | apply Keeps.ite | apply Answers.ite
        | refine Keeps.foldl ?_ fun _ _ _ => ?_ | refine faultLeave_keeps ?_ ?_ | refine bankFaultLeave_keeps ?_ ?_
        | refine startReset_keeps ?_ ?_
    | exact within_trans rfl hw
    | dsimp only
    | split
    | intro _

theorem resetOrOut_keeps {w : List StateField} {a s : State} {page n react detail : Nat} (h : Keeps w a s)
    (hw : within [.free, .regs, .staged, .latched, .ctxs, .engines, .banks, .disp, .chans, .srcs, .tgts, .holdoff, .doms, .chip, .pnodes, .bdrk, .perf] w = true) :
    Keeps w a (resetOrOut s page n react detail) := by
  unfold resetOrOut
  repeat' first
    | with_reducible
        first
        | assumption | apply Answers.next | apply Answers.fault | apply Keeps.ite | apply Answers.ite
        | refine Keeps.foldl ?_ fun _ _ _ => ?_ | refine startReset_keeps ?_ ?_ | refine unitOut_keeps ?_ ?_
    | exact within_trans rfl hw
    | dsimp only
    | split
    | intro _

theorem react_keeps {w : List StateField} {a s : State} {page n code detail : Nat} {sec forced : Bool} (h : Keeps w a s)
    (hw : within [.free, .regs, .staged, .latched, .ctxs, .engines, .banks, .disp, .chans, .srcs, .tgts, .holdoff, .doms, .chip, .pnodes, .bdrk, .perf, .pins] w = true) :
    Keeps w a (react s page n code detail sec forced) := by
  unfold react
  repeat' first
    | with_reducible
        first
        | assumption | apply Answers.next | apply Answers.fault | apply Keeps.ite | apply Answers.ite
        | refine Keeps.foldl ?_ fun _ _ _ => ?_ | refine setIrq_keeps ?_ ?_ | refine logFault_keeps ?_ ?_
        | refine fatal_keeps ?_ ?_ | refine resetOrOut_keeps ?_ ?_
    | exact within_trans rfl hw
    | dsimp only
    | split
    | intro _

theorem captureFirst_keeps {w : List StateField} {a s : State} {page n detail : Nat} {sec forced : Bool} (h : Keeps w a s)
    (hw : within [.regs] w = true) :
    Keeps w a (captureFirst s page n detail sec forced) := by
  unfold captureFirst
  repeat' first
    | with_reducible
        first
        | assumption | apply Answers.next | apply Answers.fault | apply Keeps.ite | apply Answers.ite
        | refine Keeps.foldl ?_ fun _ _ _ => ?_ | refine rset_keeps ?_ ?_
    | exact within_trans rfl hw
    | dsimp only
    | split
    | intro _

theorem countFault_keeps {w : List StateField} {a s : State} {page : Nat} (h : Keeps w a s)
    (hw : within [.regs] w = true) :
    Keeps w a (countFault s page) := by
  unfold countFault
  repeat' first
    | with_reducible
        first
        | assumption | apply Answers.next | apply Answers.fault | apply Keeps.ite | apply Answers.ite
        | refine Keeps.foldl ?_ fun _ _ _ => ?_ | refine fset_keeps ?_ ?_ | refine fadd_keeps ?_ ?_
    | exact within_trans rfl hw
    | dsimp only
    | split
    | intro _

theorem raiseFault_keeps {w : List StateField} {a s : State} {page0 n detail : Nat} {forced : Bool} (h : Keeps w a s)
    (hw : within [.free, .regs, .staged, .latched, .ctxs, .engines, .banks, .disp, .chans, .srcs, .tgts, .holdoff, .doms, .chip, .flows, .queues, .pnodes, .store, .bdrk, .perf, .pins] w = true) :
    Keeps w a (raiseFault s page0 n detail forced) := by
  unfold raiseFault
  repeat' first
    | with_reducible
        first
        | assumption | apply Answers.next | apply Answers.fault | apply Keeps.ite | apply Answers.ite
        | refine Keeps.foldl ?_ fun _ _ _ => ?_ | refine fset_keeps ?_ ?_ | refine fadd_keeps ?_ ?_
        | refine sevEffect_keeps ?_ ?_ | refine countEcc_keeps ?_ ?_ | refine react_keeps ?_ ?_
        | refine captureFirst_keeps ?_ ?_ | refine countFault_keeps ?_ ?_
    | exact within_trans rfl hw
    | dsimp only
    | split
    | intro _

theorem raiseForced_keeps {w : List StateField} {a s : State} {page v : Nat} (h : Keeps w a s)
    (hw : within [.free, .regs, .staged, .latched, .ctxs, .engines, .banks, .disp, .chans, .srcs, .tgts, .holdoff, .doms, .chip, .flows, .queues, .pnodes, .store, .bdrk, .perf, .pins] w = true) :
    Keeps w a (raiseForced s page v) := by
  unfold raiseForced
  repeat' first
    | with_reducible
        first
        | assumption | apply Answers.next | apply Answers.fault | apply Keeps.ite | apply Answers.ite
        | refine Keeps.foldl ?_ fun _ _ _ => ?_ | refine raiseFault_keeps ?_ ?_
    | exact within_trans rfl hw
    | dsimp only
    | split
    | intro _

theorem endReset_keeps {w : List StateField} {a s : State} {page : Nat} (h : Keeps w a s)
    (hw : within [.free, .regs, .ctxs, .engines, .banks, .disp, .srcs, .doms, .bdrk] w = true) :
    Keeps w a (endReset s page) := by
  unfold endReset
  repeat' first
    | with_reducible
        first
        | assumption | apply Answers.next | apply Answers.fault | apply Keeps.ite | apply Answers.ite
        | refine Keeps.foldl ?_ fun _ _ _ => ?_ | refine fset_keeps ?_ ?_ | refine fsetb_keeps ?_ ?_
        | refine modEng_keeps ?_ ?_ | refine modBank_keeps ?_ ?_ | refine modBdrk_keeps ?_ ?_
        | refine requestWake_keeps ?_ ?_ | refine setBlk_keeps ?_ ?_ | refine endShadow_keeps ?_ ?_
        | refine syncBank_keeps ?_ ?_ | refine setBank_keeps ?_ ?_ | refine startTest_keeps ?_ ?_
        | refine joinUnit_keeps ?_ ?_ | refine ppuTested_keeps ?_ ?_
    | exact within_trans rfl hw
    | dsimp only
    | split
    | intro _

theorem execFaultRaise_keeps {w : List StateField} {a s : State} {page : Nat} {src : Fin 16} {detail : BitVec 16} (h : Keeps w a s)
    (hw : within [.free, .regs, .staged, .latched, .ctxs, .engines, .banks, .disp, .chans, .srcs, .tgts, .holdoff, .doms, .chip, .flows, .queues, .pnodes, .store, .bdrk, .perf, .pins] w = true) :
    Answers w a (execFaultRaise page src detail s) := by
  unfold execFaultRaise
  repeat' first
    | with_reducible
        first
        | assumption | apply Answers.next | apply Answers.fault | apply Keeps.ite | apply Answers.ite
        | refine Keeps.foldl ?_ fun _ _ _ => ?_ | refine raiseFault_keeps ?_ ?_
    | exact within_trans rfl hw
    | dsimp only
    | split
    | intro _

theorem execFaultForce_keeps {w : List StateField} {a s : State} {page : Nat} {val : Word} (h : Keeps w a s)
    (hw : within [.free, .regs, .staged, .latched, .ctxs, .engines, .banks, .disp, .chans, .srcs, .tgts, .holdoff, .doms, .chip, .flows, .queues, .pnodes, .store, .bdrk, .perf, .pins] w = true) :
    Answers w a (execFaultForce page val s) := by
  unfold execFaultForce
  repeat' first
    | with_reducible
        first
        | assumption | apply Answers.next | apply Answers.fault | apply Keeps.ite | apply Answers.ite
        | refine Keeps.foldl ?_ fun _ _ _ => ?_ | refine raiseForced_keeps ?_ ?_
    | exact within_trans rfl hw
    | dsimp only
    | split
    | intro _

theorem execFaultFirstClear_keeps {w : List StateField} {a s : State} {page : Nat} (h : Keeps w a s)
    (hw : within [.regs] w = true) :
    Answers w a (execFaultFirstClear page s) := by
  unfold execFaultFirstClear
  repeat' first
    | with_reducible
        first
        | assumption | apply Answers.next | apply Answers.fault | apply Keeps.ite | apply Answers.ite
        | refine Keeps.foldl ?_ fun _ _ _ => ?_ | refine rset_keeps ?_ ?_
    | exact within_trans rfl hw
    | dsimp only
    | split
    | intro _

theorem execBlockResetEnd_keeps {w : List StateField} {a s : State} {page : Nat} (h : Keeps w a s)
    (hw : within [.free, .regs, .ctxs, .engines, .banks, .disp, .srcs, .doms, .bdrk] w = true) :
    Answers w a (execBlockResetEnd page s) := by
  unfold execBlockResetEnd
  repeat' first
    | with_reducible
        first
        | assumption | apply Answers.next | apply Answers.fault | apply Keeps.ite | apply Answers.ite
        | refine Keeps.foldl ?_ fun _ _ _ => ?_ | refine endReset_keeps ?_ ?_
    | exact within_trans rfl hw
    | dsimp only
    | split
    | intro _

theorem execShadowClose_keeps {w : List StateField} {a s : State} {page : Nat} (h : Keeps w a s)
    (hw : within [.bdrk] w = true) :
    Answers w a (execShadowClose page s) := by
  unfold execShadowClose
  repeat' first
    | with_reducible
        first
        | assumption | apply Answers.next | apply Answers.fault | apply Keeps.ite | apply Answers.ite
        | refine Keeps.foldl ?_ fun _ _ _ => ?_ | refine modBdrk_keeps ?_ ?_
    | exact within_trans rfl hw
    | dsimp only
    | split
    | intro _

theorem noteStall_keeps {w : List StateField} {a s : State} {page heldUs detail : Nat} (h : Keeps w a s)
    (hw : within [.regs] w = true) :
    Keeps w a (noteStall s page heldUs detail) := by
  unfold noteStall
  repeat' first
    | with_reducible
        first
        | assumption | apply Answers.next | apply Answers.fault | apply Keeps.ite | apply Answers.ite
        | refine Keeps.foldl ?_ fun _ _ _ => ?_ | refine fset_keeps ?_ ?_
    | exact within_trans rfl hw
    | dsimp only
    | split
    | intro _

theorem execStageWatchdogExpiry_keeps {w : List StateField} {a s : State} {page heldUs detail : Nat} (h : Keeps w a s)
    (hw : within [.free, .regs, .staged, .latched, .ctxs, .engines, .banks, .disp, .chans, .srcs, .tgts, .holdoff, .doms, .chip, .flows, .queues, .pnodes, .store, .bdrk, .perf, .pins] w = true) :
    Answers w a (execStageWatchdogExpiry page heldUs detail s) := by
  unfold execStageWatchdogExpiry
  repeat' first
    | with_reducible
        first
        | assumption | apply Answers.next | apply Answers.fault | apply Keeps.ite | apply Answers.ite
        | refine Keeps.foldl ?_ fun _ _ _ => ?_ | refine raiseFault_keeps ?_ ?_ | refine noteStall_keeps ?_ ?_
    | exact within_trans rfl hw
    | dsimp only
    | split
    | intro _

end Sys2Proof.Machine
end

