-- ==== Sys2Proof/Laws/KeepsDram.lean ====
section
/-! SUPPORT. What each operation of Machine/Dram.lean keeps. -/

set_option linter.all false

namespace Sys2Proof.Machine

theorem syncQueue_keeps {w : List StateField} {a s : State} {ch : Nat} (h : Keeps w a s)
    (hw : within [.regs] w = true) :
    Keeps w a (syncQueue s ch) := by
  unfold syncQueue
  repeat' first
    | with_reducible
        first
        | assumption | apply Answers.next | apply Answers.fault | apply Keeps.ite | apply Answers.ite
        | refine Keeps.foldl ?_ fun _ _ _ => ?_ | refine fset_keeps ?_ ?_
    | exact within_trans rfl hw
    | dsimp only
    | split
    | intro _

theorem syncDrainWr_keeps {w : List StateField} {a s : State} {ch : Nat} (h : Keeps w a s)
    (hw : within [.dmcs] w = true) :
    Keeps w a (syncDrainWr s ch) := by
  unfold syncDrainWr
  repeat' first
    | with_reducible
        first
        | assumption | apply Answers.next | apply Answers.fault | apply Keeps.ite | apply Answers.ite
        | refine Keeps.foldl ?_ fun _ _ _ => ?_ | refine modDmc_keeps ?_ ?_
    | exact within_trans rfl hw
    | dsimp only
    | split
    | intro _

theorem pushReq_keeps {w : List StateField} {a s : State} {ch : Nat} {r : DramReq} (h : Keeps w a s)
    (hw : within [.regs, .dmcs] w = true) :
    Keeps w a (pushReq s ch r) := by
  unfold pushReq
  repeat' first
    | with_reducible
        first
        | assumption | apply Answers.next | apply Answers.fault | apply Keeps.ite | apply Answers.ite
        | refine Keeps.foldl ?_ fun _ _ _ => ?_ | refine modDmc_keeps ?_ ?_ | refine syncQueue_keeps ?_ ?_
        | refine syncDrainWr_keeps ?_ ?_
    | exact within_trans rfl hw
    | dsimp only
    | split
    | intro _

theorem pushStalled_keeps {w : List StateField} {a s : State} {ch : Nat} (h : Keeps w a s)
    (hw : within [.regs, .dmcs] w = true) :
    Keeps w a (pushStalled s ch) := by
  unfold pushStalled
  repeat' first
    | with_reducible
        first
        | assumption | apply Answers.next | apply Answers.fault | apply Keeps.ite | apply Answers.ite
        | refine Keeps.foldl ?_ fun _ _ _ => ?_ | refine modDmc_keeps ?_ ?_ | refine pushReq_keeps ?_ ?_
    | exact within_trans rfl hw
    | dsimp only
    | split
    | intro _

theorem takeReq_keeps {w : List StateField} {a s : State} {ch : Nat} {r : DramReq} (h : Keeps w a s)
    (hw : within [.regs, .dmcs, .srcs, .doms] w = true) :
    Keeps w a (takeReq s ch r) := by
  unfold takeReq
  repeat' first
    | with_reducible
        first
        | assumption | apply Answers.next | apply Answers.fault | apply Keeps.ite | apply Answers.ite
        | refine Keeps.foldl ?_ fun _ _ _ => ?_ | refine modDmc_keeps ?_ ?_ | refine touchDomain_keeps ?_ ?_
        | refine pushReq_keeps ?_ ?_
    | exact within_trans rfl hw
    | dsimp only
    | split
    | intro _

theorem unpark_keeps {w : List StateField} {a s : State} {ch : Nat} (h : Keeps w a s)
    (hw : within [.regs, .dmcs, .srcs, .doms] w = true) :
    Keeps w a (unpark s ch) := by
  unfold unpark
  repeat' first
    | with_reducible
        first
        | assumption | apply Answers.next | apply Answers.fault | apply Keeps.ite | apply Answers.ite
        | refine Keeps.foldl ?_ fun _ _ _ => ?_ | refine modDmc_keeps ?_ ?_ | refine takeReq_keeps ?_ ?_
    | exact within_trans rfl hw
    | dsimp only
    | split
    | intro _

theorem unparkAll_keeps {w : List StateField} {a s : State} (h : Keeps w a s)
    (hw : within [.regs, .dmcs, .srcs, .doms] w = true) :
    Keeps w a (unparkAll s) := by
  unfold unparkAll
  repeat' first
    | with_reducible
        first
        | assumption | apply Answers.next | apply Answers.fault | apply Keeps.ite | apply Answers.ite
        | refine Keeps.foldl ?_ fun _ _ _ => ?_ | refine unpark_keeps ?_ ?_
    | exact within_trans rfl hw
    | dsimp only
    | split
    | intro _

theorem execDramRequest_keeps {w : List StateField} {a s : State} {bar2 : Bool} {addr : Nat} {data : List (Option Byte)} (h : Keeps w a s)
    (hw : within [.regs, .dmcs, .srcs, .doms, .out] w = true) :
    Answers w a (execDramRequest bar2 addr data s) := by
  unfold execDramRequest
  repeat' first
    | with_reducible
        first
        | assumption | apply Answers.next | apply Answers.fault | apply Keeps.ite | apply Answers.ite
        | refine Keeps.foldl ?_ fun _ _ _ => ?_ | refine emit_keeps ?_ ?_ | refine takeReq_keeps ?_ ?_
    | exact within_trans rfl hw
    | dsimp only
    | split
    | intro _

theorem writeGranule_keeps {w : List StateField} {a s : State} {r : DramReq} (h : Keeps w a s)
    (hw : within [.mem, .poison] w = true) :
    Keeps w a (writeGranule s r) := by
  unfold writeGranule
  extract_lets t
  have k : Keeps w a t := by
    refine Keeps.foldl h fun _ _ k => ?_
    split
    · exact memWrite_keeps k (within_trans rfl hw)
    · exact k
  clear_value t
  exact .ite (keeps_mk k (.inl rfl) (.inl rfl) (.inl rfl) (.inl rfl) (.inr (within_trans rfl hw)) (.inl rfl) (.inl rfl) (.inl rfl) (.inl rfl) (.inl rfl) (.inl rfl) (.inl rfl) (.inl rfl) (.inl rfl) (.inl rfl) (.inl rfl) (.inl rfl) (.inl rfl) (.inl rfl) (.inl rfl) (.inl rfl) (.inl rfl) (.inl rfl) (.inl rfl) (.inl rfl) (.inl rfl) (.inl rfl) (.inl rfl) (.inl rfl) (.inl rfl) (.inl rfl)) k

theorem eccRead_keeps {w : List StateField} {a s : State} {ch a' : Nat} {ue : Bool} (h : Keeps w a s)
    (hw : within [.free, .regs, .staged, .latched, .poison, .ctxs, .engines, .banks, .disp, .chans, .srcs, .tgts, .holdoff, .doms, .chip, .flows, .queues, .pnodes, .store, .bdrk, .perf, .pins] w = true) :
    Keeps w a (eccRead s ch a' ue) := by
  unfold eccRead
  repeat' first
    | with_reducible
        first
        | assumption | apply Answers.next | apply Answers.fault | apply Keeps.ite | apply Answers.ite
        | refine Keeps.foldl ?_ fun _ _ _ => ?_ | refine faddSat_keeps ?_ ?_ | refine qset_keeps ?_ ?_
        | refine setIrq_keeps ?_ ?_ | refine raiseFault_keeps ?_ ?_
    | exact within_trans rfl hw
    | with_reducible refine keeps_mk ?_ ?_ ?_ ?_ ?_ ?_ ?_ ?_ ?_ ?_ ?_ ?_ ?_ ?_ ?_ ?_ ?_ ?_ ?_ ?_ ?_ ?_ ?_ ?_ ?_ ?_ ?_ ?_ ?_ ?_ ?_ ?_
    | with_reducible exact Or.inl rfl
    | exact Or.inr (within_trans rfl hw)
    | dsimp only
    | split
    | intro _

theorem readGranule_keeps {w : List StateField} {a s : State} {ch : Nat} {r : DramReq} {errs : List Nat} (h : Keeps w a s)
    (hw : within [.free, .regs, .staged, .latched, .poison, .ctxs, .engines, .banks, .disp, .chans, .srcs, .tgts, .holdoff, .doms, .chip, .flows, .queues, .pnodes, .store, .bdrk, .perf, .pins, .out] w = true) :
    Keeps w a (readGranule s ch r errs) := by
  unfold readGranule
  repeat' first
    | with_reducible
        first
        | assumption | apply Answers.next | apply Answers.fault | apply Keeps.ite | apply Answers.ite
        | refine Keeps.foldl ?_ fun _ _ _ => ?_ | refine emit_keeps ?_ ?_ | refine eccRead_keeps ?_ ?_
    | exact within_trans rfl hw
    | with_reducible refine keeps_mk ?_ ?_ ?_ ?_ ?_ ?_ ?_ ?_ ?_ ?_ ?_ ?_ ?_ ?_ ?_ ?_ ?_ ?_ ?_ ?_ ?_ ?_ ?_ ?_ ?_ ?_ ?_ ?_ ?_ ?_ ?_ ?_
    | with_reducible exact Or.inl rfl
    | exact Or.inr (within_trans rfl hw)
    | dsimp only
    | split
    | intro _

theorem doReq_keeps {w : List StateField} {a s : State} {ch : Nat} {r : DramReq} {errs : List Nat} (h : Keeps w a s)
    (hw : within [.free, .regs, .staged, .latched, .mem, .poison, .ctxs, .engines, .banks, .disp, .dmcs, .chans, .srcs, .tgts, .holdoff, .doms, .chip, .flows, .queues, .pnodes, .store, .bdrk, .perf, .pins, .out] w = true) :
    Keeps w a (doReq s ch r errs) := by
  unfold doReq
  repeat' first
    | with_reducible
        first
        | assumption | apply Answers.next | apply Answers.fault | apply Keeps.ite | apply Answers.ite
        | refine Keeps.foldl ?_ fun _ _ _ => ?_ | refine qset_keeps ?_ ?_ | refine countEv_keeps ?_ ?_
        | refine modDmc_keeps ?_ ?_ | refine syncQueue_keeps ?_ ?_ | refine syncDrainWr_keeps ?_ ?_
        | refine pushStalled_keeps ?_ ?_ | refine writeGranule_keeps ?_ ?_ | refine readGranule_keeps ?_ ?_
    | exact within_trans rfl hw
    | dsimp only
    | split
    | intro _

theorem execDramIssue_keeps {w : List StateField} {a s : State} {ch : Fin 24} {openRows errs : List Nat} (h : Keeps w a s)
    (hw : within [.free, .regs, .staged, .latched, .mem, .poison, .ctxs, .engines, .banks, .disp, .dmcs, .chans, .srcs, .tgts, .holdoff, .doms, .chip, .flows, .queues, .pnodes, .store, .bdrk, .perf, .pins, .out] w = true) :
    Answers w a (execDramIssue ch openRows errs s) := by
  unfold execDramIssue
  repeat' first
    | with_reducible
        first
        | assumption | apply Answers.next | apply Answers.fault | apply Keeps.ite | apply Answers.ite
        | refine Keeps.foldl ?_ fun _ _ _ => ?_ | refine fadd_keeps ?_ ?_ | refine countEv_keeps ?_ ?_
        | refine doReq_keeps ?_ ?_
    | exact within_trans rfl hw
    | dsimp only
    | split
    | intro _

theorem setOwed_keeps {w : List StateField} {a s : State} {ch rank : Nat} {v : ℤ} (h : Keeps w a s)
    (hw : within [.regs, .dmcs] w = true) :
    Keeps w a (setOwed s ch rank v) := by
  unfold setOwed
  repeat' first
    | with_reducible
        first
        | assumption | apply Answers.next | apply Answers.fault | apply Keeps.ite | apply Answers.ite
        | refine Keeps.foldl ?_ fun _ _ _ => ?_ | refine fset_keeps ?_ ?_ | refine modDmc_keeps ?_ ?_
    | exact within_trans rfl hw
    | dsimp only
    | split
    | intro _

theorem execRefreshInterval_keeps {w : List StateField} {a s : State} {ch : Fin 24} {rank : Fin 2} (h : Keeps w a s)
    (hw : within [.regs, .dmcs] w = true) :
    Answers w a (execRefreshInterval ch rank s) := by
  unfold execRefreshInterval
  repeat' first
    | with_reducible
        first
        | assumption | apply Answers.next | apply Answers.fault | apply Keeps.ite | apply Answers.ite
        | refine Keeps.foldl ?_ fun _ _ _ => ?_ | refine modDmc_keeps ?_ ?_ | refine setOwed_keeps ?_ ?_
    | exact within_trans rfl hw
    | dsimp only
    | split
    | intro _

theorem execRefreshIssue_keeps {w : List StateField} {a s : State} {ch : Fin 24} {rank : Fin 2} (h : Keeps w a s)
    (hw : within [.regs, .dmcs] w = true) :
    Answers w a (execRefreshIssue ch rank s) := by
  unfold execRefreshIssue
  repeat' first
    | with_reducible
        first
        | assumption | apply Answers.next | apply Answers.fault | apply Keeps.ite | apply Answers.ite
        | refine Keeps.foldl ?_ fun _ _ _ => ?_ | refine setOwed_keeps ?_ ?_
    | exact within_trans rfl hw
    | dsimp only
    | split
    | intro _

theorem execMr4Poll_keeps {w : List StateField} {a s : State} {ch : Fin 24} {code : Fin 5} {hot : Bool} (h : Keeps w a s)
    (hw : within [.free, .regs, .staged, .latched, .ctxs, .engines, .banks, .disp, .dmcs, .chans, .srcs, .tgts, .holdoff, .doms, .chip, .flows, .queues, .pnodes, .store, .bdrk, .perf, .pins] w = true) :
    Answers w a (execMr4Poll ch code hot s) := by
  unfold execMr4Poll
  repeat' first
    | with_reducible
        first
        | assumption | apply Answers.next | apply Answers.fault | apply Keeps.ite | apply Answers.ite
        | refine Keeps.foldl ?_ fun _ _ _ => ?_ | refine fset_keeps ?_ ?_ | refine modDmc_keeps ?_ ?_
        | refine setIrq_keeps ?_ ?_ | refine raiseFault_keeps ?_ ?_
    | exact within_trans rfl hw
    | dsimp only
    | split
    | intro _

theorem syncUsable_keeps {w : List StateField} {a s : State} (h : Keeps w a s)
    (hw : within [.regs] w = true) :
    Keeps w a (syncUsable s) := by
  unfold syncUsable
  repeat' first
    | with_reducible
        first
        | assumption | apply Answers.next | apply Answers.fault | apply Keeps.ite | apply Answers.ite
        | refine Keeps.foldl ?_ fun _ _ _ => ?_ | refine qset_keeps ?_ ?_
    | exact within_trans rfl hw
    | dsimp only
    | split
    | intro _

theorem zeroRegion_keeps {w : List StateField} {a s : State} {r : Nat} (h : Keeps w a s)
    (hw : within [.mem, .poison] w = true) : Keeps w a (zeroRegion s r) :=
  by
  unfold zeroRegion
  exact keeps_mk (keeps_dropMem h (within_trans rfl hw)) (.inl rfl) (.inl rfl) (.inl rfl) (.inl rfl) (.inr (within_trans rfl hw)) (.inl rfl) (.inl rfl) (.inl rfl) (.inl rfl) (.inl rfl) (.inl rfl) (.inl rfl) (.inl rfl) (.inl rfl) (.inl rfl) (.inl rfl) (.inl rfl) (.inl rfl) (.inl rfl) (.inl rfl) (.inl rfl) (.inl rfl) (.inl rfl) (.inl rfl) (.inl rfl) (.inl rfl) (.inl rfl) (.inl rfl) (.inl rfl) (.inl rfl) (.inl rfl)

theorem setRegion_keeps {w : List StateField} {a s : State} {r : Nat} (h : Keeps w a s)
    (hw : within [.regs, .mem, .poison] w = true) :
    Keeps w a (setRegion s r) := by
  unfold setRegion
  repeat' first
    | with_reducible
        first
        | assumption | apply Answers.next | apply Answers.fault | apply Keeps.ite | apply Answers.ite
        | refine Keeps.foldl ?_ fun _ _ _ => ?_ | refine fset_keeps ?_ ?_ | refine syncUsable_keeps ?_ ?_
        | refine zeroRegion_keeps ?_ ?_
    | exact within_trans rfl hw
    | dsimp only
    | split
    | intro _

theorem execRegionEnable_keeps {w : List StateField} {a s : State} {r : Fin 16} (h : Keeps w a s)
    (hw : within [.regs, .mem, .poison] w = true) :
    Answers w a (execRegionEnable r s) := by
  unfold execRegionEnable
  repeat' first
    | with_reducible
        first
        | assumption | apply Answers.next | apply Answers.fault | apply Keeps.ite | apply Answers.ite
        | refine Keeps.foldl ?_ fun _ _ _ => ?_ | refine fset_keeps ?_ ?_ | refine setRegion_keeps ?_ ?_
    | exact within_trans rfl hw
    | dsimp only
    | split
    | intro _

theorem execRegionDisable_keeps {w : List StateField} {a s : State} {r : Fin 16} (h : Keeps w a s)
    (hw : within [.regs, .poison, .dmcs, .srcs, .doms] w = true) :
    Answers w a (execRegionDisable r s) := by
  unfold execRegionDisable
  repeat' first
    | with_reducible
        first
        | assumption | apply Answers.next | apply Answers.fault | apply Keeps.ite | apply Answers.ite
        | refine Keeps.foldl ?_ fun _ _ _ => ?_ | refine fset_keeps ?_ ?_ | refine unparkAll_keeps ?_ ?_
        | refine syncUsable_keeps ?_ ?_
    | exact within_trans rfl hw
    | with_reducible refine keeps_mk ?_ ?_ ?_ ?_ ?_ ?_ ?_ ?_ ?_ ?_ ?_ ?_ ?_ ?_ ?_ ?_ ?_ ?_ ?_ ?_ ?_ ?_ ?_ ?_ ?_ ?_ ?_ ?_ ?_ ?_ ?_ ?_
    | with_reducible exact Or.inl rfl
    | exact Or.inr (within_trans rfl hw)
    | dsimp only
    | split
    | intro _

theorem execInitDone_keeps {w : List StateField} {a s : State} {r : Fin 16} (h : Keeps w a s)
    (hw : within [.regs, .dmcs, .srcs, .doms] w = true) :
    Answers w a (execInitDone r s) := by
  unfold execInitDone
  repeat' first
    | with_reducible
        first
        | assumption | apply Answers.next | apply Answers.fault | apply Keeps.ite | apply Answers.ite
        | refine Keeps.foldl ?_ fun _ _ _ => ?_ | refine fset_keeps ?_ ?_ | refine unparkAll_keeps ?_ ?_
    | exact within_trans rfl hw
    | dsimp only
    | split
    | intro _

theorem execTrainingRun_keeps {w : List StateField} {a s : State} {ch : Fin 24} {val : Word} (h : Keeps w a s)
    (hw : within [.regs] w = true) :
    Answers w a (execTrainingRun ch val s) := by
  unfold execTrainingRun
  repeat' first
    | with_reducible
        first
        | assumption | apply Answers.next | apply Answers.fault | apply Keeps.ite | apply Answers.ite
        | refine Keeps.foldl ?_ fun _ _ _ => ?_ | refine fset_keeps ?_ ?_
    | exact within_trans rfl hw
    | dsimp only
    | split
    | intro _

theorem execRunDone_keeps {w : List StateField} {a s : State} {ch : Fin 24} {errs : List Nat} (h : Keeps w a s)
    (hw : within [.regs, .srcs] w = true) :
    Answers w a (execRunDone ch errs s) := by
  unfold execRunDone
  repeat' first
    | with_reducible
        first
        | assumption | apply Answers.next | apply Answers.fault | apply Keeps.ite | apply Answers.ite
        | refine Keeps.foldl ?_ fun _ _ _ => ?_ | refine fset_keeps ?_ ?_ | refine faddSat_keeps ?_ ?_
        | refine setIrq_keeps ?_ ?_
    | exact within_trans rfl hw
    | dsimp only
    | split
    | intro _

theorem execTalusFree_keeps {w : List StateField} {a s : State} {fn : Fin 64} {handle : Word} (h : Keeps w a s)
    (hw : within [.regs, .mem, .rings, .ctxs, .talus, .srcs, .perf] w = true) :
    Answers w a (execTalusFree fn handle s) := by
  unfold execTalusFree
  repeat' first
    | with_reducible
        first
        | assumption | apply Answers.next | apply Answers.fault | apply Keeps.ite | apply Answers.ite
        | refine Keeps.foldl ?_ fun _ _ _ => ?_ | refine freeHandle_keeps ?_ ?_ | refine retryOutputs_keeps ?_ ?_
    | exact within_trans rfl hw
    | dsimp only
    | split
    | intro _

end Sys2Proof.Machine
end

