-- ==== Sys2Proof/Laws/KeepsMica.lean ====
section
/-! SUPPORT. What each operation of Machine/Mica.lean keeps. -/

set_option linter.all false

namespace Sys2Proof.Machine

theorem expertWrite_keeps {w : List StateField} {a s : State} {page : Nat} {f : State → State} (h : Keeps w a s)
    (hw : within [.regs, .srcs] w = true) (kf : ∀ t, Keeps w a t → Keeps w a (f t)) :
    Keeps w a (expertWrite s page f) := by
  unfold expertWrite
  repeat' first
    | with_reducible
        first
        | assumption | apply Answers.next | apply Answers.fault | apply Keeps.ite | apply Answers.ite
        | refine Keeps.foldl ?_ fun _ _ _ => ?_ | apply kf | refine setIrq_keeps ?_ ?_
    | exact within_trans rfl hw
    | dsimp only
    | split
    | intro _

theorem tickBanks_keeps {w : List StateField} {a s : State} (h : Keeps w a s)
    (hw : within [.regs, .banks, .perf] w = true) :
    Keeps w a (tickBanks s) := by
  unfold tickBanks
  repeat' first
    | with_reducible
        first
        | assumption | apply Answers.next | apply Answers.fault | apply Keeps.ite | apply Answers.ite
        | refine Keeps.foldl ?_ fun _ _ _ => ?_ | refine bankTick_keeps ?_ ?_
    | exact within_trans rfl hw
    | dsimp only
    | split
    | intro _

theorem issueJob_keeps {w : List StateField} {a s : State} {x : SegId} {p : Pic} {g : Seg} {b' : Nat} (h : Keeps w a s)
    (hw : within [.regs, .ctxs, .banks, .srcs, .doms, .perf] w = true) :
    Keeps w a (issueJob s x p g b') := by
  unfold issueJob
  repeat' first
    | with_reducible
        first
        | assumption | apply Answers.next | apply Answers.fault | apply Keeps.ite | apply Answers.ite
        | refine Keeps.foldl ?_ fun _ _ _ => ?_ | refine modBank_keeps ?_ ?_ | refine touchDomain_keeps ?_ ?_
        | refine setJobs_keeps ?_ ?_ | refine bankTick_keeps ?_ ?_ | refine modSeg_keeps ?_ ?_
    | exact within_trans rfl hw
    | dsimp only
    | split
    | intro _

theorem execSearchJobIssue_keeps {w : List StateField} {a s : State} {seg : SegId} (h : Keeps w a s)
    (hw : within [.regs, .ctxs, .banks, .srcs, .doms, .perf] w = true) :
    Answers w a (execSearchJobIssue seg s) := by
  unfold execSearchJobIssue
  repeat' first
    | with_reducible
        first
        | assumption | apply Answers.next | apply Answers.fault | apply Keeps.ite | apply Answers.ite
        | refine Keeps.foldl ?_ fun _ _ _ => ?_ | refine chooseDigital_keeps ?_ ?_ | refine tickBanks_keeps ?_ ?_
        | refine issueJob_keeps ?_ ?_
    | exact within_trans rfl hw
    | dsimp only
    | split
    | intro _

theorem countJob_keeps {w : List StateField} {a s : State} {fell : Bool} (h : Keeps w a s)
    (hw : within [.disp] w = true) :
    Keeps w a (countJob s fell) := by
  unfold countJob
  repeat' first
    | with_reducible
        first
        | assumption | apply Answers.next | apply Answers.fault | apply Keeps.ite | apply Answers.ite
        | refine Keeps.foldl ?_ fun _ _ _ => ?_
    | exact within_trans rfl hw
    | with_reducible refine keeps_mk ?_ ?_ ?_ ?_ ?_ ?_ ?_ ?_ ?_ ?_ ?_ ?_ ?_ ?_ ?_ ?_ ?_ ?_ ?_ ?_ ?_ ?_ ?_ ?_ ?_ ?_ ?_ ?_ ?_ ?_ ?_ ?_
    | with_reducible exact Or.inl rfl
    | exact Or.inr (within_trans rfl hw)
    | dsimp only
    | split
    | intro _

theorem jobDone_keeps {w : List StateField} {a s : State} {b' : Nat} {x : SegId} {codes : List Nat} (h : Keeps w a s)
    (hw : within [.regs, .mem, .ctxs, .banks, .disp, .srcs, .doms, .perf] w = true) :
    Keeps w a (jobDone s b' x codes) := by
  unfold jobDone
  repeat' first
    | with_reducible
        first
        | assumption | apply Answers.next | apply Answers.fault | apply Keeps.ite | apply Answers.ite
        | refine Keeps.foldl ?_ fun _ _ _ => ?_ | refine fadd_keeps ?_ ?_ | refine countEv_keeps ?_ ?_
        | refine takeJobs_keeps ?_ ?_ | refine modSeg_keeps ?_ ?_ | refine putBankRecord_keeps ?_ ?_
        | refine countJob_keeps ?_ ?_
    | exact within_trans rfl hw
    | dsimp only
    | split
    | intro _

theorem execSearchJobComplete_keeps {w : List StateField} {a s : State} {bank : Fin 4} {seg : SegId} {codes : List Nat} (h : Keeps w a s)
    (hw : within [.regs, .mem, .ctxs, .banks, .disp, .srcs, .doms, .perf] w = true) :
    Answers w a (execSearchJobComplete bank seg codes s) := by
  unfold execSearchJobComplete
  repeat' first
    | with_reducible
        first
        | assumption | apply Answers.next | apply Answers.fault | apply Keeps.ite | apply Answers.ite
        | refine Keeps.foldl ?_ fun _ _ _ => ?_ | refine bankTick_keeps ?_ ?_ | refine jobDone_keeps ?_ ?_
    | exact within_trans rfl hw
    | dsimp only
    | split
    | intro _

theorem setResid_keeps {w : List StateField} {a s : State} {b' t r : Nat} (h : Keeps w a s)
    (hw : within [.regs] w = true) :
    Keeps w a (setResid s b' t r) := by
  unfold setResid
  repeat' first
    | with_reducible
        first
        | assumption | apply Answers.next | apply Answers.fault | apply Keeps.ite | apply Answers.ite
        | refine Keeps.foldl ?_ fun _ _ _ => ?_ | refine fset_keeps ?_ ?_
    | exact within_trans rfl hw
    | dsimp only
    | split
    | intro _

theorem recordTile_keeps {w : List StateField} {a s : State} {b' t r : Nat} (h : Keeps w a s)
    (hw : within [.free, .regs, .bdrk] w = true) :
    Keeps w a (recordTile s b' t r) := by
  unfold recordTile
  repeat' first
    | with_reducible
        first
        | assumption | apply Answers.next | apply Answers.fault | apply Keeps.ite | apply Answers.ite
        | refine Keeps.foldl ?_ fun _ _ _ => ?_ | refine calRecord_keeps ?_ ?_ | refine setResid_keeps ?_ ?_
    | exact within_trans rfl hw
    | dsimp only
    | split
    | intro _

theorem syncTiles_keeps {w : List StateField} {a s : State} {b' : Nat} (h : Keeps w a s)
    (hw : within [.regs] w = true) :
    Keeps w a (syncTiles s b') := by
  unfold syncTiles
  repeat' first
    | with_reducible
        first
        | assumption | apply Answers.next | apply Answers.fault | apply Keeps.ite | apply Answers.ite
        | refine Keeps.foldl ?_ fun _ _ _ => ?_ | refine fset_keeps ?_ ?_
    | exact within_trans rfl hw
    | dsimp only
    | split
    | intro _

theorem driftDisable_keeps {w : List StateField} {a s : State} {b' t : Nat} (h : Keeps w a s)
    (hw : within [.free, .regs, .staged, .latched, .ctxs, .engines, .banks, .disp, .chans, .srcs, .tgts, .holdoff, .doms, .chip, .flows, .queues, .pnodes, .store, .bdrk, .perf, .pins] w = true) :
    Keeps w a (driftDisable s b' t) := by
  unfold driftDisable
  repeat' first
    | with_reducible
        first
        | assumption | apply Answers.next | apply Answers.fault | apply Keeps.ite | apply Answers.ite
        | refine Keeps.foldl ?_ fun _ _ _ => ?_ | refine fset_keeps ?_ ?_ | refine modBank_keeps ?_ ?_
        | refine setIrq_keeps ?_ ?_ | refine requestCal_keeps ?_ ?_ | refine checkTiles_keeps ?_ ?_
        | refine raiseFault_keeps ?_ ?_ | refine syncTiles_keeps ?_ ?_
    | exact within_trans rfl hw
    | dsimp only
    | split
    | intro _

theorem driftEnd_keeps {w : List StateField} {a s : State} {b' : Nat} (h : Keeps w a s)
    (hw : within [.regs] w = true) :
    Keeps w a (driftEnd s b') := by
  unfold driftEnd
  repeat' first
    | with_reducible
        first
        | assumption | apply Answers.next | apply Answers.fault | apply Keeps.ite | apply Answers.ite
        | refine Keeps.foldl ?_ fun _ _ _ => ?_ | refine fset_keeps ?_ ?_ | refine fsetb_keeps ?_ ?_
        | refine syncBank_keeps ?_ ?_
    | exact within_trans rfl hw
    | dsimp only
    | split
    | intro _

theorem driftResult_keeps {w : List StateField} {a s : State} {b' resid : Nat} (h : Keeps w a s)
    (hw : within [.free, .regs, .staged, .latched, .ctxs, .engines, .banks, .disp, .chans, .srcs, .tgts, .holdoff, .doms, .chip, .flows, .queues, .pnodes, .store, .bdrk, .perf, .pins] w = true) :
    Keeps w a (driftResult s b' resid) := by
  unfold driftResult
  repeat' first
    | with_reducible
        first
        | assumption | apply Answers.next | apply Answers.fault | apply Keeps.ite | apply Answers.ite
        | refine Keeps.foldl ?_ fun _ _ _ => ?_ | refine countEv_keeps ?_ ?_ | refine modBank_keeps ?_ ?_
        | refine checkTiles_keeps ?_ ?_ | refine recordTile_keeps ?_ ?_ | refine driftDisable_keeps ?_ ?_
        | refine driftEnd_keeps ?_ ?_
    | exact within_trans rfl hw
    | dsimp only
    | split
    | intro _

theorem driftBegin_keeps {w : List StateField} {a s : State} {b' : Nat} (h : Keeps w a s)
    (hw : within [.regs, .banks] w = true) :
    Keeps w a (driftBegin s b') := by
  unfold driftBegin
  repeat' first
    | with_reducible
        first
        | assumption | apply Answers.next | apply Answers.fault | apply Keeps.ite | apply Answers.ite
        | refine Keeps.foldl ?_ fun _ _ _ => ?_ | refine fset_keeps ?_ ?_ | refine fsetb_keeps ?_ ?_
        | refine modBank_keeps ?_ ?_ | refine syncBank_keeps ?_ ?_
    | exact within_trans rfl hw
    | dsimp only
    | split
    | intro _

theorem execDriftCheck_keeps {w : List StateField} {a s : State} {bank : Fin 4} {resid : Option Nat} (h : Keeps w a s)
    (hw : within [.free, .regs, .staged, .latched, .ctxs, .engines, .banks, .disp, .chans, .srcs, .tgts, .holdoff, .doms, .chip, .flows, .queues, .pnodes, .store, .bdrk, .perf, .pins] w = true) :
    Answers w a (execDriftCheck bank resid s) := by
  unfold execDriftCheck
  repeat' first
    | with_reducible
        first
        | assumption | apply Answers.next | apply Answers.fault | apply Keeps.ite | apply Answers.ite
        | refine Keeps.foldl ?_ fun _ _ _ => ?_ | refine bankTick_keeps ?_ ?_ | refine driftResult_keeps ?_ ?_
        | refine driftBegin_keeps ?_ ?_
    | exact within_trans rfl hw
    | dsimp only
    | split
    | intro _

theorem execCalReq_keeps {w : List StateField} {a s : State} {bank : Fin 4} (h : Keeps w a s)
    (hw : within [.regs, .ctxs, .banks, .srcs, .doms] w = true) :
    Answers w a (execCalReq bank s) := by
  unfold execCalReq
  repeat' first
    | with_reducible
        first
        | assumption | apply Answers.next | apply Answers.fault | apply Keeps.ite | apply Answers.ite
        | refine Keeps.foldl ?_ fun _ _ _ => ?_ | refine requestCal_keeps ?_ ?_
    | exact within_trans rfl hw
    | dsimp only
    | split
    | intro _

theorem execMicaRetire_keeps {w : List StateField} {a s : State} {bank : Fin 4} (h : Keeps w a s)
    (hw : within [.regs, .ctxs, .banks, .srcs, .doms] w = true) :
    Answers w a (execMicaRetire bank s) := by
  unfold execMicaRetire
  repeat' first
    | with_reducible
        first
        | assumption | apply Answers.next | apply Answers.fault | apply Keeps.ite | apply Answers.ite
        | refine Keeps.foldl ?_ fun _ _ _ => ?_ | refine retireBank_keeps ?_ ?_
    | exact within_trans rfl hw
    | dsimp only
    | split
    | intro _

theorem execMicaAdmit_keeps {w : List StateField} {a s : State} {bank : Fin 4} (h : Keeps w a s)
    (hw : within [.regs, .ctxs, .srcs, .doms] w = true) :
    Answers w a (execMicaAdmit bank s) := by
  unfold execMicaAdmit
  repeat' first
    | with_reducible
        first
        | assumption | apply Answers.next | apply Answers.fault | apply Keeps.ite | apply Answers.ite
        | refine Keeps.foldl ?_ fun _ _ _ => ?_ | refine admitBank_keeps ?_ ?_
    | exact within_trans rfl hw
    | dsimp only
    | split
    | intro _

theorem setTrims_keeps {w : List StateField} {a s : State} {b' : Nat} {trim : List (List Nat)} (h : Keeps w a s)
    (hw : within [.banks] w = true) :
    Keeps w a (setTrims s b' trim) := by
  unfold setTrims
  repeat' first
    | with_reducible
        first
        | assumption | apply Answers.next | apply Answers.fault | apply Keeps.ite | apply Answers.ite
        | refine Keeps.foldl ?_ fun _ _ _ => ?_ | refine modBank_keeps ?_ ?_
    | exact within_trans rfl hw
    | dsimp only
    | split
    | intro _

theorem calDone_keeps {w : List StateField} {a s : State} {b' : Nat} {resid : List Nat} {trim : List (List Nat)} (h : Keeps w a s)
    (hw : within [.free, .regs, .staged, .latched, .ctxs, .engines, .banks, .disp, .chans, .srcs, .tgts, .holdoff, .doms, .chip, .flows, .queues, .pnodes, .store, .bdrk, .perf, .pins] w = true) :
    Keeps w a (calDone s b' resid trim) := by
  unfold calDone
  repeat' first
    | with_reducible
        first
        | assumption | apply Answers.next | apply Answers.fault | apply Keeps.ite | apply Answers.ite
        | refine Keeps.foldl ?_ fun _ _ _ => ?_ | refine fset_keeps ?_ ?_ | refine modBank_keeps ?_ ?_
        | refine setIrq_keeps ?_ ?_ | refine setReady_keeps ?_ ?_ | refine setBank_keeps ?_ ?_
        | refine raiseFault_keeps ?_ ?_ | refine recordTile_keeps ?_ ?_ | refine syncTiles_keeps ?_ ?_
        | refine driftEnd_keeps ?_ ?_ | refine setTrims_keeps ?_ ?_
    | exact within_trans rfl hw
    | dsimp only
    | split
    | intro _

theorem execTileMaskWrite_keeps {w : List StateField} {a s : State} {bank : Fin 4} {val : Word} (h : Keeps w a s)
    (hw : within [.regs, .ctxs, .banks, .srcs, .doms] w = true) :
    Answers w a (execTileMaskWrite bank val s) := by
  unfold execTileMaskWrite
  repeat' first
    | with_reducible
        first
        | assumption | apply Answers.next | apply Answers.fault | apply Keeps.ite | apply Answers.ite
        | refine Keeps.foldl ?_ fun _ _ _ => ?_ | refine fset_keeps ?_ ?_ | refine checkTiles_keeps ?_ ?_
        | refine expertWrite_keeps ?_ ?_ fun _ _ => ?_ | refine syncTiles_keeps ?_ ?_
    | exact within_trans rfl hw
    | dsimp only
    | split
    | intro _

theorem execMinTilesWrite_keeps {w : List StateField} {a s : State} {bank : Fin 4} {val : Word} (h : Keeps w a s)
    (hw : within [.regs, .ctxs, .banks, .srcs, .doms] w = true) :
    Answers w a (execMinTilesWrite bank val s) := by
  unfold execMinTilesWrite
  repeat' first
    | with_reducible
        first
        | assumption | apply Answers.next | apply Answers.fault | apply Keeps.ite | apply Answers.ite
        | refine Keeps.foldl ?_ fun _ _ _ => ?_ | refine fset_keeps ?_ ?_ | refine checkTiles_keeps ?_ ?_
        | refine expertWrite_keeps ?_ ?_ fun _ _ => ?_
    | exact within_trans rfl hw
    | dsimp only
    | split
    | intro _

end Sys2Proof.Machine
end

