-- ==== Sys2Proof/Laws/KeepsBringup.lean ====
section
/-! SUPPORT. What each operation of Machine/Bringup.lean keeps. -/

set_option linter.all false

namespace Sys2Proof.Machine

theorem syncRails_keeps {w : List StateField} {a s : State} (h : Keeps w a s)
    (hw : within [.regs] w = true) :
    Keeps w a (syncRails s) := by
  unfold syncRails
  repeat' first
    | with_reducible
        first
        | assumption | apply Answers.next | apply Answers.fault | apply Keeps.ite | apply Answers.ite
        | refine Keeps.foldl ?_ fun _ _ _ => ?_ | refine fset_keeps ?_ ?_
    | exact within_trans rfl hw
    | dsimp only
    | split
    | intro _

theorem coldState_keeps {w : List StateField} {a s : State} (h : Keeps w a s)
    (hw : within [.regs, .staged, .latched, .mem, .poison, .rings, .ctxs, .engines, .banks, .disp, .talus, .dmcs, .chans, .srcs, .tgts, .holdoff, .funcs, .doms, .chip, .flows, .svcs, .ptp, .queues, .snodes, .pnodes, .store, .dgCount, .bdrk, .perf, .pins] w = true) : Keeps w a (coldState s) :=
  syncRails_keeps (h.trans (by
    constructor
    all_goals first
      | exact fun e => absurd (within_mem hw (by decide)) e
      | exact fun _ => rfl
      | rfl)) (within_trans rfl hw)

theorem powerOnReset_keeps {w : List StateField} {a s : State} (h : Keeps w a s)
    (hw : within [.regs, .staged, .latched, .mem, .poison, .rings, .ctxs, .engines, .banks, .disp, .talus, .dmcs, .chans, .srcs, .tgts, .holdoff, .funcs, .doms, .chip, .flows, .svcs, .ptp, .queues, .snodes, .pnodes, .store, .dgCount, .bdrk, .perf, .pins] w = true) :
    Keeps w a (powerOnReset s) := by
  unfold powerOnReset
  repeat' first
    | with_reducible
        first
        | assumption | apply Answers.next | apply Answers.fault | apply Keeps.ite | apply Answers.ite
        | refine Keeps.foldl ?_ fun _ _ _ => ?_ | refine setChip_keeps ?_ ?_ | refine coldState_keeps ?_ ?_
    | exact within_trans rfl hw
    | dsimp only
    | split
    | intro _

theorem relock_keeps {w : List StateField} {a s : State} (h : Keeps w a s)
    (hw : within [.regs, .srcs] w = true) :
    Keeps w a (relock s) := by
  unfold relock
  repeat' first
    | with_reducible
        first
        | assumption | apply Answers.next | apply Answers.fault | apply Keeps.ite | apply Answers.ite
        | refine Keeps.foldl ?_ fun _ _ _ => ?_ | refine fset_keeps ?_ ?_ | refine setIrq_keeps ?_ ?_
    | exact within_trans rfl hw
    | dsimp only
    | split
    | intro _

theorem ackAvs_keeps {w : List StateField} {a s : State} (h : Keeps w a s)
    (hw : within [.regs] w = true) :
    Keeps w a (ackAvs s) := by
  unfold ackAvs
  repeat' first
    | with_reducible
        first
        | assumption | apply Answers.next | apply Answers.fault | apply Keeps.ite | apply Answers.ite
        | refine Keeps.foldl ?_ fun _ _ _ => ?_ | refine fset_keeps ?_ ?_
    | exact within_trans rfl hw
    | dsimp only
    | split
    | intro _

theorem logBoot_keeps {w : List StateField} {a s : State} {cause : Nat} (h : Keeps w a s)
    (hw : within [.free, .regs, .bdrk] w = true) :
    Keeps w a (logBoot s cause) := by
  unfold logBoot
  repeat' first
    | with_reducible
        first
        | assumption | apply Answers.next | apply Answers.fault | apply Keeps.ite | apply Answers.ite
        | refine Keeps.foldl ?_ fun _ _ _ => ?_ | refine useFree_keeps ?_ ?_ | refine logEvent_keeps ?_ ?_
    | exact within_trans rfl hw
    | dsimp only
    | split
    | intro _

theorem allOff_keeps {w : List StateField} {a s : State} (h : Keeps w a s)
    (hw : within [.regs, .engines, .banks, .dmcs, .srcs, .doms] w = true) :
    Keeps w a (allOff s) := by
  unfold allOff
  repeat' first
    | with_reducible
        first
        | assumption | apply Answers.next | apply Answers.fault | apply Keeps.ite | apply Answers.ite
        | refine Keeps.foldl ?_ fun _ _ _ => ?_ | refine modDom_keeps ?_ ?_ | refine setDomState_keeps ?_ ?_
    | exact within_trans rfl hw
    | with_reducible refine keeps_mk ?_ ?_ ?_ ?_ ?_ ?_ ?_ ?_ ?_ ?_ ?_ ?_ ?_ ?_ ?_ ?_ ?_ ?_ ?_ ?_ ?_ ?_ ?_ ?_ ?_ ?_ ?_ ?_ ?_ ?_ ?_ ?_
    | with_reducible exact Or.inl rfl
    | exact Or.inr (within_trans rfl hw)
    | dsimp only
    | split
    | intro _

theorem enterSentinel_keeps {w : List StateField} {a s : State} {cause : Nat} (h : Keeps w a s)
    (hw : within [.free, .regs, .engines, .banks, .dmcs, .srcs, .doms, .chip, .bdrk, .pins, .out] w = true) :
    Keeps w a (enterSentinel s cause) := by
  unfold enterSentinel
  repeat' first
    | with_reducible
        first
        | assumption | apply Answers.next | apply Answers.fault | apply Keeps.ite | apply Answers.ite
        | refine Keeps.foldl ?_ fun _ _ _ => ?_ | refine fset_keeps ?_ ?_ | refine emit_keeps ?_ ?_
        | refine syncSrc_keeps ?_ ?_ | refine setChip_keeps ?_ ?_ | refine logBoot_keeps ?_ ?_
        | refine allOff_keeps ?_ ?_
    | exact within_trans rfl hw
    | with_reducible refine keeps_mk ?_ ?_ ?_ ?_ ?_ ?_ ?_ ?_ ?_ ?_ ?_ ?_ ?_ ?_ ?_ ?_ ?_ ?_ ?_ ?_ ?_ ?_ ?_ ?_ ?_ ?_ ?_ ?_ ?_ ?_ ?_ ?_
    | with_reducible exact Or.inl rfl
    | exact Or.inr (within_trans rfl hw)
    | dsimp only
    | split
    | intro _

theorem chooseStandbys_keeps {w : List StateField} {a s : State} {pages : List Nat} (h : Keeps w a s)
    (hw : within [.regs, .engines, .disp, .srcs, .doms, .bdrk] w = true) :
    Keeps w a (chooseStandbys s pages) := by
  unfold chooseStandbys
  repeat' first
    | with_reducible
        first
        | assumption | apply Answers.next | apply Answers.fault | apply Keeps.ite | apply Answers.ite
        | refine Keeps.foldl ?_ fun _ _ _ => ?_ | refine callIn_keeps ?_ ?_ | refine drainToStandby_keeps ?_ ?_
        | refine endUnitDrain_keeps ?_ ?_
    | exact within_trans rfl hw
    | dsimp only
    | split
    | intro _

theorem kindTested_keeps {w : List StateField} {a s : State} {k : EngKind} (h : Keeps w a s)
    (hw : within [.regs, .engines, .disp, .srcs, .doms, .chip, .bdrk] w = true) :
    Keeps w a (kindTested s k) := by
  unfold kindTested
  repeat' first
    | with_reducible
        first
        | assumption | apply Answers.next | apply Answers.fault | apply Keeps.ite | apply Answers.ite
        | refine Keeps.foldl ?_ fun _ _ _ => ?_ | refine setChip_keeps ?_ ?_ | refine chooseStandbys_keeps ?_ ?_
    | exact within_trans rfl hw
    | dsimp only
    | split
    | intro _

theorem endBringup_keeps {w : List StateField} {a s : State} (h : Keeps w a s)
    (hw : within [.free, .regs, .srcs, .chip, .bdrk] w = true) :
    Keeps w a (endBringup s) := by
  unfold endBringup
  repeat' first
    | with_reducible
        first
        | assumption | apply Answers.next | apply Answers.fault | apply Keeps.ite | apply Answers.ite
        | refine Keeps.foldl ?_ fun _ _ _ => ?_ | refine fset_keeps ?_ ?_ | refine setIrq_keeps ?_ ?_
        | refine setReady_keeps ?_ ?_ | refine setChip_keeps ?_ ?_ | refine logBoot_keeps ?_ ?_
    | exact within_trans rfl hw
    | dsimp only
    | split
    | intro _

theorem bringupTest_keeps {w : List StateField} {a s : State} {page : Nat} (h : Keeps w a s)
    (hw : within [.regs, .engines, .doms] w = true) :
    Keeps w a (bringupTest s page) := by
  unfold bringupTest
  repeat' first
    | with_reducible
        first
        | assumption | apply Answers.next | apply Answers.fault | apply Keeps.ite | apply Answers.ite
        | refine Keeps.foldl ?_ fun _ _ _ => ?_ | refine fset_keeps ?_ ?_ | refine modEng_keeps ?_ ?_
        | refine startTest_keeps ?_ ?_
    | exact within_trans rfl hw
    | dsimp only
    | split
    | intro _

theorem bringupCal_keeps {w : List StateField} {a s : State} {b' : Nat} (h : Keeps w a s)
    (hw : within [.regs, .ctxs, .banks, .srcs, .doms] w = true) :
    Keeps w a (bringupCal s b') := by
  unfold bringupCal
  repeat' first
    | with_reducible
        first
        | assumption | apply Answers.next | apply Answers.fault | apply Keeps.ite | apply Answers.ite
        | refine Keeps.foldl ?_ fun _ _ _ => ?_ | refine modBank_keeps ?_ ?_ | refine requestWake_keeps ?_ ?_
        | refine setBank_keeps ?_ ?_
    | exact within_trans rfl hw
    | dsimp only
    | split
    | intro _

theorem bringupPpu_keeps {w : List StateField} {a s : State} {page : Nat} (h : Keeps w a s)
    (hw : within [.free, .regs, .engines, .disp, .srcs, .doms] w = true) :
    Keeps w a (bringupPpu s page) := by
  unfold bringupPpu
  repeat' first
    | with_reducible
        first
        | assumption | apply Answers.next | apply Answers.fault | apply Keeps.ite | apply Answers.ite
        | refine Keeps.foldl ?_ fun _ _ _ => ?_ | refine fset_keeps ?_ ?_ | refine callIn_keeps ?_ ?_
        | refine ppuTested_keeps ?_ ?_
    | exact within_trans rfl hw
    | dsimp only
    | split
    | intro _

theorem checkBringup_keeps {w : List StateField} {a s : State} (h : Keeps w a s)
    (hw : within [.free, .regs, .ctxs, .engines, .banks, .disp, .srcs, .doms, .chip, .bdrk] w = true) :
    Keeps w a (checkBringup s) := by
  unfold checkBringup
  repeat' first
    | with_reducible
        first
        | assumption | apply Answers.next | apply Answers.fault | apply Keeps.ite | apply Answers.ite
        | refine Keeps.foldl ?_ fun _ _ _ => ?_ | refine setChip_keeps ?_ ?_ | refine kindTested_keeps ?_ ?_
        | refine endBringup_keeps ?_ ?_ | refine bringupTest_keeps ?_ ?_ | refine bringupCal_keeps ?_ ?_
        | refine bringupPpu_keeps ?_ ?_
    | exact within_trans rfl hw
    | dsimp only
    | split
    | intro _

theorem startWaves_keeps {w : List StateField} {a s : State} {l : List Nat} (h : Keeps w a s)
    (hw : within [.regs, .engines, .doms, .chip] w = true) : Keeps w a (startWaves s l) := by
  induction l generalizing s with
  | nil =>
    unfold startWaves
    split
    · exact Keeps.foldl (setChip_keeps h (within_trans rfl hw)) fun _ _ k => requestWake_keeps k (within_trans rfl hw)
    · exact h
  | cons w ws ih =>
    unfold startWaves
    dsimp only
    split
    · exact ih h
    · exact Keeps.foldl (setChip_keeps h (within_trans rfl hw)) fun _ _ k => bringupTest_keeps k (within_trans rfl hw)

theorem engineEnded_keeps {w : List StateField} {a s : State} {page : Nat} (h : Keeps w a s)
    (hw : within [.regs, .engines, .srcs, .doms, .chip] w = true) :
    Keeps w a (engineEnded s page) := by
  unfold engineEnded
  repeat' first
    | with_reducible
        first
        | assumption | apply Answers.next | apply Answers.fault | apply Keeps.ite | apply Answers.ite
        | refine Keeps.foldl ?_ fun _ _ _ => ?_ | refine fsetb_keeps ?_ ?_ | refine setReady_keeps ?_ ?_
        | refine startWaves_keeps ?_ ?_
    | exact within_trans rfl hw
    | dsimp only
    | split
    | intro _

theorem nextBank_keeps {w : List StateField} {a s : State} (h : Keeps w a s)
    (hw : within [.regs, .ctxs, .banks, .srcs, .doms] w = true) :
    Keeps w a (nextBank s) := by
  unfold nextBank
  repeat' first
    | with_reducible
        first
        | assumption | apply Answers.next | apply Answers.fault | apply Keeps.ite | apply Answers.ite
        | refine Keeps.foldl ?_ fun _ _ _ => ?_ | refine requestWake_keeps ?_ ?_ | refine bringupCal_keeps ?_ ?_
    | exact within_trans rfl hw
    | dsimp only
    | split
    | intro _

theorem readyPcie_keeps {w : List StateField} {a s : State} (h : Keeps w a s)
    (hw : within [.regs, .srcs] w = true) :
    Keeps w a (readyPcie s) := by
  unfold readyPcie
  repeat' first
    | with_reducible
        first
        | assumption | apply Answers.next | apply Answers.fault | apply Keeps.ite | apply Answers.ite
        | refine Keeps.foldl ?_ fun _ _ _ => ?_ | refine setReady_keeps ?_ ?_ | refine checkContextReady_keeps ?_ ?_
    | exact within_trans rfl hw
    | dsimp only
    | split
    | intro _

theorem bringupOn_keeps {w : List StateField} {a s : State} {d : Nat} (h : Keeps w a s)
    (hw : within [.free, .regs, .ctxs, .engines, .banks, .disp, .srcs, .doms, .chip, .store, .bdrk] w = true) :
    Keeps w a (bringupOn s d) := by
  unfold bringupOn
  repeat' first
    | with_reducible
        first
        | assumption | apply Answers.next | apply Answers.fault | apply Keeps.ite | apply Answers.ite
        | refine Keeps.foldl ?_ fun _ _ _ => ?_ | refine fset_keeps ?_ ?_ | refine setReady_keeps ?_ ?_
        | refine bringupCal_keeps ?_ ?_ | refine bringupPpu_keeps ?_ ?_ | refine checkBringup_keeps ?_ ?_
        | refine nextBank_keeps ?_ ?_ | refine readyPcie_keeps ?_ ?_
    | exact within_trans rfl hw
    | with_reducible refine keeps_mk ?_ ?_ ?_ ?_ ?_ ?_ ?_ ?_ ?_ ?_ ?_ ?_ ?_ ?_ ?_ ?_ ?_ ?_ ?_ ?_ ?_ ?_ ?_ ?_ ?_ ?_ ?_ ?_ ?_ ?_ ?_ ?_
    | with_reducible exact Or.inl rfl
    | exact Or.inr (within_trans rfl hw)
    | dsimp only
    | split
    | intro _

theorem calThermal_keeps {w : List StateField} {a s : State} {offsets : List ℤ} (h : Keeps w a s)
    (hw : within [.free, .regs, .chip, .bdrk] w = true) :
    Keeps w a (calThermal s offsets) := by
  unfold calThermal
  repeat' first
    | with_reducible
        first
        | assumption | apply Answers.next | apply Answers.fault | apply Keeps.ite | apply Answers.ite
        | refine Keeps.foldl ?_ fun _ _ _ => ?_ | refine calRecord_keeps ?_ ?_ | refine setChip_keeps ?_ ?_
    | exact within_trans rfl hw
    | dsimp only
    | split
    | intro _

theorem loadFuses_keeps {w : List StateField} {a s : State} (h : Keeps w a s)
    (hw : within [.free, .regs] w = true) :
    Keeps w a (loadFuses s) := by
  unfold loadFuses
  repeat' first
    | with_reducible
        first
        | assumption | apply Answers.next | apply Answers.fault | apply Keeps.ite | apply Answers.ite
        | refine Keeps.foldl ?_ fun _ _ _ => ?_ | refine fset_keeps ?_ ?_ | refine useFree_keeps ?_ ?_
    | exact within_trans rfl hw
    | dsimp only
    | split
    | intro _

theorem startBringup_keeps {w : List StateField} {a s : State} {bootSrc smbAddr : Nat} {offsets : List ℤ} (h : Keeps w a s)
    (hw : within [.free, .regs, .srcs, .doms, .chip, .bdrk] w = true) :
    Keeps w a (startBringup s bootSrc smbAddr offsets) := by
  unfold startBringup
  repeat' first
    | with_reducible
        first
        | assumption | apply Answers.next | apply Answers.fault | apply Keeps.ite | apply Answers.ite
        | refine Keeps.foldl ?_ fun _ _ _ => ?_ | refine fset_keeps ?_ ?_ | refine fsetb_keeps ?_ ?_
        | refine setDomState_keeps ?_ ?_ | refine setReady_keeps ?_ ?_ | refine setChip_keeps ?_ ?_
        | refine calThermal_keeps ?_ ?_ | refine loadFuses_keeps ?_ ?_
    | exact within_trans rfl hw
    | dsimp only
    | split
    | intro _

theorem runFirmware_keeps {w : List StateField} {a s : State} {slot ver : Nat} {fallback : Bool} (h : Keeps w a s)
    (hw : within [.regs, .tgts, .chip] w = true) :
    Keeps w a (runFirmware s slot ver fallback) := by
  unfold runFirmware
  repeat' first
    | with_reducible
        first
        | assumption | apply Answers.next | apply Answers.fault | apply Keeps.ite | apply Answers.ite
        | refine Keeps.foldl ?_ fun _ _ _ => ?_ | refine fset_keeps ?_ ?_ | refine fsetb_keeps ?_ ?_
        | refine modTgt_keeps ?_ ?_ | refine setChip_keeps ?_ ?_
    | exact within_trans rfl hw
    | dsimp only
    | split
    | intro _

theorem restartFirmware_keeps {w : List StateField} {a s : State} {a' b' : PackageCheck} (h : Keeps w a s)
    (hw : within [.regs, .tgts, .chip] w = true) :
    Keeps w a (restartFirmware s a' b') := by
  unfold restartFirmware
  repeat' first
    | with_reducible
        first
        | assumption | apply Answers.next | apply Answers.fault | apply Keeps.ite | apply Answers.ite
        | refine Keeps.foldl ?_ fun _ _ _ => ?_ | refine fset_keeps ?_ ?_ | refine runFirmware_keeps ?_ ?_
    | exact within_trans rfl hw
    | dsimp only
    | split
    | intro _

theorem firmwareUp_keeps {w : List StateField} {a s : State} {slot ver : Nat} {fallback : Bool} (h : Keeps w a s)
    (hw : within [.regs, .engines, .srcs, .tgts, .doms, .chip] w = true) :
    Keeps w a (firmwareUp s slot ver fallback) := by
  unfold firmwareUp
  repeat' first
    | with_reducible
        first
        | assumption | apply Answers.next | apply Answers.fault | apply Keeps.ite | apply Answers.ite
        | refine Keeps.foldl ?_ fun _ _ _ => ?_ | refine fset_keeps ?_ ?_ | refine requestWake_keeps ?_ ?_
        | refine setReady_keeps ?_ ?_ | refine startWaves_keeps ?_ ?_ | refine readyPcie_keeps ?_ ?_
        | refine runFirmware_keeps ?_ ?_
    | exact within_trans rfl hw
    | dsimp only
    | split
    | intro _

theorem channelTrained_keeps {w : List StateField} {a s : State} {rates : List (Option Nat)} {eyes : List Nat} {density ranks ch : Nat} (h : Keeps w a s)
    (hw : within [.free, .regs, .staged, .latched, .ctxs, .engines, .banks, .disp, .dmcs, .chans, .srcs, .tgts, .holdoff, .doms, .chip, .flows, .queues, .pnodes, .store, .bdrk, .perf, .pins] w = true) :
    Keeps w a (channelTrained s rates eyes density ranks ch) := by
  unfold channelTrained
  repeat' first
    | with_reducible
        first
        | assumption | apply Answers.next | apply Answers.fault | apply Keeps.ite | apply Answers.ite
        | refine Keeps.foldl ?_ fun _ _ _ => ?_ | refine fset_keeps ?_ ?_ | refine modDmc_keeps ?_ ?_
        | refine calRecord_keeps ?_ ?_ | refine raiseFault_keeps ?_ ?_
    | exact within_trans rfl hw
    | dsimp only
    | split
    | intro _

theorem dropGroup_keeps {w : List StateField} {a s : State} {g : Nat} (h : Keeps w a s)
    (hw : within [.regs, .srcs, .doms] w = true) :
    Keeps w a (dropGroup s g) := by
  unfold dropGroup
  repeat' first
    | with_reducible
        first
        | assumption | apply Answers.next | apply Answers.fault | apply Keeps.ite | apply Answers.ite
        | refine Keeps.foldl ?_ fun _ _ _ => ?_ | refine fset_keeps ?_ ?_ | refine modDom_keeps ?_ ?_
        | refine setDomState_keeps ?_ ?_
    | exact within_trans rfl hw
    | dsimp only
    | split
    | intro _

theorem writeIlv_keeps {w : List StateField} {a s : State} {rates : List (Option Nat)} {density : Nat} (h : Keeps w a s)
    (hw : within [.free, .regs, .ctxs, .banks, .srcs, .doms] w = true) :
    Keeps w a (writeIlv s rates density) := by
  unfold writeIlv
  repeat' first
    | with_reducible
        first
        | assumption | apply Answers.next | apply Answers.fault | apply Keeps.ite | apply Answers.ite
        | refine Keeps.foldl ?_ fun _ _ _ => ?_ | refine fset_keeps ?_ ?_ | refine qset_keeps ?_ ?_
        | refine useFree_keeps ?_ ?_
    | exact within_trans rfl hw
    | dsimp only
    | split
    | intro _

theorem layRegions_keeps {w : List StateField} {a s : State} (h : Keeps w a s)
    (hw : within [.regs, .mem, .poison] w = true) :
    Keeps w a (layRegions s) := by
  unfold layRegions
  repeat' first
    | with_reducible
        first
        | assumption | apply Answers.next | apply Answers.fault | apply Keeps.ite | apply Answers.ite
        | refine Keeps.foldl ?_ fun _ _ _ => ?_ | refine fset_keeps ?_ ?_ | refine qset_keeps ?_ ?_
        | refine setRegion_keeps ?_ ?_
    | exact within_trans rfl hw
    | dsimp only
    | split
    | intro _

theorem layPool_keeps {w : List StateField} {a s : State} {p : Nat} (h : Keeps w a s)
    (hw : within [.free, .regs] w = true) :
    Keeps w a (layPool s p) := by
  unfold layPool
  repeat' first
    | with_reducible
        first
        | assumption | apply Answers.next | apply Answers.fault | apply Keeps.ite | apply Answers.ite
        | refine Keeps.foldl ?_ fun _ _ _ => ?_ | refine fset_keeps ?_ ?_ | refine qset_keeps ?_ ?_
        | refine useFree_keeps ?_ ?_
    | exact within_trans rfl hw
    | dsimp only
    | split
    | intro _

theorem memoryUp_keeps {w : List StateField} {a s : State} (h : Keeps w a s)
    (hw : within [.free, .regs, .mem, .poison, .ctxs, .engines, .banks, .disp, .srcs, .doms, .chip, .bdrk] w = true) :
    Keeps w a (memoryUp s) := by
  unfold memoryUp
  repeat' first
    | with_reducible
        first
        | assumption | apply Answers.next | apply Answers.fault | apply Keeps.ite | apply Answers.ite
        | refine Keeps.foldl ?_ fun _ _ _ => ?_ | refine requestWake_keeps ?_ ?_ | refine setReady_keeps ?_ ?_
        | refine checkContextReady_keeps ?_ ?_ | refine setChip_keeps ?_ ?_ | refine checkBringup_keeps ?_ ?_
        | refine layRegions_keeps ?_ ?_ | refine layPool_keeps ?_ ?_
    | exact within_trans rfl hw
    | dsimp only
    | split
    | intro _

theorem interleave_keeps {w : List StateField} {a s : State} {rates : List (Option (Fin 5))} {eyes : List Nat} (h : Keeps w a s)
    (hw : within [.free, .regs, .staged, .latched, .mem, .poison, .ctxs, .engines, .banks, .disp, .dmcs, .chans, .srcs, .tgts, .holdoff, .doms, .chip, .flows, .queues, .pnodes, .store, .bdrk, .perf, .pins, .out] w = true) :
    Keeps w a (interleave s rates eyes) := by
  unfold interleave
  repeat' first
    | with_reducible
        first
        | assumption | apply Answers.next | apply Answers.fault | apply Keeps.ite | apply Answers.ite
        | refine Keeps.foldl ?_ fun _ _ _ => ?_ | refine useFree_keeps ?_ ?_ | refine enterSentinel_keeps ?_ ?_
        | refine channelTrained_keeps ?_ ?_ | refine dropGroup_keeps ?_ ?_ | refine writeIlv_keeps ?_ ?_
        | refine memoryUp_keeps ?_ ?_
    | exact within_trans rfl hw
    | dsimp only
    | split
    | intro _

theorem execRailsGood_keeps {w : List StateField} {a s : State} (h : Keeps w a s)
    (hw : within [.regs, .chip, .pins] w = true) :
    Answers w a (execRailsGood s) := by
  unfold execRailsGood
  repeat' first
    | with_reducible
        first
        | assumption | apply Answers.next | apply Answers.fault | apply Keeps.ite | apply Answers.ite
        | refine Keeps.foldl ?_ fun _ _ _ => ?_ | refine setChip_keeps ?_ ?_ | refine syncRails_keeps ?_ ?_
    | exact within_trans rfl hw
    | with_reducible refine keeps_mk ?_ ?_ ?_ ?_ ?_ ?_ ?_ ?_ ?_ ?_ ?_ ?_ ?_ ?_ ?_ ?_ ?_ ?_ ?_ ?_ ?_ ?_ ?_ ?_ ?_ ?_ ?_ ?_ ?_ ?_ ?_ ?_
    | with_reducible exact Or.inl rfl
    | exact Or.inr (within_trans rfl hw)
    | dsimp only
    | split
    | intro _

theorem execAonPowerOnResetRelease_keeps {w : List StateField} {a s : State} (h : Keeps w a s)
    (hw : within [.devtime, .chip] w = true) :
    Answers w a (execAonPowerOnResetRelease s) := by
  unfold execAonPowerOnResetRelease
  repeat' first
    | with_reducible
        first
        | assumption | apply Answers.next | apply Answers.fault | apply Keeps.ite | apply Answers.ite
        | refine Keeps.foldl ?_ fun _ _ _ => ?_ | refine setChip_keeps ?_ ?_
    | exact within_trans rfl hw
    | with_reducible refine keeps_mk ?_ ?_ ?_ ?_ ?_ ?_ ?_ ?_ ?_ ?_ ?_ ?_ ?_ ?_ ?_ ?_ ?_ ?_ ?_ ?_ ?_ ?_ ?_ ?_ ?_ ?_ ?_ ?_ ?_ ?_ ?_ ?_
    | with_reducible exact Or.inl rfl
    | exact Or.inr (within_trans rfl hw)
    | dsimp only
    | split
    | intro _

theorem execChipPowerOnResetRelease_keeps {w : List StateField} {a s : State} {bootSrc : Fin 4} {smbAddr : Fin 8} {offsets : List ℤ} (h : Keeps w a s)
    (hw : within [.free, .regs, .srcs, .doms, .chip, .bdrk] w = true) :
    Answers w a (execChipPowerOnResetRelease bootSrc smbAddr offsets s) := by
  unfold execChipPowerOnResetRelease
  repeat' first
    | with_reducible
        first
        | assumption | apply Answers.next | apply Answers.fault | apply Keeps.ite | apply Answers.ite
        | refine Keeps.foldl ?_ fun _ _ _ => ?_ | refine startBringup_keeps ?_ ?_
    | exact within_trans rfl hw
    | dsimp only
    | split
    | intro _

theorem execRailFail_keeps {w : List StateField} {a s : State} {rail : Fin 11} (h : Keeps w a s)
    (hw : within [.devtime, .regs, .staged, .latched, .mem, .poison, .rings, .ctxs, .engines, .banks, .disp, .talus, .dmcs, .chans, .srcs, .tgts, .holdoff, .funcs, .doms, .chip, .flows, .svcs, .ptp, .queues, .snodes, .pnodes, .store, .dgCount, .bdrk, .perf, .pins] w = true) :
    Answers w a (execRailFail rail s) := by
  unfold execRailFail
  repeat' first
    | with_reducible
        first
        | assumption | apply Answers.next | apply Answers.fault | apply Keeps.ite | apply Answers.ite
        | refine Keeps.foldl ?_ fun _ _ _ => ?_ | refine setChip_keeps ?_ ?_ | refine powerOnReset_keeps ?_ ?_
    | exact within_trans rfl hw
    | with_reducible refine keeps_mk ?_ ?_ ?_ ?_ ?_ ?_ ?_ ?_ ?_ ?_ ?_ ?_ ?_ ?_ ?_ ?_ ?_ ?_ ?_ ?_ ?_ ?_ ?_ ?_ ?_ ?_ ?_ ?_ ?_ ?_ ?_ ?_
    | with_reducible exact Or.inl rfl
    | exact Or.inr (within_trans rfl hw)
    | dsimp only
    | split
    | intro _

theorem execChipReset_keeps {w : List StateField} {a s : State} {val : Word} {bootSrc : Fin 4} {smbAddr : Fin 8} (h : Keeps w a s)
    (hw : within [.free, .regs, .staged, .latched, .mem, .poison, .rings, .ctxs, .engines, .banks, .disp, .talus, .dmcs, .chans, .srcs, .tgts, .holdoff, .funcs, .doms, .chip, .flows, .svcs, .ptp, .queues, .snodes, .pnodes, .store, .dgCount, .bdrk, .perf, .pins] w = true) :
    Answers w a (execChipReset val bootSrc smbAddr s) := by
  unfold execChipReset
  repeat' first
    | with_reducible
        first
        | assumption | apply Answers.next | apply Answers.fault | apply Keeps.ite | apply Answers.ite
        | refine Keeps.foldl ?_ fun _ _ _ => ?_ | refine fset_keeps ?_ ?_ | refine modBdrk_keeps ?_ ?_
        | refine coldState_keeps ?_ ?_ | refine startBringup_keeps ?_ ?_
    | exact within_trans rfl hw
    | with_reducible refine keeps_mk ?_ ?_ ?_ ?_ ?_ ?_ ?_ ?_ ?_ ?_ ?_ ?_ ?_ ?_ ?_ ?_ ?_ ?_ ?_ ?_ ?_ ?_ ?_ ?_ ?_ ?_ ?_ ?_ ?_ ?_ ?_ ?_
    | with_reducible exact Or.inl rfl
    | exact Or.inr (within_trans rfl hw)
    | dsimp only
    | split
    | intro _

theorem execBedrockRomCheck_keeps {w : List StateField} {a s : State} {r : RomCheck} (h : Keeps w a s)
    (hw : within [.free, .regs, .engines, .banks, .dmcs, .srcs, .doms, .chip, .bdrk, .pins, .out] w = true) :
    Answers w a (execBedrockRomCheck r s) := by
  unfold execBedrockRomCheck
  repeat' first
    | with_reducible
        first
        | assumption | apply Answers.next | apply Answers.fault | apply Keeps.ite | apply Answers.ite
        | refine Keeps.foldl ?_ fun _ _ _ => ?_ | refine requestWake_keeps ?_ ?_ | refine setChip_keeps ?_ ?_
        | refine enterSentinel_keeps ?_ ?_
    | exact within_trans rfl hw
    | dsimp only
    | split
    | intro _

theorem execFirmwareVerified_keeps {w : List StateField} {a s : State} {slotA slotB : PackageCheck} (h : Keeps w a s)
    (hw : within [.free, .regs, .engines, .banks, .dmcs, .srcs, .tgts, .doms, .chip, .bdrk, .pins, .out] w = true) :
    Answers w a (execFirmwareVerified slotA slotB s) := by
  unfold execFirmwareVerified
  repeat' first
    | with_reducible
        first
        | assumption | apply Answers.next | apply Answers.fault | apply Keeps.ite | apply Answers.ite
        | refine Keeps.foldl ?_ fun _ _ _ => ?_ | refine enterSentinel_keeps ?_ ?_
        | refine restartFirmware_keeps ?_ ?_ | refine firmwareUp_keeps ?_ ?_
    | exact within_trans rfl hw
    | dsimp only
    | split
    | intro _

theorem clusterServes_keeps {w : List StateField} {a s : State} {q : Nat} (h : Keeps w a s)
    (hw : within [.free, .regs, .ctxs, .engines, .banks, .disp, .srcs, .tgts, .doms, .chip, .bdrk, .perf] w = true) :
    Keeps w a (clusterServes s q) := by
  unfold clusterServes
  repeat' first
    | with_reducible
        first
        | assumption | apply Answers.next | apply Answers.fault | apply Keeps.ite | apply Answers.ite
        | refine Keeps.foldl ?_ fun _ _ _ => ?_ | refine setReady_keeps ?_ ?_ | refine checkContextReady_keeps ?_ ?_
        | refine setBlk_keeps ?_ ?_ | refine moveCtx_keeps ?_ ?_ | refine setCluster_keeps ?_ ?_
        | refine setCores_keeps ?_ ?_ | refine checkBringup_keeps ?_ ?_
    | exact within_trans rfl hw
    | dsimp only
    | split
    | intro _

theorem execQuartzLoaded_keeps {w : List StateField} {a s : State} {cluster : Fin 2} {pass : Bool} (h : Keeps w a s)
    (hw : within [.free, .regs, .ctxs, .engines, .banks, .disp, .srcs, .tgts, .doms, .chip, .bdrk, .perf] w = true) :
    Answers w a (execQuartzLoaded cluster pass s) := by
  unfold execQuartzLoaded
  repeat' first
    | with_reducible
        first
        | assumption | apply Answers.next | apply Answers.fault | apply Keeps.ite | apply Answers.ite
        | refine Keeps.foldl ?_ fun _ _ _ => ?_ | refine modBdrk_keeps ?_ ?_ | refine setBlk_keeps ?_ ?_
        | refine checkBringup_keeps ?_ ?_ | refine clusterServes_keeps ?_ ?_
    | exact within_trans rfl hw
    | dsimp only
    | split
    | intro _

theorem execSelftestEnd_keeps {w : List StateField} {a s : State} {kind : EngKind} {n : Fin 18} {pass : Bool} {durationUs : Nat} (h : Keeps w a s)
    (hw : within [.free, .regs, .staged, .latched, .ctxs, .engines, .banks, .disp, .chans, .srcs, .tgts, .holdoff, .doms, .chip, .flows, .queues, .pnodes, .store, .bdrk, .perf, .pins] w = true) :
    Answers w a (execSelftestEnd kind n pass durationUs s) := by
  unfold execSelftestEnd
  repeat' first
    | with_reducible
        first
        | assumption | apply Answers.next | apply Answers.fault | apply Keeps.ite | apply Answers.ite
        | refine Keeps.foldl ?_ fun _ _ _ => ?_ | refine modEng_keeps ?_ ?_ | refine setTestRunning_keeps ?_ ?_
        | refine endTest_keeps ?_ ?_ | refine afterTest_keeps ?_ ?_ | refine raiseFault_keeps ?_ ?_
        | refine checkBringup_keeps ?_ ?_ | refine engineEnded_keeps ?_ ?_
    | exact within_trans rfl hw
    | dsimp only
    | split
    | intro _

theorem execCalDone_keeps {w : List StateField} {a s : State} {bank : Fin 4} {resid : List Nat} {trim : List (List Nat)} (h : Keeps w a s)
    (hw : within [.free, .regs, .staged, .latched, .ctxs, .engines, .banks, .disp, .chans, .srcs, .tgts, .holdoff, .doms, .chip, .flows, .queues, .pnodes, .store, .bdrk, .perf, .pins] w = true) :
    Answers w a (execCalDone bank resid trim s) := by
  unfold execCalDone
  repeat' first
    | with_reducible
        first
        | assumption | apply Answers.next | apply Answers.fault | apply Keeps.ite | apply Answers.ite
        | refine Keeps.foldl ?_ fun _ _ _ => ?_ | refine calDone_keeps ?_ ?_ | refine checkBringup_keeps ?_ ?_
        | refine nextBank_keeps ?_ ?_
    | exact within_trans rfl hw
    | dsimp only
    | split
    | intro _

theorem execInterleaveTableWrite_keeps {w : List StateField} {a s : State} {rates : List (Option (Fin 5))} {eyes : List Nat} (h : Keeps w a s)
    (hw : within [.free, .regs, .staged, .latched, .mem, .poison, .ctxs, .engines, .banks, .disp, .dmcs, .chans, .srcs, .tgts, .holdoff, .doms, .chip, .flows, .queues, .pnodes, .store, .bdrk, .perf, .pins, .out] w = true) :
    Answers w a (execInterleaveTableWrite rates eyes s) := by
  unfold execInterleaveTableWrite
  repeat' first
    | with_reducible
        first
        | assumption | apply Answers.next | apply Answers.fault | apply Keeps.ite | apply Answers.ite
        | refine Keeps.foldl ?_ fun _ _ _ => ?_ | refine interleave_keeps ?_ ?_
    | exact within_trans rfl hw
    | dsimp only
    | split
    | intro _

theorem execAvsAckWrite_keeps {w : List StateField} {a s : State} (h : Keeps w a s)
    (hw : within [.regs] w = true) :
    Answers w a (execAvsAckWrite s) := by
  unfold execAvsAckWrite
  repeat' first
    | with_reducible
        first
        | assumption | apply Answers.next | apply Answers.fault | apply Keeps.ite | apply Answers.ite
        | refine Keeps.foldl ?_ fun _ _ _ => ?_ | refine ackAvs_keeps ?_ ?_
    | exact within_trans rfl hw
    | dsimp only
    | split
    | intro _

theorem execEngFreqWrite_keeps {w : List StateField} {a s : State} {val : Word} (h : Keeps w a s)
    (hw : within [.regs] w = true) :
    Answers w a (execEngFreqWrite val s) := by
  unfold execEngFreqWrite
  repeat' first
    | with_reducible
        first
        | assumption | apply Answers.next | apply Answers.fault | apply Keeps.ite | apply Answers.ite
        | refine Keeps.foldl ?_ fun _ _ _ => ?_ | refine fset_keeps ?_ ?_
    | exact within_trans rfl hw
    | dsimp only
    | split
    | intro _

theorem execEngClkRelock_keeps {w : List StateField} {a s : State} (h : Keeps w a s)
    (hw : within [.regs, .srcs] w = true) :
    Answers w a (execEngClkRelock s) := by
  unfold execEngClkRelock
  repeat' first
    | with_reducible
        first
        | assumption | apply Answers.next | apply Answers.fault | apply Keeps.ite | apply Answers.ite
        | refine Keeps.foldl ?_ fun _ _ _ => ?_ | refine relock_keeps ?_ ?_
    | exact within_trans rfl hw
    | dsimp only
    | split
    | intro _

theorem execRtcLoss_keeps {w : List StateField} {a s : State} (h : Keeps w a s)
    (hw : within [.free, .regs, .staged, .latched, .ctxs, .engines, .banks, .disp, .chans, .srcs, .tgts, .holdoff, .doms, .chip, .flows, .queues, .pnodes, .store, .bdrk, .perf, .pins] w = true) :
    Answers w a (execRtcLoss s) := by
  unfold execRtcLoss
  repeat' first
    | with_reducible
        first
        | assumption | apply Answers.next | apply Answers.fault | apply Keeps.ite | apply Answers.ite
        | refine Keeps.foldl ?_ fun _ _ _ => ?_ | refine fset_keeps ?_ ?_ | refine setIrq_keeps ?_ ?_
        | refine raiseFault_keeps ?_ ?_
    | exact within_trans rfl hw
    | dsimp only
    | split
    | intro _

end Sys2Proof.Machine
end

