-- ==== Sys2Proof/Laws/KeepsBedrock.lean ====
section
/-! SUPPORT. What each operation of Machine/Bedrock.lean keeps. -/

set_option linter.all false

namespace Sys2Proof.Machine

theorem norFails_keeps {w : List StateField} {a s : State} (h : Keeps w a s)
    (hw : within [.free, .regs, .staged, .latched, .ctxs, .engines, .banks, .disp, .chans, .srcs, .tgts, .holdoff, .doms, .chip, .flows, .queues, .pnodes, .store, .bdrk, .perf, .pins] w = true) :
    Keeps w a (norFails s).1 := by
  unfold norFails
  repeat' first
    | with_reducible
        first
        | assumption | apply Answers.next | apply Answers.fault | apply Keeps.ite | apply Answers.ite
        | refine Keeps.foldl ?_ fun _ _ _ => ?_ | refine raiseFault_keeps ?_ ?_
    | exact within_trans rfl hw
    | dsimp only
    | split
    | intro _

theorem mbxEnd_keeps {w : List StateField} {a s : State} {via : MbxVia} {tag result : Nat} (h : Keeps w a s)
    (hw : within [.regs, .srcs, .pins, .out] w = true) :
    Keeps w a (mbxEnd s via tag result) := by
  unfold mbxEnd
  split
  · exact setIrq_keeps (fset_keeps (fset_keeps (fset_keeps h (within_trans rfl hw)) (within_trans rfl hw)) (within_trans rfl hw)) (within_trans rfl hw)
  · exact keeps_mk (emit_keeps h (within_trans rfl hw)) (.inl rfl) (.inl rfl) (.inl rfl) (.inl rfl) (.inl rfl) (.inl rfl) (.inl rfl) (.inl rfl) (.inl rfl) (.inl rfl) (.inl rfl) (.inl rfl) (.inl rfl) (.inl rfl) (.inl rfl) (.inl rfl) (.inl rfl) (.inl rfl) (.inl rfl) (.inl rfl) (.inl rfl) (.inl rfl) (.inl rfl) (.inl rfl) (.inl rfl) (.inl rfl) (.inl rfl) (.inl rfl) (.inl rfl) (.inr (within_trans rfl hw)) (.inl rfl)

theorem mbxFree_keeps {w : List StateField} {a s : State} (h : Keeps w a s)
    (hw : within [.free] w = true) :
    Keeps w a (mbxFree s).1 := by
  unfold mbxFree
  repeat' first
    | with_reducible
        first
        | assumption | apply Answers.next | apply Answers.fault | apply Keeps.ite | apply Answers.ite
        | refine Keeps.foldl ?_ fun _ _ _ => ?_ | refine useFree_keeps ?_ ?_
    | exact within_trans rfl hw
    | dsimp only
    | split
    | intro _

theorem mbxRun_keeps {w : List StateField} {a s : State} {via : MbxVia} {tag : Nat} {update : Bool} {f : State → State × Nat} (h : Keeps w a s)
    (hw : within [.free, .regs, .srcs, .pins, .out] w = true) (kf : ∀ t, Keeps w a t → Keeps w a (f t).1) :
    Keeps w a (mbxRun s via tag update f) := by
  unfold mbxRun
  repeat' first
    | with_reducible
        first
        | assumption | apply Answers.next | apply Answers.fault | apply Keeps.ite | apply Answers.ite
        | refine Keeps.foldl ?_ fun _ _ _ => ?_ | apply kf | refine mbxEnd_keeps ?_ ?_ | refine mbxFree_keeps ?_ ?_
    | exact within_trans rfl hw
    | dsimp only
    | split
    | intro _

theorem syncLock_keeps {w : List StateField} {a s : State} (h : Keeps w a s)
    (hw : within [.regs] w = true) :
    Keeps w a (syncLock s) := by
  unfold syncLock
  repeat' first
    | with_reducible
        first
        | assumption | apply Answers.next | apply Answers.fault | apply Keeps.ite | apply Answers.ite
        | refine Keeps.foldl ?_ fun _ _ _ => ?_ | refine fsetb_keeps ?_ ?_
    | exact within_trans rfl hw
    | dsimp only
    | split
    | intro _

theorem setLock_keeps {w : List StateField} {a s : State} {l : Option MbxVia} (h : Keeps w a s)
    (hw : within [.regs, .bdrk] w = true) :
    Keeps w a (setLock s l) := by
  unfold setLock
  repeat' first
    | with_reducible
        first
        | assumption | apply Answers.next | apply Answers.fault | apply Keeps.ite | apply Answers.ite
        | refine Keeps.foldl ?_ fun _ _ _ => ?_ | refine modBdrk_keeps ?_ ?_ | refine syncLock_keeps ?_ ?_
    | exact within_trans rfl hw
    | dsimp only
    | split
    | intro _

theorem updRun_keeps {w : List StateField} {a s : State} {via : MbxVia} {tag : Nat} {f : State → State × Nat} (h : Keeps w a s)
    (hw : within [.free, .regs, .srcs, .bdrk, .pins, .out] w = true) (kf : ∀ t, Keeps w a t → Keeps w a (f t).1) :
    Keeps w a (updRun s via tag f) := by
  unfold updRun
  repeat' first
    | with_reducible
        first
        | assumption | apply Answers.next | apply Answers.fault | apply Keeps.ite | apply Answers.ite
        | refine Keeps.foldl ?_ fun _ _ _ => ?_ | apply kf | refine modBdrk_keeps ?_ ?_
        | refine mbxRun_keeps ?_ ?_ fun _ _ => ?_
    | exact within_trans rfl hw
    | dsimp only
    | split
    | intro _

theorem eraseSlot_keeps {w : List StateField} {a s : State} {slot : Nat} (h : Keeps w a s)
    (hw : within [.bdrk] w = true) :
    Keeps w a (eraseSlot s slot) := by
  unfold eraseSlot
  repeat' first
    | with_reducible
        first
        | assumption | apply Answers.next | apply Answers.fault | apply Keeps.ite | apply Answers.ite
        | refine Keeps.foldl ?_ fun _ _ _ => ?_ | refine modBdrk_keeps ?_ ?_
    | exact within_trans rfl hw
    | dsimp only
    | split
    | intro _

theorem setBufByte_keeps {w : List StateField} {a s : State} {i : Nat} {b' : Byte} (h : Keeps w a s)
    (hw : within [.regs] w = true) :
    Keeps w a (setBufByte s i b') := by
  unfold setBufByte
  repeat' first
    | with_reducible
        first
        | assumption | apply Answers.next | apply Answers.fault | apply Keeps.ite | apply Answers.ite
        | refine Keeps.foldl ?_ fun _ _ _ => ?_ | refine rset_keeps ?_ ?_
    | exact within_trans rfl hw
    | dsimp only
    | split
    | intro _

theorem program_keeps {w : List StateField} {a s : State} {slot off : Nat} {l : List Byte} (h : Keeps w a s)
    (hw : within [.bdrk] w = true) :
    Keeps w a (program s slot off l) := by
  unfold program
  repeat' first
    | with_reducible
        first
        | assumption | apply Answers.next | apply Answers.fault | apply Keeps.ite | apply Answers.ite
        | refine Keeps.foldl ?_ fun _ _ _ => ?_ | refine modBdrk_keeps ?_ ?_
    | exact within_trans rfl hw
    | dsimp only
    | split
    | intro _

theorem updWrite_keeps {w : List StateField} {a s : State} {via : MbxVia} {off len : Nat} {msg : List Byte} (h : Keeps w a s)
    (hw : within [.free, .bdrk] w = true) :
    Keeps w a (updWrite s via off len msg).1 := by
  unfold updWrite
  repeat' first
    | with_reducible
        first
        | assumption | apply Answers.next | apply Answers.fault | apply Keeps.ite | apply Answers.ite
        | refine Keeps.foldl ?_ fun _ _ _ => ?_ | refine useFree_keeps ?_ ?_ | refine mbxFree_keeps ?_ ?_
        | refine program_keeps ?_ ?_
    | exact within_trans rfl hw
    | dsimp only
    | split
    | intro _

theorem finishQz_keeps {w : List StateField} {a s : State} (h : Keeps w a s)
    (hw : within [.regs, .srcs, .tgts, .bdrk, .pins, .out] w = true) :
    Keeps w a (finishQz s) := by
  unfold finishQz
  repeat' first
    | with_reducible
        first
        | assumption | apply Answers.next | apply Answers.fault | apply Keeps.ite | apply Answers.ite
        | refine Keeps.foldl ?_ fun _ _ _ => ?_ | refine modBdrk_keeps ?_ ?_ | refine setCores_keeps ?_ ?_
        | refine mbxEnd_keeps ?_ ?_
    | exact within_trans rfl hw
    | dsimp only
    | split
    | intro _

theorem startQz_keeps {w : List StateField} {a s : State} {via : MbxVia} {tag c : Nat} {check : PackageCheck} (h : Keeps w a s)
    (hw : within [.regs, .srcs, .tgts, .bdrk, .pins, .out] w = true) :
    Keeps w a (startQz s via tag c check) := by
  unfold startQz
  repeat' first
    | with_reducible
        first
        | assumption | apply Answers.next | apply Answers.fault | apply Keeps.ite | apply Answers.ite
        | refine Keeps.foldl ?_ fun _ _ _ => ?_ | refine fset_keeps ?_ ?_ | refine modBdrk_keeps ?_ ?_
        | refine finishQz_keeps ?_ ?_
    | exact within_trans rfl hw
    | dsimp only
    | split
    | intro _

theorem pollAgent_keeps {w : List StateField} {a s : State} {count : Nat} (h : Keeps w a s)
    (hw : within [.regs, .bdrk] w = true) :
    Keeps w a (pollAgent s count) := by
  unfold pollAgent
  repeat' first
    | with_reducible
        first
        | assumption | apply Answers.next | apply Answers.fault | apply Keeps.ite | apply Answers.ite
        | refine Keeps.foldl ?_ fun _ _ _ => ?_ | refine fset_keeps ?_ ?_ | refine modBdrk_keeps ?_ ?_
        | refine setBufByte_keeps ?_ ?_
    | exact within_trans rfl hw
    | dsimp only
    | split
    | intro _

theorem sampleVolt_keeps {w : List StateField} {a s : State} {i mv : Nat} (h : Keeps w a s)
    (hw : within [.free, .regs, .staged, .latched, .ctxs, .engines, .banks, .disp, .chans, .srcs, .tgts, .holdoff, .doms, .chip, .flows, .queues, .pnodes, .store, .bdrk, .perf, .pins] w = true) :
    Keeps w a (sampleVolt s i mv) := by
  unfold sampleVolt
  repeat' first
    | with_reducible
        first
        | assumption | apply Answers.next | apply Answers.fault | apply Keeps.ite | apply Answers.ite
        | refine Keeps.foldl ?_ fun _ _ _ => ?_ | refine fset_keeps ?_ ?_ | refine raiseFault_keeps ?_ ?_
    | exact within_trans rfl hw
    | dsimp only
    | split
    | intro _

theorem sampleTemp_keeps {w : List StateField} {a s : State} {raw : Option ℤ} {i : Nat} (h : Keeps w a s)
    (hw : within [.free, .regs, .staged, .latched, .ctxs, .engines, .banks, .disp, .chans, .srcs, .tgts, .holdoff, .doms, .chip, .flows, .queues, .pnodes, .store, .bdrk, .perf, .pins] w = true) :
    Keeps w a (sampleTemp s raw i) := by
  unfold sampleTemp
  repeat' first
    | with_reducible
        first
        | assumption | apply Answers.next | apply Answers.fault | apply Keeps.ite | apply Answers.ite
        | refine Keeps.foldl ?_ fun _ _ _ => ?_ | refine fset_keeps ?_ ?_ | refine raiseFault_keeps ?_ ?_
    | exact within_trans rfl hw
    | dsimp only
    | split
    | intro _

theorem setLimit_keeps {w : List StateField} {a s : State} {l : Nat} (h : Keeps w a s)
    (hw : within [.regs, .srcs] w = true) :
    Keeps w a (setLimit s l) := by
  unfold setLimit
  repeat' first
    | with_reducible
        first
        | assumption | apply Answers.next | apply Answers.fault | apply Keeps.ite | apply Answers.ite
        | refine Keeps.foldl ?_ fun _ _ _ => ?_ | refine fset_keeps ?_ ?_ | refine setIrq_keeps ?_ ?_
    | exact within_trans rfl hw
    | dsimp only
    | split
    | intro _

theorem throttle_keeps {w : List StateField} {a s : State} {tmax : Option ℤ} (h : Keeps w a s)
    (hw : within [.regs, .srcs, .chip] w = true) :
    Keeps w a (throttle s tmax) := by
  unfold throttle
  repeat' first
    | with_reducible
        first
        | assumption | apply Answers.next | apply Answers.fault | apply Keeps.ite | apply Answers.ite
        | refine Keeps.foldl ?_ fun _ _ _ => ?_ | refine fadd_keeps ?_ ?_ | refine setChip_keeps ?_ ?_
        | refine setLimit_keeps ?_ ?_
    | exact within_trans rfl hw
    | dsimp only
    | split
    | intro _

theorem thermalTrip_keeps {w : List StateField} {a s : State} (h : Keeps w a s)
    (hw : within [.regs, .staged, .latched, .mem, .poison, .rings, .ctxs, .engines, .banks, .disp, .talus, .dmcs, .chans, .srcs, .tgts, .holdoff, .funcs, .doms, .chip, .flows, .svcs, .ptp, .queues, .snodes, .pnodes, .store, .dgCount, .bdrk, .perf, .pins] w = true) :
    Keeps w a (thermalTrip s) := by
  unfold thermalTrip
  repeat' first
    | with_reducible
        first
        | assumption | apply Answers.next | apply Answers.fault | apply Keeps.ite | apply Answers.ite
        | refine Keeps.foldl ?_ fun _ _ _ => ?_ | refine setChip_keeps ?_ ?_ | refine powerOnReset_keeps ?_ ?_
    | exact within_trans rfl hw
    | dsimp only
    | split
    | intro _

theorem execHeartbeatKick_keeps {w : List StateField} {a s : State} (h : Keeps w a s)
    (hw : within [.bdrk] w = true) :
    Answers w a (execHeartbeatKick s) := by
  unfold execHeartbeatKick
  repeat' first
    | with_reducible
        first
        | assumption | apply Answers.next | apply Answers.fault | apply Keeps.ite | apply Answers.ite
        | refine Keeps.foldl ?_ fun _ _ _ => ?_ | refine modBdrk_keeps ?_ ?_
    | exact within_trans rfl hw
    | dsimp only
    | split
    | intro _

theorem execHeartbeatToggle_keeps {w : List StateField} {a s : State} (h : Keeps w a s)
    (hw : within [.regs, .bdrk, .pins] w = true) :
    Answers w a (execHeartbeatToggle s) := by
  unfold execHeartbeatToggle
  repeat' first
    | with_reducible
        first
        | assumption | apply Answers.next | apply Answers.fault | apply Keeps.ite | apply Answers.ite
        | refine Keeps.foldl ?_ fun _ _ _ => ?_ | refine fsetb_keeps ?_ ?_ | refine modBdrk_keeps ?_ ?_
    | exact within_trans rfl hw
    | with_reducible refine keeps_mk ?_ ?_ ?_ ?_ ?_ ?_ ?_ ?_ ?_ ?_ ?_ ?_ ?_ ?_ ?_ ?_ ?_ ?_ ?_ ?_ ?_ ?_ ?_ ?_ ?_ ?_ ?_ ?_ ?_ ?_ ?_ ?_
    | with_reducible exact Or.inl rfl
    | exact Or.inr (within_trans rfl hw)
    | dsimp only
    | split
    | intro _

theorem execUpdBegin_keeps {w : List StateField} {a s : State} {via : MbxVia} {tag : BitVec 16} {slot : Fin 2} {_size : Word} {fails : Bool} (h : Keeps w a s)
    (hw : within [.free, .regs, .staged, .latched, .ctxs, .engines, .banks, .disp, .chans, .srcs, .tgts, .holdoff, .doms, .chip, .flows, .queues, .pnodes, .store, .bdrk, .perf, .pins, .out] w = true) :
    Answers w a (execUpdBegin via tag slot _size fails s) := by
  unfold execUpdBegin
  repeat' first
    | with_reducible
        first
        | assumption | apply Answers.next | apply Answers.fault | apply Keeps.ite | apply Answers.ite
        | refine Keeps.foldl ?_ fun _ _ _ => ?_ | refine norFails_keeps ?_ ?_ | refine setLock_keeps ?_ ?_
        | refine updRun_keeps ?_ ?_ fun _ _ => ?_ | refine eraseSlot_keeps ?_ ?_ | refine program_keeps ?_ ?_
    | exact within_trans rfl hw
    | dsimp only
    | split
    | intro _

theorem execUpdData_keeps {w : List StateField} {a s : State} {via : MbxVia} {tag : BitVec 16} {offset len : Word} {msg : List Byte} {fails : Bool} (h : Keeps w a s)
    (hw : within [.free, .regs, .staged, .latched, .ctxs, .engines, .banks, .disp, .chans, .srcs, .tgts, .holdoff, .doms, .chip, .flows, .queues, .pnodes, .store, .bdrk, .perf, .pins, .out] w = true) :
    Answers w a (execUpdData via tag offset len msg fails s) := by
  unfold execUpdData
  repeat' first
    | with_reducible
        first
        | assumption | apply Answers.next | apply Answers.fault | apply Keeps.ite | apply Answers.ite
        | refine Keeps.foldl ?_ fun _ _ _ => ?_ | refine norFails_keeps ?_ ?_
        | refine updRun_keeps ?_ ?_ fun _ _ => ?_ | refine updWrite_keeps ?_ ?_
    | exact within_trans rfl hw
    | dsimp only
    | split
    | intro _

theorem execUpdCommit_keeps {w : List StateField} {a s : State} {via : MbxVia} {tag : BitVec 16} {check : PackageCheck} (h : Keeps w a s)
    (hw : within [.free, .regs, .srcs, .bdrk, .pins, .out] w = true) :
    Answers w a (execUpdCommit via tag check s) := by
  unfold execUpdCommit
  repeat' first
    | with_reducible
        first
        | assumption | apply Answers.next | apply Answers.fault | apply Keeps.ite | apply Answers.ite
        | refine Keeps.foldl ?_ fun _ _ _ => ?_ | refine setLock_keeps ?_ ?_ | refine updRun_keeps ?_ ?_ fun _ _ => ?_
    | exact within_trans rfl hw
    | dsimp only
    | split
    | intro _

theorem execUpdAbort_keeps {w : List StateField} {a s : State} {via : MbxVia} {tag : BitVec 16} (h : Keeps w a s)
    (hw : within [.free, .regs, .srcs, .bdrk, .pins, .out] w = true) :
    Answers w a (execUpdAbort via tag s) := by
  unfold execUpdAbort
  repeat' first
    | with_reducible
        first
        | assumption | apply Answers.next | apply Answers.fault | apply Keeps.ite | apply Answers.ite
        | refine Keeps.foldl ?_ fun _ _ _ => ?_ | refine setLock_keeps ?_ ?_ | refine updRun_keeps ?_ ?_ fun _ _ => ?_
    | exact within_trans rfl hw
    | dsimp only
    | split
    | intro _

theorem execUpdateLockTimeout_keeps {w : List StateField} {a s : State} (h : Keeps w a s)
    (hw : within [.regs, .bdrk] w = true) :
    Answers w a (execUpdateLockTimeout s) := by
  unfold execUpdateLockTimeout
  repeat' first
    | with_reducible
        first
        | assumption | apply Answers.next | apply Answers.fault | apply Keeps.ite | apply Answers.ite
        | refine Keeps.foldl ?_ fun _ _ _ => ?_ | refine setLock_keeps ?_ ?_
    | exact within_trans rfl hw
    | dsimp only
    | split
    | intro _

theorem execRestartBedrock_keeps {w : List StateField} {a s : State} {via : MbxVia} {tag : BitVec 16} {slotA slotB : PackageCheck} (h : Keeps w a s)
    (hw : within [.free, .regs, .srcs, .tgts, .chip, .bdrk, .pins, .out] w = true) :
    Answers w a (execRestartBedrock via tag slotA slotB s) := by
  unfold execRestartBedrock
  repeat' first
    | with_reducible
        first
        | assumption | apply Answers.next | apply Answers.fault | apply Keeps.ite | apply Answers.ite
        | refine Keeps.foldl ?_ fun _ _ _ => ?_ | refine bedrockStop_keeps ?_ ?_ | refine restartFirmware_keeps ?_ ?_
        | refine mbxRun_keeps ?_ ?_ fun _ _ => ?_
    | exact within_trans rfl hw
    | dsimp only
    | split
    | intro _

theorem execQzUpdate_keeps {w : List StateField} {a s : State} {via : MbxVia} {tag : BitVec 16} {cluster _slot : Fin 2} {check : PackageCheck} (h : Keeps w a s)
    (hw : within [.free, .regs, .srcs, .tgts, .bdrk, .pins, .out] w = true) :
    Answers w a (execQzUpdate via tag cluster _slot check s) := by
  unfold execQzUpdate
  repeat' first
    | with_reducible
        first
        | assumption | apply Answers.next | apply Answers.fault | apply Keeps.ite | apply Answers.ite
        | refine Keeps.foldl ?_ fun _ _ _ => ?_ | refine mbxFree_keeps ?_ ?_ | refine mbxRun_keeps ?_ ?_ fun _ _ => ?_
        | refine startQz_keeps ?_ ?_
    | exact within_trans rfl hw
    | dsimp only
    | split
    | intro _

theorem execContextMove_keeps {w : List StateField} {a s : State} {ctx : Fin 256} (h : Keeps w a s)
    (hw : within [.regs, .ctxs, .srcs, .tgts, .bdrk, .pins, .out] w = true) :
    Answers w a (execContextMove ctx s) := by
  unfold execContextMove
  repeat' first
    | with_reducible
        first
        | assumption | apply Answers.next | apply Answers.fault | apply Keeps.ite | apply Answers.ite
        | refine Keeps.foldl ?_ fun _ _ _ => ?_ | refine modCtx_keeps ?_ ?_ | refine finishQz_keeps ?_ ?_
    | exact within_trans rfl hw
    | dsimp only
    | split
    | intro _

theorem execAvsAck_keeps {w : List StateField} {a s : State} {via : MbxVia} {tag : BitVec 16} (h : Keeps w a s)
    (hw : within [.free, .regs, .srcs, .pins, .out] w = true) :
    Answers w a (execAvsAck via tag s) := by
  unfold execAvsAck
  repeat' first
    | with_reducible
        first
        | assumption | apply Answers.next | apply Answers.fault | apply Keeps.ite | apply Answers.ite
        | refine Keeps.foldl ?_ fun _ _ _ => ?_ | refine ackAvs_keeps ?_ ?_ | refine mbxRun_keeps ?_ ?_ fun _ _ => ?_
    | exact within_trans rfl hw
    | dsimp only
    | split
    | intro _

theorem execAgent_keeps {w : List StateField} {a s : State} {via : MbxVia} {tag : BitVec 16} {msg : List Word} (h : Keeps w a s)
    (hw : within [.free, .regs, .srcs, .bdrk, .pins, .out] w = true) :
    Answers w a (execAgent via tag msg s) := by
  unfold execAgent
  repeat' first
    | with_reducible
        first
        | assumption | apply Answers.next | apply Answers.fault | apply Keeps.ite | apply Answers.ite
        | refine Keeps.foldl ?_ fun _ _ _ => ?_ | refine modBdrk_keeps ?_ ?_ | refine mbxRun_keeps ?_ ?_ fun _ _ => ?_
    | exact within_trans rfl hw
    | dsimp only
    | split
    | intro _

theorem execAgentPoll_keeps {w : List StateField} {a s : State} {via : MbxVia} {tag : BitVec 16} {count : Word} (h : Keeps w a s)
    (hw : within [.free, .regs, .srcs, .bdrk, .pins, .out] w = true) :
    Answers w a (execAgentPoll via tag count s) := by
  unfold execAgentPoll
  repeat' first
    | with_reducible
        first
        | assumption | apply Answers.next | apply Answers.fault | apply Keeps.ite | apply Answers.ite
        | refine Keeps.foldl ?_ fun _ _ _ => ?_ | refine mbxFree_keeps ?_ ?_ | refine mbxRun_keeps ?_ ?_ fun _ _ => ?_
        | refine pollAgent_keeps ?_ ?_
    | exact within_trans rfl hw
    | dsimp only
    | split
    | intro _

theorem execMailboxBadCmd_keeps {w : List StateField} {a s : State} {via : MbxVia} {tag : BitVec 16} (h : Keeps w a s)
    (hw : within [.free, .regs, .srcs, .pins, .out] w = true) :
    Answers w a (execMailboxBadCmd via tag s) := by
  unfold execMailboxBadCmd
  repeat' first
    | with_reducible
        first
        | assumption | apply Answers.next | apply Answers.fault | apply Keeps.ite | apply Answers.ite
        | refine Keeps.foldl ?_ fun _ _ _ => ?_ | refine mbxRun_keeps ?_ ?_ fun _ _ => ?_
    | exact within_trans rfl hw
    | dsimp only
    | split
    | intro _

theorem execMctpControlMessage_keeps {w : List StateField} {a s : State} {code : Byte} (h : Keeps w a s)
    (hw : within [.out] w = true) :
    Answers w a (execMctpControlMessage code s) := by
  unfold execMctpControlMessage
  repeat' first
    | with_reducible
        first
        | assumption | apply Answers.next | apply Answers.fault | apply Keeps.ite | apply Answers.ite
        | refine Keeps.foldl ?_ fun _ _ _ => ?_ | refine emit_keeps ?_ ?_
    | exact within_trans rfl hw
    | dsimp only
    | split
    | intro _

theorem execAlertResponseRead_keeps {w : List StateField} {a s : State} (h : Keeps w a s)
    (hw : within [.pins] w = true) :
    Answers w a (execAlertResponseRead s) := by
  unfold execAlertResponseRead
  repeat' first
    | with_reducible
        first
        | assumption | apply Answers.next | apply Answers.fault | apply Keeps.ite | apply Answers.ite
        | refine Keeps.foldl ?_ fun _ _ _ => ?_
    | exact within_trans rfl hw
    | with_reducible refine keeps_mk ?_ ?_ ?_ ?_ ?_ ?_ ?_ ?_ ?_ ?_ ?_ ?_ ?_ ?_ ?_ ?_ ?_ ?_ ?_ ?_ ?_ ?_ ?_ ?_ ?_ ?_ ?_ ?_ ?_ ?_ ?_ ?_
    | with_reducible exact Or.inl rfl
    | exact Or.inr (within_trans rfl hw)
    | dsimp only
    | split
    | intro _

theorem execUartConsoleInput_keeps {w : List StateField} {a s : State} {_request : List Byte} (h : Keeps w a s)
    (hw : within [.free, .out] w = true) :
    Answers w a (execUartConsoleInput _request s) := by
  unfold execUartConsoleInput
  repeat' first
    | with_reducible
        first
        | assumption | apply Answers.next | apply Answers.fault | apply Keeps.ite | apply Answers.ite
        | refine Keeps.foldl ?_ fun _ _ _ => ?_ | refine emit_keeps ?_ ?_ | refine useFree_keeps ?_ ?_
        | refine throttle_keeps ?_ ?_
    | exact within_trans rfl hw
    | dsimp only
    | split
    | intro _

theorem execSensorSample_keeps {w : List StateField} {a s : State} {v : Sensors} (h : Keeps w a s)
    (hw : within [.free, .regs, .staged, .latched, .mem, .poison, .rings, .ctxs, .engines, .banks, .disp, .talus, .dmcs, .chans, .srcs, .tgts, .holdoff, .funcs, .doms, .chip, .flows, .svcs, .ptp, .queues, .snodes, .pnodes, .store, .dgCount, .bdrk, .perf, .pins] w = true) :
    Answers w a (execSensorSample v s) := by
  unfold execSensorSample
  repeat' first
    | with_reducible
        first
        | assumption | apply Answers.next | apply Answers.fault | apply Keeps.ite | apply Answers.ite
        | refine Keeps.foldl ?_ fun _ _ _ => ?_ | refine fset_keeps ?_ ?_ | refine sampleVolt_keeps ?_ ?_
        | refine sampleTemp_keeps ?_ ?_ | refine throttle_keeps ?_ ?_ | refine thermalTrip_keeps ?_ ?_
    | exact within_trans rfl hw
    | dsimp only
    | split
    | intro _

end Sys2Proof.Machine
end

