-- ==== Sys2Proof/Laws/KeepsCoding.lean ====
section
/-! SUPPORT. What each operation of Machine/Coding.lean keeps. -/

set_option linter.all false

namespace Sys2Proof.Machine

theorem modHeld_keeps {w : List StateField} {a s : State} {page : Nat} {j : Job} {f : Held → Held} (h : Keeps w a s)
    (hw : within [.regs, .engines, .srcs, .doms] w = true) :
    Keeps w a (modHeld s page j f) := by
  unfold modHeld
  repeat' first
    | with_reducible
        first
        | assumption | apply Answers.next | apply Answers.fault | apply Keeps.ite | apply Answers.ite
        | refine Keeps.foldl ?_ fun _ _ _ => ?_ | refine setHeld_keeps ?_ ?_
    | exact within_trans rfl hw
    | dsimp only
    | split
    | intro _

theorem execSegmentFirstCtu_keeps {w : List StateField} {a s : State} {ee : Fin 18} (h : Keeps w a s)
    (hw : within [.free, .regs, .ctxs, .engines, .srcs, .doms, .perf] w = true) :
    Answers w a (execSegmentFirstCtu ee s) := by
  unfold execSegmentFirstCtu
  repeat' first
    | with_reducible
        first
        | assumption | apply Answers.next | apply Answers.fault | apply Keeps.ite | apply Answers.ite
        | refine Keeps.foldl ?_ fun _ _ _ => ?_ | refine endLookahead_keeps ?_ ?_ | refine modHeld_keeps ?_ ?_
    | exact within_trans rfl hw
    | dsimp only
    | split
    | intro _

theorem drawTag_keeps {w : List StateField} {a s : State} {page : Nat} (h : Keeps w a s)
    (hw : within [.free, .engines] w = true) :
    Keeps w a (drawTag s page) := by
  unfold drawTag
  repeat' first
    | with_reducible
        first
        | assumption | apply Answers.next | apply Answers.fault | apply Keeps.ite | apply Answers.ite
        | refine Keeps.foldl ?_ fun _ _ _ => ?_ | refine modEng_keeps ?_ ?_ | refine useFree_keeps ?_ ?_
    | exact within_trans rfl hw
    | dsimp only
    | split
    | intro _

theorem putTag_keeps {w : List StateField} {a s : State} {words : List Nat} (h : Keeps w a s)
    (hw : within [.regs, .mem, .srcs, .out] w = true) :
    Keeps w a (putTag s words) := by
  unfold putTag
  repeat' first
    | with_reducible
        first
        | assumption | apply Answers.next | apply Answers.fault | apply Keeps.ite | apply Answers.ite
        | refine Keeps.foldl ?_ fun _ _ _ => ?_ | refine fset_keeps ?_ ?_ | refine fadd_keeps ?_ ?_
        | refine setIrq_keeps ?_ ?_ | refine putBytes_keeps ?_ ?_
    | exact within_trans rfl hw
    | dsimp only
    | split
    | intro _

theorem tagUnit_keeps {w : List StateField} {a s : State} {page : Nat} {words : List Nat} (h : Keeps w a s)
    (hw : within [.free, .regs, .mem, .engines, .srcs, .out] w = true) :
    Keeps w a (tagUnit s page words) := by
  unfold tagUnit
  repeat' first
    | with_reducible
        first
        | assumption | apply Answers.next | apply Answers.fault | apply Keeps.ite | apply Answers.ite
        | refine Keeps.foldl ?_ fun _ _ _ => ?_ | refine modEng_keeps ?_ ?_ | refine drawTag_keeps ?_ ?_
        | refine putTag_keeps ?_ ?_
    | exact within_trans rfl hw
    | dsimp only
    | split
    | intro _

theorem clearStall_keeps {w : List StateField} {a s : State} {page : Nat} (h : Keeps w a s)
    (hw : within [.regs] w = true) :
    Keeps w a (clearStall s page) := by
  unfold clearStall
  repeat' first
    | with_reducible
        first
        | assumption | apply Answers.next | apply Answers.fault | apply Keeps.ite | apply Answers.ite
        | refine Keeps.foldl ?_ fun _ _ _ => ?_ | refine fset_keeps ?_ ?_
    | exact within_trans rfl hw
    | dsimp only
    | split
    | intro _

theorem codeUnit_keeps {w : List StateField} {a s : State} {page : Nat} {h' : Held} {x : SegId} {p : Pic} {g : Seg} {upset : Option (UnitCode × UnitCode)} {tag : TagTimes} (h : Keeps w a s)
    (hw : within [.free, .regs, .mem, .ctxs, .engines, .srcs, .doms, .out] w = true) :
    Keeps w a (codeUnit s page h' x p g upset tag) := by
  unfold codeUnit
  repeat' first
    | with_reducible
        first
        | assumption | apply Answers.next | apply Answers.fault | apply Keeps.ite | apply Answers.ite
        | refine Keeps.foldl ?_ fun _ _ _ => ?_ | refine modSeg_keeps ?_ ?_ | refine writeDigital_keeps ?_ ?_
        | refine modHeld_keeps ?_ ?_ | refine tagUnit_keeps ?_ ?_ | refine clearStall_keeps ?_ ?_
    | exact within_trans rfl hw
    | dsimp only
    | split
    | intro _

theorem execCodingUnitCoded_keeps {w : List StateField} {a s : State} {ee : Fin 18} {upset : Option (UnitCode × UnitCode)} {tag : TagTimes} (h : Keeps w a s)
    (hw : within [.free, .regs, .mem, .ctxs, .engines, .srcs, .doms, .perf, .out] w = true) :
    Answers w a (execCodingUnitCoded ee upset tag s) := by
  unfold execCodingUnitCoded
  repeat' first
    | with_reducible
        first
        | assumption | apply Answers.next | apply Answers.fault | apply Keeps.ite | apply Answers.ite
        | refine Keeps.foldl ?_ fun _ _ _ => ?_ | refine codeUnit_keeps ?_ ?_
    | exact within_trans rfl hw
    | dsimp only
    | split
    | intro _

theorem execCtuRowComplete_keeps {w : List StateField} {a s : State} {ee : Fin 18} (h : Keeps w a s)
    (hw : within [.free, .regs, .mem, .rings, .ctxs, .engines, .banks, .talus, .srcs, .doms, .svcs, .perf, .out] w = true) :
    Answers w a (execCtuRowComplete ee s) := by
  unfold execCtuRowComplete
  repeat' first
    | with_reducible
        first
        | assumption | apply Answers.next | apply Answers.fault | apply Keeps.ite | apply Answers.ite
        | refine Keeps.foldl ?_ fun _ _ _ => ?_ | refine modSeg_keeps ?_ ?_ | refine tryCommit_keeps ?_ ?_
    | exact within_trans rfl hw
    | dsimp only
    | split
    | intro _

theorem retireItem_keeps {w : List StateField} {a s : State} {page : Nat} {h' : Held} {ideal : Nat} (h : Keeps w a s)
    (hw : within [.regs, .ctxs, .engines, .srcs, .doms] w = true) :
    Keeps w a (retireItem s page h' ideal) := by
  unfold retireItem
  repeat' first
    | with_reducible
        first
        | assumption | apply Answers.next | apply Answers.fault | apply Keeps.ite | apply Answers.ite
        | refine Keeps.foldl ?_ fun _ _ _ => ?_ | refine modEng_keeps ?_ ?_ | refine setHeld_keeps ?_ ?_
        | refine retiredOn_keeps ?_ ?_ | refine setTest_keeps ?_ ?_ | refine clearStall_keeps ?_ ?_
    | exact within_trans rfl hw
    | dsimp only
    | split
    | intro _

theorem countSegment_keeps {w : List StateField} {a s : State} {n px : Nat} {fb : Bool} (h : Keeps w a s)
    (hw : within [.regs, .perf] w = true) :
    Keeps w a (countSegment s n px fb) := by
  unfold countSegment
  repeat' first
    | with_reducible
        first
        | assumption | apply Answers.next | apply Answers.fault | apply Keeps.ite | apply Answers.ite
        | refine Keeps.foldl ?_ fun _ _ _ => ?_ | refine fadd_keeps ?_ ?_ | refine countEv_keeps ?_ ?_
    | exact within_trans rfl hw
    | dsimp only
    | split
    | intro _

theorem returnSeg_keeps {w : List StateField} {a s : State} {n : Nat} {x : SegId} {p : Pic} {g : Seg} {r : SegResult} {early : Bool} (h : Keeps w a s)
    (hw : within [.free, .regs, .mem, .rings, .ctxs, .engines, .banks, .disp, .talus, .srcs, .doms, .svcs, .perf, .out] w = true) :
    Keeps w a (returnSeg s n x p g r early) := by
  unfold returnSeg
  repeat' first
    | with_reducible
        first
        | assumption | apply Answers.next | apply Answers.fault | apply Keeps.ite | apply Answers.ite
        | refine Keeps.foldl ?_ fun _ _ _ => ?_ | refine modCtx_keeps ?_ ?_ | refine settleItem_keeps ?_ ?_
        | refine modSeg_keeps ?_ ?_ | refine clearSeg_keeps ?_ ?_
    | exact within_trans rfl hw
    | with_reducible refine keeps_mk ?_ ?_ ?_ ?_ ?_ ?_ ?_ ?_ ?_ ?_ ?_ ?_ ?_ ?_ ?_ ?_ ?_ ?_ ?_ ?_ ?_ ?_ ?_ ?_ ?_ ?_ ?_ ?_ ?_ ?_ ?_ ?_
    | with_reducible exact Or.inl rfl
    | exact Or.inr (within_trans rfl hw)
    | dsimp only
    | split
    | intro _

theorem setRecon_keeps {w : List StateField} {a s : State} {c n : Nat} {f : Picture → Picture} (h : Keeps w a s)
    (hw : within [.mem, .ctxs] w = true) :
    Keeps w a (setRecon s c n f) := by
  unfold setRecon
  repeat' first
    | with_reducible
        first
        | assumption | apply Answers.next | apply Answers.fault | apply Keeps.ite | apply Answers.ite
        | refine Keeps.foldl ?_ fun _ _ _ => ?_ | refine modCtx_keeps ?_ ?_ | refine modPic_keeps ?_ ?_
        | refine storeBytes_keeps ?_ ?_
    | exact within_trans rfl hw
    | dsimp only
    | split
    | intro _

theorem execSegmentReturn_keeps {w : List StateField} {a s : State} {ee : Fin 18} {upset : Option SegUpset} (h : Keeps w a s)
    (hw : within [.free, .regs, .mem, .rings, .ctxs, .engines, .banks, .disp, .talus, .srcs, .doms, .svcs, .bdrk, .perf, .out] w = true) :
    Answers w a (execSegmentReturn ee upset s) := by
  unfold execSegmentReturn
  repeat' first
    | with_reducible
        first
        | assumption | apply Answers.next | apply Answers.fault | apply Keeps.ite | apply Answers.ite
        | refine Keeps.foldl ?_ fun _ _ _ => ?_ | refine settleCtx_keeps ?_ ?_ | refine endUnitDrain_keeps ?_ ?_
        | refine retireItem_keeps ?_ ?_ | refine countSegment_keeps ?_ ?_ | refine returnSeg_keeps ?_ ?_
        | refine setRecon_keeps ?_ ?_
    | exact within_trans rfl hw
    | dsimp only
    | split
    | intro _

theorem retireFaulty_keeps {w : List StateField} {a s : State} {page : Nat} (h : Keeps w a s)
    (hw : within [.free, .regs, .staged, .latched, .ctxs, .engines, .banks, .disp, .chans, .srcs, .tgts, .holdoff, .doms, .chip, .pnodes, .bdrk, .perf] w = true) :
    Keeps w a (retireFaulty s page) := by
  unfold retireFaulty
  repeat' first
    | with_reducible
        first
        | assumption | apply Answers.next | apply Answers.fault | apply Keeps.ite | apply Answers.ite
        | refine Keeps.foldl ?_ fun _ _ _ => ?_ | refine unitOut_keeps ?_ ?_
    | exact within_trans rfl hw
    | dsimp only
    | split
    | intro _

theorem retireBad_keeps {w : List StateField} {a s : State} {bad : Option Nat} (h : Keeps w a s)
    (hw : within [.free, .regs, .staged, .latched, .ctxs, .engines, .banks, .disp, .chans, .srcs, .tgts, .holdoff, .doms, .chip, .pnodes, .bdrk, .perf] w = true) :
    Keeps w a (retireBad s bad) := by
  unfold retireBad
  repeat' first
    | with_reducible
        first
        | assumption | apply Answers.next | apply Answers.fault | apply Keeps.ite | apply Answers.ite
        | refine Keeps.foldl ?_ fun _ _ _ => ?_ | refine retireFaulty_keeps ?_ ?_
    | exact within_trans rfl hw
    | dsimp only
    | split
    | intro _

theorem verified_keeps {w : List StateField} {a s : State} {x : SegId} (h : Keeps w a s)
    (hw : within [.free, .regs, .mem, .rings, .ctxs, .engines, .banks, .talus, .srcs, .doms, .svcs, .perf, .out] w = true) :
    Keeps w a (verified s x) := by
  unfold verified
  repeat' first
    | with_reducible
        first
        | assumption | apply Answers.next | apply Answers.fault | apply Keeps.ite | apply Answers.ite
        | refine Keeps.foldl ?_ fun _ _ _ => ?_ | refine modSeg_keeps ?_ ?_ | refine settleCtx_keeps ?_ ?_
        | refine clearSeg_keeps ?_ ?_
    | exact within_trans rfl hw
    | dsimp only
    | split
    | intro _

theorem rerun_keeps {w : List StateField} {a s : State} {x : SegId} {p : Pic} {g : Seg} {r : Run} (h : Keeps w a s)
    (hw : within [.free, .regs, .mem, .rings, .ctxs, .engines, .banks, .talus, .srcs, .doms, .svcs, .perf] w = true) :
    Keeps w a (rerun s x p g r) := by
  unfold rerun
  repeat' first
    | with_reducible
        first
        | assumption | apply Answers.next | apply Answers.fault | apply Keeps.ite | apply Answers.ite
        | refine Keeps.foldl ?_ fun _ _ _ => ?_ | refine fadd_keeps ?_ ?_ | refine modSeg_keeps ?_ ?_
        | refine settleCtx_keeps ?_ ?_ | refine countUnmasked_keeps ?_ ?_ | refine restartSeg_keeps ?_ ?_
    | exact within_trans rfl hw
    | dsimp only
    | split
    | intro _

theorem verifyResult_keeps {w : List StateField} {a s : State} {x : SegId} {p : Pic} {g : Seg} {r : Run} (h : Keeps w a s)
    (hw : within [.free, .regs, .staged, .latched, .mem, .rings, .ctxs, .engines, .banks, .disp, .talus, .chans, .srcs, .tgts, .holdoff, .doms, .chip, .svcs, .pnodes, .bdrk, .perf, .out] w = true) :
    Keeps w a (verifyResult s x p g r) := by
  unfold verifyResult
  repeat' first
    | with_reducible
        first
        | assumption | apply Answers.next | apply Answers.fault | apply Keeps.ite | apply Answers.ite
        | refine Keeps.foldl ?_ fun _ _ _ => ?_ | refine countUnmasked_keeps ?_ ?_ | refine retireBad_keeps ?_ ?_
        | refine verified_keeps ?_ ?_ | refine rerun_keeps ?_ ?_
    | exact within_trans rfl hw
    | dsimp only
    | split
    | intro _

theorem countVerify_keeps {w : List StateField} {a s : State} {n px : Nat} {ok : Bool} (h : Keeps w a s)
    (hw : within [.regs, .srcs, .perf] w = true) :
    Keeps w a (countVerify s n px ok) := by
  unfold countVerify
  repeat' first
    | with_reducible
        first
        | assumption | apply Answers.next | apply Answers.fault | apply Keeps.ite | apply Answers.ite
        | refine Keeps.foldl ?_ fun _ _ _ => ?_ | refine fadd_keeps ?_ ?_ | refine countEv_keeps ?_ ?_
        | refine setIrq_keeps ?_ ?_
    | exact within_trans rfl hw
    | dsimp only
    | split
    | intro _

theorem edgeDone_keeps {w : List StateField} {a s : State} {x : SegId} {d : SegDesc} {out : Samples} (h : Keeps w a s)
    (hw : within [.free, .regs, .mem, .rings, .ctxs, .engines, .banks, .talus, .srcs, .doms, .svcs, .perf] w = true) :
    Keeps w a (edgeDone s x d out) := by
  unfold edgeDone
  repeat' first
    | with_reducible
        first
        | assumption | apply Answers.next | apply Answers.fault | apply Keeps.ite | apply Answers.ite
        | refine Keeps.foldl ?_ fun _ _ _ => ?_ | refine modSeg_keeps ?_ ?_ | refine settleCtx_keeps ?_ ?_
        | refine setRecon_keeps ?_ ?_
    | exact within_trans rfl hw
    | dsimp only
    | split
    | intro _

theorem boundaryResult_keeps {w : List StateField} {a s : State} {x : SegId} {g : Seg} {r : Run} (h : Keeps w a s)
    (hw : within [.free, .regs, .staged, .latched, .mem, .rings, .ctxs, .engines, .banks, .disp, .talus, .chans, .srcs, .tgts, .holdoff, .doms, .chip, .svcs, .pnodes, .bdrk, .perf] w = true) :
    Keeps w a (boundaryResult s x g r) := by
  unfold boundaryResult
  repeat' first
    | with_reducible
        first
        | assumption | apply Answers.next | apply Answers.fault | apply Keeps.ite | apply Answers.ite
        | refine Keeps.foldl ?_ fun _ _ _ => ?_ | refine modSeg_keeps ?_ ?_ | refine countUnmasked_keeps ?_ ?_
        | refine retireBad_keeps ?_ ?_ | refine edgeDone_keeps ?_ ?_
    | exact within_trans rfl hw
    | dsimp only
    | split
    | intro _

theorem itemLeaves_keeps {w : List StateField} {a s : State} {page : Nat} {h' : Held} (h : Keeps w a s)
    (hw : within [.regs, .ctxs, .engines, .srcs, .doms] w = true) :
    Keeps w a (itemLeaves s page h') := by
  unfold itemLeaves
  repeat' first
    | with_reducible
        first
        | assumption | apply Answers.next | apply Answers.fault | apply Keeps.ite | apply Answers.ite
        | refine Keeps.foldl ?_ fun _ _ _ => ?_ | refine setHeld_keeps ?_ ?_ | refine retiredOn_keeps ?_ ?_
        | refine verified_keeps ?_ ?_
    | exact within_trans rfl hw
    | dsimp only
    | split
    | intro _

theorem execBoundaryJobComplete_keeps {w : List StateField} {a s : State} {seg : SegId} {upset : Option Samples} (h : Keeps w a s)
    (hw : within [.free, .regs, .mem, .rings, .ctxs, .engines, .banks, .disp, .talus, .srcs, .doms, .svcs, .bdrk, .perf] w = true) :
    Answers w a (execBoundaryJobComplete seg upset s) := by
  unfold execBoundaryJobComplete
  repeat' first
    | with_reducible
        first
        | assumption | apply Answers.next | apply Answers.fault | apply Keeps.ite | apply Answers.ite
        | refine Keeps.foldl ?_ fun _ _ _ => ?_ | refine modSeg_keeps ?_ ?_ | refine endUnitDrain_keeps ?_ ?_
        | refine edgeDone_keeps ?_ ?_ | refine itemLeaves_keeps ?_ ?_
    | exact within_trans rfl hw
    | dsimp only
    | split
    | intro _

theorem verifyEnds_keeps {w : List StateField} {a s : State} {n : Nat} {h' : Held} {x : SegId} {p : Pic} {g : Seg} {upset : Option DecUpset} (h : Keeps w a s)
    (hw : within [.free, .regs, .staged, .latched, .mem, .rings, .ctxs, .engines, .banks, .disp, .talus, .chans, .srcs, .tgts, .holdoff, .doms, .chip, .svcs, .pnodes, .bdrk, .perf, .out] w = true) :
    Keeps w a (verifyEnds s n h' x p g upset) := by
  unfold verifyEnds
  repeat' first
    | with_reducible
        first
        | assumption | apply Answers.next | apply Answers.fault | apply Keeps.ite | apply Answers.ite
        | refine Keeps.foldl ?_ fun _ _ _ => ?_ | refine retireItem_keeps ?_ ?_ | refine verifyResult_keeps ?_ ?_
        | refine countVerify_keeps ?_ ?_
    | exact within_trans rfl hw
    | dsimp only
    | split
    | intro _

theorem checkEnds_keeps {w : List StateField} {a s : State} {n : Nat} {h' : Held} {x : SegId} {p : Pic} {g : Seg} {upset : Option DecUpset} (h : Keeps w a s)
    (hw : within [.free, .regs, .staged, .latched, .mem, .rings, .ctxs, .engines, .banks, .disp, .talus, .chans, .srcs, .tgts, .holdoff, .doms, .chip, .svcs, .pnodes, .bdrk, .perf] w = true) :
    Keeps w a (checkEnds s n h' x p g upset) := by
  unfold checkEnds
  repeat' first
    | with_reducible
        first
        | assumption | apply Answers.next | apply Answers.fault | apply Keeps.ite | apply Answers.ite
        | refine Keeps.foldl ?_ fun _ _ _ => ?_ | refine countVerify_keeps ?_ ?_ | refine boundaryResult_keeps ?_ ?_
        | refine itemLeaves_keeps ?_ ?_
    | exact within_trans rfl hw
    | dsimp only
    | split
    | intro _

theorem execVerifyJobComplete_keeps {w : List StateField} {a s : State} {de : Fin 18} {upset : Option DecUpset} {fault : Bool} (h : Keeps w a s)
    (hw : within [.free, .regs, .staged, .latched, .mem, .rings, .ctxs, .engines, .banks, .disp, .talus, .chans, .srcs, .tgts, .holdoff, .doms, .chip, .svcs, .pnodes, .bdrk, .perf, .out] w = true) :
    Answers w a (execVerifyJobComplete de upset fault s) := by
  unfold execVerifyJobComplete
  repeat' first
    | with_reducible
        first
        | assumption | apply Answers.next | apply Answers.fault | apply Keeps.ite | apply Answers.ite
        | refine Keeps.foldl ?_ fun _ _ _ => ?_ | refine setHeld_keeps ?_ ?_ | refine discardJob_keeps ?_ ?_
        | refine endUnitDrain_keeps ?_ ?_ | refine verifyEnds_keeps ?_ ?_ | refine checkEnds_keeps ?_ ?_
    | exact within_trans rfl hw
    | dsimp only
    | split
    | intro _

theorem modPart_keeps {w : List StateField} {a s : State} {c n i : Nat} (h : Keeps w a s)
    (hw : within [.ctxs] w = true) :
    Keeps w a (modPart s c n i) := by
  unfold modPart
  repeat' first
    | with_reducible
        first
        | assumption | apply Answers.next | apply Answers.fault | apply Keeps.ite | apply Answers.ite
        | refine Keeps.foldl ?_ fun _ _ _ => ?_ | refine modDec_keeps ?_ ?_
    | exact within_trans rfl hw
    | dsimp only
    | split
    | intro _

theorem countPart_keeps {w : List StateField} {a s : State} {n px : Nat} (h : Keeps w a s)
    (hw : within [.regs, .perf] w = true) :
    Keeps w a (countPart s n px) := by
  unfold countPart
  repeat' first
    | with_reducible
        first
        | assumption | apply Answers.next | apply Answers.fault | apply Keeps.ite | apply Answers.ite
        | refine Keeps.foldl ?_ fun _ _ _ => ?_ | refine fadd_keeps ?_ ?_ | refine countEv_keeps ?_ ?_
    | exact within_trans rfl hw
    | dsimp only
    | split
    | intro _

theorem partDone_keeps {w : List StateField} {a s : State} {c n : Nat} (h : Keeps w a s)
    (hw : within [.free, .regs, .mem, .rings, .ctxs, .engines, .banks, .disp, .talus, .srcs, .doms, .perf] w = true) :
    Keeps w a (partDone s c n) := by
  unfold partDone
  repeat' first
    | with_reducible
        first
        | assumption | apply Answers.next | apply Answers.fault | apply Keeps.ite | apply Answers.ite
        | refine Keeps.foldl ?_ fun _ _ _ => ?_ | refine picDecoded_keeps ?_ ?_
    | exact within_trans rfl hw
    | dsimp only
    | split
    | intro _

theorem execDecodePartComplete_keeps {w : List StateField} {a s : State} {de : Fin 18} (h : Keeps w a s)
    (hw : within [.free, .regs, .staged, .latched, .mem, .rings, .ctxs, .engines, .banks, .disp, .talus, .chans, .srcs, .tgts, .holdoff, .doms, .chip, .svcs, .pnodes, .bdrk, .perf, .out] w = true) :
    Answers w a (execDecodePartComplete de s) := by
  unfold execDecodePartComplete
  repeat' first
    | with_reducible
        first
        | assumption | apply Answers.next | apply Answers.fault | apply Keeps.ite | apply Answers.ite
        | refine Keeps.foldl ?_ fun _ _ _ => ?_ | refine endUnitDrain_keeps ?_ ?_ | refine retireItem_keeps ?_ ?_
        | refine modPart_keeps ?_ ?_ | refine countPart_keeps ?_ ?_ | refine partDone_keeps ?_ ?_
    | exact within_trans rfl hw
    | dsimp only
    | split
    | intro _

end Sys2Proof.Machine
end

