-- ==== Sys2Proof/Laws/KeepsNet.lean ====
section
/-! SUPPORT. What each operation of Machine/Net.lean keeps. -/

set_option linter.all false

namespace Sys2Proof.Machine

theorem setLink_keeps {w : List StateField} {a s : State} {p : Nat} {up : Bool} (h : Keeps w a s)
    (hw : within [.regs, .srcs] w = true) :
    Keeps w a (setLink s p up) := by
  unfold setLink
  repeat' first
    | with_reducible
        first
        | assumption | apply Answers.next | apply Answers.fault | apply Keeps.ite | apply Answers.ite
        | refine Keeps.foldl ?_ fun _ _ _ => ?_ | refine fsetb_keeps ?_ ?_ | refine setIrq_keeps ?_ ?_
    | exact within_trans rfl hw
    | dsimp only
    | split
    | intro _

theorem disablePort_keeps {w : List StateField} {a s : State} {p : Nat} (h : Keeps w a s)
    (hw : within [.regs, .srcs] w = true) :
    Keeps w a (disablePort s p) := by
  unfold disablePort
  repeat' first
    | with_reducible
        first
        | assumption | apply Answers.next | apply Answers.fault | apply Keeps.ite | apply Answers.ite
        | refine Keeps.foldl ?_ fun _ _ _ => ?_ | refine fset_keeps ?_ ?_ | refine setLink_keeps ?_ ?_
    | exact within_trans rfl hw
    | dsimp only
    | split
    | intro _

theorem writeEthCtl_keeps {w : List StateField} {a s : State} {p v : Nat} (h : Keeps w a s)
    (hw : within [.regs] w = true) :
    Keeps w a (writeEthCtl s p v) := by
  unfold writeEthCtl
  repeat' first
    | with_reducible
        first
        | assumption | apply Answers.next | apply Answers.fault | apply Keeps.ite | apply Answers.ite
        | refine Keeps.foldl ?_ fun _ _ _ => ?_ | refine fset_keeps ?_ ?_
    | exact within_trans rfl hw
    | dsimp only
    | split
    | intro _

theorem enablePort_keeps {w : List StateField} {a s : State} {p : Nat} {eyes : List Nat} (h : Keeps w a s)
    (hw : within [.free, .regs, .bdrk] w = true) :
    Keeps w a (enablePort s p eyes) := by
  unfold enablePort
  repeat' first
    | with_reducible
        first
        | assumption | apply Answers.next | apply Answers.fault | apply Keeps.ite | apply Answers.ite
        | refine Keeps.foldl ?_ fun _ _ _ => ?_ | refine fset_keeps ?_ ?_ | refine calRecord_keeps ?_ ?_
    | exact within_trans rfl hw
    | dsimp only
    | split
    | intro _

theorem takeJb_keeps {w : List StateField} {a : State} {n : Nat} {s t : State} {x : List Nat}
    (e : takeJb n s = some (x, t)) (h : Keeps w a s) (hw : within [.regs, .talus, .srcs, .perf] w = true) : Keeps w a t := by
  induction n generalizing s x t with
  | zero => unfold takeJb at e; cases e; exact h
  | succ n ih =>
    unfold takeJb at e
    dsimp only at e
    split at e
    · cases e
    · obtain ⟨⟨y, u⟩, k, r⟩ := Option.map_eq_some_iff.mp e
      cases r
      exact ih k (talusAlloc_keeps h (within_trans rfl hw))

theorem report_keeps {w : List StateField} {a s : State} {n : Nat} {join : Bool} (h : Keeps w a s)
    (hw : within [.out] w = true) :
    Keeps w a (report s n join) := by
  unfold report
  repeat' first
    | with_reducible
        first
        | assumption | apply Answers.next | apply Answers.fault | apply Keeps.ite | apply Answers.ite
        | refine Keeps.foldl ?_ fun _ _ _ => ?_ | refine emit_keeps ?_ ?_
    | exact within_trans rfl hw
    | dsimp only
    | split
    | intro _

theorem answerQuery_keeps {w : List StateField} {a s : State} {p group : Nat} (h : Keeps w a s)
    (hw : within [.out] w = true) :
    Keeps w a (answerQuery s p group) := by
  unfold answerQuery
  repeat' first
    | with_reducible
        first
        | assumption | apply Answers.next | apply Answers.fault | apply Keeps.ite | apply Answers.ite
        | refine Keeps.foldl ?_ fun _ _ _ => ?_ | refine emit_keeps ?_ ?_
    | exact within_trans rfl hw
    | dsimp only
    | split
    | intro _

theorem flowDone_keeps {w : List StateField} {a s : State} {r : Nat} (h : Keeps w a s)
    (hw : within [.regs] w = true) :
    Keeps w a (flowDone s r) := by
  unfold flowDone
  repeat' first
    | with_reducible
        first
        | assumption | apply Answers.next | apply Answers.fault | apply Keeps.ite | apply Answers.ite
        | refine Keeps.foldl ?_ fun _ _ _ => ?_ | refine fset_keeps ?_ ?_
    | exact within_trans rfl hw
    | dsimp only
    | split
    | intro _

theorem enableFlow_keeps {w : List StateField} {a s : State} {n : Nat} (h : Keeps w a s)
    (hw : within [.regs, .talus, .srcs, .flows, .perf, .out] w = true) : Keeps w a (enableFlow s n) := by
  unfold enableFlow
  dsimp only
  split
  · exact flowDone_keeps h (within_trans rfl hw)
  · split
    · exact flowDone_keeps h (within_trans rfl hw)
    · split
      · exact flowDone_keeps h (within_trans rfl hw)
      · rename_i u e
        have k : Keeps w a u := by
          repeat' split at e
          · cases e; exact h
          · cases e
          · exact takeJb_keeps e h (within_trans rfl hw)
        exact flowDone_keeps (report_keeps (modFlow_keeps k (within_trans rfl hw)) (within_trans rfl hw)) (within_trans rfl hw)

theorem repairFlow_keeps {w : List StateField} {a s : State} {n : Nat} (h : Keeps w a s)
    (hw : within [.flows] w = true) :
    Keeps w a (repairFlow s n) := by
  unfold repairFlow
  repeat' first
    | with_reducible
        first
        | assumption | apply Answers.next | apply Answers.fault | apply Keeps.ite | apply Answers.ite
        | refine Keeps.foldl ?_ fun _ _ _ => ?_ | refine modFlow_keeps ?_ ?_
    | exact within_trans rfl hw
    | dsimp only
    | split
    | intro _

theorem placePacket_keeps {w : List StateField} {a s : State} {n seq ts bytes : Nat} (h : Keeps w a s)
    (hw : within [.flows] w = true) :
    Keeps w a (placePacket s n seq ts bytes) := by
  unfold placePacket
  repeat' first
    | with_reducible
        first
        | assumption | apply Answers.next | apply Answers.fault | apply Keeps.ite | apply Answers.ite
        | refine Keeps.foldl ?_ fun _ _ _ => ?_ | refine modFlow_keeps ?_ ?_ | refine repairFlow_keeps ?_ ?_
    | exact within_trans rfl hw
    | dsimp only
    | split
    | intro _

theorem placeFec_keeps {w : List StateField} {a s : State} {n : Nat} {row : Bool} {base l d ts bytes : Nat} (h : Keeps w a s)
    (hw : within [.flows] w = true) :
    Keeps w a (placeFec s n row base l d ts bytes) := by
  unfold placeFec
  repeat' first
    | with_reducible
        first
        | assumption | apply Answers.next | apply Answers.fault | apply Keeps.ite | apply Answers.ite
        | refine Keeps.foldl ?_ fun _ _ _ => ?_ | refine modFlow_keeps ?_ ?_ | refine repairFlow_keeps ?_ ?_
    | exact within_trans rfl hw
    | dsimp only
    | split
    | intro _

theorem ingestCount_keeps {w : List StateField} {a s : State} {bytes : Nat} (h : Keeps w a s)
    (hw : within [.ptp] w = true) :
    Keeps w a (ingestCount s bytes) := by
  unfold ingestCount
  repeat' first
    | with_reducible
        first
        | assumption | apply Answers.next | apply Answers.fault | apply Keeps.ite | apply Answers.ite
        | refine Keeps.foldl ?_ fun _ _ _ => ?_
    | exact within_trans rfl hw
    | with_reducible refine keeps_mk ?_ ?_ ?_ ?_ ?_ ?_ ?_ ?_ ?_ ?_ ?_ ?_ ?_ ?_ ?_ ?_ ?_ ?_ ?_ ?_ ?_ ?_ ?_ ?_ ?_ ?_ ?_ ?_ ?_ ?_ ?_ ?_
    | with_reducible exact Or.inl rfl
    | exact Or.inr (within_trans rfl hw)
    | dsimp only
    | split
    | intro _

theorem takeDatagram_keeps {w : List StateField} {a s : State} {n kind : Nat} {fr : Frame} (h : Keeps w a s)
    (hw : within [.regs, .flows, .ptp, .perf] w = true) :
    Keeps w a (takeDatagram s n kind fr) := by
  unfold takeDatagram
  repeat' first
    | with_reducible
        first
        | assumption | apply Answers.next | apply Answers.fault | apply Keeps.ite | apply Answers.ite
        | refine Keeps.foldl ?_ fun _ _ _ => ?_ | refine fadd_keeps ?_ ?_ | refine countEv_keeps ?_ ?_
        | refine modFlow_keeps ?_ ?_ | refine placePacket_keeps ?_ ?_ | refine placeFec_keeps ?_ ?_
        | refine ingestCount_keeps ?_ ?_
    | exact within_trans rfl hw
    | dsimp only
    | split
    | intro _

theorem toBedrock_keeps {w : List StateField} {a s : State} {p : Nat} (h : Keeps w a s)
    (hw : within [.regs, .out] w = true) :
    Keeps w a (toBedrock s p) := by
  unfold toBedrock
  repeat' first
    | with_reducible
        first
        | assumption | apply Answers.next | apply Answers.fault | apply Keeps.ite | apply Answers.ite
        | refine Keeps.foldl ?_ fun _ _ _ => ?_ | refine fset_keeps ?_ ?_ | refine emit_keeps ?_ ?_
    | exact within_trans rfl hw
    | dsimp only
    | split
    | intro _

theorem answerTo_keeps {w : List StateField} {a s : State} {p addr : Nat} {echo : Bool} (h : Keeps w a s)
    (hw : within [.out] w = true) :
    Keeps w a (answerTo s p addr echo) := by
  unfold answerTo
  repeat' first
    | with_reducible
        first
        | assumption | apply Answers.next | apply Answers.fault | apply Keeps.ite | apply Answers.ite
        | refine Keeps.foldl ?_ fun _ _ _ => ?_ | refine emit_keeps ?_ ?_
    | exact within_trans rfl hw
    | dsimp only
    | split
    | intro _

theorem receiveFrame_keeps {w : List StateField} {a s : State} {p : Nat} {fr : Frame} (h : Keeps w a s)
    (hw : within [.regs, .flows, .ptp, .perf, .out] w = true) :
    Keeps w a (receiveFrame s p fr) := by
  unfold receiveFrame
  repeat' first
    | with_reducible
        first
        | assumption | apply Answers.next | apply Answers.fault | apply Keeps.ite | apply Answers.ite
        | refine Keeps.foldl ?_ fun _ _ _ => ?_ | refine fadd_keeps ?_ ?_ | refine countEv_keeps ?_ ?_
        | refine answerQuery_keeps ?_ ?_ | refine takeDatagram_keeps ?_ ?_ | refine toBedrock_keeps ?_ ?_
        | refine answerTo_keeps ?_ ?_
    | exact within_trans rfl hw
    | dsimp only
    | split
    | intro _

theorem completeAu_keeps {w : List StateField} {a s : State} {n : Nat} {au : Option (List AccessUnit)} (h : Keeps w a s)
    (hw : within [.free, .regs, .mem, .rings, .ctxs, .engines, .banks, .disp, .talus, .srcs, .doms, .flows, .perf] w = true) :
    Keeps w a (completeAu s n au) := by
  unfold completeAu
  repeat' first
    | with_reducible
        first
        | assumption | apply Answers.next | apply Answers.fault | apply Keeps.ite | apply Answers.ite
        | refine Keeps.foldl ?_ fun _ _ _ => ?_ | refine fadd_keeps ?_ ?_ | refine modFlow_keeps ?_ ?_
        | refine acceptNet_keeps ?_ ?_ | refine settleDec_keeps ?_ ?_
    | exact within_trans rfl hw
    | dsimp only
    | split
    | intro _

theorem gapHere_keeps {w : List StateField} {a s : State} {n : Nat} (h : Keeps w a s)
    (hw : within [.regs, .srcs, .flows] w = true) :
    Keeps w a (gapHere s n) := by
  unfold gapHere
  repeat' first
    | with_reducible
        first
        | assumption | apply Answers.next | apply Answers.fault | apply Keeps.ite | apply Answers.ite
        | refine Keeps.foldl ?_ fun _ _ _ => ?_ | refine modFlow_keeps ?_ ?_ | refine setIrq_keeps ?_ ?_
    | exact within_trans rfl hw
    | dsimp only
    | split
    | intro _

theorem passAudio_keeps {w : List StateField} {a s : State} {n i : Nat} {t : TsIn} (h : Keeps w a s)
    (hw : within [.svcs] w = true) :
    Keeps w a (passAudio s n i t) := by
  unfold passAudio
  repeat' first
    | with_reducible
        first
        | assumption | apply Answers.next | apply Answers.fault | apply Keeps.ite | apply Answers.ite
        | refine Keeps.foldl ?_ fun _ _ _ => ?_ | refine modSvc_keeps ?_ ?_
    | exact within_trans rfl hw
    | dsimp only
    | split
    | intro _

theorem takeTable_keeps {w : List StateField} {a s : State} {n pid : Nat} {t : TsTable} (h : Keeps w a s)
    (hw : within [.flows] w = true) :
    Keeps w a (takeTable s n pid t) := by
  unfold takeTable
  repeat' first
    | with_reducible
        first
        | assumption | apply Answers.next | apply Answers.fault | apply Keeps.ite | apply Answers.ite
        | refine Keeps.foldl ?_ fun _ _ _ => ?_ | refine modFlow_keeps ?_ ?_
    | exact within_trans rfl hw
    | dsimp only
    | split
    | intro _

theorem demuxVideo_keeps {w : List StateField} {a s : State} {n : Nat} {t : TsIn} (h : Keeps w a s)
    (hw : within [.free, .regs, .mem, .rings, .ctxs, .engines, .banks, .disp, .talus, .srcs, .doms, .flows, .perf] w = true) :
    Keeps w a (demuxVideo s n t) := by
  unfold demuxVideo
  repeat' first
    | with_reducible
        first
        | assumption | apply Answers.next | apply Answers.fault | apply Keeps.ite | apply Answers.ite
        | refine Keeps.foldl ?_ fun _ _ _ => ?_ | refine modFlow_keeps ?_ ?_ | refine completeAu_keeps ?_ ?_
    | exact within_trans rfl hw
    | dsimp only
    | split
    | intro _

theorem demux_keeps {w : List StateField} {a s : State} {n : Nat} {t : TsIn} (h : Keeps w a s)
    (hw : within [.free, .regs, .mem, .rings, .ctxs, .engines, .banks, .disp, .talus, .srcs, .doms, .flows, .svcs, .perf] w = true) :
    Keeps w a (demux s n t) := by
  unfold demux
  repeat' first
    | with_reducible
        first
        | assumption | apply Answers.next | apply Answers.fault | apply Keeps.ite | apply Answers.ite
        | refine Keeps.foldl ?_ fun _ _ _ => ?_ | refine modFlow_keeps ?_ ?_ | refine gapHere_keeps ?_ ?_
        | refine passAudio_keeps ?_ ?_ | refine takeTable_keeps ?_ ?_ | refine demuxVideo_keeps ?_ ?_
    | exact within_trans rfl hw
    | dsimp only
    | split
    | intro _

theorem releasePacket_keeps {w : List StateField} {a s : State} {n : Nat} {ts : List TsIn} (h : Keeps w a s)
    (hw : within [.free, .regs, .mem, .rings, .ctxs, .engines, .banks, .disp, .talus, .srcs, .doms, .flows, .svcs, .perf] w = true) :
    Keeps w a (releasePacket s n ts) := by
  unfold releasePacket
  repeat' first
    | with_reducible
        first
        | assumption | apply Answers.next | apply Answers.fault | apply Keeps.ite | apply Answers.ite
        | refine Keeps.foldl ?_ fun _ _ _ => ?_ | refine modFlow_keeps ?_ ?_ | refine gapHere_keeps ?_ ?_
        | refine demux_keeps ?_ ?_
    | exact within_trans rfl hw
    | dsimp only
    | split
    | intro _

theorem svcDone_keeps {w : List StateField} {a s : State} {r : Nat} (h : Keeps w a s)
    (hw : within [.regs] w = true) :
    Keeps w a (svcDone s r) := by
  unfold svcDone
  repeat' first
    | with_reducible
        first
        | assumption | apply Answers.next | apply Answers.fault | apply Keeps.ite | apply Answers.ite
        | refine Keeps.foldl ?_ fun _ _ _ => ?_ | refine fset_keeps ?_ ?_
    | exact within_trans rfl hw
    | dsimp only
    | split
    | intro _

theorem finishDgram_keeps {w : List StateField} {a s : State} {n : Nat} (h : Keeps w a s)
    (hw : within [.regs, .srcs, .svcs, .queues, .store, .dgCount, .perf] w = true) :
    Keeps w a (finishDgram s n) := by
  unfold finishDgram
  repeat' first
    | with_reducible
        first
        | assumption | apply Answers.next | apply Answers.fault | apply Keeps.ite | apply Answers.ite
        | refine Keeps.foldl ?_ fun _ _ _ => ?_ | refine fadd_keeps ?_ ?_ | refine countEv_keeps ?_ ?_
        | refine modSvc_keeps ?_ ?_ | refine setIrq_keeps ?_ ?_ | refine storeD_keeps ?_ ?_
    | exact within_trans rfl hw
    | with_reducible refine keeps_mk ?_ ?_ ?_ ?_ ?_ ?_ ?_ ?_ ?_ ?_ ?_ ?_ ?_ ?_ ?_ ?_ ?_ ?_ ?_ ?_ ?_ ?_ ?_ ?_ ?_ ?_ ?_ ?_ ?_ ?_ ?_ ?_
    | with_reducible exact Or.inl rfl
    | exact Or.inr (within_trans rfl hw)
    | dsimp only
    | split
    | intro _

theorem putPacket_keeps {w : List StateField} {a s : State} {n : Nat} {p : TsPacket} {rap : Bool} (h : Keeps w a s)
    (hw : within [.regs, .srcs, .svcs, .queues, .store, .dgCount, .perf] w = true) :
    Keeps w a (putPacket s n p rap) := by
  unfold putPacket
  repeat' first
    | with_reducible
        first
        | assumption | apply Answers.next | apply Answers.fault | apply Keeps.ite | apply Answers.ite
        | refine Keeps.foldl ?_ fun _ _ _ => ?_ | refine modSvc_keeps ?_ ?_ | refine finishDgram_keeps ?_ ?_
    | exact within_trans rfl hw
    | dsimp only
    | split
    | intro _

theorem putVideo_keeps {w : List StateField} {a s : State} {n : Nat} {pcr : Bool} {u : PesRest} {rest : List PesRest} (h : Keeps w a s)
    (hw : within [.regs, .srcs, .svcs, .queues, .store, .dgCount, .perf] w = true) :
    Keeps w a (putVideo s n pcr u rest) := by
  unfold putVideo
  repeat' first
    | with_reducible
        first
        | assumption | apply Answers.next | apply Answers.fault | apply Keeps.ite | apply Answers.ite
        | refine Keeps.foldl ?_ fun _ _ _ => ?_ | refine modSvc_keeps ?_ ?_ | refine putPacket_keeps ?_ ?_
    | exact within_trans rfl hw
    | dsimp only
    | split
    | intro _

theorem putAudio_keeps {w : List StateField} {a s : State} {n delta : Nat} {a' : AudioPart} {rest : List AudioPart} (h : Keeps w a s)
    (hw : within [.regs, .srcs, .svcs, .queues, .store, .dgCount, .perf] w = true) :
    Keeps w a (putAudio s n delta a' rest) := by
  unfold putAudio
  repeat' first
    | with_reducible
        first
        | assumption | apply Answers.next | apply Answers.fault | apply Keeps.ite | apply Answers.ite
        | refine Keeps.foldl ?_ fun _ _ _ => ?_ | refine modSvc_keeps ?_ ?_ | refine putPacket_keeps ?_ ?_
    | exact within_trans rfl hw
    | dsimp only
    | split
    | intro _

theorem muxPcr_keeps {w : List StateField} {a s : State} {n : Nat} (h : Keeps w a s)
    (hw : within [.regs, .srcs, .svcs, .queues, .store, .dgCount, .perf] w = true) :
    Keeps w a (muxPcr s n) := by
  unfold muxPcr
  repeat' first
    | with_reducible
        first
        | assumption | apply Answers.next | apply Answers.fault | apply Keeps.ite | apply Answers.ite
        | refine Keeps.foldl ?_ fun _ _ _ => ?_ | refine modSvc_keeps ?_ ?_ | refine putPacket_keeps ?_ ?_
        | refine putVideo_keeps ?_ ?_
    | exact within_trans rfl hw
    | dsimp only
    | split
    | intro _

theorem muxNext_keeps {w : List StateField} {a s : State} {n : Nat} (h : Keeps w a s)
    (hw : within [.regs, .srcs, .svcs, .queues, .store, .dgCount, .perf] w = true) :
    Keeps w a (muxNext s n) := by
  unfold muxNext
  repeat' first
    | with_reducible
        first
        | assumption | apply Answers.next | apply Answers.fault | apply Keeps.ite | apply Answers.ite
        | refine Keeps.foldl ?_ fun _ _ _ => ?_ | refine modSvc_keeps ?_ ?_ | refine putPacket_keeps ?_ ?_
        | refine putVideo_keeps ?_ ?_ | refine putAudio_keeps ?_ ?_
    | exact within_trans rfl hw
    | dsimp only
    | split
    | intro _

theorem muxSlot_keeps {w : List StateField} {a s : State} {n : Nat} (h : Keeps w a s)
    (hw : within [.regs, .srcs, .svcs, .queues, .store, .dgCount, .perf] w = true) :
    Keeps w a (muxSlot s n) := by
  unfold muxSlot
  repeat' first
    | with_reducible
        first
        | assumption | apply Answers.next | apply Answers.fault | apply Keeps.ite | apply Answers.ite
        | refine Keeps.foldl ?_ fun _ _ _ => ?_ | refine modSvc_keeps ?_ ?_ | refine putPacket_keeps ?_ ?_
        | refine muxPcr_keeps ?_ ?_ | refine muxNext_keeps ?_ ?_
    | exact within_trans rfl hw
    | dsimp only
    | split
    | intro _

theorem setPtpLocked_keeps {w : List StateField} {a s : State} {b' : Bool} (h : Keeps w a s)
    (hw : within [.regs, .srcs] w = true) :
    Keeps w a (setPtpLocked s b') := by
  unfold setPtpLocked
  repeat' first
    | with_reducible
        first
        | assumption | apply Answers.next | apply Answers.fault | apply Keeps.ite | apply Answers.ite
        | refine Keeps.foldl ?_ fun _ _ _ => ?_ | refine fsetb_keeps ?_ ?_ | refine setIrq_keeps ?_ ?_
    | exact within_trans rfl hw
    | dsimp only
    | split
    | intro _

theorem stepOffset_keeps {w : List StateField} {a s : State} {v : ℤ} (h : Keeps w a s)
    (hw : within [.regs, .srcs] w = true) :
    Keeps w a (stepOffset s v) := by
  unfold stepOffset
  repeat' first
    | with_reducible
        first
        | assumption | apply Answers.next | apply Answers.fault | apply Keeps.ite | apply Answers.ite
        | refine Keeps.foldl ?_ fun _ _ _ => ?_ | refine fset_keeps ?_ ?_ | refine qset_keeps ?_ ?_
        | refine setIrq_keeps ?_ ?_ | refine syncGate_keeps ?_ ?_
    | exact within_trans rfl hw
    | dsimp only
    | split
    | intro _

theorem ptpAnnounce_keeps {w : List StateField} {a s : State} {f : PtpFrom} {rank : List Nat} (h : Keeps w a s)
    (hw : within [.ptp] w = true) :
    Keeps w a (ptpAnnounce s f rank) := by
  unfold ptpAnnounce
  repeat' first
    | with_reducible
        first
        | assumption | apply Answers.next | apply Answers.fault | apply Keeps.ite | apply Answers.ite
        | refine Keeps.foldl ?_ fun _ _ _ => ?_
    | exact within_trans rfl hw
    | with_reducible refine keeps_mk ?_ ?_ ?_ ?_ ?_ ?_ ?_ ?_ ?_ ?_ ?_ ?_ ?_ ?_ ?_ ?_ ?_ ?_ ?_ ?_ ?_ ?_ ?_ ?_ ?_ ?_ ?_ ?_ ?_ ?_ ?_ ?_
    | with_reducible exact Or.inl rfl
    | exact Or.inr (within_trans rfl hw)
    | dsimp only
    | split
    | intro _

theorem ptpSync_keeps {w : List StateField} {a s : State} {port : Nat} {err : ℤ} (h : Keeps w a s)
    (hw : within [.free, .regs, .srcs, .ptp] w = true) :
    Keeps w a (ptpSync s port err) := by
  unfold ptpSync
  repeat' first
    | with_reducible
        first
        | assumption | apply Answers.next | apply Answers.fault | apply Keeps.ite | apply Answers.ite
        | refine Keeps.foldl ?_ fun _ _ _ => ?_ | refine fset_keeps ?_ ?_ | refine useFree_keeps ?_ ?_
        | refine setPtpLocked_keeps ?_ ?_ | refine stepOffset_keeps ?_ ?_
    | exact within_trans rfl hw
    | with_reducible refine keeps_mk ?_ ?_ ?_ ?_ ?_ ?_ ?_ ?_ ?_ ?_ ?_ ?_ ?_ ?_ ?_ ?_ ?_ ?_ ?_ ?_ ?_ ?_ ?_ ?_ ?_ ?_ ?_ ?_ ?_ ?_ ?_ ?_
    | with_reducible exact Or.inl rfl
    | exact Or.inr (within_trans rfl hw)
    | dsimp only
    | split
    | intro _

theorem execNetModeWrite_keeps {w : List StateField} {a s : State} {val : Word} (h : Keeps w a s)
    (hw : within [.regs] w = true) :
    Answers w a (execNetModeWrite val s) := by
  unfold execNetModeWrite
  repeat' first
    | with_reducible
        first
        | assumption | apply Answers.next | apply Answers.fault | apply Keeps.ite | apply Answers.ite
        | refine Keeps.foldl ?_ fun _ _ _ => ?_ | refine fset_keeps ?_ ?_
    | exact within_trans rfl hw
    | dsimp only
    | split
    | intro _

theorem execPortEnable_keeps {w : List StateField} {a s : State} {port : Fin 8} {val : Word} {eyes : List Nat} (h : Keeps w a s)
    (hw : within [.free, .regs, .bdrk] w = true) :
    Answers w a (execPortEnable port val eyes s) := by
  unfold execPortEnable
  repeat' first
    | with_reducible
        first
        | assumption | apply Answers.next | apply Answers.fault | apply Keeps.ite | apply Answers.ite
        | refine Keeps.foldl ?_ fun _ _ _ => ?_ | refine writeEthCtl_keeps ?_ ?_ | refine enablePort_keeps ?_ ?_
    | exact within_trans rfl hw
    | dsimp only
    | split
    | intro _

theorem execLinkChange_keeps {w : List StateField} {a s : State} {port : Fin 8} {up : Bool} (h : Keeps w a s)
    (hw : within [.regs, .srcs] w = true) :
    Answers w a (execLinkChange port up s) := by
  unfold execLinkChange
  repeat' first
    | with_reducible
        first
        | assumption | apply Answers.next | apply Answers.fault | apply Keeps.ite | apply Answers.ite
        | refine Keeps.foldl ?_ fun _ _ _ => ?_ | refine setLink_keeps ?_ ?_
    | exact within_trans rfl hw
    | dsimp only
    | split
    | intro _

theorem execAnDone_keeps {w : List StateField} {a s : State} {port : Fin 8} {fec : Fin 4} (h : Keeps w a s)
    (hw : within [.regs, .srcs] w = true) :
    Answers w a (execAnDone port fec s) := by
  unfold execAnDone
  repeat' first
    | with_reducible
        first
        | assumption | apply Answers.next | apply Answers.fault | apply Keeps.ite | apply Answers.ite
        | refine Keeps.foldl ?_ fun _ _ _ => ?_ | refine fset_keeps ?_ ?_ | refine setIrq_keeps ?_ ?_
    | exact within_trans rfl hw
    | dsimp only
    | split
    | intro _

theorem execFrameReceive_keeps {w : List StateField} {a s : State} {port : Fin 8} {f : Frame} (h : Keeps w a s)
    (hw : within [.regs, .flows, .ptp, .perf, .out] w = true) :
    Answers w a (execFrameReceive port f s) := by
  unfold execFrameReceive
  repeat' first
    | with_reducible
        first
        | assumption | apply Answers.next | apply Answers.fault | apply Keeps.ite | apply Answers.ite
        | refine Keeps.foldl ?_ fun _ _ _ => ?_ | refine receiveFrame_keeps ?_ ?_
    | exact within_trans rfl hw
    | dsimp only
    | split
    | intro _

theorem execPacketRelease_keeps {w : List StateField} {a s : State} {flow : Fin 4096} {ts : List TsIn} (h : Keeps w a s)
    (hw : within [.free, .regs, .mem, .rings, .ctxs, .engines, .banks, .disp, .talus, .srcs, .doms, .flows, .svcs, .perf] w = true) :
    Answers w a (execPacketRelease flow ts s) := by
  unfold execPacketRelease
  repeat' first
    | with_reducible
        first
        | assumption | apply Answers.next | apply Answers.fault | apply Keeps.ite | apply Answers.ite
        | refine Keeps.foldl ?_ fun _ _ _ => ?_ | refine releasePacket_keeps ?_ ?_
    | exact within_trans rfl hw
    | dsimp only
    | split
    | intro _

theorem execAccessUnitTimeout_keeps {w : List StateField} {a s : State} {ctx : Fin 256} {au : List AccessUnit} (h : Keeps w a s)
    (hw : within [.free, .regs, .mem, .rings, .ctxs, .engines, .banks, .disp, .talus, .srcs, .doms, .flows, .perf] w = true) :
    Answers w a (execAccessUnitTimeout ctx au s) := by
  unfold execAccessUnitTimeout
  repeat' first
    | with_reducible
        first
        | assumption | apply Answers.next | apply Answers.fault | apply Keeps.ite | apply Answers.ite
        | refine Keeps.foldl ?_ fun _ _ _ => ?_ | refine completeAu_keeps ?_ ?_
    | exact within_trans rfl hw
    | dsimp only
    | split
    | intro _

theorem execFlowRead_keeps {w : List StateField} {a s : State} (h : Keeps w a s)
    (hw : within [.regs] w = true) :
    Answers w a (execFlowRead s) := by
  unfold execFlowRead
  repeat' first
    | with_reducible
        first
        | assumption | apply Answers.next | apply Answers.fault | apply Keeps.ite | apply Answers.ite
        | refine Keeps.foldl ?_ fun _ _ _ => ?_ | refine rset_keeps ?_ ?_ | refine flowDone_keeps ?_ ?_
    | exact within_trans rfl hw
    | dsimp only
    | split
    | intro _

theorem execFlowWrite_keeps {w : List StateField} {a s : State} (h : Keeps w a s)
    (hw : within [.regs, .flows] w = true) :
    Answers w a (execFlowWrite s) := by
  unfold execFlowWrite
  repeat' first
    | with_reducible
        first
        | assumption | apply Answers.next | apply Answers.fault | apply Keeps.ite | apply Answers.ite
        | refine Keeps.foldl ?_ fun _ _ _ => ?_ | refine modFlow_keeps ?_ ?_ | refine flowDone_keeps ?_ ?_
    | exact within_trans rfl hw
    | dsimp only
    | split
    | intro _

theorem execFlowEnable_keeps {w : List StateField} {a s : State} (h : Keeps w a s)
    (hw : within [.regs, .talus, .srcs, .flows, .perf, .out] w = true) :
    Answers w a (execFlowEnable s) := by
  unfold execFlowEnable
  repeat' first
    | with_reducible
        first
        | assumption | apply Answers.next | apply Answers.fault | apply Keeps.ite | apply Answers.ite
        | refine Keeps.foldl ?_ fun _ _ _ => ?_ | refine enableFlow_keeps ?_ ?_
    | exact within_trans rfl hw
    | dsimp only
    | split
    | intro _

theorem execFlowDisable_keeps {w : List StateField} {a s : State} (h : Keeps w a s)
    (hw : within [.regs, .mem, .rings, .ctxs, .talus, .srcs, .flows, .perf, .out] w = true) :
    Answers w a (execFlowDisable s) := by
  unfold execFlowDisable
  repeat' first
    | with_reducible
        first
        | assumption | apply Answers.next | apply Answers.fault | apply Keeps.ite | apply Answers.ite
        | refine Keeps.foldl ?_ fun _ _ _ => ?_ | refine modFlow_keeps ?_ ?_ | refine freeAll_keeps ?_ ?_
        | refine retryOutputs_keeps ?_ ?_ | refine report_keeps ?_ ?_ | refine flowDone_keeps ?_ ?_
    | exact within_trans rfl hw
    | dsimp only
    | split
    | intro _

theorem execServiceRead_keeps {w : List StateField} {a s : State} (h : Keeps w a s)
    (hw : within [.regs] w = true) :
    Answers w a (execServiceRead s) := by
  unfold execServiceRead
  repeat' first
    | with_reducible
        first
        | assumption | apply Answers.next | apply Answers.fault | apply Keeps.ite | apply Answers.ite
        | refine Keeps.foldl ?_ fun _ _ _ => ?_ | refine rset_keeps ?_ ?_ | refine svcDone_keeps ?_ ?_
    | exact within_trans rfl hw
    | dsimp only
    | split
    | intro _

theorem execServiceWrite_keeps {w : List StateField} {a s : State} (h : Keeps w a s)
    (hw : within [.regs, .svcs] w = true) :
    Answers w a (execServiceWrite s) := by
  unfold execServiceWrite
  repeat' first
    | with_reducible
        first
        | assumption | apply Answers.next | apply Answers.fault | apply Keeps.ite | apply Answers.ite
        | refine Keeps.foldl ?_ fun _ _ _ => ?_ | refine modSvc_keeps ?_ ?_ | refine svcDone_keeps ?_ ?_
    | exact within_trans rfl hw
    | dsimp only
    | split
    | intro _

theorem execServiceEnable_keeps {w : List StateField} {a s : State} (h : Keeps w a s)
    (hw : within [.regs, .svcs] w = true) :
    Answers w a (execServiceEnable s) := by
  unfold execServiceEnable
  repeat' first
    | with_reducible
        first
        | assumption | apply Answers.next | apply Answers.fault | apply Keeps.ite | apply Answers.ite
        | refine Keeps.foldl ?_ fun _ _ _ => ?_ | refine modSvc_keeps ?_ ?_ | refine svcDone_keeps ?_ ?_
    | exact within_trans rfl hw
    | dsimp only
    | split
    | intro _

theorem execServiceDisable_keeps {w : List StateField} {a s : State} (h : Keeps w a s)
    (hw : within [.regs, .svcs] w = true) :
    Answers w a (execServiceDisable s) := by
  unfold execServiceDisable
  repeat' first
    | with_reducible
        first
        | assumption | apply Answers.next | apply Answers.fault | apply Keeps.ite | apply Answers.ite
        | refine Keeps.foldl ?_ fun _ _ _ => ?_ | refine modSvc_keeps ?_ ?_ | refine svcDone_keeps ?_ ?_
    | exact within_trans rfl hw
    | dsimp only
    | split
    | intro _

theorem execPsiRepeat_keeps {w : List StateField} {a s : State} {svc : Fin 1024} (h : Keeps w a s)
    (hw : within [.svcs] w = true) :
    Answers w a (execPsiRepeat svc s) := by
  unfold execPsiRepeat
  repeat' first
    | with_reducible
        first
        | assumption | apply Answers.next | apply Answers.fault | apply Keeps.ite | apply Answers.ite
        | refine Keeps.foldl ?_ fun _ _ _ => ?_ | refine modSvc_keeps ?_ ?_
    | exact within_trans rfl hw
    | dsimp only
    | split
    | intro _

theorem execMuxPacketSlot_keeps {w : List StateField} {a s : State} {svc : Fin 1024} (h : Keeps w a s)
    (hw : within [.regs, .srcs, .svcs, .queues, .store, .dgCount, .perf] w = true) :
    Answers w a (execMuxPacketSlot svc s) := by
  unfold execMuxPacketSlot
  repeat' first
    | with_reducible
        first
        | assumption | apply Answers.next | apply Answers.fault | apply Keeps.ite | apply Answers.ite
        | refine Keeps.foldl ?_ fun _ _ _ => ?_ | refine modSvc_keeps ?_ ?_ | refine muxSlot_keeps ?_ ?_
    | exact within_trans rfl hw
    | dsimp only
    | split
    | intro _

theorem execAudioDrop_keeps {w : List StateField} {a s : State} {svc : Fin 1024} (h : Keeps w a s)
    (hw : within [.svcs] w = true) :
    Answers w a (execAudioDrop svc s) := by
  unfold execAudioDrop
  repeat' first
    | with_reducible
        first
        | assumption | apply Answers.next | apply Answers.fault | apply Keeps.ite | apply Answers.ite
        | refine Keeps.foldl ?_ fun _ _ _ => ?_ | refine modSvc_keeps ?_ ?_
    | exact within_trans rfl hw
    | dsimp only
    | split
    | intro _

theorem execDatagramFlush_keeps {w : List StateField} {a s : State} {svc : Fin 1024} (h : Keeps w a s)
    (hw : within [.regs, .srcs, .svcs, .queues, .store, .dgCount, .perf] w = true) :
    Answers w a (execDatagramFlush svc s) := by
  unfold execDatagramFlush
  repeat' first
    | with_reducible
        first
        | assumption | apply Answers.next | apply Answers.fault | apply Keeps.ite | apply Answers.ite
        | refine Keeps.foldl ?_ fun _ _ _ => ?_ | refine finishDgram_keeps ?_ ?_
    | exact within_trans rfl hw
    | dsimp only
    | split
    | intro _

theorem execStoreMove_keeps {w : List StateField} {a s : State} {svc : Fin 1024} (h : Keeps w a s)
    (hw : within [.free, .regs, .mem, .rings, .ctxs, .engines, .banks, .talus, .srcs, .doms, .svcs, .queues, .store, .perf, .out] w = true) :
    Answers w a (execStoreMove svc s) := by
  unfold execStoreMove
  repeat' first
    | with_reducible
        first
        | assumption | apply Answers.next | apply Answers.fault | apply Keeps.ite | apply Answers.ite
        | refine Keeps.foldl ?_ fun _ _ _ => ?_ | refine modSvc_keeps ?_ ?_ | refine commitWaiting_keeps ?_ ?_
        | refine storeD_keeps ?_ ?_
    | exact within_trans rfl hw
    | dsimp only
    | split
    | intro _

theorem execPtpMessage_keeps {w : List StateField} {a s : State} {m : PtpMessage} (h : Keeps w a s)
    (hw : within [.free, .regs, .srcs, .ptp] w = true) :
    Answers w a (execPtpMessage m s) := by
  unfold execPtpMessage
  repeat' first
    | with_reducible
        first
        | assumption | apply Answers.next | apply Answers.fault | apply Keeps.ite | apply Answers.ite
        | refine Keeps.foldl ?_ fun _ _ _ => ?_ | refine ptpAnnounce_keeps ?_ ?_ | refine ptpSync_keeps ?_ ?_
    | exact within_trans rfl hw
    | dsimp only
    | split
    | intro _

theorem execAnnounceReceiptTimeout_keeps {w : List StateField} {a s : State} (h : Keeps w a s)
    (hw : within [.regs, .srcs, .ptp] w = true) :
    Answers w a (execAnnounceReceiptTimeout s) := by
  unfold execAnnounceReceiptTimeout
  repeat' first
    | with_reducible
        first
        | assumption | apply Answers.next | apply Answers.fault | apply Keeps.ite | apply Answers.ite
        | refine Keeps.foldl ?_ fun _ _ _ => ?_ | refine fset_keeps ?_ ?_ | refine report_keeps ?_ ?_
        | refine setPtpLocked_keeps ?_ ?_
    | exact within_trans rfl hw
    | with_reducible refine keeps_mk ?_ ?_ ?_ ?_ ?_ ?_ ?_ ?_ ?_ ?_ ?_ ?_ ?_ ?_ ?_ ?_ ?_ ?_ ?_ ?_ ?_ ?_ ?_ ?_ ?_ ?_ ?_ ?_ ?_ ?_ ?_ ?_
    | with_reducible exact Or.inl rfl
    | exact Or.inr (within_trans rfl hw)
    | dsimp only
    | split
    | intro _

theorem execMembershipReport_keeps {w : List StateField} {a s : State} {flow : Fin 4096} (h : Keeps w a s)
    (hw : within [.flows, .out] w = true) :
    Answers w a (execMembershipReport flow s) := by
  unfold execMembershipReport
  repeat' first
    | with_reducible
        first
        | assumption | apply Answers.next | apply Answers.fault | apply Keeps.ite | apply Answers.ite
        | refine Keeps.foldl ?_ fun _ _ _ => ?_ | refine modFlow_keeps ?_ ?_ | refine report_keeps ?_ ?_
    | exact within_trans rfl hw
    | dsimp only
    | split
    | intro _

end Sys2Proof.Machine
end

