-- ==== Sys2Proof/Laws/KeepsPlace.lean ====
section
/-! SUPPORT. What each operation of Machine/Place.lean keeps. -/

set_option linter.all false

namespace Sys2Proof.Machine

theorem takeSlot_keeps {w : List StateField} {a s : State} {c n : Nat} (h : Keeps w a s)
    (hw : within [.ctxs] w = true) :
    Keeps w a (takeSlot s c n) := by
  unfold takeSlot
  repeat' first
    | with_reducible
        first
        | assumption | apply Answers.next | apply Answers.fault | apply Keeps.ite | apply Answers.ite
        | refine Keeps.foldl ?_ fun _ _ _ => ?_ | refine modDec_keeps ?_ ?_
    | exact within_trans rfl hw
    | dsimp only
    | split
    | intro _

theorem markPlaced_keeps {w : List StateField} {a s : State} {n : Nat} {j : Job} (h : Keeps w a s)
    (hw : within [.ctxs] w = true) :
    Keeps w a (markPlaced s n j) := by
  unfold markPlaced
  repeat' first
    | with_reducible
        first
        | assumption | apply Answers.next | apply Answers.fault | apply Keeps.ite | apply Answers.ite
        | refine Keeps.foldl ?_ fun _ _ _ => ?_ | refine modSubmit_keeps ?_ ?_ | refine modSeg_keeps ?_ ?_
        | refine modDec_keeps ?_ ?_ | refine takeSlot_keeps ?_ ?_
    | exact within_trans rfl hw
    | dsimp only
    | split
    | intro _

theorem giveItem_keeps {w : List StateField} {a s : State} {k : EngKind} {x : Item} {page : Nat} (h : Keeps w a s)
    (hw : within [.regs, .ctxs, .engines, .srcs, .doms] w = true) :
    Keeps w a (giveItem s k x page) := by
  unfold giveItem
  repeat' first
    | with_reducible
        first
        | assumption | apply Answers.next | apply Answers.fault | apply Keeps.ite | apply Answers.ite
        | refine Keeps.foldl ?_ fun _ _ _ => ?_ | refine touchDomain_keeps ?_ ?_ | refine setHeld_keeps ?_ ?_
        | refine markPlaced_keeps ?_ ?_
    | exact within_trans rfl hw
    | dsimp only
    | split
    | intro _

theorem syncShed_keeps {w : List StateField} {a s : State} {c : Nat} {four : Bool} (h : Keeps w a s)
    (hw : within [.regs] w = true) :
    Keeps w a (syncShed s c four) := by
  unfold syncShed
  repeat' first
    | with_reducible
        first
        | assumption | apply Answers.next | apply Answers.fault | apply Keeps.ite | apply Answers.ite
        | refine Keeps.foldl ?_ fun _ _ _ => ?_ | refine fset_keeps ?_ ?_ | refine fsetb_keeps ?_ ?_
        | refine syncDerived_keeps ?_ ?_
    | exact within_trans rfl hw
    | dsimp only
    | split
    | intro _

theorem shedPicture_keeps {w : List StateField} {a s : State} (h : Keeps w a s)
    (hw : within [.regs, .rings, .ctxs] w = true) :
    Keeps w a (shedPicture s) := by
  unfold shedPicture
  repeat' first
    | with_reducible
        first
        | assumption | apply Answers.next | apply Answers.fault | apply Keeps.ite | apply Answers.ite
        | refine Keeps.foldl ?_ fun _ _ _ => ?_ | refine fadd_keeps ?_ ?_ | refine modCtx_keeps ?_ ?_
        | refine submitDone_keeps ?_ ?_ | refine syncShed_keeps ?_ ?_
    | exact within_trans rfl hw
    | dsimp only
    | split
    | intro _

theorem placeOne_keeps {w : List StateField} {a s : State} {k : EngKind} {x : Item} (h : Keeps w a s)
    (hw : within [.regs, .rings, .ctxs, .engines, .srcs, .doms] w = true) :
    Keeps w a (placeOne k s x) := by
  unfold placeOne
  repeat' first
    | with_reducible
        first
        | assumption | apply Answers.next | apply Answers.fault | apply Keeps.ite | apply Answers.ite
        | refine Keeps.foldl ?_ fun _ _ _ => ?_ | refine giveItem_keeps ?_ ?_ | refine shedPicture_keeps ?_ ?_
    | exact within_trans rfl hw
    | dsimp only
    | split
    | intro _

theorem execPlaceWork_keeps {w : List StateField} {a s : State} {kind : EngKind} (h : Keeps w a s)
    (hw : within [.free, .regs, .rings, .ctxs, .engines, .srcs, .doms, .perf] w = true) :
    Answers w a (execPlaceWork kind s) := by
  unfold execPlaceWork
  repeat' first
    | with_reducible
        first
        | assumption | apply Answers.next | apply Answers.fault | apply Keeps.ite | apply Answers.ite
        | refine Keeps.foldl ?_ fun _ _ _ => ?_ | refine endLookaheads_keeps ?_ ?_ | refine syncPins_keeps ?_ ?_
        | refine placeOne_keeps ?_ ?_
    | exact within_trans rfl hw
    | dsimp only
    | split
    | intro _

theorem fallBack_keeps {w : List StateField} {a s : State} {x : SegId} (h : Keeps w a s)
    (hw : within [.regs, .ctxs, .banks, .disp, .srcs, .doms, .perf] w = true) :
    Keeps w a (fallBack s x) := by
  unfold fallBack
  repeat' first
    | with_reducible
        first
        | assumption | apply Answers.next | apply Answers.fault | apply Keeps.ite | apply Answers.ite
        | refine Keeps.foldl ?_ fun _ _ _ => ?_ | refine chooseDigital_keeps ?_ ?_ | refine countJob_keeps ?_ ?_
    | exact within_trans rfl hw
    | dsimp only
    | split
    | intro _

theorem execSearchWaitExpiry_keeps {w : List StateField} {a s : State} {seg : SegId} (h : Keeps w a s)
    (hw : within [.regs, .ctxs, .banks, .disp, .srcs, .doms, .perf] w = true) :
    Answers w a (execSearchWaitExpiry seg s) := by
  unfold execSearchWaitExpiry
  repeat' first
    | with_reducible
        first
        | assumption | apply Answers.next | apply Answers.fault | apply Keeps.ite | apply Answers.ite
        | refine Keeps.foldl ?_ fun _ _ _ => ?_ | refine fallBack_keeps ?_ ?_
    | exact within_trans rfl hw
    | dsimp only
    | split
    | intro _

theorem execSearchDeadlineFallback_keeps {w : List StateField} {a s : State} {seg : SegId} (h : Keeps w a s)
    (hw : within [.regs, .ctxs, .banks, .disp, .srcs, .doms, .perf] w = true) :
    Answers w a (execSearchDeadlineFallback seg s) := by
  unfold execSearchDeadlineFallback
  repeat' first
    | with_reducible
        first
        | assumption | apply Answers.next | apply Answers.fault | apply Keeps.ite | apply Answers.ite
        | refine Keeps.foldl ?_ fun _ _ _ => ?_ | refine fallBack_keeps ?_ ?_
    | exact within_trans rfl hw
    | dsimp only
    | split
    | intro _

theorem execSelftestStart_keeps {w : List StateField} {a s : State} {kind : EngKind} {n : Fin 18} (h : Keeps w a s)
    (hw : within [.regs, .doms] w = true) :
    Answers w a (execSelftestStart kind n s) := by
  unfold execSelftestStart
  repeat' first
    | with_reducible
        first
        | assumption | apply Answers.next | apply Answers.fault | apply Keeps.ite | apply Answers.ite
        | refine Keeps.foldl ?_ fun _ _ _ => ?_ | refine setTest_keeps ?_ ?_ | refine startTest_keeps ?_ ?_
    | exact within_trans rfl hw
    | dsimp only
    | split
    | intro _

theorem execEngineRetire_keeps {w : List StateField} {a s : State} {kind : EngKind} {n : Fin 18} (h : Keeps w a s)
    (hw : within [.regs, .engines, .disp, .srcs, .doms, .bdrk] w = true) :
    Answers w a (execEngineRetire kind n s) := by
  unfold execEngineRetire
  repeat' first
    | with_reducible
        first
        | assumption | apply Answers.next | apply Answers.fault | apply Keeps.ite | apply Answers.ite
        | refine Keeps.foldl ?_ fun _ _ _ => ?_ | refine retireUnit_keeps ?_ ?_ | refine endUnitDrain_keeps ?_ ?_
    | exact within_trans rfl hw
    | dsimp only
    | split
    | intro _

theorem execEngineAdmit_keeps {w : List StateField} {a s : State} {kind : EngKind} {n : Fin 18} (h : Keeps w a s)
    (hw : within [.regs, .engines, .disp, .srcs, .doms, .bdrk] w = true) :
    Answers w a (execEngineAdmit kind n s) := by
  unfold execEngineAdmit
  repeat' first
    | with_reducible
        first
        | assumption | apply Answers.next | apply Answers.fault | apply Keeps.ite | apply Answers.ite
        | refine Keeps.foldl ?_ fun _ _ _ => ?_ | refine admitUnit_keeps ?_ ?_
    | exact within_trans rfl hw
    | dsimp only
    | split
    | intro _

theorem execEngineDrained_keeps {w : List StateField} {a s : State} {kind : EngKind} {n : Fin 18} (h : Keeps w a s)
    (hw : within [.regs, .engines, .disp, .srcs, .doms, .bdrk] w = true) :
    Answers w a (execEngineDrained kind n s) := by
  unfold execEngineDrained
  repeat' first
    | with_reducible
        first
        | assumption | apply Answers.next | apply Answers.fault | apply Keeps.ite | apply Answers.ite
        | refine Keeps.foldl ?_ fun _ _ _ => ?_ | refine endUnitDrain_keeps ?_ ?_
    | exact within_trans rfl hw
    | dsimp only
    | split
    | intro _

theorem trimService_keeps {w : List StateField} {a s : State} {page : Nat} (h : Keeps w a s)
    (hw : within [.regs, .engines, .disp, .srcs, .doms, .bdrk] w = true) :
    Keeps w a (trimService s page) := by
  unfold trimService
  repeat' first
    | with_reducible
        first
        | assumption | apply Answers.next | apply Answers.fault | apply Keeps.ite | apply Answers.ite
        | refine Keeps.foldl ?_ fun _ _ _ => ?_ | refine drainToStandby_keeps ?_ ?_ | refine endUnitDrain_keeps ?_ ?_
    | exact within_trans rfl hw
    | dsimp only
    | split
    | intro _

theorem stayInService_keeps {w : List StateField} {a s : State} {page : Nat} (h : Keeps w a s)
    (hw : within [.regs, .engines] w = true) :
    Keeps w a (stayInService s page) := by
  unfold stayInService
  repeat' first
    | with_reducible
        first
        | assumption | apply Answers.next | apply Answers.fault | apply Keeps.ite | apply Answers.ite
        | refine Keeps.foldl ?_ fun _ _ _ => ?_ | refine fset_keeps ?_ ?_ | refine modEng_keeps ?_ ?_
    | exact within_trans rfl hw
    | dsimp only
    | split
    | intro _

theorem admitStandbys_keeps {w : List StateField} {a s : State} {page : Nat} (h : Keeps w a s)
    (hw : within [.regs, .engines, .disp, .srcs, .doms] w = true) :
    Keeps w a (admitStandbys s page) := by
  unfold admitStandbys
  repeat' first
    | with_reducible
        first
        | assumption | apply Answers.next | apply Answers.fault | apply Keeps.ite | apply Answers.ite
        | refine Keeps.foldl ?_ fun _ _ _ => ?_ | refine callIn_keeps ?_ ?_ | refine stayInService_keeps ?_ ?_
    | exact within_trans rfl hw
    | dsimp only
    | split
    | intro _

theorem keepIf_keeps {w : List StateField} {a s : State} {r : Row} {v : Nat} {ok : Bool} (h : Keeps w a s)
    (hw : within [.regs] w = true) :
    Keeps w a (keepIf s r v ok) := by
  unfold keepIf
  repeat' first
    | with_reducible
        first
        | assumption | apply Answers.next | apply Answers.fault | apply Keeps.ite | apply Answers.ite
        | refine Keeps.foldl ?_ fun _ _ _ => ?_ | refine fset_keeps ?_ ?_
    | exact within_trans rfl hw
    | dsimp only
    | split
    | intro _

theorem execCapacityWrite_keeps {w : List StateField} {a s : State} {val : Word} (h : Keeps w a s)
    (hw : within [.regs, .engines, .disp, .srcs, .doms, .bdrk] w = true) :
    Answers w a (execCapacityWrite val s) := by
  unfold execCapacityWrite
  repeat' first
    | with_reducible
        first
        | assumption | apply Answers.next | apply Answers.fault | apply Keeps.ite | apply Answers.ite
        | refine Keeps.foldl ?_ fun _ _ _ => ?_ | refine fset_keeps ?_ ?_ | refine trimService_keeps ?_ ?_
        | refine admitStandbys_keeps ?_ ?_ | refine keepIf_keeps ?_ ?_
    | exact within_trans rfl hw
    | dsimp only
    | split
    | intro _

theorem execVerifyWaive_keeps {w : List StateField} {a s : State} {seg : SegId} (h : Keeps w a s)
    (hw : within [.free, .regs, .mem, .rings, .ctxs, .engines, .banks, .disp, .talus, .srcs, .doms, .svcs, .perf, .out] w = true) :
    Answers w a (execVerifyWaive seg s) := by
  unfold execVerifyWaive
  repeat' first
    | with_reducible
        first
        | assumption | apply Answers.next | apply Answers.fault | apply Keeps.ite | apply Answers.ite
        | refine Keeps.foldl ?_ fun _ _ _ => ?_ | refine fadd_keeps ?_ ?_ | refine countEv_keeps ?_ ?_
        | refine modSeg_keeps ?_ ?_ | refine settleCtx_keeps ?_ ?_ | refine clearSeg_keeps ?_ ?_
    | exact within_trans rfl hw
    | with_reducible refine keeps_mk ?_ ?_ ?_ ?_ ?_ ?_ ?_ ?_ ?_ ?_ ?_ ?_ ?_ ?_ ?_ ?_ ?_ ?_ ?_ ?_ ?_ ?_ ?_ ?_ ?_ ?_ ?_ ?_ ?_ ?_ ?_ ?_
    | with_reducible exact Or.inl rfl
    | exact Or.inr (within_trans rfl hw)
    | dsimp only
    | split
    | intro _

theorem eachCtx_keeps {w : List StateField} {a s : State} {f : State → Nat → State} (h : Keeps w a s)
    (hw : within [] w = true) (kf : ∀ t i, Keeps w a t → Keeps w a (f t i)) :
    Keeps w a (eachCtx s f) := by
  unfold eachCtx
  repeat' first
    | with_reducible
        first
        | assumption | apply Answers.next | apply Answers.fault | apply Keeps.ite | apply Answers.ite
        | refine Keeps.foldl ?_ fun _ _ _ => ?_ | apply kf
    | exact within_trans rfl hw
    | dsimp only
    | split
    | intro _

theorem cutLa_keeps {w : List StateField} {a s : State} (h : Keeps w a s)
    (hw : within [.ctxs] w = true) :
    Keeps w a (cutLa s) := by
  unfold cutLa
  repeat' first
    | with_reducible
        first
        | assumption | apply Answers.next | apply Answers.fault | apply Keeps.ite | apply Answers.ite
        | refine Keeps.foldl ?_ fun _ _ _ => ?_ | refine modCtx_keeps ?_ ?_
        | refine eachCtx_keeps ?_ ?_ fun _ _ _ => ?_
    | exact within_trans rfl hw
    | dsimp only
    | split
    | intro _

theorem cutEffort_keeps {w : List StateField} {a s : State} (h : Keeps w a s)
    (hw : within [.ctxs] w = true) :
    Keeps w a (cutEffort s) := by
  unfold cutEffort
  repeat' first
    | with_reducible
        first
        | assumption | apply Answers.next | apply Answers.fault | apply Keeps.ite | apply Answers.ite
        | refine Keeps.foldl ?_ fun _ _ _ => ?_ | refine modCtx_keeps ?_ ?_
        | refine eachCtx_keeps ?_ ?_ fun _ _ _ => ?_
    | exact within_trans rfl hw
    | dsimp only
    | split
    | intro _

theorem setStep_keeps {w : List StateField} {a s : State} {n cls : Nat} (h : Keeps w a s)
    (hw : within [.disp] w = true) :
    Keeps w a (setStep s n cls) := by
  unfold setStep
  repeat' first
    | with_reducible
        first
        | assumption | apply Answers.next | apply Answers.fault | apply Keeps.ite | apply Answers.ite
        | refine Keeps.foldl ?_ fun _ _ _ => ?_
    | exact within_trans rfl hw
    | with_reducible refine keeps_mk ?_ ?_ ?_ ?_ ?_ ?_ ?_ ?_ ?_ ?_ ?_ ?_ ?_ ?_ ?_ ?_ ?_ ?_ ?_ ?_ ?_ ?_ ?_ ?_ ?_ ?_ ?_ ?_ ?_ ?_ ?_ ?_
    | with_reducible exact Or.inl rfl
    | exact Or.inr (within_trans rfl hw)
    | dsimp only
    | split
    | intro _

theorem shedNext_keeps {w : List StateField} {a s : State} {shared : Bool} (h : Keeps w a s)
    (hw : within [.ctxs, .disp] w = true) :
    Keeps w a (shedNext s shared) := by
  unfold shedNext
  repeat' first
    | with_reducible
        first
        | assumption | apply Answers.next | apply Answers.fault | apply Keeps.ite | apply Answers.ite
        | refine Keeps.foldl ?_ fun _ _ _ => ?_ | refine cutLa_keeps ?_ ?_ | refine cutEffort_keeps ?_ ?_
        | refine setStep_keeps ?_ ?_
    | exact within_trans rfl hw
    | dsimp only
    | split
    | intro _

theorem syncSheds_keeps {w : List StateField} {a s : State} (h : Keeps w a s)
    (hw : within [.regs] w = true) :
    Keeps w a (syncSheds s) := by
  unfold syncSheds
  repeat' first
    | with_reducible
        first
        | assumption | apply Answers.next | apply Answers.fault | apply Keeps.ite | apply Answers.ite
        | refine Keeps.foldl ?_ fun _ _ _ => ?_ | refine syncShed_keeps ?_ ?_
        | refine eachCtx_keeps ?_ ?_ fun _ _ _ => ?_
    | exact within_trans rfl hw
    | dsimp only
    | split
    | intro _

theorem execOverloadWindow_keeps {w : List StateField} {a s : State} {w' : Window} (h : Keeps w a s)
    (hw : within [.regs, .ctxs, .disp, .srcs] w = true) :
    Answers w a (execOverloadWindow w' s) := by
  unfold execOverloadWindow
  repeat' first
    | with_reducible
        first
        | assumption | apply Answers.next | apply Answers.fault | apply Keeps.ite | apply Answers.ite
        | refine Keeps.foldl ?_ fun _ _ _ => ?_ | refine fsetb_keeps ?_ ?_ | refine setIrq_keeps ?_ ?_
        | refine shedNext_keeps ?_ ?_ | refine syncSheds_keeps ?_ ?_
    | exact within_trans rfl hw
    | with_reducible refine keeps_mk ?_ ?_ ?_ ?_ ?_ ?_ ?_ ?_ ?_ ?_ ?_ ?_ ?_ ?_ ?_ ?_ ?_ ?_ ?_ ?_ ?_ ?_ ?_ ?_ ?_ ?_ ?_ ?_ ?_ ?_ ?_ ?_
    | with_reducible exact Or.inl rfl
    | exact Or.inr (within_trans rfl hw)
    | dsimp only
    | split
    | intro _

theorem undoStep_keeps {w : List StateField} {a s : State} (h : Keeps w a s)
    (hw : within [.regs, .ctxs, .disp] w = true) :
    Keeps w a (undoStep s) := by
  unfold undoStep
  repeat' first
    | with_reducible
        first
        | assumption | apply Answers.next | apply Answers.fault | apply Keeps.ite | apply Answers.ite
        | refine Keeps.foldl ?_ fun _ _ _ => ?_ | refine modCtx_keeps ?_ ?_ | refine syncShed_keeps ?_ ?_
        | refine eachCtx_keeps ?_ ?_ fun _ _ _ => ?_ | refine setStep_keeps ?_ ?_
    | exact within_trans rfl hw
    | dsimp only
    | split
    | intro _

theorem execShedUndo_keeps {w : List StateField} {a s : State} (h : Keeps w a s)
    (hw : within [.regs, .ctxs, .disp] w = true) :
    Answers w a (execShedUndo s) := by
  unfold execShedUndo
  repeat' first
    | with_reducible
        first
        | assumption | apply Answers.next | apply Answers.fault | apply Keeps.ite | apply Answers.ite
        | refine Keeps.foldl ?_ fun _ _ _ => ?_ | refine syncSheds_keeps ?_ ?_ | refine undoStep_keeps ?_ ?_
    | exact within_trans rfl hw
    | with_reducible refine keeps_mk ?_ ?_ ?_ ?_ ?_ ?_ ?_ ?_ ?_ ?_ ?_ ?_ ?_ ?_ ?_ ?_ ?_ ?_ ?_ ?_ ?_ ?_ ?_ ?_ ?_ ?_ ?_ ?_ ?_ ?_ ?_ ?_
    | with_reducible exact Or.inl rfl
    | exact Or.inr (within_trans rfl hw)
    | dsimp only
    | split
    | intro _

end Sys2Proof.Machine
end

