-- ==== Sys2Proof/Laws/KeepsPower.lean ====
section
/-! SUPPORT. What each operation of Machine/Power.lean keeps. -/

set_option linter.all false

namespace Sys2Proof.Machine

theorem openShadows_keeps {w : List StateField} {a s : State} {d : Nat} (h : Keeps w a s)
    (hw : within [.bdrk] w = true) :
    Keeps w a (openShadows s d) := by
  unfold openShadows
  repeat' first
    | with_reducible
        first
        | assumption | apply Answers.next | apply Answers.fault | apply Keeps.ite | apply Answers.ite
        | refine Keeps.foldl ?_ fun _ _ _ => ?_ | refine openShadow_keeps ?_ ?_
    | exact within_trans rfl hw
    | dsimp only
    | split
    | intro _

theorem endShadows_keeps {w : List StateField} {a s : State} {d : Nat} (h : Keeps w a s)
    (hw : within [.bdrk] w = true) :
    Keeps w a (endShadows s d) := by
  unfold endShadows
  repeat' first
    | with_reducible
        first
        | assumption | apply Answers.next | apply Answers.fault | apply Keeps.ite | apply Answers.ite
        | refine Keeps.foldl ?_ fun _ _ _ => ?_ | refine endShadow_keeps ?_ ?_
    | exact within_trans rfl hw
    | dsimp only
    | split
    | intro _

theorem selfRefresh_keeps {w : List StateField} {a s : State} {ch : Nat} (h : Keeps w a s)
    (hw : within [.regs, .dmcs] w = true) :
    Keeps w a (selfRefresh s ch) := by
  unfold selfRefresh
  repeat' first
    | with_reducible
        first
        | assumption | apply Answers.next | apply Answers.fault | apply Keeps.ite | apply Answers.ite
        | refine Keeps.foldl ?_ fun _ _ _ => ?_ | refine fset_keeps ?_ ?_ | refine setOwed_keeps ?_ ?_
    | exact within_trans rfl hw
    | dsimp only
    | split
    | intro _

theorem startRamp_keeps {w : List StateField} {a s : State} {d : Nat} (h : Keeps w a s)
    (hw : within [.regs, .dmcs, .srcs, .doms, .bdrk] w = true) :
    Keeps w a (startRamp s d) := by
  unfold startRamp
  repeat' first
    | with_reducible
        first
        | assumption | apply Answers.next | apply Answers.fault | apply Keeps.ite | apply Answers.ite
        | refine Keeps.foldl ?_ fun _ _ _ => ?_ | refine setDomState_keeps ?_ ?_ | refine openShadows_keeps ?_ ?_
        | refine selfRefresh_keeps ?_ ?_
    | exact within_trans rfl hw
    | dsimp only
    | split
    | intro _

theorem beginDomCmd_keeps {w : List StateField} {a s : State} {d : Nat} {down : Bool} (h : Keeps w a s)
    (hw : within [.regs, .doms] w = true) :
    Keeps w a (beginDomCmd s d down) := by
  unfold beginDomCmd
  repeat' first
    | with_reducible
        first
        | assumption | apply Answers.next | apply Answers.fault | apply Keeps.ite | apply Answers.ite
        | refine Keeps.foldl ?_ fun _ _ _ => ?_ | refine fset_keeps ?_ ?_ | refine modDom_keeps ?_ ?_
    | exact within_trans rfl hw
    | dsimp only
    | split
    | intro _

theorem powerDown_keeps {w : List StateField} {a s : State} {d : Nat} (h : Keeps w a s)
    (hw : within [.regs, .dmcs, .srcs, .doms, .bdrk] w = true) :
    Keeps w a (powerDown s d) := by
  unfold powerDown
  repeat' first
    | with_reducible
        first
        | assumption | apply Answers.next | apply Answers.fault | apply Keeps.ite | apply Answers.ite
        | refine Keeps.foldl ?_ fun _ _ _ => ?_ | refine setDomState_keeps ?_ ?_ | refine domCmdDone_keeps ?_ ?_
        | refine startRamp_keeps ?_ ?_ | refine beginDomCmd_keeps ?_ ?_
    | exact within_trans rfl hw
    | dsimp only
    | split
    | intro _

theorem powerUp_keeps {w : List StateField} {a s : State} {d : Nat} (h : Keeps w a s)
    (hw : within [.regs, .srcs, .doms] w = true) :
    Keeps w a (powerUp s d) := by
  unfold powerUp
  repeat' first
    | with_reducible
        first
        | assumption | apply Answers.next | apply Answers.fault | apply Keeps.ite | apply Answers.ite
        | refine Keeps.foldl ?_ fun _ _ _ => ?_ | refine domCmdDone_keeps ?_ ?_ | refine requestWake_keeps ?_ ?_
        | refine beginDomCmd_keeps ?_ ?_
    | exact within_trans rfl hw
    | dsimp only
    | split
    | intro _

theorem domCmd_keeps {w : List StateField} {a s : State} {d : Nat} {run : State → State} (h : Keeps w a s)
    (hw : within [.regs, .srcs] w = true) (kf : ∀ t, Keeps w a t → Keeps w a (run t)) :
    Keeps w a (domCmd s d run) := by
  unfold domCmd
  repeat' first
    | with_reducible
        first
        | assumption | apply Answers.next | apply Answers.fault | apply Keeps.ite | apply Answers.ite
        | refine Keeps.foldl ?_ fun _ _ _ => ?_ | apply kf | refine fset_keeps ?_ ?_ | refine domCmdDone_keeps ?_ ?_
    | exact within_trans rfl hw
    | dsimp only
    | split
    | intro _

theorem failWake_keeps {w : List StateField} {a s : State} {d : Nat} (h : Keeps w a s)
    (hw : within [.free, .regs, .staged, .latched, .ctxs, .engines, .banks, .disp, .chans, .srcs, .tgts, .holdoff, .doms, .chip, .flows, .queues, .pnodes, .store, .bdrk, .perf, .pins] w = true) :
    Keeps w a (failWake s d) := by
  unfold failWake
  repeat' first
    | with_reducible
        first
        | assumption | apply Answers.next | apply Answers.fault | apply Keeps.ite | apply Answers.ite
        | refine Keeps.foldl ?_ fun _ _ _ => ?_ | refine modDom_keeps ?_ ?_ | refine useFree_keeps ?_ ?_
        | refine setDomState_keeps ?_ ?_ | refine domCmdDone_keeps ?_ ?_ | refine raiseFault_keeps ?_ ?_
        | refine endShadows_keeps ?_ ?_
    | exact within_trans rfl hw
    | dsimp only
    | split
    | intro _

theorem execPowerDown_keeps {w : List StateField} {a s : State} {d : Fin 64} (h : Keeps w a s)
    (hw : within [.regs, .dmcs, .srcs, .doms, .bdrk] w = true) :
    Answers w a (execPowerDown d s) := by
  unfold execPowerDown
  repeat' first
    | with_reducible
        first
        | assumption | apply Answers.next | apply Answers.fault | apply Keeps.ite | apply Answers.ite
        | refine Keeps.foldl ?_ fun _ _ _ => ?_ | refine powerDown_keeps ?_ ?_
        | refine domCmd_keeps ?_ ?_ fun _ _ => ?_
    | exact within_trans rfl hw
    | dsimp only
    | split
    | intro _

theorem execPowerUp_keeps {w : List StateField} {a s : State} {d : Fin 64} (h : Keeps w a s)
    (hw : within [.regs, .srcs, .doms] w = true) :
    Answers w a (execPowerUp d s) := by
  unfold execPowerUp
  repeat' first
    | with_reducible
        first
        | assumption | apply Answers.next | apply Answers.fault | apply Keeps.ite | apply Answers.ite
        | refine Keeps.foldl ?_ fun _ _ _ => ?_ | refine powerUp_keeps ?_ ?_ | refine domCmd_keeps ?_ ?_ fun _ _ => ?_
    | exact within_trans rfl hw
    | dsimp only
    | split
    | intro _

theorem execDomainQuiet_keeps {w : List StateField} {a s : State} {d : Fin 60} (h : Keeps w a s)
    (hw : within [.regs, .dmcs, .srcs, .doms, .bdrk] w = true) :
    Answers w a (execDomainQuiet d s) := by
  unfold execDomainQuiet
  repeat' first
    | with_reducible
        first
        | assumption | apply Answers.next | apply Answers.fault | apply Keeps.ite | apply Answers.ite
        | refine Keeps.foldl ?_ fun _ _ _ => ?_ | refine startRamp_keeps ?_ ?_
    | exact within_trans rfl hw
    | dsimp only
    | split
    | intro _

theorem execRampEnd_keeps {w : List StateField} {a s : State} {d : Fin 60} (h : Keeps w a s)
    (hw : within [.regs, .srcs, .doms, .bdrk] w = true) :
    Answers w a (execRampEnd d s) := by
  unfold execRampEnd
  repeat' first
    | with_reducible
        first
        | assumption | apply Answers.next | apply Answers.fault | apply Keeps.ite | apply Answers.ite
        | refine Keeps.foldl ?_ fun _ _ _ => ?_ | refine fset_keeps ?_ ?_ | refine fsetb_keeps ?_ ?_
        | refine modDom_keeps ?_ ?_ | refine setDomState_keeps ?_ ?_ | refine domCmdDone_keeps ?_ ?_
        | refine endShadows_keeps ?_ ?_
    | exact within_trans rfl hw
    | dsimp only
    | split
    | intro _

theorem execPdTimeoutExpiry_keeps {w : List StateField} {a s : State} {d : Fin 60} (h : Keeps w a s)
    (hw : within [.regs, .srcs, .doms] w = true) :
    Answers w a (execPdTimeoutExpiry d s) := by
  unfold execPdTimeoutExpiry
  repeat' first
    | with_reducible
        first
        | assumption | apply Answers.next | apply Answers.fault | apply Keeps.ite | apply Answers.ite
        | refine Keeps.foldl ?_ fun _ _ _ => ?_ | refine fadd_keeps ?_ ?_ | refine endDrain_keeps ?_ ?_
    | exact within_trans rfl hw
    | dsimp only
    | split
    | intro _

theorem execDomainWake_keeps {w : List StateField} {a s : State} {d : Fin 60} (h : Keeps w a s)
    (hw : within [.regs, .srcs, .doms, .chip, .bdrk] w = true) :
    Answers w a (execDomainWake d s) := by
  unfold execDomainWake
  repeat' first
    | with_reducible
        first
        | assumption | apply Answers.next | apply Answers.fault | apply Keeps.ite | apply Answers.ite
        | refine Keeps.foldl ?_ fun _ _ _ => ?_ | refine fset_keeps ?_ ?_ | refine fadd_keeps ?_ ?_
        | refine modDom_keeps ?_ ?_ | refine setDomState_keeps ?_ ?_ | refine setChip_keeps ?_ ?_
        | refine openShadows_keeps ?_ ?_
    | exact within_trans rfl hw
    | dsimp only
    | split
    | intro _

theorem execWakeFail_keeps {w : List StateField} {a s : State} {d : Fin 60} (h : Keeps w a s)
    (hw : within [.free, .regs, .staged, .latched, .ctxs, .engines, .banks, .disp, .chans, .srcs, .tgts, .holdoff, .doms, .chip, .flows, .queues, .pnodes, .store, .bdrk, .perf, .pins] w = true) :
    Answers w a (execWakeFail d s) := by
  unfold execWakeFail
  repeat' first
    | with_reducible
        first
        | assumption | apply Answers.next | apply Answers.fault | apply Keeps.ite | apply Answers.ite
        | refine Keeps.foldl ?_ fun _ _ _ => ?_ | refine failWake_keeps ?_ ?_
    | exact within_trans rfl hw
    | dsimp only
    | split
    | intro _

theorem execIdlePowerGate_keeps {w : List StateField} {a s : State} {d : Fin 60} (h : Keeps w a s)
    (hw : within [.regs, .dmcs, .srcs, .doms, .bdrk] w = true) :
    Answers w a (execIdlePowerGate d s) := by
  unfold execIdlePowerGate
  repeat' first
    | with_reducible
        first
        | assumption | apply Answers.next | apply Answers.fault | apply Keeps.ite | apply Answers.ite
        | refine Keeps.foldl ?_ fun _ _ _ => ?_ | refine startRamp_keeps ?_ ?_
    | exact within_trans rfl hw
    | dsimp only
    | split
    | intro _

end Sys2Proof.Machine
end

