-- ==== Sys2Proof/Laws/KeepsAccess.lean ====
section
/-! SUPPORT. What each operation of Machine/Access.lean keeps. -/

set_option linter.all false

namespace Sys2Proof.Machine

theorem latchWords_keeps {w : List StateField} {a s : State} {fn page lo words : Nat} (h : Keeps w a s)
    (hw : within [.latched] w = true) :
    Keeps w a (latchWords s fn page lo words) := by
  unfold latchWords
  repeat' first
    | with_reducible
        first
        | assumption | apply Answers.next | apply Answers.fault | apply Keeps.ite | apply Answers.ite
        | refine Keeps.foldl ?_ fun _ _ _ => ?_
    | exact within_trans rfl hw
    | with_reducible refine keeps_mk ?_ ?_ ?_ ?_ ?_ ?_ ?_ ?_ ?_ ?_ ?_ ?_ ?_ ?_ ?_ ?_ ?_ ?_ ?_ ?_ ?_ ?_ ?_ ?_ ?_ ?_ ?_ ?_ ?_ ?_ ?_ ?_
    | with_reducible exact Or.inl rfl
    | exact Or.inr (within_trans rfl hw)
    | dsimp only
    | split
    | intro _

theorem readReg_keeps {w : List StateField} {a s : State} {fn page off bump : Nat} (h : Keeps w a s)
    (hw : within [.free, .regs, .latched, .talus, .srcs, .tgts, .perf] w = true) :
    Keeps w a (readReg s fn page off bump).2 := by
  unfold readReg
  repeat' first
    | with_reducible
        first
        | assumption | apply Answers.next | apply Answers.fault | apply Keeps.ite | apply Answers.ite
        | refine Keeps.foldl ?_ fun _ _ _ => ?_ | refine rset_keeps ?_ ?_ | refine claim_keeps ?_ ?_
        | refine useFree_keeps ?_ ?_ | refine talusAlloc_keeps ?_ ?_ | refine observeSlots_keeps ?_ ?_
        | refine latchWords_keeps ?_ ?_
    | exact within_trans rfl hw
    | dsimp only
    | split
    | intro _

theorem writeRows_keeps {w : List StateField} {a s : State} {page off v : Nat} (h : Keeps w a s)
    (hw : within [.regs] w = true) :
    Keeps w a (writeRows s page off v) := by
  unfold writeRows
  repeat' first
    | with_reducible
        first
        | assumption | apply Answers.next | apply Answers.fault | apply Keeps.ite | apply Answers.ite
        | refine Keeps.foldl ?_ fun _ _ _ => ?_ | refine rset_keeps ?_ ?_
    | exact within_trans rfl hw
    | dsimp only
    | split
    | intro _

theorem writeKey_keeps {w : List StateField} {a s : State} {page v : Nat} (h : Keeps w a s)
    (hw : within [.regs] w = true) :
    Keeps w a (writeKey s page v) := by
  unfold writeKey
  repeat' first
    | with_reducible
        first
        | assumption | apply Answers.next | apply Answers.fault | apply Keeps.ite | apply Answers.ite
        | refine Keeps.foldl ?_ fun _ _ _ => ?_ | refine fsetb_keeps ?_ ?_
    | exact within_trans rfl hw
    | dsimp only
    | split
    | intro _

theorem writeHeader_keeps {w : List StateField} {a s : State} {page off v : Nat} (h : Keeps w a s)
    (hw : within [.free, .regs, .staged, .latched, .ctxs, .engines, .banks, .disp, .chans, .srcs, .tgts, .holdoff, .doms, .chip, .flows, .queues, .pnodes, .store, .bdrk, .perf, .pins] w = true) :
    Keeps w a (writeHeader s page off v) := by
  unfold writeHeader
  repeat' first
    | with_reducible
        first
        | assumption | apply Answers.next | apply Answers.fault | apply Keeps.ite | apply Answers.ite
        | refine Keeps.foldl ?_ fun _ _ _ => ?_ | refine rset_keeps ?_ ?_ | refine syncPage_keeps ?_ ?_
        | refine setIrq_keeps ?_ ?_ | refine raiseForced_keeps ?_ ?_ | refine writeRows_keeps ?_ ?_
    | exact within_trans rfl hw
    | dsimp only
    | split
    | intro _

theorem ran_keeps {w : List StateField} {a s : State} {o : Host.Outcome State Fault Refusal} (h : Keeps w a s)
    (k : Answers w a o) : Keeps w a (ran s o) := by
  cases o with
  | next t => exact k t rfl
  | fault f => exact h
  | refused r => exact h

theorem writeIf_keeps {w : List StateField} {a s : State} {page off v : Nat} {ok : Bool} (h : Keeps w a s)
    (hw : within [.regs] w = true) :
    Keeps w a (writeIf s page off v ok) := by
  unfold writeIf
  repeat' first
    | with_reducible
        first
        | assumption | apply Answers.next | apply Answers.fault | apply Keeps.ite | apply Answers.ite
        | refine Keeps.foldl ?_ fun _ _ _ => ?_ | refine writeRows_keeps ?_ ?_
    | exact within_trans rfl hw
    | dsimp only
    | split
    | intro _

theorem writeKeeping_keeps {w : List StateField} {a s : State} {page off v : Nat} {r : Row} {ok : Bool} (h : Keeps w a s)
    (hw : within [.regs] w = true) :
    Keeps w a (writeKeeping s page off v r ok) := by
  unfold writeKeeping
  repeat' first
    | with_reducible
        first
        | assumption | apply Answers.next | apply Answers.fault | apply Keeps.ite | apply Answers.ite
        | refine Keeps.foldl ?_ fun _ _ _ => ?_ | refine writeRows_keeps ?_ ?_
    | exact within_trans rfl hw
    | dsimp only
    | split
    | intro _

theorem gpioChange_keeps {w : List StateField} {a s : State} {f : State → State} (h : Keeps w a s)
    (hw : within [.regs, .srcs] w = true) (kf : ∀ t, Keeps w a t → Keeps w a (f t)) :
    Keeps w a (gpioChange s f) := by
  unfold gpioChange
  repeat' first
    | with_reducible
        first
        | assumption | apply Answers.next | apply Answers.fault | apply Keeps.ite | apply Answers.ite
        | refine Keeps.foldl ?_ fun _ _ _ => ?_ | apply kf | refine fset_keeps ?_ ?_ | refine syncSrc_keeps ?_ ?_
    | exact within_trans rfl hw
    | dsimp only
    | split
    | intro _

theorem resetByKey_keeps {w : List StateField} {a s : State} {v : Nat} (h : Keeps w a s)
    (hw : within [.free, .regs, .staged, .latched, .mem, .poison, .rings, .ctxs, .engines, .banks, .disp, .talus, .dmcs, .chans, .srcs, .tgts, .holdoff, .funcs, .doms, .chip, .flows, .svcs, .ptp, .queues, .snodes, .pnodes, .store, .dgCount, .bdrk, .perf, .pins] w = true) :
    Keeps w a (resetByKey s v) := by
  unfold resetByKey
  repeat' first
    | with_reducible
        first
        | assumption | apply Answers.next | apply Answers.fault | apply Keeps.ite | apply Answers.ite
        | refine Keeps.foldl ?_ fun _ _ _ => ?_ | refine useFree_keeps ?_ ?_ | refine execChipReset_keeps ?_ ?_
        | refine ran_keeps ?_ ?_
    | exact within_trans rfl hw
    | dsimp only
    | split
    | intro _

theorem writeChip_keeps {w : List StateField} {a s : State} {off v : Nat} (h : Keeps w a s)
    (hw : within [.free, .regs, .staged, .latched, .mem, .poison, .rings, .ctxs, .engines, .banks, .disp, .talus, .dmcs, .chans, .srcs, .tgts, .holdoff, .funcs, .doms, .chip, .flows, .svcs, .ptp, .queues, .snodes, .pnodes, .store, .dgCount, .bdrk, .perf, .pins] w = true) :
    Keeps w a (writeChip s off v) := by
  unfold writeChip
  repeat' first
    | with_reducible
        first
        | assumption | apply Answers.next | apply Answers.fault | apply Keeps.ite | apply Answers.ite
        | refine Keeps.foldl ?_ fun _ _ _ => ?_ | refine execCapacityWrite_keeps ?_ ?_ | refine writeRows_keeps ?_ ?_
        | refine ran_keeps ?_ ?_ | refine writeKeeping_keeps ?_ ?_ | refine gpioChange_keeps ?_ ?_ fun _ _ => ?_
        | refine resetByKey_keeps ?_ ?_
    | exact within_trans rfl hw
    | dsimp only
    | split
    | intro _

theorem mailboxGo_keeps {w : List StateField} {a s : State} (h : Keeps w a s)
    (hw : within [.free, .regs, .staged, .latched, .ctxs, .engines, .banks, .disp, .chans, .srcs, .tgts, .holdoff, .doms, .chip, .flows, .queues, .pnodes, .store, .bdrk, .perf, .pins, .out] w = true) :
    Keeps w a (mailboxGo s) := by
  unfold mailboxGo
  repeat' first
    | with_reducible
        first
        | assumption | apply Answers.next | apply Answers.fault | apply Keeps.ite | apply Answers.ite
        | refine Keeps.foldl ?_ fun _ _ _ => ?_ | refine useFree_keeps ?_ ?_ | refine execUpdBegin_keeps ?_ ?_
        | refine execUpdData_keeps ?_ ?_ | refine execUpdCommit_keeps ?_ ?_ | refine execUpdAbort_keeps ?_ ?_
        | refine execRestartBedrock_keeps ?_ ?_ | refine execQzUpdate_keeps ?_ ?_ | refine execAvsAck_keeps ?_ ?_
        | refine execAgent_keeps ?_ ?_ | refine execAgentPoll_keeps ?_ ?_ | refine execMailboxBadCmd_keeps ?_ ?_
        | refine ran_keeps ?_ ?_
    | exact within_trans rfl hw
    | dsimp only
    | split
    | intro _

theorem writePwr_keeps {w : List StateField} {a s : State} {off v : Nat} (h : Keeps w a s)
    (hw : within [.regs, .dmcs, .srcs, .doms, .bdrk] w = true) :
    Keeps w a (writePwr s off v) := by
  unfold writePwr
  repeat' first
    | with_reducible
        first
        | assumption | apply Answers.next | apply Answers.fault | apply Keeps.ite | apply Answers.ite
        | refine Keeps.foldl ?_ fun _ _ _ => ?_ | refine fset_keeps ?_ ?_ | refine setIrq_keeps ?_ ?_
        | refine powerDown_keeps ?_ ?_ | refine powerUp_keeps ?_ ?_ | refine domCmd_keeps ?_ ?_ fun _ _ => ?_
        | refine writeRows_keeps ?_ ?_ | refine writeIf_keeps ?_ ?_
    | exact within_trans rfl hw
    | dsimp only
    | split
    | intro _

theorem writeIrq0_keeps {w : List StateField} {a s : State} {off v : Nat} (h : Keeps w a s)
    (hw : within [.regs, .srcs] w = true) :
    Keeps w a (writeIrq0 s off v) := by
  unfold writeIrq0
  repeat' first
    | with_reducible
        first
        | assumption | apply Answers.next | apply Answers.fault | apply Keeps.ite | apply Answers.ite
        | refine Keeps.foldl ?_ fun _ _ _ => ?_ | refine execPendWithdraw_keeps ?_ ?_ | refine execSwiTrig_keeps ?_ ?_
        | refine writeRows_keeps ?_ ?_ | refine ran_keeps ?_ ?_
    | exact within_trans rfl hw
    | dsimp only
    | split
    | intro _

theorem writeIrqSrc_keeps {w : List StateField} {a s : State} {page off v : Nat} (h : Keeps w a s)
    (hw : within [.regs] w = true) :
    Keeps w a (writeIrqSrc s page off v) := by
  unfold writeIrqSrc
  repeat' first
    | with_reducible
        first
        | assumption | apply Answers.next | apply Answers.fault | apply Keeps.ite | apply Answers.ite
        | refine Keeps.foldl ?_ fun _ _ _ => ?_ | refine writeRows_keeps ?_ ?_
    | exact within_trans rfl hw
    | dsimp only
    | split
    | intro _

theorem writeTgtStat_keeps {w : List StateField} {a s : State} {t v : Nat} (h : Keeps w a s)
    (hw : within [.tgts] w = true) :
    Keeps w a (writeTgtStat s t v) := by
  unfold writeTgtStat
  repeat' first
    | with_reducible
        first
        | assumption | apply Answers.next | apply Answers.fault | apply Keeps.ite | apply Answers.ite
        | refine Keeps.foldl ?_ fun _ _ _ => ?_ | refine modTgt_keeps ?_ ?_
    | exact within_trans rfl hw
    | dsimp only
    | split
    | intro _

theorem writeClaim_keeps {w : List StateField} {a s : State} {t v : Nat} (h : Keeps w a s)
    (hw : within [.tgts] w = true) :
    Keeps w a (writeClaim s t v) := by
  unfold writeClaim
  repeat' first
    | with_reducible
        first
        | assumption | apply Answers.next | apply Answers.fault | apply Keeps.ite | apply Answers.ite
        | refine Keeps.foldl ?_ fun _ _ _ => ?_ | refine modTgt_keeps ?_ ?_
    | exact within_trans rfl hw
    | dsimp only
    | split
    | intro _

theorem writeIrqTgt_keeps {w : List StateField} {a s : State} {page off v : Nat} (h : Keeps w a s)
    (hw : within [.regs, .srcs, .tgts] w = true) :
    Keeps w a (writeIrqTgt s page off v) := by
  unfold writeIrqTgt
  repeat' first
    | with_reducible
        first
        | assumption | apply Answers.next | apply Answers.fault | apply Keeps.ite | apply Answers.ite
        | refine Keeps.foldl ?_ fun _ _ _ => ?_ | refine writeEoi_keeps ?_ ?_ | refine writeTgtStat_keeps ?_ ?_
        | refine writeClaim_keeps ?_ ?_
    | exact within_trans rfl hw
    | dsimp only
    | split
    | intro _

theorem writePerf0_keeps {w : List StateField} {a s : State} {off v : Nat} (h : Keeps w a s)
    (hw : within [.regs, .perf] w = true) :
    Keeps w a (writePerf0 s off v) := by
  unfold writePerf0
  extract_lets on s1 s2 s3
  split
  · have k1 : Keeps w a s1 := .ite (ran_keeps h (execPerfClear_keeps h (within_trans rfl hw))) h
    have k2 : Keeps w a s2 := .ite k1 (fset_keeps k1 (within_trans rfl hw))
    have k3 : Keeps w a s3 := fset_keeps k2 (within_trans rfl hw)
    clear_value s3
    exact .ite (keeps_mk k3 (.inl rfl) (.inl rfl) (.inl rfl) (.inl rfl) (.inl rfl) (.inl rfl) (.inl rfl) (.inl rfl) (.inl rfl) (.inl rfl) (.inl rfl) (.inl rfl) (.inl rfl) (.inl rfl) (.inl rfl) (.inl rfl) (.inl rfl) (.inl rfl) (.inl rfl) (.inl rfl) (.inl rfl) (.inl rfl) (.inl rfl) (.inl rfl) (.inl rfl) (.inl rfl) (.inl rfl) (.inl rfl) (.inr (within_trans rfl hw)) (.inl rfl) (.inl rfl)) k3
  · exact writeIf_keeps h (within_trans rfl hw)
  · exact writeIf_keeps h (within_trans rfl hw)
  · exact writeIf_keeps h (within_trans rfl hw)
  · exact writeIf_keeps h (within_trans rfl hw)
  · exact writeRows_keeps h (within_trans rfl hw)

theorem startTags_keeps {w : List StateField} {a s : State} (h : Keeps w a s)
    (hw : within [.free, .engines] w = true) :
    Keeps w a (startTags s) := by
  unfold startTags
  repeat' first
    | with_reducible
        first
        | assumption | apply Answers.next | apply Answers.fault | apply Keeps.ite | apply Answers.ite
        | refine Keeps.foldl ?_ fun _ _ _ => ?_ | refine modEng_keeps ?_ ?_ | refine drawTag_keeps ?_ ?_
    | exact within_trans rfl hw
    | dsimp only
    | split
    | intro _

theorem writePerf1_keeps {w : List StateField} {a s : State} {off v : Nat} (h : Keeps w a s)
    (hw : within [.free, .regs, .engines] w = true) :
    Keeps w a (writePerf1 s off v) := by
  unfold writePerf1
  repeat' first
    | with_reducible
        first
        | assumption | apply Answers.next | apply Answers.fault | apply Keeps.ite | apply Answers.ite
        | refine Keeps.foldl ?_ fun _ _ _ => ?_ | refine fset_keeps ?_ ?_ | refine writeRows_keeps ?_ ?_
        | refine writeIf_keeps ?_ ?_ | refine startTags_keeps ?_ ?_
    | exact within_trans rfl hw
    | dsimp only
    | split
    | intro _

theorem writeDmaCh_keeps {w : List StateField} {a s : State} {page off v : Nat} (h : Keeps w a s)
    (hw : within [.regs, .chans, .doms] w = true) :
    Keeps w a (writeDmaCh s page off v) := by
  unfold writeDmaCh
  repeat' first
    | with_reducible
        first
        | assumption | apply Answers.next | apply Answers.fault | apply Keeps.ite | apply Answers.ite
        | refine Keeps.foldl ?_ fun _ _ _ => ?_ | refine chSet_keeps ?_ ?_ | refine writeChCmd_keeps ?_ ?_
        | refine writeRows_keeps ?_ ?_
    | exact within_trans rfl hw
    | dsimp only
    | split
    | intro _

theorem writeTalus_keeps {w : List StateField} {a s : State} {off v : Nat} (h : Keeps w a s)
    (hw : within [.free, .regs, .staged, .latched, .mem, .poison, .rings, .ctxs, .engines, .banks, .disp, .talus, .dmcs, .chans, .srcs, .tgts, .holdoff, .funcs, .doms, .chip, .flows, .svcs, .ptp, .queues, .snodes, .pnodes, .store, .dgCount, .bdrk, .perf, .pins] w = true) :
    Keeps w a (writeTalus s off v) := by
  unfold writeTalus
  repeat' first
    | with_reducible
        first
        | assumption | apply Answers.next | apply Answers.fault | apply Keeps.ite | apply Answers.ite
        | refine Keeps.foldl ?_ fun _ _ _ => ?_ | refine execPoolEnable_keeps ?_ ?_
        | refine execPoolDisable_keeps ?_ ?_ | refine ran_keeps ?_ ?_
    | exact within_trans rfl hw
    | dsimp only
    | split
    | intro _

theorem writeDmc_keeps {w : List StateField} {a s : State} {page off v : Nat} (h : Keeps w a s)
    (hw : within [.regs, .mem, .poison, .dmcs, .srcs, .doms] w = true) :
    Keeps w a (writeDmc s page off v) := by
  unfold writeDmc
  repeat' first
    | with_reducible
        first
        | assumption | apply Answers.next | apply Answers.fault | apply Keeps.ite | apply Answers.ite
        | refine Keeps.foldl ?_ fun _ _ _ => ?_ | refine fset_keeps ?_ ?_ | refine execRegionEnable_keeps ?_ ?_
        | refine execRegionDisable_keeps ?_ ?_ | refine writeRows_keeps ?_ ?_ | refine ran_keeps ?_ ?_
        | refine writeIf_keeps ?_ ?_ | refine writeKeeping_keeps ?_ ?_
    | exact within_trans rfl hw
    | dsimp only
    | split
    | intro _

theorem writeDtrn_keeps {w : List StateField} {a s : State} {page off v : Nat} (h : Keeps w a s)
    (hw : within [.regs] w = true) :
    Keeps w a (writeDtrn s page off v) := by
  unfold writeDtrn
  repeat' first
    | with_reducible
        first
        | assumption | apply Answers.next | apply Answers.fault | apply Keeps.ite | apply Answers.ite
        | refine Keeps.foldl ?_ fun _ _ _ => ?_ | refine rset_keeps ?_ ?_ | refine execTrainingRun_keeps ?_ ?_
        | refine writeRows_keeps ?_ ?_ | refine ran_keeps ?_ ?_
    | exact within_trans rfl hw
    | dsimp only
    | split
    | intro _

theorem writeEngine_keeps {w : List StateField} {a s : State} {page off v : Nat} (h : Keeps w a s)
    (hw : within [.regs, .engines, .disp, .dmcs, .srcs, .doms, .bdrk] w = true) :
    Keeps w a (writeEngine s page off v) := by
  unfold writeEngine
  repeat' first
    | with_reducible
        first
        | assumption | apply Answers.next | apply Answers.fault | apply Keeps.ite | apply Answers.ite
        | refine Keeps.foldl ?_ fun _ _ _ => ?_ | refine execSelftestStart_keeps ?_ ?_
        | refine execEngineRetire_keeps ?_ ?_ | refine execEngineAdmit_keeps ?_ ?_ | refine writeRows_keeps ?_ ?_
        | refine ran_keeps ?_ ?_ | refine writeIf_keeps ?_ ?_
    | exact within_trans rfl hw
    | dsimp only
    | split
    | intro _

theorem writeMica_keeps {w : List StateField} {a s : State} {page off v : Nat} (h : Keeps w a s)
    (hw : within [.free, .regs, .staged, .latched, .mem, .poison, .rings, .ctxs, .engines, .banks, .disp, .talus, .dmcs, .chans, .srcs, .tgts, .holdoff, .funcs, .doms, .chip, .flows, .svcs, .ptp, .queues, .snodes, .pnodes, .store, .dgCount, .bdrk, .perf, .pins] w = true) :
    Keeps w a (writeMica s page off v) := by
  unfold writeMica
  repeat' first
    | with_reducible
        first
        | assumption | apply Answers.next | apply Answers.fault | apply Keeps.ite | apply Answers.ite
        | refine Keeps.foldl ?_ fun _ _ _ => ?_ | refine execCalReq_keeps ?_ ?_ | refine execMicaRetire_keeps ?_ ?_
        | refine execMicaAdmit_keeps ?_ ?_ | refine execTileMaskWrite_keeps ?_ ?_
        | refine execMinTilesWrite_keeps ?_ ?_ | refine writeRows_keeps ?_ ?_ | refine ran_keeps ?_ ?_
        | refine writeIf_keeps ?_ ?_
    | exact within_trans rfl hw
    | dsimp only
    | split
    | intro _

theorem writeEth_keeps {w : List StateField} {a s : State} {page off v : Nat} (h : Keeps w a s)
    (hw : within [.free, .regs, .staged, .latched, .mem, .poison, .rings, .ctxs, .engines, .banks, .disp, .talus, .dmcs, .chans, .srcs, .tgts, .holdoff, .funcs, .doms, .chip, .flows, .svcs, .ptp, .queues, .snodes, .pnodes, .store, .dgCount, .bdrk, .perf, .pins] w = true) :
    Keeps w a (writeEth s page off v) := by
  unfold writeEth
  extract_lets p s1
  split
  · refine .ite (ran_keeps h (execPortEnable_keeps (keeps_mk h (.inr (within_trans rfl hw)) (.inl rfl) (.inl rfl) (.inl rfl) (.inl rfl) (.inl rfl) (.inl rfl) (.inl rfl) (.inl rfl) (.inl rfl) (.inl rfl) (.inl rfl) (.inl rfl) (.inl rfl) (.inl rfl) (.inl rfl) (.inl rfl) (.inl rfl) (.inl rfl) (.inl rfl) (.inl rfl) (.inl rfl) (.inl rfl) (.inl rfl) (.inl rfl) (.inl rfl) (.inl rfl) (.inl rfl) (.inl rfl) (.inl rfl) (.inl rfl)) (within_trans rfl hw))) ?_
    have k : Keeps w a s1 := writeEthCtl_keeps h (within_trans rfl hw)
    clear_value s1
    exact .ite (disablePort_keeps k (within_trans rfl hw)) k
  · exact writeIf_keeps h (within_trans rfl hw)
  · exact writeRows_keeps h (within_trans rfl hw)

theorem writePkt_keeps {w : List StateField} {a s : State} {page off v : Nat} (h : Keeps w a s)
    (hw : within [.regs, .mem, .rings, .ctxs, .talus, .srcs, .flows, .svcs, .perf, .out] w = true) :
    Keeps w a (writePkt s page off v) := by
  unfold writePkt
  repeat' first
    | with_reducible
        first
        | assumption | apply Answers.next | apply Answers.fault | apply Keeps.ite | apply Answers.ite
        | refine Keeps.foldl ?_ fun _ _ _ => ?_ | refine execNetModeWrite_keeps ?_ ?_
        | refine execFlowRead_keeps ?_ ?_ | refine execFlowWrite_keeps ?_ ?_ | refine execFlowEnable_keeps ?_ ?_
        | refine execFlowDisable_keeps ?_ ?_ | refine execServiceRead_keeps ?_ ?_
        | refine execServiceWrite_keeps ?_ ?_ | refine execServiceEnable_keeps ?_ ?_
        | refine execServiceDisable_keeps ?_ ?_ | refine writeRows_keeps ?_ ?_ | refine ran_keeps ?_ ?_
    | exact within_trans rfl hw
    | dsimp only
    | split
    | intro _

theorem writeShale0_keeps {w : List StateField} {a s : State} {off v : Nat} (h : Keeps w a s)
    (hw : within [.regs, .queues, .snodes, .store] w = true) :
    Keeps w a (writeShale0 s off v) := by
  unfold writeShale0
  repeat' first
    | with_reducible
        first
        | assumption | apply Answers.next | apply Answers.fault | apply Keeps.ite | apply Answers.ite
        | refine Keeps.foldl ?_ fun _ _ _ => ?_ | refine execWinRead_keeps ?_ ?_ | refine execWinWrite_keeps ?_ ?_
        | refine execQueueEnable_keeps ?_ ?_ | refine execQueueDisable_keeps ?_ ?_ | refine execQueueAlloc_keeps ?_ ?_
        | refine execQueueFree_keeps ?_ ?_ | refine writeRows_keeps ?_ ?_ | refine ran_keeps ?_ ?_
        | refine writeIf_keeps ?_ ?_
    | exact within_trans rfl hw
    | dsimp only
    | split
    | intro _

theorem writeShaleP_keeps {w : List StateField} {a s : State} {page off v : Nat} (h : Keeps w a s)
    (hw : within [.free, .regs, .staged, .latched, .mem, .poison, .rings, .ctxs, .engines, .banks, .disp, .talus, .dmcs, .chans, .srcs, .tgts, .holdoff, .funcs, .doms, .chip, .flows, .svcs, .ptp, .queues, .snodes, .pnodes, .store, .dgCount, .bdrk, .perf, .pins] w = true) :
    Keeps w a (writeShaleP s page off v) := by
  unfold writeShaleP
  repeat' first
    | with_reducible
        first
        | assumption | apply Answers.next | apply Answers.fault | apply Keeps.ite | apply Answers.ite
        | refine Keeps.foldl ?_ fun _ _ _ => ?_ | refine modPnode_keeps ?_ ?_ | refine syncGate_keeps ?_ ?_
        | refine writeShaper_keeps ?_ ?_ | refine gateErr_keeps ?_ ?_ | refine execGateCommit_keeps ?_ ?_
        | refine execGateCancel_keeps ?_ ?_ | refine writeRows_keeps ?_ ?_ | refine ran_keeps ?_ ?_
        | refine writeKeeping_keeps ?_ ?_
    | exact within_trans rfl hw
    | dsimp only
    | split
    | intro _

theorem writeFn_keeps {w : List StateField} {a s : State} {fn off v : Nat} (h : Keeps w a s)
    (hw : within [.free, .regs, .staged, .latched, .mem, .poison, .rings, .ctxs, .engines, .banks, .disp, .talus, .dmcs, .chans, .srcs, .tgts, .holdoff, .funcs, .doms, .chip, .flows, .svcs, .ptp, .queues, .snodes, .pnodes, .store, .dgCount, .bdrk, .perf, .pins, .out] w = true) :
    Keeps w a (writeFn s fn off v) := by
  unfold writeFn
  repeat' first
    | with_reducible
        first
        | assumption | apply Answers.next | apply Answers.fault | apply Keeps.ite | apply Answers.ite
        | refine Keeps.foldl ?_ fun _ _ _ => ?_ | refine syncSrc_keeps ?_ ?_ | refine writeEoi_keeps ?_ ?_
        | refine unmask_keeps ?_ ?_ | refine execSqDoorbell_keeps ?_ ?_ | refine execCqDoorbell_keeps ?_ ?_
        | refine writeRingCtl_keeps ?_ ?_ | refine execTalusFree_keeps ?_ ?_ | refine writeRows_keeps ?_ ?_
        | refine ran_keeps ?_ ?_ | refine writeTgtStat_keeps ?_ ?_ | refine writeClaim_keeps ?_ ?_
    | exact within_trans rfl hw
    | dsimp only
    | split
    | intro _

theorem writeMsix_keeps {w : List StateField} {a s : State} {page off v : Nat} (h : Keeps w a s)
    (hw : within [.regs, .funcs, .out] w = true) :
    Keeps w a (writeMsix s page off v) := by
  unfold writeMsix
  repeat' first
    | with_reducible
        first
        | assumption | apply Answers.next | apply Answers.fault | apply Keeps.ite | apply Answers.ite
        | refine Keeps.foldl ?_ fun _ _ _ => ?_ | refine unmask_keeps ?_ ?_ | refine writeRows_keeps ?_ ?_
    | exact within_trans rfl hw
    | dsimp only
    | split
    | intro _

theorem writeCtx_keeps {w : List StateField} {a s : State} {page off v : Nat} (h : Keeps w a s)
    (hw : within [.regs] w = true) :
    Keeps w a (writeCtx s page off v) := by
  unfold writeCtx
  repeat' first
    | with_reducible
        first
        | assumption | apply Answers.next | apply Answers.fault | apply Keeps.ite | apply Answers.ite
        | refine Keeps.foldl ?_ fun _ _ _ => ?_ | refine writeRows_keeps ?_ ?_ | refine writeKeeping_keeps ?_ ?_
    | exact within_trans rfl hw
    | dsimp only
    | split
    | intro _

theorem writeOwn_keeps {w : List StateField} {a s : State} {page off v : Nat} (h : Keeps w a s)
    (hw : within [.free, .regs, .staged, .latched, .mem, .poison, .rings, .ctxs, .engines, .banks, .disp, .talus, .dmcs, .chans, .srcs, .tgts, .holdoff, .funcs, .doms, .chip, .flows, .svcs, .ptp, .queues, .snodes, .pnodes, .store, .dgCount, .bdrk, .perf, .pins, .out] w = true) :
    Keeps w a (writeOwn s page off v) := by
  unfold writeOwn
  repeat' first
    | with_reducible
        first
        | assumption | apply Answers.next | apply Answers.fault | apply Keeps.ite | apply Answers.ite
        | refine Keeps.foldl ?_ fun _ _ _ => ?_ | refine execChOwnerWrite_keeps ?_ ?_
        | refine execEngFreqWrite_keeps ?_ ?_ | refine writeRows_keeps ?_ ?_ | refine ran_keeps ?_ ?_
        | refine writeIf_keeps ?_ ?_ | refine writeChip_keeps ?_ ?_ | refine mailboxGo_keeps ?_ ?_
        | refine writePwr_keeps ?_ ?_ | refine writeIrq0_keeps ?_ ?_ | refine writeIrqSrc_keeps ?_ ?_
        | refine writeIrqTgt_keeps ?_ ?_ | refine writePerf0_keeps ?_ ?_ | refine writePerf1_keeps ?_ ?_
        | refine writeDmaCh_keeps ?_ ?_ | refine writeTalus_keeps ?_ ?_ | refine writeDmc_keeps ?_ ?_
        | refine writeDtrn_keeps ?_ ?_ | refine writeEngine_keeps ?_ ?_ | refine writeMica_keeps ?_ ?_
        | refine writeEth_keeps ?_ ?_ | refine writePkt_keeps ?_ ?_ | refine writeShale0_keeps ?_ ?_
        | refine writeShaleP_keeps ?_ ?_ | refine writeFn_keeps ?_ ?_ | refine writeMsix_keeps ?_ ?_
        | refine writeCtx_keeps ?_ ?_
    | exact within_trans rfl hw
    | dsimp only
    | split
    | intro _

set_option maxRecDepth 4000 in
theorem quantHeld_keeps {w : List StateField} {a s t : State} {page off : Nat}
    (e : quantHeld s page off = some t) (h : Keeps w a s) (hw : within [.regs, .srcs] w = true) : Keeps w a t := by
  unfold quantHeld at e
  split at e
  all_goals (try dsimp only at e)
  all_goals (try split at e)
  all_goals first
    | (cases e; done)
    | (cases e; assumption)
    | (cases e; exact gateErr_keeps h (within_trans rfl hw))
    | (cases e; exact chSet_keeps h (within_trans rfl hw))
    | (cases e; exact rfieldSet_keeps h (within_trans rfl hw))
    | (split at e <;> first | (cases e; done) | (cases e; exact rfieldSet_keeps h (within_trans rfl hw)))

theorem stageWord_keeps {w : List StateField} {a s : State} {fn page off v : Nat} (h : Keeps w a s)
    (hw : within [.staged] w = true) :
    Keeps w a (stageWord s fn page off v) := by
  unfold stageWord
  repeat' first
    | with_reducible
        first
        | assumption | apply Answers.next | apply Answers.fault | apply Keeps.ite | apply Answers.ite
        | refine Keeps.foldl ?_ fun _ _ _ => ?_
    | exact within_trans rfl hw
    | with_reducible refine keeps_mk ?_ ?_ ?_ ?_ ?_ ?_ ?_ ?_ ?_ ?_ ?_ ?_ ?_ ?_ ?_ ?_ ?_ ?_ ?_ ?_ ?_ ?_ ?_ ?_ ?_ ?_ ?_ ?_ ?_ ?_ ?_ ?_
    | with_reducible exact Or.inl rfl
    | exact Or.inr (within_trans rfl hw)
    | dsimp only
    | split
    | intro _

theorem commitQuant_keeps {w : List StateField} {a s : State} {fn page lo words v : Nat} (h : Keeps w a s)
    (hw : within [.regs, .staged] w = true) :
    Keeps w a (commitQuant s fn page lo words v) := by
  unfold commitQuant
  repeat' first
    | with_reducible
        first
        | assumption | apply Answers.next | apply Answers.fault | apply Keeps.ite | apply Answers.ite
        | refine Keeps.foldl ?_ fun _ _ _ => ?_ | refine writeRows_keeps ?_ ?_
    | exact within_trans rfl hw
    | with_reducible refine keeps_mk ?_ ?_ ?_ ?_ ?_ ?_ ?_ ?_ ?_ ?_ ?_ ?_ ?_ ?_ ?_ ?_ ?_ ?_ ?_ ?_ ?_ ?_ ?_ ?_ ?_ ?_ ?_ ?_ ?_ ?_ ?_ ?_
    | with_reducible exact Or.inl rfl
    | exact Or.inr (within_trans rfl hw)
    | dsimp only
    | split
    | intro _

theorem writeQuant_keeps {w : List StateField} {a s : State} {fn page off lo words v : Nat} (h : Keeps w a s)
    (hw : within [.regs, .staged, .srcs] w = true) :
    Keeps w a (writeQuant s fn page off lo words v) := by
  unfold writeQuant
  repeat' first
    | with_reducible
        first
        | assumption | apply Answers.next | apply Answers.fault | apply Keeps.ite | apply Answers.ite
        | refine Keeps.foldl ?_ fun _ _ _ => ?_ | refine quantHeld_keeps ‹_› ?_ ?_ | refine stageWord_keeps ?_ ?_
        | refine commitQuant_keeps ?_ ?_
    | exact within_trans rfl hw
    | dsimp only
    | split
    | intro _

theorem performWrite_keeps {w : List StateField} {a s : State} {fn page off v : Nat} (h : Keeps w a s)
    (hw : within [.free, .regs, .staged, .latched, .mem, .poison, .rings, .ctxs, .engines, .banks, .disp, .talus, .dmcs, .chans, .srcs, .tgts, .holdoff, .funcs, .doms, .chip, .flows, .svcs, .ptp, .queues, .snodes, .pnodes, .store, .dgCount, .bdrk, .perf, .pins, .out] w = true) :
    Keeps w a (performWrite s fn page off v) := by
  unfold performWrite
  repeat' first
    | with_reducible
        first
        | assumption | apply Answers.next | apply Answers.fault | apply Keeps.ite | apply Answers.ite
        | refine Keeps.foldl ?_ fun _ _ _ => ?_ | refine setIrq_keeps ?_ ?_ | refine writeKey_keeps ?_ ?_
        | refine writeHeader_keeps ?_ ?_ | refine writeOwn_keeps ?_ ?_ | refine writeQuant_keeps ?_ ?_
    | exact within_trans rfl hw
    | dsimp only
    | split
    | intro _

theorem parkAccess_keeps {w : List StateField} {a s : State} {d : Nat} {a' : PageAccess} (h : Keeps w a s)
    (hw : within [.doms] w = true) :
    Keeps w a (parkAccess s d a') := by
  unfold parkAccess
  repeat' first
    | with_reducible
        first
        | assumption | apply Answers.next | apply Answers.fault | apply Keeps.ite | apply Answers.ite
        | refine Keeps.foldl ?_ fun _ _ _ => ?_ | refine modDom_keeps ?_ ?_ | refine requestWake_keeps ?_ ?_
    | exact within_trans rfl hw
    | dsimp only
    | split
    | intro _

theorem noteAccess_keeps {w : List StateField} {a s : State} {page : Nat} (h : Keeps w a s)
    (hw : within [.doms] w = true) :
    Keeps w a (noteAccess s page) := by
  unfold noteAccess
  repeat' first
    | with_reducible
        first
        | assumption | apply Answers.next | apply Answers.fault | apply Keeps.ite | apply Answers.ite
        | refine Keeps.foldl ?_ fun _ _ _ => ?_ | refine modDom_keeps ?_ ?_
    | exact within_trans rfl hw
    | dsimp only
    | split
    | intro _

theorem writeVia_keeps {w : List StateField} {a s : State} {fn page off v : Nat} (h : Keeps w a s)
    (hw : within [.free, .regs, .staged, .latched, .mem, .poison, .rings, .ctxs, .engines, .banks, .disp, .talus, .dmcs, .chans, .srcs, .tgts, .holdoff, .funcs, .doms, .chip, .flows, .svcs, .ptp, .queues, .snodes, .pnodes, .store, .dgCount, .bdrk, .perf, .pins, .out] w = true) :
    Keeps w a (writeVia s fn page off v) := by
  unfold writeVia
  repeat' first
    | with_reducible
        first
        | assumption | apply Answers.next | apply Answers.fault | apply Keeps.ite | apply Answers.ite
        | refine Keeps.foldl ?_ fun _ _ _ => ?_ | refine performWrite_keeps ?_ ?_ | refine parkAccess_keeps ?_ ?_
        | refine noteAccess_keeps ?_ ?_
    | exact within_trans rfl hw
    | dsimp only
    | split
    | intro _

theorem readVia_keeps {w : List StateField} {a s : State} {fn page off size bump : Nat} (h : Keeps w a s)
    (hw : within [.free, .regs, .staged, .latched, .mem, .poison, .rings, .ctxs, .engines, .banks, .disp, .talus, .dmcs, .chans, .srcs, .tgts, .holdoff, .funcs, .doms, .chip, .flows, .svcs, .ptp, .queues, .snodes, .pnodes, .store, .dgCount, .bdrk, .perf, .pins, .out] w = true) :
    Keeps w a (readVia s fn page off size bump) := by
  unfold readVia
  repeat' first
    | with_reducible
        first
        | assumption | apply Answers.next | apply Answers.fault | apply Keeps.ite | apply Answers.ite
        | refine Keeps.foldl ?_ fun _ _ _ => ?_ | refine emit_keeps ?_ ?_ | refine readReg_keeps ?_ ?_
        | refine parkAccess_keeps ?_ ?_ | refine noteAccess_keeps ?_ ?_
    | exact within_trans rfl hw
    | dsimp only
    | split
    | intro _

theorem readSized_keeps {w : List StateField} {a s : State} {fn page off size bump : Nat} (h : Keeps w a s)
    (hw : within [.free, .regs, .staged, .latched, .mem, .poison, .rings, .ctxs, .engines, .banks, .disp, .talus, .dmcs, .chans, .srcs, .tgts, .holdoff, .funcs, .doms, .chip, .flows, .svcs, .ptp, .queues, .snodes, .pnodes, .store, .dgCount, .bdrk, .perf, .pins, .out] w = true) :
    Keeps w a (readSized s fn page off size bump) := by
  unfold readSized
  repeat' first
    | with_reducible
        first
        | assumption | apply Answers.next | apply Answers.fault | apply Keeps.ite | apply Answers.ite
        | refine Keeps.foldl ?_ fun _ _ _ => ?_ | refine readVia_keeps ?_ ?_
    | exact within_trans rfl hw
    | dsimp only
    | split
    | intro _

theorem serveAccesses_keeps {w : List StateField} {a s : State} {d : Nat} (h : Keeps w a s)
    (hw : within [.free, .regs, .staged, .latched, .mem, .poison, .rings, .ctxs, .engines, .banks, .disp, .talus, .dmcs, .chans, .srcs, .tgts, .holdoff, .funcs, .doms, .chip, .flows, .svcs, .ptp, .queues, .snodes, .pnodes, .store, .dgCount, .bdrk, .perf, .pins, .out] w = true) :
    Keeps w a (serveAccesses s d) := by
  unfold serveAccesses
  repeat' first
    | with_reducible
        first
        | assumption | apply Answers.next | apply Answers.fault | apply Keeps.ite | apply Answers.ite
        | refine Keeps.foldl ?_ fun _ _ _ => ?_ | refine modDom_keeps ?_ ?_ | refine writeVia_keeps ?_ ?_
        | refine readVia_keeps ?_ ?_
    | exact within_trans rfl hw
    | dsimp only
    | split
    | intro _

theorem execRegisterWrite_keeps {w : List StateField} {a s : State} {fn : Fin 65} {page off size : Nat} {val : BitVec 64} (h : Keeps w a s)
    (hw : within [.free, .regs, .staged, .latched, .mem, .poison, .rings, .ctxs, .engines, .banks, .disp, .talus, .dmcs, .chans, .srcs, .tgts, .holdoff, .funcs, .doms, .chip, .flows, .svcs, .ptp, .queues, .snodes, .pnodes, .store, .dgCount, .bdrk, .perf, .pins, .out] w = true) :
    Answers w a (execRegisterWrite fn page off size val s) := by
  unfold execRegisterWrite
  repeat' first
    | with_reducible
        first
        | assumption | apply Answers.next | apply Answers.fault | apply Keeps.ite | apply Answers.ite
        | refine Keeps.foldl ?_ fun _ _ _ => ?_ | refine writeVia_keeps ?_ ?_
    | exact within_trans rfl hw
    | dsimp only
    | split
    | intro _

theorem execExpertKeyWrite_keeps {w : List StateField} {a s : State} {fn : Fin 65} {page : Nat} {val : Word} (h : Keeps w a s)
    (hw : within [.free, .regs, .staged, .latched, .mem, .poison, .rings, .ctxs, .engines, .banks, .disp, .talus, .dmcs, .chans, .srcs, .tgts, .holdoff, .funcs, .doms, .chip, .flows, .svcs, .ptp, .queues, .snodes, .pnodes, .store, .dgCount, .bdrk, .perf, .pins, .out] w = true) :
    Answers w a (execExpertKeyWrite fn page val s) := by
  unfold execExpertKeyWrite
  repeat' first
    | with_reducible
        first
        | assumption | apply Answers.next | apply Answers.fault | apply Keeps.ite | apply Answers.ite
        | refine Keeps.foldl ?_ fun _ _ _ => ?_ | refine writeVia_keeps ?_ ?_
    | exact within_trans rfl hw
    | dsimp only
    | split
    | intro _

theorem execRcFieldRead_keeps {w : List StateField} {a s : State} {fn : Fin 65} {page off size : Nat} {bump : Word} (h : Keeps w a s)
    (hw : within [.free, .regs, .staged, .latched, .mem, .poison, .rings, .ctxs, .engines, .banks, .disp, .talus, .dmcs, .chans, .srcs, .tgts, .holdoff, .funcs, .doms, .chip, .flows, .svcs, .ptp, .queues, .snodes, .pnodes, .store, .dgCount, .bdrk, .perf, .pins, .out] w = true) :
    Answers w a (execRcFieldRead fn page off size bump s) := by
  unfold execRcFieldRead
  repeat' first
    | with_reducible
        first
        | assumption | apply Answers.next | apply Answers.fault | apply Keeps.ite | apply Answers.ite
        | refine Keeps.foldl ?_ fun _ _ _ => ?_ | refine readSized_keeps ?_ ?_
    | exact within_trans rfl hw
    | dsimp only
    | split
    | intro _

theorem execQuantityLowWordRead_keeps {w : List StateField} {a s : State} {fn : Fin 65} {page off size : Nat} (h : Keeps w a s)
    (hw : within [.free, .regs, .staged, .latched, .mem, .poison, .rings, .ctxs, .engines, .banks, .disp, .talus, .dmcs, .chans, .srcs, .tgts, .holdoff, .funcs, .doms, .chip, .flows, .svcs, .ptp, .queues, .snodes, .pnodes, .store, .dgCount, .bdrk, .perf, .pins, .out] w = true) :
    Answers w a (execQuantityLowWordRead fn page off size s) := by
  unfold execQuantityLowWordRead
  repeat' first
    | with_reducible
        first
        | assumption | apply Answers.next | apply Answers.fault | apply Keeps.ite | apply Answers.ite
        | refine Keeps.foldl ?_ fun _ _ _ => ?_ | refine readSized_keeps ?_ ?_
    | exact within_trans rfl hw
    | dsimp only
    | split
    | intro _

theorem execQuantityLowerWordWrite_keeps {w : List StateField} {a s : State} {fn : Fin 65} {page off : Nat} {val : Word} (h : Keeps w a s)
    (hw : within [.free, .regs, .staged, .latched, .mem, .poison, .rings, .ctxs, .engines, .banks, .disp, .talus, .dmcs, .chans, .srcs, .tgts, .holdoff, .funcs, .doms, .chip, .flows, .svcs, .ptp, .queues, .snodes, .pnodes, .store, .dgCount, .bdrk, .perf, .pins, .out] w = true) :
    Answers w a (execQuantityLowerWordWrite fn page off val s) := by
  unfold execQuantityLowerWordWrite
  repeat' first
    | with_reducible
        first
        | assumption | apply Answers.next | apply Answers.fault | apply Keeps.ite | apply Answers.ite
        | refine Keeps.foldl ?_ fun _ _ _ => ?_ | refine writeVia_keeps ?_ ?_
    | exact within_trans rfl hw
    | dsimp only
    | split
    | intro _

theorem execQuantityHighestWordWrite_keeps {w : List StateField} {a s : State} {fn : Fin 65} {page off : Nat} {val : Word} (h : Keeps w a s)
    (hw : within [.free, .regs, .staged, .latched, .mem, .poison, .rings, .ctxs, .engines, .banks, .disp, .talus, .dmcs, .chans, .srcs, .tgts, .holdoff, .funcs, .doms, .chip, .flows, .svcs, .ptp, .queues, .snodes, .pnodes, .store, .dgCount, .bdrk, .perf, .pins, .out] w = true) :
    Answers w a (execQuantityHighestWordWrite fn page off val s) := by
  unfold execQuantityHighestWordWrite
  repeat' first
    | with_reducible
        first
        | assumption | apply Answers.next | apply Answers.fault | apply Keeps.ite | apply Answers.ite
        | refine Keeps.foldl ?_ fun _ _ _ => ?_ | refine writeVia_keeps ?_ ?_
    | exact within_trans rfl hw
    | dsimp only
    | split
    | intro _

theorem execPpLayerBaseWrite_keeps {w : List StateField} {a s : State} {fn : Fin 65} {page : Nat} {val : Word} (h : Keeps w a s)
    (hw : within [.free, .regs, .staged, .latched, .mem, .poison, .rings, .ctxs, .engines, .banks, .disp, .talus, .dmcs, .chans, .srcs, .tgts, .holdoff, .funcs, .doms, .chip, .flows, .svcs, .ptp, .queues, .snodes, .pnodes, .store, .dgCount, .bdrk, .perf, .pins, .out] w = true) :
    Answers w a (execPpLayerBaseWrite fn page val s) := by
  unfold execPpLayerBaseWrite
  repeat' first
    | with_reducible
        first
        | assumption | apply Answers.next | apply Answers.fault | apply Keeps.ite | apply Answers.ite
        | refine Keeps.foldl ?_ fun _ _ _ => ?_ | refine writeVia_keeps ?_ ?_
    | exact within_trans rfl hw
    | dsimp only
    | split
    | intro _

theorem execGpioInputChange_keeps {w : List StateField} {a s : State} {i : Fin 16} {level : Bool} (h : Keeps w a s)
    (hw : within [.regs, .srcs, .pins] w = true) :
    Answers w a (execGpioInputChange i level s) := by
  unfold execGpioInputChange
  repeat' first
    | with_reducible
        first
        | assumption | apply Answers.next | apply Answers.fault | apply Keeps.ite | apply Answers.ite
        | refine Keeps.foldl ?_ fun _ _ _ => ?_ | refine gpioChange_keeps ?_ ?_ fun _ _ => ?_
    | exact within_trans rfl hw
    | with_reducible refine keeps_mk ?_ ?_ ?_ ?_ ?_ ?_ ?_ ?_ ?_ ?_ ?_ ?_ ?_ ?_ ?_ ?_ ?_ ?_ ?_ ?_ ?_ ?_ ?_ ?_ ?_ ?_ ?_ ?_ ?_ ?_ ?_ ?_
    | with_reducible exact Or.inl rfl
    | exact Or.inr (within_trans rfl hw)
    | dsimp only
    | split
    | intro _

end Sys2Proof.Machine
end

