-- ==== Sys2Proof/Laws/KeepsCommands.lean ====
section
/-! SUPPORT. What each operation of Machine/Commands.lean keeps. -/

set_option linter.all false

namespace Sys2Proof.Machine

theorem runCmd_keeps {w : List StateField} {a s : State} {own ring op : Nat} {body : Desc → CmdRef → Nat → State → State}
    (h : Keeps w a s) (hw : within [.rings] w = true)
    (k : ∀ d r c t, Keeps w a t → Keeps w a (body d r c t)) : Answers w a (runCmd own ring op s body) := by
  unfold runCmd
  split
  · exact Answers.next h
  · rename_i e
    split
    · exact Answers.next (cmdDone_keeps (beginCmd_keeps e h (within_trans rfl hw)) (within_trans rfl hw))
    · exact Answers.next (k _ _ _ _ (beginCmd_keeps e h (within_trans rfl hw)))

theorem openCtx_keeps {w : List StateField} {a s : State} {c own slot p0 : Nat} (h : Keeps w a s)
    (hw : within [.regs, .ctxs, .srcs] w = true) :
    Keeps w a (openCtx s c own slot p0) := by
  unfold openCtx
  repeat' first
    | with_reducible
        first
        | assumption | apply Answers.next | apply Answers.fault | apply Keeps.ite | apply Answers.ite
        | refine Keeps.foldl ?_ fun _ _ _ => ?_ | refine fset_keeps ?_ ?_ | refine clearPage_keeps ?_ ?_
        | refine syncPage_keeps ?_ ?_
    | exact within_trans rfl hw
    | with_reducible refine keeps_mk ?_ ?_ ?_ ?_ ?_ ?_ ?_ ?_ ?_ ?_ ?_ ?_ ?_ ?_ ?_ ?_ ?_ ?_ ?_ ?_ ?_ ?_ ?_ ?_ ?_ ?_ ?_ ?_ ?_ ?_ ?_ ?_
    | with_reducible exact Or.inl rfl
    | exact Or.inr (within_trans rfl hw)
    | dsimp only
    | split
    | intro _

theorem opOpenBody_keeps {w : List StateField} {a s : State} {own : Nat} {d : Desc} {ref : CmdRef} (h : Keeps w a s)
    (hw : within [.regs, .rings, .ctxs, .srcs] w = true) :
    Keeps w a (opOpenBody own d ref s) := by
  unfold opOpenBody
  repeat' first
    | with_reducible
        first
        | assumption | apply Answers.next | apply Answers.fault | apply Keeps.ite | apply Answers.ite
        | refine Keeps.foldl ?_ fun _ _ _ => ?_ | refine cmdDone_keeps ?_ ?_ | refine openCtx_keeps ?_ ?_
    | exact within_trans rfl hw
    | dsimp only
    | split
    | intro _

theorem execOpOpen_keeps {w : List StateField} {a s : State} {own : Fin 65} {ring : Fin 4} (h : Keeps w a s)
    (hw : within [.regs, .rings, .ctxs, .srcs] w = true) :
    Answers w a (execOpOpen own ring s) := by
  unfold execOpOpen
  repeat' first
    | with_reducible
        first
        | assumption | apply Answers.next | apply Answers.fault | apply Keeps.ite | apply Answers.ite
        | refine Keeps.foldl ?_ fun _ _ _ => ?_ | refine beginCmd_keeps ‹_› ?_ ?_ | refine opOpenBody_keeps ?_ ?_
    | exact within_trans rfl hw
    | dsimp only
    | split
    | intro _

theorem leaveHalt_keeps {w : List StateField} {a s : State} {c : Nat} (h : Keeps w a s)
    (hw : within [.regs, .rings, .ctxs, .talus, .perf] w = true) :
    Keeps w a (leaveHalt s c) := by
  unfold leaveHalt
  repeat' first
    | with_reducible
        first
        | assumption | apply Answers.next | apply Answers.fault | apply Keeps.ite | apply Answers.ite
        | refine Keeps.foldl ?_ fun _ _ _ => ?_ | refine fset_keeps ?_ ?_ | refine abortReconf_keeps ?_ ?_
        | refine abortRate_keeps ?_ ?_
    | exact within_trans rfl hw
    | dsimp only
    | split
    | intro _

theorem execOpConfigure_keeps {w : List StateField} {a s : State} {own : Fin 65} {ring : Fin 4} (h : Keeps w a s)
    (hw : within [.regs, .mem, .rings, .ctxs, .talus, .srcs, .perf] w = true) :
    Answers w a (execOpConfigure own ring s) := by
  unfold execOpConfigure
  repeat' first
    | with_reducible
        first
        | assumption | apply Answers.next | apply Answers.fault | apply Keeps.ite | apply Answers.ite
        | refine Keeps.foldl ?_ fun _ _ _ => ?_ | refine cmdDone_keeps ?_ ?_ | refine setCtxState_keeps ?_ ?_
        | refine retryOutputs_keeps ?_ ?_ | refine replaceSet_keeps ‹_› ?_ ?_
        | refine runCmd_keeps ?_ ?_ fun _ _ _ _ _ => ?_ | refine leaveHalt_keeps ?_ ?_
    | exact within_trans rfl hw
    | dsimp only
    | split
    | intro _

theorem startCtx_keeps {w : List StateField} {a s : State} {c : Nat} (h : Keeps w a s)
    (hw : within [.regs, .ctxs] w = true) :
    Keeps w a (startCtx s c) := by
  unfold startCtx
  repeat' first
    | with_reducible
        first
        | assumption | apply Answers.next | apply Answers.fault | apply Keeps.ite | apply Answers.ite
        | refine Keeps.foldl ?_ fun _ _ _ => ?_ | refine fset_keeps ?_ ?_ | refine modCtx_keeps ?_ ?_
        | refine setCtxState_keeps ?_ ?_
    | exact within_trans rfl hw
    | dsimp only
    | split
    | intro _

theorem execOpStart_keeps {w : List StateField} {a s : State} {own : Fin 65} {ring : Fin 4} (h : Keeps w a s)
    (hw : within [.regs, .rings, .ctxs] w = true) :
    Answers w a (execOpStart own ring s) := by
  unfold execOpStart
  repeat' first
    | with_reducible
        first
        | assumption | apply Answers.next | apply Answers.fault | apply Keeps.ite | apply Answers.ite
        | refine Keeps.foldl ?_ fun _ _ _ => ?_ | refine cmdDone_keeps ?_ ?_
        | refine runCmd_keeps ?_ ?_ fun _ _ _ _ _ => ?_ | refine startCtx_keeps ?_ ?_
    | exact within_trans rfl hw
    | dsimp only
    | split
    | intro _

theorem execOpQuery_keeps {w : List StateField} {a s : State} {own : Fin 65} {ring : Fin 4} (h : Keeps w a s)
    (hw : within [.rings] w = true) :
    Answers w a (execOpQuery own ring s) := by
  unfold execOpQuery
  repeat' first
    | with_reducible
        first
        | assumption | apply Answers.next | apply Answers.fault | apply Keeps.ite | apply Answers.ite
        | refine Keeps.foldl ?_ fun _ _ _ => ?_ | refine cmdDone_keeps ?_ ?_
        | refine runCmd_keeps ?_ ?_ fun _ _ _ _ _ => ?_
    | exact within_trans rfl hw
    | dsimp only
    | split
    | intro _

theorem selectPts_keeps {w : List StateField} {a s : State} {c pts num : Nat} (h : Keeps w a s)
    (hw : within [.regs, .rings, .ctxs] w = true) :
    Keeps w a (selectPts s c pts num) := by
  unfold selectPts
  repeat' first
    | with_reducible
        first
        | assumption | apply Answers.next | apply Answers.fault | apply Keeps.ite | apply Answers.ite
        | refine Keeps.foldl ?_ fun _ _ _ => ?_ | refine modCtx_keeps ?_ ?_ | refine refDone_keeps ?_ ?_
    | exact within_trans rfl hw
    | dsimp only
    | split
    | intro _

theorem acceptPic_keeps {w : List StateField} {a s : State} {c : Nat} {ref : CmdRef} {pts addr chroma stride at_ : Nat} {codes : LaCodes} {ppu : Bool} (h : Keeps w a s)
    (hw : within [.regs, .rings, .ctxs] w = true) :
    Keeps w a (acceptPic s c ref pts addr chroma stride at_ codes ppu) := by
  unfold acceptPic
  repeat' first
    | with_reducible
        first
        | assumption | apply Answers.next | apply Answers.fault | apply Keeps.ite | apply Answers.ite
        | refine Keeps.foldl ?_ fun _ _ _ => ?_ | refine fadd_keeps ?_ ?_ | refine modCtx_keeps ?_ ?_
        | refine selectPts_keeps ?_ ?_
    | exact within_trans rfl hw
    | dsimp only
    | split
    | intro _

theorem submitEncode_keeps {w : List StateField} {a s : State} {d : Desc} {ref : CmdRef} {c : Nat} {codes : LaCodes} (h : Keeps w a s)
    (hw : within [.regs, .rings, .ctxs] w = true) :
    Keeps w a (submitEncode s d ref c codes) := by
  unfold submitEncode
  repeat' first
    | with_reducible
        first
        | assumption | apply Answers.next | apply Answers.fault | apply Keeps.ite | apply Answers.ite
        | refine Keeps.foldl ?_ fun _ _ _ => ?_ | refine fsetb_keeps ?_ ?_ | refine cmdDone_keeps ?_ ?_
        | refine acceptPic_keeps ?_ ?_
    | exact within_trans rfl hw
    | dsimp only
    | split
    | intro _

theorem submitDecode_keeps {w : List StateField} {a s : State} {d : Desc} {ref : CmdRef} {c : Nat} {aus : List AccessUnit} (h : Keeps w a s)
    (hw : within [.free, .regs, .mem, .rings, .ctxs, .engines, .banks, .disp, .talus, .srcs, .doms, .perf] w = true) :
    Keeps w a (submitDecode s d ref c aus) := by
  unfold submitDecode
  repeat' first
    | with_reducible
        first
        | assumption | apply Answers.next | apply Answers.fault | apply Keeps.ite | apply Answers.ite
        | refine Keeps.foldl ?_ fun _ _ _ => ?_ | refine fadd_keeps ?_ ?_ | refine modCtx_keeps ?_ ?_
        | refine cmdDone_keeps ?_ ?_ | refine acceptUnit_keeps ?_ ?_ | refine settleDec_keeps ?_ ?_
    | exact within_trans rfl hw
    | dsimp only
    | split
    | intro _

theorem execOpSubmit_keeps {w : List StateField} {a s : State} {own : Fin 65} {ring : Fin 4} {la : LaCodes} {au : List AccessUnit} (h : Keeps w a s)
    (hw : within [.free, .regs, .mem, .rings, .ctxs, .engines, .banks, .disp, .talus, .srcs, .doms, .perf] w = true) :
    Answers w a (execOpSubmit own ring la au s) := by
  unfold execOpSubmit
  repeat' first
    | with_reducible
        first
        | assumption | apply Answers.next | apply Answers.fault | apply Keeps.ite | apply Answers.ite
        | refine Keeps.foldl ?_ fun _ _ _ => ?_ | refine runCmd_keeps ?_ ?_ fun _ _ _ _ _ => ?_
        | refine submitEncode_keeps ?_ ?_ | refine submitDecode_keeps ?_ ?_
    | exact within_trans rfl hw
    | dsimp only
    | split
    | intro _

theorem settle_keeps {w : List StateField} {a s : State} {c : Nat} (h : Keeps w a s)
    (hw : within [.free, .regs, .mem, .rings, .ctxs, .engines, .banks, .disp, .talus, .srcs, .doms, .svcs, .perf] w = true) :
    Keeps w a (settle s c) := by
  unfold settle
  repeat' first
    | with_reducible
        first
        | assumption | apply Answers.next | apply Answers.fault | apply Keeps.ite | apply Answers.ite
        | refine Keeps.foldl ?_ fun _ _ _ => ?_ | refine settleCtx_keeps ?_ ?_ | refine settleDec_keeps ?_ ?_
    | exact within_trans rfl hw
    | dsimp only
    | split
    | intro _

theorem execOpFlush_keeps {w : List StateField} {a s : State} {own : Fin 65} {ring : Fin 4} (h : Keeps w a s)
    (hw : within [.free, .regs, .mem, .rings, .ctxs, .engines, .banks, .disp, .talus, .srcs, .doms, .svcs, .perf] w = true) :
    Answers w a (execOpFlush own ring s) := by
  unfold execOpFlush
  repeat' first
    | with_reducible
        first
        | assumption | apply Answers.next | apply Answers.fault | apply Keeps.ite | apply Answers.ite
        | refine Keeps.foldl ?_ fun _ _ _ => ?_ | refine modCtx_keeps ?_ ?_ | refine setCtxState_keeps ?_ ?_
        | refine runCmd_keeps ?_ ?_ fun _ _ _ _ _ => ?_ | refine settle_keeps ?_ ?_
    | exact within_trans rfl hw
    | dsimp only
    | split
    | intro _

theorem discardWork_keeps {w : List StateField} {a s : State} {c : Nat} (h : Keeps w a s)
    (hw : within [.free, .regs, .mem, .rings, .ctxs, .engines, .banks, .disp, .talus, .srcs, .doms, .svcs, .perf] w = true) :
    Keeps w a (discardWork s c) := by
  unfold discardWork
  repeat' first
    | with_reducible
        first
        | assumption | apply Answers.next | apply Answers.fault | apply Keeps.ite | apply Answers.ite
        | refine Keeps.foldl ?_ fun _ _ _ => ?_ | refine modCtx_keeps ?_ ?_ | refine dropJobs_keeps ?_ ?_
        | refine failSubmits_keeps ?_ ?_ | refine abortReconf_keeps ?_ ?_ | refine abortRate_keeps ?_ ?_
        | refine abortKeys_keeps ?_ ?_ | refine deliverPic_keeps ?_ ?_ | refine subsKeep_keeps ?_ ?_
        | refine dropSources_keeps ?_ ?_
    | exact within_trans rfl hw
    | dsimp only
    | split
    | intro _

theorem execOpClose_keeps {w : List StateField} {a s : State} {own : Fin 65} {ring : Fin 4} (h : Keeps w a s)
    (hw : within [.free, .regs, .mem, .rings, .ctxs, .engines, .banks, .disp, .talus, .srcs, .doms, .svcs, .perf] w = true) :
    Answers w a (execOpClose own ring s) := by
  unfold execOpClose
  repeat' first
    | with_reducible
        first
        | assumption | apply Answers.next | apply Answers.fault | apply Keeps.ite | apply Answers.ite
        | refine Keeps.foldl ?_ fun _ _ _ => ?_ | refine modCtx_keeps ?_ ?_ | refine setCtxState_keeps ?_ ?_
        | refine endOfDrain_keeps ?_ ?_ | refine checkDrain_keeps ?_ ?_
        | refine runCmd_keeps ?_ ?_ fun _ _ _ _ _ => ?_ | refine settle_keeps ?_ ?_ | refine discardWork_keeps ?_ ?_
    | exact within_trans rfl hw
    | dsimp only
    | split
    | intro _

theorem pendReconf_keeps {w : List StateField} {a s : State} {c : Nat} {ref : CmdRef} {key : Bool} {mem : List Nat} {kib : Nat} (h : Keeps w a s)
    (hw : within [.regs, .ctxs] w = true) :
    Keeps w a (pendReconf s c ref key mem kib) := by
  unfold pendReconf
  repeat' first
    | with_reducible
        first
        | assumption | apply Answers.next | apply Answers.fault | apply Keeps.ite | apply Answers.ite
        | refine Keeps.foldl ?_ fun _ _ _ => ?_ | refine fset_keeps ?_ ?_ | refine modCtx_keeps ?_ ?_
    | exact within_trans rfl hw
    | dsimp only
    | split
    | intro _

theorem execOpReconfig_keeps {w : List StateField} {a s : State} {own : Fin 65} {ring : Fin 4} (h : Keeps w a s)
    (hw : within [.regs, .mem, .rings, .ctxs, .talus, .srcs, .perf] w = true) :
    Answers w a (execOpReconfig own ring s) := by
  unfold execOpReconfig
  repeat' first
    | with_reducible
        first
        | assumption | apply Answers.next | apply Answers.fault | apply Keeps.ite | apply Answers.ite
        | refine Keeps.foldl ?_ fun _ _ _ => ?_ | refine cmdDone_keeps ?_ ?_ | refine reserve_keeps ‹_› ?_ ?_
        | refine retryOutputs_keeps ?_ ?_ | refine replaceSet_keeps ‹_› ?_ ?_ | refine abortReconf_keeps ?_ ?_
        | refine runCmd_keeps ?_ ?_ fun _ _ _ _ _ => ?_ | refine pendReconf_keeps ?_ ?_
    | exact within_trans rfl hw
    | dsimp only
    | split
    | intro _

theorem execOpForceKey_keeps {w : List StateField} {a s : State} {own : Fin 65} {ring : Fin 4} (h : Keeps w a s)
    (hw : within [.regs, .rings, .ctxs] w = true) :
    Answers w a (execOpForceKey own ring s) := by
  unfold execOpForceKey
  repeat' first
    | with_reducible
        first
        | assumption | apply Answers.next | apply Answers.fault | apply Keeps.ite | apply Answers.ite
        | refine Keeps.foldl ?_ fun _ _ _ => ?_ | refine modCtx_keeps ?_ ?_ | refine cmdDone_keeps ?_ ?_
        | refine runCmd_keeps ?_ ?_ fun _ _ _ _ _ => ?_ | refine selectPts_keeps ?_ ?_
    | exact within_trans rfl hw
    | dsimp only
    | split
    | intro _

theorem execOpSetRate_keeps {w : List StateField} {a s : State} {own : Fin 65} {ring : Fin 4} (h : Keeps w a s)
    (hw : within [.regs, .rings, .ctxs] w = true) :
    Answers w a (execOpSetRate own ring s) := by
  unfold execOpSetRate
  repeat' first
    | with_reducible
        first
        | assumption | apply Answers.next | apply Answers.fault | apply Keeps.ite | apply Answers.ite
        | refine Keeps.foldl ?_ fun _ _ _ => ?_ | refine modCtx_keeps ?_ ?_ | refine cmdDone_keeps ?_ ?_
        | refine writeRate_keeps ?_ ?_ | refine abortRate_keeps ?_ ?_ | refine runCmd_keeps ?_ ?_ fun _ _ _ _ _ => ?_
    | exact within_trans rfl hw
    | dsimp only
    | split
    | intro _

theorem execOpLink_keeps {w : List StateField} {a s : State} {own : Fin 65} {ring : Fin 4} (h : Keeps w a s)
    (hw : within [.regs, .rings, .ctxs] w = true) :
    Answers w a (execOpLink own ring s) := by
  unfold execOpLink
  repeat' first
    | with_reducible
        first
        | assumption | apply Answers.next | apply Answers.fault | apply Keeps.ite | apply Answers.ite
        | refine Keeps.foldl ?_ fun _ _ _ => ?_ | refine fset_keeps ?_ ?_ | refine fsetb_keeps ?_ ?_
        | refine modCtx_keeps ?_ ?_ | refine cmdDone_keeps ?_ ?_ | refine setLinkSlot_keeps ?_ ?_
        | refine freeSlot_keeps ?_ ?_ | refine runCmd_keeps ?_ ?_ fun _ _ _ _ _ => ?_
    | exact within_trans rfl hw
    | dsimp only
    | split
    | intro _

theorem execOpBind_keeps {w : List StateField} {a s : State} {own : Fin 65} {ring : Fin 4} (h : Keeps w a s)
    (hw : within [.regs, .rings, .ctxs] w = true) :
    Answers w a (execOpBind own ring s) := by
  unfold execOpBind
  repeat' first
    | with_reducible
        first
        | assumption | apply Answers.next | apply Answers.fault | apply Keeps.ite | apply Answers.ite
        | refine Keeps.foldl ?_ fun _ _ _ => ?_ | refine fset_keeps ?_ ?_ | refine fsetb_keeps ?_ ?_
        | refine modCtx_keeps ?_ ?_ | refine cmdDone_keeps ?_ ?_ | refine runCmd_keeps ?_ ?_ fun _ _ _ _ _ => ?_
    | exact within_trans rfl hw
    | dsimp only
    | split
    | intro _

theorem execUndefinedOpcode_keeps {w : List StateField} {a s : State} {own : Fin 65} {ring : Fin 4} (h : Keeps w a s)
    (hw : within [.rings] w = true) :
    Answers w a (execUndefinedOpcode own ring s) := by
  unfold execUndefinedOpcode
  repeat' first
    | with_reducible
        first
        | assumption | apply Answers.next | apply Answers.fault | apply Keeps.ite | apply Answers.ite
        | refine Keeps.foldl ?_ fun _ _ _ => ?_ | refine cmdDone_keeps ?_ ?_ | refine beginCmd_keeps ‹_› ?_ ?_
    | exact within_trans rfl hw
    | dsimp only
    | split
    | intro _

end Sys2Proof.Machine
end

