-- ==== Sys2Proof/Laws/KeepsOwners.lean ====
section
/-! SUPPORT. What each operation of Machine/Owners.lean keeps. -/

set_option linter.all false

namespace Sys2Proof.Machine

theorem dropRings_keeps {w : List StateField} {a s : State} {fn : Nat} (h : Keeps w a s)
    (hw : within [.regs, .rings, .srcs] w = true) : Keeps w a (dropRings s fn) :=
  syncSrc_keeps (Keeps.foldl (keeps_dropRegs h (within_trans rfl hw)) fun _ _ k =>
    keeps_mk k (.inl rfl) (.inl rfl) (.inl rfl) (.inl rfl) (.inl rfl) (.inr (within_trans rfl hw)) (.inl rfl) (.inl rfl) (.inl rfl) (.inl rfl) (.inl rfl) (.inl rfl) (.inl rfl) (.inl rfl) (.inl rfl) (.inl rfl) (.inl rfl) (.inl rfl) (.inl rfl) (.inl rfl) (.inl rfl) (.inl rfl) (.inl rfl) (.inl rfl) (.inl rfl) (.inl rfl) (.inl rfl) (.inl rfl) (.inl rfl) (.inl rfl) (.inl rfl)) (within_trans rfl hw)

theorem dropBufs_keeps {w : List StateField} {a s : State} {fn : Nat} (h : Keeps w a s)
    (hw : within [.talus, .perf] w = true) :
    Keeps w a (dropBufs s fn) := by
  unfold dropBufs
  repeat' first
    | with_reducible
        first
        | assumption | apply Answers.next | apply Answers.fault | apply Keeps.ite | apply Answers.ite
        | refine Keeps.foldl ?_ fun _ _ _ => ?_ | refine dropBuf_keeps ?_ ?_
    | exact within_trans rfl hw
    | dsimp only
    | split
    | intro _

theorem dropChans_keeps {w : List StateField} {a s : State} {fn : Nat} (h : Keeps w a s)
    (hw : within [.regs, .chans] w = true) :
    Keeps w a (dropChans s fn) := by
  unfold dropChans
  repeat' first
    | with_reducible
        first
        | assumption | apply Answers.next | apply Answers.fault | apply Keeps.ite | apply Answers.ite
        | refine Keeps.foldl ?_ fun _ _ _ => ?_ | refine clearChan_keeps ?_ ?_
    | exact within_trans rfl hw
    | dsimp only
    | split
    | intro _

theorem closeLeaving_keeps {w : List StateField} {a s : State} {fn c : Nat} (h : Keeps w a s)
    (hw : within [.free, .regs, .mem, .rings, .ctxs, .engines, .banks, .disp, .talus, .srcs, .doms, .svcs, .perf] w = true) :
    Keeps w a (closeLeaving s fn c) := by
  unfold closeLeaving
  repeat' first
    | with_reducible
        first
        | assumption | apply Answers.next | apply Answers.fault | apply Keeps.ite | apply Answers.ite
        | refine Keeps.foldl ?_ fun _ _ _ => ?_ | refine cmdDone_keeps ?_ ?_ | refine freeCtx_keeps ?_ ?_
        | refine discardWork_keeps ?_ ?_
    | exact within_trans rfl hw
    | dsimp only
    | split
    | intro _

theorem leaveOwner_keeps {w : List StateField} {a s : State} {fn : Nat} (h : Keeps w a s)
    (hw : within [.free, .regs, .mem, .rings, .ctxs, .engines, .banks, .disp, .talus, .chans, .srcs, .tgts, .doms, .svcs, .perf] w = true) :
    Keeps w a (leaveOwner s fn) := by
  unfold leaveOwner
  repeat' first
    | with_reducible
        first
        | assumption | apply Answers.next | apply Answers.fault | apply Keeps.ite | apply Answers.ite
        | refine Keeps.foldl ?_ fun _ _ _ => ?_ | refine emptyTarget_keeps ?_ ?_ | refine retryOutputs_keeps ?_ ?_
        | refine dropRings_keeps ?_ ?_ | refine dropBufs_keeps ?_ ?_ | refine dropChans_keeps ?_ ?_
        | refine closeLeaving_keeps ?_ ?_
    | exact within_trans rfl hw
    | dsimp only
    | split
    | intro _

theorem dropFunc_keeps {w : List StateField} {a s : State} {fn : Nat} (h : Keeps w a s)
    (hw : within [.regs, .funcs] w = true) : Keeps w a (dropFunc s fn) :=
  keeps_dropRegs (keeps_mk h (.inl rfl) (.inl rfl) (.inl rfl) (.inl rfl) (.inl rfl) (.inl rfl) (.inl rfl) (.inl rfl) (.inl rfl) (.inl rfl) (.inl rfl) (.inl rfl) (.inl rfl) (.inl rfl) (.inl rfl) (.inl rfl) (.inr (within_trans rfl hw)) (.inl rfl) (.inl rfl) (.inl rfl) (.inl rfl) (.inl rfl) (.inl rfl) (.inl rfl) (.inl rfl) (.inl rfl) (.inl rfl) (.inl rfl) (.inl rfl) (.inl rfl) (.inl rfl)) (within_trans rfl hw)

theorem dropFn_keeps {w : List StateField} {a s : State} {fn : Nat} (h : Keeps w a s)
    (hw : within [.free, .regs, .mem, .rings, .ctxs, .engines, .banks, .disp, .talus, .chans, .srcs, .tgts, .funcs, .doms, .svcs, .perf] w = true) :
    Keeps w a (dropFn s fn) := by
  unfold dropFn
  repeat' first
    | with_reducible
        first
        | assumption | apply Answers.next | apply Answers.fault | apply Keeps.ite | apply Answers.ite
        | refine Keeps.foldl ?_ fun _ _ _ => ?_ | refine leaveOwner_keeps ?_ ?_ | refine dropFunc_keeps ?_ ?_
    | exact within_trans rfl hw
    | dsimp only
    | split
    | intro _

theorem dropAll_keeps {w : List StateField} {a s : State} (h : Keeps w a s)
    (hw : within [.free, .regs, .mem, .rings, .ctxs, .engines, .banks, .disp, .talus, .chans, .srcs, .tgts, .funcs, .doms, .svcs, .perf] w = true) :
    Keeps w a (dropAll s) := by
  unfold dropAll
  repeat' first
    | with_reducible
        first
        | assumption | apply Answers.next | apply Answers.fault | apply Keeps.ite | apply Answers.ite
        | refine Keeps.foldl ?_ fun _ _ _ => ?_ | refine fset_keeps ?_ ?_ | refine dropFn_keeps ?_ ?_
    | exact within_trans rfl hw
    | dsimp only
    | split
    | intro _

theorem chansToPf_keeps {w : List StateField} {a s : State} (h : Keeps w a s)
    (hw : within [.regs] w = true) :
    Keeps w a (chansToPf s) := by
  unfold chansToPf
  repeat' first
    | with_reducible
        first
        | assumption | apply Answers.next | apply Answers.fault | apply Keeps.ite | apply Answers.ite
        | refine Keeps.foldl ?_ fun _ _ _ => ?_ | refine fset_keeps ?_ ?_
    | exact within_trans rfl hw
    | dsimp only
    | split
    | intro _

theorem linkGone_keeps {w : List StateField} {a s : State} (h : Keeps w a s)
    (hw : within [.free, .regs, .staged, .latched, .ctxs, .engines, .banks, .disp, .chans, .srcs, .tgts, .holdoff, .doms, .chip, .flows, .queues, .pnodes, .store, .bdrk, .perf, .pins] w = true) :
    Keeps w a (linkGone s) := by
  unfold linkGone
  repeat' first
    | with_reducible
        first
        | assumption | apply Answers.next | apply Answers.fault | apply Keeps.ite | apply Answers.ite
        | refine Keeps.foldl ?_ fun _ _ _ => ?_ | refine rset_keeps ?_ ?_ | refine fadd_keeps ?_ ?_
        | refine setIrq_keeps ?_ ?_ | refine setChip_keeps ?_ ?_ | refine raiseFault_keeps ?_ ?_
    | exact within_trans rfl hw
    | dsimp only
    | split
    | intro _

theorem releaseWake_keeps {w : List StateField} {a s : State} (h : Keeps w a s)
    (hw : within [.pins] w = true) :
    Keeps w a (releaseWake s) := by
  unfold releaseWake
  repeat' first
    | with_reducible
        first
        | assumption | apply Answers.next | apply Answers.fault | apply Keeps.ite | apply Answers.ite
        | refine Keeps.foldl ?_ fun _ _ _ => ?_
    | exact within_trans rfl hw
    | with_reducible refine keeps_mk ?_ ?_ ?_ ?_ ?_ ?_ ?_ ?_ ?_ ?_ ?_ ?_ ?_ ?_ ?_ ?_ ?_ ?_ ?_ ?_ ?_ ?_ ?_ ?_ ?_ ?_ ?_ ?_ ?_ ?_ ?_ ?_
    | with_reducible exact Or.inl rfl
    | exact Or.inr (within_trans rfl hw)
    | dsimp only
    | split
    | intro _

theorem execFunctionLevelReset_keeps {w : List StateField} {a s : State} {fn : Fin 64} (h : Keeps w a s)
    (hw : within [.free, .regs, .mem, .rings, .ctxs, .engines, .banks, .disp, .talus, .chans, .srcs, .tgts, .funcs, .doms, .svcs, .perf] w = true) :
    Answers w a (execFunctionLevelReset fn s) := by
  unfold execFunctionLevelReset
  repeat' first
    | with_reducible
        first
        | assumption | apply Answers.next | apply Answers.fault | apply Keeps.ite | apply Answers.ite
        | refine Keeps.foldl ?_ fun _ _ _ => ?_ | refine fadd_keeps ?_ ?_ | refine setIrq_keeps ?_ ?_
        | refine dropFn_keeps ?_ ?_ | refine dropAll_keeps ?_ ?_ | refine chansToPf_keeps ?_ ?_
    | exact within_trans rfl hw
    | dsimp only
    | split
    | intro _

theorem execLinkDown_keeps {w : List StateField} {a s : State} (h : Keeps w a s)
    (hw : within [.free, .regs, .staged, .latched, .mem, .rings, .ctxs, .engines, .banks, .disp, .talus, .chans, .srcs, .tgts, .holdoff, .funcs, .doms, .chip, .flows, .svcs, .queues, .pnodes, .store, .bdrk, .perf, .pins] w = true) :
    Answers w a (execLinkDown s) := by
  unfold execLinkDown
  repeat' first
    | with_reducible
        first
        | assumption | apply Answers.next | apply Answers.fault | apply Keeps.ite | apply Answers.ite
        | refine Keeps.foldl ?_ fun _ _ _ => ?_ | refine dropAll_keeps ?_ ?_ | refine linkGone_keeps ?_ ?_
    | exact within_trans rfl hw
    | dsimp only
    | split
    | intro _

theorem execVfEnableChange_keeps {w : List StateField} {a s : State} {enable : Bool} {num : Fin 64} (h : Keeps w a s)
    (hw : within [.free, .regs, .mem, .rings, .ctxs, .engines, .banks, .disp, .talus, .chans, .srcs, .tgts, .funcs, .doms, .svcs, .perf] w = true) :
    Answers w a (execVfEnableChange enable num s) := by
  unfold execVfEnableChange
  repeat' first
    | with_reducible
        first
        | assumption | apply Answers.next | apply Answers.fault | apply Keeps.ite | apply Answers.ite
        | refine Keeps.foldl ?_ fun _ _ _ => ?_ | refine fset_keeps ?_ ?_ | refine fsetb_keeps ?_ ?_
        | refine dropFn_keeps ?_ ?_
    | exact within_trans rfl hw
    | dsimp only
    | split
    | intro _

theorem execPerstNAssert_keeps {w : List StateField} {a s : State} (h : Keeps w a s)
    (hw : within [.free, .regs, .staged, .latched, .mem, .rings, .ctxs, .engines, .banks, .disp, .talus, .chans, .srcs, .tgts, .holdoff, .funcs, .doms, .chip, .flows, .svcs, .queues, .pnodes, .store, .bdrk, .perf, .pins] w = true) :
    Answers w a (execPerstNAssert s) := by
  unfold execPerstNAssert
  repeat' first
    | with_reducible
        first
        | assumption | apply Answers.next | apply Answers.fault | apply Keeps.ite | apply Answers.ite
        | refine Keeps.foldl ?_ fun _ _ _ => ?_ | refine fset_keeps ?_ ?_ | refine setChip_keeps ?_ ?_
        | refine dropAll_keeps ?_ ?_ | refine linkGone_keeps ?_ ?_
    | exact within_trans rfl hw
    | dsimp only
    | split
    | intro _

theorem execPerstNDeassert_keeps {w : List StateField} {a s : State} (h : Keeps w a s)
    (hw : within [.regs, .chip] w = true) :
    Answers w a (execPerstNDeassert s) := by
  unfold execPerstNDeassert
  repeat' first
    | with_reducible
        first
        | assumption | apply Answers.next | apply Answers.fault | apply Keeps.ite | apply Answers.ite
        | refine Keeps.foldl ?_ fun _ _ _ => ?_ | refine fset_keeps ?_ ?_ | refine setChip_keeps ?_ ?_
    | exact within_trans rfl hw
    | dsimp only
    | split
    | intro _

theorem execPcieLinkUp_keeps {w : List StateField} {a s : State} {speed : Fin 6} {width : Fin 17} (h : Keeps w a s)
    (hw : within [.regs, .srcs, .chip, .pins] w = true) :
    Answers w a (execPcieLinkUp speed width s) := by
  unfold execPcieLinkUp
  repeat' first
    | with_reducible
        first
        | assumption | apply Answers.next | apply Answers.fault | apply Keeps.ite | apply Answers.ite
        | refine Keeps.foldl ?_ fun _ _ _ => ?_ | refine fset_keeps ?_ ?_ | refine setIrq_keeps ?_ ?_
        | refine setChip_keeps ?_ ?_ | refine releaseWake_keeps ?_ ?_
    | exact within_trans rfl hw
    | dsimp only
    | split
    | intro _

theorem execAspmL1Transition_keeps {w : List StateField} {a s : State} {dest : LinkState} (h : Keeps w a s)
    (hw : within [.regs, .chip, .pins] w = true) :
    Answers w a (execAspmL1Transition dest s) := by
  unfold execAspmL1Transition
  repeat' first
    | with_reducible
        first
        | assumption | apply Answers.next | apply Answers.fault | apply Keeps.ite | apply Answers.ite
        | refine Keeps.foldl ?_ fun _ _ _ => ?_ | refine fsetb_keeps ?_ ?_ | refine setChip_keeps ?_ ?_
        | refine releaseWake_keeps ?_ ?_
    | exact within_trans rfl hw
    | dsimp only
    | split
    | intro _

end Sys2Proof.Machine
end

