-- ==== Sys2Proof/Laws/KeepsPpu.lean ====
section
/-! SUPPORT. What each operation of Machine/Ppu.lean keeps. -/

set_option linter.all false

namespace Sys2Proof.Machine

theorem syncOldest_keeps {w : List StateField} {a s : State} {d : Nat} (h : Keeps w a s)
    (hw : within [.regs] w = true) :
    Keeps w a (syncOldest s d) := by
  unfold syncOldest
  repeat' first
    | with_reducible
        first
        | assumption | apply Answers.next | apply Answers.fault | apply Keeps.ite | apply Answers.ite
        | refine Keeps.foldl ?_ fun _ _ _ => ?_ | refine fset_keeps ?_ ?_
    | exact within_trans rfl hw
    | dsimp only
    | split
    | intro _

theorem freeCodes_keeps {w : List StateField} {a s : State} {units : Nat} (h : Keeps w a s)
    (hw : within [.free] w = true) :
    Keeps w a (freeCodes s units).2 := by
  unfold freeCodes
  repeat' first
    | with_reducible
        first
        | assumption | apply Answers.next | apply Answers.fault | apply Keeps.ite | apply Answers.ite
        | refine Keeps.foldl ?_ fun _ _ _ => ?_ | refine useFrees_keeps ?_ ?_
    | exact within_trans rfl hw
    | dsimp only
    | split
    | intro _

theorem acceptLink_keeps {w : List StateField} {a s : State} {d : Nat} {p : LinkPic} (h : Keeps w a s)
    (hw : within [.free, .regs, .rings, .ctxs] w = true) :
    Keeps w a (acceptLink s d p) := by
  unfold acceptLink
  repeat' first
    | with_reducible
        first
        | assumption | apply Answers.next | apply Answers.fault | apply Keeps.ite | apply Answers.ite
        | refine Keeps.foldl ?_ fun _ _ _ => ?_ | refine fadd_keeps ?_ ?_ | refine modCtx_keeps ?_ ?_
        | refine selectPts_keeps ?_ ?_ | refine freeCodes_keeps ?_ ?_
    | exact within_trans rfl hw
    | dsimp only
    | split
    | intro _

theorem enterLookahead_keeps {w : List StateField} {a s : State} {d : Nat} {p : LinkPic} (h : Keeps w a s)
    (hw : within [.ctxs] w = true) :
    Keeps w a (enterLookahead s d p) := by
  unfold enterLookahead
  repeat' first
    | with_reducible
        first
        | assumption | apply Answers.next | apply Answers.fault | apply Keeps.ite | apply Answers.ite
        | refine Keeps.foldl ?_ fun _ _ _ => ?_ | refine modCtx_keeps ?_ ?_
    | exact within_trans rfl hw
    | dsimp only
    | split
    | intro _

theorem moveOne_keeps {w : List StateField} {a s : State} {d : Nat} {p : LinkPic} (h : Keeps w a s)
    (hw : within [.free, .regs, .rings, .ctxs] w = true) :
    Keeps w a (moveOne s d p) := by
  unfold moveOne
  repeat' first
    | with_reducible
        first
        | assumption | apply Answers.next | apply Answers.fault | apply Keeps.ite | apply Answers.ite
        | refine Keeps.foldl ?_ fun _ _ _ => ?_ | refine acceptLink_keeps ?_ ?_ | refine enterLookahead_keeps ?_ ?_
    | exact within_trans rfl hw
    | dsimp only
    | split
    | intro _

theorem movePics_keeps {w : List StateField} {a s : State} {d : Nat} (h : Keeps w a s)
    (hw : within [.free, .regs, .rings, .ctxs] w = true) :
    Keeps w a (movePics s d) := by
  unfold movePics
  repeat' first
    | with_reducible
        first
        | assumption | apply Answers.next | apply Answers.fault | apply Keeps.ite | apply Answers.ite
        | refine Keeps.foldl ?_ fun _ _ _ => ?_ | refine modCtx_keeps ?_ ?_ | refine moveOne_keeps ?_ ?_
    | exact within_trans rfl hw
    | dsimp only
    | split
    | intro _

theorem readerDone_keeps {w : List StateField} {a s : State} {d : Nat} {p : LinkPic} (h : Keeps w a s)
    (hw : within [.free, .regs, .mem, .rings, .ctxs, .engines, .banks, .disp, .talus, .srcs, .doms, .perf] w = true) :
    Keeps w a (readerDone s d p) := by
  unfold readerDone
  repeat' first
    | with_reducible
        first
        | assumption | apply Answers.next | apply Answers.fault | apply Keeps.ite | apply Answers.ite
        | refine Keeps.foldl ?_ fun _ _ _ => ?_ | refine modDec_keeps ?_ ?_ | refine settleDec_keeps ?_ ?_
    | exact within_trans rfl hw
    | dsimp only
    | split
    | intro _

theorem modLink_keeps {w : List StateField} {a s : State} {d : Nat} {p : LinkPic} {f : LinkPic → LinkPic} (h : Keeps w a s)
    (hw : within [.ctxs] w = true) :
    Keeps w a (modLink s d p f) := by
  unfold modLink
  repeat' first
    | with_reducible
        first
        | assumption | apply Answers.next | apply Answers.fault | apply Keeps.ite | apply Answers.ite
        | refine Keeps.foldl ?_ fun _ _ _ => ?_ | refine modCtx_keeps ?_ ?_
    | exact within_trans rfl hw
    | dsimp only
    | split
    | intro _

theorem issuePpu_keeps {w : List StateField} {a s : State} {d : Nat} {p : LinkPic} {layers : List (Layer × List Word)} {failed : Bool} {page : Nat} (h : Keeps w a s)
    (hw : within [.regs, .ctxs, .engines, .srcs, .doms] w = true) :
    Keeps w a (issuePpu s d p layers failed page) := by
  unfold issuePpu
  repeat' first
    | with_reducible
        first
        | assumption | apply Answers.next | apply Answers.fault | apply Keeps.ite | apply Answers.ite
        | refine Keeps.foldl ?_ fun _ _ _ => ?_ | refine fset_keeps ?_ ?_ | refine modCtx_keeps ?_ ?_
        | refine touchDomain_keeps ?_ ?_ | refine setHeld_keeps ?_ ?_ | refine syncOldest_keeps ?_ ?_
        | refine modLink_keeps ?_ ?_
    | exact within_trans rfl hw
    | dsimp only
    | split
    | intro _

theorem passThrough_keeps {w : List StateField} {a s : State} {d : Nat} {p : LinkPic} (h : Keeps w a s)
    (hw : within [.free, .regs, .mem, .rings, .ctxs, .engines, .banks, .disp, .talus, .srcs, .doms, .perf] w = true) :
    Keeps w a (passThrough s d p) := by
  unfold passThrough
  repeat' first
    | with_reducible
        first
        | assumption | apply Answers.next | apply Answers.fault | apply Keeps.ite | apply Answers.ite
        | refine Keeps.foldl ?_ fun _ _ _ => ?_ | refine fset_keeps ?_ ?_ | refine movePics_keeps ?_ ?_
        | refine readerDone_keeps ?_ ?_ | refine modLink_keeps ?_ ?_
    | exact within_trans rfl hw
    | dsimp only
    | split
    | intro _

theorem execPpuJobIssue_keeps {w : List StateField} {a s : State} {dst : Fin 256} {bus : List BusLayer} {failed : List Nat} (h : Keeps w a s)
    (hw : within [.free, .regs, .mem, .rings, .ctxs, .engines, .banks, .disp, .talus, .srcs, .doms, .perf] w = true) :
    Answers w a (execPpuJobIssue dst bus failed s) := by
  unfold execPpuJobIssue
  repeat' first
    | with_reducible
        first
        | assumption | apply Answers.next | apply Answers.fault | apply Keeps.ite | apply Answers.ite
        | refine Keeps.foldl ?_ fun _ _ _ => ?_ | refine issuePpu_keeps ?_ ?_ | refine passThrough_keeps ?_ ?_
    | exact within_trans rfl hw
    | dsimp only
    | split
    | intro _

theorem ppuDone_keeps {w : List StateField} {a s : State} {page n d pts : Nat} (h : Keeps w a s)
    (hw : within [.free, .regs, .mem, .rings, .ctxs, .engines, .banks, .disp, .talus, .srcs, .doms, .perf] w = true) :
    Keeps w a (ppuDone s page n d pts) := by
  unfold ppuDone
  repeat' first
    | with_reducible
        first
        | assumption | apply Answers.next | apply Answers.fault | apply Keeps.ite | apply Answers.ite
        | refine Keeps.foldl ?_ fun _ _ _ => ?_ | refine fadd_keeps ?_ ?_ | refine countEv_keeps ?_ ?_
        | refine modCtx_keeps ?_ ?_ | refine setHeld_keeps ?_ ?_ | refine retiredOn_keeps ?_ ?_
        | refine syncOldest_keeps ?_ ?_ | refine movePics_keeps ?_ ?_ | refine readerDone_keeps ?_ ?_
        | refine modLink_keeps ?_ ?_
    | exact within_trans rfl hw
    | dsimp only
    | split
    | intro _

theorem execPpuJobComplete_keeps {w : List StateField} {a s : State} {ppu : Fin 8} (h : Keeps w a s)
    (hw : within [.free, .regs, .mem, .rings, .ctxs, .engines, .banks, .disp, .talus, .srcs, .doms, .perf] w = true) :
    Answers w a (execPpuJobComplete ppu s) := by
  unfold execPpuJobComplete
  repeat' first
    | with_reducible
        first
        | assumption | apply Answers.next | apply Answers.fault | apply Keeps.ite | apply Answers.ite
        | refine Keeps.foldl ?_ fun _ _ _ => ?_ | refine ppuDone_keeps ?_ ?_
    | exact within_trans rfl hw
    | dsimp only
    | split
    | intro _

end Sys2Proof.Machine
end

