-- ==== Sys2Proof/Laws/KeepsWake.lean ====
section
/-! SUPPORT. What each operation of Machine/Wake.lean keeps. -/

set_option linter.all false

namespace Sys2Proof.Machine

theorem channelOn_keeps {w : List StateField} {a s : State} {ch : Nat} (h : Keeps w a s)
    (hw : within [.regs, .dmcs] w = true) :
    Keeps w a (channelOn s ch) := by
  unfold channelOn
  repeat' first
    | with_reducible
        first
        | assumption | apply Answers.next | apply Answers.fault | apply Keeps.ite | apply Answers.ite
        | refine Keeps.foldl ?_ fun _ _ _ => ?_ | refine fset_keeps ?_ ?_ | refine modDmc_keeps ?_ ?_
        | refine setOwed_keeps ?_ ?_
    | exact within_trans rfl hw
    | dsimp only
    | split
    | intro _

theorem contentsOn_keeps {w : List StateField} {a s : State} {d : Nat} (h : Keeps w a s)
    (hw : within [.regs, .engines, .disp, .dmcs, .srcs] w = true) :
    Keeps w a (contentsOn s d) := by
  unfold contentsOn
  repeat' first
    | with_reducible
        first
        | assumption | apply Answers.next | apply Answers.fault | apply Keeps.ite | apply Answers.ite
        | refine Keeps.foldl ?_ fun _ _ _ => ?_ | refine fset_keeps ?_ ?_ | refine enterService_keeps ?_ ?_
        | refine channelOn_keeps ?_ ?_
    | exact within_trans rfl hw
    | dsimp only
    | split
    | intro _

theorem wakeCmd_keeps {w : List StateField} {a s : State} {d : Nat} (h : Keeps w a s)
    (hw : within [.regs, .dmcs, .srcs, .doms, .bdrk] w = true) :
    Keeps w a (wakeCmd s d) := by
  unfold wakeCmd
  repeat' first
    | with_reducible
        first
        | assumption | apply Answers.next | apply Answers.fault | apply Keeps.ite | apply Answers.ite
        | refine Keeps.foldl ?_ fun _ _ _ => ?_ | refine modDom_keeps ?_ ?_ | refine setDomState_keeps ?_ ?_
        | refine domCmdDone_keeps ?_ ?_ | refine startRamp_keeps ?_ ?_
    | exact within_trans rfl hw
    | dsimp only
    | split
    | intro _

theorem standbyOff_keeps {w : List StateField} {a s : State} {d : Nat} {byCmd : Bool} (h : Keeps w a s)
    (hw : within [.regs, .engines, .disp, .dmcs, .srcs, .doms, .bdrk] w = true) :
    Keeps w a (standbyOff s d byCmd) := by
  unfold standbyOff
  repeat' first
    | with_reducible
        first
        | assumption | apply Answers.next | apply Answers.fault | apply Keeps.ite | apply Answers.ite
        | refine Keeps.foldl ?_ fun _ _ _ => ?_ | refine deviceOff_keeps ?_ ?_
    | exact within_trans rfl hw
    | dsimp only
    | split
    | intro _

theorem domainServes_keeps {w : List StateField} {a s : State} {d : Nat} (h : Keeps w a s)
    (hw : within [.free, .regs, .staged, .latched, .mem, .poison, .rings, .ctxs, .engines, .banks, .disp, .talus, .dmcs, .chans, .srcs, .tgts, .holdoff, .funcs, .doms, .chip, .flows, .svcs, .ptp, .queues, .snodes, .pnodes, .store, .dgCount, .bdrk, .perf, .pins, .out] w = true) :
    Keeps w a (domainServes s d) := by
  unfold domainServes
  repeat' first
    | with_reducible
        first
        | assumption | apply Answers.next | apply Answers.fault | apply Keeps.ite | apply Answers.ite
        | refine Keeps.foldl ?_ fun _ _ _ => ?_ | refine modDom_keeps ?_ ?_ | refine setDomState_keeps ?_ ?_
        | refine unwait_keeps ?_ ?_ | refine unparkAll_keeps ?_ ?_ | refine bringupOn_keeps ?_ ?_
        | refine endShadows_keeps ?_ ?_ | refine serveAccesses_keeps ?_ ?_ | refine contentsOn_keeps ?_ ?_
        | refine wakeCmd_keeps ?_ ?_ | refine standbyOff_keeps ?_ ?_
    | exact within_trans rfl hw
    | dsimp only
    | split
    | intro _

theorem execDomainOn_keeps {w : List StateField} {a s : State} {d : Fin 60} (h : Keeps w a s)
    (hw : within [.free, .regs, .staged, .latched, .mem, .poison, .rings, .ctxs, .engines, .banks, .disp, .talus, .dmcs, .chans, .srcs, .tgts, .holdoff, .funcs, .doms, .chip, .flows, .svcs, .ptp, .queues, .snodes, .pnodes, .store, .dgCount, .bdrk, .perf, .pins, .out] w = true) :
    Answers w a (execDomainOn d s) := by
  unfold execDomainOn
  repeat' first
    | with_reducible
        first
        | assumption | apply Answers.next | apply Answers.fault | apply Keeps.ite | apply Answers.ite
        | refine Keeps.foldl ?_ fun _ _ _ => ?_ | refine domainServes_keeps ?_ ?_
    | exact within_trans rfl hw
    | dsimp only
    | split
    | intro _

theorem execOffPageAccess_keeps {w : List StateField} {a s : State} {fn : Fin 65} {page off : Nat} {write : Option Word} (h : Keeps w a s)
    (hw : within [.free, .regs, .staged, .latched, .mem, .poison, .rings, .ctxs, .engines, .banks, .disp, .talus, .dmcs, .chans, .srcs, .tgts, .holdoff, .funcs, .doms, .chip, .flows, .svcs, .ptp, .queues, .snodes, .pnodes, .store, .dgCount, .bdrk, .perf, .pins, .out] w = true) :
    Answers w a (execOffPageAccess fn page off write s) := by
  unfold execOffPageAccess
  repeat' first
    | with_reducible
        first
        | assumption | apply Answers.next | apply Answers.fault | apply Keeps.ite | apply Answers.ite
        | refine Keeps.foldl ?_ fun _ _ _ => ?_ | refine writeVia_keeps ?_ ?_ | refine readVia_keeps ?_ ?_
    | exact within_trans rfl hw
    | dsimp only
    | split
    | intro _

theorem execOffPageIdle_keeps {w : List StateField} {a s : State} {d : Fin 60} (h : Keeps w a s)
    (hw : within [.regs, .dmcs, .srcs, .doms, .bdrk] w = true) :
    Answers w a (execOffPageIdle d s) := by
  unfold execOffPageIdle
  repeat' first
    | with_reducible
        first
        | assumption | apply Answers.next | apply Answers.fault | apply Keeps.ite | apply Answers.ite
        | refine Keeps.foldl ?_ fun _ _ _ => ?_ | refine modDom_keeps ?_ ?_ | refine startRamp_keeps ?_ ?_
    | exact within_trans rfl hw
    | dsimp only
    | split
    | intro _

end Sys2Proof.Machine
end

