-- ==== Sys2Proof/WellFormed.lean ====
section
/-! DEFINITION. Well-formed commands: the checks on the operands that the types of `Instr` leave to it. A register
access names a page and an offset of its function's BAR0 (R2, R256, R258) and one of the sizes of R3; a list operand has
the length that its rule gives it; a value measured outside lies in its range. -/

namespace Sys2Proof

/-- A page of a function's BAR0: 16,384 pages for the PF (R2), 64 for a VF (R256); for the network agent a CTX page, at
the PF's page number (log 82). -/
def wfPage (fn page : Nat) : Bool :=
  if fn = 0 then page < 0x4000 else if fn = 64 then 0x400 ≤ page && page < 0x500 else page < 64

/-- A 32-bit register of such a page (R3). -/
def wfReg (fn page off : Nat) : Bool := wfPage fn page && off < 4096 && off % 4 == 0

/-- A naturally aligned access of one to eight bytes (R3). -/
def wfAccess (fn page off size : Nat) : Bool :=
  wfPage fn page && off < 4096 && [1, 2, 4, 8].contains size && off % size == 0

/-- A picture's luma size (R57). -/
def wfSize (w h : Nat) : Bool := w ≤ 65535 && h ≤ 65535

/-- A slice or tile of a coded picture lies in the access unit, its header in it (R141). -/
def wfRun (bytes : Nat) (r : CodedRun) : Bool := r.head ≤ r.len && r.at_ + r.len ≤ bytes

/-- A coded picture (R141): its size, the size of its units, its slices or tiles. -/
def wfCoded (a : AccessUnit) : Bool := wfSize a.width a.height && 0 < a.unit && a.runs.all (wfRun a.data.length)

/-- The coded pictures of an access unit: more than one only in AV1 (R45). -/
def wfUnits (l : List AccessUnit) : Bool := l.all wfCoded && (l.length ≤ 1 || l.all (·.codec == 3))

/-- A TS packet (R205): PID, continuity_counter and payload. -/
def wfTs (t : TsIn) : Bool := t.pid < 8192 && t.cc < 16 && t.data.length ≤ 184 && t.au.all wfUnits

/-- A code of a SAD (R94). -/
def wfCodes (l : List Nat) : Bool := l.all (· < 1024)

/-- The operands of a command are in range. -/
def Instr.wellFormed : Instr → Bool
  | .registerWrite fn page off size _ => wfAccess fn.val page off size
  | .expertKeyWrite fn page _ => wfPage fn.val page
  | .rcFieldRead fn page off size _ => wfAccess fn.val page off size
  | .quantityLowWordRead fn page off size => wfAccess fn.val page off size
  | .quantityLowerWordWrite fn page off _ => wfReg fn.val page off
  | .quantityHighestWordWrite fn page off _ => wfReg fn.val page off
  | .ppLayerBaseWrite fn page _ => wfPage fn.val page
  | .offPageAccess fn page off _ => wfReg fn.val page off
  | .commandFetch _ _ host => host.length == 16
  | .opSubmit _ _ la au => wfUnits au && wfCodes la.codes
  | .searchJobComplete _ _ codes => wfCodes codes
  | .ppuJobIssue _ bus failed => bus.length ≤ 16 && (bus.all fun b => b.words.length == 8) && failed.all (· < 16)
  | .accessUnitTimeout _ au => wfUnits au
  | .packetRelease _ ts => ts.all wfTs
  | .codingUnitCoded _ _ tag => tag.cycles.length == 8 && tag.causes.length == 8
  | .calDone _ resid trim => resid.length == 32 && trim.length == 32
  | .sensorSample v => v.temps.length == 24 && v.volts.length == 12 && v.amps.length == 11
  | .chipPowerOnResetRelease _ _ offsets => offsets.length == 24
  | .interleaveTableWrite rates eyes => rates.length == 24 && eyes.length == 48
  | .runDone _ errs => errs.length == 18
  | .portEnable _ _ eyes => eyes.length ≤ 8
  | .dramRequest _ addr data => addr < 2 ^ 64 && addr % 64 + data.length ≤ 64
  | .agent via _ msg => via == .pf || msg.length == 16
  | .updData via _ _ _ msg _ => via == .pf || msg.length ≤ 1024
  | .faultRaise page _ _ => page < 0x4000
  | .faultForce page _ => page < 0x4000
  | .faultFirstClear page => page < 0x4000
  | .blockResetEnd page => page < 0x4000
  | .shadowClose page => page < 0x4000
  | .stageWatchdogExpiry page _ _ => page < 0x4000
  | .pcieLinkUp speed width => 1 ≤ speed.val && [1, 2, 4, 8, 16].contains width.val
  | .sqDoorbell .. | .cqDoorbell .. | .ringReset .. | .ringEnable .. | .ringDisable .. | .cqEntryWrite ..
  | .ringHoldExpiry .. | .ringLinkErr .. | .opOpen .. | .opConfigure .. | .opStart .. | .opFlush ..
  | .opReconfig .. | .opForceKey .. | .opSetRate .. | .opLink .. | .opBind .. | .opQuery .. | .opClose ..
  | .undefinedOpcode .. | .pictureEnterCoding .. | .functionLevelReset .. | .linkDown .. | .vfEnableChange ..
  | .placeWork .. | .segmentFirstCtu .. | .ctuRowComplete .. | .segmentReturn .. | .searchJobIssue ..
  | .searchWaitExpiry .. | .searchDeadlineFallback .. | .selftestStart ..
  | .selftestEnd .. | .engineRetire .. | .engineAdmit .. | .engineDrained .. | .capacityWrite ..
  | .verifyJobComplete .. | .verifyWaive .. | .boundaryJobComplete .. | .overloadWindow .. | .shedUndo ..
  | .driftCheck .. | .calReq .. | .micaRetire .. | .micaAdmit .. | .tileMaskWrite .. | .minTilesWrite ..
  | .decodePartComplete .. | .ppuJobComplete .. | .netModeWrite .. | .linkChange ..
  | .anDone .. | .frameReceive .. | .flowRead .. | .flowWrite .. | .flowEnable ..
  | .flowDisable .. | .serviceRead .. | .serviceWrite .. | .serviceEnable .. | .serviceDisable ..
  | .psiRepeat .. | .muxPacketSlot .. | .audioDrop .. | .datagramFlush .. | .storeMove .. | .ptpMessage ..
  | .announceReceiptTimeout .. | .membershipReport .. | .winRead .. | .winWrite .. | .queueEnable ..
  | .queueDisable .. | .queueAlloc .. | .queueFree .. | .queueDrained .. | .ageDrop .. | .refillTick ..
  | .shaperWrite .. | .portFrameStart .. | .gateCommit .. | .gateCancel .. | .gateSwap .. | .gateEntryChange ..
  | .sampleTick .. | .sampleSwap .. | .dramIssue .. | .refreshInterval .. | .refreshIssue .. | .mr4Poll ..
  | .regionEnable .. | .regionDisable .. | .initDone .. | .trainingRun .. | .poolEnable .. | .poolDisable ..
  | .talusAlloc .. | .talusFree .. | .chOwnerWrite .. | .dmaArm .. | .dmaAbort .. | .promotion .. | .dmaBurst ..
  | .dmaStatusWrite .. | .irqDelivery .. | .claimRead .. | .eoi .. | .pendWithdraw .. | .swiTrig ..
  | .holdoffExpiry .. | .msixUnmask .. | .powerDown .. | .powerUp .. | .domainQuiet .. | .rampEnd ..
  | .pdTimeoutExpiry .. | .domainWake .. | .domainOn .. | .wakeFail .. | .idlePowerGate .. | .offPageIdle ..
  | .railsGood .. | .aonPowerOnResetRelease .. | .railFail .. | .avsAckWrite .. | .engFreqWrite ..
  | .engClkRelock .. | .rtcLoss .. | .firmwareVerified .. | .perstNAssert .. | .perstNDeassert ..
  | .chipReset .. | .logEntryWrite .. | .logEntryClose .. | .logNorCopy .. | .heartbeatKick ..
  | .heartbeatToggle .. | .updBegin .. | .updCommit .. | .updAbort .. | .updateLockTimeout ..
  | .restartBedrock .. | .qzUpdate .. | .contextMove .. | .avsAck .. | .agentPoll .. | .mctpControlMessage ..
  | .alertResponseRead .. | .dumpTick .. | .perfClear .. | .gpioInputChange .. | .bedrockRomCheck ..
  | .quartzLoaded .. | .msixEnableChange .. | .aspmL1Transition .. | .uartConsoleInput .. | .mailboxBadCmd ..
  | .dumpRecordWritten .. => true

end Sys2Proof
end

