-- ==== Sys2Proof/Tests/Slice0.lean ====
section
/-! SUPPORT. Tests of the model on small states: well-formedness, a few commands whose results the spec states, and, for
every statement with hypotheses, operands and a state that meet them. -/

set_option Elab.async false
set_option maxRecDepth 20000

open Sys2Proof Sys2Proof.Machine

namespace Sys2Proof.Tests

/-! ### States that the tests start from -/

/-- Two sorted tables in one; where both have a key, the first one's entry stays. -/
def merge : Tbl Word → Tbl Word → Tbl Word
  | [], t => t
  | x :: r, t => t.takeWhile (·.1 < x.1) ++ x :: merge r (t.dropWhile (·.1 ≤ x.1))

/-- Registers with these values: page, offset, value (none of them the register's default). -/
def withRegs (s : State) (l : List (Nat × Nat × Nat)) : State :=
  let new := l.foldl (fun t x => tins (regKey x.1 x.2.1) (BitVec.ofNat 32 x.2.2) (t.filter (·.1 != regKey x.1 x.2.1))) []
  { s with regs := merge new s.regs }

/-- Registers at their default values again: page, offset. -/
def noRegs (s : State) (l : List (Nat × Nat)) : State :=
  { s with regs := s.regs.filter fun kv => !l.any fun x => regKey x.1 x.2 == kv.1 }

/-- A run of registers: `n` pages from `page`, offset, value. -/
def run (page n off v : Nat) : List (Nat × Word) := (List.range n).map fun i => (regKey (page + i) off, BitVec.ofNat 32 v)

/-- The device in service: every domain is ON, every unit serves, and no work is held. -/
def up : State :=
  { State.reset with
    devtime := 10 ^ 10
    regs := [(0x40, -1), (0x44, -1), (0x48, 2)] ++ (List.range 60).map (fun d => (regKey 0x10 (0x100 + 4 * d), 2)) ++
      run 0x60 24 0x40 0x2002 ++ run 0xA0 18 4 0x25 ++ run 0xC0 18 4 0x25 ++
      [(regKey 0xE0 4, 0x25), (regKey 0xE0 0x40, 0x2002), (regKey 0xE0 0x44, -1), (regKey 0xE1 4, 0x25), (regKey 0xE1 0x40, 0x2002), (regKey 0xE1 0x44, -1)] ++
      run 0xE8 2 4 0x25 ++ run 0xF0 8 4 0x25
    chip := { State.reset.chip with
      rails := List.replicate 11 true, padsOn := true, por := false, aonUp := true, perst := false, cfgOk := true
      romOk := true, fwRuns := true, memReady := true }
    bdrk := { State.reset.bdrk with qzUp := [true, true] } }

/-- The same with no register off its default but the domains that are ON (0 is always on) and the bring-up bits. -/
def lite : State := { up with regs := [(0x40, -1), (0x44, -1), (0x48, 2), (regKey 0x10 0x100, 2)] }

/-- A descriptor (R33). -/
def cmd (op tag ctx gen : Nat) (ps : List Nat) : Desc :=
  ⟨((op + 2 ^ 16 * tag) :: (ctx + 2 ^ 8 * gen) :: (ps ++ List.replicate (14 - ps.length) 0)).map (BitVec.ofNat 32), 8⟩

/-- A command has been fetched from ring `k`. -/
def posted (s : State) (k : Nat) (d : Desc) : State := modRing s k ({ · with fetched := [d] })

/-- CTX.STATE: state, kind, class, generation, owner. -/
def ctxReg (st kind cls gen own : Nat) : Nat := st + 2 ^ 11 * kind + 2 ^ 8 * cls + 2 ^ 16 * gen + 2 ^ 24 * own

/-- Context `c` in state `st` is an encode context (kind 0) or another one: 640 × 480 at 30 frames a second, HEVC, in the
staged and the active set. -/
def ctxOf (s : State) (c st kind : Nat) : State :=
  withRegs s [(0x400 + c, 0x40, 1), (0x400 + c, 0x44, 2 ^ 16 * 480 + 640), (0x400 + c, 0x48, 2 ^ 16 + 30),
    (0x400 + c, 0x200, ctxReg st kind 0 7 0),
    (0x400 + c, 0x240, 1), (0x400 + c, 0x244, 2 ^ 16 * 480 + 640), (0x400 + c, 0x248, 2 ^ 16 + 30)]

/-- Every Talus pool is enabled with 1,000 buffers, under inline ECC. -/
def pools (s : State) : State :=
  withRegs s ((0x60, 0x208, 0x10000) :: (0x60, 0x20C, 3) :: (List.range 8).map fun p => (0x50, 0x108 + 16 * p, 2 ^ 24 + 1000))

/-- A descriptor of an HEVC segment of four 32 × 32 units. -/
def desc0 : SegDesc :=
  { codec := 1, depth10 := false, c422 := false, profile := 1, level := 31, area := ⟨0, 0, 4, 2⟩, unit := 32, cols := 2
    tools := [], rdoq := true, intra := true, tid := 0, scale := 128, qps := [30, 31, 32, 33], recover := [], fresh := none
    clean := [], wp := false }

/-- No samples. -/
def noSamples : Samples := ⟨[], [], []⟩

/-- A segment in phase `ph`. -/
def seg (ph : SegPhase) : Seg :=
  { phase := ph, band := 0, strip := 0, units := 4, px := 4096, rows := 2, budget := 4000, rbound := 100, dS := 20000000000
    cS := 20000000000, digital := false, record := false, recDigital := false, bank := 0, issued := none, sunits := 1
    written := 0
    verify := false, vwait := false, vdone := false, waived := false, rowsOut := 0, bytesOut := 0, rowsDone := 0, bits := 0
    crc := 0, runBits := 0, ended := false, ration := [], qpSum := 0, qpMin := 51, qpMax := 0, ee := 0, redo := 0, runs := []
    avoid := [], unmasked := false, cut := false, edge := 0, edgeEe := 0, edgeCrc := 0, edgeOut := noSamples, eruns := []
    code := [], runCode := [], clean := true, recAt := none, rowBits := [], desc := desc0, head := [] }

/-- Picture 0 with these segments, under GUARD PICTURE. -/
def pic (gs : List Seg) : Pic :=
  { num := 0, sub := 0, pts := 50, dts := 50, ptype := 2, rap := true, idr := true, tid := 0, sceneCut := false
    forced := false, params := false, isRef := true, order := 0, qp := 30, rbound := 100, cplx := 1000, hdr := 100
    filler := 0, budget := 8000, floor := 0, deadline := 20000000000, tEnter := 5, eeMask := 2 ^ 18 - 1
    deMask := 2 ^ 18 - 1, guardLv := 3, verifyMd := 1, segs := gs, done := false, doneAt := 0, sent := false, bufLevel := 0
    recover := [], effort := 1, src := noPicture, planes := noPlanes, recon := noPicture, lists := [], refs := []
    intra := true, lead := [], tail := [], rate := noRate, carries := false, recSet := 0 }

/-- Encode context 3 is RUNNING and codes picture 0 with these segments. -/
def coding (gs : List Seg) : State := modCtx (ctxOf (pools up) 3 3 0) 3 ({ · with pics := [pic gs] })

/-- Segment 0 of picture 0 of context 3. -/
def x0 : SegId := ⟨3, 0, 0⟩

/-- Engine `page` holds these jobs. -/
def holding (s : State) (page : Nat) (hs : List Held) : State := modEng s page ({ · with held := hs })

/-- A job that has begun, with its tracker. -/
def held (j : Job) (k : Nat) : Held :=
  { job := j, est := 1000, start := 10, begun := true, fb := false, tr := ⟨4000, k, false, 30⟩, run := run0 }

/-- The state after a command that answers one; the state itself where it does not. -/
def after (c : Instr) (s : State) : State := match exec c s with
  | .next t => t
  | _ => s

/-- The command that ring 0 of function 0 fetched has begun: descriptor, reference, state. -/
def begun (s : State) (k : Nat) : Desc × CmdRef × State := (beginCmd s k fun _ => true).getD (⟨[], 0⟩, ⟨0, 0, 0, 0, 0⟩, s)
def dOf (s : State) : Desc := (begun s 0).1
def rOf (s : State) : CmdRef := (begun s 0).2.1
def uOf (s : State) : State := (begun s 0).2.2

/-- An access unit of 640 × 480, one slice of 150 units, with a random-access point. -/
def au0 : AccessUnit :=
  { codec := 1, profile := 1, level := 31, depth10 := false, chroma422 := false, exotic := false, barred := false
    width := 640, height := 480, unit := 64, params := [1, 2], paramsHere := true, wellFormed := true, rap := true
    shown := true, rasl := false, show_ := none, fields := false, field := none, second := false, order := 0, refs := []
    keep := [], isRef := true, reorder := 2, intra := true, refreshStart := false, recovers := false
    data := List.replicate 1000 0
    runs := [⟨⟨0, 0, 10, 8⟩, 0, 80, 100, 900, 20, false, none, true, none⟩], info := { noInfo with newSeq := true } }

/-- Context 3 in state `st`; ring 0 of function 0 has fetched a command with opcode `op` for it. -/
def sent (st kind op : Nat) (ps : List Nat) : State := posted (pools (ctxOf lite 3 st kind)) 0 (cmd op 9 3 7 ps)

/-- Registers of one page. -/
def page (p : Nat) (l : List (Nat × Nat)) (s : State := up) : State := withRegs s (l.map fun x => (p, x.1, x.2))

/-! ### Well-formedness: one ill-formed command for each check, and a well-formed one -/

theorem test_wf_access : (Instr.registerWrite 0 0xA0 0x44 4 7).wellFormed = true := by decide
theorem test_wf_access_size : (Instr.registerWrite 0 0xA0 0x44 3 7).wellFormed = false := by decide
theorem test_wf_access_alignment : (Instr.registerWrite 0 0xA0 0x44 8 7).wellFormed = false := by decide
theorem test_wf_access_page : (Instr.registerWrite 0 0x4000 0x44 4 7).wellFormed = false := by decide
theorem test_wf_access_vf_page : (Instr.registerWrite 1 64 0x44 4 7).wellFormed = false := by decide
theorem test_wf_register_offset : (Instr.rcFieldRead 0 0xA0 4096 4 0).wellFormed = false := by decide
theorem test_wf_register_word : (Instr.quantityLowWordRead 0 0xA0 0x42 4).wellFormed = false := by decide
theorem test_wf_agent_page : (Instr.rcFieldRead 64 0xA0 0 4 0).wellFormed = false := by decide
theorem test_wf_key_page : (Instr.expertKeyWrite 2 64 0).wellFormed = false := by decide
theorem test_wf_descriptor : (Instr.commandFetch 0 0 [1, 2]).wellFormed = false := by decide
theorem test_wf_picture : (Instr.accessUnitTimeout 0 [{ au0 with width := 65536 }]).wellFormed = false := by decide
theorem test_wf_slice : (Instr.accessUnitTimeout 0 [{ au0 with data := [] }]).wellFormed = false := by decide
theorem test_wf_frames : (Instr.accessUnitTimeout 0 [au0, au0]).wellFormed = false := by decide
theorem test_wf_ts : (Instr.packetRelease 0 [⟨8192, false, 0, false, none, [], 0, none, none⟩]).wellFormed = false := by decide
theorem test_wf_codes : (Instr.searchJobComplete 0 ⟨0, 0, 0⟩ [1024]).wellFormed = false := by decide
theorem test_wf_layer : (Instr.ppuJobIssue 0 [⟨[0], []⟩] []).wellFormed = false := by decide
theorem test_wf_tags : (Instr.codingUnitCoded 0 none ⟨[], []⟩).wellFormed = false := by decide
theorem test_wf_residuals : (Instr.calDone 0 [1] []).wellFormed = false := by decide
theorem test_wf_sensors : (Instr.sensorSample ⟨[], [], []⟩).wellFormed = false := by decide
theorem test_wf_offsets : (Instr.chipPowerOnResetRelease 0 0 [0]).wellFormed = false := by decide
theorem test_wf_rates : (Instr.interleaveTableWrite [none] []).wellFormed = false := by decide
theorem test_wf_errors : (Instr.runDone 0 [0]).wellFormed = false := by decide
theorem test_wf_eyes : (Instr.portEnable 0 0 (List.replicate 9 0)).wellFormed = false := by decide
theorem test_wf_granule : (Instr.dramRequest false 63 [none, none]).wellFormed = false := by decide
theorem test_wf_message : (Instr.agent .mctp 0 [1]).wellFormed = false := by decide
theorem test_wf_update : (Instr.updData .mctp 0 0 0 (List.replicate 1025 0) false).wellFormed = false := by decide +kernel
theorem test_wf_block : (Instr.faultForce 0x4000 0).wellFormed = false := by decide
theorem test_wf_link : (Instr.pcieLinkUp 0 16).wellFormed = false := by decide

/-! ### Results that the spec states

The expected values are the spec's, worked by hand from the rule named in the theorem's docstring. -/

/-- R350 and the CHIP page: PART 0x9256 and SILICON 0xA1 at reset. -/
theorem test_reset_chip_id : rget State.reset 0 0x60 = 0xA1009256 := by decide +kernel

/-- R64: CRC-32 of the bytes of "12345678", two to a sample, least significant first. -/
theorem test_crc : segCrc ⟨[0x3231, 0x3433, 0x3635, 0x3837], [], []⟩ = 0x9AE0DAAF := by decide +kernel

/-- R27: a tail index outside the ring sets DB_ERR and moves nothing. -/
theorem test_doorbell_error :
    let t := after (.sqDoorbell 0 0 32) (page 0x140 [(0x210, 0x551)] lite)
    rfield t 0 F.FN_RING_STAT_DB_ERR = 1 ∧ rfield t 0 F.FN_RING_SQ_TAIL_TAIL = 0 := by decide +kernel

/-- R27: with 32 slots at most 31 descriptors stand in the SQ. -/
theorem test_doorbell_full :
    let t := after (.sqDoorbell 0 0 31) (page 0x140 [(0x210, 0x551)] lite)
    rfield t 0 F.FN_RING_STAT_DB_ERR = 0 ∧ rfield t 0 F.FN_RING_SQ_TAIL_TAIL = 31 := by decide +kernel

/-- R42: FLUSH while the context is CONFIGURED ends with STATE_CONFLICT, 0x11. -/
theorem test_flush_configured :
    ((getRing (after (.opFlush 0 0) (sent 2 0 5 [])) 0).comps.map CqEntry.status) = [0x11] := by decide +kernel

/-- R38, R42: START moves a CONFIGURED context to RUNNING and ends with OK. -/
theorem test_start :
    let t := after (.opStart 0 0) (sent 2 0 3 [])
    ctxState t 3 = 3 ∧ (getRing t 0).comps.map CqEntry.status = [0] := by decide +kernel

/-- R34: a command with a stale generation ends with STATE_CONFLICT. -/
theorem test_stale_generation :
    ((getRing (after (.opStart 0 0) (posted (ctxOf lite 3 2 0) 0 (cmd 3 9 3 6 []))) 0).comps.map CqEntry.status) =
      [0x11] := by decide +kernel

/-- R249: a handle is POOL in bits 31 to 28 and the index below; the lowest free buffer is taken. -/
theorem test_talus_alloc :
    (after (.talusAlloc 5 1) { pools lite with talus := [(0x10000000, ⟨1, false⟩)] }).out = [.readData 5 0x10000001] := by
  decide +kernel

/-- R249: no buffer is left. -/
theorem test_talus_empty : (after (.talusAlloc 5 1) lite).out = [.readData 5 0xFFFFFFFF] := by decide +kernel

/-- R285: a claim of nothing answers 0x3FF and counts as spurious. -/
theorem test_claim_spurious :
    let t := after (.claimRead 64 none) lite
    t.out = [.readData 64 0x3FF] ∧ fget t 0x20 F.IRQ0_CNT_SPURIOUS_COUNT = 1 := by decide +kernel

/-- R9: key 0x5EA7 unlocks the page it is written to. -/
theorem test_expert_key :
    let t := after (.expertKeyWrite 0 0xA0 0x5EA7) (page 0x10 [(0x104, 2)] lite)
    unlocked t 0xA0 = true ∧ unlocked t 0xA1 = false := by decide +kernel

/-- R236: an access above the populated capacity stops. -/
theorem test_dram_hole : exec (.dramRequest false (2 ^ 40) []) lite = .fault .noSuchAccess := by rfl

/-- R305: ENG_FREQ takes steps 0 to 11. -/
theorem test_eng_freq :
    fget (after (.engFreqWrite 11) lite) 0x11 F.CLK_ENG_FREQ_STEP = 11 ∧
    fget (after (.engFreqWrite 12) lite) 0x11 F.CLK_ENG_FREQ_STEP = fget lite 0x11 F.CLK_ENG_FREQ_STEP := by
  decide +kernel

/-- R297: POWER_DOWN of a number that names no domain answers 4. -/
theorem test_no_such_domain :
    fget (after (.powerDown 60) lite) 0x10 F.PWR_DOM_CMD_RESULT = 4 := by decide +kernel

/-- R195: a mode above 4 is refused; R194: five modes. -/
theorem test_net_mode :
    netMode (after (.netModeWrite 4) lite) = 4 ∧ netMode (after (.netModeWrite 5) lite) = netMode lite := by
  decide +kernel

/-- R270: ABORT of an active transfer ends it with code 0x01, the bytes not moved as the residue. -/
theorem test_dma_abort :
    let s := modChan (page 0x41 [(0x410, 1000), (0x414, 1)] lite) 0 ({ · with active := true, done := 600, seq := 2 })
    (getChan (after (.dmaAbort 0 0) s) 0).pend.map (fun w => (w.code, w.seq, w.residue)) = [(1, 2, 400)] := by
  decide +kernel

/-- R188 and R185, the worked example of the picture processing section: the blended sample, and its dithered 8-bit values. -/
theorem test_blend : layerAlpha 192 255 = 192 ∧ knownYcc (2, false) 0 255 255 255 = 940 ∧ blend 192 940 300 = 782 ∧
    narrow true 4 700 782 = 195 ∧ narrow true 4 701 782 = 196 := by decide +kernel

/-- R183: output sample 0 of a 3 : 2 reduction takes position (1.5 − 1) / 2, 16 sixty-fourths. -/
theorem test_scale_position : srcPos 0 1920 1280 = 16 := by decide

/-- R190: W at LOW, S at HIGH, half way between them the rounded mean. -/
theorem test_deinterlace :
    deintSample 100 301 8 8 24 = 100 ∧ deintSample 100 301 24 8 24 = 301 ∧ deintSample 100 301 16 8 24 = 201 := by decide

/-- R143, the worked example of the decode section: a received neighbour above offers (+13, −6) quarter samples, and with no
neighbour the reference stores (+8, 0) at the centre of the unit. -/
theorem test_concealment_vector :
    let base : Picture := { noPicture with luma := ⟨4, 4, #[1, 2, 3, 4, 5, 6, 7, 8, 0, 0, 0, 0, 0, 0, 0, 0]⟩ }
    let d : Damaged := ⟨4, 4, false, false, base, [⟨0, 2, 4, 2⟩]⟩
    let ref : Picture := { noPicture with motion := [⟨0, 0, 4, 4, 32, 0⟩] }
    d.vector [⟨0, 0, 4, 2, 52, -24⟩] ref ⟨0, 2, 4, 2⟩ = (3, -1) ∧ d.vector [] ref ⟨0, 2, 4, 2⟩ = (2, 0) := by decide +kernel

/-- R142: a lost sample at distance 1 from 10 and 3 from 30 becomes (10 + 30 / 3) / (4 / 3) = 15. -/
theorem test_concealment_mean : inverseMean [(1, 10), (3, 30)] = 15 := by decide

/-- R89: each sample of a reduced plane is the rounded mean of four. -/
theorem test_decimation : (decimate 4 2 fun x y => [1, 2, 5, 6, 2, 2, 7, 9].getD (4 * y + x) 0).data = #[2, 7] := by decide +kernel

/-- R94: distinct positions, lowest codes first, equal codes by the smaller |x| + |y|, then by raster order. -/
theorem test_best_four :
    (best4 (around (0, 0) (window 1 1 3 3)) fun i _ => [5, 9, 5, 9, 5, 9, 9, 5, 9].getD i 9).map (fun c => (c.x, c.y)) =
      [(0, 0), (0, 1), (-1, -1), (1, -1)] := by decide +kernel

/-- R94: the full scale of a code is 16,368. -/
theorem test_sad_code : sadCode 16367 = 1023 ∧ sadCode 16368 = 1023 ∧ sadCode 20000 = 1023 ∧ sadCode 160 = 10 := by decide

/-! ### Witnesses

`witness_<name>` applies statement `<name>` at concrete operands and a concrete state: the proof discharges every
hypothesis of the clause by evaluation, and what is left is that the command answers a next state there. -/

/-- Command `c` answers a next state from `s`. -/
def Runs (c : Instr) (s : State) : Prop := ∃ t, exec c s = .next t

theorem Does.runs {c : Instr} {s : State} {P : State → Prop} (h : Does c s P) : Runs c s := h.imp fun _ p => p.1

theorem begin_of {s : State} {k : Nat} {want : Nat → Bool} (h : (beginCmd s k want).isSome = true) :
    beginCmd s k want = some ((begun s k).1, (begun s k).2.1, (begun s k).2.2) := by
  revert h
  unfold begun beginCmd
  split
  · intro h; cases h
  · dsimp only
    split <;> rename_i hc
    · intro _
      rw [if_pos (by simp only [Bool.and_eq_true] at hc ⊢; exact ⟨trivial, hc.2⟩)]
      rfl
    · intro h; cases h

theorem noneWait_tbl (t : Tbl Ctx) (c : Nat) (h : (t.all fun kv => kv.2.outWait == []) = true) :
    (tget ctx0 t c).outWait = [] := by
  induction t with
  | nil => rfl
  | cons a t ih =>
    obtain ⟨k, v⟩ := a
    rw [List.all_cons, Bool.and_eq_true] at h
    unfold tget
    split
    · exact eq_of_beq h.1
    · exact ih h.2

theorem noneWait_of {s : State} (h : (s.ctxs.all fun kv => kv.2.outWait == []) = true) : NoneWait s :=
  fun c => noneWait_tbl s.ctxs c h

theorem waits_of {s : State} {x : SegId} {p : Pic} {g : Seg}
    (h : findSeg s x = some (p, g) ∧ (getCtx s x.ctx).pics = [p] ∧ p.sent = false ∧ p.done = false ∧ p.guardLv = 3 ∧
      (x.seg = 0 ∧ p.segs[1]? = some (seg .running)) ∧ (getCtx s x.ctx).oldMem = [] ∧ ctxState s x.ctx = 3) :
    Waits s x p g :=
  ⟨h.1, h.2.1, h.2.2.1, h.2.2.2.1, h.2.2.2.2.1,
    ⟨1, _, by rw [h.2.2.2.2.2.1.1]; decide, h.2.2.2.2.2.1.2, rfl⟩, h.2.2.2.2.2.2.1, h.2.2.2.2.2.2.2⟩

theorem kindOf_ctx {c : Nat} (h : c < 256) : kindOf (0x400 + c) = .ctx := by
  unfold kindOf
  repeat rw [if_neg (by omega)]
  rw [if_pos (by omega)]

theorem ctxState_default {c : Nat} (h : c < 256) : regDefault (regKey (0x400 + c) 0x200) = 0x7F000000 := by
  have hk : regKey (0x400 + c) 0x200 = 4096 * (0x400 + c) + 0x200 := by unfold regKey; omega
  have hr : resetWord (0x400 + c) 0x200 = 0x7F000000 := by
    unfold resetWord rowsAt hwReset
    rw [if_neg (by omega), kindOf_ctx h]
    repeat rw [if_neg (by omega)]
    show List.foldr (fun r n => n + r.rst * 2 ^ r.lo) 0 (List.filter (fun x => x.covers 512) rowsCTX) = 0x7F000000
    decide +kernel
  unfold regDefault
  rw [hk, show (4096 * (0x400 + c) + 0x200) / 4096 = 0x400 + c by omega,
    show (4096 * (0x400 + c) + 0x200) % 4096 = 0x200 by omega, hr]
  rfl

theorem tget_none {α : Type} (d : α) (t : Tbl α) (q : Nat) (h : ∀ kv ∈ t, kv.1 ≠ q) : tget d t q = d := by
  induction t with
  | nil => rfl
  | cons a t ih =>
    unfold tget
    rw [if_neg fun e => h a (List.mem_cons_self ..) e.symm]
    exact ih fun kv hm => h kv (List.mem_cons_of_mem _ hm)

/-- No register of a context page is off its default. -/
def noCtxRegs (s : State) : Bool := s.regs.all fun kv => kv.1 < 0x400000 || 0x500000 ≤ kv.1

theorem free_of {s : State} (hs : noCtxRegs s = true) {c : Nat}
    (hc : c < 256) : fget s (ctxPage c) F.CTX_STATE_STATE = 0 := by
  have hd : rget s (ctxPage c) 0x200 = 0x7F000000 := by
    unfold rget ctxPage
    rw [tget_none _ _ _ fun kv hm e => ?_, ctxState_default hc]
    · rfl
    · have := List.all_eq_true.mp hs kv hm
      simp only [Bool.or_eq_true, decide_eq_true_eq] at this
      unfold regKey at e
      omega
  have ho : rget s (ctxPage c) (F.CTX_STATE_STATE.at 0) = 0x7F000000 := hd
  unfold fget
  rw [ho]
  rfl

theorem noFlow_of {s : State} (n : Nat) (hs : noCtxRegs s = true) :
    ∀ c < 256, usesFlow s n c = false := fun c hc => by unfold usesFlow; rw [free_of hs hc]; rfl

theorem noSvc_of {s : State} (n : Nat) (hs : noCtxRegs s = true) :
    ∀ c < 256, usesSvc s n c = false := fun c hc => by unfold usesSvc; rw [free_of hs hc]; rfl

theorem svcFree_of {s : State} (n : Nat) (hs : noCtxRegs s = true) :
    svcInUse s n = false := by
  unfold svcInUse
  rw [List.any_eq_false]
  intro c hc
  rw [noSvc_of n hs c (List.mem_range.mp hc), Bool.and_false]
  exact Bool.false_ne_true

theorem noneHosted_of {s : State} (q : Nat)
    (hs : noCtxRegs s = true) : hostedOn s q = 0 := by
  unfold hostedOn
  rw [List.length_eq_zero_iff, List.filter_eq_nil_iff]
  intro c hc
  unfold ctxState
  rw [free_of hs (List.mem_range.mp hc)]
  exact Bool.false_ne_true

def ringOn : State := page 0x140 [(0x210, 0x551)]
def ringHold : State := modRing (page 0x140 [(0x224, 0x50000)] ringOn) 0 ({ · with unnoted := 1, oldest := 5 })

theorem witness_ringControl (h : Obligations.RingControl) :
    Runs (.ringReset 0 0) ringOn ∧
    Runs (.ringReset 0 0) up ∧
    Runs (.ringEnable 0 0 0xC41) up ∧
    Runs (.ringEnable 0 0 0x531) up ∧
    Runs (.ringEnable 0 0 0x651) ringOn ∧
    Runs (.ringHoldExpiry 0 0) ringHold := by
  refine ⟨Does.runs ((h 0 0 0x651 ringOn).1 ?_),
    Does.runs ((h 0 0 0xC41 up).2.1 ?_),
    Does.runs ((h 0 0 0xC41 up).2.2.1 ?_ ?_),
    Does.runs ((h 0 0 0x531 up).2.2.2.1 ?_ ?_),
    Does.runs ((h 0 0 0x651 ringOn).2.2.2.2.1 ?_ ?_),
    Does.runs ((h 0 0 0x651 ringHold).2.2.2.2.2.2.1 ?_ ?_ ?_)⟩ <;>
    decide +kernel

def cqFull : State := modRing ringOn 0 ({ · with comps := List.replicate 31 ⟨0, 0, 0, 0, 0, 0, 0, 0, 0, 0, false, none⟩ })
def agentSends : State := { up with bdrk := { up.bdrk with agentSq := [cmd 1 1 0 0 [], cmd 1 2 0 0 []] } }

theorem witness_commandFetch (h : Obligations.CommandFetch) :
    Runs (.commandFetch 0 0 [1, 2]) cqFull ∧
    Runs (.commandFetch 63 3 [1, 2]) (page (fnPage 63) [(0x2D0, 0x551), (0x2D4, 1)]) ∧
    Runs (.commandFetch 64 0 []) agentSends := by
  refine ⟨Does.runs ((h 0 0 [1, 2] cqFull).1 ?_),
    Does.runs ((h 63 3 [1, 2] (page (fnPage 63) [(0x2D0, 0x551), (0x2D4, 1)])).2.1 ?_ ?_ ?_ ?_),
    Does.runs ((h 64 0 [] agentSends).2.2 (cmd 1 1 0 0 []) [cmd 1 2 0 0 []] ?_ ?_ ?_)⟩ <;>
    decide +kernel

def entry (tag : Nat) : CqEntry := ⟨0x10, 0, tag, 3, 1, 2, 77, 8, 9, 10, false, none⟩
def cqEnds : State := modRing (page 0x140 [(0x220, 2 ^ 16 + 31)] ringOn) 0 ({ · with comps := [entry 5, entry 6] })
def agentEnds : State := modRing up 256 ({ · with comps := [entry 5, entry 6] })

theorem witness_cqEntryIsOneWrite (h : Obligations.CqEntryIsOneWrite) :
    Runs (.cqEntryWrite 0 0) cqEnds ∧
    Runs (.cqEntryWrite 64 0) agentEnds := by
  refine ⟨Does.runs ((h 0 0 _ (entry 5) [entry 6] ?_ ?_ ?_).1 0 ?_ ?_),
    Does.runs ((h 64 0 _ (entry 5) [entry 6] ?_ ?_ ?_).2 ?_)⟩ <;>
    decide +kernel

/-- A command for a context that is FREE, with the right form. -/
def stale (op : Nat) : State := posted up 0 (cmd op 9 3 6 [])

theorem witness_failingCommandsHaveNoEffect (h : Obligations.FailingCommandsHaveNoEffect) :
    Runs (.opConfigure 0 0) (stale 2) ∧
    Runs (.opStart 0 0) (stale 3) ∧
    Runs (.opSubmit 0 0 noCodes []) (stale 4) ∧
    Runs (.opFlush 0 0) (stale 5) ∧
    Runs (.opReconfig 0 0) (stale 6) ∧
    Runs (.opForceKey 0 0) (stale 7) ∧
    Runs (.opSetRate 0 0) (stale 8) ∧
    Runs (.opLink 0 0) (stale 9) ∧
    Runs (.opBind 0 0) (stale 10) ∧
    Runs (.opQuery 0 0) (stale 11) ∧
    Runs (.opClose 0 0) (stale 15) ∧
    Runs (.undefinedOpcode 0 0) (stale 12) := by
  refine ⟨Does.runs ((h 0 0 (stale 2) (uOf (stale 2)) (dOf (stale 2)) (rOf (stale 2)) 0x11 noCodes []).1 (begin_of
        (by decide +kernel)) ?_),
    Does.runs ((h 0 0 (stale 3) (uOf (stale 3)) (dOf (stale 3)) (rOf (stale 3)) 0x11 noCodes []).2.1 (begin_of
        (by decide +kernel)) ?_),
    Does.runs ((h 0 0 (stale 4) (uOf (stale 4)) (dOf (stale 4)) (rOf (stale 4)) 0x11 noCodes []).2.2.1 (begin_of
        (by decide +kernel)) ?_),
    Does.runs ((h 0 0 (stale 5) (uOf (stale 5)) (dOf (stale 5)) (rOf (stale 5)) 0x11 noCodes []).2.2.2.1 (begin_of
        (by decide +kernel)) ?_),
    Does.runs ((h 0 0 (stale 6) (uOf (stale 6)) (dOf (stale 6)) (rOf (stale 6)) 0x11 noCodes []).2.2.2.2.1
        (begin_of (by decide +kernel)) ?_),
    Does.runs ((h 0 0 (stale 7) (uOf (stale 7)) (dOf (stale 7)) (rOf (stale 7)) 0x11 noCodes []).2.2.2.2.2.1
        (begin_of (by decide +kernel)) ?_),
    Does.runs ((h 0 0 (stale 8) (uOf (stale 8)) (dOf (stale 8)) (rOf (stale 8)) 0x11 noCodes []).2.2.2.2.2.2.1
        (begin_of (by decide +kernel)) ?_),
    Does.runs ((h 0 0 (stale 9) (uOf (stale 9)) (dOf (stale 9)) (rOf (stale 9)) 0x11 noCodes []).2.2.2.2.2.2.2.1
        (begin_of (by decide +kernel)) ?_),
    Does.runs ((h 0 0 (stale 10) (uOf (stale 10)) (dOf (stale 10)) (rOf (stale 10)) 0x11 noCodes []).2.2.2.2.2.2.2.2.1 (begin_of (by decide +kernel)) ?_),
    Does.runs ((h 0 0 (stale 11) (uOf (stale 11)) (dOf (stale 11)) (rOf (stale 11)) 0x11 noCodes []).2.2.2.2.2.2.2.2.2.1 (begin_of (by decide +kernel)) ?_),
    Does.runs ((h 0 0 (stale 15) (uOf (stale 15)) (dOf (stale 15)) (rOf (stale 15)) 0x11 noCodes []).2.2.2.2.2.2.2.2.2.2.1 (begin_of (by decide +kernel)) ?_),
    Does.runs ((h 0 0 (stale 12) (uOf (stale 12)) (dOf (stale 12)) (rOf (stale 12)) 0x11 noCodes []).2.2.2.2.2.2.2.2.2.2.2 (begin_of (by decide +kernel)))⟩ <;>
    decide +kernel

/-- Context 4 is FREE with generation 255, and OPEN asks for context `p1`. -/
def opens (k p0 p1 : Nat) : State :=
  posted (withRegs (ctxOf up 3 3 0) [(0x404, 0x200, ctxReg 0 0 0 255 0x7F), (0x140, 0x44, 0x45)]) k (cmd 1 9 0 0 [p0, p1])

theorem witness_openTakesAContext (h : Obligations.OpenTakesAContext) :
    Runs (.opOpen 0 0) (opens 0 0 0x1FF) := by
  refine Does.runs (h.1 0 0 (opens 0 0 0x1FF) (uOf (opens 0 0 0x1FF)) (dOf (opens 0 0 0x1FF)) (rOf (opens 0 0 0x1FF)) 0 0
        (begin_of (by decide +kernel)) ?_ ?_ ?_ ?_ ?_) <;>
    decide +kernel

def links : State :=
  withRegs (ctxOf (posted (pools (ctxOf up 3 3 1)) 0 (cmd 9 9 3 7 [5 + 7 * 256])) 5 2 0) [(0x405, 0x24C, 2), (0x405, 0x4C, 2)]
/-- Context 3 has context 5 as a destination, and a LINK takes it away. -/
def unlinks : State := posted { after (.opLink 0 0) links with rings := [] } 0 (cmd 9 9 3 7 [5 + 2 ^ 16])

theorem witness_atOnceCommands (h : Obligations.AtOnceCommands) :
    Runs (.opStart 0 0) (sent 2 0 3 []) ∧
    Runs (.opQuery 0 0) (sent 2 0 0xB [1]) ∧
    Runs (.opLink 0 0) links ∧
    Runs (.opLink 0 0) unlinks ∧
    Runs (.opBind 0 0) (page 0x403 [(0xC, 2 ^ 16)] (sent 2 0 0xA [3, 5, 1])) ∧
    Runs (.undefinedOpcode 0 0) (sent 2 0 0xD []) := by
  refine ⟨Does.runs ((h 0 0 (sent 2 0 3 []) (uOf (sent 2 0 3 [])) (dOf (sent 2 0 3 [])) (rOf (sent 2 0 3 []))).1 ⟨begin_of
        (by decide +kernel), by decide +kernel⟩),
    Does.runs ((h 0 0 (sent 2 0 0xB [1]) (uOf (sent 2 0 0xB [1])) (dOf (sent 2 0 0xB [1])) (rOf (sent 2 0 0xB
        [1]))).2.1 ⟨begin_of (by decide +kernel), by decide +kernel⟩),
    Does.runs ((h 0 0 links (uOf links) (dOf links) (rOf links)).2.2.1 0 5 ⟨begin_of (by decide +kernel),
        by decide +kernel⟩ ?_ ?_ ?_ ?_ ?_ ?_ ?_ ?_ ?_ ?_ ?_ ?_),
    Does.runs ((h 0 0 unlinks (uOf unlinks) (dOf unlinks) (rOf unlinks)).2.2.2.1 0 ⟨begin_of (by decide +kernel),
        by decide +kernel⟩ ?_ ?_),
    Does.runs ((h 0 0 (page 0x403 [(0xC, 2 ^ 16)] (sent 2 0 0xA [3, 5, 1])) (uOf (page 0x403 [(0xC, 2 ^ 16)] (sent 2
        0 0xA [3, 5, 1]))) (dOf (page 0x403 [(0xC, 2 ^ 16)] (sent 2 0 0xA [3, 5, 1]))) (rOf (page 0x403 [(0xC, 2 ^ 16)]
        (sent 2 0 0xA [3, 5, 1])))).2.2.2.2.1 ⟨begin_of (by decide +kernel), by decide +kernel⟩ ?_ ?_),
    Does.runs ((h 0 0 (sent 2 0 0xD []) (uOf (sent 2 0 0xD [])) (dOf (sent 2 0 0xD [])) (rOf (sent 2 0 0xD
        []))).2.2.2.2.2 (begin_of (by decide +kernel)))⟩ <;>
    decide +kernel

/-- The state in which the staged set of context 3 has replaced the active one. -/
def newSet (s : State) : State := (replaceSet s 3 (stagedWords s 3) (staged s 3)).getD s
/-- What the settings of context 3 fail first. -/
def failsOf (s : State) : Nat × Nat := (firstFail (settingsFails s 0 (staged s 3))).getD (0, 0)
/-- A picture of 63 samples a row in the staged set. -/
def narrow (s : State) : State := page 0x403 [(0x44, 2 ^ 16 * 480 + 63)] s

theorem witness_settingsCommands (h : Obligations.SettingsCommands) :
    Runs (.opConfigure 0 0) (narrow (sent 1 0 2 [])) ∧
    Runs (.opConfigure 0 0) (sent 1 0 2 []) ∧
    Runs (.opReconfig 0 0) (narrow (sent 2 0 6 [])) ∧
    Runs (.opReconfig 0 0) (sent 2 0 6 []) ∧
    Runs (.opReconfig 0 0) (sent 3 0 6 []) ∧
    Runs (.opSetRate 0 0) (sent 2 0 8 [2 ^ 31 + 5000, 2 ^ 31 + 500, 0, 0]) ∧
    Runs (.opSetRate 0 0) (sent 3 0 8 [2 ^ 31 + 5000, 2 ^ 31 + 500, 0, 0]) := by
  refine ⟨Does.runs ((h 0 0 (narrow (sent 1 0 2 [])) (uOf (narrow (sent 1 0 2 []))) up (dOf (narrow (sent 1 0 2 []))) (rOf
        (narrow (sent 1 0 2 [])))).1 (failsOf (narrow (sent 1 0 2 []))) ⟨begin_of (by decide +kernel),
        by decide +kernel⟩ ?_),
    Does.runs ((h 0 0 (sent 1 0 2 []) (uOf (sent 1 0 2 [])) (newSet (uOf (sent 1 0 2 []))) (dOf (sent 1 0 2 []))
        (rOf (sent 1 0 2 []))).2.1 ⟨begin_of (by decide +kernel), by decide +kernel⟩ ?_ ?_ ?_ ?_ (noneWait_of
        (by decide +kernel))),
    Does.runs ((h 0 0 (narrow (sent 2 0 6 [])) (uOf (narrow (sent 2 0 6 []))) up (dOf (narrow (sent 2 0 6 []))) (rOf
        (narrow (sent 2 0 6 [])))).2.2.1 (failsOf (narrow (sent 2 0 6 []))) ⟨begin_of (by decide +kernel),
        by decide +kernel⟩ ?_),
    Does.runs ((h 0 0 (sent 2 0 6 []) (uOf (sent 2 0 6 [])) (newSet (uOf (sent 2 0 6 []))) (dOf (sent 2 0 6 []))
        (rOf (sent 2 0 6 []))).2.2.2.1 ⟨begin_of (by decide +kernel), by decide +kernel⟩ ?_ ?_ ?_ ?_ (noneWait_of
        (by decide +kernel))),
    Does.runs ((h 0 0 (sent 3 0 6 []) (uOf (sent 3 0 6 [])) (newSet (uOf (sent 3 0 6 []))) (dOf (sent 3 0 6 []))
        (rOf (sent 3 0 6 []))).2.2.2.2.1 ⟨begin_of (by decide +kernel), by decide +kernel⟩ ?_ ?_ ?_ ?_ ?_),
    Does.runs (((h 0 0 (sent 2 0 8 [2 ^ 31 + 5000, 2 ^ 31 + 500, 0, 0]) (uOf (sent 2 0 8 [2 ^ 31 + 5000, 2 ^ 31 +
        500, 0, 0])) up (dOf (sent 2 0 8 [2 ^ 31 + 5000, 2 ^ 31 + 500, 0, 0])) (rOf (sent 2 0 8 [2 ^ 31 + 5000, 2 ^ 31 +
        500, 0, 0]))).2.2.2.2.2 ⟨begin_of (by decide +kernel), by decide +kernel⟩ ?_ ?_ ?_ ?_).1 ?_),
    Does.runs (((h 0 0 (sent 3 0 8 [2 ^ 31 + 5000, 2 ^ 31 + 500, 0, 0]) (uOf (sent 3 0 8 [2 ^ 31 + 5000, 2 ^ 31 +
        500, 0, 0])) up (dOf (sent 3 0 8 [2 ^ 31 + 5000, 2 ^ 31 + 500, 0, 0])) (rOf (sent 3 0 8 [2 ^ 31 + 5000, 2 ^ 31 +
        500, 0, 0]))).2.2.2.2.2 ⟨begin_of (by decide +kernel), by decide +kernel⟩ ?_ ?_ ?_ ?_).2 ?_ ?_ ?_)⟩ <;>
    decide +kernel

def submits (stride : Nat) : State := sent 3 0 4 [0x1000, 0, stride, 0x2000, 0, 100, 0]
/-- A submitted picture with PTS `pts`. -/
def sub0 (pts : Nat) : Submit :=
  ⟨⟨0, 1, 4, 3, 7⟩, 0, pts, 0, 0, 0, 640, noCodes, noLookahead, noPicture, noPlanes, noHdr, 0, 5, none⟩
def full (s : State) : State := modCtx s 3 ({ · with submits := List.replicate 128 (sub0 50) })
def decodes : State := sent 3 1 4 [0x1000, 0, 640, 0, 0, 100, 0]
def plan0 : Plan := ⟨0, 0, true, true, false, false, true, false, 0⟩
def enters : State := modCtx (ctxOf (pools up) 3 3 0) 3 ({ · with submits := [sub0 50], subCount := 1, plan := [plan0] })
def keyNamed (x : Ctx → Ctx) : State := modCtx (sent 3 0 7 [100, 0, 0]) 3 x

theorem witness_submittedPictures (h : Obligations.SubmittedPictures) :
    Runs (.opSubmit 0 0 noCodes []) (submits 576) ∧
    Runs (.opSubmit 0 0 noCodes []) (full (submits 640)) ∧
    Runs (.opSubmit 0 0 noCodes []) (submits 640) ∧
    Runs (.opSubmit 0 0 noCodes [au0]) (page 0x403 [(0x24C, 1)] decodes) ∧
    Runs (.opSubmit 0 0 noCodes [{ au0 with rap := false }]) decodes ∧
    Runs (.opSubmit 0 0 noCodes [au0]) decodes ∧
    Runs (.opSubmit 0 0 noCodes [{ au0 with barred := true }]) decodes ∧
    Runs (.opForceKey 0 0) (sent 3 1 7 [0, 0, 1]) ∧
    Runs (.opForceKey 0 0) (sent 3 0 7 [0, 0, 1]) ∧
    Runs (.opForceKey 0 0) (keyNamed ({ · with entered := [100] })) ∧
    Runs (.opForceKey 0 0) (keyNamed id) ∧
    Runs (.opForceKey 0 0) (keyNamed ({ · with submits := [sub0 100] })) ∧
    Runs (.pictureEnterCoding 3) enters := by
  refine ⟨Does.runs (((h.1 0 0 _ _ _ _ _ _).1 ⟨begin_of (by decide +kernel), by decide +kernel⟩ ?_).1 ?_),
    Does.runs (((h.1 0 0 _ _ _ _ _ _).1 ⟨begin_of (by decide +kernel), by decide +kernel⟩ ?_).2.1 ?_ ?_),
    Does.runs (((h.1 0 0 _ _ _ _ _ _).1 ⟨begin_of (by decide +kernel), by decide +kernel⟩ ?_).2.2 ?_ ?_ ?_),
    Does.runs (((h.1 0 0 _ _ _ _ _ _).2.1 ⟨begin_of (by decide +kernel), by decide +kernel⟩ ?_).1 ?_),
    Does.runs ((((h.1 0 0 _ _ _ _ _ _).2.1 ⟨begin_of (by decide +kernel), by decide +kernel⟩ ?_).2 ?_ ?_ ?_ ?_ ?_).1 ?_),
    Does.runs (((((h.1 0 0 _ _ _ _ _ _).2.1 ⟨begin_of (by decide +kernel), by decide +kernel⟩ ?_).2 ?_ ?_ ?_ ?_ ?_).2
      au0 ?_ ?_ ?_).1 ?_ ?_ ?_),
    Does.runs (((((h.1 0 0 _ _ _ _ _ _).2.1 ⟨begin_of (by decide +kernel), by decide +kernel⟩ ?_).2 ?_ ?_ ?_ ?_ ?_).2
      { au0 with barred := true } ?_ ?_ ?_).2 ?_),
    Does.runs ((h.1 0 0 _ _ _ _ noCodes []).2.2.1 ⟨begin_of (by decide +kernel), by decide +kernel⟩ ?_),
    Does.runs ((h.1 0 0 _ _ _ _ noCodes []).2.2.2.1 ⟨begin_of (by decide +kernel), by decide +kernel⟩ ?_ ?_),
    Does.runs (((h.1 0 0 _ _ _ _ noCodes []).2.2.2.2 ⟨begin_of (by decide +kernel), by decide +kernel⟩ ?_ ?_).1 ?_),
    Does.runs (((h.1 0 0 _ _ _ _ noCodes []).2.2.2.2 ⟨begin_of (by decide +kernel), by decide +kernel⟩ ?_ ?_).2.1 ?_ ?_),
    Does.runs (((h.1 0 0 _ _ _ _ noCodes []).2.2.2.2 ⟨begin_of (by decide +kernel), by decide +kernel⟩ ?_ ?_).2.2
      (sub0 100) ?_ ?_ ?_),
    Does.runs (h.2 3 enters plan0 [] (sub0 50) ?_ ?_ ?_ ?_ ?_ ?_ ?_ ?_ ?_)⟩ <;>
    decide +kernel

/-- Context 3 has a picture that waits. -/
def busy3 (s : State) : State := modCtx s 3 ({ · with queued := [0], submits := [sub0 50] })
def vfs : State :=
  withRegs (ctxOf (pools up) 3 3 0) [(0x140, 0x44, 0x43), (0x4002, 0x210, 0x551), (0x40, 0x114, 2)]

theorem witness_drainsAndCloses (h : Obligations.DrainsAndCloses) :
    Runs (.opFlush 0 0) (busy3 (sent 3 0 5 [])) ∧
    Runs (.opFlush 0 0) (sent 3 0 5 []) ∧
    Runs (.opClose 0 0) (sent 3 0 0xF []) ∧
    Runs (.opClose 0 0) (busy3 (sent 3 0 0xF [])) ∧
    Runs (.functionLevelReset 9) vfs ∧
    Runs (.functionLevelReset 1) vfs ∧
    Runs (.functionLevelReset 0) vfs ∧
    Runs (.vfEnableChange true 0) ({ vfs with chip := { vfs.chip with cfgOk := false } }) ∧
    Runs (.vfEnableChange true 0) vfs := by
  have idle : ∀ fn < 4, ∀ c ∈ heldBy vfs fn, Idle vfs c := by unfold Idle; decide +kernel
  have two : ∀ fn ∈ 0 :: vfsOn vfs, fn < 4 := by decide +kernel
  refine ⟨Does.runs ((h.1 0 0 _ _ _ _).1 ⟨begin_of (by decide +kernel), by decide +kernel⟩ ?_),
    Does.runs ((h.1 0 0 _ _ _ _).2.1 ⟨begin_of (by decide +kernel), by decide +kernel⟩ (by unfold Idle; decide +kernel)
      (noneWait_of (by decide +kernel))),
    Does.runs ((h.1 0 0 _ _ _ _).2.2.1 ⟨begin_of (by decide +kernel), by decide +kernel⟩
      (by unfold Idle; decide +kernel) (noneWait_of (by decide +kernel))),
    Does.runs ((h.1 0 0 _ _ _ _).2.2.2 ⟨begin_of (by decide +kernel), by decide +kernel⟩ ?_ ?_ ?_),
    Does.runs ((h.2 vfs (noneWait_of (by decide +kernel))).1 9 ?_ ?_),
    Does.runs ((h.2 vfs (noneWait_of (by decide +kernel))).2.1 1 ?_ ?_ (idle 1 (by decide))),
    Does.runs ((h.2 vfs (noneWait_of (by decide +kernel))).2.2.1 fun fn m => idle fn (two fn m)),
    Does.runs ((h.2 { vfs with chip := { vfs.chip with cfgOk := false } } (noneWait_of (by decide +kernel))).2.2.2.1
      true 0 ?_),
    Does.runs ((h.2 vfs (noneWait_of (by decide +kernel))).2.2.2.2 true 0 ?_
      fun fn m _ => idle fn (two fn (List.mem_cons_of_mem _ m)))⟩ <;>
    decide +kernel

def waits0 : State := coding [seg .waitRecord, seg .running]
def noBank : State := noRegs waits0 [(0xE0, 4), (0xE1, 4)]
/-- A segment whose search job has been issued to bank 1. -/
def searched : Seg := { seg .searching with issued := some 5, bank := 1 }
def searches : State := modBank { coding [searched, seg .running] with devtime := 10 ^ 12 } 1 ({ · with jobs := [x0] })
/-- Another segment's deadline comes first. -/
def waits1 : State := coding [seg .waitRecord, { seg .waitRecord with dS := 1 }]
/-- A bank with a search unit of the job in hand. -/
def works : State :=
  modBank (coding [searched, seg .running]) 1 ({ · with jobs := [x0], work := [⟨x0, 20000000000, 132, 5, 10 ^ 10, 1, 0⟩] })

theorem witness_searchJobs (h : Obligations.SearchJobs) :
    Runs (.searchJobIssue ⟨3, 0, 0⟩) waits0 ∧
    Runs (.searchJobIssue ⟨3, 0, 0⟩) waits1 ∧
    Runs (.searchJobIssue ⟨3, 0, 0⟩) noBank ∧
    Runs (.searchJobComplete 1 ⟨3, 0, 0⟩ [5, 7]) works ∧
    Runs (.searchJobComplete 1 ⟨3, 0, 0⟩ [5, 7]) searches ∧
    Runs (.searchWaitExpiry ⟨3, 0, 0⟩) (page 0x403 [(0x254, 0x10000)] searches) ∧
    Runs (.searchDeadlineFallback ⟨3, 0, 0⟩) searches := by
  refine ⟨Does.runs ((h x0 (pic [seg .waitRecord, seg .running]) (seg .waitRecord) waits0 ?_).1 20000000000 0 ?_ ?_ ?_ ?_),
    Does.runs ((h x0 (pic [seg .waitRecord, { seg .waitRecord with dS := 1 }]) (seg .waitRecord) waits1 ?_).2.1
      20000000000 ?_ ?_ ?_),
    Does.runs ((h x0 (pic [seg .waitRecord, seg .running]) (seg .waitRecord) noBank ?_).2.2.1 20000000000 ?_ ?_),
    Does.runs (((h x0 (pic [searched, seg .running]) searched _ ?_).2.2.2.1 1 [5, 7] ?_ ?_ ?_).1 ?_),
    Does.runs (((h x0 (pic [searched, seg .running]) searched _ ?_).2.2.2.1 1 [5, 7] ?_ ?_ ?_).2 ?_),
    Does.runs ((h x0 (pic [searched, seg .running]) searched _ ?_).2.2.2.2.1 ?_ ?_),
    Does.runs ((h x0 (pic [searched, seg .running]) searched _ ?_).2.2.2.2.2 ?_ ?_)⟩ <;>
    decide +kernel

/-- Registers of bank 0. -/
def bank (l : List (Nat × Nat)) : State := page 0xE0 l
/-- Tile 0 is reserved for a drift check, and R319 makes an alert of what it may find. -/
def checks : State := after (.driftCheck 0 none) up

theorem witness_bankService (h : Obligations.BankService) :
    Runs (.calReq 0) (bank [(0x40, 0x2001)]) ∧
    Runs (.calReq 0) up ∧
    Runs (.calReq 0) (modBank up 0 ({ · with jobs := [x0] })) ∧
    Runs (.micaRetire 0) up ∧
    Runs (.micaRetire 0) (modBank up 0 ({ · with jobs := [x0] })) ∧
    Runs (.micaAdmit 0) (bank [(0x40, 0x2000), (4, 0x21)]) ∧
    Runs (.calDone 0 [] []) (bank [(0x40, 0x2001)]) ∧
    Runs (.driftCheck 0 none) up ∧
    Runs (.driftCheck 0 none) (modBank up 0 ({ · with tiles := [10 ^ 10 + 1] })) ∧
    Runs (.driftCheck 0 none) (bank [(0x44, 2)]) ∧
    Runs (.driftCheck 0 (some 200)) checks ∧
    Runs (.tileMaskWrite 0 0) up ∧
    Runs (.minTilesWrite 0 0) up ∧
    Runs (.tileMaskWrite 0 0x20) (bank [(0xC, 0x10000), (0x48, 2)]) ∧
    Runs (.minTilesWrite 0 0x20) (bank [(0xC, 0x10000), (0x48, 2)]) := by
  refine ⟨Does.runs ((h 0 _).1 ?_),
    Does.runs ((h 0 _).2.1 ?_ ?_),
    Does.runs ((h 0 _).2.2.1 ?_ ?_),
    Does.runs ((h 0 _).2.2.2.1 ?_ ?_ ?_),
    Does.runs ((h 0 _).2.2.2.2.1 ?_ ?_),
    Does.runs ((h 0 _).2.2.2.2.2.1 ?_ ?_ ?_),
    Does.runs ((h 0 _).2.2.2.2.2.2.1 [] [] ?_ ?_ ?_ ?_ ?_),
    Does.runs (((h 0 _).2.2.2.2.2.2.2.1 ?_ ?_ ?_ ?_ ?_).1 ?_ ?_),
    Does.runs (((h 0 _).2.2.2.2.2.2.2.1 ?_ ?_ ?_ ?_ ?_).2.1 ?_ ?_),
    Does.runs (((h 0 _).2.2.2.2.2.2.2.1 ?_ ?_ ?_ ?_ ?_).2.2 ?_),
    Does.runs ((h 0 _).2.2.2.2.2.2.2.2.1 200 ?_ ?_ ?_),
    Does.runs (((h 0 _).2.2.2.2.2.2.2.2.2 0).1 ?_).1,
    Does.runs (((h 0 _).2.2.2.2.2.2.2.2.2 0).1 ?_).2,
    Does.runs (((h 0 _).2.2.2.2.2.2.2.2.2 0x20).2.1 ?_),
    Does.runs (((h 0 _).2.2.2.2.2.2.2.2.2 0x20).2.2 ?_)⟩ <;>
    decide +kernel

/-- Engine 0xA1 is out of service. -/
def out1 : State := page 0xA1 [(4, 0x11)]
def engine1 (s : State) (f : Engine → Engine) : State := modEng s 0xA1 f

theorem witness_engineService (h : Obligations.EngineService) :
    Runs (.selftestStart .ee 1) up ∧
    Runs (.selftestStart .ee 1) out1 ∧
    Runs (.selftestEnd .ee 1 false 7) (page 0xA1 [(0x40, 8), (0x1C, 0x22222222), (0x20, 0x22222222)] out1) ∧
    Runs (.engineRetire .ee 1) up ∧
    Runs (.engineRetire .ee 1) (engine1 (coding [seg .running]) ({ · with held := [held (.segment x0) 2] })) ∧
    Runs (.engineAdmit .ee 1) up ∧
    Runs (.engineAdmit .ee 1) (page 0 [(0x100, 0x1012BA)] (engine1 out1 ({ · with testedSince := true }))) ∧
    Runs (.engineAdmit .ee 1) out1 ∧
    Runs (.engineDrained .ee 1) (engine1 up ({ · with draining := true })) ∧
    Runs (.engineDrained .ee 1) (engine1 up ({ · with draining := true, toStandby := true })) ∧
    Runs (.engineDrained .ee 1) up := by
  refine ⟨Does.runs ((h.1 .ee 1 up).1 ?_),
    Does.runs ((h.1 .ee 1 out1).2.1 ?_ ?_ ?_ ?_),
    Does.runs ((h.1 .ee 1 (page 0xA1 [(0x40, 8), (0x1C, 0x22222222), (0x20, 0x22222222)] out1)).2.2.1 false 7 ?_ ?_
        ?_ ?_ ?_ ?_),
    Does.runs ((h.1 .ee 1 up).2.2.2.1 ?_ ?_),
    Does.runs ((h.1 .ee 1 (engine1 (coding [seg .running]) ({ · with held := [held (.segment x0) 2] }))).2.2.2.2.1
        ?_ ?_),
    Does.runs ((h.1 .ee 1 up).2.2.2.2.2.1 ?_),
    Does.runs ((h.1 .ee 1 (page 0 [(0x100, 0x1012BA)] (engine1 out1
        ({ · with testedSince := true })))).2.2.2.2.2.2.1 ?_ ?_ ?_ ?_ ?_),
    Does.runs ((h.1 .ee 1 out1).2.2.2.2.2.2.2.1 ?_ ?_ ?_),
    Does.runs ((h.1 .ee 1 (engine1 up ({ · with draining := true }))).2.2.2.2.2.2.2.2.1 ?_ ?_ ?_),
    Does.runs ((h.1 .ee 1 (engine1 up ({ · with draining := true, toStandby := true }))).2.2.2.2.2.2.2.2.2.1 ?_ ?_
        ?_),
    Does.runs ((h.1 .ee 1 up).2.2.2.2.2.2.2.2.2.2 ?_)⟩ <;>
    decide +kernel

def eligible0 : State := coding [seg .eligible, seg .running]
def placeable (s : State) : State := syncPins (endLookaheads s)
def item0 (s : State) : Item := (itemsOf (placeable s) .ee).headD (fbItem up x0 (pic []) (seg .eligible))
def chosen : Nat × Nat := (chooseEngine (placeable eligible0) .ee (item0 eligible0)).getD (0, 0)
def noEngine : State := { eligible0 with regs := eligible0.regs.filter fun x => x.1 / 4096 < 0xA0 || 0xC0 < x.1 / 4096 }
def window0 : Window := ⟨951, 1000, 10, 1000, 0⟩
def unverified : Seg := { seg .returned with vwait := true }
def waives : State := { page 0 [(0x10C, 0x20000)] (coding [unverified, seg .running]) with devtime := 20000000000 }

theorem witness_placementAndOverload (h : Obligations.PlacementAndOverload) :
    Runs (.placeWork .de) eligible0 ∧
    Runs (.placeWork .ee) noEngine ∧
    Runs (.placeWork .ee) eligible0 ∧
    Runs (.overloadWindow window0) { up with disp := { up.disp with winStart := 10 ^ 10 - 1 } } ∧
    Runs (.overloadWindow window0) { up with disp := { up.disp with winStart := 10 ^ 10 - 10 ^ 8 } } ∧
    Runs .shedUndo { up with disp := { up.disp with step := 2, lastOvl := 9 * 10 ^ 9 + 1 } } ∧
    Runs .shedUndo { up with disp := { up.disp with step := 2, lastOvl := 9 * 10 ^ 9 } } ∧
    Runs (.verifyWaive ⟨3, 0, 0⟩) waives := by
  refine ⟨Does.runs ((h.1 .de _).1 ?_),
    Does.runs (((h.1 .ee _).2 (item0 noEngine) ?_).1 ?_),
    Does.runs (((h.1 .ee _).2 (item0 eligible0) ?_).2 chosen.1 chosen.2 ?_ ?_),
    Does.runs ((h.2.1 window0 _).1 ?_),
    Does.runs ((h.2.1 window0 _).2 ?_),
    Does.runs ((h.2.2.1 _).1 ?_),
    Does.runs ((h.2.2.1 _).2 ?_ ?_),
    Does.runs (h.2.2.2 x0 (pic [unverified, seg .running]) unverified waives (waits_of (by decide +kernel)) ?_ ?_ ?_ ?_ ?_)⟩ <;>
    decide +kernel

/-- Engine 0xA1 holds segment 0 of context 3, `k` units into it. -/
def run1 : Seg := { seg .running with ee := 1 }
def heldAt (k : Nat) (b : Bool) : Held := { held (.segment x0) k with begun := b, tr := ⟨1000, k, false, 30⟩ }
def runs (k : Nat) (b : Bool) : State := holding (coding [run1, seg .running]) 0xA1 [heldAt k b]
def unguarded : Pic := { pic [run1, seg .running] with guardLv := 1 }
def unit0 : UnitCode := ⟨[true, false, true], []⟩
def rows (k : Nat) : State :=
  holding (modCtx (ctxOf (pools up) 3 3 0) 3 ({ · with pics := [unguarded] })) 0xA1 [heldAt k true]

theorem witness_codingUnits (h : Obligations.CodingUnits) :
    Runs (.segmentFirstCtu 1) (runs 0 false) ∧
    Runs (.codingUnitCoded 1 (some (unit0, unit0)) ⟨[], []⟩) (runs 3 true) ∧
    Runs (.ctuRowComplete 1) (rows 2) := by
  refine ⟨Does.runs ((h 1 _ x0 (pic [run1, seg .running]) run1 ?_).1 ?_ ?_ ?_),
    Does.runs (((h 1 _ x0 (pic [run1, seg .running]) run1 ?_).2 (heldAt 3 true) ?_).1 (some (unit0, unit0)) ⟨[], []⟩ ?_ ?_).2,
    Does.runs (((h 1 (rows 2) x0 unguarded run1 ?_).2 (heldAt 2 true) ?_).2 ?_ ?_ ?_ ?_ ?_ ?_ ?_ ?_ ?_ ?_)⟩ <;>
    decide +kernel

def samples0 : Samples := ⟨[1, 2], [3], [4]⟩
/-- Picture 0 of context 3 is `p`, and an engine holds these jobs. -/
def coded (p : Pic) (e : Nat) (hs : List Held) : State :=
  holding (modCtx (ctxOf (pools up) 3 3 0) 3 ({ · with pics := [p] })) e hs
def last1 : Held := held (.segment x0) 4
def verified : Seg :=
  { seg .returned with vwait := true, ee := 1, runBits := 77, bits := 77, verify := true
                       crc := segCrc (desc0.result [] [] (some samples0)) }
def edged : Seg := { seg .committed with edge := 2 }
def checked : Seg := { seg .committed with edge := 5 }
def sentPic (g : Seg) : Pic := { pic [g, { seg .committed with edge := 1 }] with sent := true }
def part1 : Part := ⟨1000, 800, 0, 1, 1, []⟩
def decPic : DecPic :=
  { num := 5, sub := some 5, unit := 5, pts := 101, dts := 100, au := au0, tReady := 1, deadline := 20 * 10 ^ 9, jb := 0
    parts := [part1, part1], gaps := [], failedOnce := [], hurt := [], refs := [], epoch := 0, since := none, shows := none
    mate := none, second := false, alone := false, half := none, available := none, lc := 0, substs := 0, concFrac := 0
    conc := false, contam := false, subst := false, failed := false, withheld := false, output := false, orderNo := 0
    seq := none, readers := [], eeMask := 2 ^ 18 - 1, deMask := 2 ^ 18 - 1, pix := noPicture, hdr := noHdr, slot := none
    bufs := [] }
def decoding : State :=
  holding (modCtx (ctxOf (pools up) 3 3 1) 3 ({ · with decs := [decPic] })) 0xC2 [held (.part 3 5 0) 0]

theorem witness_finishedWork (h : Obligations.FinishedWork) :
    Runs (.segmentReturn 1 (some ⟨[true], samples0⟩)) (coded (pic [run1, seg .running]) 0xA1 [last1]) ∧
    Runs (.verifyJobComplete 2 (some ⟨samples0, false⟩) false) (coded (pic [verified, seg .running]) 0xC2 [held (.verify x0) 0]) ∧
    Runs (.verifyJobComplete 2 (some ⟨samples0, true⟩) false) (coded (pic [verified, seg .running]) 0xC2 [held (.verify x0) 0]) ∧
    Runs (.verifyJobComplete 2 none true) (coded (pic [verified, seg .running]) 0xC2 [held (.verify x0) 0]) ∧
    Runs (.boundaryJobComplete x0 (some samples0)) (coded (sentPic edged) 0xA1 [held (.boundary x0) 0]) ∧
    Runs (.verifyJobComplete 2 none false) (coded (sentPic checked) 0xC2 [held (.boundary x0) 0]) ∧
    Runs (.decodePartComplete 2) decoding := by
  refine ⟨Does.runs ((h.1 x0 (pic [run1, seg .running]) run1 (coded (pic [run1, seg .running]) 0xA1 [last1])
        (waits_of (by decide +kernel)) ?_ ?_).1 1 last1 (some ⟨[true], samples0⟩) ?_ ?_ ?_ ?_ ?_).2,
    Does.runs (((h.1 x0 (pic [verified, seg .running]) verified
      (coded (pic [verified, seg .running]) 0xC2 [held (.verify x0) 0]) (waits_of (by decide +kernel)) ?_ ?_).2
      2 (held (.verify x0) 0) [] (some ⟨samples0, false⟩) ?_ ?_ ?_ ?_ ?_ ?_).1 ?_),
    Does.runs (((h.1 x0 (pic [verified, seg .running]) verified
      (coded (pic [verified, seg .running]) 0xC2 [held (.verify x0) 0]) (waits_of (by decide +kernel)) ?_ ?_).2
      2 (held (.verify x0) 0) [] (some ⟨samples0, true⟩) ?_ ?_ ?_ ?_ ?_ ?_).2.1 ?_),
    Does.runs ((h.1 x0 (pic [verified, seg .running]) verified
      (coded (pic [verified, seg .running]) 0xC2 [held (.verify x0) 0]) (waits_of (by decide +kernel)) ?_ ?_).2
      2 (held (.verify x0) 0) [] none ?_ ?_ ?_ ?_ ?_ ?_).2.2,
    Does.runs ((h.2.1 x0 (sentPic edged) edged (coded (sentPic edged) 0xA1 [held (.boundary x0) 0]) ?_ ?_ ?_ ?_ ?_
      ⟨1, { seg .committed with edge := 1 }, by decide, by decide +kernel, rfl⟩).1 (some samples0) 0xA1 (held (.boundary x0) 0)
      ?_ ?_ ?_ ?_),
    Does.runs ((h.2.1 x0 (sentPic checked) checked (coded (sentPic checked) 0xC2 [held (.boundary x0) 0]) ?_ ?_ ?_ ?_ ?_
      ⟨1, { seg .committed with edge := 1 }, by decide, by decide +kernel, rfl⟩).2 2 (held (.boundary x0) 0) [] none
      ?_ ?_ ?_ ?_ ?_ ?_),
    Does.runs (h.2.2 2 decoding (held (.part 3 5 0) 0) [] 3 5 0 decPic part1 ?_ ?_ ?_ ?_ ?_ ?_ ?_ ?_ ?_ ?_ ?_ ?_ ?_ ?_ ?_
      ?_ ?_ ?_ ?_ ?_)⟩ <;>
    decide +kernel

def trained : State := after (.portEnable 0 0xF [40, 40, 40, 40]) (page 0x110 [(0x40, 3)])
def linked : State := page 0x100 [(0x44, 1)] lite

theorem witness_portControl (h : Obligations.PortControl) :
    Runs (.netModeWrite 3) (page 0x100 [(0x40, 1)]) ∧
    Runs (.netModeWrite 3) up ∧
    Runs (.portEnable 0 0x1F [20, 14]) up ∧
    Runs (.portEnable 1 0x1F [20, 40]) up ∧
    Runs (.anDone 0 2) trained := by
  refine ⟨Does.runs ((h.1 3 _).1 ?_), Does.runs ((h.1 3 _).2 ?_ ?_), Does.runs ((h.2 0 _).1 0x1F [20, 14] ?_ ?_),
    Does.runs ((h.2 1 _).2.1 0x1F [20, 40] ?_), Does.runs ((h.2 0 _).2.2.2 2 ?_ ?_)⟩ <;>
    decide +kernel

def frame0 : Frame := ⟨true, 1400, 0, 0, 2 ^ 48 - 1, false, false, false, 0xE0000001, 5, 5000, .other⟩
def flowWords : List Nat := [0x108, 5000, 10, 0x10000, 0xE0000001, 0, 0, 0, 0, 0, 0, 0]
/-- Flow 5 has these words. -/
def flow5 (s : State) (on : Bool) (ws : List Nat) (f : Flow → Flow) : State :=
  modFlow s 5 fun _ => f { flow0 with enabled := on, words := ws.map (BitVec.ofNat 32) }
def media : Frame := { frame0 with payload := .media false 0 0 0 1316 }
def ts0 : TsIn := ⟨300, true, 3, false, none, List.replicate 184 7, 90, none, none⟩
def packets : Flow → Flow := ({ · with next := some 5, held := [⟨7, 188, 50, false⟩, ⟨9, 188, 60, false⟩] })
def released (dt : Nat) : State := { flow5 linked true flowWords packets with devtime := dt }
/-- Context 3 takes the program of flow 5, whose video has PID 300; nothing is missing before the next packet. -/
def video5 (f : Flow → Flow) : State :=
  page 0x403 [(0x24C, 1 + 2 ^ 8 * 5)] (ctxOf (pools (flow5 { linked with devtime := 60 } true flowWords fun x =>
    f { packets x with next := some 7, pmt := [⟨0x24, 300, []⟩] })) 3 3 1)
def openAu5 : Flow → Flow := ({ · with openAu := some (100, 100, 10 ^ 9), auBytes := 500 })
def collects : State := page 0x403 [(0x24C, 1 + 2 ^ 8 * 5)] (ctxOf (pools (flow5 linked true flowWords openAu5)) 3 3 1)

theorem witness_ingest (h : Obligations.Ingest) :
    Runs (.frameReceive 0 frame0) up ∧
    Runs (.frameReceive 0 { frame0 with bytes := 63 }) linked ∧
    Runs (.frameReceive 0 { frame0 with tags := 2 }) linked ∧
    Runs (.frameReceive 0 { frame0 with payload := .pause }) linked ∧
    Runs (.frameReceive 0 { frame0 with payload := .bedrock }) linked ∧
    Runs (.frameReceive 0 media) (flow5 linked true flowWords id) ∧
    Runs (.packetRelease 5 [ts0]) (released 49) ∧
    Runs (.packetRelease 5 []) (released 50) ∧
    Runs (.packetRelease 5 [ts0]) (video5 id) ∧
    Runs (.packetRelease 5 [{ ts0 with start := false }]) (video5 ({ · with openAu := some (5, 6, 7), ccs := [(300, 3)] })) ∧
    Runs (.accessUnitTimeout 3 [{ au0 with rap := false }]) collects ∧
    Runs (.accessUnitTimeout 3 [au0]) collects := by
  refine ⟨Does.runs ((h.1 0 _ _).1 ?_),
    Does.runs (((h.1 0 _ _).2 ?_).1 ?_),
    Does.runs (((h.1 0 _ _).2 ?_).2.1 ?_ ?_),
    Does.runs (((h.1 0 _ _).2 ?_).2.2.1 ?_ ?_),
    Does.runs (((h.1 0 _ _).2 ?_).2.2.2.1 ?_ ?_),
    Does.runs (((h.1 0 _ _).2 ?_).2.2.2.2 0 0 0 1316 5 ?_ ?_ ?_ ?_ ?_ ?_ ?_ ?_ ?_ ?_ ?_ ?_),
    Does.runs ((h.2.1 5 _ _ ⟨7, 188, 50, false⟩ [⟨9, 188, 60, false⟩] ?_).1 ?_),
    Does.runs ((h.2.1 5 [] _ ⟨7, 188, 50, false⟩ [⟨9, 188, 60, false⟩] ?_).2.1 ?_),
    Does.runs (((h.2.1 5 [] _ ⟨7, 188, 50, false⟩ [⟨9, 188, 60, false⟩] ?_).2.2 ts0 ?_ ?_ ?_ ?_ ?_ ?_).1 ?_ ?_),
    Does.runs (((h.2.1 5 [] _ ⟨7, 188, 50, false⟩ [⟨9, 188, 60, false⟩] ?_).2.2 { ts0 with start := false } ?_ ?_ ?_ ?_ ?_
      ?_).2 5 6 7 ?_ ?_),
    Does.runs ((h.2.2 3 _ _ 100 100 1000000000 ?_ ?_ ?_ ?_ ?_ ?_).1 ?_ ?_),
    Does.runs ((h.2.2 3 _ _ 100 100 1000000000 ?_ ?_ ?_ ?_ ?_ ?_).2 au0 ?_ ?_ ?_ ?_ ?_ ?_)⟩ <;>
    decide +kernel

/-- Flow 5 is selected; `on` is its enable bit. -/
def flowSel5 (on : Bool) (ws : List Nat) (f : Flow → Flow) : State := flow5 (page 0x110 [(0x44, 5)] lite) on ws f
def jbTaken : List Nat × State := (takeJb 1 (pools (flowSel5 false flowWords id))).getD ([], up)
def mergeWords : List Nat := (flowWords.set 1 (0x80000000 + 7 * 65536 + 5000)).set 0 0x10A

theorem witness_flowCommands (h : Obligations.FlowCommands) :
    Runs (.flowWrite) (flowSel5 true flowWords ({ · with joinAt := 5 })) ∧
    Runs (.flowEnable) (flowSel5 true flowWords ({ · with joinAt := 5 })) ∧
    Runs (.flowWrite) (flowSel5 false flowWords id) ∧
    Runs (.flowEnable) (flowSel5 false (flowWords.set 2 4) id) ∧
    Runs (.flowEnable) (flowSel5 false flowWords id) ∧
    Runs (.flowEnable) (modFlow (flowSel5 false mergeWords id) 7 fun _ => { flow0 with enabled := true, words := flowWords.map (BitVec.ofNat 32) }) ∧
    Runs (.flowDisable) (page 0x403 [(0x24C, 1 + 2 ^ 8 * 5)] (ctxOf (flowSel5 true flowWords id) 3 3 1)) ∧
    Runs (.flowDisable) (flowSel5 false flowWords id) ∧
    Runs (.flowDisable) (flowSel5 true flowWords ({ · with joinAt := 5 })) ∧
    Runs (.membershipReport 5) (flowSel5 true flowWords ({ · with joinAt := 5 })) ∧
    Runs (.flowEnable) (pools (flowSel5 false flowWords id)) := by
  refine ⟨Does.runs (((h (flowSel5 true flowWords ({ · with joinAt := 5 }))).2.1 ?_).1),
    Does.runs (((h (flowSel5 true flowWords ({ · with joinAt := 5 }))).2.1 ?_).2),
    Does.runs ((h (flowSel5 false flowWords id)).2.2.1 ?_),
    Does.runs ((h (flowSel5 false (flowWords.set 2 4) id)).2.2.2.1 ?_ ?_),
    Does.runs ((h (flowSel5 false flowWords id)).2.2.2.2.1 ?_ ?_ ?_ ?_),
    Does.runs ((h (modFlow (flowSel5 false mergeWords id) 7 fun _ =>
        { flow0 with enabled := true, words := flowWords.map (BitVec.ofNat 32) })).2.2.2.2.2.2.1 ?_ ?_ ?_),
    Does.runs ((h (page 0x403 [(0x24C, 1 + 2 ^ 8 * 5)] (ctxOf (flowSel5 true flowWords id) 3 3 1))).2.2.2.2.2.2.2.1
        ?_),
    Does.runs ((h (flowSel5 false flowWords id)).2.2.2.2.2.2.2.2.1 ?_ ?_),
    Does.runs ((h (flowSel5 true flowWords ({ · with joinAt := 5 }))).2.2.2.2.2.2.2.2.2.1 ?_ ?_ (noneWait_of
        (by decide +kernel))),
    Does.runs ((h (flowSel5 true flowWords ({ · with joinAt := 5 }))).2.2.2.2.2.2.2.2.2.2 5 ?_ ?_ ?_),
    Does.runs ((h (pools (flowSel5 false flowWords id))).2.2.2.2.2.1 jbTaken.1 jbTaken.2 ?_ ?_ ?_ ?_ ?_)⟩ <;>
    first | exact ⟨noFlow_of _ (by decide +kernel), by decide +kernel⟩ | exact ⟨3, by decide +kernel⟩ | decide +kernel

def svcWords : List Nat := [0x1001C, 0x210020, 5000, 20 * 65536, 100 + 65536 * 10, 0, 500, 0]
/-- Service `n` is selected, and service 5 has these words. -/
def svc5 (n : Nat) (on : Bool) (ws : List Nat) (f : Svc → Svc) : State :=
  modSvc (page 0x111 [(0x44, n)] lite) 5 fun _ => f { svc0 with enabled := on, words := ws.map (BitVec.ofNat 32) }

theorem witness_serviceCommands (h : Obligations.ServiceCommands) :
    Runs (.serviceRead) (svc5 1024 true svcWords id) ∧
    Runs (.serviceWrite) (svc5 1024 true svcWords id) ∧
    Runs (.serviceEnable) (svc5 1024 true svcWords id) ∧
    Runs (.serviceDisable) (svc5 1024 true svcWords id) ∧
    Runs (.serviceRead) (svc5 5 true svcWords id) ∧
    Runs (.serviceWrite) (svc5 5 true svcWords id) ∧
    Runs (.serviceEnable) (svc5 5 true svcWords id) ∧
    Runs (.serviceWrite) (svc5 5 false svcWords id) ∧
    Runs (.serviceEnable) (page 0x111 [(0x44, 6)] lite) ∧
    Runs (.serviceEnable) (svc5 5 false svcWords id) ∧
    Runs (.serviceDisable) (page 0x403 [(0x24C, 16 + 2 ^ 20 * 5)] (ctxOf (svc5 5 true svcWords id) 3 3 0)) ∧
    Runs (.serviceDisable) (svc5 5 true svcWords id) ∧
    Runs (.psiRepeat 5) (svc5 5 true svcWords id) := by
  refine ⟨Does.runs (((h (svc5 1024 true svcWords id)).1 ?_).1),
    Does.runs (((h (svc5 1024 true svcWords id)).1 ?_).2.1),
    Does.runs (((h (svc5 1024 true svcWords id)).1 ?_).2.2.1),
    Does.runs (((h (svc5 1024 true svcWords id)).1 ?_).2.2.2),
    Does.runs (((h (svc5 5 true svcWords id)).2.1 ?_).1),
    Does.runs ((((h (svc5 5 true svcWords id)).2.1 ?_).2.1 ?_).1),
    Does.runs ((((h (svc5 5 true svcWords id)).2.1 ?_).2.1 ?_).2),
    Does.runs (((h (svc5 5 false svcWords id)).2.1 ?_).2.2.1 ?_),
    Does.runs (((h (page 0x111 [(0x44, 6)] lite)).2.1 ?_).2.2.2.1 ?_ ?_),
    Does.runs (((h (svc5 5 false svcWords id)).2.1 ?_).2.2.2.2.1 ?_ ?_),
    Does.runs (((h (page 0x403 [(0x24C, 16 + 2 ^ 20 * 5)] (ctxOf (svc5 5 true svcWords id) 3 3 0))).2.1
        ?_).2.2.2.2.2.1 ?_),
    Does.runs (((h (svc5 5 true svcWords id)).2.1 ?_).2.2.2.2.2.2 ?_),
    Does.runs ((h (svc5 5 true svcWords id)).2.2 5 ?_ ?_)⟩ <;>
    first | exact svcFree_of _ (by decide +kernel) | decide +kernel

def pes (n : Nat) : PesRest := ⟨List.replicate n 5, 100, true, true⟩
def video (n pcr : Nat) : Svc → Svc := ({ · with lastPcr := pcr, queue := [pes n, pes 500] })
def dgram0 : Dgram := ⟨1, 5, [], [⟨1, false, 0, false, []⟩], 10, false, 0⟩
/-- The datagram store has no room left. -/
def storeFull (s : State) : State :=
  { s with store := List.replicate 520 ⟨10, 6, [], List.replicate 520 nullPacket, 10, false, 1⟩ }
def audio0 : AudioPart := ⟨0, true, List.replicate 20 0, 9899999999⟩
/-- Context 3 sends on service 5 with offset 7. -/
def sends5 (f : Svc → Svc) : State :=
  modCtx (page 0x403 [(0x24C, 16 + 2 ^ 20 * 5)] (ctxOf (svc5 5 true svcWords f) 3 3 0)) 3 ({ · with delta := some 7 })
def ptpOn : State :=
  page 0x112 [(0x40, 0xFF001)] { up with ptp := { up.ptp with everLocked := true, masters := [⟨3, 9, [128], 5⟩] } }
def master : PtpFrom := ⟨3, 0, 0, 9⟩

theorem witness_multiplex (h : Obligations.Multiplex) :
    Runs (.muxPacketSlot 5) (svc5 5 true svcWords ({ · with psi := [nullPacket] })) ∧
    Runs (.muxPacketSlot 5) (svc5 5 true svcWords (video 185 (10 ^ 10))) ∧
    Runs (.muxPacketSlot 5) (svc5 5 true svcWords (video 177 0)) ∧
    Runs (.muxPacketSlot 5) (sends5 ({ · with lastPcr := 10 ^ 10, audio := [audio0] })) ∧
    Runs (.muxPacketSlot 5) (svc5 5 true svcWords id) ∧
    Runs (.muxPacketSlot 5) (svc5 5 true svcWords ({ · with lastPcr := 10 ^ 10 })) ∧
    Runs (.audioDrop 5) (svc5 5 true svcWords ({ · with audio := [audio0, audio0] })) ∧
    Runs (.datagramFlush 5) (svc5 5 true (svcWords.set 2 0) ({ · with pack := [nullPacket], packAt := 10 ^ 9 })) ∧
    Runs (.storeMove 5) (storeFull (svc5 5 true svcWords ({ · with held := [dgram0] }))) ∧
    Runs (.storeMove 5) (svc5 5 true svcWords ({ · with held := [dgram0] })) ∧
    Runs (.ptpMessage (.sync { master with port := 8 } 5)) ptpOn ∧
    Runs (.ptpMessage (.sync master 1000001)) ptpOn ∧
    Runs (.ptpMessage (.sync master (-999))) ptpOn ∧
    Runs (.ptpMessage (.announce { master with domain := 1 } [1])) ptpOn ∧
    Runs (.ptpMessage (.announce master [1])) ptpOn ∧
    Runs .announceReceiptTimeout ptpOn ∧
    Runs .announceReceiptTimeout up := by
  refine ⟨Does.runs ((h.1 5 _).1 nullPacket [] ?_ ?_),
    Does.runs (((h.1 5 _).2.1 (pes 185) [pes 500] ?_ ?_ ?_).1 ?_ ?_ ?_),
    Does.runs (((h.1 5 _).2.1 (pes 177) [pes 500] ?_ ?_ ?_).2 ?_ ?_),
    Does.runs ((h.1 5 _).2.2.1 audio0 [] 7 ?_ ?_ ?_ ?_ ?_),
    Does.runs (((h.1 5 _).2.2.2.1 ?_ ?_ ?_).1 ?_),
    Does.runs (((h.1 5 _).2.2.2.1 ?_ ?_ ?_).2 ?_ ?_),
    Does.runs ((h.1 5 _).2.2.2.2.1 audio0 [audio0] ?_ ?_),
    Does.runs ((h.1 5 _).2.2.2.2.2.1 ?_ ?_ ?_ ?_),
    Does.runs (((h.1 5 _).2.2.2.2.2.2 dgram0 [] ?_).1 ?_),
    Does.runs (((h.1 5 _).2.2.2.2.2.2 dgram0 [] ?_).2 ?_ ?_),
    Does.runs ((h.2 _).1 { master with port := 8 } 5 ?_),
    Does.runs (((h.2 _).2.1 master 1000001 ?_ ?_).1 ?_ ?_),
    Does.runs (((h.2 _).2.1 master (-999) ?_ ?_).2 ?_ ?_),
    Does.runs (((h.2 _).2.2.1 { master with domain := 1 } [1]).1 ?_),
    Does.runs (((h.2 _).2.2.1 master [1]).2 ?_),
    Does.runs ((h.2 _).2.2.2.1 ?_),
    Does.runs ((h.2 _).2.2.2.2 ?_)⟩ <;>
    first | exact noSvc_of _ (by decide +kernel) | decide +kernel

def queueWords : List Nat := [5, 50000000, 50000000, 16777215, 16777215, 64 + 100 * 2 ^ 16, 0, 0, 0, 0, 0, 0, 0, 0]
/-- Queue 3 is selected and has these words. -/
def queue3 (f : Queue → Queue) : State :=
  modQueue (page 0x120 [(0x40, 3)]) 3 fun _ => f { queue0 with words := queueWords.map (BitVec.ofNat 32) }
def datagram (t : Nat) : Dgram := ⟨1, 5, [], [⟨1, false, 0, false, []⟩], t, false, 1⟩
/-- Queue 3 holds a datagram. -/
def holds3 (f : Queue → Queue) (t : Nat) : State := { queue3 (fun x => { f x with holds := [1] }) with store := [datagram t] }

theorem witness_queueWindow (h : Obligations.QueueWindow) :
    Runs (.queueEnable) (page 0x120 [(0x40, 0x10003)]) ∧
    Runs (.queueAlloc) (page 0x120 [(0x40, 0x10003)]) ∧
    Runs (.queueFree) (page 0x120 [(0x40, 0x10003)]) ∧
    Runs (.queueDisable true) (page 0x120 [(0x40, 0x10003)]) ∧
    Runs (.winRead) (page 0x120 [(0x40, 3)]) ∧
    Runs (.winWrite) (page 0x120 [(0x40, 3)]) ∧
    Runs (.queueEnable) (page 0x120 [(0x40, 3)]) ∧
    Runs (.queueFree) (page 0x120 [(0x40, 3)]) ∧
    Runs (.queueDisable true) (page 0x120 [(0x40, 3)]) ∧
    Runs (.winRead) (queue3 id) ∧
    Runs (.winWrite) (queue3 id) ∧
    Runs (.winWrite) (page 0x120 [(0x80, 5), (0x84, 1000), (0x88, 1000), (0x8C, 100000), (0x90, 100000)] (queue3 id)) ∧
    Runs (.queueEnable) (queue3 ({ · with words := (queueWords.set 5 0).map (BitVec.ofNat 32) })) ∧
    Runs (.queueEnable) (queue3 id) ∧
    Runs (.queueFree) (queue3 id) ∧
    Runs (.queueEnable) (holds3 ({ · with enabled := true }) 10) ∧
    Runs (.queueFree) (holds3 ({ · with enabled := true }) 10) ∧
    Runs (.queueDisable true) (queue3 id) ∧
    Runs (.queueDisable false) (holds3 ({ · with enabled := true }) 10) ∧
    Runs (.queueDisable false) (queue3 id) ∧
    Runs (.queueAlloc) (queue3 id) ∧
    Runs (.queueDrained 3) (queue3 ({ · with draining := true })) ∧
    Runs (.queueDrained 3) (holds3 ({ · with draining := true }) 10) ∧
    Runs (.ageDrop 3) (holds3 id 9899999999) ∧
    Runs (.ageDrop 3) (holds3 id 9900000000) := by
  refine ⟨Does.runs (((h.1 (page 0x120 [(0x40, 0x10003)])).1 ?_).1),
    Does.runs (((h.1 (page 0x120 [(0x40, 0x10003)])).1 ?_).2.1),
    Does.runs (((h.1 (page 0x120 [(0x40, 0x10003)])).1 ?_).2.2.1),
    Does.runs (((h.1 (page 0x120 [(0x40, 0x10003)])).1 ?_).2.2.2 true),
    Does.runs (((h.1 (page 0x120 [(0x40, 3)])).2.1 ?_ ?_).1),
    Does.runs (((h.1 (page 0x120 [(0x40, 3)])).2.1 ?_ ?_).2.1),
    Does.runs (((h.1 (page 0x120 [(0x40, 3)])).2.1 ?_ ?_).2.2.1),
    Does.runs (((h.1 (page 0x120 [(0x40, 3)])).2.1 ?_ ?_).2.2.2.1),
    Does.runs (((h.1 (page 0x120 [(0x40, 3)])).2.1 ?_ ?_).2.2.2.2 true),
    Does.runs ((h.1 (queue3 id)).2.2.1 ?_ ?_),
    Does.runs (((h.1 (queue3 id)).2.2.2.1 ?_ ?_ ?_).1 ?_),
    Does.runs (((h.1 (page 0x120 [(0x80, 5), (0x84, 1000), (0x88, 1000), (0x8C, 100000), (0x90, 100000)] (queue3
        id))).2.2.2.1 ?_ ?_ ?_).2.1 ?_),
    Does.runs (((h.1 (queue3 ({ · with words := (queueWords.set 5 0).map (BitVec.ofNat 32) }))).2.2.2.1 ?_ ?_
        ?_).2.2.1 ?_),
    Does.runs (((h.1 (queue3 id)).2.2.2.1 ?_ ?_ ?_).2.2.2.1 ?_),
    Does.runs (((h.1 (queue3 id)).2.2.2.1 ?_ ?_ ?_).2.2.2.2),
    Does.runs (((h.1 (holds3 ({ · with enabled := true }) 10)).2.2.2.2.1 ?_ ?_ ?_).1),
    Does.runs (((h.1 (holds3 ({ · with enabled := true }) 10)).2.2.2.2.1 ?_ ?_ ?_).2),
    Does.runs (((h.1 (queue3 id)).2.2.2.2.2.1 ?_ ?_).1),
    Does.runs (((h.1 (holds3 ({ · with enabled := true }) 10)).2.2.2.2.2.1 ?_ ?_).2.1 ?_),
    Does.runs (((h.1 (queue3 id)).2.2.2.2.2.1 ?_ ?_).2.2 ?_),
    Does.runs ((h.1 (queue3 id)).2.2.2.2.2.2 ?_ ?_),
    Does.runs ((h.2 3 (queue3 ({ · with draining := true }))).1 ?_ ?_),
    Does.runs ((h.2 3 (holds3 ({ · with draining := true }) 10)).2.1 ?_),
    Does.runs (((h.2 3 (holds3 id 9899999999)).2.2 1 (datagram 9899999999) ?_ ?_).1 ?_),
    Does.runs (((h.2 3 (holds3 id 9900000000)).2.2 1 (datagram 9900000000) ?_ ?_).2 ?_)⟩ <;>
    decide +kernel

def shaped (pend : Bool) : State :=
  queue3 fun x => { x with shaper := { x.shaper with k := 1, rateC := 1000, rateP := 2000, burstC := 5, burstP := 50, levC := 4000, levP := -50000, newK := 2, newRateC := 7, newRateP := 9, newBurstC := 3, newBurstP := 4, pend := pend } }
def shape8 : State := page 0x123 [(0xC0, 1000), (0xC4, 1000), (0xC8, 5), (0xCC, 5)]
def framed : State := page 0x100 [(0x44, 1)] (holds3 ({ · with enabled := true }) (10 ^ 10))
def picked : Nat × Nat × Nat := (choose framed 0).getD (0, 0, 0)

theorem witness_shapersAndFrames (h : Obligations.ShapersAndFrames) :
    Runs (.refillTick (.queue 3)) ({ shaped false with devtime := 3000 }) ∧
    Runs (.refillTick (.queue 3)) ({ shaped false with devtime := 4000 }) ∧
    Runs (.refillTick (.queue 3)) ({ shaped true with devtime := 4000 }) ∧
    Runs (.shaperWrite 2 8 1 0x2FAF081) up ∧
    Runs (.shaperWrite 2 8 1 0x2FAF080) shape8 ∧
    Runs (.portFrameStart 0) (holds3 ({ · with enabled := true }) (10 ^ 10)) ∧
    Runs (.portFrameStart 0) framed := by
  refine ⟨Does.runs ((h.1 (.queue 3) ({ shaped false with devtime := 3000 })).1 ?_),
    Does.runs ((h.1 (.queue 3) ({ shaped false with devtime := 4000 })).2.1 ?_ ?_ ?_),
    Does.runs ((h.1 (.queue 3) ({ shaped true with devtime := 4000 })).2.2 ?_ ?_ ?_),
    Does.runs (((h.2).1 2 8 1 50000001 up).1 ?_),
    Does.runs (((h.2).1 2 8 1 50000000 shape8).2 ?_),
    Does.runs (((h.2).2 0 (holds3 ({ · with enabled := true }) (10 ^ 10))).1 ?_),
    Does.runs (((h.2).2 0 framed).2 picked.1 picked.2.1 picked.2.2 1 [] (datagram (10 ^ 10)) ?_ ?_ ?_ ?_ ?_)⟩ <;>
    decide +kernel

/-- Registers of Shale port 1. -/
def gates (l : List (Nat × Nat)) : State := page 0x122 l
def sampled (dt : Nat) : State := { page 0x120 [(0x60, 0x100000), (0x68, 0x10001)] (queue3 ({ · with enabled := true })) with devtime := dt }

theorem witness_gatesAndSamples (h : Obligations.GatesAndSamples) :
    Runs (.gateCommit 1) (gates [(0x114, 257)]) ∧
    Runs (.gateCommit 1) (gates [(0x108, 20000000), (0x10C, 3)]) ∧
    Runs (.gateSwap 1) (gates [(0x118, 16), (0x130, 5)]) ∧
    Runs (.gateSwap 1) (gates [(0x114, 257)]) ∧
    Runs (.gateEntryChange 1) (modPnode (gates [(0x100, 1)]) 1 ({ · with oper := [(5, 100), (7, 400)], operCycle := 1000, operStart := 77 })) ∧
    Runs (.gateCommit 1) (gates [(0x108, 77)]) ∧
    Runs (.sampleTick [3]) (sampled 1000001) ∧
    Runs (.sampleTick [3]) (sampled 1000000) := by
  refine ⟨Does.runs ((h.1 1 (gates [(0x114, 257)])).1 ?_),
    Does.runs ((h.1 1 (gates [(0x108, 20000000), (0x10C, 3)])).2.1 ?_ ?_),
    Does.runs ((h.1 1 (gates [(0x118, 16), (0x130, 5)])).2.2.2.2.1 ?_ ?_),
    Does.runs ((h.1 1 (gates [(0x114, 257)])).2.2.2.2.2.1 ?_),
    Does.runs ((h.1 1 (modPnode (gates [(0x100, 1)]) 1
        ({ · with oper := [(5, 100), (7, 400)], operCycle := 1000, operStart := 77 }))).2.2.2.2.2.2 ?_),
    Does.runs ((h.1 1 (gates [(0x108, 77)])).2.2.1 11000000077 ?_ ?_ ?_ ?_ ?_),
    Does.runs ((h.2 (sampled 1000001) [3]).1 ?_),
    Does.runs ((h.2 (sampled 1000000) [3]).2.1 ?_ ?_)⟩ <;>
    decide +kernel

def submit1 : Submit := { sub0 50 with num := 7 }
def link0 : LinkPic := ⟨50, 256, 7, false, false, false, none, noPicture, noHdr, none, none, none⟩
/-- Context 3 has these link pictures and `n` overlay layers. -/
def links3 (n : Nat) (ps : List LinkPic) : State :=
  page 0x403 (if n = 0 then [] else [(0x1F8, n)]) (modCtx (ctxOf (pools up) 3 3 0) 3 ({ · with linkPics := ps, submits := [submit1] }))
/-- Context 4 has a link picture that came earlier. -/
def second : State :=
  page 0x404 [(0x1F8, 1)]
    (modCtx (ctxOf (links3 1 [link0]) 4 3 0) 4 ({ · with linkPics := [link0], submits := [{ submit1 with at_ := 3 }] }))
def ppu3 (s : State) : Nat := (choosePpu s 3 link0 (ppuTime s 3 link0 (readLayers s 3 [] []).1).2).getD 0
def ppuDone : State := holding (modCtx (links3 1 [{ link0 with busy := true }]) 3 ({ · with ppJobs := [(50, 0)] })) 0xF2 [held (.ppu 3 50) 0]

theorem witness_pictureJobs (h : Obligations.PictureJobs) :
    Runs (.ppuJobIssue 3 [] []) (links3 0 []) ∧
    Runs (.ppuJobIssue 3 [] []) (links3 0 [link0]) ∧
    Runs (.ppuJobIssue 3 [] []) second ∧
    Runs (.ppuJobIssue 3 [] []) (links3 1 [link0]) ∧
    Runs (.ppuJobComplete 2) ppuDone := by
  refine ⟨Does.runs ((h.1 3 [] [] _).1 ?_),
    Does.runs (((h.1 3 [] [] _).2 link0 ?_).1 ?_ ?_ ?_),
    Does.runs (((h.1 3 [] [] _).2 link0 ?_).2.1 ?_ ?_),
    Does.runs (((h.1 3 [] [] _).2 link0 ?_).2.2 (ppu3 (links3 1 [link0])) ?_ ?_ ?_),
    Does.runs (h.2 2 ppuDone (held (.ppu 3 50) 0) [] 3 { link0 with busy := true } ?_ ?_ ?_ ?_ ?_ ?_ ?_ ?_)⟩ <;>
    decide +kernel

/-- Firmware runs, and slot 1 of the NOR is selected. -/
def firm (lock : Option MbxVia) : State :=
  let s := lite
  { s with bdrk := { s.bdrk with lock := lock, slotOf := some 1 } }
def noSlot : State := { firm none with bdrk := { (firm none).bdrk with slotOf := none } }
def hosts3 : State := modCtx (ctxOf (firm none) 3 3 0) 3 ({ · with cluster := 0 })
def oneCluster : State := { firm none with bdrk := { (firm none).bdrk with qzUp := [true, false] } }

theorem witness_mailboxCommands (h : Obligations.MailboxCommands) :
    Runs (.updBegin .pf 7 0 0 false) (firm none) ∧
    Runs (.updData .pf 7 5 0x3000 [] false) (firm (some .pf)) ∧
    Runs (.updData .pf 7 5 6 [] false) noSlot ∧
    Runs (.updData .pf 7 5 0x3001 [] false) (firm (some .pf)) ∧
    Runs (.updBegin .pf 7 0 0 true) (firm none) ∧
    Runs (.updData .pf 7 5 6 [] true) (firm none) ∧
    Runs (.updCommit .pf 7 .rollback) (firm (some .pf)) ∧
    Runs (.updAbort .pf 7) (firm none) ∧
    Runs (.updAbort .pf 7) (firm (some .mctp)) ∧
    Runs (.restartBedrock .pf 7 .rollback .rollback) (firm none) ∧
    Runs (.qzUpdate .pf 7 0 1 .verifyFail) (firm none) ∧
    Runs (.qzUpdate .pf 7 0 1 .verifyFail) hosts3 ∧
    Runs (.qzUpdate .pf 7 0 1 .verifyFail) oneCluster ∧
    Runs (.avsAck .pf 7) (firm none) ∧
    Runs (.agent .pf 7 []) (firm none) ∧
    Runs (.agentPoll .pf 7 0x40) (firm none) ∧
    Runs (.agentPoll .pf 7 0x41) (firm none) ∧
    Runs (.mailboxBadCmd .pf 7) (firm none) := by
  have o : ∀ l, Open (firm l) .pf := fun l => ⟨by cases l with | none => decide +kernel | some v => cases v <;> decide +kernel,
    fun _ => by cases l with | none => decide +kernel | some v => cases v <;> decide +kernel⟩
  refine ⟨Does.runs ((h .pf 7 _ (o _)).1 0 0 ?_),
    Does.runs ((h .pf 7 _ (o _)).2.1 5 0x3000 [] 1 ?_ ?_ ?_ ?_ ?_),
    Does.runs ((h .pf 7 noSlot ⟨by decide +kernel, by decide +kernel⟩).2.2.1 5 6 [] ?_ ?_ ?_ ?_ ?_),
    Does.runs ((h .pf 7 _ (o _)).2.2.2.1 5 0x3001 [] ?_ ?_),
    Does.runs ((h .pf 7 _ (o _)).2.2.2.2.1 0 0 0 0 [] ?_).1,
    Does.runs ((h .pf 7 _ (o _)).2.2.2.2.1 0 0 5 6 [] ?_).2,
    Does.runs ((h .pf 7 _ (o _)).2.2.2.2.2.1 .rollback ?_),
    Does.runs ((h .pf 7 _ (o _)).2.2.2.2.2.2.1 ?_),
    Does.runs ((h .pf 7 _ (o (some .mctp))).2.2.2.2.2.2.2.1 .mctp rfl ?_ 0 0 0 0 [] .rollback true (.updAbort .pf 7) ?_),
    Does.runs ((h .pf 7 _ (o _)).2.2.2.2.2.2.2.2.1 .rollback .rollback),
    Does.runs (((h .pf 7 _ (o _)).2.2.2.2.2.2.2.2.2.1 0 1 .verifyFail).1 ?_ ?_ ?_),
    Does.runs (((h .pf 7 hosts3 ⟨by decide +kernel, by decide +kernel⟩).2.2.2.2.2.2.2.2.2.1 0 1 .verifyFail).2.1 ?_ ?_ ?_),
    Does.runs (((h .pf 7 oneCluster ⟨by decide +kernel, by decide +kernel⟩).2.2.2.2.2.2.2.2.2.1 0 1 .verifyFail).2.2 ?_),
    Does.runs (h .pf 7 _ (o _)).2.2.2.2.2.2.2.2.2.2.1,
    Does.runs ((h .pf 7 _ (o _)).2.2.2.2.2.2.2.2.2.2.2.1 []),
    Does.runs (((h .pf 7 _ (o _)).2.2.2.2.2.2.2.2.2.2.2.2.1 0x40).1 ?_ ?_),
    Does.runs (((h .pf 7 _ (o _)).2.2.2.2.2.2.2.2.2.2.2.2.1 0x41).2 ?_),
    Does.runs (h .pf 7 _ (o _)).2.2.2.2.2.2.2.2.2.2.2.2.2⟩ <;>
    first | exact noneHosted_of _ (by decide +kernel) | decide +kernel

def beats (s : State) : State := { s with bdrk := { s.bdrk with kick := some (10 ^ 10 - 5), lockAt := 0, lock := some .pf } }
def sentinel : State := after (.bedrockRomCheck ⟨false, true, true, true⟩) { State.reset with chip := { State.reset.chip with por := false } }
def sensors (t : Int) : Sensors := ⟨List.replicate 24 (some t), [1, 2, 70000], [5, 6]⟩

theorem witness_bedrockSignals (h : Obligations.BedrockSignals) :
    Runs (.heartbeatKick) up ∧
    Runs (.heartbeatKick) sentinel ∧
    Runs (.heartbeatToggle) (beats up) ∧
    Runs (.heartbeatToggle) up ∧
    Runs (.updateLockTimeout) (beats up) ∧
    Runs (.updateLockTimeout) up ∧
    Runs (.mctpControlMessage 0) up ∧
    Runs (.uartConsoleInput []) sentinel ∧
    Runs (.uartConsoleInput []) up ∧
    Runs (.quartzLoaded 0 true) ({ up with bdrk := { up.bdrk with qzUp := [false, true] } }) ∧
    Runs (.contextMove 3) (modCtx (ctxOf up 3 3 0) 3 ({ · with moving := true })) ∧
    Runs (.sensorSample (sensors 1839)) up ∧
    Runs (.sensorSample (sensors 1840)) up := by
  refine ⟨Does.runs ((h up).1 ?_),
    Does.runs ((h sentinel).2.1 ?_),
    Does.runs ((h (beats up)).2.2.1 ?_),
    Does.runs ((h up).2.2.2.1 ?_),
    Does.runs ((h (beats up)).2.2.2.2.1 ?_ ?_),
    Does.runs ((h up).2.2.2.2.2.1 ?_),
    Does.runs ((h up).2.2.2.2.2.2.1 0x00#8 ?_),
    Does.runs ((h sentinel).2.2.2.2.2.2.2.2.1 [] ?_ ?_),
    Does.runs ((h up).2.2.2.2.2.2.2.2.2.1 [] ?_),
    Does.runs ((h ({ up with bdrk := { up.bdrk with qzUp := [false, true] } })).2.2.2.2.2.2.2.2.2.2.2.2.2.1 0 ?_ ?_
        ?_ ?_ ?_ ?_),
    Does.runs ((h (modCtx (ctxOf up 3 3 0) 3 ({ · with moving := true }))).2.2.2.2.2.2.2.2.2.2.2.2.2.2 3 ?_ ?_ ?_
        ?_),
    Does.runs ((h up).2.2.2.2.2.2.2.2.2.2.2.1 (sensors 1839) ?_ ?_ ?_ ?_),
    Does.runs ((h up).2.2.2.2.2.2.2.2.2.2.2.2.1 (sensors 1840) ?_ ?_)⟩ <;>
    decide +kernel

def dumps (l : List (Nat × Nat)) : State := page 0x30 ([(0x40, 5), (0x48, 3), (0x4C, 0), (0x54, 2)] ++ l)

theorem witness_linkAndCounters (h : Obligations.LinkAndCounters) :
    Runs (.pcieLinkUp 1 16) up ∧
    Runs (.linkDown) (page 0x140 [(0x40, 0xFFFFFFFF), (0x1C, 0x22222222)]) ∧
    Runs (.linkDown) up ∧
    Runs (.perstNDeassert) up ∧
    Runs (.aspmL1Transition .l0) (page 0x140 [(0x40, 0xFFFFFFFF), (0x1C, 0x22222222)]) ∧
    Runs (.dumpTick) up ∧
    Runs (.dumpTick) (dumps [(0x5C, 15)]) ∧
    Runs (.dumpTick) (dumps []) ∧
    Runs (.dumpRecordWritten) ({ dumps [] with perf := { up.perf with writing := true } }) ∧
    Runs (.dumpRecordWritten) up := by
  refine ⟨Does.runs ((h up).1 1 16 ?_ ?_ ?_ ?_ ?_),
    Does.runs ((h (page 0x140 [(0x40, 0xFFFFFFFF), (0x1C, 0x22222222)])).2.1.1 ?_),
    Does.runs ((h up).2.1.2.1 ?_),
    Does.runs ((h up).2.2.1 ?_),
    Does.runs ((h (page 0x140 [(0x40, 0xFFFFFFFF), (0x1C, 0x22222222)])).2.2.2.1 Sys2Proof.LinkState.l0 ?_),
    Does.runs ((h up).2.2.2.2.2.1.1 ?_),
    Does.runs ((h (dumps [(0x5C, 15)])).2.2.2.2.2.1.2.1 ?_ ?_),
    Does.runs ((h (dumps [])).2.2.2.2.2.1.2.2 ?_ ?_ ?_),
    Does.runs ((h ({ dumps [] with perf := { up.perf with writing := true } })).2.2.2.2.2.2.1 ?_),
    Does.runs ((h up).2.2.2.2.2.2.2 ?_)⟩ <;>
    decide +kernel

theorem witness_expertArea (h : Obligations.ExpertArea) :
    Runs (.expertKeyWrite 0 160 0) up ∧
    Runs (.registerWrite 0 160 1024 4 0) up := by
  refine ⟨Does.runs ((h.2 0 0xA0 0xA0 up ?_).1 0x00000000#32 ⟨by decide +kernel, by decide +kernel⟩ ?_),
    Does.runs ((h.2 0 0xA0 0xA0 up ?_).2.1 0x400 0 ?_ ?_ ⟨by decide +kernel, by decide +kernel⟩ ?_ ?_)⟩ <;>
    decide +kernel

/-- The domain of engine 0xA0 is ON. -/
def engineOn : State := page 0x10 [(0x104, 2)] lite
/-- A context whose quantity 0x1F0 has a latched and a staged word for function 0. -/
def quantity : State :=
  { ctxOf (page 0x10 [(0x1EC, 2)] lite) 3 3 0 with staged := [((0, regKey 0x403 0x1F0), 0x1234)], latched := [((0, regKey 0x403 0x1F4), 0x55)] }

theorem witness_registerAccess (h : Obligations.RegisterAccess) :
    Runs (.registerWrite 0 0xA0 0x44 8 7) engineOn ∧
    Runs (.registerWrite 0 0x4000 0 4 7) engineOn ∧
    Runs (.registerWrite 0 0xA0 0x3C 4 7) engineOn ∧
    Runs (.rcFieldRead 0 0xA0 0x42 4 7) engineOn ∧
    Runs (.rcFieldRead 0 0x4000 1 1 7) engineOn ∧
    Runs (.rcFieldRead 0 0xA0 0x42 2 7) engineOn ∧
    Runs (.quantityLowWordRead 0 0x403 0x1F1 1) quantity ∧
    Runs (.quantityLowWordRead 0 0x403 0x1F4 4) quantity ∧
    Runs (.quantityLowerWordWrite 0 0x403 0x1F0 0) quantity ∧
    Runs (.quantityHighestWordWrite 0 0x403 0x1F4 0) quantity ∧
    Runs (.ppLayerBaseWrite 0 0x403 0) quantity ∧
    Runs (.offPageAccess 0 0xA0 4 (some 7)) lite ∧
    Runs (.offPageAccess 0 0xA0 4 none) lite ∧
    Runs (.offPageAccess 0 0xA0 0x40 none) lite := by
  have at3 : ∀ off, off = 0x1F0 ∨ off = 0x1F4 → Lands quantity 0 0x403 off 0x403 off := by
    rintro _ (rfl | rfl) <;> exact ⟨by decide +kernel, by decide +kernel⟩
  refine ⟨Does.runs ((h 0 0xA0 _).1 0x44 8 7 ?_ ?_),
    Does.runs ((h 0 0x4000 _).2.1 0 7 ?_),
    Does.runs ((h 0 0xA0 _).2.2.2.1 0xA0 7 ⟨by decide +kernel, by decide +kernel⟩ ?_ ?_),
    Does.runs (((h 0 0xA0 _).2.2.2.2.1 0x42 7).1 4 ?_),
    Does.runs (((h 0 0x4000 _).2.2.2.2.1 1 7).2.2 1 ?_ ?_ ?_),
    Does.runs ((h 0 0xA0 _).2.2.2.2.2.1 0x42 2 0xA0 0x40 7 ?_ ?_ ⟨by decide +kernel, by decide +kernel⟩ ?_ ?_ ?_ ?_),
    Does.runs (((h 0 0x403 _).2.2.2.2.2.2.1 0x1F1 1 0x403 0x1F0 0x1F0 2 ?_ ?_ (at3 _ (.inl rfl)) ?_).1 ?_),
    Does.runs (((h 0 0x403 _).2.2.2.2.2.2.1 0x1F4 4 0x403 0x1F4 0x1F0 2 ?_ ?_ (at3 _ (.inr rfl)) ?_).2.1
      ((0, regKey 0x403 0x1F4), 0x55) ?_ ?_),
    Does.runs ((((h 0 0x403 _).2.2.2.2.2.2.1 0x1F0 4 0x403 0x1F0 0x1F0 2 ?_ ?_ (at3 _ (.inl rfl)) ?_).2.2 0 ?_ ?_ ?_ ?_).1 ?_),
    Does.runs ((((h 0 0x403 _).2.2.2.2.2.2.1 0x1F4 4 0x403 0x1F4 0x1F0 2 ?_ ?_ (at3 _ (.inr rfl)) ?_).2.2 0 ?_ ?_ ?_ ?_).2 ?_
      (.quantityHighestWordWrite 0 0x403 0x1F4 0) ?_),
    Does.runs ((((h 0 0x403 _).2.2.2.2.2.2.1 0x1F4 4 0x403 0x1F4 0x1F0 2 ?_ ?_ (at3 _ (.inr rfl)) ?_).2.2 0 ?_ ?_ ?_ ?_).2 ?_
      (.ppLayerBaseWrite 0 0x403 0) ?_),
    Does.runs (((h 0 0xA0 lite).2.2.2.2.2.2.2 4 0xA0 4 7 ?_).2 ?_ ?_ ?_).1,
    Does.runs ((((h 0 0xA0 lite).2.2.2.2.2.2.2 4 0xA0 4 7 ?_).2 ?_ ?_ ?_).2.1 ?_ ?_),
    Does.runs ((((h 0 0xA0 lite).2.2.2.2.2.2.2 0x40 0xA0 0x40 7 ?_).2 ?_ ?_ ?_).2.2 ?_)⟩ <;>
    decide +kernel

/-- Buffers 0, 1 and 3 of pool 1 are in use. -/
def buffers : State :=
  { pools up with talus := [(0x10000000, ⟨1, false⟩), (0x10000001, ⟨2, false⟩), (0x10000003, ⟨1, true⟩)] }

theorem witness_talusAllocation (h : Obligations.TalusAllocation) :
    Runs (.talusAlloc 5 1) buffers ∧
    Runs (.talusAlloc 5 1) up := by
  refine ⟨Does.runs ((h 5 1 buffers).1 ?_ ?_),
    Does.runs ((h 5 1 up).2 ?_ ?_)⟩ <;>
    decide +kernel

theorem witness_talusFreeChecks (h : Obligations.TalusFreeChecks) :
    Runs (.talusFree 1 0xFFFFFFFF) buffers ∧
    Runs (.talusFree 1 0x100003E8) buffers ∧
    Runs (.talusFree 1 0x100003E7) buffers ∧
    Runs (.talusFree 1 0x10000001) buffers ∧
    Runs (.talusFree 1 0x10000003) buffers ∧
    Runs (.talusFree 1 0x10000000) buffers := by
  refine ⟨Does.runs ((h 1 0xFFFFFFFF buffers).1 ?_),
    Does.runs ((h 1 0x100003E8 buffers).2.1 ?_ ?_),
    Does.runs ((h 1 0x100003E7 buffers).2.2.1 ?_ ?_ ?_),
    Does.runs ((h 1 0x10000001 buffers).2.2.2.1 ?_ ?_ ?_ ?_),
    Does.runs ((h 1 0x10000003 buffers).2.2.2.2.1 ?_ ?_ ?_ ?_ ?_),
    Does.runs ((h 1 0x10000000 buffers).2.2.2.2.2 ?_ ?_ ?_ ?_ ?_)⟩ <;>
    decide +kernel

/-- 64 GiB are populated, and pool 0 has a base. -/
def capacity64 : State :=
  withRegs lite [(0x60, 0x104, 0x10), (0x60, 0x10C, 0xF), (0x60, 0x110, 0x4000000), (0x50, 0x104, 1)]
def pool0 : State := page 0x50 [(0x108, 2 ^ 24 + 1000)] capacity64

theorem witness_poolControl (h : Obligations.PoolControl) :
    Runs (.poolEnable 0 0x10000) capacity64 ∧
    Runs (.poolEnable 0 0x10001) capacity64 ∧
    Runs (.poolEnable 0 5) pool0 ∧
    Runs (.poolDisable 0 5) pool0 ∧
    Runs (.poolDisable 0 5) ({ pool0 with talus := [(0, ⟨1, false⟩)] }) := by
  refine ⟨Does.runs ((h 0 65536 capacity64).1 ?_ ?_),
    Does.runs ((h 0 65537 capacity64).2.1 ?_ ?_),
    Does.runs ((h 0 5 pool0).2.2.1 ?_),
    Does.runs ((h 0 5 pool0).2.2.2.1 ?_ ?_),
    Does.runs ((h 0 5 ({ pool0 with talus := [(0, ⟨1, false⟩)] })).2.2.2.2 ?_ ?_)⟩ <;>
    decide +kernel

/-- Channels 0 and 1 take turns every 512 bytes; their domain is ON, and channel 1 is in service. -/
def memory : State :=
  withRegs capacity64 [(0x10, 0x1CC, 2), (0x60, 0x600, 0x80), (0x60, 0x604, 0x81), (0x61, 0x40, 0x2002)]
/-- Channel 1 holds a read and a write of one granule. -/
def queued1 : State :=
  modDmc memory 1 ({ · with reads := [⟨0x8000200, [], 5⟩], writes := [⟨0x8000200, granuleData 3 [some 1, none, some 7], 6⟩] })

theorem witness_dramRequests (h : Obligations.DramRequests) :
    Runs (.dramRequest true 0 []) memory ∧
    Runs (.dramRequest false 134218240 []) memory ∧
    Runs (.dramRequest false 134218245 [some 5, none, some 6]) memory ∧
    Runs (.dramRequest false 134218245 [some 5, none, some 6]) queued1 := by
  refine ⟨Does.runs ((h true 0 [] memory).1 ?_ ?_),
    Does.runs (((h false 0x8000200 [] memory).2.2 1 ?_ ?_ ?_ ?_ ?_).1 ?_ ?_),
    Does.runs (((h false 0x8000205 [some 5, none, some 6] memory).2.2 1 ?_ ?_ ?_ ?_ ?_).2.1 ?_ ?_ ?_),
    Does.runs (((h false 0x8000205 [some 5, none, some 6] queued1).2.2 1 ?_ ?_ ?_ ?_ ?_).2.2 ?_ ?_)⟩ <;>
    decide +kernel

def req1 (s : State) : DramReq := (pickReq s 1 []).getD ⟨0, [], 0⟩
def reads1 : State := page 0x60 [(0x208, 0x10000), (0x20C, 3)] (modDmc memory 1 ({ · with reads := [⟨0x8000200, [], 5⟩] }))
def writes1 : State := modDmc memory 1 ({ · with writes := [⟨0x8000200, granuleData 3 [some 1, none, some 7], 6⟩] })

theorem witness_dramIssueServes (h : Obligations.DramIssueServes) :
    Runs (.dramIssue 1 [] []) memory ∧
    Runs (.dramIssue 1 [] []) writes1 ∧
    Runs (.dramIssue 1 [] [2]) reads1 ∧
    Runs (.dramIssue 1 [] [2]) reads1 := by
  refine ⟨Does.runs ((h 1 [] [] memory ?_ ?_).1 ?_),
    Does.runs (((h 1 [] [] writes1 ?_ ?_).2 (req1 writes1) ?_).1 ?_),
    Does.runs (((h 1 [] [2] reads1 ?_ ?_).2 (req1 reads1) ?_).2.1 ?_),
    Does.runs (((h 1 [] [2] reads1 ?_ ?_).2 (req1 reads1) ?_).2.2 ?_ ?_)⟩ <;>
    decide +kernel

def trains : State := page 0x61 [(0x40, 0x2081)] memory

theorem witness_refreshAndPolling (h : Obligations.RefreshAndPolling) :
    Runs (.refreshInterval 1 1) (page 0x61 [(0x40, 0x2082), (0x1C, 0x22222222)] memory) ∧
    Runs (.refreshIssue 1 1) (page 0x61 [(0x40, 0x2082), (0x1C, 0x22222222)] memory) ∧
    Runs (.mr4Poll 1 0 false) (page 0x61 [(0x40, 0x2082), (0x1C, 0x22222222)] memory) ∧
    Runs (.mr4Poll 1 0 true) (page 0x61 [(0x40, 0x2082), (0x1C, 0x22222222)] memory) ∧
    Runs (.trainingRun 1 0x7030501) memory ∧
    Runs (.trainingRun 1 0x7030501) trains ∧
    Runs (.runDone 1 [1]) (page 0x81 [(0x64, 2)] trains) := by
  refine ⟨Does.runs ((h 1 1 (page 0x61 [(0x40, 0x2082), (0x1C, 0x22222222)] memory)).1 ?_ ?_ ?_),
    Does.runs ((h 1 1 (page 0x61 [(0x40, 0x2082), (0x1C, 0x22222222)] memory)).2.1 ?_ ?_ ?_),
    Does.runs (((h 1 1 (page 0x61 [(0x40, 0x2082), (0x1C, 0x22222222)] memory)).2.2.1 0 false ?_ ?_).1 ?_),
    Does.runs (((h 1 1 (page 0x61 [(0x40, 0x2082), (0x1C, 0x22222222)] memory)).2.2.1 0 true ?_ ?_).2 ?_ ?_),
    Does.runs ((h 1 0 memory).2.2.2.1 0x07030501 ?_),
    Does.runs ((h 1 0 trains).2.2.2.2.1 0x07030501 ?_),
    Does.runs ((h 1 0 (page 0x81 [(0x64, 2)] trains)).2.2.2.2.2 [1] ?_)⟩ <;>
    decide +kernel

/-- Region 1 begins at 4 GiB. -/
def region (ctl : Nat) : State := page 0x60 ([(0x214, 1), (0x218, 4)] ++ if ctl = 1 then [(0x21C, 1)] else []) capacity64

theorem witness_regionControl (h : Obligations.RegionControl) :
    Runs (.regionEnable 1) (page 0x60 [(0x208, 0x10000), (0x20C, 3)] (region 0)) ∧
    Runs (.regionEnable 1) (region 0) ∧
    Runs (.regionDisable 0) (region 0) ∧
    Runs (.regionDisable 1) (withRegs (region 1) [(0x50, 0x108, 2 ^ 24 + 5)]) ∧
    Runs (.regionDisable 1) (region 1) ∧
    Runs (.initDone 0) (region 0) := by
  refine ⟨Does.runs ((h 1 (page 0x60 [(0x208, 0x10000), (0x20C, 3)] (region 0))).1 ?_ ?_),
    Does.runs ((h 1 (region 0)).2.1 ?_ ?_),
    Does.runs ((h 0 (region 0)).2.2.1 ?_),
    Does.runs ((h 1 (withRegs (region 1) [(0x50, 0x108, 2 ^ 24 + 5)])).2.2.2.1 ?_ ?_ ?_),
    Does.runs ((h 1 (region 1)).2.2.2.2.1 ?_ ?_ ?_ ?_),
    Does.runs ((h 0 (region 0)).2.2.2.2.2 ?_ ?_)⟩ <;>
    decide +kernel

/-- Channel 0 has a transfer in the set at `base` (0x40: shadow, 0x400: active): source, destination, bytes, rows, control
word. -/
def xferAt (base src dst len rows ctl : Nat) : State :=
  page 0x41 ([(0, src), (8, dst), (0x10, len), (0x14, rows), (0x18, 2000), (0x1C, 3000), (0x20, ctl), (0x24, 0x8000000)].map
    fun x => (base + x.1, x.2)) memory
def shadow0 (src dst len rows ctl : Nat) : State := xferAt 0x40 src dst len rows ctl
def active0 (src dst ctl : Nat) : State :=
  modChan (xferAt 0x400 src dst 1000 2 ctl) 0 ({ · with active := true, seq := 1 })
def moves : State := shadow0 0x8000000 0x9000000 1000 1 7
def arms (s : State) : State := page 0x41 [(0x6C, 1)] s
def inMotion : State := modChan moves 0 ({ · with active := true, done := 5 })
/-- DRAM groups sleep where the transfer goes. -/
def sleeps (ctl : Nat) : State := noRegs (arms (shadow0 0x8000000 0x9000000 1000 1 ctl)) [(0x10, 0x1CC)]

theorem witness_dmaChannelControl (h : Obligations.DmaChannelControl) :
    Runs (.chOwnerWrite 0 5) moves ∧
    Runs (.chOwnerWrite 0 5) (arms moves) ∧
    Runs (.dmaArm 0 0) inMotion ∧
    Runs (.dmaArm 0 0) (arms moves) ∧
    Runs (.dmaArm 1 0) moves ∧
    Runs (.dmaAbort 1 0) moves ∧
    Runs (.dmaAbort 0 0) inMotion ∧
    Runs (.dmaAbort 0 0) moves ∧
    Runs (.dmaAbort 0 0) (arms moves) := by
  refine ⟨Does.runs ((h 0 0 5 _).1 ?_ ?_),
    Does.runs ((h 0 0 5 _).2.1 ?_),
    Does.runs ((h 0 0 5 _).2.2.1 ?_ ?_ ?_),
    Does.runs ((h 0 0 5 _).2.2.2.1 ?_ ?_),
    Does.runs (((h 1 0 5 _).2.2.2.2.1 ?_).1),
    Does.runs (((h 1 0 5 _).2.2.2.2.1 ?_).2),
    Does.runs ((h 0 0 5 _).2.2.2.2.2.1 ?_ ?_ ?_),
    Does.runs ((h 0 0 5 _).2.2.2.2.2.2.1 ?_ ?_ ?_),
    Does.runs ((h 0 0 5 _).2.2.2.2.2.2.2 ?_ ?_ ?_)⟩ <;>
    decide +kernel

theorem witness_dmaPromotion (h : Obligations.DmaPromotion) :
    Runs (.promotion 0) (arms (shadow0 0x8000000 0x9000000 0 1 7)) ∧
    Runs (.promotion 0) (arms (shadow0 0x8000000 0x8000010 100 2 7)) ∧
    Runs (.promotion 0) (page 0x40 [(0x100, 1)] (arms moves)) ∧
    Runs (.promotion 0) (sleeps 3) ∧
    Runs (.promotion 0) (arms moves) ∧
    Runs (.dmaArm 0 0) moves ∧
    Runs (.promotion 0) (sleeps 0xB) := by
  refine ⟨Does.runs ((h _ 0 _ (.inl ⟨rfl, ?_⟩) ?_).1 ?_),
    Does.runs ((h _ 0 _ (.inl ⟨rfl, ?_⟩) ?_).2.1 ?_ ?_),
    Does.runs ((h _ 0 _ (.inl ⟨rfl, ?_⟩) ?_).2.2.1 ?_ ?_ ?_),
    Does.runs ((h _ 0 _ (.inl ⟨rfl, ?_⟩) ?_).2.2.2.1 ?_ ?_ ?_ ?_ ?_),
    Does.runs ((h _ 0 _ (.inl ⟨rfl, ?_⟩) ?_).2.2.2.2.1 ?_ ?_ ?_ ?_),
    Does.runs ((h _ 0 _ (.inr ⟨0, rfl, ?_, ?_⟩) ?_).2.2.2.2.1 ?_ ?_ ?_ ?_),
    Does.runs ((h _ 0 _ (.inl ⟨rfl, ?_⟩) ?_).2.2.2.2.2 ?_ ?_ ?_ ?_ ?_)⟩ <;>
    decide +kernel

theorem witness_dmaBurstCopies (h : Obligations.DmaBurstCopies) :
    Runs (.dmaBurst 0 [] none) (active0 0x123 0x8000010 6) ∧
    Runs (.dmaBurst 0 [] none) (active0 0x8000123 0x8000010 5) ∧
    Runs (.dmaBurst 0 [] (some .hostErr)) (active0 0x123 0x8000010 6) ∧
    Runs (.dmaBurst 0 [] (some .memPoison)) (active0 0x8000000 0x9000000 7) := by
  refine ⟨Does.runs ((h 0 [] (active0 0x123 0x8000010 6) ?_ ?_).1 ?_ ?_),
    Does.runs ((h 0 [] (active0 0x8000123 0x8000010 5) ?_ ?_).2.1 ?_ ?_),
    Does.runs ((h 0 [] (active0 0x123 0x8000010 6) ?_ ?_).2.2.1 ?_),
    Does.runs ((h 0 [] (active0 0x8000000 0x9000000 7) ?_ ?_).2.2.2 ?_)⟩ <;>
    decide +kernel

def word0 : StatWord := ⟨0, 65535, 2, true, true, 0x8000000, true⟩

theorem witness_dmaStatusWords (h : Obligations.DmaStatusWords) :
    Runs (.dmaStatusWrite 0) (modChan moves 0 ({ · with pend := [word0] })) := by
  refine Does.runs (h 0 (modChan moves 0 ({ · with pend := [word0] })) word0 [] ?_ ?_) <;>
    decide +kernel

/-- Source 300 is pending for function 0, with vector 5. -/
def pending300 : State :=
  { withRegs up [(srcPage 300, 0x40 + 16 * srcIdx 300, 0x50012), (srcPage 300, 0x44 + 16 * srcIdx 300, 1), (0x20, 0x104, 9), (0x180, 0x5C, 0)] with
    srcs := [(300, ⟨true, false, false, none, 0⟩)]
    funcs := [(0, { getFunc up 0 with msix := true, master := true })] }

theorem witness_deliveryPicksAndMarks (h : Obligations.DeliveryPicksAndMarks) :
    Runs (.irqDelivery) up ∧
    Runs (.irqDelivery) pending300 := by
  refine ⟨Does.runs ((h up).1 ?_),
    Does.runs (((h pending300).2 300 0 ?_).2.2.2.2.2)⟩ <;>
    decide +kernel

def claims (n depth : Nat) : State := modTgt pending300 0 ({ · with claimId := n, stack := List.replicate depth (3, 1) })

theorem witness_claimReads (h : Obligations.ClaimReads) :
    Runs (.claimRead 0 none) (claims 300 7) ∧
    Runs (.claimRead 0 (some 5)) (claims 0x3FF 0) ∧
    Runs (.claimRead 0 none) (claims 300 8) := by
  refine ⟨Does.runs ((h 0 none (claims 300 7)).1 ?_ ?_),
    Does.runs ((h 0 (some 5) (claims 0x3FF 0)).2.1 ?_),
    Does.runs ((h 0 none (claims 300 8)).2.2 ?_ ?_)⟩ <;>
    decide +kernel

theorem witness_eoiPopsTheStack (h : Obligations.EoiPopsTheStack) :
    Runs (.eoi 0 3) (claims 300 1) ∧
    Runs (.eoi 0 4) (claims 300 1) ∧
    Runs (.eoi 0 3) up := by
  refine ⟨Does.runs ((h 0 3 (claims 300 1)).1 3 1 [] ?_ ?_),
    Does.runs ((h 0 4 (claims 300 1)).2.1 3 1 [] ?_ ?_),
    Does.runs ((h 0 3 up).2.2 ?_)⟩ <;>
    decide +kernel

theorem witness_edgeSourcesAndHoldoff (h : Obligations.EdgeSourcesAndHoldoff) :
    Runs (.holdoffExpiry 1) (page 0x20 [(0x104, 0x10007)]) := by
  refine Does.runs ((h.2).2 1 (page 0x20 [(0x104, 0x10007)]) ?_ ?_) <;>
    decide +kernel

theorem witness_msixMasks (h : Obligations.MsixMasks) :
    Runs (.msixUnmask 63 (some 63)) up := by
  refine Does.runs (h.1 63 63 up ?_) <;>
    decide +kernel

/-- Domain `d` is in state `n`. -/
def dom (d n : Nat) (s : State) : State :=
  if n = 0 then noRegs s [(0x10, 0x100 + 4 * d)] else page 0x10 [(0x100 + 4 * d, n)] s

/-- Group 53 has no memory. -/
def noGroup : State := { noRegs up [(0x10, 0x100 + 4 * 53), (0x68, 0x40)] with chip := { up.chip with memReady := true } }

theorem witness_domainCommands (h : Obligations.DomainCommands) :
    Runs (.powerDown 3) (page 0x10 [(0x40, 0x1000)]) ∧
    Runs (.powerUp 3) (page 0x10 [(0x40, 0x1000)]) ∧
    Runs (.powerDown 63) up ∧
    Runs (.powerUp 63) up ∧
    Runs (.powerDown 3) (dom 3 0 up) ∧
    Runs (.powerDown 3) up ∧
    Runs (.powerDown 3) (page 0xA2 [(4, 0x11)]) ∧
    Runs (.powerDown 52) (modDmc up 4 ({ · with writes := [⟨0, [some 1], 5⟩] })) ∧
    Runs (.powerUp 3) up ∧
    Runs (.powerUp 3) (dom 3 0 up) ∧
    Runs (.powerUp 53) noGroup := by
  refine ⟨Does.runs (((h 3 (page 0x10 [(0x40, 0x1000)])).1 ?_).1),
    Does.runs (((h 3 (page 0x10 [(0x40, 0x1000)])).1 ?_).2),
    Does.runs (((h 63 up).2.1 ?_ ?_).1),
    Does.runs (((h 63 up).2.1 ?_ ?_).2),
    Does.runs ((h 3 (dom 3 0 up)).2.2.1 ?_ ?_ ?_),
    Does.runs ((h 3 up).2.2.2.1 ?_ ?_ ?_ ?_),
    Does.runs ((h 3 (page 0xA2 [(4, 0x11)])).2.2.2.2.1 ?_ ?_ ?_ ?_ ?_),
    Does.runs ((h 52 (modDmc up 4 ({ · with writes := [⟨0, [some 1], 5⟩] }))).2.2.2.2.2.1 ?_ ?_ ?_ ?_ ?_),
    Does.runs ((h 3 up).2.2.2.2.2.2.1 ?_ ?_ ?_),
    Does.runs ((h 3 (dom 3 0 up)).2.2.2.2.2.2.2.1 ?_ ?_ ?_ ?_ ?_),
    Does.runs ((h 53 noGroup).2.2.2.2.2.2.2.2 ?_ ?_ ?_ ?_)⟩ <;>
    decide +kernel

/-- Writes wait at a controller of group 52 while it drains for a command. -/
def writesWait : State :=
  modDom (modDmc (dom 52 3 up) 4 ({ · with writes := [⟨0, [some 1], 5⟩] })) 52 ({ · with down := true, byCmd := true })
def regWoken : State := modDom up 50 ({ · with regWake := true })

theorem witness_domainsPowerOff (h : Obligations.DomainsPowerOff) :
    Runs (.domainQuiet 52) (dom 52 3 up) ∧
    Runs (.rampEnd 59) (dom 59 4 up) ∧
    Runs (.pdTimeoutExpiry 52) writesWait ∧
    Runs (.idlePowerGate 3) up ∧
    Runs (.offPageIdle 50) regWoken ∧
    Runs (.offPageIdle 3) (holding (modDom up 3 ({ · with regWake := true })) 0xA2 [held (.segment x0) 1]) := by
  refine ⟨Does.runs ((h 52 (dom 52 3 up)).1 ?_ ?_),
    Does.runs ((h 59 (dom 59 4 up)).2.1 ?_ ?_),
    Does.runs ((h 52 writesWait).2.2.1 ?_ ?_ ?_ ?_),
    Does.runs ((h 3 up).2.2.2.1 ?_ ?_ ?_ ?_ ?_),
    Does.runs (((h 50 regWoken).2.2.2.2 ?_).2.1 ?_),
    Does.runs (((h 3 (holding (modDom up 3 ({ · with regWake := true })) 0xA2 [held (.segment x0) 1])).2.2.2.2
        ?_).2.2 ?_)⟩ <;>
    decide +kernel

def wakes : State := modDom (dom 3 0xFFFF0000 up) 3 ({ · with wakeDue := true })

theorem witness_domainsWake (h : Obligations.DomainsWake) :
    Runs (.domainWake 3) wakes ∧
    Runs (.domainOn 52) (dom 52 1 up) ∧
    Runs (.wakeFail 3) (page 0x10 [(0x1C, 0x22222222)] (modDom (dom 3 1 up) 3 ({ · with wakeAt := 5, byCmd := true }))) := by
  refine ⟨Does.runs ((h 3 wakes).1 ?_),
    Does.runs ((h 52 (dom 52 1 up)).2.1 ?_ ?_ ?_ ?_ ?_ ?_ ?_ ?_),
    Does.runs ((h 3 (page 0x10 [(0x1C, 0x22222222)] (modDom (dom 3 1 up) 3
        ({ · with wakeAt := 5, byCmd := true })))).2.2 ?_ ?_ ?_)⟩ <;>
    decide +kernel

/-- Every rail has been good for 2 ms. -/
def powered : State :=
  { State.reset with
    devtime := 5000000
    chip := { State.reset.chip with rails := List.replicate 11 true, aonUp := true, railsAt := 3000000 } }

theorem witness_railsAndResets (h : Obligations.RailsAndResets) :
    Runs (.railsGood) State.reset ∧
    Runs (.aonPowerOnResetRelease) State.reset ∧
    Runs (.chipPowerOnResetRelease 1 5 []) powered ∧
    Runs (.chipReset 0x5EA7FFFF 1 5) up ∧
    Runs (.chipReset 0x5EA6FFFF 1 5) up := by
  refine ⟨Does.runs ((h State.reset 1 5).1 ?_),
    Does.runs ((h State.reset 1 5).2.1 ?_),
    Does.runs ((h powered 1 5).2.2.1 [] ?_ ?_ ?_ ?_ ?_),
    Does.runs ((h up 1 5).2.2.2.2.1 0x5EA7FFFF ?_ ?_ ?_),
    Does.runs ((h up 1 5).2.2.2.2.2 0x5EA6FFFF ?_)⟩ <;>
    decide +kernel

theorem witness_clocksAndVoltage (h : Obligations.ClocksAndVoltage) :
    Runs (.engFreqWrite 5) up ∧
    Runs (.engFreqWrite 0xC) up ∧
    Runs (.rtcLoss) up ∧
    Runs (.rtcLoss) (page 0x11 [(0x48, 0xFFFFFFFF), (0x1C, 0x22222222)]) := by
  refine ⟨Does.runs ((h up 5).2.1 ?_),
    Does.runs ((h up 12).2.2.1 ?_),
    Does.runs ((h up 5).2.2.2.2.1 ?_),
    Does.runs ((h (page 0x11 [(0x48, 0xFFFFFFFF), (0x1C, 0x22222222)]) 5).2.2.2.2.2 ?_ ?_)⟩ <;>
    decide +kernel

def released1 : State := { powered with chip := { powered.chip with por := false, padsOn := true } }
def romChecked : State := { released1 with chip := { released1.chip with romOk := true } }
def firmware : State := page 0 [(0x44, 0xFFFFFFFF)] { romChecked with chip := { romChecked.chip with fwRuns := true } }

theorem witness_bringupSteps (h : Obligations.BringupSteps) :
    Runs (.bedrockRomCheck { rom := true, fuse := true, core := true, sram := true }) released1 ∧
    Runs (.bedrockRomCheck { rom := false, fuse := true, core := true, sram := true }) released1 ∧
    Runs (.bedrockRomCheck { rom := true, fuse := false, core := true, sram := true }) released1 ∧
    Runs (.bedrockRomCheck { rom := true, fuse := true, core := false, sram := true }) released1 ∧
    Runs (.firmwareVerified .verifyFail .rollback) romChecked ∧
    Runs (.firmwareVerified .verifyFail (.valid 0)) romChecked ∧
    Runs (.interleaveTableWrite [] []) firmware ∧
    Runs (.interleaveTableWrite (List.replicate 24 (some 1)) (List.replicate 48 1000)) (dom 51 2 firmware) := by
  refine ⟨Does.runs (((h released1).1 ?_ ?_ ?_).1),
    Does.runs (((h released1).1 ?_ ?_ ?_).2.1 ({ rom := false, fuse := true, core := true, sram := true }) ?_),
    Does.runs (((h released1).1 ?_ ?_ ?_).2.2.1 ({ rom := true, fuse := false, core := true, sram := true }) ?_ ?_),
    Does.runs (((h released1).1 ?_ ?_ ?_).2.2.2 ({ rom := true, fuse := true, core := false, sram := true }) ?_ ?_
        ?_),
    Does.runs ((h romChecked).2.1 .verifyFail .rollback ?_ ?_ ?_ ?_ ?_ ?_),
    Does.runs ((h romChecked).2.2.1 .verifyFail (.valid 0) 1 0 true ?_ ?_ ?_ ?_ ?_ ?_ ?_),
    Does.runs (((h firmware).2.2.2.2 [] [] ?_ ?_ ?_).1 ?_),
    Does.runs (((h (dom 51 2 firmware)).2.2.2.2 (List.replicate 24 (some 1)) (List.replicate 48 1000) ?_ ?_ ?_).2
        ?_)⟩ <;>
    decide +kernel

theorem witness_faultsAreRaised (h : Obligations.FaultsAreRaised) :
    Runs (.faultRaise 96 0 0) (page 0x60 [(0x1C, 0x22222222)]) ∧
    Runs (.faultRaise 96 0 0) (page 0x60 [(0x1C, 0x22222222), (0x14, 0)]) ∧
    Runs (.faultForce 96 1) (page 0x60 [(0x1C, 0x22222222)]) ∧
    Runs (.faultForce 96 0x20) (page 0x60 [(0x1C, 0x22222222)]) ∧
    Runs (.faultFirstClear 96) (page 0x60 [(0x1C, 0x22222222)]) := by
  refine ⟨Does.runs (((h 0x60 0 (page 0x60 [(0x1C, 0x22222222)])).1 0x0000#16 ?_ ?_ ?_ ?_).1 ?_),
    Does.runs (((h 0x60 0 (page 0x60 [(0x1C, 0x22222222), (0x14, 0)])).1 0x0000#16 ?_ ?_ ?_ ?_).2 ?_),
    Does.runs ((h 0x60 0 (page 0x60 [(0x1C, 0x22222222)])).2.1 0x00000001#32 ?_ ?_ ?_ ?_ ?_ ?_),
    Does.runs ((h 0x60 5 (page 0x60 [(0x1C, 0x22222222)])).2.2.1 0x00000020#32 ?_),
    Does.runs ((h 0x60 5 (page 0x60 [(0x1C, 0x22222222)])).2.2.2 ?_)⟩ <;>
    decide +kernel

def blockReset (p : Nat) : State := { up with bdrk := { up.bdrk with resets := [p], shadows := [(p, none)] } }
def worksAt (p : Nat) (j : Job) : State := holding (coding [seg .running]) p [held j 1]

theorem witness_resetsAndShadowsEnd (h : Obligations.ResetsAndShadowsEnd) :
    Runs (.blockResetEnd 0x110) (blockReset 0x110) ∧
    Runs (.blockResetEnd 0xA0) (blockReset 0xA0) ∧
    Runs (.blockResetEnd 0x110) up ∧
    Runs (.shadowClose 0xA0) (blockReset 0xA0) ∧
    Runs (.shadowClose 0x110) up ∧
    Runs (.stageWatchdogExpiry 0xA1 1 5) (worksAt 0xA1 (.segment x0)) ∧
    Runs (.stageWatchdogExpiry 0xA1 2 5) (worksAt 0xA1 (.segment x0)) ∧
    Runs (.stageWatchdogExpiry 0xA1 20000 5) (worksAt 0xA1 (.segment x0)) ∧
    Runs (.stageWatchdogExpiry 0xF1 1 5) (worksAt 0xF1 (.ppu 3 50)) ∧
    Runs (.stageWatchdogExpiry 0xF1 100000 5) (worksAt 0xF1 (.ppu 3 50)) ∧
    Runs (.stageWatchdogExpiry 0x110 0 0) up := by
  refine ⟨Does.runs ((h 0x110 _).1 ?_ ?_),
    Does.runs ((h 0xA0 _).2.1 ?_ ?_ ?_),
    Does.runs ((h 0x110 _).2.2.1 ?_),
    Does.runs ((h 0xA0 _).2.2.2.1 ?_),
    Does.runs ((h 0x110 _).2.2.2.2.1 ?_),
    Does.runs (((h 0xA1 _).2.2.2.2.2.1 1 5 ?_ ?_).1 ?_ ?_),
    Does.runs (((h 0xA1 _).2.2.2.2.2.1 2 5 ?_ ?_).2.1 ?_ ?_),
    Does.runs (((h 0xA1 _).2.2.2.2.2.1 20000 5 ?_ ?_).2.2 ?_),
    Does.runs (((h 0xF1 _).2.2.2.2.2.2.1 1 5 ?_ ?_).1 ?_),
    Does.runs (((h 0xF1 _).2.2.2.2.2.2.1 100000 5 ?_ ?_).2 ?_),
    Does.runs ((h 0x110 _).2.2.2.2.2.2.2 0 0 ?_)⟩ <;>
    decide +kernel

def logged (n : Nat) : LogEntry := { logEntry0 with code := n }
def logs : State := { up with bdrk := { up.bdrk with queue := [logged 3, logged 4], toNor := [5, 6], log := [(5, logged 9)], norNext := 2047 } }

theorem witness_theLogRing (h : Obligations.TheLogRing) :
    Runs (.logEntryWrite) logs ∧
    Runs (.logNorCopy) logs := by
  refine ⟨Does.runs ((h logs).1 (logged 3) [logged 4] ?_ ?_ ?_),
    Does.runs ((h logs).2.2 5 [6] ?_)⟩ <;>
    decide +kernel

/-! ### Witnesses of statements about something else than one command's next state -/

theorem witness_stepRunsTheFrontCommand (h : Obligations.StepRunsTheFrontCommand) : ∃ t, step lite = .next t :=
  ⟨_, h.2 lite rfl⟩

theorem witness_everyStepKeepsTheInvariant :
    Inv lite ∧ step lite = .next { lite with devtime := lite.devtime + 1 } :=
  ⟨⟨by decide +kernel, by decide +kernel⟩, rfl⟩

theorem witness_checksRunInOrder (h : Obligations.ChecksRunInOrder) :
    checkCmd (ctxOf lite 3 3 0) 0 (cmd 3 9 3 7 [1]) = some 0x10 ∧
    checkCmd (ctxOf lite 3 3 0) 0 (cmd 3 9 3 6 []) = some 0x11 ∧
    checkCmd (ctxOf lite 3 3 0) 5 (cmd 3 9 3 7 []) = some 0x13 ∧
    checkCmd (ctxOf lite 3 3 0) 0 (cmd 3 9 3 7 []) = some 0x11 ∧
    checkCmd (ctxOf lite 3 2 0) 0 (cmd 3 9 3 7 []) = none ∧
    (stateOk 0x0F 5 = true ↔ True) := by
  refine ⟨(h.1 (ctxOf lite 3 3 0) 0 (cmd 3 9 3 7 [1])).1 ?_, (h.1 (ctxOf lite 3 3 0) 0 (cmd 3 9 3 6 [])).2.1 ?_ ?_,
    (h.1 (ctxOf lite 3 3 0) 5 (cmd 3 9 3 7 [])).2.2.1 ?_ ?_ ?_,
    (h.1 (ctxOf lite 3 3 0) 0 (cmd 3 9 3 7 [])).2.2.2.1 ?_ ?_ ?_ ?_,
    (h.1 (ctxOf lite 3 2 0) 0 (cmd 3 9 3 7 [])).2.2.2.2 ?_ ?_ ?_ ?_,
    (h.2 0x0F 5 ?_).trans (by decide)⟩ <;>
    decide +kernel

theorem witness_openTakesAContext_stale (h : Obligations.OpenTakesAContext) :
    checkCmd (ctxOf lite 3 3 0) 0 (cmd 3 9 3 6 []) = some 0x11 := by
  refine h.2 (ctxOf lite 3 3 0) 0 (cmd 3 9 3 6 []) ?_ ?_ <;> decide +kernel

theorem witness_expertArea_reads (h : Obligations.ExpertArea) :
    peek (fsetb lite 0xA0 F.HDR_EXPERT_KEY_UNLOCKED true) 0xA0 0x400 = peek lite 0xA0 0x400 := by
  refine (h.2 0 0xA0 0xA0 lite ?_).2.2 0x400 ?_ <;> decide +kernel

end Sys2Proof.Tests
end

section
/-! PROOFS. The canonical form of registers and device memory: it holds right after reset and every step keeps it. -/

namespace Sys2Proof.Machine

/-- The dispatcher adds nothing: what a command's meaning keeps, the command keeps. -/
theorem exec_keeps (i : Instr) (s : State) : Answers (mayWrite i) s (exec i s) := by
  cases i <;> dsimp only [exec, mayWrite]
  case registerWrite => exact execRegisterWrite_keeps (.refl _ s) rfl
  case expertKeyWrite => exact execExpertKeyWrite_keeps (.refl _ s) rfl
  case rcFieldRead => exact execRcFieldRead_keeps (.refl _ s) rfl
  case quantityLowWordRead => exact execQuantityLowWordRead_keeps (.refl _ s) rfl
  case quantityLowerWordWrite => exact execQuantityLowerWordWrite_keeps (.refl _ s) rfl
  case quantityHighestWordWrite => exact execQuantityHighestWordWrite_keeps (.refl _ s) rfl
  case sqDoorbell => exact execSqDoorbell_keeps (.refl _ s) rfl
  case cqDoorbell => exact execCqDoorbell_keeps (.refl _ s) rfl
  case ringReset => exact execRingReset_keeps (.refl _ s) rfl
  case ringEnable => exact execRingEnable_keeps (.refl _ s) rfl
  case ringDisable => exact execRingDisable_keeps (.refl _ s) rfl
  case commandFetch => exact execCommandFetch_keeps (.refl _ s) rfl
  case cqEntryWrite => exact execCqEntryWrite_keeps (.refl _ s) rfl
  case ringHoldExpiry => exact execRingHoldExpiry_keeps (.refl _ s) rfl
  case ringLinkErr => exact execRingLinkErr_keeps (.refl _ s) rfl
  case opOpen => exact execOpOpen_keeps (.refl _ s) rfl
  case opConfigure => exact execOpConfigure_keeps (.refl _ s) rfl
  case opStart => exact execOpStart_keeps (.refl _ s) rfl
  case opSubmit => exact execOpSubmit_keeps (.refl _ s) rfl
  case opFlush => exact execOpFlush_keeps (.refl _ s) rfl
  case opReconfig => exact execOpReconfig_keeps (.refl _ s) rfl
  case opForceKey => exact execOpForceKey_keeps (.refl _ s) rfl
  case opSetRate => exact execOpSetRate_keeps (.refl _ s) rfl
  case opLink => exact execOpLink_keeps (.refl _ s) rfl
  case opBind => exact execOpBind_keeps (.refl _ s) rfl
  case opQuery => exact execOpQuery_keeps (.refl _ s) rfl
  case opClose => exact execOpClose_keeps (.refl _ s) rfl
  case undefinedOpcode => exact execUndefinedOpcode_keeps (.refl _ s) rfl
  case pictureEnterCoding => exact execPictureEnterCoding_keeps (.refl _ s) rfl
  case functionLevelReset => exact execFunctionLevelReset_keeps (.refl _ s) rfl
  case linkDown => exact execLinkDown_keeps (.refl _ s) rfl
  case vfEnableChange => exact execVfEnableChange_keeps (.refl _ s) rfl
  case placeWork => exact execPlaceWork_keeps (.refl _ s) rfl
  case segmentFirstCtu => exact execSegmentFirstCtu_keeps (.refl _ s) rfl
  case codingUnitCoded => exact execCodingUnitCoded_keeps (.refl _ s) rfl
  case ctuRowComplete => exact execCtuRowComplete_keeps (.refl _ s) rfl
  case segmentReturn => exact execSegmentReturn_keeps (.refl _ s) rfl
  case searchJobIssue => exact execSearchJobIssue_keeps (.refl _ s) rfl
  case searchJobComplete => exact execSearchJobComplete_keeps (.refl _ s) rfl
  case searchWaitExpiry => exact execSearchWaitExpiry_keeps (.refl _ s) rfl
  case searchDeadlineFallback => exact execSearchDeadlineFallback_keeps (.refl _ s) rfl
  case stageWatchdogExpiry => exact execStageWatchdogExpiry_keeps (.refl _ s) rfl
  case selftestStart => exact execSelftestStart_keeps (.refl _ s) rfl
  case selftestEnd => exact execSelftestEnd_keeps (.refl _ s) rfl
  case engineRetire => exact execEngineRetire_keeps (.refl _ s) rfl
  case engineAdmit => exact execEngineAdmit_keeps (.refl _ s) rfl
  case engineDrained => exact execEngineDrained_keeps (.refl _ s) rfl
  case capacityWrite => exact execCapacityWrite_keeps (.refl _ s) rfl
  case verifyJobComplete => exact execVerifyJobComplete_keeps (.refl _ s) rfl
  case verifyWaive => exact execVerifyWaive_keeps (.refl _ s) rfl
  case boundaryJobComplete => exact execBoundaryJobComplete_keeps (.refl _ s) rfl
  case overloadWindow => exact execOverloadWindow_keeps (.refl _ s) rfl
  case shedUndo => exact execShedUndo_keeps (.refl _ s) rfl
  case driftCheck => exact execDriftCheck_keeps (.refl _ s) rfl
  case calReq => exact execCalReq_keeps (.refl _ s) rfl
  case micaRetire => exact execMicaRetire_keeps (.refl _ s) rfl
  case micaAdmit => exact execMicaAdmit_keeps (.refl _ s) rfl
  case calDone => exact execCalDone_keeps (.refl _ s) rfl
  case tileMaskWrite => exact execTileMaskWrite_keeps (.refl _ s) rfl
  case minTilesWrite => exact execMinTilesWrite_keeps (.refl _ s) rfl
  case decodePartComplete => exact execDecodePartComplete_keeps (.refl _ s) rfl
  case accessUnitTimeout => exact execAccessUnitTimeout_keeps (.refl _ s) rfl
  case ppuJobIssue => exact execPpuJobIssue_keeps (.refl _ s) rfl
  case ppuJobComplete => exact execPpuJobComplete_keeps (.refl _ s) rfl
  case ppLayerBaseWrite => exact execPpLayerBaseWrite_keeps (.refl _ s) rfl
  case netModeWrite => exact execNetModeWrite_keeps (.refl _ s) rfl
  case portEnable => exact execPortEnable_keeps (.refl _ s) rfl
  case linkChange => exact execLinkChange_keeps (.refl _ s) rfl
  case anDone => exact execAnDone_keeps (.refl _ s) rfl
  case frameReceive => exact execFrameReceive_keeps (.refl _ s) rfl
  case packetRelease => exact execPacketRelease_keeps (.refl _ s) rfl
  case flowRead => exact execFlowRead_keeps (.refl _ s) rfl
  case flowWrite => exact execFlowWrite_keeps (.refl _ s) rfl
  case flowEnable => exact execFlowEnable_keeps (.refl _ s) rfl
  case flowDisable => exact execFlowDisable_keeps (.refl _ s) rfl
  case serviceRead => exact execServiceRead_keeps (.refl _ s) rfl
  case serviceWrite => exact execServiceWrite_keeps (.refl _ s) rfl
  case serviceEnable => exact execServiceEnable_keeps (.refl _ s) rfl
  case serviceDisable => exact execServiceDisable_keeps (.refl _ s) rfl
  case psiRepeat => exact execPsiRepeat_keeps (.refl _ s) rfl
  case muxPacketSlot => exact execMuxPacketSlot_keeps (.refl _ s) rfl
  case audioDrop => exact execAudioDrop_keeps (.refl _ s) rfl
  case datagramFlush => exact execDatagramFlush_keeps (.refl _ s) rfl
  case storeMove => exact execStoreMove_keeps (.refl _ s) rfl
  case ptpMessage => exact execPtpMessage_keeps (.refl _ s) rfl
  case announceReceiptTimeout => exact execAnnounceReceiptTimeout_keeps (.refl _ s) rfl
  case membershipReport => exact execMembershipReport_keeps (.refl _ s) rfl
  case winRead => exact execWinRead_keeps (.refl _ s) rfl
  case winWrite => exact execWinWrite_keeps (.refl _ s) rfl
  case queueEnable => exact execQueueEnable_keeps (.refl _ s) rfl
  case queueDisable => exact execQueueDisable_keeps (.refl _ s) rfl
  case queueAlloc => exact execQueueAlloc_keeps (.refl _ s) rfl
  case queueFree => exact execQueueFree_keeps (.refl _ s) rfl
  case queueDrained => exact execQueueDrained_keeps (.refl _ s) rfl
  case ageDrop => exact execAgeDrop_keeps (.refl _ s) rfl
  case refillTick => exact execRefillTick_keeps (.refl _ s) rfl
  case shaperWrite => exact execShaperWrite_keeps (.refl _ s) rfl
  case portFrameStart => exact execPortFrameStart_keeps (.refl _ s) rfl
  case gateCommit => exact execGateCommit_keeps (.refl _ s) rfl
  case gateCancel => exact execGateCancel_keeps (.refl _ s) rfl
  case gateSwap => exact execGateSwap_keeps (.refl _ s) rfl
  case gateEntryChange => exact execGateEntryChange_keeps (.refl _ s) rfl
  case sampleTick => exact execSampleTick_keeps (.refl _ s) rfl
  case sampleSwap => exact execSampleSwap_keeps (.refl _ s) rfl
  case dramRequest => exact execDramRequest_keeps (.refl _ s) rfl
  case dramIssue => exact execDramIssue_keeps (.refl _ s) rfl
  case refreshInterval => exact execRefreshInterval_keeps (.refl _ s) rfl
  case refreshIssue => exact execRefreshIssue_keeps (.refl _ s) rfl
  case mr4Poll => exact execMr4Poll_keeps (.refl _ s) rfl
  case regionEnable => exact execRegionEnable_keeps (.refl _ s) rfl
  case regionDisable => exact execRegionDisable_keeps (.refl _ s) rfl
  case initDone => exact execInitDone_keeps (.refl _ s) rfl
  case interleaveTableWrite => exact execInterleaveTableWrite_keeps (.refl _ s) rfl
  case trainingRun => exact execTrainingRun_keeps (.refl _ s) rfl
  case runDone => exact execRunDone_keeps (.refl _ s) rfl
  case poolEnable => exact execPoolEnable_keeps (.refl _ s) rfl
  case poolDisable => exact execPoolDisable_keeps (.refl _ s) rfl
  case talusAlloc => exact execTalusAlloc_keeps (.refl _ s) rfl
  case talusFree => exact execTalusFree_keeps (.refl _ s) rfl
  case chOwnerWrite => exact execChOwnerWrite_keeps (.refl _ s) rfl
  case dmaArm => exact execDmaArm_keeps (.refl _ s) rfl
  case dmaAbort => exact execDmaAbort_keeps (.refl _ s) rfl
  case promotion => exact execPromotion_keeps (.refl _ s) rfl
  case dmaBurst => exact execDmaBurst_keeps (.refl _ s) rfl
  case dmaStatusWrite => exact execDmaStatusWrite_keeps (.refl _ s) rfl
  case irqDelivery => exact execIrqDelivery_keeps (.refl _ s) rfl
  case claimRead => exact execClaimRead_keeps (.refl _ s) rfl
  case eoi => exact execEoi_keeps (.refl _ s) rfl
  case pendWithdraw => exact execPendWithdraw_keeps (.refl _ s) rfl
  case swiTrig => exact execSwiTrig_keeps (.refl _ s) rfl
  case holdoffExpiry => exact execHoldoffExpiry_keeps (.refl _ s) rfl
  case msixUnmask => exact execMsixUnmask_keeps (.refl _ s) rfl
  case powerDown => exact execPowerDown_keeps (.refl _ s) rfl
  case powerUp => exact execPowerUp_keeps (.refl _ s) rfl
  case domainQuiet => exact execDomainQuiet_keeps (.refl _ s) rfl
  case rampEnd => exact execRampEnd_keeps (.refl _ s) rfl
  case pdTimeoutExpiry => exact execPdTimeoutExpiry_keeps (.refl _ s) rfl
  case domainWake => exact execDomainWake_keeps (.refl _ s) rfl
  case domainOn => exact execDomainOn_keeps (.refl _ s) rfl
  case wakeFail => exact execWakeFail_keeps (.refl _ s) rfl
  case idlePowerGate => exact execIdlePowerGate_keeps (.refl _ s) rfl
  case offPageAccess => exact execOffPageAccess_keeps (.refl _ s) rfl
  case offPageIdle => exact execOffPageIdle_keeps (.refl _ s) rfl
  case railsGood => exact execRailsGood_keeps (.refl _ s) rfl
  case chipPowerOnResetRelease => exact execChipPowerOnResetRelease_keeps (.refl _ s) rfl
  case aonPowerOnResetRelease => exact execAonPowerOnResetRelease_keeps (.refl _ s) rfl
  case railFail => exact execRailFail_keeps (.refl _ s) rfl
  case avsAckWrite => exact execAvsAckWrite_keeps (.refl _ s) rfl
  case engFreqWrite => exact execEngFreqWrite_keeps (.refl _ s) rfl
  case engClkRelock => exact execEngClkRelock_keeps (.refl _ s) rfl
  case rtcLoss => exact execRtcLoss_keeps (.refl _ s) rfl
  case pcieLinkUp => exact execPcieLinkUp_keeps (.refl _ s) rfl
  case firmwareVerified => exact execFirmwareVerified_keeps (.refl _ s) rfl
  case perstNAssert => exact execPerstNAssert_keeps (.refl _ s) rfl
  case perstNDeassert => exact execPerstNDeassert_keeps (.refl _ s) rfl
  case chipReset => exact execChipReset_keeps (.refl _ s) rfl
  case faultRaise => exact execFaultRaise_keeps (.refl _ s) rfl
  case faultForce => exact execFaultForce_keeps (.refl _ s) rfl
  case faultFirstClear => exact execFaultFirstClear_keeps (.refl _ s) rfl
  case blockResetEnd => exact execBlockResetEnd_keeps (.refl _ s) rfl
  case shadowClose => exact execShadowClose_keeps (.refl _ s) rfl
  case logEntryWrite => exact execLogEntryWrite_keeps (.refl _ s) rfl
  case logEntryClose => exact execLogEntryClose_keeps (.refl _ s) rfl
  case logNorCopy => exact execLogNorCopy_keeps (.refl _ s) rfl
  case heartbeatKick => exact execHeartbeatKick_keeps (.refl _ s) rfl
  case heartbeatToggle => exact execHeartbeatToggle_keeps (.refl _ s) rfl
  case updBegin => exact execUpdBegin_keeps (.refl _ s) rfl
  case updData => exact execUpdData_keeps (.refl _ s) rfl
  case updCommit => exact execUpdCommit_keeps (.refl _ s) rfl
  case updAbort => exact execUpdAbort_keeps (.refl _ s) rfl
  case updateLockTimeout => exact execUpdateLockTimeout_keeps (.refl _ s) rfl
  case restartBedrock => exact execRestartBedrock_keeps (.refl _ s) rfl
  case qzUpdate => exact execQzUpdate_keeps (.refl _ s) rfl
  case contextMove => exact execContextMove_keeps (.refl _ s) rfl
  case avsAck => exact execAvsAck_keeps (.refl _ s) rfl
  case agent => exact execAgent_keeps (.refl _ s) rfl
  case agentPoll => exact execAgentPoll_keeps (.refl _ s) rfl
  case mctpControlMessage => exact execMctpControlMessage_keeps (.refl _ s) rfl
  case alertResponseRead => exact execAlertResponseRead_keeps (.refl _ s) rfl
  case sensorSample => exact execSensorSample_keeps (.refl _ s) rfl
  case dumpTick => exact execDumpTick_keeps (.refl _ s) rfl
  case perfClear => exact execPerfClear_keeps (.refl _ s) rfl
  case gpioInputChange => exact execGpioInputChange_keeps (.refl _ s) rfl
  case bedrockRomCheck => exact execBedrockRomCheck_keeps (.refl _ s) rfl
  case quartzLoaded => exact execQuartzLoaded_keeps (.refl _ s) rfl
  case msixEnableChange => exact execMsixEnableChange_keeps (.refl _ s) rfl
  case aspmL1Transition => exact execAspmL1Transition_keeps (.refl _ s) rfl
  case uartConsoleInput => exact execUartConsoleInput_keeps (.refl _ s) rfl
  case mailboxBadCmd => exact execMailboxBadCmd_keeps (.refl _ s) rfl
  case dumpRecordWritten => exact execDumpRecordWritten_keeps (.refl _ s) rfl

theorem Keeps.inv {w : List StateField} {s t : State} (k : Keeps w s t) (h : Inv s) : Inv t :=
  ⟨k.regsWf h.regs, k.memWf h.mem⟩

theorem tick_inv (s : State) (h : Inv s) : Inv (tick s) := by
  unfold tick
  split
  · exact ⟨h.regs, h.mem⟩
  · exact h

/-- Settles O3: a step is a tick, which touches neither table, or the command in front, run with the rest of the
queue. -/
theorem everyStepKeepsTheInvariant : Obligations.EveryStepKeepsTheInvariant := by
  intro s t h ht
  cases hp : s.pending with
  | nil =>
    have hs : step s = .next (tick s) := by rw [step, hp]
    cases hs.symm.trans ht
    exact tick_inv s h
  | cons c rest =>
    have hs : step s = exec c { s with pending := rest } := by rw [step, hp]
    exact (exec_keeps c { s with pending := rest } t (hs.symm.trans ht)).inv ⟨h.regs, h.mem⟩

/-- Settles O2: `State.reset` lists no register and no byte, so every read of a register gives its reset value. -/
theorem resetIsInvariant : Obligations.ResetIsInvariant :=
  ⟨⟨rfl, rfl⟩, rfl, fun _ _ => rfl⟩

end Sys2Proof.Machine
end

section
/-! PROOFS. Register accesses from the functions: where they land, what the record of an access leaves alone, and what
reaches a page that is awake or waits for one that is not. -/

namespace Sys2Proof.Machine

/-! ### Register addresses -/

/-- Registers at different page offsets have different addresses (R2). -/
theorem regKey_ne {q o p o' : Nat} (ho : o < 4096) (ho' : o' < 4096) (h : ¬(q = p ∧ o = o')) :
    regKey q o ≠ regKey p o' := by
  unfold regKey
  omega

theorem regKey_mod {page off : Nat} (h : off < 4096) : regKey page off % 4096 = off := by
  unfold regKey
  omega

theorem sameMem_of_mem {s t : State} (h : t.mem = s.mem) : SameMem s t := memRead_congr h

theorem sameRegs_of_regs {s t : State} {hit : Nat → Nat → Prop} (h : t.regs = s.regs) : SameRegs s t hit :=
  fun page off _ _ => rget_congr h page off

theorem sameRegs_rset (s : State) {p o : Nat} (v : Nat) (ho : o < 4096) :
    SameRegs s (rset s p o v) fun q off => q = p ∧ off = o :=
  fun _ _ hoff hne => rget_rset_ne _ _ _ _ _ _ (regKey_ne hoff ho hne)

theorem sameRegs_setIrq (s : State) (p m : Nat) : SameRegs s (setIrq s p m) fun q off => q = p ∧ off = 0x2C :=
  fun _ _ hoff hne => rget_setIrq_ne _ _ _ _ _ (regKey_ne hoff (by decide) hne)

/-- A flag reads back what was set. -/
theorem fbit_fsetb_self (s : State) (p : Nat) (r : Row) (b : Bool) (i : Nat) (h : r.lo + r.width ≤ 32)
    (hw : 0 < r.width) : fbit (fsetb s p r b i) p r i = b := by
  have h1 : 1 < 2 ^ r.width := Nat.one_lt_two_pow hw.ne'
  rw [fbit, fsetb, fget_fset_self _ _ _ _ _ h]
  cases b <;> simp [Nat.mod_eq_of_lt h1]

theorem unlocked_congr {s t : State} (h : t.regs = s.regs) (p : Nat) : unlocked t p = unlocked s p := fbit_congr h _ _ _

theorem ctxWriter_congr {s t : State} (h : t.regs = s.regs) (fn p o : Nat) :
    ctxWriter t fn p o = ctxWriter s fn p o := by
  simp only [ctxWriter, ctxState, ctxOwner, fget_congr h]

/-- An access lands within its page. -/
theorem resolve_lt {s : State} {fn page off p o : Nat} (h : resolve s fn page off = some (p, o)) : o < 4096 := by
  unfold resolve at h
  split at h
  · cases h
  next hoff =>
    have hown : ∀ q, some (q, off) = some (p, o) → o < 4096 := by
      intro q hq
      cases hq
      omega
    split at h
    · split at h
      · cases h
      · exact hown _ h
    split at h
    · split at h
      · cases h
      · exact hown _ h
    split at h
    · cases h
    split at h
    · unfold vfPage0 at h
      split at h
      · cases h
      split at h
      · obtain ⟨n, -, hn⟩ := Option.map_eq_some_iff.1 h
        cases hn
        omega
      · exact hown _ h
    · obtain ⟨c, -, hc⟩ := Option.map_eq_some_iff.1 h
      exact hown _ (congrArg some hc)

/-! ### The record of an access -/

/-- An access to a page is recorded in its domain alone. -/
theorem noteAccess_eq (s : State) (p : Nat) : ∃ x, noteAccess s p = { s with doms := x } := by
  unfold noteAccess
  dsimp only
  split
  · exact ⟨_, rfl⟩
  · exact ⟨s.doms, rfl⟩

@[simp] theorem noteAccess_regs (s : State) (p : Nat) : (noteAccess s p).regs = s.regs := by
  obtain ⟨x, h⟩ := noteAccess_eq s p; rw [h]
@[simp] theorem noteAccess_mem (s : State) (p : Nat) : (noteAccess s p).mem = s.mem := by
  obtain ⟨x, h⟩ := noteAccess_eq s p; rw [h]
@[simp] theorem noteAccess_staged (s : State) (p : Nat) : (noteAccess s p).staged = s.staged := by
  obtain ⟨x, h⟩ := noteAccess_eq s p; rw [h]
@[simp] theorem noteAccess_latched (s : State) (p : Nat) : (noteAccess s p).latched = s.latched := by
  obtain ⟨x, h⟩ := noteAccess_eq s p; rw [h]
@[simp] theorem noteAccess_out (s : State) (p : Nat) : (noteAccess s p).out = s.out := by
  obtain ⟨x, h⟩ := noteAccess_eq s p; rw [h]

@[simp] theorem noteAccess_accesses (s : State) (p d : Nat) :
    (getDom (noteAccess s p) d).accesses = (getDom s d).accesses := by
  unfold noteAccess
  dsimp only
  split
  · by_cases hd : d = domainOf p
    · subst hd
      rw [getDom_modDom]
    · rw [getDom_modDom_ne _ _ _ _ hd]
  · rfl

/-! ### Accesses that land, and accesses that wait -/

@[simp] theorem emit_out (s : State) (e : Emit) : (emit s e).out = e :: s.out := rfl

theorem writeVia_lands {s : State} {fn page off p o : Nat} (h : Lands s fn page off p o) (v : Nat) :
    writeVia s fn page off v = performWrite (noteAccess s p) fn p o v := by
  obtain ⟨hr, ha⟩ := h
  simp only [writeVia, hr, ha, Bool.false_eq_true, if_false]

theorem writeVia_hole {s : State} {fn page off : Nat} (h : resolve s fn page off = none) (v : Nat) :
    writeVia s fn page off v = s := by
  simp only [writeVia, h]

theorem writeVia_asleep {s : State} {fn page off p o : Nat} (h : resolve s fn page off = some (p, o))
    (ha : asleep s p = true) (v : Nat) :
    writeVia s fn page off v = parkAccess s (domainOf p) ⟨fn, page, off, 4, some (BitVec.ofNat 32 v)⟩ := by
  simp only [writeVia, h, ha, if_true]

theorem readVia_lands {s : State} {fn page off p o : Nat} (h : Lands s fn page (off / 4 * 4) p o) (size bump : Nat) :
    readVia s fn page off size bump =
      emit (readReg (noteAccess s p) fn p o bump).2
        (.readData fn (readSlice off size (readReg (noteAccess s p) fn p o bump).1)) := by
  obtain ⟨hr, ha⟩ := h
  simp only [readVia, hr, ha, Bool.false_and, Bool.false_eq_true, if_false]

/-- BLK_ID, BLK_READY and BLK_PWR answer whatever their domain does (R304). -/
theorem readVia_identity {s : State} {fn page off p o : Nat} (h : resolve s fn page (off / 4 * 4) = some (p, o))
    (hh : hasHeader p = true) (ho : o < 0xC) (size bump : Nat) :
    readVia s fn page off size bump =
      emit (readReg (noteAccess s p) fn p o bump).2
        (.readData fn (readSlice off size (readReg (noteAccess s p) fn p o bump).1)) := by
  simp only [readVia, h, hh, ho, decide_true, Bool.and_true, Bool.not_true, Bool.and_false, Bool.false_eq_true,
    if_false]

theorem readVia_hole {s : State} {fn page off : Nat} (h : resolve s fn page (off / 4 * 4) = none) (size bump : Nat) :
    readVia s fn page off size bump = emit s (.readData fn 0) := by
  simp only [readVia, h]

theorem readVia_asleep {s : State} {fn page off p o : Nat} (h : resolve s fn page (off / 4 * 4) = some (p, o))
    (ha : asleep s p = true) (ho : hasHeader p = false ∨ 0xC ≤ o) (size bump : Nat) :
    readVia s fn page off size bump = parkAccess s (domainOf p) ⟨fn, page, off, size, none⟩ := by
  have hid : (hasHeader p && decide (o < 0xC)) = false := by
    rcases ho with hh | ho
    · rw [hh, Bool.false_and]
    · rw [decide_eq_false (by omega), Bool.and_false]
  simp only [readVia, h, ha, hid, Bool.not_false, Bool.and_true, if_true]

theorem readSized_of_fits {s : State} {fn page off size bump : Nat} (h : size ∈ [1, 2, 4]) (ha : off % size = 0) :
    readSized s fn page off size bump = readVia s fn page off size bump := by
  have h8 : ¬(size = 8 ∧ off % 8 = 0) := by
    rintro ⟨rfl, -⟩
    exact absurd h (by decide)
  rw [readSized, if_neg h8, if_pos (by simp [ha, h])]

theorem readSized_misfit {s : State} {fn page off size bump : Nat} (h : ¬(size ∈ [1, 2, 4, 8] ∧ off % size = 0)) :
    readSized s fn page off size bump = s := by
  have h8 : ¬(size = 8 ∧ off % 8 = 0) := by
    rintro ⟨rfl, ha⟩
    exact h ⟨by decide, ha⟩
  have h4 : ¬(([1, 2, 4].contains size && off % size == 0) = true) := by
    intro hc
    obtain ⟨hm, ha⟩ := Bool.and_eq_true_iff.1 hc
    exact h ⟨List.mem_append_left [8] (List.contains_iff_mem.1 hm), by simpa using ha⟩
  rw [readSized, if_neg h8, if_neg h4]

/-! ### A write that has reached its page -/

theorem performWrite_key {s : State} {fn p : Nat} (hw : ctxWriter s fn p 0xC = true) (hh : hasHeader p = true)
    (v : Nat) : performWrite s fn p 0xC v = writeKey s p v := by
  simp [performWrite, hw, hh]

theorem performWrite_scratch {s : State} {fn p : Nat} (hw : ctxWriter s fn p 0x3C = true) (hh : hasHeader p = true)
    (v : Nat) : performWrite s fn p 0x3C v = rset s p 0x3C v := by
  simp [performWrite, hw, hh, writeHeader]

/-- A write to a locked expert area raises EXPERT_LOCKED, and that is all (R9). -/
theorem performWrite_locked {s : State} {fn p off : Nat} (hw : ctxWriter s fn p off = true) (hh : hasHeader p = true)
    (ho : 0x400 ≤ off) (hl : unlocked s p = false) (v : Nat) : performWrite s fn p off v = setIrq s p 1 := by
  have hC : off ≠ 0xC := by omega
  have h40 : ¬off < 0x40 := by omega
  simp [performWrite, hw, hh, hC, h40, ho, hl]

theorem performWrite_quant {s : State} {fn p off lo words : Nat} (hw : ctxWriter s fn p off = true)
    (ho : hasHeader p = true → 0x40 ≤ off ∧ (off < 0x400 ∨ unlocked s p = true)) (hq : quantAt p off = some (lo, words))
    (v : Nat) : performWrite s fn p off v = writeQuant s fn p off lo words v := by
  cases hh : hasHeader p with
  | false => simp [performWrite, hw, hh, hq]
  | true =>
    obtain ⟨h40, hopen⟩ := ho hh
    have hC : off ≠ 0xC := by omega
    have hl : ¬(0x400 ≤ off ∧ unlocked s p = false) := by
      rintro ⟨h4, hl⟩
      rcases hopen with h | h
      · omega
      · rw [hl] at h
        cases h
    simp [performWrite, hw, hh, hq, hC, hl, show ¬off < 0x40 by omega]

end Sys2Proof.Machine
end

section
/-! PROOFS. The expert areas (R9): locked after reset, opened and closed by EXPERT_KEY, closed to writes while locked,
and read alike in either state. -/

namespace Sys2Proof.Machine

theorem resetWord_key {p : Nat} (h : hasHeader p = true) : resetWord p 0xC = 0 := by
  have hrows : rowsAt p 0xC = [F.HDR_EXPERT_KEY_KEY, F.HDR_EXPERT_KEY_UNLOCKED] := by
    rw [rowsAt, if_pos ⟨by decide, h⟩, if_neg (by omega)]
    decide
  have hhw : hwReset p 0xC = 0 := by simp [hwReset]
  rw [resetWord, hrows, hhw]
  rfl

theorem unlocked_reset {p : Nat} (h : hasHeader p = true) : unlocked State.reset p = false := by
  have hr : rget State.reset p (F.HDR_EXPERT_KEY_UNLOCKED.at 0) = 0 := by
    change (regDefault (regKey p 0xC)).toNat = 0
    have hd : regKey p 0xC / 4096 = p := by unfold regKey; omega
    rw [regDefault, hd, regKey_mod (by decide), resetWord_key h]
    rfl
  rw [unlocked, fbit, fget, hr]
  rfl

theorem unlocked_writeKey (s : State) (p v : Nat) : unlocked (writeKey s p v) p = (v % 2 ^ 16 == 0x5EA7) :=
  fbit_fsetb_self _ _ _ _ _ (by decide) (by decide)

/-! ### Reads of the expert area -/

theorem irqWord_expert (s : State) (p : Nat) {off : Nat} (h : 0x400 ≤ off) : irqWord s p off = none := by
  have hsrc : irqSrcAt p off = 320 := by rw [irqSrcAt, if_pos (Or.inr (by omega))]
  unfold irqWord
  split
  · rw [if_neg (by omega), if_neg (by omega), if_neg (by omega)]
  split
  · dsimp only
    rw [hsrc, if_neg (by omega), if_neg (by omega)]
  · dsimp only
    rw [if_pos (Or.inr (by omega))]

/-- Above 0x3FF a function's area shows nothing but its PBA. -/
theorem fnWord_expert {s t : State} (ht : t.funcs = s.funcs) (fn : Nat) {off : Nat} (h : 0x400 ≤ off) :
    fnWord t fn off = fnWord s fn off := by
  unfold fnWord
  rw [if_neg (by omega), if_neg (by omega), if_neg (by omega), if_neg (by omega),
    if_neg (by omega : ¬(0x22C ≤ off ∧ off < 0x240)), if_neg (by omega : ¬(0x26C ≤ off ∧ off < 0x280)),
    if_neg (by omega : ¬off = 0x2B4), if_neg (by omega : ¬(0x340 ≤ off ∧ off < 0x380))]
  simp only [getFunc_congr ht]

theorem calWord_expert (s : State) {off : Nat} (h : 0x400 ≤ off) : calWord s off = none := by
  unfold calWord
  split
  case h_6 => rfl
  all_goals omega

/-- No register of an expert area, nor what selects it, shares its address with EXPERT_KEY: its lock does not show in a
read. -/
theorem peek_setUnlocked (s : State) (p : Nat) (b : Bool) {off : Nat} (h : 0x400 ≤ off) :
    peek (fsetb s p F.HDR_EXPERT_KEY_UNLOCKED b) p off = peek s p off := by
  set t := fsetb s p F.HDR_EXPERT_KEY_UNLOCKED b with ht
  have hown : rget t p off = rget s p off := by
    refine rget_fset_ne _ _ _ _ _ _ _ ?_
    simp only [regKey, Row.at, F.HDR_EXPERT_KEY_UNLOCKED]
    omega
  have hrow : ∀ r : Row, r.at 0 ≠ 0xC → fget t p r = fget s p r := by
    intro r hr
    refine fget_fset_ne _ _ _ _ _ _ _ _ ?_
    unfold regKey
    simp only [Row.at, F.HDR_EXPERT_KEY_UNLOCKED] at hr ⊢
    omega
  have hselT : fget t p F.MICA_TRIM_SEL_TILE = fget s p F.MICA_TRIM_SEL_TILE := hrow _ (by decide)
  have hselP : fget t p F.MICA_TRIM_SEL_TAP = fget s p F.MICA_TRIM_SEL_TAP := hrow _ (by decide)
  have h4 : off ≠ 4 := by omega
  have h8 : off ≠ 8 := by omega
  unfold peek
  simp only [beq_eq_false_iff_ne.2 h4, beq_eq_false_iff_ne.2 h8, Bool.and_false, Bool.false_eq_true, if_false]
  have hne : ∀ n, n < 0x400 → off ≠ n := by omega
  cases kindOf p with
  | chip => simp only [hne 0x70 (by decide), hne 0x78 (by decide), false_and, if_false, hown]
  | clk => simp only [hne 0x60 (by decide), hne 0x64 (by decide), if_false, hown]
  | irq0 | irqs | irqt => simp only [irqWord_expert _ p h, hown]
  | pcie | fn => simp only [fnWord_expert (s := s) (t := t) rfl _ h, hown]
  | cal => simp only [calWord_expert _ h, hown]
  | bdrk8 => simp only [show ¬(0x60 ≤ off ∧ off < 0x80) by omega, if_false, hown]
  | perf0 => simp only [hne 0x78 (by decide), hne 0x7C (by decide), if_false, hown]
  | talus => simp only [show ¬(0x100 ≤ off ∧ off < 0x180 ∧ off % 0x10 = 0xC) by omega, if_false, hown]
  | mica => simp only [hselT, hselP, hown, getBank_congr (s := s) (t := t) rfl]
  | dtrn => simp only [show ¬(0x44 ≤ off ∧ off < 0x64) by omega, hne 0xD4 (by decide), if_false, hown]
  | shalep => simp only [hne 0x120 (by decide), hne 0x124 (by decide), if_false, hown]
  | none => simp only [show ¬(p = 0x188 ∧ off < 0x100) by omega, if_false]
  | _ => exact hown

/-! ### The statement -/

/-- A write of EXPERT_KEY that lands is the change of the lock. -/
theorem writeVia_key {s : State} {fn page p : Nat} (hl : Lands s fn page 0xC p 0xC) (hw : ctxWriter s fn p 0xC = true)
    (hh : hasHeader p = true) (v : Nat) : writeVia s fn page 0xC v = writeKey (noteAccess s p) p v := by
  rw [writeVia_lands hl, performWrite_key (by rw [ctxWriter_congr (noteAccess_regs s p), hw]) hh]

/-- A write of a locked expert area that lands raises the cause. -/
theorem writeVia_locked {s : State} {fn page off p : Nat} (hl : Lands s fn page off p off) (ho : 0x400 ≤ off)
    (hw : ctxWriter s fn p off = true) (hh : hasHeader p = true) (hlock : unlocked s p = false) (v : Nat) :
    writeVia s fn page off v = setIrq (noteAccess s p) p 1 := by
  have hregs := noteAccess_regs s p
  rw [writeVia_lands hl, performWrite_locked (by rw [ctxWriter_congr hregs, hw]) hh ho
    (by rw [unlocked_congr hregs, hlock])]

/-- Settles O34: the key's reset value, the write of the key, the write that finds the area locked, and the read. -/
theorem expertArea : Obligations.ExpertArea := by
  refine ⟨fun page hh => unlocked_reset hh, fun fn page p s hh => ⟨?key, ?locked, ?read⟩⟩
  case key =>
    intro val hl hw
    refine ⟨_, congrArg Host.Outcome.next (writeVia_key hl hw hh _), unlocked_writeKey _ _ _, ?_, ?_⟩
    · exact sameMem_of_mem (noteAccess_mem s p)
    · intro q off hoff hne
      refine (sameRegs_rset (noteAccess s p) (p := p) (o := 0xC) _ (by decide) q off hoff hne).trans ?_
      exact rget_congr (noteAccess_regs s p) q off
  case locked =>
    intro off val ho ha hl hw hlock
    refine ⟨setIrq (noteAccess s p) p 1, ?_, setIrq_status _ _ _ _ hh (by decide) (by decide), ?_, ?_, ?_⟩
    · change execRegisterWrite fn page off 4 val s = _
      rw [execRegisterWrite, if_pos ⟨rfl, ha⟩, writeVia_locked hl ho hw hh hlock]
    · exact sameMem_of_mem (by simp)
    · simp
    · intro q o ho' hne
      exact (sameRegs_setIrq (noteAccess s p) p 1 q o ho' hne).trans (rget_congr (noteAccess_regs s p) q o)
  case read => exact fun off ho => peek_setUnlocked s p true ho

end Sys2Proof.Machine
end

section
/-! PROOFS. Quantities of several words (R4): where they lie, what a read of one latches, what a write of one stages and
commits; and what a read of a register beside them does (R6, R7). -/

namespace Sys2Proof.Machine

/-! ### Where the quantities lie -/

theorem quants_bounds (k : Kind) :
    ∀ q ∈ quants k, 0x40 ≤ q.off ∧ q.off + q.stride * (q.count - 1) + 4 * q.words ≤ 4096 := by
  cases k <;> decide

/-- A quantity lies above the common header and within its page. -/
theorem quantAt_bounds {p o lo words : Nat} (h : quantAt p o = some (lo, words)) :
    0x40 ≤ lo ∧ lo ≤ o ∧ o < lo + 4 * words ∧ lo + 4 * words ≤ 4096 := by
  obtain ⟨q, hq, hf⟩ := List.exists_of_findSome?_eq_some h
  obtain ⟨i, hi, he⟩ := Option.map_eq_some_iff.1 hf
  obtain ⟨h40, hend⟩ := quants_bounds _ q hq
  have hcount : i ≤ q.count - 1 := by
    have := List.mem_range.1 (List.mem_of_find?_eq_some hi)
    omega
  have hstep : q.stride * i ≤ q.stride * (q.count - 1) := Nat.mul_le_mul_left _ hcount
  have hin := List.find?_some hi
  simp only [Bool.and_eq_true, decide_eq_true_eq] at hin
  simp only [Prod.mk.injEq] at he
  omega

/-- The counter that CNT_SEL selects is a quantity: a read beside the quantities is not one of it. -/
theorem not_counter_of_quantAt_none {p o : Nat} (h : quantAt p o = none) : ¬(kindOf p = .perf0 ∧ o / 8 = 0xF) := by
  rintro ⟨hk, ho⟩
  have h78 := List.findSome?_eq_none_iff.1 h ⟨0x78, 0, 1, 2⟩ (by rw [hk]; decide)
  have hnot := List.find?_eq_none.1 (Option.map_eq_none_iff.1 h78) 0 (by decide)
  simp only [Bool.and_eq_true, decide_eq_true_eq] at hnot
  omega

/-! ### Reads -/

/-- The state that a read of a register sees: the slot counters are brought up to date before one is read (R339). -/
def beforeRead (s : State) (p o : Nat) : State :=
  if kindOf p = .perf0 ∧ o / 8 = 0xF then useFree (observeSlots s) else s

theorem beforeRead_keeps (s : State) (p o : Nat) : Keeps [.free, .perf] s (beforeRead s p o) := by
  unfold beforeRead
  split
  · exact useFree_keeps (observeSlots_keeps (.refl _ s) (within_refl _)) rfl
  · exact .refl _ s

@[simp] theorem beforeRead_regs (s : State) (p o : Nat) : (beforeRead s p o).regs = s.regs :=
  (beforeRead_keeps s p o).regs (by decide)
@[simp] theorem beforeRead_mem (s : State) (p o : Nat) : (beforeRead s p o).mem = s.mem :=
  (beforeRead_keeps s p o).mem (by decide)
@[simp] theorem beforeRead_latched (s : State) (p o : Nat) : (beforeRead s p o).latched = s.latched :=
  (beforeRead_keeps s p o).latched (by decide)
@[simp] theorem beforeRead_out (s : State) (p o : Nat) : (beforeRead s p o).out = s.out :=
  (beforeRead_keeps s p o).out (by decide)

theorem readReg_lowest {s : State} {fn p lo words : Nat} (h : quantAt p lo = some (lo, words)) (bump : Nat) :
    readReg s fn p lo bump = (peek (beforeRead s p lo) p lo, latchWords (beforeRead s p lo) fn p lo words) := by
  simp only [readReg, h, if_true, beforeRead]

theorem readReg_latched {s : State} {fn p o lo words : Nat} {kv : (Nat × Nat) × Word}
    (h : quantAt p o = some (lo, words)) (ho : o ≠ lo) (hk : s.latched.find? (·.1 == (fn, regKey p o)) = some kv)
    (bump : Nat) : readReg s fn p o bump = (kv.2.toNat, beforeRead s p o) := by
  have hk' : (beforeRead s p o).latched.find? (·.1 == (fn, regKey p o)) = some kv := by rw [beforeRead_latched, hk]
  unfold beforeRead at hk' ⊢
  simp only [readReg, h, if_neg ho, hk']

/-- A read clears the RC bits of a register; `bump` is what hardware adds to them in the same cycle (R6, R7). -/
def clearRc (s : State) (p o bump : Nat) : State :=
  if rcMask p o = 0 then s else rset s p o (peek s p o - (peek s p o &&& rcMask p o) + (bump &&& rcMask p o))

theorem clearRc_keeps (s : State) (p o bump : Nat) : Keeps [.regs] s (clearRc s p o bump) := by
  unfold clearRc
  split
  · exact .refl _ s
  · exact rset_keeps (.refl _ s) rfl

theorem rget_clearRc {s : State} {p o : Nat} (h : rcMask p o ≠ 0) (bump : Nat) : rget (clearRc s p o bump) p o =
    (peek s p o - (peek s p o &&& rcMask p o) + (bump &&& rcMask p o)) % 2 ^ 32 := by
  rw [clearRc, if_neg h, rget_rset_self]

theorem clearRc_sameRegs (s : State) {p o : Nat} (ho : o < 4096) (bump : Nat) :
    SameRegs s (clearRc s p o bump) fun q off => q = p ∧ off = o ∧ rcMask p o ≠ 0 := by
  intro q off hoff hne
  unfold clearRc
  split
  · rfl
  · next hm => exact sameRegs_rset s _ ho q off hoff fun ⟨hq, he⟩ => hne ⟨hq, he, hm⟩

/-- A register that no quantity holds, and that is neither a CLAIM nor a TALUS_ALLOC, reads its value and loses its RC
bits (R6, R7). -/
theorem readReg_single {s : State} {fn p o : Nat} (h : quantAt p o = none) (hc : ¬(p = 0x28 ∧ o = 0x68))
    (hf : p = 0x140 ∨ p = fnPage fn → o < 0x2AC) (bump : Nat) :
    readReg s fn p o bump = (peek s p o, clearRc s p o bump) := by
  have hclaim : ∀ t, t = (if p = fnPage fn then fn else 0) →
      ((p == 0x28 && o == 0x68 && t == 0) || (p == fnPage t && o == 0x2AC)) = false := by
    intro t ht
    have hpage : p = fnPage t → o < 0x2AC := by
      intro hp
      subst ht
      split at hp
      · exact hf (Or.inr hp)
      · exact hf (Or.inl hp)
    simp only [Bool.or_eq_false_iff, Bool.and_eq_false_iff, beq_eq_false_iff_ne]
    omega
  have htalus : ¬(p = fnPage fn ∧ 0x300 ≤ o ∧ o < 0x320) := by
    rintro ⟨hp, h3, -⟩
    have := hf (Or.inr hp)
    omega
  simp only [readReg, h, if_neg (not_counter_of_quantAt_none h), hclaim _ rfl, Bool.false_eq_true, if_false,
    if_neg htalus, clearRc]
  split <;> rfl

/-- A read of BLK_ID, BLK_READY or BLK_PWR changes no more than registers. -/
theorem readReg_identity (s : State) (fn p : Nat) {o : Nat} (ho : o < 0xC) (bump : Nat) :
    Keeps [.regs] s (readReg s fn p o bump).2 := by
  have hq : quantAt p o = none := by
    rw [Option.eq_none_iff_forall_ne_some]
    rintro ⟨lo, words⟩ h
    have := quantAt_bounds h
    omega
  rw [readReg_single hq (by omega) (by omega)]
  exact clearRc_keeps s p o bump

/-! ### Latched words -/

section
variable {α : Type}

theorem find?_filter_of_imp {l : List α} {f g : α → Bool} (h : ∀ a, g a = true → f a = true) :
    (l.filter f).find? g = l.find? g := by
  rw [List.find?_filter]
  congr 1
  funext a
  cases hg : g a with
  | false => simp
  | true => simp [h a hg]

theorem find?_filter_of_not {l : List α} {f g : α → Bool} (h : ∀ a, g a = true → f a = false) :
    (l.filter f).find? g = none := by
  rw [List.find?_eq_none]
  intro a ha hg
  have hf := (List.mem_filter.1 ha).2
  rw [h a hg] at hf
  cases hf

end

/-- A read of a quantity's lowest word latches each of the others (R4). -/
theorem latchWords_find (s : State) (fn p lo words i : Nat) (h1 : 1 ≤ i) (hi : i < words) :
    (latchWords s fn p lo words).latched.find? (·.1 == (fn, regKey p (lo + 4 * i))) =
      some ((fn, regKey p (lo + 4 * i)), BitVec.ofNat 32 (peek s p (lo + 4 * i))) := by
  have hold : (s.latched.filter fun kv =>
      !((List.range words).map fun j => (fn, regKey p (lo + 4 * j))).contains kv.1).find?
        (·.1 == (fn, regKey p (lo + 4 * i))) = none := by
    refine find?_filter_of_not fun kv hkv => ?_
    rw [beq_iff_eq.1 hkv, Bool.not_eq_false', List.contains_iff_mem]
    exact List.mem_map.2 ⟨i, List.mem_range.2 hi, rfl⟩
  have hnew : ((List.range words).drop 1).find?
      ((fun kv : (Nat × Nat) × Word => kv.1 == (fn, regKey p (lo + 4 * i))) ∘
        fun j => ((fn, regKey p (lo + 4 * j)), BitVec.ofNat 32 (peek s p (lo + 4 * j)))) = some i := by
    rw [List.range_eq_range', List.drop_range', List.find?_range'_eq_some]
    refine ⟨by simp, ?_, fun j _ hj => ?_⟩
    · rw [List.mem_range'_1]
      omega
    · simp only [Function.comp_apply, Bool.not_eq_true', beq_eq_false_iff_ne, ne_eq, Prod.mk.injEq, regKey]
      omega
  rw [latchWords]
  dsimp only
  rw [List.find?_append, hold, Option.none_or, List.find?_map, hnew, Option.map_some]

end Sys2Proof.Machine
end

section
/-! PROOFS. Writes of quantities of several words (R4): a lower word is staged, the highest commits this function's
staged words with itself; and accesses that wait for their page's domain (R304). -/

namespace Sys2Proof.Machine

/-! ### Writes by the access codes -/

theorem writtenWord_congr {s t : State} {p o : Nat} (hr : rget t p o = rget s p o) (hu : unlocked t p = unlocked s p)
    (v : Nat) : writtenWord t p o v = writtenWord s p o v := by
  unfold writtenWord
  rw [hr, hu]

@[simp] theorem rget_writeRows_self (s : State) (p o v : Nat) :
    rget (writeRows s p o v) p o = writtenWord s p o v % 2 ^ 32 := rget_rset_self _ _ _ _

theorem rget_writeRows_ne {s : State} {p o v q off : Nat} (h : regKey q off ≠ regKey p o) :
    rget (writeRows s p o v) q off = rget s q off := rget_rset_ne _ _ _ _ _ _ h

theorem unlocked_of_key {s t : State} {p : Nat} (h : rget t p 0xC = rget s p 0xC) : unlocked t p = unlocked s p := by
  have hat : F.HDR_EXPERT_KEY_UNLOCKED.at 0 = 0xC := rfl
  unfold unlocked fbit fget
  rw [hat, h]

/-! ### Staged words -/

theorem stageWord_find_self (s : State) (fn p o v : Nat) :
    (stageWord s fn p o v).staged.find? (·.1 == (fn, regKey p o)) = some ((fn, regKey p o), BitVec.ofNat 32 v) := by
  rw [stageWord]
  dsimp only
  rw [List.find?_append, find?_filter_of_not (fun kv hkv => by simpa using hkv)]
  simp

theorem stageWord_find_ne (s : State) {fn p o v : Nat} {k : Nat × Nat} (hk : k ≠ (fn, regKey p o)) :
    (stageWord s fn p o v).staged.find? (·.1 == k) = s.staged.find? (·.1 == k) := by
  have hold : ∀ kv : (Nat × Nat) × Word, (kv.1 == k) = true → (kv.1 != (fn, regKey p o)) = true := by
    intro kv hkv
    rw [beq_iff_eq.1 hkv]
    simpa using hk
  have hnew : ((fn, regKey p o) == k) = false := by simpa using Ne.symm hk
  rw [stageWord]
  dsimp only
  rw [List.find?_append, find?_filter_of_imp hold, List.find?_singleton]
  simp [hnew]

/-- The places of a function's staged words of a quantity: all its words but the highest. -/
def lowKeys (fn p lo words : Nat) : List (Nat × Nat) :=
  (List.range (words - 1)).map fun i => (fn, regKey p (lo + 4 * i))

theorem mem_lowKeys {fn p lo words : Nat} {k : Nat × Nat} :
    k ∈ lowKeys fn p lo words ↔ ∃ i, i + 1 < words ∧ k = (fn, regKey p (lo + 4 * i)) := by
  simp only [lowKeys, List.mem_map, List.mem_range]
  constructor
  · rintro ⟨i, hi, rfl⟩
    exact ⟨i, by omega, rfl⟩
  · rintro ⟨i, hi, rfl⟩
    exact ⟨i, by omega, rfl⟩

/-- One staged word goes into its register, if it is one of `keys`. -/
def applyStaged (keys : List (Nat × Nat)) (p : Nat) (s : State) (kv : (Nat × Nat) × Word) : State :=
  if keys.contains kv.1 then writeRows s p (kv.1.2 % 4096) kv.2.toNat else s

theorem foldl_applyStaged_keeps (keys : List (Nat × Nat)) (p : Nat) (l : List ((Nat × Nat) × Word)) (s : State) :
    Keeps [.regs] s (l.foldl (applyStaged keys p) s) := by
  refine Keeps.foldl (.refl _ s) fun t kv h => ?_
  unfold applyStaged
  split
  · exact writeRows_keeps h rfl
  · exact h

/-- A register that no staged word of `keys` is meant for keeps its value. -/
theorem rget_foldl_applyStaged_ne {keys : List (Nat × Nat)} {p q off : Nat} (l : List ((Nat × Nat) × Word)) (s : State)
    (h : ∀ kv ∈ l, kv.1 ∈ keys → regKey q off ≠ regKey p (kv.1.2 % 4096)) :
    rget (l.foldl (applyStaged keys p) s) q off = rget s q off := by
  induction l generalizing s with
  | nil => rfl
  | cons kv l ih =>
    rw [List.foldl_cons, ih _ fun x hx => h x (List.mem_cons_of_mem _ hx), applyStaged]
    split
    · next hc => exact rget_writeRows_ne (h kv (by simp) (List.contains_iff_mem.1 hc))
    · rfl

section
variable {fn p lo words : Nat} (hlo : 0x40 ≤ lo) (hend : lo + 4 * words ≤ 4096)
include hend

theorem lowKeys_mod {kv : Nat × Nat} (h : kv ∈ lowKeys fn p lo words) :
    ∃ i, i + 1 < words ∧ kv = (fn, regKey p (lo + 4 * i)) ∧ kv.2 % 4096 = lo + 4 * i := by
  obtain ⟨i, hi, rfl⟩ := mem_lowKeys.1 h
  exact ⟨i, hi, rfl, regKey_mod (by omega)⟩

/-- Staged words of a quantity reach its words alone. -/
theorem rget_foldl_lowKeys_ne {q off : Nat} (l : List ((Nat × Nat) × Word)) (s : State) (hoff : off < 4096)
    (h : ¬(q = p ∧ ∃ i, i + 1 < words ∧ off = lo + 4 * i)) :
    rget (l.foldl (applyStaged (lowKeys fn p lo words) p) s) q off = rget s q off := by
  refine rget_foldl_applyStaged_ne l s fun kv _ hkv => ?_
  obtain ⟨i, hi, -, hmod⟩ := lowKeys_mod hend hkv
  rw [hmod]
  exact regKey_ne hoff (by omega) fun ⟨hq, ho⟩ => h ⟨hq, i, hi, ho⟩

/-- A word of a quantity for which no word is staged keeps its value. -/
theorem rget_foldl_lowKeys_kept (l : List ((Nat × Nat) × Word)) (s : State) {i : Nat} (hi : i < words)
    (h : ∀ kv ∈ l, kv.1 ≠ (fn, regKey p (lo + 4 * i))) :
    rget (l.foldl (applyStaged (lowKeys fn p lo words) p) s) p (lo + 4 * i) = rget s p (lo + 4 * i) := by
  refine rget_foldl_applyStaged_ne l s fun kv hl hkv => ?_
  obtain ⟨j, hj, he, hmod⟩ := lowKeys_mod hend hkv
  rw [hmod]
  refine regKey_ne (by omega) (by omega) fun ⟨_, ho⟩ => h kv hl ?_
  rw [he, ho]

include hlo

theorem unlocked_foldl_lowKeys (l : List ((Nat × Nat) × Word)) (s : State) :
    unlocked (l.foldl (applyStaged (lowKeys fn p lo words) p) s) p = unlocked s p :=
  unlocked_of_key (rget_foldl_lowKeys_ne hend l s (by decide) (by rintro ⟨-, i, hi, ho⟩; omega))

/-- A word of a quantity for which one word is staged takes it. -/
theorem rget_foldl_lowKeys_staged (l : List ((Nat × Nat) × Word)) (s : State) {i : Nat} {w : Word} (hi : i + 1 < words)
    (h : l.filter (·.1 == (fn, regKey p (lo + 4 * i))) = [((fn, regKey p (lo + 4 * i)), w)]) :
    rget (l.foldl (applyStaged (lowKeys fn p lo words) p) s) p (lo + 4 * i) =
      writtenWord s p (lo + 4 * i) w.toNat % 2 ^ 32 := by
  obtain ⟨l1, l2, rfl, h1, -, h2⟩ := List.filter_eq_cons_iff.1 h
  have h1' : ∀ kv ∈ l1, kv.1 ≠ (fn, regKey p (lo + 4 * i)) := fun kv hkv => by simpa using h1 kv hkv
  have h2' : ∀ kv ∈ l2, kv.1 ≠ (fn, regKey p (lo + 4 * i)) := fun kv hkv => by
    simpa using List.filter_eq_nil_iff.1 h2 kv hkv
  have hkey : (lowKeys fn p lo words).contains (fn, regKey p (lo + 4 * i)) = true :=
    List.contains_iff_mem.2 (mem_lowKeys.2 ⟨i, hi, rfl⟩)
  rw [List.foldl_append, List.foldl_cons, rget_foldl_lowKeys_kept hend l2 _ (by omega) h2', applyStaged, if_pos hkey]
  dsimp only
  rw [regKey_mod (by omega), rget_writeRows_self,
    writtenWord_congr (rget_foldl_lowKeys_kept hend l1 s (by omega) h1') (unlocked_foldl_lowKeys hlo hend l1 s)]

end

/-! ### A write of a quantity's words -/

theorem writeQuant_lower {s : State} {fn p o lo words : Nat} (hro : ((rowsAt p o).all fun r => r.acc == .ro) = false)
    (hh : quantHeld s p o = none) (ho : o + 4 < lo + 4 * words) (v : Nat) :
    writeQuant s fn p o lo words v = stageWord s fn p o v := by
  simp only [writeQuant, hro, Bool.false_eq_true, if_false, hh, if_pos ho]

theorem writeQuant_highest {s : State} {fn p o lo words : Nat} (hro : ((rowsAt p o).all fun r => r.acc == .ro) = false)
    (hh : quantHeld s p o = none) (ho : o + 4 = lo + 4 * words) (v : Nat) :
    writeQuant s fn p o lo words v = commitQuant s fn p lo words v := by
  simp only [writeQuant, hro, Bool.false_eq_true, if_false, hh, if_neg (show ¬o + 4 < lo + 4 * words by omega)]

theorem commitQuant_regs (s : State) (fn p lo words v : Nat) : (commitQuant s fn p lo words v).regs =
    (writeRows (s.staged.foldl (applyStaged (lowKeys fn p lo words) p) s) p (lo + 4 * (words - 1)) v).regs := rfl

theorem commitQuant_mem (s : State) (fn p lo words v : Nat) : (commitQuant s fn p lo words v).mem = s.mem :=
  (foldl_applyStaged_keeps (lowKeys fn p lo words) p s.staged s).mem (by decide)

/-- The commit uses up the function's staged words of the quantity, and no other. -/
theorem commitQuant_staged (s : State) (fn p lo words v : Nat) : (commitQuant s fn p lo words v).staged =
    s.staged.filter fun kv => !(lowKeys fn p lo words).contains kv.1 :=
  congrArg (List.filter fun kv : (Nat × Nat) × Word => !(lowKeys fn p lo words).contains kv.1)
    ((foldl_applyStaged_keeps (lowKeys fn p lo words) p s.staged s).staged (by decide))

theorem commitQuant_find_used (s : State) (fn p lo words v : Nat) {k : Nat × Nat} (hk : k ∈ lowKeys fn p lo words) :
    (commitQuant s fn p lo words v).staged.find? (·.1 == k) = none := by
  rw [commitQuant_staged]
  refine find?_filter_of_not fun kv hkv => ?_
  rw [beq_iff_eq.1 hkv, List.contains_iff_mem.2 hk, Bool.not_true]

theorem commitQuant_find_other (s : State) (fn p lo words v : Nat) {k : Nat × Nat} (hk : k ∉ lowKeys fn p lo words) :
    (commitQuant s fn p lo words v).staged.find? (·.1 == k) = s.staged.find? (·.1 == k) := by
  rw [commitQuant_staged]
  refine find?_filter_of_imp fun kv hkv => ?_
  rw [beq_iff_eq.1 hkv]
  simpa using hk

section
variable {fn p lo words : Nat} (s : State) (v : Nat) (hlo : 0x40 ≤ lo) (hend : lo + 4 * words ≤ 4096)
include hend

theorem commitQuant_sameRegs (hw : 0 < words) :
    SameRegs s (commitQuant s fn p lo words v) fun q off => q = p ∧ ∃ i < words, off = lo + 4 * i := by
  intro q off hoff hne
  rw [rget_congr (commitQuant_regs s fn p lo words v),
    rget_writeRows_ne (regKey_ne hoff (by omega) fun ⟨hq, ho⟩ => hne ⟨hq, words - 1, by omega, ho⟩)]
  exact rget_foldl_lowKeys_ne hend _ _ hoff fun ⟨hq, i, hi, ho⟩ => hne ⟨hq, i, by omega, ho⟩

/-- The words below the highest are as the staged words left them. -/
theorem rget_commitQuant_lower {i : Nat} (hi : i + 1 < words) : rget (commitQuant s fn p lo words v) p (lo + 4 * i) =
    rget (s.staged.foldl (applyStaged (lowKeys fn p lo words) p) s) p (lo + 4 * i) := by
  rw [rget_congr (commitQuant_regs s fn p lo words v)]
  exact rget_writeRows_ne (regKey_ne (by omega) (by omega) (by omega))

include hlo

theorem rget_commitQuant_highest (hw : 0 < words) :
    rget (commitQuant s fn p lo words v) p (lo + 4 * (words - 1)) =
      writtenWord s p (lo + 4 * (words - 1)) v % 2 ^ 32 := by
  have hkept : rget (s.staged.foldl (applyStaged (lowKeys fn p lo words) p) s) p (lo + 4 * (words - 1)) =
      rget s p (lo + 4 * (words - 1)) :=
    rget_foldl_lowKeys_ne hend _ _ (by omega) (by rintro ⟨-, i, hi, ho⟩; omega)
  rw [rget_congr (commitQuant_regs s fn p lo words v), rget_writeRows_self,
    writtenWord_congr hkept (unlocked_foldl_lowKeys hlo hend _ _)]

end

/-! ### Accesses that wait -/

/-- An access that waits is one more of its domain's, and changes the state of domains alone. -/
theorem parkAccess_accesses (s : State) (d : Nat) (a : PageAccess) :
    (getDom (parkAccess s d a) d).accesses = (getDom s d).accesses ++ [a] := by
  unfold parkAccess
  dsimp only
  split
  · rw [getDom_modDom]
  · rw [getDom_modDom]
    dsimp only
    unfold requestWake
    dsimp only
    split
    · rw [getDom_modDom, getDom_modDom]
    · rw [getDom_modDom]

theorem parkAccess_regs (s : State) (d : Nat) (a : PageAccess) : (parkAccess s d a).regs = s.regs :=
  (parkAccess_keeps (.refl [.doms] s) rfl).regs (by decide)

theorem parkAccess_mem (s : State) (d : Nat) (a : PageAccess) : (parkAccess s d a).mem = s.mem :=
  (parkAccess_keeps (.refl [.doms] s) rfl).mem (by decide)

theorem domState_congr {s t : State} (h : t.regs = s.regs) (d : Nat) : domState t d = domState s d := by
  simp only [domState, fget_congr h]

theorem inSentinel_congr {s t : State} (h : t.regs = s.regs) : inSentinel t = inSentinel s := by
  simp only [inSentinel, fget_congr h]

/-- A wake that is requested of a domain OFF or RAMPING is due. -/
theorem requestWake_wakeDue {s : State} {d : Nat} (hd : domState s d = 0 ∨ domState s d = 4) (hlt : d < 60)
    (hs : inSentinel s = false) : (getDom (requestWake s d) d).wakeDue = true := by
  unfold requestWake
  dsimp only
  rw [if_pos ⟨hlt, by rw [hs]; rfl⟩, getDom_modDom]
  rcases hd with h | h <;> simp [h]

/-- An access that finds its domain OFF or RAMPING makes a wake due. -/
theorem parkAccess_wakeDue {s : State} {d : Nat} (hd : domState s d = 0 ∨ domState s d = 4) (hlt : d < 60)
    (hs : inSentinel s = false) (a : PageAccess) : (getDom (parkAccess s d a) d).wakeDue = true := by
  have hnot1 : (domState s d == 1) = false := by
    rcases hd with h | h <;> rw [h] <;> rfl
  unfold parkAccess
  dsimp only
  rw [hnot1, Bool.or_false]
  split
  · next hdue =>
    rw [getDom_modDom]
    exact hdue
  · rw [getDom_modDom]
    refine requestWake_wakeDue ?_ hlt ?_
    · rwa [domState_congr (modDom_regs _ _ _)]
    · rwa [inSentinel_congr (modDom_regs _ _ _)]

end Sys2Proof.Machine
end

section
/-! PROOFS. What a register access does, by its size and by where it lands (R3–R7, R189, R256, R304). -/

namespace Sys2Proof.Machine

/-! ### The commands of an access -/

theorem exec_registerWrite_word (fn : Fin 65) (page : Nat) {off : Nat} (ha : off % 4 = 0) (val : BitVec 64)
    (s : State) : exec (.registerWrite fn page off 4 val) s = .next (writeVia s fn page off (val.toNat % 2 ^ 32)) := by
  change execRegisterWrite fn page off 4 val s = _
  rw [execRegisterWrite, if_pos ⟨rfl, ha⟩]

theorem exec_registerWrite_pair (fn : Fin 65) (page : Nat) {off : Nat} (ha : off % 8 = 0) (val : BitVec 64)
    (s : State) : exec (.registerWrite fn page off 8 val) s =
      .next (writeVia (writeVia s fn page off (val.toNat % 2 ^ 32)) fn page (off + 4) (val.toNat / 2 ^ 32)) := by
  change execRegisterWrite fn page off 8 val s = _
  rw [execRegisterWrite, if_neg (by omega), if_pos ⟨rfl, ha⟩]

theorem exec_registerWrite_misfit (fn : Fin 65) (page : Nat) {off size : Nat} (h4 : ¬(size = 4 ∧ off % 4 = 0))
    (h8 : ¬(size = 8 ∧ off % 8 = 0)) (val : BitVec 64) (s : State) :
    exec (.registerWrite fn page off size val) s = .next s := by
  change execRegisterWrite fn page off size val s = _
  rw [execRegisterWrite, if_neg h4, if_neg h8]

/-- A write that lands nowhere changes nothing, whatever its alignment. -/
theorem exec_registerWrite_hole (fn : Fin 65) {page off : Nat} {s : State} (h : resolve s fn page off = none)
    (val : BitVec 64) : exec (.registerWrite fn page off 4 val) s = .next s := by
  by_cases ha : off % 4 = 0
  · rw [exec_registerWrite_word fn page ha, writeVia_hole h]
  · exact exec_registerWrite_misfit fn page (by omega) (by omega) val s

/-- The commands that write the highest word of a quantity (R4, R189, R304) are one and the same write. -/
theorem exec_highestWord (fn : Fin 65) (page off : Nat) (val : Word) (s : State) :
    ∀ c ∈ [Instr.quantityHighestWordWrite fn page off val, .offPageAccess fn page off (some val)] ++
      (if off / 4 * 4 = 0x1F4 then [.ppLayerBaseWrite fn page val] else []),
      exec c s = .next (writeVia s fn page (off / 4 * 4) val.toNat) := by
  intro c hc
  rcases List.mem_append.1 hc with h | h
  · rcases List.mem_pair.1 h with rfl | rfl <;> rfl
  · split at h
    · next ho =>
      rw [List.mem_singleton.1 h, ho]
      rfl
    · cases h

theorem writeVia_scratch {s : State} {fn page p : Nat} (hl : Lands s fn page 0x3C p 0x3C) (hh : hasHeader p = true)
    (hw : ctxWriter s fn p 0x3C = true) (v : Nat) : writeVia s fn page 0x3C v = rset (noteAccess s p) p 0x3C v := by
  rw [writeVia_lands hl, performWrite_scratch (by rw [ctxWriter_congr (noteAccess_regs s p), hw]) hh]

/-- A write that is taken by a word of a quantity. -/
theorem writeVia_quant {s : State} {fn page off p o lo words : Nat} (hl : Lands s fn page off p o)
    (hq : quantAt p o = some (lo, words)) (hw : ctxWriter s fn p o = true)
    (hopen : hasHeader p = true → 0x40 ≤ o ∧ (o < 0x400 ∨ unlocked s p = true)) (v : Nat) :
    writeVia s fn page off v = writeQuant (noteAccess s p) fn p o lo words v := by
  have hregs := noteAccess_regs s p
  rw [writeVia_lands hl,
    performWrite_quant (by rw [ctxWriter_congr hregs, hw]) (by rwa [unlocked_congr hregs]) hq]

/-- What a committed quantity holds afterwards, its staged words and every other register, seen from the state before
the access was recorded. -/
theorem commitQuant_noteAccess {s : State} {fn p lo words : Nat} (v : Nat) (hlo : 0x40 ≤ lo)
    (hend : lo + 4 * words ≤ 4096) (hw : 0 < words) :
    let t := commitQuant (noteAccess s p) fn p lo words v
    let key := fun i : Nat => (fn, regKey p (lo + 4 * i))
    rget t p (lo + 4 * (words - 1)) = writtenWord s p (lo + 4 * (words - 1)) v % 2 ^ 32 ∧
    (∀ i, i + 1 < words →
      (s.staged.filter (fun kv => kv.1 == key i) = [] → rget t p (lo + 4 * i) = rget s p (lo + 4 * i)) ∧
      (∀ w, s.staged.filter (fun kv => kv.1 == key i) = [(key i, w)] →
        rget t p (lo + 4 * i) = writtenWord s p (lo + 4 * i) w.toNat % 2 ^ 32) ∧
      t.staged.find? (·.1 == key i) = none) ∧
    (∀ k, (∀ i, i + 1 < words → k ≠ key i) → t.staged.find? (·.1 == k) = s.staged.find? (·.1 == k)) ∧
    SameMem s t ∧ SameRegs s t fun q off => q = p ∧ ∃ i < words, off = lo + 4 * i := by
  intro t key
  have hregs := noteAccess_regs s p
  have hstaged := noteAccess_staged s p
  have hwritten : ∀ o w, writtenWord (noteAccess s p) p o w = writtenWord s p o w := fun o w =>
    writtenWord_congr (rget_congr hregs p o) (unlocked_congr hregs p) w
  refine ⟨?high, fun i hi => ⟨fun hnone => ?kept, fun w hone => ?taken, ?used⟩, fun k hk => ?other, ?mem, ?regs⟩
  case high => rw [rget_commitQuant_highest _ _ hlo hend hw, hwritten]
  case kept =>
    rw [rget_commitQuant_lower _ _ hend hi, hstaged,
      rget_foldl_lowKeys_kept hend _ _ (by omega) fun kv hkv => by simpa using List.filter_eq_nil_iff.1 hnone kv hkv,
      rget_congr hregs]
  case taken =>
    rw [rget_commitQuant_lower _ _ hend hi, hstaged, rget_foldl_lowKeys_staged hlo hend _ _ hi hone, hwritten]
  case used => exact commitQuant_find_used _ _ _ _ _ _ (mem_lowKeys.2 ⟨i, hi, rfl⟩)
  case other =>
    rw [commitQuant_find_other _ _ _ _ _ _ fun hm => ?_, hstaged]
    obtain ⟨i, hi, he⟩ := mem_lowKeys.1 hm
    exact hk i hi he
  case mem => exact sameMem_of_mem ((commitQuant_mem _ _ _ _ _ _).trans (noteAccess_mem s p))
  case regs =>
    intro q off hoff hne
    exact (commitQuant_sameRegs _ v hend hw q off hoff hne).trans (rget_congr hregs q off)

theorem asleep_of_off {s : State} {p : Nat} (h : domState s (domainOf p) = 0 ∨ domState s (domainOf p) = 4) :
    asleep s p = true := by
  unfold asleep
  rcases h with h | h <;> rw [h] <;> rfl

/-! ### Sizes and reads -/

/-- An aligned 64-bit write is two of 32 bits, lower offset first (R3). -/
theorem registerWrite_pair (fn : Fin 65) (page : Nat) {off : Nat} (ha : off % 8 = 0) (val : BitVec 64) (s : State) :
    ∃ u t, exec (.registerWrite fn page off 4 val) s = .next u ∧
      exec (.registerWrite fn page (off + 4) 4 (val >>> 32)) u = .next t ∧
      exec (.registerWrite fn page off 8 val) s = .next t := by
  have hhigh : (val >>> 32).toNat % 2 ^ 32 = val.toNat / 2 ^ 32 := by
    have := val.isLt
    rw [BitVec.toNat_ushiftRight, Nat.shiftRight_eq_div_pow]
    omega
  refine ⟨_, _, exec_registerWrite_word fn page (by omega) val s, exec_registerWrite_word fn page (by omega) _ _, ?_⟩
  rw [exec_registerWrite_pair fn page ha, hhigh]

/-- An aligned read of eight bytes is two of four, lower offset first (R3). -/
theorem rcFieldRead_pair (fn : Fin 65) (page : Nat) {off : Nat} (ha : off % 8 = 0) (bump : Word) (s : State) :
    ∃ u t, exec (.rcFieldRead fn page off 4 bump) s = .next u ∧
      exec (.rcFieldRead fn page (off + 4) 4 bump) u = .next t ∧
      exec (.rcFieldRead fn page off 8 bump) s = .next t := by
  refine ⟨_, _, congrArg Host.Outcome.next (readSized_of_fits (by decide) (by omega)),
    congrArg Host.Outcome.next (readSized_of_fits (by decide) (by omega)), congrArg Host.Outcome.next ?_⟩
  rw [readSized, if_pos ⟨rfl, ha⟩]

theorem scratch_taken {fn : Fin 65} {page p : Nat} {s : State} (hl : Lands s fn page 0x3C p 0x3C)
    (hh : hasHeader p = true) (hw : ctxWriter s fn p 0x3C = true) (val : BitVec 64) :
    Does (.registerWrite fn page 0x3C 4 val) s fun t => rget t p 0x3C = val.toNat % 2 ^ 32 ∧ SameMem s t ∧
      SameRegs s t fun q off => q = p ∧ off = 0x3C := by
  refine ⟨rset (noteAccess s p) p 0x3C (val.toNat % 2 ^ 32), ?_, ?_, ?_, ?_⟩
  · rw [exec_registerWrite_word fn page (by decide), writeVia_scratch hl hh hw]
  · rw [rget_rset_self, Nat.mod_mod]
  · exact sameMem_of_mem (noteAccess_mem s p)
  · intro q o ho hne
    exact (sameRegs_rset (noteAccess s p) _ (by decide) q o ho hne).trans (rget_congr (noteAccess_regs s p) q o)

section
variable {fn : Fin 65} {page off size p o : Nat} {s : State} (hs : size ∈ [1, 2, 4]) (ha : off % size = 0)
  (hl : Lands s fn page (off / 4 * 4) p o)
include hs ha hl

/-- A read of one register returns its bytes and clears its RC bits, with what hardware adds kept (R6, R7). -/
theorem singleRead_clears (bump : Word) (hq : quantAt p o = none) (h28 : p ≠ 0x28) (h140 : p ≠ 0x140)
    (hfn : p ≠ fnPage fn) : Does (.rcFieldRead fn page off size bump) s fun t =>
      t.out = .readData fn (readSlice off size (peek (noteAccess s p) p o)) :: s.out ∧ SameMem s t ∧
      (rcMask p o ≠ 0 → rget t p o = (peek (noteAccess s p) p o - (peek (noteAccess s p) p o &&& rcMask p o) +
        (bump.toNat &&& rcMask p o)) % 2 ^ 32) ∧
      SameRegs s t fun q off => q = p ∧ off = o ∧ rcMask p o ≠ 0 := by
  have hread := readReg_single (s := noteAccess s p) (fn := fn) hq (fun h => h28 h.1)
    (fun h => by simp [h140, hfn] at h) bump.toNat
  have hkeeps := clearRc_keeps (noteAccess s p) p o bump.toNat
  refine ⟨emit (clearRc (noteAccess s p) p o bump.toNat)
    (.readData fn (readSlice off size (peek (noteAccess s p) p o))), ?_, ?_, ?_, fun hm => rget_clearRc hm _, ?_⟩
  · refine congrArg Host.Outcome.next ?_
    rw [readSized_of_fits hs ha, readVia_lands hl, hread]
  · rw [emit_out, hkeeps.out (by decide), noteAccess_out]
  · exact sameMem_of_mem ((hkeeps.mem (by decide)).trans (noteAccess_mem s p))
  · intro q o' ho' hne
    exact (clearRc_sameRegs _ (resolve_lt hl.1) _ q o' ho' hne).trans (rget_congr (noteAccess_regs s p) q o')

theorem exec_quantityLowWordRead {x : Nat} {t : State} (h : readReg (noteAccess s p) fn p o 0 = (x, t)) :
    exec (.quantityLowWordRead fn page off size) s = .next (emit t (.readData fn (readSlice off size x))) := by
  refine congrArg Host.Outcome.next ?_
  rw [readSized_of_fits hs ha, readVia_lands hl, h]

/-- A read of a quantity's lowest word returns it and latches the others (R4). -/
theorem lowestRead_latches {words : Nat} (hq : quantAt p o = some (o, words)) :
    Does (.quantityLowWordRead fn page off size) s fun t =>
      t.out = .readData fn (readSlice off size (peek (beforeRead (noteAccess s p) p o) p o)) :: s.out ∧
      (∀ i, 1 ≤ i → i < words → t.latched.find? (·.1 == (fn.val, regKey p (o + 4 * i))) =
        some ((fn.val, regKey p (o + 4 * i)), BitVec.ofNat 32 (peek (beforeRead (noteAccess s p) p o) p (o + 4 * i)))) ∧
      SameMem s t ∧ SameRegs s t fun _ _ => False := by
  have k : Keeps [.latched] (beforeRead (noteAccess s p) p o)
      (latchWords (beforeRead (noteAccess s p) p o) fn p o words) :=
    latchWords_keeps (.refl _ _) rfl
  refine ⟨_, exec_quantityLowWordRead hs ha hl (readReg_lowest hq 0), ?_,
    fun i h1 hi => latchWords_find _ _ p o words i h1 hi, ?_, ?_⟩
  · rw [emit_out, k.out (by decide), beforeRead_out, noteAccess_out]
  · exact sameMem_of_mem (by rw [emit_mem, k.mem (by decide), beforeRead_mem, noteAccess_mem])
  · exact sameRegs_of_regs (by rw [emit_regs, k.regs (by decide), beforeRead_regs, noteAccess_regs])

/-- A read of a word that this function's read latched returns the latched word (R4). -/
theorem latchedRead_returns {lo words : Nat} (hq : quantAt p o = some (lo, words)) {kv : (Nat × Nat) × Word}
    (ho : o ≠ lo) (hkv : s.latched.find? (·.1 == (fn.val, regKey p o)) = some kv) :
    Does (.quantityLowWordRead fn page off size) s fun t =>
      t.out = .readData fn (readSlice off size kv.2.toNat) :: s.out ∧ SameMem s t ∧ SameRegs s t fun _ _ => False := by
  refine ⟨_, exec_quantityLowWordRead hs ha hl (readReg_latched hq ho (by rwa [noteAccess_latched]) 0), ?_, ?_, ?_⟩
  · rw [emit_out, beforeRead_out, noteAccess_out]
  · exact sameMem_of_mem (by rw [emit_mem, beforeRead_mem, noteAccess_mem])
  · exact sameRegs_of_regs (by rw [emit_regs, beforeRead_regs, noteAccess_regs])

end

/-! ### Writes of quantities -/

/-- A write of a quantity's lower word is staged, and nothing else (R4). -/
theorem lowerWrite_stages {fn : Fin 65} {page off p o : Nat} {s : State} (val : Word)
    (hwrite : writeVia s fn page (off / 4 * 4) val.toNat = stageWord (noteAccess s p) fn p o val.toNat) :
    Does (.quantityLowerWordWrite fn page off val) s fun t =>
      t.staged.find? (·.1 == (fn.val, regKey p o)) = some ((fn.val, regKey p o), val) ∧
      (∀ k, k ≠ (fn.val, regKey p o) → t.staged.find? (·.1 == k) = s.staged.find? (·.1 == k)) ∧
      SameMem s t ∧ SameRegs s t fun _ _ => False := by
  refine ⟨_, congrArg Host.Outcome.next hwrite, ?_, fun k hk => ?_, ?_, ?_⟩
  · rw [stageWord_find_self, BitVec.ofNat_toNat, BitVec.setWidth_eq]
  · rw [stageWord_find_ne _ hk, noteAccess_staged]
  · exact sameMem_of_mem (noteAccess_mem s p)
  · exact sameRegs_of_regs (noteAccess_regs s p)

/-! ### Accesses to a page that is off -/

/-- To a page that is awake the access is the access itself. -/
theorem offPageAccess_awake (fn : Fin 65) (page off : Nat) (s : State) (val : Word) :
    ∃ t, exec (.offPageAccess fn page off (some val)) s = .next t ∧
      exec (.registerWrite fn page (off / 4 * 4) 4 (val.setWidth 64)) s = .next t := by
  have hval : (val.setWidth 64).toNat % 2 ^ 32 = val.toNat := by
    have := val.isLt
    rw [BitVec.toNat_setWidth]
    omega
  refine ⟨_, rfl, ?_⟩
  rw [exec_registerWrite_word fn page (by omega), hval]

section
variable {fn : Fin 65} {page off p o : Nat} {s : State} (hr : resolve s fn page (off / 4 * 4) = some (p, o))
include hr

theorem exec_offPageWrite (ha : asleep s p = true) (val : Word) : exec (.offPageAccess fn page off (some val)) s =
    .next (parkAccess s (domainOf p) ⟨fn, page, off / 4 * 4, 4, some val⟩) := by
  refine congrArg Host.Outcome.next ?_
  rw [writeVia_asleep hr ha, BitVec.ofNat_toNat, BitVec.setWidth_eq]

theorem exec_offPageRead (ha : asleep s p = true) (ho : hasHeader p = false ∨ 0xC ≤ o) :
    exec (.offPageAccess fn page off none) s =
      .next (parkAccess s (domainOf p) ⟨fn, page, off / 4 * 4, 4, none⟩) := by
  have hr' : resolve s fn page (off / 4 * 4 / 4 * 4) = some (p, o) := by
    rw [Nat.mul_div_cancel _ (by decide), hr]
  exact congrArg Host.Outcome.next (readVia_asleep hr' ha ho 4 0)

/-- BLK_ID, BLK_READY and BLK_PWR of a page that is off are read at once (R304). -/
theorem offPageRead_identity (hh : hasHeader p = true) (ho : o < 0xC) :
    Does (.offPageAccess fn page off none) s fun t => (∃ v, t.out = .readData fn v :: s.out) ∧
      (getDom t (domainOf p)).accesses = (getDom s (domainOf p)).accesses ∧ SameMem s t := by
  have hr' : resolve s fn page (off / 4 * 4 / 4 * 4) = some (p, o) := by
    rw [Nat.mul_div_cancel _ (by decide), hr]
  have k := readReg_identity (noteAccess s p) fn p ho 0
  refine ⟨_, congrArg Host.Outcome.next (readVia_identity hr' hh ho 4 0),
    ⟨readSlice (off / 4 * 4) 4 (readReg (noteAccess s p) fn p o 0).1, ?_⟩, ?_, ?_⟩
  · rw [emit_out, k.out (by decide), noteAccess_out]
  · rw [getDom_congr (emit_doms _ _), getDom_congr (k.doms (by decide)), noteAccess_accesses]
  · exact sameMem_of_mem (by rw [emit_mem, k.mem (by decide), noteAccess_mem])

end

/-- Settles O35: each form of access is one of the cases above. -/
theorem registerAccess : Obligations.RegisterAccess := by
  intro fn page s
  refine ⟨?misfit, ?hole, fun off val ha => registerWrite_pair fn page ha val s,
    fun p val hl hh hw => scratch_taken hl hh hw val, ?read,
    fun off size p o bump hs ha hl hq h28 h140 hfn => singleRead_clears hs ha hl bump hq h28 h140 hfn, ?quantity, ?off⟩
  case misfit => exact fun off size val h4 h8 => ⟨s, exec_registerWrite_misfit fn page h4 h8 val s, rfl⟩
  case hole => exact fun off val h => ⟨s, exec_registerWrite_hole fn h val, rfl⟩
  case read =>
    refine fun off bump => ⟨fun size h => ?_, fun ha => rcFieldRead_pair fn page ha bump s, fun size hs ha hr => ?_⟩
    · exact ⟨s, congrArg Host.Outcome.next (readSized_misfit h), rfl⟩
    · exact ⟨_, congrArg Host.Outcome.next ((readSized_of_fits hs ha).trans (readVia_hole hr _ _)), rfl⟩
  case quantity =>
    intro off size p o lo words u v key hs ha hl hq
    obtain ⟨hlo, hle, hlt, hend⟩ := quantAt_bounds hq
    refine ⟨?lowest, fun kv ho hkv => latchedRead_returns hs ha hl hq ho hkv, ?write⟩
    case lowest =>
      rintro rfl
      exact lowestRead_latches hs ha hl hq
    case write =>
      intro val hw hheld hopen hro
      have hwrite := writeVia_quant hl hq hw hopen val.toNat
      refine ⟨fun ho => ?lower, fun ho c hc => ?highest⟩
      case lower => exact lowerWrite_stages val (hwrite.trans (writeQuant_lower hro hheld ho val.toNat))
      case highest =>
        have hhigh : o = lo + 4 * (words - 1) := by omega
        have hexec : exec c s = .next (commitQuant u fn p lo words val.toNat) := by
          rw [exec_highestWord fn page off val s c hc, hwrite, writeQuant_highest hro hheld ho]
        rw [hhigh]
        exact ⟨_, hexec, commitQuant_noteAccess val.toNat hlo hend (by omega)⟩
  case off =>
    intro off p o val d r hr
    refine ⟨fun _ => offPageAccess_awake fn page off s val, fun hd hlt hs => ?_⟩
    have ha := asleep_of_off hd
    refine ⟨?write, fun hh ho => offPageRead_identity hr hh ho, fun ho => ?read⟩
    case write =>
      exact ⟨_, exec_offPageWrite hr ha val, parkAccess_wakeDue hd hlt hs _, parkAccess_accesses s d _,
        sameMem_of_mem (parkAccess_mem s d _), sameRegs_of_regs (parkAccess_regs s d _)⟩
    case read =>
      exact ⟨_, exec_offPageRead hr ha ho, parkAccess_wakeDue hd hlt hs _, parkAccess_accesses s d _,
        sameMem_of_mem (parkAccess_mem s d _), sameRegs_of_regs (parkAccess_regs s d _)⟩

end Sys2Proof.Machine
end

section
/-! PROOFS. The READY map, the states of domains, and bring-up from the release of chip power-on reset (R292, R293,
R309, R310, R315). -/

namespace Sys2Proof.Machine

/-! ### Quantities of 64 bits and the READY map -/

theorem qget_qset_self (s : State) (p : Nat) (r : Row) (v i : Nat) : qget (qset s p r v i) p r i = v % 2 ^ 64 := by
  have hne : regKey p (r.at i) ≠ regKey p (r.at i + 4) := by
    unfold regKey
    omega
  rw [qget, qset, rget_rset_self, rget_rset_ne _ _ _ _ _ _ hne, rget_rset_self]
  omega

theorem qget_of_rget {s t : State} {p : Nat} {r : Row} (h0 : rget t p (r.at 0) = rget s p (r.at 0))
    (h4 : rget t p (r.at 0 + 4) = rget s p (r.at 0 + 4)) : qget t p r = qget s p r := by
  rw [qget, qget, h0, h4]

theorem setReady_sameRegs (s : State) (b : Nat) :
    SameRegs s (setReady s b) fun q off => q = 0 ∧ (off = 0x2C ∨ off = 0x40 ∨ off = 0x44) := by
  intro q off hoff hne
  unfold setReady
  dsimp only
  split
  · rfl
  · have hat : F.CHIP_READY_LO_LO.at 0 = 0x40 := rfl
    rw [rget_setIrq_ne _ _ _ _ _ (regKey_ne hoff (by decide) (by omega)), qset, hat,
      rget_rset_ne _ _ _ _ _ _ (regKey_ne hoff (by decide) fun h => hne ⟨h.1, .inr (.inr h.2)⟩),
      rget_rset_ne _ _ _ _ _ _ (regKey_ne hoff (by decide) fun h => hne ⟨h.1, .inr (.inl h.2)⟩)]

/-- A bit of READY that was 0 is added to it. -/
theorem qget_setReady {s : State} {b : Nat} (h : readyBit s b = false) :
    qget (setReady s b) 0 F.CHIP_READY_LO_LO = (qget s 0 F.CHIP_READY_LO_LO + 2 ^ b) % 2 ^ 64 := by
  unfold readyBit at h
  rw [setReady, h, if_neg Bool.false_ne_true,
    qget_of_rget (rget_setIrq_ne _ _ _ _ _ (by decide)) (rget_setIrq_ne _ _ _ _ _ (by decide)),
    qget_qset_self]

theorem readyBit_setReady_self (s : State) {b : Nat} (hb : b < 64) : readyBit (setReady s b) b = true := by
  cases h : readyBit s b with
  | true =>
    have hs : setReady s b = s := by
      unfold readyBit at h
      simp only [setReady, h, if_true]
    rw [hs, h]
  | false =>
    unfold readyBit at h
    rw [readyBit, qget_setReady h, Nat.testBit_mod_two_pow, Nat.add_comm, Nat.testBit_two_pow_add_eq, h]
    simp [hb]

/-! ### States of domains -/

theorem setDomState_regs (s : State) (d v : Nat) :
    (setDomState s d v).regs = (fset s 0x10 F.PWR_DOM_STAT_STATE v d).regs :=
  (syncDomain_keeps (.refl [.srcs] _) rfl).regs (by decide)

theorem domState_of_rget {s t : State} {d : Nat} (h : rget t 0x10 (0x100 + 4 * d) = rget s 0x10 (0x100 + 4 * d)) :
    domState t d = domState s d := by
  have hat : F.PWR_DOM_STAT_STATE.at d = 0x100 + 4 * d := rfl
  unfold domState fget
  rw [hat, h]

theorem domState_reset : ∀ d < 60, domState State.reset d = 0 := by decide +kernel

/-! ### Chip power-on reset -/

/-- After a reset every register holds its reset value, but RAIL_OK. -/
theorem rget_coldState (s : State) {q o : Nat} (ho : o < 4096) (h : ¬(q = 0x10 ∧ o = 0x54)) :
    rget (coldState s) q o = rget State.reset q o := by
  rw [coldState, syncRails]
  exact rget_fset_ne _ _ _ _ _ _ _ (regKey_ne ho (by decide) h)

theorem domState_coldState (s : State) {d : Nat} (hd : d < 60) : domState (coldState s) d = 0 :=
  (domState_of_rget (rget_coldState s (by omega) (by omega))).trans (domState_reset d hd)

/-! ### What a calibration record leaves alone -/

/-- From `s` to `t` no register outside Bedrock's log page changed, and the log is as it was. -/
structure SparesLog (s t : State) : Prop where
  regs : ∀ q o, q ≠ 8 → o < 4096 → rget t q o = rget s q o
  log : t.bdrk.log = s.bdrk.log

theorem SparesLog.trans {s t u : State} (h : SparesLog s t) (k : SparesLog t u) : SparesLog s u :=
  ⟨fun q o hq ho => (k.regs q o hq ho).trans (h.regs q o hq ho), k.log.trans h.log⟩

theorem logEnqueue_sparesLog (s : State) (e : LogEntry) : SparesLog s (logEnqueue s e) := by
  unfold logEnqueue
  split
  · exact ⟨fun _ _ _ _ => rfl, rfl⟩
  · refine ⟨fun q o hq ho => ?_, rfl⟩
    change rget (fadd s 8 F.BDRK8_LOG_DROPPED_COUNT 1) q o = rget s q o
    exact rget_fset_ne _ _ _ _ _ _ _ (regKey_ne ho (by decide) fun h => hq h.1)

theorem useFree_sparesLog (s : State) : SparesLog s (useFree s) := ⟨fun _ _ _ _ => rfl, rfl⟩

theorem logEvent_sparesLog (s : State) (type code page detail : Nat) : SparesLog s (logEvent s type code page detail) :=
  logEnqueue_sparesLog s _

theorem logCal_sparesLog (s : State) : SparesLog s (logCal s) := by
  unfold logCal
  exact (((logEvent_sparesLog s _ _ _ _).trans (useFree_sparesLog _)).trans (useFree_sparesLog _)).trans
    (useFree_sparesLog _)

theorem calRecord_sparesLog (s : State) (item qual : Nat) (pass : Bool) : SparesLog s (calRecord s item qual pass) := by
  have hcal : ∀ x : Bdrk → Tbl (Nat × Nat × Nat × Bool), SparesLog s (modBdrk s fun b => { b with cal := x b }) :=
    fun _ => ⟨fun _ _ _ _ => rfl, rfl⟩
  unfold calRecord
  dsimp only
  split
  · exact hcal _
  · exact (hcal _).trans (logCal_sparesLog _)

theorem calThermal_sparesLog (s : State) (offsets : List Int) : SparesLog s (calThermal s offsets) := by
  unfold calThermal
  dsimp only
  refine List.foldlRecOn (motive := SparesLog s) (List.range 24) _ ⟨fun _ _ _ _ => rfl, rfl⟩ fun t ht i _ => ?_
  exact ht.trans (calRecord_sparesLog t _ _ _)

theorem calThermal_por (s : State) (offsets : List Int) : (calThermal s offsets).chip.por = s.chip.por := by
  unfold calThermal
  dsimp only
  refine List.foldlRecOn (motive := fun t : State => t.chip.por = s.chip.por) (List.range 24) _ rfl fun t ht i _ => ?_
  rw [(calRecord_keeps (.refl _ t) (within_refl _)).chip (by decide), ht]

/-! ### The first step of bring-up -/

/-- The reset is released. -/
def porReleased (s : State) : State :=
  setChip s fun c => { c with por := false, porAt := s.devtime, sinceChange := s.devtime }

/-- The straps are sampled, and Bedrock has its READY bit. -/
def strapped (s : State) (boot smb : Nat) : State :=
  setReady (fset (fset (fset (porReleased s) 0 F.CHIP_STATE_BOOT_SRC boot) 0 F.CHIP_STATE_SMB_ADDR smb)
    0x11 F.CLK_SRC_CORE_LOCK 1) 60

/-- Bedrock is ON. -/
def bedrockOn (s : State) : State :=
  let s := loadFuses s
  fset (setDomState (fsetb s 0x11 F.CLK_SRC_REFCLK_OK (!s.chip.perst)) 0 2) 1 F.BDRK1_STATUS_AWAKE 1

theorem startBringup_eq (s : State) (boot smb : Nat) (offsets : List Int) :
    startBringup s boot smb offsets = calThermal (bedrockOn (strapped s boot smb)) offsets := rfl

theorem strapped_keeps (s : State) (boot smb : Nat) : Keeps [.regs, .srcs] (porReleased s) (strapped s boot smb) :=
  setReady_keeps (fset_keeps (fset_keeps (fset_keeps (.refl _ _) rfl) rfl) rfl) rfl

theorem bedrockOn_keeps (s : State) : Keeps [.free, .regs, .srcs, .doms] s (bedrockOn s) :=
  fset_keeps (setDomState_keeps (fsetb_keeps (loadFuses_keeps (.refl _ s) rfl) rfl) rfl) rfl

theorem strapped_sameRegs (s : State) (boot smb : Nat) : SameRegs s (strapped s boot smb) fun q off =>
    (q = 0 ∧ (off = 0x2C ∨ off = 0x40 ∨ off = 0x44 ∨ off = 0x48)) ∨ (q = 0x11 ∧ off = 0x48) := by
  intro q off hoff hne
  have hstate : regKey q off ≠ regKey 0 0x48 := regKey_ne hoff (by decide) (by omega)
  rw [strapped, setReady_sameRegs _ _ q off hoff (by omega),
    rget_fset_ne _ _ _ _ _ _ _ (regKey_ne hoff (by decide) fun h => hne (.inr h)),
    rget_fset_ne _ _ _ _ _ _ _ hstate, rget_fset_ne _ _ _ _ _ _ _ hstate]
  rfl

theorem loadFuses_sameRegs (s : State) : SameRegs s (loadFuses s) fun q off =>
    (q = 0 ∧ off = 0x64) ∨ (q = 0x10 ∧ off = 0x50) ∨ (q = 0x11 ∧ off = 0x48) := by
  intro q off hoff hne
  have huse : ∀ t, rget (useFree t) q off = rget t q off := fun _ => rfl
  unfold loadFuses
  dsimp only
  rw [huse, rget_fset_ne _ _ _ _ _ _ _ (regKey_ne hoff (by decide) fun h => hne (.inr (.inr h))),
    huse, rget_fset_ne _ _ _ _ _ _ _ (regKey_ne hoff (by decide) fun h => hne (.inl h)),
    huse, rget_fset_ne _ _ _ _ _ _ _ (regKey_ne hoff (by decide) fun h => hne (.inr (.inl h)))]

theorem bedrockOn_sameRegs (s : State) : SameRegs s (bedrockOn s) fun q off =>
    (q = 0 ∧ off = 0x64) ∨ (q = 0x10 ∧ (off = 0x50 ∨ off = 0x100)) ∨ (q = 0x11 ∧ off = 0x48) ∨
      (q = 1 ∧ off = 0x40) := by
  intro q off hoff hne
  unfold bedrockOn
  dsimp only
  rw [rget_fset_ne _ _ _ _ _ _ _ (regKey_ne hoff (by decide) fun h => hne (.inr (.inr (.inr h)))),
    rget_congr (setDomState_regs _ _ _),
    rget_fset_ne _ _ F.PWR_DOM_STAT_STATE _ 0 _ _
      (regKey_ne hoff (by decide) fun h => hne (.inr (.inl ⟨h.1, .inr h.2⟩))),
    fsetb,
    rget_fset_ne _ _ _ _ _ _ _ (regKey_ne hoff (by decide) fun h => hne (.inr (.inr (.inl h))))]
  exact loadFuses_sameRegs s q off hoff (by omega)

theorem domState_bedrockOn_zero (s : State) : domState (bedrockOn s) 0 = 2 := by
  have h : (fget (bedrockOn s) 0x10 F.PWR_DOM_STAT_STATE 0) = 2 := by
    unfold bedrockOn
    dsimp only
    rw [fget_fset_ne _ _ _ _ _ _ _ _ (by decide), fget_congr (setDomState_regs _ _ _),
      fget_fset_self _ _ _ _ _ (by decide)]
    rfl
  exact h

theorem rget_startBringup (s : State) (boot smb : Nat) (offsets : List Int) {q o : Nat} (hq : q ≠ 8) (ho : o < 4096) :
    rget (startBringup s boot smb offsets) q o = rget (bedrockOn (strapped s boot smb)) q o :=
  (calThermal_sparesLog _ offsets).regs q o hq ho

theorem rget_startBringup_chip (s : State) (boot smb : Nat) (offsets : List Int) {o : Nat} (ho : o < 4096)
    (h : o ≠ 0x64) : rget (startBringup s boot smb offsets) 0 o = rget (strapped s boot smb) 0 o :=
  (rget_startBringup s boot smb offsets (by decide) ho).trans (bedrockOn_sameRegs _ 0 o ho (by omega))

/-- The states of the switched domains are not touched. -/
theorem domState_startBringup (s : State) (boot smb : Nat) (offsets : List Int) {d : Nat} (hd : 1 ≤ d) (hlt : d < 60) :
    domState (startBringup s boot smb offsets) d = domState s d :=
  domState_of_rget ((rget_startBringup s boot smb offsets (by decide) (by omega)).trans
    ((bedrockOn_sameRegs _ _ _ (by omega) (by omega)).trans (strapped_sameRegs s boot smb _ _ (by omega) (by omega))))

theorem qget_ready_startBringup (s : State) (boot smb : Nat) (offsets : List Int) :
    qget (startBringup s boot smb offsets) 0 F.CHIP_READY_LO_LO = qget (strapped s boot smb) 0 F.CHIP_READY_LO_LO :=
  qget_of_rget (rget_startBringup_chip s boot smb offsets (by decide) (by decide))
    (rget_startBringup_chip s boot smb offsets (by decide) (by decide))

/-- READY before bring-up begins is what it was when Bedrock's bit is added. -/
theorem qget_ready_strapped {s : State} (boot smb : Nat) (h : readyBit s 60 = false) :
    qget (strapped s boot smb) 0 F.CHIP_READY_LO_LO = (qget s 0 F.CHIP_READY_LO_LO + 2 ^ 60) % 2 ^ 64 := by
  have hsame : ∀ x, qget (fset (fset (fset (porReleased s) 0 F.CHIP_STATE_BOOT_SRC boot) 0 F.CHIP_STATE_SMB_ADDR smb)
      0x11 F.CLK_SRC_CORE_LOCK x) 0 F.CHIP_READY_LO_LO = qget s 0 F.CHIP_READY_LO_LO := by
    intro x
    refine qget_of_rget ?_ ?_ <;>
    · rw [rget_fset_ne _ _ _ _ _ _ _ (by decide), rget_fset_ne _ _ _ _ _ _ _ (by decide),
        rget_fset_ne _ _ _ _ _ _ _ (by decide)]
      rfl
  have hbit : readyBit (fset (fset (fset (porReleased s) 0 F.CHIP_STATE_BOOT_SRC boot) 0 F.CHIP_STATE_SMB_ADDR smb)
      0x11 F.CLK_SRC_CORE_LOCK 1) 60 = false := by rw [readyBit, hsame, ← readyBit, h]
  rw [strapped, qget_setReady hbit, hsame]

theorem fget_strapped_straps (s : State) (boot smb : Nat) :
    fget (strapped s boot smb) 0 F.CHIP_STATE_BOOT_SRC = boot % 4 ∧
      fget (strapped s boot smb) 0 F.CHIP_STATE_SMB_ADDR = smb % 8 := by
  have hreg : ∀ r : Row, r.at 0 = 0x48 → fget (strapped s boot smb) 0 r =
      fget (fset (fset (porReleased s) 0 F.CHIP_STATE_BOOT_SRC boot) 0 F.CHIP_STATE_SMB_ADDR smb) 0 r := by
    intro r hr
    rw [fget, fget, hr, strapped, setReady_sameRegs _ _ _ _ (by decide) (by decide),
      rget_fset_ne _ _ _ _ _ _ _ (by decide)]
  refine ⟨?_, ?_⟩
  · rw [hreg _ rfl, fget_fset_disjoint _ _ F.CHIP_STATE_SMB_ADDR _ _ F.CHIP_STATE_BOOT_SRC _ rfl (by decide)
      (by decide), fget_fset_self _ _ _ _ _ (by decide)]
    rfl
  · rw [hreg _ rfl, fget_fset_self _ _ _ _ _ (by decide)]
    rfl

/-- Bring-up begins: the reset is released, the straps are sampled, Bedrock is READY and ON, and DEVTIME goes on. -/
theorem startBringup_begun (s : State) (boot : Fin 4) (smb : Fin 8) (offsets : List Int) :
    let t := startBringup s boot smb offsets
    t.chip.por = false ∧ fget t 0 F.CHIP_STATE_BOOT_SRC = boot ∧ fget t 0 F.CHIP_STATE_SMB_ADDR = smb ∧
      readyBit t 60 = true ∧ domState t 0 = 2 ∧ t.devtime = s.devtime := by
  intro t
  have hstraps : ∀ r : Row, r.at 0 = 0x48 → fget t 0 r = fget (strapped s boot smb) 0 r := by
    intro r hr
    rw [fget, fget, hr, rget_startBringup_chip s boot smb offsets (by decide) (by decide)]
  obtain ⟨hboot, hsmb⟩ := fget_strapped_straps s boot smb
  refine ⟨?por, ?boot, ?smb, ?ready, ?dom, ?time⟩
  case por =>
    rw [show t = calThermal (bedrockOn (strapped s boot smb)) offsets from rfl, calThermal_por,
      (bedrockOn_keeps _).chip (by decide), (strapped_keeps s boot smb).chip (by decide)]
    rfl
  case boot => rw [hstraps _ rfl, hboot, Nat.mod_eq_of_lt boot.isLt]
  case smb => rw [hstraps _ rfl, hsmb, Nat.mod_eq_of_lt smb.isLt]
  case ready =>
    rw [readyBit, qget_ready_startBringup, ← readyBit]
    exact readyBit_setReady_self _ (by decide)
  case dom =>
    rw [domState_of_rget (rget_startBringup s boot smb offsets (by decide) (by decide)), domState_bedrockOn_zero]
  case time => exact (startBringup_keeps (.refl _ s) (within_refl _)).devtime (by decide)

theorem startBringup_log (s : State) (boot smb : Nat) (offsets : List Int) :
    (startBringup s boot smb offsets).bdrk.log = s.bdrk.log := by
  rw [startBringup_eq, (calThermal_sparesLog _ offsets).log, (bedrockOn_keeps _).bdrk (by decide),
    (strapped_keeps s boot smb).bdrk (by decide)]
  rfl

end Sys2Proof.Machine
end

section
/-! PROOFS. The rails, the power-on resets and the chip reset (R10, R292, R293, R315): what they clear, what they begin,
and that DEVTIME goes on. -/

namespace Sys2Proof.Machine

/-! ### What a reset empties -/

/-- What a chip power-on reset leaves of the units: no switched domain that is not OFF, and nothing in use. -/
structure Emptied (t : State) : Prop where
  doms : ∀ d < 60, 1 ≤ d → domState t d = 0
  ctxs : t.ctxs = []
  rings : t.rings = []
  queues : t.queues = []
  flows : t.flows = []
  talus : t.talus = []

theorem powerOnReset_emptied (s : State) : Emptied (powerOnReset s) :=
  ⟨fun _ hd _ => domState_coldState s hd, rfl, rfl, rfl, rfl, rfl⟩

/-- The state that a chip reset begins bring-up from: at reset, but for the log ring and its SEQ (R325). -/
def chipResetState (s : State) : State :=
  let t := fset (modBdrk (coldState s) ({ · with log := s.bdrk.log, toNor := s.bdrk.toNor }))
    8 F.BDRK8_LOG_HEAD_SEQ (fget s 8 F.BDRK8_LOG_HEAD_SEQ)
  { t with free := t.free + 24 }

theorem rget_chipResetState (s : State) {q o : Nat} (hq : q ≠ 8) (ho : o < 4096) (h : ¬(q = 0x10 ∧ o = 0x54)) :
    rget (chipResetState s) q o = rget State.reset q o := by
  have hlog : rget (chipResetState s) q o = rget (coldState s) q o :=
    rget_fset_ne _ _ F.BDRK8_LOG_HEAD_SEQ _ 0 _ _ (regKey_ne ho (by decide) fun h => hq h.1)
  rw [hlog, rget_coldState s ho h]

theorem domState_chipResetState (s : State) {d : Nat} (hd : d < 60) : domState (chipResetState s) d = 0 :=
  (domState_of_rget (rget_chipResetState s (by decide) (by omega) (by omega))).trans (domState_reset d hd)

theorem qget_ready_chipResetState (s : State) : qget (chipResetState s) 0 F.CHIP_READY_LO_LO = 0 :=
  (qget_of_rget (rget_chipResetState s (by decide) (by decide) (by decide))
    (rget_chipResetState s (by decide) (by decide) (by decide))).trans (by decide +kernel)

/-- A chip reset taken: bring-up begins from that state, with sensor offsets that are measured again. -/
theorem exec_chipReset_taken {s : State} {val : Word} (boot : Fin 4) (smb : Fin 8) (h0 : val.getLsbD 0 = true)
    (hk : val.toNat / 2 ^ 16 = 0x5EA7) (hp : s.chip.por = false) :
    ∃ offsets, exec (.chipReset val boot smb) s = .next (startBringup (chipResetState s) boot smb offsets) := by
  have hexec : exec (.chipReset val boot smb) s = execChipReset val boot smb s := rfl
  rw [execChipReset, if_pos (by rw [h0, hk, hp]; rfl)] at hexec
  exact ⟨_, hexec⟩

theorem exec_chipReset_ignored {s : State} {val : Word} (boot : Fin 4) (smb : Fin 8)
    (h : val.getLsbD 0 = false ∨ val.toNat / 2 ^ 16 ≠ 0x5EA7) : exec (.chipReset val boot smb) s = .next s := by
  have hno : ¬((val.getLsbD 0 && val.toNat / 2 ^ 16 == 0x5EA7 && !s.chip.por) = true) := by
    rcases h with h | h
    · rw [h]
      simp
    · rw [beq_eq_false_iff_ne.2 h]
      simp
  change execChipReset val boot smb s = _
  rw [execChipReset, if_neg hno]

theorem chipReset_emptied (s : State) (boot smb : Nat) (offsets : List Int) :
    Emptied (startBringup (chipResetState s) boot smb offsets) := by
  have k : Keeps [.free, .regs, .srcs, .doms, .chip, .bdrk] (chipResetState s)
      (startBringup (chipResetState s) boot smb offsets) := startBringup_keeps (.refl _ _) (within_refl _)
  exact {
    doms := fun d hlt h1 => (domState_startBringup _ boot smb offsets h1 hlt).trans (domState_chipResetState s hlt)
    ctxs := k.ctxs (by decide)
    rings := k.rings (by decide)
    queues := k.queues (by decide)
    flows := k.flows (by decide)
    talus := k.talus (by decide) }

theorem qget_ready_chipReset (s : State) (boot smb : Nat) (offsets : List Int) :
    qget (startBringup (chipResetState s) boot smb offsets) 0 F.CHIP_READY_LO_LO = 2 ^ 60 := by
  have hbit : readyBit (chipResetState s) 60 = false := by
    rw [readyBit, qget_ready_chipResetState]
    rfl
  rw [qget_ready_startBringup, qget_ready_strapped boot smb hbit, qget_ready_chipResetState]
  rfl

/-! ### The rails -/

theorem fget_railOk_syncRails {s : State} (h : s.chip.rails = List.replicate 11 true) :
    fget (syncRails s) 0x10 F.PWR_STAT_RAIL_OK = 2047 := by
  rw [syncRails, h, fget_fset_self _ _ _ _ _ (by decide)]
  decide

/-- Settles O55: each command is one of the resets above, or the start of bring-up. -/
theorem railsAndResets : Obligations.RailsAndResets := by
  intro s boot smb begun emptied
  have hemptied : ∀ {t}, Emptied t → emptied t := fun h =>
    ⟨h.doms, h.ctxs, h.rings, h.queues, h.flows, h.talus⟩
  refine ⟨?good, ?aon, ?release, ?fail, ?reset, ?ignored⟩
  case good =>
    intro hbad
    have hexec : exec .railsGood s = execRailsGood s := rfl
    rw [execRailsGood, if_neg (by rw [hbad]; decide)] at hexec
    exact ⟨_, hexec, fget_railOk_syncRails (s := setChip s ({ · with rails := List.replicate 11 true })) rfl,
      rfl, rfl, rfl, fun _ => rfl⟩
  case aon =>
    intro hdown
    have hexec : exec .aonPowerOnResetRelease s = execAonPowerOnResetRelease s := rfl
    rw [execAonPowerOnResetRelease, if_neg (by rw [hdown]; decide)] at hexec
    exact ⟨_, hexec, rfl, rfl, rfl, fun _ => rfl⟩
  case release =>
    intro offsets hpor hrails haon htrip htime
    have hexec : exec (.chipPowerOnResetRelease boot smb offsets) s =
        execChipPowerOnResetRelease boot smb offsets s := rfl
    rw [execChipPowerOnResetRelease, if_pos (by rw [hpor, hrails, haon, htrip, decide_eq_true htime]; rfl)] at hexec
    refine ⟨_, hexec, startBringup_begun s boot smb offsets, sameMem_of_mem ?_⟩
    exact (startBringup_keeps (.refl _ s) (within_refl _)).mem (by decide)
  case fail =>
    intro rail
    have hexec : exec (.railFail rail) s = execRailFail rail s := rfl
    rw [execRailFail] at hexec
    split at hexec
    · next h3 =>
      refine ⟨_, hexec, rfl, rfl, hemptied ?_, domState_coldState _ (by decide), rfl, fun h => absurd h3 h,
        fun _ => ⟨rfl, rfl⟩⟩
      exact ⟨fun d hlt _ => domState_coldState _ hlt, rfl, rfl, rfl, rfl, rfl⟩
    · next h3 =>
      exact ⟨_, hexec, rfl, rfl, hemptied (powerOnReset_emptied _), domState_coldState _ (by decide), rfl,
        fun _ => ⟨rfl, rfl⟩, fun h => absurd h h3⟩
  case reset =>
    intro val h0 hk hp
    obtain ⟨offsets, hexec⟩ := exec_chipReset_taken (s := s) boot smb h0 hk hp
    exact ⟨_, hexec, startBringup_begun (chipResetState s) boot smb offsets,
      hemptied (chipReset_emptied s boot smb offsets), qget_ready_chipReset s boot smb offsets,
      startBringup_log (chipResetState s) boot smb offsets⟩
  case ignored => exact fun val h => ⟨s, exec_chipReset_ignored boot smb h, rfl⟩

end Sys2Proof.Machine
end

section
/-! PROOFS. What a sequence of updates leaves of the registers, and of the other fields of State. -/

namespace Sys2Proof.Machine

/-! ### Registers that keep their value -/

theorem SameRegs.refl (s : State) (hit : Nat → Nat → Prop) : SameRegs s s hit := fun _ _ _ _ => rfl

theorem SameRegs.trans {s t u : State} {hit : Nat → Nat → Prop} (h : SameRegs s t hit) (k : SameRegs t u hit) :
    SameRegs s u hit := fun p o ho hn => (k p o ho hn).trans (h p o ho hn)

theorem SameRegs.mono {s t : State} {hit hit' : Nat → Nat → Prop} (h : SameRegs s t hit)
    (hm : ∀ p o, hit p o → hit' p o) : SameRegs s t hit' := fun p o ho hn => h p o ho fun k => hn (hm p o k)

theorem SameRegs.then_regs {s t u : State} {hit : Nat → Nat → Prop} (h : SameRegs s t hit) (hu : u.regs = t.regs) :
    SameRegs s u hit := h.trans (sameRegs_of_regs hu)

theorem SameRegs.then_rset {s t : State} {hit : Nat → Nat → Prop} (h : SameRegs s t hit) {p o : Nat} (ho : o < 4096)
    (hh : hit p o) (v : Nat) : SameRegs s (rset t p o v) hit :=
  h.trans ((sameRegs_rset t v ho).mono fun _ _ e => by rw [e.1, e.2]; exact hh)

theorem SameRegs.then_fset {s t : State} {hit : Nat → Nat → Prop} (h : SameRegs s t hit) {p : Nat} {r : Row} {i : Nat}
    (ho : r.at i < 4096) (hh : hit p (r.at i)) (v : Nat) : SameRegs s (fset t p r v i) hit := h.then_rset ho hh _

theorem SameRegs.then_setIrq {s t : State} {hit : Nat → Nat → Prop} (h : SameRegs s t hit) {p : Nat} (hh : hit p 0x2C)
    (m : Nat) : SameRegs s (setIrq t p m) hit :=
  h.trans ((sameRegs_setIrq t p m).mono fun _ _ e => by rw [e.1, e.2]; exact hh)

theorem SameRegs.foldl {α : Type} {s t : State} {hit : Nat → Nat → Prop} {f : State → α → State} {l : List α}
    (h : SameRegs s t hit) (hf : ∀ u, ∀ x ∈ l, SameRegs u (f u x) hit) : SameRegs s (l.foldl f t) hit :=
  List.foldlRecOn (motive := fun u => SameRegs s u hit) l f h fun u hu x hx => hu.trans (hf u x hx)

/-- A field of a register that keeps its value keeps its own. -/
theorem SameRegs.fget {s t : State} {hit : Nat → Nat → Prop} (h : SameRegs s t hit) {p : Nat} {r : Row} {i : Nat}
    (ho : r.at i < 4096) (hn : ¬hit p (r.at i)) : fget t p r i = fget s p r i := by
  rw [Machine.fget, Machine.fget, h p _ ho hn]

theorem SameRegs.fbit {s t : State} {hit : Nat → Nat → Prop} (h : SameRegs s t hit) {p : Nat} {r : Row} {i : Nat}
    (ho : r.at i < 4096) (hn : ¬hit p (r.at i)) : fbit t p r i = fbit s p r i := by
  rw [Machine.fbit, Machine.fbit, h.fget ho hn]

/-! ### Fields of one register -/

/-- Two fields of registers that repeat alike share no bit. -/
def apart (r r' : Row) : Bool :=
  r.stride == r'.stride && decide (r.lo + r.width ≤ 32) &&
    (r.off != r'.off || decide (r'.lo + r'.width ≤ r.lo) || decide (r.lo + r.width ≤ r'.lo))

theorem fget_fset_apart (s : State) (p : Nat) (r : Row) (v i : Nat) (r' : Row) (h : apart r r' = true) :
    fget (fset s p r v i) p r' i = fget s p r' i := by
  simp only [apart, Bool.and_eq_true, Bool.or_eq_true, beq_iff_eq, bne_iff_ne, decide_eq_true_eq] at h
  obtain ⟨⟨hst, hw⟩, hd⟩ := h
  by_cases ho : r.off = r'.off
  · exact fget_fset_disjoint _ _ _ _ _ _ _ (by rw [Row.at, Row.at, ho, hst]) hw (by tauto)
  · refine fget_fset_ne _ _ _ _ _ _ _ _ ?_
    unfold regKey Row.at
    rw [hst]
    omega

theorem fget_lt (s : State) (p : Nat) (r : Row) (i : Nat) : fget s p r i < 2 ^ r.width := bitsOf_lt _ _ _

/-! ### State from its parts -/

/-- An operation that writes registers, ring pairs and contexts answers a state that is the same in all else. -/
theorem Keeps.eq_update {s t : State} (h : Keeps [.regs, .rings, .ctxs] s t) :
    t = { s with regs := t.regs, rings := t.rings, ctxs := t.ctxs } := by
  obtain ⟨⟩ := s
  obtain ⟨⟩ := t
  have h1 := h.pending
  have h2 := h.free (by decide)
  have h3 := h.devtime (by decide)
  have h4 := h.staged (by decide)
  have h5 := h.latched (by decide)
  have h6 := h.mem (by decide)
  have h7 := h.poison (by decide)
  have h8 := h.engines (by decide)
  have h9 := h.banks (by decide)
  have h10 := h.disp (by decide)
  have h11 := h.talus (by decide)
  have h12 := h.dmcs (by decide)
  have h13 := h.chans (by decide)
  have h14 := h.srcs (by decide)
  have h15 := h.tgts (by decide)
  have h16 := h.holdoff (by decide)
  have h17 := h.funcs (by decide)
  have h18 := h.doms (by decide)
  have h19 := h.chip (by decide)
  have h20 := h.flows (by decide)
  have h21 := h.svcs (by decide)
  have h22 := h.ptp (by decide)
  have h23 := h.queues (by decide)
  have h24 := h.snodes (by decide)
  have h25 := h.pnodes (by decide)
  have h26 := h.store (by decide)
  have h27 := h.dgCount (by decide)
  have h28 := h.bdrk (by decide)
  have h29 := h.perf (by decide)
  have h30 := h.pins (by decide)
  have h31 := h.out (by decide)
  simp only at *
  simp only [*]

/-- The same, of an operation that writes registers and ring pairs. -/
theorem eq_rings_of_keeps {s t : State} (h : ∀ w, within [.regs, .rings] w = true → Keeps w s t) :
    t = { s with regs := t.regs, rings := t.rings } := by
  have e := (h [.regs, .rings, .ctxs] rfl).eq_update
  rw [(h [.regs, .rings] rfl).ctxs (by decide)] at e
  exact e

/-- The same, of an operation that writes registers alone. -/
theorem eq_regs_of_keeps {s t : State} (h : ∀ w, within [.regs] w = true → Keeps w s t) :
    t = { s with regs := t.regs } := by
  have e := (h [.regs, .rings, .ctxs] rfl).eq_update
  rw [(h [.regs] rfl).rings (by decide), (h [.regs] rfl).ctxs (by decide)] at e
  exact e

end Sys2Proof.Machine
end

section
/-! PROOFS. Ring pairs: their registers as fields of a ring, the doorbells, RING_CTL, the fetch of commands and the writing
of entries (R26–R32). -/

namespace Sys2Proof.Machine

/-! ### The registers of a ring -/

theorem ringKey_fn (fn : Fin 64) (ring : Fin 4) : ringKey fn ring = 4 * fn.val + ring.val := by
  have := fn.isLt
  rw [ringKey, if_neg (by omega)]

@[simp] theorem ringFn_ringKey (fn : Fin 64) (ring : Fin 4) : ringFn (ringKey fn ring) = fn := by
  have := ring.isLt
  rw [ringKey_fn, ringFn]
  omega

@[simp] theorem ringNo_ringKey (fn : Fin 64) (ring : Fin 4) : ringNo (ringKey fn ring) = ring := by
  have := ring.isLt
  rw [ringKey_fn, ringNo]
  omega

theorem ringKey_ne_agent (fn : Fin 64) (ring : Fin 4) : ringKey fn ring ≠ 256 := by
  have := ring.isLt
  have := fn.isLt
  rw [ringKey_fn]
  omega

theorem rfield_congr {s t : State} (h : t.regs = s.regs) (k : Nat) (r : Row) : rfield t k r = rfield s k r :=
  fget_congr h _ _ _

theorem rfield_rfieldSet_self (s : State) (k : Nat) (r : Row) (v : Nat) (h : r.lo + r.width ≤ 32) :
    rfield (rfieldSet s k r v) k r = v % 2 ^ r.width := fget_fset_self _ _ _ _ _ h

theorem rfield_rfieldSet_of_lt (s : State) (k : Nat) (r : Row) (v : Nat) (h : r.lo + r.width ≤ 32)
    (hv : v < 2 ^ r.width) : rfield (rfieldSet s k r v) k r = v := by
  rw [rfield_rfieldSet_self _ _ _ _ h, Nat.mod_eq_of_lt hv]

theorem rfield_rfieldSet_apart (s : State) (k : Nat) (r : Row) (v : Nat) (r' : Row) (h : apart r r' = true) :
    rfield (rfieldSet s k r v) k r' = rfield s k r' := fget_fset_apart _ _ _ _ _ _ h

theorem rfield_lt (s : State) (k : Nat) (r : Row) : rfield s k r < 2 ^ r.width := fget_lt _ _ _ _

/-- CQ_WAIT is all that `syncCqWait` can change. -/
theorem syncCqWait_eq (s : State) (k : Nat) :
    syncCqWait s k = s ∨ k ≠ 256 ∧ ∃ v, syncCqWait s k = rfieldSet s k F.FN_RING_STAT_CQ_WAIT v := by
  unfold syncCqWait
  split
  · exact .inl rfl
  · next h => exact .inr ⟨h, _, rfl⟩

theorem rfield_syncCqWait (s : State) (k : Nat) (r : Row) (h : apart F.FN_RING_STAT_CQ_WAIT r = true) :
    rfield (syncCqWait s k) k r = rfield s k r := by
  obtain e | ⟨-, v, e⟩ := syncCqWait_eq s k
  · rw [e]
  · rw [e, rfield_rfieldSet_apart _ _ _ _ _ h]

theorem SameRegs.then_rfieldSet {s t : State} {hit : Nat → Nat → Prop} (h : SameRegs s t hit) (fn : Fin 64)
    (ring : Fin 4) {r : Row} (v : Nat) (ho : r.off + r.stride * 3 < 4096) (hh : hit (fnPage fn) (r.at ring)) :
    SameRegs s (rfieldSet t (ringKey fn ring) r v) hit := by
  have hle : r.stride * ring.val ≤ r.stride * 3 := Nat.mul_le_mul_left _ (Nat.le_of_lt_succ ring.isLt)
  rw [rfieldSet, ringFn_ringKey, ringNo_ringKey]
  exact h.then_fset (by unfold Row.at; omega) hh v

theorem SameRegs.then_syncCqWait {s t : State} {hit : Nat → Nat → Prop} (h : SameRegs s t hit) (fn : Fin 64)
    (ring : Fin 4) (hh : hit (fnPage fn) (0x228 + 0x40 * ring)) : SameRegs s (syncCqWait t (ringKey fn ring)) hit := by
  obtain e | ⟨-, v, e⟩ := syncCqWait_eq t (ringKey fn ring)
  · rwa [e]
  · rw [e]
    exact h.then_rfieldSet fn ring v (by decide) hh

end Sys2Proof.Machine
end

section
namespace Sys2Proof.Machine

/-! ### Doorbells -/

/-- Settles O5: a doorbell stores the index, or sets DB_ERR; the head's doorbell may end CQ_WAIT. -/
theorem doorbellsMoveTheRings : Obligations.DoorbellsMoveTheRings := by
  intro fn ring val s
  refine ⟨?tail, ?head⟩
  case tail =>
    intro k i tail ok
    have hi : i < 2 ^ 12 := Nat.mod_lt _ (by decide)
    have hframe := fun t (h : exec (.sqDoorbell fn ring val) s = .next t) =>
      eq_regs_of_keeps fun w hw => execSqDoorbell_keeps (.refl w s) hw t h
    by_cases h : ok
    · refine ⟨rfieldSet s k F.FN_RING_SQ_TAIL_TAIL i, if_pos h, ?_, fun hn => absurd h hn, hframe _ (if_pos h), ?_⟩
      · rw [if_pos h, rfield_rfieldSet_of_lt _ _ _ _ (by decide) hi]
      · exact (SameRegs.refl s _).then_rfieldSet fn ring _ (by decide) ⟨rfl, .inl rfl⟩
    · refine ⟨rfieldSet s k F.FN_RING_STAT_DB_ERR 1, if_neg h, ?_, fun _ => ?_, hframe _ (if_neg h), ?_⟩
      · rw [if_neg h, rfield_rfieldSet_apart _ _ _ _ _ (by decide)]
      · rw [rfield_rfieldSet_of_lt _ _ _ _ (by decide) (by decide)]
      · exact (SameRegs.refl s _).then_rfieldSet fn ring _ (by decide) ⟨rfl, .inr rfl⟩
  case head =>
    intro k i head ok
    have hi : i < 2 ^ 12 := Nat.mod_lt _ (by decide)
    have hframe := fun t (h : exec (.cqDoorbell fn ring val) s = .next t) =>
      eq_regs_of_keeps fun w hw => execCqDoorbell_keeps (.refl w s) hw t h
    by_cases h : ok
    · refine ⟨syncCqWait (rfieldSet s k F.FN_RING_CQ_HEAD_HEAD i) k, if_pos h, ?_, fun hn => absurd h hn,
        hframe _ (if_pos h), ?_⟩
      · rw [if_pos h, rfield_syncCqWait _ _ _ (by decide), rfield_rfieldSet_of_lt _ _ _ _ (by decide) hi]
      · exact ((SameRegs.refl s _).then_rfieldSet fn ring _ (by decide) ⟨rfl, .inl rfl⟩).then_syncCqWait fn ring ⟨rfl, .inr rfl⟩
    · refine ⟨rfieldSet s k F.FN_RING_STAT_DB_ERR 1, if_neg h, ?_, fun _ => ?_, hframe _ (if_neg h), ?_⟩
      · rw [if_neg h, rfield_rfieldSet_apart _ _ _ _ _ (by decide)]
      · rw [rfield_rfieldSet_of_lt _ _ _ _ (by decide) (by decide)]
      · exact (SameRegs.refl s _).then_rfieldSet fn ring _ (by decide) ⟨rfl, .inr rfl⟩

end Sys2Proof.Machine
end

section
namespace Sys2Proof.Machine

/-! ### RING_CTL -/

theorem ringCfg_splice (v b : Nat) : ringCfg (splice v 0 1 b) = ringCfg v := by
  simp only [ringCfg, bitsOf_splice_disjoint v 0 1 b _ _ (.inr (by decide : 0 + 1 ≤ 1)),
    bitsOf_splice_disjoint v 0 1 b _ _ (.inr (by decide : 0 + 1 ≤ 2)),
    bitsOf_splice_disjoint v 0 1 b _ _ (.inr (by decide : 0 + 1 ≤ 4)),
    bitsOf_splice_disjoint v 0 1 b _ _ (.inr (by decide : 0 + 1 ≤ 8))]

/-- Every head and tail at 0, PHASE 1. -/
theorem resetRingPtrs_of_disabled {s : State} {k : Nat} (h : rfield s k F.FN_RING_CTL_ENABLE ≠ 1) :
    let t := resetRingPtrs s k
    rfield t k F.FN_RING_SQ_TAIL_TAIL = 0 ∧ rfield t k F.FN_RING_SQ_HEAD_HEAD = 0 ∧
      rfield t k F.FN_RING_CQ_HEAD_HEAD = 0 ∧ rfield t k F.FN_RING_CQ_TAIL_TAIL = 0 ∧
      rfield t k F.FN_RING_CQ_TAIL_PHASE = 1 := by
  simp only [resetRingPtrs, if_neg h]
  refine ⟨?_, ?_, ?_, ?_, ?_⟩ <;>
  simp (disch := decide) only [rfield_syncCqWait, rfield_rfieldSet_apart, rfield_rfieldSet_of_lt]

/-- No field of RING_CTL or RING_IRQ changes at a reset of the pointers. -/
theorem rfield_resetRingPtrs (s : State) (k : Nat) (r : Row) (h : r.stride = 0x40) (ho : r.off = 0x210) :
    rfield (resetRingPtrs s k) k r = rfield s k r := by
  have hap : ∀ q : Row, q.stride = 0x40 → q.lo + q.width ≤ 32 → q.off ≠ 0x210 → apart q r = true := by
    intro q h1 h2 h3
    simp [apart, h, ho, h1, h2, h3]
  unfold resetRingPtrs
  split
  · rfl
  · rw [rfield_syncCqWait _ _ _ (hap _ rfl (by decide) (by decide))]
    simp (disch := exact hap _ rfl (by decide) (by decide)) only [rfield_rfieldSet_apart]

theorem resetRingPtrs_sameRegs {s t : State} {hit : Nat → Nat → Prop} (h : SameRegs s t hit) (fn : Fin 64)
    (ring : Fin 4) (hh : ∀ o, 0x214 ≤ o → o ≤ 0x228 → hit (fnPage fn) (o + 0x40 * ring)) :
    SameRegs s (resetRingPtrs t (ringKey fn ring)) hit := by
  unfold resetRingPtrs
  split
  · exact h
  · refine SameRegs.then_syncCqWait ?_ fn ring (hh 0x228 (by decide) (by decide))
    refine SameRegs.then_rfieldSet ?_ fn ring _ (by decide) (hh 0x220 (by decide) (by decide))
    refine SameRegs.then_rfieldSet ?_ fn ring _ (by decide) (hh 0x220 (by decide) (by decide))
    refine SameRegs.then_rfieldSet ?_ fn ring _ (by decide) (hh 0x21C (by decide) (by decide))
    refine SameRegs.then_rfieldSet ?_ fn ring _ (by decide) (hh 0x218 (by decide) (by decide))
    exact h.then_rfieldSet fn ring _ (by decide) (hh 0x214 (by decide) (by decide))

/-- The four location and size fields as a pair's RING_CTL shows them. -/
def cfgOf (s : State) (k : Nat) : Nat × Nat × Nat × Nat :=
  (rfield s k F.FN_RING_CTL_SQ_LOC, rfield s k F.FN_RING_CTL_CQ_LOC, rfield s k F.FN_RING_CTL_SQ_LOG2,
    rfield s k F.FN_RING_CTL_CQ_LOG2)

/-- The state in which a disabled ring pair takes the fields of a write of RING_CTL. -/
def ctlTaken (s : State) (k v : Nat) : State :=
  let s := if bitsOf v 16 1 = 1 then resetRingPtrs s k else s
  let s := rfieldSet (rfieldSet s k F.FN_RING_CTL_SQ_LOC (bitsOf v 1 1)) k F.FN_RING_CTL_CQ_LOC (bitsOf v 2 1)
  rfieldSet (rfieldSet s k F.FN_RING_CTL_SQ_LOG2 (bitsOf v 4 4)) k F.FN_RING_CTL_CQ_LOG2 (bitsOf v 8 4)

/-- A size outside 4–12. -/
def badLog (n : Nat) : Bool := n < 4 || 12 < n

theorem badLog_iff (n : Nat) : badLog n = true ↔ n < 4 ∨ 12 < n := by simp [badLog]

theorem writeRingCtl_enabled {s : State} {k v : Nat} (h : rfield s k F.FN_RING_CTL_ENABLE = 1) :
    writeRingCtl s k v = rfieldSet (if ringCfg v = cfgOf s k then s else rfieldSet s k F.FN_RING_STAT_CFG_ERR 1) k
      F.FN_RING_CTL_ENABLE (bitsOf v 0 1) := if_pos h

theorem writeRingCtl_disabled {s : State} {k v : Nat} (h : rfield s k F.FN_RING_CTL_ENABLE ≠ 1) :
    writeRingCtl s k v =
      if bitsOf v 0 1 = 1 ∧ (badLog (bitsOf v 4 4) = true ∨ badLog (bitsOf v 8 4) = true) then
        rfieldSet (ctlTaken s k v) k F.FN_RING_STAT_CFG_ERR 1
      else syncCqWait (rfieldSet (ctlTaken s k v) k F.FN_RING_CTL_ENABLE (bitsOf v 0 1)) k := if_neg h

theorem rfield_enable_ctlTaken (s : State) (k v : Nat) :
    rfield (ctlTaken s k v) k F.FN_RING_CTL_ENABLE = rfield s k F.FN_RING_CTL_ENABLE := by
  simp (disch := decide) only [ctlTaken, rfield_rfieldSet_apart]
  split
  · exact rfield_resetRingPtrs s k _ rfl rfl
  · rfl

theorem cfgOf_ctlTaken (s : State) (k v : Nat) : cfgOf (ctlTaken s k v) k = ringCfg v := by
  simp (disch := decide) only [cfgOf, ctlTaken, rfield_rfieldSet_apart, rfield_rfieldSet_self, ringCfg, Prod.mk.injEq]
  exact ⟨Nat.mod_mod _ _, Nat.mod_mod _ _, Nat.mod_mod _ _, Nat.mod_mod _ _⟩

/-- RING_CTL's other fields are all that ENABLE leaves alone. -/
theorem cfgOf_congr {s t : State} {k : Nat}
    (h : ∀ r, apart F.FN_RING_CTL_ENABLE r = true → apart F.FN_RING_STAT_CQ_WAIT r = true →
      apart F.FN_RING_STAT_CFG_ERR r = true → rfield t k r = rfield s k r) : cfgOf t k = cfgOf s k := by
  simp (disch := decide) only [cfgOf, h]

theorem ctlTaken_sameRegs {s : State} {hit : Nat → Nat → Prop} (fn : Fin 64) (ring : Fin 4) (v : Nat)
    (hh : ∀ o, 0x210 ≤ o → o ≤ 0x228 → hit (fnPage fn) (o + 0x40 * ring)) :
    SameRegs s (ctlTaken s (ringKey fn ring) v) hit := by
  have hctl := hh 0x210 (by decide) (by decide)
  refine SameRegs.then_rfieldSet ?_ fn ring _ (by decide) hctl
  refine SameRegs.then_rfieldSet ?_ fn ring _ (by decide) hctl
  refine SameRegs.then_rfieldSet ?_ fn ring _ (by decide) hctl
  refine SameRegs.then_rfieldSet ?_ fn ring _ (by decide) hctl
  split
  · exact resetRingPtrs_sameRegs (.refl s _) fn ring fun o h1 h2 => hh o (by omega) h2
  · exact .refl s _

theorem writeRingCtl_sameRegs {s : State} {hit : Nat → Nat → Prop} (fn : Fin 64) (ring : Fin 4) (v : Nat)
    (hh : ∀ o, 0x210 ≤ o → o ≤ 0x228 → hit (fnPage fn) (o + 0x40 * ring)) :
    SameRegs s (writeRingCtl s (ringKey fn ring) v) hit := by
  have hctl := hh 0x210 (by decide) (by decide)
  have hstat := hh 0x228 (by decide) (by decide)
  by_cases he : rfield s (ringKey fn ring) F.FN_RING_CTL_ENABLE = 1
  · rw [writeRingCtl_enabled he]
    refine SameRegs.then_rfieldSet ?_ fn ring _ (by decide) hctl
    split
    · exact .refl s _
    · exact (SameRegs.refl s _).then_rfieldSet fn ring _ (by decide) hstat
  · rw [writeRingCtl_disabled he]
    have htaken := ctlTaken_sameRegs (s := s) fn ring v hh
    split
    · exact htaken.then_rfieldSet fn ring _ (by decide) hstat
    · exact (htaken.then_rfieldSet (r := F.FN_RING_CTL_ENABLE) fn ring _ (by decide) hctl).then_syncCqWait fn ring hstat

/-- A write that carries ENABLE 0 leaves it 0. -/
theorem enable_writeRingCtl_zero {s : State} {k v : Nat} (h : bitsOf v 0 1 = 0) :
    rfield (writeRingCtl s k v) k F.FN_RING_CTL_ENABLE = 0 := by
  by_cases he : rfield s k F.FN_RING_CTL_ENABLE = 1
  · rw [writeRingCtl_enabled he, rfield_rfieldSet_of_lt _ _ _ _ (by decide) (by rw [h]; decide), h]
  · rw [writeRingCtl_disabled he, h, if_neg (fun e => absurd e.1 (by decide)), rfield_syncCqWait _ _ _ (by decide),
      rfield_rfieldSet_of_lt _ _ _ _ (by decide) (by decide)]

/-! ### Notification -/

theorem setRingPend_regs (s : State) (fn n : Nat) : (setRingPend s fn n).regs =
    (fset s (fnPage fn) F.FN_RING_PEND_PEND (fget s (fnPage fn) F.FN_RING_PEND_PEND ||| 2 ^ n)).regs := by
  obtain ⟨x, hx⟩ := syncSrc_eq (fset s (fnPage fn) F.FN_RING_PEND_PEND
    (fget s (fnPage fn) F.FN_RING_PEND_PEND ||| 2 ^ n)) fn
  rw [setRingPend, hx]
  rfl

/-- A notification sets the ring's bit of RING_PEND, and restarts the conditions. -/
theorem notify_pend (s : State) (fn : Fin 64) (ring : Fin 4) :
    (fget (notify s (ringKey fn ring)) (fnPage fn) F.FN_RING_PEND_PEND).testBit ring = true := by
  rw [notify, ringFn_ringKey, ringNo_ringKey, fget_congr (setRingPend_regs _ _ _),
    fget_fset_self _ _ _ _ _ (by decide), Nat.testBit_mod_two_pow, Nat.testBit_or]
  simp [Nat.testBit_two_pow_self, show ring.val < F.FN_RING_PEND_PEND.width from ring.isLt]

theorem notify_rings (s : State) (k : Nat) : (notify s k).rings = (modRing s k ({ · with unnoted := 0 })).rings :=
  (setRingPend_keeps (.refl [.regs, .srcs] _) rfl).rings (by decide)

theorem notify_sameRegs {s t : State} {hit : Nat → Nat → Prop} (h : SameRegs s t hit) (k : Nat)
    (hh : hit (fnPage (ringFn k)) 0x2F0) : SameRegs s (notify t k) hit := by
  have hset := (SameRegs.refl (modRing t k ({ · with unnoted := 0 })) hit).then_fset
    (r := F.FN_RING_PEND_PEND) (i := 0) (by decide) hh (fget (modRing t k ({ · with unnoted := 0 }))
      (fnPage (ringFn k)) F.FN_RING_PEND_PEND ||| 2 ^ ringNo k)
  exact (h.then_regs (u := modRing t k _) rfl).trans (hset.then_regs (setRingPend_regs _ _ _))

/-- Settles O6: RING_CTL by its two cases, ENABLE 1 and ENABLE 0, and the resets and notifications beside it. -/
theorem ringControl : Obligations.RingControl := by
  intro fn ring val s k cfg v here
  have hhere : ∀ o, 0x210 ≤ o → o ≤ 0x228 → here (fnPage fn) (o + 0x40 * ring) := fun o h1 h2 => ⟨rfl, by omega, by omega⟩
  have hne : ∀ {x}, rfield s k F.FN_RING_CTL_ENABLE = x → x = 0 → rfield s k F.FN_RING_CTL_ENABLE ≠ 1 := by
    rintro x h rfl
    rw [h]
    decide
  have h1 : bitsOf (splice v 0 1 1) 0 1 = 1 := bitsOf_splice_self _ _ _ _
  have hbits : bitsOf (splice v 0 1 1) 4 4 = bitsOf v 4 4 ∧ bitsOf (splice v 0 1 1) 8 4 = bitsOf v 8 4 :=
    ⟨bitsOf_splice_disjoint _ _ _ _ _ _ (by decide), bitsOf_splice_disjoint _ _ _ _ _ _ (by decide)⟩
  refine ⟨?resetOn, ?resetOff, ?enable, ?badSize, ?differs, ?disable, ?hold, ?link⟩
  case resetOn => exact fun h => ⟨s, congrArg _ (if_pos h), rfl⟩
  case resetOff =>
    intro h
    obtain ⟨p1, p2, p3, p4, p5⟩ := resetRingPtrs_of_disabled (hne h rfl)
    refine ⟨resetRingPtrs s k, rfl, p1, p2, p3, p4, p5, eq_regs_of_keeps fun w hw => resetRingPtrs_keeps (.refl w s) hw, ?_⟩
    exact resetRingPtrs_sameRegs (.refl s _) fn ring fun o h1 h2 => hhere o (by omega) h2
  case enable =>
    intro h hsizes
    have hgood : ∀ n ∈ [bitsOf v 4 4, bitsOf v 8 4], ¬badLog n = true := by
      intro n hn hb
      have := hsizes n hn
      rw [badLog_iff] at hb
      omega
    have hok : ¬(bitsOf (splice v 0 1 1) 0 1 = 1 ∧
        (badLog (bitsOf (splice v 0 1 1) 4 4) = true ∨ badLog (bitsOf (splice v 0 1 1) 8 4) = true)) := by
      rw [hbits.1, hbits.2]
      rintro ⟨-, hb | hb⟩
      · exact hgood _ (by simp) hb
      · exact hgood _ (by simp) hb
    refine ⟨writeRingCtl s k (splice v 0 1 1), rfl, ?_, ?_,
      eq_regs_of_keeps fun w hw => writeRingCtl_keeps (.refl w s) hw, writeRingCtl_sameRegs fn ring _ hhere⟩
    · rw [writeRingCtl_disabled (hne h rfl), if_neg hok, rfield_syncCqWait _ _ _ (by decide),
        rfield_rfieldSet_self _ _ _ _ (by decide), h1]
      rfl
    · change cfgOf _ k = _
      rw [writeRingCtl_disabled (hne h rfl), if_neg hok, ← ringCfg_splice v 1, ← cfgOf_ctlTaken s k]
      refine cfgOf_congr fun r ha hw _ => ?_
      rw [rfield_syncCqWait _ _ _ hw, rfield_rfieldSet_apart _ _ _ _ _ ha]
  case badSize =>
    rintro h ⟨n, hn, hbad⟩
    have hb : badLog (bitsOf (splice v 0 1 1) 4 4) = true ∨ badLog (bitsOf (splice v 0 1 1) 8 4) = true := by
      rw [hbits.1, hbits.2]
      have hb := (badLog_iff n).2 hbad
      simp only [List.mem_cons, List.not_mem_nil, or_false] at hn
      rcases hn with rfl | rfl
      · exact .inl hb
      · exact .inr hb
    refine ⟨writeRingCtl s k (splice v 0 1 1), rfl, ?_, ?_⟩ <;> rw [writeRingCtl_disabled (hne h rfl), if_pos ⟨h1, hb⟩]
    · rw [rfield_rfieldSet_apart _ _ _ _ _ (by decide), rfield_enable_ctlTaken, h]
    · rw [rfield_rfieldSet_of_lt _ _ _ _ (by decide) (by decide)]
  case differs =>
    intro h hdiff
    have hcfg : ¬ringCfg (splice v 0 1 1) = cfgOf s k := by
      rw [ringCfg_splice]
      exact hdiff
    refine ⟨writeRingCtl s k (splice v 0 1 1), rfl, ?_, ?_, ?_⟩
    · rw [writeRingCtl_enabled h, rfield_rfieldSet_self _ _ _ _ (by decide), h1]
      rfl
    · change cfgOf _ k = cfgOf s k
      rw [writeRingCtl_enabled h, if_neg hcfg]
      refine cfgOf_congr fun r ha _ he => ?_
      rw [rfield_rfieldSet_apart _ _ _ _ _ ha, rfield_rfieldSet_apart _ _ _ _ _ he]
    · rw [writeRingCtl_enabled h, if_neg hcfg, rfield_rfieldSet_apart _ _ _ _ _ (by decide),
        rfield_rfieldSet_of_lt _ _ _ _ (by decide) (by decide)]
  case disable =>
    exact ⟨writeRingCtl s k (splice v 0 1 0), rfl, enable_writeRingCtl_zero (bitsOf_splice_self _ _ _ _),
      eq_regs_of_keeps fun w hw => writeRingCtl_keeps (.refl w s) hw, writeRingCtl_sameRegs fn ring _ hhere⟩
  case hold =>
    intro hold h0 hun hold
    refine ⟨notify s k, if_pos ⟨h0, hun, by rw [Nat.mul_comm]; exact hold⟩, notify_pend s fn ring, ?_, ?_⟩
    · rw [getRing_congr (notify_rings s k), getRing_modRing]
    · exact notify_sameRegs (.refl s _) _ ⟨by rw [ringFn_ringKey], rfl⟩
  case link =>
    intro read
    refine ⟨rfieldSet (rfieldSet s k F.FN_RING_STAT_LINK_ERR 1) k F.FN_RING_CTL_ENABLE 0, rfl, ?_, ?_, rfl, ?_⟩
    · rw [rfield_rfieldSet_of_lt _ _ _ _ (by decide) (by decide)]
    · rw [rfield_rfieldSet_apart _ _ _ _ _ (by decide), rfield_rfieldSet_of_lt _ _ _ _ (by decide) (by decide)]
    · exact ((SameRegs.refl s _).then_rfieldSet fn ring _ (by decide) (hhere 0x228 (by decide) (by decide))).then_rfieldSet
        fn ring _ (by decide) (hhere 0x210 (by decide) (by decide))

end Sys2Proof.Machine
end

section
namespace Sys2Proof.Machine

/-! ### COMMAND_FETCH -/

theorem syncCqWait_rings (s : State) (k : Nat) : (syncCqWait s k).rings = s.rings :=
  (syncCqWait_keeps (.refl [.regs] s) rfl).rings (by decide)

/-- The ring of a function that is not the agent. -/
theorem exists_fn_of_lt {own : Fin 65} (h : own < 64) : ∃ fn : Fin 64, own.val = fn.val := ⟨⟨own.val, h⟩, rfl⟩

/-- Settles O7: what a fetch finds decides what it does: no free slot, a descriptor of a function, or one of the agent. -/
theorem commandFetch : Obligations.CommandFetch := by
  intro own ring host s k
  refine ⟨fun h => ⟨s, if_pos h, rfl⟩, ?host, ?agent⟩
  case host =>
    intro hown hroom hen hcount
    obtain ⟨fn, hfn⟩ := exists_fn_of_lt hown
    have hk : k = ringKey fn ring := congrArg (ringKey · ring) hfn
    have hrun : (ringEnabled s k && sqCount s k != 0) = true := by simp [ringEnabled, hen, hcount]
    let d : Desc := ⟨sqWords s k host, s.devtime⟩
    let v := modRing s k fun r => { r with fetched := r.fetched ++ [d] }
    let next := (rfield s k F.FN_RING_SQ_HEAD_HEAD + 1) % sqSlots s k
    have hexec : exec (.commandFetch own ring host) s =
        .next (syncCqWait (rfieldSet v k F.FN_RING_SQ_HEAD_HEAD next) k) := by
      have hagent : ¬k = 256 := hk ▸ ringKey_ne_agent fn ring
      exact (if_neg (Nat.not_le.2 hroom)).trans ((if_neg hagent).trans (if_pos hrun))
    refine ⟨_, hexec, ?_, ?_, ?_, ?_⟩
    · rw [getRing_congr (syncCqWait_rings _ k)]
      exact getRing_modRing s k fun r => { r with fetched := r.fetched ++ [d] }
    · rw [rfield_syncCqWait _ _ _ (by decide), rfield_rfieldSet_self _ _ _ _ (by decide)]
      rfl
    · exact eq_rings_of_keeps fun w hw => syncCqWait_keeps (rfieldSet_keeps (modRing_keeps (.refl w s)
        (within_trans rfl hw)) (within_trans rfl hw)) (within_trans rfl hw)
    · rw [hk, hfn]
      exact ((sameRegs_of_regs (t := v) rfl).then_rfieldSet fn ring _ (by decide) ⟨rfl, .inl rfl⟩).then_syncCqWait fn ring
        ⟨rfl, .inr rfl⟩
  case agent =>
    intro d rest hown hroom hsq
    have hk : k = 256 := if_pos (congrArg Fin.val hown)
    have hexec : exec (.commandFetch own ring host) s = execCommandFetch own ring host s := rfl
    simp only [execCommandFetch] at hexec
    rw [if_neg (Nat.not_le.2 hroom), if_pos hk, hsq] at hexec
    exact ⟨_, hexec, getRing_modRing _ _ _, rfl⟩

end Sys2Proof.Machine
end

section
namespace Sys2Proof.Machine

/-! ### The words of an entry -/

theorem length_leBytes (n v : Nat) : (leBytes n v).length = n := by
  induction n generalizing v with
  | zero => rfl
  | succ n ih => simp [leBytes, ih]

theorem leVal_leBytes_append (n v : Nat) (l : List Byte) :
    leVal (leBytes n v ++ l) = v % 256 ^ n + 256 ^ n * leVal l := by
  induction n generalizing v with
  | zero => simp [leBytes, Nat.mod_one]
  | succ n ih =>
    have hb : (BitVec.ofNat 8 v).toNat = v % 256 := rfl
    rw [leBytes, List.cons_append, leVal, ih, hb, Nat.pow_succ', Nat.mod_mul, Nat.mul_add, Nat.mul_assoc, Nat.add_assoc]

theorem length_entryWords_bytes (e : CqEntry) (phase sqHead : Nat) :
    ((entryWords e phase sqHead).flatMap (leBytes 4)).length = 32 := by
  simp [entryWords, length_leBytes]

/-- Bit 8 of the first word is PHASE (R35). -/
theorem phase_of_entryWords {e : CqEntry} {phase sqHead : Nat} (hs : e.status < 256) (hp : phase < 2) :
    bitsOf (leVal ((entryWords e phase sqHead).flatMap (leBytes 4))) 8 1 = phase := by
  rw [entryWords, List.flatMap_cons, leVal_leBytes_append, bitsOf]
  omega

/-! ### CQ_ENTRY_WRITE -/

theorem unhold_eq (s : State) (h : Nat) : ∃ x, unhold s h = { s with talus := x } := by
  unfold unhold
  split
  · exact ⟨_, rfl⟩
  · exact ⟨s.talus, rfl⟩

/-- The tail moves on, and PHASE inverts where it wraps to slot 0 (R30). -/
def moveTail (s : State) (k next phase : Nat) : State :=
  let s := rfieldSet s k F.FN_RING_CQ_TAIL_TAIL next
  if next = 0 then rfieldSet s k F.FN_RING_CQ_TAIL_PHASE (1 - phase) else s

/-- An entry that has been written counts for R31. -/
def countWritten (s : State) (k : Nat) : State :=
  let s := modRing s k fun r =>
    { r with unnoted := r.unnoted + 1, oldest := if r.unnoted = 0 then s.devtime else r.oldest }
  let count := rfield s k F.FN_RING_IRQ_COUNT
  if count ≠ 0 ∧ count ≤ (getRing s k).unnoted then notify s k else s

/-- The bytes of an entry as its ring writes it. -/
def entryBytes (s : State) (k : Nat) (e : CqEntry) : List Byte :=
  (entryWords e (rfield s k F.FN_RING_CQ_TAIL_PHASE) (rfield s k F.FN_RING_SQ_HEAD_HEAD)).flatMap (leBytes 4)

/-- Where the ring's next entry goes. -/
def entryAddr (s : State) (k : Nat) : Nat :=
  qget s (fnPage (ringFn k)) F.FN_RING_CQ_BASE_LO_LO (ringNo k) + 32 * rfield s k F.FN_RING_CQ_TAIL_TAIL

/-- An entry put where the ring's entries go. -/
def putEntry (s : State) (k : Nat) (e : CqEntry) : State :=
  putBytes s (rfield s k F.FN_RING_CTL_CQ_LOC == 1) (ringFn k) (entryAddr s k) (entryBytes s k e)

theorem putEntry_keeps (s : State) (k : Nat) (e : CqEntry) : Keeps [.mem, .out] s (putEntry s k e) :=
  putBytes_keeps (.refl _ s) rfl

/-- What is done to write an entry on the ring of a function. -/
theorem writeEntry_eq {k : Nat} (hk : k ≠ 256) (s : State) (e : CqEntry) :
    writeEntry s k e = countWritten (wakeCheck (moveTail (putEntry s k e) k
      ((rfield s k F.FN_RING_CQ_TAIL_TAIL + 1) % cqSlots s k) (rfield s k F.FN_RING_CQ_TAIL_PHASE)) (ringFn k)) k := by
  have hslots : cqSlots (putEntry s k e) k = cqSlots s k := by
    rw [cqSlots, rfield_congr ((putEntry_keeps s k e).regs (by decide)), ← cqSlots]
  rw [writeEntry, if_neg hk, ← hslots]
  rfl

theorem rfield_moveTail (s : State) (k next phase : Nat) :
    rfield (moveTail s k next phase) k F.FN_RING_CQ_TAIL_TAIL = next % 4096 ∧
      rfield (moveTail s k next phase) k F.FN_RING_CQ_TAIL_PHASE =
        if next = 0 then 1 - phase else rfield s k F.FN_RING_CQ_TAIL_PHASE := by
  unfold moveTail
  split
  · rw [rfield_rfieldSet_apart _ _ _ _ _ (by decide), rfield_rfieldSet_self _ _ _ _ (by decide)]
    exact ⟨rfl, rfield_rfieldSet_of_lt _ _ _ _ (by decide) (Nat.lt_of_le_of_lt (Nat.sub_le 1 phase) Nat.one_lt_two)⟩
  · rw [rfield_rfieldSet_self _ _ _ _ (by decide), rfield_rfieldSet_apart _ _ _ _ _ (by decide)]
    exact ⟨rfl, rfl⟩

theorem moveTail_keeps (s : State) (k next phase : Nat) : Keeps [.regs] s (moveTail s k next phase) := by
  unfold moveTail
  split
  · exact rfieldSet_keeps (rfieldSet_keeps (.refl _ s) rfl) rfl
  · exact rfieldSet_keeps (.refl _ s) rfl

theorem countWritten_keeps (s : State) (k : Nat) : Keeps [.regs, .rings, .srcs] s (countWritten s k) := by
  unfold countWritten
  dsimp only
  split
  · exact notify_keeps (modRing_keeps (.refl _ s) rfl) rfl
  · exact modRing_keeps (.refl _ s) rfl

/-- Counting an entry leaves those that wait, and shows in RING_PEND alone. -/
theorem countWritten_entries (s : State) (k : Nat) :
    (getRing (countWritten s k) k).comps = (getRing s k).comps ∧
      (getRing (countWritten s k) k).waiting = (getRing s k).waiting := by
  unfold countWritten
  dsimp only
  split
  · rw [getRing_congr (notify_rings _ k), getRing_modRing, getRing_modRing]
    exact ⟨rfl, rfl⟩
  · rw [getRing_modRing]
    exact ⟨rfl, rfl⟩

theorem countWritten_sameRegs (s : State) (k : Nat) :
    SameRegs s (countWritten s k) fun p o => p = fnPage (ringFn k) ∧ o = 0x2F0 := by
  unfold countWritten
  dsimp only
  split
  · exact notify_sameRegs (sameRegs_of_regs rfl) k ⟨rfl, rfl⟩
  · exact sameRegs_of_regs rfl

/-- A field of the ring's own registers is not RING_PEND. -/
theorem rfield_countWritten (s : State) (fn : Fin 64) (ring : Fin 4) :
    rfield (countWritten s (ringKey fn ring)) (ringKey fn ring) F.FN_RING_CQ_TAIL_TAIL =
        rfield s (ringKey fn ring) F.FN_RING_CQ_TAIL_TAIL ∧
      rfield (countWritten s (ringKey fn ring)) (ringKey fn ring) F.FN_RING_CQ_TAIL_PHASE =
        rfield s (ringKey fn ring) F.FN_RING_CQ_TAIL_PHASE := by
  have hat : ∀ r : Row, r.off = 0x220 → r.stride = 0x40 → r.at (ringNo (ringKey fn ring)) < 0x2F0 := by
    intro r ho hs
    rw [ringNo_ringKey, Row.at, ho, hs]
    omega
  have h := countWritten_sameRegs s (ringKey fn ring)
  have hkeep : ∀ r : Row, r.off = 0x220 → r.stride = 0x40 →
      rfield (countWritten s (ringKey fn ring)) (ringKey fn ring) r = rfield s (ringKey fn ring) r := by
    intro r ho hs
    have hlt := hat r ho hs
    exact h.fget (by omega) fun k => absurd k.2 (by omega)
  exact ⟨hkeep _ rfl rfl, hkeep _ rfl rfl⟩

/-- The oldest completion that may be written is the next entry of an enabled ring. -/
theorem nextEntry_comp {s : State} {k : Nat} {e : CqEntry} {rest : List CqEntry} (hen : ringEnabled s k = true)
    (hparts : (getRing s k).inParts = none) (hcomps : (getRing s k).comps = e :: rest) (hready : compReady s e = true) :
    nextEntry s k = some (e, { getRing s k with comps := rest }) := by
  unfold nextEntry
  simp [hen, hparts, hcomps, pickComp, hready]

theorem writeNext_comp {s : State} {k : Nat} {e : CqEntry} {rest : List CqEntry} (hen : ringEnabled s k = true)
    (hparts : (getRing s k).inParts = none) (hcomps : (getRing s k).comps = e :: rest) (hready : compReady s e = true) :
    ∃ x, writeNext s k =
      syncCqWait (writeEntry (modRing { s with talus := x } k fun _ => { getRing s k with comps := rest }) k e) k := by
  have hkind : ∃ x, (if e.kind = 1 then unhold s e.info0 else s) = { s with talus := x } := by
    split
    · exact unhold_eq s _
    · exact ⟨s.talus, rfl⟩
  obtain ⟨x, hx⟩ := hkind
  refine ⟨x, ?_⟩
  rw [writeNext, nextEntry_comp hen hparts hcomps hready]
  dsimp only
  rw [hx]

/-- Settles O8: on the ring of a function the entry goes out and the tail moves; on the agent's it joins those that it
reads. -/
theorem cqEntryIsOneWrite : Obligations.CqEntryIsOneWrite := by
  intro own ring s e rest k hparts hcomps hready
  refine ⟨?host, ?agent⟩
  case host =>
    intro fn hfn hen tail phase bytes addr next
    have hk : k = ringKey fn ring := congrArg (ringKey · ring) hfn
    have hne : k ≠ 256 := hk ▸ ringKey_ne_agent fn ring
    have hp : phase < 2 := rfield_lt s k F.FN_RING_CQ_TAIL_PHASE
    obtain ⟨x, hx⟩ := writeNext_comp (by simp [ringEnabled, hen]) hparts hcomps hready
    let v := modRing { s with talus := x } k fun _ => { getRing s k with comps := rest }
    let put := putEntry v k e
    let moved := moveTail put k ((tail + 1) % cqSlots s k) phase
    let woken := wakeCheck moved (ringFn k)
    have hwrite : writeEntry v k e = countWritten woken k := writeEntry_eq hne v e
    have hput := putEntry_keeps v k e
    have hmoved := moveTail_keeps put k ((tail + 1) % cqSlots s k) phase
    have hwoken := wakeCheck_keeps (fn := ringFn k) (.refl [.pins] moved) rfl
    have hcount := countWritten_keeps woken k
    have hsync := syncCqWait_keeps (k := k) (.refl [.regs] (countWritten woken k)) rfl
    obtain ⟨hc, hw⟩ := countWritten_entries woken k
    have hring : getRing woken k = { getRing s k with comps := rest } := by
      rw [getRing_congr ((hwoken.rings (by decide)).trans ((hmoved.rings (by decide)).trans (hput.rings (by decide))))]
      exact getRing_modRing _ k _
    have hmem : (syncCqWait (countWritten woken k) k).mem = put.mem := by
      rw [hsync.mem (by decide), hcount.mem (by decide), hwoken.mem (by decide), hmoved.mem (by decide)]
    have hout : (syncCqWait (countWritten woken k) k).out = put.out := by
      rw [hsync.out (by decide), hcount.out (by decide), hwoken.out (by decide), hmoved.out (by decide)]
    obtain ⟨ht, hph⟩ := rfield_moveTail put k ((tail + 1) % cqSlots s k) phase
    obtain ⟨hct, hcp⟩ := rfield_countWritten woken fn ring
    rw [← hk] at hct hcp
    refine ⟨syncCqWait (countWritten woken k) k, congrArg Host.Outcome.next (hx.trans (by rw [hwrite])),
      length_entryWords_bytes _ _ _, fun hs => phase_of_entryWords hs hp, ?_, ?_, ?_, ?_, ?_⟩
    · rw [getRing_congr (syncCqWait_rings _ k), hc, hring]
    · rw [getRing_congr (syncCqWait_rings _ k), hw, hring]
    · have hfnk : ringFn k = fn := hk ▸ ringFn_ringKey fn ring
      have hnok : ringNo k = ring := hk ▸ ringNo_ringKey fn ring
      have hbytes : put = putBytes v (rfield s k F.FN_RING_CTL_CQ_LOC == 1) fn addr bytes := by
        change putBytes v _ (ringFn k) (qget s (fnPage (ringFn k)) _ (ringNo k) + _) _ = _
        rw [hfnk, hnok]
        rfl
      rw [hmem, hout, hbytes]
      by_cases hloc : rfield s k F.FN_RING_CTL_CQ_LOC = 1
      · rw [hloc]
        exact ⟨rfl, rfl⟩
      · rw [if_neg hloc, beq_eq_false_iff_ne.2 hloc]
        exact ⟨rfl, rfl⟩
    · rw [rfield_syncCqWait _ _ _ (by decide), hct, rfield_congr (hwoken.regs (by decide)), ht]
    · rw [rfield_syncCqWait _ _ _ (by decide), hcp, rfield_congr (hwoken.regs (by decide)), hph,
        rfield_congr (hput.regs (by decide))]
      rfl
  case agent =>
    intro hown
    have hk : k = 256 := if_pos (congrArg Fin.val hown)
    obtain ⟨x, hx⟩ := writeNext_comp (k := k) (by rw [hk]; rfl) hparts hcomps hready
    have hexec : exec (.cqEntryWrite own ring) s = .next _ := congrArg Host.Outcome.next hx
    rw [hk] at hexec
    have hring : getRing (writeEntry (modRing { s with talus := x } 256 fun _ => { getRing s 256 with comps := rest }) 256 e)
        256 = { getRing s 256 with comps := rest } :=
      getRing_modRing { s with talus := x } 256 fun _ => { getRing s 256 with comps := rest }
    refine ⟨_, hexec, ?_, ?_, rfl, rfl, rfl⟩
    · rw [hk]
      exact congrArg Ring.comps hring
    · rw [hk]
      exact (congrArg Ring.waiting hring :)

end Sys2Proof.Machine
end

section
/-! PROOFS. How the device begins a command: its checks, their order, and the completion of one that fails (R28, R33, R35,
R40–R42). -/

namespace Sys2Proof.Machine

/-! ### A command that has begun -/

theorem getRing_cmdDone (s : State) (ref : CmdRef) (st i0 i1 i2 : Nat) (after : Option Turn) :
    (getRing (cmdDone s ref st i0 i1 i2 after) ref.ring).comps = (getRing s ref.ring).comps ++
      [⟨st, 0, ref.tag, ref.ctx, ref.gen, ref.op, s.devtime, i0, i1, i2, false, after⟩] := by
  rw [cmdDone, getRing_modRing]

section
variable (s : State) (ref : CmdRef) (st i0 i1 i2 : Nat) (after : Option Turn)

@[simp] theorem cmdDone_regs : (cmdDone s ref st i0 i1 i2 after).regs = s.regs := rfl

@[simp] theorem fget_cmdDone (p : Nat) (r : Row) (i : Nat) : fget (cmdDone s ref st i0 i1 i2 after) p r i = fget s p r i := rfl

@[simp] theorem fbit_cmdDone (p : Nat) (r : Row) (i : Nat) : fbit (cmdDone s ref st i0 i1 i2 after) p r i = fbit s p r i := rfl

@[simp] theorem getCtx_cmdDone (c : Nat) : getCtx (cmdDone s ref st i0 i1 i2 after) c = getCtx s c := rfl

end

/-- A command that ends after operations that touch no ring has its completion. -/
theorem completed_cmdDone {u v : State} (hr : v.rings = u.rings) (ht : v.devtime = u.devtime) (ref : CmdRef)
    (st i0 i1 i2 : Nat) (after : Option Turn) :
    Completed u (cmdDone v ref st i0 i1 i2 after) ref st i0 i1 i2 after := by
  rw [Completed, getRing_cmdDone, getRing_congr hr, ht]

theorem completed_self (u : State) (ref : CmdRef) (st i0 i1 i2 : Nat) (after : Option Turn) :
    Completed u (cmdDone u ref st i0 i1 i2 after) ref st i0 i1 i2 after := getRing_cmdDone ..

/-- A command that begins moves on its ring, and does nothing else yet. -/
theorem beginCmd_some {s u : State} {k : Nat} {want : Nat → Bool} {d : Desc} {ref : CmdRef}
    (h : beginCmd s k want = some (d, ref, u)) :
    want d.opcode = true ∧ ref = refOf s k d ∧ u = { s with rings := u.rings } := by
  unfold beginCmd at h
  split at h
  · cases h
  · dsimp only at h
    split at h
    · next hw =>
      cases h
      exact ⟨(Bool.and_eq_true_iff.1 hw).1, rfl, rfl⟩
    · cases h

section begun
variable {s u : State} (hu : u = { s with rings := u.rings })
include hu

theorem regs_of_begun : u.regs = s.regs := by rw [hu]

theorem ctxs_of_begun : u.ctxs = s.ctxs := by rw [hu]

theorem mem_of_begun : u.mem = s.mem := by rw [hu]

end begun

theorem Begins.eq {s u : State} {own ring op : Nat} {d : Desc} {ref : CmdRef} (h : Begins s own ring op d ref u) :
    u = { s with rings := u.rings } := (beginCmd_some h.1).2.2

theorem Begins.opcode {s u : State} {own ring op : Nat} {d : Desc} {ref : CmdRef} (h : Begins s own ring op d ref u) :
    d.opcode = op := beq_iff_eq.1 (beginCmd_some h.1).1

theorem runCmd_pass {s u : State} {own ring op : Nat} {d : Desc} {ref : CmdRef} (h : Begins s own ring op d ref u)
    (body : Desc → CmdRef → Nat → State → State) : runCmd own ring op s body = .next (body d ref d.ctx u) := by
  obtain ⟨hb, hc⟩ := h
  rw [runCmd, hb]
  dsimp only
  rw [hc]

theorem runCmd_fail {s u : State} {own ring op : Nat} {d : Desc} {ref : CmdRef} {st : Nat}
    (hb : beginCmd s (ringKey own ring) (· == op) = some (d, ref, u)) (hc : checkCmd u own d = some st)
    (body : Desc → CmdRef → Nat → State → State) : runCmd own ring op s body = .next (cmdDone u ref st) := by
  rw [runCmd, hb]
  dsimp only
  rw [hc]

theorem execUndefinedOpcode_eq {s u : State} {own : Fin 65} {ring : Fin 4} {d : Desc} {ref : CmdRef}
    (hb : beginCmd s (ringKey own ring) (fun op => !definedOpcode op) = some (d, ref, u)) :
    execUndefinedOpcode own ring s = .next (cmdDone u ref 0x10) := by
  rw [execUndefinedOpcode, hb]
  rfl

/-! ### Checks 1 to 4 -/

section checks
variable {s : State} {own : Nat} {d : Desc}

theorem checkCmd_static (h : staticOk d (formKind s d.ctx) ≠ true) : checkCmd s own d = some 0x10 :=
  if_pos (by simpa using h)

theorem checkCmd_form (h : staticOk d (formKind s d.ctx) = true) :
    checkCmd s own d =
      if ctxState s d.ctx = 0 ∨ ctxGen s d.ctx ≠ d.gen then some 0x11
      else if ctxOwner s d.ctx ≠ own ∧ !(own = 0 ∧ (d.opcode = 0x0B ∨ d.opcode = 0x0F)) then some 0x13
      else if !stateOk d.opcode (ctxState s d.ctx) then some 0x11
      else none := if_neg (by simp [h])

theorem checkCmd_stale (h : staticOk d (formKind s d.ctx) = true)
    (hl : ¬(ctxState s d.ctx ≠ 0 ∧ ctxGen s d.ctx = d.gen)) : checkCmd s own d = some 0x11 := by
  rw [checkCmd_form h, if_pos (by tauto)]

theorem checkCmd_live (h : staticOk d (formKind s d.ctx) = true)
    (hl : ctxState s d.ctx ≠ 0 ∧ ctxGen s d.ctx = d.gen) :
    checkCmd s own d =
      if ctxOwner s d.ctx ≠ own ∧ !(own = 0 ∧ (d.opcode = 0x0B ∨ d.opcode = 0x0F)) then some 0x13
      else if !stateOk d.opcode (ctxState s d.ctx) then some 0x11
      else none := by
  rw [checkCmd_form h, if_neg (by tauto)]

theorem checkCmd_foreign (h : staticOk d (formKind s d.ctx) = true)
    (hl : ctxState s d.ctx ≠ 0 ∧ ctxGen s d.ctx = d.gen)
    (ho : ¬(ctxOwner s d.ctx = own ∨ own = 0 ∧ (d.opcode = 0x0B ∨ d.opcode = 0x0F))) :
    checkCmd s own d = some 0x13 := by
  rw [checkCmd_live h hl, if_pos]
  rw [not_or] at ho
  exact ⟨ho.1, by simpa [← imp_iff_not_or] using ho.2⟩

theorem checkCmd_owned (h : staticOk d (formKind s d.ctx) = true)
    (hl : ctxState s d.ctx ≠ 0 ∧ ctxGen s d.ctx = d.gen)
    (ho : ctxOwner s d.ctx = own ∨ own = 0 ∧ (d.opcode = 0x0B ∨ d.opcode = 0x0F)) :
    checkCmd s own d = if !stateOk d.opcode (ctxState s d.ctx) then some 0x11 else none := by
  rw [checkCmd_live h hl, if_neg]
  rintro ⟨hn, hp⟩
  simp only [Bool.not_eq_true', decide_eq_false_iff_not] at hp
  exact ho.elim hn hp

end checks

/-- What a command that passes has met (R40). -/
theorem of_checkCmd {s : State} {own : Nat} {d : Desc} (h : checkCmd s own d = none) :
    staticOk d (formKind s d.ctx) = true ∧ ctxState s d.ctx ≠ 0 ∧ ctxGen s d.ctx = d.gen ∧
      stateOk d.opcode (ctxState s d.ctx) = true := by
  by_cases hf : staticOk d (formKind s d.ctx) = true
  case neg => simp [checkCmd_static hf] at h
  rw [checkCmd_form hf] at h
  split at h
  · cases h
  next hl =>
    split at h
    · cases h
    split at h
    · cases h
    · next hs => exact ⟨hf, by tauto, by tauto, by simpa using hs⟩

/-- Settles O9: a command that fails does nothing but complete. -/
theorem failingCommandsHaveNoEffect : Obligations.FailingCommandsHaveNoEffect := by
  intro own ring s u d ref st la au fails
  have hfails : ∀ op c, (∃ body, exec c s = runCmd own ring op s body) → fails op c := by
    rintro op c ⟨body, hbody⟩ hb hc
    exact ⟨_, hbody.trans (runCmd_fail hb hc body), rfl, completed_self u ref st 0 0 0 none⟩
  exact ⟨hfails _ _ ⟨_, execOpConfigure.eq_1 own ring s⟩, hfails _ _ ⟨_, execOpStart.eq_1 own ring s⟩,
    hfails _ _ ⟨_, execOpSubmit.eq_1 own ring la au s⟩, hfails _ _ ⟨_, execOpFlush.eq_1 own ring s⟩,
    hfails _ _ ⟨_, execOpReconfig.eq_1 own ring s⟩, hfails _ _ ⟨_, execOpForceKey.eq_1 own ring s⟩,
    hfails _ _ ⟨_, execOpSetRate.eq_1 own ring s⟩, hfails _ _ ⟨_, execOpLink.eq_1 own ring s⟩,
    hfails _ _ ⟨_, execOpBind.eq_1 own ring s⟩, hfails _ _ ⟨_, execOpQuery.eq_1 own ring s⟩,
    hfails _ _ ⟨_, execOpClose.eq_1 own ring s⟩,
    fun hb => ⟨_, execUndefinedOpcode_eq hb, rfl, completed_self u ref 0x10 0 0 0 none⟩⟩

/-- The table of R42: an opcode, and a state in which it is accepted. -/
def rowsOfR42 : List (Nat × Nat) :=
  [(0x02, 1), (0x02, 2), (0x02, 5), (0x03, 2), (0x04, 3), (0x05, 3), (0x06, 2), (0x06, 3), (0x07, 3),
    (0x08, 2), (0x08, 3), (0x09, 2), (0x09, 3), (0x0A, 1), (0x0A, 2), (0x0A, 3), (0x0B, 1), (0x0B, 2), (0x0B, 3),
    (0x0B, 4), (0x0B, 5), (0x0F, 1), (0x0F, 2), (0x0F, 3), (0x0F, 4), (0x0F, 5)]

theorem opcode_of_row : ∀ r ∈ rowsOfR42, r.1 < 16 := by decide

theorem stateOk_undefined {op st : Nat} (h : ¬op < 16) : stateOk op st = false := by
  unfold stateOk
  split
  case h_12 => rfl
  all_goals omega

/-- Settles O10: the checks in their order, and the rows of R42. -/
theorem checksRunInOrder : Obligations.ChecksRunInOrder := by
  refine ⟨?order, ?rows⟩
  case order =>
    intro s own d c form live owns
    refine ⟨checkCmd_static, checkCmd_stale, fun hf hl ho => checkCmd_foreign hf hl ?_, fun hf hl ho hs => ?_,
      fun hf hl ho hs => ?_⟩
    · exact fun h => ho (h.imp_right (And.imp_left Fin.ext))
    · rw [checkCmd_owned hf hl (ho.imp_right (And.imp_left (congrArg Fin.val))), hs]
      rfl
    · rw [checkCmd_owned hf hl (ho.imp_right (And.imp_left (congrArg Fin.val))), hs]
      rfl
  case rows =>
    intro op st hst
    have hsmall : ∀ op < 16, ∀ st < 6, (stateOk op st = true ↔ (op, st) ∈ rowsOfR42) := by decide
    by_cases hop : op < 16
    · exact hsmall op hop st hst
    · have hrow : (op, st) ∉ rowsOfR42 := fun h => hop (opcode_of_row _ h)
      rw [stateOk_undefined hop]
      exact iff_of_false Bool.false_ne_true hrow

end Sys2Proof.Machine
end

section
namespace Sys2Proof.Machine

/-! ### OPEN -/

/-- Registers dropped by their address are at their reset values, the rest keep theirs. -/
theorem tget_filter_key {α : Type} (d : α) (t : Tbl α) (f : Nat → Bool) (q : Nat) :
    tget d (t.filter fun kv => f kv.1) q = if f q then tget d t q else d := by
  induction t with
  | nil => simp [tget]
  | cons a t ih =>
    obtain ⟨k, v⟩ := a
    by_cases hk : f k = true
    · rw [List.filter_cons, if_pos hk, tget, tget, ih]
      by_cases hq : q = k
      · simp [hq, hk]
      · simp [hq]
    · rw [List.filter_cons, if_neg hk, ih]
      by_cases hq : q = k
      · simp [hq, hk]
      · simp [tget, hq]

theorem rget_clearPage (s : State) (page : Nat) (keep : Nat → Bool) (p off : Nat) (ho : off < 4096) :
    rget (clearPage s page keep) p off =
      if p ≠ page ∨ keep off = true then rget s p off else (regDefault (regKey p off)).toNat := by
  have hp : regKey p off / 4096 = p := by unfold regKey; omega
  have hoff : regKey p off % 4096 = off := by unfold regKey; omega
  have h := tget_filter_key (regDefault (regKey p off)) s.regs (fun q => q / 4096 ≠ page || keep (q % 4096)) (regKey p off)
  rw [rget, clearPage, h, hp, hoff]
  by_cases hk : p ≠ page ∨ keep off = true
  · rw [if_pos hk, if_pos (by simpa using hk), rget]
  · rw [if_neg hk, if_neg (by simpa using hk)]

theorem clearPage_sameRegs (s : State) (page : Nat) (keep : Nat → Bool) :
    SameRegs s (clearPage s page keep) fun p _ => p = page := fun p off ho hn => by
  rw [rget_clearPage _ _ _ _ _ ho, if_pos (.inl hn)]

/-- The fields of CTX.STATE that OPEN writes, on a page. -/
def openState (s : State) (page own gen p0 : Nat) : State :=
  let s := fset (fset (fset s page F.CTX_STATE_STATE 1) page F.CTX_STATE_OWNER own) page F.CTX_STATE_GEN gen
  let s := fset (fset s page F.CTX_STATE_KIND (bitsOf p0 0 2)) page F.CTX_STATE_CLASS (bitsOf p0 4 3)
  fset s page F.CTX_STATE_RING (bitsOf p0 8 2)

/-- The page of a context without its stored registers, but those of R56; the context as OPEN makes it. -/
def cleared (s : State) (c slot : Nat) : State :=
  { clearPage s (ctxPage c) (fun o => o < 0xC) with
    ctxs := tput ctx0 s.ctxs c { ctx0 with slot := slot, cluster := pickCluster s } }

theorem openCtx_regs (s : State) (c own slot p0 : Nat) :
    (openCtx s c own slot p0).regs =
      (openState (cleared s c slot) (ctxPage c) own ((ctxGen s c + 1) % 256) p0).regs :=
  (syncPage_keeps (page := ctxPage c)
    (.refl [.srcs] (openState (cleared s c slot) (ctxPage c) own ((ctxGen s c + 1) % 256) p0)) rfl).regs (by decide)

theorem openState_sameRegs (s : State) (page own gen p0 : Nat) :
    SameRegs s (openState s page own gen p0) fun p o => p = page ∧ o = 0x200 := by
  have hh : ∀ {t : State} (r : Row) (v : Nat), r.off = 0x200 → r.stride = 0 →
      SameRegs s t (fun p o => p = page ∧ o = 0x200) → SameRegs s (fset t page r v) fun p o => p = page ∧ o = 0x200 := by
    intro t r v ho hs h
    have hat : r.at 0 = 0x200 := by rw [Row.at, ho, hs]
    exact h.then_fset (by omega) ⟨rfl, hat⟩ v
  exact hh _ _ rfl rfl (hh _ _ rfl rfl (hh _ _ rfl rfl (hh _ _ rfl rfl (hh _ _ rfl rfl (hh _ _ rfl rfl (.refl _ _))))))

theorem fget_openState (s : State) (page own gen p0 : Nat) :
    let t := openState s page own gen p0
    fget t page F.CTX_STATE_STATE = 1 ∧ fget t page F.CTX_STATE_OWNER = own % 2 ^ 7 ∧
      fget t page F.CTX_STATE_GEN = gen % 2 ^ 8 ∧ fget t page F.CTX_STATE_KIND = bitsOf p0 0 2 % 2 ^ 2 ∧
      fget t page F.CTX_STATE_CLASS = bitsOf p0 4 3 % 2 ^ 3 ∧ fget t page F.CTX_STATE_RING = bitsOf p0 8 2 % 2 ^ 2 := by
  unfold openState
  simp (disch := decide) only [fget_fset_apart, fget_fset_self]
  exact ⟨rfl, rfl, rfl, rfl, rfl, rfl⟩

/-- The context that OPEN takes, and the window slot that it gets. -/
theorem opOpenBody_of_free {u : State} {own c slot : Nat} {d : Desc} {ref : CmdRef} (hform : staticOk d 2 = true)
    (htarget : if d.p 1 = 0x1FF then ctxList.find? (fun c => ctxState u c == 0) = some c
      else d.p 1 = c ∧ ctxState u c = 0)
    (hslot : if 1 ≤ own ∧ own < 64 then freeSlotOf u own = some slot else slot = 0) (hready : readyBit u 62 = true) :
    let v := openCtx u c own slot (d.p 0)
    opOpenBody own d ref u = cmdDone v ref 0 (c + 256 * ctxGen v c) slot := by
  have hn : (if 1 ≤ own ∧ own < 64 then freeSlotOf u own else some 0) = some slot := by
    split at hslot
    · next h => rw [if_pos h, hslot]
    · next h => rw [if_neg h, hslot]
  have ht : (if d.p 1 = 0x1FF then ctxList.find? (fun c => ctxState u c == 0) else some (d.p 1)) = some c ∧
      ¬(d.p 1 ≠ 0x1FF ∧ ctxState u (d.p 1) ≠ 0) := by
    split at htarget
    · next h => exact ⟨by rw [if_pos h, htarget], by tauto⟩
    · next h => exact ⟨by rw [if_neg h, htarget.1], by rw [htarget.1]; tauto⟩
  unfold opOpenBody
  dsimp only
  rw [if_neg (by simp [hform]), if_neg ht.2, ht.1, hn]
  dsimp only
  rw [if_pos hready]
  rfl

/-- Settles O11: OPEN takes the context, and a stale GEN fails. -/
theorem openTakesAContext : Obligations.OpenTakesAContext := by
  refine ⟨?opens, fun s own d hf hg => checkCmd_stale hf fun h => hg h.2⟩
  case opens =>
    intro own ring s u d ref c slot hb hform _ htarget hslot hready
    obtain ⟨-, -, hu⟩ := beginCmd_some hb
    let v := openCtx u c own slot (d.p 0)
    let gen := (ctxGen u c + 1) % 256
    let q := openState (cleared u c slot) (ctxPage c) own gen (d.p 0)
    let t := cmdDone v ref 0 (c + 256 * ctxGen v c) slot
    have hexec : exec (.opOpen own ring) s = .next t :=
      calc execOpOpen own ring s = .next (opOpenBody own d ref u) := by rw [execOpOpen, hb]
        _ = .next t := congrArg _ (opOpenBody_of_free hform htarget hslot hready)
    have hregs : t.regs = q.regs := openCtx_regs u c own slot (d.p 0)
    have hus : u.regs = s.regs := regs_of_begun hu
    have hgen : ctxGen u c = ctxGen s c := fget_congr hus _ _ _
    obtain ⟨hst, how, hge, hki, hcl, hri⟩ := fget_openState (cleared u c slot) (ctxPage c) own gen (d.p 0)
    have hkeep := openCtx_keeps (c := c) (own := own) (slot := slot) (p0 := d.p 0) (.refl [.regs, .ctxs, .srcs] u) rfl
    have hword := openState_sameRegs (cleared u c slot) (ctxPage c) own gen (d.p 0)
    refine ⟨t, hexec, (fget_congr hregs _ _ _).trans hst, ?_, ?_, ?_, ?_, ?_, ?_, ?_, ?_, ?_⟩
    · rw [ctxOwner, fget_congr hregs, how, Nat.mod_eq_of_lt (by omega)]
    · rw [ctxGen, fget_congr hregs, hge, ← hgen]
      exact Nat.mod_mod _ _
    · rw [ctxKind, fget_congr hregs, hki, Nat.mod_eq_of_lt (bitsOf_lt _ _ _)]
    · rw [ctxClass, fget_congr hregs, hcl, Nat.mod_eq_of_lt (bitsOf_lt _ _ _)]
    · rw [fget_congr hregs, hri, Nat.mod_eq_of_lt (bitsOf_lt _ _ _)]
    · exact completed_cmdDone (hkeep.rings (by decide)) (hkeep.devtime (by decide)) ..
    · intro off hlo hhi hne
      rw [rget_congr hregs, hword _ _ hhi fun h => hne h.2]
      exact (rget_clearPage u (ctxPage c) (· < 0xC) _ _ hhi).trans (if_neg (by simpa using hlo))
    · have hclear : SameRegs s (cleared u c slot) fun page _ => page = ctxPage c :=
        (sameRegs_of_regs hus).trans (clearPage_sameRegs u (ctxPage c) (· < 0xC))
      exact (hclear.trans (hword.mono fun _ _ h => h.1)).then_regs hregs
    · exact sameMem_of_mem ((hkeep.mem (by decide)).trans (mem_of_begun hu))

end Sys2Proof.Machine
end

section
namespace Sys2Proof.Machine

/-! ### Pages and slots of contexts -/

theorem ctxPage_inj {c d : Nat} : ctxPage c = ctxPage d ↔ c = d := by
  unfold ctxPage
  omega

theorem getCtx_modCtx_cases (s : State) (k j : Nat) (f : Ctx → Ctx) :
    getCtx (modCtx s k f) j = if j = k then f (getCtx s k) else getCtx s j := by
  split
  · next h => rw [h, getCtx_modCtx]
  · next h => exact getCtx_modCtx_ne _ _ _ _ h

/-- The slot reads back what was written there. -/
theorem linkDst_setLinkSlot (s : State) (c d : Nat) {i : Nat} (valid : Bool) (hi : i < 8) :
    linkDst (setLinkSlot s c i d valid) c i = if valid then some (d % 256) else none := by
  have hne : regKey (ctxPage c) (0x220 + 4 * (i / 4)) ≠ regKey (ctxPage c) 0x228 :=
    regKey_ne (by omega) (by decide) (by omega)
  have hvalid : (fget (setLinkSlot s c i d valid) (ctxPage c) F.CTX_LINK_VALID_VALID).testBit i = valid := by
    rw [setLinkSlot, fget_fset_self _ _ _ _ _ (by decide), Nat.testBit_mod_two_pow, testBit_splice,
      if_pos ⟨Nat.le_refl i, Nat.lt_succ_self i⟩, Nat.sub_self]
    cases valid <;> simp [show i < F.CTX_LINK_VALID_VALID.width from hi]
  have hdst : bitsOf (rget (setLinkSlot s c i d valid) (ctxPage c) (0x220 + 4 * (i / 4))) (8 * (i % 4)) 8 = d % 256 := by
    rw [setLinkSlot, rget_fset_ne _ _ _ _ _ _ _ hne, rget_rset_self,
      Nat.mod_eq_of_lt (splice_lt _ _ _ _ (rget_lt _ _ _) (by omega)), bitsOf_splice_self]
    rfl
  rw [linkDst, hvalid, hdst]

theorem setLinkSlot_sameRegs (s : State) (c d : Nat) {i : Nat} (valid : Bool) (hi : i < 8) :
    SameRegs s (setLinkSlot s c i d valid) fun p o => p = ctxPage c ∧ 0x220 ≤ o ∧ o ≤ 0x228 := by
  have hmap := (SameRegs.refl s fun p o => p = ctxPage c ∧ 0x220 ≤ o ∧ o ≤ 0x228).then_rset (p := ctxPage c)
    (o := 0x220 + 4 * (i / 4)) (by omega) ⟨rfl, by omega⟩
    (splice (rget s (ctxPage c) (0x220 + 4 * (i / 4))) (8 * (i % 4)) 8 d)
  exact hmap.then_fset (r := F.CTX_LINK_VALID_VALID) (i := 0) (by decide) ⟨rfl, by decide⟩ _

/-- A source's slots keep what they hold while its link map keeps its value. -/
theorem SameRegs.linkDst {s t : State} {hit : Nat → Nat → Prop} (h : SameRegs s t hit) {c i : Nat} (hi : i < 8)
    (hn : ∀ o, 0x220 ≤ o → o ≤ 0x228 → ¬hit (ctxPage c) o) : linkDst t c i = linkDst s c i := by
  have hv : Machine.fget t (ctxPage c) F.CTX_LINK_VALID_VALID = Machine.fget s (ctxPage c) F.CTX_LINK_VALID_VALID :=
    h.fget (by decide) (hn _ (by decide) (by decide))
  have hm : rget t (ctxPage c) (0x220 + 4 * (i / 4)) = rget s (ctxPage c) (0x220 + 4 * (i / 4)) :=
    h _ _ (by omega) (hn _ (by omega) (by omega))
  rw [Machine.linkDst, Machine.linkDst, hv, hm]

theorem linkDst_congr {s t : State} (h : t.regs = s.regs) (c i : Nat) : linkDst t c i = linkDst s c i := by
  simp only [linkDst, fget_congr h, rget_congr h]

@[simp] theorem linkDst_modCtx (s : State) (k : Nat) (f : Ctx → Ctx) (c i : Nat) :
    linkDst (modCtx s k f) c i = linkDst s c i := rfl

@[simp] theorem linkDst_cmdDone (s : State) (ref : CmdRef) (st i0 i1 i2 : Nat) (after : Option Turn) (c i : Nat) :
    linkDst (cmdDone s ref st i0 i1 i2 after) c i = linkDst s c i := rfl

/-- What a slot holds is freed: the source's map and the destination's LINK_SRC change, and its link state. -/
theorem freeSlot_eq {s : State} {c i e : Nat} (h : linkDst s c i = some e) :
    freeSlot s c i = modCtx (rset (setLinkSlot s c i 0 false) (ctxPage e) 0x22C 0) e
      ({ · with linkOn := false, linkOld := [] }) := by
  rw [freeSlot, h]
  rfl

theorem freeSlot_none {s : State} {c i : Nat} (h : linkDst s c i = none) : freeSlot s c i = s := by
  rw [freeSlot, h]

theorem linkDst_freeSlot (s : State) (c : Nat) {i : Nat} (hi : i < 8) : linkDst (freeSlot s c i) c i = none := by
  cases h : linkDst s c i with
  | none => rw [freeSlot_none h, h]
  | some e =>
    have hsrc : SameRegs (setLinkSlot s c i 0 false) (rset (setLinkSlot s c i 0 false) (ctxPage e) 0x22C 0)
        fun p o => p = ctxPage e ∧ o = 0x22C := sameRegs_rset _ _ (by decide)
    rw [freeSlot_eq h, linkDst_modCtx, hsrc.linkDst hi fun o _ ho k => by omega]
    exact linkDst_setLinkSlot s c 0 false hi

theorem of_find_range {n i : Nat} {p : Nat → Bool} (h : (List.range n).find? p = some i) : i < n ∧ p i = true :=
  ⟨List.mem_range.1 (List.mem_of_find?_eq_some h), List.find?_some h⟩

end Sys2Proof.Machine
end

section
namespace Sys2Proof.Machine

/-! ### START -/

/-- The context as START makes it (R35, R45, R77, R115, R172). -/
def startedCtx (s : State) (c : Nat) (x : Ctx) : Ctx :=
  { ctx0 with
    mem := x.mem, memKiB := x.memKiB, levelCode := x.levelCode, oldMem := x.oldMem, slot := x.slot, cluster := x.cluster, moving := x.moving,
    bindMode := x.bindMode, outWait := x.outWait, linkOld := linkedNow s c, ppJobs := x.ppJobs, laCut := x.laCut, effCut := x.effCut,
    keyNext := true, lfsr := 0x5EA70000 + 256 * ctxGen s c + c
    fill := if isEncode s c then ((active s c).startFill : Int) else 0, rateNow := (active s c).rateSet, lastOn := x.lastOn }

theorem startCtx_eq (s : State) (c : Nat) :
    startCtx s c = fset (setCtxState (modCtx s c (startedCtx s c)) c 3) (ctxPage c) F.CTX_ENC_STAT_GIR_ACTIVE 0 := rfl

theorem getCtx_startCtx (s : State) (c : Nat) : getCtx (startCtx s c) c = startedCtx s c (getCtx s c) :=
  getCtx_modCtx s c (startedCtx s c)

theorem ctxState_startCtx (s : State) (c : Nat) : ctxState (startCtx s c) c = 3 := by
  rw [startCtx_eq, ctxState, fget_fset_apart _ _ _ _ _ _ (by decide), setCtxState, fget_fset_self _ _ _ _ _ (by decide)]
  rfl

theorem startCtx_sameRegs (s : State) (c : Nat) :
    SameRegs s (startCtx s c) fun p o => p = ctxPage c ∧ (o = 0x200 ∨ o = 0x160) :=
  ((sameRegs_of_regs rfl).then_fset (r := F.CTX_STATE_STATE) (by decide) ⟨rfl, .inl rfl⟩ 3).then_fset
    (r := F.CTX_ENC_STAT_GIR_ACTIVE) (by decide) ⟨rfl, .inr rfl⟩ 0

theorem execOpStart_eq {s u : State} {own : Fin 65} {ring : Fin 4} {d : Desc} {ref : CmdRef}
    (hb : Begins s own ring 3 d ref u) : execOpStart own ring s = .next (cmdDone (startCtx u d.ctx) ref 0) := by
  rw [execOpStart, runCmd_pass hb]
  rfl

/-! ### QUERY -/

/-- The INFO words of QUERY (R38). -/
def queryInfo (s : State) (c sel : Nat) : Nat × Nat × Nat :=
  (match sel with | 0 => rget s (ctxPage c) 0x200 | 1 => rget s (ctxPage c) 0x210 | _ => (getCtx s c).memKiB,
   match sel with | 0 => rget s (ctxPage c) 0x204 | 1 => rget s (ctxPage c) 0x214 | _ => 0,
   match sel with | 1 => rget s (ctxPage c) 0x218 | _ => 0)

theorem execOpQuery_eq {s u : State} {own : Fin 65} {ring : Fin 4} {d : Desc} {ref : CmdRef}
    (hb : Begins s own ring 0x0B d ref u) :
    let i := queryInfo u d.ctx (d.p 0)
    execOpQuery own ring s = .next (cmdDone u ref 0 i.1 i.2.1 i.2.2) := by
  rw [execOpQuery, runCmd_pass hb]
  dsimp only [queryInfo]
  rcases d.p 0 with - | - | n <;> rfl

/-! ### LINK -/

/-- Destination `dst` linked to slot `i` of source `c` (R52). -/
def linkedTo (s : State) (c i dst : Nat) : State :=
  let s := modCtx (setLinkSlot s c i dst true) dst ({ · with linkOn := false, linkSkip := 0, linkOld := decodedNow s c })
  let s := fset (fset s (ctxPage dst) F.CTX_LINK_SRC_SRC c) (ctxPage dst) F.CTX_LINK_SRC_SLOT i
  fsetb s (ctxPage dst) F.CTX_LINK_SRC_VALID true

section link
variable {s u : State} {own : Fin 65} {ring : Fin 4} {d : Desc} {ref : CmdRef} {i : Nat}
  (hb : Begins s own ring 9 d ref u)
include hb

theorem execOpLink_unlink (hun : bitsOf (d.p 0) 16 1 = 1)
    (hi : (List.range 8).find? (fun i => linkDst u d.ctx i == some (bitsOf (d.p 0) 0 8)) = some i) :
    execOpLink own ring s = .next (cmdDone (freeSlot u d.ctx i) ref 0 i) := by
  rw [execOpLink, runCmd_pass hb]
  dsimp only
  rw [if_pos hun, hi]
  rfl

theorem execOpLink_link (hun : bitsOf (d.p 0) 16 1 = 0) (howner : ctxOwner u (bitsOf (d.p 0) 0 8) = ctxOwner u d.ctx)
    (hstate : ctxState u (bitsOf (d.p 0) 0 8) = 2 ∨ ctxState u (bitsOf (d.p 0) 0 8) = 3)
    (hgen : ctxGen u (bitsOf (d.p 0) 0 8) = bitsOf (d.p 0) 8 8) (hsrc : isEncode u d.ctx = false)
    (hdst : isEncode u (bitsOf (d.p 0) 0 8) = true) (hinput : (active u (bitsOf (d.p 0) 0 8)).input = 2)
    (hfree : fbit u (ctxPage (bitsOf (d.p 0) 0 8)) F.CTX_LINK_SRC_VALID = false)
    (hrate : rateDivides (active u d.ctx) (active u (bitsOf (d.p 0) 0 8)) = true)
    (hi : (List.range 8).find? (fun i => (linkDst u d.ctx i).isNone) = some i) :
    execOpLink own ring s = .next (cmdDone (linkedTo u d.ctx i (bitsOf (d.p 0) 0 8)) ref 0 i) := by
  rw [execOpLink, runCmd_pass hb]
  dsimp only
  rw [if_neg (by omega), if_neg (by simp [howner]), if_neg (by rcases hstate with h | h <;> simp [h, hgen]),
    if_neg (by simp [hsrc, hdst, hinput, hfree, hrate]), hi]
  rfl

end link

section linked
variable (s : State) {c i dst : Nat} (hi : i < 8) (hne : dst ≠ c)

theorem linkedTo_sameRegs_dst : SameRegs (setLinkSlot s c i dst true) (linkedTo s c i dst) fun p o =>
    p = ctxPage dst ∧ o = 0x22C :=
  (((sameRegs_of_regs rfl).then_fset (r := F.CTX_LINK_SRC_SRC) (by decide) ⟨rfl, rfl⟩ c).then_fset
    (r := F.CTX_LINK_SRC_SLOT) (by decide) ⟨rfl, rfl⟩ i).then_fset (r := F.CTX_LINK_SRC_VALID) (by decide) ⟨rfl, rfl⟩ _

include hi in
theorem linkedTo_sameRegs : SameRegs s (linkedTo s c i dst) fun p o =>
    p = ctxPage c ∧ 0x220 ≤ o ∧ o ≤ 0x228 ∨ p = ctxPage dst ∧ o = 0x22C :=
  ((setLinkSlot_sameRegs s c dst true hi).mono fun _ _ => .inl).trans
    ((linkedTo_sameRegs_dst s).mono fun _ _ => .inr)

include hi hne in
theorem linkDst_linkedTo (hd : dst < 256) : linkDst (linkedTo s c i dst) c i = some dst := by
  rw [(linkedTo_sameRegs_dst s).linkDst hi fun o _ _ h => hne (ctxPage_inj.1 h.1).symm, linkDst_setLinkSlot s c dst true hi,
    Nat.mod_eq_of_lt hd]
  rfl

include hi in
theorem linkSrc_linkedTo (hc : c < 256) :
    fbit (linkedTo s c i dst) (ctxPage dst) F.CTX_LINK_SRC_VALID = true ∧
      fget (linkedTo s c i dst) (ctxPage dst) F.CTX_LINK_SRC_SRC = c ∧
      fget (linkedTo s c i dst) (ctxPage dst) F.CTX_LINK_SRC_SLOT = i := by
  refine ⟨fbit_fsetb_self _ _ _ _ _ (by decide) (by decide), ?_, ?_⟩
  · unfold linkedTo fsetb
    simp (disch := decide) only [fget_fset_apart, fget_fset_self]
    exact Nat.mod_eq_of_lt hc
  · unfold linkedTo fsetb
    simp (disch := decide) only [fget_fset_apart, fget_fset_self]
    exact Nat.mod_eq_of_lt hi

theorem linkedTo_keeps : Keeps [.regs, .ctxs] s (linkedTo s c i dst) :=
  fset_keeps (fset_keeps (fset_keeps (modCtx_keeps (setLinkSlot_keeps (.refl _ s) rfl) rfl) rfl) rfl) rfl

end linked

/-! ### BIND -/

/-- The registers of a context bound as BIND says (R54). -/
def bindRegs (s : State) (c ee de mode : Nat) : State :=
  let s := fset (fset s (ctxPage c) F.CTX_BIND_EE_MASK ee) (ctxPage c) F.CTX_BIND_DE_MASK de
  fsetb s (ctxPage c) F.CTX_STATE_PINNED (mode == 2)

/-- A context bound as BIND says (R54). -/
def boundTo (s : State) (c ee de mode : Nat) : State := modCtx (bindRegs s c ee de mode) c ({ · with bindMode := mode })

theorem execOpBind_eq {s u : State} {own : Fin 65} {ring : Fin 4} {d : Desc} {ref : CmdRef}
    (hb : Begins s own ring 0x0A d ref u) (hkey : unlocked u (ctxPage d.ctx) = true)
    (hserves : d.p 2 = 2 → bindFails u d.ctx (d.p 0) (d.p 1) = false) :
    execOpBind own ring s = .next (cmdDone (boundTo u d.ctx (d.p 0) (d.p 1) (d.p 2)) ref 0) := by
  rw [execOpBind, runCmd_pass hb]
  dsimp only
  rw [if_neg (by simp [hkey]), if_neg fun h => by simp [hserves h.1] at h]
  rfl

/-- A parameter has no bit outside its mask. -/
theorem param_le_of_masksOk {d : Desc} {masks : List Nat} (h : masksOk d masks = true) {i : Nat} (hi : i < 14) :
    d.p i ≤ masks.getD i 0 := by
  have he := beq_iff_eq.1 (List.all_eq_true.1 h i (List.mem_range.2 hi))
  calc d.p i = d.p i &&& masks.getD i 0 := he.symm
    _ ≤ masks.getD i 0 := Nat.and_le_right

theorem masksOk_of_staticOk {d : Desc} {kind : Nat} (h : staticOk d kind = true) :
    masksOk d (paramMasks d.opcode kind) = true := by
  simp only [staticOk, Bool.and_eq_true] at h
  exact h.1.2

theorem bind_masks_lt {s u : State} {own ring : Nat} {d : Desc} {ref : CmdRef} (hb : Begins s own ring 0x0A d ref u) :
    d.p 0 < 2 ^ 18 ∧ d.p 1 < 2 ^ 18 := by
  have hmasks := masksOk_of_staticOk (of_checkCmd hb.2).1
  rw [hb.opcode] at hmasks
  exact ⟨Nat.lt_succ_of_le (param_le_of_masksOk hmasks (by decide)),
    Nat.lt_succ_of_le (param_le_of_masksOk hmasks (by decide))⟩

theorem fget_bindRegs (s : State) (c ee de mode : Nat) :
    fget (bindRegs s c ee de mode) (ctxPage c) F.CTX_BIND_EE_MASK = ee % 2 ^ 18 ∧
      fget (bindRegs s c ee de mode) (ctxPage c) F.CTX_BIND_DE_MASK = de % 2 ^ 18 ∧
      fbit (bindRegs s c ee de mode) (ctxPage c) F.CTX_STATE_PINNED = (mode == 2) := by
  refine ⟨?_, ?_, fbit_fsetb_self _ _ _ _ _ (by decide) (by decide)⟩
  · simp (disch := decide) only [bindRegs, fsetb, fget_fset_apart, fget_fset_self]
    rfl
  · simp (disch := decide) only [bindRegs, fsetb, fget_fset_apart, fget_fset_self]
    rfl

theorem bindRegs_sameRegs (s : State) (c ee de mode : Nat) : SameRegs s (bindRegs s c ee de mode) fun p o =>
    p = ctxPage c ∧ (o = 0x200 ∨ o = 0x230 ∨ o = 0x234) :=
  (((SameRegs.refl s _).then_fset (r := F.CTX_BIND_EE_MASK) (by decide) ⟨rfl, .inr (.inl rfl)⟩ ee).then_fset
    (r := F.CTX_BIND_DE_MASK) (by decide) ⟨rfl, .inr (.inr rfl)⟩ de).then_fset
    (r := F.CTX_STATE_PINNED) (by decide) ⟨rfl, .inl rfl⟩ _

theorem boundTo_keeps (s : State) (c ee de mode : Nat) : Keeps [.regs, .ctxs] s (boundTo s c ee de mode) :=
  modCtx_keeps (fsetb_keeps (fset_keeps (fset_keeps (.refl _ s) rfl) rfl) rfl) rfl

/-- What a command that writes registers and contexts leaves of memory, and its completion. -/
theorem completed_of_keeps {s u v : State} (hu : u = { s with rings := u.rings }) (hv : Keeps [.regs, .ctxs] u v)
    (ref : CmdRef) (st i0 i1 i2 : Nat) :
    Completed u (cmdDone v ref st i0 i1 i2) ref st i0 i1 i2 ∧ SameMem s (cmdDone v ref st i0 i1 i2) :=
  ⟨completed_cmdDone (hv.rings (by decide)) (hv.devtime (by decide)) ..,
    sameMem_of_mem ((hv.mem (by decide)).trans (mem_of_begun hu))⟩

/-- Settles O12: each command's effect, clause by clause. -/
theorem atOnceCommands : Obligations.AtOnceCommands := by
  intro own ring s u d ref c p
  refine ⟨?start, ?query, ?link, ?unlink, ?bind, ?undefined⟩
  case start =>
    intro hb
    have hx := getCtx_startCtx u c
    obtain ⟨hdone, hmem⟩ := completed_of_keeps hb.eq (startCtx_keeps (c := c) (.refl _ u) rfl) ref 0 0 0 0
    exact ⟨_, execOpStart_eq hb, ctxState_startCtx u c, congrArg Ctx.outSeq hx, congrArg Ctx.lastPts hx,
      congrArg Ctx.keyNext hx, congrArg Ctx.submits hx, hdone, hmem,
      (sameRegs_of_regs (regs_of_begun hb.eq)).trans ((startCtx_sameRegs u c).then_regs rfl)⟩
  case query =>
    intro hb
    obtain ⟨x, rfl⟩ : ∃ x, u = { s with rings := x } := ⟨_, hb.eq⟩
    exact ⟨_, execOpQuery_eq hb, completed_self .., rfl⟩
  case link =>
    intro i dst hb hun hdst hne howner hstate hgen hsrc henc hinput hfree hrate hi
    obtain ⟨x, rfl⟩ : ∃ x, u = { s with rings := x } := ⟨_, hb.eq⟩
    subst hdst
    let u : State := { s with rings := x }
    obtain ⟨hi8, -⟩ := of_find_range hi
    have hc : c < 256 := bitsOf_lt _ _ _
    obtain ⟨hv, hs, hl⟩ := linkSrc_linkedTo u (c := c) (dst := bitsOf (d.p 0) 0 8) hi8 hc
    obtain ⟨hdone, hmem⟩ := completed_of_keeps (s := s) (u := u) rfl
      (linkedTo_keeps u (c := c) (i := i) (dst := bitsOf (d.p 0) 0 8)) ref 0 i 0 0
    exact ⟨_, execOpLink_link hb hun howner hstate hgen hsrc henc hinput hfree hrate hi,
      (linkDst_cmdDone ..).trans (linkDst_linkedTo u hi8 hne (bitsOf_lt _ _ _)),
      (fbit_cmdDone ..).trans hv, (fget_cmdDone ..).trans hs, (fget_cmdDone ..).trans hl, hdone, hmem,
      (sameRegs_of_regs rfl).trans ((linkedTo_sameRegs u hi8).then_regs rfl)⟩
  case unlink =>
    intro i hb hun hi
    obtain ⟨x, rfl⟩ : ∃ x, u = { s with rings := x } := ⟨_, hb.eq⟩
    obtain ⟨hi8, -⟩ := of_find_range hi
    obtain ⟨hdone, hmem⟩ := completed_of_keeps hb.eq (freeSlot_keeps (c := c) (i := i) (.refl _ _) rfl) ref 0 i 0 0
    exact ⟨_, execOpLink_unlink hb hun hi, (linkDst_cmdDone ..).trans (linkDst_freeSlot _ c hi8), hdone, hmem⟩
  case bind =>
    intro hb hkey hserves
    obtain ⟨x, rfl⟩ : ∃ x, u = { s with rings := x } := ⟨_, hb.eq⟩
    let u : State := { s with rings := x }
    obtain ⟨hee, hde⟩ := bind_masks_lt hb
    have hregs : (boundTo u c (d.p 0) (d.p 1) (d.p 2)).regs = (bindRegs u c (d.p 0) (d.p 1) (d.p 2)).regs := rfl
    obtain ⟨hfe, hfd, hpin⟩ := fget_bindRegs u c (d.p 0) (d.p 1) (d.p 2)
    obtain ⟨hdone, hmem⟩ := completed_of_keeps (s := s) (u := u) rfl (boundTo_keeps u c (d.p 0) (d.p 1) (d.p 2)) ref 0 0 0 0
    have hmode : (getCtx (boundTo u c (d.p 0) (d.p 1) (d.p 2)) c).bindMode = d.p 2 :=
      congrArg Ctx.bindMode (getCtx_modCtx (bindRegs u c (d.p 0) (d.p 1) (d.p 2)) c ({ · with bindMode := d.p 2 }))
    refine ⟨_, execOpBind_eq hb hkey hserves, ?_, ?_, (fbit_cmdDone ..).trans ((fbit_congr hregs _ _ _).trans hpin),
      (congrArg Ctx.bindMode (getCtx_cmdDone ..)).trans hmode, hdone, hmem,
      (sameRegs_of_regs rfl).trans ((bindRegs_sameRegs u c _ _ _).then_regs hregs)⟩
    · rw [fget_cmdDone, fget_congr hregs, hfe, Nat.mod_eq_of_lt hee]
    · rw [fget_cmdDone, fget_congr hregs, hfd, Nat.mod_eq_of_lt hde]
  case undefined =>
    intro hb
    obtain ⟨-, -, hu⟩ := beginCmd_some hb
    obtain ⟨x, rfl⟩ : ∃ x, u = { s with rings := x } := ⟨_, hu⟩
    exact ⟨_, execUndefinedOpcode_eq hb, completed_self .., rfl⟩

end Sys2Proof.Machine
end

section
namespace Sys2Proof.Machine

/-! ### Memory of a set -/

theorem allocFrom_sameRegs (s : State) (mode : Spill) (tag : Nat) (held : Bool) (ps : List Nat) :
    SameRegs s (allocFrom s mode tag held ps).2 fun p o => p = 0x50 ∧ o = 0x2C := by
  induction ps generalizing s with
  | nil => exact .refl _ _
  | cons p ps ih =>
    unfold allocFrom
    split
    · exact ih s
    · split
      · exact sameRegs_of_regs rfl
      · have hirq : SameRegs s (setIrq s 0x50 64) fun p o => p = 0x50 ∧ o = 0x2C := sameRegs_setIrq s 0x50 64
        have honward : ∀ b : Bool, SameRegs s (if b then allocFrom (setIrq s 0x50 64) mode tag held ps
            else (nullHandle, setIrq s 0x50 64)).2 fun p o => p = 0x50 ∧ o = 0x2C := by
          rintro (- | -)
          · exact hirq
          · exact hirq.trans (ih _)
        exact honward _

theorem talusAlloc_sameRegs (s : State) (p : Nat) (mode : Spill) (tag : Nat) (held : Bool) :
    SameRegs s (talusAlloc s p mode tag held).2 fun p o => p = 0x50 ∧ o = 0x2C := allocFrom_sameRegs s mode tag held _

theorem allocParts_sameRegs {s t : State} {tag : Nat} {parts : List (Nat × Bool)} {hs : List Nat}
    (h : allocParts s tag parts = some (hs, t)) : SameRegs s t fun p o => p = 0x50 ∧ o = 0x2C := by
  induction parts generalizing s hs with
  | nil =>
    cases h
    exact .refl _ _
  | cons part parts ih =>
    unfold allocParts at h
    obtain ⟨⟨hs', t'⟩, hrest, he⟩ := Option.map_eq_some_iff.1 (Option.ite_none_left_eq_some.1 h).2
    cases he
    exact SameRegs.trans (talusAlloc_sameRegs s _ _ _ _) (ih hrest)

theorem reserve_sameRegs {s t : State} {owner kind kib : Nat} {g : Get} {hs : List Nat}
    (h : reserve s owner kind g = some (hs, kib, t)) : SameRegs s t fun p o => p = 0x50 ∧ o = 0x2C := by
  obtain ⟨⟨hs', t'⟩, hparts, he⟩ := Option.map_eq_some_iff.1 h
  cases he
  exact allocParts_sameRegs hparts

/-! ### The active set -/

theorem rget_foldl_rset (s : State) (p : Nat) (f : Nat → Nat) (l : List Nat) {q o : Nat}
    (ho : o < 4096) (hl : ∀ x ∈ l, x + 0x200 < 4096) :
    rget (l.foldl (fun s x => rset s p (x + 0x200) (f x)) s) q o =
      if q = p ∧ 0x200 ≤ o ∧ o - 0x200 ∈ l then f (o - 0x200) % 2 ^ 32 else rget s q o := by
  induction l generalizing s with
  | nil => simp
  | cons x l ih =>
    rw [List.foldl_cons, ih _ fun y hy => hl y (List.mem_cons_of_mem _ hy)]
    by_cases hm : q = p ∧ 0x200 ≤ o ∧ o - 0x200 ∈ l
    · rw [if_pos hm, if_pos ⟨hm.1, hm.2.1, List.mem_cons_of_mem _ hm.2.2⟩]
    · rw [if_neg hm]
      by_cases hx : q = p ∧ o = x + 0x200
      · obtain ⟨rfl, rfl⟩ := hx
        rw [rget_rset_self, if_pos ⟨rfl, by omega, by simp⟩, Nat.add_sub_cancel]
      · rw [rget_rset_ne _ _ _ _ _ _ (regKey_ne ho (hl x (List.mem_cons_self ..)) hx), if_neg]
        rintro ⟨hq, h2, hmem⟩
        rcases List.mem_cons.1 hmem with h | h
        · exact hx ⟨hq, by omega⟩
        · exact hm ⟨hq, h2, h⟩

theorem stagedOffs_lt : ∀ x ∈ stagedOffs, x + 0x200 < 4096 := by decide

theorem rget_setActive (s : State) (c : Nat) (words : Tbl Word) {off : Nat} (h : off ∈ stagedOffs) :
    rget (setActive s c words) (ctxPage c) (off + 0x200) = (tget 0 words off).toNat := by
  rw [setActive, rget_foldl_rset s (ctxPage c) (fun o => (tget 0 words o).toNat) stagedOffs (stagedOffs_lt off h) stagedOffs_lt,
    if_pos ⟨rfl, by omega, by rwa [Nat.add_sub_cancel]⟩, Nat.add_sub_cancel, Nat.mod_eq_of_lt (BitVec.isLt _)]

theorem setActive_sameRegs (s : State) (c : Nat) (words : Tbl Word) :
    SameRegs s (setActive s c words) fun p o => p = ctxPage c ∧ 0x200 ≤ o ∧ o - 0x200 ∈ stagedOffs := fun p o ho hn => by
  rw [setActive, rget_foldl_rset s (ctxPage c) (fun o => (tget 0 words o).toNat) stagedOffs ho stagedOffs_lt, if_neg hn]

theorem tget_foldl_tput (t : Tbl Word) (f : Nat → Word) (l : List Nat) (o : Nat) :
    tget 0 (l.foldl (fun t x => tput 0 t x (f x)) t) o = if o ∈ l then f o else tget 0 t o := by
  induction l generalizing t with
  | nil => simp
  | cons x l ih =>
    rw [List.foldl_cons, ih]
    by_cases hm : o ∈ l
    · rw [if_pos hm, if_pos (List.mem_cons_of_mem _ hm)]
    · rw [if_neg hm]
      by_cases hx : o = x
      · rw [hx, tget_tput_self, if_pos (List.mem_cons_self ..)]
      · rw [tget_tput_ne _ _ _ _ _ _ hx, if_neg (by simp [hx, hm])]

theorem tget_stagedWords (s : State) (c : Nat) {off : Nat} (h : off ∈ stagedOffs) :
    (tget 0 (stagedWords s c) off).toNat = rget s (ctxPage c) off := by
  rw [stagedWords, tget_foldl_tput [] (fun o => BitVec.ofNat 32 (rget s (ctxPage c) o)) stagedOffs, if_pos h,
    BitVec.toNat_ofNat, Nat.mod_eq_of_lt (rget_lt _ _ _)]

theorem takeSet_regs (s : State) (c : Nat) (words : Tbl Word) : (takeSet s c words).regs = (setActive s c words).regs := rfl

/-- The status fields that follow the active set stand in four registers. -/
theorem syncDerived_sameRegs (s : State) (c : Nat) :
    SameRegs s (syncDerived s c) fun p o => p = ctxPage c ∧ (o = 0x100 ∨ o = 0x160 ∨ o = 0x420) := by
  unfold syncDerived
  split
  · exact (((((SameRegs.refl s _).then_fset (r := F.CTX_ENC_STAT_COLS) (by decide) ⟨rfl, .inr (.inl rfl)⟩ _).then_fset
      (r := F.CTX_ENC_STAT_DPB_PICS) (by decide) ⟨rfl, .inr (.inl rfl)⟩ _).then_fset
      (r := F.CTX_PLACE_XSTAT_SEGS) (by decide) ⟨rfl, .inr (.inr rfl)⟩ _).then_fset
      (r := F.CTX_RC_STAT_EFFORT_NOW) (by decide) ⟨rfl, .inl rfl⟩ _).then_fset
      (r := F.CTX_RC_STAT_LA_NOW) (by decide) ⟨rfl, .inl rfl⟩ _
  · exact .refl _ _

/-! ### A set that replaces another -/

/-- The parts of replacing a set: the old memory goes, the new is reserved, the words are taken. -/
theorem replaceSet_some {s t : State} {c : Nat} {words : Tbl Word} {g : Get} (h : replaceSet s c words g = some t) :
    ∃ mem kib r, reserve (freeAll s ((getCtx s c).mem ++ (getCtx s c).oldMem)) (ctxOwner s c) (ctxKind s c) g =
        some (mem, kib, r) ∧
      t = syncDerived (takeSet (modCtx r c ({ · with mem := mem, memKiB := kib, oldMem := [] })) c words) c := by
  obtain ⟨⟨mem, kib, r⟩, hr, he⟩ := Option.map_eq_some_iff.1 h
  exact ⟨mem, kib, r, hr, he.symm⟩

section replaced
variable {s t : State} {c : Nat} {words : Tbl Word} {g : Get} (h : replaceSet s c words g = some t)
include h

theorem replaceSet_sameRegs : SameRegs s t fun p o => p = 0x50 ∧ o = 0x2C ∨
    p = ctxPage c ∧ (0x200 ≤ o ∧ o - 0x200 ∈ stagedOffs ∨ o = 0x100 ∨ o = 0x160 ∨ o = 0x420) := by
  obtain ⟨mem, kib, r, hr, rfl⟩ := replaceSet_some h
  have hfree : (freeAll s ((getCtx s c).mem ++ (getCtx s c).oldMem)).regs = s.regs :=
    (freeAll_keeps (.refl [.talus, .perf] s) rfl).regs (by decide)
  have hres : SameRegs s r fun p o => p = 0x50 ∧ o = 0x2C := (sameRegs_of_regs hfree).trans (reserve_sameRegs hr)
  have hact := setActive_sameRegs (modCtx r c ({ · with mem := mem, memKiB := kib, oldMem := [] })) c words
  have htake := hact.then_regs (takeSet_regs (modCtx r c ({ · with mem := mem, memKiB := kib, oldMem := [] })) c words)
  refine (((hres.then_regs rfl).mono fun _ _ => .inl).trans (htake.mono fun _ _ k => .inr ⟨k.1, .inl k.2⟩)).trans
    ((syncDerived_sameRegs _ c).mono fun _ _ k => .inr ⟨k.1, .inr k.2⟩)

/-- The words are the active set. -/
theorem rget_replaceSet {off : Nat} (ho : off ∈ stagedOffs) :
    rget t (ctxPage c) (off + 0x200) = (tget 0 words off).toNat := by
  obtain ⟨mem, kib, r, -, rfl⟩ := replaceSet_some h
  have hapart : ∀ x ∈ stagedOffs, x + 0x200 ≠ 0x100 ∧ x + 0x200 ≠ 0x160 ∧ x + 0x200 ≠ 0x420 := by decide
  obtain ⟨h1, h2, h3⟩ := hapart off ho
  rw [syncDerived_sameRegs _ c _ _ (stagedOffs_lt off ho) (by rintro ⟨-, k | k | k⟩ <;> contradiction), rget_congr (takeSet_regs _ c words)]
  exact rget_setActive (modCtx r c ({ · with mem := mem, memKiB := kib, oldMem := [] })) c words ho

theorem ctxState_replaceSet : ctxState t c = ctxState s c := by
  have hstaged : ∀ x ∈ stagedOffs, x + 0x200 ≠ 0x200 := by decide
  refine (replaceSet_sameRegs h).fget (by decide) ?_
  have hat : F.CTX_STATE_STATE.at 0 = 0x200 := rfl
  have hpage : ctxPage c ≠ 0x50 := by unfold ctxPage; omega
  rintro (⟨k, -⟩ | ⟨-, ⟨-, k⟩ | k⟩)
  · exact hpage k
  · exact hstaged _ k rfl
  · omega

theorem outWait_replaceSet (j : Nat) : (getCtx t j).outWait = (getCtx s j).outWait := by
  obtain ⟨mem, kib, r, hr, rfl⟩ := replaceSet_some h
  let v := modCtx r c ({ · with mem := mem, memKiB := kib, oldMem := [] })
  have hsync := getCtx_congr ((syncDerived_keeps (c := c) (.refl [.regs] (takeSet v c words)) rfl).ctxs (by decide)) j
  have hset := getCtx_congr ((setActive_keeps (c := c) (t := words) (.refl [.regs] v) rfl).ctxs (by decide))
  have hfree := (freeAll_keeps (hs := (getCtx s c).mem ++ (getCtx s c).oldMem) (.refl [.talus, .perf, .regs, .srcs] s) rfl)
  have hres := getCtx_congr ((reserve_keeps hr hfree rfl).ctxs (by decide))
  rw [hsync, takeSet, getCtx_modCtx_cases]
  split
  · next e => rw [hset c, getCtx_modCtx, hres c, e]
  · next e => rw [hset j, getCtx_modCtx_ne _ _ _ _ e, hres j]

end replaced

/-- Nothing waits for a buffer, so that a free lets nothing go. -/
theorem retryOutputs_of_none {s : State} (h : NoneWait s) : retryOutputs s = s := by
  unfold retryOutputs
  exact List.foldlRecOn (motive := fun t => t = s) ctxList _ rfl fun t ht c _ => by rw [ht, if_pos (h c)]

end Sys2Proof.Machine
end

section
namespace Sys2Proof.Machine

theorem ctxState_setCtxState (s : State) (c v : Nat) : ctxState (setCtxState s c v) c = v % 8 :=
  fget_fset_self _ _ _ _ _ (by decide)

theorem setCtxState_sameRegs (s : State) (c v : Nat) : SameRegs s (setCtxState s c v) fun p o => p = ctxPage c ∧ o = 0x200 :=
  (SameRegs.refl s _).then_fset (r := F.CTX_STATE_STATE) (by decide) ⟨rfl, rfl⟩ v

theorem leaveHalt_of_ne {s : State} {c : Nat} (h : ctxState s c ≠ 5) : leaveHalt s c = s := if_neg h

theorem abortReconf_none {s : State} {c : Nat} (h : (getCtx s c).reconf = none) : abortReconf s c = s := by
  unfold abortReconf
  dsimp only
  rw [h]

theorem abortRate_none {s : State} {c : Nat} (h : (getCtx s c).setRate = none) : abortRate s c = s := by
  unfold abortRate
  rw [h]

/-! ### CONFIGURE and RECONFIG -/

section configure
variable {s u : State} {own : Fin 65} {ring : Fin 4} {d : Desc} {ref : CmdRef}

theorem execOpConfigure_fails (hb : Begins s own ring 2 d ref u) {f : Nat × Nat}
    (hf : firstFail (settingsFails u (ctxKind u d.ctx) (staged u d.ctx)) = some f) :
    execOpConfigure own ring s = .next (cmdDone u ref 0x10 f.1 f.2) := by
  rw [execOpConfigure, runCmd_pass hb]
  dsimp only
  rw [hf]
  rfl

theorem execOpConfigure_takes (hb : Begins s own ring 2 d ref u)
    (hf : firstFail (settingsFails u (ctxKind u d.ctx) (staged u d.ctx)) = none)
    (hbusy : settingsBusy u d.ctx (ctxKind u d.ctx) (staged u d.ctx) = false) {v : State}
    (hv : replaceSet u d.ctx (stagedWords u d.ctx) (staged u d.ctx) = some v) (hstate : ctxState u d.ctx ≠ 5)
    (hwait : NoneWait u) :
    execOpConfigure own ring s = .next (cmdDone (setCtxState v d.ctx 2) ref 0 (getCtx v d.ctx).memKiB) := by
  have hleave : leaveHalt v d.ctx = v := leaveHalt_of_ne (by rwa [ctxState_replaceSet hv])
  have hnone : NoneWait (cmdDone (setCtxState v d.ctx 2) ref 0 (getCtx v d.ctx).memKiB) := fun j =>
    (outWait_replaceSet hv j).trans (hwait j)
  rw [execOpConfigure, runCmd_pass hb]
  dsimp only
  rw [hf]
  dsimp only
  rw [if_neg (by simp [hbusy]), hv]
  dsimp only
  rw [hleave]
  exact congrArg _ (retryOutputs_of_none hnone)

theorem execOpReconfig_fails (hb : Begins s own ring 6 d ref u) {f : Nat × Nat}
    (hf : firstFail (codecChange u d.ctx ++ settingsFails u (ctxKind u d.ctx) (staged u d.ctx)) = some f) :
    execOpReconfig own ring s = .next (cmdDone u ref 0x10 f.1 f.2) := by
  rw [execOpReconfig, runCmd_pass hb]
  dsimp only
  rw [hf]
  rfl

theorem execOpReconfig_takes (hb : Begins s own ring 6 d ref u)
    (hf : firstFail (codecChange u d.ctx ++ settingsFails u (ctxKind u d.ctx) (staged u d.ctx)) = none)
    (hbusy : settingsBusy u d.ctx (ctxKind u d.ctx) (staged u d.ctx) = false) (hstate : ctxState u d.ctx = 2) {v : State}
    (hv : replaceSet u d.ctx (stagedWords u d.ctx) (staged u d.ctx) = some v) (hwait : NoneWait u) :
    execOpReconfig own ring s = .next (cmdDone v ref 0) := by
  have hnone : NoneWait (cmdDone v ref 0) := fun j => (outWait_replaceSet hv j).trans (hwait j)
  rw [execOpReconfig, runCmd_pass hb]
  dsimp only
  rw [hf]
  dsimp only
  rw [if_neg (by simp [hbusy]), if_pos hstate, hv]
  exact congrArg _ (retryOutputs_of_none hnone)

theorem execOpReconfig_pends (hb : Begins s own ring 6 d ref u)
    (hf : firstFail (codecChange u d.ctx ++ settingsFails u (ctxKind u d.ctx) (staged u d.ctx)) = none)
    (hbusy : settingsBusy u d.ctx (ctxKind u d.ctx) (staged u d.ctx) = false) (hstate : ctxState u d.ctx = 3)
    (hnone : (getCtx u d.ctx).reconf = none)
    (hmem : memParts (ctxKind u d.ctx) (staged u d.ctx) = memParts (ctxKind u d.ctx) (active u d.ctx)) :
    execOpReconfig own ring s = .next (pendReconf u d.ctx ref (d.p 0 == 1) [] 0) := by
  rw [execOpReconfig, runCmd_pass hb]
  dsimp only
  rw [hf]
  dsimp only
  rw [if_neg (by simp [hbusy]), if_neg (by omega), if_pos hmem, abortReconf_none hnone]

end configure

/-- A set that is taken shows in the registers of the active set, and completes where it stands. -/
theorem took_of_replaceSet {s u v t : State} {c : Nat} {g : Get} (hu : u = { s with rings := u.rings })
    (hv : replaceSet u c (stagedWords u c) g = some v) (ht : SameRegs v t fun p o => p = ctxPage c ∧ o = 0x200) :
    ∀ off ∈ stagedOffs, rget t (ctxPage c) (off + 0x200) = rget s (ctxPage c) off := by
  intro off hoff
  have hne : off + 0x200 ≠ 0x200 := by
    have h : ∀ x ∈ stagedOffs, x + 0x200 ≠ 0x200 := by decide
    exact h off hoff
  rw [ht _ _ (stagedOffs_lt off hoff) fun h => hne h.2, rget_replaceSet hv hoff, tget_stagedWords u c hoff,
    rget_congr (regs_of_begun hu)]

theorem pendReconf_eq (s : State) (c : Nat) (ref : CmdRef) (key : Bool) (mem : List Nat) (kib : Nat) :
    (getCtx (pendReconf s c ref key mem kib) c).reconf = some ref ∧
      (getCtx (pendReconf s c ref key mem kib) c).snapshot = stagedWords s c ∧
      fbit (pendReconf s c ref key mem kib) (ctxPage c) F.CTX_STATE_RECONFIG_PENDING = true ∧
      SameRegs s (pendReconf s c ref key mem kib) fun p o => p = ctxPage c ∧ o = 0x200 := by
  let w := modCtx s c fun x => { x with
    reconf := some ref, snapshot := stagedWords s c, pendMem := mem, pendKiB := kib
    keyNext := x.keyNext || key, keyForced := x.keyForced || key, setRate := x.setRate.map (overrideRate (staged s c)) }
  have hctx : getCtx (pendReconf s c ref key mem kib) c = getCtx w c := rfl
  refine ⟨?_, ?_, ?_, ?_⟩
  · rw [hctx, getCtx_modCtx]
  · rw [hctx, getCtx_modCtx]
  · exact fbit_fsetb_self w _ F.CTX_STATE_RECONFIG_PENDING true 0 (by decide) (by decide)
  · exact (sameRegs_of_regs (t := w) rfl).then_fset (r := F.CTX_STATE_RECONFIG_PENDING) (by decide) ⟨rfl, rfl⟩ 1

/-! ### SET_RATE -/

/-- A field of the register at an offset, where a value for it is carried. -/
def putField (s : State) (p o : Nat) (r : Row) (v : Option Nat) : State :=
  match v with
  | none => s
  | some v => rset s p o (splice (rget s p o) r.lo r.width v)

theorem writeRate_eq (s : State) (c d : Nat) (r : RatePend) :
    writeRate s c d r = putField (putField (putField s (ctxPage c) (0xC4 + d) F.CTX_RC_CAP_CAP_RATE r.capRate) (ctxPage c)
      (0xC8 + d) F.CTX_RC_BUF_CAP_BUFFER r.capBuf) (ctxPage c) (0xC0 + d) F.CTX_RC_CTL_QI r.qi := rfl

theorem putField_sameRegs (s : State) (p : Nat) {o : Nat} (ho : o < 4096) (r : Row) (v : Option Nat) :
    SameRegs s (putField s p o r v) fun q off => q = p ∧ off = o := by
  cases v with
  | none => exact .refl _ _
  | some v => exact sameRegs_rset s _ ho

theorem bitsOf_putField (s : State) (p o : Nat) {r : Row} {v : Option Nat} (hr : r.lo + r.width ≤ 32)
    (hv : ∀ x, v = some x → x < 2 ^ r.width) :
    bitsOf (rget (putField s p o r v) p o) r.lo r.width = v.getD (bitsOf (rget s p o) r.lo r.width) := by
  cases v with
  | none => rfl
  | some x =>
    rw [putField, rget_rset_self, Nat.mod_eq_of_lt (splice_lt _ _ _ _ (rget_lt _ _ _) hr), bitsOf_splice_self,
      Nat.mod_eq_of_lt (hv x rfl)]
    rfl

theorem putField_keeps {w : List StateField} {a s : State} (h : Keeps w a s) (hw : within [.regs] w = true) (p o : Nat)
    (r : Row) (v : Option Nat) : Keeps w a (putField s p o r v) := by
  cases v with
  | none => exact h
  | some v => exact rset_keeps h hw

/-- The values that a SET_RATE carries fit their fields. -/
def fitsRate (r : RatePend) : Prop :=
  (∀ x, r.capRate = some x → x < 2 ^ 20) ∧ (∀ x, r.capBuf = some x → x < 2 ^ 14) ∧ ∀ x, r.qi = some x → x < 2 ^ 7

theorem rateOf_fits (d : Desc) (ref : CmdRef) : fitsRate (rateOf d ref) := by
  have hopt : ∀ p n x, (if bitsOf (d.p p) 31 1 = 1 then some (bitsOf (d.p p) 0 n) else none) = some x → x < 2 ^ n := by
    intro p n x h
    split at h
    · cases h
      exact bitsOf_lt _ _ _
    · cases h
  exact ⟨hopt 0 20, hopt 1 14, hopt 2 7⟩

/-- The three fields of a set whose registers stand `d` bytes on. -/
theorem writeRate_fields (s : State) (c : Nat) {d : Nat} (hd : d ≤ 0x200) {r : RatePend} (hr : fitsRate r) :
    let at_ := fun (t : State) (o : Nat) (row : Row) => bitsOf (rget t (ctxPage c) (o + d)) row.lo row.width
    let t := writeRate s c d r
    at_ t 0xC4 F.CTX_RC_CAP_CAP_RATE = r.capRate.getD (at_ s 0xC4 F.CTX_RC_CAP_CAP_RATE) ∧
      at_ t 0xC8 F.CTX_RC_BUF_CAP_BUFFER = r.capBuf.getD (at_ s 0xC8 F.CTX_RC_BUF_CAP_BUFFER) ∧
      at_ t 0xC0 F.CTX_RC_CTL_QI = r.qi.getD (at_ s 0xC0 F.CTX_RC_CTL_QI) := by
  intro at_ t
  obtain ⟨hrate, hbuf, hqi⟩ := hr
  let p := ctxPage c
  let t1 := putField s p (0xC4 + d) F.CTX_RC_CAP_CAP_RATE r.capRate
  let t2 := putField t1 p (0xC8 + d) F.CTX_RC_BUF_CAP_BUFFER r.capBuf
  have h1 := putField_sameRegs s p (show 0xC4 + d < 4096 by omega) F.CTX_RC_CAP_CAP_RATE r.capRate
  have h2 := putField_sameRegs t1 p (show 0xC8 + d < 4096 by omega) F.CTX_RC_BUF_CAP_BUFFER r.capBuf
  have h3 := putField_sameRegs t2 p (show 0xC0 + d < 4096 by omega) F.CTX_RC_CTL_QI r.qi
  refine ⟨?_, ?_, ?_⟩
  · dsimp only [at_]
    rw [show t = putField t2 p (0xC0 + d) F.CTX_RC_CTL_QI r.qi from rfl, h3 _ _ (by omega) fun h => by omega,
      h2 _ _ (by omega) fun h => by omega]
    exact bitsOf_putField s p _ (by decide) hrate
  · dsimp only [at_]
    rw [show t = putField t2 p (0xC0 + d) F.CTX_RC_CTL_QI r.qi from rfl, h3 _ _ (by omega) fun h => by omega,
      ← h1 _ _ (by omega) fun h => by omega]
    exact bitsOf_putField t1 p _ (by decide) hbuf
  · dsimp only [at_]
    rw [← h1 _ _ (by omega) fun h => by omega, ← h2 _ _ (by omega) fun h => by omega]
    exact bitsOf_putField t2 p _ (by decide) hqi

theorem writeRate_sameRegs (s : State) (c : Nat) {d : Nat} (hd : d ≤ 0x200) (r : RatePend) :
    SameRegs s (writeRate s c d r) fun p o => p = ctxPage c ∧ o ∈ [0xC0 + d, 0xC4 + d, 0xC8 + d] := by
  rw [writeRate_eq]
  exact (((putField_sameRegs s _ (by omega) _ _).mono fun _ _ k => ⟨k.1, by simp [k.2]⟩).trans
    ((putField_sameRegs _ _ (by omega) _ _).mono fun _ _ k => ⟨k.1, by simp [k.2]⟩)).trans
    ((putField_sameRegs _ _ (by omega) _ _).mono fun _ _ k => ⟨k.1, by simp [k.2]⟩)

/-- The fields of a set stand in its registers alone. -/
theorem writeRate_keeps_regs {w : List StateField} {a s : State} (h : Keeps w a s) (hw : within [.regs] w = true)
    {c d : Nat} {r : RatePend} : Keeps w a (writeRate s c d r) :=
  putField_keeps (putField_keeps (putField_keeps h hw _ _ _ _) hw _ _ _ _) hw _ _ _ _

/-- The descriptor of a SET_RATE passes its own checks (R130). -/
def rateHolds (u : State) (c : Nat) (r : RatePend) : Prop :=
  isEncode u c = true ∧ (r.capRate.isSome ∨ r.capBuf.isSome ∨ r.qi.isSome) ∧
    (let b := withRate (active u c) r F.CTX_RC_BUF_CAP_BUFFER
     b = 0 ∨ 10 ≤ b ∧ b ≤ 10000) ∧ capFails (withRate (active u c) r) (active u c).lvl = []

section setRate
variable {s u : State} {own : Fin 65} {ring : Fin 4} {d : Desc} {ref : CmdRef} (hb : Begins s own ring 8 d ref u)
  (hr : rateHolds u d.ctx (rateOf d ref))
include hb hr

theorem execOpSetRate_eq :
    let r := rateOf d ref
    let v := writeRate u d.ctx 0 r
    execOpSetRate own ring s = .next (
      if ctxState v d.ctx = 2 then cmdDone (writeRate v d.ctx 0x200 r) ref 0 0xFFFFFFFF 0xFFFFFFFF
      else modCtx (abortRate v d.ctx) d.ctx fun x => { rateIntoSnapshot x r with
        setRate := some r, keyNext := x.keyNext || r.key, keyForced := x.keyForced || r.key }) := by
  obtain ⟨henc, hsome, hbuf, hcap⟩ := hr
  have hcarried : ((rateOf d ref).capRate.isNone && (rateOf d ref).capBuf.isNone && (rateOf d ref).qi.isNone) = false := by
    simp only [← Option.not_isSome]
    rcases hsome with h | h | h <;> simp [h]
  have hrange : ∀ b : Nat, (b = 0 ∨ 10 ≤ b ∧ b ≤ 10000) → (b != 0 && (b < 10 || 10000 < b)) = false := by
    intro b h
    simp only [Bool.and_eq_false_iff, bne_eq_false_iff_eq, Bool.or_eq_false_iff, decide_eq_false_iff_not]
    omega
  rw [execOpSetRate, runCmd_pass hb]
  dsimp only
  rw [if_neg (by rw [henc, hcarried, hrange _ hbuf, hcap]; decide)]
  rfl

end setRate

theorem getCtx_writeRate (s : State) (c d : Nat) (r : RatePend) (j : Nat) : getCtx (writeRate s c d r) j = getCtx s j :=
  getCtx_congr ((writeRate_keeps_regs (.refl [.regs] s) rfl).ctxs (by decide)) j

theorem ctxState_writeRate (s : State) (c : Nat) (r : RatePend) : ctxState (writeRate s c 0 r) c = ctxState s c := by
  refine (writeRate_sameRegs s c (by omega) r).fget (by decide) fun h => ?_
  have hout : F.CTX_STATE_STATE.at 0 ∉ [0xC0 + 0, 0xC4 + 0, 0xC8 + 0] := by decide
  exact hout h.2

theorem active_congr {s t : State} (hr : t.regs = s.regs) (hc : t.ctxs = s.ctxs) (c : Nat) (r : Row) :
    active t c r = active s c r := by
  unfold active activeRaw
  rw [rget_congr hr, getCtx_congr hc]

/-- A row that is not LEVEL reads the active set's register. -/
theorem active_of_ne {s : State} {c : Nat} {r : Row} (h : r ≠ F.CTX_CFG_STREAM_LEVEL) :
    active s c r = bitsOf (rget s (ctxPage c) (r.off + 0x200)) r.lo r.width := if_neg fun k => h k.1

section setRate
variable {s u : State} {own : Fin 65} {ring : Fin 4} {d : Desc} {ref : CmdRef} (hb : Begins s own ring 8 d ref u)
  (hr : rateHolds u d.ctx (rateOf d ref))
include hb hr

theorem execOpSetRate_ready (hst : ctxState u d.ctx = 2) :
    let r := rateOf d ref
    execOpSetRate own ring s =
      .next (cmdDone (writeRate (writeRate u d.ctx 0 r) d.ctx 0x200 r) ref 0 0xFFFFFFFF 0xFFFFFFFF) := by
  intro r
  rw [execOpSetRate_eq hb hr, if_pos ((ctxState_writeRate u d.ctx r).trans hst)]

theorem execOpSetRate_pends (hst : ctxState u d.ctx = 3) (hrate : (getCtx u d.ctx).setRate = none) :
    let r := rateOf d ref
    execOpSetRate own ring s = .next (modCtx (writeRate u d.ctx 0 r) d.ctx fun x => { rateIntoSnapshot x r with
      setRate := some r, keyNext := x.keyNext || r.key, keyForced := x.keyForced || r.key }) := by
  intro r
  have hctx : (getCtx (writeRate u d.ctx 0 r) d.ctx).setRate = none := by rw [getCtx_writeRate, hrate]
  rw [execOpSetRate_eq hb hr, if_neg (by rw [ctxState_writeRate u d.ctx r, hst]; decide), abortRate_none hctx]

end setRate

/-- Settles O13: settings that fail, that are taken, and that wait. -/
theorem settingsCommands : Obligations.SettingsCommands := by
  intro own ring s u v d ref c p g kind took
  refine ⟨?configFails, ?config, ?reconfigFails, ?reconfig, ?pending, ?setRate⟩
  case configFails =>
    intro f hb hf
    obtain ⟨x, rfl⟩ : ∃ x, u = { s with rings := x } := ⟨_, hb.eq⟩
    exact ⟨_, execOpConfigure_fails hb hf, completed_self .., rfl⟩
  case config =>
    intro hb hf hbusy hv hst hwait
    have hkeep := replaceSet_keeps hv (.refl [.regs, .ctxs, .talus, .srcs, .perf] u) rfl
    refine ⟨_, execOpConfigure_takes hb hf hbusy hv hst hwait, ctxState_setCtxState v c 2, ?_, ?_, ?_⟩
    · exact took_of_replaceSet hb.eq hv ((setCtxState_sameRegs v c 2).then_regs rfl)
    · exact completed_cmdDone (hkeep.rings (by decide)) (hkeep.devtime (by decide)) ..
    · exact sameMem_of_mem ((hkeep.mem (by decide)).trans (mem_of_begun hb.eq))
  case reconfigFails =>
    intro f hb hf
    obtain ⟨x, rfl⟩ : ∃ x, u = { s with rings := x } := ⟨_, hb.eq⟩
    exact ⟨_, execOpReconfig_fails hb hf, completed_self .., rfl⟩
  case reconfig =>
    intro hb hf hbusy hst hv hwait
    have hkeep := replaceSet_keeps hv (.refl [.regs, .ctxs, .talus, .srcs, .perf] u) rfl
    refine ⟨_, execOpReconfig_takes hb hf hbusy hst hv hwait, (ctxState_replaceSet hv).trans hst, ?_, ?_, ?_⟩
    · exact took_of_replaceSet hb.eq hv (sameRegs_of_regs rfl)
    · exact completed_cmdDone (hkeep.rings (by decide)) (hkeep.devtime (by decide)) ..
    · exact sameMem_of_mem ((hkeep.mem (by decide)).trans (mem_of_begun hb.eq))
  case pending =>
    intro hb hf hbusy hst hnone hparts
    obtain ⟨x, rfl⟩ : ∃ x, u = { s with rings := x } := ⟨_, hb.eq⟩
    obtain ⟨hreconf, hsnap, hbit, hregs⟩ := pendReconf_eq { s with rings := x } c ref (d.p 0 == 1) [] 0
    exact ⟨_, execOpReconfig_pends hb hf hbusy hst hnone hparts, hreconf, hsnap, hbit, rfl, hregs⟩
  case setRate =>
    intro r g2 b hb henc hsome hbuf hcap sets
    have hr : rateHolds u c r := ⟨henc, hsome, hbuf, hcap⟩
    have hfit := rateOf_fits d ref
    have hbegin : ∀ f, within [.regs, .rings] f = true → Keeps f s u := fun f hf =>
      beginCmd_keeps hb.1 (.refl f s) (within_trans rfl hf)
    obtain ⟨x, rfl⟩ : ∃ x, u = { s with rings := x } := ⟨_, hb.eq⟩
    let u : State := { s with rings := x }
    let v := writeRate u c 0 r
    have hvregs := writeRate_sameRegs u c (d := 0) (by omega) r
    have hstaged : sets (staged · c) v := writeRate_fields u c (by omega) hfit
    refine ⟨fun hst => ?ready, fun hst hrate hreconf => ?running⟩
    case ready =>
      let w := writeRate v c 0x200 r
      let t := cmdDone w ref 0 0xFFFFFFFF 0xFFFFFFFF
      have hwregs := writeRate_sameRegs v c (d := 0x200) (by omega) r
      have hkeep : Keeps [.regs] u w := writeRate_keeps_regs (writeRate_keeps_regs (.refl _ u) rfl) rfl
      have hframe : t = { s with regs := t.regs, rings := t.rings } := eq_rings_of_keeps fun f hf =>
        cmdDone_keeps (writeRate_keeps_regs (writeRate_keeps_regs (hbegin f hf) (within_trans rfl hf)) (within_trans rfl hf))
          (within_trans rfl hf)
      refine ⟨t, execOpSetRate_ready hb hr hst, ?_, ?_, ?_, hframe, ?_⟩
      · have hsame : ∀ row : Row, row.at 0 < 0x200 → staged t c row = staged v c row := fun row ho =>
          (hwregs.then_regs rfl).fget (by omega) fun k => by
            have hm := k.2
            simp only [List.mem_cons, List.not_mem_nil, or_false] at hm
            omega
        obtain ⟨h1, h2, h3⟩ := hstaged
        exact ⟨(hsame _ (by decide)).trans h1, (hsame _ (by decide)).trans h2, (hsame _ (by decide)).trans h3⟩
      · have hsame : ∀ o, 0x200 ≤ o → o < 4096 → rget v p o = rget s p o := fun o hlo hhi =>
          hvregs p o hhi fun k => by
            have hm := k.2
            simp only [List.mem_cons, List.not_mem_nil, or_false] at hm
            omega
        obtain ⟨h1, h2, h3⟩ := writeRate_fields v c (d := 0x200) (by omega) hfit
        have hread : ∀ row : Row, row ≠ F.CTX_CFG_STREAM_LEVEL → row.off + 0x200 < 4096 →
            bitsOf (rget v p (row.off + 0x200)) row.lo row.width = active s c row := fun row hrow ho => by
          rw [active_of_ne hrow, hsame _ (by omega) ho]
        have hact : ∀ row : Row, row ≠ F.CTX_CFG_STREAM_LEVEL →
            active t c row = bitsOf (rget w p (row.off + 0x200)) row.lo row.width := fun row hrow =>
          (active_congr (t := t) (s := w) rfl rfl c row).trans (active_of_ne hrow)
        refine ⟨(hact _ (by decide)).trans ?_, (hact _ (by decide)).trans ?_, (hact _ (by decide)).trans ?_⟩
        · change _ = r.capRate.getD (active s c _)
          rw [← hread _ (by decide) (by decide)]
          exact h1
        · change _ = r.capBuf.getD (active s c _)
          rw [← hread _ (by decide) (by decide)]
          exact h2
        · change _ = r.qi.getD (active s c _)
          rw [← hread _ (by decide) (by decide)]
          exact h3
      · exact completed_cmdDone (hkeep.rings (by decide)) (hkeep.devtime (by decide)) ..
      · refine ((hvregs.mono fun _ _ k => ⟨k.1, ?_⟩).trans (hwregs.mono fun _ _ k => ⟨k.1, ?_⟩)).then_regs rfl
        · exact List.mem_append_left [0x2C0, 0x2C4, 0x2C8] k.2
        · exact List.mem_append_right [0xC0, 0xC4, 0xC8] k.2
    case running =>
      let t := modCtx v c fun x => { rateIntoSnapshot x r with
        setRate := some r, keyNext := x.keyNext || r.key, keyForced := x.keyForced || r.key }
      have hframe : v = { s with regs := v.regs, rings := v.rings } := eq_rings_of_keeps fun f hf =>
        writeRate_keeps_regs (hbegin f hf) (within_trans rfl hf)
      have hrings : v.rings = x := (writeRate_keeps_regs (.refl [.regs] u) rfl).rings (by decide)
      refine ⟨t, execOpSetRate_pends hb hr hst hrate, hstaged, ?_, ?_, hvregs.then_regs rfl⟩
      · exact congrArg Ctx.setRate (getCtx_modCtx v c _)
      · calc t = { v with ctxs := t.ctxs } := rfl
          _ = { s with rings := x, regs := t.regs, ctxs := t.ctxs } := by rw [hframe, hrings]; rfl

end Sys2Proof.Machine
end

section
/-! PROOFS. The update mailbox: how a command is answered, the lock, the slots, Quartz updates and the agent's ring (R26,
R294, R329–R332). -/

namespace Sys2Proof.Machine

/-! ### The answer -/

/-- The end of a command answers it, whatever came before (R330). -/
theorem answered_mbxEnd (s : State) (via : MbxVia) (tag : BitVec 16) {r : Nat} (hr : r < 7) :
    Answered via tag r (mbxEnd s via tag.toNat r) := by
  cases via with
  | mctp => exact ⟨rfl, rfl⟩
  | pf =>
    have hregs : ∀ row : Row, fget (mbxEnd s .pf tag.toNat r) 2 row = fget (fset (fset (fset s 2 F.BDRK2_MBX_STAT_BUSY 0) 2
        F.BDRK2_MBX_STAT_RESULT r) 2 F.BDRK2_MBX_STAT_TAG tag.toNat) 2 row := fun row => by
      by_cases ho : row.at 0 < 4096
      · exact (sameRegs_setIrq _ 1 2).fget ho (by omega)
      · have hkey : regKey 2 (row.at 0) ≠ regKey 1 0x2C := by unfold regKey; omega
        rw [fget, fget, mbxEnd, rget_setIrq_ne _ _ _ _ _ hkey]
    refine ⟨?_, ?_, ?_, setIrq_status _ 1 2 1 (by decide) (by decide) (by decide)⟩
    · rw [fbit, hregs]
      simp (disch := decide) only [fget_fset_apart, fget_fset_self]
      rfl
    · rw [hregs]
      simp (disch := decide) only [fget_fset_apart, fget_fset_self]
      exact Nat.mod_eq_of_lt (by change r < 256; omega)
    · rw [hregs]
      simp (disch := decide) only [fget_fset_self]
      exact Nat.mod_eq_of_lt tag.isLt

theorem mbxEnd_sameRegs (s : State) (via : MbxVia) (tag r : Nat) :
    SameRegs s (mbxEnd s via tag r) fun p o => p = 2 ∧ o = 0x84 ∨ p = 1 ∧ o = 0x2C := by
  cases via with
  | mctp => exact sameRegs_of_regs rfl
  | pf =>
    exact ((((SameRegs.refl s _).then_fset (r := F.BDRK2_MBX_STAT_BUSY) (by decide) (.inl ⟨rfl, rfl⟩) 0).then_fset
      (r := F.BDRK2_MBX_STAT_RESULT) (by decide) (.inl ⟨rfl, rfl⟩) r).then_fset
      (r := F.BDRK2_MBX_STAT_TAG) (by decide) (.inl ⟨rfl, rfl⟩) tag).then_setIrq (.inr ⟨rfl, rfl⟩) 2

theorem mbxEnd_bdrk (s : State) (via : MbxVia) (tag r : Nat) : (mbxEnd s via tag r).bdrk = s.bdrk :=
  (mbxEnd_keeps (.refl [.regs, .srcs, .pins, .out] s) rfl).bdrk (by decide)

theorem mbxEnd_chip (s : State) (via : MbxVia) (tag r : Nat) : (mbxEnd s via tag r).chip = s.chip :=
  (mbxEnd_keeps (.refl [.regs, .srcs, .pins, .out] s) rfl).chip (by decide)

theorem mbxEnd_mem (s : State) (via : MbxVia) (tag r : Nat) : (mbxEnd s via tag r).mem = s.mem :=
  (mbxEnd_keeps (.refl [.regs, .srcs, .pins, .out] s) rfl).mem (by decide)

/-- Firmware begins a command while none is BUSY. -/
theorem mbxRun_open {s : State} {via : MbxVia} (h : Open s via) (tag : Nat) (update : Bool) (f : State → State × Nat) :
    mbxRun s via tag update f = mbxEnd (f s).1 via tag (f s).2 := by
  obtain ⟨hserver, hbusy⟩ := h
  rw [mbxRun, if_neg fun k => by simp [hbusy k.1] at k, hserver]

/-- An update command renews the time of the lock that its interface holds. -/
def lockRenewed (s : State) : State := if s.bdrk.lock.isSome then modBdrk s ({ · with lockAt := s.devtime }) else s

theorem updRun_free {s : State} {via : MbxVia} (h : Open s via) (hfree : s.bdrk.lock = none ∨ s.bdrk.lock = some via)
    (tag : Nat) (f : State → State × Nat) :
    updRun s via tag f = mbxEnd (f (lockRenewed s)).1 via tag (f (lockRenewed s)).2 := by
  rw [updRun, mbxRun_open h]
  rcases hfree with hl | hl
  · simp [lockRenewed, hl]
  · simp [lockRenewed, hl]

theorem updRun_locked {s : State} {via other : MbxVia} (h : Open s via) (hl : s.bdrk.lock = some other) (hne : other ≠ via)
    (tag : Nat) (f : State → State × Nat) : updRun s via tag f = mbxEnd s via tag 2 := by
  rw [updRun, mbxRun_open h]
  simp only [hl, if_neg hne]
  rfl

theorem lockRenewed_eq (s : State) : ∃ n, lockRenewed s = { s with bdrk := { s.bdrk with lockAt := n } } := by
  unfold lockRenewed
  split
  · exact ⟨s.devtime, rfl⟩
  · exact ⟨s.bdrk.lockAt, rfl⟩

theorem verdict_lt (s : State) (check : PackageCheck) : verdict s check < 7 := by
  unfold verdict
  split
  · split <;> decide
  · decide
  · decide

/-! ### The lock and the slots -/

theorem setLock_status (s : State) (l : Option MbxVia) :
    fbit (setLock s l) 1 F.BDRK1_STATUS_UPD_LOCK = l.isSome ∧ fbit (setLock s l) 1 F.BDRK1_STATUS_UPD_MCTP = (l == some .mctp) := by
  refine ⟨?_, fbit_fsetb_self _ _ _ _ _ (by decide) (by decide)⟩
  rw [fbit, setLock, syncLock, fsetb, fget_fset_apart _ _ _ _ _ _ (by decide), ← fbit]
  exact fbit_fsetb_self _ _ _ _ _ (by decide) (by decide)

/-- STATUS is not what the end of a command writes. -/
theorem fbit_status_mbxEnd (s : State) (via : MbxVia) (tag r : Nat) {row : Row} (ho : row.at 0 = 0x40) :
    fbit (mbxEnd s via tag r) 1 row = fbit s 1 row := (mbxEnd_sameRegs s via tag r).fbit (by omega) (by omega)

theorem tget_eraseSlot (s : State) (slot k : Nat) :
    tget (0xFF : Byte) (eraseSlot s slot).bdrk.slots k =
      if k / slotBytes = slot then 0xFF else tget (0xFF : Byte) s.bdrk.slots k := by
  refine (tget_filter_key (0xFF : Byte) s.bdrk.slots (fun q => decide (q / slotBytes ≠ slot)) k).trans ?_
  by_cases h : k / slotBytes = slot <;> simp [h]

theorem tget_foldl_program (t : Tbl Byte) (base : Nat) (l : List Byte) (n k : Nat) :
    tget (0xFF : Byte) ((List.range n).foldl (fun t i => tput (0xFF : Byte) t (base + i) (l.getD i 0)) t) k =
      if base ≤ k ∧ k < base + n then l.getD (k - base) 0 else tget (0xFF : Byte) t k := by
  induction n with
  | zero =>
    rw [if_neg (by omega)]
    rfl
  | succ n ih =>
    rw [List.range_succ, List.foldl_append, List.foldl_cons, List.foldl_nil]
    by_cases hk : k = base + n
    · rw [hk, tget_tput_self, if_pos (by omega), Nat.add_sub_cancel_left]
    · rw [tget_tput_ne _ _ _ _ _ _ hk, ih]
      by_cases hr : base ≤ k ∧ k < base + n
      · rw [if_pos hr, if_pos (by omega)]
      · rw [if_neg hr, if_neg (by omega)]

/-- The slots after a program: its bytes from its place on, the rest as before. -/
theorem tget_program (s : State) (slot off : Nat) (l : List Byte) (k : Nat) :
    tget (0xFF : Byte) (program s slot off l).bdrk.slots k =
      if slot * slotBytes + off ≤ k ∧ k < slot * slotBytes + off + l.length then l.getD (k - (slot * slotBytes + off)) 0
      else tget (0xFF : Byte) s.bdrk.slots k := tget_foldl_program _ _ _ _ _

/-- The bytes of UPD_DATA: from the data buffer, or from the message. -/
def updBytes (s : State) (via : MbxVia) (msg : List Byte) (len : Nat) : List Byte :=
  (List.range len).map fun i => if via = .pf then bufByte s i else msg.getD i 0

theorem getD_updBytes (s : State) (via : MbxVia) (msg : List Byte) {len i : Nat} (hi : i < len) :
    (updBytes s via msg len).getD i 0 = if via = .pf then bufByte s i else msg.getD i 0 := by
  simp [updBytes, hi]

section updWrite
variable {s : State} {via : MbxVia} {off len : Nat} {msg : List Byte}

theorem updWrite_out (h : len = 0 ∨ (if via = .pf then 12288 else 1024) < len ∨ slotBytes < off + len) :
    updWrite s via off len msg = mbxFree s := if_pos h

variable (h1 : 1 ≤ len) (h2 : len ≤ if via = .pf then 12288 else 1024) (h3 : off + len ≤ slotBytes)
include h1 h2 h3

theorem updWrite_slot {slot : Nat} (hslot : s.bdrk.slotOf = some slot) :
    updWrite s via off len msg = (program s slot off (updBytes s via msg len), 0) := by
  rw [updWrite, if_neg (by omega), hslot]
  rfl

theorem updWrite_none (hslot : s.bdrk.slotOf = none) :
    updWrite s via off len msg = (program (useFree s) (freeNat s % 2) off (updBytes s via msg len), 0) := by
  rw [updWrite, if_neg (by omega), hslot]
  rfl

end updWrite

/-! ### RESTART_BEDROCK -/

theorem bedrockStop_keep (s : State) : Keeps [.srcs, .tgts, .chip, .bdrk] s (bedrockStop s) :=
  bedrockStop_keeps (.refl _ s) rfl

/-- Bedrock stops: its firmware no longer runs, and its heartbeat has no kick. -/
theorem bedrockStop_chip (s : State) : (bedrockStop s).chip = { s.chip with fwRuns := false } ∧
    (bedrockStop s).bdrk = { s.bdrk with kick := none } := by
  have h := emptyTarget_keeps (t := 64)
    (.refl [.srcs, .tgts] (modTgt (modBdrk (setChip s ({ · with fwRuns := false })) ({ · with kick := none })) 64 ({ · with runs := false }))) rfl
  exact ⟨h.chip (by decide), h.bdrk (by decide)⟩

theorem pickSlot_bedrockStop (s : State) (a b : PackageCheck) : pickSlot (bedrockStop s) a b = pickSlot s a b := by
  have hregs := (bedrockStop_keep s).regs (by decide)
  obtain ⟨hchip, -⟩ := bedrockStop_chip s
  unfold pickSlot slotOrder validIn
  rw [fget_congr hregs, hchip]

theorem pickSlot_lt {s : State} {a b : PackageCheck} {slot v : Nat} {fb : Bool} (h : pickSlot s a b = some (slot, v, fb)) :
    slot < 2 := by
  have hfst : (slotOrder s a b).1.1 < 2 ∧ (slotOrder s a b).2.1 < 2 := by
    unfold slotOrder
    split
    · exact ⟨Nat.one_lt_two, Nat.two_pos⟩
    · exact ⟨Nat.two_pos, Nat.one_lt_two⟩
  unfold pickSlot at h
  dsimp only at h
  split at h
  · cases h
    exact hfst.1
  · cases h
    exact hfst.2
  · cases h

theorem fget_slot_runFirmware (s : State) {slot : Nat} (ver : Nat) (fb : Bool) (hs : slot < 2) :
    fget (runFirmware s slot ver fb) 0 F.CHIP_STATE_SLOT = slot := by
  let v := fsetb (fset s 0 F.CHIP_STATE_SLOT slot) 0 F.CHIP_STATE_SLOT_FALLBACK fb
  let w := fset (fset v 1 F.BDRK1_STATUS_AWAKE 1) 1 F.BDRK1_STATUS_ROM_ONLY 0
  have hregs : (runFirmware s slot ver fb).regs = w.regs := rfl
  have hsame : SameRegs v w fun p _ => p = 1 :=
    ((SameRegs.refl v fun p _ => p = 1).then_fset (r := F.BDRK1_STATUS_AWAKE) (by decide) rfl 1).then_fset
      (r := F.BDRK1_STATUS_ROM_ONLY) (by decide) rfl 0
  rw [fget_congr hregs, hsame.fget (by decide) (by decide)]
  simp (disch := decide) only [v, fsetb, fget_fset_apart, fget_fset_self]
  exact Nat.mod_eq_of_lt hs

theorem restartFirmware_keep (s : State) (a b : PackageCheck) : Keeps [.regs, .tgts, .chip] s (restartFirmware s a b) :=
  restartFirmware_keeps (.refl _ s) rfl

/-- Bedrock runs the slot that R308 picks, or stays in its ROM. -/
theorem restartFirmware_spec (s : State) (a b : PackageCheck) :
    match pickSlot s a b with
    | some (slot, v, _) => (restartFirmware s a b).chip.fwRuns = true ∧ (restartFirmware s a b).chip.fwVer = v ∧
        fget (restartFirmware s a b) 0 F.CHIP_STATE_SLOT = slot
    | none => (restartFirmware s a b).chip.fwRuns = s.chip.fwRuns ∧
        fbit (restartFirmware s a b) 1 F.BDRK1_STATUS_ROM_ONLY = true := by
  unfold restartFirmware
  cases h : pickSlot s a b with
  | none => exact ⟨rfl, fbit_fsetb_self s 1 F.BDRK1_STATUS_ROM_ONLY true 0 (by decide) (by decide)⟩
  | some p =>
    obtain ⟨slot, v, fb⟩ := p
    exact ⟨rfl, rfl, fget_slot_runFirmware s v fb (pickSlot_lt h)⟩

/-! ### QZ_UPDATE -/

theorem hostedOn_congr {s t : State} (hst : ∀ c, ctxState t c = ctxState s c) (hc : t.ctxs = s.ctxs) (q : Nat) :
    hostedOn t q = hostedOn s q := by
  simp only [hostedOn, hst, getCtx_congr hc]

/-- A QZ_UPDATE that has begun: BUSY where it came through the mailbox (R332). -/
def qzBegun (s : State) (via : MbxVia) (tag c : Nat) (check : PackageCheck) : State :=
  let s := modBdrk s ({ · with qz := some ⟨via, tag, c, check⟩ })
  if via = .pf then fset s 2 F.BDRK2_MBX_STAT_BUSY 1 else s

section qz
variable (s : State) (via : MbxVia) (tag c : Nat) (check : PackageCheck)

theorem startQz_eq : startQz s via tag c check = finishQz (qzBegun s via tag c check) := rfl

theorem qzBegun_bdrk : (qzBegun s via tag c check).bdrk = { s.bdrk with qz := some ⟨via, tag, c, check⟩ } := by
  unfold qzBegun
  dsimp only
  split <;> rfl

theorem qzBegun_busy (h : via = .pf) : fbit (qzBegun s via tag c check) 2 F.BDRK2_MBX_STAT_BUSY = true := by
  rw [qzBegun, if_pos h]
  exact fbit_fsetb_self (modBdrk s ({ · with qz := some ⟨via, tag, c, check⟩ })) 2 F.BDRK2_MBX_STAT_BUSY true 0 (by decide) (by decide)

theorem qzBegun_sameRegs : SameRegs s (qzBegun s via tag c check) fun p o => p = 2 ∧ o = 0x84 := by
  unfold qzBegun
  dsimp only
  split
  · exact (sameRegs_of_regs rfl).then_fset (r := F.BDRK2_MBX_STAT_BUSY) (by decide) ⟨rfl, rfl⟩ 1
  · exact sameRegs_of_regs rfl

theorem qzBegun_keeps : Keeps [.regs, .bdrk] s (qzBegun s via tag c check) := by
  unfold qzBegun
  dsimp only
  split
  · exact fset_keeps (modBdrk_keeps (.refl _ s) rfl) rfl
  · exact modBdrk_keeps (.refl _ s) rfl

theorem hostedOn_qzBegun (q : Nat) : hostedOn (qzBegun s via tag c check) q = hostedOn s q :=
  hostedOn_congr (fun j => (qzBegun_sameRegs s via tag c check).fget (by decide) fun h => by
      unfold ctxPage at h
      omega)
    ((qzBegun_keeps s via tag c check).ctxs (by decide)) q

theorem verdict_qzBegun : verdict (qzBegun s via tag c check) check = verdict s check := by
  have hchip : (qzBegun s via tag c check).chip = s.chip := (qzBegun_keeps s via tag c check).chip (by decide)
  unfold verdict
  rw [hchip]

end qz

theorem finishQz_hosting {s : State} {x : QzPend} (hx : s.bdrk.qz = some x) (h : hostedOn s x.cluster ≠ 0) :
    finishQz s = s := by
  unfold finishQz
  rw [hx]
  exact if_pos h

theorem finishQz_idle {s : State} {x : QzPend} (hx : s.bdrk.qz = some x) (h : hostedOn s x.cluster = 0) :
    ∃ v, v.bdrk.qz = none ∧ finishQz s = mbxEnd v x.via x.tag (verdict s x.check) := by
  have hcores : ∀ (u : State) (run : Bool), (setCores (modBdrk u ({ · with qz := none })) x.cluster run).bdrk.qz = none := by
    intro u run
    rw [(setCores_keeps (.refl [.srcs, .tgts] (modBdrk u ({ · with qz := none }))) rfl).bdrk (by decide)]
    rfl
  unfold finishQz
  rw [hx]
  dsimp only
  rw [if_neg (not_not.2 h)]
  exact ⟨_, hcores _ _, rfl⟩

/-! ### The agent's ring -/

theorem pollAgent_bdrk (s : State) (count : Nat) :
    (pollAgent s count).bdrk = { s.bdrk with agentCq := s.bdrk.agentCq.drop count } := by
  unfold pollAgent
  dsimp only
  generalize (s.bdrk.agentCq.take count).flatMap wordBytes = bytes
  have hfold : ∀ l : List Nat, (l.foldl (fun s i => setBufByte s i (bytes.getD i 0)) s).bdrk = s.bdrk := fun l =>
    (Keeps.foldl (.refl [.regs] s) fun _ _ h => setBufByte_keeps h rfl).bdrk (by decide)
  have hmod : ∀ v : State, v.bdrk = s.bdrk → (fset (modBdrk v fun b => { b with agentCq := b.agentCq.drop count }) 2
      F.BDRK2_MBX_RES_P0 (s.bdrk.agentCq.take count).length).bdrk =
        { s.bdrk with agentCq := s.bdrk.agentCq.drop count } := fun v hv => by
    rw [← hv]
    rfl
  exact hmod _ (hfold _)

theorem fget_res_pollAgent (s : State) {count : Nat} (hc : count ≤ 64) :
    fget (pollAgent s count) 2 F.BDRK2_MBX_RES_P0 = min count s.bdrk.agentCq.length := by
  unfold pollAgent
  dsimp only
  rw [fget_fset_self _ _ _ _ _ (by decide), List.length_take]
  exact Nat.mod_eq_of_lt (Nat.lt_of_le_of_lt (Nat.le_trans (Nat.min_le_left _ _) hc) (by decide))

/-- Settles O31: each command through `mbxRun` or `updRun`, clause by clause. -/
theorem mailboxCommands : Obligations.MailboxCommands := by
  intro via tag s hopen ans free
  have hans : ∀ (v : State) {r : Nat}, r < 7 → ans r (mbxEnd v via tag.toNat r) := fun v _ hr => answered_mbxEnd v via tag hr
  obtain ⟨n, hn⟩ := lockRenewed_eq s
  have hfree : ∀ (hf : free) (f : State → State × Nat), updRun s via tag.toNat f =
      mbxEnd (f { s with bdrk := { s.bdrk with lockAt := n } }).1 via tag.toNat
        (f { s with bdrk := { s.bdrk with lockAt := n } }).2 := fun hf f => by
    rw [updRun_free hopen hf, hn]
  let u : State := { s with bdrk := { s.bdrk with lockAt := n } }
  refine ⟨?begin, ?data, ?dataAnySlot, ?dataOut, ?flash, ?commit, ?abort, ?locked, ?restart, ?quartz, ?avs, ?agent, ?poll,
    ?badCmd⟩
  case begin =>
    intro slot size hf
    let v := eraseSlot (setLock u (some via)) slot.val
    have hb := mbxEnd_bdrk v via tag.toNat 0
    obtain ⟨hlock, hmctp⟩ := setLock_status u (some via)
    refine ⟨mbxEnd v via tag.toNat 0, congrArg Host.Outcome.next (hfree hf _), hans v (by decide), ?_, ?_, ?_,
      sameMem_of_mem (mbxEnd_mem ..), ?_, ?_, fun k => ?_⟩
    · rw [hb]
      rfl
    · rw [hb]
      rfl
    · rw [hb]
      rfl
    · exact (fbit_status_mbxEnd v via _ _ rfl).trans hlock
    · refine (fbit_status_mbxEnd v via _ _ rfl).trans (hmctp.trans ?_)
      cases via <;> rfl
    · rw [hb]
      exact tget_eraseSlot _ _ _
  case data =>
    intro off len msg slot hf hslot h1 h2 h3
    let v := program u slot off.toNat (updBytes u via msg len.toNat)
    have hlen : (updBytes u via msg len.toNat).length = len.toNat := by simp [updBytes]
    have hb := mbxEnd_bdrk v via tag.toNat 0
    have hwrite : updWrite u via off.toNat len.toNat msg = (v, 0) := updWrite_slot h1 h2 h3 hslot
    refine ⟨mbxEnd v via tag.toNat 0, congrArg Host.Outcome.next ((hfree hf _).trans ?_), hans v (by decide), ?_,
      sameMem_of_mem (mbxEnd_mem ..), fun i hi => ?_, fun k hk => ?_⟩
    · simp only [Bool.false_eq_true, if_false]
      rw [hwrite]
    · rw [hb]
      rfl
    · rw [hb, tget_program, if_pos (by omega), Nat.add_sub_cancel_left]
      exact getD_updBytes u via msg hi
    · have hout : ¬(slot * slotBytes + off.toNat ≤ k ∧
          k < slot * slotBytes + off.toNat + (updBytes u via msg len.toNat).length) := fun h =>
        hk (k - (slot * slotBytes + off.toNat)) (by omega) (by omega)
      rw [hb, tget_program, if_neg hout]
  case dataAnySlot =>
    intro off len msg hf hslot h1 h2 h3
    have hwrite := updWrite_none (s := u) (msg := msg) h1 h2 h3 hslot
    refine ⟨_, congrArg Host.Outcome.next (hfree hf _), ?_, ?_⟩
    · simp only [Bool.false_eq_true, if_false]
      rw [hwrite]
      exact hans _ (by decide)
    · simp only [Bool.false_eq_true, if_false]
      rw [hwrite]
      exact sameMem_of_mem (mbxEnd_mem ..)
  case dataOut =>
    intro off len msg hf hout
    have hwrite := updWrite_out (s := u) (msg := msg) hout
    refine ⟨_, congrArg Host.Outcome.next (hfree hf _), ?_, ?_⟩
    · simp only [Bool.false_eq_true, if_false]
      rw [hwrite]
      exact ⟨_, Nat.mod_lt _ (by decide), hans _ (Nat.mod_lt _ (by decide))⟩
    · simp only [Bool.false_eq_true, if_false]
      rw [hwrite, mbxEnd_bdrk]
      rfl
  case flash =>
    intro slot size off len msg hf
    exact ⟨⟨_, congrArg Host.Outcome.next (hfree hf _), hans _ (by decide)⟩,
      ⟨_, congrArg Host.Outcome.next (hfree hf _), hans _ (by decide)⟩⟩
  case commit =>
    intro check hf
    let v := setLock u none
    have hb := mbxEnd_bdrk v via tag.toNat (verdict s check)
    refine ⟨mbxEnd v via tag.toNat (verdict s check), congrArg Host.Outcome.next (hfree hf _), hans v (verdict_lt s check),
      ?_, ?_, ?_⟩
    · rw [hb]
      rfl
    · exact (fbit_status_mbxEnd v via _ _ rfl).trans (setLock_status u none).1
    · rw [hb]
      rfl
  case abort =>
    intro hf
    let v := setLock u none
    have hb := mbxEnd_bdrk v via tag.toNat 0
    refine ⟨mbxEnd v via tag.toNat 0, congrArg Host.Outcome.next (hfree hf _), hans v (by decide), ?_, ?_⟩
    · rw [hb]
      rfl
    · rw [hb]
      rfl
  case locked =>
    intro other hl hne slot size off len msg check fails c hc
    have hrun : exec c s = .next (mbxEnd s via tag.toNat 2) := by
      simp only [List.mem_cons, List.not_mem_nil, or_false] at hc
      rcases hc with rfl | rfl | rfl | rfl
      all_goals exact congrArg Host.Outcome.next (updRun_locked hopen hl hne _ _)
    exact ⟨_, hrun, hans s (by decide), mbxEnd_bdrk .., sameMem_of_mem (mbxEnd_mem ..)⟩
  case restart =>
    intro a b
    let v := restartFirmware (bedrockStop s) a b
    have hrun : exec (.restartBedrock via tag a b) s = .next (mbxEnd v via tag.toNat 0) :=
      congrArg Host.Outcome.next (mbxRun_open hopen _ _ _)
    have hkeep := restartFirmware_keep (bedrockStop s) a b
    obtain ⟨hchip, hbdrk⟩ := bedrockStop_chip s
    have hspec := restartFirmware_spec (bedrockStop s) a b
    refine ⟨_, hrun, hans v (by decide), sameMem_of_mem ?_, ?_, ?_⟩
    · rw [mbxEnd_mem, hkeep.mem (by decide), (bedrockStop_keep s).mem (by decide)]
    · rw [mbxEnd_bdrk, hkeep.bdrk (by decide), hbdrk]
    · rw [pickSlot_bedrockStop] at hspec
      have hend := mbxEnd_sameRegs v via tag.toNat 0
      rw [mbxEnd_chip, hend.fget (by decide) (by decide), hend.fbit (by decide) (by decide)]
      split
      · next h => simpa only [h] using hspec
      · next h => simpa only [h, hchip] using hspec
  case quartz =>
    intro cl slot check
    let w := qzBegun s via tag.toNat cl check
    have hqz : w.bdrk.qz = some ⟨via, tag.toNat, cl, check⟩ := congrArg Bdrk.qz (qzBegun_bdrk ..)
    have hbegins : clusterUp s (1 - cl) = true → s.bdrk.qz = none →
        exec (.qzUpdate via tag cl slot check) s = .next (finishQz w) := fun hup hnone => by
      have hbusy : (!(via == .pf && fbit s 2 F.BDRK2_MBX_STAT_BUSY)) = true := by
        cases via with
        | pf => simp [hopen.2 rfl]
        | mctp => rfl
      exact if_pos ⟨hopen.1, hup, hnone, hbusy⟩
    refine ⟨fun hup hnone h0 => ?idle, fun hup hnone h0 => ?hosting, fun hdown => ?down⟩
    case idle =>
      obtain ⟨v, hv, hfin⟩ := finishQz_idle hqz ((hostedOn_qzBegun ..).trans h0)
      have hverdict : verdict w check = verdict s check := verdict_qzBegun ..
      rw [hverdict] at hfin
      refine ⟨_, (hbegins hup hnone).trans (congrArg _ hfin), hans v (verdict_lt s check), ?_⟩
      rw [mbxEnd_bdrk, hv]
    case hosting =>
      have hfin := finishQz_hosting hqz (by rwa [hostedOn_qzBegun])
      refine ⟨w, (hbegins hup hnone).trans (congrArg _ hfin), hqz, ?_, qzBegun_busy s via _ _ _⟩
      simp [clusterUp, hqz]
    case down =>
      have hrun : exec (.qzUpdate via tag cl slot check) s = .next (mbxEnd s via tag.toNat 6) := by
        refine (if_neg fun h => by simp [hdown] at h).trans (congrArg Host.Outcome.next ?_)
        rw [mbxRun_open hopen, hdown]
        rfl
      exact ⟨_, hrun, hans s (by decide), mbxEnd_bdrk ..⟩
  case avs =>
    have hend := mbxEnd_sameRegs (ackAvs s) via tag.toNat 0
    have hrun : exec (.avsAck via tag) s = .next (mbxEnd (ackAvs s) via tag.toNat 0) :=
      congrArg Host.Outcome.next (mbxRun_open hopen _ _ _)
    refine ⟨_, hrun, hans _ (by decide), ?_, mbxEnd_bdrk ..⟩
    rw [hend.fbit (by decide) (by decide)]
    exact fbit_fsetb_self s 0x10 F.PWR_AVS_ACK true 0 (by decide) (by decide)
  case agent =>
    exact fun msg => ⟨_, congrArg Host.Outcome.next (mbxRun_open hopen _ _ _), hans _ (by decide), mbxEnd_bdrk ..⟩
  case poll =>
    intro count
    refine ⟨fun h1 h2 => ?copies, fun hout => ?nothing⟩
    case copies =>
      let v := pollAgent s count.toNat
      have hend := mbxEnd_sameRegs v via tag.toNat 0
      have hrun : exec (.agentPoll via tag count) s = .next (mbxEnd v via tag.toNat 0) := by
        refine congrArg Host.Outcome.next ((mbxRun_open hopen _ _ _).trans ?_)
        rw [if_neg (by omega)]
        rfl
      refine ⟨_, hrun, hans v (by decide), ?_, (mbxEnd_bdrk ..).trans (pollAgent_bdrk s _)⟩
      rw [hend.fget (by decide) (by decide)]
      exact fget_res_pollAgent s h2
    case nothing =>
      have hrun : exec (.agentPoll via tag count) s = .next (mbxEnd (useFree s) via tag.toNat (freeNat s % 7)) := by
        refine congrArg Host.Outcome.next ((mbxRun_open hopen _ _ _).trans ?_)
        rw [if_pos hout]
        rfl
      exact ⟨_, hrun, ⟨_, Nat.mod_lt _ (by decide), hans _ (Nat.mod_lt _ (by decide))⟩, mbxEnd_bdrk ..⟩
  case badCmd =>
    exact ⟨_, congrArg Host.Outcome.next (mbxRun_open hopen _ _ _), hans s (by decide), mbxEnd_bdrk ..⟩

end Sys2Proof.Machine
end

section
/-! PROOFS. What dropping a context's jobs leaves of the contexts: their registers and all but the segments of pictures that
wait for a search record (R99, R101, R175). -/

namespace Sys2Proof.Machine

/-- A page that is no context's. -/
def elsewhere (p _o : Nat) : Prop := p < 0x400 ∨ 0x500 ≤ p

theorem not_elsewhere {c o : Nat} (hc : c < 256) : ¬elsewhere (ctxPage c) o := by
  unfold elsewhere ctxPage
  omega

/-- Contexts keep what they hold, but for what stands in their pictures; none gets a picture. -/
def PicsOnly (s t : State) : Prop :=
  ∀ j, ∃ l, getCtx t j = { getCtx s j with pics := l } ∧ ((getCtx s j).pics = [] → l = [])

theorem PicsOnly.of_ctxs {s t : State} (h : t.ctxs = s.ctxs) : PicsOnly s t := fun j =>
  ⟨(getCtx s j).pics, getCtx_congr h j, id⟩

theorem PicsOnly.trans {s t u : State} (h : PicsOnly s t) (k : PicsOnly t u) : PicsOnly s u := fun j => by
  obtain ⟨l, hl, hn⟩ := h j
  obtain ⟨m, hm, hk⟩ := k j
  refine ⟨m, by rw [hm, hl], fun e => hk ?_⟩
  rw [hl]
  exact hn e

theorem PicsOnly.foldl {α : Type} {s : State} {f : State → α → State} {l : List α} (h : ∀ t x, PicsOnly t (f t x)) :
    PicsOnly s (l.foldl f s) :=
  List.foldlRecOn (motive := fun t => PicsOnly s t) l f (.of_ctxs rfl) fun t ht x _ => ht.trans (h t x)

/-- What work on units changes: registers of other pages, and segments of pictures. -/
structure Aside (s t : State) : Prop where
  regs : SameRegs s t elsewhere
  ctxs : PicsOnly s t

theorem Aside.refl (s : State) : Aside s s := ⟨.refl _ _, .of_ctxs rfl⟩

theorem Aside.trans {s t u : State} (h : Aside s t) (k : Aside t u) : Aside s u :=
  ⟨h.regs.trans k.regs, h.ctxs.trans k.ctxs⟩

theorem Aside.of_regs {s t : State} (hr : SameRegs s t elsewhere) (hc : t.ctxs = s.ctxs) : Aside s t := ⟨hr, .of_ctxs hc⟩

theorem Aside.of_eq {s t : State} (hr : t.regs = s.regs) (hc : t.ctxs = s.ctxs) : Aside s t :=
  .of_regs (sameRegs_of_regs hr) hc

theorem Aside.foldl {α : Type} {s : State} {f : State → α → State} {l : List α} (h : ∀ t, ∀ x ∈ l, Aside t (f t x)) :
    Aside s (l.foldl f s) :=
  List.foldlRecOn (motive := fun t => Aside s t) l f (.refl _) fun t ht x hx => ht.trans (h t x hx)

theorem Aside.then_fset {s t : State} (h : Aside s t) {p : Nat} {r : Row} {i : Nat} (hp : p < 0x400) (ho : r.at i < 4096)
    (v : Nat) : Aside s (fset t p r v i) := h.trans (.of_regs ((SameRegs.refl _ _).then_fset ho (.inl hp) v) rfl)

theorem Aside.then_setIrq {s t : State} (h : Aside s t) {p : Nat} (hp : p < 0x400) (m : Nat) : Aside s (setIrq t p m) :=
  h.trans (.of_regs ((SameRegs.refl _ _).then_setIrq (.inl hp) m)
    ((setIrq_keeps (.refl [.regs, .srcs] t) rfl).ctxs (by decide)))

theorem Aside.ite {s t u : State} {p : Prop} [Decidable p] (ht : Aside s t) (hu : Aside s u) :
    Aside s (if p then t else u) := by
  split
  · exact ht
  · exact hu

/-! ### Engines and PPUs -/

theorem syncFallback_aside (s : State) {page : Nat} (hp : page < 0x400) (fb : Bool) : Aside s (syncFallback s page fb) :=
  .ite (.refl s) ((Aside.refl s).then_fset hp (by decide) _ |>.then_setIrq hp _)

theorem syncUnit_aside (s : State) {page : Nat} (hp : page < 0x400) : Aside s (syncUnit s page) := by
  unfold syncUnit
  dsimp only
  split
  · exact ((((Aside.refl s).then_fset hp (by decide) _).then_fset hp (by decide) _).then_fset hp (by decide) _).trans
      (syncFallback_aside _ hp _)
  · exact ((((Aside.refl s).then_fset hp (by decide) _).then_fset hp (by decide) _).then_fset hp (by decide) _).then_fset hp
      (by decide) _
  · exact ((Aside.refl s).then_fset hp (by decide) _).then_fset hp (by decide) _
  · exact .refl s

theorem setHeld_aside (s : State) {page : Nat} (hp : page < 0x400) (h : List Held) : Aside s (setHeld s page h) :=
  have hheld : Aside s (noteUse (modEng s page ({ · with held := h })) (domainOf page)) := .of_eq rfl rfl
  hheld.trans (syncUnit_aside _ hp)

theorem accrueOn_aside (s : State) (page : Nat) : Aside s (accrueOn s page) :=
  have h := accrueOn_keeps (page := page) (.refl [.free, .perf] s) rfl
  .of_eq (h.regs (by decide)) (h.ctxs (by decide))

theorem settleItems_aside (s : State) (p : Job → Bool) (good : Bool) : Aside s (settleItems s p good) :=
  have h := settleItems_keeps (p := p) (good := good) (.refl [.perf] s) rfl
  .of_eq (h.regs (by decide)) (h.ctxs (by decide))

/-! ### Banks -/

/-- The segments of a picture that wait for a record are coded without one. -/
theorem noBankFallback_aside (s : State) : Aside s (noBankFallback s) := by
  unfold noBankFallback
  split
  · exact .refl s
  · refine .foldl fun t c _ => ⟨sameRegs_of_regs rfl, fun j => ?_⟩
    rw [getCtx_modCtx_cases]
    split
    · next h =>
      subst h
      exact ⟨_, rfl, fun e => by rw [e]; rfl⟩
    · exact ⟨_, rfl, id⟩

theorem requestWake_aside (s : State) (d : Nat) : Aside s (requestWake s d) :=
  have h := requestWake_keeps (d := d) (.refl [.doms] s) rfl
  .of_eq (h.regs (by decide)) (h.ctxs (by decide))

theorem modBank_aside (s : State) (b : Nat) (f : Bank → Bank) : Aside s (modBank s b f) := .of_eq rfl rfl

section bank
variable {b : Nat} (hb : b < 4)
include hb

theorem micaPage_lt : micaPage b < 0x400 := by
  unfold micaPage
  omega

theorem syncBank_aside (s : State) : Aside s (syncBank s b) :=
  have hp := micaPage_lt hb
  (((Aside.refl s).then_fset hp (by decide) _).then_fset hp (by decide) _).then_fset hp (by decide) _

theorem setBank_aside (s : State) (st code : Nat) : Aside s (setBank s b st code) := by
  have hp := micaPage_lt hb
  have hsync : Aside s (syncBank (fset (fset (fsetb s (micaPage b) F.HDR_BLK_READY_IN_SERVICE (st == 2 || st == 3)) (micaPage b)
      F.HDR_BLK_READY_STATE code) (micaPage b) F.MICA_STATUS_STATE st) b) :=
    ((((Aside.refl s).then_fset hp (by decide) _).then_fset hp (by decide) _).then_fset hp (by decide) _).trans
      (syncBank_aside hb _)
  have hirq : ∀ (p : Prop) [Decidable p] (t : State), Aside s t → Aside s (if p then setIrq t (micaPage b) 8 else t) :=
    fun p _ t h => .ite (h.then_setIrq hp 8) h
  have hservice : ∀ (p q : Prop) [Decidable p] [Decidable q] (t : State), Aside s t →
      Aside s (if p then noBankFallback (unitRetired t) else if q then unitAdmitted t else t) := fun p q _ _ t h =>
    .ite ((h.then_setIrq (by decide) _).trans (noBankFallback_aside _)) (.ite (h.then_setIrq (by decide) _) h)
  exact hservice _ _ _ (hirq _ _ hsync)

theorem bankDrained_aside (s : State) : Aside s (bankDrained s b) := by
  have hp := micaPage_lt hb
  unfold bankDrained
  dsimp only
  split
  · exact .refl s
  · split
    · exact (((modBank_aside s b _).then_fset hp (by decide) 0).trans (requestWake_aside _ _)).trans (setBank_aside hb _ _ _)
    · split
      · exact (modBank_aside s b _).trans (setBank_aside hb _ _ _)
      · exact .refl s

theorem setJobs_aside (s : State) (jobs : List SegId) : Aside s (setJobs s b jobs) := by
  have hnote : Aside s (noteUse (modBank s b fun x => { x with
      jobs := jobs, work := x.work.filter fun w => jobs.contains w.seg }) (37 + b)) := .of_eq rfl rfl
  exact hnote.then_fset (r := F.MICA_STATUS_JOBS) (micaPage_lt hb) (by decide) jobs.length

theorem takeJobs_aside (s : State) (keep : List SegId) : Aside s (takeJobs s b keep) :=
  (setJobs_aside hb s keep).trans (bankDrained_aside hb _)

end bank

/-- The jobs of a context leave the units. -/
theorem dropJobs_aside (s : State) (c : Nat) : Aside s (dropJobs s c) := by
  have hpages : ∀ p ∈ eePages ++ dePages ++ ppuPages, p < 0x400 := by decide
  unfold dropJobs
  refine ((Aside.foldl fun t p hp => ?unit).trans (settleItems_aside _ _ _)).trans (Aside.foldl fun t b hb => ?bank)
  case unit => exact .ite (.refl t) ((accrueOn_aside t p).trans (setHeld_aside _ (hpages p hp) _))
  case bank => exact .ite (.refl t) (takeJobs_aside (List.mem_range.1 hb) t _)

end Sys2Proof.Machine
end

section
/-! PROOFS. Contexts without work: what a drain, a discard and the return to FREE do to them and to the others (R47, R48,
R55). -/

namespace Sys2Proof.Machine

/-! ### Contexts without work -/

/-- A context holds no work and no command that waits, but perhaps a FLUSH or a CLOSE. -/
structure Still (x : Ctx) : Prop where
  submits : x.submits = []
  queued : x.queued = []
  plan : x.plan = []
  pics : x.pics = []
  decs : x.decs = []
  linkPics : x.linkPics = []
  forced : x.forced = []
  reconf : x.reconf = none
  setRate : x.setRate = none
  oldMem : x.oldMem = []

/-- Nor a FLUSH or a CLOSE. -/
structure Rest (x : Ctx) : Prop extends Still x where
  flush : x.flush = none
  close : x.close = []

theorem idle_iff {s : State} {c : Nat} : Idle s c ↔ Rest (getCtx s c) ∧ linkDsts s c = [] := by
  constructor
  · rintro ⟨h1, h2, h3, h4, h5, h6, h7, h8, h9, h10, h11, h12, h13⟩
    exact ⟨⟨⟨h1, h2, h3, h4, h5, h6, h7, h8, h9, h12⟩, h10, h11⟩, h13⟩
  · rintro ⟨⟨⟨h1, h2, h3, h4, h5, h6, h7, h8, h9, h12⟩, h10, h11⟩, h13⟩
    exact ⟨h1, h2, h3, h4, h5, h6, h7, h8, h9, h10, h11, h12, h13⟩

theorem rest_ctx0 : Rest ctx0 := ⟨⟨rfl, rfl, rfl, rfl, rfl, rfl, rfl, rfl, rfl, rfl⟩, rfl, rfl⟩

theorem linkDsts_nil {s : State} {c : Nat} : linkDsts s c = [] ↔ ∀ i < 8, linkDst s c i = none := by
  simp [linkDsts]

theorem linkDsts_congr {s t : State} (h : t.regs = s.regs) (c : Nat) : linkDsts t c = linkDsts s c := by
  simp only [linkDsts, show linkDst t c = linkDst s c from funext (linkDst_congr h c)]

theorem SameRegs.linkDsts_nil {s t : State} {hit : Nat → Nat → Prop} (h : SameRegs s t hit) {c : Nat}
    (hn : ∀ o, 0x220 ≤ o → o ≤ 0x228 → ¬hit (ctxPage c) o) (hl : linkDsts s c = []) : linkDsts t c = [] := by
  rw [Machine.linkDsts_nil] at hl ⊢
  exact fun i hi => (h.linkDst hi hn).trans (hl i hi)

/-! ### One context changes -/

/-- What a context holds changes, and nothing else. -/
structure OnlyCtx (c : Nat) (s t : State) : Prop where
  rest : t = { s with ctxs := t.ctxs }
  others : ∀ j, j ≠ c → getCtx t j = getCtx s j

theorem OnlyCtx.refl (c : Nat) (s : State) : OnlyCtx c s s := ⟨rfl, fun _ _ => rfl⟩

theorem OnlyCtx.modCtx {c : Nat} {s t : State} (h : OnlyCtx c s t) (f : Ctx → Ctx) : OnlyCtx c s (modCtx t c f) :=
  ⟨by rw [h.rest]; rfl, fun j hj => (getCtx_modCtx_ne t c j f hj).trans (h.others j hj)⟩

section onlyCtx
variable {c : Nat} {s t : State} (h : OnlyCtx c s t)
include h

theorem OnlyCtx.regs : t.regs = s.regs := by rw [h.rest]

theorem OnlyCtx.mem : t.mem = s.mem := by rw [h.rest]

theorem OnlyCtx.rings : t.rings = s.rings := by rw [h.rest]

theorem OnlyCtx.funcs : t.funcs = s.funcs := by rw [h.rest]

theorem OnlyCtx.devtime : t.devtime = s.devtime := by rw [h.rest]

theorem OnlyCtx.trans {u : State} (k : OnlyCtx c t u) : OnlyCtx c s u :=
  ⟨by rw [k.rest, h.rest], fun j hj => (k.others j hj).trans (h.others j hj)⟩

theorem OnlyCtx.ctxState (j : Nat) : ctxState t j = ctxState s j := fget_congr h.regs _ _ _

theorem OnlyCtx.linkDsts (j : Nat) : linkDsts t j = linkDsts s j := linkDsts_congr h.regs j

end onlyCtx

/-! ### Commands that do not wait -/

theorem flushSubmits_nil {s : State} {c : Nat} (h : (getCtx s c).submits = []) :
    flushSubmits s c = modCtx s c fun x => { x with submits := x.submits.dropWhile (·.done.isSome) } := by
  rw [flushSubmits, h]
  rfl

theorem failSubmits_nil {s : State} {c : Nat} (h : (getCtx s c).submits = []) (st : Nat) : ∃ f g,
    failSubmits s c st = modCtx (modCtx s c f) c g ∧ g (f (getCtx s c)) = getCtx s c := by
  refine ⟨_, _, flushSubmits_nil (by rw [getCtx_modCtx, h]; rfl), ?_⟩
  dsimp only
  rw [h]
  simp only [List.map_nil, List.dropWhile_nil]
  rw [← h]

theorem abortKeys_nil {s : State} {c : Nat} (h : (getCtx s c).forced = []) :
    abortKeys s c = modCtx s c ({ · with forced := [] }) := by
  rw [abortKeys, h]
  rfl

theorem applyReconf_none {s : State} {c : Nat} (h : (getCtx s c).reconf = none) : applyReconf s c = s := by
  unfold applyReconf
  dsimp only
  rw [h]

theorem applyRate_none {s : State} {c : Nat} (h : (getCtx s c).setRate = none) (i0 i1 : Nat) : applyRate s c i0 i1 = s := by
  unfold applyRate
  rw [h]

theorem dropOldMem_nil {s : State} {c : Nat} (h : (getCtx s c).oldMem = []) : dropOldMem s c = s :=
  if_neg fun k => k.1 h

theorem refDone_ok (s : State) (c : Nat) {ref : CmdRef} (h : ref.op ≠ 0) (i0 i1 i2 : Nat) (after : Option Turn) :
    refDone s c ref 0 i0 i1 i2 after = cmdDone s ref 0 i0 i1 i2 after := if_neg h

theorem sourceEnd_none {s : State} {c : Nat} (h : linkDsts s c = []) (quiet : Bool) : sourceEnd s c quiet = s := by
  rw [sourceEnd, h]
  rfl

end Sys2Proof.Machine
end

section
namespace Sys2Proof.Machine

/-! ### Drains -/

theorem settleCtx_noPics {s : State} {c : Nat} (hp : (getCtx s c).pics = []) (ho : (getCtx s c).oldMem = []) :
    settleCtx s c = checkDrain s c := by
  rw [settleCtx, hp]
  change retirePics s c = checkDrain s c
  unfold retirePics
  dsimp only
  rw [hp, List.filter_nil, if_pos rfl, dropOldMem_nil ho]

/-- The end of what no SUBMIT waits for. -/
theorem subsDone_nil {s : State} {c : Nat} (h : (getCtx s c).submits = []) : subsDone s c = s := by
  rw [subsDone, subsEnd, h]
  rfl

theorem subsKeep_nil {s : State} {c : Nat} (h : (getCtx s c).submits = []) : subsKeep s c = s := by
  rw [subsKeep, subsEnd, h]
  rfl

theorem showsReady_nil {s : State} {c : Nat} (h : (getCtx s c).decs = []) : showsReady s c = s := by
  rw [showsReady, h]
  rfl

theorem fieldsReady_nil {s : State} {c : Nat} (h : (getCtx s c).decs = []) : fieldsReady s c = s := by
  rw [fieldsReady, h]
  rfl

/-- A decode context without pictures and SUBMITs has nothing to settle but its references. -/
theorem settleDec_nil {s : State} {c : Nat} (hd : (getCtx s c).decs = []) (hs : (getCtx s c).submits = [])
    (ho : (getCtx s c).oldMem = []) :
    ∃ w r m, settleDec s c = checkDrain w c ∧ OnlyCtx c s w ∧ getCtx w c = { getCtx s c with decRefs := r, marred := m } := by
  have hout : outputPics ((getCtx s c).decs.length) s c = s := by rw [hd]; rfl
  let v := endHidden s c
  have hv : OnlyCtx c s v := (OnlyCtx.refl c s).modCtx _
  have hvx : getCtx v c = getCtx s c := by
    change getCtx (modCtx s c _) c = _
    rw [getCtx_modCtx, hd, List.map_nil, ← hd]
  have hw : OnlyCtx c s (dropDecs v c) := hv.modCtx _
  refine ⟨dropDecs v c, (getCtx (dropDecs v c) c).decRefs, (getCtx (dropDecs v c) c).marred, ?_, hw, ?_⟩
  · have hold : (getCtx (dropDecs v c) c).oldMem = [] := by
      rw [dropDecs, getCtx_modCtx]
      exact (congrArg Ctx.oldMem hvx).trans ho
    unfold settleDec
    dsimp only
    rw [showsReady_nil hd, fieldsReady_nil hd, hout, subsDone_nil ((congrArg Ctx.submits hvx).trans hs), dropOldMem_nil hold]
  · rw [dropDecs, getCtx_modCtx, hvx]
    dsimp only
    rw [hd, List.filter_nil, ← hd]

/-- A context without work settles: only the end of its drain is left. -/
theorem settle_still {s : State} {c : Nat} (h : Still (getCtx s c)) :
    ∃ w r m, settle s c = checkDrain w c ∧ OnlyCtx c s w ∧ getCtx w c = { getCtx s c with decRefs := r, marred := m } := by
  unfold settle
  split
  · exact ⟨s, _, _, settleCtx_noPics h.pics h.oldMem, .refl c s, rfl⟩
  · exact settleDec_nil h.decs h.submits h.oldMem

theorem Still.of_eq {x y : Ctx} {r : List DecRef} {m : List Nat} (h : Still x) (e : y = { x with decRefs := r, marred := m }) :
    Still y := by
  obtain ⟨h1, h2, h3, h4, h5, h6, h7, h8, h9, h10⟩ := h
  rw [e]
  exact ⟨h1, h2, h3, h4, h5, h6, h7, h8, h9, h10⟩

theorem drained_of_still {s : State} {c : Nat} (h : Still (getCtx s c)) (hw : (getCtx s c).outWait = []) :
    drained s c = true := by
  simp [drained, h.submits, h.queued, h.plan, h.linkPics, h.pics, h.decs, hw]

theorem checkDrain_still {s : State} {c : Nat} (h : Still (getCtx s c)) (hw : (getCtx s c).outWait = [])
    (hst : ctxState s c = 4) : checkDrain s c = endOfDrain s c := if_pos ⟨hst, drained_of_still h hw⟩

/-- A context with pictures to code goes on draining. -/
theorem checkDrain_queued {s : State} {c : Nat} (h : (getCtx s c).queued ≠ []) : checkDrain s c = s := by
  refine if_neg fun k => h ?_
  have hd := k.2
  simp only [drained, Bool.and_eq_true, beq_iff_eq] at hd
  exact hd.1.1.1.1.2

/-- The end of a drain under a FLUSH (R47): the FLUSH completes and the context is READY. -/
theorem endOfDrain_flush {s : State} {c : Nat} {ref : CmdRef} {n : Nat} (h : Still (getCtx s c))
    (hf : (getCtx s c).flush = some (ref, n)) (hc : (getCtx s c).close = []) (hl : linkDsts s c = []) (hop : ref.op ≠ 0) :
    ∃ w, OnlyCtx c s w ∧ ∃ f, endOfDrain s c =
      setCtxState (modCtx (cmdDone w ref 0 ((fget s (ctxPage c) F.CTX_CNT_OUT_COUNT + 2 ^ 32 - n) % 2 ^ 32) 0 0) c f) c 2 := by
  generalize hk : (fget s (ctxPage c) F.CTX_CNT_OUT_COUNT + 2 ^ 32 - n) % 2 ^ 32 = k
  let w := modCtx (modCtx s c ({ · with forced := [] })) c ({ · with flush := none })
  let z := modCtx (cmdDone w ref 0 k 0 0) c clearStream
  have hold : (getCtx z c).oldMem = [] := by
    have hz : getCtx z c = clearStream (getCtx w c) := getCtx_modCtx (cmdDone w ref 0 k 0 0) c clearStream
    have hw : getCtx w c = { getCtx s c with forced := [], flush := none } := by
      rw [getCtx_modCtx, getCtx_modCtx]
    rw [hz, hw]
    exact h.oldMem
  have hw : OnlyCtx c s w := ((OnlyCtx.refl c s).modCtx _).modCtx _
  have hregs : z.regs = s.regs := (cmdDone_regs w ref 0 k 0 0 none).trans hw.regs
  have hend : linkDsts (setCtxState z c 2) c = [] :=
    (setCtxState_sameRegs z c 2).linkDsts_nil (fun o _ _ e => by omega) ((linkDsts_congr hregs c).trans hl)
  refine ⟨w, hw, clearStream, ?_⟩
  unfold endOfDrain
  dsimp only
  rw [hf, hc]
  dsimp only
  rw [hk, if_pos rfl, if_pos rfl, if_pos rfl, applyReconf_none h.reconf, applyRate_none h.setRate, abortKeys_nil h.forced]
  change sourceEnd (setCtxState (dropOldMem (modCtx (refDone w c ref 0 k 0 0) c clearStream) c) c 2) c = _
  rw [refDone_ok w c hop, dropOldMem_nil hold, sourceEnd_none hend]

/-- The end of a drain under one CLOSE alone (R48): it completes, and the context is FREE. -/
theorem endOfDrain_close {s : State} {c : Nat} {ref : CmdRef} (h : Still (getCtx s c)) (hf : (getCtx s c).flush = none)
    (hc : (getCtx s c).close = [ref]) (hop : ref.op ≠ 0) :
    endOfDrain s c = freeCtx (cmdDone (modCtx s c ({ · with forced := [] })) ref 0) c := by
  unfold endOfDrain
  dsimp only
  rw [hf, hc]
  dsimp only
  rw [if_neg (by simp), abortReconf_none h.reconf, abortRate_none h.setRate, abortKeys_nil h.forced]
  change freeCtx (refDone (modCtx s c ({ · with forced := [] })) c ref 0 0 0 0) c = _
  rw [refDone_ok _ c hop]

end Sys2Proof.Machine
end

section
namespace Sys2Proof.Machine

/-! ### What the others keep while a context leaves -/

/-- A context stays without work, without outputs that wait, and as new. -/
structure Eases (x y : Ctx) : Prop where
  rest : Rest x → Rest y
  outWait : x.outWait = [] → y.outWait = []
  fresh : x = ctx0 → y = ctx0

theorem Eases.refl (x : Ctx) : Eases x x := ⟨id, id, id⟩

theorem Eases.of_eq {x y : Ctx} (h : y = x) : Eases x y := h ▸ .refl x

theorem Eases.trans {x y z : Ctx} (h : Eases x y) (k : Eases y z) : Eases x z :=
  ⟨k.rest ∘ h.rest, k.outWait ∘ h.outWait, k.fresh ∘ h.fresh⟩

theorem Eases.new (x : Ctx) : Eases x ctx0 := ⟨fun _ => rest_ctx0, fun _ => rfl, fun _ => rfl⟩

theorem Eases.pics {x : Ctx} {l : List Pic} (h : x.pics = [] → l = []) : Eases x { x with pics := l } where
  rest := fun ⟨⟨h1, h2, h3, h4, h5, h6, h7, h8, h9, h10⟩, h11, h12⟩ =>
    ⟨⟨h1, h2, h3, h h4, h5, h6, h7, h8, h9, h10⟩, h11, h12⟩
  outWait := id
  fresh := fun e => by
    subst e
    rw [h rfl]
    rfl

theorem Eases.link (x : Ctx) : Eases x { x with linkOn := false, linkOld := [] } where
  rest := fun ⟨⟨h1, h2, h3, h4, h5, h6, h7, h8, h9, h10⟩, h11, h12⟩ =>
    ⟨⟨h1, h2, h3, h4, h5, h6, h7, h8, h9, h10⟩, h11, h12⟩
  outWait := id
  fresh := fun e => by
    subst e
    rfl

theorem Eases.ppJobs (x : Ctx) : Eases x { x with ppJobs := [] } where
  rest := fun ⟨⟨h1, h2, h3, h4, h5, h6, h7, h8, h9, h10⟩, h11, h12⟩ =>
    ⟨⟨h1, h2, h3, h4, h5, h6, h7, h8, h9, h10⟩, h11, h12⟩
  outWait := id
  fresh := fun e => by
    subst e
    rfl

/-- Contexts keep CTX.STATE, but for those of `ex`; no destination is linked; none gets work. -/
structure Spares (ex : Nat → Prop) (s t : State) : Prop where
  state : ∀ j < 256, ¬ex j → rget t (ctxPage j) 0x200 = rget s (ctxPage j) 0x200
  links : ∀ j < 256, linkDsts s j = [] → linkDsts t j = []
  ctx : ∀ j, Eases (getCtx s j) (getCtx t j)

namespace Spares
variable {ex : Nat → Prop} {s t u : State}

theorem trans (h : Spares ex s t) (k : Spares ex t u) : Spares ex s u where
  state := fun j hj hn => (k.state j hj hn).trans (h.state j hj hn)
  links := fun j hj hl => k.links j hj (h.links j hj hl)
  ctx := fun j => (h.ctx j).trans (k.ctx j)

theorem of_sameRegs {hit : Nat → Nat → Prop} (hr : SameRegs s t hit) (h200 : ∀ j < 256, ¬ex j → ¬hit (ctxPage j) 0x200)
    (hlinks : ∀ j < 256, ∀ o, 0x220 ≤ o → o ≤ 0x228 → ¬hit (ctxPage j) o)
    (hc : ∀ j, Eases (getCtx s j) (getCtx t j)) : Spares ex s t where
  state := fun j hj hn => hr _ _ (by decide) (h200 j hj hn)
  links := fun j hj hl => hr.linkDsts_nil (hlinks j hj) hl
  ctx := hc

theorem refl (ex : Nat → Prop) (s : State) : Spares ex s s := ⟨fun _ _ _ => rfl, fun _ _ => id, fun _ => .refl _⟩

theorem of_regs (hr : SameRegs s t elsewhere) (hc : t.ctxs = s.ctxs) : Spares ex s t :=
  of_sameRegs hr (fun _ hj _ => not_elsewhere hj) (fun _ hj _ _ _ => not_elsewhere hj) fun j =>
    .of_eq (getCtx_congr hc j)

theorem of_eq (hr : t.regs = s.regs) (hc : t.ctxs = s.ctxs) : Spares ex s t := of_regs (sameRegs_of_regs hr) hc

theorem of_aside (h : Aside s t) : Spares ex s t :=
  of_sameRegs h.regs (fun _ hj _ => not_elsewhere hj) (fun _ hj _ _ _ => not_elsewhere hj) fun j => by
    obtain ⟨l, hl, hn⟩ := h.ctxs j
    rw [hl]
    exact .pics hn

theorem of_modCtx {c : Nat} {f : Ctx → Ctx} (h : Eases (getCtx s c) (f (getCtx s c))) : Spares ex s (modCtx s c f) :=
  of_sameRegs (hit := fun _ _ => False) (sameRegs_of_regs rfl) (fun _ _ _ => id) (fun _ _ _ _ _ => id) fun j => by
    rw [getCtx_modCtx_cases]
    split
    · next e => rw [e]; exact h
    · exact .refl _

theorem of_onlyCtx {c : Nat} (h : OnlyCtx c s t) (hc : Eases (getCtx s c) (getCtx t c)) : Spares ex s t :=
  of_sameRegs (hit := fun _ _ => False) (sameRegs_of_regs h.regs) (fun _ _ _ => id) (fun _ _ _ _ _ => id) fun j => by
    by_cases hj : j = c
    · rw [hj]
      exact hc
    · rw [h.others j hj]
      exact .refl _

/-- A register of the page of a context that leaves. -/
theorem of_fset {c : Nat} (r : Row) (v : Nat) (hr : r.at 0 < 0x220) : Spares (· = c) s (fset s (ctxPage c) r v) :=
  of_sameRegs (hit := fun p o => p = ctxPage c ∧ o = r.at 0) ((SameRegs.refl s _).then_fset (by omega) ⟨rfl, rfl⟩ v)
    (fun _ _ hn k => hn (ctxPage_inj.1 k.1)) (fun _ _ _ h2 _ k => by omega) fun _ => .refl _

theorem noneWait (h : Spares ex s t) (k : NoneWait s) : NoneWait t := fun j => (h.ctx j).outWait (k j)

theorem idle (h : Spares ex s t) {j : Nat} (hj : j < 256) (k : Idle s j) : Idle t j := by
  rw [idle_iff] at k ⊢
  exact ⟨(h.ctx j).rest k.1, h.links j hj k.2⟩

theorem mono {ex' : Nat → Prop} (h : Spares ex s t) (k : ∀ j, ex j → ex' j) : Spares ex' s t :=
  ⟨fun j hj hn => h.state j hj fun e => hn (k j e), h.links, h.ctx⟩

end Spares

/-! ### Links end -/

/-- A source without destinations has no slot to free; any other slot that is freed belongs to another source. -/
theorem freeSlot_spares (ex : Nat → Prop) (s : State) (c : Nat) {i : Nat} (hi : i < 8) : Spares ex s (freeSlot s c i) := by
  cases h : linkDst s c i with
  | none =>
    rw [freeSlot_none h]
    exact .refl _ _
  | some e =>
    rw [freeSlot_eq h]
    let v := rset (setLinkSlot s c i 0 false) (ctxPage e) 0x22C 0
    have hv : SameRegs s v fun p o => p = ctxPage c ∧ 0x220 ≤ o ∧ o ≤ 0x228 ∨ p = ctxPage e ∧ o = 0x22C :=
      ((setLinkSlot_sameRegs s c 0 false hi).mono fun _ _ => .inl).then_rset (by decide) (.inr ⟨rfl, rfl⟩) 0
    have hctxs : v.ctxs = s.ctxs := (rset_keeps (setLinkSlot_keeps (.refl [.regs] s) rfl) rfl).ctxs (by decide)
    have hslot : Spares ex s v :=
      { state := fun j _ _ => hv _ _ (by decide) (by omega)
        links := fun j _ hl => by
          have hne : j ≠ c := fun e => by
            subst e
            simp [linkDsts_nil.1 hl i hi] at h
          refine hv.linkDsts_nil (fun o h1 h2 k => ?_) hl
          rcases k with k | k
          · exact hne (ctxPage_inj.1 k.1)
          · omega
        ctx := fun j => .of_eq (getCtx_congr hctxs j) }
    exact hslot.trans (.of_modCtx (.link _))

theorem unlinkAll_of_none {s : State} {c : Nat} (h : linkDsts s c = []) :
    unlinkAll s c = if fbit s (ctxPage c) F.CTX_LINK_SRC_VALID then
      freeSlot s (fget s (ctxPage c) F.CTX_LINK_SRC_SRC) (fget s (ctxPage c) F.CTX_LINK_SRC_SLOT) else s := by
  have hfold : (List.range 8).foldl (fun s i => freeSlot s c i) s = s :=
    List.foldlRecOn (motive := fun t => t = s) (List.range 8) _ rfl fun t ht i hi => by
      rw [ht, freeSlot_none (linkDsts_nil.1 h i (List.mem_range.1 hi))]
  rw [unlinkAll, hfold]

theorem unlinkAll_spares (ex : Nat → Prop) {s : State} {c : Nat} (h : linkDsts s c = []) :
    Spares ex s (unlinkAll s c) := by
  rw [unlinkAll_of_none h]
  split
  · exact freeSlot_spares ex s _ (fget_lt s _ F.CTX_LINK_SRC_SLOT 0)
  · exact .refl _ _

/-! ### A context becomes FREE -/

/-- The fields of State that the end of a context without work can change. -/
def closing : List StateField := [.free, .regs, .ctxs, .engines, .banks, .talus, .srcs, .doms, .perf]

/-- A context's links, jobs and memory are gone. -/
def stripped (s : State) (c : Nat) : State :=
  let s := unlinkAll (dropJobs s c) c
  let x := getCtx s c
  freeAll s (x.mem ++ x.pendMem ++ x.oldMem)

/-- The registers of its page as a FREE context's. -/
def freedRegs (s : State) (c : Nat) : State :=
  let s := fset s (ctxPage c) F.HDR_EXPERT_KEY_UNLOCKED 0
  let s := fset (fset s (ctxPage c) F.CTX_STATE_OUT_WAIT 0) (ctxPage c) F.CTX_STATE_RECONFIG_PENDING 0
  fset (fset (setCtxState s c 0) (ctxPage c) F.CTX_STATE_OWNER 0x7F) (ctxPage c) F.CTX_HALT_CAUSE 0

theorem freeCtx_eq {s : State} {c : Nat} (h : linkDsts s c = []) (quiet : Bool) :
    freeCtx s c quiet = retryOutputs (freedRegs (modCtx (stripped s c) c fun _ => ctx0) c) := by
  rw [freeCtx, sourceEnd_none h]
  rfl

theorem stripped_keeps (s : State) (c : Nat) : Keeps closing s (stripped s c) :=
  freeAll_keeps (unlinkAll_keeps (dropJobs_keeps (.refl closing s) rfl) rfl) rfl

theorem stripped_spares (ex : Nat → Prop) {s : State} {c : Nat} (hc : c < 256) (h : linkDsts s c = []) :
    Spares ex s (stripped s c) := by
  have hjobs : Spares ex s (dropJobs s c) := .of_aside (dropJobs_aside s c)
  have hlinks := unlinkAll_spares ex (hjobs.links c hc h)
  have hfree : ∀ (t : State) (l : List Nat), Spares ex t (freeAll t l) := fun t l =>
    have k := freeAll_keeps (hs := l) (.refl [.talus, .perf] t) rfl
    .of_eq (k.regs (by decide)) (k.ctxs (by decide))
  exact (hjobs.trans hlinks).trans (hfree _ _)

theorem freedRegs_keeps (s : State) (c : Nat) : Keeps [.regs] s (freedRegs s c) :=
  fset_keeps (fset_keeps (fset_keeps (fset_keeps (fset_keeps (fset_keeps (.refl _ s) rfl) rfl) rfl) rfl) rfl) rfl

theorem freedRegs_spares (s : State) (c : Nat) : Spares (· = c) s (freedRegs s c) :=
  (((((Spares.of_fset F.HDR_EXPERT_KEY_UNLOCKED 0 (by decide)).trans (.of_fset F.CTX_STATE_OUT_WAIT 0 (by decide))).trans
    (.of_fset F.CTX_STATE_RECONFIG_PENDING 0 (by decide))).trans (.of_fset F.CTX_STATE_STATE 0 (by decide))).trans
    (.of_fset F.CTX_STATE_OWNER 0x7F (by decide))).trans (.of_fset F.CTX_HALT_CAUSE 0 (by decide))

theorem freedRegs_state (s : State) (c : Nat) :
    ctxState (freedRegs s c) c = 0 ∧ ctxOwner (freedRegs s c) c = 0x7F := by
  unfold freedRegs setCtxState ctxState ctxOwner
  simp (disch := decide) only [fget_fset_apart, fget_fset_self]
  exact ⟨rfl, rfl⟩

/-- A context is FREE, and as new. -/
def Freed (s : State) (c : Nat) : Prop := ctxState s c = 0 ∧ getCtx s c = ctx0

section freeCtx
variable {s : State} {c : Nat} (hc : c < 256) (hl : linkDsts s c = []) (hw : NoneWait s) (quiet : Bool)
include hc hl hw

theorem freeCtx_noWait : Spares (· = c) s (freedRegs (modCtx (stripped s c) c fun _ => ctx0) c) ∧
    freeCtx s c quiet = freedRegs (modCtx (stripped s c) c fun _ => ctx0) c := by
  have h : Spares (· = c) s (freedRegs (modCtx (stripped s c) c fun _ => ctx0) c) :=
    ((stripped_spares (· = c) hc hl).trans (.of_modCtx (.new _))).trans (freedRegs_spares _ c)
  exact ⟨h, by rw [freeCtx_eq hl, retryOutputs_of_none (h.noneWait hw)]⟩

theorem freeCtx_spares : Spares (· = c) s (freeCtx s c quiet) := by
  obtain ⟨h, e⟩ := freeCtx_noWait hc hl hw quiet
  rwa [e]

theorem freeCtx_keeps_closing : Keeps closing s (freeCtx s c quiet) := by
  rw [(freeCtx_noWait hc hl hw quiet).2]
  have h : Keeps closing s (modCtx (stripped s c) c fun _ => ctx0) := modCtx_keeps (stripped_keeps s c) rfl
  exact fset_keeps (fset_keeps (fset_keeps (fset_keeps (fset_keeps (fset_keeps h rfl) rfl) rfl) rfl) rfl) rfl

theorem freed_freeCtx : Freed (freeCtx s c quiet) c ∧ ctxOwner (freeCtx s c quiet) c = 0x7F := by
  rw [(freeCtx_noWait hc hl hw quiet).2]
  obtain ⟨hst, how⟩ := freedRegs_state (modCtx (stripped s c) c fun _ => ctx0) c
  refine ⟨⟨hst, ?_⟩, how⟩
  rw [getCtx_congr ((freedRegs_keeps _ c).ctxs (by decide)), getCtx_modCtx]

end freeCtx

end Sys2Proof.Machine
end

section
namespace Sys2Proof.Machine

/-! ### Work is discarded -/

theorem dropSources_nil {s : State} {c : Nat} (h : (getCtx s c).linkPics = []) : dropSources s c = s := by
  rw [dropSources, h]
  rfl

/-- A context without pictures is as it was. -/
theorem PicsOnly.eq_of_nil {s t : State} (h : PicsOnly s t) {c : Nat} (hp : (getCtx s c).pics = []) :
    getCtx t c = getCtx s c := by
  obtain ⟨l, hl, hn⟩ := h c
  rw [hl, hn hp]
  generalize getCtx s c = x at hp
  rw [← hp]

/-- What is not coded is discarded. -/
def clearCoding (x : Ctx) : Ctx := { x with queued := [], plan := [], linkPics := [], pics := x.pics.filter (·.done) }

theorem Still.clearCoding {x : Ctx} (h : Still x) : clearCoding x = x := by
  rw [Machine.clearCoding, h.pics, List.filter_nil, ← h.queued, ← h.plan, ← h.linkPics, ← h.pics]

/-- What is coded but not delivered is delivered, the rest discarded (R48). -/
def discardCoding (s : State) (c : Nat) : State :=
  if isEncode s c then
    ((getCtx s c).pics.filter fun p => p.done && !p.sent).foldl (fun s p => deliverPic s c p)
      (modCtx s c clearCoding)
  else subsKeep s c

/-- A context holds no pictures. -/
def clearWork (x : Ctx) : Ctx :=
  { x with queued := [], plan := [], linkPics := [], pics := [], decs := [], ppJobs := [] }

theorem discardWork_eq (s : State) (c : Nat) :
    discardWork s c = abortKeys (abortRate (abortReconf (failSubmits (modCtx (discardCoding (dropSources (dropJobs s c) c) c) c
      clearWork) c 0x20) c) c) c := rfl

theorem Still.clearWork {x : Ctx} (h : Still x) : clearWork x = { x with ppJobs := [] } := by
  obtain ⟨h1, h2, h3, h4, h5, h6, h7, h8, h9, h10⟩ := h
  rw [Machine.clearWork, ← h2, ← h3, ← h4, ← h5, ← h6]

theorem Still.forced_nil {x : Ctx} (h : Still x) : { x with forced := [] } = x := by rw [← h.forced]

theorem Still.ppJobs {x : Ctx} (h : Still x) : Still { x with ppJobs := [] } := by
  obtain ⟨h1, h2, h3, h4, h5, h6, h7, h8, h9, h10⟩ := h
  exact ⟨h1, h2, h3, h4, h5, h6, h7, h8, h9, h10⟩

theorem discardCoding_still {s : State} {c : Nat} (h : Still (getCtx s c)) :
    OnlyCtx c s (discardCoding s c) ∧ getCtx (discardCoding s c) c = getCtx s c := by
  unfold discardCoding
  split
  · rw [h.pics]
    refine ⟨(OnlyCtx.refl c s).modCtx _, ?_⟩
    exact (getCtx_modCtx s c clearCoding).trans h.clearCoding
  · rw [subsKeep_nil h.submits]
    exact ⟨.refl c s, rfl⟩

/-- A context without work has none to discard. -/
theorem discardWork_still {s : State} {c : Nat} (h : Still (getCtx s c)) :
    OnlyCtx c (dropJobs s c) (discardWork s c) ∧ getCtx (discardWork s c) c = { getCtx s c with ppJobs := [] } := by
  let v := dropJobs s c
  have hv : getCtx v c = getCtx s c := (dropJobs_aside s c).ctxs.eq_of_nil h.pics
  have hsv : Still (getCtx v c) := by rwa [hv]
  obtain ⟨hd, hdx⟩ := discardCoding_still hsv
  let w := modCtx (discardCoding v c) c clearWork
  have hw : OnlyCtx c v w := hd.modCtx _
  have hwx : getCtx w c = { getCtx s c with ppJobs := [] } := by
    rw [getCtx_modCtx, hdx, hv, h.clearWork]
  have hsw : Still (getCtx w c) := by rw [hwx]; exact h.ppJobs
  obtain ⟨f, g, hfail, hfg⟩ := failSubmits_nil hsw.submits 0x20
  let z := modCtx (modCtx w c f) c g
  have hzx : getCtx z c = getCtx w c := by rw [getCtx_modCtx, getCtx_modCtx, hfg]
  have hsz : Still (getCtx z c) := by rwa [hzx]
  have he : discardWork s c = modCtx z c ({ · with forced := [] }) := by
    rw [discardWork_eq, dropSources_nil hsv.linkPics, hfail, abortReconf_none hsz.reconf, abortRate_none hsz.setRate,
      abortKeys_nil hsz.forced]
  rw [he]
  refine ⟨((hw.modCtx _).modCtx _).modCtx _, ?_⟩
  rw [getCtx_modCtx, hsz.forced_nil, hzx, hwx]

end Sys2Proof.Machine
end

section
namespace Sys2Proof.Machine

/-! ### FLUSH and CLOSE -/

theorem op_of_begins {s u : State} {own ring op : Nat} {d : Desc} {ref : CmdRef} (h : Begins s own ring op d ref u)
    (hop : op ≠ 0) : ref.op ≠ 0 := by
  obtain ⟨-, hr, -⟩ := beginCmd_some h.1
  have hd := h.opcode
  rw [hr, refOf]
  split
  · exact Nat.one_ne_zero
  · exact fun e => hop (hd.symm.trans e)

theorem discardWork_spares {s : State} {c : Nat} (ex : Nat → Prop) (h : Still (getCtx s c)) : Spares ex s (discardWork s c) := by
  obtain ⟨ho, hx⟩ := discardWork_still h
  have hj : getCtx (dropJobs s c) c = getCtx s c := (dropJobs_aside s c).ctxs.eq_of_nil h.pics
  refine (Spares.of_aside (dropJobs_aside s c)).trans (.of_onlyCtx ho ?_)
  rw [hx, hj]
  exact .ppJobs _

theorem isEncode_setCtxState (s : State) (c v : Nat) : isEncode (setCtxState s c v) c = isEncode s c := by
  rw [isEncode, ctxKind, setCtxState, fget_fset_apart _ _ _ _ _ _ (by decide), ← ctxKind, ← isEncode]

/-- A context in a state of CTX.STATE, with what it holds changed. -/
def inState (s : State) (c : Nat) (f : Ctx → Ctx) (st : Nat) : State := setCtxState (modCtx s c f) c st

section inState
variable (s : State) (c : Nat) (f : Ctx → Ctx) (st : Nat)

theorem getCtx_inState : getCtx (inState s c f st) c = f (getCtx s c) := getCtx_modCtx s c f

theorem ctxState_inState : ctxState (inState s c f st) c = st % 8 := ctxState_setCtxState _ _ _

theorem inState_sameRegs : SameRegs s (inState s c f st) fun p o => p = ctxPage c ∧ o = 0x200 :=
  setCtxState_sameRegs (modCtx s c f) c st

theorem inState_keeps : Keeps [.regs, .ctxs] s (inState s c f st) := fset_keeps (modCtx_keeps (.refl _ s) rfl) rfl

theorem linkDsts_inState (h : linkDsts s c = []) : linkDsts (inState s c f st) c = [] :=
  (inState_sameRegs s c f st).linkDsts_nil (fun _ _ _ k => by omega) h

theorem noneWait_modCtx {s : State} {c : Nat} {f : Ctx → Ctx} (h : NoneWait s)
    (hf : (f (getCtx s c)).outWait = (getCtx s c).outWait) : NoneWait (modCtx s c f) := fun j => by
  rw [getCtx_modCtx_cases]
  split
  · exact hf.trans (h c)
  · exact h j

/-- An encode context with pictures still to code goes on draining. -/
theorem settle_busy (henc : isEncode s c = true) (hq : (f (getCtx s c)).queued ≠ []) (hp : (f (getCtx s c)).pics = [])
    (ho : (f (getCtx s c)).oldMem = []) : settle (inState s c f st) c = inState s c f st := by
  have hx := getCtx_inState s c f st
  have henc' : isEncode (inState s c f st) c = true := (isEncode_setCtxState _ _ _).trans henc
  rw [settle, if_pos henc', settleCtx_noPics (by rw [hx, hp]) (by rw [hx, ho]), checkDrain_queued (by rwa [hx])]

end inState

/-- What a FLUSH leaves of a context: it waits, from the pictures output so far. -/
def flushing (ref : CmdRef) (n : Nat) (x : Ctx) : Ctx := { x with flush := some (ref, n) }

/-- And what a CLOSE leaves. -/
def closingBy (ref : CmdRef) (x : Ctx) : Ctx := { x with close := x.close ++ [ref] }

theorem execOpFlush_eq {s u : State} {own : Fin 65} {ring : Fin 4} {d : Desc} {ref : CmdRef}
    (hb : Begins s own ring 5 d ref u) : execOpFlush own ring s =
      .next (settle (inState u d.ctx (flushing ref (fget u (ctxPage d.ctx) F.CTX_CNT_OUT_COUNT)) 4) d.ctx) := by
  rw [execOpFlush, runCmd_pass hb]
  rfl

theorem execOpClose_eq {s u : State} {own : Fin 65} {ring : Fin 4} {d : Desc} {ref : CmdRef}
    (hb : Begins s own ring 0x0F d ref u) : execOpClose own ring s = .next (
      if ctxState u d.ctx = 3 ∨ ctxState u d.ctx = 4 then
        if d.p 0 = 1 then checkDrain (discardWork (inState u d.ctx (closingBy ref) 4) d.ctx) d.ctx
        else settle (inState u d.ctx (closingBy ref) 4) d.ctx
      else
        let v := discardWork (modCtx u d.ctx (closingBy ref)) d.ctx
        if (getCtx v d.ctx).outWait = [] then endOfDrain v d.ctx else setCtxState v d.ctx 4) := by
  rw [execOpClose, runCmd_pass hb]
  rfl

/-- A FLUSH of a context without work completes at once. -/
theorem settle_flushing {u : State} {c : Nat} {ref : CmdRef} (h : Rest (getCtx u c)) (hl : linkDsts u c = [])
    (hw : (getCtx u c).outWait = []) (hop : ref.op ≠ 0) :
    let v := inState u c (flushing ref (fget u (ctxPage c) F.CTX_CNT_OUT_COUNT)) 4
    ∃ w f, OnlyCtx c v w ∧ settle v c = setCtxState (modCtx (cmdDone w ref 0 0 0 0) c f) c 2 := by
  intro v
  have hvx : getCtx v c = flushing ref (fget u (ctxPage c) F.CTX_CNT_OUT_COUNT) (getCtx u c) := getCtx_inState ..
  obtain ⟨⟨h1, h2, h3, h4, h5, h6, h7, h8, h9, h10⟩, hflush, hclose⟩ := h
  have hsv : Still (getCtx v c) := by
    rw [hvx]
    exact ⟨h1, h2, h3, h4, h5, h6, h7, h8, h9, h10⟩
  obtain ⟨w, r, m, hsettle, honly, hwx⟩ := settle_still hsv
  have hsw : Still (getCtx w c) := hsv.of_eq hwx
  have hstate : ctxState w c = 4 := (honly.ctxState c).trans (ctxState_inState ..)
  have hwait : (getCtx w c).outWait = [] := by
    rw [hwx, hvx]
    exact hw
  have hwl : linkDsts w c = [] := (honly.linkDsts c).trans (linkDsts_inState _ _ _ _ hl)
  obtain ⟨z, hz, f, hend⟩ := endOfDrain_flush (ref := ref) (n := fget u (ctxPage c) F.CTX_CNT_OUT_COUNT) hsw
    (by rw [hwx, hvx]; rfl) (by rw [hwx, hvx]; exact hclose) hwl hop
  have hcount : fget w (ctxPage c) F.CTX_CNT_OUT_COUNT = fget u (ctxPage c) F.CTX_CNT_OUT_COUNT :=
    (fget_congr honly.regs _ _ _).trans ((inState_sameRegs u c _ 4).fget (by decide) fun k => absurd k.2 (by decide))
  have hn : (fget w (ctxPage c) F.CTX_CNT_OUT_COUNT + 2 ^ 32 - fget u (ctxPage c) F.CTX_CNT_OUT_COUNT) % 2 ^ 32 = 0 := by
    rw [hcount, Nat.add_sub_cancel_left, Nat.mod_self]
  rw [hn] at hend
  exact ⟨z, f, honly.trans hz, by rw [hsettle, checkDrain_still hsw hwait hstate, hend]⟩

/-- A context whose CLOSE has nothing to wait for. -/
structure Closable (u y : State) (c : Nat) (ref : CmdRef) : Prop where
  still : Still (getCtx y c)
  flush : (getCtx y c).flush = none
  close : (getCtx y c).close = [ref]
  wait : NoneWait y
  links : linkDsts y c = []
  rings : y.rings = u.rings
  mem : y.mem = u.mem
  devtime : y.devtime = u.devtime

/-- It completes, and the context is FREE. -/
theorem Closable.endOfDrain {u y : State} {c : Nat} {ref : CmdRef} (h : Closable u y c ref) (hc : c < 256) (hop : ref.op ≠ 0) :
    let t := endOfDrain y c
    Freed t c ∧ ctxOwner t c = 0x7F ∧ Completed u t ref 0 0 0 0 ∧ t.mem = u.mem := by
  intro t
  let w := cmdDone (modCtx y c ({ · with forced := [] })) ref 0
  have hforced : NoneWait (modCtx y c ({ · with forced := [] })) := noneWait_modCtx (f := ({ · with forced := [] })) h.wait rfl
  have hw : NoneWait w := fun j => (congrArg Ctx.outWait (getCtx_cmdDone ..)).trans (hforced j)
  have hl : linkDsts w c = [] := (linkDsts_congr (cmdDone_regs ..) c).trans h.links
  have ht : t = freeCtx w c := endOfDrain_close h.still h.flush h.close hop
  obtain ⟨hfreed, howner⟩ := freed_freeCtx hc hl hw false
  have hkeep := freeCtx_keeps_closing hc hl hw false
  rw [ht]
  refine ⟨hfreed, howner, ?_, (hkeep.mem (by decide)).trans h.mem⟩
  rw [Completed, getRing_congr (hkeep.rings (by decide))]
  exact completed_cmdDone (v := modCtx y c ({ · with forced := [] })) h.rings h.devtime ref 0 0 0 0 none

/-- The CLOSE of a context at rest has nothing to wait for, before its work is discarded and after. -/
theorem closable_discard {u v : State} {c : Nat} {ref : CmdRef} (hc : c < 256) (h : Closable u v c ref) :
    Closable u (discardWork v c) c ref := by
  obtain ⟨honly, hx⟩ := discardWork_still h.still
  have hs := discardWork_spares (fun _ => False) h.still
  have hk := dropJobs_keeps (c := c) (.refl [.free, .regs, .ctxs, .engines, .banks, .srcs, .doms, .perf] v) rfl
  exact
    { still := by rw [hx]; exact h.still.ppJobs
      flush := by rw [hx]; exact h.flush
      close := by rw [hx]; exact h.close
      wait := hs.noneWait h.wait
      links := (honly.linkDsts c).trans ((dropJobs_aside v c).regs.linkDsts_nil (fun _ _ _ => not_elsewhere hc) h.links)
      rings := honly.rings.trans ((hk.rings (by decide)).trans h.rings)
      mem := honly.mem.trans ((hk.mem (by decide)).trans h.mem)
      devtime := honly.devtime.trans ((hk.devtime (by decide)).trans h.devtime) }

end Sys2Proof.Machine
end

section
namespace Sys2Proof.Machine

section close
variable {u : State} {c : Nat} {ref : CmdRef} (h : Rest (getCtx u c)) (hl : linkDsts u c = []) (hw : NoneWait u)
include h hl hw

theorem closable_modCtx : Closable u (modCtx u c (closingBy ref)) c ref := by
  have hx : getCtx (modCtx u c (closingBy ref)) c = closingBy ref (getCtx u c) := getCtx_modCtx ..
  obtain ⟨⟨h1, h2, h3, h4, h5, h6, h7, h8, h9, h10⟩, hflush, hclose⟩ := h
  exact
    { still := by rw [hx]; exact ⟨h1, h2, h3, h4, h5, h6, h7, h8, h9, h10⟩
      flush := by rw [hx]; exact hflush
      close := by rw [hx, closingBy, hclose]; rfl
      wait := noneWait_modCtx hw rfl
      links := hl
      rings := rfl
      mem := rfl
      devtime := rfl }

theorem closable_inState : Closable u (inState u c (closingBy ref) 4) c ref := by
  obtain ⟨hs, hf, hc, hwait, -, -, -, -⟩ := closable_modCtx (ref := ref) h hl hw
  exact ⟨hs, hf, hc, hwait, linkDsts_inState _ _ _ _ hl, rfl, rfl, rfl⟩

end close

theorem Closable.settles {u y : State} {c : Nat} {ref : CmdRef} (h : Closable u y c ref) (hst : ctxState y c = 4) :
    ∃ w, settle y c = Machine.endOfDrain w c ∧ Closable u w c ref := by
  obtain ⟨w, r, m, hsettle, honly, hwx⟩ := settle_still h.still
  have hk : Closable u w c ref :=
    { still := h.still.of_eq hwx
      flush := by rw [hwx]; exact h.flush
      close := by rw [hwx]; exact h.close
      wait := fun j => by
        by_cases hj : j = c
        · rw [hj, hwx]
          exact h.wait c
        · rw [honly.others j hj]
          exact h.wait j
      links := (honly.linkDsts c).trans h.links
      rings := honly.rings.trans h.rings
      mem := honly.mem.trans h.mem
      devtime := honly.devtime.trans h.devtime }
  exact ⟨w, by rw [hsettle, checkDrain_still hk.still (hk.wait c) ((honly.ctxState c).trans hst)], hk⟩

/-- A CLOSE of a context at rest ends its drain at once, whatever state it is in. -/
theorem execOpClose_rest {s u : State} {own : Fin 65} {ring : Fin 4} {d : Desc} {ref : CmdRef}
    (hb : Begins s own ring 0x0F d ref u) (hi : Idle u d.ctx) (hw : NoneWait u) :
    ∃ w, execOpClose own ring s = .next (endOfDrain w d.ctx) ∧ Closable u w d.ctx ref := by
  obtain ⟨hrest, hl⟩ := idle_iff.1 hi
  have hc : d.ctx < 256 := bitsOf_lt _ _ _
  have hin := closable_inState (ref := ref) hrest hl hw
  have hst : ctxState (inState u d.ctx (closingBy ref) 4) d.ctx = 4 := ctxState_inState ..
  by_cases hrun : ctxState u d.ctx = 3 ∨ ctxState u d.ctx = 4
  · by_cases hnow : d.p 0 = 1
    · have hk := closable_discard hc hin
      have hstate : ctxState (discardWork (inState u d.ctx (closingBy ref) 4) d.ctx) d.ctx = 4 := by
        have hs := (discardWork_spares (fun _ => False) hin.still).state _ hc id
        exact (congrArg (fun v => bitsOf v 0 3) hs).trans hst
      refine ⟨_, (execOpClose_eq hb).trans (congrArg _ ?_), hk⟩
      rw [if_pos hrun, if_pos hnow, checkDrain_still hk.still (hk.wait _) hstate]
    · obtain ⟨w, hsettle, hk⟩ := hin.settles hst
      refine ⟨w, (execOpClose_eq hb).trans (congrArg _ ?_), hk⟩
      rw [if_pos hrun, if_neg hnow, hsettle]
  · have hk := closable_discard hc (closable_modCtx (ref := ref) hrest hl hw)
    refine ⟨_, (execOpClose_eq hb).trans (congrArg _ ?_), hk⟩
    rw [if_neg hrun]
    exact if_pos (hk.wait _)

/-! ### An owner leaves -/

theorem closeLeaving_idle {s : State} {fn c : Nat} (hi : Idle s c) :
    closeLeaving s fn c = freeCtx (discardWork s c) c true := by
  have hclose : (getCtx s c).close = [] := (idle_iff.1 hi).1.close
  unfold closeLeaving
  dsimp only
  rw [hclose, List.filter_nil, List.foldl_nil]

/-- What the leaving of an owner keeps: each context is FREE and as new, or in the state that it was. -/
structure Left (s t : State) : Prop where
  state : ∀ j < 256, Freed t j ∨ rget t (ctxPage j) 0x200 = rget s (ctxPage j) 0x200
  links : ∀ j < 256, linkDsts s j = [] → linkDsts t j = []
  ctx : ∀ j, Eases (getCtx s j) (getCtx t j)
  mem : t.mem = s.mem
  rings : ∀ k, getRing s k = ring0 → getRing t k = ring0
  funcs : ∀ f, getFunc s f = func0 → getFunc t f = func0

theorem ctxState_of_word {s t : State} {j : Nat} (h : rget t (ctxPage j) 0x200 = rget s (ctxPage j) 0x200) :
    ctxState t j = ctxState s j := congrArg (fun v => bitsOf v 0 3) h

theorem ctxOwner_of_word {s t : State} {j : Nat} (h : rget t (ctxPage j) 0x200 = rget s (ctxPage j) 0x200) :
    ctxOwner t j = ctxOwner s j := congrArg (fun v => bitsOf v 24 7) h

theorem mem_heldBy {s : State} {fn j : Nat} : j ∈ heldBy s fn ↔ j < 256 ∧ ctxState s j ≠ 0 ∧ ctxOwner s j = fn := by
  simp [heldBy, ctxList]

namespace Left
variable {s t u : State}

/-- A context that is FREE and as new stays so. -/
theorem freed (h : Left s t) {j : Nat} (hj : j < 256) (k : Freed s j) : Freed t j := by
  rcases h.state j hj with hf | he
  · exact hf
  · exact ⟨(ctxState_of_word he).trans k.1, (h.ctx j).fresh k.2⟩

theorem trans (h : Left s t) (k : Left t u) : Left s u where
  state := fun j hj => by
    rcases k.state j hj with hf | he
    · exact .inl hf
    · rcases h.state j hj with hf | he'
      · exact .inl (k.freed hj hf)
      · exact .inr (he.trans he')
  links := fun j hj hl => k.links j hj (h.links j hj hl)
  ctx := fun j => (h.ctx j).trans (k.ctx j)
  mem := k.mem.trans h.mem
  rings := fun j e => k.rings j (h.rings j e)
  funcs := fun f e => k.funcs f (h.funcs f e)

theorem noneWait (h : Left s t) (k : NoneWait s) : NoneWait t := fun j => (h.ctx j).outWait (k j)

theorem idle (h : Left s t) {j : Nat} (hj : j < 256) (k : Idle s j) : Idle t j := by
  rw [idle_iff] at k ⊢
  exact ⟨(h.ctx j).rest k.1, h.links j hj k.2⟩

theorem heldBy (h : Left s t) {fn j : Nat} (k : j ∈ heldBy t fn) : j ∈ Machine.heldBy s fn := by
  rw [mem_heldBy] at k ⊢
  obtain ⟨hj, hst, how⟩ := k
  rcases h.state j hj with hf | he
  · exact absurd hf.1 hst
  · exact ⟨hj, ctxState_of_word he ▸ hst, ctxOwner_of_word he ▸ how⟩

/-- A context that an owner held is FREE, or it holds it still. -/
theorem freed_or_held (h : Left s t) {fn j : Nat} (k : j ∈ Machine.heldBy s fn) : Freed t j ∨ j ∈ Machine.heldBy t fn := by
  rw [mem_heldBy] at k ⊢
  obtain ⟨hj, hst, how⟩ := k
  rcases h.state j hj with hf | he
  · exact .inl hf
  · exact .inr ⟨hj, (ctxState_of_word he).symm ▸ hst, (ctxOwner_of_word he).symm ▸ how⟩

theorem of_spares {c : Nat} (h : Spares (· = c) s t) (hf : Freed t c) (hm : t.mem = s.mem) (hr : t.rings = s.rings)
    (hfn : t.funcs = s.funcs) : Left s t where
  state := fun j hj => by
    by_cases e : j = c
    · exact .inl (e ▸ hf)
    · exact .inr (h.state j hj e)
  links := h.links
  ctx := h.ctx
  mem := hm
  rings := fun k e => (getRing_congr hr k).trans e
  funcs := fun f e => by
    rw [getFunc, hfn]
    exact e

/-- An operation on other pages than the contexts'. -/
theorem of_regs (hr : SameRegs s t elsewhere) (hc : t.ctxs = s.ctxs) (hm : t.mem = s.mem)
    (hri : ∀ k, getRing s k = ring0 → getRing t k = ring0) (hfn : ∀ f, getFunc s f = func0 → getFunc t f = func0) :
    Left s t where
  state := fun _ hj => .inr (hr _ _ (by decide) (not_elsewhere hj))
  links := fun _ hj hl => hr.linkDsts_nil (fun _ _ _ => not_elsewhere hj) hl
  ctx := fun j => .of_eq (getCtx_congr hc j)
  mem := hm
  rings := hri
  funcs := hfn

theorem of_keeps {w : List StateField} (hr : SameRegs s t elsewhere) (k : Keeps w s t) (hc : .ctxs ∉ w) (hm : .mem ∉ w)
    (hri : .rings ∉ w) (hfn : .funcs ∉ w) : Left s t :=
  .of_regs hr (k.ctxs hc) (k.mem hm) (fun j e => (getRing_congr (k.rings hri) j).trans e) fun f e => by
    rw [getFunc, k.funcs hfn]
    exact e

theorem refl (s : State) : Left s s :=
  .of_regs (.refl _ _) rfl rfl (fun _ => id) fun _ => id

end Left

end Sys2Proof.Machine
end

section
namespace Sys2Proof.Machine

/-! ### The contexts of an owner that leaves -/

theorem closeLeaving_left {s : State} {fn c : Nat} (hc : c < 256) (hi : Idle s c) (hw : NoneWait s) :
    Left s (closeLeaving s fn c) ∧ Freed (closeLeaving s fn c) c := by
  obtain ⟨hrest, hl⟩ := idle_iff.1 hi
  let v := discardWork s c
  have hv : Spares (· = c) s v := discardWork_spares _ hrest.toStill
  have hvl : linkDsts v c = [] := hv.links c hc hl
  have hvw : NoneWait v := hv.noneWait hw
  obtain ⟨honly, -⟩ := discardWork_still hrest.toStill
  have hj := dropJobs_keeps (c := c) (.refl [.free, .regs, .ctxs, .engines, .banks, .srcs, .doms, .perf] s) rfl
  have hk := freeCtx_keeps_closing hc hvl hvw true
  obtain ⟨hfreed, -⟩ := freed_freeCtx hc hvl hvw true
  rw [closeLeaving_idle hi]
  exact ⟨.of_spares (hv.trans (freeCtx_spares hc hvl hvw true)) hfreed
    ((hk.mem (by decide)).trans (honly.mem.trans (hj.mem (by decide))))
    ((hk.rings (by decide)).trans (honly.rings.trans (hj.rings (by decide))))
    ((hk.funcs (by decide)).trans (honly.funcs.trans (hj.funcs (by decide)))), hfreed⟩

theorem closeAll_left (fn : Nat) {l : List Nat} {s : State} (hl : ∀ c ∈ l, c < 256 ∧ Idle s c) (hw : NoneWait s) :
    let t := l.foldl (fun s c => closeLeaving s fn c) s
    Left s t ∧ ∀ c ∈ l, Freed t c := by
  induction l generalizing s with
  | nil => exact ⟨.refl s, fun _ h => absurd h List.not_mem_nil⟩
  | cons c l ih =>
    obtain ⟨hc, hi⟩ := hl c (List.mem_cons_self ..)
    obtain ⟨hfirst, hfreed⟩ := closeLeaving_left (fn := fn) hc hi hw
    obtain ⟨hrest, hall⟩ := ih (s := closeLeaving s fn c) (fun d hd =>
      have hk := hl d (List.mem_cons_of_mem _ hd)
      ⟨hk.1, hfirst.idle hk.1 hk.2⟩) (hfirst.noneWait hw)
    refine ⟨hfirst.trans hrest, fun d hd => ?_⟩
    rcases List.mem_cons.1 hd with rfl | hd
    · exact hrest.freed hc hfreed
    · exact hall d hd

/-! ### Its rings, channels and configuration space -/

theorem fnPage_elsewhere {fn : Nat} (o : Nat) : elsewhere (fnPage fn) o := by
  unfold elsewhere fnPage
  split <;> omega

/-- Registers dropped by their address. -/
theorem sameRegs_dropRegs (s : State) (f : Nat → Bool) :
    SameRegs s { s with regs := s.regs.filter fun kv => f kv.1 } fun p o => f (regKey p o) = false := fun p o _ hn => by
  rw [Bool.not_eq_false] at hn
  rw [rget, rget, tget_filter_key, if_pos hn]

theorem regKey_div {p o : Nat} (ho : o < 4096) : regKey p o / 4096 = p := by
  unfold regKey
  omega

theorem syncSrc_keep (s : State) (n : Nat) : Keeps [.srcs] s (syncSrc s n) := syncSrc_keeps (.refl _ s) rfl

/-- Four ring pairs at reset. -/
theorem foldl_ring0 (fn : Nat) (s : State) (l : List Nat) :
    let t := l.foldl (fun s n => { s with rings := tput ring0 s.rings (ringKey fn n) ring0 }) s
    (∀ k, getRing s k = ring0 → getRing t k = ring0) ∧ (∀ n ∈ l, getRing t (ringKey fn n) = ring0) ∧
      t.regs = s.regs := by
  induction l generalizing s with
  | nil => exact ⟨fun _ => id, fun _ h => absurd h List.not_mem_nil, rfl⟩
  | cons n l ih =>
    let v : State := { s with rings := tput ring0 s.rings (ringKey fn n) ring0 }
    obtain ⟨hkeep, hall, he⟩ := ih v
    have hv : ∀ k, getRing s k = ring0 → getRing v k = ring0 := fun k hk => by
      by_cases hkn : k = ringKey fn n
      · rw [hkn]
        exact tget_tput_self ring0 s.rings (ringKey fn n) ring0
      · exact (tget_tput_ne ring0 ring0 s.rings (ringKey fn n) k ring0 hkn).trans hk
    refine ⟨fun k hk => hkeep k (hv k hk), fun m hm => ?_, he⟩
    rcases List.mem_cons.1 hm with rfl | hm
    · exact hkeep _ (tget_tput_self ring0 s.rings (ringKey fn m) ring0)
    · exact hall m hm

theorem dropRings_left (s : State) (fn : Nat) :
    Left s (dropRings s fn) ∧ ∀ n < 4, getRing (dropRings s fn) (ringKey fn n) = ring0 := by
  let f : Nat → Bool := fun q => !(q / 4096 == fnPage fn && 0x200 ≤ q % 4096 && q % 4096 < 0x300)
  let v : State := { s with regs := s.regs.filter fun kv => f kv.1 }
  let w := (List.range 4).foldl (fun s n => { s with rings := tput ring0 s.rings (ringKey fn n) ring0 }) v
  have he : dropRings s fn = syncSrc w fn := rfl
  obtain ⟨hkeep, hall, hw⟩ := foldl_ring0 fn v (List.range 4)
  have hsync := syncSrc_keep w fn
  have hk := dropRings_keeps (fn := fn) (.refl [.regs, .rings, .srcs] s) rfl
  have hrings : ∀ k, getRing (dropRings s fn) k = getRing w k := fun k => getRing_congr (hsync.rings (by decide)) k
  have hregs : SameRegs s (dropRings s fn) elsewhere := by
    have hdrop : SameRegs s v elsewhere := fun p o ho hn => sameRegs_dropRegs s f p o ho fun hf => by
      simp only [f, Bool.not_eq_false', Bool.and_eq_true, beq_iff_eq, regKey_div ho] at hf
      exact hn (hf.1.1 ▸ fnPage_elsewhere o)
    exact hdrop.then_regs ((hsync.regs (by decide)).trans hw)
  refine ⟨.of_regs hregs (hk.ctxs (by decide)) (hk.mem (by decide)) (fun k e => (hrings k).trans (hkeep k e)) fun f e => ?_,
    fun n hn => (hrings _).trans (hall n (List.mem_range.2 hn))⟩
  rw [getFunc, hk.funcs (by decide)]
  exact e

theorem dropBufs_left (s : State) (fn : Nat) : Left s (dropBufs s fn) :=
  have k := dropBufs_keeps (fn := fn) (.refl [.talus, .perf] s) rfl
  .of_keeps (sameRegs_of_regs (k.regs (by decide))) k (by decide) (by decide) (by decide) (by decide)

theorem clearChan_left (s : State) {n : Nat} (hn : n < 64) : Left s (clearChan s n) := by
  let mine (o : Nat) : Bool :=
    (0x40 + 0x38 * (n % 16) ≤ o && o < 0x40 + 0x38 * (n % 16) + 0x38) ||
      (0x400 + 0x38 * (n % 16) ≤ o && o < 0x400 + 0x38 * (n % 16) + 0x38)
  let f : Nat → Bool := fun q => !(q / 4096 == chPage n && mine (q % 4096))
  have hregs : SameRegs s (clearChan s n) elsewhere := fun p o ho hne =>
    sameRegs_dropRegs s f p o ho fun hf => by
      simp only [f, Bool.not_eq_false', Bool.and_eq_true, beq_iff_eq, regKey_div ho] at hf
      refine hne (.inl ?_)
      rw [hf.1, chPage]
      omega
  exact .of_regs hregs rfl rfl (fun _ => id) fun _ => id

theorem dropChans_left (s : State) (fn : Nat) : Left s (dropChans s fn) := by
  have hlt : ∀ n ∈ ownedChans s fn, n < 64 := fun n hn => List.mem_range.1 (List.mem_filter.1 hn).1
  exact List.foldlRecOn (motive := fun t => Left s t) (ownedChans s fn) clearChan (.refl s) fun t ht n hn =>
    ht.trans (clearChan_left t (hlt n hn))

theorem emptyTarget_left (s : State) (t : Nat) : Left s (emptyTarget s t) :=
  have k := emptyTarget_keeps (t := t) (.refl [.srcs, .tgts] s) rfl
  .of_keeps (sameRegs_of_regs (k.regs (by decide))) k (by decide) (by decide) (by decide) (by decide)

theorem dropFunc_left (s : State) (fn : Nat) : Left s (dropFunc s fn) ∧ getFunc (dropFunc s fn) fn = func0 := by
  let f : Nat → Bool := fun q =>
    if fn = 0 then !(0x180 ≤ q / 4096 && q / 4096 < 0x188)
    else !(q / 4096 == fnPage fn && 0x800 ≤ q % 4096 && q % 4096 < 0xC00)
  have hregs : SameRegs s (dropFunc s fn) elsewhere := fun p o ho hne =>
    sameRegs_dropRegs s f p o ho fun hf => by
      dsimp only [f] at hf
      rw [regKey_div ho] at hf
      split at hf
      · simp only [Bool.not_eq_false', Bool.and_eq_true, decide_eq_true_eq] at hf
        exact hne (.inl (by omega))
      · simp only [Bool.not_eq_false', Bool.and_eq_true, beq_iff_eq] at hf
        exact hne (hf.1.1 ▸ fnPage_elsewhere o)
  have hself : getFunc (dropFunc s fn) fn = func0 := tget_tput_self func0 s.funcs fn func0
  have hk := dropFunc_keeps (fn := fn) (.refl [.regs, .funcs] s) rfl
  refine ⟨.of_regs hregs (hk.ctxs (by decide)) (hk.mem (by decide))
    (fun j e => (getRing_congr (hk.rings (by decide)) j).trans e) fun g hg => ?_, hself⟩
  by_cases hgf : g = fn
  · rw [hgf, hself]
  · exact (tget_tput_ne func0 func0 s.funcs fn g func0 hgf).trans hg

/-! ### An owner that leaves -/

/-- The configuration space and the rings of a function are at reset, and the contexts that it held in `s` are FREE. -/
structure OwnerGone (s : State) (fn : Nat) (t : State) : Prop where
  func : getFunc t fn = func0
  rings : ∀ n < 4, getRing t (ringKey fn n) = ring0
  ctxs : ∀ c ∈ heldBy s fn, Freed t c

theorem OwnerGone.later {s t u : State} {fn : Nat} (h : OwnerGone s fn t) (k : Left t u) : OwnerGone s fn u :=
  ⟨k.funcs _ h.func, fun n hn => k.rings _ (h.rings n hn), fun c hc => k.freed (mem_heldBy.1 hc).1 (h.ctxs c hc)⟩

theorem OwnerGone.before {s t u : State} {fn : Nat} (h : Left s t) (k : Left t u) (g : OwnerGone t fn u) :
    OwnerGone s fn u := by
  refine ⟨g.func, g.rings, fun c hc => ?_⟩
  rcases h.freed_or_held hc with hf | hh
  · exact k.freed (mem_heldBy.1 hc).1 hf
  · exact g.ctxs c hh

theorem dropFn_gone {s : State} {fn : Nat} (hi : ∀ c ∈ heldBy s fn, Idle s c) (hw : NoneWait s) :
    Left s (dropFn s fn) ∧ OwnerGone s fn (dropFn s fn) := by
  let closed := (heldBy s fn).foldl (fun s c => closeLeaving s fn c) s
  obtain ⟨hclosed, hfreed⟩ := closeAll_left fn (l := heldBy s fn) (fun c hc => ⟨(mem_heldBy.1 hc).1, hi c hc⟩) hw
  obtain ⟨hdrop, hrings⟩ := dropRings_left closed fn
  let w := emptyTarget (dropChans (dropBufs (dropRings closed fn) fn) fn) fn
  have hlate : Left (dropRings closed fn) w := ((dropBufs_left _ fn).trans (dropChans_left _ fn)).trans (emptyTarget_left _ fn)
  have hall : Left s w := (hclosed.trans hdrop).trans hlate
  have hleave : leaveOwner s fn = w := retryOutputs_of_none (hall.noneWait hw)
  obtain ⟨hfl, hf0⟩ := dropFunc_left w fn
  have hwt : Left w (dropFn s fn) := by
    rw [dropFn, hleave]
    exact hfl
  refine ⟨hall.trans hwt, ?_, fun n hn => hwt.rings _ (hlate.rings _ (hrings n hn)), fun c hc => ?_⟩
  · rw [dropFn, hleave]
    exact hf0
  · exact ((hdrop.trans hlate).trans hwt).freed (mem_heldBy.1 hc).1 (hfreed c hc)

theorem dropFns_gone {l : List Nat} {s : State} (hi : ∀ fn ∈ l, ∀ c ∈ heldBy s fn, Idle s c) (hw : NoneWait s) :
    Left s (l.foldl dropFn s) ∧ ∀ fn ∈ l, OwnerGone s fn (l.foldl dropFn s) := by
  induction l generalizing s with
  | nil => exact ⟨.refl s, fun _ h => absurd h List.not_mem_nil⟩
  | cons fn l ih =>
    obtain ⟨hfirst, hgone⟩ := dropFn_gone (hi fn (List.mem_cons_self ..)) hw
    obtain ⟨hrest, hall⟩ := ih (s := dropFn s fn) (fun g hg c hc =>
      hfirst.idle (mem_heldBy.1 hc).1 (hi g (List.mem_cons_of_mem _ hg) c (hfirst.heldBy hc))) (hfirst.noneWait hw)
    rw [List.foldl_cons]
    refine ⟨hfirst.trans hrest, fun g hg => ?_⟩
    rcases List.mem_cons.1 hg with rfl | hg
    · exact hgone.later hrest
    · exact .before hfirst hrest (hall g hg)

end Sys2Proof.Machine
end

section
/-! PROOFS. FLUSH, CLOSE and the owners that leave (R42, R47, R48, R55). -/

namespace Sys2Proof.Machine

/-! ### VFs -/

theorem vfsOn_nil {s : State} (h : fget s 0x140 F.PCIE_VF_STAT_VF_EN = 0) : vfsOn s = [] := by
  rw [vfsOn, fbit, h]
  rfl

theorem mem_vfsOn {s : State} {v : Nat} : v ∈ vfsOn s ↔
    fbit s 0x140 F.PCIE_VF_STAT_VF_EN = true ∧ 1 ≤ v ∧ v ≤ fget s 0x140 F.PCIE_VF_STAT_NUM_VFS := by
  unfold vfsOn
  split
  · next h =>
    rw [List.mem_map]
    constructor
    · rintro ⟨i, hi, rfl⟩
      exact ⟨h, by omega, List.mem_range.1 hi⟩
    · rintro ⟨-, h1, hn⟩
      exact ⟨v - 1, List.mem_range.2 (by omega), by omega⟩
  · next h => simp [h]

/-- The number of VFs as VF_ENABLE_CHANGE sets it. -/
def withVfs (s : State) (enable : Bool) (num : Nat) : State :=
  fset (fsetb s 0x140 F.PCIE_VF_STAT_VF_EN enable) 0x140 F.PCIE_VF_STAT_NUM_VFS num

theorem mem_vfsOn_withVfs {s : State} {enable : Bool} {num : Nat} (hnum : num < 64) {v : Nat} :
    v ∈ vfsOn (withVfs s enable num) ↔ enable = true ∧ 1 ≤ v ∧ v ≤ num := by
  have hen : fbit (withVfs s enable num) 0x140 F.PCIE_VF_STAT_VF_EN = enable := by
    rw [withVfs, fbit, fget_fset_apart _ _ _ _ _ _ (by decide)]
    exact fbit_fsetb_self _ _ _ _ _ (by decide) (by decide)
  have hn : fget (withVfs s enable num) 0x140 F.PCIE_VF_STAT_NUM_VFS = num :=
    (fget_fset_self _ _ _ _ _ (by decide)).trans (Nat.mod_eq_of_lt hnum)
  rw [mem_vfsOn, hen, hn]

/-- Registers of the PCIe page change. -/
theorem left_of_pcie {s t : State} (hr : SameRegs s t fun p _ => p = 0x140) (k : Keeps [.regs, .srcs] s t) : Left s t :=
  .of_keeps (hr.mono fun p _ h => .inl (by omega)) k (by decide) (by decide) (by decide) (by decide)

theorem withVfs_left (s : State) (enable : Bool) (num : Nat) : Left s (withVfs s enable num) := by
  have hen : SameRegs s (fsetb s 0x140 F.PCIE_VF_STAT_VF_EN enable) fun p _ => p = 0x140 :=
    (SameRegs.refl s _).then_fset (p := 0x140) (r := F.PCIE_VF_STAT_VF_EN) (by decide) rfl _
  have hk : Keeps [.regs, .srcs] s (fsetb s 0x140 F.PCIE_VF_STAT_VF_EN enable) := fset_keeps (.refl _ s) rfl
  exact left_of_pcie (hen.then_fset (p := 0x140) (by decide) rfl num) (fset_keeps hk rfl)

/-! ### A function level reset -/

/-- A reset is counted, and its interrupt raised (R288). -/
def resetTold (s : State) : State := setIrq (fadd s 0x140 F.PCIE_CNT_FLR_COUNT 1) 0x140 4

theorem resetTold_left (s : State) : Left s (resetTold s) := by
  have hadd : SameRegs s (fadd s 0x140 F.PCIE_CNT_FLR_COUNT 1) fun p _ => p = 0x140 :=
    (SameRegs.refl s _).then_fset (p := 0x140) (r := F.PCIE_CNT_FLR_COUNT) (by decide) rfl _
  have hk : Keeps [.regs, .srcs] s (fadd s 0x140 F.PCIE_CNT_FLR_COUNT 1) := fadd_keeps (.refl _ s) rfl
  exact left_of_pcie (hadd.then_setIrq rfl 4) (setIrq_keeps hk rfl)

theorem chansToPf_sameRegs (s : State) : SameRegs s (chansToPf s) fun p _ => p = 0x40 :=
  List.foldlRecOn (motive := fun t => SameRegs s t _) (List.range 64) _ (.refl s _) fun t ht n hn =>
    ht.then_fset (by
      have := List.mem_range.1 hn
      simp only [Row.at, F.DMA0_CH_OWNER_OWNER]
      omega) rfl 0

theorem chansToPf_left (s : State) : Left s (chansToPf s) :=
  .of_keeps ((chansToPf_sameRegs s).mono fun p _ h => .inl (by omega)) (chansToPf_keeps (.refl [.regs] s) rfl) (by decide)
    (by decide) (by decide) (by decide)

theorem dropAll_eq (s : State) : dropAll s = withVfs ((vfsOn s ++ [0]).foldl dropFn s) false 0 := by
  rw [List.foldl_append]
  rfl

theorem vfsOn_resetAll (s : State) : vfsOn (resetTold (chansToPf (dropAll s))) = [] := by
  have hoff : fget (dropAll s) 0x140 F.PCIE_VF_STAT_VF_EN = 0 := by
    rw [dropAll, fget_fset_apart _ _ _ _ _ _ (by decide)]
    exact fget_fset_self _ _ _ _ _ (by decide)
  have hchans : fget (chansToPf (dropAll s)) 0x140 F.PCIE_VF_STAT_VF_EN = fget (dropAll s) 0x140 F.PCIE_VF_STAT_VF_EN :=
    (chansToPf_sameRegs _).fget (by decide) (by decide)
  have htold : SameRegs (chansToPf (dropAll s)) (resetTold (chansToPf (dropAll s))) fun _ o => o = 0x48 ∨ o = 0x2C :=
    ((SameRegs.refl _ _).then_fset (by decide) (.inl rfl) _).then_setIrq (.inr rfl) 4
  exact vfsOn_nil ((htold.fget (by decide) (by decide)).trans (hchans.trans hoff))

/-! ### The statement -/

section commands
variable {s u : State} {own : Fin 65} {ring : Fin 4} {d : Desc} {ref : CmdRef}

/-- FLUSH, or CLOSE without ABORT, of an encode context with pictures to code: it drains, and the command waits. -/
theorem draining_busy (hu : u = { s with rings := u.rings }) (c : Nat) (f : Ctx → Ctx) :
    let t := inState u c f 4
    ctxState t c = 4 ∧ t.rings = u.rings ∧ SameMem s t ∧ SameRegs s t fun page off => page = ctxPage c ∧ off = 0x200 := by
  have hk := inState_keeps u c f 4
  exact ⟨ctxState_inState u c f 4, hk.rings (by decide), sameMem_of_mem ((hk.mem (by decide)).trans (mem_of_begun hu)),
    (sameRegs_of_regs (regs_of_begun hu)).trans (inState_sameRegs u c f 4)⟩

theorem flush_busy (hb : Begins s own ring 5 d ref u) (henc : isEncode u d.ctx = true) (hq : (getCtx u d.ctx).queued ≠ [])
    (hp : (getCtx u d.ctx).pics = []) (ho : (getCtx u d.ctx).oldMem = []) :
    execOpFlush own ring s = .next (inState u d.ctx (flushing ref (fget u (ctxPage d.ctx) F.CTX_CNT_OUT_COUNT)) 4) := by
  rw [execOpFlush_eq hb, settle_busy u d.ctx _ 4 henc hq hp ho]

theorem close_busy (hb : Begins s own ring 0x0F d ref u) (hrun : ctxState u d.ctx = 3) (h0 : d.p 0 = 0)
    (henc : isEncode u d.ctx = true) (hq : (getCtx u d.ctx).queued ≠ []) (hp : (getCtx u d.ctx).pics = [])
    (ho : (getCtx u d.ctx).oldMem = []) : execOpClose own ring s = .next (inState u d.ctx (closingBy ref) 4) := by
  rw [execOpClose_eq hb, if_pos (.inl hrun), if_neg (by omega), settle_busy u d.ctx _ 4 henc hq hp ho]

/-- FLUSH of a context at rest. -/
theorem flush_idle (hb : Begins s own ring 5 d ref u) (hi : Idle u d.ctx) (hw : NoneWait u) :
    Does (.opFlush own ring) s fun t => ctxState t d.ctx = 2 ∧ Completed u t ref 0 0 0 0 ∧ SameMem s t ∧
      SameRegs s t fun page off => page = ctxPage d.ctx ∧ off = 0x200 := by
  obtain ⟨hrest, hl⟩ := idle_iff.1 hi
  have hop : ref.op ≠ 0 := op_of_begins hb (by decide)
  obtain ⟨w, f, honly, hsettle⟩ := settle_flushing hrest hl (hw d.ctx) hop
  have hk := inState_keeps u d.ctx (flushing ref (fget u (ctxPage d.ctx) F.CTX_CNT_OUT_COUNT)) 4
  have hin := inState_sameRegs u d.ctx (flushing ref (fget u (ctxPage d.ctx) F.CTX_CNT_OUT_COUNT)) 4
  have hdone : Completed u (cmdDone w ref 0 0 0 0) ref 0 0 0 0 :=
    completed_cmdDone (honly.rings.trans (hk.rings (by decide))) (honly.devtime.trans (hk.devtime (by decide))) ..
  refine ⟨_, (execOpFlush_eq hb).trans (congrArg _ hsettle), ctxState_setCtxState _ _ _, hdone,
    sameMem_of_mem (honly.mem.trans ((hk.mem (by decide)).trans (mem_of_begun hb.eq))), ?_⟩
  exact ((sameRegs_of_regs (regs_of_begun hb.eq)).trans (hin.then_regs honly.regs)).trans
    (setCtxState_sameRegs (modCtx (cmdDone w ref 0 0 0 0) d.ctx f) d.ctx 2)

/-- CLOSE of a context at rest. -/
theorem close_idle (hb : Begins s own ring 0x0F d ref u) (hi : Idle u d.ctx) (hw : NoneWait u) :
    Does (.opClose own ring) s fun t => ctxState t d.ctx = 0 ∧ ctxOwner t d.ctx = 0x7F ∧ getCtx t d.ctx = ctx0 ∧
      Completed u t ref 0 0 0 0 ∧ SameMem s t := by
  have hop : ref.op ≠ 0 := op_of_begins hb (by decide)
  obtain ⟨w, hexec, hcl⟩ := execOpClose_rest hb hi hw
  obtain ⟨⟨hstate, hctx⟩, howner, hdone, hmem⟩ := hcl.endOfDrain (bitsOf_lt _ _ _) hop
  exact ⟨_, hexec, hstate, howner, hctx, hdone, sameMem_of_mem (hmem.trans (mem_of_begun hb.eq))⟩

end commands

section owners
variable {s : State} (hw : NoneWait s)
include hw

theorem functionLevelReset_vf {fn : Fin 64} (h1 : 1 ≤ fn.val) (hon : fn.val ∈ vfsOn s) (hi : ∀ c ∈ heldBy s fn, Idle s c) :
    Does (.functionLevelReset fn) s fun t => OwnerGone s fn t ∧ SameMem s t := by
  obtain ⟨hleft, hgone⟩ := dropFn_gone hi hw
  have htold := resetTold_left (dropFn s fn)
  refine ⟨resetTold (dropFn s fn), ?_, hgone.later htold, sameMem_of_mem (htold.mem.trans hleft.mem)⟩
  change execFunctionLevelReset fn s = _
  rw [execFunctionLevelReset, if_neg (by omega), if_pos (List.contains_iff_mem.2 hon)]
  rfl

theorem functionLevelReset_pf (hi : ∀ fn ∈ 0 :: vfsOn s, ∀ c ∈ heldBy s fn, Idle s c) :
    Does (.functionLevelReset 0) s fun t => (∀ fn ∈ 0 :: vfsOn s, OwnerGone s fn t) ∧ vfsOn t = [] ∧ SameMem s t := by
  have hmem : ∀ fn, fn ∈ vfsOn s ++ [0] ↔ fn ∈ 0 :: vfsOn s := fun fn => by simp [or_comm]
  obtain ⟨hleft, hgone⟩ := dropFns_gone (l := vfsOn s ++ [0]) (fun fn h => hi fn ((hmem fn).1 h)) hw
  have hlate : Left ((vfsOn s ++ [0]).foldl dropFn s) (resetTold (chansToPf (dropAll s))) := by
    rw [dropAll_eq]
    exact ((withVfs_left _ _ _).trans (chansToPf_left _)).trans (resetTold_left _)
  exact ⟨resetTold (chansToPf (dropAll s)), rfl, fun fn h => (hgone fn ((hmem fn).2 h)).later hlate, vfsOn_resetAll s,
    sameMem_of_mem (hlate.mem.trans hleft.mem)⟩

theorem vfEnableChange_gone {enable : Bool} {num : Fin 64} (hcfg : s.chip.cfgOk = true)
    (hi : ∀ fn ∈ vfsOn s, enable = false ∨ num.val < fn → ∀ c ∈ heldBy s fn, Idle s c) :
    Does (.vfEnableChange enable num) s fun t =>
      SameMem s t ∧ ∀ fn ∈ vfsOn s, enable = false ∨ num.val < fn → OwnerGone s fn t := by
  let v := withVfs s enable num
  let gone := (vfsOn s).filter fun fn => !(vfsOn v).contains fn
  have hv : Left s v := withVfs_left s enable num
  have hiff : ∀ fn, fn ∈ gone ↔ fn ∈ vfsOn s ∧ (enable = false ∨ num.val < fn) := fun fn => by
    simp only [gone, List.mem_filter, Bool.not_eq_true', and_congr_right_iff, ← Bool.not_eq_true, List.contains_iff_mem]
    intro hm
    have h1 := (mem_vfsOn.1 hm).2.1
    rw [mem_vfsOn_withVfs num.isLt]
    cases enable <;> simp [h1]
  obtain ⟨hleft, hgone⟩ := dropFns_gone (l := gone) (s := v) (fun fn h c hc =>
    have hfn := (hiff fn).1 h
    have hheld := hv.heldBy hc
    hv.idle (mem_heldBy.1 hheld).1 (hi fn hfn.1 hfn.2 c hheld)) (hv.noneWait hw)
  refine ⟨gone.foldl dropFn v, ?_, sameMem_of_mem (hleft.mem.trans hv.mem), fun fn h k =>
    .before hv hleft (hgone fn ((hiff fn).2 ⟨h, k⟩))⟩
  change execVfEnableChange enable num s = _
  rw [execVfEnableChange, if_neg (by simp [hcfg])]
  rfl

end owners

theorem OwnerGone.parts {s t : State} {fn : Nat} (h : OwnerGone s fn t) :
    getFunc t fn = func0 ∧ (∀ n < 4, getRing t (ringKey fn n) = ring0) ∧
      ∀ c ∈ heldBy s fn, ctxState t c = 0 ∧ getCtx t c = ctx0 := ⟨h.func, h.rings, h.ctxs⟩

/-- Settles O15: what drains waits, what is at rest ends at once, and each owner that leaves is dropped in turn. -/
theorem drainsAndCloses : Obligations.DrainsAndCloses := by
  refine ⟨fun own ring s u d ref => ⟨?flushBusy, flush_idle, close_idle, ?closeBusy⟩, fun s hw =>
    ⟨?off, ?vf, ?pf, ?early, ?change⟩⟩
  case flushBusy =>
    rintro hb ⟨henc, hq, hp, ho⟩
    rw [← getCtx_congr (ctxs_of_begun hb.eq)] at hq hp ho
    obtain ⟨hstate, hrings, hmem, hregs⟩ := draining_busy hb.eq d.ctx
      (flushing ref (fget u (ctxPage d.ctx) F.CTX_CNT_OUT_COUNT))
    refine ⟨_, flush_busy hb henc hq hp ho, hstate, ?_, hrings, hmem, hregs⟩
    rw [getCtx_inState, ← fget_congr (regs_of_begun hb.eq)]
    rfl
  case closeBusy =>
    rintro hb hrun h0 ⟨henc, hq, hp, ho⟩
    rw [← getCtx_congr (ctxs_of_begun hb.eq)] at hq hp ho
    obtain ⟨hstate, hrings, hmem, hregs⟩ := draining_busy hb.eq d.ctx (closingBy ref)
    refine ⟨_, close_busy hb hrun h0 henc hq hp ho, hstate, ?_, hrings, hmem, hregs⟩
    rw [getCtx_inState, getCtx_congr (ctxs_of_begun hb.eq)]
    rfl
  case off =>
    intro fn h1 hoff
    refine ⟨s, ?_, rfl⟩
    change execFunctionLevelReset fn s = _
    rw [execFunctionLevelReset, if_neg (by omega), if_neg fun h => hoff (List.contains_iff_mem.1 h)]
  case vf =>
    intro fn h1 hon hi
    obtain ⟨t, hexec, hgone, hmem⟩ := functionLevelReset_vf hw h1 hon hi
    exact ⟨t, hexec, hgone.parts, hmem⟩
  case pf =>
    intro hi
    obtain ⟨t, hexec, hgone, hnone, hmem⟩ := functionLevelReset_pf hw hi
    exact ⟨t, hexec, fun fn h => (hgone fn h).parts, hnone, hmem⟩
  case early =>
    intro enable num hcfg
    refine ⟨s, ?_, rfl⟩
    change execVfEnableChange enable num s = _
    rw [execVfEnableChange, if_pos (by simp [hcfg])]
  case change =>
    intro enable num hcfg hi
    obtain ⟨t, hexec, hmem, hgone⟩ := vfEnableChange_gone hw hcfg hi
    exact ⟨t, hexec, hmem, fun fn h k => (hgone fn h k).parts⟩

end Sys2Proof.Machine
end

section
/-! PROOFS. The picture that SUBMIT takes in (R45, R46, R89). -/

namespace Sys2Proof.Machine

/-- A SUBMIT of the PF's ring 0 to context 3, generation 7: a picture of 640 samples a line with PTS 100. -/
def submit100 : Desc :=
  ⟨[4 + 2 ^ 16 * 9, 3 + 2 ^ 8 * 7, 0x1000, 0, 640, 0x2000, 0, 100, 0, 0, 0, 0, 0, 0, 0, 0].map (BitVec.ofNat 32), 8⟩

/-- A picture that waits with number 0 and whose lookahead is still at work. -/
def waiting0 : Submit :=
  ⟨⟨0, 1, 4, 3, 7⟩, 0, 50, 0, 0, 0, 640, noCodes, noLookahead, noPicture, noPlanes, noHdr, 1, 5, none⟩

/-- Context 3 is RUNNING and encodes 640 × 480 without layers. It holds a picture of number 0, and 0 is also the number of
the next one. -/
def sameNumber : State :=
  let p := ctxPage 3
  let s := rset (rset (rset State.reset p 0x200 (3 + 2 ^ 16 * 7)) p 0x240 1) p 0x244 (2 ^ 16 * 480 + 640)
  modCtx (modRing s 0 ({ · with fetched := [submit100] })) 3 ({ · with submits := [waiting0] })

/-- The same state, once the SUBMIT has begun. -/
def sameNumberBegun : State :=
  modRing sameNumber 0 fun r => { r with fetched := [], running := [⟨0, 9, 4, 3, 7⟩] }

/-- The lookahead work of the pictures of context 3. -/
def workOf : Host.Outcome State Fault Refusal → List Nat
  | .next t => (getCtx t 3).submits.map (·.laWork)
  | _ => []

theorem sameNumber_begins : Begins sameNumber 0 0 4 submit100 ⟨0, 9, 4, 3, 7⟩ sameNumberBegun := ⟨rfl, by decide⟩

/-- SUBMIT writes what lookahead has measured to every picture of its number, the one that waits too. -/
theorem workOf_sameNumber : workOf (exec (.opSubmit 0 0 noCodes []) sameNumber) = [0, 0] := by decide +kernel

/-- Refutes O14: nothing bounds the numbers of the pictures that wait. A waiting picture whose number is that of the next
SUBMIT is measured with it, so the pictures before the new one are not those that waited. -/
theorem not_submittedPictures : ¬Obligations.SubmittedPictures := by
  intro h
  obtain ⟨-, -, htaken⟩ := (h.1 0 0 sameNumber sameNumberBegun submit100 ⟨0, 9, 4, 3, 7⟩ noCodes []).1 sameNumber_begins
    (by decide)
  obtain ⟨t, hexec, ⟨l, y, hsub, -, -, -, -, -, -, -, -, -, -, hplain⟩, -⟩ := htaken
    ⟨by decide, fun q (hq : none = some q) => (nomatch hq), by decide⟩ (by decide) rfl
  obtain ⟨-, -, -, hmeasured⟩ := hplain (by decide) rfl
  obtain ⟨hl, -⟩ := hmeasured (by decide)
  have hwork : workOf (exec (.opSubmit 0 0 noCodes []) sameNumber) = [1, y.laWork] := by
    have hpics : (getCtx t 3).submits = [waiting0] ++ [y] := hsub.trans (congrArg (· ++ [y]) hl)
    rw [hexec, workOf, hpics]
    rfl
  rw [workOf_sameNumber] at hwork
  exact absurd (congrArg List.head? hwork) (by simp)

end Sys2Proof.Machine
end

section
/-! PROOFS. The end of a block reset, the close of a shadow, and the stage watchdog (R87, R157, R193, R322, R323). -/

namespace Sys2Proof.Machine

/-! ### The pages of engines -/

theorem ite_ne {α : Type} {c : Prop} [Decidable c] {a b d : α} (ha : a ≠ d) (hb : b ≠ d) : (if c then a else b) ≠ d := by
  split <;> assumption

theorem kindOf_ne_ee {page : Nat} (h : 0xC0 ≤ page) : kindOf page ≠ .ee := by
  unfold kindOf
  repeat rw [if_neg (by omega)]
  repeat refine ite_ne (by decide) ?_
  decide

theorem kindOf_ne_de : ∀ page < 0xC0, kindOf page ≠ .de := by decide +kernel

/-- Encode engines stand below the first decode engine in the page map (R349). -/
theorem isEePage_of_eng {page : Nat} (h : isEngPage page = true) : isEePage page = decide (page < dePage 0) := by
  have h0 : dePage 0 = 0xC0 := rfl
  simp only [isEngPage, Bool.or_eq_true, isDePage, isEePage, beq_iff_eq] at h ⊢
  by_cases hp : page < 0xC0
  · simp [h.resolve_right (kindOf_ne_de page hp), h0, hp]
  · simp [kindOf_ne_ee (by omega : 0xC0 ≤ page), h0, hp]

theorem isPpuPage_of_eng {page : Nat} (h : isEngPage page = true) : isPpuPage page = false := by
  simp only [isEngPage, Bool.or_eq_true, isDePage, isEePage, isPpuPage, beq_iff_eq, beq_eq_false_iff_ne] at h ⊢
  rcases h with h | h <;> rw [h] <;> decide

theorem isEngPage_of_ppu {page : Nat} (h : isPpuPage page = true) : isEngPage page = false := by
  cases he : isEngPage page with
  | false => rfl
  | true => exact absurd h (ne_true_of_eq_false (isPpuPage_of_eng he))

/-- What holds of the row of either kind of engine holds of the engine's. -/
theorem engRow_ind {P : Row → Prop} (page : Nat) {ee de : Row} (he : P ee) (hd : P de) : P (engRow page ee de) := by
  unfold engRow
  split <;> assumption

/-! ### The end of a block reset -/

/-- What every block does at the end of its reset: it is out of reset, and its shadow runs from now. -/
def resetOver (s : State) (page : Nat) : State :=
  endShadow (modBdrk s fun b => { b with resets := b.resets.filter (· != page) }) page

theorem inReset_of_resetOver {s t : State} {page : Nat} (h : t.bdrk = (resetOver s page).bdrk) : inReset t page = false := by
  rw [inReset, h]
  simp [resetOver, endShadow, modBdrk]

theorem shadow_of_resetOver {s t : State} {page : Nat} (h : t.bdrk = (resetOver s page).bdrk) :
    tget (some 0) t.bdrk.shadows page = some s.devtime := by
  rw [h]
  exact tget_tput_self _ _ _ _

/-- An engine or a PPU that owes no test is ready with its domain. -/
theorem endReset_untested {s : State} {page : Nat} (hk : isEngPage page = true ∨ isPpuPage page = true)
    (ht : (getEng s page).wantTest = false) :
    endReset s page = fsetb (resetOver s page) page F.HDR_BLK_READY_READY (readyBit s (domainOf page)) := by
  have hw : (getEng (fsetb (resetOver s page) page F.HDR_BLK_READY_READY (readyBit s (domainOf page))) page).wantTest = false := ht
  rcases hk with he | hp
  · unfold endReset
    dsimp only
    rw [if_pos he, if_neg]
    · rfl
    · exact ne_true_of_eq_false hw
  · unfold endReset
    dsimp only
    rw [if_neg (ne_true_of_eq_false (isEngPage_of_ppu hp)), if_pos hp, if_neg]
    · rfl
    · exact ne_true_of_eq_false hw

/-- Bedrock's state is that of the end of the reset, but where a PPU tests itself. -/
theorem endReset_bdrk {s : State} {page : Nat} (h : isPpuPage page = false ∨ (getEng s page).wantTest = false) :
    (endReset s page).bdrk = (resetOver s page).bdrk := by
  have hrefl : Keeps [.regs, .ctxs, .engines, .banks, .srcs, .doms] (resetOver s page) (resetOver s page) := .refl _ _
  by_cases hp : isPpuPage page = true
  · rw [endReset_untested (.inr hp) (h.resolve_left (ne_false_of_eq_true hp))]
    rfl
  refine Keeps.bdrk (w := [.regs, .ctxs, .engines, .banks, .srcs, .doms]) ?_ (by decide)
  have hready := fsetb_keeps (page := page) (r := F.HDR_BLK_READY_READY) (b' := readyBit s (domainOf page)) (i := 0) hrefl rfl
  unfold endReset
  dsimp only
  split
  · exact .ite (startTest_keeps (fset_keeps (modEng_keeps hready rfl) rfl) rfl) hready
  split
  · exact .ite (setBank_keeps (modBank_keeps (requestWake_keeps hready rfl) rfl) rfl) (syncBank_keeps hready rfl)
  split
  · exact setBlk_keeps hrefl rfl
  · exact hrefl

theorem endReset_mem (s : State) (page : Nat) : (endReset s page).mem = s.mem :=
  (endReset_keeps (.refl [.free, .regs, .ctxs, .engines, .banks, .disp, .srcs, .doms, .bdrk] s) rfl).mem (by decide)

/-! ### The stage watchdog -/

theorem noteStall_of_not_eng {s : State} {page held detail : Nat} (h : isEngPage page = false) :
    noteStall s page held detail = s := by
  rw [noteStall, if_neg (by simp [h])]

theorem noteStall_of_le {s : State} {page held detail : Nat} (h : held ≤ 1) : noteStall s page held detail = s := by
  rw [noteStall, if_neg (by simp [h])]

/-- The register of STAGE_STALL, and nothing else. -/
theorem noteStall_sameRegs (s : State) (page held detail : Nat) :
    SameRegs s (noteStall s page held detail) fun q off =>
      q = page ∧ off = (engRow page F.EE_STAGE_STALL_STAGE F.DE_STAGE_STALL_STAGE).off := by
  have hrow := engRow_ind (P := fun r => r.at 0 = r.off ∧ r.at 0 < 4096) page (ee := F.EE_STAGE_STALL_STAGE)
    (de := F.DE_STAGE_STALL_STAGE) (by decide) (by decide)
  unfold noteStall
  split
  · exact (SameRegs.refl _ _).then_fset hrow.2 ⟨rfl, hrow.1⟩ _
  · exact .refl _ _

theorem noteStall_regs (s : State) (page held detail : Nat) :
    noteStall s page held detail = { s with regs := (noteStall s page held detail).regs } :=
  eq_regs_of_keeps fun _ hw => noteStall_keeps (.refl _ s) hw

/-- The bit of the stage that held its unit is set. -/
theorem fget_noteStall {s : State} {page held detail : Nat} (he : isEngPage page = true) (h1 : 1 < held) :
    let stall := engRow page F.EE_STAGE_STALL_STAGE F.DE_STAGE_STALL_STAGE
    fget (noteStall s page held detail) page stall =
      fget s page stall ||| 2 ^ (detail % if page < dePage 0 then 8 else 5) := by
  intro stall
  have hee := isEePage_of_eng he
  rw [noteStall, if_pos (by simp [he, h1]), fget_fset_self _ _ _ _ _
    (engRow_ind (P := fun r => r.lo + r.width ≤ 32) page (by decide) (by decide))]
  simp only [hee, decide_eq_true_eq]
  refine Nat.mod_eq_of_lt (Nat.or_lt_two_pow (fget_lt _ _ _ _) (Nat.pow_lt_pow_right (by decide) ?_))
  simp only [engRow, hee, decide_eq_true_eq]
  split
  · exact Nat.mod_lt _ (by decide)
  · exact Nat.mod_lt _ (by decide)

theorem watchdog_ne_stall (page : Nat) : (engRow page F.EE_WATCHDOG_PERIOD_US F.DE_WATCHDOG_PERIOD_US).at 0 ≠
    (engRow page F.EE_STAGE_STALL_STAGE F.DE_STAGE_STALL_STAGE).off := by
  unfold engRow
  split <;> decide

theorem exec_stageWatchdog_eng {s : State} {page : Nat} (he : isEngPage page = true) (hh : (getEng s page).held ≠ [])
    (held detail : Nat) :
    exec (.stageWatchdogExpiry page held detail) s = .next
      (if fget s page (engRow page F.EE_WATCHDOG_PERIOD_US F.DE_WATCHDOG_PERIOD_US) < held then
        raiseFault (noteStall s page held detail) page 3 (detail % 2 ^ 16) false
      else noteStall s page held detail) := by
  have hp := isPpuPage_of_eng he
  have hperiod : fget (noteStall s page held detail) page (engRow page F.EE_WATCHDOG_PERIOD_US F.DE_WATCHDOG_PERIOD_US) =
      fget s page (engRow page F.EE_WATCHDOG_PERIOD_US F.DE_WATCHDOG_PERIOD_US) :=
    (noteStall_sameRegs s page held detail).fget (engRow_ind (P := fun r => r.at 0 < 4096) page (by decide) (by decide))
      fun k => watchdog_ne_stall page k.2
  change execStageWatchdogExpiry page held detail s = _
  rw [execStageWatchdogExpiry, hp]
  dsimp only
  rw [if_neg Bool.false_ne_true, if_pos (by simp [he, hh]), if_neg Bool.false_ne_true, hperiod]

theorem exec_stageWatchdog_ppu {s : State} {page : Nat} (hp : isPpuPage page = true) (hh : (getEng s page).held ≠ [])
    (held detail : Nat) :
    exec (.stageWatchdogExpiry page held detail) s = .next
      (if fget s page F.PPU_WATCHDOG_PERIOD_US < held then raiseFault s page 2 (detail % 2 ^ 16) false else s) := by
  change execStageWatchdogExpiry page held detail s = _
  rw [execStageWatchdogExpiry, hp]
  dsimp only
  rw [if_pos rfl, if_pos (by simp [hh]), if_pos rfl, noteStall_of_not_eng (isEngPage_of_ppu hp)]

theorem exec_stageWatchdog_idle {s : State} {page : Nat} (hh : (getEng s page).held = []) (held detail : Nat) :
    exec (.stageWatchdogExpiry page held detail) s = .next s := if_neg (by simp [hh])

/-- STAGE_WATCHDOG_EXPIRY of an engine that holds work, by how long the stage held its unit. -/
theorem stageWatchdog_eng {s : State} {page : Nat} (he : isEngPage page = true) (hh : (getEng s page).held ≠ [])
    (held detail : Nat) :
    let period := engRow page F.EE_WATCHDOG_PERIOD_US F.DE_WATCHDOG_PERIOD_US
    let stall := engRow page F.EE_STAGE_STALL_STAGE F.DE_STAGE_STALL_STAGE
    let stages := if page < dePage 0 then 8 else 5
    (held ≤ fget s page period → held ≤ 1 → Does (.stageWatchdogExpiry page held detail) s fun t => t = s) ∧
    (held ≤ fget s page period → 1 < held → Does (.stageWatchdogExpiry page held detail) s fun t =>
      fget t page stall = fget s page stall ||| 2 ^ (detail % stages) ∧ t = { s with regs := t.regs } ∧
      SameRegs s t fun q off => q = page ∧ off = stall.off) ∧
    (fget s page period < held → Does (.stageWatchdogExpiry page held detail) s fun t =>
      t = raiseFault (noteStall s page held detail) page 3 (detail % 2 ^ 16) false) := by
  intro period stall stages
  have hexec := exec_stageWatchdog_eng he hh held detail
  refine ⟨fun hle h1 => ⟨s, ?_, rfl⟩, fun hle h1 => ⟨noteStall s page held detail, ?_, fget_noteStall he h1,
    noteStall_regs s page held detail, noteStall_sameRegs s page held detail⟩, fun hlt => ⟨_, ?_, rfl⟩⟩
  · rw [hexec, if_neg (Nat.not_lt.2 hle), noteStall_of_le h1]
  · rw [hexec, if_neg (Nat.not_lt.2 hle)]
  · rw [hexec, if_pos hlt]

/-- STAGE_WATCHDOG_EXPIRY of a PPU that holds a job. -/
theorem stageWatchdog_ppu {s : State} {page : Nat} (hp : isPpuPage page = true) (hh : (getEng s page).held ≠ [])
    (held detail : Nat) :
    (held ≤ fget s page F.PPU_WATCHDOG_PERIOD_US → Does (.stageWatchdogExpiry page held detail) s fun t => t = s) ∧
    (fget s page F.PPU_WATCHDOG_PERIOD_US < held → Does (.stageWatchdogExpiry page held detail) s fun t =>
      t = raiseFault s page 2 (detail % 2 ^ 16) false) := by
  have hexec := exec_stageWatchdog_ppu hp hh held detail
  refine ⟨fun hle => ⟨s, ?_, rfl⟩, fun hlt => ⟨_, ?_, rfl⟩⟩
  · rw [hexec, if_neg (Nat.not_lt.2 hle)]
  · rw [hexec, if_pos hlt]

/-- Settles O59: each command by what it does in its case. -/
theorem resetsAndShadowsEnd : Obligations.ResetsAndShadowsEnd := by
  intro page s p
  refine ⟨fun hin hk => ⟨endReset s p, if_pos hin, ?_⟩, fun hin hk ht => ⟨endReset s p, if_pos hin, ?_⟩,
    fun hin => ⟨s, if_neg (ne_true_of_eq_false hin), rfl⟩, fun ho => ⟨s, if_pos ho, rfl⟩,
    fun ho => ⟨_, if_neg (ne_true_of_eq_false ho), ?_, rfl⟩,
    fun held detail he hh => stageWatchdog_eng he hh held detail,
    fun held detail hp hh => stageWatchdog_ppu hp hh held detail,
    fun held detail hh => ⟨s, exec_stageWatchdog_idle hh held detail, rfl⟩⟩
  · have hb := endReset_bdrk hk
    exact ⟨inReset_of_resetOver hb, shadow_of_resetOver hb, sameMem_of_mem (endReset_mem s p)⟩
  · rw [endReset_untested hk ht]
    exact fbit_fsetb_self _ _ _ _ _ (by decide) (by decide)
  · exact tget_tput_self (some 0) s.bdrk.shadows page (some 0)

end Sys2Proof.Machine
end

section
/-! PROOFS. Engines as units: what a change of service writes, and the registers of a self-test (R88, R164–R169). -/

namespace Sys2Proof.Machine

/-! ### The pages of engines -/

theorem engine_facts : ∀ p ∈ eePages ++ dePages, isEngPage p = true ∧ 0xA0 ≤ p ∧ p < 0xD2 ∧ domainOf p < 60 ∧
    blockPage p = p ∧ hasHeader p = true := by decide

theorem engPage_mem (kind : EngKind) (n : Fin 18) : engPage kind n ∈ eePages ++ dePages := by
  revert n
  cases kind <;> decide

theorem mem_of_kindPages {page p : Nat} (h : p ∈ kindPages page) : p ∈ eePages ++ dePages := by
  unfold kindPages at h
  split at h
  · exact List.mem_append_left _ h
  · exact List.mem_append_right _ h

theorem engRow_apart (page : Nat) {a b c d : Row} (ee : apart a c = true) (de : apart b d = true) :
    apart (engRow page a b) (engRow page c d) = true := by
  unfold engRow
  split <;> assumption

theorem engRow_at_lt (page : Nat) {a b : Row} (ee : a.at 0 < 4096) (de : b.at 0 < 4096) : (engRow page a b).at 0 < 4096 :=
  engRow_ind (P := fun r => r.at 0 < 4096) page ee de

/-! ### What a change of service writes -/

/-- The registers that a change of service writes: those of units and contexts, the states of domains, PLACE_STAT and
IRQ_STATUS of the chip. -/
def roster (q o : Nat) : Prop := 0x10 ≤ q ∨ q = 0 ∧ (o = 0x10C ∨ o = 0x2C)

/-- Those that one unit's entry into service writes. -/
def entering (page q o : Nat) : Prop := q = page ∨ 0x400 ≤ q ∨ q = 0 ∧ (o = 0x10C ∨ o = 0x2C)

theorem roster_of_entering {page q o : Nat} (hp : 0x10 ≤ page) (h : entering page q o) : roster q o := by
  unfold entering at h
  unfold roster
  omega

theorem SameRegs.then_disp {s t : State} {hit : Nat → Nat → Prop} (h : SameRegs s t hit) (d : Disp) :
    SameRegs s { t with disp := d } hit := h.then_regs rfl

theorem setBlk_sameRegs (s : State) (page : Nat) (ready inService : Bool) (st : Nat) :
    SameRegs s (setBlk s page ready inService st) fun q o => q = page ∧ o = 4 :=
  (((SameRegs.refl s _).then_fset (by decide) ⟨rfl, rfl⟩ _).then_fset (by decide) ⟨rfl, rfl⟩ _).then_fset (by decide) ⟨rfl, rfl⟩ _

theorem syncPlaceStat_sameRegs (s : State) : SameRegs s (syncPlaceStat s) fun q o => q = 0 ∧ o = 0x10C :=
  ((((SameRegs.refl s _).then_fset (by decide) ⟨rfl, rfl⟩ _).then_fset (by decide) ⟨rfl, rfl⟩ _).then_fset (by decide)
    ⟨rfl, rfl⟩ _).then_fset (by decide) ⟨rfl, rfl⟩ _

theorem syncPins_sameRegs (s : State) : SameRegs s (syncPins s) fun q _ => 0x400 ≤ q := by
  refine (SameRegs.refl s _).foldl fun u c _ => ?_
  have hc : 0x400 ≤ ctxPage c := by unfold ctxPage; omega
  unfold syncPin
  dsimp only
  split
  · exact .refl _ _
  · have hset := (SameRegs.refl u fun q _ => 0x400 ≤ q).then_fset (p := ctxPage c) (r := F.CTX_PLACE_XSTAT_UNPINNED)
      (i := 0) (by decide) hc (if lostMasks u c then 1 else 0)
    split
    · exact hset.then_setIrq hc _
    · exact hset

/-- A row of the engine kinds, at an offset that each of them has. -/
theorem setTest_sameRegs (s : State) (page v : Nat) {ee de : Row} {P : Nat → Prop} (he : ee.at 0 < 4096 ∧ P (ee.at 0))
    (hd : de.at 0 < 4096 ∧ P (de.at 0)) : SameRegs s (setTest s page ee de v) fun q o => q = page ∧ P o :=
  have hrow := engRow_ind (P := fun r => r.at 0 < 4096 ∧ P (r.at 0)) page he hd
  (SameRegs.refl s fun q o => q = page ∧ P o).then_fset (r := engRow page ee de) (i := 0) hrow.1 ⟨rfl, hrow.2⟩ v

theorem setStandby_sameRegs (s : State) (page : Nat) (b : Bool) :
    SameRegs s (setStandby s page b) fun q o => q = page ∧ o = 0x40 :=
  (SameRegs.refl s _).then_fset (engRow_at_lt page (by decide) (by decide))
    ⟨rfl, engRow_ind (P := fun r => r.at 0 = 0x40) page rfl rfl⟩ _

theorem setTestRunning_sameRegs (s : State) (page : Nat) (b : Bool) :
    SameRegs s (setTestRunning s page b) fun q o => q = page ∧ o = 0x40 :=
  (SameRegs.refl s _).then_fset (engRow_at_lt page (by decide) (by decide))
    ⟨rfl, engRow_ind (P := fun r => r.at 0 = 0x40) page rfl rfl⟩ _

theorem endTest_sameRegs (s : State) (page : Nat) (pass aborted : Bool) (us : Nat) :
    SameRegs s (endTest s page pass aborted us) fun q o => q = page ∧ o ≠ 4 :=
  ((((((setTestRunning_sameRegs s page false).mono fun _ _ h => ⟨h.1, by omega⟩).trans
    (setTest_sameRegs _ page _ (by decide) (by decide))).trans (setTest_sameRegs _ page _ (by decide) (by decide))).trans
    (setTest_sameRegs _ page _ (by decide) (by decide))).trans (setTest_sameRegs _ page _ (by decide) (by decide))).then_setIrq
    ⟨rfl, by decide⟩ _

/-- What follows the new state of a unit that enters service: its own BLK_READY stays. -/
theorem enterService_sameRegs (s : State) (page : Nat) : SameRegs (setBlk s page true true 2) (enterService s page) fun q o =>
    q = page ∧ o ≠ 4 ∨ 0x400 ≤ q ∨ q = 0 ∧ (o = 0x10C ∨ o = 0x2C) := by
  have hnominal : ∀ t : State, SameRegs t (if isEngPage page then
      setTest (setTest (setStandby t page false) page F.EE_SPEED_SIGMA F.DE_SPEED_SIGMA 512) page F.EE_RATE_FACTOR
        F.DE_RATE_FACTOR 512 else t) fun q o => q = page ∧ o ≠ 4 := by
    intro t
    split
    · exact (((setStandby_sameRegs t page false).mono fun _ _ h => ⟨h.1, by omega⟩).trans
        (setTest_sameRegs _ page _ (by decide) (by decide))).trans (setTest_sameRegs _ page _ (by decide) (by decide))
    · exact .refl _ _
  have hjoined : ∀ t : State, SameRegs t (syncPins (unitAdmitted (syncPlaceStat t))) fun q o =>
      0x400 ≤ q ∨ q = 0 ∧ (o = 0x10C ∨ o = 0x2C) := fun t =>
    (((syncPlaceStat_sameRegs t).mono fun _ _ h => .inr ⟨h.1, .inl h.2⟩).then_setIrq (.inr ⟨rfl, .inr rfl⟩) _).trans
      ((syncPins_sameRegs _).mono fun _ _ => .inl)
  have hreset : SameRegs (setBlk s page true true 2) (modEng (setBlk s page true true 2) page fun e => { e with
      draining := false, toStandby := false, retired := false, admitWait := false, waking := false, wantTest := false
      coded := 0, ests := [], actuals := [], ideals := [] }) fun q o => q = page ∧ o ≠ 4 := sameRegs_of_regs rfl
  exact (((hreset.trans (hnominal _)).then_disp _).mono fun _ _ => .inl).trans ((hjoined _).mono fun _ _ => .inr)

theorem enterService_entering (s : State) (page : Nat) : SameRegs s (enterService s page) (entering page) :=
  ((setBlk_sameRegs s page true true 2).mono fun _ _ h => .inl h.1).trans
    ((enterService_sameRegs s page).mono fun _ _ h => h.imp And.left id)

/-- A unit that is called in writes no register of another unit. -/
theorem callIn_sameRegs (s : State) (page : Nat) : SameRegs s (callIn s page) (entering page) := by
  have htest : SameRegs s (if testRunning s page then endTest s page false true 0 else s) (entering page) := by
    split
    · exact (endTest_sameRegs s page false true 0).mono fun _ _ h => .inl h.1
    · exact .refl _ _
  have hserve : ∀ t : State, SameRegs t (if domOn t (domainOf page) then enterService t page
      else requestWake (modEng t page ({ · with waking := true })) (domainOf page)) (entering page) := by
    intro t
    split
    · exact enterService_entering t page
    · exact sameRegs_of_regs ((requestWake_keeps (modEng_keeps (.refl [.engines, .doms] t) rfl) rfl).regs (by decide))
  exact htest.trans (hserve _)

theorem deviceOff_sameRegs (s : State) {page : Nat} (hd : domainOf page < 60) :
    SameRegs s (deviceOff s page) fun q _ => q = 0x10 := by
  have hat : F.PWR_DOM_STAT_STATE.at (domainOf page) = 0x100 + 4 * domainOf page := rfl
  unfold deviceOff
  split
  · exact ((SameRegs.refl s fun q _ => q = 0x10).then_fset (p := 0x10) (r := F.PWR_DOM_STAT_STATE) (by omega) rfl 4).then_regs
      (setDomState_regs s _ 4)
  · exact .refl _ _

/-! ### A unit enters or leaves service -/

theorem blkInService_setBlk (s : State) (page : Nat) (ready inService : Bool) (st : Nat) :
    blkInService (setBlk s page ready inService st) page = inService := by
  rw [blkInService, fbit, setBlk, fget_fset_apart _ _ _ _ _ _ (by decide)]
  exact fbit_fsetb_self _ _ _ _ _ (by decide) (by decide)

theorem SameRegs.blkInService {s t : State} {hit : Nat → Nat → Prop} (h : SameRegs s t hit) {page : Nat} (hn : ¬hit page 4) :
    blkInService t page = blkInService s page := h.fbit (by decide) hn

theorem SameRegs.testRunning {s t : State} {hit : Nat → Nat → Prop} (h : SameRegs s t hit) {page : Nat}
    (hn : ¬hit page 0x40) : testRunning t page = testRunning s page := by
  have hrow := engRow_ind (P := fun r => r.at 0 = 0x40) page (ee := F.EE_STATUS_SELFTEST_RUN) (de := F.DE_STATUS_SELFTEST_RUN)
    rfl rfl
  unfold Machine.testRunning
  rw [h.fbit (by omega) (by rwa [hrow])]

theorem SameRegs.isStandby {s t : State} {hit : Nat → Nat → Prop} (h : SameRegs s t hit) {page : Nat}
    (hn : ¬hit page 0x40) : isStandby t page = isStandby s page := by
  have hrow := engRow_ind (P := fun r => r.at 0 = 0x40) page (ee := F.EE_STATUS_STANDBY) (de := F.DE_STATUS_STANDBY)
    rfl rfl
  unfold Machine.isStandby
  rw [h.fbit (by omega) (by rwa [hrow])]

theorem isStandby_setStandby {s : State} {page : Nat} (he : isEngPage page = true) (b : Bool) :
    isStandby (setStandby s page b) page = b := by
  rw [isStandby, he, Bool.true_and]
  exact fbit_fsetb_self _ _ _ _ _ (engRow_ind (P := fun r => r.lo + r.width ≤ 32) page (by decide) (by decide))
    (engRow_ind (P := fun r => 0 < r.width) page (by decide) (by decide))

theorem testRunning_setTestRunning {s : State} {page : Nat} (he : isEngPage page = true) (b : Bool) :
    testRunning (setTestRunning s page b) page = b := by
  rw [testRunning, he, Bool.true_and]
  exact fbit_fsetb_self _ _ _ _ _ (engRow_ind (P := fun r => r.lo + r.width ≤ 32) page (by decide) (by decide))
    (engRow_ind (P := fun r => 0 < r.width) page (by decide) (by decide))

theorem blkInService_enterService (s : State) {page : Nat} (hp : page ∈ eePages ++ dePages) :
    blkInService (enterService s page) page = true := by
  obtain ⟨-, hlo, hhi, -⟩ := engine_facts page hp
  rw [(enterService_sameRegs s page).blkInService (by omega), blkInService_setBlk]

/-- The unit that takes the place of another is a standby. -/
theorem replaceUnit_sameRegs (s : State) (page : Nat) :
    SameRegs s (replaceUnit s page) fun q o => ∃ p ∈ standbys s page, entering p q o := by
  unfold replaceUnit
  split
  · next p _ hs =>
    split
    · exact ((SameRegs.refl s _).then_regs rfl).trans ((callIn_sameRegs _ p).mono fun _ _ h => ⟨p, by rw [hs]; simp, h⟩)
    · exact .refl _ _
  · exact .refl _ _

theorem standbys_ne {s : State} {page p : Nat} (h : isStandby s page = false) (hm : p ∈ standbys s page) : p ≠ page := by
  rintro rfl
  have hp := (List.mem_filter.1 hm).2
  simp [h] at hp

/-- An engine that is out of service takes no part in what follows. -/
theorem outOfService_sameRegs (s : State) {page : Nat} (hp : page ∈ eePages ++ dePages) :
    SameRegs s (syncPlaceStat (if isEngPage page then setStandby s page false else s)) fun q o =>
      q = page ∧ o = 0x40 ∨ q = 0 ∧ o = 0x10C := by
  refine SameRegs.trans ?_ ((syncPlaceStat_sameRegs _).mono fun _ _ => .inr)
  rw [if_pos (engine_facts page hp).1]
  exact (setStandby_sameRegs s page false).mono fun _ _ => .inl

theorem isStandby_outOfService (s : State) {page : Nat} (hp : page ∈ eePages ++ dePages) :
    isStandby (syncPlaceStat (if isEngPage page then setStandby s page false else s)) page = false := by
  obtain ⟨he, hlo, -⟩ := engine_facts page hp
  rw [(syncPlaceStat_sameRegs _).isStandby (by omega), if_pos he]
  exact isStandby_setStandby he false

theorem replaced_sameRegs {s : State} {page : Nat} (hp : page ∈ eePages ++ dePages) (h : isStandby s page = false) (b : Bool) :
    SameRegs s (if b && isEngPage page then replaceUnit s page else s) fun q o => ¬(q = page ∧ o = 4) := by
  obtain ⟨-, hlo, hhi, -⟩ := engine_facts page hp
  split
  · exact (replaceUnit_sameRegs s page).mono fun q o ⟨p, hm, hq⟩ => by
      have := standbys_ne h hm
      unfold entering at hq
      omega
  · exact .refl _ _

theorem toldRetired_sameRegs (s : State) (b : Bool) :
    SameRegs s (syncPins (if b then unitRetired s else s)) fun q o => 0x400 ≤ q ∨ q = 0 ∧ o = 0x2C := by
  refine SameRegs.trans ?_ ((syncPins_sameRegs _).mono fun _ _ => .inl)
  split
  · exact (SameRegs.refl _ _).then_setIrq (.inr ⟨rfl, rfl⟩) _
  · exact .refl _ _

/-- A unit that leaves service is out of it, whatever takes its place. -/
theorem blkInService_leaveService {s : State} {page : Nat} (hp : page ∈ eePages ++ dePages) (code : Nat) :
    blkInService (leaveService s page code) page = false := by
  obtain ⟨-, hlo, hhi, -⟩ := engine_facts page hp
  have hmod : ∀ f, SameRegs (setBlk s page (blkReady s page) false code) (modEng (setBlk s page (blkReady s page) false code) page f)
    fun q o => ¬(q = page ∧ o = 4) := fun f => sameRegs_of_regs rfl
  have hleave : SameRegs (setBlk s page (blkReady s page) false code) (leaveService s page code) fun q o =>
      ¬(q = page ∧ o = 4) :=
    (((hmod _).trans ((outOfService_sameRegs _ hp).mono fun q o h => by omega)).trans
      (replaced_sameRegs hp (isStandby_outOfService _ hp) _)).trans ((toldRetired_sameRegs _ _).mono fun q o h => by omega)
  rw [hleave.blkInService (by simp), blkInService_setBlk]

end Sys2Proof.Machine
end

section
/-! PROOFS. Engines: self-tests, retirement, admission, draining and CAPACITY (R88, R156, R165, R167–R169). -/

namespace Sys2Proof.Machine

/-! ### The registers of a self-test -/

theorem fget_setTest_self (s : State) (page : Nat) {ee de : Row} {v : Nat} (he : ee.lo + ee.width ≤ 32 ∧ v < 2 ^ ee.width)
    (hd : de.lo + de.width ≤ 32 ∧ v < 2 ^ de.width) : fget (setTest s page ee de v) page (engRow page ee de) = v := by
  have hrow := engRow_ind (P := fun r => r.lo + r.width ≤ 32 ∧ v < 2 ^ r.width) page he hd
  rw [setTest, fget_fset_self _ _ _ _ _ hrow.1, Nat.mod_eq_of_lt hrow.2]

theorem fget_setTest_apart (s : State) (page v : Nat) {a b c d : Row} (he : apart a c = true) (hd : apart b d = true) :
    fget (setTest s page a b v) page (engRow page c d) = fget s page (engRow page c d) :=
  fget_fset_apart _ _ _ _ _ _ (engRow_apart page he hd)

theorem setTestRunning_eq (s : State) (page : Nat) (b : Bool) :
    setTestRunning s page b = setTest s page F.EE_STATUS_SELFTEST_RUN F.DE_STATUS_SELFTEST_RUN (if b then 1 else 0) := rfl

/-- A test has started: it runs, and DONE is clear. -/
theorem startTest_starts (s : State) {page : Nat} (he : isEngPage page = true) :
    testRunning (startTest s page) page = true ∧
      fget (startTest s page) page (engRow page F.EE_SELFTEST_DONE F.DE_SELFTEST_DONE) = 0 ∧ (startTest s page).mem = s.mem := by
  have hwake : ∀ t : State, (requestWake t (domainOf page)).regs = t.regs := fun t =>
    (requestWake_keeps (.refl [.doms] t) rfl).regs (by decide)
  refine ⟨testRunning_setTestRunning he true, ?_, (startTest_keeps (.refl [.regs, .doms] s) rfl).mem (by decide)⟩
  unfold startTest
  dsimp only
  rw [setTestRunning_eq, fget_setTest_apart _ _ _ (by decide) (by decide), fget_congr (hwake _),
    fget_setTest_apart _ _ _ (by decide) (by decide), fget_setTest_self _ _ (by decide) (by decide)]

/-- What a test that has ended shows. -/
theorem endTest_shows (s : State) {page : Nat} (he : isEngPage page = true) (pass aborted : Bool) (us : Nat) :
    testRunning (endTest s page pass aborted us) page = false ∧
      fget (endTest s page pass aborted us) page (engRow page F.EE_SELFTEST_DONE F.DE_SELFTEST_DONE) = 1 ∧
      fget (endTest s page pass aborted us) page (engRow page F.EE_SELFTEST_PASS F.DE_SELFTEST_PASS) = if pass then 1 else 0 := by
  have hirq : ∀ (t : State) {r : Row}, r.at 0 < 4096 → r.at 0 ≠ 0x2C → fget (setIrq t page 2) page r = fget t page r :=
    fun t r ho hn => (sameRegs_setIrq t page 2).fget ho fun h => hn h.2
  have hrow : ∀ {a b : Row}, (a.at 0 < 4096 ∧ a.at 0 ≠ 0x2C) → (b.at 0 < 4096 ∧ b.at 0 ≠ 0x2C) →
      (engRow page a b).at 0 < 4096 ∧ (engRow page a b).at 0 ≠ 0x2C :=
    fun ha hb => engRow_ind (P := fun r => r.at 0 < 4096 ∧ r.at 0 ≠ 0x2C) page ha hb
  unfold endTest
  dsimp only
  refine ⟨?run, ?done, ?pass⟩
  case run =>
    obtain ⟨ho, hn⟩ := hrow (a := F.EE_STATUS_SELFTEST_RUN) (b := F.DE_STATUS_SELFTEST_RUN) (by decide) (by decide)
    rw [testRunning, he, Bool.true_and, fbit, hirq _ ho hn, fget_setTest_apart _ _ _ (by decide) (by decide),
      fget_setTest_apart _ _ _ (by decide) (by decide), fget_setTest_apart _ _ _ (by decide) (by decide),
      fget_setTest_apart _ _ _ (by decide) (by decide), setTestRunning_eq, fget_setTest_self _ _ (by decide) (by decide)]
    rfl
  case done =>
    obtain ⟨ho, hn⟩ := hrow (a := F.EE_SELFTEST_DONE) (b := F.DE_SELFTEST_DONE) (by decide) (by decide)
    rw [hirq _ ho hn, fget_setTest_apart _ _ _ (by decide) (by decide), fget_setTest_apart _ _ _ (by decide) (by decide),
      fget_setTest_apart _ _ _ (by decide) (by decide), fget_setTest_self _ _ (by decide) (by decide)]
  case pass =>
    obtain ⟨ho, hn⟩ := hrow (a := F.EE_SELFTEST_PASS) (b := F.DE_SELFTEST_PASS) (by decide) (by decide)
    rw [hirq _ ho hn, fget_setTest_apart _ _ _ (by decide) (by decide), fget_setTest_apart _ _ _ (by decide) (by decide),
      fget_setTest_self _ _ (by cases pass <;> decide) (by cases pass <;> decide)]

/-- The engine after a test whose end no ADMIT waits for. -/
theorem afterTest_eq {s : State} {page : Nat} (hw : (getEng s page).admitWait = false) (pass : Bool) :
    ∃ f : State → State, afterTest s page pass = f (setAdmit (modEng s page ({ · with
        tested := pass, testedSince := pass, admitWait := false })) page false) ∧
      (∀ t, (f t).engines = t.engines) ∧
      (domainOf page < 60 → ∀ t, SameRegs t (f t) fun q o => q = page ∧ o = 4 ∨ q = 0x10) := by
  have hblk : ∀ (t : State) (r : Row) (v : Nat), r.at 0 = 4 → SameRegs t (fset t page r v) fun q o => q = page ∧ o = 4 ∨ q = 0x10 :=
    fun t r v ho => (SameRegs.refl t _).then_fset (by omega) (.inl ⟨rfl, ho⟩) v
  cases pass with
  | false =>
    refine ⟨fun t => if blkInService t page || isStandby t page then t else fset t page F.HDR_BLK_READY_STATE 6, rfl, fun t => ?_,
      fun _ t => ?_⟩
    · dsimp only
      split <;> rfl
    · dsimp only
      split
      · exact .refl _ _
      · exact hblk t _ _ rfl
  | true =>
    let g (t : State) : State :=
      if isStandby t page then deviceOff t page else if blkInService t page then t else fset t page F.HDR_BLK_READY_STATE 5
    refine ⟨fun t => g (fset t page F.HDR_BLK_READY_READY 1), ?_, fun t => ?_, fun hd t => ?_⟩
    · unfold afterTest
      dsimp only
      rw [hw]
      rfl
    · dsimp only [g]
      split
      · exact (deviceOff_keeps (.refl [.regs, .srcs, .doms, .bdrk] _) rfl).engines (by decide)
      · split <;> rfl
    · refine (hblk t F.HDR_BLK_READY_READY 1 rfl).trans ?_
      dsimp only [g]
      split
      · exact (deviceOff_sameRegs _ hd).mono fun _ _ => .inr
      · split
        · exact .refl _ _
        · exact hblk _ _ _ rfl

theorem afterTest_sameRegs {s : State} {page : Nat} (hd : domainOf page < 60) (hw : (getEng s page).admitWait = false)
    (pass : Bool) : SameRegs s (afterTest s page pass) fun q o =>
      q = page ∧ (o = (engRow page F.EE_SVC_CTL_ADMIT F.DE_SVC_CTL_ADMIT).at 0 ∨ o = 4) ∨ q = 0x10 := by
  obtain ⟨f, hf, -, hregs⟩ := afterTest_eq hw pass
  rw [hf]
  refine SameRegs.trans ?_ ((hregs hd _).mono fun q o h => h.imp (fun e => ⟨e.1, .inr e.2⟩) id)
  refine (SameRegs.then_regs (.refl s _) (modEng_regs s page _)).then_fset (engRow_at_lt page ?_ ?_) (.inl ⟨rfl, .inl rfl⟩) _
  · decide
  · decide

theorem tested_afterTest {s : State} {page : Nat} (hw : (getEng s page).admitWait = false) (pass : Bool) :
    (getEng (afterTest s page pass) page).tested = pass := by
  obtain ⟨f, hf, heng, -⟩ := afterTest_eq hw pass
  have hadmit : ∀ t : State, getEng (setAdmit t page false) page = getEng t page := fun _ => rfl
  rw [hf, getEng_congr (heng _), hadmit, getEng_modEng]

/-! ### A test that failed -/

theorem logFault_sameRegs (s : State) (page src react detail : Nat) (sec forced : Bool) :
    SameRegs s (logFault s page src react detail sec forced) fun q _ => q = 8 := by
  have hqueue : ∀ e : LogEntry, SameRegs s (logEnqueue s e) fun q _ => q = 8 := fun e p o ho hn =>
    (logEnqueue_sparesLog s e).regs p o hn ho
  unfold logFault
  dsimp only
  split
  · exact sameRegs_of_regs rfl
  · split
    · exact hqueue _
    · exact (hqueue _).then_regs rfl

/-- A source class under a reaction up to IRQ is captured, counted and logged. -/
theorem react_sameRegs (s : State) {page n code detail : Nat} (hc : code ≤ 2) (hp : page ≠ 0) (sec forced : Bool) :
    SameRegs s (react s page n code detail sec forced) fun q _ => q ≠ 0 := by
  have hlog : SameRegs s (if 1 ≤ code then logFault s page n code detail sec forced else s) fun q _ => q ≠ 0 := by
    split
    · exact (logFault_sameRegs s page n code detail sec forced).mono fun q _ h => by omega
    · exact .refl _ _
  unfold react
  dsimp only
  rw [if_neg (by omega : ¬code = 5), if_neg (by omega : ¬3 ≤ code)]
  split
  · exact hlog.then_setIrq hp _
  · exact hlog

theorem reactOf_congr {s t : State} {hit : Nat → Nat → Prop} (h : SameRegs s t hit) {page : Nat} (h1 : ¬hit page 0x1C)
    (h2 : ¬hit page 0x20) (n : Nat) : reactOf t page n = reactOf s page n := by
  have hr0 : fget t page F.HDR_FAULT_REACT0_REACT = fget s page F.HDR_FAULT_REACT0_REACT := h.fget (by decide) h1
  have hr1 : fget t page F.HDR_FAULT_REACT1_REACT = fget s page F.HDR_FAULT_REACT1_REACT := h.fget (by decide) h2
  unfold reactOf
  rw [hr0, hr1]

/-- SELFTEST_FAIL of an engine has no effect beyond its reaction. -/
theorem selftestFail_facts : ∀ p ∈ eePages ++ dePages, 1 < faultCount p - 1 ∧ faultCount p - 1 < faultCount p ∧
    sevOf p (faultCount p - 1) = 3 := by decide +kernel

theorem countEcc_other {s : State} {page n : Nat} (h : 1 < n) : countEcc s page n = s := by
  unfold countEcc
  split
  · rw [if_neg (by omega), if_neg (by omega)]
  · rfl

theorem sevEffect_testFail {s : State} {page n : Nat} (hp : page ∈ eePages ++ dePages) (hs : sevOf page n = 3) (detail : Nat) :
    sevEffect s page n detail = s := by
  have htype : ∀ p ∈ eePages ++ dePages, typeOf p = 0x0C ∨ typeOf p = 0x0D := by decide
  unfold sevEffect
  rcases htype page hp with h | h <;> rw [h] <;> simp [hs]

theorem captureFirst_sameRegs (s : State) (page n detail : Nat) (sec forced : Bool) :
    SameRegs s (captureFirst s page n detail sec forced) fun q _ => q = page := by
  unfold captureFirst
  split
  · exact .refl _ _
  · exact (SameRegs.refl s fun q _ => q = page).then_rset (by decide) rfl _

theorem countFault_sameRegs (s : State) (page : Nat) : SameRegs s (countFault s page) fun q _ => q = page := by
  unfold countFault
  split
  · exact (SameRegs.refl s fun q _ => q = page).then_fset (by decide) rfl _
  · exact (SameRegs.refl s fun q _ => q = page).then_fset (by decide) rfl _

theorem raiseTestFail_sameRegs {s : State} {page : Nat} (hp : page ∈ eePages ++ dePages)
    (hr : reactOf s page (faultCount page - 1) ≤ 2) :
    SameRegs s (raiseFault s page (faultCount page - 1) 0 false) fun q _ => q ≠ 0 := by
  obtain ⟨-, hlo, -, -, hblock, -⟩ := engine_facts page hp
  obtain ⟨hn, hlt, hsev⟩ := selftestFail_facts page hp
  have hsame : ∀ {t u : State}, SameRegs t u (fun q _ => q = page) → SameRegs t u fun q _ => q ≠ 0 :=
    fun h => h.mono fun q _ e => by omega
  have hcount : ∀ (t : State) (b : Bool), SameRegs t (if b then fadd t 1 F.BDRK1_CNT_SECONDARY_COUNT 1 else t) fun q _ => q ≠ 0 := by
    intro t b
    split
    · exact (SameRegs.refl t _).then_fset (by decide) (by decide) _
    · exact .refl _ _
  have hcode : (if secondary s page (faultCount page - 1) then min 1 (reactOf s page (faultCount page - 1))
      else reactOf s page (faultCount page - 1)) ≤ 2 := by
    split
    · omega
    · exact hr
  unfold raiseFault
  dsimp only
  rw [hblock, if_neg (by omega), if_neg Bool.false_ne_true, countEcc_other hn, sevEffect_testFail hp hsev]
  split
  · exact .refl _ _
  · refine SameRegs.trans (SameRegs.trans (SameRegs.trans (SameRegs.trans ?_ (hsame (captureFirst_sameRegs _ page _ _ _ _)))
      (hsame (countFault_sameRegs _ page))) (hcount _ _)) (react_sameRegs _ hcode (by omega) _ _)
    exact hsame ((SameRegs.refl s fun q _ => q = page).then_fset (by decide) rfl _)

/-! ### SELFTEST_END -/

theorem checkBringup_of_ready {s : State} (h : readyBit s 63 = true) : checkBringup s = s := by
  unfold checkBringup
  simp [h]

theorem readyBit_congr {s t : State} {hit : Nat → Nat → Prop} (h : SameRegs s t hit) (h0 : ¬hit 0 0x40) (h4 : ¬hit 0 0x44)
    (b : Nat) : readyBit t b = readyBit s b := by
  unfold readyBit
  rw [qget_of_rget (h _ _ (by decide) h0) (h _ _ (by decide) h4)]

/-- The end of a test, before what bring-up makes of it. -/
def testOver (s : State) (page : Nat) (pass : Bool) (us : Nat) : State :=
  afterTest (endTest (modEng (if pass then setTestRunning s page false
      else raiseFault (setTestRunning s page false) page (faultCount page - 1) 0 false)
    page ({ · with admitWait := (getEng s page).admitWait })) page pass false us) page pass

section testOver
variable {s : State} {page : Nat} {pass : Bool} (us : Nat) (hw : (getEng s page).admitWait = false)
include hw

theorem testOver_waits (u : State) :
    (getEng (endTest (modEng u page ({ · with admitWait := (getEng s page).admitWait })) page pass false us) page).admitWait =
      false := by
  rw [getEng_congr ((endTest_keeps (.refl [.regs, .srcs] _) rfl).engines (by decide)), getEng_modEng]
  exact hw

variable (hp : page ∈ eePages ++ dePages)
include hp

theorem testOver_sameRegs (hr : pass = false → reactOf s page (faultCount page - 1) ≤ 2) :
    SameRegs s (testOver s page pass us) fun q _ => q ≠ 0 := by
  obtain ⟨-, hlo, -, hd, -⟩ := engine_facts page hp
  have hrun := setTestRunning_sameRegs s page false
  have hraise : SameRegs s (if pass then setTestRunning s page false
      else raiseFault (setTestRunning s page false) page (faultCount page - 1) 0 false) fun q _ => q ≠ 0 := by
    have hstop : SameRegs s (setTestRunning s page false) fun q _ => q ≠ 0 := hrun.mono fun q _ h => by omega
    split
    · exact hstop
    · next hpass =>
      refine hstop.trans (raiseTestFail_sameRegs hp ?_)
      rw [reactOf_congr hrun (by omega) (by omega)]
      exact hr (Bool.eq_false_iff.2 hpass)
  exact ((hraise.then_regs (modEng_regs _ page _)).trans ((endTest_sameRegs _ page pass false us).mono fun q _ h => by omega)).trans
    ((afterTest_sameRegs hd (testOver_waits us hw _) pass).mono fun q _ h => by omega)

/-- The test's result stands. -/
theorem testOver_shows : testRunning (testOver s page pass us) page = false ∧
    fget (testOver s page pass us) page (engRow page F.EE_SELFTEST_DONE F.DE_SELFTEST_DONE) = 1 ∧
    fget (testOver s page pass us) page (engRow page F.EE_SELFTEST_PASS F.DE_SELFTEST_PASS) = (if pass then 1 else 0) ∧
    (getEng (testOver s page pass us) page).tested = pass := by
  obtain ⟨he, hlo, -, hd, -⟩ := engine_facts page hp
  obtain ⟨u, hu⟩ : ∃ u, testOver s page pass us =
      afterTest (endTest (modEng u page ({ · with admitWait := (getEng s page).admitWait })) page pass false us) page pass :=
    ⟨_, rfl⟩
  have hwaits := testOver_waits (pass := pass) us hw u
  have hafter := afterTest_sameRegs hd hwaits pass
  obtain ⟨hrun, hdone, hpass⟩ := endTest_shows (modEng u page ({ · with admitWait := (getEng s page).admitWait })) he pass false us
  have hkept : ∀ a b : Row, a.at 0 < 4096 ∧ a.at 0 ≠ 0x54 ∧ a.at 0 ≠ 4 → b.at 0 < 4096 ∧ b.at 0 ≠ 0x58 ∧ b.at 0 ≠ 4 →
      (engRow page a b).at 0 < 4096 ∧ ¬(page = page ∧ ((engRow page a b).at 0 =
        (engRow page F.EE_SVC_CTL_ADMIT F.DE_SVC_CTL_ADMIT).at 0 ∨ (engRow page a b).at 0 = 4) ∨ page = 0x10) := by
    intro a b ha hb
    have h54 : F.EE_SVC_CTL_ADMIT.at 0 = 0x54 := rfl
    have h58 : F.DE_SVC_CTL_ADMIT.at 0 = 0x58 := rfl
    unfold engRow
    split <;> omega
  rw [hu]
  refine ⟨?_, ?_, ?_, tested_afterTest hwaits pass⟩
  · obtain ⟨ho, hn⟩ := hkept F.EE_STATUS_SELFTEST_RUN F.DE_STATUS_SELFTEST_RUN (by decide) (by decide)
    rw [testRunning, hafter.fbit ho hn]
    exact hrun
  · obtain ⟨ho, hn⟩ := hkept F.EE_SELFTEST_DONE F.DE_SELFTEST_DONE (by decide) (by decide)
    rw [hafter.fget ho hn, hdone]
  · obtain ⟨ho, hn⟩ := hkept F.EE_SELFTEST_PASS F.DE_SELFTEST_PASS (by decide) (by decide)
    rw [hafter.fget ho hn, hpass]

theorem exec_selftestEnd {kind : EngKind} {n : Fin 18} (hk : page = engPage kind n) (hrun : testRunning s page = true)
    (hon : domOn s (domainOf page) = true) (hready : readyBit s (domainOf page) = true) (h63 : readyBit s 63 = true)
    (hr : pass = false → reactOf s page (faultCount page - 1) ≤ 2) :
    exec (.selftestEnd kind n pass us) s = .next (testOver s page pass us) := by
  have hsame := testOver_sameRegs us hw hp hr
  have hb : ∀ b, readyBit (testOver s page pass us) b = readyBit s b := readyBit_congr hsame (by simp) (by simp)
  have hexec : exec (.selftestEnd kind n pass us) s = .next (checkBringup (if readyBit (testOver s page pass us) (domainOf page)
      then testOver s page pass us else engineEnded (testOver s page pass us) page)) := by
    subst hk
    exact if_pos (by simp [hrun, hon])
  rw [hexec, hb, if_pos hready, checkBringup_of_ready (by rw [hb, h63])]

end testOver

/-! ### A unit that is called in -/

theorem domOn_congr {s t : State} {hit : Nat → Nat → Prop} (h : SameRegs s t hit) (hn : ∀ o, ¬hit 0x10 o) {d : Nat}
    (hd : d < 60) : domOn t d = domOn s d := by
  unfold domOn
  rw [domState_of_rget (h _ _ (by omega) (hn _))]

theorem blkInService_callIn {s : State} {page : Nat} (hp : page ∈ eePages ++ dePages) (hon : domOn s (domainOf page) = true) :
    blkInService (callIn s page) page = true := by
  obtain ⟨-, hlo, -, hd, -⟩ := engine_facts page hp
  have hcall : ∀ t : State, domOn t (domainOf page) = true → blkInService (if domOn t (domainOf page) then enterService t page
      else requestWake (modEng t page ({ · with waking := true })) (domainOf page)) page = true := by
    intro t ht
    rw [if_pos ht]
    exact blkInService_enterService t hp
  refine hcall _ ?_
  split
  · rw [domOn_congr (endTest_sameRegs s page false true 0) (fun o h => by omega) hd, hon]
  · exact hon

/-- In capacity mode an engine that joins whose domain is on serves. -/
theorem blkInService_joinUnit {s : State} {page : Nat} (hp : page ∈ eePages ++ dePages) (hc : capacityMode s = true)
    (hon : domOn s (domainOf page) = true) : blkInService (joinUnit s page) page = true := by
  obtain ⟨-, hlo, -, hd, -⟩ := engine_facts page hp
  have hroom : roomToServe (modEng s page ({ · with retired := false, admitWait := false })) page = true := by
    have hmode : capacityMode (modEng s page ({ · with retired := false, admitWait := false })) = true := hc
    rw [roomToServe, hmode, Bool.true_or]
  have hblk : ∀ t : State, SameRegs t (fset (fset t page F.HDR_BLK_READY_READY 1) page F.HDR_BLK_READY_STATE 5) fun q _ => q = page :=
    fun t => ((SameRegs.refl t fun q _ => q = page).then_fset (by decide) rfl _).then_fset (by decide) rfl _
  unfold joinUnit
  dsimp only
  rw [hroom, if_neg (by simp)]
  refine blkInService_callIn hp ?_
  rw [domOn_congr (hblk _) (fun o h => by omega) hd]
  exact hon

/-! ### A unit becomes a standby -/

/-- An engine in service that becomes a standby is a standby out of service. -/
theorem becomeStandby_state (s : State) {page : Nat} (hp : page ∈ eePages ++ dePages) :
    isStandby (becomeStandby s page) page = true ∧ blkInService (becomeStandby s page) page = false := by
  obtain ⟨he, hlo, -, hd, -⟩ := engine_facts page hp
  have hquiet : ∀ t : State, SameRegs t (deviceOff (syncPlaceStat t) page) fun q _ => q ≠ page := fun t =>
    ((syncPlaceStat_sameRegs t).mono fun q _ h => by omega).trans ((deviceOff_sameRegs _ hd).mono fun q _ h => by omega)
  unfold becomeStandby
  dsimp only
  constructor
  · rw [(hquiet _).isStandby (by simp), isStandby_setStandby he]
  · rw [(hquiet _).blkInService (by simp), (setStandby_sameRegs _ page true).blkInService (by omega)]
    exact blkInService_setBlk s page true false 3

/-! ### The end of a drain -/

section drain
variable {s : State} {page : Nat} (hheld : (getEng s page).held = []) (hdrain : (getEng s page).draining = true)

theorem endUnitDrain_stays (h : (getEng s page).draining = false ∨ (getEng s page).held ≠ []) : endUnitDrain s page = s := by
  refine if_neg ?_
  rcases h with h | h <;> simp [h]

include hheld hdrain

theorem endUnitDrain_leaves (hs : (getEng s page).toStandby = false) : endUnitDrain s page = leaveService s page 5 := by
  unfold endUnitDrain
  simp [hheld, hdrain, hs]

theorem endUnitDrain_standby (hs : (getEng s page).toStandby = true) : endUnitDrain s page =
    if blkInService s page then syncPins (unitRetired (becomeStandby s page)) else becomeStandby s page := by
  unfold endUnitDrain
  simp [hheld, hdrain, hs]

/-- It is a standby, out of service. -/
theorem endUnitDrain_standby_state (hp : page ∈ eePages ++ dePages) (hs : (getEng s page).toStandby = true) :
    isStandby (endUnitDrain s page) page = true ∧ blkInService (endUnitDrain s page) page = false := by
  obtain ⟨-, hlo, hhi, -⟩ := engine_facts page hp
  have htold : ∀ t : State, SameRegs t (syncPins (unitRetired t)) fun q _ => q ≠ page := fun t =>
    ((sameRegs_setIrq t 0 _).mono fun q _ h => by omega).trans ((syncPins_sameRegs _).mono fun q _ h => by omega)
  obtain ⟨hsb, hin⟩ := becomeStandby_state s hp
  rw [endUnitDrain_standby hheld hdrain hs]
  split
  · rw [(htold _).isStandby (by simp), (htold _).blkInService (by simp)]
    exact ⟨hsb, hin⟩
  · exact ⟨hsb, hin⟩

end drain

theorem endUnitDrain_mem (s : State) (page : Nat) : (endUnitDrain s page).mem = s.mem :=
  (endUnitDrain_keeps (.refl [.regs, .engines, .disp, .srcs, .doms, .bdrk] s) rfl).mem (by decide)

end Sys2Proof.Machine
end

section
/-! PROOFS. The commands of engine service, and CAPACITY (R88, R156, R165, R167–R169). -/

namespace Sys2Proof.Machine

/-! ### SELFTEST_START, ENGINE_RETIRE, ENGINE_ADMIT, ENGINE_DRAINED -/

theorem setTest_regs (s : State) (page : Nat) (ee de : Row) (v : Nat) :
    setTest s page ee de v = { s with regs := (setTest s page ee de v).regs } := rfl

theorem exec_selftestStart_rejected {s : State} {kind : EngKind} {n : Fin 18}
    (h : blkInService s (engPage kind n) = true ∨ (getEng s (engPage kind n)).held ≠ [] ∨ testRunning s (engPage kind n) = true ∨
      (getEng s (engPage kind n)).waking = true) :
    exec (.selftestStart kind n) s =
      .next (setTest s (engPage kind n) F.EE_SELFTEST_REJECTED F.DE_SELFTEST_REJECTED 1) := by
  refine if_pos ?_
  rcases h with h | h | h | h <;> simp [h]

theorem exec_selftestStart_starts {s : State} {kind : EngKind} {n : Fin 18} (h1 : blkInService s (engPage kind n) = false)
    (h2 : (getEng s (engPage kind n)).held = []) (h3 : testRunning s (engPage kind n) = false)
    (h4 : (getEng s (engPage kind n)).waking = false) :
    exec (.selftestStart kind n) s = .next (startTest s (engPage kind n)) := if_neg (by simp [h1, h2, h3, h4])

theorem retireUnit_serving {s : State} {page : Nat} (h : blkInService s page = true) : retireUnit s page =
    fset (modEng s page ({ · with draining := true, toStandby := false, retired := true })) page F.HDR_BLK_READY_STATE 4 :=
  if_pos (by simp [h])

theorem getEng_retireUnit {s : State} {page : Nat} (h : blkInService s page = true) :
    getEng (retireUnit s page) page = { getEng s page with draining := true, toStandby := false, retired := true } := by
  rw [retireUnit_serving h]
  exact getEng_modEng s page ({ · with draining := true, toStandby := false, retired := true })

/-- RETIRE of an engine that holds nothing takes it out of service at once. -/
theorem retire_idle {s : State} {page : Nat} (hp : page ∈ eePages ++ dePages) (h : blkInService s page = true)
    (hh : (getEng s page).held = []) :
    blkInService (endUnitDrain (retireUnit s page) page) page = false ∧ (endUnitDrain (retireUnit s page) page).mem = s.mem := by
  have he := getEng_retireUnit h
  refine ⟨?_, (endUnitDrain_mem _ page).trans ?_⟩
  · rw [endUnitDrain_leaves (by rw [he]; exact hh) (by rw [he]) (by rw [he])]
    exact blkInService_leaveService hp 5
  · rw [retireUnit_serving h]
    rfl

/-- RETIRE of an engine that holds work lets it drain. -/
theorem retire_busy {s : State} {page : Nat} (h : blkInService s page = true) (hh : (getEng s page).held ≠ []) :
    let t := endUnitDrain (retireUnit s page) page
    blkInService t page = true ∧ fget t page F.HDR_BLK_READY_STATE = 4 ∧ (getEng t page).draining = true ∧
      (getEng t page).held = (getEng s page).held ∧ t = { s with regs := t.regs, engines := t.engines } := by
  have he := getEng_retireUnit h
  intro t
  have ht : t = retireUnit s page := endUnitDrain_stays (.inr (by rw [he]; exact hh))
  rw [ht, he, retireUnit_serving h]
  refine ⟨?_, fget_fset_self _ _ _ _ _ (by decide), rfl, rfl, rfl⟩
  rw [blkInService, fbit, fget_fset_apart _ _ _ _ _ _ (by decide)]
  exact h

section admission
variable {s : State} {page : Nat} (hj : ¬(blkInService s page = true ∨ isStandby s page = true ∨ (getEng s page).waking = true))
include hj

theorem admitUnit_idle (ht : testRunning s page = false) : admitUnit s page =
    if (getEng s page).testedSince then joinUnit s page
    else startTest (setAdmit (fset (modEng s page ({ · with admitWait := true, retired := false })) page F.HDR_BLK_READY_STATE 1)
      page true) page := by
  unfold admitUnit
  dsimp only
  rw [if_neg (by simpa [or_assoc] using hj), if_neg (by simp [ht])]

end admission

theorem admitUnit_joined {s : State} {page : Nat}
    (hj : blkInService s page = true ∨ isStandby s page = true ∨ (getEng s page).waking = true) : admitUnit s page = s :=
  if_pos (by simpa [or_assoc] using hj)

/-- ADMIT of an engine not tested since it left: a test runs, and the ADMIT waits for it. -/
theorem admitUnit_tests {s : State} {page : Nat} (he : isEngPage page = true)
    (hj : ¬(blkInService s page = true ∨ isStandby s page = true ∨ (getEng s page).waking = true))
    (ht : testRunning s page = false) (hs : (getEng s page).testedSince = false) :
    (testRunning (admitUnit s page) page = true ∧
      fget (admitUnit s page) page (engRow page F.EE_SELFTEST_DONE F.DE_SELFTEST_DONE) = 0 ∧ (admitUnit s page).mem = s.mem) ∧
      (getEng (admitUnit s page) page).admitWait = true := by
  rw [admitUnit_idle hj ht, hs, if_neg Bool.false_ne_true]
  refine ⟨startTest_starts _ he, ?_⟩
  rw [getEng_congr ((startTest_keeps (.refl [.regs, .doms] _) rfl).engines (by decide))]
  exact congrArg Engine.admitWait (getEng_modEng s page ({ · with admitWait := true, retired := false }))

/-! ### CAPACITY_WRITE -/

/-- CHIP.PLACE_CTL as a write of `v` leaves it. -/
def withPlaceCtl (s : State) (v : Nat) : State :=
  let s := fset (fset s 0 F.CHIP_PLACE_CTL_PLACE (bitsOf v 0 1)) 0 F.CHIP_PLACE_CTL_CAPACITY (bitsOf v 1 1)
  let s := keepIf s F.CHIP_PLACE_CTL_GUARD (bitsOf v 2 2) (bitsOf v 2 2 != 0)
  let s := keepIf s F.CHIP_PLACE_CTL_VERIFY (bitsOf v 4 2) (bitsOf v 4 2 != 0)
  let s := fset s 0 F.CHIP_PLACE_CTL_VERIFY_FIRST (bitsOf v 6 1)
  keepIf s F.CHIP_PLACE_CTL_SAMPLE_N (bitsOf v 8 8) (decide (2 ≤ bitsOf v 8 8))

theorem fget_keepIf_apart (s : State) {r r' : Row} (v : Nat) (ok : Bool) (h : apart r r' = true) :
    fget (keepIf s r v ok) 0 r' = fget s 0 r' := by
  unfold keepIf
  split
  · exact fget_fset_apart _ _ _ _ _ _ h
  · rfl

theorem fget_keepIf_self (s : State) {r : Row} {v : Nat} (ok : Bool) (h : r.lo + r.width ≤ 32) (hv : v < 2 ^ r.width) :
    fget (keepIf s r v ok) 0 r = if ok then v else fget s 0 r := by
  unfold keepIf
  cases ok with
  | true => rw [if_pos rfl, if_pos rfl, fget_fset_self _ _ _ _ _ h, Nat.mod_eq_of_lt hv]
  | false => rfl

/-- The fields of PLACE_CTL after a write. -/
theorem fget_withPlaceCtl (s : State) (v : Nat) :
    fget (withPlaceCtl s v) 0 F.CHIP_PLACE_CTL_PLACE = bitsOf v 0 1 ∧
    fget (withPlaceCtl s v) 0 F.CHIP_PLACE_CTL_CAPACITY = bitsOf v 1 1 ∧
    fget (withPlaceCtl s v) 0 F.CHIP_PLACE_CTL_VERIFY_FIRST = bitsOf v 6 1 ∧
    fget (withPlaceCtl s v) 0 F.CHIP_PLACE_CTL_GUARD =
      (if bitsOf v 2 2 != 0 then bitsOf v 2 2 else fget s 0 F.CHIP_PLACE_CTL_GUARD) ∧
    fget (withPlaceCtl s v) 0 F.CHIP_PLACE_CTL_VERIFY =
      (if bitsOf v 4 2 != 0 then bitsOf v 4 2 else fget s 0 F.CHIP_PLACE_CTL_VERIFY) ∧
    fget (withPlaceCtl s v) 0 F.CHIP_PLACE_CTL_SAMPLE_N =
      (if decide (2 ≤ bitsOf v 8 8) then bitsOf v 8 8 else fget s 0 F.CHIP_PLACE_CTL_SAMPLE_N) := by
  unfold withPlaceCtl
  dsimp only
  have hself : ∀ (t : State) {r : Row} {w : Nat}, r.lo + r.width ≤ 32 → w < 2 ^ r.width → fget (fset t 0 r w) 0 r = w :=
    fun t r w h hw => by rw [fget_fset_self _ _ _ _ _ h, Nat.mod_eq_of_lt hw]
  refine ⟨?_, ?_, ?_, ?_, ?_, ?_⟩
  · rw [fget_keepIf_apart _ _ _ (by decide), fget_fset_apart _ _ _ _ _ _ (by decide), fget_keepIf_apart _ _ _ (by decide),
      fget_keepIf_apart _ _ _ (by decide), fget_fset_apart _ _ _ _ _ _ (by decide)]
    exact hself _ (by decide) (bitsOf_lt v 0 1)
  · rw [fget_keepIf_apart _ _ _ (by decide), fget_fset_apart _ _ _ _ _ _ (by decide), fget_keepIf_apart _ _ _ (by decide),
      fget_keepIf_apart _ _ _ (by decide)]
    exact hself _ (by decide) (bitsOf_lt v 1 1)
  · rw [fget_keepIf_apart _ _ _ (by decide)]
    exact hself _ (by decide) (bitsOf_lt v 6 1)
  · rw [fget_keepIf_apart _ _ _ (by decide), fget_fset_apart _ _ _ _ _ _ (by decide), fget_keepIf_apart _ _ _ (by decide),
      fget_keepIf_self _ _ (by decide) (bitsOf_lt v 2 2), fget_fset_apart _ _ _ _ _ _ (by decide),
      fget_fset_apart _ _ _ _ _ _ (by decide)]
  · rw [fget_keepIf_apart _ _ _ (by decide), fget_fset_apart _ _ _ _ _ _ (by decide),
      fget_keepIf_self _ _ (by decide) (bitsOf_lt v 4 2), fget_keepIf_apart _ _ _ (by decide),
      fget_fset_apart _ _ _ _ _ _ (by decide), fget_fset_apart _ _ _ _ _ _ (by decide)]
  · rw [fget_keepIf_self _ _ (by decide) (bitsOf_lt v 8 8), fget_fset_apart _ _ _ _ _ _ (by decide),
      fget_keepIf_apart _ _ _ (by decide), fget_keepIf_apart _ _ _ (by decide),
      fget_fset_apart _ _ _ _ _ _ (by decide), fget_fset_apart _ _ _ _ _ _ (by decide)]

theorem keepIf_sameRegs (s : State) {r : Row} (v : Nat) (ok : Bool) (hr : r.at 0 = 0x100) :
    SameRegs s (keepIf s r v ok) fun page off => page = 0 ∧ off = 0x100 := by
  unfold keepIf
  split
  · exact (SameRegs.refl s fun page off => page = 0 ∧ off = 0x100).then_fset (by omega) ⟨rfl, hr⟩ v
  · exact .refl _ _

theorem withPlaceCtl_sameRegs (s : State) (v : Nat) :
    SameRegs s (withPlaceCtl s v) fun page off => page = 0 ∧ off = 0x100 := by
  have hset : ∀ (t : State) (r : Row) (w : Nat), r.at 0 = 0x100 → SameRegs t (fset t 0 r w) fun page off => page = 0 ∧ off = 0x100 :=
    fun t r w hr => (SameRegs.refl t fun page off => page = 0 ∧ off = 0x100).then_fset (by omega) ⟨rfl, hr⟩ w
  exact (((((hset _ _ _ rfl).trans (hset _ _ _ rfl)).trans (keepIf_sameRegs _ _ _ rfl)).trans (keepIf_sameRegs _ _ _ rfl)).trans
    (hset _ _ _ rfl)).trans (keepIf_sameRegs _ _ _ rfl)

theorem withPlaceCtl_regs (s : State) (v : Nat) : withPlaceCtl s v = { s with regs := (withPlaceCtl s v).regs } :=
  eq_regs_of_keeps fun _ hw => keepIf_keeps (fset_keeps (keepIf_keeps (keepIf_keeps (fset_keeps (fset_keeps (.refl _ s) hw) hw)
    hw) hw) hw) hw

end Sys2Proof.Machine
end

section
/-! PROOFS. CAPACITY_WRITE calls engines in or trims them, and the settling of O18. -/

namespace Sys2Proof.Machine

/-! ### Trimming and calling in -/

theorem toldRetired_roster (s : State) (b : Bool) : SameRegs s (syncPins (if b then unitRetired s else s)) roster :=
  (toldRetired_sameRegs s b).mono fun q o h => h.elim (fun e => .inl (by omega)) fun e => .inr ⟨e.1, .inr e.2⟩

theorem replaceUnit_roster (s : State) (page : Nat) : SameRegs s (replaceUnit s page) roster :=
  (replaceUnit_sameRegs s page).mono fun _ _ ⟨p, hm, h⟩ => by
    obtain ⟨-, hlo, -⟩ := engine_facts p (mem_of_kindPages (List.mem_filter.1 hm).1)
    exact roster_of_entering (by omega) h

section roster
variable {page : Nat} (hp : page ∈ eePages ++ dePages)
include hp

theorem callIn_roster (s : State) : SameRegs s (callIn s page) roster := by
  obtain ⟨-, hlo, -⟩ := engine_facts page hp
  exact (callIn_sameRegs s page).mono fun _ _ => roster_of_entering (by omega)

theorem becomeStandby_roster (s : State) : SameRegs s (becomeStandby s page) roster := by
  obtain ⟨-, hlo, -, hd, -⟩ := engine_facts page hp
  have hown : ∀ q o : Nat, q = page → roster q o := fun q o h => .inl (by omega)
  have hmod : ∀ f, SameRegs (setBlk s page true false 3) (modEng (setBlk s page true false 3) page f) roster := fun f =>
    sameRegs_of_regs rfl
  exact ((((((setBlk_sameRegs s page true false 3).mono fun q o h => hown q o h.1).trans (hmod _)).trans
    ((setStandby_sameRegs _ page true).mono fun q o h => hown q o h.1)).trans
    ((syncPlaceStat_sameRegs _).mono fun _ _ h => .inr ⟨h.1, .inl h.2⟩)).trans
    ((deviceOff_sameRegs _ hd).mono fun q o h => .inl (by omega)))

theorem leaveService_roster (s : State) (code : Nat) : SameRegs s (leaveService s page code) roster := by
  obtain ⟨-, hlo, -⟩ := engine_facts page hp
  have hmod : ∀ f, SameRegs (setBlk s page (blkReady s page) false code)
      (modEng (setBlk s page (blkReady s page) false code) page f) roster := fun f => sameRegs_of_regs rfl
  have hreplace : ∀ (t : State) (b : Bool), SameRegs t (if b then replaceUnit t page else t) roster := by
    intro t b
    split
    · exact replaceUnit_roster t page
    · exact .refl _ _
  exact (((((setBlk_sameRegs s page _ false code).mono fun q o h => .inl (by omega)).trans (hmod _)).trans
    ((outOfService_sameRegs _ hp).mono fun q o h => h.elim (fun e => .inl (by omega)) fun e => .inr ⟨e.1, .inl e.2⟩)).trans
    (hreplace _ _)).trans (toldRetired_roster _ _)

theorem endUnitDrain_roster (s : State) : SameRegs s (endUnitDrain s page) roster := by
  unfold endUnitDrain
  dsimp only
  split
  · split
    · split
      · exact (becomeStandby_roster hp s).trans (toldRetired_roster _ true)
      · exact becomeStandby_roster hp s
    · exact leaveService_roster hp s 5
  · exact .refl _ _

theorem drainToStandby_roster (s : State) : SameRegs s (drainToStandby s page) roster := by
  obtain ⟨-, hlo, -⟩ := engine_facts page hp
  exact (SameRegs.then_regs (.refl s roster) (modEng_regs s page _)).then_fset (by decide) (.inl (by omega)) _

theorem stayInService_roster (s : State) : SameRegs s (stayInService s page) roster := by
  obtain ⟨-, hlo, -⟩ := engine_facts page hp
  exact (SameRegs.then_regs (.refl s roster) (modEng_regs s page _)).then_fset (by decide) (.inl (by omega)) _

end roster

theorem trimService_roster (s : State) (page : Nat) : SameRegs s (trimService s page) roster :=
  (SameRegs.refl s roster).foldl fun u p hm => by
    have hp := mem_of_kindPages (List.mem_filter.1 (List.mem_of_mem_drop hm)).1
    exact (drainToStandby_roster hp u).trans (endUnitDrain_roster hp _)

theorem admitStandbys_roster (s : State) (page : Nat) : SameRegs s (admitStandbys s page) roster :=
  ((SameRegs.refl s roster).foldl fun u _ hm => stayInService_roster (mem_of_kindPages (List.mem_filter.1 hm).1) u).foldl
    fun u _ hm => callIn_roster (mem_of_kindPages (List.mem_filter.1 hm).1) u

/-! ### CAPACITY_WRITE -/

/-- What a change of CAPACITY from that of `s` calls for. -/
def capacityFollows (s t : State) : State :=
  if capacityMode t && !capacityMode s then admitStandbys (admitStandbys t (eePage 0)) (dePage 0)
  else if capacityMode s && !capacityMode t then trimService (trimService t (eePage 0)) (dePage 0)
  else t

theorem exec_capacityWrite (val : Word) (s : State) :
    exec (.capacityWrite val) s = .next (capacityFollows s (withPlaceCtl s val.toNat)) := by
  change execCapacityWrite val s = _
  unfold execCapacityWrite capacityFollows
  rw [apply_ite Host.Outcome.next, apply_ite Host.Outcome.next]
  rfl

theorem capacityFollows_roster (s t : State) : SameRegs t (capacityFollows s t) roster := by
  unfold capacityFollows
  split
  · exact (admitStandbys_roster _ _).trans (admitStandbys_roster _ _)
  · split
    · exact (trimService_roster _ _).trans (trimService_roster _ _)
    · exact .refl _ _

theorem capacityFollows_same {s t : State} (h : capacityMode t = capacityMode s) : capacityFollows s t = t := by
  unfold capacityFollows
  cases hs : capacityMode s <;> simp [h, hs]

/-- No field of PLACE_CTL follows the engines. -/
theorem fget_capacityFollows (s t : State) {r : Row} (hr : r.at 0 = 0x100) : fget (capacityFollows s t) 0 r = fget t 0 r :=
  (capacityFollows_roster s t).fget (by omega) (by unfold roster; omega)

theorem capacityWrite_shows (val : Word) (s : State) :
    let v := val.toNat
    let keep := fun (r : Row) (n : Nat) (ok : Prop) (t : State) => (ok → fget t 0 r = n) ∧ (¬ok → fget t 0 r = fget s 0 r)
    Does (.capacityWrite val) s fun t =>
      fget t 0 F.CHIP_PLACE_CTL_PLACE = bitsOf v 0 1 ∧ fget t 0 F.CHIP_PLACE_CTL_CAPACITY = bitsOf v 1 1 ∧
      fget t 0 F.CHIP_PLACE_CTL_VERIFY_FIRST = bitsOf v 6 1 ∧
      keep F.CHIP_PLACE_CTL_GUARD (bitsOf v 2 2) (bitsOf v 2 2 ≠ 0) t ∧
      keep F.CHIP_PLACE_CTL_VERIFY (bitsOf v 4 2) (bitsOf v 4 2 ≠ 0) t ∧
      keep F.CHIP_PLACE_CTL_SAMPLE_N (bitsOf v 8 8) (2 ≤ bitsOf v 8 8) t ∧ t.mem = s.mem ∧
      (bitsOf v 1 1 = fget s 0 F.CHIP_PLACE_CTL_CAPACITY → t = { s with regs := t.regs } ∧
        SameRegs s t fun page off => page = 0 ∧ off = 0x100) := by
  intro v keep
  obtain ⟨hplace, hcap, hfirst, hguard, hverify, hsample⟩ := fget_withPlaceCtl s v
  have hmem : (capacityFollows s (withPlaceCtl s v)).mem = s.mem :=
    (execCapacityWrite_keeps (.refl [.regs, .engines, .disp, .srcs, .doms, .bdrk] s) rfl _ (exec_capacityWrite val s)).mem (by decide)
  have hkeep : ∀ {r : Row} {n : Nat} {ok : Bool} {p : Prop}, r.at 0 = 0x100 → (ok = true ↔ p) →
      fget (withPlaceCtl s v) 0 r = (if ok then n else fget s 0 r) → keep r n p (capacityFollows s (withPlaceCtl s v)) := by
    intro r n ok p hr hok heq
    dsimp only [keep]
    rw [fget_capacityFollows _ _ hr, heq]
    exact ⟨fun h => if_pos (hok.2 h), fun h => if_neg fun k => h (hok.1 k)⟩
  refine ⟨_, exec_capacityWrite val s, ?_, ?_, ?_, hkeep rfl (by simp) hguard, hkeep rfl (by simp) hverify,
    hkeep rfl (by simp) hsample, hmem, fun hsame => ?_⟩
  · rw [fget_capacityFollows _ _ rfl, hplace]
  · rw [fget_capacityFollows _ _ rfl, hcap]
  · rw [fget_capacityFollows _ _ rfl, hfirst]
  · have hmode : capacityMode (withPlaceCtl s v) = capacityMode s := by rw [capacityMode, capacityMode, fbit, fbit, hcap, hsame]
    rw [capacityFollows_same hmode]
    exact ⟨withPlaceCtl_regs s v, withPlaceCtl_sameRegs s v⟩

/-! ### The commands of engine service -/

section commands
variable {kind : EngKind} {n : Fin 18} {s : State}

theorem selftestStart_rejected (h : blkInService s (engPage kind n) = true ∨ (getEng s (engPage kind n)).held ≠ [] ∨
    testRunning s (engPage kind n) = true ∨ (getEng s (engPage kind n)).waking = true) :
    Does (.selftestStart kind n) s fun t =>
      fget t (engPage kind n) (engRow (engPage kind n) F.EE_SELFTEST_REJECTED F.DE_SELFTEST_REJECTED) = 1 ∧
      t = { s with regs := t.regs } ∧ SameRegs s t fun q off =>
        q = engPage kind n ∧ off = (engRow (engPage kind n) F.EE_SELFTEST_REJECTED F.DE_SELFTEST_REJECTED).off := by
  have hrow := engRow_ind (P := fun r => r.at 0 = r.off ∧ r.off < 4096) (engPage kind n) (ee := F.EE_SELFTEST_REJECTED)
    (de := F.DE_SELFTEST_REJECTED) (by decide) (by decide)
  refine ⟨_, exec_selftestStart_rejected h, fget_setTest_self s _ (by decide) (by decide), setTest_regs _ _ _ _ _, ?_⟩
  exact (SameRegs.refl s fun q off => q = engPage kind n ∧
    off = (engRow (engPage kind n) F.EE_SELFTEST_REJECTED F.DE_SELFTEST_REJECTED).off).then_fset (i := 0)
    (by rw [hrow.1]; exact hrow.2) ⟨rfl, hrow.1⟩ 1

theorem selftestEnd_mem {pass : Bool} {us : Nat} {t : State} (h : exec (.selftestEnd kind n pass us) s = .next t) : t.mem = s.mem :=
  (execSelftestEnd_keeps (.refl [.free, .regs, .staged, .latched, .ctxs, .engines, .banks, .disp, .chans, .srcs, .tgts, .holdoff,
    .doms, .chip, .flows, .queues, .pnodes, .store, .bdrk, .perf, .pins] s) rfl t h).mem (by decide)

theorem selftestEnd_shows (pass : Bool) (us : Nat) (hrun : testRunning s (engPage kind n) = true)
    (hon : domOn s (domainOf (engPage kind n)) = true) (hready : readyBit s (domainOf (engPage kind n)) = true)
    (h63 : readyBit s 63 = true) (hw : (getEng s (engPage kind n)).admitWait = false)
    (hr : pass = false → reactOf s (engPage kind n) (faultCount (engPage kind n) - 1) ≤ 2) :
    Does (.selftestEnd kind n pass us) s fun t => testRunning t (engPage kind n) = false ∧ t.mem = s.mem ∧
      fget t (engPage kind n) (engRow (engPage kind n) F.EE_SELFTEST_DONE F.DE_SELFTEST_DONE) = 1 ∧
      fget t (engPage kind n) (engRow (engPage kind n) F.EE_SELFTEST_PASS F.DE_SELFTEST_PASS) = (if pass then 1 else 0) ∧
      (getEng t (engPage kind n)).tested = pass := by
  have hp := engPage_mem kind n
  have hexec := exec_selftestEnd us hw hp rfl hrun hon hready h63 hr
  obtain ⟨hstop, hdone, hpass, htested⟩ := testOver_shows (pass := pass) us hw hp
  exact ⟨_, hexec, hstop, selftestEnd_mem hexec, hdone, hpass, htested⟩

theorem engineAdmit_joins (hj : ¬(blkInService s (engPage kind n) = true ∨ isStandby s (engPage kind n) = true ∨
    (getEng s (engPage kind n)).waking = true)) (ht : testRunning s (engPage kind n) = false)
    (hs : (getEng s (engPage kind n)).testedSince = true) (hc : capacityMode s = true)
    (hon : domOn s (domainOf (engPage kind n)) = true) :
    Does (.engineAdmit kind n) s fun t => blkInService t (engPage kind n) = true ∧ t.mem = s.mem := by
  have hadmit : admitUnit s (engPage kind n) = joinUnit s (engPage kind n) := by rw [admitUnit_idle hj ht, if_pos hs]
  refine ⟨_, rfl, ?_⟩
  rw [hadmit]
  exact ⟨blkInService_joinUnit (engPage_mem kind n) hc hon,
    (joinUnit_keeps (.refl [.regs, .engines, .disp, .srcs, .doms, .bdrk] s) rfl).mem (by decide)⟩

theorem engineDrained_leaves (hd : (getEng s (engPage kind n)).draining = true) (hh : (getEng s (engPage kind n)).held = [])
    (hs : (getEng s (engPage kind n)).toStandby = false) :
    Does (.engineDrained kind n) s fun t => blkInService t (engPage kind n) = false ∧ t.mem = s.mem := by
  refine ⟨_, rfl, ?_, endUnitDrain_mem s _⟩
  rw [endUnitDrain_leaves hh hd hs]
  exact blkInService_leaveService (engPage_mem kind n) 5

theorem engineDrained_standby (hd : (getEng s (engPage kind n)).draining = true) (hh : (getEng s (engPage kind n)).held = [])
    (hs : (getEng s (engPage kind n)).toStandby = true) :
    Does (.engineDrained kind n) s fun t =>
      isStandby t (engPage kind n) = true ∧ blkInService t (engPage kind n) = false ∧ t.mem = s.mem := by
  obtain ⟨hsb, hin⟩ := endUnitDrain_standby_state hh hd (engPage_mem kind n) hs
  exact ⟨_, rfl, hsb, hin, endUnitDrain_mem s _⟩

end commands

/-- Settles O18: a test's registers, an engine's entry into service and its leave, and CAPACITY, whose followers write no
field of PLACE_CTL. -/
theorem engineService : Obligations.EngineService := by
  unfold Obligations.EngineService
  refine ⟨fun kind n s => ?_, capacityWrite_shows⟩
  have hp := engPage_mem kind n
  have he := (engine_facts _ hp).1
  exact ⟨selftestStart_rejected,
    fun h1 h2 h3 h4 => ⟨_, exec_selftestStart_starts h1 h2 h3 h4, startTest_starts s he⟩,
    fun pass us => selftestEnd_shows pass us,
    fun h hh => ⟨_, rfl, retire_idle hp h hh⟩,
    fun h hh => ⟨_, rfl, retire_busy h hh⟩,
    fun hj => ⟨_, rfl, admitUnit_joined hj⟩,
    engineAdmit_joins,
    fun hj ht hs => ⟨_, rfl, admitUnit_tests he hj ht hs⟩,
    engineDrained_leaves,
    engineDrained_standby,
    fun h => ⟨_, rfl, endUnitDrain_stays h⟩⟩

end Sys2Proof.Machine
end

section
/-! PROOFS. Pictures and their segments: what is found after a change, and what leaves them alone (R62, R170). -/

namespace Sys2Proof.Machine

/-! ### Finding a segment -/

theorem findSeg_eq_some {s : State} {x : SegId} {p : Pic} {g : Seg} :
    findSeg s x = some (p, g) ↔ findPic s x.ctx x.pic = some p ∧ p.segs[x.seg]? = some g := by
  unfold findSeg
  cases findPic s x.ctx x.pic with
  | none => simp
  | some q =>
    cases hq : q.segs[x.seg]? with
    | none => simp only [hq, Option.map_none]; constructor <;> intro h <;> simp_all
    | some y => simp only [hq, Option.map_some]; constructor <;> intro h <;> simp_all

theorem findPic_congr {s t : State} {c : Nat} (h : (getCtx t c).pics = (getCtx s c).pics) (n : Nat) :
    findPic t c n = findPic s c n := by rw [findPic, findPic, h]

theorem findSeg_congr {s t : State} {x : SegId} (h : (getCtx t x.ctx).pics = (getCtx s x.ctx).pics) : findSeg t x = findSeg s x := by
  rw [findSeg, findSeg, findPic_congr h]

/-- A change of pictures that moves none of them is found where they are. -/
theorem findPic_modPic (s : State) (c n : Nat) {f : Pic → Pic} (hf : ∀ p, (f p).num = p.num ∧ ((f p).segs = [] ↔ p.segs = [])) :
    findPic (modPic s c n f) c n = (findPic s c n).map f := by
  have hsame : (fun p : Pic => p.num == n && p.segs != []) ∘ (fun p => if p.num == n && p.segs != [] then f p else p) =
      fun p => p.num == n && p.segs != [] := by
    funext p
    obtain ⟨hnum, hsegs⟩ := hf p
    dsimp only [Function.comp_apply]
    split
    · rw [Bool.eq_iff_iff]
      simp [hnum, hsegs]
    · rfl
  unfold findPic modPic
  rw [getCtx_modCtx, List.find?_map, hsame]
  cases h : (getCtx s c).pics.find? fun p => p.num == n && p.segs != [] with
  | none => rfl
  | some p => rw [Option.map_some, Option.map_some, if_pos (List.find?_some h)]

/-- A picture with one segment changed. -/
def Pic.withSeg (p : Pic) (i : Nat) (f : Seg → Seg) : Pic := { p with segs := p.segs.modify i f }

theorem Pic.withSeg_segs_nil (p : Pic) (i : Nat) (f : Seg → Seg) : (p.withSeg i f).segs = [] ↔ p.segs = [] := by
  rw [← List.length_eq_zero_iff, ← List.length_eq_zero_iff, withSeg, List.length_modify]

theorem findPic_modSeg (s : State) (x : SegId) (f : Seg → Seg) :
    findPic (modSeg s x f) x.ctx x.pic = (findPic s x.ctx x.pic).map fun p => p.withSeg x.seg f :=
  findPic_modPic s _ _ fun p => ⟨rfl, p.withSeg_segs_nil _ f⟩

theorem findSeg_modSeg {s : State} {x : SegId} {p : Pic} {g : Seg} (h : findSeg s x = some (p, g)) (f : Seg → Seg) :
    findSeg (modSeg s x f) x = some (p.withSeg x.seg f, f g) := by
  obtain ⟨hp, hg⟩ := findSeg_eq_some.1 h
  refine findSeg_eq_some.2 ⟨by rw [findPic_modSeg, hp]; rfl, ?_⟩
  rw [Pic.withSeg, List.getElem?_modify, hg]
  simp

/-! ### The work of an engine -/

theorem held_setHeld (s : State) (page : Nat) (h : List Held) : (getEng (setHeld s page h) page).held = h := by
  have hsync := (syncUnit_keeps (page := page) (.refl [.regs, .srcs]
    (noteUse (modEng s page ({ · with held := h })) (domainOf page))) rfl).engines (by decide)
  have hnote : (noteUse (modEng s page ({ · with held := h })) (domainOf page)).engines =
      (modEng s page ({ · with held := h })).engines := rfl
  rw [setHeld, getEng_congr hsync, getEng_congr hnote, getEng_modEng]

theorem held_modHeld (s : State) (page : Nat) (j : Job) (f : Held → Held) :
    (getEng (modHeld s page j f) page).held = (getEng s page).held.map fun h => if h.job = j then f h else h :=
  held_setHeld _ _ _

theorem setHeld_ctxs (s : State) (page : Nat) (h : List Held) : (setHeld s page h).ctxs = s.ctxs :=
  (setHeld_keeps (.refl [.regs, .engines, .srcs, .doms] s) rfl).ctxs (by decide)

theorem setHeld_mem (s : State) (page : Nat) (h : List Held) : (setHeld s page h).mem = s.mem :=
  (setHeld_keeps (.refl [.regs, .engines, .srcs, .doms] s) rfl).mem (by decide)

/-- What an engine holds shows in its own registers alone. -/
theorem setHeld_sameRegs (s : State) (page : Nat) (h : List Held) : SameRegs s (setHeld s page h) fun q _ => q = page := by
  have hset : ∀ {t u : State} (r : Row) (v : Nat), r.at 0 < 4096 → SameRegs t u (fun q _ => q = page) →
      SameRegs t (fset u page r v) fun q _ => q = page := fun r v ho k => k.then_fset ho rfl v
  have hfallback : ∀ (t : State) (b : Bool), SameRegs t (syncFallback t page b) fun q _ => q = page := by
    intro t b
    unfold syncFallback
    split
    · exact .refl _ _
    · exact (hset _ _ (by decide) (.refl t _)).then_setIrq rfl _
  have hsync : ∀ t : State, SameRegs t (syncUnit t page) fun q _ => q = page := by
    intro t
    have hrefl := SameRegs.refl t fun q _ => q = page
    unfold syncUnit
    dsimp only
    split
    · exact (hset _ _ (by decide) (hset _ _ (by decide) (hset _ _ (by decide) hrefl))).trans (hfallback _ _)
    · exact hset _ _ (by decide) (hset _ _ (by decide) (hset _ _ (by decide) (hset _ _ (by decide) hrefl)))
    · exact hset _ _ (by decide) (hset _ _ (by decide) hrefl)
    · exact hrefl
  exact SameRegs.trans (sameRegs_of_regs rfl) (hsync _)

/-! ### The end of lookahead -/

theorem endLookahead_devtime (s : State) (page : Nat) : (endLookahead s page).devtime = s.devtime :=
  (endLookahead_keeps (.refl [.free, .regs, .ctxs, .engines, .srcs, .doms, .perf] s) rfl).devtime (by decide)

theorem modSubmit_pics (s : State) (c n : Nat) (f : Submit → Submit) (j : Nat) :
    (getCtx (modSubmit s c n f) j).pics = (getCtx s j).pics := by
  rw [modSubmit, getCtx_modCtx_cases]
  split
  · next h => rw [h]
  · rfl

/-- Lookahead that ends changes no picture in coding. -/
theorem endLookahead_pics (s : State) (page c : Nat) : (getCtx (endLookahead s page) c).pics = (getCtx s c).pics := by
  refine List.foldlRecOn (motive := fun t : State => (getCtx t c).pics = (getCtx s c).pics) _ _ rfl fun t ht h _ => ?_
  split
  · split
    · have hctxs : ∀ (j : Job) (l : List Held), (setHeld (settleItem (accrue t page) j true) page l).ctxs = t.ctxs := fun j l =>
        (setHeld_keeps (settleItem_keeps (accrue_keeps (.refl [.free, .regs, .engines, .srcs, .doms, .perf] t) rfl) rfl) rfl).ctxs
          (by decide)
      rw [modSubmit_pics, getCtx_congr (hctxs _ _), ht]
    · exact ht
  · exact ht

end Sys2Proof.Machine
end

section
/-! PROOFS. A segment on its encode engine: its first unit, its coding units, and the rows that commit under GUARD OFF
(R61, R122, R123, R163, R170, R171). -/

namespace Sys2Proof.Machine

/-! ### The first unit -/

theorem exec_segmentFirstCtu {s : State} {ee : Fin 18} {x : SegId} {p : Pic} {g : Seg} (hseg : findSeg s x = some (p, g))
    (hnext : nextSeg (endLookahead s (eePage ee)) (eePage ee) = some x)
    (hon : domOn (endLookahead s (eePage ee)) (domainOf (eePage ee)) = true)
    (hready : blkReady (endLookahead s (eePage ee)) (eePage ee) = true) :
    exec (.segmentFirstCtu ee) s = .next (modHeld (endLookahead s (eePage ee)) (eePage ee) (.segment x) fun h => { h with
      begun := true, start := s.devtime, fb := runsFb (endLookahead s (eePage ee)) (eePage ee) g.digital
      tr := ⟨g.budget, 0, false, p.qp⟩, run := ⟨[], true⟩ }) := by
  have hfound : findSeg (endLookahead s (eePage ee)) x = some (p, g) := by
    rw [findSeg_congr (endLookahead_pics s (eePage ee) x.ctx), hseg]
  change execSegmentFirstCtu ee s = _
  unfold execSegmentFirstCtu
  dsimp only
  rw [hnext]
  dsimp only
  rw [hfound]
  dsimp only
  rw [if_pos (by rw [hon, hready]; rfl), endLookahead_devtime]
  rfl

/-! ### Coding units -/

/-- The condition of R123 for the ration form. -/
def runsDry (t : Tracker) (n r normal : Nat) : Prop :=
  t.ration = true ∨ t.rem ≤ (n * r + endBound : Nat) ∨ t.rem - (normal : Int) < ((n - 1) * r + endBound : Nat)

theorem trackUnit_ration (t : Tracker) (n r normal ration : Nat) :
    (trackUnit t n r normal ration).ration = true ↔ runsDry t (n - t.k) r normal := by
  simp only [trackUnit, runsDry, Bool.or_eq_true, decide_eq_true_eq, or_assoc]

/-- The tracker takes a unit in ration form. -/
theorem trackUnit_of_dry {t : Tracker} {n r normal ration : Nat} (h : runsDry t (n - t.k) r normal) :
    trackUnit t n r normal ration = ⟨t.rem - (ration : Int), t.k + 1, true, t.qp⟩ := by
  have hrat := (trackUnit_ration t n r normal ration).2 h
  have hrem : (trackUnit t n r normal ration).rem =
      t.rem - (if (trackUnit t n r normal ration).ration then (ration : Int) else (normal : Int)) := rfl
  rw [hrat] at hrem
  calc trackUnit t n r normal ration
      = ⟨(trackUnit t n r normal ration).rem, t.k + 1, (trackUnit t n r normal ration).ration, t.qp⟩ := rfl
    _ = _ := by rw [hrem, hrat]; rfl

/-- The tracker takes a unit in normal form. -/
theorem trackUnit_of_full {t : Tracker} {n r normal ration : Nat} (h : ¬runsDry t (n - t.k) r normal) :
    trackUnit t n r normal ration = ⟨t.rem - (normal : Int), t.k + 1, false, t.qp⟩ := by
  have hrat := Bool.eq_false_iff.2 (mt (trackUnit_ration t n r normal ration).1 h)
  have hrem : (trackUnit t n r normal ration).rem =
      t.rem - (if (trackUnit t n r normal ration).ration then (ration : Int) else (normal : Int)) := rfl
  rw [hrat] at hrem
  calc trackUnit t n r normal ration
      = ⟨(trackUnit t n r normal ration).rem, t.k + 1, (trackUnit t n r normal ration).ration, t.qp⟩ := rfl
    _ = _ := by rw [hrem, hrat]; rfl

/-- The ration form is within the bound of R122. -/
theorem unitForms_ration_le (s : State) (h : Held) (x : SegId) (p : Pic) (g : Seg) (upset : Option (UnitCode × UnitCode)) :
    (unitForms s h x p g upset).2.bits.length ≤ g.rbound := by
  cases upset with
  | none => exact List.length_take_le _ _
  | some f => exact List.length_take_le _ _

theorem tagUnit_off {s : State} (h : fbit s 0x31 F.PERF1_TAG_CTL_EN = false) (page : Nat) (words : List Nat) :
    tagUnit s page words = s := if_pos (by rw [h]; rfl)

/-- What the engine holds after a unit that leaves no tag sample. -/
theorem codeUnit_held {s : State} {page : Nat} (hp : page ≠ 0x31) (htag : fbit s 0x31 F.PERF1_TAG_CTL_EN = false) (h : Held)
    (x : SegId) (p : Pic) (g : Seg) (upset : Option (UnitCode × UnitCode)) (tag : TagTimes) :
    let v := writeDigital s x p g h.tr.k
    let f := unitForms v h x p g upset
    let t := trackUnit h.tr g.units g.rbound f.1.bits.length f.2.bits.length
    (getEng (codeUnit s page h x p g upset tag) page).held = ((getEng v page).held.map fun y =>
        if y.job = .segment x then { y with
          tr := { t with qp := if t.ration then rationQp g.desc h.tr.qp else g.desc.qps.getD h.tr.k 0 }
          run := ⟨h.run.units ++ [if t.ration then f.2 else f.1], h.run.clean && upset.isNone⟩ } else y) ∧
      (codeUnit s page h x p g upset tag).mem = v.mem := by
  intro v f t
  have hv : v.regs = s.regs := (writeDigital_keeps (.refl [.mem, .ctxs] s) rfl).regs (by decide)
  have hpass : ∀ (u : State) (k : Seg → Seg),
      fbit (clearStall (if g.redo ≠ 0 then u else modSeg u x k) page) 0x31 F.PERF1_TAG_CTL_EN = fbit u 0x31 F.PERF1_TAG_CTL_EN ∧
      (clearStall (if g.redo ≠ 0 then u else modSeg u x k) page).engines = u.engines ∧
      (clearStall (if g.redo ≠ 0 then u else modSeg u x k) page).mem = u.mem := by
    intro u k
    have hstall : ∀ w : State, SameRegs w (clearStall w page) fun q _ => q = page := fun w =>
      (SameRegs.refl w fun q _ => q = page).then_fset (engRow_ind (P := fun r => r.at 0 < 4096) page (by decide) (by decide)) rfl _
    have hk := clearStall_keeps (page := page) (Keeps.ite (c := g.redo ≠ 0) (.refl [.regs, .ctxs] u)
      (modSeg_keeps (x := x) (f := k) (.refl [.regs, .ctxs] u) rfl)) rfl
    refine ⟨?_, hk.engines (by decide), hk.mem (by decide)⟩
    rw [(hstall _).fbit (by decide) (by omega)]
    split
    · rfl
    · exact fbit_congr ((modSeg_keeps (.refl [.ctxs] u) rfl).regs (by decide)) _ _ _
  have hcode : ∃ (y : Held → Held) (k : Seg → Seg) (words : List Nat), codeUnit s page h x p g upset tag =
      tagUnit (clearStall (if g.redo ≠ 0 then modHeld v page (.segment x) y else modSeg (modHeld v page (.segment x) y) x k) page)
        page words ∧ y = fun y => { y with
          tr := { t with qp := if t.ration then rationQp g.desc h.tr.qp else g.desc.qps.getD h.tr.k 0 }
          run := ⟨h.run.units ++ [if t.ration then f.2 else f.1], h.run.clean && upset.isNone⟩ } := ⟨_, _, _, rfl, rfl⟩
  obtain ⟨y, k, words, he, hy⟩ := hcode
  obtain ⟨htagged, heng, hmem⟩ := hpass (modHeld v page (.segment x) y) k
  have hoff : fbit (modHeld v page (.segment x) y) 0x31 F.PERF1_TAG_CTL_EN = false := by
    rw [modHeld, (setHeld_sameRegs v page _).fbit (by decide) (by omega), fbit_congr hv]
    exact htag
  rw [he, tagUnit_off (by rw [htagged, hoff]), getEng_congr heng, held_modHeld, hmem, modHeld, setHeld_mem, hy]
  exact ⟨rfl, rfl⟩

theorem exec_codingUnitCoded {s : State} {ee : Fin 18} {h : Held} {x : SegId} {p : Pic} {g : Seg}
    (hseg : findSeg s x = some (p, g)) (hcur : curSeg s (eePage ee) = some (h, x)) (hk : h.tr.k < g.units)
    (upset : Option (UnitCode × UnitCode)) (tag : TagTimes) :
    exec (.codingUnitCoded ee upset tag) s = .next (codeUnit s (eePage ee) h x p g upset tag) := by
  change execCodingUnitCoded ee upset tag s = _
  unfold execCodingUnitCoded
  dsimp only
  rw [hcur]
  dsimp only
  rw [hseg]
  exact if_pos hk

end Sys2Proof.Machine
end

section
/-! PROOFS. Rows that commit under GUARD OFF, and the settling of O20 (R122, R123, R170). -/

namespace Sys2Proof.Machine

/-! ### What a change of contexts leaves -/

theorem active_eq {s t : State} (hr : t.regs = s.regs) {c : Nat} (hl : (getCtx t c).levelCode = (getCtx s c).levelCode) :
    active t c = active s c := by
  funext r
  unfold active activeRaw
  rw [rget_congr hr, hl]

theorem modSeg_regs (s : State) (x : SegId) (f : Seg → Seg) : (modSeg s x f).regs = s.regs := rfl

theorem active_modSeg (s : State) (x : SegId) (f : Seg → Seg) : active (modSeg s x f) x.ctx = active s x.ctx := by
  refine active_eq (modSeg_regs s x f) ?_
  rw [modSeg, modPic, getCtx_modCtx]

theorem fixDelta_eq (s : State) (c : Nat) (p : Pic) : ∃ d, fixDelta s c p = s ∨ fixDelta s c p = modCtx s c ({ · with delta := d }) := by
  unfold fixDelta
  dsimp only
  split
  · exact ⟨none, .inl rfl⟩
  · exact ⟨_, .inr rfl⟩

theorem fixDelta_pics (s : State) (c : Nat) (p : Pic) : (getCtx (fixDelta s c p) c).pics = (getCtx s c).pics := by
  obtain ⟨d, h | h⟩ := fixDelta_eq s c p
  · rw [h]
  · rw [h, getCtx_modCtx]

theorem fixDelta_eq_ctxs (s : State) (c : Nat) (p : Pic) : fixDelta s c p = { s with ctxs := (fixDelta s c p).ctxs } := by
  obtain ⟨d, h | h⟩ := fixDelta_eq s c p
  · rw [h]
  · rw [h]; rfl

/-! ### Rows -/

section rows
variable {s : State} {x : SegId} {p : Pic} {g : Seg} (hseg : findSeg s x = some (p, g))
include hseg

/-- The rows completed commit, where the segment is the one to commit next. -/
theorem commitRows_commits (hguard : p.guardLv = 1) (hcut : g.cut = false) (hrows : g.rowsOut < g.rowsDone) (head : Nat) :
    let t := commitRows s x.ctx x.pic x.seg head p g
    let upto := max g.bytesOut (g.bits / 8)
    t = { s with ctxs := t.ctxs, out := t.out } ∧ t.out = .commit x.ctx x.seg (head + (upto - g.bytesOut)) :: s.out ∧
      findSeg t x = some (p.withSeg x.seg ({ · with rowsOut := g.rowsDone, bytesOut := upto }),
        { g with rowsOut := g.rowsDone, bytesOut := upto }) := by
  intro t upto
  have ht : t = emit (modSeg (fixDelta s x.ctx p) x ({ · with rowsOut := g.rowsDone, bytesOut := upto }))
      (.commit x.ctx x.seg (head + (upto - g.bytesOut))) := if_pos (by rw [hguard, hcut, decide_eq_true hrows]; rfl)
  have hfix := fixDelta_eq_ctxs s x.ctx p
  have hout : (fixDelta s x.ctx p).out = s.out := by rw [hfix]
  have hfound : findSeg (fixDelta s x.ctx p) x = some (p, g) := by rw [findSeg_congr (fixDelta_pics s x.ctx p), hseg]
  rw [ht]
  refine ⟨?_, ?_, findSeg_modSeg hfound _⟩
  · rw [hfix]
    rfl
  · rw [← hout]
    rfl

/-- Of a running segment that is first in bitstream order no more than its rows commits. -/
theorem commitOrder_rows (hrun : g.phase = .running) {order is : List Nat} :
    commitOrder x.ctx x.pic order (x.seg :: is) s = commitRows s x.ctx x.pic x.seg (headBytes order p x.seg g) p g := by
  obtain ⟨hp, hg⟩ := findSeg_eq_some.1 hseg
  simp only [commitOrder, hp, hg, hrun]
  rfl

/-- A picture under GUARD OFF whose first segment runs commits that segment's rows. -/
theorem tryCommit_rows (hguard : p.guardLv = 1) (hrun : g.phase = .running) (hcut : g.cut = false) (hdone : p.done = false)
    (hstop : s.pins.stopped = false) (hroom : holdingFull s (active s x.ctx) = false) (hrows : g.rowsOut < g.rowsDone)
    (hhead : (bitstreamOrder (active s x.ctx).codec (active s x.ctx).bands.length (active s x.ctx).strips.length).head? =
      some x.seg) :
    tryCommit s x.ctx x.pic = commitRows s x.ctx x.pic x.seg (headBytes (bitstreamOrder (active s x.ctx).codec
      (active s x.ctx).bands.length (active s x.ctx).strips.length) p x.seg g) p g := by
  obtain ⟨hp, hg⟩ := findSeg_eq_some.1 hseg
  obtain ⟨is, horder⟩ : ∃ is, bitstreamOrder (active s x.ctx).codec (active s x.ctx).bands.length (active s x.ctx).strips.length =
      x.seg :: is := ⟨_, (List.head?_eq_some_iff.1 hhead).choose_spec⟩
  unfold tryCommit
  rw [hp]
  dsimp only
  rw [if_neg (by simp [hstop, hdone, hroom, hguard]), horder, commitOrder_rows hseg hrun]
  obtain ⟨-, -, hfound⟩ := commitRows_commits hseg hguard hcut hrows (headBytes (x.seg :: is) p x.seg g)
  obtain ⟨hq, hy⟩ := findSeg_eq_some.1 hfound
  rw [hq]
  refine if_neg fun hall => ?_
  have hcommitted := List.all_eq_true.1 hall _ (List.mem_of_getElem? hy)
  simp [hrun] at hcommitted

end rows

/-- CTU_ROW_COMPLETE commits the rows completed of the segment that is first in bitstream order. -/
theorem ctuRowComplete_commits {s : State} {ee : Fin 18} {x : SegId} {p : Pic} {g : Seg} {h : Held}
    (hseg : findSeg s x = some (p, g)) (hcur : curSeg s (eePage ee) = some (h, x)) :
    let a := active s x.ctx
    let order := bitstreamOrder a.codec a.bands.length a.strips.length
    let done := h.tr.k / max 1 (g.units / max 1 g.rows)
    let bytes := max g.bytesOut (spent g h.tr / 8)
    p.guardLv = 1 → g.redo = 0 → g.phase = .running → g.cut = false → p.done = false → s.pins.stopped = false →
      holdingFull s a = false → order.head? = some x.seg → g.rowsDone < done → g.rowsOut ≤ g.rowsDone →
      Does (.ctuRowComplete ee) s fun t => t = { s with ctxs := t.ctxs, out := t.out } ∧
        t.out = .commit x.ctx x.seg (headBytes order p x.seg g + (bytes - g.bytesOut)) :: s.out ∧
        Becomes s t x { g with rowsDone := done, rowsOut := done, bytesOut := bytes, bits := spent g h.tr
                               code := keepCommitted g h.run.bits } := by
  intro a order done bytes hguard hredo hrun hcut hdone hstop hroom hhead hnew hold
  have hput := findSeg_modSeg hseg fun g => { g with
    rowsDone := done, bits := spent g h.tr, code := keepCommitted g h.run.bits }
  have hactive := active_modSeg s x fun g => { g with
    rowsDone := done, bits := spent g h.tr, code := keepCommitted g h.run.bits }
  have hexec : exec (.ctuRowComplete ee) s = .next (tryCommit (modSeg s x fun g => { g with
      rowsDone := done, bits := spent g h.tr, code := keepCommitted g h.run.bits }) x.ctx x.pic) := by
    change execCtuRowComplete ee s = _
    unfold execCtuRowComplete
    rw [hcur]
    dsimp only
    rw [hseg]
    exact if_pos ⟨hguard, hredo, hnew⟩
  have hcommit := tryCommit_rows hput hguard hrun hcut hdone hstop (by rw [hactive]; exact hroom) (by dsimp only; omega)
    (by rw [hactive]; exact hhead)
  rw [hactive] at hcommit
  obtain ⟨hrest, hout, hfound⟩ := commitRows_commits hput hguard hcut (by dsimp only; omega) (headBytes order
    (p.withSeg x.seg fun g => { g with rowsDone := done, bits := spent g h.tr, code := keepCommitted g h.run.bits }) x.seg
    { g with rowsDone := done, bits := spent g h.tr, code := keepCommitted g h.run.bits })
  rw [← hcommit] at hrest hout hfound
  refine ⟨_, hexec, ?_, ?_, ⟨_, hfound⟩, ?_⟩
  · rw [hrest]
    rfl
  · rw [hout]
    rfl
  · rw [hrest]
    rfl

/-- Settles O20: the frame of each command around the engine's held work, and R123's condition as the tracker's. -/
theorem codingUnits : Obligations.CodingUnits := by
  unfold Obligations.CodingUnits
  intro ee s x p g hseg page onto
  refine ⟨fun hnext hon hready => ?first, fun h hcur => ⟨fun upset tag hk htag => ?unit, ctuRowComplete_commits hseg hcur⟩⟩
  case first =>
    exact ⟨_, exec_segmentFirstCtu hseg hnext hon hready, held_modHeld _ _ _ _, setHeld_mem _ _ _⟩
  case unit =>
    intro v f n rat coded
    have hpage : page ≠ 0x31 := by
      have hne : ∀ e : Fin 18, eePage e ≠ 0x31 := by decide
      exact hne ee
    obtain ⟨hheld, hmem⟩ := codeUnit_held hpage htag h x p g upset tag
    have hiff : runsDry h.tr (g.units - h.tr.k) g.rbound f.1.bits.length ↔ rat := Iff.rfl
    refine ⟨unitForms_ration_le v h x p g upset, ?_⟩
    by_cases hrat : rat
    · refine ⟨_, exec_codingUnitCoded hseg hcur hk upset tag, rationQp g.desc h.tr.qp, fun _ => ⟨?_, hmem⟩, fun k => absurd hrat k⟩
      rw [hheld, trackUnit_of_dry (hiff.2 hrat)]
      simp only [coded, hrat, if_true, and_true, decide_true]
      rfl
    · refine ⟨_, exec_codingUnitCoded hseg hcur hk upset tag, g.desc.qps.getD h.tr.k 0, fun k => absurd k hrat, fun _ =>
        ⟨rfl, ?_, hmem⟩⟩
      rw [hheld, trackUnit_of_full (mt hiff.1 hrat)]
      simp only [coded, hrat, and_false, decide_false]
      rfl

end Sys2Proof.Machine
end

section
/-! PROOFS. Reconstructions in device memory: where a picture is stored depends on the base of its handle's pool. A handle of
a pool beyond the eight of R247 has its base in another block's registers, which refutes O21 (R62, R66, R178, R249). -/

namespace Sys2Proof.Machine

/-! ### Device memory -/

/-- The bytes of a stored picture. -/
def storedForm (pix : Picture) (n : Nat) : List Byte := (List.range n).map fun i => BitVec.ofNat 8 (Config.storedForm pix (0 + i))

theorem storedForm_length (pix : Picture) (n : Nat) : (storedForm pix n).length = n := by
  rw [storedForm, List.length_map, List.length_range]

theorem storeBytes_single (s : State) (pix : Picture) {total h : Nat} (ht : total ≤ poolSize (handlePool h)) :
    storeBytes s pix 0 total [h] = memWriteN s (bufAddr s h) (storedForm pix total) := by
  change memWriteN s (bufAddr s h) _ = _
  rw [Nat.sub_zero, Nat.min_eq_right ht]
  rfl

/-- The same bytes written at two places apart leave memories that differ, where memory differed there. -/
theorem memWriteN_apart {s t : State} (hm : t.mem = s.mem) {a b : Nat} {l : List Byte} (hl : l ≠ [])
    (hab : a + l.length ≤ b) (hne : memRead s a ≠ memRead s b) : (memWriteN t a l).mem ≠ (memWriteN s b l).mem := by
  intro h
  have hpos : 0 < l.length := List.length_pos_iff.2 hl
  have hat : ∀ (u : State) (p : Nat), memRead (memWriteN u p l) p = l[0] := fun u p => memRead_memWriteN_at u p l 0 hpos
  have hleft : memRead s a = l[0] := by
    rw [← memRead_memWriteN s b l a (.inl (by omega)), ← memRead_congr h, hat]
  have hright : memRead s b = l[0] := by
    rw [← memRead_congr hm, ← memRead_memWriteN t a l b (.inr hab), memRead_congr h, hat]
  exact hne (hleft.trans hright.symm)

/-! ### A reconstruction -/

/-- A reconstruction that is a reference goes to its buffer. -/
theorem setRecon_mem {s : State} {c n h : Nat} {r : EncRef} (f : Picture → Picture)
    (hr : (getCtx s c).encRefs.find? (·.num == n) = some r) (hb : r.bufs = [h])
    (ht : storedBytes (active s c) ≤ poolSize (handlePool h)) :
    (setRecon s c n f).mem = (memWriteN s (bufAddr s h) (storedForm (f r.pix) (storedBytes (active s c)))).mem := by
  have hrefs : (getCtx (modPic s c n fun p => { p with recon := f p.recon }) c).encRefs = (getCtx s c).encRefs := by
    rw [modPic, getCtx_modCtx]
  have hactive : active (modPic s c n fun p => { p with recon := f p.recon }) c = active s c := by
    refine active_eq (s := s) (t := modPic s c n fun p => { p with recon := f p.recon }) rfl ?_
    rw [modPic, getCtx_modCtx]
  unfold setRecon
  dsimp only
  rw [hrefs, hr]
  dsimp only
  rw [hb, hactive, storeBytes_single _ _ ht]
  rfl

theorem setRecon_pics (s : State) (c n : Nat) (f : Picture → Picture) :
    (getCtx (setRecon s c n f) c).pics = (getCtx (modPic s c n fun p => { p with recon := f p.recon }) c).pics := by
  unfold setRecon
  dsimp only
  split
  · rfl
  · rw [getCtx_congr ((storeBytes_keeps (.refl [.mem] _) rfl).ctxs (by decide)), getCtx_modCtx]

theorem setRecon_oldMem (s : State) (c n : Nat) (f : Picture → Picture) :
    (getCtx (setRecon s c n f) c).oldMem = (getCtx s c).oldMem := by
  have hpic : (getCtx (modPic s c n fun p => { p with recon := f p.recon }) c).oldMem = (getCtx s c).oldMem := by
    rw [modPic, getCtx_modCtx]
  unfold setRecon
  dsimp only
  split
  · exact hpic
  · rw [getCtx_congr ((storeBytes_keeps (.refl [.mem] _) rfl).ctxs (by decide)), getCtx_modCtx]
    exact hpic

/-! ### Pictures that a context keeps -/

/-- A delivered picture that stays for a segment beside segment `i`, whose boundary job or verification is not over. -/
def keptBeside (i : Nat) (p : Pic) : Prop := p.sent = true ∧ ∃ j g, j ≠ i ∧ p.segs[j]? = some g ∧ segSettled g = false

theorem keptBeside_withSeg {i : Nat} {p : Pic} (h : keptBeside i p) (f : Seg → Seg) : keptBeside i (p.withSeg i f) := by
  obtain ⟨hsent, j, g, hj, hg, hopen⟩ := h
  refine ⟨hsent, j, g, hj, ?_, hopen⟩
  rw [Pic.withSeg, List.getElem?_modify, hg]
  simp [Ne.symm hj]

theorem modPic_pics_all {P : Pic → Prop} {s : State} {c n : Nat} {f : Pic → Pic} (h : ∀ p ∈ (getCtx s c).pics, P p)
    (hf : ∀ p, P p → P (f p)) : ∀ p ∈ (getCtx (modPic s c n f) c).pics, P p := by
  intro q hq
  rw [modPic, getCtx_modCtx] at hq
  obtain ⟨p, hp, rfl⟩ := List.mem_map.1 hq
  split
  · exact hf p (h p hp)
  · exact h p hp

theorem deliverPics_of_sent {s : State} {c : Nat} (h : ∀ p ∈ (getCtx s c).pics, p.sent = true) (n : Nat) :
    deliverPics n s c = s := by
  have hnone : (getCtx s c).pics.find? (fun p => !p.sent) = none := List.find?_eq_none.2 fun p hp => by simp [h p hp]
  cases n with
  | zero => rfl
  | succ n => rw [deliverPics, hnone]

/-- A context without a drain whose pictures are all kept has nothing to settle. -/
theorem settleCtx_of_kept {s : State} {c i : Nat} (hp : ∀ p ∈ (getCtx s c).pics, keptBeside i p) (ho : (getCtx s c).oldMem = [])
    (hs : ctxState s c = 3) : settleCtx s c = s := by
  have hall : (getCtx s c).pics.filter (fun p => !(p.sent && p.segs.all segSettled)) = (getCtx s c).pics := by
    refine List.filter_eq_self.2 fun p hm => ?_
    obtain ⟨-, j, g, -, hg, hopen⟩ := hp p hm
    simp only [Bool.not_eq_true', Bool.and_eq_false_iff, List.all_eq_false]
    exact .inr ⟨g, List.mem_of_getElem? hg, by rw [hopen]; exact Bool.false_ne_true⟩
  rw [settleCtx, deliverPics_of_sent fun p hm => (hp p hm).1]
  unfold retirePics
  dsimp only
  rw [hall, if_pos rfl, dropOldMem_nil ho]
  exact if_neg fun h => by omega

end Sys2Proof.Machine
end

section
/-! PROOFS. The refutation of O21: a reference whose handle names pool 0x4FF4 (R62, R178, R249). -/

namespace Sys2Proof.Machine

/-! ### BOUNDARY_JOB_COMPLETE of an unverified segment -/

/-- The context of a boundary job after its engine let go of it. -/
def edgeLeft (s : State) (x : SegId) (page : Nat) (h : Held) (out : Samples) : State :=
  modSeg (itemLeaves s page h) x ({ · with edgeEe := page - eePage 0, edgeCrc := segCrc out, edgeOut := out, edge := 4 })

theorem exec_boundaryJobComplete {s : State} {x : SegId} {p : Pic} {g : Seg} {page : Nat} {h : Held}
    (hseg : findSeg s x = some (p, g)) (hh : boundaryHolder s x = some (page, h)) (hon : domOn s (domainOf page) = true)
    (hready : blkReady s page = true) (hv : g.verify = false) (upset : Option Samples) :
    exec (.boundaryJobComplete x upset) s = .next (endUnitDrain (edgeDone
      (edgeLeft s x page h (edgeSamples p.recon g.desc upset)) x g.desc (edgeSamples p.recon g.desc upset)) page) := by
  change execBoundaryJobComplete x upset s = _
  unfold execBoundaryJobComplete
  rw [hseg, hh]
  dsimp only
  rw [if_neg (by rw [hon, hready]; decide), if_neg (by rw [hv, Bool.false_and]; decide)]
  rfl

theorem itemLeaves_pics (s : State) (page : Nat) (h : Held) (c : Nat) :
    (getCtx (itemLeaves s page h) c).pics = (getCtx s c).pics ∧ (getCtx (itemLeaves s page h) c).oldMem = (getCtx s c).oldMem ∧
      (getCtx (itemLeaves s page h) c).encRefs = (getCtx s c).encRefs := by
  have hheld := getCtx_congr (setHeld_ctxs s page ((getEng s page).held.filter fun y => y.job != h.job)) c
  rw [itemLeaves, retiredOn, getCtx_modCtx_cases]
  split
  · next hc => rw [← hc, hheld]; exact ⟨rfl, rfl, rfl⟩
  · rw [hheld]; exact ⟨rfl, rfl, rfl⟩

theorem modSeg_oldMem (s : State) (x : SegId) (f : Seg → Seg) :
    (getCtx (modSeg s x f) x.ctx).oldMem = (getCtx s x.ctx).oldMem := by rw [modSeg, modPic, getCtx_modCtx]

section unverified
variable {s : State} {x : SegId} {p : Pic} {g : Seg} {page : Nat} {h : Held}

theorem edgeLeft_kept (hkept : ∀ q ∈ (getCtx s x.ctx).pics, keptBeside x.seg q) (out : Samples) :
    ∀ q ∈ (getCtx (edgeLeft s x page h out) x.ctx).pics, keptBeside x.seg q := by
  refine modPic_pics_all ?_ fun q hq => keptBeside_withSeg hq _
  rw [(itemLeaves_pics s page h x.ctx).1]
  exact hkept

theorem edgeLeft_same (out : Samples) : SameRegs s (edgeLeft s x page h out) (fun q _ => q = page) ∧
    (edgeLeft s x page h out).mem = s.mem ∧ (getCtx (edgeLeft s x page h out) x.ctx).oldMem = (getCtx s x.ctx).oldMem ∧
    (getCtx (edgeLeft s x page h out) x.ctx).encRefs = (getCtx s x.ctx).encRefs := by
  obtain ⟨-, hold, hrefs⟩ := itemLeaves_pics s page h x.ctx
  refine ⟨(setHeld_sameRegs s page _).then_regs rfl, setHeld_mem s page _, ?_, ?_⟩
  · rw [← hold, edgeLeft, modSeg, modPic, getCtx_modCtx]
  · rw [← hrefs, edgeLeft, modSeg, modPic, getCtx_modCtx]

/-- What an unverified boundary job writes is stored as the registers stand once its engine has let go of it. -/
theorem boundaryJob_mem (hseg : findSeg s x = some (p, g)) (hh : boundaryHolder s x = some (page, h))
    (hon : domOn s (domainOf page) = true) (hready : blkReady s page = true) (hv : g.verify = false)
    (hkept : ∀ q ∈ (getCtx s x.ctx).pics, keptBeside x.seg q) (ho : (getCtx s x.ctx).oldMem = []) (hs : ctxState s x.ctx = 3)
    (hp : page < 0x400) (upset : Option Samples) {t : State} (ht : exec (.boundaryJobComplete x upset) s = .next t) :
    t.mem = (setRecon (edgeLeft s x page h (edgeSamples p.recon g.desc upset)) x.ctx x.pic fun q =>
      putSamples q (edgeDesc g.desc) (edgeSamples p.recon g.desc upset)).mem := by
  rw [exec_boundaryJobComplete hseg hh hon hready hv] at ht
  injection ht with ht
  generalize edgeSamples p.recon g.desc upset = out at ht ⊢
  obtain ⟨hregs, -, hold, -⟩ := edgeLeft_same (s := s) (x := x) (page := page) (h := h) out
  have hsettle : ∀ f, settleCtx (modSeg (setRecon (edgeLeft s x page h out) x.ctx x.pic f) x ({ · with edge := 3 })) x.ctx =
      modSeg (setRecon (edgeLeft s x page h out) x.ctx x.pic f) x ({ · with edge := 3 }) := by
    intro f
    refine settleCtx_of_kept (i := x.seg) (modPic_pics_all ?_ fun q hq => keptBeside_withSeg hq _) ?_ ?_
    · rw [setRecon_pics]
      exact modPic_pics_all (edgeLeft_kept hkept out) fun q hq => hq
    · exact (modSeg_oldMem _ _ _).trans ((setRecon_oldMem _ _ _ _).trans (hold.trans ho))
    · have hrecon : (setRecon (edgeLeft s x page h out) x.ctx x.pic f).regs = (edgeLeft s x page h out).regs :=
        (setRecon_keeps (.refl [.mem, .ctxs] _) rfl).regs (by decide)
      have hsame : SameRegs s (modSeg (setRecon (edgeLeft s x page h out) x.ctx x.pic f) x ({ · with edge := 3 }))
          fun q _ => q = page := (hregs.then_regs hrecon).then_regs (modSeg_regs _ _ _)
      rw [Machine.ctxState, hsame.fget (by decide) (by unfold ctxPage; omega)]
      exact hs
  rw [← ht, endUnitDrain_mem, edgeDone, hsettle]
  exact (modSeg_keeps (.refl [.ctxs] _) rfl).mem (by decide)

end unverified

/-! ### The state that refutes O21 -/

/-- A handle of pool 0x4FF4. The base of that pool would stand at the STATUS register of encode engine 0. -/
def strayHandle : Nat := 0x4FF4 * 2 ^ 28

/-- A committed segment without units. -/
def straySeg (edge : Nat) : Seg where
  phase := .committed
  band := 0
  strip := 0
  units := 0
  px := 0
  rows := 0
  budget := 0
  rbound := 0
  dS := 0
  cS := 0
  digital := false
  record := false
  recDigital := false
  bank := 0
  issued := none
  sunits := 0
  written := 0
  verify := false
  vwait := false
  vdone := false
  waived := false
  rowsOut := 0
  bytesOut := 0
  rowsDone := 0
  bits := 0
  crc := 0
  runBits := 0
  ended := true
  code := []
  runCode := []
  clean := true
  recAt := none
  rowBits := []
  desc := ⟨0, false, false, 0, 0, ⟨0, 0, 0, 0⟩, 0, 0, [], false, true, 0, 0, [], [], none, [], false⟩
  head := []
  ration := []
  qpSum := 0
  qpMin := 0
  qpMax := 0
  ee := 0
  redo := 0
  runs := []
  avoid := []
  unmasked := false
  cut := false
  edge := edge
  edgeEe := 0
  edgeCrc := 0
  edgeOut := ⟨[], [], []⟩
  eruns := []

/-- A delivered picture: segment 0 has its boundary job on an engine, that of segment 1 is still to do. -/
def strayPic : Pic :=
  { shedPic ⟨0, 0, false, false, false, false, false, false, 0⟩ noRate 0 with segs := [straySeg 2, straySeg 1], sent := true }

def strayHeld : Held := ⟨.boundary ⟨0, 0, 0⟩, 0, 0, true, false, tracker0, run0⟩

/-- Context 0 codes 16 × 16 samples. Encode engine 0 holds the boundary job, and its STATUS is 0xFF01: busy, context 255. The
picture is a reference in the buffer that `strayHandle` names; device memory holds 1 at address 2^41. -/
def strayState : State :=
  { State.reset with
    regs := [(regKey 0x10 (0x100 + 4 * domainOf 0xA0), 2), (regKey 0xA0 4, 0x25), (regKey 0xA0 0x40, 0xFF01),
      (regKey 0x400 0x200, 3), (regKey 0x400 0x244, 2 ^ 16 * 16 + 16)]
    ctxs := [(0, { ctx0 with pics := [strayPic], encRefs := [⟨0, 0, 0, noPlanes, noPicture, [strayHandle], 0, 0⟩] })]
    engines := [(0xA0, { engine0 with held := [strayHeld] })]
    mem := [(2 ^ 41, 1)] }

/-- The buffer of the stray handle moves when the engine is no longer busy. -/
theorem strayState_bases : bufAddr strayState strayHandle = 2 ^ 41 + 0xFF01 ∧
    bufAddr (itemLeaves strayState 0xA0 strayHeld) strayHandle = 2 ^ 41 := by decide +kernel

theorem strayState_stored : storedBytes (active strayState 0) = 396 := by decide +kernel

end Sys2Proof.Machine
end

section
/-! PROOFS. The settling of O21: a boundary job's samples are stored where the base of the buffer's pool lies once the engine
has let go of the job, and the base of a pool that does not exist is a register that the engine has just changed. -/

namespace Sys2Proof.Machine

theorem bufAddr_congr {s t : State} (h : t.regs = s.regs) (n : Nat) : bufAddr t n = bufAddr s n := by
  unfold bufAddr poolBase
  rw [qget, qget, rget_congr h, rget_congr h]

/-- A picture of 16 × 16 samples fits the stray buffer. -/
theorem strayHandle_room : 396 ≤ poolSize (handlePool strayHandle) := by decide +kernel

theorem strayState_refs : (getCtx strayState 0).encRefs.find? (·.num == 0) =
    some ⟨0, 0, 0, noPlanes, noPicture, [strayHandle], 0, 0⟩ := by decide +kernel

theorem strayState_kept : ∀ q ∈ (getCtx strayState 0).pics, keptBeside 0 q := by
  have hpics : (getCtx strayState 0).pics = [strayPic] := rfl
  rw [hpics]
  intro q hq
  rw [List.mem_singleton.1 hq]
  exact ⟨rfl, 1, straySeg 1, by decide, rfl, rfl⟩

/-- The memory that the statement expects: the samples at the base before the command. -/
theorem strayState_expected (f : Picture → Picture) : (setRecon strayState 0 0 f).mem =
    (memWriteN strayState (2 ^ 41 + 0xFF01) (storedForm (f noPicture) 396)).mem := by
  rw [setRecon_mem f strayState_refs rfl (by rw [strayState_stored]; exact strayHandle_room), strayState_stored,
    strayState_bases.1]

/-- The memory that the model leaves: the samples at the base after the engine has let go of the job. -/
theorem strayState_left (out : Samples) (f : Picture → Picture) :
    (setRecon (edgeLeft strayState ⟨0, 0, 0⟩ 0xA0 strayHeld out) 0 0 f).mem =
      (memWriteN (edgeLeft strayState ⟨0, 0, 0⟩ 0xA0 strayHeld out) (2 ^ 41) (storedForm (f noPicture) 396)).mem := by
  have hactive : active (edgeLeft strayState ⟨0, 0, 0⟩ 0xA0 strayHeld out) 0 = active (itemLeaves strayState 0xA0 strayHeld) 0 :=
    active_modSeg (itemLeaves strayState 0xA0 strayHeld) ⟨0, 0, 0⟩ _
  have hstored : storedBytes (active (itemLeaves strayState 0xA0 strayHeld) 0) = 396 := by decide +kernel
  have hbase : bufAddr (edgeLeft strayState ⟨0, 0, 0⟩ 0xA0 strayHeld out) strayHandle = 2 ^ 41 :=
    (bufAddr_congr (modSeg_regs _ _ _) strayHandle).trans strayState_bases.2
  have hrefs : (getCtx (edgeLeft strayState ⟨0, 0, 0⟩ 0xA0 strayHeld out) 0).encRefs = (getCtx strayState 0).encRefs :=
    (edgeLeft_same (x := ⟨0, 0, 0⟩) out).2.2.2
  rw [setRecon_mem f (by rw [hrefs]; exact strayState_refs) rfl (by rw [hactive, hstored]; exact strayHandle_room), hactive, hstored,
    hbase]

/-- Refutes O21: no hypothesis bounds the handles of a reference. Where one names a pool that does not exist (0x4FF4, of the
eight of R247), the pool's base is read from STATUS of encode engine 0; it moves when the engine lets go of the boundary job,
before the job's samples are stored, so that device memory differs from what the statement gives. -/
theorem not_finishedWork : ¬ Obligations.FinishedWork := by
  unfold Obligations.FinishedWork
  rintro ⟨-, hedges, -⟩
  have hseg : findSeg strayState ⟨0, 0, 0⟩ = some (strayPic, straySeg 2) := rfl
  have hholder : boundaryHolder strayState ⟨0, 0, 0⟩ = some (0xA0, strayHeld) := by decide +kernel
  have hon : domOn strayState (domainOf 0xA0) = true := by decide +kernel
  have hready : blkReady strayState 0xA0 = true := by decide +kernel
  have hstate : ctxState strayState 0 = 3 := by decide +kernel
  obtain ⟨hboundary, -⟩ := hedges ⟨0, 0, 0⟩ strayPic (straySeg 2) strayState hseg rfl rfl rfl hstate
    ⟨1, straySeg 1, by decide, rfl, rfl⟩
  obtain ⟨t, ht, -, -, hunverified⟩ := hboundary none 0xA0 strayHeld hholder hon hready rfl
  obtain ⟨hexpected, -⟩ := hunverified rfl
  have hmodel := boundaryJob_mem hseg hholder hon hready rfl strayState_kept rfl hstate (by decide) none ht
  have hbytes : ∀ pix, storedForm pix 396 ≠ [] := fun pix h => by
    have hlen := storedForm_length pix 396
    rw [h] at hlen
    exact absurd hlen (by decide)
  refine memWriteN_apart (edgeLeft_same _).2.1 (hbytes _) ?_ ?_
    ((strayState_left _ _).symm.trans (hmodel.symm.trans (hexpected.trans (strayState_expected _))))
  · rw [storedForm_length]
    decide
  · decide +kernel

end Sys2Proof.Machine
end

section
/-! PROOFS. Banks: what their operations leave of a bank's own state, and what they make of a segment that waits for a record
(R98, R99, R101, R106). -/

namespace Sys2Proof.Machine

/-! ### A part of every bank's state -/

/-- Every bank keeps the part `π` of its state. -/
def SameOf {α : Type} (π : Bank → α) (s t : State) : Prop := ∀ k, π (getBank t k) = π (getBank s k)

section sameOf
variable {α : Type} {π : Bank → α} {s t u : State}

theorem SameOf.refl (π : Bank → α) (s : State) : SameOf π s s := fun _ => rfl

theorem SameOf.trans (h : SameOf π s t) (k : SameOf π t u) : SameOf π s u := fun b => (k b).trans (h b)

theorem SameOf.of_banks (h : t.banks = s.banks) : SameOf π s t := fun k => congrArg π (getBank_congr h k)

theorem SameOf.ite {p : Prop} [Decidable p] (h : SameOf π s t) (k : SameOf π s u) : SameOf π s (if p then t else u) := by
  split
  · exact h
  · exact k

theorem SameOf.modBank (s : State) (b : Nat) {f : Bank → Bank} (h : ∀ x, π (f x) = π x) : SameOf π s (modBank s b f) := by
  intro k
  by_cases hk : k = b
  · rw [hk, getBank_modBank, h]
  · rw [getBank_modBank_ne _ _ _ _ hk]

theorem setBank_banks (s : State) (b st code : Nat) : (setBank s b st code).banks = s.banks :=
  (setBank_keeps (.refl [.regs, .ctxs, .srcs] s) rfl).banks (by decide)

end sameOf

/-- A bank with too few tiles begins to leave service (R105). -/
def beginLeave (s : State) (b : Nat) : State :=
  if bankState s b = 2 then drainBank s b false
  else if (getBank s b).wantCal then s else modBank s b ({ · with wantOut := true })

/-- A bank that drains is out of service from now on (R105). -/
def leaveNow (s : State) (b : Nat) : State :=
  noBankFallback (unitRetired (syncBank (fsetb s (micaPage b) F.HDR_BLK_READY_IN_SERVICE false) b))

theorem checkTiles_eq (s : State) (b : Nat) : checkTiles s b =
    if tilesOn (syncBank s b) b < minTiles (syncBank s b) b && blkInService (syncBank s b) (micaPage b) then
      if blkInService (beginLeave (syncBank s b) b) (micaPage b) then leaveNow (beginLeave (syncBank s b) b) b
      else beginLeave (syncBank s b) b
    else syncBank s b := rfl

theorem leaveNow_banks (s : State) (b : Nat) : (leaveNow s b).banks = s.banks :=
  (noBankFallback_keeps (unitRetired_keeps (syncBank_keeps (fsetb_keeps (.refl [.regs, .ctxs, .srcs] s) rfl) rfl) rfl)
    rfl).banks (by decide)

section serving
variable {α : Type} {π : Bank → α} (h : ∀ x c o, π { x with wantCal := c, wantOut := o } = π x)
include h

theorem bankDrained_sameOf (s : State) (b : Nat) : SameOf π s (bankDrained s b) := by
  unfold bankDrained
  dsimp only
  split
  · exact .refl π s
  · split
    · refine (SameOf.modBank s b fun x => h x false false).trans (.of_banks ?_)
      rw [setBank_banks]
      exact (requestWake_keeps (fset_keeps (.refl [.regs, .doms] _) rfl) rfl).banks (by decide)
    · split
      · exact (SameOf.modBank s b fun x => h x x.wantCal false).trans (.of_banks (setBank_banks _ _ _ _))
      · exact .refl π s

theorem drainBank_sameOf (s : State) (b : Nat) (cal : Bool) : SameOf π s (drainBank s b cal) := by
  have hmod : SameOf π s (modBank s b fun x => { x with wantCal := x.wantCal || cal, wantOut := x.wantOut || !cal }) :=
    .modBank s b fun x => h x _ _
  exact (hmod.trans (.ite (.of_banks (setBank_banks _ _ _ _)) (.refl π _))).trans (bankDrained_sameOf h _ b)

theorem beginLeave_sameOf (s : State) (b : Nat) : SameOf π s (beginLeave s b) :=
  .ite (drainBank_sameOf h s b false) (.ite (.refl π s) (.modBank s b fun x => h x x.wantCal true))

theorem checkTiles_sameOf (s : State) (b : Nat) : SameOf π s (checkTiles s b) := by
  have hsync : SameOf π s (syncBank s b) := .of_banks rfl
  have hleave : ∀ t : State, SameOf π t (leaveNow t b) := fun t => .of_banks (leaveNow_banks t b)
  rw [checkTiles_eq]
  exact .ite ((hsync.trans (beginLeave_sameOf h _ b)).trans (.ite (hleave _) (.refl π _))) hsync

theorem requestCal_sameOf (hback : ∀ x, π { x with autoBack := true } = π x) (s : State) (b : Nat) :
    SameOf π s (requestCal s b) :=
  .ite (.refl π s) ((SameOf.modBank s b hback).trans (drainBank_sameOf h _ b true))

end serving

section tick
variable {α : Type} {π : Bank → α} (h : ∀ x l w, π { x with tiles := l, work := w } = π x)
include h

theorem giveUnit_sameOf {s t : State} {b : Nat} (e : giveUnit s b = some t) : SameOf π s t := by
  unfold giveUnit at e
  dsimp only at e
  split at e
  · split at e
    · cases e
    · cases e
      exact (SameOf.modBank s b fun x => h x _ _).trans (.of_banks rfl)
  · cases e

theorem giveUnits_sameOf (b n : Nat) (s : State) : SameOf π s (giveUnits b n s) := by
  induction n generalizing s with
  | zero => exact .refl π s
  | succ n ih =>
    unfold giveUnits
    split
    · next t e => exact (giveUnit_sameOf h e).trans (ih t)
    · exact .refl π s

theorem bankTick_sameOf (s : State) (b : Nat) : SameOf π s (bankTick s b) := .ite (giveUnits_sameOf h b _ s) (.refl π s)

theorem tickBanks_sameOf (s : State) : SameOf π s (tickBanks s) :=
  List.foldlRecOn (motive := fun t => SameOf π s t) _ _ (.refl π s) fun t ht b _ => ht.trans (bankTick_sameOf h t b)

end tick

/-! ### The jobs of a bank -/

theorem setJobs_jobs (s : State) (b : Nat) (jobs : List SegId) : (getBank (setJobs s b jobs) b).jobs = jobs := by
  have hset : (setJobs s b jobs).banks = (modBank s b fun x => { x with
      jobs := jobs, work := x.work.filter fun w => jobs.contains w.seg }).banks := rfl
  rw [getBank_congr hset, getBank_modBank]

theorem takeJobs_jobs (s : State) (b : Nat) (keep : List SegId) : (getBank (takeJobs s b keep) b).jobs = keep :=
  (bankDrained_sameOf (π := Bank.jobs) (fun _ _ _ => rfl) _ b b).trans (setJobs_jobs s b keep)

/-! ### A segment that waits for a record -/

/-- A segment that waits for a record falls back to digital search; another stays as it is (R99, R101). -/
def fallen (g : Seg) : Seg := if g.phase = .waitRecord then { g with digital := true, phase := .eligible } else g

/-- Segment `x`, where it is found in `s`, is found in `t` as it was, or has fallen back. -/
def MayFall (x : SegId) (s t : State) : Prop :=
  ∀ p g, findSeg s x = some (p, g) → ∃ q h, findSeg t x = some (q, h) ∧ (h = g ∨ h = fallen g)

theorem fallen_fallen (g : Seg) : fallen (fallen g) = fallen g := by
  unfold fallen
  split <;> simp_all

section mayFall
variable {x : SegId} {s t u : State}

theorem MayFall.of_ctxs (h : t.ctxs = s.ctxs) : MayFall x s t := fun p g hg =>
  ⟨p, g, (findSeg_congr (congrArg Ctx.pics (getCtx_congr h x.ctx))).trans hg, .inl rfl⟩

theorem MayFall.refl (x : SegId) (s : State) : MayFall x s s := .of_ctxs rfl

theorem MayFall.trans (h : MayFall x s t) (k : MayFall x t u) : MayFall x s u := fun p g hg => by
  obtain ⟨q, g1, hq, hg1⟩ := h p g hg
  obtain ⟨r, g2, hr, hg2⟩ := k q g1 hq
  refine ⟨r, g2, hr, ?_⟩
  rcases hg1 with rfl | rfl
  · exact hg2
  · rw [fallen_fallen] at hg2
    exact .inr (hg2.elim id id)

theorem MayFall.ite {p : Prop} [Decidable p] (h : MayFall x s t) (k : MayFall x s u) : MayFall x s (if p then t else u) := by
  split
  · exact h
  · exact k

theorem MayFall.foldl {α : Type} {f : State → α → State} {l : List α} (h : ∀ v a, MayFall x v (f v a)) :
    MayFall x s (l.foldl f s) :=
  List.foldlRecOn (motive := fun t => MayFall x s t) l f (.refl x s) fun t ht a _ => ht.trans (h t a)

/-- A segment that does not wait for a record stays as it is. -/
theorem MayFall.same (h : MayFall x s t) {p : Pic} {g : Seg} (hg : findSeg s x = some (p, g)) (hp : g.phase ≠ .waitRecord) :
    ∃ q, findSeg t x = some (q, g) := by
  obtain ⟨q, g1, hq, hg1⟩ := h p g hg
  have hsame : fallen g = g := if_neg hp
  rw [hsame] at hg1
  exact ⟨q, by rw [hq, hg1.elim id id]⟩

/-- The pictures of a context with every waiting segment fallen back. -/
def fallenPics (y : Ctx) : Ctx := { y with pics := y.pics.map fun p => { p with segs := p.segs.map fallen } }

theorem findSeg_fallenPics {p : Pic} {g : Seg} (h : findSeg s x = some (p, g)) :
    findSeg (modCtx s x.ctx fallenPics) x = some ({ p with segs := p.segs.map fallen }, fallen g) := by
  obtain ⟨hp, hg⟩ := findSeg_eq_some.1 h
  have hsame : (fun q : Pic => q.num == x.pic && q.segs != []) ∘ (fun q : Pic => { q with segs := q.segs.map fallen }) =
      fun q => q.num == x.pic && q.segs != [] := by
    funext q
    rw [Bool.eq_iff_iff]
    simp
  refine findSeg_eq_some.2 ⟨?_, by simp [hg]⟩
  unfold findPic at hp ⊢
  rw [getCtx_modCtx, fallenPics, List.find?_map, hsame, hp]
  rfl

theorem modCtx_fallenPics_mayFall (x : SegId) (s : State) (c : Nat) : MayFall x s (modCtx s c fallenPics) := by
  intro p g hg
  by_cases hc : x.ctx.val = c
  · exact ⟨_, fallen g, hc ▸ findSeg_fallenPics hg, .inr rfl⟩
  · exact ⟨p, g, (findSeg_congr (congrArg Ctx.pics (getCtx_modCtx_ne s c x.ctx fallenPics hc))).trans hg, .inl rfl⟩

theorem noBankFallback_mayFall (x : SegId) (s : State) : MayFall x s (noBankFallback s) :=
  .ite (.refl x s) (.foldl fun t c => modCtx_fallenPics_mayFall x t c)

theorem setBank_mayFall (x : SegId) (s : State) (b st code : Nat) : MayFall x s (setBank s b st code) := by
  have hirq : ∀ (p : Prop) [Decidable p] (t : State), MayFall x t (if p then setIrq t (micaPage b) 8 else t) := fun p _ t =>
    .ite (.of_ctxs (setIrq_ctxs _ _ _)) (.refl x t)
  have hservice : ∀ (p q : Prop) [Decidable p] [Decidable q] (t : State),
      MayFall x t (if p then noBankFallback (unitRetired t) else if q then unitAdmitted t else t) := fun p q _ _ t =>
    .ite ((MayFall.of_ctxs (setIrq_ctxs _ _ _)).trans (noBankFallback_mayFall x _))
      (.ite (.of_ctxs (setIrq_ctxs _ _ _)) (.refl x t))
  have hsync : MayFall x s (syncBank (fset (fset (fsetb s (micaPage b) F.HDR_BLK_READY_IN_SERVICE (st == 2 || st == 3)) (micaPage b)
      F.HDR_BLK_READY_STATE code) (micaPage b) F.MICA_STATUS_STATE st) b) := .of_ctxs rfl
  exact (hsync.trans (hirq _ _)).trans (hservice _ _ _)

theorem bankDrained_mayFall (x : SegId) (s : State) (b : Nat) : MayFall x s (bankDrained s b) := by
  unfold bankDrained
  dsimp only
  split
  · exact .refl x s
  · split
    · refine MayFall.trans (.of_ctxs ?_) (setBank_mayFall x _ b 1 1)
      exact (requestWake_keeps (fset_keeps (modBank_keeps (.refl [.regs, .banks, .doms] s) rfl) rfl) rfl).ctxs (by decide)
    · split
      · exact MayFall.trans (t := modBank s b ({ · with wantOut := false })) (.of_ctxs rfl) (setBank_mayFall x _ b 0 5)
      · exact .refl x s

theorem takeJobs_mayFall (x : SegId) (s : State) (b : Nat) (keep : List SegId) : MayFall x s (takeJobs s b keep) :=
  (MayFall.of_ctxs rfl).trans (bankDrained_mayFall x (setJobs s b keep) b)

end mayFall

end Sys2Proof.Machine
end

section
/-! PROOFS. Search jobs: their issue, their end and digital fallback, and the settling of O16 (R93–R96, R98, R99, R101,
R179). -/

namespace Sys2Proof.Machine

/-! ### Digital fallback -/

/-- A segment placed in digital fallback. -/
def digitalSeg (g : Seg) : Seg := { g with digital := true, phase := .eligible }

theorem digitalSeg_fallen (g : Seg) : digitalSeg (fallen g) = digitalSeg g := by
  unfold fallen
  split <;> rfl

/-- A bank that holds the job of a segment gives it up. -/
def cancelJob (x : SegId) (s : State) (b : Nat) : State :=
  if (getBank s b).jobs.contains x then takeJobs (abortJobs s b 436 1) b ((getBank s b).jobs.erase x) else s

theorem cancelJob_mayFall (x : SegId) (s : State) (b : Nat) : MayFall x s (cancelJob x s b) :=
  .ite (MayFall.trans (t := abortJobs s b 436 1) (.of_ctxs rfl) (takeJobs_mayFall x _ b _)) (.refl x s)

theorem chooseDigital_eq (s : State) (x : SegId) :
    chooseDigital s x = modSeg ((List.range 4).foldl (cancelJob x) s) x digitalSeg := rfl

/-- Taking the segment's job from the banks can do no more to the segment than the fallback does. -/
theorem chooseDigital_becomes {s : State} {x : SegId} {p : Pic} {g : Seg} (h : findSeg s x = some (p, g)) :
    Becomes s (chooseDigital s x) x (digitalSeg g) := by
  have hmem := (chooseDigital_keeps (x := x) (.refl [.regs, .ctxs, .banks, .srcs, .doms, .perf] s) rfl).mem (by decide)
  obtain ⟨q, g1, hq, hg1⟩ := MayFall.foldl (l := List.range 4) (cancelJob_mayFall x) p g h
  have hsame : digitalSeg g1 = digitalSeg g := by
    rcases hg1 with rfl | rfl
    · rfl
    · exact digitalSeg_fallen g
  refine ⟨?_, hmem⟩
  rw [chooseDigital_eq, ← hsame]
  exact ⟨_, findSeg_modSeg hq digitalSeg⟩

/-- A fallback at moment 2 or 3 counts in the window. -/
theorem fallBack_becomes {s : State} {x : SegId} {p : Pic} {g : Seg} (h : findSeg s x = some (p, g)) :
    Becomes s (fallBack s x) x (digitalSeg g) ∧
      (fallBack s x).disp.jobsFell = s.disp.jobsFell + 1 ∧ (fallBack s x).disp.jobsEnded = s.disp.jobsEnded + 1 := by
  have hctxs : (countJob s true).ctxs = s.ctxs := rfl
  have hfound := (findSeg_congr (x := x) (congrArg Ctx.pics (getCtx_congr hctxs _))).trans h
  have hdisp := (chooseDigital_keeps (x := x) (.refl [.regs, .ctxs, .banks, .srcs, .doms, .perf] (countJob s true)) rfl).disp
    (by decide)
  obtain ⟨hseg, hmem⟩ := chooseDigital_becomes hfound
  refine ⟨⟨hseg, hmem⟩, ?_, ?_⟩
  · rw [fallBack, hdisp]
    rfl
  · rw [fallBack, hdisp]
    rfl

/-! ### SEARCH_JOB_ISSUE -/

theorem tickBanks_keep (s : State) : Keeps [.regs, .banks, .perf] s (tickBanks s) := tickBanks_keeps (.refl _ s) rfl

theorem findSeg_tickBanks (s : State) (x : SegId) : findSeg (tickBanks s) x = findSeg s x :=
  findSeg_congr (congrArg Ctx.pics (getCtx_congr ((tickBanks_keep s).ctxs (by decide)) _))

/-- A bank holds a job more, with its work. -/
def jobHeld (s : State) (x : SegId) (p : Pic) (g : Seg) (b : Nat) : State :=
  modBank (setJobs s b ((getBank s b).jobs ++ [x])) b fun y => { y with
    work := y.work ++ [bankJob (setJobs s b ((getBank s b).jobs ++ [x])) x p g] }

/-- A segment whose job bank `b` takes at DEVTIME `now`. -/
def issuedTo (b now : Nat) (g : Seg) : Seg :=
  { g with phase := .searching, bank := b, issued := some (g.issued.getD now) }

/-- The state in which a bank has taken a job, before its domain is asked for and its tiles begin. -/
def jobTaken (s : State) (x : SegId) (p : Pic) (g : Seg) (b : Nat) : State :=
  modSeg (jobHeld s x p g b) x (issuedTo b s.devtime)

theorem issueJob_eq (s : State) (x : SegId) (p : Pic) (g : Seg) (b : Nat) :
    issueJob s x p g b = bankTick (touchDomain (jobTaken s x p g b) (domainOf (micaPage b))) b := rfl

theorem issueJob_keep (s : State) (x : SegId) (p : Pic) (g : Seg) (b : Nat) :
    Keeps [.regs, .banks, .srcs, .doms, .perf] (jobTaken s x p g b) (issueJob s x p g b) := by
  rw [issueJob_eq]
  exact bankTick_keeps (touchDomain_keeps (.refl _ _) rfl) rfl

theorem issueJob_jobs (s : State) (x : SegId) (p : Pic) (g : Seg) (b : Nat) :
    (getBank (issueJob s x p g b) b).jobs = (getBank s b).jobs ++ [x] := by
  have htouch := (touchDomain_keeps (d := domainOf (micaPage b)) (.refl [.regs, .srcs, .doms] (jobTaken s x p g b)) rfl).banks
    (by decide)
  have htaken : (jobTaken s x p g b).banks = (jobHeld s x p g b).banks := rfl
  rw [issueJob_eq, bankTick_sameOf (π := Bank.jobs) (fun _ _ _ => rfl), getBank_congr htouch, getBank_congr htaken, jobHeld,
    getBank_modBank, setJobs_jobs]

theorem findSeg_issueJob {s : State} {x : SegId} {p : Pic} {g : Seg} (h : findSeg s x = some (p, g)) (b : Nat) :
    ∃ q, findSeg (issueJob s x p g b) x = some (q, issuedTo b s.devtime g) := by
  have hctxs := (issueJob_keep s x p g b).ctxs (by decide)
  have hheld : (jobHeld s x p g b).ctxs = s.ctxs := rfl
  have hfound := (findSeg_congr (x := x) (congrArg Ctx.pics (getCtx_congr hheld _))).trans h
  rw [findSeg_congr (congrArg Ctx.pics (getCtx_congr hctxs _))]
  exact ⟨_, findSeg_modSeg hfound _⟩

section issue
variable {s : State} {x : SegId} {p : Pic} {g : Seg} {dS : Nat} (hw : jobWaits s x = some dS)
include hw

theorem searchJobIssue_noBank (hb : anyBank s = false) : exec (.searchJobIssue x) s = .next (chooseDigital s x) := by
  change execSearchJobIssue x s = _
  simp [execSearchJobIssue, hw, hb]

theorem searchJobIssue_later (hb : anyBank s = true) (hf : jobFirst s x.ctx dS = false) :
    exec (.searchJobIssue x) s = .next s := by
  change execSearchJobIssue x s = _
  simp [execSearchJobIssue, hw, hb, hf]

theorem searchJobIssue_first (hb : anyBank s = true) (hf : jobFirst s x.ctx dS = true) {b : Nat}
    (hpick : pickBank (tickBanks s) = some b) (h : findSeg s x = some (p, g)) :
    exec (.searchJobIssue x) s = .next (issueJob (tickBanks s) x p g b) := by
  change execSearchJobIssue x s = _
  simp [execSearchJobIssue, hw, hb, hf, hpick, findSeg_tickBanks, h]

theorem searchJobIssue_taken (hb : anyBank s = true) (hf : jobFirst s x.ctx dS = true) {b : Nat}
    (hpick : pickBank (tickBanks s) = some b) (h : findSeg s x = some (p, g)) :
    Does (.searchJobIssue x) s fun t => (getBank t b).jobs = (getBank s b).jobs ++ [x] ∧
      Becomes s t x { g with phase := .searching, bank := b, issued := some (g.issued.getD s.devtime) } := by
  have hexec := searchJobIssue_first hw hb hf hpick h
  refine ⟨_, hexec, ?_, ?_, (exec_keeps _ s _ hexec).mem (by simp [mayWrite])⟩
  · rw [issueJob_jobs, tickBanks_sameOf (π := Bank.jobs) fun _ _ _ => rfl]
  · obtain ⟨q, hq⟩ := findSeg_issueJob ((findSeg_tickBanks s x).trans h) b
    rw [(tickBanks_keep s).devtime (by decide)] at hq
    exact ⟨q, hq⟩

end issue

/-! ### SEARCH_JOB_COMPLETE -/

/-- A segment whose job a bank has completed. -/
def recordedBy (b : Nat) (g : Seg) : Seg :=
  if g.phase = .searching then { g with phase := .eligible, record := true, recDigital := false, bank := b } else g

/-- The state in which the record stands and the segment is eligible, while the bank still holds the job. -/
def recordKept (s : State) (x : SegId) (p : Pic) (g : Seg) (b : Nat) (codes : List Nat) : State :=
  countEv (fadd (modSeg (countJob (putBankRecord s x p g b codes) false) x (recordedBy b)) (micaPage b) F.MICA_CNT_JOB_COUNT 1)
    (434 + 8 * b) 1

section complete
variable {s : State} {x : SegId} {p : Pic} {g : Seg} (h : findSeg s x = some (p, g)) (hp : g.phase = .searching) (b : Nat)
  (codes : List Nat)

theorem putBankRecord_keep (s : State) (x : SegId) (p : Pic) (g : Seg) (b : Nat) (codes : List Nat) :
    Keeps [.mem] s (putBankRecord s x p g b codes) := putBankRecord_keeps (.refl _ s) rfl

include h

theorem findSeg_recordKept : ∃ q, findSeg (recordKept s x p g b codes) x = some (q, recordedBy b g) := by
  have hctxs := (putBankRecord_keep s x p g b codes).ctxs (by decide)
  have hput : findSeg (countJob (putBankRecord s x p g b codes) false) x = some (p, g) :=
    (findSeg_congr (congrArg Ctx.pics (getCtx_congr hctxs _))).trans h
  exact ⟨_, findSeg_modSeg hput (recordedBy b)⟩

include hp

theorem jobDone_eq : jobDone s b x codes =
    takeJobs (recordKept s x p g b codes) b ((getBank (recordKept s x p g b codes) b).jobs.erase x) := by
  unfold jobDone
  dsimp only
  rw [h]
  dsimp only
  rw [if_pos hp]
  rfl

theorem jobDone_completes : (getBank (jobDone s b x codes) b).jobs = (getBank s b).jobs.erase x ∧
    (jobDone s b x codes).mem = (putBankRecord s x p g b codes).mem ∧
    ∃ q, findSeg (jobDone s b x codes) x =
      some (q, { g with phase := .eligible, record := true, recDigital := false, bank := b }) := by
  have hrecorded : recordedBy b g = { g with phase := .eligible, record := true, recDigital := false, bank := b } := if_pos hp
  have hjobs : (getBank (recordKept s x p g b codes) b).jobs = (getBank s b).jobs :=
    congrArg Bank.jobs (getBank_congr ((putBankRecord_keep s x p g b codes).banks (by decide)) b)
  rw [jobDone_eq h hp]
  refine ⟨?_, ?_, ?_⟩
  · rw [takeJobs_jobs, hjobs]
  · exact (takeJobs_keeps (.refl [.regs, .ctxs, .banks, .srcs, .doms] (recordKept s x p g b codes)) rfl).mem (by decide)
  · obtain ⟨q, hq⟩ := findSeg_recordKept h b codes
    rw [hrecorded] at hq
    exact (takeJobs_mayFall x _ b _).same hq (by simp)

end complete

theorem searchJobComplete_eq {s : State} {b : Fin 4} {x : SegId} (hx : x ∈ (getBank s b).jobs)
    (hd : domOn s (domainOf (micaPage b)) = true) (codes : List Nat) : exec (.searchJobComplete b x codes) s =
      .next (if jobEnded (bankTick s b) b x then jobDone (bankTick s b) b x codes else bankTick s b) := by
  change execSearchJobComplete b x codes s = _
  simp [execSearchJobComplete, hx, hd]

theorem findSeg_bankTick (s : State) (b : Nat) (x : SegId) : findSeg (bankTick s b) x = findSeg s x :=
  findSeg_congr (congrArg Ctx.pics (getCtx_congr ((bankTick_keeps (.refl [.regs, .banks, .perf] s) rfl).ctxs (by decide)) _))

/-! ### The statement -/

theorem searchWaitExpiry_over {s : State} {x : SegId} {p : Pic} {g : Seg} (h : findSeg s x = some (p, g))
    (ho : searchOpen g = true) (hw : waitOver s x p g = true) : exec (.searchWaitExpiry x) s = .next (fallBack s x) := by
  change execSearchWaitExpiry x s = _
  simp [execSearchWaitExpiry, h, ho, hw]

theorem searchDeadlineFallback_over {s : State} {x : SegId} {p : Pic} {g : Seg} (h : findSeg s x = some (p, g))
    (ho : searchOpen g = true) (hd : deadlineOver s x p g = true) :
    exec (.searchDeadlineFallback x) s = .next (fallBack s x) := by
  change execSearchDeadlineFallback x s = _
  simp [execSearchDeadlineFallback, h, ho, hd]

/-- Settles O16: a bank takes the job or the segment falls back, and a completed job leaves its record. -/
theorem searchJobs : Obligations.SearchJobs := by
  unfold Obligations.SearchJobs
  intro x p g s hseg
  refine ⟨fun dS b hw hb hf hpick => searchJobIssue_taken hw hb hf hpick hseg,
    fun dS hw hb hf => ⟨s, searchJobIssue_later hw hb hf, rfl⟩,
    fun dS hw hb => ⟨_, searchJobIssue_noBank hw hb, chooseDigital_becomes hseg⟩,
    fun b codes hp hx hd => ⟨fun he => ?_, fun he => ?_⟩,
    fun ho hw => ⟨_, searchWaitExpiry_over hseg ho hw, fallBack_becomes hseg⟩,
    fun ho hd => ⟨_, searchDeadlineFallback_over hseg ho hd, fallBack_becomes hseg⟩⟩
  · exact ⟨_, searchJobComplete_eq hx hd codes, by rw [he, if_neg Bool.false_ne_true]⟩
  · obtain ⟨hjobs, hmem, hfound⟩ := jobDone_completes ((findSeg_bankTick s b x).trans hseg) hp b codes
    refine ⟨_, searchJobComplete_eq hx hd codes, ?_⟩
    rw [he, if_pos rfl]
    exact ⟨by rw [hjobs, bankTick_sameOf (π := Bank.jobs) fun _ _ _ => rfl], hmem, hfound⟩

end Sys2Proof.Machine
end

section
/-! PROOFS. The service of a bank in its registers: what a bank that drains, calibrates, leaves or returns writes, and what it
leaves alone (R101, R105, R106, R374). -/

namespace Sys2Proof.Machine

/-! ### The registers of a bank's service -/

/-- The registers that the service of bank `b` and its faults write: IRQ_STATUS of the chip, Bedrock's count of secondary
faults and its log, and on the bank's page the header but EXPERT_KEY and the reactions, STATUS, RATE and SVC_CTL. -/
def attends (b q o : Nat) : Prop :=
  q = 0 ∧ o = 0x2C ∨ q = 1 ∨ q = 8 ∨
    q = micaPage b ∧ (o ≤ 0x40 ∧ o ≠ 0xC ∧ o ≠ 0x1C ∧ o ≠ 0x20 ∨ o = 0x4C ∨ o = 0x60)

theorem not_attends {b o : Nat} (h : o = 0xC ∨ o = 0x1C ∨ o = 0x20 ∨ o = 0x44 ∨ o = 0x48 ∨ 0x50 ≤ o ∧ o ≠ 0x60) :
    ¬attends b (micaPage b) o := by
  unfold attends micaPage
  omega

/-- Between `s` and `t` bank `b` has been served: no other register is written, and a drift check goes on. -/
structure Attended (b : Nat) (s t : State) : Prop where
  regs : SameRegs s t (attends b)
  busy : fget t (micaPage b) F.MICA_STATUS_DRIFT_BUSY = fget s (micaPage b) F.MICA_STATUS_DRIFT_BUSY

namespace Attended
variable {b : Nat} {s t u : State}

theorem refl (b : Nat) (s : State) : Attended b s s := ⟨.refl _ _, rfl⟩

theorem trans (h : Attended b s t) (k : Attended b t u) : Attended b s u := ⟨h.regs.trans k.regs, k.busy.trans h.busy⟩

theorem of_regs (h : t.regs = s.regs) : Attended b s t := ⟨sameRegs_of_regs h, fget_congr h _ _ _⟩

theorem of_sameRegs {hit : Nat → Nat → Prop} (h : SameRegs s t hit) (ha : ∀ q o, hit q o → attends b q o)
    (hn : ¬hit (micaPage b) 0x40) : Attended b s t :=
  ⟨h.mono ha, h.fget (by decide) hn⟩

theorem ite {p : Prop} [Decidable p] (h : Attended b s t) (k : Attended b s u) : Attended b s (if p then t else u) := by
  split
  · exact h
  · exact k

/-- A field of the bank's page that is not DRIFT_BUSY. -/
theorem then_fset (h : Attended b s t) {r : Row} (hr : r.at 0 = 4 ∨ r.at 0 = 0x40 ∨ r.at 0 = 0x4C ∨ r.at 0 = 0x60)
    (hb : apart r F.MICA_STATUS_DRIFT_BUSY = true) (v : Nat) : Attended b s (fset t (micaPage b) r v) :=
  ⟨h.regs.then_fset (by omega) (.inr (.inr (.inr ⟨rfl, by omega⟩))) v, (fget_fset_apart _ _ _ _ _ _ hb).trans h.busy⟩

theorem then_setIrq (h : Attended b s t) {p : Nat} (hp : p = 0 ∨ p = micaPage b) (m : Nat) : Attended b s (setIrq t p m) :=
  h.trans (.of_sameRegs (sameRegs_setIrq t p m) (fun q o e => by unfold attends; omega) fun e => absurd e.2 (by decide))

end Attended

theorem syncBank_attended (s : State) (b : Nat) : Attended b s (syncBank s b) :=
  (((Attended.refl b s).then_fset (by decide) (by decide) _).then_fset (by decide) (by decide) _).then_fset (by decide)
    (by decide) _

theorem noBankFallback_regs (s : State) : (noBankFallback s).regs = s.regs :=
  (noBankFallback_keeps (.refl [.ctxs] s) rfl).regs (by decide)

theorem requestWake_regs (s : State) (d : Nat) : (requestWake s d).regs = s.regs :=
  (requestWake_keeps (.refl [.doms] s) rfl).regs (by decide)

/-! ### A bank enters a state -/

/-- BLK_READY and STATUS of a bank in state `st`. -/
def bankEntered (s : State) (b st code : Nat) : State :=
  fset (fset (fsetb s (micaPage b) F.HDR_BLK_READY_IN_SERVICE (st == 2 || st == 3)) (micaPage b) F.HDR_BLK_READY_STATE code)
    (micaPage b) F.MICA_STATUS_STATE st

/-- Who is told of a bank's new state. -/
def bankTold (s t : State) (b st : Nat) : State :=
  let u := if bankState s b != st then setIrq t (micaPage b) 8 else t
  if blkInService s (micaPage b) && !(st == 2 || st == 3) then noBankFallback (unitRetired u)
  else if !blkInService s (micaPage b) && (st == 2 || st == 3) then unitAdmitted u else u

theorem setBank_eq (s : State) (b st code : Nat) :
    setBank s b st code = bankTold s (syncBank (bankEntered s b st code) b) b st := rfl

theorem bankTold_sameRegs (s t : State) (b st : Nat) :
    SameRegs t (bankTold s t b st) fun q o => (q = 0 ∨ q = micaPage b) ∧ o = 0x2C := by
  have hirq : SameRegs t (if bankState s b != st then setIrq t (micaPage b) 8 else t) fun q o =>
      (q = 0 ∨ q = micaPage b) ∧ o = 0x2C := by
    split
    · exact (SameRegs.refl t _).then_setIrq ⟨.inr rfl, rfl⟩ 8
    · exact .refl _ _
  unfold bankTold
  dsimp only
  split
  · exact (hirq.then_setIrq ⟨.inl rfl, rfl⟩ (2 ^ 8)).then_regs (noBankFallback_regs _)
  · split
    · exact hirq.then_setIrq ⟨.inl rfl, rfl⟩ (2 ^ 9)
    · exact hirq

theorem setBank_attended (s : State) (b st code : Nat) : Attended b s (setBank s b st code) :=
  ((((Attended.refl b s).then_fset (by decide) (by decide) _).then_fset (by decide) (by decide) _).then_fset (by decide)
    (by decide) _).trans ((syncBank_attended _ b).trans (.of_sameRegs (bankTold_sameRegs s _ b st)
      (fun q o e => by unfold attends; omega) fun e => absurd e.2 (by decide)))

/-- TILES, FACTOR and DEGRADED follow; a field beside them stays. -/
theorem fget_syncBank (s : State) (b : Nat) (r : Row) (ht : apart F.MICA_STATUS_TILES r = true)
    (hf : apart F.MICA_RATE_FACTOR r = true) (hd : apart F.HDR_BLK_READY_DEGRADED r = true) :
    fget (syncBank s b) (micaPage b) r = fget s (micaPage b) r := by
  rw [syncBank, fsetb, fget_fset_apart _ _ _ _ _ _ hd, fget_fset_apart _ _ _ _ _ _ hf, fget_fset_apart _ _ _ _ _ _ ht]

theorem bankState_syncBank (s : State) (b : Nat) : bankState (syncBank s b) b = bankState s b :=
  fget_syncBank s b _ (by decide) (by decide) (by decide)

theorem bankState_setBank (s : State) (b : Nat) {st : Nat} (hst : st < 4) (code : Nat) :
    bankState (setBank s b st code) b = st := by
  rw [bankState, setBank_eq, (bankTold_sameRegs _ _ _ _).fget (by decide) (fun e => absurd e.2 (by decide)),
    fget_syncBank _ _ _ (by decide) (by decide) (by decide), bankEntered, fget_fset_self _ _ _ _ _ (by decide)]
  exact Nat.mod_eq_of_lt hst

theorem blkInService_setBank (s : State) (b st code : Nat) :
    blkInService (setBank s b st code) (micaPage b) = (st == 2 || st == 3) := by
  rw [blkInService, setBank_eq, (bankTold_sameRegs _ _ _ _).fbit (by decide) (fun e => absurd e.2 (by decide)), fbit,
    fget_syncBank _ _ _ (by decide) (by decide) (by decide), bankEntered, fget_fset_apart _ _ _ _ _ _ (by decide),
    fget_fset_apart _ _ _ _ _ _ (by decide)]
  exact fbit_fsetb_self _ _ _ _ _ (by decide) (by decide)

/-! ### A bank drains, and leaves with too few tiles -/

theorem bankDrained_busy {s : State} {b : Nat} (h : (getBank s b).jobs ≠ []) : bankDrained s b = s := by
  unfold bankDrained
  dsimp only
  rw [if_pos (by simpa using h)]

theorem bankDrained_calibrates {s : State} {b : Nat} (h : (getBank s b).jobs = []) (hc : (getBank s b).wantCal = true) :
    bankDrained s b = setBank (requestWake (fset (modBank s b ({ · with wantCal := false, wantOut := false })) (micaPage b)
      F.MICA_SVC_CTL_CAL_REQ 0) (domainOf (micaPage b))) b 1 1 := by
  unfold bankDrained
  dsimp only
  rw [if_neg (by simp [h]), if_pos hc]

theorem bankDrained_leaves {s : State} {b : Nat} (h : (getBank s b).jobs = []) (hc : (getBank s b).wantCal = false)
    (ho : (getBank s b).wantOut = true) : bankDrained s b = setBank (modBank s b ({ · with wantOut := false })) b 0 5 := by
  unfold bankDrained
  dsimp only
  rw [if_neg (by simp [h]), if_neg (by simp [hc]), if_pos ho]

theorem bankDrained_attended (s : State) (b : Nat) : Attended b s (bankDrained s b) := by
  unfold bankDrained
  dsimp only
  have hmod : ∀ f : Bank → Bank, Attended b s (modBank s b f) := fun f => .of_regs rfl
  split
  · exact .refl b s
  · split
    · exact (((hmod _).then_fset (r := F.MICA_SVC_CTL_CAL_REQ) (by decide) (by decide) 0).trans
        (.of_regs (requestWake_regs _ _))).trans (setBank_attended _ b 1 1)
    · split
      · exact (hmod _).trans (setBank_attended _ b 0 5)
      · exact .refl b s

/-- A bank before it drains: what it drains for is noted, and one that serves is DRAINING. -/
def drainNoted (s : State) (b : Nat) (cal : Bool) : State :=
  let t := modBank s b fun x => { x with wantCal := x.wantCal || cal, wantOut := x.wantOut || !cal }
  if bankState t b = 2 then setBank t b 3 4 else t

theorem drainBank_eq (s : State) (b : Nat) (cal : Bool) : drainBank s b cal = bankDrained (drainNoted s b cal) b := rfl

theorem getBank_drainNoted (s : State) (b : Nat) (cal : Bool) : getBank (drainNoted s b cal) b =
    { getBank s b with wantCal := (getBank s b).wantCal || cal, wantOut := (getBank s b).wantOut || !cal } := by
  unfold drainNoted
  dsimp only
  split
  · rw [getBank_congr (setBank_banks _ _ _ _), getBank_modBank]
  · rw [getBank_modBank]

theorem drainNoted_serving {s : State} {b : Nat} (h : bankState s b = 2) (cal : Bool) : drainNoted s b cal =
    setBank (modBank s b fun x => { x with wantCal := x.wantCal || cal, wantOut := x.wantOut || !cal }) b 3 4 := if_pos h

theorem drainBank_attended (s : State) (b : Nat) (cal : Bool) : Attended b s (drainBank s b cal) := by
  have hmod : Attended b s (modBank s b fun x => { x with wantCal := x.wantCal || cal, wantOut := x.wantOut || !cal }) :=
    .of_regs rfl
  exact (hmod.trans (.ite (setBank_attended _ b 3 4) (.refl b _))).trans (bankDrained_attended _ b)

theorem requestCal_attended (s : State) (b : Nat) : Attended b s (requestCal s b) := by
  have hmod : Attended b s (modBank s b ({ · with autoBack := true })) := .of_regs rfl
  exact .ite (.refl b s) (hmod.trans (drainBank_attended _ b true))

theorem checkTiles_attended (s : State) (b : Nat) : Attended b s (checkTiles s b) := by
  have hsync := syncBank_attended s b
  have hbegin : ∀ t : State, Attended b t (beginLeave t b) := fun t =>
    .ite (drainBank_attended t b false) (.ite (.refl b t) (.of_regs rfl))
  have hnow : ∀ t : State, Attended b t (leaveNow t b) := fun t =>
    ((((Attended.refl b t).then_fset (r := F.HDR_BLK_READY_IN_SERVICE) (by decide) (by decide) 0).trans
      (syncBank_attended _ b)).then_setIrq (.inl rfl) (2 ^ 8)).trans (.of_regs (noBankFallback_regs _))
  rw [checkTiles_eq]
  exact .ite ((hsync.trans (hbegin _)).trans (.ite (hnow _) (.refl b _))) hsync

/-! ### CAL_REQ, RETIRE and ADMIT -/

section requests
variable {s : State} {b : Nat}

theorem requestCal_ignored (h : bankState s b = 1) : requestCal s b = s := if_pos h

theorem requestCal_drains (h : bankState s b ≠ 1) :
    requestCal s b = drainBank (modBank s b ({ · with autoBack := true })) b true := if_neg h

theorem requestCal_idle (h : bankState s b ≠ 1) (hj : (getBank s b).jobs = []) :
    bankState (requestCal s b) b = 1 ∧ (getBank (requestCal s b) b).autoBack = true := by
  have hnoted := getBank_drainNoted (modBank s b ({ · with autoBack := true })) b true
  rw [getBank_modBank] at hnoted
  have hback : SameOf Bank.autoBack (modBank s b ({ · with autoBack := true })) (requestCal s b) := by
    rw [requestCal_drains h]
    exact drainBank_sameOf (fun _ _ _ => rfl) _ b true
  refine ⟨?_, by rw [hback, getBank_modBank]⟩
  rw [requestCal_drains h, drainBank_eq, bankDrained_calibrates (by rw [hnoted]; exact hj) (by rw [hnoted]; simp)]
  exact bankState_setBank _ b (by decide) 1

theorem requestCal_busy (h : bankState s b = 2) (hj : (getBank s b).jobs ≠ []) :
    bankState (requestCal s b) b = 3 ∧ (getBank (requestCal s b) b).wantCal = true := by
  have hnoted := getBank_drainNoted (modBank s b ({ · with autoBack := true })) b true
  have hstate : bankState (modBank s b ({ · with autoBack := true })) b = 2 := h
  rw [getBank_modBank] at hnoted
  rw [requestCal_drains (by omega), drainBank_eq, bankDrained_busy (by rw [hnoted]; exact hj)]
  refine ⟨?_, by rw [hnoted]; simp⟩
  rw [drainNoted_serving hstate]
  exact bankState_setBank _ b (by decide) 4

theorem retireBank_idle (h : bankState s b = 2) (hj : (getBank s b).jobs = []) (hc : (getBank s b).wantCal = false) :
    bankState (retireBank s b) b = 0 ∧ blkInService (retireBank s b) (micaPage b) = false := by
  have hnoted := getBank_drainNoted s b false
  rw [retireBank, if_pos h, drainBank_eq, bankDrained_leaves (by rw [hnoted]; exact hj) (by rw [hnoted]; simp [hc])
    (by rw [hnoted]; simp)]
  exact ⟨bankState_setBank _ b (by decide) 5, blkInService_setBank _ b 0 5⟩

theorem retireBank_busy (h : bankState s b = 2) (hj : (getBank s b).jobs ≠ []) :
    bankState (retireBank s b) b = 3 ∧ (getBank (retireBank s b) b).wantOut = true := by
  have hnoted := getBank_drainNoted s b false
  rw [retireBank, if_pos h, drainBank_eq, bankDrained_busy (by rw [hnoted]; exact hj)]
  refine ⟨?_, by rw [hnoted]; simp⟩
  rw [drainNoted_serving h]
  exact bankState_setBank _ b (by decide) 4

theorem retireBank_sameOf {α : Type} {π : Bank → α} (h : ∀ x c o, π { x with wantCal := c, wantOut := o } = π x) (s : State)
    (b : Nat) : SameOf π s (retireBank s b) := .ite (drainBank_sameOf h s b false) (.refl π s)

theorem admitBank_eq (h : bankState s b = 0) (hr : blkReady s (micaPage b) = true) (ht : minTiles s b ≤ tilesOn s b) :
    admitBank s b = setBank (requestWake s (domainOf (micaPage b))) b 2 2 := if_pos ⟨h, hr, ht⟩

theorem admitBank_banks (s : State) (b : Nat) : (admitBank s b).banks = s.banks :=
  (admitBank_keeps (.refl [.regs, .ctxs, .srcs, .doms] s) rfl).banks (by decide)

end requests

end Sys2Proof.Machine
end

section
/-! PROOFS. The tiles of a bank: its units, the records of residuals, and a fault of a tile or of a calibration (R93, R105,
R106, R109, R335, R336). -/

namespace Sys2Proof.Machine

/-! ### Units -/

theorem qset_sameRegs (s : State) (p : Nat) (r : Row) (v i : Nat) (h : r.at i + 4 < 4096) :
    SameRegs s (qset s p r v i) fun q o => q = p ∧ (o = r.at i ∨ o = r.at i + 4) :=
  ((SameRegs.refl s _).then_rset (by omega) ⟨rfl, .inl rfl⟩ _).then_rset h ⟨rfl, .inr rfl⟩ _

/-- The tiles' units show in CNT_PASS alone. -/
theorem giveUnit_sameRegs {s t : State} {b : Nat} (e : giveUnit s b = some t) :
    SameRegs s t fun q o => q = micaPage b ∧ (o = 0x58 ∨ o = 0x5C) := by
  unfold giveUnit at e
  dsimp only at e
  split at e
  · split at e
    · cases e
    · cases e
      exact ((((SameRegs.refl s _).then_regs (modBank_regs _ _ _)).trans
        (qset_sameRegs _ _ F.MICA_CNT_PASS_LO_LO _ 0 (by decide))).then_regs (countEv_regs _ _ _)).then_regs
        (countEv_regs _ _ _)
  · cases e

theorem giveUnits_sameRegs (b n : Nat) (s : State) :
    SameRegs s (giveUnits b n s) fun q o => q = micaPage b ∧ (o = 0x58 ∨ o = 0x5C) := by
  induction n generalizing s with
  | zero => exact .refl _ _
  | succ n ih =>
    unfold giveUnits
    split
    · next t e => exact (giveUnit_sameRegs e).trans (ih t)
    · exact .refl _ _

theorem bankTick_sameRegs (s : State) (b : Nat) :
    SameRegs s (bankTick s b) fun q o => q = micaPage b ∧ (o = 0x58 ∨ o = 0x5C) := by
  unfold bankTick
  split
  · exact giveUnits_sameRegs b _ s
  · exact .refl _ _

theorem bankTick_keep (s : State) (b : Nat) : Keeps [.regs, .banks, .perf] s (bankTick s b) := bankTick_keeps (.refl _ s) rfl

/-! ### A fault of a tile, or of a calibration -/

theorem mica_facts : ∀ b : Fin 4, blockPage (micaPage b) = micaPage b ∧ faultCount (micaPage b) = 6 ∧ typeOf (micaPage b) = 0x0E ∧
    sevOf (micaPage b) 3 = 0 ∧ sevOf (micaPage b) 5 = 3 ∧ isEngPage (micaPage b) = false ∧ domainOf (micaPage b) = 37 + b ∧
    hasHeader (micaPage b) = true := by decide

/-- A fault that is captured, counted, logged and told leaves the banks and the contexts as they are. -/
structure Told (b : Nat) (s t : State) : Prop where
  regs : SameRegs s t fun q o => q = 1 ∨ q = 8 ∨ q = micaPage b ∧ o < 0x40 ∧ o ≠ 4 ∧ o ≠ 0xC ∧ o ≠ 0x1C ∧ o ≠ 0x20
  banks : t.banks = s.banks

namespace Told
variable {b : Nat} {s t u : State}

theorem refl (b : Nat) (s : State) : Told b s s := ⟨.refl _ _, rfl⟩

theorem trans (h : Told b s t) (k : Told b t u) : Told b s u := ⟨h.regs.trans k.regs, k.banks.trans h.banks⟩

theorem ite {p : Prop} [Decidable p] (h : Told b s t) (k : Told b s u) : Told b s (if p then t else u) := by
  split
  · exact h
  · exact k

theorem attended (h : Told b s t) : Attended b s t :=
  .of_sameRegs h.regs (fun q o e => by unfold attends; omega) (by unfold micaPage; omega)

theorem sameState (h : Told b s t) : bankState t b = bankState s b :=
  h.regs.fget (by decide) (by unfold micaPage; change ¬(_ ∨ _ ∨ _ ∧ 0x40 < 0x40 ∧ _); omega)

end Told

theorem captureFirst_told (s : State) (b n detail : Nat) (sec forced : Bool) :
    Told b s (captureFirst s (micaPage b) n detail sec forced) :=
  .ite (.refl b s) ⟨(SameRegs.refl s _).then_rset (by decide) (.inr (.inr ⟨rfl, by decide⟩)) _, rfl⟩

theorem countFault_told (s : State) (b : Nat) : Told b s (countFault s (micaPage b)) :=
  .ite ⟨(SameRegs.refl s _).then_fset (by decide) (.inr (.inr ⟨rfl, by decide⟩)) _, rfl⟩
    ⟨(SameRegs.refl s _).then_fset (by decide) (.inr (.inr ⟨rfl, by decide⟩)) _, rfl⟩

/-- A reaction up to IRQ logs the fault and raises the page's cause 31 (R320). -/
theorem react_told (s : State) (b n : Nat) {code : Nat} (hc : code ≤ 2) (detail : Nat) (sec forced : Bool) :
    Told b s (react s (micaPage b) n code detail sec forced) := by
  have hlog : Told b s (if 1 ≤ code then logFault s (micaPage b) n code detail sec forced else s) :=
    .ite ⟨(logFault_sameRegs s (micaPage b) n code detail sec forced).mono fun q o e => .inr (.inl e),
      (logFault_keeps (.refl [.regs, .bdrk] s) rfl).banks (by decide)⟩ (.refl b s)
  have hirq : ∀ t : State, Told b t (setIrq t (micaPage b) (2 ^ 31)) := fun t =>
    ⟨(SameRegs.refl t _).then_setIrq (.inr (.inr ⟨rfl, by decide⟩)) _, setIrq_banks _ _ _⟩
  unfold react
  dsimp only
  rw [if_neg (by omega : ¬code = 5), if_neg (by omega : ¬3 ≤ code)]
  exact hlog.trans (.ite (hirq _) (.refl b _))

/-- A source that affects no job of the bank: a residual drift, or a calibration that failed (R109). -/
theorem sevEffect_mica (s : State) (b : Fin 4) {n : Nat} (hn : n = 3 ∨ n = 5) (detail : Nat) :
    sevEffect s (micaPage b) n detail = s := by
  obtain ⟨-, -, htype, h3, h5, -⟩ := mica_facts b
  unfold sevEffect
  rw [htype]
  rcases hn with rfl | rfl
  · simp [h3]
  · simp [h5]

theorem raiseFault_told (s : State) (b : Fin 4) {n : Nat} (hn : n = 3 ∨ n = 5) (hr : reactOf s (micaPage b) n ≤ 2)
    (detail : Nat) : Told b s (raiseFault s (micaPage b) n detail false) := by
  obtain ⟨hblock, hfaults, -⟩ := mica_facts b
  have hcode : (if secondary s (micaPage b) n then min 1 (reactOf s (micaPage b) n) else reactOf s (micaPage b) n) ≤ 2 := by
    split
    · omega
    · exact hr
  have hstatus : ∀ v, Told b s (fset s (micaPage b) F.HDR_FAULT_STATUS_STATUS v) := fun v =>
    ⟨(SameRegs.refl s _).then_fset (by decide) (.inr (.inr ⟨rfl, by decide⟩)) v, rfl⟩
  have hcount : ∀ t : State, Told b t (fadd t 1 F.BDRK1_CNT_SECONDARY_COUNT 1) := fun t =>
    ⟨(SameRegs.refl t _).then_fset (by decide) (.inl rfl) _, rfl⟩
  unfold raiseFault
  dsimp only
  rw [hblock, if_neg (by omega), if_neg Bool.false_ne_true, countEcc_other (by omega), sevEffect_mica s b hn]
  exact .ite (.refl _ s) (((((hstatus _).trans (captureFirst_told _ b n detail _ _)).trans (countFault_told _ b)).trans
    (.ite (hcount _) (.refl _ _))).trans (react_told _ b n hcode detail _ _))

/-! ### Residuals -/

/-- The field of RESID that holds the residual of tile `t`. -/
def residRow (t : Nat) : Row := { F.MICA_RESID_T0 with lo := 8 * (t % 4) }

theorem residRow_at (t : Nat) : (residRow t).at (t / 4) = 0x80 + 4 * (t / 4) := rfl

theorem recordTile_sameRegs (s : State) (b : Nat) {t : Nat} (ht : t < 32) (r : Nat) :
    SameRegs s (recordTile s b t r) fun q o => q = 8 ∨ q = micaPage b ∧ 0x80 ≤ o ∧ o < 0xA0 := by
  have hset : SameRegs s (setResid s b t r) fun q o => q = 8 ∨ q = micaPage b ∧ 0x80 ≤ o ∧ o < 0xA0 :=
    (SameRegs.refl s _).then_fset (r := residRow t) (by rw [residRow_at]; omega)
      (.inr ⟨rfl, by rw [residRow_at]; omega⟩) (min r 255)
  refine hset.trans fun q o ho hn => ?_
  exact (calRecord_sparesLog _ _ _ _).regs q o (fun e => hn (.inl e)) ho

theorem recordTile_keep (s : State) (b t r : Nat) : Keeps [.free, .regs, .bdrk] s (recordTile s b t r) :=
  recordTile_keeps (.refl _ s) rfl

theorem fget_resid_recordTile (s : State) (b : Nat) {t : Nat} (ht : t < 32) (r : Nat) :
    fget (recordTile s b t r) (micaPage b) (residRow t) (t / 4) = min r 255 := by
  have hcal : SameRegs (setResid s b t r) (recordTile s b t r) fun q _ => q = 8 := fun q o ho hn =>
    (calRecord_sparesLog _ _ _ _).regs q o hn ho
  rw [hcal.fget (by rw [residRow_at]; omega) (by unfold micaPage; omega)]
  refine (fget_fset_self s (micaPage b) (residRow t) (min r 255) (t / 4) ?_).trans (Nat.mod_eq_of_lt ?_)
  · change 8 * (t % 4) + 8 ≤ 32
    omega
  · change min r 255 < 2 ^ 8
    omega

/-! ### Enabled tiles -/

theorem testBit_complement {n : Nat} (hn : n < 2 ^ 32) {i : Nat} (hi : i < 32) : (2 ^ 32 - 1 - n).testBit i = !n.testBit i := by
  have h := Nat.testBit_two_pow_sub_succ hn i
  rw [show 2 ^ 32 - 1 - n = 2 ^ 32 - (n + 1) by omega, h]
  simp [hi]

/-- TILE_EN: neither failed nor masked (R105). -/
theorem tileEn_syncTiles (s : State) (b : Nat) : fget (syncTiles s b) (micaPage b) F.MICA_TILE_EN_EN =
    (2 ^ 32 - 1 - fget s (micaPage b) F.MICA_TILE_FAIL_FAIL) &&& (2 ^ 32 - 1 - fget s (micaPage b) F.MICA_TILE_MASK_MASK) := by
  refine (fget_fset_self _ _ _ _ _ (by decide)).trans (Nat.mod_eq_of_lt ?_)
  exact Nat.and_lt_two_pow _ (by change _ < 2 ^ 32; omega)

theorem testBit_tileEn_syncTiles (s : State) (b : Nat) {i : Nat} (hi : i < 32) :
    (fget (syncTiles s b) (micaPage b) F.MICA_TILE_EN_EN).testBit i =
      (!(fget s (micaPage b) F.MICA_TILE_FAIL_FAIL).testBit i && !(fget s (micaPage b) F.MICA_TILE_MASK_MASK).testBit i) := by
  rw [tileEn_syncTiles, Nat.testBit_and, testBit_complement (fget_lt _ _ _ _) hi, testBit_complement (fget_lt _ _ _ _) hi]

theorem syncTiles_sameRegs (s : State) (b : Nat) : SameRegs s (syncTiles s b) fun q o => q = micaPage b ∧ o = 0x44 :=
  (SameRegs.refl s _).then_fset (by decide) ⟨rfl, rfl⟩ _

/-- The mask of the tiles of a list without repeats, as a sum of powers. -/
theorem testBit_sum_powers (f : Nat → Bool) (n i : Nat) :
    ((List.range n).filter f).foldl (fun v t => v + 2 ^ t) 0 < 2 ^ n ∧
      (((List.range n).filter f).foldl (fun v t => v + 2 ^ t) 0).testBit i = (decide (i < n) && f i) := by
  induction n with
  | zero => simp
  | succ n ih =>
    obtain ⟨hlt, hbit⟩ := ih
    rw [List.range_succ, List.filter_append, List.foldl_append, Nat.pow_succ]
    cases hf : f n with
    | false =>
      rw [List.filter_singleton, hf]
      refine ⟨by simp only [Bool.cond_false, List.foldl_nil]; omega, ?_⟩
      simp only [Bool.cond_false, List.foldl_nil, hbit]
      rcases Nat.lt_trichotomy i n with h | rfl | h
      · simp [h, Nat.lt_succ_of_lt h]
      · simp [hf]
      · simp [Nat.not_lt.2 h.le, show ¬i < n + 1 by omega]
    | true =>
      rw [List.filter_singleton, hf]
      refine ⟨by simp only [Bool.cond_true, List.foldl_cons, List.foldl_nil]; omega, ?_⟩
      simp only [Bool.cond_true, List.foldl_cons, List.foldl_nil]
      rw [Nat.add_comm]
      rcases Nat.lt_trichotomy i n with h | rfl | h
      · rw [Nat.testBit_two_pow_add_gt h, hbit]
        simp [h, Nat.lt_succ_of_lt h]
      · rw [Nat.testBit_two_pow_add_eq, hbit]
        simp [hf]
      · rw [Nat.testBit_lt_two_pow (Nat.lt_of_lt_of_le (show _ < 2 ^ (n + 1) by rw [Nat.pow_succ]; omega)
          (Nat.pow_le_pow_right (by decide) h))]
        simp [show ¬i < n + 1 by omega]

end Sys2Proof.Machine
end

section
/-! PROOFS. Drift checks of a bank's tiles (R106, R336). -/

namespace Sys2Proof.Machine

/-! ### A check begins -/

/-- The moment of a bank's last drift check is noted. -/
def driftNoted (v : State) (b : Nat) : State := modBank v b ({ · with driftAt := v.devtime })

/-- The next tile in turn is reserved for a drift check. -/
def driftReserved (v : State) (b t : Nat) : State :=
  syncBank (fset (fsetb (driftNoted v b) (micaPage b) F.MICA_STATUS_DRIFT_BUSY true) (micaPage b) F.MICA_STATUS_DRIFT_TILE t) b

section reserved
variable (v : State) (b : Nat)

theorem driftReserved_busy (t : Nat) : fbit (driftReserved v b t) (micaPage b) F.MICA_STATUS_DRIFT_BUSY = true := by
  rw [driftReserved, fbit, fget_syncBank _ _ _ (by decide) (by decide) (by decide), fget_fset_apart _ _ _ _ _ _ (by decide)]
  exact fbit_fsetb_self _ _ _ _ _ (by decide) (by decide)

theorem driftReserved_tile {t : Nat} (ht : t < 32) :
    fget (driftReserved v b t) (micaPage b) F.MICA_STATUS_DRIFT_TILE = t := by
  rw [driftReserved, fget_syncBank _ _ _ (by decide) (by decide) (by decide), fget_fset_self _ _ _ _ _ (by decide)]
  exact Nat.mod_eq_of_lt ht

theorem driftReserved_takes {t : Nat} (ht : t < 32) : tileTakes (driftReserved v b t) b t = false := by
  unfold tileTakes
  simp [driftReserved_busy, driftReserved_tile v b ht]

theorem driftReserved_noted (t : Nat) :
    driftReserved v b t = { driftNoted v b with regs := (driftReserved v b t).regs } :=
  eq_regs_of_keeps fun w hw => syncBank_keeps (fset_keeps (fsetb_keeps (.refl w _) hw) hw) hw

theorem driftReserved_banks (t : Nat) : (driftReserved v b t).banks = (driftNoted v b).banks := by
  rw [driftReserved_noted]

theorem driftReserved_since (t : Nat) : (getBank (driftReserved v b t) b).driftAt = v.devtime := by
  rw [getBank_congr (driftReserved_banks v b t), driftNoted, getBank_modBank]

theorem driftReserved_frame (t : Nat) : driftReserved v b t =
    { v with regs := (driftReserved v b t).regs, banks := (driftReserved v b t).banks } := by
  rw [driftReserved_banks]
  exact driftReserved_noted v b t

end reserved

section begins
variable {s : State} {b : Fin 4}

/-- A disabled tile is passed over. -/
theorem driftBegin_disabled {v : State} {b : Nat}
    (he : (fget v (micaPage b) F.MICA_TILE_EN_EN).testBit (getBank v b).driftNext = false) :
    driftBegin v b = modBank v b ({ · with driftNext := ((getBank v b).driftNext + 1) % 32, driftAt := v.devtime }) :=
  if_pos (by rw [he]; rfl)

theorem driftBegin_enabled {v : State} {b : Nat}
    (he : (fget v (micaPage b) F.MICA_TILE_EN_EN).testBit (getBank v b).driftNext = true) : driftBegin v b =
      if tileEnd (getBank v b) (getBank v b).driftNext ≤ v.devtime then driftReserved v b (getBank v b).driftNext else v :=
  if_neg (by rw [he]; decide)

/-- A bit that is set in a field of 32 bits is one of its bits. -/
theorem lt_of_testBit_fget {v : State} {p : Nat} {r : Row} {i : Nat} (h : (fget v p r).testBit i = true) : i < r.width := by
  by_contra hge
  rw [Nat.testBit_lt_two_pow (Nat.lt_of_lt_of_le (fget_lt v p r 0) (Nat.pow_le_pow_right (by decide) (Nat.le_of_not_lt hge)))]
    at h
  exact Bool.false_ne_true h

theorem bankTick_devtime (s : State) (b : Nat) : (bankTick s b).devtime = s.devtime := (bankTick_keep s b).devtime (by decide)

/-! A check is due: the bank is READY, does not calibrate, and was last checked 10 s ago. -/

section due
variable (hr : blkReady (bankTick s b) (micaPage b) = true) (hc : bankState (bankTick s b) b ≠ 1)
  (hf : s.chip.fwRuns = true) (hb : fbit (bankTick s b) (micaPage b) F.MICA_STATUS_DRIFT_BUSY = false)
  (hd : (getBank (bankTick s b) b).driftAt + 10 ^ 10 ≤ s.devtime)
include hr hc hf hb hd

theorem driftCheck_begins : exec (.driftCheck b none) s = .next (driftBegin (bankTick s b) b) := by
  have hchip : (bankTick s b).chip = s.chip := (bankTick_keep s b).chip (by decide)
  change execDriftCheck b none s = _
  unfold execDriftCheck
  dsimp only
  rw [bankTick_devtime, hchip, hb, hr, hf, decide_eq_true hd, bne_iff_ne.2 hc]
  rfl

theorem driftCheck_takes
    (hen : (fget (bankTick s b) (micaPage b) F.MICA_TILE_EN_EN).testBit (getBank (bankTick s b) b).driftNext = true)
    (hidle : tileEnd (getBank (bankTick s b) b) (getBank (bankTick s b) b).driftNext ≤ s.devtime) :
    exec (.driftCheck b none) s = .next (driftReserved (bankTick s b) b (getBank (bankTick s b) b).driftNext) := by
  rw [driftCheck_begins hr hc hf hb hd, driftBegin_enabled hen, bankTick_devtime, if_pos hidle]

theorem driftCheck_waits
    (hen : (fget (bankTick s b) (micaPage b) F.MICA_TILE_EN_EN).testBit (getBank (bankTick s b) b).driftNext = true)
    (hbusy : s.devtime < tileEnd (getBank (bankTick s b) b) (getBank (bankTick s b) b).driftNext) :
    exec (.driftCheck b none) s = .next (bankTick s b) := by
  rw [driftCheck_begins hr hc hf hb hd, driftBegin_enabled hen, bankTick_devtime, if_neg (by omega)]

theorem driftCheck_passes
    (hen : (fget (bankTick s b) (micaPage b) F.MICA_TILE_EN_EN).testBit (getBank (bankTick s b) b).driftNext = false) :
    exec (.driftCheck b none) s = .next (modBank (bankTick s b) b fun x => { x with
      driftNext := ((getBank (bankTick s b) b).driftNext + 1) % 32, driftAt := (bankTick s b).devtime }) := by
  rw [driftCheck_begins hr hc hf hb hd, driftBegin_disabled hen]

end due

end begins

/-! ### A check ends -/

/-- A bank whose check of tile `i` has ended: nothing is reserved, and the turn has moved on. -/
def driftOver (v : State) (b i : Nat) : State := driftEnd (modBank v b ({ · with driftNext := (i + 1) % 32 })) b

/-- The residual of a check is recorded. -/
def driftKept (v : State) (b i r : Nat) : State := countEv (recordTile (driftOver v b i) b i r) (438 + 8 * b) 1

theorem driftResult_eq {v : State} {b : Nat} (h : bankState (driftOver v b (fget v (micaPage b) F.MICA_STATUS_DRIFT_TILE)) b ≠ 1)
    (r : Nat) : driftResult v b r =
      if tileFails (driftKept v b (fget v (micaPage b) F.MICA_STATUS_DRIFT_TILE) r) b r then
        driftDisable (driftKept v b (fget v (micaPage b) F.MICA_STATUS_DRIFT_TILE) r) b
          (fget v (micaPage b) F.MICA_STATUS_DRIFT_TILE)
      else checkTiles (driftKept v b (fget v (micaPage b) F.MICA_STATUS_DRIFT_TILE) r) b := if_neg h

/-- No drift check of bank `b` goes on. -/
def Quiet (s : State) (b : Nat) : Prop := fget s (micaPage b) F.MICA_STATUS_DRIFT_BUSY = 0

theorem driftEnd_quiet (s : State) (b : Nat) : Quiet (driftEnd s b) b := by
  rw [Quiet, driftEnd, fget_syncBank _ _ _ (by decide) (by decide) (by decide), fget_fset_apart _ _ _ _ _ _ (by decide), fsetb,
    fget_fset_self _ _ _ _ _ (by decide)]
  rfl

theorem driftEnd_sameRegs (s : State) (b : Nat) :
    SameRegs s (driftEnd s b) fun q o => q = micaPage b ∧ (o = 0x40 ∨ o = 0x4C ∨ o = 4) := by
  have hset : SameRegs s (fset (fsetb s (micaPage b) F.MICA_STATUS_DRIFT_BUSY false) (micaPage b) F.MICA_STATUS_DRIFT_TILE 0)
      fun q o => q = micaPage b ∧ (o = 0x40 ∨ o = 0x4C ∨ o = 4) :=
    ((SameRegs.refl s _).then_fset (by decide) ⟨rfl, .inl rfl⟩ _).then_fset (by decide) ⟨rfl, .inl rfl⟩ _
  exact ((hset.then_fset (by decide) ⟨rfl, .inl rfl⟩ _).then_fset (by decide) ⟨rfl, .inr (.inl rfl)⟩ _).then_fset (by decide)
    ⟨rfl, .inr (.inr rfl)⟩ _

theorem bankState_driftEnd (s : State) (b : Nat) : bankState (driftEnd s b) b = bankState s b := by
  rw [driftEnd, bankState_syncBank, bankState, fget_fset_apart _ _ _ _ _ _ (by decide), fsetb,
    fget_fset_apart _ _ _ _ _ _ (by decide), bankState]

section kept
variable (v : State) (b : Nat) {i : Nat} (hi : i < 32) (r : Nat)
include hi

theorem driftKept_sameRegs : SameRegs v (driftKept v b i r) fun q o =>
    q = 8 ∨ q = micaPage b ∧ (o = 0x40 ∨ o = 0x4C ∨ o = 4 ∨ 0x80 ≤ o ∧ o < 0xA0) := by
  have hend : SameRegs v (driftOver v b i) fun q o =>
      q = 8 ∨ q = micaPage b ∧ (o = 0x40 ∨ o = 0x4C ∨ o = 4 ∨ 0x80 ≤ o ∧ o < 0xA0) :=
    ((SameRegs.refl v _).then_regs (modBank_regs _ _ _)).trans ((driftEnd_sameRegs _ b).mono fun q o e => by omega)
  exact (hend.trans ((recordTile_sameRegs _ b hi r).mono fun q o e => by omega)).then_regs (countEv_regs _ _ _)

/-- A mask of tiles, or the limit of residuals. -/
theorem fget_driftKept {row : Row} (hrow : row.at 0 = 0x44 ∨ row.at 0 = 0x48 ∨ row.at 0 = 0x400) :
    fget (driftKept v b i r) (micaPage b) row = fget v (micaPage b) row :=
  (driftKept_sameRegs v b hi r).fget (by omega) (by unfold micaPage; omega)

theorem driftKept_quiet : Quiet (driftKept v b i r) b := by
  unfold Quiet driftKept
  rw [fget_congr (countEv_regs _ _ _),
    (recordTile_sameRegs _ b hi r).fget (by decide) (by unfold micaPage; change ¬(_ ∨ _ ∧ _ ≤ 0x40 ∧ _); omega)]
  exact driftEnd_quiet _ b

theorem driftKept_resid : fget (driftKept v b i r) (micaPage b) (residRow i) (i / 4) = min r 255 :=
  (fget_congr (countEv_regs _ _ _) _ _ _).trans (fget_resid_recordTile _ b hi r)

omit hi in
theorem driftKept_next : (getBank (driftKept v b i r) b).driftNext = (i + 1) % 32 := by
  have hrec : (driftKept v b i r).banks = (driftOver v b i).banks := (recordTile_keep _ b i r).banks (by decide)
  have hover : (driftOver v b i).banks = (modBank v b ({ · with driftNext := (i + 1) % 32 })).banks := rfl
  rw [getBank_congr (hrec.trans hover), getBank_modBank]

end kept

/-! ### A residual beyond the limit -/

/-- A tile is disabled: TILE_FAIL notes it, TILE_EN follows, and the page raises TILE_DISABLED (R105). -/
def tileDisabled (s : State) (b i : Nat) : State :=
  setIrq (syncTiles (fset s (micaPage b) F.MICA_TILE_FAIL_FAIL (fget s (micaPage b) F.MICA_TILE_FAIL_FAIL ||| 2 ^ i)) b)
    (micaPage b) 4

/-- The tiles that a bank with a disabled tile has left (R105). -/
def tileCounted (s : State) (b i : Nat) : State :=
  checkTiles (modBank (raiseFault (tileDisabled s b i) (micaPage b) 3 i false) b fun x => { x with failed := x.failed + 1 }) b

theorem driftDisable_eq (s : State) (b i : Nat) : driftDisable s b i =
    if (getBank (tileCounted s b i) b).failed = 4 then requestCal (tileCounted s b i) b else tileCounted s b i := rfl

theorem tileDisabled_sameRegs (s : State) (b i : Nat) :
    SameRegs s (tileDisabled s b i) fun q o => q = micaPage b ∧ (o = 0x2C ∨ o = 0x44 ∨ o = 0x48) :=
  (((SameRegs.refl s _).then_fset (by decide) ⟨rfl, .inr (.inr rfl)⟩ _).trans
    ((syncTiles_sameRegs _ b).mono fun q o e => by omega)).then_setIrq ⟨rfl, .inl rfl⟩ 4

theorem testBit_fail_tileDisabled (s : State) (b : Nat) {i : Nat} (hi : i < 32) :
    (fget (tileDisabled s b i) (micaPage b) F.MICA_TILE_FAIL_FAIL).testBit i = true := by
  rw [tileDisabled, (sameRegs_setIrq _ _ _).fget (by decide) (fun e => absurd e.2 (by decide)),
    (syncTiles_sameRegs _ b).fget (by decide) (fun e => absurd e.2 (by decide)), fget_fset_self _ _ _ _ _ (by decide),
    Nat.testBit_mod_two_pow, Nat.testBit_or, Nat.testBit_two_pow_self, Bool.or_true, Bool.and_true]
  exact decide_eq_true hi

theorem testBit_en_tileDisabled (s : State) (b : Nat) {i : Nat} (hi : i < 32) :
    (fget (tileDisabled s b i) (micaPage b) F.MICA_TILE_EN_EN).testBit i = false := by
  have hfail := testBit_fail_tileDisabled s b hi
  rw [tileDisabled, (sameRegs_setIrq _ _ _).fget (by decide) (fun e => absurd e.2 (by decide))] at hfail ⊢
  rw [(syncTiles_sameRegs _ b).fget (by decide) (fun e => absurd e.2 (by decide))] at hfail
  rw [testBit_tileEn_syncTiles _ b hi, hfail]
  rfl

theorem tileDisabled_banks (s : State) (b i : Nat) : (tileDisabled s b i).banks = s.banks := by
  rw [tileDisabled, setIrq_banks]
  rfl

section disable
variable {s : State} {b : Fin 4} {i : Nat} (hr : reactOf s (micaPage b) 3 ≤ 2)
include hr

theorem tileDisabled_told : Told b (tileDisabled s b i) (raiseFault (tileDisabled s b i) (micaPage b) 3 i false) := by
  refine raiseFault_told _ b (.inl rfl) ?_ i
  rw [reactOf_congr (tileDisabled_sameRegs s b i) (by omega) (by omega)]
  exact hr

theorem driftDisable_attended : Attended b (tileDisabled s b i) (driftDisable s b i) := by
  have hcounted : Attended b (tileDisabled s b i) (tileCounted s b i) :=
    ((tileDisabled_told hr).attended.trans (.of_regs (modBank_regs _ _ _))).trans (checkTiles_attended _ b)
  rw [driftDisable_eq]
  exact hcounted.trans (.ite (requestCal_attended _ b) (.refl _ _))

theorem driftDisable_next : SameOf Bank.driftNext s (driftDisable s b i) := by
  have hdisabled : SameOf Bank.driftNext s (tileDisabled s b i) := .of_banks (tileDisabled_banks s b i)
  have htold : SameOf Bank.driftNext (tileDisabled s b i) (raiseFault (tileDisabled s b i) (micaPage b) 3 i false) :=
    .of_banks (tileDisabled_told hr).banks
  have hmod : ∀ t : State, SameOf Bank.driftNext t (modBank t b fun x => { x with failed := x.failed + 1 }) := fun t =>
    .modBank t b fun _ => rfl
  have hcheck : ∀ t : State, SameOf Bank.driftNext t (checkTiles t b) := fun t => checkTiles_sameOf (fun _ _ _ => rfl) t b
  have hcal : ∀ t : State, SameOf Bank.driftNext t (requestCal t b) := fun t =>
    requestCal_sameOf (fun _ _ _ => rfl) (fun _ => rfl) t b
  have hcounted : SameOf Bank.driftNext s (tileCounted s b i) := ((hdisabled.trans htold).trans (hmod _)).trans (hcheck _)
  rw [driftDisable_eq]
  exact hcounted.trans (.ite (hcal _) (.refl _ _))

end disable

/-- What the end of a check of tile `i` with residual `r` shows: `s` is the state before it. -/
structure DriftEnds (b i r : Nat) (s t : State) : Prop where
  idle : fbit t (micaPage b) F.MICA_STATUS_DRIFT_BUSY = false
  turn : (getBank t b).driftNext = (i + 1) % 32
  resid : fget t (micaPage b) (residRow i) (i / 4) = min r 255
  fail : (fget t (micaPage b) F.MICA_TILE_FAIL_FAIL).testBit i =
    ((fget s (micaPage b) F.MICA_TILE_FAIL_FAIL).testBit i || tileFails s b r)
  off : tileFails s b r = true → (fget t (micaPage b) F.MICA_TILE_EN_EN).testBit i = false

section ends
variable {v : State} {b : Fin 4} {i : Nat} (hi : i < 32) {r : Nat}
include hi

theorem tileFails_driftKept : tileFails (driftKept v b i r) b r = tileFails v b r := by
  unfold tileFails
  rw [fget_driftKept v b hi r (by decide)]

theorem resid_attended {s t : State} (h : Attended b s t) :
    fget t (micaPage b) (residRow i) (i / 4) = fget s (micaPage b) (residRow i) (i / 4) := by
  refine h.regs.fget (by rw [residRow_at]; omega) (not_attends ?_)
  rw [residRow_at]
  omega

theorem driftEnds_within (hf : tileFails v b r = false) : DriftEnds b i r v (checkTiles (driftKept v b i r) b) := by
  have hcheck := checkTiles_attended (driftKept v b i r) b
  refine ⟨?_, ?_, ?_, ?_, fun h => absurd h (by rw [hf]; decide)⟩
  · rw [fbit, hcheck.busy, driftKept_quiet v b hi r]
    rfl
  · rw [checkTiles_sameOf (π := Bank.driftNext) (fun _ _ _ => rfl), driftKept_next]
  · rw [resid_attended hi hcheck, driftKept_resid v b hi r]
  · rw [hcheck.regs.fget (by decide) (not_attends (by decide)), fget_driftKept v b hi r (by decide), hf, Bool.or_false]

theorem driftEnds_beyond (hf : tileFails v b r = true) (hr : reactOf v (micaPage b) 3 ≤ 2) :
    DriftEnds b i r v (driftDisable (driftKept v b i r) b i) := by
  have hreact : reactOf (driftKept v b i r) (micaPage b) 3 ≤ 2 := by
    rw [reactOf_congr (driftKept_sameRegs v b hi r) (by unfold micaPage; omega) (by unfold micaPage; omega)]
    exact hr
  have hend : Attended b _ _ := driftDisable_attended (i := i) hreact
  have hdisabled := tileDisabled_sameRegs (driftKept v b i r) b i
  refine ⟨?_, ?_, ?_, ?_, fun _ => ?_⟩
  · rw [fbit, hend.busy, hdisabled.fget (by decide) (fun e => absurd e.2 (by decide)), driftKept_quiet v b hi r]
    rfl
  · rw [driftDisable_next hreact, driftKept_next]
  · rw [resid_attended hi hend, hdisabled.fget (by rw [residRow_at]; omega) (by rw [residRow_at]; omega),
      driftKept_resid v b hi r]
  · rw [hend.regs.fget (by decide) (not_attends (by decide)), testBit_fail_tileDisabled _ b hi, hf, Bool.or_true]
  · rw [hend.regs.fget (by decide) (not_attends (by decide)), testBit_en_tileDisabled _ b hi]

end ends

theorem driftResult_ends {v : State} {b : Fin 4} (hs : bankState v b ≠ 1) {r : Nat}
    (hr : tileFails v b r = true → reactOf v (micaPage b) 3 ≤ 2) :
    DriftEnds b (fget v (micaPage b) F.MICA_STATUS_DRIFT_TILE) r v (driftResult v b r) := by
  have hi : fget v (micaPage b) F.MICA_STATUS_DRIFT_TILE < 32 := fget_lt _ _ _ _
  have hstate : bankState (driftOver v b (fget v (micaPage b) F.MICA_STATUS_DRIFT_TILE)) b ≠ 1 := by
    rw [driftOver, bankState_driftEnd, bankState, fget_congr (modBank_regs _ _ _)]
    exact hs
  rw [driftResult_eq hstate, tileFails_driftKept hi]
  cases hf : tileFails v b r with
  | false => exact driftEnds_within hi hf
  | true => exact driftEnds_beyond hi hf (hr hf)

theorem driftCheck_ends {s : State} {b : Fin 4} (hb : fbit (bankTick s b) (micaPage b) F.MICA_STATUS_DRIFT_BUSY = true)
    (r : Nat) : exec (.driftCheck b (some r)) s = .next (driftResult (bankTick s b) b r) := if_pos hb

end Sys2Proof.Machine
end

section
/-! PROOFS. The end of a calibration, the writes of the expert area, and the statement on a bank's service (R105, R106, R336,
R374). -/

namespace Sys2Proof.Machine

/-! ### A calibration ends -/

/-- The tiles whose residual is beyond the limit. -/
def tilesBad (s : State) (b : Nat) (resid : List Nat) : List Nat :=
  (List.range 32).filter fun i => tileFails s b (resid.getD i 0)

/-- The trims and the residuals of a calibration are recorded. -/
def calMeasured (s : State) (b : Nat) (resid : List Nat) (trim : List (List Nat)) : State :=
  (List.range 32).foldl (fun s i => recordTile s b i (resid.getD i 0)) (driftEnd (setTrims s b trim) b)

/-- The tiles of a calibrated bank are judged, and no failure is counted against it. -/
def calJudged (s : State) (b : Nat) (resid : List Nat) (trim : List (List Nat)) : State :=
  modBank (fset (calMeasured s b resid trim) (micaPage b) F.MICA_TILE_FAIL_FAIL
    ((tilesBad s b resid).foldl (fun v i => v + 2 ^ i) 0)) b ({ · with failed := 0 })

/-- A calibrated bank: the tiles within the limit are enabled, and it is READY. -/
def calReady (s : State) (b : Nat) (resid : List Nat) (trim : List (List Nat)) : State :=
  fset (setIrq (syncTiles (calJudged s b resid trim) b) (micaPage b) (2 + if tilesBad s b resid = [] then 0 else 4))
    (micaPage b) F.HDR_BLK_READY_READY 1

/-- A calibrated bank leaves, returns, or stays out. -/
def calEnd (s : State) (b : Nat) : State :=
  if tilesOn s b < minTiles s b then raiseFault (setBank s b 0 6) (micaPage b) 5 0 false
  else if (getBank s b).autoBack then setBank s b 2 2
  else setBank s b 0 5

theorem setReady_of_ready {s : State} {d : Nat} (h : readyBit s d = true) : setReady s d = s := if_pos h

/-- The registers that a calibration of bank `b` writes before the bank returns: Bedrock's record of it, and on the bank's
page READY, IRQ_STATUS, STATUS, TILE_EN, TILE_FAIL, RATE and RESID. -/
def calWrites (b q o : Nat) : Prop :=
  q = 8 ∨ q = micaPage b ∧
    (o = 4 ∨ o = 0x2C ∨ o = 0x40 ∨ o = 0x44 ∨ o = 0x48 ∨ o = 0x4C ∨ 0x80 ≤ o ∧ o < 0xA0)

theorem not_calWrites {b q o : Nat} (h : q = 0 ∨ q = micaPage b ∧ (o = 0x1C ∨ o = 0x20 ∨ 0x400 ≤ o)) : ¬calWrites b q o := by
  unfold calWrites micaPage at *
  omega

section calibrated
variable (s : State) (b : Nat) (resid : List Nat) (trim : List (List Nat))

theorem calDone_eq (h : readyBit (calReady s b resid trim) (domainOf (micaPage b)) = true) :
    calDone s b resid trim = calEnd (calReady s b resid trim) b := by
  change calEnd (setReady (calReady s b resid trim) (domainOf (micaPage b))) b = _
  rw [setReady_of_ready h]

theorem calMeasured_sameRegs : SameRegs s (calMeasured s b resid trim) (calWrites b) := by
  have hend : SameRegs s (driftEnd (setTrims s b trim) b) (calWrites b) :=
    ((SameRegs.refl s _).then_regs (modBank_regs _ _ _)).trans
      ((driftEnd_sameRegs _ b).mono fun q o e => by unfold calWrites; omega)
  exact hend.foldl fun t i hi => (recordTile_sameRegs t b (List.mem_range.1 hi) _).mono fun q o e => by unfold calWrites; omega

theorem calJudged_sameRegs : SameRegs s (calJudged s b resid trim) (calWrites b) :=
  ((calMeasured_sameRegs s b resid trim).then_fset (by decide) (.inr ⟨rfl, by decide⟩) _).then_regs (modBank_regs _ _ _)

theorem calReady_sameRegs : SameRegs s (calReady s b resid trim) (calWrites b) := by
  have hsync : SameRegs s (syncTiles (calJudged s b resid trim) b) (calWrites b) :=
    (calJudged_sameRegs s b resid trim).trans ((syncTiles_sameRegs _ b).mono fun q o e => by unfold calWrites; omega)
  exact (hsync.then_setIrq (.inr ⟨rfl, by decide⟩) _).then_fset (by decide) (.inr ⟨rfl, by decide⟩) _

theorem testBit_fail_calJudged {i : Nat} (hi : i < 32) :
    (fget (calJudged s b resid trim) (micaPage b) F.MICA_TILE_FAIL_FAIL).testBit i = tileFails s b (resid.getD i 0) := by
  obtain ⟨hlt, hbit⟩ := testBit_sum_powers (fun i => tileFails s b (resid.getD i 0)) 32 i
  rw [calJudged, fget_congr (modBank_regs _ _ _), fget_fset_self _ _ _ _ _ (by decide)]
  refine (congrArg (Nat.testBit · i) (Nat.mod_eq_of_lt hlt)).trans (hbit.trans ?_)
  rw [decide_eq_true hi, Bool.true_and]

theorem testBit_en_calReady {i : Nat} (hi : i < 32) :
    (fget (calReady s b resid trim) (micaPage b) F.MICA_TILE_EN_EN).testBit i =
      (!tileFails s b (resid.getD i 0) && !(fget s (micaPage b) F.MICA_TILE_MASK_MASK).testBit i) := by
  have hmask : fget (calJudged s b resid trim) (micaPage b) F.MICA_TILE_MASK_MASK =
      fget s (micaPage b) F.MICA_TILE_MASK_MASK :=
    (calJudged_sameRegs s b resid trim).fget (by decide) (not_calWrites (.inr ⟨rfl, by decide⟩))
  rw [calReady, fget_fset_apart _ _ _ _ _ _ (by decide),
    (sameRegs_setIrq _ _ _).fget (by decide) (fun e => absurd e.2 (by decide)), testBit_tileEn_syncTiles _ b hi,
    testBit_fail_calJudged s b resid trim hi, hmask]

theorem tilesOn_calReady : tilesOn (calReady s b resid trim) b = goodTiles s b resid :=
  congrArg List.length (List.filter_congr fun _ hi => testBit_en_calReady s b resid trim (List.mem_range.1 hi))

theorem calMeasured_banks : (calMeasured s b resid trim).banks = (setTrims s b trim).banks :=
  List.foldlRecOn (motive := fun t : State => t.banks = (setTrims s b trim).banks) _ _ rfl fun t ht _ _ =>
    ((recordTile_keep t b _ _).banks (by decide)).trans ht

theorem calReady_banks : (calReady s b resid trim).banks = (calJudged s b resid trim).banks := by
  have hsync : (syncTiles (calJudged s b resid trim) b).banks = (calJudged s b resid trim).banks := rfl
  rw [calReady, fset_banks, setIrq_banks, hsync]

theorem calReady_sameOf {α : Type} {π : Bank → α} (h : ∀ x l n, π { x with trims := l, failed := n } = π x) :
    SameOf π s (calReady s b resid trim) := by
  have htrims : SameOf π s (setTrims s b trim) := .modBank s b fun x => h x _ x.failed
  have hmeasured : SameOf π s (calMeasured s b resid trim) := htrims.trans (.of_banks (calMeasured_banks s b resid trim))
  have hmod : ∀ t : State, SameOf π t (modBank t b ({ · with failed := 0 })) := fun t => .modBank t b fun x => h x x.trims 0
  exact (hmeasured.trans ((SameOf.of_banks (fset_banks _ _ _ _ _)).trans (hmod _))).trans
    (.of_banks (calReady_banks s b resid trim))

end calibrated

/-- A calibrated bank serves where it has tiles enough and returns by itself; else it is out. -/
theorem calEnd_enters {s : State} (b : Fin 4) (hr : minTiles s b ≤ tilesOn s b ∨ reactOf s (micaPage b) 5 ≤ 2) :
    Attended b s (calEnd s b) ∧ (calEnd s b).banks = s.banks ∧
      bankState (calEnd s b) b = if minTiles s b ≤ tilesOn s b ∧ (getBank s b).autoBack = true then 2 else 0 := by
  unfold calEnd
  split
  case isTrue hlt =>
    have hout := setBank_attended s b 0 6
    have htold : Told b (setBank s b 0 6) _ := raiseFault_told _ b (.inr rfl)
      ((reactOf_congr hout.regs (not_attends (by decide)) (not_attends (by decide)) 5).trans_le (hr.resolve_left (by omega))) 0
    refine ⟨hout.trans htold.attended, htold.banks.trans (setBank_banks _ _ _ _), ?_⟩
    rw [if_neg (by omega), htold.sameState]
    exact bankState_setBank s b (by decide) 6
  case isFalse hge =>
    split
    case isTrue hback =>
      refine ⟨setBank_attended s b 2 2, setBank_banks _ _ _ _, ?_⟩
      rw [if_pos ⟨by omega, hback⟩]
      exact bankState_setBank s b (by decide) 2
    case isFalse hback =>
      refine ⟨setBank_attended s b 0 5, setBank_banks _ _ _ _, ?_⟩
      rw [if_neg fun h => hback h.2]
      exact bankState_setBank s b (by decide) 5

section calDone
variable {s : State} {b : Fin 4} {resid : List Nat} {trim : List (List Nat)}

theorem readyBit_calReady (d : Nat) : readyBit (calReady s b resid trim) d = readyBit s d :=
  readyBit_congr (calReady_sameRegs s b resid trim) (not_calWrites (.inl rfl)) (not_calWrites (.inl rfl)) d

theorem minTiles_calReady : minTiles (calReady s b resid trim) b = minTiles s b :=
  (calReady_sameRegs s b resid trim).fget (by decide) (not_calWrites (.inr ⟨rfl, by decide⟩))

theorem calReady_returns (hr : minTiles s b ≤ goodTiles s b resid ∨ reactOf s (micaPage b) 5 ≤ 2) :
    minTiles (calReady s b resid trim) b ≤ tilesOn (calReady s b resid trim) b ∨
      reactOf (calReady s b resid trim) (micaPage b) 5 ≤ 2 := by
  rw [minTiles_calReady, tilesOn_calReady, reactOf_congr (calReady_sameRegs s b resid trim)
    (not_calWrites (.inr ⟨rfl, by decide⟩)) (not_calWrites (.inr ⟨rfl, by decide⟩))]
  exact hr

/-- During operation a calibration's end is the bank's alone. -/
theorem calDone_exec (hs : bankState s b = 1) (hd : domOn s (37 + b) = true) (hb : readyBit s (37 + b) = true)
    (h63 : readyBit s 63 = true) (hr : minTiles s b ≤ goodTiles s b resid ∨ reactOf s (micaPage b) 5 ≤ 2) :
    exec (.calDone b resid trim) s = .next (calEnd (calReady s b resid trim) b) := by
  obtain ⟨-, -, -, -, -, -, hdom, -⟩ := mica_facts b
  obtain ⟨hend, -, -⟩ := calEnd_enters b (calReady_returns (trim := trim) hr)
  have heq : calDone s b resid trim = calEnd (calReady s b resid trim) b := by
    refine calDone_eq s b resid trim ?_
    rw [hdom, readyBit_calReady, hb]
  have hup : readyBit (calEnd (calReady s b resid trim) b) 63 = true := by
    rw [readyBit_congr hend.regs (by unfold attends micaPage; omega) (by unfold attends micaPage; omega), readyBit_calReady, h63]
  change execCalDone b resid trim s = _
  unfold execCalDone
  dsimp only
  rw [if_pos ⟨hs, hd⟩, hb, heq]
  change Host.Outcome.next (checkBringup (calEnd (calReady s b resid trim) b)) = _
  rw [checkBringup_of_ready hup]

end calDone

/-! ### The expert area -/

/-- A write of the expert area while it is locked: EXPERT_LOCKED is raised. -/
theorem expertLocked_raises (s : State) (b : Fin 4) :
    (fget (setIrq s (micaPage b) 1) (micaPage b) F.HDR_IRQ_STATUS_CAUSE).testBit 0 = true ∧
      setIrq s (micaPage b) 1 =
        { s with regs := (setIrq s (micaPage b) 1).regs, srcs := (setIrq s (micaPage b) 1).srcs } ∧
      SameRegs s (setIrq s (micaPage b) 1) fun page off => page = micaPage b ∧ off = F.HDR_IRQ_STATUS_CAUSE.off := by
  obtain ⟨-, -, -, -, -, -, -, hheader⟩ := mica_facts b
  refine ⟨setIrq_status s _ 1 0 hheader (by decide) (by decide), ?_, sameRegs_setIrq s _ 1⟩
  obtain ⟨r, x, h⟩ := setIrq_same s (micaPage b) 1
  rw [h]
  rfl

section expert
variable {s : State} {b : Fin 4}

theorem tileMaskWrite_locked (h : unlocked s (micaPage b) = false) (val : Word) :
    exec (.tileMaskWrite b val) s = .next (setIrq s (micaPage b) 1) := by
  change Host.Outcome.next (expertWrite s (micaPage b) _) = _
  rw [expertWrite, if_neg (by rw [h]; decide)]

theorem minTilesWrite_locked (h : unlocked s (micaPage b) = false) (val : Word) :
    exec (.minTilesWrite b val) s = .next (setIrq s (micaPage b) 1) := by
  change Host.Outcome.next (expertWrite s (micaPage b) _) = _
  rw [expertWrite, if_neg (by rw [h]; decide)]

/-- The mask of a bank is written. -/
def tilesMasked (s : State) (b : Nat) (val : Word) : State := fset s (micaPage b) F.MICA_TILE_MASK_MASK val.toNat

theorem tileMaskWrite_unlocked (h : unlocked s (micaPage b) = true) (val : Word) : exec (.tileMaskWrite b val) s =
    .next (if blkReady (tilesMasked s b val) (micaPage b) then checkTiles (syncTiles (tilesMasked s b val) b) b
      else tilesMasked s b val) := by
  change Host.Outcome.next (expertWrite s (micaPage b) _) = _
  rw [expertWrite, if_pos h]
  rfl

theorem tilesMasked_sameRegs (s : State) (b : Nat) (val : Word) :
    SameRegs s (tilesMasked s b val) fun q o => q = micaPage b ∧ o = 0x404 :=
  (SameRegs.refl s _).then_fset (by decide) ⟨rfl, rfl⟩ _

theorem fget_tilesMasked (s : State) (b : Nat) (val : Word) :
    fget (tilesMasked s b val) (micaPage b) F.MICA_TILE_MASK_MASK = val.toNat :=
  (fget_fset_self _ _ _ _ _ (by decide)).trans (Nat.mod_eq_of_lt val.isLt)

theorem tileMaskWrite_shows (h : unlocked s (micaPage b) = true) (val : Word) :
    Does (.tileMaskWrite b val) s fun t => fget t (micaPage b) F.MICA_TILE_MASK_MASK = val.toNat ∧ t.mem = s.mem ∧
      (blkReady s (micaPage b) = true → fget t (micaPage b) F.MICA_TILE_EN_EN =
        (2 ^ 32 - 1 - fget s (micaPage b) F.MICA_TILE_FAIL_FAIL) &&& (2 ^ 32 - 1 - val.toNat)) := by
  have hready : blkReady (tilesMasked s b val) (micaPage b) = blkReady s (micaPage b) :=
    (tilesMasked_sameRegs s b val).fbit (by decide) fun e => absurd e.2 (by decide)
  have hfail : fget (tilesMasked s b val) (micaPage b) F.MICA_TILE_FAIL_FAIL = fget s (micaPage b) F.MICA_TILE_FAIL_FAIL :=
    (tilesMasked_sameRegs s b val).fget (by decide) fun e => absurd e.2 (by decide)
  have hexec := tileMaskWrite_unlocked h val
  have hcheck := checkTiles_attended (syncTiles (tilesMasked s b val) b) b
  refine ⟨_, hexec, ?_, (exec_keeps _ s _ hexec).mem (by simp [mayWrite]), fun hr => ?_⟩
  · split
    · rw [hcheck.regs.fget (by decide) (not_attends (by decide)),
        (syncTiles_sameRegs _ b).fget (by decide) (fun e => absurd e.2 (by decide)), fget_tilesMasked]
    · exact fget_tilesMasked s b val
  · rw [if_pos (hready.trans hr), hcheck.regs.fget (by decide) (not_attends (by decide)), tileEn_syncTiles, hfail,
      fget_tilesMasked]

theorem minTilesWrite_unlocked (h : unlocked s (micaPage b) = true) (val : Word) : exec (.minTilesWrite b val) s =
    .next (if 1 ≤ val.toNat % 64 ∧ val.toNat % 64 ≤ 32 then
      checkTiles (fset s (micaPage b) F.MICA_MIN_TILES_MIN (val.toNat % 64)) b else s) := by
  change Host.Outcome.next (expertWrite s (micaPage b) _) = _
  rw [expertWrite, if_pos h]

theorem minTilesWrite_shows (h : unlocked s (micaPage b) = true) (val : Word) : Does (.minTilesWrite b val) s fun t =>
    if 1 ≤ val.toNat % 64 ∧ val.toNat % 64 ≤ 32 then minTiles t b = val.toNat % 64 ∧ t.mem = s.mem else t = s := by
  have hexec := minTilesWrite_unlocked h val
  refine ⟨_, hexec, ?_⟩
  have hmem := (exec_keeps _ s _ hexec).mem (by simp [mayWrite])
  split
  case isTrue hin =>
    refine ⟨?_, by rw [if_pos hin] at hmem; exact hmem⟩
    rw [minTiles, (checkTiles_attended _ b).regs.fget (by decide) (not_attends (by decide)),
      fget_fset_self _ _ _ _ _ (by decide)]
    exact Nat.mod_eq_of_lt (by change _ < 64; omega)
  case isFalse => rfl

end expert

/-! ### The statement -/

section requests
variable {s : State} {b : Fin 4}

theorem calReq_exec : exec (.calReq b) s = .next (requestCal s b) := rfl

theorem micaRetire_exec : exec (.micaRetire b) s = .next (retireBank s b) := rfl

theorem micaAdmit_exec : exec (.micaAdmit b) s = .next (admitBank s b) := rfl

/-- What CAL_REQ, RETIRE, ADMIT and CAL_DONE leave: the bank's state is `n`, and its jobs and device memory are as they were. -/
def Enters (s : State) (b n : Nat) (t : State) : Prop :=
  bankState t b = n ∧ t.mem = s.mem ∧ (getBank t b).jobs = (getBank s b).jobs

theorem calReq_enters {n : Nat} (h : bankState (requestCal s b) b = n) : Enters s b n (requestCal s b) :=
  ⟨h, (requestCal_keeps (.refl [.regs, .ctxs, .banks, .srcs, .doms] s) rfl).mem (by decide),
    requestCal_sameOf (π := Bank.jobs) (fun _ _ _ => rfl) (fun _ => rfl) s b b⟩

theorem retire_enters {n : Nat} (h : bankState (retireBank s b) b = n) : Enters s b n (retireBank s b) :=
  ⟨h, (retireBank_keeps (.refl [.regs, .ctxs, .banks, .srcs, .doms] s) rfl).mem (by decide),
    retireBank_sameOf (π := Bank.jobs) (fun _ _ _ => rfl) s b b⟩

theorem admit_enters (h : bankState s b = 0) (hr : blkReady s (micaPage b) = true) (ht : minTiles s b ≤ tilesOn s b) :
    Enters s b 2 (admitBank s b) ∧ blkInService (admitBank s b) (micaPage b) = true := by
  refine ⟨⟨?_, (admitBank_keeps (.refl [.regs, .ctxs, .srcs, .doms] s) rfl).mem (by decide),
    congrArg Bank.jobs (getBank_congr (admitBank_banks s b) b)⟩, ?_⟩
  · rw [admitBank_eq h hr ht]
    exact bankState_setBank _ b (by decide) 2
  · rw [admitBank_eq h hr ht]
    exact blkInService_setBank _ b 2 2

theorem calDone_enters (resid : List Nat) (trim : List (List Nat)) (hs : bankState s b = 1) (hd : domOn s (37 + b) = true)
    (hb : readyBit s (37 + b) = true) (h63 : readyBit s 63 = true)
    (hr : minTiles s b ≤ goodTiles s b resid ∨ reactOf s (micaPage b) 5 ≤ 2) : Does (.calDone b resid trim) s fun t =>
      (∀ i : Fin 32, (fget t (micaPage b) F.MICA_TILE_EN_EN).testBit i =
        (!tileFails s b (resid.getD i 0) && !(fget s (micaPage b) F.MICA_TILE_MASK_MASK).testBit i)) ∧
      Enters s b (if minTiles s b ≤ tilesOn t b ∧ (getBank s b).autoBack = true then 2 else 0) t := by
  have hexec := calDone_exec (trim := trim) hs hd hb h63 hr
  obtain ⟨hend, hbanks, hstate⟩ := calEnd_enters b (calReady_returns (trim := trim) hr)
  have hen : fget (calEnd (calReady s b resid trim) b) (micaPage b) F.MICA_TILE_EN_EN =
      fget (calReady s b resid trim) (micaPage b) F.MICA_TILE_EN_EN := hend.regs.fget (by decide) (not_attends (by decide))
  have hback : SameOf Bank.autoBack s (calReady s b resid trim) := calReady_sameOf s b resid trim fun _ _ _ => rfl
  have hjobs : SameOf Bank.jobs s (calReady s b resid trim) := calReady_sameOf s b resid trim fun _ _ _ => rfl
  refine ⟨_, hexec, fun i => ?_, ?_, (exec_keeps _ s _ hexec).mem (by simp [mayWrite]), ?_⟩
  · rw [hen, testBit_en_calReady s b resid trim i.isLt]
  · rw [hstate, minTiles_calReady, hback, tilesOn, tilesOn, hen]
  · rw [getBank_congr hbanks, hjobs]

end requests

/-- Settles O17: a bank calibrates, checks its tiles, leaves and returns. -/
theorem bankService : Obligations.BankService := by
  unfold Obligations.BankService
  intro b s
  refine ⟨fun h => ⟨_, calReq_exec, requestCal_ignored h⟩, fun h hj => ?_, fun h hj => ?_, fun h hj hc => ?_, fun h hj => ?_,
    fun h hr ht => ⟨_, micaAdmit_exec, admit_enters h hr ht⟩, fun resid trim hs hd hb h63 hr => calDone_enters resid trim hs hd hb h63 hr,
    fun hr hc hf hb hd => ⟨fun hen hidle => ?_, fun hen hbusy => ⟨_, driftCheck_waits hr hc hf hb hd hen hbusy, rfl⟩,
      fun hen => ?_⟩, fun r hb hs hr => ?_, fun val => ⟨fun h => ?_, fun h => tileMaskWrite_shows h val,
      fun h => minTilesWrite_shows h val⟩⟩
  · obtain ⟨hstate, hback⟩ := requestCal_idle h hj
    exact ⟨_, calReq_exec, calReq_enters hstate, hback⟩
  · obtain ⟨hstate, hwant⟩ := requestCal_busy h hj
    exact ⟨_, calReq_exec, calReq_enters hstate, hwant⟩
  · obtain ⟨hstate, hout⟩ := retireBank_idle h hj hc
    exact ⟨_, micaRetire_exec, retire_enters hstate, hout⟩
  · obtain ⟨hstate, hwant⟩ := retireBank_busy h hj
    exact ⟨_, micaRetire_exec, retire_enters hstate, hwant⟩
  · have hi := lt_of_testBit_fget hen
    exact ⟨_, driftCheck_takes hr hc hf hb hd hen hidle, driftReserved_busy _ _ _, driftReserved_tile _ _ hi,
      (driftReserved_since _ _ _).trans (bankTick_devtime s b), driftReserved_takes _ _ hi, driftReserved_frame _ _ _⟩
  · exact ⟨_, driftCheck_passes hr hc hf hb hd hen, by rw [getBank_modBank], rfl⟩
  · have hsame := bankTick_sameRegs s b
    have hfails : tileFails (bankTick s b) b r = tileFails s b r := by
      unfold tileFails
      rw [hsame.fget (by decide) fun e => absurd e.2 (by decide)]
    have hexec := driftCheck_ends hb r
    obtain ⟨hidle, hturn, hresid, hfail, hoff⟩ := driftResult_ends hs fun h => by
      rw [reactOf_congr hsame (by omega) (by omega)]
      exact hr (hfails ▸ h)
    rw [hfails] at hfail hoff
    rw [hsame.fget (r := F.MICA_TILE_FAIL_FAIL) (by decide) fun e => absurd e.2 (by decide)] at hfail
    exact ⟨_, hexec, (exec_keeps _ s _ hexec).mem (by simp [mayWrite]), hidle, hturn, hresid, hfail, hoff⟩
  · exact ⟨⟨_, tileMaskWrite_locked h val, expertLocked_raises s b⟩, ⟨_, minTilesWrite_locked h val, expertLocked_raises s b⟩⟩

end Sys2Proof.Machine
end

section
/-! PROOFS. Picture processing: a picture that passes through, a job and its end, and the settling of O30 (R89, R180, R181,
R189, R191, R192). -/

namespace Sys2Proof.Machine

/-! ### Registers and units that a job touches -/

/-- A request to a domain writes registers of the power page alone. -/
theorem touchDomain_sameRegs (s : State) (d : Nat) : SameRegs s (touchDomain s d) fun q _ => q = 0x10 := by
  have hwake : ∀ e, SameRegs s (requestWake s e) fun q _ => q = 0x10 := fun e =>
    sameRegs_of_regs ((requestWake_keeps (d := e) (.refl [.doms] s) rfl).regs (by decide))
  unfold touchDomain
  split
  · next h3 =>
    have hd : d < 60 := by
      by_contra hn
      rw [domState, if_neg hn] at h3
      omega
    have hat : F.PWR_DOM_STAT_STATE.at d = 0x100 + 4 * d := rfl
    have hon : SameRegs s (modDom (setDomState s d 2) d ({ · with byCmd := false, down := false })) fun q _ => q = 0x10 :=
      ((SameRegs.refl s fun q _ => q = 0x10).then_fset (p := 0x10) (r := F.PWR_DOM_STAT_STATE) (by omega) rfl 2).then_regs
        (setDomState_regs s d 2)
    unfold endDrain
    dsimp only
    split
    · exact ((hon.then_fset (by decide) rfl _).then_fset (by decide) rfl _).then_setIrq rfl _
    · exact hon
  · exact hwake d

theorem touchDomain_keep (s : State) (d : Nat) : Keeps [.regs, .srcs, .doms] s (touchDomain s d) :=
  touchDomain_keeps (.refl _ s) rfl

/-- What a PPU holds shows in its STATUS alone. -/
theorem setHeld_ppu_sameRegs (s : State) {page : Nat} (hk : kindOf page = .ppu) (h : List Held) :
    SameRegs s (setHeld s page h) fun q o => q = page ∧ o = 0x40 := by
  have hsync : ∀ t : State, SameRegs t (syncUnit t page) fun q o => q = page ∧ o = 0x40 := fun t => by
    unfold syncUnit
    rw [hk]
    exact ((SameRegs.refl t _).then_fset (by decide) ⟨rfl, rfl⟩ _).then_fset (by decide) ⟨rfl, rfl⟩ _
  exact SameRegs.trans (sameRegs_of_regs rfl) (hsync _)

theorem syncOldest_ctxs (s : State) (d : Nat) : (syncOldest s d).ctxs = s.ctxs := rfl

theorem choosePpu_mem {s : State} {d : Nat} {p : LinkPic} {time u : Nat} (h : choosePpu s d p time = some u) : u ∈ ppuPages := by
  unfold choosePpu at h
  have hm := List.mem_of_mem_head? h
  rcases List.mem_append.1 hm with hm | hm
  · have hnear := List.find?_some (Option.mem_toList.1 hm)
    rw [List.contains_iff_mem] at hnear
    have hroom := (List.mem_filter.1 (List.mem_filter.1 hnear).1).1
    split at hroom
    · exact (List.mem_filter.1 hroom).1
    · exact (List.mem_filter.1 (List.mem_filter.1 hroom).1).1
  · have hroom := (List.mem_filter.1 (List.mem_filter.1 hm).1).1
    split at hroom
    · exact (List.mem_filter.1 hroom).1
    · exact (List.mem_filter.1 (List.mem_filter.1 hroom).1).1

/-! ### The queue of a destination -/

/-- The picture that may be issued is neither issued nor ready. -/
theorem of_nextLink {s : State} {d : Nat} {p : LinkPic} (h : nextLink s d = some p) : p.busy = false ∧ p.ready = false := by
  unfold nextLink at h
  split at h
  · cases h
  · next q hq =>
    have hfound := List.find?_some hq
    split at h
    · cases h
      simpa using hfound
    · cases h

theorem linkPics_modLink (s : State) (d : Nat) (p : LinkPic) (f : LinkPic → LinkPic) :
    (getCtx (modLink s d p f) d).linkPics =
      (getCtx s d).linkPics.map fun q => if q.pts = p.pts ∧ !q.ready then f q else q := by
  rw [modLink, getCtx_modCtx]

theorem linkPics_modLink_single {s : State} {d : Nat} {p : LinkPic} (h : (getCtx s d).linkPics = [p]) (hr : p.ready = false)
    (f : LinkPic → LinkPic) : (getCtx (modLink s d p f) d).linkPics = [f p] := by
  rw [linkPics_modLink, h]
  simp [hr]

/-- The only picture of a destination moves on once it is ready; one that a SUBMIT carried enters lookahead. -/
theorem movePics_host {s : State} {d : Nat} {p : LinkPic} (h : (getCtx s d).linkPics = [p]) (hr : p.ready = true)
    (hs : p.src = 256) : movePics s d = enterLookahead (modCtx s d ({ · with linkPics := [] })) d p := by
  unfold movePics moveOne
  simp [h, hr, hs]

/-- A picture in lookahead is queued, and its submission has its planes (R89). -/
theorem lookIn_enters (g : Get) (cut : Bool) (num : Nat) (pix : Picture) (codes : LaCodes) (x : Ctx) :
    (lookIn g cut num pix codes x).linkPics = x.linkPics ∧ (lookIn g cut num pix codes x).queued = x.queued ++ [num] ∧
      ∀ y ∈ (lookIn g cut num pix codes x).submits, y.num = num → y.planes = planesOf g.unit pix := by
  refine ⟨rfl, rfl, fun y hy hnum => ?_⟩
  obtain ⟨u, -, rfl⟩ := List.mem_map.1 hy
  by_cases hu : u.num = num
  · rw [if_pos hu]
  · rw [if_neg hu] at hnum ⊢
    split at hnum
    · exact absurd hnum hu
    · exact absurd hnum hu

theorem enterLookahead_enters (s : State) (d : Nat) (p : LinkPic) :
    (getCtx (enterLookahead s d p) d).linkPics = (getCtx s d).linkPics ∧
      (getCtx (enterLookahead s d p) d).queued = (getCtx s d).queued ++ [p.pic] ∧
      ∀ y ∈ (getCtx (enterLookahead s d p) d).submits, y.num = p.pic → y.planes = planesOf (active s d).unit p.pix := by
  rw [enterLookahead, getCtx_modCtx]
  exact lookIn_enters _ _ _ _ _ _

theorem readerDone_host {s : State} {d : Nat} {p : LinkPic} (h : p.src = 256) : readerDone s d p = s := if_pos h

theorem unit_congr {s t : State} {c : Nat} (h : rget t (ctxPage c) 0x240 = rget s (ctxPage c) 0x240) :
    (active t c).unit = (active s c).unit := by
  have hcodec : active t c F.CTX_CFG_STREAM_CODEC = active s c F.CTX_CFG_STREAM_CODEC := by
    rw [active_of_ne (by decide), active_of_ne (by decide)]
    exact congrArg (bitsOf · _ _) h
  exact congrArg unitSize hcodec

/-! ### A picture for which no job is made -/

theorem passThrough_host {s : State} {d : Nat} {p : LinkPic} (h : (getCtx s d).linkPics = [p]) (hr : p.ready = false)
    (hs : p.src = 256) : passThrough s d p =
      enterLookahead (modCtx (modLink (fset s (ctxPage d) F.CTX_PP_STAT_PASSTHRU 1) d p ({ · with
        busy := true, ready := true, pix := (ppuSource s d p).cur })) d ({ · with linkPics := [] })) d
        { p with busy := true, ready := true, pix := (ppuSource s d p).cur } := by
  unfold passThrough
  dsimp only
  rw [readerDone_host hs]
  exact movePics_host (linkPics_modLink_single (s := fset s (ctxPage d) F.CTX_PP_STAT_PASSTHRU 1) h hr _) rfl hs

theorem passThrough_passes {s : State} {d : Nat} {p : LinkPic} (h : (getCtx s d).linkPics = [p]) (hr : p.ready = false)
    (hs : p.src = 256) : fbit (passThrough s d p) (ctxPage d) F.CTX_PP_STAT_PASSTHRU = true ∧
      (getCtx (passThrough s d p) d).queued = (getCtx s d).queued ++ [p.pic] ∧ (getCtx (passThrough s d p) d).linkPics = [] ∧
      passThrough s d p = { s with regs := (passThrough s d p).regs, ctxs := (passThrough s d p).ctxs } ∧
      SameRegs s (passThrough s d p) fun q o => q = ctxPage d ∧ o = 0x1FC := by
  rw [passThrough_host h hr hs]
  generalize hq : ({ p with busy := true, ready := true, pix := (ppuSource s d p).cur } : LinkPic) = q
  have hpic : q.pic = p.pic := by rw [← hq]
  obtain ⟨hlinks, hqueued, -⟩ := enterLookahead_enters (modCtx (modLink (fset s (ctxPage d) F.CTX_PP_STAT_PASSTHRU 1) d p ({ · with
    busy := true, ready := true, pix := (ppuSource s d p).cur })) d ({ · with linkPics := [] })) d q
  rw [getCtx_modCtx] at hlinks hqueued
  refine ⟨?_, ?_, hlinks, rfl, ?_⟩
  · exact fbit_fsetb_self s (ctxPage d) F.CTX_PP_STAT_PASSTHRU true 0 (by decide) (by decide)
  · rw [hqueued, modLink, getCtx_modCtx, hpic]
    rfl
  · exact ((SameRegs.refl s fun q o => q = ctxPage d ∧ o = 0x1FC).then_fset (by decide) ⟨rfl, rfl⟩ 1).then_regs rfl

/-! ### PPU_JOB_ISSUE -/

theorem ppuJobIssue_none {s : State} {d : Fin 256} (h : nextLink s d = none) (bus : List BusLayer) (failed : List Nat) :
    exec (.ppuJobIssue d bus failed) s = .next s := by
  change execPpuJobIssue d bus failed s = _
  simp [execPpuJobIssue, h]

section issue
variable {s : State} {d : Fin 256} {p : LinkPic} (h : nextLink s d = some p) (bus : List BusLayer) (failed : List Nat)
include h

theorem ppuJobIssue_pass (hj : jobNeeded s d p = false) : exec (.ppuJobIssue d bus failed) s = .next (passThrough s d p) := by
  change execPpuJobIssue d bus failed s = _
  simp [execPpuJobIssue, h, hj]

theorem ppuJobIssue_later (hj : jobNeeded s d p = true) (hf : linkFirst s d p = false) :
    exec (.ppuJobIssue d bus failed) s = .next s := by
  change execPpuJobIssue d bus failed s = _
  simp [execPpuJobIssue, h, hj, hf]

theorem ppuJobIssue_first (hj : jobNeeded s d p = true) (hf : linkFirst s d p = true) {u : Nat}
    (hu : choosePpu s d p (ppuTime s d p (readLayers s d bus failed).1).2 = some u) :
    exec (.ppuJobIssue d bus failed) s =
      .next (issuePpu s d p (readLayers s d bus failed).1 (readLayers s d bus failed).2 u) := by
  change execPpuJobIssue d bus failed s = _
  simp [execPpuJobIssue, h, hj, hf, hu]

end issue

/-! ### A job that is issued -/

/-- The destination's queue once the job of a picture is issued: the picture has its samples, and the table's SEQ is kept
with it, unless an earlier job of the picture was discarded. -/
def jobQueued (s : State) (d : Nat) (p : LinkPic) (layers : List (Layer × List Word)) : State :=
  let t := modLink s d p ({ · with busy := true, pix := ppuPicture (active s d) (ppuSource s d p) layers })
  if (getCtx s d).ppJobs.any fun j => j.1 == p.pts then t
  else modCtx t d fun x => { x with ppJobs := x.ppJobs ++ [(p.pts, fget t (ctxPage d) F.CTX_PP_LAYER_CTL_SEQ)] }

/-- PP_STAT once the job is issued: `bad`, a layer of the table could not be read or drawn. -/
def jobShown (s : State) (d passes : Nat) (bad : Bool) : State :=
  let t := fset (fset s (ctxPage d) F.CTX_PP_STAT_PASSTHRU 0) (ctxPage d) F.CTX_PP_STAT_PASSES passes
  if bad then fset t (ctxPage d) F.CTX_PP_STAT_LAYER_ERR 1 else t

/-- The job as the PPU holds it. -/
def ppuHeld (s : State) (d : Nat) (p : LinkPic) (layers : List (Layer × List Word)) : Held :=
  ⟨.ppu d p.pts, (ppuTime s d p layers).2, s.devtime, true, false, tracker0, run0⟩

section queued
variable (s : State) (d : Nat) (p : LinkPic) (layers : List (Layer × List Word))

theorem jobQueued_keeps {w : List StateField} (hw : within [.ctxs] w = true) : Keeps w s (jobQueued s d p layers) := by
  unfold jobQueued modLink
  exact .ite (modCtx_keeps (.refl _ s) hw) (modCtx_keeps (modCtx_keeps (.refl _ s) hw) hw)

theorem jobQueued_links : (getCtx (jobQueued s d p layers) d).linkPics = (getCtx s d).linkPics.map fun q =>
    if q.pts = p.pts ∧ !q.ready then
      { q with busy := true, pix := ppuPicture (active s d) (ppuSource s d p) layers } else q := by
  unfold jobQueued
  dsimp only
  split
  · exact linkPics_modLink s d p _
  · rw [getCtx_modCtx]
    exact linkPics_modLink s d p _

theorem jobQueued_jobs (h : ∀ j ∈ (getCtx s d).ppJobs, j.1 ≠ p.pts) : (getCtx (jobQueued s d p layers) d).ppJobs =
    (getCtx s d).ppJobs ++ [(p.pts, fget s (ctxPage d) F.CTX_PP_LAYER_CTL_SEQ)] := by
  have hnew : ((getCtx s d).ppJobs.any fun j => j.1 == p.pts) = false := by simpa using h
  unfold jobQueued
  dsimp only
  rw [hnew, if_neg Bool.false_ne_true, getCtx_modCtx, modLink, getCtx_modCtx]
  rfl

end queued

theorem jobShown_keeps {w : List StateField} {a s : State} (h : Keeps w a s) (hw : within [.regs] w = true) (d passes : Nat)
    (bad : Bool) : Keeps w a (jobShown s d passes bad) :=
  have hset : Keeps w a (fset (fset s (ctxPage d) F.CTX_PP_STAT_PASSTHRU 0) (ctxPage d) F.CTX_PP_STAT_PASSES passes) :=
    fset_keeps (fset_keeps h hw) hw
  .ite (fset_keeps hset hw) hset

theorem jobShown_stat (s : State) (d passes : Nat) (bad : Bool) :
    fbit (jobShown s d passes bad) (ctxPage d) F.CTX_PP_STAT_PASSTHRU = false ∧
      (bad = true → fbit (jobShown s d passes bad) (ctxPage d) F.CTX_PP_STAT_LAYER_ERR = true) := by
  have hpass : fbit (fset (fset s (ctxPage d) F.CTX_PP_STAT_PASSTHRU 0) (ctxPage d) F.CTX_PP_STAT_PASSES passes) (ctxPage d)
      F.CTX_PP_STAT_PASSTHRU = false := by
    rw [fbit, fget_fset_apart _ _ _ _ _ _ (by decide)]
    exact fbit_fsetb_self s (ctxPage d) F.CTX_PP_STAT_PASSTHRU false 0 (by decide) (by decide)
  unfold jobShown
  dsimp only
  cases bad with
  | false => exact ⟨hpass, fun h => absurd h Bool.false_ne_true⟩
  | true =>
    rw [if_pos rfl]
    refine ⟨?_, fun _ => fbit_fsetb_self _ (ctxPage d) F.CTX_PP_STAT_LAYER_ERR true 0 (by decide) (by decide)⟩
    rw [fbit, fget_fset_apart _ _ _ _ _ _ (by decide)]
    exact hpass

section issued
variable (s : State) (d : Nat) (p : LinkPic) (layers : List (Layer × List Word)) (failed : Bool) (u : Nat)

/-- The state in which PP_STAT shows the job that a PPU is to hold. -/
def beforeHeld : State := jobShown (jobQueued s d p layers) d ((ppuTime s d p layers).1 - 1)
  (failed || layers.any fun l => l.1.enable && !l.1.ok)

theorem beforeHeld_keep : Keeps [.regs, .ctxs] s (beforeHeld s d p layers failed) :=
  jobShown_keeps (jobQueued_keeps s d p layers rfl) rfl d _ _

theorem issuePpu_eq : issuePpu s d p layers failed u =
    touchDomain (syncOldest (setHeld (beforeHeld s d p layers failed) u [ppuHeld s d p layers]) d) (domainOf u) := by
  have hissue : issuePpu s d p layers failed u = touchDomain (syncOldest (setHeld (beforeHeld s d p layers failed) u
      [{ ppuHeld s d p layers with start := (beforeHeld s d p layers failed).devtime }]) d) (domainOf u) := rfl
  rw [hissue, (beforeHeld_keep s d p layers failed).devtime (by decide)]
  rfl

theorem getCtx_issuePpu : getCtx (issuePpu s d p layers failed u) d = getCtx (jobQueued s d p layers) d := by
  have hctxs : (issuePpu s d p layers failed u).ctxs = (beforeHeld s d p layers failed).ctxs := by
    rw [issuePpu_eq, (touchDomain_keep _ _).ctxs (by decide), syncOldest_ctxs, setHeld_ctxs]
  rw [getCtx_congr hctxs, beforeHeld, getCtx_congr ((jobShown_keeps (.refl [.regs] (jobQueued s d p layers)) rfl d _ _).ctxs (by decide))]

theorem held_issuePpu : (getEng (issuePpu s d p layers failed u) u).held = [ppuHeld s d p layers] := by
  have hsync : (syncOldest (setHeld (beforeHeld s d p layers failed) u [ppuHeld s d p layers]) d).engines =
    (setHeld (beforeHeld s d p layers failed) u [ppuHeld s d p layers]).engines := rfl
  rw [issuePpu_eq, getEng_congr ((touchDomain_keep _ _).engines (by decide)), getEng_congr hsync, held_setHeld]

/-- Nothing after PP_STAT shows the job changes another field of it than OLDEST. -/
theorem fbit_issuePpu (hu : u ∈ ppuPages) (r : Row) (hr : r.at 0 < 4096 ∧ apart F.CTX_PP_STAT_OLDEST r = true) :
    fbit (issuePpu s d p layers failed u) (ctxPage d) r = fbit (beforeHeld s d p layers failed) (ctxPage d) r := by
  have hpage : ctxPage d ≠ u ∧ ctxPage d ≠ 0x10 := by
    have hlt : ∀ q ∈ ppuPages, q < 0x400 := by decide
    have := hlt u hu
    unfold ctxPage
    omega
  rw [issuePpu_eq, (touchDomain_sameRegs _ _).fbit hr.1 hpage.2, fbit, syncOldest, fget_fset_apart _ _ _ _ _ _ hr.2,
    (setHeld_sameRegs _ _ _).fget hr.1 hpage.1]
  rfl

theorem issuePpu_issues (hu : u ∈ ppuPages) :
    fbit (issuePpu s d p layers failed u) (ctxPage d) F.CTX_PP_STAT_PASSTHRU = false ∧
      (∀ q ∈ (getCtx (issuePpu s d p layers failed u) d).linkPics, q.pts = p.pts → q.ready = false →
        q.pix = ppuPicture (active s d) (ppuSource s d p) layers) ∧
      (getEng (issuePpu s d p layers failed u) u).held = [ppuHeld s d p layers] ∧
      (failed = true → fbit (issuePpu s d p layers failed u) (ctxPage d) F.CTX_PP_STAT_LAYER_ERR = true) ∧
      ((∀ j ∈ (getCtx s d).ppJobs, j.1 ≠ p.pts) → (getCtx (issuePpu s d p layers failed u) d).ppJobs =
        (getCtx s d).ppJobs ++ [(p.pts, fget s (ctxPage d) F.CTX_PP_LAYER_CTL_SEQ)]) := by
  obtain ⟨hpass, herr⟩ := jobShown_stat (jobQueued s d p layers) d ((ppuTime s d p layers).1 - 1)
    (failed || layers.any fun l => l.1.enable && !l.1.ok)
  refine ⟨?_, fun q hq hpts hready => ?_, held_issuePpu s d p layers failed u, fun hf => ?_, fun hj => ?_⟩
  · rw [fbit_issuePpu s d p layers failed u hu _ (by decide)]
    exact hpass
  · rw [getCtx_issuePpu, jobQueued_links] at hq
    obtain ⟨y, -, rfl⟩ := List.mem_map.1 hq
    by_cases hy : y.pts = p.pts ∧ !y.ready
    · rw [if_pos hy]
    · rw [if_neg hy] at hpts hready
      exact absurd ⟨hpts, by simp [hready]⟩ hy
  · rw [fbit_issuePpu s d p layers failed u hu _ (by decide)]
    exact herr (by simp [hf])
  · rw [getCtx_issuePpu, jobQueued_jobs s d p layers hj]

end issued

/-! ### PPU_JOB_COMPLETE -/

theorem ppuPage_facts : ∀ u : Fin 8, kindOf (ppuPage u) = .ppu ∧ ppuPage u < 0x400 := by decide

theorem ppuJobComplete_eq {u : Fin 8} {s : State} {h : Held} {rest : List Held} {d pts : Nat}
    (hh : (getEng s (ppuPage u)).held = h :: rest) (hj : h.job = .ppu d pts) (hd : domOn s (domainOf (ppuPage u)) = true)
    (hr : blkReady s (ppuPage u) = true) : exec (.ppuJobComplete u) s = .next (ppuDone s (ppuPage u) u d pts) := by
  change execPpuJobComplete u s = _
  simp [execPpuJobComplete, hh, hj, hd, hr]

/-- The state in which a job has left its PPU, before its picture moves on. -/
def jobLeft (s : State) (page n d pts : Nat) : State :=
  syncOldest (modCtx (setHeld (retiredOn (countEv (countEv (fadd s page F.PPU_CNT_JOB_COUNT 1) (464 + 4 * n + 2) 1)
    (464 + 4 * n + 3) ((active s d).w * (active s d).h)) d page) page []) d fun x => { x with
      ppJobs := x.ppJobs.filter fun j => j.1 != pts }) d

section left
variable (s : State) (page n d pts : Nat)

theorem ppuDone_eq : ppuDone s page n d pts =
    match (getCtx (jobLeft s page n d pts) d).linkPics.find? fun p => p.pts == pts && p.busy && !p.ready with
    | none => jobLeft s page n d pts
    | some p => readerDone (movePics (modLink (jobLeft s page n d pts) d p ({ · with ready := true })) d) d p := rfl

theorem getCtx_jobLeft : (getCtx (jobLeft s page n d pts) d).linkPics = (getCtx s d).linkPics ∧
    (getCtx (jobLeft s page n d pts) d).queued = (getCtx s d).queued := by
  have hretired : ∀ t : State, getCtx (retiredOn t d page) d =
      { getCtx t d with lastOn := page :: (getCtx t d).lastOn.filter (· != page) } := fun t => getCtx_modCtx t d _
  have hcount : ∀ t : State, t.ctxs = s.ctxs → getCtx t d = getCtx s d := fun t ht => getCtx_congr ht d
  rw [jobLeft, getCtx_congr (syncOldest_ctxs _ _), getCtx_modCtx, getCtx_congr (setHeld_ctxs _ _ _), hretired, hcount _ rfl]
  exact ⟨rfl, rfl⟩

theorem jobLeft_mem : (jobLeft s page n d pts).mem = s.mem :=
  setHeld_mem (retiredOn (countEv (countEv (fadd s page F.PPU_CNT_JOB_COUNT 1) (464 + 4 * n + 2) 1)
    (464 + 4 * n + 3) ((active s d).w * (active s d).h)) d page) page []

theorem held_jobLeft : (getEng (jobLeft s page n d pts) page).held = [] :=
  held_setHeld (retiredOn (countEv (countEv (fadd s page F.PPU_CNT_JOB_COUNT 1) (464 + 4 * n + 2) 1)
    (464 + 4 * n + 3) ((active s d).w * (active s d).h)) d page) page []

theorem jobLeft_sameRegs (hk : kindOf page = .ppu) : SameRegs (fadd s page F.PPU_CNT_JOB_COUNT 1) (jobLeft s page n d pts)
    fun q o => q = page ∧ o = 0x40 ∨ q = ctxPage d ∧ o = 0x1FC := by
  have hcounted : SameRegs (fadd s page F.PPU_CNT_JOB_COUNT 1) (retiredOn (countEv (countEv (fadd s page F.PPU_CNT_JOB_COUNT 1)
      (464 + 4 * n + 2) 1) (464 + 4 * n + 3) ((active s d).w * (active s d).h)) d page) fun q o => q = page ∧ o = 0x40 :=
    sameRegs_of_regs rfl
  have hheld := (hcounted.trans (setHeld_ppu_sameRegs _ hk [])).mono fun q o h =>
    (.inl h : q = page ∧ o = 0x40 ∨ q = ctxPage d ∧ o = 0x1FC)
  exact (hheld.then_regs (modCtx_regs _ d _)).then_fset (by decide) (.inr ⟨rfl, rfl⟩) _

end left

theorem ppuDone_host {s : State} {page n d : Nat} {p : LinkPic} (h : (getCtx s d).linkPics = [p]) (hb : p.busy = true)
    (hr : p.ready = false) (hs : p.src = 256) : ppuDone s page n d p.pts =
      enterLookahead (modCtx (modLink (jobLeft s page n d p.pts) d p ({ · with ready := true })) d ({ · with linkPics := [] })) d
        { p with ready := true } := by
  have hlinks := (getCtx_jobLeft s page n d p.pts).1.trans h
  have hfind : ([p].find? fun q => q.pts == p.pts && q.busy && !q.ready) = some p := by simp [hb, hr]
  rw [ppuDone_eq, hlinks, hfind]
  dsimp only
  rw [readerDone_host hs]
  exact movePics_host (linkPics_modLink_single hlinks hr _) rfl hs

theorem ppuDone_completes {s : State} {page n d : Nat} {p : LinkPic} (hk : kindOf page = .ppu) (hpage : page < 0x400)
    (h : (getCtx s d).linkPics = [p]) (hb : p.busy = true) (hr : p.ready = false) (hs : p.src = 256) :
    (ppuDone s page n d p.pts).mem = s.mem ∧ (getEng (ppuDone s page n d p.pts) page).held = [] ∧
      fget (ppuDone s page n d p.pts) page F.PPU_CNT_JOB_COUNT = (fget s page F.PPU_CNT_JOB_COUNT + 1) % 2 ^ 32 ∧
      (getCtx (ppuDone s page n d p.pts) d).linkPics = [] ∧
      (getCtx (ppuDone s page n d p.pts) d).queued = (getCtx s d).queued ++ [p.pic] ∧
      ∀ y ∈ (getCtx (ppuDone s page n d p.pts) d).submits, y.num = p.pic → y.planes = planesOf (active s d).unit p.pix := by
  have hregs := jobLeft_sameRegs s page n d p.pts hk
  have hpages : ctxPage d ≠ page := by unfold ctxPage; omega
  have hcount : ¬(page = page ∧ F.PPU_CNT_JOB_COUNT.at 0 = 0x40 ∨ page = ctxPage d ∧ F.PPU_CNT_JOB_COUNT.at 0 = 0x1FC) := by
    rintro (⟨-, e⟩ | ⟨e, -⟩)
    · exact absurd e (by decide)
    · exact hpages e.symm
  rw [ppuDone_host h hb hr hs]
  generalize hv : modCtx (modLink (jobLeft s page n d p.pts) d p ({ · with ready := true })) d ({ · with linkPics := [] }) = v
  have hvregs : v.regs = (jobLeft s page n d p.pts).regs := by rw [← hv]; rfl
  have hvctx : getCtx v d = { getCtx (modLink (jobLeft s page n d p.pts) d p ({ · with ready := true })) d with
      linkPics := [] } := by rw [← hv, getCtx_modCtx]
  obtain ⟨hlinks, hqueued, hplanes⟩ := enterLookahead_enters v d { p with ready := true }
  have hunit : (active v d).unit = (active s d).unit := unit_congr (by
    rw [rget_congr hvregs, hregs _ _ (by decide) (by omega)]
    exact rget_fset_ne _ _ _ _ _ _ _ (regKey_ne (by decide) (by decide) fun e => hpages e.1))
  refine ⟨?_, ?_, ?_, ?_, ?_, ?_⟩
  · have hmem : (enterLookahead v d { p with ready := true }).mem = (jobLeft s page n d p.pts).mem := by rw [← hv]; rfl
    rw [hmem, jobLeft_mem]
  · have hengines : (enterLookahead v d { p with ready := true }).engines = (jobLeft s page n d p.pts).engines := by
      rw [← hv]; rfl
    rw [getEng_congr hengines, held_jobLeft]
  · have henter : (enterLookahead v d { p with ready := true }).regs = v.regs := rfl
    rw [fget_congr henter, fget_congr hvregs, hregs.fget (by decide) hcount]
    exact fget_fset_self _ _ _ _ _ (by decide)
  · rw [hlinks, hvctx]
  · rw [hqueued, hvctx, modLink, getCtx_modCtx, (getCtx_jobLeft s page n d p.pts).2]
  · rw [← hunit]
    exact hplanes

/-! ### The statement -/

/-- Settles O30: a picture passes through, waits, or has its job issued, and moves on when its job ends. -/
theorem pictureJobs : Obligations.PictureJobs := by
  unfold Obligations.PictureJobs
  refine ⟨fun d bus failed s => ⟨fun hn => ⟨s, ppuJobIssue_none hn bus failed, rfl⟩, fun p hp => ⟨fun hj hs hl => ?_,
    fun hj hf => ⟨s, ppuJobIssue_later hp bus failed hj hf, rfl⟩, fun u hj hf hu => ?_⟩⟩,
    fun u s h rest d p hh hjob hd hr hl hb hready hs => ?_⟩
  · exact ⟨_, ppuJobIssue_pass hp bus failed hj, passThrough_passes hl (of_nextLink hp).2 hs⟩
  · have hexec := ppuJobIssue_first hp bus failed hj hf hu
    exact ⟨_, hexec, (issuePpu_keeps (.refl [.regs, .ctxs, .engines, .srcs, .doms] s) rfl).mem (by decide),
      issuePpu_issues s d p _ _ u (choosePpu_mem hu)⟩
  · have hexec := ppuJobComplete_eq hh hjob hd hr
    obtain ⟨hk, hpage⟩ := ppuPage_facts u
    exact ⟨_, hexec, ppuDone_completes hk hpage hl hb hready hs⟩

end Sys2Proof.Machine
end

section
/-! PROOFS. PLACE_WORK: the engine chosen takes the item (R161, R164). -/

namespace Sys2Proof.Machine

/-! ### One item -/

/-- An item that no engine takes waits. -/
theorem placeOne_waits {s : State} {k : EngKind} {x : Item} (h : chooseEngine s k x = none) : placeOne k s x = s := by
  rw [placeOne, h]

/-- An item that is not a LIVE segment past its deadline goes to its engine, and no picture is dropped for it. -/
theorem placeOne_gives {s : State} {k : EngKind} {x : Item} {page fin : Nat} (h : chooseEngine s k x = some (page, fin))
    (hok : k = .de ∨ x.live = false ∨ isSegment x.job = false ∨ fin ≤ x.due) : placeOne k s x = giveItem s k x page := by
  have hkept : ¬(k = .ee ∧ x.live = true ∧ isSegment x.job = true ∧ x.due < fin) := by
    rintro ⟨rfl, hlive, hseg, hlate⟩
    obtain hk | hl | hj | hf := hok
    · cases hk
    · rw [hlive] at hl
      cases hl
    · rw [hseg] at hj
      cases hj
    · omega
  rw [placeOne, h]
  exact if_neg hkept

/-- An item as its engine holds it from now on. -/
def givenHeld (s : State) (k : EngKind) (x : Item) (page : Nat) : Held :=
  ⟨x.job, itemTime s k page x, s.devtime, k == .de || isLookahead x.job, isLookahead x.job, tracker0, run0⟩

theorem givenHeld_start (s : State) (k : EngKind) (x : Item) (page : Nat) : (givenHeld s k x page).start = s.devtime := rfl

theorem held_giveItem (s : State) (k : EngKind) (x : Item) (page : Nat) :
    (getEng (giveItem s k x page) page).held = (getEng s page).held ++ [givenHeld s k x page] := by
  rw [giveItem, ← givenHeld, getEng_congr ((touchDomain_keep _ _).engines (by decide)),
    getEng_congr ((markPlaced_keeps (.refl [.ctxs] _) rfl).engines (by decide)), held_setHeld]

/-! ### The command -/

/-- The state in which the dispatcher goes through the eligible work. -/
def placing (s : State) : State := syncPins (endLookaheads s)

theorem placing_keep (s : State) : Keeps [.free, .regs, .ctxs, .engines, .srcs, .doms, .perf] s (placing s) :=
  syncPins_keeps (endLookaheads_keeps (.refl _ s) rfl) rfl

theorem giveItem_mem (s : State) (k : EngKind) (x : Item) (page : Nat) : (giveItem s k x page).mem = s.mem :=
  (giveItem_keeps (.refl [.regs, .ctxs, .engines, .srcs, .doms] s) rfl).mem (by decide)

theorem exec_placeWork (kind : EngKind) (s : State) :
    exec (.placeWork kind) s = .next ((itemsOf (placing s) kind).foldl (placeOne kind) (placing s)) := rfl

section placed
variable {kind : EngKind} {s : State} {x : Item}

theorem exec_placeWork_nil (h : itemsOf (placing s) kind = []) : exec (.placeWork kind) s = .next (placing s) := by
  rw [exec_placeWork, h, List.foldl_nil]

theorem exec_placeWork_single (h : itemsOf (placing s) kind = [x]) :
    exec (.placeWork kind) s = .next (placeOne kind (placing s) x) := by
  rw [exec_placeWork, h, List.foldl_cons, List.foldl_nil]

/-- The engine chosen for the only item holds it last, from now on and for its estimated time. -/
theorem placeWork_joins (h : itemsOf (placing s) kind = [x]) {page fin : Nat}
    (hc : chooseEngine (placing s) kind x = some (page, fin))
    (hok : kind = .de ∨ x.live = false ∨ isSegment x.job = false ∨ fin ≤ x.due) : Does (.placeWork kind) s fun t =>
      t.mem = s.mem ∧ ∃ y, (getEng t page).held = (getEng (placing s) page).held ++ [y] ∧ y.job = x.job ∧
        y.start = s.devtime ∧ y.est = itemTime (placing s) kind page x := by
  have hexec := exec_placeWork_single h
  rw [placeOne_gives hc hok] at hexec
  refine ⟨_, hexec, ?_, ?_⟩
  · rw [giveItem_mem, (placing_keep s).mem (by decide)]
  · exact ⟨givenHeld (placing s) kind x page, held_giveItem _ _ _ _, rfl,
      (givenHeld_start _ _ _ _).trans ((placing_keep s).devtime (by decide)), rfl⟩

end placed

end Sys2Proof.Machine
end

section
/-! PROOFS. Overload: the bits that a window sets, the step that follows, and the undoing of steps (R126, R127, R129,
R179). -/

namespace Sys2Proof.Machine

/-! ### RC_STAT -/

/-- RC_STAT is written on the pages of contexts alone. -/
theorem syncShed_sameRegs (s : State) (c : Nat) (four : Bool) : SameRegs s (syncShed s c four) fun q _ => 0x400 ≤ q := by
  have hc : 0x400 ≤ ctxPage c := by unfold ctxPage; omega
  have hflags := (((SameRegs.refl s fun q _ => 0x400 ≤ q).then_fset (r := F.CTX_RC_STAT_THROTTLED) (i := 0) (by decide) hc
    (if throttled s c then 1 else 0)).then_fset (r := F.CTX_RC_STAT_LA_CUT) (i := 0) (by decide) hc
    (if (getCtx s c).laCut then 1 else 0)).then_fset (r := F.CTX_RC_STAT_EFFORT_CUT) (i := 0) (by decide) hc
    (if (getCtx s c).effCut != 0 then 1 else 0)
  exact (hflags.then_fset (r := F.CTX_RC_STAT_STEP) (i := 0) (by decide) hc _).trans
    ((syncDerived_sameRegs _ c).mono fun q o h => by rw [h.1]; exact hc)

theorem syncSheds_sameRegs (s : State) : SameRegs s (syncSheds s) fun q _ => 0x400 ≤ q := by
  refine (SameRegs.refl s _).foldl fun u c _ => ?_
  split
  · exact syncShed_sameRegs u c _
  · exact .refl u _

theorem syncSheds_disp (s : State) : (syncSheds s).disp = s.disp :=
  (syncSheds_keeps (.refl [.regs] s) rfl).disp (by decide)

theorem syncSheds_mem (s : State) : (syncSheds s).mem = s.mem :=
  (syncSheds_keeps (.refl [.regs] s) rfl).mem (by decide)

/-! ### The next act of shedding -/

theorem shedNext_disp (s : State) (shared : Bool) :
    ∃ step cls last, (shedNext s shared).disp = { s.disp with step := step, cls := cls, lastStep := last } := by
  have hla : ∀ t, (cutLa t).disp = t.disp := fun t => (cutLa_keeps (.refl [.ctxs] t) rfl).disp (by decide)
  have heffort : ∀ t, (cutEffort t).disp = t.disp := fun t => (cutEffort_keeps (.refl [.ctxs] t) rfl).disp (by decide)
  unfold shedNext
  dsimp only
  split
  · exact ⟨_, _, _, rfl⟩
  split
  · exact ⟨_, _, _, rfl⟩
  split
  · exact ⟨_, _, _, hla _⟩
  split
  · split
    · exact ⟨_, _, _, hla _⟩
    · exact ⟨_, _, _, heffort _⟩
  · exact ⟨_, _, _, heffort _⟩

/-- The first act is step 1, whichever units are overloaded. -/
theorem shedNext_first {s : State} (h : s.disp.step = 0) (shared : Bool) : shedNext s shared = setStep s 1 0 := if_pos h

theorem shedNext_keep (s : State) (shared : Bool) : Keeps [.ctxs, .disp] s (shedNext s shared) :=
  shedNext_keeps (.refl _ s) rfl

/-! ### The end of a window -/

/-- The four overload bits of PLACE_STAT. -/
def setOvl (s : State) (ee de mica dram : Bool) : State :=
  fsetb (fsetb (fsetb (fsetb s 0 F.CHIP_PLACE_STAT_OVL_EE ee) 0 F.CHIP_PLACE_STAT_OVL_DE de) 0 F.CHIP_PLACE_STAT_OVL_MICA mica)
    0 F.CHIP_PLACE_STAT_OVL_DRAM dram

/-- The overload bits are set, and told where one of them has changed. -/
def tellOvl (s : State) (ee de mica dram : Bool) : State :=
  if bitsOf (rget (setOvl s ee de mica dram) 0 F.CHIP_PLACE_STAT_OVL_EE.off) 16 4 =
      bitsOf (rget s 0 F.CHIP_PLACE_STAT_OVL_EE.off) 16 4 then setOvl s ee de mica dram
  else setIrq (setOvl s ee de mica dram) 0 (2 ^ 10)

/-- The next window begins; `last` is the time of the last overload before it. -/
def newWindow (s : State) (high : Bool) (last : Nat) : State :=
  { s with disp := { s.disp with
    winStart := s.devtime / 10 ^ 8 * 10 ^ 8, jobsEnded := 0, jobsFell := 0, lateEe := false, lateDe := false, waivedDe := false
    lastOvl := if high then s.devtime else last } }

/-- A window that has measured these overloads is over. -/
def endWindow (s : State) (ee de mica dram : Bool) : State :=
  let high := ee || de || mica || dram
  let t := newWindow (tellOvl s ee de mica dram) high s.disp.lastOvl
  syncSheds (if high then shedNext t (mica || dram) else t)

theorem fbit_fsetb_apart (s : State) (p : Nat) (r : Row) (b : Bool) {r' : Row} (h : apart r r' = true) :
    fbit (fsetb s p r b) p r' = fbit s p r' := by
  rw [fbit, fsetb, fget_fset_apart _ _ _ _ _ _ h, fbit]

theorem setOvl_bits (s : State) (ee de mica dram : Bool) :
    let t := setOvl s ee de mica dram
    fbit t 0 F.CHIP_PLACE_STAT_OVL_EE = ee ∧ fbit t 0 F.CHIP_PLACE_STAT_OVL_DE = de ∧
      fbit t 0 F.CHIP_PLACE_STAT_OVL_MICA = mica ∧ fbit t 0 F.CHIP_PLACE_STAT_OVL_DRAM = dram := by
  have hself : ∀ (t : State) (r : Row) (b : Bool), r.lo + r.width ≤ 32 → 0 < r.width → fbit (fsetb t 0 r b) 0 r = b :=
    fun t r b => fbit_fsetb_self t 0 r b 0
  refine ⟨?_, ?_, ?_, ?_⟩ <;> unfold setOvl
  · rw [fbit_fsetb_apart _ _ _ _ (by decide), fbit_fsetb_apart _ _ _ _ (by decide), fbit_fsetb_apart _ _ _ _ (by decide),
      hself _ _ _ (by decide) (by decide)]
  · rw [fbit_fsetb_apart _ _ _ _ (by decide), fbit_fsetb_apart _ _ _ _ (by decide), hself _ _ _ (by decide) (by decide)]
  · rw [fbit_fsetb_apart _ _ _ _ (by decide), hself _ _ _ (by decide) (by decide)]
  · rw [hself _ _ _ (by decide) (by decide)]

section window
variable (s : State) (ee de mica dram : Bool)

/-- Telling of the overload writes the register of causes alone. -/
theorem tellOvl_sameRegs : SameRegs (setOvl s ee de mica dram) (tellOvl s ee de mica dram) fun q o => q = 0 ∧ o = 0x2C := by
  unfold tellOvl
  split
  · exact .refl _ _
  · exact (SameRegs.refl _ _).then_setIrq ⟨rfl, rfl⟩ _

theorem tellOvl_keep : Keeps [.regs, .srcs] s (tellOvl s ee de mica dram) := by
  have hset : Keeps [.regs, .srcs] s (setOvl s ee de mica dram) :=
    fsetb_keeps (fsetb_keeps (fsetb_keeps (fsetb_keeps (.refl _ s) rfl) rfl) rfl) rfl
  exact .ite hset (setIrq_keeps hset rfl)

theorem endWindow_sameRegs :
    SameRegs (setOvl s ee de mica dram) (endWindow s ee de mica dram) fun q o => q = 0 ∧ o = 0x2C ∨ 0x400 ≤ q := by
  have htold := (tellOvl_sameRegs s ee de mica dram).mono (hit' := fun q o => q = 0 ∧ o = 0x2C ∨ 0x400 ≤ q) fun _ _ h => .inl h
  have hacted : ∀ (t : State) (high shared : Bool), (if high then shedNext t shared else t).regs = t.regs := by
    intro t high shared
    split
    · exact (shedNext_keep t shared).regs (by decide)
    · rfl
  exact (htold.then_regs (hacted (newWindow _ _ _) _ _)).trans ((syncSheds_sameRegs _).mono fun _ _ h => .inr h)

theorem endWindow_bits :
    let t := endWindow s ee de mica dram
    fbit t 0 F.CHIP_PLACE_STAT_OVL_EE = ee ∧ fbit t 0 F.CHIP_PLACE_STAT_OVL_DE = de ∧
      fbit t 0 F.CHIP_PLACE_STAT_OVL_MICA = mica ∧ fbit t 0 F.CHIP_PLACE_STAT_OVL_DRAM = dram := by
  intro t
  have hkept : ∀ r : Row, r.at 0 < 4096 → r.at 0 ≠ 0x2C → fbit t 0 r = fbit (setOvl s ee de mica dram) 0 r :=
    fun r ho hne => (endWindow_sameRegs s ee de mica dram).fbit ho (by omega)
  rw [hkept _ (by decide) (by decide), hkept _ (by decide) (by decide), hkept _ (by decide) (by decide),
    hkept _ (by decide) (by decide)]
  exact setOvl_bits s ee de mica dram

theorem endWindow_mem : (endWindow s ee de mica dram).mem = s.mem := by
  have htold := (tellOvl_keep s ee de mica dram).mem (by decide)
  unfold endWindow
  dsimp only
  rw [syncSheds_mem]
  split
  · exact ((shedNext_keep _ _).mem (by decide)).trans htold
  · exact htold

theorem newWindow_told_disp (high : Bool) : (newWindow (tellOvl s ee de mica dram) high s.disp.lastOvl).disp = { s.disp with
    winStart := s.devtime / 10 ^ 8 * 10 ^ 8, jobsEnded := 0, jobsFell := 0, lateEe := false, lateDe := false, waivedDe := false
    lastOvl := if high then s.devtime else s.disp.lastOvl } := by
  have hkeep := tellOvl_keep s ee de mica dram
  rw [newWindow, hkeep.devtime (by decide), hkeep.disp (by decide)]

variable {s ee de mica dram}

/-- Without overload the dispatcher goes on as it is, in a new window. -/
theorem endWindow_disp_low (h : (ee || de || mica || dram) = false) : (endWindow s ee de mica dram).disp = { s.disp with
    winStart := s.devtime / 10 ^ 8 * 10 ^ 8, jobsEnded := 0, jobsFell := 0, lateEe := false, lateDe := false
    waivedDe := false } := by
  rw [endWindow, h]
  exact (syncSheds_disp _).trans (newWindow_told_disp s ee de mica dram false)

/-- With overload the next act of shedding follows in the new window. -/
theorem endWindow_disp_high (h : (ee || de || mica || dram) = true) : (endWindow s ee de mica dram).disp =
    (shedNext (newWindow (tellOvl s ee de mica dram) true s.disp.lastOvl) (mica || dram)).disp := by
  rw [endWindow, h]
  exact syncSheds_disp _

end window

/-! ### The commands -/

/-- OVERLOAD_WINDOW within its window. -/
theorem exec_overloadWindow_early (w : Window) {s : State} (h : s.devtime < s.disp.winStart + 10 ^ 8) :
    exec (.overloadWindow w) s = .next s := if_pos h

/-- OVERLOAD_WINDOW at the end of its window. -/
theorem exec_overloadWindow_over (w : Window) {s : State} (h : s.disp.winStart + 10 ^ 8 ≤ s.devtime) :
    let pct := fget s 0 F.CHIP_PLACE_XCTL_BUSY_PCT
    exec (.overloadWindow w) s = .next (endWindow s
      (decide (pct * w.eeSlots < 100 * w.eeWork) || s.disp.lateEe)
      (decide (pct * w.deSlots < 100 * w.deWork) || s.disp.waivedDe || s.disp.lateDe)
      (decide (s.disp.jobsEnded < 100 * s.disp.jobsFell)) (decide (w.eeSlots < 10 * w.dramWait))) := by
  exact if_neg (by omega)

/-- A new window, with the act of shedding that an overload brings. -/
theorem endWindow_opens (s : State) (ee de mica dram : Bool) :
    let t := endWindow s ee de mica dram
    t.disp.winStart = s.devtime / 10 ^ 8 * 10 ^ 8 ∧ t.disp.jobsEnded = 0 ∧ t.disp.jobsFell = 0 ∧ t.disp.lateEe = false ∧
      t.mem = s.mem ∧
      ((ee || de || mica || dram) = false → t.disp.step = s.disp.step ∧ t.disp.lastOvl = s.disp.lastOvl) ∧
      ((ee || de || mica || dram) = true → t.disp.lastOvl = s.devtime ∧ (s.disp.step = 0 → t.disp.step = 1)) := by
  intro t
  have hmem : t.mem = s.mem := endWindow_mem s ee de mica dram
  cases hhigh : ee || de || mica || dram with
  | false =>
    have hdisp : t.disp = _ := endWindow_disp_low hhigh
    rw [hdisp]
    exact ⟨rfl, rfl, rfl, rfl, hmem, fun _ => ⟨rfl, rfl⟩, fun h => absurd h Bool.false_ne_true⟩
  | true =>
    have hdisp : t.disp = _ := endWindow_disp_high hhigh
    have hnew := newWindow_told_disp s ee de mica dram true
    have hfirst : s.disp.step = 0 → t.disp.step = 1 := fun h => by
      rw [hdisp, shedNext_first (by rw [hnew]; exact h)]
      rfl
    obtain ⟨step, cls, last, hact⟩ := shedNext_disp (newWindow (tellOvl s ee de mica dram) true s.disp.lastOvl) (mica || dram)
    rw [hact, hnew] at hdisp
    refine ⟨?_, ?_, ?_, ?_, hmem, fun h => absurd h.symm Bool.false_ne_true, fun _ => ⟨?_, hfirst⟩⟩ <;> rw [hdisp]
    rfl

/-! ### Undoing -/

/-- Where step 4 shows, undoing it leaves the dispatcher as it was. -/
theorem undoStep_four {s : State} (h : (s.ctxs.any fun kv => stepFour s kv.1) = true) : (undoStep s).disp = s.disp := by
  rw [undoStep, if_pos h]
  refine (eachCtx_keeps (.refl [.regs] s) rfl fun t c ht => ?_).disp (by decide)
  split
  · exact syncShed_keeps ht rfl
  · exact ht

/-- Otherwise the step in force gives way to the one before it. -/
theorem undoStep_step {s : State} (h : (s.ctxs.any fun kv => stepFour s kv.1) = false) (h3 : s.disp.step ≤ 3) :
    (undoStep s).disp.step = s.disp.step - 1 := by
  rw [undoStep, if_neg (by rw [h]; exact Bool.false_ne_true)]
  obtain h0 | h0 | h0 | h0 : s.disp.step = 0 ∨ s.disp.step = 1 ∨ s.disp.step = 2 ∨ s.disp.step = 3 := by omega
  all_goals rw [h0]; rfl

theorem exec_shedUndo_early {s : State} (h : s.devtime < s.disp.lastOvl + 10 ^ 9 ∨ s.devtime < s.disp.lastUndo + 10 ^ 9) :
    exec .shedUndo s = .next s := if_pos h

theorem exec_shedUndo_late {s : State} (ho : s.disp.lastOvl + 10 ^ 9 ≤ s.devtime) (hu : s.disp.lastUndo + 10 ^ 9 ≤ s.devtime) :
    exec .shedUndo s = .next (syncSheds { (undoStep s) with disp := { (undoStep s).disp with lastUndo := s.devtime } }) :=
  if_neg (by omega)

/-- What SHED_UNDO leaves when it undoes a step. -/
theorem shedUndo_undoes (s : State) :
    let t := syncSheds { (undoStep s) with disp := { (undoStep s).disp with lastUndo := s.devtime } }
    t.disp.lastUndo = s.devtime ∧ t.mem = s.mem ∧
      ((s.ctxs.any fun kv => stepFour s kv.1) = true → t.disp.step = s.disp.step) ∧
      ((s.ctxs.any fun kv => stepFour s kv.1) = false → s.disp.step ≤ 3 → t.disp.step = s.disp.step - 1) := by
  intro t
  have hdisp : t.disp = { (undoStep s).disp with lastUndo := s.devtime } := syncSheds_disp _
  have hmem : t.mem = s.mem :=
    (syncSheds_mem _).trans ((undoStep_keeps (.refl [.regs, .ctxs, .disp] s) rfl).mem (by decide))
  rw [hdisp]
  exact ⟨rfl, hmem, fun h => by rw [undoStep_four h], undoStep_step⟩

end Sys2Proof.Machine
end

section
/-! PROOFS. VERIFY_WAIVE: a segment of a picture that another segment holds back clears, and nothing commits (R170, R173). -/

namespace Sys2Proof.Machine

/-! ### A picture that waits for a segment -/

/-- A picture under GUARD PICTURE, not done, whose segment `i` runs. -/
def heldBack (i : Nat) (p : Pic) : Prop :=
  p.guardLv = 3 ∧ p.done = false ∧ p.sent = false ∧ ∃ h, p.segs[i]? = some h ∧ h.phase = .running

theorem heldBack_withSeg {i j : Nat} {p : Pic} (h : heldBack i p) (hij : i ≠ j) (f : Seg → Seg) : heldBack i (p.withSeg j f) := by
  obtain ⟨hguard, hdone, hsent, g, hg, hrun⟩ := h
  refine ⟨hguard, hdone, hsent, g, ?_, hrun⟩
  rw [Pic.withSeg, List.getElem?_modify, hg]
  simp [Ne.symm hij]

/-- Nothing of it commits. -/
theorem tryCommit_of_held {s : State} {c n i : Nat} {p : Pic} (hp : findPic s c n = some p) (h : heldBack i p) :
    tryCommit s c n = s := by
  obtain ⟨hguard, -, -, g, hg, hrun⟩ := h
  have hall : (p.segs.all fun x => x.phase == .cleared || x.phase == .committed) = false :=
    List.all_eq_false.2 ⟨g, List.mem_of_getElem? hg, by rw [hrun]; decide⟩
  unfold tryCommit
  rw [hp]
  dsimp only
  rw [if_pos (by rw [hguard, hall]; simp)]

/-- A context without a drain has nothing to settle while its only picture is held back. -/
theorem settleCtx_of_held {s : State} {c i : Nat} {p : Pic} (hp : (getCtx s c).pics = [p]) (h : heldBack i p)
    (ho : (getCtx s c).oldMem = []) (hs : ctxState s c = 3) : settleCtx s c = s := by
  obtain ⟨-, hdone, hsent, -⟩ := h
  have hdeliver : deliverPics (getCtx s c).pics.length s c = s := by
    rw [hp, List.length_singleton, deliverPics, hp, List.find?_cons_of_pos (by rw [hsent]; rfl)]
    exact if_neg (by rw [mayDeliver, hdone]; exact Bool.false_ne_true)
  have hkeep : (getCtx s c).pics.filter (fun p => !(p.sent && p.segs.all segSettled)) = (getCtx s c).pics := by
    rw [hp, List.filter_cons_of_pos (by rw [hsent]; rfl), List.filter_nil]
  rw [settleCtx, hdeliver]
  unfold retirePics
  dsimp only
  rw [hkeep, if_pos rfl, dropOldMem_nil ho]
  exact if_neg fun h => by omega

/-! ### The command -/

/-- A changed segment of the only picture of a context. -/
theorem pics_modSeg {s : State} {x : SegId} {p : Pic} {g : Seg} (h : findSeg s x = some (p, g))
    (hp : (getCtx s x.ctx).pics = [p]) (f : Seg → Seg) :
    (getCtx (modSeg s x f) x.ctx).pics = [p.withSeg x.seg f] := by
  have hfound := List.find?_some (findSeg_eq_some.1 h).1
  rw [modSeg, modPic, getCtx_modCtx]
  dsimp only
  rw [hp, List.map_singleton, if_pos hfound]
  rfl

/-- A segment that is no longer to be verified. -/
def waivedSeg (g : Seg) : Seg := { g with vwait := false, waived := true }

/-- The waiving of a segment's verification, which CHIP counts. -/
def waiveSeg (s : State) (x : SegId) : State :=
  let t := countEv (fadd (modSeg s x waivedSeg) 0 F.CHIP_PLACE_CNT_WAIVED_COUNT 1) 635 1
  { t with disp := { t.disp with waivedDe := true } }

/-- A segment that has not committed is cleared. -/
def clearedSeg (g : Seg) : Seg := if g.phase = .committed then g else { g with phase := .cleared }

/-- A waived segment clears: the slots of its work are settled. -/
def clearWaived (s : State) (x : SegId) : State := modSeg (settleItem (waiveSeg s x) (.segment x) true) x clearedSeg

theorem exec_verifyWaive {s : State} {x : SegId} {p : Pic} {g : Seg} (hseg : findSeg s x = some (p, g)) (hv : g.vwait = true)
    (hr : g.runs = []) (ho : fbit s 0 F.CHIP_PLACE_STAT_OVL_DE = true) (hf : fbit s 0 F.CHIP_PLACE_CTL_VERIFY_FIRST = false)
    (hc : g.cS ≤ s.devtime) :
    exec (.verifyWaive x) s = .next (settleCtx (tryCommit (clearWaived s x) x.ctx x.pic) x.ctx) := by
  change execVerifyWaive x s = _
  unfold execVerifyWaive
  rw [hseg]
  exact if_pos (by rw [hv, hr, ho, hf, decide_eq_true hc]; rfl)

theorem modSeg_mem (s : State) (x : SegId) (f : Seg → Seg) : (modSeg s x f).mem = s.mem := rfl

theorem modSeg_disp (s : State) (x : SegId) (f : Seg → Seg) : (modSeg s x f).disp = s.disp := rfl

theorem waiveSeg_ctxs (s : State) (x : SegId) : (waiveSeg s x).ctxs = (modSeg s x waivedSeg).ctxs := by
  simp only [waiveSeg, countEv_ctxs, fadd_ctxs]

theorem waiveSeg_regs (s : State) (x : SegId) :
    (waiveSeg s x).regs = (fadd s 0 F.CHIP_PLACE_CNT_WAIVED_COUNT 1).regs := rfl

theorem waiveSeg_mem (s : State) (x : SegId) : (waiveSeg s x).mem = s.mem := by
  simp only [waiveSeg, countEv_mem, fadd_mem, modSeg_mem]

theorem waiveSeg_disp (s : State) (x : SegId) : (waiveSeg s x).disp = { s.disp with waivedDe := true } := by
  simp only [waiveSeg, countEv_disp, fadd_disp, modSeg_disp]

theorem getCtx_settled (s : State) (x : SegId) (c : Nat) :
    getCtx (settleItem (waiveSeg s x) (.segment x) true) c = getCtx (modSeg s x waivedSeg) c :=
  getCtx_congr (((settleItem_keeps (.refl [.perf] _) rfl).ctxs (by decide)).trans (waiveSeg_ctxs s x)) c

theorem clearWaived_keep (s : State) (x : SegId) : Keeps [.ctxs, .perf] (waiveSeg s x) (clearWaived s x) :=
  modSeg_keeps (settleItem_keeps (.refl _ _) rfl) rfl

theorem clearWaived_regs (s : State) (x : SegId) :
    (clearWaived s x).regs = (fadd s 0 F.CHIP_PLACE_CNT_WAIVED_COUNT 1).regs :=
  ((clearWaived_keep s x).regs (by decide)).trans (waiveSeg_regs s x)

theorem clearWaived_mem (s : State) (x : SegId) : (clearWaived s x).mem = s.mem :=
  ((clearWaived_keep s x).mem (by decide)).trans (waiveSeg_mem s x)

theorem clearWaived_disp (s : State) (x : SegId) : (clearWaived s x).disp = { s.disp with waivedDe := true } :=
  ((clearWaived_keep s x).disp (by decide)).trans (waiveSeg_disp s x)

theorem clearWaived_oldMem (s : State) (x : SegId) :
    (getCtx (clearWaived s x) x.ctx).oldMem = (getCtx s x.ctx).oldMem := by
  rw [clearWaived, modSeg_oldMem, getCtx_settled, modSeg_oldMem]

theorem clearWaived_state (s : State) (x : SegId) : ctxState (clearWaived s x) x.ctx = ctxState s x.ctx := by
  rw [ctxState, fget_congr (clearWaived_regs s x)]
  exact fget_fset_ne _ _ _ _ _ _ _ _ (regKey_ne (by decide) (by decide) fun h => by unfold ctxPage at h; omega)

theorem waived_count (s : State) (x : SegId) : fget (clearWaived s x) 0 F.CHIP_PLACE_CNT_WAIVED_COUNT =
    (fget s 0 F.CHIP_PLACE_CNT_WAIVED_COUNT + 1) % 2 ^ 32 := by
  rw [fget_congr (clearWaived_regs s x)]
  exact fget_fset_self _ _ _ _ _ (by decide)

/-- The picture with the segment waived and cleared. -/
def Pic.waive (p : Pic) (i : Nat) : Pic := (p.withSeg i waivedSeg).withSeg i clearedSeg

theorem heldBack_waive {i j : Nat} {p : Pic} (h : heldBack i p) (hij : i ≠ j) : heldBack i (p.waive j) :=
  heldBack_withSeg (heldBack_withSeg h hij _) hij _

section cleared
variable {s : State} {x : SegId} {p : Pic} {g : Seg}

theorem findSeg_settled (h : findSeg s x = some (p, g)) :
    findSeg (settleItem (waiveSeg s x) (.segment x) true) x = some (p.withSeg x.seg waivedSeg, waivedSeg g) := by
  rw [findSeg_congr (congrArg Ctx.pics (getCtx_settled s x x.ctx))]
  exact findSeg_modSeg h waivedSeg

theorem findSeg_clearWaived (h : findSeg s x = some (p, g)) :
    findSeg (clearWaived s x) x = some (p.waive x.seg, clearedSeg (waivedSeg g)) :=
  findSeg_modSeg (findSeg_settled h) clearedSeg

theorem pics_clearWaived (h : findSeg s x = some (p, g)) (hp : (getCtx s x.ctx).pics = [p]) :
    (getCtx (clearWaived s x) x.ctx).pics = [p.waive x.seg] := by
  refine pics_modSeg (findSeg_settled h) ?_ clearedSeg
  rw [getCtx_settled]
  exact pics_modSeg h hp waivedSeg

end cleared

/-- A waived segment of a picture that waits for another one clears; nothing commits, and nothing is delivered. -/
theorem verifyWaive_clears {s : State} {x : SegId} {p : Pic} {g : Seg} (hw : Waits s x p g) (hv : g.vwait = true)
    (hr : g.runs = []) (ho : fbit s 0 F.CHIP_PLACE_STAT_OVL_DE = true) (hf : fbit s 0 F.CHIP_PLACE_CTL_VERIFY_FIRST = false)
    (hc : g.cS ≤ s.devtime) : exec (.verifyWaive x) s = .next (clearWaived s x) := by
  obtain ⟨hseg, hpics, hsent, hdone, hguard, ⟨i, h, hi, hh, hrun⟩, hold, hstate⟩ := hw
  have hheld : heldBack i (p.waive x.seg) := heldBack_waive ⟨hguard, hdone, hsent, h, hh, hrun⟩ hi
  have hpic := (findSeg_eq_some.1 (findSeg_clearWaived hseg)).1
  rw [exec_verifyWaive hseg hv hr ho hf hc, tryCommit_of_held hpic hheld,
    settleCtx_of_held (pics_clearWaived hseg hpics) hheld ((clearWaived_oldMem s x).trans hold)
      ((clearWaived_state s x).trans hstate)]

theorem clearedSeg_eq (g : Seg) :
    clearedSeg g = { g with phase := if g.phase = .committed then .committed else .cleared } := by
  unfold clearedSeg
  split
  · next h => rw [← h]
  · rfl

theorem clearWaived_becomes {s : State} {x : SegId} {p : Pic} {g : Seg} (h : findSeg s x = some (p, g)) :
    Becomes s (clearWaived s x) x { g with
      vwait := false, waived := true, phase := if g.phase = .committed then .committed else .cleared } :=
  ⟨⟨_, (findSeg_clearWaived h).trans (by rw [clearedSeg_eq]; rfl)⟩, clearWaived_mem s x⟩

/-! ### The statement -/

/-- Settles O19: what each command does with the work, the window, the steps or the segment that it meets. -/
theorem placementAndOverload : Obligations.PlacementAndOverload := by
  unfold Obligations.PlacementAndOverload
  refine ⟨fun kind s => ⟨fun h => ⟨_, exec_placeWork_nil h, rfl⟩, fun x h => ⟨fun hc => ?waits, fun page fin hc hok =>
    placeWork_joins h hc hok⟩⟩, fun w s => ⟨fun h => ⟨s, exec_overloadWindow_early w h, rfl⟩, fun h => ?window⟩,
    fun s => ⟨fun h => ⟨s, exec_shedUndo_early h, rfl⟩, fun ho hu => ⟨_, exec_shedUndo_late ho hu, ?undone⟩⟩,
    fun x p g s hw hv hr ho hf hc => ⟨_, verifyWaive_clears hw hv hr ho hf hc, ?waives, waived_count s x,
      clearWaived_becomes hw.1⟩⟩
  case waits => exact ⟨_, exec_placeWork_single h, placeOne_waits hc⟩
  case window =>
    obtain ⟨hee, hde, hmica, hdram⟩ := endWindow_bits s _ _ _ _
    exact ⟨_, exec_overloadWindow_over w h, hee, hde, hmica, hdram, endWindow_opens s _ _ _ _⟩
  case undone => exact shedUndo_undoes s
  case waives => rw [clearWaived_disp]

end Sys2Proof.Machine
end

section
/-! PROOFS. The settling of O22: auto-negotiation ends with a FEC that the mode offers, whatever value comes with it (R197). -/

namespace Sys2Proof.Machine

/-- Port 0 is enabled in mode 3, negotiates, and asks for no FEC of its own (R194, R197). -/
def negotiating : State := rset (rset State.reset 0x110 0x40 3) (ethPage 0) 0x40 3

/-- FEC_ACTIVE of port 0 in the state that a command answers. -/
def fecInUse : Host.Outcome State Fault Refusal → Option Nat
  | .next t => some (fget t (ethPage 0) F.ETH_STATUS_FEC_ACTIVE)
  | _ => none

/-- Mode 3 offers no FEC of code 0, so the port takes the default of the mode. -/
theorem fecInUse_negotiated : fecInUse (exec (.anDone 0 0) negotiating) = some 1 := by decide +kernel

/-- Refutes O22: where CTL.FEC is 0, AN_DONE is said to show the FEC that it names. In mode 3 it names 0, which the mode does
not offer (R196), and FEC_ACTIVE shows the mode's default 1 in its place. -/
theorem not_portControl : ¬ Obligations.PortControl := by
  unfold Obligations.PortControl
  rintro ⟨-, hport⟩
  obtain ⟨-, -, -, hdone⟩ := hport 0 negotiating
  obtain ⟨t, hexec, -, hfec, -⟩ := hdone 0 (by decide +kernel) (by decide +kernel)
  have hmode : ¬netMode negotiating < 3 := by decide +kernel
  have hctl : ¬fget negotiating (ethPage 0) F.ETH_CTL_FEC ≠ 0 := by decide +kernel
  have hclaim : fget t (ethPage 0) F.ETH_STATUS_FEC_ACTIVE = 0 := hfec.trans ((if_neg hmode).trans (if_neg hctl))
  have hmodel : fget t (ethPage 0) F.ETH_STATUS_FEC_ACTIVE = 1 :=
    Option.some.inj ((congrArg fecInUse hexec).symm.trans fecInUse_negotiated)
  exact absurd (hclaim.symm.trans hmodel) (by decide)

end Sys2Proof.Machine
end

section
/-! PROOFS. Windows of data words, and the commands on a service (R207, R208, R218). -/

namespace Sys2Proof.Machine

/-! ### A window of data words -/

section window
variable (s : State) (p n : Nat) (f : Nat → Nat)

/-- The first `n` words of a page's data window are set. -/
def putWords : State := (List.range n).foldl (fun s i => rset s p (0x80 + 4 * i) (f i)) s

theorem putWords_succ : putWords s p (n + 1) f = rset (putWords s p n f) p (0x80 + 4 * n) (f n) := by
  rw [putWords, List.range_succ, List.foldl_append]
  rfl

/-- Only registers are written. -/
theorem putWords_regs : putWords s p n f = { s with regs := (putWords s p n f).regs } := by
  induction n with
  | zero => rfl
  | succ n ih =>
    rw [putWords_succ, ih]
    rfl

theorem putWords_sameRegs (h : n ≤ 32) : SameRegs s (putWords s p n f) fun q o => q = p ∧ 0x80 ≤ o ∧ o < 0x80 + 4 * n := by
  induction n with
  | zero => exact .refl _ _
  | succ n ih =>
    rw [putWords_succ]
    exact ((ih (by omega)).mono fun q o k => ⟨k.1, k.2.1, by omega⟩).then_rset (by omega) ⟨rfl, by omega, by omega⟩ _

theorem rget_putWords (h : n ≤ 32) {i : Nat} (hi : i < n) : rget (putWords s p n f) p (0x80 + 4 * i) = f i % 2 ^ 32 := by
  induction n with
  | zero => omega
  | succ n ih =>
    rw [putWords_succ]
    obtain rfl | hlt := Nat.lt_succ_iff_lt_or_eq.1 hi |>.symm
    · exact rget_rset_self _ _ _ _
    · rw [rget_rset_ne _ _ _ _ _ _ (by unfold regKey; omega)]
      exact ih (by omega) hlt

end window

/-! ### The result of a command on a service -/

section result
variable (s : State) {r : Nat}

theorem fget_svcDone (hr : r < 8) : fget (svcDone s r) 0x111 F.PKT1_SVC_CMD_RESULT = r :=
  (fget_fset_self _ _ _ _ _ (by decide)).trans (Nat.mod_eq_of_lt hr)

theorem svcDone_sameRegs (r : Nat) : SameRegs s (svcDone s r) fun page off => page = 0x111 ∧ off = 0x48 :=
  (SameRegs.refl _ _).then_fset (by decide) ⟨rfl, rfl⟩ _

end result

/-- A command on a service ends with a result and does nothing else. -/
def SvcEnds (s : State) (r : Nat) (t : State) : Prop :=
  fget t 0x111 F.PKT1_SVC_CMD_RESULT = r ∧ t = { s with regs := t.regs } ∧
    SameRegs s t fun page off => page = 0x111 ∧ off = 0x48

theorem svcDone_ends (s : State) {r : Nat} (hr : r < 8) : SvcEnds s r (svcDone s r) :=
  ⟨fget_svcDone s hr, rfl, svcDone_sameRegs s r⟩

theorem does_svcDone {c : Instr} {s : State} {r : Nat} (h : exec c s = .next (svcDone s r)) (hr : r < 8) :
    Does c s (SvcEnds s r) := ⟨_, h, svcDone_ends s hr⟩

/-- Ending a command and changing a service touch different fields. -/
theorem svcDone_modSvc (s : State) (n : Nat) (f : Svc → Svc) (r : Nat) : svcDone (modSvc s n f) r = modSvc (svcDone s r) n f :=
  rfl

/-- A command on a service changes it, and ends with result 0. -/
theorem does_svcSet {c : Instr} {s : State} {n : Nat} {f : Svc → Svc} (h : exec c s = .next (svcDone (modSvc s n f) 0)) :
    Does c s fun t => SvcEnds s 0 { t with svcs := s.svcs } ∧ getSvc t n = f (getSvc s n) ∧
      ∀ m, m ≠ n → getSvc t m = getSvc s m := by
  refine ⟨_, h, svcDone_ends s (by decide), ?_, fun m hm => ?_⟩
  · rw [svcDone_modSvc, getSvc_modSvc]
    rfl
  · rw [svcDone_modSvc, getSvc_modSvc_ne _ _ _ _ hm]
    rfl

/-! ### The commands -/

/-- The words that SERVICE_READ shows. -/
def svcShown (x : Svc) : List Nat := (List.range 8).map x.w ++ [x.dgrams, x.nulls, x.muxLate, x.audioDrop]

theorem svcShown_word (x : Svc) {i : Nat} (hi : i < 8) : (svcShown x).getD i 0 = x.w i := by
  have hlen : i < ((List.range 8).map x.w).length := by simpa using hi
  rw [svcShown, List.getD_append _ _ _ _ hlen]
  simp [List.getD_eq_getElem?_getD, hi]

/-- The words of SVC_DATA without their reserved bits. -/
def svcData (s : State) : List Word :=
  (List.range 8).map fun i => BitVec.ofNat 32 (rget s 0x111 (0x80 + 4 * i) &&& svcMasks.getD i 0)

section commands
variable {s : State}

/-- An index above 1,023 names no service. -/
theorem service_beyond (h : 1024 ≤ svcSel s) : Does .serviceRead s (SvcEnds s 1) ∧ Does .serviceWrite s (SvcEnds s 1) ∧
    Does .serviceEnable s (SvcEnds s 1) ∧ Does .serviceDisable s (SvcEnds s 1) :=
  ⟨does_svcDone (if_pos h) (by decide), does_svcDone (if_pos h) (by decide), does_svcDone (if_pos h) (by decide),
    does_svcDone (if_pos h) (by decide)⟩

variable (h : svcSel s < 1024)
include h

theorem exec_serviceRead :
    exec .serviceRead s = .next (svcDone (putWords s 0x111 12 fun i => (svcShown (getSvc s (svcSel s))).getD i 0) 0) :=
  if_neg (by omega)

theorem exec_serviceWrite_live (he : (getSvc s (svcSel s)).enabled = true) : exec .serviceWrite s = .next (svcDone s 4) :=
  (if_neg (by omega)).trans (if_pos he)

theorem exec_serviceWrite_idle (he : (getSvc s (svcSel s)).enabled = false) : exec .serviceWrite s =
    .next (svcDone (modSvc s (svcSel s) ({ · with words := svcData s })) 0) :=
  (if_neg (by omega)).trans (if_neg (by simp [he]))

theorem exec_serviceEnable_live (he : (getSvc s (svcSel s)).enabled = true) : exec .serviceEnable s = .next (svcDone s 0) :=
  (if_neg (by omega)).trans (if_pos he)

theorem exec_serviceEnable_bad (he : (getSvc s (svcSel s)).enabled = false) (hb : svcBad (getSvc s (svcSel s)) = true) :
    exec .serviceEnable s = .next (svcDone s 1) :=
  (if_neg (by omega)).trans ((if_neg (by simp [he])).trans (if_pos hb))

theorem exec_serviceEnable_good (he : (getSvc s (svcSel s)).enabled = false) (hb : svcBad (getSvc s (svcSel s)) = false) :
    exec .serviceEnable s = .next (svcDone (modSvc s (svcSel s) fun y => { svc0 with
      enabled := true, words := y.words, psi := psiPackets s (svcSel s), lastPsi := s.devtime, lastPcr := s.devtime
      lastSlot := s.devtime }) 0) :=
  (if_neg (by omega)).trans ((if_neg (by simp [he])).trans (if_neg (by simp [hb])))

theorem exec_serviceDisable_used (hu : svcInUse s (svcSel s) = true) : exec .serviceDisable s = .next (svcDone s 3) :=
  (if_neg (by omega)).trans (if_pos hu)

theorem exec_serviceDisable_free (hu : svcInUse s (svcSel s) = false) : exec .serviceDisable s =
    .next (svcDone (modSvc s (svcSel s) fun y => { y with
      enabled := false, queue := [], pack := [], packRap := false, psi := [], audio := [], held := [] }) 0) :=
  (if_neg (by omega)).trans (if_neg (by simp [hu]))

/-- SERVICE_READ shows the eight words and the count of datagrams. -/
theorem serviceRead_shows : Does .serviceRead s fun t => fget t 0x111 F.PKT1_SVC_CMD_RESULT = 0 ∧ t = { s with regs := t.regs } ∧
    (∀ i < 8, rget t 0x111 (0x80 + 4 * i) = (getSvc s (svcSel s)).w i) ∧
    rget t 0x111 0xA0 = (getSvc s (svcSel s)).dgrams % 2 ^ 32 ∧
    SameRegs s t fun page off => page = 0x111 ∧ (off = 0x48 ∨ 0x80 ≤ off ∧ off < 0xB0) := by
  have hword : ∀ i < 12, rget (svcDone (putWords s 0x111 12 fun i => (svcShown (getSvc s (svcSel s))).getD i 0) 0) 0x111
      (0x80 + 4 * i) = (svcShown (getSvc s (svcSel s))).getD i 0 % 2 ^ 32 := fun i hi =>
    (rget_fset_ne _ _ _ _ _ _ _ (regKey_ne (by omega) (by decide) fun k => by
      have hat : F.PKT1_SVC_CMD_RESULT.at 0 = 0x48 := rfl
      omega)).trans (rget_putWords _ _ _ _ (by decide) hi)
  refine ⟨_, exec_serviceRead h, fget_svcDone _ (by decide), ?_, fun i hi => ?_, hword 8 (by decide), ?_⟩
  · rw [putWords_regs]
    rfl
  · rw [hword i (by omega), svcShown_word _ hi]
    exact Nat.mod_eq_of_lt (BitVec.isLt _)
  · exact ((putWords_sameRegs s 0x111 12 _ (by decide)).mono fun q o k => ⟨k.1, .inr k.2⟩).trans
      ((svcDone_sameRegs _ 0).mono fun q o k => ⟨k.1, .inl k.2⟩)

end commands

/-- The packets of both tables are queued again once their period has passed. -/
theorem exec_psiRepeat {v : Fin 1024} {s : State} (he : (getSvc s v).enabled = true)
    (ht : (getSvc s v).lastPsi + (getSvc s v).psiNs ≤ s.devtime) : exec (.psiRepeat v) s =
    .next (modSvc s v fun y => { y with psi := y.psi ++ psiPackets s v, lastPsi := s.devtime }) :=
  if_pos (by simp [he, ht])

/-- Settles O25: each command is the check that fails, or the one change of the selected service. -/
theorem serviceCommands : Obligations.ServiceCommands := by
  unfold Obligations.ServiceCommands
  refine fun s => ⟨service_beyond, fun h => ⟨serviceRead_shows h, fun he => ?live, fun he => ?write, fun he hb => ?bad,
    fun he hb => ?enable, fun hu => ?used, fun hu => ?disable⟩, fun v he ht => ?psi⟩
  case live =>
    exact ⟨does_svcDone (exec_serviceWrite_live h he) (by decide), does_svcDone (exec_serviceEnable_live h he) (by decide)⟩
  case write => exact does_svcSet (exec_serviceWrite_idle h he)
  case bad => exact does_svcDone (exec_serviceEnable_bad h he hb) (by decide)
  case enable => exact does_svcSet (exec_serviceEnable_good h he hb)
  case used => exact does_svcDone (exec_serviceDisable_used h hu) (by decide)
  case disable => exact does_svcSet (exec_serviceDisable_free h hu)
  case psi =>
    exact ⟨_, exec_psiRepeat he ht, rfl, fun m hm => getSvc_modSvc_ne _ _ _ _ hm, getSvc_modSvc _ _ _⟩

end Sys2Proof.Machine
end

section
/-! PROOFS. The commands on a flow, and the reports of its group (R206, R215, R217, R250). -/

namespace Sys2Proof.Machine

/-! ### Emissions -/

/-- Emissions in turn stand before what was emitted earlier, the latest first. -/
theorem foldl_emit {α : Type} (g : α → Emit) (l : List α) (s : State) :
    l.foldl (fun s r => emit s (g r)) s = { s with out := (l.map g).reverse ++ s.out } := by
  induction l generalizing s with
  | nil => rfl
  | cons a l ih => rw [List.foldl_cons, ih, List.map_cons, List.reverse_cons, List.append_assoc]; rfl

/-- The reports that leave for a flow, the latest first. -/
def reportsOut (s : State) (n : Nat) (join : Bool) : List Emit :=
  if (getFlow s n).multicast then ((reportsOf s n join).map (Emit.membership n)).reverse else []

/-- A report adds to the outputs and does nothing else. -/
theorem report_eq (s : State) (n : Nat) (join : Bool) : report s n join = { s with out := reportsOut s n join ++ s.out } := by
  unfold report reportsOut
  split
  · exact foldl_emit _ _ s
  · rfl

/-! ### What the reports of a flow depend on -/

theorem portAddr_congr {s t : State} {hit : Nat → Nat → Prop} (h : SameRegs s t hit) (hn : ∀ p o, ¬hit (ethPage p) o) :
    portAddr t = portAddr s := by
  have hq : ∀ p, qget t (ethPage p) F.ETH_MAC_ADDR_LO_LO = qget s (ethPage p) F.ETH_MAC_ADDR_LO_LO := fun p =>
    qget_of_rget (h _ _ (by decide) (hn p _)) (h _ _ (by decide) (hn p _))
  funext p
  simp only [portAddr, hq, h.fget (p := ethPage p) (r := F.ETH_IP4_ADDR_ADDR) (i := 0) (by decide) (hn p _),
    h.fget (p := ethPage p) (r := F.ETH_IP6_ADDR0_ADDR) (i := 0) (by decide) (hn p _),
    h.fget (p := ethPage p) (r := F.ETH_IP6_ADDR1_ADDR) (i := 0) (by decide) (hn p _),
    h.fget (p := ethPage p) (r := F.ETH_IP6_ADDR2_ADDR) (i := 0) (by decide) (hn p _),
    h.fget (p := ethPage p) (r := F.ETH_IP6_ADDR3_ADDR) (i := 0) (by decide) (hn p _)]

theorem carriesPort_congr {s t : State} {hit : Nat → Nat → Prop} (h : SameRegs s t hit) (hn : ¬hit 0x110 0x40) :
    carriesPort t = carriesPort s := by
  funext p
  rw [carriesPort, carriesPort, h.fget (by decide) hn]

theorem multicast_congr {f g : Flow} (h : g.words = f.words) : g.multicast = f.multicast := by
  unfold Flow.multicast Flow.w
  rw [h]

/-- The reports of a flow depend on its words, the ports' addresses and the port mode. -/
theorem reportsOut_congr {s t : State} {n : Nat} {hit : Nat → Nat → Prop} (hw : (getFlow t n).words = (getFlow s n).words)
    (h : SameRegs s t hit) (hn : ∀ p o, ¬hit (ethPage p) o) (hm : ¬hit 0x110 0x40) (join : Bool) :
    reportsOut t n join = reportsOut s n join := by
  unfold reportsOut reportsOf Flow.portMask Flow.quad Flow.w
  dsimp only
  rw [multicast_congr hw, portAddr_congr h hn, carriesPort_congr h hm, hw]

theorem reportsOut_modFlow (s : State) (n : Nat) {f : Flow → Flow} (hw : (f (getFlow s n)).words = (getFlow s n).words)
    (join : Bool) : reportsOut (modFlow s n f) n join = reportsOut s n join := by
  have hr : SameRegs s (modFlow s n f) fun _ _ => False := sameRegs_of_regs rfl
  have hf : (getFlow (modFlow s n f) n).words = (getFlow s n).words := by rw [getFlow_modFlow, hw]
  exact reportsOut_congr hf hr (fun _ _ => not_false) not_false join

/-! ### Buffers of a flow -/

theorem takeJb_sameRegs {n : Nat} {s t : State} {l : List Nat} (h : takeJb n s = some (l, t)) :
    SameRegs s t fun p o => p = 0x50 ∧ o = 0x2C := by
  induction n generalizing s l with
  | zero =>
    cases h
    exact .refl _ _
  | succ n ih =>
    unfold takeJb at h
    obtain ⟨⟨l', t'⟩, hrest, he⟩ := Option.map_eq_some_iff.1 (Option.ite_none_left_eq_some.1 h).2
    cases he
    exact SameRegs.trans (talusAlloc_sameRegs s _ _ _ _) (ih hrest)

theorem takeJb_keep {n : Nat} {s t : State} {l : List Nat} (h : takeJb n s = some (l, t)) :
    Keeps [.regs, .talus, .srcs, .perf] s t := takeJb_keeps h (.refl _ s) rfl

/-! ### The result of a command on a flow -/

/-- A command on a flow ends with a result, and device memory is as it was. -/
def FlowEnds (s : State) (r : Nat) (t : State) : Prop := fget t 0x110 F.PKT0_FLOW_CMD_RESULT = r ∧ t.mem = s.mem

theorem fget_flowDone (s : State) {r : Nat} (hr : r < 8) : fget (flowDone s r) 0x110 F.PKT0_FLOW_CMD_RESULT = r :=
  (fget_fset_self _ _ _ _ _ (by decide)).trans (Nat.mod_eq_of_lt hr)

theorem flowDone_sameRegs (s : State) (r : Nat) : SameRegs s (flowDone s r) fun page off => page = 0x110 ∧ off = 0x48 :=
  (SameRegs.refl _ _).then_fset (by decide) ⟨rfl, rfl⟩ _

/-- A command on a flow ends with a result and does nothing else. -/
def FlowOnly (s : State) (r : Nat) (t : State) : Prop :=
  FlowEnds s r t ∧ t = { s with regs := t.regs } ∧ SameRegs s t fun page off => page = 0x110 ∧ off = 0x48

theorem flowDone_only (s : State) {r : Nat} (hr : r < 8) : FlowOnly s r (flowDone s r) :=
  ⟨⟨fget_flowDone s hr, rfl⟩, rfl, flowDone_sameRegs s r⟩

theorem does_flowDone {c : Instr} {s : State} {r : Nat} (h : exec c s = .next (flowDone s r)) (hr : r < 8) :
    Does c s (FlowOnly s r) := ⟨_, h, flowDone_only s hr⟩

/-- Ending a command and changing a flow touch different fields. -/
theorem flowDone_modFlow (s : State) (n : Nat) (f : Flow → Flow) (r : Nat) :
    flowDone (modFlow s n f) r = modFlow (flowDone s r) n f := rfl

/-- The outputs after the reports of a flow. -/
def FlowTold (s : State) (n : Nat) (join : Bool) (t : State) : Prop := t.out = reportsOut s n join ++ s.out

/-- A flow is changed, its reports leave and the command ends: `u` differs from `s` in what a report does not depend on. -/
theorem flowDone_report {s u : State} {n : Nat} {f : Flow → Flow} (hw : (f (getFlow u n)).words = (getFlow s n).words)
    (hr : SameRegs s u fun p o => p = 0x50 ∧ o = 0x2C) (hout : u.out = s.out) (hmem : u.mem = s.mem) (join : Bool) :
    let t := flowDone (report (modFlow u n f) n join) 0
    FlowEnds s 0 t ∧ FlowTold s n join t ∧ getFlow t n = f (getFlow u n) ∧ t.talus = u.talus := by
  have hsame : SameRegs s (modFlow u n f) fun p o => p = 0x50 ∧ o = 0x2C := hr.then_regs rfl
  have hrep : reportsOut (modFlow u n f) n join = reportsOut s n join :=
    reportsOut_congr (by rw [getFlow_modFlow, hw]) hsame (fun p o h => by unfold ethPage at h; omega) (by decide) join
  rw [report_eq, hrep]
  refine ⟨⟨fget_flowDone _ (by decide), hmem⟩, ?_, getFlow_modFlow u n f, rfl⟩
  change reportsOut s n join ++ u.out = _
  rw [hout]

/-! ### The commands -/

/-- The words that FLOW_READ shows. -/
def flowShown (f : Flow) : List Nat :=
  (List.range 12).map f.w ++ [f.rx, f.recovered, f.lost, f.late, f.dup, f.overflow, f.resync]

theorem flowShown_word (f : Flow) {i : Nat} (hi : i < 12) : (flowShown f).getD i 0 = f.w i := by
  have hlen : i < ((List.range 12).map f.w).length := by simpa using hi
  rw [flowShown, List.getD_append _ _ _ _ hlen]
  simp [List.getD_eq_getElem?_getD, hi]

theorem exec_flowRead (s : State) :
    exec .flowRead s = .next (flowDone (putWords s 0x110 19 fun i => (flowShown (getFlow s (flowSel s))).getD i 0) 0) := rfl

/-- FLOW_READ shows the twelve words and the counters. -/
theorem flowRead_shows (s : State) : Does .flowRead s fun t => FlowEnds s 0 t ∧ t = { s with regs := t.regs } ∧
    (∀ i < 12, rget t 0x110 (0x80 + 4 * i) = (getFlow s (flowSel s)).w i) ∧
    rget t 0x110 0xB0 = (getFlow s (flowSel s)).rx % 2 ^ 32 ∧ rget t 0x110 0xB8 = (getFlow s (flowSel s)).lost % 2 ^ 32 ∧
    SameRegs s t fun page off => page = 0x110 ∧ (off = 0x48 ∨ 0x80 ≤ off ∧ off < 0xCC) := by
  have hword : ∀ i < 19, rget (flowDone (putWords s 0x110 19 fun i => (flowShown (getFlow s (flowSel s))).getD i 0) 0) 0x110
      (0x80 + 4 * i) = (flowShown (getFlow s (flowSel s))).getD i 0 % 2 ^ 32 := fun i hi =>
    (rget_fset_ne _ _ _ _ _ _ _ (regKey_ne (by omega) (by decide) fun k => by
      have hat : F.PKT0_FLOW_CMD_RESULT.at 0 = 0x48 := rfl
      omega)).trans (rget_putWords _ _ _ _ (by decide) hi)
  refine ⟨_, exec_flowRead s, ⟨fget_flowDone _ (by decide), ?_⟩, ?_, fun i hi => ?_, hword 12 (by decide),
    hword 14 (by decide), ?_⟩
  · rw [putWords_regs]
    rfl
  · rw [putWords_regs]
    rfl
  · rw [hword i (by omega), flowShown_word _ hi]
    exact Nat.mod_eq_of_lt (BitVec.isLt _)
  · exact ((putWords_sameRegs s 0x110 19 _ (by decide)).mono fun q o k => ⟨k.1, .inr k.2⟩).trans
      ((flowDone_sameRegs _ 0).mono fun q o k => ⟨k.1, .inl k.2⟩)

/-- The words of FLOW_DATA without their reserved bits. -/
def flowData (s : State) : List Word :=
  (List.range 12).map fun i => BitVec.ofNat 32 (rget s 0x110 (0x80 + 4 * i) &&& flowMasks.getD i 0)

/-- A flow that FLOW_ENABLE has enabled with these buffers. -/
def enabledFlow (now : Nat) (bufs : List Nat) (x : Flow) : Flow :=
  { flow0 with enabled := true, words := x.words, bufs := bufs, joinAt := if x.multicast then now + 1 else 0 }

/-- A flow that FLOW_DISABLE has disabled. -/
def disabledFlow (x : Flow) : Flow :=
  { x with
    enabled := false, bufs := [], held := [], fec := [], base := none, next := none, openAu := none, auBytes := 0
    gaps := [], pat := [], pmt := [], ccs := [], joinAt := 0 }

section commands
variable {s : State}

theorem exec_flowWrite_live (h : (getFlow s (flowSel s)).enabled = true) : exec .flowWrite s = .next (flowDone s 4) := if_pos h

theorem exec_flowWrite_idle (h : (getFlow s (flowSel s)).enabled = false) :
    exec .flowWrite s = .next (flowDone (modFlow s (flowSel s) ({ · with words := flowData s })) 0) := if_neg (by simp [h])

/-- FLOW_WRITE changes the words of the flow alone. -/
theorem flowWrite_stores (h : (getFlow s (flowSel s)).enabled = false) : Does .flowWrite s fun t =>
    FlowOnly s 0 { t with flows := s.flows } ∧ getFlow t (flowSel s) = { getFlow s (flowSel s) with words := flowData s } ∧
      ∀ m, m ≠ flowSel s → getFlow t m = getFlow s m := by
  refine ⟨_, exec_flowWrite_idle h, flowDone_only s (by decide), ?_, fun m hm => ?_⟩
  · rw [flowDone_modFlow, getFlow_modFlow]
    rfl
  · rw [flowDone_modFlow, getFlow_modFlow_ne _ _ _ _ hm]
    rfl

theorem exec_flowEnable (s : State) : exec .flowEnable s = .next (enableFlow s (flowSel s)) := rfl

theorem exec_flowEnable_live (h : (getFlow s (flowSel s)).enabled = true) : exec .flowEnable s = .next (flowDone s 0) := by
  rw [exec_flowEnable, enableFlow, if_pos h]

section idle
variable (h : (getFlow s (flowSel s)).enabled = false)
include h

theorem exec_flowEnable_bad (hb : flowBad s (getFlow s (flowSel s)) = true) : exec .flowEnable s = .next (flowDone s 1) := by
  rw [exec_flowEnable, enableFlow, if_neg (by simp [h]), if_pos hb]

variable (hb : flowBad s (getFlow s (flowSel s)) = false)
include hb

theorem exec_flowEnable_noEcc (hm : (getFlow s (flowSel s)).merges = false) (he : poolEcc s 4 = false) :
    exec .flowEnable s = .next (flowDone s 2) := by
  rw [exec_flowEnable, enableFlow, if_neg (by simp [h]), if_neg (by simp [hb])]
  simp only [hm, he]
  rfl

theorem exec_flowEnable_primary (hm : (getFlow s (flowSel s)).merges = false) (he : poolEcc s 4 = true) {bufs : List Nat}
    {u : State} (hj : takeJb (getFlow s (flowSel s)).jb64 s = some (bufs, u)) : exec .flowEnable s =
    .next (flowDone (report (modFlow u (flowSel s) (enabledFlow u.devtime bufs)) (flowSel s) true) 0) := by
  rw [exec_flowEnable, enableFlow, if_neg (by simp [h]), if_neg (by simp [hb])]
  simp only [hm, he, hj]
  rfl

theorem exec_flowEnable_secondary (hm : (getFlow s (flowSel s)).merges = true) : exec .flowEnable s =
    .next (flowDone (report (modFlow s (flowSel s) (enabledFlow s.devtime [])) (flowSel s) true) 0) := by
  rw [exec_flowEnable, enableFlow, if_neg (by simp [h]), if_neg (by simp [hb])]
  simp only [hm]
  rfl

end idle

/-- A flow that takes buffers is enabled with them, and joins its group. -/
theorem flowEnable_primary (h : (getFlow s (flowSel s)).enabled = false) (hb : flowBad s (getFlow s (flowSel s)) = false)
    (hm : (getFlow s (flowSel s)).merges = false) (he : poolEcc s 4 = true) {bufs : List Nat} {u : State}
    (hj : takeJb (getFlow s (flowSel s)).jb64 s = some (bufs, u)) : Does .flowEnable s fun t =>
      FlowEnds s 0 t ∧ FlowTold s (flowSel s) true t ∧ (getFlow t (flowSel s)).enabled = true ∧
        (getFlow t (flowSel s)).words = (getFlow s (flowSel s)).words ∧ (getFlow t (flowSel s)).bufs = bufs ∧
        (getFlow t (flowSel s)).held = [] ∧ t.talus = u.talus := by
  have hk := takeJb_keep hj
  have hw : (getFlow u (flowSel s)).words = (getFlow s (flowSel s)).words :=
    congrArg Flow.words (getFlow_congr (hk.flows (by decide)) _)
  obtain ⟨hends, htold, hflow, htalus⟩ := flowDone_report (f := enabledFlow u.devtime bufs) hw (takeJb_sameRegs hj)
    (hk.out (by decide)) (hk.mem (by decide)) true
  refine ⟨_, exec_flowEnable_primary h hb hm he hj, hends, htold, ?_, ?_, ?_, ?_, htalus⟩ <;> rw [hflow]
  · rfl
  · exact hw
  · rfl
  · rfl

/-- A secondary path is enabled without buffers, and joins its group. -/
theorem flowEnable_secondary (h : (getFlow s (flowSel s)).enabled = false) (hb : flowBad s (getFlow s (flowSel s)) = false)
    (hm : (getFlow s (flowSel s)).merges = true) : Does .flowEnable s fun t =>
      FlowEnds s 0 t ∧ FlowTold s (flowSel s) true t ∧ (getFlow t (flowSel s)).enabled = true ∧
        (getFlow t (flowSel s)).words = (getFlow s (flowSel s)).words ∧ t.talus = s.talus := by
  obtain ⟨hends, htold, hflow, htalus⟩ := flowDone_report (s := s) (f := enabledFlow s.devtime []) rfl (.refl s _) rfl rfl true
  refine ⟨_, exec_flowEnable_secondary h hb hm, hends, htold, ?_, ?_, htalus⟩ <;> rw [hflow] <;> rfl

/-! ### FLOW_DISABLE and MEMBERSHIP_REPORT -/

theorem flowInUse_iff {s : State} {n : Nat} : flowInUse s n = true ↔ ∃ c < 256, usesFlow s n c = true := by
  simp only [flowInUse, ctxList, List.any_eq_true, List.mem_range, Bool.and_eq_true, bne_iff_ne]
  exact exists_congr fun c => and_congr_right fun hc => and_iff_right (by omega)

/-- No context uses a flow, and no enabled flow merges into it. -/
def FlowFree (s : State) (n : Nat) : Prop :=
  (∀ c < 256, usesFlow s n c = false) ∧ ∀ kv ∈ s.flows, ¬(kv.2.enabled = true ∧ kv.2.merges = true ∧ kv.2.primary = n)

theorem FlowFree.unused {n : Nat} (h : FlowFree s n) : flowInUse s n = false := by
  refine Bool.eq_false_iff.2 fun hu => ?_
  obtain ⟨c, hc, k⟩ := flowInUse_iff.1 hu
  rw [h.1 c hc] at k
  cases k

theorem FlowFree.unmerged {n : Nat} (h : FlowFree s n) :
    (s.flows.any fun kv => kv.2.enabled && kv.2.merges && kv.2.primary == n) = false := by
  refine Bool.eq_false_iff.2 fun ha => ?_
  obtain ⟨kv, hmem, hk⟩ := List.any_eq_true.1 ha
  simp only [Bool.and_eq_true, beq_iff_eq] at hk
  exact h.2 kv hmem ⟨hk.1.1, hk.1.2, hk.2⟩

theorem exec_flowDisable_used (h : flowInUse s (flowSel s) = true) : exec .flowDisable s = .next (flowDone s 3) := by
  change execFlowDisable s = _
  rw [execFlowDisable, if_pos (by rw [h]; rfl)]

theorem exec_flowDisable_idle (h : FlowFree s (flowSel s)) (he : (getFlow s (flowSel s)).enabled = false) :
    exec .flowDisable s = .next (flowDone s 0) := by
  change execFlowDisable s = _
  rw [execFlowDisable, if_neg (by rw [h.unused, he]; simp), if_pos (by rw [he]; rfl)]

theorem exec_flowDisable_live (h : FlowFree s (flowSel s)) (he : (getFlow s (flowSel s)).enabled = true) :
    exec .flowDisable s = .next (flowDone (retryOutputs (report (modFlow (freeAll s (getFlow s (flowSel s)).bufs) (flowSel s)
      disabledFlow) (flowSel s) false)) 0) := by
  change execFlowDisable s = _
  rw [execFlowDisable, if_neg (by rw [h.unused, h.unmerged]; simp), if_neg (by rw [he]; decide)]
  rfl

/-- Freeing buffers leaves all but Talus and its counters as it was. -/
theorem freeAll_keep (s : State) (hs : List Nat) : Keeps [.talus, .perf] s (freeAll s hs) := freeAll_keeps (.refl _ s) rfl

/-- A flow that nothing uses is disabled, and leaves its group. -/
theorem flowDisable_leaves (h : FlowFree s (flowSel s)) (he : (getFlow s (flowSel s)).enabled = true) (hw : NoneWait s) :
    Does .flowDisable s fun t => FlowEnds s 0 t ∧ FlowTold s (flowSel s) false t ∧ (getFlow t (flowSel s)).enabled = false ∧
      (getFlow t (flowSel s)).held = [] ∧ (getFlow t (flowSel s)).words = (getFlow s (flowSel s)).words := by
  have hk := freeAll_keep s (getFlow s (flowSel s)).bufs
  have hwords : (disabledFlow (getFlow (freeAll s (getFlow s (flowSel s)).bufs) (flowSel s))).words =
      (getFlow s (flowSel s)).words := by
    rw [getFlow_congr (hk.flows (by decide))]
    rfl
  obtain ⟨hends, htold, hflow, -⟩ := flowDone_report (f := disabledFlow) hwords (sameRegs_of_regs (hk.regs (by decide)))
    (hk.out (by decide)) (hk.mem (by decide)) false
  have hexec := exec_flowDisable_live h he
  rw [retryOutputs_of_none fun c => ?nowait] at hexec
  case nowait =>
    rw [report_eq]
    exact (congrArg Ctx.outWait (getCtx_congr (hk.ctxs (by decide)) c)).trans (hw c)
  exact ⟨_, hexec, hends, htold, by rw [hflow]; rfl, by rw [hflow]; rfl, by rw [hflow, hwords]⟩

theorem exec_membershipReport {m : Fin 4096} (he : (getFlow s m).enabled = true) (hj : (getFlow s m).joinAt ≠ 0)
    (ht : (getFlow s m).joinAt + 10 ^ 9 ≤ s.devtime + 1) :
    exec (.membershipReport m) s = .next (report (modFlow s m ({ · with joinAt := 0 })) m true) :=
  if_pos (by simpa [he, hj] using ht)

/-- The second report leaves once, and the flow remembers that it has. -/
theorem membershipReport_tells {m : Fin 4096} (he : (getFlow s m).enabled = true) (hj : (getFlow s m).joinAt ≠ 0)
    (ht : (getFlow s m).joinAt + 10 ^ 9 ≤ s.devtime + 1) : Does (.membershipReport m) s fun t =>
      t = { s with flows := t.flows, out := t.out } ∧ FlowTold s m true t ∧ getFlow t m = { getFlow s m with joinAt := 0 } := by
  refine ⟨_, exec_membershipReport he hj ht, ?_⟩
  rw [report_eq, reportsOut_modFlow s m rfl]
  refine ⟨rfl, rfl, ?_⟩
  change getFlow (modFlow s m ({ · with joinAt := 0 })) m = _
  rw [getFlow_modFlow]

end commands

/-- Settles O24: each command is the check that fails, or the one change of the selected flow and its reports. -/
theorem flowCommands : Obligations.FlowCommands := by
  unfold Obligations.FlowCommands
  refine fun s => ⟨flowRead_shows s, fun h => ?live, flowWrite_stores, fun h hb => ?bad, fun h hb hm he => ?noEcc,
    fun bufs u h hb hm he hj => flowEnable_primary h hb hm he hj, flowEnable_secondary, fun h => ?used, fun hf he => ?idle,
    flowDisable_leaves, fun m => membershipReport_tells⟩
  case live => exact ⟨does_flowDone (exec_flowWrite_live h) (by decide), does_flowDone (exec_flowEnable_live h) (by decide)⟩
  case bad => exact does_flowDone (exec_flowEnable_bad h hb) (by decide)
  case noEcc => exact does_flowDone (exec_flowEnable_noEcc h hb hm he) (by decide)
  case used => exact does_flowDone (exec_flowDisable_used (flowInUse_iff.2 h)) (by decide)
  case idle => exact does_flowDone (exec_flowDisable_idle hf he) (by decide)

end Sys2Proof.Machine
end

section
/-! PROOFS. What decides whether a context uses a flow or a service (R206, R207). -/

namespace Sys2Proof.Machine

/-- Context `c` and the registers of its page are as they were. -/
structure SameCtx (c : Nat) (s t : State) : Prop where
  regs : ∀ o < 4096, rget t (ctxPage c) o = rget s (ctxPage c) o
  ctx : getCtx t c = getCtx s c

section sameCtx
variable {c : Nat} {s t : State}

theorem SameCtx.of_eq (hr : t.regs = s.regs) (hc : t.ctxs = s.ctxs) : SameCtx c s t :=
  ⟨fun o _ => rget_congr hr _ o, getCtx_congr hc c⟩

theorem SameCtx.of_sameRegs {hit : Nat → Nat → Prop} (h : SameRegs s t hit) (hn : ∀ o, ¬hit (ctxPage c) o)
    (hc : t.ctxs = s.ctxs) : SameCtx c s t := ⟨fun o ho => h _ o ho (hn o), getCtx_congr hc c⟩

variable (h : SameCtx c s t)
include h

theorem SameCtx.fget {r : Row} (hr : r.at 0 < 4096) : fget t (ctxPage c) r = fget s (ctxPage c) r := by
  rw [Machine.fget, Machine.fget, h.regs _ hr]

theorem SameCtx.active {r : Row} (hr : r.off + 0x200 < 4096) : active t c r = active s c r := by
  unfold Machine.active activeRaw
  rw [h.regs _ hr, h.ctx]

theorem SameCtx.pendingSet : pendingSet t c = pendingSet s c := by
  funext r
  unfold Machine.pendingSet
  rw [h.ctx]

theorem SameCtx.usesFlow (n : Nat) : usesFlow t n c = usesFlow s n c := by
  unfold Machine.usesFlow setsOf Get.input
  rw [h.fget (by decide), h.fget (by decide), h.pendingSet, h.ctx, List.any_cons, List.any_cons, h.active (by decide),
    h.active (by decide)]

theorem SameCtx.usesSvc (n : Nat) : usesSvc t n c = usesSvc s n c := by
  unfold Machine.usesSvc setsOf Get.toNet Get.output
  rw [h.fget (by decide), h.fget (by decide), h.pendingSet, h.ctx, List.any_cons, List.any_cons, h.active (by decide),
    h.active (by decide)]

end sameCtx

end Sys2Proof.Machine
end

section
/-! PROOFS. Packet slots and datagrams of a service (R208–R210, R212). -/

namespace Sys2Proof.Machine

/-! ### A packet enters the open datagram -/

/-- A service whose open datagram has taken a packet. -/
def packed (now : Nat) (p : TsPacket) (rap : Bool) (x : Svc) : Svc :=
  { x with
    pack := x.pack ++ [{ p with cc := tget 0 x.ccs p.pid }]
    ccs := if p.data = [] then x.ccs else tput 0 x.ccs p.pid ((tget 0 x.ccs p.pid + 1) % 16)
    packAt := if x.pack = [] then now else x.packAt, packRap := x.packRap || rap }

theorem putPacket_eq (s : State) (n : Nat) (p : TsPacket) (rap : Bool) : putPacket s n p rap =
    let t := modSvc s n (packed s.devtime p rap)
    if (getSvc t n).perDgram ≤ (getSvc t n).pack.length then finishDgram t n else t := rfl

/-- A packet that does not fill the datagram. -/
theorem putPacket_open {s : State} {n : Nat} (h : (getSvc s n).pack.length + 1 < (getSvc s n).perDgram) (p : TsPacket)
    (rap : Bool) : putPacket s n p rap = modSvc s n (packed s.devtime p rap) := by
  rw [putPacket_eq]
  refine if_neg ?_
  have hper : (packed s.devtime p rap (getSvc s n)).perDgram = (getSvc s n).perDgram := rfl
  rw [getSvc_modSvc, hper, packed, List.length_append, List.length_singleton]
  omega

/-! ### A slot at a constant rate -/

/-- A slot of a service at a constant rate is due, and its packet does not fill the datagram. -/
def SlotDue (s : State) (x : Svc) : Prop :=
  x.enabled = true ∧ x.rate ≠ 0 ∧ x.lastSlot + slotNs x.rate ≤ s.devtime ∧ x.pack.length + 1 < x.perDgram

/-- A service that has taken its slot. -/
def slotted (x : Svc) : Svc := { x with lastSlot := x.lastSlot + slotNs x.rate }

def slotTaken (s : State) (n : Nat) : State := modSvc s n slotted

/-- A slot sends packet `p`, and otherwise changes the service by `f`. -/
def SlotSends (v : Fin 1024) (s : State) (p : TsPacket) (rap : Bool) (f : Svc → Svc) : Prop :=
  Does (.muxPacketSlot v) s fun t =>
    t = { s with svcs := t.svcs } ∧ getSvc t v = packed s.devtime p rap (f (slotted (getSvc s v)))

section slot
variable {v : Fin 1024} {s : State}

theorem exec_muxPacketSlot (h : SlotDue s (getSvc s v)) : exec (.muxPacketSlot v) s = .next (muxSlot (slotTaken s v) v) := by
  obtain ⟨hon, hrate, hdue, -⟩ := h
  change execMuxPacketSlot v s = _
  rw [execMuxPacketSlot, if_neg (by rw [hon]; decide), if_neg hrate, if_pos hdue]
  rfl

theorem getSvc_slotTaken (s : State) (n : Nat) : getSvc (slotTaken s n) n = slotted (getSvc s n) := getSvc_modSvc _ _ _

/-- Δ depends on registers and contexts, which a slot leaves alone. -/
theorem svcDelta_slotTaken (s : State) (n : Nat) : svcDelta (slotTaken s n) n = svcDelta s n := by
  have hsender : sender (slotTaken s n) n = sender s n := by
    unfold sender
    exact congrArg (ctxList.find? ·) (funext fun c => (SameCtx.of_eq (s := s) (t := slotTaken s n) rfl rfl).usesSvc n)
  unfold svcDelta
  rw [hsender]
  rfl

/-- A slot that ends by putting a packet into the datagram of a service that is `f` of what it was. -/
theorem slotSends_of_put (h : SlotDue s (getSvc s v)) {u : State} {p : TsPacket} {rap : Bool} {f : Svc → Svc}
    (hmux : muxSlot (slotTaken s v) v = putPacket u v p rap) (hu : u = { s with svcs := u.svcs })
    (hsvc : getSvc u v = f (slotted (getSvc s v)))
    (hroom : (f (slotted (getSvc s v))).pack = (getSvc s v).pack ∧
      (f (slotted (getSvc s v))).perDgram = (getSvc s v).perDgram) : SlotSends v s p rap f := by
  have htime : u.devtime = s.devtime := by rw [hu]
  have hopen : (getSvc u v).pack.length + 1 < (getSvc u v).perDgram := by
    rw [hsvc, hroom.1, hroom.2]
    exact h.2.2.2
  refine ⟨_, (exec_muxPacketSlot h).trans (congrArg _ (hmux.trans (putPacket_open hopen p rap))), ?_, ?_⟩
  · rw [hu]
    rfl
  · rw [getSvc_modSvc, hsvc, htime]

/-! ### What a slot carries -/

section branches
variable {n : Nat}

theorem muxSlot_table {p : TsPacket} {rest : List TsPacket} (h : (getSvc s n).psi = p :: rest) :
    muxSlot s n = putPacket (modSvc s n ({ · with psi := rest })) n p false := by
  rw [muxSlot, h]

theorem muxSlot_pcr (h : (getSvc s n).psi = []) (hp : (getSvc s n).lastPcr + (getSvc s n).pcrNs ≤ s.devtime) :
    muxSlot s n = muxPcr s n := by
  rw [muxSlot, h]
  exact if_pos hp

theorem muxSlot_next (h : (getSvc s n).psi = []) (hp : ¬(getSvc s n).lastPcr + (getSvc s n).pcrNs ≤ s.devtime) :
    muxSlot s n = muxNext s n := by
  rw [muxSlot, h]
  exact if_neg hp

theorem muxNext_audio {a : AudioPart} {rest : List AudioPart} {d : Nat} (h : (getSvc s n).audio = a :: rest)
    (hd : svcDelta s n = some d) : muxNext s n = putPacket (modSvc s n ({ · with audio := rest })) n
      ⟨(getSvc s n).videoPid + 1 + a.index, a.start, 0, false, if a.start then retime d a.data else a.data⟩ false := by
  unfold muxNext
  rw [h, if_neg (List.cons_ne_nil _ _), hd]
  rfl

theorem muxNext_video {u : PesRest} {rest : List PesRest} (h : (getSvc s n).audio = []) (hq : (getSvc s n).queue = u :: rest) :
    muxNext s n = putVideo s n false u rest := by
  unfold muxNext
  rw [h, if_pos rfl, hq]

theorem muxNext_null (h : (getSvc s n).audio = []) (hq : (getSvc s n).queue = []) (hr : (getSvc s n).rate ≠ 0) :
    muxNext s n = putPacket (modSvc s n fun y => { y with nulls := (y.nulls + 1) % 2 ^ 32 }) n nullPacket false := by
  unfold muxNext
  rw [h, if_pos rfl, hq]
  exact if_pos hr

/-- Video bytes that the packet does not exhaust. -/
theorem putVideo_more (s : State) (n : Nat) {u : PesRest} (rest : List PesRest) (h : 184 < u.data.length) :
    putVideo s n false u rest = putPacket (modSvc s n ({ · with queue := ⟨u.data.drop 184, u.dts, false, false⟩ :: rest })) n
      ⟨(getSvc s n).videoPid, u.start, 0, false, u.data.take 184⟩ u.rap :=
  if_neg (Nat.not_le.2 h)

theorem putVideo_pcr_more (s : State) (n : Nat) {u : PesRest} (rest : List PesRest) (h : 176 < u.data.length) :
    putVideo s n true u rest = putPacket (modSvc (modSvc s n ({ · with lastPcr := s.devtime })) n
      ({ · with queue := ⟨u.data.drop 176, u.dts, false, false⟩ :: rest })) n
      ⟨(getSvc s n).videoPid, u.start, 0, true, u.data.take 176⟩ u.rap :=
  if_neg (Nat.not_le.2 h)

theorem muxPcr_video {u : PesRest} {rest : List PesRest} (h : (getSvc s n).queue = u :: rest) :
    muxPcr s n = putVideo s n true u rest := by
  rw [muxPcr, h]

theorem muxPcr_alone (h : (getSvc s n).queue = []) : muxPcr s n =
    putPacket (modSvc s n ({ · with lastPcr := s.devtime })) n ⟨(getSvc s n).videoPid, false, 0, true, []⟩ false := by
  rw [muxPcr, h]

end branches

theorem slot_sends_table (h : SlotDue s (getSvc s v)) {p : TsPacket} {rest : List TsPacket}
    (hp : (getSvc s v).psi = p :: rest) : SlotSends v s p false ({ · with psi := rest }) :=
  slotSends_of_put h (muxSlot_table (by rw [getSvc_slotTaken]; exact hp)) rfl
    (by rw [getSvc_modSvc, getSvc_slotTaken]) ⟨rfl, rfl⟩

section noTable
variable (h : SlotDue s (getSvc s v)) (hpsi : (getSvc s v).psi = [])
include h hpsi

section pcr
variable (hpcr : (getSvc s v).lastPcr + (getSvc s v).pcrNs ≤ s.devtime)
include hpcr

omit h in
/-- With no table queued, a slot with a PCR due carries it. -/
theorem slot_pcr : muxSlot (slotTaken s v) v = muxPcr (slotTaken s v) v :=
  muxSlot_pcr (by rw [getSvc_slotTaken]; exact hpsi) (by rw [getSvc_slotTaken]; exact hpcr)

theorem slot_sends_video_pcr {u : PesRest} {rest : List PesRest} (hq : (getSvc s v).queue = u :: rest)
    (hlen : 176 < u.data.length) : SlotSends v s ⟨(getSvc s v).videoPid, u.start, 0, true, u.data.take 176⟩ u.rap
      ({ · with queue := ⟨u.data.drop 176, u.dts, false, false⟩ :: rest, lastPcr := s.devtime }) := by
  have hmux := (slot_pcr hpsi hpcr).trans ((muxPcr_video (u := u) (rest := rest) (by rw [getSvc_slotTaken]; exact hq)).trans
    (putVideo_pcr_more _ _ _ hlen))
  rw [getSvc_slotTaken] at hmux
  refine slotSends_of_put h hmux rfl ?_ ⟨rfl, rfl⟩
  rw [getSvc_modSvc, getSvc_modSvc, getSvc_slotTaken]
  rfl

theorem slot_sends_pcr (hq : (getSvc s v).queue = []) :
    SlotSends v s ⟨(getSvc s v).videoPid, false, 0, true, []⟩ false ({ · with lastPcr := s.devtime }) := by
  have hmux := (slot_pcr hpsi hpcr).trans (muxPcr_alone (by rw [getSvc_slotTaken]; exact hq))
  rw [getSvc_slotTaken] at hmux
  refine slotSends_of_put h hmux rfl ?_ ⟨rfl, rfl⟩
  rw [getSvc_modSvc, getSvc_slotTaken]
  rfl

end pcr

section noPcr
variable (hpcr : ¬(getSvc s v).lastPcr + (getSvc s v).pcrNs ≤ s.devtime)
include hpcr

omit h in
/-- With no table queued and no PCR due, a slot carries what comes next. -/
theorem slot_next : muxSlot (slotTaken s v) v = muxNext (slotTaken s v) v :=
  muxSlot_next (by rw [getSvc_slotTaken]; exact hpsi) (by rw [getSvc_slotTaken]; exact hpcr)

theorem slot_sends_video (ha : (getSvc s v).audio = []) {u : PesRest} {rest : List PesRest}
    (hq : (getSvc s v).queue = u :: rest) (hlen : 184 < u.data.length) :
    SlotSends v s ⟨(getSvc s v).videoPid, u.start, 0, false, u.data.take 184⟩ u.rap
      ({ · with queue := ⟨u.data.drop 184, u.dts, false, false⟩ :: rest }) := by
  have ha' : (getSvc (slotTaken s v) v).audio = [] := by rw [getSvc_slotTaken]; exact ha
  have hq' : (getSvc (slotTaken s v) v).queue = u :: rest := by rw [getSvc_slotTaken]; exact hq
  have hmux := (slot_next hpsi hpcr).trans ((muxNext_video ha' hq').trans (putVideo_more _ _ rest hlen))
  rw [getSvc_slotTaken] at hmux
  refine slotSends_of_put h hmux rfl ?_ ⟨rfl, rfl⟩
  rw [getSvc_modSvc, getSvc_slotTaken]

theorem slot_sends_audio {a : AudioPart} {rest : List AudioPart} {d : Nat} (ha : (getSvc s v).audio = a :: rest)
    (hd : svcDelta s v = some d) : SlotSends v s
      ⟨(getSvc s v).videoPid + 1 + a.index, a.start, 0, false, if a.start then retime d a.data else a.data⟩ false
      ({ · with audio := rest }) := by
  have ha' : (getSvc (slotTaken s v) v).audio = a :: rest := by rw [getSvc_slotTaken]; exact ha
  have hd' : svcDelta (slotTaken s v) v = some d := by rw [svcDelta_slotTaken]; exact hd
  have hmux := (slot_next hpsi hpcr).trans (muxNext_audio ha' hd')
  rw [getSvc_slotTaken] at hmux
  refine slotSends_of_put h hmux rfl ?_ ⟨rfl, rfl⟩
  rw [getSvc_modSvc, getSvc_slotTaken]

theorem slot_sends_null (ha : (getSvc s v).audio = []) (hq : (getSvc s v).queue = []) :
    SlotSends v s nullPacket false ({ · with nulls := ((getSvc s v).nulls + 1) % 2 ^ 32 }) := by
  have hmux := (slot_next hpsi hpcr).trans (muxNext_null (by rw [getSvc_slotTaken]; exact ha)
    (by rw [getSvc_slotTaken]; exact hq) (by rw [getSvc_slotTaken]; exact h.2.1))
  refine slotSends_of_put h hmux rfl ?_ ⟨rfl, rfl⟩
  rw [getSvc_modSvc, getSvc_slotTaken]
  rfl

end noPcr

end noTable

end slot

/-! ### Audio that waited too long -/

theorem exec_audioDrop {v : Fin 1024} {s : State} {a : AudioPart} {rest : List AudioPart} (ha : (getSvc s v).audio = a :: rest)
    (ht : a.at_ + 100000000 < s.devtime) : exec (.audioDrop v) s = .next (modSvc s v fun y => { y with
      audio := dropPes a.index rest, audioDrop := (y.audioDrop + 1) % 2 ^ 32 }) := by
  change execAudioDrop v s = _
  rw [execAudioDrop, ha]
  exact if_pos ht

/-! ### A datagram is complete -/

/-- The datagram that is open. -/
def openDgram (s : State) (n : Nat) : Dgram :=
  let x := getSvc s n
  ⟨s.dgCount, n, x.rtpHead, x.pack, s.devtime, x.packRap, 0⟩

/-- A service whose open datagram has been taken. -/
def emptied (x : Svc) : Svc :=
  { x with dgrams := (x.dgrams + 1) % 2 ^ 32, rtpSeq := (x.rtpSeq + 1) % 2 ^ 16, pack := [], packRap := false }

/-- The open datagram has been taken, and goes to the store or waits. -/
def dgramTaken (s : State) (n : Nat) : State := countEv (modSvc { s with dgCount := s.dgCount + 1 } n emptied) 625 1

/-- A datagram waits in DRAM for room. -/
def dgramHeld (s : State) (n : Nat) (d : Dgram) : State :=
  setIrq (fadd (modSvc s n fun y => { y with held := y.held ++ [d] }) 0x111 F.PKT1_CNT_STORE_WAIT_COUNT 1) 0x110 16

theorem finishDgram_eq (s : State) (n : Nat) : finishDgram s n =
    if (getSvc s n).held = [] ∧ storeRoom s (openDgram s n).bytes then storeD (dgramTaken s n) (openDgram s n)
    else dgramHeld (dgramTaken s n) n (openDgram s n) := rfl

theorem getSvc_dgramTaken (s : State) (n : Nat) : getSvc (dgramTaken s n) n = emptied (getSvc s n) :=
  getSvc_modSvc { s with dgCount := s.dgCount + 1 } n emptied

theorem storeD_keep (s : State) (d : Dgram) : Keeps [.regs, .queues, .store, .perf] s (storeD s d) :=
  storeD_keeps (.refl _ s) rfl

theorem getSvc_dgramHeld (s : State) (n : Nat) (d : Dgram) :
    getSvc (dgramHeld s n d) n = { getSvc s n with held := (getSvc s n).held ++ [d] } := by
  rw [dgramHeld, getSvc_congr (setIrq_svcs _ _ _)]
  change getSvc (modSvc s n fun y => { y with held := y.held ++ [d] }) n = _
  rw [getSvc_modSvc]

theorem dgramHeld_keep (s : State) (n : Nat) (d : Dgram) : Keeps [.regs, .srcs, .svcs] s (dgramHeld s n d) :=
  setIrq_keeps (fadd_keeps (modSvc_keeps (.refl _ s) rfl) rfl) rfl

/-- The datagram goes to the store, or joins those that wait; without room it waits, and the store is as it was. -/
theorem finishDgram_spec (s : State) (n : Nat) : (getSvc (finishDgram s n) n).pack = [] ∧
    (getSvc (finishDgram s n) n).dgrams = ((getSvc s n).dgrams + 1) % 2 ^ 32 ∧
    (finishDgram s n).dgCount = s.dgCount + 1 ∧ (finishDgram s n).mem = s.mem ∧
    (storeRoom s (openDgram s n).bytes = false →
      (getSvc (finishDgram s n) n).held = (getSvc s n).held ++ [openDgram s n] ∧ (finishDgram s n).store = s.store) := by
  rw [finishDgram_eq]
  split
  · next hroom =>
    have hk := storeD_keep (dgramTaken s n) (openDgram s n)
    rw [getSvc_congr (hk.svcs (by decide)), getSvc_dgramTaken]
    refine ⟨rfl, rfl, hk.dgCount (by decide), hk.mem (by decide), fun hno => ?_⟩
    rw [hroom.2] at hno
    cases hno
  · have hk := dgramHeld_keep (dgramTaken s n) n (openDgram s n)
    rw [getSvc_dgramHeld, getSvc_dgramTaken]
    exact ⟨rfl, rfl, hk.dgCount (by decide), hk.mem (by decide), fun _ => ⟨rfl, hk.store (by decide)⟩⟩

theorem exec_datagramFlush {v : Fin 1024} {s : State} (hon : (getSvc s v).enabled = true) (hrate : (getSvc s v).rate = 0)
    (hpack : (getSvc s v).pack ≠ []) (ht : (getSvc s v).packAt + (getSvc s v).flushNs ≤ s.devtime) :
    exec (.datagramFlush v) s = .next (finishDgram s v) :=
  if_pos (by simp [hon, hrate, hpack, ht])

/-! ### A datagram that waited -/

/-- A field lies on its page. -/
theorem sameRegs_fset_page (s : State) (p : Nat) {r : Row} (v : Nat) (ho : r.at 0 < 4096) :
    SameRegs s (fset s p r v) fun q _ => q = p := (sameRegs_rset s _ ho).mono fun _ _ h => h.1

/-- Dropping a datagram counts it, and writes no other register. -/
theorem dropFrom_sameRegs (s : State) (q n : Nat) : SameRegs s (dropFrom s q n) fun p _ => p = 0x120 := by
  unfold dropFrom
  refine SameRegs.then_regs (SameRegs.trans (sameRegs_of_regs ?_) (sameRegs_fset_page _ _ _ (by decide))) (countEv_regs _ _ _)
  rfl

theorem offerQueue_sameRegs (s : State) (d : Dgram) (q : Nat) : SameRegs s (offerQueue s d q) fun p _ => p = 0x120 := by
  unfold offerQueue
  dsimp only
  split
  · exact .refl _ _
  · refine SameRegs.then_regs (t := match (getQueue s q).holds with
      | h :: _ => if (getQueue s q).depthMax ≤ (getQueue s q).holds.length then dropFrom s q h else s
      | [] => s) ?_ rfl
    split
    · split
      · exact dropFrom_sameRegs s q _
      · exact .refl _ _
    · exact .refl _ _

theorem storeD_sameRegs (s : State) (d : Dgram) : SameRegs s (storeD s d) fun p _ => p = 0x120 := by
  unfold storeD
  dsimp only
  refine SameRegs.then_regs (t := (takers { s with store := s.store ++ [{ d with left := 0 }] } d.svc).foldl
    (fun s q => offerQueue s d q) { s with store := s.store ++ [{ d with left := 0 }] }) ?_ rfl
  exact SameRegs.foldl (sameRegs_of_regs (s := s) rfl) fun u q _ => offerQueue_sameRegs u d q

/-- No context sends to the service, so that nothing waits for room in its holding area. -/
theorem commitWaiting_of_none {s : State} {n : Nat} (h : ∀ c < 256, usesSvc s n c = false) : commitWaiting s n = s := by
  unfold commitWaiting
  refine List.foldlRecOn (motive := fun t => t = s) ctxList _ rfl fun t ht c hc => ?_
  rw [ht, h c (List.mem_range.1 hc), if_neg Bool.false_ne_true]

section storeMove
variable {v : Fin 1024} {s : State} {d : Dgram} {rest : List Dgram} (hd : (getSvc s v).held = d :: rest)
include hd

theorem exec_storeMove_full (hr : storeRoom s d.bytes = false) : exec (.storeMove v) s = .next s := by
  change execStoreMove v s = _
  rw [execStoreMove, hd]
  exact if_neg (by simp [hr])

/-- The first datagram that waits moves into the store, as written now. -/
def moved (s : State) (n : Nat) (d : Dgram) (rest : List Dgram) : State :=
  storeD (modSvc s n ({ · with held := rest })) { d with at_ := s.devtime }

omit hd in
theorem moved_keep (s : State) (n : Nat) (d : Dgram) (rest : List Dgram) :
    Keeps [.regs, .svcs, .queues, .store, .perf] s (moved s n d rest) :=
  storeD_keeps (modSvc_keeps (.refl _ s) rfl) rfl

omit hd in
theorem getSvc_moved (s : State) (n : Nat) (d : Dgram) (rest : List Dgram) :
    (getSvc (moved s n d rest) n).held = rest := by
  rw [moved, getSvc_congr ((storeD_keep _ _).svcs (by decide)), getSvc_modSvc]

omit hd in
theorem usesSvc_moved (s : State) (n : Nat) (d : Dgram) (rest : List Dgram) (m c : Nat) :
    usesSvc (moved s n d rest) m c = usesSvc s m c := by
  have hregs : SameRegs s (moved s n d rest) fun p _ => p = 0x120 :=
    (sameRegs_of_regs (t := modSvc s n ({ · with held := rest })) rfl).trans (storeD_sameRegs _ _)
  exact (SameCtx.of_sameRegs hregs (fun _ => by unfold ctxPage; omega) ((moved_keep s n d rest).ctxs (by decide))).usesSvc m

theorem exec_storeMove_room (hr : storeRoom s d.bytes = true) (hn : ∀ c < 256, usesSvc s v c = false) :
    exec (.storeMove v) s = .next (moved s v d rest) := by
  change execStoreMove v s = _
  rw [execStoreMove, hd]
  refine (if_pos hr).trans (congrArg _ (commitWaiting_of_none fun c hc => ?_))
  exact (usesSvc_moved s v d rest v c).trans (hn c hc)

end storeMove

end Sys2Proof.Machine
end

section
/-! PROOFS. The PTP servo (R213, R214), and O26. -/

namespace Sys2Proof.Machine

/-! ### LOCKED -/

theorem setPtpLocked_sameRegs (s : State) (b : Bool) :
    SameRegs s (setPtpLocked s b) fun p o => p = 0x112 ∧ o = 0x44 ∨ p = 0x110 ∧ o = 0x2C := by
  unfold setPtpLocked
  split
  · exact .refl _ _
  · refine SameRegs.then_setIrq (SameRegs.then_fset (SameRegs.refl s _) ?_ ?_ _) (.inr ⟨rfl, rfl⟩) 4
    · decide
    · exact .inl ⟨rfl, rfl⟩

theorem setPtpLocked_keep (s : State) (b : Bool) : Keeps [.regs, .srcs] s (setPtpLocked s b) :=
  setPtpLocked_keeps (.refl _ s) rfl

theorem qget_setPtpLocked (s : State) (b : Bool) :
    qget (setPtpLocked s b) 0x112 F.PKT2_PTP_OFFSET_LO_LO = qget s 0x112 F.PKT2_PTP_OFFSET_LO_LO :=
  qget_of_rget (setPtpLocked_sameRegs s b _ _ (by decide) (by decide)) (setPtpLocked_sameRegs s b _ _ (by decide) (by decide))

theorem fget_setIrq_other (s : State) {q p : Nat} (m : Nat) {r : Row} (ho : r.at 0 < 4096) (hq : q ≠ p) :
    fget (setIrq s p m) q r = fget s q r := (sameRegs_setIrq s p m).fget ho fun h => hq h.1

theorem fbit_setPtpLocked (s : State) (b : Bool) : fbit (setPtpLocked s b) 0x112 F.PKT2_PTP_STAT_LOCKED = b := by
  unfold setPtpLocked
  split
  · next h => exact h
  · rw [fbit, fget_setIrq_other _ _ (by decide) (by decide)]
    exact fbit_fsetb_self s 0x112 F.PKT2_PTP_STAT_LOCKED b 0 (by decide) (by decide)

theorem fget_setPtpLocked (s : State) (b : Bool) {r : Row} (ho : r.at 0 < 4096) (h : apart F.PKT2_PTP_STAT_LOCKED r = true) :
    fget (setPtpLocked s b) 0x112 r = fget s 0x112 r := by
  unfold setPtpLocked
  split
  · rfl
  · rw [fget_setIrq_other _ _ ho (by decide)]
    exact fget_fset_apart _ _ _ _ _ _ h

/-! ### PTP_OFFSET steps -/

theorem syncGate_sameRegs (s : State) (p : Nat) : SameRegs s (syncGate s p) fun q _ => q = portPage p := by
  unfold syncGate
  dsimp only
  exact ((sameRegs_fset_page _ _ _ (by decide)).trans (sameRegs_fset_page _ _ _ (by decide))).trans
    (sameRegs_fset_page _ _ _ (by decide))

/-- What a step writes before the schedules follow it. -/
def offsetStepped (s : State) (v : Int) : State :=
  fset (qset s 0x112 F.PKT2_PTP_OFFSET_LO_LO (twos 64 ((qget s 0x112 F.PKT2_PTP_OFFSET_LO_LO : Int) + v))) 0x112
    F.PKT2_PTP_STAT_STEPPED 1

/-- The causes and the schedules lie on other pages. -/
theorem stepOffset_sameRegs (s : State) {v : Int} (hv : v ≠ 0) :
    SameRegs (offsetStepped s v) (stepOffset s v) fun p _ => p ≠ 0x112 := by
  rw [stepOffset, if_neg hv]
  refine SameRegs.foldl (SameRegs.then_setIrq (SameRegs.refl _ _) (by decide) 8) fun u p _ => ?_
  exact (syncGate_sameRegs u p).mono fun q _ hq => by rw [hq, portPage]; omega

theorem twos_lt (w : Nat) (v : Int) : twos w v < 2 ^ w := by
  have hpos : (0 : Int) < 2 ^ w := by positivity
  have hlt := Int.emod_lt_of_pos v hpos
  rw [twos, Int.toNat_lt (Int.emod_nonneg _ hpos.ne')]
  exact_mod_cast hlt

section stepOffset
variable (s : State) {v : Int} (hv : v ≠ 0)
include hv

theorem qget_stepOffset : qget (stepOffset s v) 0x112 F.PKT2_PTP_OFFSET_LO_LO =
    twos 64 ((qget s 0x112 F.PKT2_PTP_OFFSET_LO_LO : Int) + v) := by
  have hregs := stepOffset_sameRegs s hv
  rw [qget_of_rget (hregs _ _ (by decide) (by decide)) (hregs _ _ (by decide) (by decide)), offsetStepped,
    qget_of_rget (rget_fset_ne _ _ _ _ _ _ _ (by decide)) (rget_fset_ne _ _ _ _ _ _ _ (by decide)), qget_qset_self,
    Nat.mod_eq_of_lt (twos_lt _ _)]

theorem fbit_stepOffset_stepped : fbit (stepOffset s v) 0x112 F.PKT2_PTP_STAT_STEPPED = true := by
  rw [(stepOffset_sameRegs s hv).fbit (by decide) (by decide)]
  exact fbit_fsetb_self _ _ F.PKT2_PTP_STAT_STEPPED true 0 (by decide) (by decide)

theorem fget_stepOffset {r : Row} (ho : r.at 0 < 4096) (h : apart F.PKT2_PTP_STAT_STEPPED r = true)
    (hoff : r.at 0 ≠ 0x48 ∧ r.at 0 ≠ 0x4C) : fget (stepOffset s v) 0x112 r = fget s 0x112 r := by
  rw [(stepOffset_sameRegs s hv).fget ho (by decide), offsetStepped, fget_fset_apart _ _ _ _ _ _ h, fget, qset,
    rget_rset_ne _ _ (F.PKT2_PTP_OFFSET_LO_LO.at 0 + 4) _ _ _ (regKey_ne ho (by decide) fun k => hoff.2 k.2),
    rget_rset_ne _ _ (F.PKT2_PTP_OFFSET_LO_LO.at 0) _ _ _ (regKey_ne ho (by decide) fun k => hoff.1 k.2), fget]

end stepOffset

/-! ### A Sync of the selected master -/

/-- A port of PORT_MASK is one of eight. -/
theorem ptpTakes_port {s : State} {f : PtpFrom} (h : ptpTakes s f = true) : f.port < 8 := by
  simp only [ptpTakes, Bool.and_eq_true] at h
  obtain ⟨⟨⟨-, hbit⟩, -⟩, -⟩ := h
  by_contra hport
  have hlt := (fget_lt s 0x112 F.PKT2_PTP_CTL_PORT_MASK 0).trans_le (Nat.pow_le_pow_right (by decide) (Nat.not_lt.1 hport))
  rw [Nat.testBit_lt_two_pow hlt] at hbit
  cases hbit

theorem exec_ptpMessage_sync {s : State} {f : PtpFrom} (err : Int) (ht : ptpTakes s f = true) (hm : fromMaster s f = true) :
    exec (.ptpMessage (.sync f err)) s = .next (ptpSync s f.port err) := if_pos (by rw [ht, hm]; rfl)

theorem exec_ptpMessage_sync_ignored {s : State} {f : PtpFrom} (err : Int) (h : ptpTakes s f = false ∨ fromMaster s f = false) :
    exec (.ptpMessage (.sync f err)) s = .next s := if_neg (by rcases h with h | h <;> simp [h])

/-- PTP_STAT once a Sync of the selected master was heard on a port. -/
def heard (s : State) (port : Nat) : State :=
  fset (fset s 0x112 F.PKT2_PTP_STAT_PORT port) 0x112 F.PKT2_PTP_STAT_HOLDOVER 0

theorem fget_heard_port (s : State) {port : Nat} (h : port < 8) : fget (heard s port) 0x112 F.PKT2_PTP_STAT_PORT = port := by
  rw [heard, fget_fset_apart _ _ _ _ _ _ (by decide), fget_fset_self _ _ _ _ _ (by decide)]
  exact Nat.mod_eq_of_lt h

theorem fbit_heard_holdover (s : State) (port : Nat) : fbit (heard s port) 0x112 F.PKT2_PTP_STAT_HOLDOVER = false :=
  fbit_fsetb_self _ _ F.PKT2_PTP_STAT_HOLDOVER false 0 (by decide) (by decide)

theorem heard_sameRegs (s : State) (port : Nat) : SameRegs s (heard s port) fun p o => p = 0x112 ∧ o = 0x44 := by
  refine SameRegs.then_fset (SameRegs.then_fset (SameRegs.refl s _) ?_ ?_ _) ?_ ?_ _ <;> decide

/-- The run of good Syncs starts again at `n`. -/
def withGood (s : State) (n : Nat) : State := { s with ptp := { s.ptp with good := n } }

/-- An error above 1 ms, after the first lock. -/
theorem ptpSync_large (s : State) (port : Nat) {err : Int} (h : 1000000 < err) (hl : s.ptp.everLocked = true) :
    ptpSync s port err = setPtpLocked (withGood (stepOffset (heard s port) (-err)) 0) false := by
  have hl' : (heard s port).ptp.everLocked = true := hl
  have h1 : 1000000 < err.natAbs := by omega
  have h2 : ¬err.natAbs < 1000 := by omega
  have h3 : 10000 < err.natAbs := by omega
  unfold ptpSync
  dsimp only
  rw [← heard, if_pos h1, if_pos hl', if_neg h2, if_neg (by decide), if_pos h3]
  rfl

/-- The servo sets the rate by a free value. -/
def rateSet (s : State) : State :=
  useFree (fset s 0x112 F.PKT2_PTP_RATE_RATE (twos 32 ((freeNat s % 400000001 : Nat) - 200000000 : Int)))

/-- An error below 1 us that does not yet complete the lock. -/
theorem ptpSync_small (s : State) (port : Nat) {err : Int} (h : err.natAbs < 1000) (hg : s.ptp.good + 1 < 16) :
    ptpSync s port err = withGood (rateSet (heard s port)) (s.ptp.good + 1) := by
  have h1 : ¬1000000 < err.natAbs := by omega
  have h3 : ¬10000 < err.natAbs := by omega
  have hg' : ¬16 ≤ (rateSet (heard s port)).ptp.good + 1 := Nat.not_le.2 hg
  unfold ptpSync
  dsimp only
  rw [← heard, if_neg h1, ← rateSet, if_pos h, if_neg hg', if_neg h3]
  rfl

theorem rateSet_sameRegs (s : State) : SameRegs s (rateSet s) fun p o => p = 0x112 ∧ o = 0x50 := by
  have hset : SameRegs s (fset s 0x112 F.PKT2_PTP_RATE_RATE
      (twos 32 ((freeNat s % 400000001 : Nat) - 200000000 : Int))) fun p o => p = 0x112 ∧ o = 0x50 := by
    refine SameRegs.then_fset (SameRegs.refl s _) ?_ ?_ _ <;> decide
  exact hset.then_regs rfl

/-- An error above 1 ms steps PTP_OFFSET, after the first lock. -/
theorem ptpSync_steps {s : State} {port : Nat} (hport : port < 8) {err : Int} (h : 1000000 < err)
    (hl : s.ptp.everLocked = true) :
    let t := ptpSync s port err
    fget t 0x112 F.PKT2_PTP_STAT_PORT = port ∧ fbit t 0x112 F.PKT2_PTP_STAT_STEPPED = true ∧
      fbit t 0x112 F.PKT2_PTP_STAT_LOCKED = false ∧ t.ptp.good = 0 ∧ t.mem = s.mem ∧
      qget t 0x112 F.PKT2_PTP_OFFSET_LO_LO = twos 64 ((qget s 0x112 F.PKT2_PTP_OFFSET_LO_LO : Int) - err) := by
  have hv : -err ≠ 0 := by omega
  have hmem := (ptpSync_keeps (.refl _ s) rfl : Keeps [.free, .regs, .srcs, .ptp] s (ptpSync s port err)).mem (by decide)
  refine ⟨?_, ?_, ?_, ?_, hmem, ?_⟩
  case refine_4 =>
    rw [ptpSync_large s port h hl, (setPtpLocked_keep _ false).ptp (by decide)]
    rfl
  all_goals
    rw [ptpSync_large s port h hl]
  · rw [fget_setPtpLocked _ _ (by decide) (by decide)]
    exact (fget_stepOffset _ hv (by decide) (by decide) (by decide)).trans (fget_heard_port s hport)
  · rw [fbit, fget_setPtpLocked _ _ (by decide) (by decide)]
    exact fbit_stepOffset_stepped (heard s port) hv
  · exact fbit_setPtpLocked _ _
  · rw [qget_setPtpLocked]
    refine (qget_stepOffset (heard s port) hv).trans ?_
    rw [qget_of_rget (heard_sameRegs s port _ _ (by decide) (by decide)) (heard_sameRegs s port _ _ (by decide) (by decide)),
      Int.sub_eq_add_neg]

/-- An error within 1 us counts towards the lock. -/
theorem ptpSync_counts {s : State} {port : Nat} (hport : port < 8) {err : Int} (h : err.natAbs < 1000)
    (hg : s.ptp.good + 1 < 16) :
    let t := ptpSync s port err
    fget t 0x112 F.PKT2_PTP_STAT_PORT = port ∧ fbit t 0x112 F.PKT2_PTP_STAT_HOLDOVER = false ∧
      t = { s with regs := t.regs, free := s.free + 1, ptp := { s.ptp with good := s.ptp.good + 1 } } ∧
      SameRegs s t fun page off => page = 0x112 ∧ (off = 0x44 ∨ off = F.PKT2_PTP_RATE_RATE.off) := by
  have hregs := rateSet_sameRegs (heard s port)
  dsimp only
  rw [ptpSync_small s port h hg]
  refine ⟨?_, ?_, rfl, ?_⟩
  · exact (hregs.fget (by decide) (by decide)).trans (fget_heard_port s hport)
  · exact (hregs.fbit (by decide) (by decide)).trans (fbit_heard_holdover s port)
  · exact (((heard_sameRegs s port).mono fun _ _ k => ⟨k.1, .inl k.2⟩).trans
      (hregs.mono fun _ _ k => ⟨k.1, .inr k.2⟩)).then_regs rfl

/-! ### The selected master is lost -/

/-- The agent without its selected master, in holdover. -/
def masterLost (s : State) : State :=
  setPtpLocked (fset { s with ptp := { s.ptp with
    good := 0, masters := s.ptp.masters.filter fun m => bestMaster s.ptp.masters != some m } } 0x112
    F.PKT2_PTP_STAT_HOLDOVER 1) false

theorem exec_announceReceiptTimeout {s : State} (h : fbit s 0x112 F.PKT2_PTP_CTL_ENABLE = true) :
    exec .announceReceiptTimeout s = .next (masterLost s) := if_pos h

theorem exec_announceReceiptTimeout_off {s : State} (h : fbit s 0x112 F.PKT2_PTP_CTL_ENABLE = false) :
    exec .announceReceiptTimeout s = .next s := if_neg (by rw [h]; decide)

theorem masterLost_spec (s : State) :
    fbit (masterLost s) 0x112 F.PKT2_PTP_STAT_HOLDOVER = true ∧ fbit (masterLost s) 0x112 F.PKT2_PTP_STAT_LOCKED = false ∧
      (masterLost s).ptp = { s.ptp with
        good := 0, masters := s.ptp.masters.filter fun m => bestMaster s.ptp.masters != some m } ∧
      (masterLost s).mem = s.mem := by
  refine ⟨?_, fbit_setPtpLocked _ _, (setPtpLocked_keep _ false).ptp (by decide), (setPtpLocked_keep _ false).mem (by decide)⟩
  rw [masterLost, fbit, fget_setPtpLocked _ _ (by decide) (by decide)]
  exact fbit_fsetb_self _ _ F.PKT2_PTP_STAT_HOLDOVER true 0 (by decide) (by decide)

/-- Settles O26: what a slot carries is read off the branches of the multiplexer, each of which ends by putting one packet
into a datagram with room; a datagram leaves its service whole; the servo writes PTP_STAT, PTP_RATE and PTP_OFFSET. -/
theorem multiplex : Obligations.Multiplex := by
  unfold Obligations.Multiplex
  refine ⟨fun v s => ?_, fun s => ?_⟩
  · dsimp only
    refine ⟨?table, ?video, ?audio, ?idle, ?drop, ?flush, ?move⟩
    case table => exact fun p rest hslot hp => slot_sends_table hslot hp
    case video =>
      exact fun u rest hslot hpsi hq => ⟨fun hpcr ha hlen => slot_sends_video hslot hpsi hpcr ha hq hlen,
        fun hpcr hlen => slot_sends_video_pcr hslot hpsi hpcr hq hlen⟩
    case audio => exact fun a rest d hslot hpsi hpcr ha hd => slot_sends_audio hslot hpsi hpcr ha hd
    case idle =>
      exact fun hslot hpsi hq => ⟨fun hpcr => slot_sends_pcr hslot hpsi hpcr hq,
        fun hpcr ha => slot_sends_null hslot hpsi hpcr ha hq⟩
    case drop => exact fun a rest ha ht => ⟨_, exec_audioDrop ha ht, rfl, getSvc_modSvc _ _ _⟩
    case flush => exact fun hon hrate hpack ht => ⟨_, exec_datagramFlush hon hrate hpack ht, finishDgram_spec s v⟩
    case move =>
      refine fun d rest hd => ⟨fun hr => ⟨_, exec_storeMove_full hd hr, rfl⟩, fun hr hn => ⟨_, exec_storeMove_room hd hr hn, ?_⟩⟩
      have hk := moved_keep s v d rest
      exact ⟨getSvc_moved s v d rest, hk.mem (by decide), hk.ctxs (by decide)⟩
  · refine ⟨?ignored, ?sync, ?announce, ?lost, ?off⟩
    case ignored => exact fun f err h => ⟨_, exec_ptpMessage_sync_ignored err h, rfl⟩
    case sync =>
      exact fun f err ht hm => ⟨fun h hl => ⟨_, exec_ptpMessage_sync err ht hm, ptpSync_steps (ptpTakes_port ht) h hl⟩,
        fun h hg => ⟨_, exec_ptpMessage_sync err ht hm, ptpSync_counts (ptpTakes_port ht) h hg⟩⟩
    case announce => exact fun f rank => ⟨fun ht => ⟨_, if_neg (by rw [ht]; decide), rfl⟩, fun ht => ⟨_, if_pos ht, rfl⟩⟩
    case lost => exact fun h => ⟨_, exec_announceReceiptTimeout h, masterLost_spec s⟩
    case off => exact fun h => ⟨_, exec_announceReceiptTimeout_off h, rfl⟩

end Sys2Proof.Machine
end

section
/-! PROOFS. Shapers and frames (R211, R223–R228, R324): O28. -/

namespace Sys2Proof.Machine

/-! ### A refill tick -/

/-- Without a change of settings a bucket fills to its cap. -/
theorem bucketTick_unchanged (level : Int) (rate k newRate burst : Nat) (forgive : Bool) :
    bucketTick level rate k newRate burst false forgive = min (level + (rate * 2 ^ k : Nat)) (burst * 1000 : Nat) := rfl

/-- `y` is `x` after a tick in which no setting took force. -/
def Filled (x y : Shaper) : Prop :=
  y.levC = min (x.levC + ((x.rateC * 2 ^ x.k : Nat) : Int)) ((x.burstC * 1000 : Nat) : Int) ∧
    y.levP = min (x.levP + ((x.rateP * 2 ^ x.k : Nat) : Int)) ((x.burstP * 1000 : Nat) : Int) ∧ y.rateC = x.rateC ∧ y.k = x.k

theorem Shaper.tick_filled {x : Shaper} (h : x.pend = false) : Filled x x.tick := by
  simp only [Filled, Shaper.tick, h, Bool.false_eq_true, if_false, bucketTick_unchanged, and_self]

/-- `y` has the settings that were pending in `x`. -/
def Applied (x y : Shaper) : Prop :=
  y.pend = false ∧ y.rateC = x.newRateC ∧ y.rateP = x.newRateP ∧ y.k = x.newK ∧ y.burstC = x.newBurstC ∧ y.burstP = x.newBurstP

theorem Shaper.tick_applied {x : Shaper} (h : x.pend = true) : Applied x x.tick := by
  simp only [Applied, Shaper.tick, h, if_true, and_self]

/-- The shaper of a node. -/
def nodeShaper (t : State) : Node → Shaper
  | .queue q => (getQueue t q).shaper
  | .service n => (getSnode t n).shaper
  | .tclass p tc => tcShaper t p tc
  | .port p => (getPnode t p).port

/-- A node that is there: a queue has to be allocated. -/
def nodePresent (s : State) : Node → Prop
  | .queue q => (getQueue s q).allocated = true
  | _ => True

theorem exec_refillTick_between {node : Node} {s : State} (h : atTick s (nodeShaper s node).k = false) :
    exec (.refillTick node) s = .next s := by
  have hoff : ¬atTick s (nodeShaper s node).k = true := Bool.not_eq_true _ ▸ h
  change execRefillTick node s = _
  cases node with
  | queue q => exact if_neg fun k => hoff (Bool.and_eq_true_iff.1 k).2
  | service n => exact if_neg hoff
  | tclass p tc => exact if_neg hoff
  | port p => exact if_neg hoff

/-- At its tick the shaper of a node ticks, and no other kind of state changes. -/
theorem does_refillTick {node : Node} {s : State} (hp : nodePresent s node) (h : atTick s (nodeShaper s node).k = true) :
    Does (.refillTick node) s fun t => nodeShaper t node = (nodeShaper s node).tick ∧
      t = { s with queues := t.queues, snodes := t.snodes, pnodes := t.pnodes } := by
  cases node with
  | queue q => exact ⟨_, if_pos (Bool.and_eq_true_iff.2 ⟨hp, h⟩), congrArg Queue.shaper (getQueue_modQueue _ _ _), rfl⟩
  | service n => exact ⟨_, if_pos h, congrArg SvcNode.shaper (getSnode_modSnode _ _ _), rfl⟩
  | tclass p tc =>
    refine ⟨_, if_pos h, ?_, rfl⟩
    change tcShaper _ p tc = (tcShaper s p tc).tick
    rw [tcShaper, getPnode_modPnode, tget_tput_self, tcShaper]
  | port p => exact ⟨_, if_pos h, congrArg PortNode.port (getPnode_modPnode _ _ _), rfl⟩

/-! ### A write of a shaper's word -/

/-- The words of a shaper with one of them written. -/
def newShape (w : ShapeWords) (word : Fin 4) (v : Nat) : ShapeWords :=
  match word with
  | 0 => { w with c := (if bitsOf v 26 3 = 7 then splice v 26 3 w.k else v) % 2 ^ 29 }
  | 1 => { w with p := v % 2 ^ 26 }
  | 2 => { w with bc := v % 2 ^ 24 }
  | 3 => { w with bp := v % 2 ^ 24 }

/-- The words fit their registers. -/
structure ShapeWords.Fits (w : ShapeWords) : Prop where
  c : w.c < 2 ^ 32
  p : w.p < 2 ^ 32
  bc : w.bc < 2 ^ 32
  bp : w.bp < 2 ^ 32

theorem portShape_fits (s : State) (p i : Nat) : (portShape s p i).Fits :=
  ⟨rget_lt _ _ _, rget_lt _ _ _, rget_lt _ _ _, rget_lt _ _ _⟩

theorem newShape_fits {w : ShapeWords} (h : w.Fits) (word : Fin 4) (v : Nat) : (newShape w word v).Fits := by
  have hmod (x : Nat) {k : Nat} (hk : k ≤ 32) : x % 2 ^ k < 2 ^ 32 :=
    (Nat.mod_lt _ (by positivity)).trans_le (Nat.pow_le_pow_right (by decide) hk)
  match word with
  | 0 => exact ⟨hmod _ (by decide), h.p, h.bc, h.bp⟩
  | 1 => exact ⟨h.c, hmod _ (by decide), h.bc, h.bp⟩
  | 2 => exact ⟨h.c, h.p, hmod _ (by decide), h.bp⟩
  | 3 => exact ⟨h.c, h.p, h.bc, hmod _ (by decide)⟩

/-- The registers of a shaper hold the words `w`. -/
def shapeStored (s : State) (p i : Nat) (w : ShapeWords) : State :=
  let page := portPage p
  let o := 0x40 + 0x10 * i
  rset (rset (rset (rset s page o w.c) page (o + 4) w.p) page (o + 8) w.bc) page (o + 12) w.bp

theorem portShape_shapeStored (s : State) (p i : Nat) {w : ShapeWords} (h : w.Fits) :
    portShape (shapeStored s p i w) p i = w := by
  have hne {a b : Nat} (hab : a ≠ b) : regKey (portPage p) (0x40 + 0x10 * i + a) ≠ regKey (portPage p) (0x40 + 0x10 * i + b) := by
    unfold regKey
    omega
  have hc : rget (shapeStored s p i w) (portPage p) (0x40 + 0x10 * i + 0) = w.c := by
    rw [shapeStored, rget_rset_ne _ _ _ _ _ _ (hne (by decide)), rget_rset_ne _ _ _ _ _ _ (hne (by decide)),
      rget_rset_ne _ _ _ _ _ _ (hne (by decide))]
    exact (rget_rset_self _ _ _ _).trans (Nat.mod_eq_of_lt h.c)
  have hp : rget (shapeStored s p i w) (portPage p) (0x40 + 0x10 * i + 4) = w.p := by
    rw [shapeStored, rget_rset_ne _ _ _ _ _ _ (hne (by decide)), rget_rset_ne _ _ _ _ _ _ (hne (by decide)),
      rget_rset_self, Nat.mod_eq_of_lt h.p]
  have hbc : rget (shapeStored s p i w) (portPage p) (0x40 + 0x10 * i + 8) = w.bc := by
    rw [shapeStored, rget_rset_ne _ _ _ _ _ _ (hne (by decide)), rget_rset_self, Nat.mod_eq_of_lt h.bc]
  have hbp : rget (shapeStored s p i w) (portPage p) (0x40 + 0x10 * i + 12) = w.bp := by
    rw [shapeStored, rget_rset_self, Nat.mod_eq_of_lt h.bp]
  exact congr (congr (congr (congrArg ShapeWords.mk hc) hp) hbc) hbp

theorem shapeStored_sameRegs (s : State) (p : Nat) {i : Nat} (hi : i < 9) (w : ShapeWords) :
    SameRegs s (shapeStored s p i w) fun q off => q = portPage p ∧ 0x40 + 0x10 * i ≤ off ∧ off < 0x50 + 0x10 * i := by
  have hset (u : State) {o : Nat} (h1 : 0x40 + 0x10 * i ≤ o) (h2 : o < 0x50 + 0x10 * i) (v : Nat) :
      SameRegs u (rset u (portPage p) o v) fun q off => q = portPage p ∧ 0x40 + 0x10 * i ≤ off ∧ off < 0x50 + 0x10 * i :=
    (sameRegs_rset u v (by omega)).mono fun _ _ h => ⟨h.1, by omega, by omega⟩
  exact (((hset s (by omega) (by omega) _).trans (hset _ (by omega) (by omega) _)).trans
    (hset _ (by omega) (by omega) _)).trans (hset _ (by omega) (by omega) _)

/-- The shaper of a port's node 0, or of its class `i - 1`. -/
def portNode (t : State) (p : Nat) (i : Fin 9) : Shaper := if i = 0 then (getPnode t p).port else tcShaper t p (i.val - 1)

/-- A port whose node `i` has new settings pending. -/
def reshaped (i : Fin 9) (w : ShapeWords) (x : PortNode) : PortNode :=
  if i = 0 then { x with port := x.port.write w false }
  else { x with tcs := tput shaper0 x.tcs (i.val - 1) ((tget shaper0 x.tcs (i.val - 1)).write w false) }

theorem portNode_reshaped (s t : State) (p : Nat) (i : Fin 9) (w : ShapeWords) (h : getPnode t p = getPnode s p) :
    portNode (modPnode t p (reshaped i w)) p i = (portNode s p i).write w false := by
  unfold portNode tcShaper
  rw [getPnode_modPnode, reshaped, h]
  split
  · rfl
  · rw [tget_tput_self]

theorem portShape_congr {s t : State} (h : t.regs = s.regs) (p i : Nat) : portShape t p i = portShape s p i := by
  unfold portShape
  simp only [rget_congr h]

/-- A port page with the words `w` of a shaper, pending in its node. -/
def shaperWritten (s : State) (p : Nat) (i : Fin 9) (w : ShapeWords) : State :=
  modPnode (shapeStored s p i w) p (reshaped i w)

theorem writeShaper_eq (s : State) (p : Nat) (i : Fin 9) (word : Fin 4) (v : Nat) : writeShaper s p i word v =
    let w := newShape (portShape s p i) word v
    if w.ok = false then fset s (portPage p) F.SHALEP_GATE_CTL_SHAPE_ERR 1
    else shaperWritten s p i w := by
  have hreshaped (w : ShapeWords) : reshaped i w = fun x =>
      if i.val = 0 then { x with port := x.port.write w false }
      else { x with tcs := tput shaper0 x.tcs (i.val - 1) ((tget shaper0 x.tcs (i.val - 1)).write w false) } :=
    funext fun x => if_congr Fin.ext_iff rfl rfl
  simp only [← Bool.not_eq_true', shaperWritten, hreshaped]
  match word with
  | 0 => rfl
  | 1 => rfl
  | 2 => rfl
  | 3 => rfl

theorem exec_shaperWrite_bad {p : Fin 8} {i : Fin 9} {word : Fin 4} {val : Word} {s : State}
    (h : (newShape (portShape s p i) word val.toNat).ok = false) :
    exec (.shaperWrite p i word val) s = .next (fset s (portPage p) F.SHALEP_GATE_CTL_SHAPE_ERR 1) :=
  congrArg _ ((writeShaper_eq s p i word val.toNat).trans (if_pos h))

theorem exec_shaperWrite_good {p : Fin 8} {i : Fin 9} {word : Fin 4} {val : Word} {s : State} {w : ShapeWords}
    (hw : newShape (portShape s p i) word val.toNat = w) (h : w.ok = true) :
    exec (.shaperWrite p i word val) s = .next (shaperWritten s p i w) := by
  subst hw
  exact congrArg _ ((writeShaper_eq s p i word val.toNat).trans (if_neg (by rw [h]; decide)))

/-- The words read back, and the node has them pending. -/
theorem shaperWritten_spec (s : State) (p : Nat) (i : Fin 9) {w : ShapeWords} (hw : w.Fits) :
    portShape (shaperWritten s p i w) p i = w ∧ portNode (shaperWritten s p i w) p i = (portNode s p i).write w false ∧
      shaperWritten s p i w = { s with regs := (shaperWritten s p i w).regs, pnodes := (shaperWritten s p i w).pnodes } ∧
      SameRegs s (shaperWritten s p i w) fun q off =>
        q = portPage p ∧ 0x40 + 0x10 * i.val ≤ off ∧ off < 0x50 + 0x10 * i.val :=
  ⟨(portShape_congr (modPnode_regs _ _ _) p i).trans (portShape_shapeStored s p i hw), portNode_reshaped s _ p i w rfl, rfl,
    (shapeStored_sameRegs s p i.isLt w).then_regs (modPnode_regs _ _ _)⟩

/-! ### Old heads are dropped -/

theorem ageDrops_sameRegs (n : Nat) (s : State) (q : Nat) : SameRegs s (ageDrops n s q) fun p _ => p = 0x120 := by
  induction n generalizing s with
  | zero => exact .refl _ _
  | succ n ih =>
    unfold ageDrops
    split
    · exact .refl _ _
    · split
      · exact .refl _ _
      · split
        · exact (dropFrom_sameRegs s q _).trans (ih _)
        · exact .refl _ _

/-- The heads of a port's queues that are too old are dropped. -/
def headsDropped (s : State) (p : Nat) : State :=
  (portQueues s p).foldl (fun s q => ageDrops (getQueue s q).holds.length s q) s

theorem headsDropped_sameRegs (s : State) (p : Nat) : SameRegs s (headsDropped s p) fun q _ => q = 0x120 :=
  SameRegs.foldl (.refl s _) fun u q _ => ageDrops_sameRegs _ u q

theorem headsDropped_keep (s : State) (p : Nat) : Keeps [.regs, .queues, .store, .perf] s (headsDropped s p) :=
  .foldl (.refl _ s) fun _ _ h => ageDrops_keeps h rfl

theorem ethPage_ne {p : Nat} (hp : p < 8) : ethPage p ≠ 0x120 := by
  unfold ethPage
  omega

theorem headsDropped_link (s : State) {p : Nat} (hp : p < 8) :
    fbit (headsDropped s p) (ethPage p) F.ETH_STATUS_LINK = fbit s (ethPage p) F.ETH_STATUS_LINK :=
  (headsDropped_sameRegs s p).fbit (by decide) (ethPage_ne hp)

/-! ### A frame leaves -/

/-- A queue whose head has gone as a frame of a counted length. -/
def dequeued (rest : List Nat) (len : Nat) (x : Queue) : Queue :=
  { x with holds := rest, sent := (x.sent + 1) % 2 ^ 32, shaper := x.shaper.charge len }

/-- Queue, service, class and port are charged for a frame of a counted length. -/
def charged (s : State) (p tc n q : Nat) (rest : List Nat) (len : Nat) : State :=
  modPnode (modSnode (modQueue s q (dequeued rest len)) n
    fun x => { x with sent := (x.sent + 1) % 2 ^ 32, shaper := x.shaper.charge len }) p
    fun x => { x with
      port := x.port.charge len, tcs := tput shaper0 x.tcs tc ((tget shaper0 x.tcs tc).charge len)
      lastS := tput 1023 x.lastS tc n, lastQ := tput 32767 x.lastQ n q }

/-- The event counters of a frame. -/
def frameCounted (s : State) (p len : Nat) : State :=
  countEv (countEv (countEv s 626 1) (593 + 4 * p) (len - 20)) (595 + 4 * p) 1

/-- Datagram `h` has left a queue as a frame of port `p`. -/
def frameSent (s : State) (p tc n q h : Nat) (rest : List Nat) (d : Dgram) : State :=
  let len := countedLen (getQueue s q).words d
  releaseD (frameCounted (charged (useFrees s d.ts.length) p tc n q rest len) p len) h

theorem charged_keeps {w : List StateField} {a s : State} {p tc n q : Nat} {rest : List Nat} {len : Nat} (h : Keeps w a s)
    (hw : within [.queues, .snodes, .pnodes] w = true) : Keeps w a (charged s p tc n q rest len) :=
  modPnode_keeps (modSnode_keeps (modQueue_keeps h (within_trans rfl hw)) (within_trans rfl hw)) (within_trans rfl hw)

theorem frameCounted_keeps {w : List StateField} {a s : State} {p len : Nat} (h : Keeps w a s)
    (hw : within [.perf] w = true) : Keeps w a (frameCounted s p len) :=
  countEv_keeps (countEv_keeps (countEv_keeps h hw) hw) hw

theorem fget_fadd_self (s : State) (p : Nat) {r : Row} (n : Nat) (h : r.lo + r.width ≤ 32) :
    fget (fadd s p r n) p r = (fget s p r + n) % 2 ^ r.width := fget_fset_self _ _ _ _ _ h

section sendFrame
variable (s : State) (p tc n q h : Nat) (rest : List Nat) (d : Dgram)

theorem frameSent_keep : Keeps [.free, .queues, .snodes, .pnodes, .store, .perf] s (frameSent s p tc n q h rest d) := by
  exact releaseD_keeps (frameCounted_keeps (charged_keeps (useFrees_keeps (.refl _ s) rfl) rfl) rfl) rfl

theorem getQueue_frameSent : getQueue (frameSent s p tc n q h rest d) q =
    dequeued rest (countedLen (getQueue s q).words d) (getQueue s q) := by
  have hqueues : (frameSent s p tc n q h rest d).queues =
      (modQueue (useFrees s d.ts.length) q (dequeued rest (countedLen (getQueue s q).words d))).queues := rfl
  exact (getQueue_congr hqueues q).trans (getQueue_modQueue _ _ _)

variable {s q h rest d}

theorem sendFrame_eq (hh : (getQueue s q).holds = h :: rest) (hd : findD s h = some d) : sendFrame s p tc n q =
    emit (fadd (frameSent s p tc n q h rest d) (ethPage p) F.ETH_CNT_TX_COUNT 1)
      (.frame p q h (frameBytes (portAddr s p) (getQueue s q).words d (pcrStc s (getQueue s q).words d))) := by
  rw [sendFrame, hh]
  dsimp only
  rw [hd]
  rfl

/-- One frame is put out and counted, its queue charged for it. -/
theorem sendFrame_spec (hh : (getQueue s q).holds = h :: rest) (hd : findD s h = some d) :
    getQueue (sendFrame s p tc n q) q = dequeued rest (countedLen (getQueue s q).words d) (getQueue s q) ∧
      (sendFrame s p tc n q).out =
        .frame p q h (frameBytes (portAddr s p) (getQueue s q).words d (pcrStc s (getQueue s q).words d)) :: s.out ∧
      (sendFrame s p tc n q).mem = s.mem ∧
      fget (sendFrame s p tc n q) (ethPage p) F.ETH_CNT_TX_COUNT =
        (fget s (ethPage p) F.ETH_CNT_TX_COUNT + 1) % 2 ^ 32 := by
  have hk := frameSent_keep s p tc n q h rest d
  have hqueue := getQueue_frameSent s p tc n q h rest d
  rw [sendFrame_eq p tc n hh hd]
  generalize frameSent s p tc n q h rest d = t at hk hqueue
  refine ⟨(getQueue_congr rfl q).trans hqueue, congrArg (_ :: ·) (hk.out (by decide)), hk.mem (by decide), ?_⟩
  have htx : fget (fadd t (ethPage p) F.ETH_CNT_TX_COUNT 1) (ethPage p) F.ETH_CNT_TX_COUNT =
      (fget t (ethPage p) F.ETH_CNT_TX_COUNT + 1) % 2 ^ 32 := fget_fadd_self t (ethPage p) 1 (by decide)
  rw [fget_congr (emit_regs _ _), htx, fget_congr (hk.regs (by decide))]

end sendFrame

theorem exec_portFrameStart_none {p : Fin 8} {s : State}
    (h : s.pins.stopped = true ∨ fbit s (ethPage p) F.ETH_STATUS_LINK = false) :
    exec (.portFrameStart p) s = .next (headsDropped s p) := by
  refine if_pos ?_
  change ((headsDropped s p).pins.stopped || !fbit (headsDropped s p) (ethPage p) F.ETH_STATUS_LINK) = true
  rw [(headsDropped_keep s p).pins (by decide), headsDropped_link s p.isLt]
  rcases h with h | h <;> simp [h]

theorem exec_portFrameStart_sends {p : Fin 8} {s : State} {tc n q : Nat} (hrun : s.pins.stopped = false)
    (hlink : fbit s (ethPage p) F.ETH_STATUS_LINK = true) (hc : choose (headsDropped s p) p = some (tc, n, q)) :
    exec (.portFrameStart p) s = .next (sendFrame (headsDropped s p) p tc n q) := by
  change execPortFrameStart p s = _
  unfold execPortFrameStart
  dsimp only
  rw [← headsDropped, if_neg, hc]
  rw [(headsDropped_keep s p).pins (by decide), headsDropped_link s p.isLt, hrun, hlink]
  decide

/-- Settles O28: a tick and a write act on one shaper, whose words read back from the port page; dropping old heads writes
only the page of Shale's block, so that the link and the frame counter are those from before. -/
theorem shapersAndFrames : Obligations.ShapersAndFrames := by
  unfold Obligations.ShapersAndFrames
  refine ⟨fun node s => ?refill, fun p i word val s => ?write, fun p s => ?frame⟩
  case refill =>
    change (atTick s (nodeShaper s node).k = false → _) ∧ (nodePresent s node → _) ∧ (nodePresent s node → _)
    refine ⟨fun h => ⟨_, exec_refillTick_between h, rfl⟩, fun hp h hpend => ?_, fun hp h hpend => ?_⟩
    · obtain ⟨t, ht, hs, heq⟩ := does_refillTick hp h
      obtain ⟨hc, hl, hr, hk⟩ := hs ▸ Shaper.tick_filled hpend
      exact ⟨t, ht, hc, hl, hr, hk, heq⟩
    · obtain ⟨t, ht, hs, heq⟩ := does_refillTick hp h
      obtain ⟨h1, h2, h3, h4, h5, h6⟩ := hs ▸ Shaper.tick_applied hpend
      exact ⟨t, ht, h1, h2, h3, h4, h5, h6, heq⟩
  case write =>
    change ((newShape (portShape s p i) word val.toNat).ok = false → _) ∧
      ((newShape (portShape s p i) word val.toNat).ok = true → _)
    refine ⟨fun h => ⟨_, exec_shaperWrite_bad h, ?_, rfl, ?_⟩, fun h => ⟨_, exec_shaperWrite_good rfl h, ?_⟩⟩
    · exact fbit_fsetb_self s (portPage p) F.SHALEP_GATE_CTL_SHAPE_ERR true 0 (by decide) (by decide)
    · exact sameRegs_rset s _ (by decide)
    · obtain ⟨hread, hnode, heq, hregs⟩ := shaperWritten_spec s p i (newShape_fits (portShape_fits s p i) word val.toNat)
      change _ ∧ (portNode _ p i).pend = true ∧ (portNode _ p i).newRateC = _ ∧ (portNode _ p i).newRateP = _ ∧
        (portNode _ p i).newK = _ ∧ (portNode _ p i).newBurstC = _ ∧ (portNode _ p i).newBurstP = _ ∧
        (portNode _ p i).levC = (portNode s p i).levC ∧ _
      rw [hnode]
      exact ⟨hread, rfl, rfl, rfl, rfl, rfl, rfl, rfl, heq, hregs⟩
  case frame =>
    dsimp only
    rw [← headsDropped]
    have hk := headsDropped_keep s p
    refine ⟨fun h => ⟨_, exec_portFrameStart_none h, rfl, hk.out (by decide), hk.mem (by decide)⟩, ?_⟩
    intro tc n q h rest d hrun hlink hc hh hd
    obtain ⟨hqueue, hout, hmem, htx⟩ := sendFrame_spec p tc n hh hd
    have hcount := (headsDropped_sameRegs s p).fget (r := F.ETH_CNT_TX_COUNT) (i := 0) (by decide) (ethPage_ne p.isLt)
    refine ⟨_, exec_portFrameStart_sends hrun hlink hc, ?_, hout.trans (congrArg _ (hk.out (by decide))), ?_,
      hmem.trans (hk.mem (by decide)), ?_, htx.trans (by rw [hcount])⟩ <;> rw [hqueue] <;> rfl

end Sys2Proof.Machine
end

section
/-! PROOFS. Frames that a port receives, and packets that a flow releases (R196, R198–R205). -/

namespace Sys2Proof.Machine

/-! ### Which frames a port takes -/

/-- A frame without error, of a length that the port takes (R196). -/
def FrameWhole (s : State) (p : Nat) (f : Frame) : Prop :=
  f.fcsOk = true ∧ 64 ≤ f.bytes ∧ f.bytes ≤ fget s (ethPage p) F.ETH_MAX_FRAME_BYTES + 4 * min 1 f.tags

/-- A frame that R198 does not drop. -/
def FrameGood (s : State) (p : Nat) (f : Frame) : Prop :=
  FrameWhole s p f ∧ f.tags < 2 ∧ macAccepted s p f.dstMac = true ∧ f.ipBad = false ∧ f.udpBad = false

/-- A frame is counted as received. -/
def frameTaken (s : State) (p bytes : Nat) : State :=
  countEv (countEv (fadd s (ethPage p) F.ETH_CNT_RX_COUNT 1) (592 + 4 * p) bytes) (594 + 4 * p) 1

section receive
variable {s : State} {p : Nat} {f : Frame}

theorem receiveFrame_broken (h : ¬FrameWhole s p f) : receiveFrame s p f = fadd s (ethPage p) F.ETH_CNT_RX_ERR_COUNT 1 := by
  refine if_pos ?_
  simp only [FrameWhole, not_and_or, Nat.not_le] at h
  simp only [Bool.or_eq_true, Bool.not_eq_true', decide_eq_true_eq]
  rcases h with h | h | h
  · exact .inl (.inl (Bool.eq_false_of_not_eq_true h))
  · exact .inl (.inr h)
  · exact .inr h

theorem FrameWhole.passes (h : FrameWhole s p f) : ¬(!f.fcsOk || decide (f.bytes < 64) ||
    decide (fget s (ethPage p) F.ETH_MAX_FRAME_BYTES + 4 * min 1 f.tags < f.bytes)) = true := by
  obtain ⟨hfcs, hmin, hmax⟩ := h
  simp [hfcs, hmin, hmax]

theorem receiveFrame_bad (hw : FrameWhole s p f) (h : ¬FrameGood s p f) :
    receiveFrame s p f = fadd s (ethPage p) F.ETH_CNT_RX_DROP_COUNT 1 := by
  refine (if_neg hw.passes).trans (if_pos ?_)
  simp only [FrameGood, hw, true_and, not_and_or, Nat.not_lt, Bool.not_eq_true, Bool.not_eq_false] at h
  simp only [Bool.or_eq_true, Bool.not_eq_true', decide_eq_true_eq]
  tauto

/-- A good frame is treated by its payload. -/
theorem FrameGood.passes (h : FrameGood s p f) :
    ¬(decide (2 ≤ f.tags) || !macAccepted s p f.dstMac || f.ipBad || f.udpBad) = true := by
  obtain ⟨-, htags, hmac, hip, hudp⟩ := h
  simp [htags, hmac, hip, hudp]

theorem receiveFrame_pause (h : FrameGood s p f) (hp : f.payload = .pause) :
    receiveFrame s p f = fadd s (ethPage p) F.ETH_CNT_RX_DROP_COUNT 1 := by
  refine (if_neg h.1.passes).trans ((if_neg h.passes).trans ?_)
  rw [hp]

theorem receiveFrame_bedrock (h : FrameGood s p f) (hp : f.payload = .bedrock) :
    receiveFrame s p f = toBedrock (frameTaken s p f.bytes) p := by
  refine (if_neg h.1.passes).trans ((if_neg h.passes).trans ?_)
  rw [hp]
  rfl

theorem receiveFrame_media (h : FrameGood s p f) {rtp : Bool} {v q ts bytes n k : Nat}
    (hp : f.payload = .media rtp v q ts bytes) (hc : classify s p f = some (n, k)) :
    receiveFrame s p f = takeDatagram (frameTaken s p f.bytes) n k f := by
  refine (if_neg h.1.passes).trans ((if_neg h.passes).trans ?_)
  rw [hp, hc]
  rfl

end receive

theorem exec_frameReceive {p : Fin 8} {s : State} (f : Frame) (h : fbit s (ethPage p) F.ETH_STATUS_LINK = true) :
    exec (.frameReceive p f) s = .next (receiveFrame s p f) := if_pos h

theorem exec_frameReceive_down {p : Fin 8} {s : State} (f : Frame) (h : fbit s (ethPage p) F.ETH_STATUS_LINK = false) :
    exec (.frameReceive p f) s = .next s := if_neg (by rw [h]; decide)

/-- A frame is counted, and nothing else happens. -/
theorem does_count {c : Instr} {s : State} {page : Nat} {r : Row} (h : exec c s = .next (fadd s page r 1))
    (hw : r.lo = 0 ∧ r.width = 32) (ho : r.at 0 < 4096) : Does c s fun t =>
      fget t page r = (fget s page r + 1) % 2 ^ 32 ∧ t = { s with regs := t.regs } ∧
        SameRegs s t fun q off => q = page ∧ off = r.at 0 := by
  refine ⟨_, h, ?_, rfl, sameRegs_rset s _ ho⟩
  rw [fget_fadd_self _ _ _ (by rw [hw.1, hw.2]), hw.2]

/-! ### A frame that is taken -/

theorem frameTaken_keep (s : State) (p bytes : Nat) : Keeps [.regs, .perf] s (frameTaken s p bytes) :=
  countEv_keeps (countEv_keeps (fadd_keeps (.refl _ s) rfl) rfl) rfl

theorem frameTaken_sameRegs (s : State) (p bytes : Nat) : SameRegs s (frameTaken s p bytes) fun q _ => q = ethPage p :=
  (sameRegs_fset_page s (ethPage p) _ (by decide)).then_regs ((countEv_regs _ _ _).trans (countEv_regs _ _ _))

theorem fget_frameTaken (s : State) (p bytes : Nat) : fget (frameTaken s p bytes) (ethPage p) F.ETH_CNT_RX_COUNT =
    (fget s (ethPage p) F.ETH_CNT_RX_COUNT + 1) % 2 ^ 32 := by
  rw [frameTaken, fget_congr ((countEv_regs _ _ _).trans (countEv_regs _ _ _))]
  exact fget_fadd_self s (ethPage p) 1 (by decide)

/-- A frame for Bedrock is handed over. -/
theorem toBedrock_frameTaken (s : State) (p bytes : Nat) :
    let t := toBedrock (frameTaken s p bytes) p
    fget t (ethPage p) F.ETH_CNT_RX_COUNT = (fget s (ethPage p) F.ETH_CNT_RX_COUNT + 1) % 2 ^ 32 ∧
      fbit t 1 F.BDRK1_STATUS_AWAKE = true ∧ t.out = .toBedrock p :: s.out ∧ t.mem = s.mem ∧ t.flows = s.flows := by
  have hk := frameTaken_keep s p bytes
  have hrx := fget_frameTaken s p bytes
  generalize frameTaken s p bytes = u at hk hrx
  refine ⟨?_, ?_, congrArg (_ :: ·) (hk.out (by decide)), hk.mem (by decide), hk.flows (by decide)⟩
  · rw [toBedrock, fget_congr (emit_regs _ _), fget_fset_ne _ _ _ _ _ _ _ _ (regKey_ne (by decide) (by decide) ?_), hrx]
    unfold ethPage
    omega
  · rw [toBedrock, fbit_congr (emit_regs _ _)]
    exact fbit_fsetb_self u 1 F.BDRK1_STATUS_AWAKE true 0 (by decide) (by decide)

/-! ### A media packet joins its flow -/

/-- The datagram counts among what flows have taken. -/
def datagramTaken (s : State) (bytes : Nat) : State := countEv (ingestCount s bytes) 624 bytes

theorem takeDatagram_media {s : State} {n : Nat} {fr : Frame} {v q ts bytes : Nat}
    (hp : fr.payload = .media false v q ts bytes) (hm : (getFlow s n).merges = false) (hf : (getFlow s n).form = 0)
    (ho : ingestOver s fr.bytes = false) (h0 : bytes ≠ 0) (h188 : bytes % 188 = 0) (hmax : bytes ≤ 1316) :
    takeDatagram s n 0 fr = placePacket (datagramTaken s fr.bytes) n (q % 65536) (ts % 2 ^ 32) bytes := by
  unfold takeDatagram
  dsimp only
  rw [hp, hm, hf, ho]
  simp [h0, h188, Nat.not_lt.2 hmax, datagramTaken]

/-- A flow in order of arrival that has taken a packet. -/
def arrived (now bytes : Nat) (x : Flow) : Flow :=
  { x with held := insertPacket ⟨x.highest + 1, bytes, now + x.delayNs, false⟩ x.held
           highest := max x.highest (x.highest + 1), rx := (x.rx + 1) % 2 ^ 32 }

/-- Without FEC packets there is nothing to repair. -/
theorem repairFlow_noFec {s : State} {n : Nat} (h : (getFlow s n).fec = []) :
    repairFlow s n = modFlow s n fun _ => getFlow s n := by
  unfold repairFlow
  dsimp only
  rw [h]
  rfl

theorem placePacket_arrived {s : State} {n : Nat} (seq ts : Nat) {bytes : Nat} (hf : (getFlow s n).form = 0)
    (hp : (getFlow s n).passed ((getFlow s n).highest + 1) = false)
    (hroom : jbUsed s n + bytes ≤ (getFlow s n).jb64 * 65536) :
    placePacket s n seq ts bytes = repairFlow (modFlow s n fun _ => arrived s.devtime bytes (getFlow s n)) n := by
  have hform : ¬(0 : Nat) = 1 := by decide
  unfold placePacket
  simp only [hf, beq_eq_false_iff_ne.2 hform, Bool.false_and, Bool.false_eq_true, if_false, if_true, hform, false_and]
  rw [hp, if_neg Bool.false_ne_true, if_neg (Nat.not_lt.2 hroom), relTime, if_pos hf]
  rfl

theorem getFlow_placePacket {s : State} {n : Nat} (seq ts : Nat) {bytes : Nat} (hf : (getFlow s n).form = 0)
    (hfec : (getFlow s n).fec = []) (hp : (getFlow s n).passed ((getFlow s n).highest + 1) = false)
    (hroom : jbUsed s n + bytes ≤ (getFlow s n).jb64 * 65536) :
    getFlow (placePacket s n seq ts bytes) n = arrived s.devtime bytes (getFlow s n) := by
  have hflow : getFlow (modFlow s n fun _ => arrived s.devtime bytes (getFlow s n)) n =
      arrived s.devtime bytes (getFlow s n) := getFlow_modFlow _ _ _
  rw [placePacket_arrived seq ts hf hp hroom, repairFlow_noFec ((congrArg Flow.fec hflow).trans hfec), getFlow_modFlow, hflow]

theorem jbUsed_congr {s t : State} (n : Nat) (hflows : t.flows = s.flows) (hctxs : t.ctxs = s.ctxs)
    (huse : ∀ c, usesFlow t n c = usesFlow s n c) : jbUsed t n = jbUsed s n := by
  unfold jbUsed
  dsimp only
  rw [getFlow_congr hflows, hctxs]
  simp only [huse]

/-- What a flow sees of a media packet is the state from before, but for counters. -/
theorem takeDatagram_frameTaken {s : State} {p : Fin 8} {fr : Frame} {v q ts bytes n : Nat}
    (hp : fr.payload = .media false v q ts bytes) (hm : (getFlow s n).merges = false) (hf : (getFlow s n).form = 0)
    (hfec : (getFlow s n).fec = []) (hpass : (getFlow s n).passed ((getFlow s n).highest + 1) = false)
    (ho : ingestOver s fr.bytes = false) (h0 : bytes ≠ 0) (h188 : bytes % 188 = 0) (hmax : bytes ≤ 1316)
    (hroom : jbUsed s n + bytes ≤ (getFlow s n).jb64 * 65536) :
    let t := takeDatagram (frameTaken s p fr.bytes) n 0 fr
    fget t (ethPage p) F.ETH_CNT_RX_COUNT = (fget s (ethPage p) F.ETH_CNT_RX_COUNT + 1) % 2 ^ 32 ∧ t.mem = s.mem ∧
      getFlow t n = arrived s.devtime bytes (getFlow s n) := by
  have hk := frameTaken_keep s p fr.bytes
  have hflow : getFlow (frameTaken s p fr.bytes) n = getFlow s n := getFlow_congr (hk.flows (by decide)) n
  have hover : ingestOver (frameTaken s p fr.bytes) fr.bytes = false := by
    rw [ingestOver, lastMs, hk.ptp (by decide), hk.devtime (by decide)]
    exact ho
  dsimp only
  rw [takeDatagram_media hp (hflow ▸ hm) (hflow ▸ hf) hover h0 h188 hmax]
  have hu : Keeps [.regs, .ptp, .perf] s (datagramTaken (frameTaken s p fr.bytes) fr.bytes) :=
    countEv_keeps (ingestCount_keeps (countEv_keeps (countEv_keeps (fadd_keeps (.refl _ s) rfl) rfl) rfl) rfl) rfl
  have hregs : (datagramTaken (frameTaken s p fr.bytes) fr.bytes).regs = (frameTaken s p fr.bytes).regs := rfl
  have hsame : SameRegs s (datagramTaken (frameTaken s p fr.bytes) fr.bytes) fun q _ => q = ethPage p :=
    (frameTaken_sameRegs s p fr.bytes).then_regs hregs
  have hrx := (fget_congr hregs _ _ _).trans (fget_frameTaken s p fr.bytes)
  generalize datagramTaken (frameTaken s p fr.bytes) fr.bytes = u at hu hsame hrx
  have hflow' : getFlow u n = getFlow s n := getFlow_congr (hu.flows (by decide)) n
  have huse (c : Nat) : usesFlow u n c = usesFlow s n c := by
    refine (SameCtx.of_sameRegs hsame (fun _ => ?_) (hu.ctxs (by decide))).usesFlow n
    unfold ctxPage ethPage
    omega
  have hjb : jbUsed u n = jbUsed s n := jbUsed_congr n (hu.flows (by decide)) (hu.ctxs (by decide)) huse
  have hplace : Keeps [.flows] u (placePacket u n (q % 65536) (ts % 2 ^ 32) bytes) := placePacket_keeps (.refl _ u) rfl
  refine ⟨(fget_congr (hplace.regs (by decide)) _ _ _).trans hrx, (hplace.mem (by decide)).trans (hu.mem (by decide)), ?_⟩
  rw [getFlow_placePacket _ _ (hflow' ▸ hf) (hflow' ▸ hfec) (hflow' ▸ hpass) (by rw [hjb, hflow']; exact hroom), hflow',
    hu.devtime (by decide)]

end Sys2Proof.Machine
end

section
/-! PROOFS. Packets that a flow releases (R203–R205). -/

namespace Sys2Proof.Machine

/-- Positions that are missing before a packet that a flow releases. -/
def gapsBefore (f : Flow) (p : Packet) : Nat :=
  match f.next with
  | none => 0
  | some k => p.seq - k

/-- A flow that has released its first held packet. -/
def releasedFlow (p : Packet) (rest : List Packet) (f : Flow) : Flow :=
  { f with held := rest, next := some (p.seq + 1), lost := (f.lost + gapsBefore f p) % 2 ^ 32
           released := p.seq :: f.released.filter fun k => p.seq < k + 32768 }

def releasedPacket (s : State) (n : Nat) (p : Packet) (rest : List Packet) : State := modFlow s n (releasedFlow p rest)

section release
variable {s : State} {n : Nat} {p : Packet} {rest : List Packet}

theorem getFlow_releasedPacket : getFlow (releasedPacket s n p rest) n = releasedFlow p rest (getFlow s n) :=
  getFlow_modFlow _ _ _

section held
variable (h : (getFlow s n).held = p :: rest)
include h

theorem releasePacket_early (ht : s.devtime < p.rel) (ts : List TsIn) : releasePacket s n ts = s := by
  unfold releasePacket
  dsimp only
  rw [h]
  exact if_pos ht

theorem releasePacket_due (ht : p.rel ≤ s.devtime) (ts : List TsIn) : releasePacket s n ts =
    ts.foldl (fun s t => demux s n t) (if gapsBefore (getFlow s n) p = 0 then releasedPacket s n p rest
      else gapHere (releasedPacket s n p rest) n) := by
  unfold releasePacket
  dsimp only
  rw [h]
  refine (if_neg (Nat.not_lt.2 ht)).trans ?_
  have hstate : (modFlow s n fun x => { x with
      held := rest, next := some (p.seq + 1), lost := (x.lost + gapsBefore (getFlow s n) p) % 2 ^ 32
      released := p.seq :: x.released.filter fun k => p.seq < k + 32768 }) = releasedPacket s n p rest := rfl
  rw [← hstate]
  rfl

end held

/-- Where bytes are missing, the flow keeps what it released, and the cause is raised. -/
theorem gapHere_spec (s : State) (n : Nat) :
    (getFlow (gapHere s n) n).held = (getFlow s n).held ∧ (getFlow (gapHere s n) n).next = (getFlow s n).next ∧
      (getFlow (gapHere s n) n).lost = (getFlow s n).lost ∧ (gapHere s n).mem = s.mem ∧
      (fget (gapHere s n) 0x110 F.HDR_IRQ_STATUS_CAUSE).testBit 1 = true := by
  have hmem := (gapHere_keeps (.refl _ s) rfl : Keeps [.regs, .srcs, .flows] s (gapHere s n)).mem (by decide)
  refine ⟨?_, ?_, ?_, hmem, setIrq_status _ _ _ _ (by decide) (by decide) (by decide)⟩ <;>
  · rw [gapHere, getFlow_congr (setIrq_flows _ _ _), getFlow_modFlow]

/-- A release without TS packets: the cause is raised where positions are missing. -/
theorem releasePacket_empty (h : (getFlow s n).held = p :: rest) (ht : p.rel ≤ s.devtime) :
    let t := releasePacket s n []
    (getFlow t n).held = rest ∧ (getFlow t n).next = some (p.seq + 1) ∧
      (getFlow t n).lost = ((getFlow s n).lost + gapsBefore (getFlow s n) p) % 2 ^ 32 ∧ t.mem = s.mem ∧
      (gapsBefore (getFlow s n) p = 0 → t = { s with flows := t.flows }) ∧
      (gapsBefore (getFlow s n) p ≠ 0 → (fget t 0x110 F.HDR_IRQ_STATUS_CAUSE).testBit 1 = true) := by
  have hflow : getFlow (releasedPacket s n p rest) n = releasedFlow p rest (getFlow s n) := getFlow_releasedPacket
  dsimp only
  rw [releasePacket_due h ht, List.foldl_nil]
  split
  · next hg =>
    rw [hflow]
    exact ⟨rfl, rfl, rfl, rfl, fun _ => rfl, fun hne => absurd hg hne⟩
  · next hg =>
    obtain ⟨hheld, hnext, hlost, hmem, hcause⟩ := gapHere_spec (releasedPacket s n p rest) n
    rw [hheld, hnext, hlost, hflow]
    exact ⟨rfl, rfl, rfl, hmem, fun h0 => absurd h0 hg, fun _ => hcause⟩

/-! ### A TS packet of the video -/

/-- The continuity counter of a payload's PID is noted. -/
def ccNoted (s : State) (n : Nat) (t : TsIn) : State :=
  if t.data = [] then s else modFlow s n fun x => { x with ccs := tput 0 x.ccs t.pid (t.cc % 16 + 1) }

/-- Only the counters of the flow change. -/
theorem ccNoted_spec (s : State) (n : Nat) (t : TsIn) : ccNoted s n t = { s with flows := (ccNoted s n t).flows } ∧
    ∃ l, getFlow (ccNoted s n t) n = { getFlow s n with ccs := l } := by
  unfold ccNoted
  split
  · exact ⟨rfl, _, rfl⟩
  · exact ⟨rfl, _, getFlow_modFlow _ _ _⟩

theorem demux_video {t : TsIn} (hv : videoPid s n = some t.pid) (hr : ccRepeats (getFlow s n) t = false)
    (hc : ccFollows (getFlow s n) t = true) (ht : t.table = none) : demux s n t = demuxVideo (ccNoted s n t) n t := by
  unfold demux
  dsimp only
  rw [hr, if_neg Bool.false_ne_true, hv, hc, ht]
  simp only [beq_self_eq_true, Bool.not_true, Bool.and_false, Bool.false_eq_true, if_false, if_true]
  rfl

theorem demuxVideo_start {t : TsIn} (h : t.start = true) (ho : (getFlow s n).openAu = none) :
    demuxVideo s n t = modFlow s n ({ · with
      openAu := some (t.pts % 2 ^ 33, t.dts.getD t.pts % 2 ^ 33, s.devtime), auBytes := t.data.length }) := by
  have hnone : completeAu s n t.au = s := by
    unfold completeAu
    dsimp only
    rw [ho]
  rw [demuxVideo, if_pos h, hnone]

theorem demuxVideo_more {t : TsIn} (h : t.start = false) :
    demuxVideo s n t = modFlow s n fun x => { x with
      openAu := x.openAu.map fun o => (o.1, o.2.1, s.devtime)
      auBytes := if x.openAu.isSome then x.auBytes + t.data.length else 0 } := by
  rw [demuxVideo, if_neg (by rw [h]; decide)]

/-- Which contexts read a flow does not depend on what the flow holds. -/
theorem readersOf_releasedPacket : readersOf (releasedPacket s n p rest) n = readersOf s n := by
  have hsame (c : Nat) : SameCtx c s (releasedPacket s n p rest) := .of_eq rfl rfl
  unfold readersOf
  refine List.filter_congr fun c _ => ?_
  rw [(hsame c).usesFlow, active_eq (s := s) (t := releasedPacket s n p rest) rfl rfl]

theorem videoPid_releasedPacket : videoPid (releasedPacket s n p rest) n = videoPid s n := by
  have hactive (c : Nat) : active (releasedPacket s n p rest) c = active s c := active_eq rfl rfl
  unfold videoPid
  rw [readersOf_releasedPacket, getFlow_releasedPacket]
  simp only [hactive]
  rfl

section video
variable {t : TsIn} (hh : (getFlow s n).held = p :: rest) (ht : p.rel ≤ s.devtime) (hg : gapsBefore (getFlow s n) p = 0)
  (hv : videoPid s n = some t.pid) (hr : ccRepeats (getFlow s n) t = false) (hc : ccFollows (getFlow s n) t = true)
  (htab : t.table = none)
include hh ht hg hv hr hc htab

/-- A released TS packet of the video reaches the open access unit. -/
theorem releasePacket_video : releasePacket s n [t] = demuxVideo (ccNoted (releasedPacket s n p rest) n t) n t := by
  have hflow : getFlow (releasedPacket s n p rest) n = releasedFlow p rest (getFlow s n) := getFlow_releasedPacket
  rw [releasePacket_due hh ht, if_pos hg]
  exact demux_video (videoPid_releasedPacket.trans hv) (by rw [hflow]; exact hr) (by rw [hflow]; exact hc) htab

theorem releasePacket_opens (hs : t.start = true) (ho : (getFlow s n).openAu = none) :
    let u := releasePacket s n [t]
    u = { s with flows := u.flows } ∧
      (getFlow u n).openAu = some (t.pts % 2 ^ 33, t.dts.getD t.pts % 2 ^ 33, s.devtime) ∧
      (getFlow u n).auBytes = t.data.length ∧ (getFlow u n).held = rest := by
  dsimp only
  rw [releasePacket_video hh ht hg hv hr hc htab]
  obtain ⟨hrest, l, hflow⟩ := ccNoted_spec (releasedPacket s n p rest) n t
  rw [getFlow_releasedPacket] at hflow
  generalize ccNoted (releasedPacket s n p rest) n t = u at hrest hflow
  rw [demuxVideo_start hs ((congrArg Flow.openAu hflow).trans ho), getFlow_modFlow, hflow]
  rw [hrest]
  exact ⟨rfl, rfl, rfl, rfl⟩

theorem releasePacket_adds (hs : t.start = false) {a b at_ : Nat} (ho : (getFlow s n).openAu = some (a, b, at_)) :
    let u := releasePacket s n [t]
    u = { s with flows := u.flows } ∧ (getFlow u n).openAu = some (a, b, s.devtime) ∧
      (getFlow u n).auBytes = (getFlow s n).auBytes + t.data.length ∧ (getFlow u n).held = rest := by
  dsimp only
  rw [releasePacket_video hh ht hg hv hr hc htab]
  obtain ⟨hrest, l, hflow⟩ := ccNoted_spec (releasedPacket s n p rest) n t
  rw [getFlow_releasedPacket] at hflow
  generalize ccNoted (releasedPacket s n p rest) n t = u at hrest hflow
  have hopen : (getFlow u n).openAu = some (a, b, at_) := (congrArg Flow.openAu hflow).trans ho
  have htime : u.devtime = s.devtime := by rw [hrest]; rfl
  rw [demuxVideo_more hs, getFlow_modFlow, hopen, hflow, htime]
  refine ⟨?_, rfl, rfl, rfl⟩
  rw [hrest]
  rfl

end video

end release

end Sys2Proof.Machine
end

section
/-! PROOFS. Access units that a context takes (R135, R205), and O23. -/

namespace Sys2Proof.Machine

/-! ### Pictures on which nothing can be done yet -/

/-- A picture of a network input that waits for its decoding: none of its samples exists. -/
structure Undecoded (p : DecPic) : Prop where
  sub : p.sub = none
  shows : p.shows = none
  half : p.half = none
  available : p.available = none
  output : p.output = false

section undecoded
variable {s : State} {c : Nat} (h : ∀ p ∈ (getCtx s c).decs, Undecoded p)
include h

theorem showsReady_undecoded : showsReady s c = s := by
  unfold showsReady
  refine List.foldlRecOn (motive := fun t => t = s) _ _ rfl fun t ht p hp => ?_
  rw [(h p hp).shows, ht]

theorem fieldsReady_undecoded : fieldsReady s c = s := by
  unfold fieldsReady
  refine List.foldlRecOn (motive := fun t => t = s) _ _ rfl fun t ht p hp => ?_
  rw [(h p hp).half, ht]

omit h in
theorem firstOut_mem {l : List DecPic} {p : DecPic} (h : firstOut l = some p) : p ∈ l := by
  induction l generalizing p with
  | nil => cases h
  | cons a l ih =>
    unfold firstOut at h
    split at h
    · exact Option.some.inj h ▸ List.mem_cons_self
    · next q hq =>
      split at h
      · exact Option.some.inj h ▸ List.mem_cons_self
      · exact Option.some.inj h ▸ List.mem_cons_of_mem _ (ih hq)

theorem outputPics_undecoded (n : Nat) : outputPics n s c = s := by
  cases n with
  | zero => rfl
  | succ n =>
    unfold outputPics
    split
    · rfl
    · next p hp =>
      have hmem : p ∈ (getCtx s c).decs := List.mem_of_mem_filter (firstOut_mem hp)
      have hdue : outputDue s c p = false := by
        unfold outputDue
        rw [(h p hmem).available]
        rfl
      rw [hdue, if_neg Bool.false_ne_true]

theorem getCtx_endHidden_undecoded : getCtx (endHidden s c) c = getCtx s c := by
  have hmap : (getCtx s c).decs.map (fun p => if hiddenOver s c p then { p with output := true } else p) =
      (getCtx s c).decs := by
    refine (List.map_congr_left fun p hp => if_neg ?_).trans (List.map_id _)
    unfold hiddenOver
    simp [(h p hp).available]
  rw [endHidden, getCtx_modCtx, hmap]

/-- No SUBMIT brought such a picture. -/
theorem subsDone_undecoded : subsDone s c = s := by
  unfold subsDone subsEnd
  refine List.foldlRecOn (motive := fun t => t = s) _ _ rfl fun t ht u _ => ?_
  have hown : (getCtx s c).decs.filter (fun p => p.sub == some u.num) = [] := by
    refine List.filter_eq_nil_iff.2 fun p hp => ?_
    rw [(h p hp).sub]
    exact Bool.false_ne_true
  rw [ht]
  dsimp only
  rw [hown]
  split <;> rfl

theorem getCtx_dropDecs_undecoded : ∃ r m, getCtx (dropDecs s c) c = { getCtx s c with decRefs := r, marred := m } := by
  have hfilter : (getCtx s c).decs.filter (fun p => !(p.output && p.readers == [] && unitOver (getCtx s c) p.unit)) =
      (getCtx s c).decs := by
    refine List.filter_eq_self.2 fun p hp => ?_
    rw [(h p hp).output]
    rfl
  refine ⟨(getCtx (dropDecs s c) c).decRefs, (getCtx (dropDecs s c) c).marred, ?_⟩
  rw [dropDecs, getCtx_modCtx]
  dsimp only
  rw [hfilter]

/-- A running context settles nothing but its references. -/
theorem settleDec_undecoded (ho : (getCtx s c).oldMem = []) (hst : ctxState s c = 3) :
    OnlyCtx c s (settleDec s c) ∧ ∃ r m, getCtx (settleDec s c) c = { getCtx s c with decRefs := r, marred := m } := by
  have hv : OnlyCtx c s (endHidden s c) := (OnlyCtx.refl c s).modCtx _
  have hvx := getCtx_endHidden_undecoded h
  have hundecoded : ∀ p ∈ (getCtx (endHidden s c) c).decs, Undecoded p := hvx ▸ h
  obtain ⟨r, m, hw⟩ := getCtx_dropDecs_undecoded hundecoded
  have honly : OnlyCtx c s (dropDecs (endHidden s c) c) := hv.modCtx _
  have hold : (getCtx (dropDecs (endHidden s c) c) c).oldMem = [] := by rw [hw, hvx]; exact ho
  have hsettle : settleDec s c = dropDecs (endHidden s c) c := by
    unfold settleDec
    dsimp only
    rw [showsReady_undecoded h, fieldsReady_undecoded h, outputPics_undecoded h, subsDone_undecoded hundecoded,
      dropOldMem_nil hold]
    refine if_neg fun k => ?_
    rw [honly.ctxState, hst] at k
    exact absurd k.1 (by decide)
  rw [hsettle]
  exact ⟨honly, r, m, by rw [hw, hvx]⟩

end undecoded

/-! ### An access unit from the network -/

/-- An access unit is counted. -/
def inCounted (s : State) (c : Nat) : State := fadd s (ctxPage c) F.CTX_CNT_IN_COUNT 1

/-- Rows of the active set lie above the registers that count. -/
theorem active_inCounted (s : State) (c : Nat) {r : Row} (h : 0x40 ≤ r.off) :
    active (inCounted s c) c r = active s c r := by
  have hreg : rget (inCounted s c) (ctxPage c) (r.off + 0x200) = rget s (ctxPage c) (r.off + 0x200) := by
    refine rget_fset_ne _ _ _ _ _ _ _ ?_
    unfold regKey Row.at
    simp only [F.CTX_CNT_IN_COUNT]
    omega
  unfold active activeRaw
  rw [hreg]
  rfl

/-- A parameter set is judged by rows of the set alone. -/
theorem haltCause_congr {g g' : Get} (h : ∀ r : Row, 0x40 ≤ r.off → g r = g' r) (a : AccessUnit) :
    haltCause g a = haltCause g' a := by
  unfold haltCause Get.codec Get.w Get.h Get.depth10 Get.c422
  rw [h F.CTX_CFG_STREAM_CODEC (by decide), h F.CTX_CFG_SIZE_WIDTH (by decide), h F.CTX_CFG_SIZE_HEIGHT (by decide),
    h F.CTX_CFG_STREAM_DEPTH10 (by decide), h F.CTX_CFG_STREAM_CHROMA422 (by decide), h F.CTX_CFG_STREAM_LEVEL (by decide)]

/-- Before the first RAP an access unit is counted nowhere. -/
theorem acceptNet_beforeRap {s : State} {c : Nat} {l : List AccessUnit} (h : (getCtx s c).started = false)
    (hl : ∀ a ∈ l, a.rap = false) (k : Arrival) : acceptNet s c k l = s := by
  have hany : l.any (·.rap) = false := by
    rw [List.any_eq_false]
    exact fun a ha => by rw [hl a ha]; decide
  exact if_neg fun e => by rw [h, hany] at e; exact absurd e.2 (by decide)

/-- A RAP that the context can decode and that codes a picture of its own joins its context. -/
theorem acceptAu_rap {s : State} {c : Nat} {k : Arrival} {a : AccessUnit} (hst : ctxState s c = 3)
    (hre : (getCtx s c).reconf = none) (hc : haltCause (active s c) a = 0) (hrap : a.rap = true) (hshow : a.show_ = none)
    (hrasl : a.rasl = false) : acceptAu s c k a = addDec (modCtx s c (notePs a)) c k a := by
  have hset : (if (a.rap && a.wellFormed) = true then applyReconf s c else s) = s := by
    rw [applyReconf_none hre, ite_self]
  unfold acceptAu
  dsimp only
  rw [if_neg (not_not.2 hst), hset, hc, hrap, hshow, hrasl]
  simp

/-- Decoding state registers show the stream (R132). -/
theorem decStat_sameRegs (s : State) (c : Nat) (a : AccessUnit) :
    SameRegs s (decStat s c a) fun p o => p = ctxPage c ∧ o < 0x200 := by
  have hset (u : State) {r : Row} (ho : r.at 0 < 0x200) (v : Nat) :
      SameRegs u (fset u (ctxPage c) r v) fun p o => p = ctxPage c ∧ o < 0x200 :=
    (sameRegs_rset u _ (by omega)).mono fun _ _ e => ⟨e.1, by omega⟩
  unfold decStat
  dsimp only
  exact ((((hset _ (by decide) _).trans (hset _ (by decide) _)).trans ((hset _ (by decide) _).trans (hset _ (by decide) _))).trans
    (hset _ (by decide) _)).trans (hset _ (by decide) _)

/-- The first picture of a context: it is that of the access unit, with the times of its arrival. -/
theorem addDec_first {s : State} {c : Nat} {k : Arrival} {a : AccessUnit} (hd : (getCtx s c).decs = []) (hsub : k.sub = none)
    (hunit : k.unit = (getCtx s c).picCount) : (getCtx (addDec s c k a) c).oldMem = (getCtx s c).oldMem ∧
      ∃ q, (getCtx (addDec s c k a) c).decs = [q] ∧ Undecoded q ∧ q.au = a ∧ q.pts = k.pts ∧ q.dts = k.dts ∧ q.jb = k.jb ∧
        q.tReady = k.at_ := by
  unfold addDec
  dsimp only
  rw [getCtx_modCtx]
  have hx : getCtx (if a.wellFormed = true then decStat s c a else s) c = getCtx s c := by
    split
    · exact getCtx_congr ((decStat_keeps (.refl _ s) rfl : Keeps [.regs] s (decStat s c a)).ctxs (by decide)) c
    · rfl
  rw [hx]
  dsimp only
  rw [hd, List.map_nil, List.nil_append]
  exact ⟨rfl, _, rfl, ⟨hsub, rfl, rfl, rfl, rfl⟩, rfl, rfl, rfl, if_pos hunit, rfl⟩

theorem addDec_sameRegs (s : State) (c : Nat) (k : Arrival) (a : AccessUnit) :
    SameRegs s (addDec s c k a) fun p o => p = ctxPage c ∧ o < 0x200 := by
  have hstat : SameRegs s (if a.wellFormed = true then decStat s c a else s) fun p o => p = ctxPage c ∧ o < 0x200 := by
    split
    · exact decStat_sameRegs s c a
    · exact .refl _ _
  exact hstat.then_regs (modCtx_regs _ _ _)

/-- The arrival of an access unit whose first picture has number `n`. -/
def Arrival.asUnit (k : Arrival) (n : Nat) : Arrival := { k with unit := n }

/-- An access unit of one picture, which no SUBMIT brought. -/
theorem acceptUnit_one {s : State} {c : Nat} {k : Arrival} {a : AccessUnit} (h : k.sub = none) :
    acceptUnit s c k [a] = acceptAu s c (k.asUnit (getCtx s c).picCount) a := by
  unfold acceptUnit
  dsimp only
  split
  · next hsome => exact absurd (h.symm.trans hsome) (by simp)
  · rfl

/-- Noting the parameter sets leaves the pictures of a context. -/
theorem notePs_kept (a : AccessUnit) (x : Ctx) :
    (notePs a x).decs = x.decs ∧ (notePs a x).oldMem = x.oldMem ∧ (notePs a x).picCount = x.picCount := by
  unfold notePs
  dsimp only
  split <;> exact ⟨rfl, rfl, rfl⟩

/-- A RAP has been counted and its picture has joined the context. -/
def rapTaken (s : State) (c : Nat) (k : Arrival) (a : AccessUnit) : State :=
  addDec (modCtx (inCounted s c) c (notePs a)) c (k.asUnit (getCtx s c).picCount) a

section rap
variable {s : State} {c : Nat} {k : Arrival} {a : AccessUnit}

theorem inCounted_sameRegs (s : State) (c : Nat) : SameRegs s (inCounted s c) fun p o => p = ctxPage c ∧ o = 0x210 :=
  sameRegs_rset s _ (by decide)

theorem ctxState_inCounted (s : State) (c : Nat) : ctxState (inCounted s c) c = ctxState s c :=
  (inCounted_sameRegs s c).fget (by decide) fun e => absurd e.2 (by decide)

theorem acceptNet_rap (hst : ctxState s c = 3) (hre : (getCtx s c).reconf = none) (hsub : k.sub = none)
    (hc : haltCause (active s c) a = 0) (hrap : a.rap = true) (hshow : a.show_ = none) (hrasl : a.rasl = false) :
    acceptNet s c k [a] = rapTaken s c k a := by
  have hcond : ctxState s c = 3 ∧ ((getCtx s c).started || [a].any (·.rap)) = true := ⟨hst, by simp [hrap]⟩
  have hcause : haltCause (active (inCounted s c) c) a = 0 :=
    (haltCause_congr (fun r hr => active_inCounted s c hr) a).trans hc
  exact (if_pos hcond).trans ((acceptUnit_one hsub).trans
    (acceptAu_rap ((ctxState_inCounted s c).trans hst) hre hcause hrap hshow hrasl))

/-- A running context without pictures counts its first RAP and holds its picture. -/
theorem rapTaken_spec (hst : ctxState s c = 3) (hd : (getCtx s c).decs = []) (hsub : k.sub = none) :
    (rapTaken s c k a).mem = s.mem ∧ ctxState (rapTaken s c k a) c = 3 ∧
      fget (rapTaken s c k a) (ctxPage c) F.CTX_CNT_IN_COUNT = (fget s (ctxPage c) F.CTX_CNT_IN_COUNT + 1) % 2 ^ 32 ∧
      (getCtx (rapTaken s c k a) c).oldMem = (getCtx s c).oldMem ∧
      ∃ q, (getCtx (rapTaken s c k a) c).decs = [q] ∧ Undecoded q ∧ q.au = a ∧ q.pts = k.pts ∧ q.dts = k.dts ∧ q.jb = k.jb ∧
        q.tReady = k.at_ := by
  have hnote : getCtx (modCtx (inCounted s c) c (notePs a)) c = notePs a (getCtx s c) := getCtx_modCtx _ _ _
  obtain ⟨hdecs, holdMem, hpics⟩ := hnote ▸ notePs_kept a (getCtx s c)
  have hregs : SameRegs (inCounted s c) (rapTaken s c k a) fun p o => p = ctxPage c ∧ o < 0x200 :=
    (sameRegs_of_regs (modCtx_regs (inCounted s c) c _)).trans (addDec_sameRegs _ _ _ _)
  have hmem := (addDec_keeps (modCtx_keeps (fadd_keeps (.refl _ s) rfl) rfl) rfl :
    Keeps [.regs, .ctxs] s (rapTaken s c k a)).mem (by decide)
  obtain ⟨hold, hpic⟩ := addDec_first (a := a) (k := k.asUnit (getCtx s c).picCount) (hdecs.trans hd) hsub hpics.symm
  refine ⟨hmem, ?_, ?_, hold.trans holdMem, hpic⟩
  · exact (hregs.fget (by decide) fun e => absurd e.2 (by decide)).trans ((ctxState_inCounted s c).trans hst)
  · exact (hregs.fget (by decide) fun e => absurd e.2 (by decide)).trans (fget_fadd_self s (ctxPage c) 1 (by decide))

end rap

/-! ### The open access unit of a flow is complete -/

/-- How the open access unit of a flow comes in. -/
def auArrival (s : State) (n pts dts : Nat) : Arrival :=
  ⟨none, pts, dts, s.devtime, (getFlow s n).gaps.map fun g => (g, g), (getFlow s n).auBytes, 0⟩

/-- A flow without an open access unit. -/
def auClosed (x : Flow) : Flow := { x with openAu := none, auBytes := 0, gaps := [] }

section timeout
variable {c : Fin 256} {au : List AccessUnit} {s : State} {n pts dts at_ : Nat}

theorem exec_accessUnitTimeout (hn : active s c F.CTX_CFG_IO_IN_FLOW = n) (ho : (getFlow s n).openAu = some (pts, dts, at_))
    (hr : readersOf s n = [c.val]) (ht : at_ + 2 * (active s c).period ≤ s.devtime) :
    exec (.accessUnitTimeout c au) s =
      .next (modFlow (settleDec (acceptNet s c (auArrival s n pts dts) au) c) n auClosed) := by
  have hmem : c.val ∈ readersOf s n := hr ▸ List.mem_singleton_self _
  obtain ⟨-, hreads⟩ := List.mem_filter.1 hmem
  simp only [Bool.and_eq_true] at hreads
  obtain ⟨⟨huse, hnet⟩, -⟩ := hreads
  have hcomplete : completeAu s n (some au) =
      modFlow (settleDec (acceptNet s c (auArrival s n pts dts) au) c) n auClosed := by
    unfold completeAu
    dsimp only
    rw [ho, hr]
    rfl
  change execAccessUnitTimeout c au s = _
  unfold execAccessUnitTimeout
  dsimp only
  rw [hn, ho, ← hcomplete]
  exact if_pos (by simp [huse, hnet, ht])

/-- `k` access units were counted, and none is open. -/
def Counted (s t : State) (c n k : Nat) : Prop :=
  (getFlow t n).openAu = none ∧ (getFlow t n).auBytes = 0 ∧ t.mem = s.mem ∧
    fget t (ctxPage c) F.CTX_CNT_IN_COUNT = (fget s (ctxPage c) F.CTX_CNT_IN_COUNT + k) % 2 ^ 32

/-- What a context settles leaves the count of access units. -/
theorem counted_closed {u w : State} {c n k : Nat} (hw : OnlyCtx c u w) (hmem : u.mem = s.mem)
    (hcount : fget u (ctxPage c) F.CTX_CNT_IN_COUNT = (fget s (ctxPage c) F.CTX_CNT_IN_COUNT + k) % 2 ^ 32) :
    Counted s (modFlow w n auClosed) c n k := by
  unfold Counted
  rw [getFlow_modFlow]
  exact ⟨rfl, rfl, hw.mem.trans hmem, (fget_congr ((modFlow_regs _ _ _).trans hw.regs) _ _ _).trans hcount⟩

section running
variable (hst : ctxState s c = 3) (hd : (getCtx s c).decs = []) (hold : (getCtx s c).oldMem = [])
include hst hd hold

theorem accessUnit_beforeRap (hs : (getCtx s c).started = false) (hau : ∀ a ∈ au, a.rap = false) :
    let t := modFlow (settleDec (acceptNet s c (auArrival s n pts dts) au) c) n auClosed
    Counted s t c n 0 ∧ (getCtx t c).started = false ∧ (getCtx t c).decs = [] := by
  dsimp only
  rw [acceptNet_beforeRap hs hau]
  obtain ⟨hw, r, m, hx⟩ := settleDec_undecoded (s := s) (c := c) (by rw [hd]; exact fun p hp => by cases hp) hold hst
  have hx' := (getCtx_congr (modFlow_ctxs _ n auClosed) c).trans hx
  exact ⟨counted_closed hw rfl (Nat.mod_eq_of_lt (fget_lt _ _ _ _)).symm, (congrArg Ctx.started hx').trans hs,
    (congrArg Ctx.decs hx').trans hd⟩

theorem accessUnit_rap {a : AccessUnit} (hre : (getCtx s c).reconf = none) (hc : haltCause (active s c) a = 0)
    (hrap : a.rap = true) (hshow : a.show_ = none) (hrasl : a.rasl = false) :
    let t := modFlow (settleDec (acceptNet s c (auArrival s n pts dts) [a]) c) n auClosed
    Counted s t c n 1 ∧ ∃ q, (getCtx t c).decs = [q] ∧ q.au = a ∧ q.pts = pts ∧ q.dts = dts ∧ q.jb = (getFlow s n).auBytes ∧
      q.tReady = s.devtime := by
  obtain ⟨hmem, hust, hcount, hold', q, hq, hundecoded, hau⟩ :=
    rapTaken_spec (k := auArrival s n pts dts) (a := a) hst hd rfl
  dsimp only
  rw [acceptNet_rap hst hre rfl hc hrap hshow hrasl]
  generalize rapTaken s c (auArrival s n pts dts) a = u at hmem hust hcount hold' hq
  have hall : ∀ p ∈ (getCtx u c).decs, Undecoded p := by
    rw [hq]
    exact fun p hp => List.mem_singleton.1 hp ▸ hundecoded
  obtain ⟨hw, r, m, hx⟩ := settleDec_undecoded hall (hold'.trans hold) hust
  have hx' := (getCtx_congr (modFlow_ctxs _ n auClosed) c).trans hx
  exact ⟨counted_closed hw hmem hcount, q, (congrArg Ctx.decs hx').trans hq, hau⟩

end running

end timeout

/-- Settles O23: a frame is judged by R196 and R198 and then by its payload; a packet is released into the demultiplexer; an
access unit ends in `acceptNet`, after which a context without decoded pictures has nothing to settle. -/
theorem ingest : Obligations.Ingest := by
  unfold Obligations.Ingest
  refine ⟨fun port f s => ?receive, fun n ts s p rest => ?release, fun c au s pts dts at_ => ?timeout⟩
  case receive =>
    refine ⟨fun h => ⟨_, exec_frameReceive_down f h, rfl⟩, fun h => ⟨?broken, ?bad, ?pause, ?bedrock, ?media⟩⟩
    case broken =>
      exact fun hw => does_count ((exec_frameReceive f h).trans (congrArg _ (receiveFrame_broken hw))) ⟨rfl, rfl⟩ (by decide)
    case bad =>
      exact fun hw hg => does_count ((exec_frameReceive f h).trans (congrArg _ (receiveFrame_bad hw hg))) ⟨rfl, rfl⟩ (by decide)
    case pause =>
      exact fun hg hp => does_count ((exec_frameReceive f h).trans (congrArg _ (receiveFrame_pause hg hp))) ⟨rfl, rfl⟩ (by decide)
    case bedrock =>
      exact fun hg hp => ⟨_, (exec_frameReceive f h).trans (congrArg _ (receiveFrame_bedrock hg hp)),
        toBedrock_frameTaken s port f.bytes⟩
    case media =>
      intro v q ts bytes n hg hp hc x hm hf hfec hpass ho h0 h188 hmax hroom
      obtain ⟨hrx, hmem, hflow⟩ := takeDatagram_frameTaken (p := port) hp hm hf hfec hpass ho h0 h188 hmax hroom
      exact ⟨_, (exec_frameReceive f h).trans (congrArg _ (receiveFrame_media hg hp hc)), hrx, hmem, congrArg Flow.held hflow,
        congrArg Flow.rx hflow⟩
  case release =>
    intro x gaps hh
    refine ⟨fun ht => ⟨_, rfl, releasePacket_early hh ht ts⟩, fun ht => ⟨_, rfl, ?_⟩, fun v ht hg hv hr hc htab => ⟨?_, ?_⟩⟩
    · exact releasePacket_empty hh ht
    · exact fun hs ho => ⟨_, rfl, releasePacket_opens hh ht hg hv hr hc htab hs ho⟩
    · exact fun a b at_ hs ho => ⟨_, rfl, releasePacket_adds hh ht hg hv hr hc htab hs ho⟩
  case timeout =>
    intro g n ho hr ht hst hd hold counted
    refine ⟨fun hs hau => ⟨_, exec_accessUnitTimeout rfl ho hr ht, accessUnit_beforeRap hst hd hold hs hau⟩, ?_⟩
    rintro a rfl hrap hc hshow hrasl hre
    exact ⟨_, exec_accessUnitTimeout rfl ho hr ht, accessUnit_rap hst hd hold hre hc hrap hshow hrasl⟩

end Sys2Proof.Machine
end

section
/-! PROOFS. The window on subscriber queues, and the ends of drains and old heads (R221–R223, R226, R228): O27. -/

namespace Sys2Proof.Machine

/-! ### The result of a window command -/

section result
variable (s : State) {r : Nat}

theorem fget_winDone (hr : r < 8) : fget (winDone s r) 0x120 F.SHALE0_WIN_CMD_RESULT = r :=
  (fget_fset_self _ _ _ _ _ (by decide)).trans (Nat.mod_eq_of_lt hr)

theorem winDone_sameRegs (r : Nat) : SameRegs s (winDone s r) fun page off => page = 0x120 ∧ off = 0x44 :=
  sameRegs_rset s _ (by decide)

end result

/-- A window command ends with a result and does nothing else. -/
def WinEnds (s : State) (r : Nat) (t : State) : Prop :=
  fget t 0x120 F.SHALE0_WIN_CMD_RESULT = r ∧ t = { s with regs := t.regs } ∧
    SameRegs s t fun page off => page = 0x120 ∧ off = 0x44

theorem does_winDone {c : Instr} {s : State} {r : Nat} (h : exec c s = .next (winDone s r)) (hr : r < 8) :
    Does c s (WinEnds s r) := ⟨_, h, fget_winDone s hr, rfl, winDone_sameRegs s r⟩

/-! ### One queue changes -/

theorem syncQueues_sameRegs (s : State) : SameRegs s (syncQueues s) fun page off => page = 0x120 ∧ off = 0x48 :=
  (sameRegs_rset s _ (by decide)).trans (sameRegs_rset _ _ (by decide))

/-- From `s` to `u` queue `i` alone changes, to `y`, and with it the counts of QUEUES. -/
structure OnlyQueue (s : State) (i : Nat) (y : Queue) (u : State) : Prop where
  queue : getQueue u i = y
  others : ∀ q, q ≠ i → getQueue u q = getQueue s q
  mem : u.mem = s.mem
  regs : SameRegs s u fun page off => page = 0x120 ∧ off = 0x48

namespace OnlyQueue
variable {s u : State} {i : Nat} {y : Queue}

theorem modQueue (h : OnlyQueue s i y u) (f : Queue → Queue) : OnlyQueue s i (f y) (modQueue u i f) where
  queue := (getQueue_modQueue _ _ _).trans (congrArg f h.queue)
  others q hq := (getQueue_modQueue_ne _ _ _ _ hq).trans (h.others q hq)
  mem := h.mem
  regs := h.regs.then_regs (modQueue_regs _ _ _)

theorem of_modQueue (s : State) (i : Nat) (f : Queue → Queue) :
    OnlyQueue s i (f (getQueue s i)) (Machine.modQueue s i f) :=
  OnlyQueue.modQueue ⟨rfl, fun _ _ => rfl, rfl, .refl _ _⟩ f

theorem syncQueues (h : OnlyQueue s i y u) : OnlyQueue s i y (syncQueues u) where
  queue := h.queue
  others := h.others
  mem := h.mem
  regs := h.regs.trans (syncQueues_sameRegs u)

/-- What a flushed queue held leaves the store. -/
theorem of_flushQueue (s : State) (i : Nat) : OnlyQueue s i { getQueue s i with holds := [] } (flushQueue s i) := by
  have hk : Keeps [.store] s ((getQueue s i).holds.foldl releaseD s) :=
    .foldl (.refl _ s) fun _ _ h => releaseD_keeps h rfl
  have hreleased : OnlyQueue s i (getQueue s i) ((getQueue s i).holds.foldl releaseD s) :=
    ⟨getQueue_congr (hk.queues (by decide)) i, fun q _ => getQueue_congr (hk.queues (by decide)) q, hk.mem (by decide),
      sameRegs_of_regs (hk.regs (by decide))⟩
  exact hreleased.modQueue ({ · with holds := [] })

end OnlyQueue

/-- A window command changes its queue, of which `P` then holds, and ends with result 0. -/
theorem does_queueSet {c : Instr} {s u : State} {i : Nat} {y : Queue} (P : Queue → Prop) (h : exec c s = .next (winDone u 0))
    (hu : OnlyQueue s i y u) (hp : P y) : Does c s fun t =>
      fget t 0x120 F.SHALE0_WIN_CMD_RESULT = 0 ∧ P (getQueue t i) ∧ (∀ q, q ≠ i → getQueue t q = getQueue s q) ∧
        t.mem = s.mem ∧ SameRegs s t fun page off => page = 0x120 ∧ (off = 0x44 ∨ off = 0x48) := by
  have hqueue : getQueue (winDone u 0) i = y := hu.queue
  refine ⟨_, h, fget_winDone u (by decide), hqueue.symm ▸ hp, hu.others, hu.mem, ?_⟩
  exact (hu.regs.mono fun _ _ k => ⟨k.1, .inr k.2⟩).trans ((winDone_sameRegs u 0).mono fun _ _ k => ⟨k.1, .inl k.2⟩)

/-! ### The commands of the window -/

theorem readQueueWords_word (s : State) (q : Nat) {k : Nat} (hk : k < 14) :
    (readQueueWords s q).getD k 0 = wordAt (getQueue s q).words k := by
  have hlen : k < ((List.range 14).map fun i => wordAt (getQueue s q).words i).length := by simpa using hk
  rw [readQueueWords, List.getD_append _ _ _ _ hlen]
  simp [List.getD_eq_getElem?_getD, hk]

/-- A queue as QUEUE_ENABLE leaves it. -/
def queueStarted (y : Queue) : Queue :=
  { y with enabled := true, draining := false, waitRap := (wordAt y.words 0).testBit 13, samples := [] }

/-- A queue as QUEUE_ALLOC leaves it. -/
def queueReset : Queue := { queue0 with words := queueWords0 }

/-- A queue with the words `w`, whose shaper settings are pending. -/
def queueRewritten (w : List Word) (y : Queue) : Queue :=
  { y with words := w, shaper := y.shaper.write (shapeOf w) (forgiveOf w) }

/-- `y` is `x` with the words `w`, whose shaper settings are pending. -/
def Rewritten (w : List Word) (x y : Queue) : Prop :=
  y.words = w ∧ y.shaper.pend = true ∧ y.shaper.newRateC = bitsOf (wordAt w 1) 0 26 ∧
    y.shaper.newRateP = bitsOf (wordAt w 2) 0 26 ∧ y.shaper.newBurstC = bitsOf (wordAt w 3) 0 24 ∧
    y.shaper.newBurstP = bitsOf (wordAt w 4) 0 24 ∧ y.shaper.levC = x.shaper.levC ∧ y.holds = x.holds

theorem queueRewritten_spec (w : List Word) (x : Queue) : Rewritten w x (queueRewritten w x) :=
  ⟨rfl, rfl, rfl, rfl, rfl, rfl, rfl, rfl⟩

/-- A service node is selected. -/
theorem window_node {s : State} (hn : winNode s = true) : Does .queueEnable s (WinEnds s 1) ∧
    Does .queueAlloc s (WinEnds s 1) ∧ Does .queueFree s (WinEnds s 1) ∧ ∀ b, Does (.queueDisable b) s (WinEnds s 1) :=
  ⟨does_winDone (if_pos hn) (by decide), does_winDone (if_pos hn) (by decide), does_winDone (if_pos hn) (by decide),
    fun _ => does_winDone (if_pos hn) (by decide)⟩

section queue
variable {s : State} (hn : winNode s = false)
include hn

/-- No service node is selected: a command goes on past its first check. -/
theorem if_queue {α : Type} {a b : α} : (if winNode s then a else b) = b := if_neg (by simp [hn])

/-- A queue that is not allocated is selected. -/
theorem window_unallocated (ha : (getQueue s (winIndex s)).allocated = false) : Does .winRead s (WinEnds s 5) ∧
    Does .winWrite s (WinEnds s 5) ∧ Does .queueEnable s (WinEnds s 5) ∧ Does .queueFree s (WinEnds s 5) ∧
    ∀ b, Does (.queueDisable b) s (WinEnds s 5) := by
  have hfree : (!(getQueue s (winIndex s)).allocated) = true := by simp [ha]
  exact ⟨does_winDone ((if_queue hn).trans (if_neg (by simp [ha]))) (by decide),
    does_winDone ((if_queue hn).trans (congrArg _ (if_pos hfree))) (by decide),
    does_winDone ((if_queue hn).trans (if_pos hfree)) (by decide),
    does_winDone ((if_queue hn).trans (if_pos hfree)) (by decide),
    fun _ => does_winDone ((if_queue hn).trans (if_pos hfree)) (by decide)⟩

theorem exec_queueAlloc (hf : freeQueue s < 32768) : exec .queueAlloc s =
    .next (winDone (fset (syncQueues (modQueue s (freeQueue s) fun _ => queueReset)) 0x120
      F.SHALE0_WIN_SEL_INDEX (freeQueue s)) 0) :=
  (if_queue hn).trans (if_neg (by omega))

variable (ha : (getQueue s (winIndex s)).allocated = true)
include ha

omit hn in
/-- An allocated queue is selected: a command goes on past its second check. -/
theorem if_allocated {α : Type} {a b : α} : (if !(getQueue s (winIndex s)).allocated then a else b) = b :=
  if_neg (by simp [ha])

theorem exec_winRead :
    exec .winRead s = .next (winDone (putWords s 0x120 20 fun i => (readQueueWords s (winIndex s)).getD i 0) 0) :=
  (if_queue hn).trans (if_pos ha)

/-- WIN_READ shows the fourteen words. -/
theorem winRead_shows : Does .winRead s fun t => fget t 0x120 F.SHALE0_WIN_CMD_RESULT = 0 ∧ t = { s with regs := t.regs } ∧
    (∀ k < 14, rget t 0x120 (0x80 + 4 * k) = wordAt (getQueue s (winIndex s)).words k) ∧
    SameRegs s t fun page off => page = 0x120 ∧ (off = 0x44 ∨ 0x80 ≤ off ∧ off < 0xD0) := by
  refine ⟨_, exec_winRead hn ha, fget_winDone _ (by decide), ?_, fun k hk => ?_, ?_⟩
  · rw [putWords_regs]
    rfl
  · rw [winDone_sameRegs _ 0 _ _ (by omega) (by omega), rget_putWords _ _ _ _ (by decide) (by omega),
      readQueueWords_word _ _ hk]
    exact Nat.mod_eq_of_lt (BitVec.isLt _)
  · exact ((putWords_sameRegs s 0x120 20 _ (by decide)).mono fun _ _ k => ⟨k.1, .inr k.2⟩).trans
      ((winDone_sameRegs _ 0).mono fun _ _ k => ⟨k.1, .inl k.2⟩)

section live
variable (hl : (getQueue s (winIndex s)).live = true)
include hl

theorem exec_queueEnable_live : exec .queueEnable s = .next (winDone s 4) :=
  (if_queue hn).trans ((if_allocated ha).trans (if_pos hl))

theorem exec_queueFree_live : exec .queueFree s = .next (winDone s 4) :=
  (if_queue hn).trans ((if_allocated ha).trans (if_pos hl))

end live

section dead
variable (hl : (getQueue s (winIndex s)).live = false)
include hl

omit hn ha in
theorem if_dead {α : Type} {a b : α} : (if (getQueue s (winIndex s)).live then a else b) = b := if_neg (by simp [hl])

theorem exec_winWrite_bad (hw : (shapeOf (winWords s queueMasks)).ok = false) : exec .winWrite s = .next (winDone s 1) :=
  (if_queue hn).trans (congrArg _
    ((if_allocated ha).trans ((if_dead hl).trans (if_pos (by simp [hw])))))

theorem exec_winWrite_good (hw : (shapeOf (winWords s queueMasks)).ok = true) : exec .winWrite s =
    .next (winDone (modQueue s (winIndex s) (queueRewritten (winWords s queueMasks))) 0) :=
  (if_queue hn).trans (congrArg _
    ((if_allocated ha).trans ((if_dead hl).trans (if_neg (by simp [hw])))))

theorem exec_queueEnable_bad (hb : queueEntryBad s (getQueue s (winIndex s)) = true) :
    exec .queueEnable s = .next (winDone s 1) :=
  (if_queue hn).trans ((if_allocated ha).trans ((if_dead hl).trans (if_pos hb)))

theorem exec_queueEnable_good (hb : queueEntryBad s (getQueue s (winIndex s)) = false) :
    exec .queueEnable s = .next (winDone (syncQueues (modQueue s (winIndex s) queueStarted)) 0) :=
  (if_queue hn).trans ((if_allocated ha).trans ((if_dead hl).trans (if_neg (by simp [hb]))))

theorem exec_queueFree : exec .queueFree s =
    .next (winDone (syncQueues (modQueue s (winIndex s) fun _ => queue0)) 0) :=
  (if_queue hn).trans ((if_allocated ha).trans (if_dead hl))

end dead

theorem exec_queueDisable_flush : exec (.queueDisable true) s = .next (winDone (syncQueues
    (modQueue (flushQueue s (winIndex s)) (winIndex s) ({ · with enabled := false, draining := false }))) 0) :=
  (if_queue hn).trans ((if_allocated ha).trans (if_pos rfl))

theorem exec_queueDisable_drain (he : (getQueue s (winIndex s)).enabled = true) : exec (.queueDisable false) s =
    .next (winDone (syncQueues (modQueue s (winIndex s) ({ · with enabled := false, draining := true }))) 0) :=
  (if_queue hn).trans ((if_allocated ha).trans ((if_neg Bool.false_ne_true).trans (if_pos he)))

theorem exec_queueDisable_idle (he : (getQueue s (winIndex s)).enabled = false) :
    exec (.queueDisable false) s = .next (winDone s 0) :=
  (if_queue hn).trans ((if_allocated ha).trans ((if_neg Bool.false_ne_true).trans (if_neg (by simp [he]))))

end queue

/-! ### Drains that end, and heads that are too old -/

theorem exec_queueDrained_ends {q : Fin 32768} {s : State} (hd : (getQueue s q).draining = true)
    (hh : (getQueue s q).holds = []) : exec (.queueDrained q) s =
    .next (syncQueues (modQueue s q ({ · with draining := false }))) := if_pos (by simp [hd, hh])

theorem exec_queueDrained_waits {q : Fin 32768} {s : State}
    (h : (getQueue s q).draining = false ∨ (getQueue s q).holds ≠ []) : exec (.queueDrained q) s = .next s :=
  if_neg (by rcases h with h | h <;> simp [h])

/-- Of a queue with one datagram the head alone is looked at. -/
theorem exec_ageDrop_one {q : Fin 32768} {s : State} {h : Nat} {d : Dgram} (hh : (getQueue s q).holds = [h])
    (hd : findD s h = some d) : exec (.ageDrop q) s =
    .next (if (getQueue s q).ageMax * 1000000 < s.devtime - d.at_ then dropFrom s q h else s) := by
  change Host.Outcome.next (ageDrops (getQueue s q).holds.length s q) = _
  rw [hh, List.length_singleton, ageDrops, hh]
  dsimp only
  rw [hd]
  rfl

/-- A queue drops the one datagram it holds, and counts it. -/
theorem dropFrom_one {s : State} {q h : Nat} (hh : (getQueue s q).holds = [h]) :
    getQueue (dropFrom s q h) q = { getQueue s q with holds := [], drops := ((getQueue s q).drops + 1) % 2 ^ 32 } ∧
      (dropFrom s q h).mem = s.mem ∧
      fget (dropFrom s q h) 0x120 F.SHALE0_CNT_DROP_COUNT = (fget s 0x120 F.SHALE0_CNT_DROP_COUNT + 1) % 2 ^ 32 ∧
      SameRegs s (dropFrom s q h) fun page off => page = 0x120 ∧ off = 0x4C := by
  refine ⟨?_, (dropFrom_keeps (.refl [.regs, .queues, .store, .perf] s) rfl).mem (by decide), ?_, ?_⟩
  · have hqueues : (dropFrom s q h).queues =
        (modQueue s q fun x => { x with holds := x.holds.erase h, drops := (x.drops + 1) % 2 ^ 32 }).queues := rfl
    rw [getQueue_congr hqueues, getQueue_modQueue, hh, List.erase_cons_head]
  · rw [dropFrom, fget_congr (countEv_regs _ _ _), fget_fadd_self _ _ _ (by decide)]
    rfl
  · exact ((sameRegs_of_regs rfl).trans (sameRegs_rset _ _ (by decide))).then_regs (countEv_regs _ _ _)

/-- Settles O27: each command is the check that fails, or the one change of the selected queue. -/
theorem queueWindow : Obligations.QueueWindow := by
  unfold Obligations.QueueWindow
  refine ⟨fun s => ⟨window_node, window_unallocated, winRead_shows, fun hn ha hl => ?dead, fun hn ha hl => ?live,
    fun hn ha => ?disable, fun hn hf => ?alloc⟩, fun q s => ?queue⟩
  case dead =>
    exact ⟨fun hw => does_winDone (exec_winWrite_bad hn ha hl hw) (by decide),
      fun hw => does_queueSet (Rewritten _ _) (exec_winWrite_good hn ha hl hw) (.of_modQueue s _ _) (queueRewritten_spec _ _),
      fun hb => does_winDone (exec_queueEnable_bad hn ha hl hb) (by decide),
      fun hb => does_queueSet (fun y => y.enabled = true ∧ y.draining = false ∧
          y.words = (getQueue s (winIndex s)).words ∧ y.holds = (getQueue s (winIndex s)).holds)
        (exec_queueEnable_good hn ha hl hb) (OnlyQueue.of_modQueue s _ _).syncQueues ⟨rfl, rfl, rfl, rfl⟩,
      does_queueSet (· = queue0) (exec_queueFree hn ha hl) (OnlyQueue.of_modQueue s _ _).syncQueues rfl⟩
  case live =>
    exact ⟨does_winDone (exec_queueEnable_live hn ha hl) (by decide), does_winDone (exec_queueFree_live hn ha hl) (by decide)⟩
  case disable =>
    exact ⟨does_queueSet (fun y => y.enabled = false ∧ y.draining = false ∧ y.holds = []) (exec_queueDisable_flush hn ha)
        ((OnlyQueue.of_flushQueue s _).modQueue _).syncQueues ⟨rfl, rfl, rfl⟩,
      fun he => does_queueSet (· = { getQueue s (winIndex s) with enabled := false, draining := true })
        (exec_queueDisable_drain hn ha he) (OnlyQueue.of_modQueue s _ _).syncQueues rfl,
      fun he => does_winDone (exec_queueDisable_idle hn ha he) (by decide)⟩
  case alloc =>
    have hu := (OnlyQueue.of_modQueue s (freeQueue s) fun _ => queueReset).syncQueues
    refine ⟨_, exec_queueAlloc hn hf, fget_winDone _ (by decide), ?_, hu.queue, hu.mem, hu.others⟩
    rw [winIndex, (winDone_sameRegs _ 0).fget (by decide) (by decide), fget_fset_self _ _ _ _ _ (by decide)]
    exact Nat.mod_eq_of_lt hf
  case queue =>
    have hu := (OnlyQueue.of_modQueue s q ({ · with draining := false })).syncQueues
    refine ⟨fun hd hh => ⟨_, exec_queueDrained_ends hd hh, hu.queue, rfl, hu.regs⟩,
      fun h => ⟨_, exec_queueDrained_waits h, rfl⟩, fun h d hh hd => ⟨fun hold => ?_, fun hyoung => ?_⟩⟩
    · exact ⟨_, (exec_ageDrop_one hh hd).trans (congrArg _ (if_pos hold)), dropFrom_one hh⟩
    · exact ⟨_, (exec_ageDrop_one hh hd).trans (congrArg _ (if_neg (by omega))), rfl⟩

end Sys2Proof.Machine
end

section
/-! PROOFS. The gate lists of a port: commit, cancel, swap and the entry in force (R229, R231). -/

namespace Sys2Proof.Machine

/-! ### Registers of a gate list -/

/-- Raising a cause writes registers and sources alone. -/
theorem setIrq_update (s : State) (p m : Nat) :
    setIrq s p m = { s with regs := (setIrq s p m).regs, srcs := (setIrq s p m).srcs } := by
  obtain ⟨r, x, h⟩ := setIrq_same s p m
  rw [h]
  rfl

/-- The registers that a command on a gate list may write. -/
def gateRegs (p q off : Nat) : Prop :=
  q = portPage p ∧ (off = 0x118 ∨ off = 0x130 ∨ off = 0x134 ∨ off = F.HDR_IRQ_STATUS_CAUSE.off)

theorem gateRegs_cmd (p : Nat) : gateRegs p (portPage p) 0x118 := ⟨rfl, .inl rfl⟩

theorem gateRegs_irq (p : Nat) : gateRegs p (portPage p) 0x2C := ⟨rfl, .inr (.inr (.inr rfl))⟩

/-- A cause raised on a page leaves the flags of GATE_CMD. -/
theorem fbit_setIrq_cmd (s : State) (p m : Nat) {r : Row} (ho : r.at 0 = 0x118) : fbit (setIrq s p m) p r = fbit s p r :=
  (sameRegs_setIrq s p m).fbit (by omega) fun h => absurd (ho.symm.trans h.2) (by decide)

theorem fbit_fset_apart (s : State) (p : Nat) (r : Row) (v : Nat) {r' : Row} (h : apart r r' = true) :
    fbit (fset s p r v) p r' = fbit s p r' := by
  rw [fbit, fget_fset_apart _ _ _ _ _ _ h, fbit]

/-- A flag that was set is set. -/
theorem fbit_fset_one (s : State) (p : Nat) {r : Row} (h : r.lo + r.width ≤ 32) (hw : 0 < r.width) :
    fbit (fset s p r 1) p r = true := fbit_fsetb_self s p r true 0 h hw

theorem fbit_fset_zero (s : State) (p : Nat) {r : Row} (h : r.lo + r.width ≤ 32) (hw : 0 < r.width) :
    fbit (fset s p r 0) p r = false := fbit_fsetb_self s p r false 0 h hw

/-! ### GATE_COMMIT -/

section commit
variable (s : State) (p : Nat)

/-- An interval or a cycle is in range. -/
def gateRange (n : Nat) : Prop := 32 ≤ n ∧ n ≤ 1000000000

/-- A COMMIT is taken: nothing is pending, and the admin list is in range. -/
def GateTaken : Prop :=
  gatePending s p = false ∧ 1 ≤ fget s (portPage p) F.SHALEP_GATE_LEN_LEN ∧ fget s (portPage p) F.SHALEP_GATE_LEN_LEN ≤ 256 ∧
    gateRange (fget s (portPage p) F.SHALEP_GATE_CYCLE_CYCLE) ∧ ∀ e ∈ adminList s p, gateRange e.2

/-- The check of GATE_COMMIT. -/
def gateRefused : Bool :=
  let len := fget s (portPage p) F.SHALEP_GATE_LEN_LEN
  let range (n : Nat) : Bool := 32 ≤ n && n ≤ 1000000000
  gatePending s p || len == 0 || 256 < len || !range (fget s (portPage p) F.SHALEP_GATE_CYCLE_CYCLE) ||
    !((adminList s p).all fun e => range e.2)

theorem gateRefused_eq_false : gateRefused s p = false ↔ GateTaken s p := by
  simp only [gateRefused, GateTaken, gateRange, Bool.or_eq_false_iff, beq_eq_false_iff_ne, decide_eq_false_iff_not,
    Bool.not_eq_false', Bool.and_eq_true, decide_eq_true_eq, List.all_eq_true, and_assoc, Nat.not_lt, Nat.one_le_iff_ne_zero]

/-- BASE of a gate list, and the earliest start that MIN_LEAD allows. -/
def gateBase : Int := qget s (portPage p) F.SHALEP_GATE_BASE_LO_LO

def gateNeed : Int := ptpTime s + (fget s (portPage p) F.SHALEP_GATE_CTL_MIN_LEAD_US * 1000 : Nat)

/-- START is set, and the list is PENDING. -/
def gateStarts (start : Int) : State :=
  fset (qset s (portPage p) F.SHALEP_GATE_START_LO_LO (start % (2 ^ 64 : Int)).toNat) (portPage p)
    F.SHALEP_GATE_CMD_PENDING 1

/-- The same, of a list that starts late. -/
def gateStartsLate (start : Int) : State :=
  setIrq (fset (gateStarts s p start) (portPage p) F.SHALEP_GATE_CMD_LATE_START 1) (portPage p) 2

theorem gateErr_spec : fbit (gateErr s p) (portPage p) F.SHALEP_GATE_CMD_GATE_ERR = true ∧
    gatePending (gateErr s p) p = gatePending s p ∧
    gateErr s p = { s with regs := (gateErr s p).regs, srcs := (gateErr s p).srcs } ∧
    SameRegs s (gateErr s p) (gateRegs p) := by
  refine ⟨?_, ?_, setIrq_update _ _ _, ((SameRegs.refl s _).then_fset (by decide) (gateRegs_cmd p) 1).then_setIrq
    (gateRegs_irq p) 8⟩
  · rw [gateErr, fbit_setIrq_cmd _ _ _ rfl, fbit_fset_one _ _ (by decide) (by decide)]
  · rw [gatePending, gateErr, fbit_setIrq_cmd _ _ _ rfl, fbit_fset_apart _ _ _ _ (by decide), gatePending]

variable (start : Int)

theorem gateStarts_sameRegs : SameRegs s (gateStarts s p start) (gateRegs p) :=
  (((SameRegs.refl s _).then_rset (by decide) ⟨rfl, .inr (.inl rfl)⟩ _).then_rset (by decide)
    ⟨rfl, .inr (.inr (.inl rfl))⟩ _).then_fset (by decide) (gateRegs_cmd p) 1

theorem gatePending_gateStarts : gatePending (gateStarts s p start) p = true := fbit_fset_one _ _ (by decide) (by decide)

/-- A flag of GATE_CMD leaves START. -/
theorem qget_start_fset_pending (v : Nat) :
    qget (fset (qset s (portPage p) F.SHALEP_GATE_START_LO_LO v) (portPage p) F.SHALEP_GATE_CMD_PENDING 1) (portPage p)
      F.SHALEP_GATE_START_LO_LO = v % 2 ^ 64 :=
  (qget_of_rget (rget_fset_ne _ _ _ _ _ _ _ (regKey_ne (by decide) (by decide) fun h => absurd h.2 (by decide)))
    (rget_fset_ne _ _ _ _ _ _ _ (regKey_ne (by decide) (by decide) fun h => absurd h.2 (by decide)))).trans
    (qget_qset_self _ _ _ _ _)

theorem qget_gateStarts : qget (gateStarts s p start) (portPage p) F.SHALEP_GATE_START_LO_LO =
    (start % (2 ^ 64 : Int)).toNat := by
  rw [gateStarts, qget_start_fset_pending]
  exact Nat.mod_eq_of_lt (twos_lt 64 start)

/-- What GATE_COMMIT makes of START and GATE_CMD. -/
def Started (late : Prop) (t : State) : Prop :=
  gatePending t p = true ∧ qget t (portPage p) F.SHALEP_GATE_START_LO_LO = (start % (2 ^ 64 : Int)).toNat ∧
    (late → fbit t (portPage p) F.SHALEP_GATE_CMD_LATE_START = true) ∧ t = { s with regs := t.regs, srcs := t.srcs } ∧
    SameRegs s t (gateRegs p)

/-- Only registers are written. -/
theorem gateStarts_regs : gateStarts s p start = { s with regs := (gateStarts s p start).regs } := by
  unfold gateStarts
  generalize (start % (2 ^ 64 : Int)).toNat = v
  rfl

theorem gateStarts_spec : Started s p start False (gateStarts s p start) := by
  refine ⟨gatePending_gateStarts s p start, qget_gateStarts s p start, False.elim, ?_, gateStarts_sameRegs s p start⟩
  rw [gateStarts_regs]

theorem gateStartsLate_spec : Started s p start True (gateStartsLate s p start) := by
  have hcmd : SameRegs (gateStarts s p start) (gateStartsLate s p start) fun q off =>
      q = portPage p ∧ (off = 0x118 ∨ off = 0x2C) :=
    ((SameRegs.refl _ _).then_fset (by decide) ⟨rfl, .inl rfl⟩ 1).then_setIrq ⟨rfl, .inr rfl⟩ 2
  refine ⟨?_, ?_, fun _ => ?_, ?_, (gateStarts_sameRegs s p start).trans (hcmd.mono fun q off h => ?_)⟩
  · rw [gatePending, gateStartsLate, fbit_setIrq_cmd _ _ _ rfl, fbit_fset_apart _ _ _ _ (by decide)]
    exact gatePending_gateStarts s p start
  · rw [qget_of_rget (hcmd _ _ (by decide) fun h => absurd h.2 (by decide))
      (hcmd _ _ (by decide) fun h => absurd h.2 (by decide)), qget_gateStarts]
  · rw [gateStartsLate, fbit_setIrq_cmd _ _ _ rfl, fbit_fset_one _ _ (by decide) (by decide)]
  · rw [gateStartsLate, gateStarts_regs]
    exact setIrq_update _ _ _
  · exact ⟨h.1, h.2.elim .inl fun k => .inr (.inr (.inr k))⟩

end commit

/-- The first base plus whole cycles that lies at `need` or after. -/
theorem first_cycle_start {base need start cycle : Int} (hc : 0 < cycle) (hlo : need ≤ start) (hhi : start < need + cycle)
    (hm : (start - base) % cycle = 0) : base + (need - base + cycle - 1) / cycle * cycle = start := by
  obtain ⟨k, hk⟩ := Int.dvd_of_emod_eq_zero hm
  have hdiv : (need - base + cycle - 1) / cycle = k := by
    refine Int.le_antisymm (Int.lt_add_one_iff.1 ((Int.ediv_lt_iff_lt_mul hc).2 ?_)) ((Int.le_ediv_iff_mul_le hc).2 ?_)
    · rw [Int.add_mul, Int.mul_comm k]
      omega
    · rw [Int.mul_comm k]
      omega
  rw [hdiv, Int.mul_comm k, ← hk]
  omega

section exec
variable {p : Fin 8} {s : State}

theorem exec_gateCommit_refused (h : ¬GateTaken s p) : exec (.gateCommit p) s = .next (gateErr s p) :=
  if_pos (Bool.eq_true_of_not_eq_false fun k => h ((gateRefused_eq_false s p).1 k))

theorem exec_gateCommit_onTime (h : GateTaken s p) (hb : gateNeed s p ≤ gateBase s p) :
    exec (.gateCommit p) s = .next (gateStarts s p (gateBase s p)) := by
  have hlate : ¬decide (gateBase s p < gateNeed s p) = true := by simpa using hb
  change execGateCommit p s = _
  unfold execGateCommit
  refine (if_neg (Bool.not_eq_true _ ▸ (gateRefused_eq_false s p).2 h)).trans (congrArg _ ((if_neg hlate).trans ?_))
  exact congrArg (gateStarts s p) (if_neg hlate)

theorem exec_gateCommit_late {start : Int} (h : GateTaken s p) (hb : gateBase s p < gateNeed s p)
    (hlo : gateNeed s p ≤ start) (hhi : start < gateNeed s p + fget s (portPage p) F.SHALEP_GATE_CYCLE_CYCLE)
    (hm : (start - gateBase s p) % fget s (portPage p) F.SHALEP_GATE_CYCLE_CYCLE = 0) :
    exec (.gateCommit p) s = .next (gateStartsLate s p start) := by
  have hlate : decide (gateBase s p < gateNeed s p) = true := decide_eq_true hb
  have hcycle : (0 : Int) < fget s (portPage p) F.SHALEP_GATE_CYCLE_CYCLE := by
    obtain ⟨-, -, -, hc, -⟩ := h
    exact_mod_cast (by decide : 0 < 32).trans_le hc.1
  change execGateCommit p s = _
  unfold execGateCommit
  refine (if_neg (Bool.not_eq_true _ ▸ (gateRefused_eq_false s p).2 h)).trans (congrArg _ ((if_pos hlate).trans ?_))
  exact congrArg (gateStartsLate s p) ((if_pos hlate).trans (first_cycle_start hcycle hlo hhi hm))

end exec

/-! ### GATE_CANCEL, GATE_SWAP and GATE_ENTRY_CHANGE -/

theorem gateCancel_spec (p : Fin 8) (s : State) : Does (.gateCancel p) s fun t =>
    gatePending t p = false ∧ t = { s with regs := t.regs } ∧ SameRegs s t (gateRegs p) :=
  ⟨_, rfl, fbit_fset_zero _ _ (by decide) (by decide), rfl, (SameRegs.refl s _).then_fset (by decide) (gateRegs_cmd p) 0⟩

theorem syncGate_stat (s : State) (p : Nat) : SameRegs s (syncGate s p) fun q off => q = portPage p ∧ off = 0x128 :=
  (((SameRegs.refl s _).then_fset (by decide) ⟨rfl, rfl⟩ _).then_fset (by decide) ⟨rfl, rfl⟩ _).then_fset (by decide)
    ⟨rfl, rfl⟩ _

/-- A port whose admin list has become its oper list. -/
def listSwapped (s : State) (p : Nat) (x : PortNode) : PortNode :=
  { x with
    oper := adminList s p, operStart := (qget s (portPage p) F.SHALEP_GATE_START_LO_LO : Int)
    operCycle := fget s (portPage p) F.SHALEP_GATE_CYCLE_CYCLE }

/-- What GATE_SWAP makes of a list whose start has come. -/
def gateSwapped (s : State) (p : Nat) : State :=
  setIrq (syncGate (fset (modPnode s p (listSwapped s p)) (portPage p) F.SHALEP_GATE_CMD_PENDING 0) p) (portPage p) 4

theorem exec_gateSwap_due {p : Fin 8} {s : State} (hp : gatePending s p = true)
    (ht : (qget s (portPage p) F.SHALEP_GATE_START_LO_LO : Int) ≤ ptpTime s) :
    exec (.gateSwap p) s = .next (gateSwapped s p) := if_pos (by simp [hp, ht])

theorem exec_gateSwap_waits {p : Fin 8} {s : State}
    (h : gatePending s p = false ∨ ptpTime s < (qget s (portPage p) F.SHALEP_GATE_START_LO_LO : Int)) :
    exec (.gateSwap p) s = .next s :=
  if_neg (by rcases h with h | h <;> simp [h])

theorem gateSwapped_spec (s : State) (p : Nat) : gatePending (gateSwapped s p) p = false ∧
    getPnode (gateSwapped s p) p = listSwapped s p (getPnode s p) ∧ (gateSwapped s p).mem = s.mem := by
  refine ⟨?_, (getPnode_congr (setIrq_pnodes _ _ _) p).trans (getPnode_modPnode s p (listSwapped s p)), setIrq_mem _ _ _⟩
  rw [gatePending, gateSwapped, fbit_setIrq_cmd _ _ _ rfl,
    (syncGate_stat _ p).fbit (by decide) fun h => absurd h.2 (by decide)]
  exact fbit_fset_zero _ _ (by decide) (by decide)

/-- GATE_STAT shows the entry in force and its gates. -/
theorem syncGate_shows {s : State} {p : Nat} (h : (getPnode s p).oper ≠ []) :
    let e := entryAt 0 (cutList (getPnode s p).oper (getPnode s p).operCycle) (operOff s p)
    fget (syncGate s p) (portPage p) F.SHALEP_GATE_STAT_ENTRY = e.1 % 256 ∧
      fget (syncGate s p) (portPage p) F.SHALEP_GATE_STAT_OPEN = if gateEn s p then e.2 % 256 else 255 := by
  unfold syncGate
  dsimp only
  rw [if_neg h]
  constructor
  · rw [fget_fset_apart _ _ _ _ _ _ (by decide), fget_fset_apart _ _ _ _ _ _ (by decide),
      fget_fset_self _ _ _ _ _ (by decide)]
    rfl
  · have hen : ∀ a b, gateEn (fset (fset s (portPage p) F.SHALEP_GATE_STAT_ENTRY a) (portPage p)
        F.SHALEP_GATE_STAT_OPER_LEN b) p = gateEn s p := fun a b =>
      (fbit_fset_apart _ _ _ _ (by decide)).trans (fbit_fset_apart _ _ _ _ (by decide))
    rw [fget_fset_self _ _ _ _ _ (by decide), hen]
    split <;> rfl

end Sys2Proof.Machine
end

section
/-! PROOFS. Samples of the queues (R232, R234), and O29. -/

namespace Sys2Proof.Machine

/-! ### Keys of a table -/

theorem mem_tins {α : Type} {q : Nat} {v : α} {t : Tbl α} {kv : Nat × α} (h : kv ∈ tins q v t) : kv = (q, v) ∨ kv ∈ t := by
  induction t with
  | nil => exact .inl (List.mem_singleton.1 h)
  | cons a t ih =>
    unfold tins at h
    split at h
    · exact List.mem_cons.1 h
    · rcases List.mem_cons.1 h with h | h
      · exact .inr (h ▸ List.mem_cons_self)
      · exact (ih h).imp_right (List.mem_cons_of_mem _)

/-- An update lists no key but its own anew. -/
theorem key_of_mem_tput {α : Type} [DecidableEq α] {d : α} {t : Tbl α} {q : Nat} {v : α} {kv : Nat × α}
    (h : kv ∈ tput d t q v) : kv.1 = q ∨ kv ∈ t := by
  unfold tput at h
  dsimp only at h
  split at h
  · exact .inr (List.mem_of_mem_filter h)
  · exact (mem_tins h).imp (congrArg Prod.fst) List.mem_of_mem_filter

/-- Every queue that is not free has a number below 32,768. -/
def QueuesNumbered (s : State) : Prop := ∀ kv ∈ s.queues, kv.1 < 32768

theorem QueuesNumbered.modQueue {s : State} (h : QueuesNumbered s) {q : Nat} (hq : q < 32768) (f : Queue → Queue) :
    QueuesNumbered (modQueue s q f) := fun kv hkv =>
  (key_of_mem_tput hkv).elim (fun e => e ▸ hq) (h kv)

/-! ### The other table is taken -/

/-- The samples of every queue begin anew. -/
def samplesCleared (s : State) : State := s.queues.foldl (fun s kv => modQueue s kv.1 ({ · with samples := [] })) s

theorem samplesCleared_keep (s : State) : Keeps [.queues] s (samplesCleared s) :=
  .foldl (.refl _ s) fun _ _ h => modQueue_keeps h rfl

theorem samplesCleared_numbered {s : State} (h : QueuesNumbered s) : QueuesNumbered (samplesCleared s) :=
  List.foldlRecOn (motive := QueuesNumbered) s.queues _ h fun _ hu kv hkv => hu.modQueue (h kv hkv) _

/-- The table that a tick writes: the other one where SWAP is set. -/
def tableNow (s : State) : Nat :=
  if fbit s 0x120 F.SHALE0_SAMPLE_CTL_SWAP then 1 - fget s 0x120 F.SHALE0_SAMPLE_CTL_ACTIVE
  else fget s 0x120 F.SHALE0_SAMPLE_CTL_ACTIVE

/-- ACTIVE names the table of the tick, and SWAP is clear. -/
def tableTaken (s : State) : State :=
  if fbit s 0x120 F.SHALE0_SAMPLE_CTL_SWAP then
    setIrq (samplesCleared (fset (fset s 0x120 F.SHALE0_SAMPLE_CTL_ACTIVE (1 - fget s 0x120 F.SHALE0_SAMPLE_CTL_ACTIVE)) 0x120
      F.SHALE0_SAMPLE_CTL_SWAP 0)) 0x120 4
  else s

theorem tableTaken_sameRegs (s : State) :
    SameRegs s (tableTaken s) fun page off => page = 0x120 ∧ (off = 0x68 ∨ off = 0x2C) := by
  unfold tableTaken
  split
  · exact ((((SameRegs.refl s _).then_fset (by decide) ⟨rfl, .inl rfl⟩ _).then_fset (by decide) ⟨rfl, .inl rfl⟩ _).then_regs
      ((samplesCleared_keep _).regs (by decide))).then_setIrq ⟨rfl, .inr rfl⟩ 4
  · exact .refl _ _

theorem tableTaken_mem (s : State) : (tableTaken s).mem = s.mem := by
  unfold tableTaken
  split
  · exact (setIrq_mem _ _ _).trans ((samplesCleared_keep _).mem (by decide))
  · rfl

theorem tableTaken_numbered {s : State} (h : QueuesNumbered s) : QueuesNumbered (tableTaken s) := by
  unfold tableTaken
  split
  · unfold QueuesNumbered
    rw [setIrq_queues]
    exact samplesCleared_numbered h
  · exact h

theorem tableTaken_ctl (s : State) : fget (tableTaken s) 0x120 F.SHALE0_SAMPLE_CTL_ACTIVE = tableNow s ∧
    fbit (tableTaken s) 0x120 F.SHALE0_SAMPLE_CTL_SWAP = false := by
  unfold tableTaken tableNow
  split
  · have hctl : ∀ (u : State) (r : Row), r.at 0 = 0x68 →
        fget (setIrq (samplesCleared u) 0x120 4) 0x120 r = fget u 0x120 r := fun u r hr =>
      ((sameRegs_setIrq _ _ _).fget (by omega) fun h => absurd (hr.symm.trans h.2) (by decide)).trans
        (fget_congr ((samplesCleared_keep u).regs (by decide)) _ _ _)
    constructor
    · rw [hctl _ _ rfl, fget_fset_apart _ _ _ _ _ _ (by decide), fget_fset_self _ _ _ _ _ (by decide)]
      exact Nat.mod_eq_of_lt (by change _ < 2; omega)
    · rw [fbit, hctl _ _ rfl]
      exact fbit_fset_zero _ _ (by decide) (by decide)
  · next h => exact ⟨rfl, Bool.not_eq_true _ ▸ h⟩

/-! ### Device memory under a table -/

theorem memRead_memClear (s : State) (a n i : Nat) :
    memRead (memClear s a n) i = if i < a ∨ a + n ≤ i then memRead s i else 0 :=
  (tget_filter_key 0 s.mem (fun k => k < a || a + n ≤ k) i).trans (if_congr (by simp) rfl rfl)

/-- The bytes of an entry. -/
theorem length_entry (old : List Nat) (depth delay : Nat) : ((addSample old depth delay).flatMap (leBytes 2)).length = 8 := by
  unfold addSample
  split <;> rfl

/-- One sample of a queue, in its entry of the table at `base`. -/
def sampleQueue (base : Nat) (s : State) (q : Nat) : State :=
  let s := modQueue s q fun x => { x with samples := addSample x.samples (queueDepth s q) (queueDelay s q) }
  memWriteN s (base + 8 * q) ((getQueue s q).samples.flatMap (leBytes 2))

/-- An entry lies within the table. -/
theorem memRead_sampleQueue {base q a : Nat} (s : State) (hq : q < 32768) (ha : a < base ∨ base + 2 ^ 18 ≤ a) :
    memRead (sampleQueue base s q) a = memRead s a := by
  unfold sampleQueue
  dsimp only
  rw [memRead_memWriteN]
  · rfl
  · rw [getQueue_modQueue, length_entry]
    omega

theorem memRead_foldl_sampleQueue {base a : Nat} (s : State) {l : List Nat} (hl : ∀ q ∈ l, q < 32768)
    (ha : a < base ∨ base + 2 ^ 18 ≤ a) : memRead (l.foldl (sampleQueue base) s) a = memRead s a :=
  List.foldlRecOn (motive := fun u => memRead u a = memRead s a) l _ rfl fun u hu q hq =>
    (memRead_sampleQueue u (hl q hq) ha).trans hu

theorem foldl_sampleQueue_keep (base : Nat) (s : State) (l : List Nat) :
    Keeps [.mem, .queues] s (l.foldl (sampleQueue base) s) :=
  .foldl (.refl _ s) fun _ _ h => memWriteN_keeps (modQueue_keeps h rfl) rfl

/-- Entry `q` of the table at `base` is put back as it stood in `u`. -/
def restoreEntry (base : Nat) (u s : State) (q : Nat) : State := memWriteN s (base + 8 * q) (memReadN u (base + 8 * q) 8)

theorem memRead_restoreEntry (base : Nat) (u s : State) (q a : Nat) : memRead (restoreEntry base u s q) a =
    if base + 8 * q ≤ a ∧ a < base + 8 * q + 8 then memRead u a else memRead s a := by
  have hlen : (memReadN u (base + 8 * q) 8).length = 8 := rfl
  split
  · next h =>
    obtain ⟨i, rfl⟩ := Nat.exists_eq_add_of_le h.1
    have hi : i < (memReadN u (base + 8 * q) 8).length := by omega
    exact (memRead_memWriteN_at s _ _ i hi).trans (by simp [memReadN])
  · next h => exact memRead_memWriteN s _ _ a (by omega)

/-- Entries put back read as before, and nothing else changes. -/
theorem memRead_foldl_restoreEntry (base : Nat) (u s : State) (l : List Nat) (a : Nat) :
    memRead (l.foldl (restoreEntry base u) s) a =
      if ∃ q ∈ l, base + 8 * q ≤ a ∧ a < base + 8 * q + 8 then memRead u a else memRead s a := by
  induction l generalizing s with
  | nil => simp
  | cons q l ih =>
    rw [List.foldl_cons, ih, memRead_restoreEntry]
    simp only [List.exists_mem_cons_iff]
    by_cases htail : ∃ q ∈ l, base + 8 * q ≤ a ∧ a < base + 8 * q + 8
    · rw [if_pos htail, if_pos (.inr htail)]
    · rw [if_neg htail]
      exact if_congr (or_iff_left htail).symm rfl rfl

theorem foldl_restoreEntry_keep (base : Nat) (u s : State) (l : List Nat) :
    Keeps [.mem] s (l.foldl (restoreEntry base u) s) :=
  .foldl (.refl _ s) fun _ _ h => memWriteN_keeps h rfl

/-! ### SAMPLE_TICK -/

/-- Place of the table that ACTIVE names. -/
def tableBase (s : State) : Nat :=
  qget s 0x120 F.SHALE0_SAMPLE_BASE_LO_LO + 2 ^ 18 * fget s 0x120 F.SHALE0_SAMPLE_CTL_ACTIVE

/-- The domains of a table's memory are woken. -/
def tableTouched (s : State) (base : Nat) : State := (groupsOf s base (base + 2 ^ 18)).foldl touchDomain s

/-- SEQ counts, and the table is empty. -/
def tableEmptied (s : State) (base : Nat) : State := memClear (fadd s 0x120 F.SHALE0_SAMPLE_SEQ_COUNT 1) base (2 ^ 18)

theorem fget_tableEmptied_seq (s : State) (base : Nat) : fget (tableEmptied s base) 0x120 F.SHALE0_SAMPLE_SEQ_COUNT =
    (fget s 0x120 F.SHALE0_SAMPLE_SEQ_COUNT + 1) % 2 ^ 32 :=
  (fget_congr (s := fadd s 0x120 F.SHALE0_SAMPLE_SEQ_COUNT 1) rfl _ _ _).trans (fget_fadd_self s 0x120 1 (by decide))

theorem tableTouched_keep (s : State) (base : Nat) : Keeps [.regs, .srcs, .doms] s (tableTouched s base) :=
  .foldl (.refl _ s) fun _ _ h => touchDomain_keeps h rfl

theorem tableTouched_sameRegs (s : State) (base : Nat) : SameRegs s (tableTouched s base) fun page _ => page = 0x10 :=
  SameRegs.foldl (.refl _ _) fun u d _ => touchDomain_sameRegs u d

theorem takeSample_eq (s : State) (failed : List Nat) :
    let base := tableBase (tableTaken s)
    let u := tableTouched (tableTaken s) base
    let v := tableEmptied u base
    takeSample s failed =
      failed.foldl (restoreEntry base u)
        (((v.queues.filter fun kv => kv.2.enabled).map (·.1)).foldl (sampleQueue base) v) := by
  have hzip : ∀ g : Nat → List Byte, failed.zip (failed.map g) = failed.map fun q => (q, g q) := fun g => by
    simpa using List.zip_map' (f := id) (g := g) (l := failed)
  dsimp only
  change List.foldl _ _ (failed.zip (failed.map _)) = _
  rw [hzip, List.foldl_map]
  rfl

/-- The table of a tick lies where its registers say. -/
theorem tableBase_tableTaken (s : State) : tableBase (tableTaken s) =
    qget s 0x120 F.SHALE0_SAMPLE_BASE_LO_LO + 2 ^ 18 * tableNow s := by
  have hregs := tableTaken_sameRegs s
  rw [tableBase, (tableTaken_ctl s).1, qget_of_rget (hregs _ _ (by decide) (by decide)) (hregs _ _ (by decide) (by decide))]

/-- Behind the choice of the table a tick writes SEQ alone of its page. -/
theorem takeSample_regs (s : State) (failed : List Nat) :
    SameRegs (tableTaken s) (takeSample s failed) fun page off => page = 0x10 ∨ page = 0x120 ∧ off = 0x6C := by
  rw [takeSample_eq]
  refine SameRegs.then_regs ?_ (((foldl_restoreEntry_keep _ _ _ _).regs (by decide)).trans
    ((foldl_sampleQueue_keep _ _ _).regs (by decide)))
  exact ((tableTouched_sameRegs _ _).mono fun _ _ h => .inl h).then_fset (by decide) (.inr ⟨rfl, rfl⟩) _

theorem takeSample_seq (s : State) (failed : List Nat) : fget (takeSample s failed) 0x120 F.SHALE0_SAMPLE_SEQ_COUNT =
    (fget s 0x120 F.SHALE0_SAMPLE_SEQ_COUNT + 1) % 2 ^ 32 := by
  rw [takeSample_eq]
  rw [fget_congr ((foldl_restoreEntry_keep _ _ _ _).regs (by decide)), fget_congr ((foldl_sampleQueue_keep _ _ _).regs
    (by decide)), fget_tableEmptied_seq, (tableTouched_sameRegs _ _).fget (by decide) (by decide),
    (tableTaken_sameRegs s).fget (by decide) (by decide)]

theorem takeSample_ctl (s : State) (failed : List Nat) :
    fget (takeSample s failed) 0x120 F.SHALE0_SAMPLE_CTL_ACTIVE = tableNow s ∧
      fbit (takeSample s failed) 0x120 F.SHALE0_SAMPLE_CTL_SWAP = false := by
  have hregs := takeSample_regs s failed
  rw [hregs.fget (by decide) (by decide), hregs.fbit (by decide) (by decide)]
  exact tableTaken_ctl s

theorem tableTouched_mem (s : State) (base a : Nat) : memRead (tableTouched (tableTaken s) base) a = memRead s a :=
  memRead_congr (((tableTouched_keep _ _).mem (by decide)).trans (tableTaken_mem s)) a

section table
variable {s : State} {failed : List Nat}

/-- A tick writes within its table alone. -/
theorem memRead_takeSample_outside (hs : QueuesNumbered s) (hf : ∀ q ∈ failed, q < 32768) {a : Nat}
    (ha : a < tableBase (tableTaken s) ∨ tableBase (tableTaken s) + 2 ^ 18 ≤ a) :
    memRead (takeSample s failed) a = memRead s a := by
  rw [takeSample_eq]
  generalize tableBase (tableTaken s) = base at ha
  have hqueues : (tableEmptied (tableTouched (tableTaken s) base) base).queues = (tableTaken s).queues :=
    (tableTouched_keep _ _).queues (by decide)
  rw [memRead_foldl_restoreEntry, if_neg, memRead_foldl_sampleQueue _ _ ha, tableEmptied, memRead_memClear, if_pos ha]
  · exact tableTouched_mem s base a
  · simp only [hqueues, List.mem_map, List.mem_filter]
    rintro q ⟨kv, ⟨hkv, -⟩, rfl⟩
    exact tableTaken_numbered hs kv hkv
  · rintro ⟨q, hq, hlo, hhi⟩
    have := hf q hq
    omega

/-- The entries of the queues whose writes fail keep their bytes. -/
theorem memReadN_takeSample_failed {q : Nat} (hq : q ∈ failed) :
    memReadN (takeSample s failed) (tableBase (tableTaken s) + 8 * q) 8 =
      memReadN s (tableBase (tableTaken s) + 8 * q) 8 := by
  refine List.map_congr_left fun i hi => ?_
  have hi8 := List.mem_range.1 hi
  rw [takeSample_eq]
  rw [memRead_foldl_restoreEntry, if_pos ⟨q, hq, by omega, by omega⟩, tableTouched_mem]

end table

theorem exec_sampleTick_due {s : State} {failed : List (Fin 32768)} (he : fbit s 0x120 F.SHALE0_SAMPLE_CTL_ENABLE = true)
    (ht : s.devtime % (fget s 0x120 F.SHALE0_SAMPLE_CTL_PERIOD_MS * 1000000) = 0) :
    exec (.sampleTick failed) s = .next (takeSample s (failed.map (·.val))) := if_pos (by simp [he, ht])

theorem exec_sampleTick_between {s : State} {failed : List (Fin 32768)}
    (h : ¬(fbit s 0x120 F.SHALE0_SAMPLE_CTL_ENABLE = true ∧
      s.devtime % (fget s 0x120 F.SHALE0_SAMPLE_CTL_PERIOD_MS * 1000000) = 0)) :
    exec (.sampleTick failed) s = .next s := if_neg (by simpa using h)

/-- Settles O29: a command on a gate list is its check or one change of the list; a tick empties the table that it takes,
writes the entries of enabled queues into it, and puts back those whose writes fail. -/
theorem gatesAndSamples : Obligations.GatesAndSamples := by
  unfold Obligations.GatesAndSamples
  refine ⟨fun p s => ⟨fun h => ?refused, fun h hb => ?onTime, fun start h hb hlo hhi hm => ?late, gateCancel_spec p s,
    fun hp ht => ?swap, fun h => ?waits, fun h => ?entry⟩, fun s failed => ⟨fun h => ?between, fun h hs => ?due, ?swapTables⟩⟩
  case refused => exact ⟨_, exec_gateCommit_refused h, gateErr_spec s p⟩
  case onTime => exact ⟨_, exec_gateCommit_onTime h hb, gateStarts_spec s p _⟩
  case late => exact ⟨_, exec_gateCommit_late h hb hlo hhi hm, gateStartsLate_spec s p start⟩
  case swap =>
    obtain ⟨hpending, hnode, hmem⟩ := gateSwapped_spec s p
    exact ⟨_, exec_gateSwap_due hp ht, hpending, congrArg PortNode.oper hnode, congrArg PortNode.operCycle hnode,
      congrArg PortNode.operStart hnode, hmem⟩
  case waits => exact ⟨_, exec_gateSwap_waits h, rfl⟩
  case entry =>
    obtain ⟨hentry, hopen⟩ := syncGate_shows h
    exact ⟨_, rfl, hentry, hopen, rfl, syncGate_stat s p⟩
  case between => exact ⟨_, exec_sampleTick_between h, rfl⟩
  case due =>
    obtain ⟨hactive, hswap⟩ := takeSample_ctl s (failed.map (·.val))
    refine ⟨_, exec_sampleTick_due h.1 h.2, takeSample_seq s _, hactive, hswap, fun q hq => ?_, fun a ha => ?_⟩
    · have hkept := memReadN_takeSample_failed (s := s) (List.mem_map_of_mem (f := Fin.val) hq)
      rw [tableBase_tableTaken] at hkept
      exact hkept
    · refine memRead_takeSample_outside hs ?_ (tableBase_tableTaken s ▸ ha)
      simp only [List.mem_map]
      rintro _ ⟨q, -, rfl⟩
      exact q.isLt
  case swapTables => exact ⟨_, rfl, fbit_fset_one _ _ (by decide) (by decide), rfl, sameRegs_rset s _ (by decide)⟩

end Sys2Proof.Machine
end
